-- ==== Sys2Proof/Word.lean ====
section
/-!
DEFINITION. The words of the device and the plainest arithmetic over them: bytes, 32-bit registers, little-endian values
(R20), serial-number comparison (R47), and the smallest list helpers the rest of the model uses.
-/
namespace Sys2Proof

/-- A byte. -/
abbrev Byte := BitVec 8
/-- A 32-bit register word (R25). -/
abbrev Word := BitVec 32
/-- A 64-bit word. -/
abbrev DWord := BitVec 64
/-- A string of bytes: a packet, an operand, a record. -/
abbrev Bytes := List Byte
/-- A function's seat, 0 to 64 (R363, R497). -/
abbrev Seat := Fin 65

/-- The little-endian value of a string of bytes (R20). -/
def leNat : Bytes → Nat
  | [] => 0
  | b :: bs => b.toNat + 256 * leNat bs

/-- `n` little-endian bytes of a value (R20). -/
def leBytes : Nat → Nat → Bytes
  | 0, _ => []
  | n + 1, v => BitVec.ofNat 8 v :: leBytes n (v / 256)

/-- Bytes `off` to `off + n - 1` of a string, read little-endian; bytes beyond its end read 0. -/
def field (bs : Bytes) (off n : Nat) : Nat := leNat ((bs.drop off).take n)

/-- Bytes `off` to `off + n - 1` of a string. -/
def slice (bs : Bytes) (off n : Nat) : Bytes := (bs.drop off).take n

/-- `n` zero bytes. -/
def zeros (n : Nat) : Bytes := List.replicate n 0

/-- A string padded with zero bytes to `n` bytes. -/
def padTo (n : Nat) (bs : Bytes) : Bytes := bs ++ zeros (n - bs.length)

/-- Bit `i` of a value. -/
def bitOf (v i : Nat) : Bool := v.testBit i

/-- Ceiling division. -/
def cdiv (a b : Nat) : Nat := (a + b - 1) / b

/-- `a` rounded up to a multiple of `m`. -/
def roundUp (a m : Nat) : Nat := cdiv a m * m

/-- Measure `a` is later than measure `b` (R47): (a - b) mod 2^32, read as a signed value, is positive. -/
def later (a b : Nat) : Bool :=
  let d := (a + 2 ^ 32 - b % 2 ^ 32) % 2 ^ 32
  decide (0 < d ∧ d < 2 ^ 31)

/-- The measure `d` after measure `a`, modulo 2^32 (R46). -/
def measureAdd (a d : Nat) : Nat := (a + d) % 2 ^ 32

/-- Two's complement of `n` bits, read signed. -/
def signed (n v : Nat) : Int := if v < 2 ^ (n - 1) then (v : Int) else (v : Int) - 2 ^ n

/-- The `n`-bit two's complement code of an integer. -/
def unsign (n : Nat) (v : Int) : Nat := (v % (2 ^ n : Int)).toNat

/-- The first element of a list that satisfies `p`, replaced by `f` of it. -/
def updFirst {α : Type} (p : α → Bool) (f : α → α) : List α → List α
  | [] => []
  | x :: xs => if p x then f x :: xs else x :: updFirst p f xs

/-- Every element of a list that satisfies `p`, replaced by `f` of it. -/
def updAll {α : Type} (p : α → Bool) (f : α → α) (l : List α) : List α :=
  l.map (fun x => if p x then f x else x)

/-- Element `i` of a list replaced by `f` of it. -/
def updAt {α : Type} (i : Nat) (f : α → α) : List α → List α
  | [] => []
  | x :: xs => match i with
    | 0 => f x :: xs
    | j + 1 => x :: updAt j f xs

/-- The sum of a list. -/
def sumN (l : List Nat) : Nat := l.foldl (· + ·) 0

/-- The population count of the low `n` bits of a value. -/
def popcount : Nat → Nat → Nat
  | 0, _ => 0
  | n + 1, v => v % 2 + popcount n (v / 2)

/-- The indices below `n` of the bits set in `v`, in ascending order. -/
def setBits (n v : Nat) : List Nat := (List.range n).filter (fun i => v.testBit i)

end Sys2Proof
end

