-- ==== Sys2Proof/Syntax.lean ====
section
/-!
DEFINITION. The commands of the block.
-/
namespace Sys2Proof

/-- The three sources of GPIO writes (R730, R743). -/
inductive PinSrc where
  | mgc | conductors | host
  deriving DecidableEq, Repr

/-- The commands of a transfer of the flash bus (R708). -/
inductive SpmCmd where
  | readSfdp | readId | readStatus | writeEnable | read | pageProgram | erase4k | erase64k | suspend | resume | reset | octalEntry
  deriving DecidableEq, Repr

/-- The memory an SRAM double-bit error lies in (R837): an engine's storage (0 query bank, 1 table store, 2 slab buffer,
3 accumulator memory), the table cache, the candidate pool or landing buffer with the candidate concerned, the query store, a voice
context, a coda memory, the intake storage, each with the command concerned, or a memory of control state (staging buffer, CMEM,
scratch, descriptor memory, descriptor table, replay-window cache). -/
inductive Sram where
  | engine (e : Fin 64) (storage : Fin 4)
  | tableCache
  | candidate (cid index : Nat)
  | queryStore (cid : Nat)
  | voice (cid : Nat)
  | coda (cid : Nat)
  | intake (cid : Nat)
  | control
  deriving DecidableEq, Repr

/-- The tags a function enables for its reads (R358, R361). -/
inductive TagBits where
  | eight | ten | fourteen
  deriving DecidableEq, Repr

/-- The completion timeout a function is programmed with (R398): the default, or a part of range A or of range B. -/
inductive Timeout where
  | standard | a1 | a2 | b1 | b2
  deriving DecidableEq, Repr

/-- What the host programs in a function's Device Control registers (R358 to R361, R398): Max Payload Size 128 × 2^n B, Max Read Request Size
128 × 2^n B, Enable Relaxed Ordering, the tags, Completion Timeout Value and Disable. -/
structure DeviceControl where
  maxPayload : Fin 3
  maxRead : Fin 6
  relaxed : Bool
  tags : TagBits
  timeout : Timeout
  timeoutOff : Bool
  deriving DecidableEq, Repr

/-- A function whose host sets Bus Master Enable, with what stands in its Device Control registers by then. -/
structure EnabledFn where
  seat : Seat
  control : DeviceControl
  deriving DecidableEq, Repr

/-- What a host write carries: its first 32-bit word, and the further words of a wider write in ascending order (R27). -/
structure HostData where
  first : Word
  more : List Word := []
  deriving DecidableEq, Repr

/-- An edge of DOWNBEAT_IN: its kind, and its instant. -/
structure DownbeatIn where
  falling : Bool
  instant : Nat
  deriving DecidableEq, Repr

/-- The fields of configuration space that R358, R363, R365, R366 and R398 name. `capability` and `extended` are the entries of the two lists, by
their place. -/
inductive ConfigField where
  | vendorId | deviceId | classCode | revisionId | subsystemVendorId | subsystemId | headerType | interruptPin
  | busMaster | maxPayload | maxRead | relaxed | timeoutRanges | timeoutOffSupported | timeout | timeoutOff
  | msixVectors | msixEnable | functionMask | powerState
  | totalVfs | firstVfOffset | vfStride | vfDeviceId | vfEnable | pageSizes | serialNumber
  | internalError
  | barSize (bar : Fin 3)
  | capability (place : Nat)
  | extended (place : Nat)
  | vsecHeader | vsecWord
  deriving DecidableEq, Repr

/-- A read by the host: bytes of BAR0, a 32-bit word of BAR2 or BAR4 (R369, R370), or a field of configuration space. -/
inductive HostRead where
  | bar0 (off : BitVec 24) (bytes : Nat)
  | bar2 (word : BitVec 10)
  | bar4 (word : BitVec 10)
  | config (field : ConfigField)
  deriving DecidableEq, Repr

/-- The read of a meter's two words (R536): the seat's, or for 65 the module's. -/
def HostRead.meter (k : Fin 66) : HostRead := .bar0 (if k.val = 65 then 0x8034 else BitVec.ofNat 24 (0x8300 + 8 * k.val)) 8

/-- A command of the block: one constructor per row of the command table. `t` is the instant of an event in units of 1/768 ns (an instant that has
passed is the present), `cid` the number intake gave a fetched command, `rid` that of a granule request, `fn` a function by its seat. -/
inductive Instr where
  /-- REGISTER_WRITE (R30), of one word or of more (R27). -/
  | registerWrite (fn : Seat) (word : BitVec 22) (v : HostData)
  /-- MALFORMED_ACCESS (R27). -/
  | malformedAccess (fn : Seat)
  /-- METER_READ (R536), and every other read by the host (R27, R365; log entry 85). -/
  | meterRead (fn : Seat) (what : HostRead)
  /-- DOWNBEAT (R39). -/
  | downbeat
  /-- DOWNBEAT_EDGE (R41). -/
  | downbeatEdge (t : DownbeatIn)
  /-- FLYWHEEL_DOWNBEAT (R43). -/
  | flywheelDownbeat
  /-- PLAN_FREEZE (R79). -/
  | planFreeze (t : Nat)
  /-- ADMISSION_WINDOW_END (R795). -/
  | admissionWindowEnd
  /-- STREAM_START (R335). -/
  | streamStart (header : List Byte) (body gather : List DWord)
  /-- STAGING_SCAN_END (R345). -/
  | stagingScanEnd
  /-- TILE_DEAL (R338). -/
  | tileDeal (queue : Fin 32) (copy : Nat)
  /-- TILE_START (R202). -/
  | tileStart (engine : Fin 64) (slot : Fin 2)
  /-- OUTPUT_TILE_DRAIN (R204). -/
  | outputTileDrain (engine : Fin 64)
  /-- DRAIN_PAIR (R291). -/
  | drainPair (cluster : Fin 8)
  /-- ENGINE_FAULT (R88). -/
  | engineFault (engine : Fin 64) (cause : Fin 5)
  /-- RERANK_PROTECTION_POINT (R81). -/
  | rerankProtectionPoint
  /-- CODA_FINISH (R294). -/
  | codaFinish (t : Nat)
  /-- BARRIER (R354). -/
  | barrier (t : Nat)
  /-- GRANULE_LAND (R271). -/
  | granuleLand (rid t : Nat)
  /-- VOICE_SLICE_EXPIRE (R268). -/
  | voiceSliceExpire (unit : Fin 16) (t : Nat)
  /-- FOREGROUND_END (R82). -/
  | foregroundEnd
  /-- POSTING_RESERVE_END (R390). -/
  | postingReserveEnd
  /-- COAL_TIMER (R390). -/
  | coalTimer (fn : Seat) (queue : Fin 8) (t : Nat)
  /-- SLAB_OP_START (R482). -/
  | slabOpStart (t : Nat)
  /-- PLACE (R479). -/
  | place (slot : Fin 16) (t : Nat)
  /-- MARK (R479). -/
  | mark (slot : Fin 16) (t : Nat)
  /-- MOVE (R479). -/
  | move (slot : Fin 16) (t : Nat)
  /-- TRIM (R479). -/
  | trim (slot : Fin 16) (t : Nat)
  /-- SETTLED_COMPLETION (R476). -/
  | settledCompletion (cid t : Nat)
  /-- GDDR_READ_RETURN (R559). -/
  | gddrReadReturn (system : Bool) (rid : Nat) (crc : Fin 5) (ecc : Fin 3) (t : Nat)
  /-- PER_BANK_REFRESH (R564). -/
  | perBankRefresh (channel : Fin 24) (bank : Fin 16) (postpone : Bool)
  /-- ALL_BANK_REFRESH (R565). -/
  | allBankRefresh (channel : Fin 24) (t : Nat)
  /-- SCRUB (R561). -/
  | scrub (channel : Fin 24) (granule : Nat) (crc : Fin 5) (ecc : Fin 3) (t : Nat)
  /-- RETRAIN_STEP (R567). -/
  | retrainStep (channel : Fin 24) (ok : Bool) (t : Nat)
  /-- CHANNEL_FAULT (R563). -/
  | channelFault (channel : Fin 24) (device : Fin 2)
  /-- RELAY_END (R573). -/
  | relayEnd (t : Nat)
  /-- SQ_TAIL_DOORBELL (R383). -/
  | sqTailDoorbell (fn : Seat) (queue : Fin 8) (wide : Bool) (v : Word) (t : Nat)
  /-- CQ_HEAD_DOORBELL (R380). -/
  | cqHeadDoorbell (fn : Seat) (queue : Fin 8) (wide : Bool) (v : Word) (t : Nat)
  /-- PACKET_FETCH (R376). -/
  | packetFetch (fn : Seat) (queue : Fin 8) (length t : Nat)
  /-- PACKET_READ_COMPLETE (R406). -/
  | packetReadComplete (fn : Seat) (queue : Fin 8) (ok : Bool) (packet : List Byte) (t : Nat)
  /-- OPERAND_READ_COMPLETE (R408). -/
  | operandReadComplete (cid : Nat) (ok : Bool) (operands table : List Byte) (t : Nat)
  /-- SBQ_ENABLE (R377). -/
  | sbqEnable (fn : Seat) (queue : Fin 8) (sizeLog2 : BitVec 5) (cpq : Fin 8)
  /-- SBQ_DELETE (R378). -/
  | sbqDelete (fn : Seat) (queue : Fin 8) (sizeLog2 : BitVec 5) (cpq : Fin 8)
  /-- CPQ_ENABLE (R377). -/
  | cpqEnable (fn : Seat) (queue : Fin 8) (sizeLog2 : BitVec 5) (vector : Fin 16) (intEn : Bool)
  /-- CPQ_DELETE (R379). -/
  | cpqDelete (fn : Seat) (queue : Fin 8) (sizeLog2 : BitVec 5) (vector : Fin 16) (intEn : Bool)
  /-- MSIX_UNMASK (R391). -/
  | msixUnmask (fn : Seat) (vector : Option (Fin 16))
  /-- FLR (R392). -/
  | flr (fn : Seat)
  /-- VF_ENABLE_CLEAR (R392). -/
  | vfEnableClear (port : Fin 2)
  /-- HOT_RESET (R392). -/
  | hotReset (port : Fin 2)
  /-- DL_DOWN (R392). -/
  | dlDown (port : Fin 2)
  /-- PERST_ASSERT (R773). -/
  | perstAssert (port : Fin 2)
  /-- BUS_MASTER_DISABLE (R394). -/
  | busMasterDisable (fn : Seat)
  /-- BUS_MASTER_ENABLE (R287), with what the host has programmed in the Device Control registers by then (log entry 85). -/
  | busMasterEnable (fn : EnabledFn)
  /-- D3HOT_ENTRY (R399). -/
  | d3hotEntry (fn : Seat)
  /-- LINK_RETRAIN (R358). -/
  | linkRetrain (port : Fin 2) (width speed : Nat) (flit : Bool)
  /-- FAR_READ_COMPLETE (R278). -/
  | farReadComplete (rid : Nat) (ok : Bool) (t : Nat)
  /-- PING (R413). -/
  | ping (cid : Nat)
  /-- IDENTIFY (R426). -/
  | identify (cid : Nat)
  /-- CLAIM (R515). -/
  | claim (cid : Nat)
  /-- RELEASE (R525). -/
  | release (cid : Nat)
  /-- HANDOVER (R526). -/
  | handover (cid : Nat)
  /-- SEARCH (R415). -/
  | search (cid : Nat)
  /-- SEARCH_FUSED (R306). -/
  | searchFused (cid : Nat)
  /-- GET_BY_ID (R472). -/
  | getById (cid : Nat)
  /-- STATS (R312). -/
  | stats (cid : Nat)
  /-- INSERT (R465). -/
  | insert (cid : Nat)
  /-- DELETE (R465). -/
  | delete (cid : Nat)
  /-- UPSERT (R465). -/
  | upsert (cid : Nat)
  /-- SETTLE (R477). -/
  | settle (cid : Nat)
  /-- SHELF_CREATE (R107). -/
  | shelfCreate (cid : Nat)
  /-- SHELF_DROP (R147). -/
  | shelfDrop (cid : Nat)
  /-- SHELF_GRANT (R509). -/
  | shelfGrant (cid : Nat)
  /-- CONFIG_READ (R427). -/
  | configRead (cid : Nat)
  /-- CONFIG_WRITE (R427). -/
  | configWrite (cid : Nat)
  /-- MEASURE_CONFIG (R49). -/
  | measureConfig (cid : Nat)
  /-- FW_STAGE (R691). -/
  | fwStage (cid : Nat)
  /-- FW_STAGE_VERIFY (R692). -/
  | fwStageVerify (cid t : Nat)
  /-- FW_QUERY (R699). -/
  | fwQuery (cid : Nat)
  /-- TELEMETRY_READ (R827). -/
  | telemetryRead (cid : Nat)
  /-- FLUSH_QUEUE (R453). -/
  | flushQueue (cid : Nat)
  /-- WEAVE_ADMIN_FORM (R651). -/
  | weaveAdminForm (cid : Nat)
  /-- WEAVE_ADMIN_ADMIT (R650). -/
  | weaveAdminAdmit (cid : Nat)
  /-- WEAVE_ADMIN_EXCLUDE (R650). -/
  | weaveAdminExclude (cid : Nat)
  /-- WEAVE_ADMIN_REBUILD (R648). -/
  | weaveAdminRebuild (cid : Nat)
  /-- WEAVE_ADMIN_REMOTE (R650). -/
  | weaveAdminRemote (cid : Nat)
  /-- WEAVE_ADMIN_PROMOTE (R650). -/
  | weaveAdminPromote (cid : Nat)
  /-- WEAVE_ADMIN_STATUS (R650). -/
  | weaveAdminStatus (cid : Nat)
  /-- MAP_OUT (R214). -/
  | mapOut (cid : Nat)
  /-- MAP_IN (R214). -/
  | mapIn (cid : Nat)
  /-- TRANSFER_GRANT (R434). -/
  | transferGrant
  /-- INSERT_DATA_COMPLETE (R438). -/
  | insertDataComplete (cid : Nat) (ok : Bool) (data : List Byte) (t : Nat)
  /-- STAGING_WAIT_EXPIRE (R463). -/
  | stagingWaitExpire (cid : Nat)
  /-- LEASE_EXPIRY (R522). -/
  | leaseExpiry (t : Nat)
  /-- OFFER_LAPSE (R527). -/
  | offerLapse (t : Nat)
  /-- ERST (R216). -/
  | erst (engine : Fin 64)
  /-- STRST (R599). -/
  | strst (strand : Fin 64)
  /-- WARM_RESET (R777). -/
  | warmReset (fn : Seat) (v : Word)
  /-- WRST_READY (R778). -/
  | wrstReady (trained : BitVec 24) (t : Nat)
  /-- STRAND_TRAINED (R591): each STAMP exchange has its round trip and the peer's hold time, in ps (R594). -/
  | strandTrained (strand : Fin 64) (lanes : BitVec 5) (failed : Fin 8) (version : BitVec 8) (serial : DWord) (peerStrand : Fin 64) (addr : BitVec 12)
    (stamps : List (Nat × Nat)) (slips t : Nat)
  /-- LANE_LOCK_LOSS (R595). -/
  | laneLockLoss (strand : Fin 64) (lane : Fin 5) (t : Nat)
  /-- DATA_BLOCK (R596). -/
  | dataBlock (strand : Fin 64) (seq : BitVec 16) (vc : Fin 4) (payload : BitVec 256) (t : Nat)
  /-- ACK (R596). -/
  | ack (strand : Fin 64) (seq : BitVec 16)
  /-- NAK (R596). -/
  | nak (strand : Fin 64) (seq : BitVec 16)
  /-- REPLAY (R596). -/
  | replay (strand : Fin 64) (seq : BitVec 16)
  /-- CREDIT (R597). -/
  | credit (strand : Fin 64) (vc0 vc1 vc2 vc3 : Byte)
  /-- BEACON_SEND (R610). -/
  | beaconSend
  /-- BEACON (R610). -/
  | beacon (strand : Fin 64) (measure : Word) (lead : BitVec 16) (period : BitVec 31) (settings : Bool) (records epoch : BitVec 16) (t : Nat)
  /-- SETTINGS (R613). -/
  | settings (strand : Fin 64)
  /-- GENERATIONS (R614). -/
  | generations (strand : Fin 64)
  /-- LOSS_REPORT (R643). -/
  | lossReport (strand : Fin 64)
  /-- ADOPT (R643). -/
  | adopt (strand : Fin 64)
  /-- REJOIN (R642). -/
  | rejoin (strand : Fin 64)
  /-- REST (R652). -/
  | rest (strand : Fin 64)
  /-- FORWARD (R620). -/
  | forward (strand : Fin 64)
  /-- FORWARD_ACK (R620). -/
  | forwardAck (strand : Fin 64)
  /-- PLAN (R623). -/
  | plan (strand : Fin 64)
  /-- PREPARE (R624). -/
  | prepare (strand : Fin 64)
  /-- PREPARE_REPLY (R624). -/
  | prepareReply (strand : Fin 64)
  /-- COMMIT (R624). -/
  | commit (strand : Fin 64)
  /-- APPLIED (R624). -/
  | applied (strand : Fin 64)
  /-- SETTLED (R629). -/
  | settled (strand : Fin 64)
  /-- POINT_READ (R627). -/
  | pointRead (strand : Fin 64)
  /-- POINT_REPLY (R627). -/
  | pointReply (strand : Fin 64)
  /-- REMOTE (R606). -/
  | remote (strand : Fin 64)
  /-- REMOTE_REPLY (R650). -/
  | remoteReply (strand : Fin 64)
  /-- ADMIN (R650). -/
  | admin (strand : Fin 64)
  /-- ADMIN_ACK (R650). -/
  | adminAck (strand : Fin 64)
  /-- CAPACITY_REPORT_SEND (R621). -/
  | capacityReportSend
  /-- CAPACITY (R621). -/
  | capacity (strand : Fin 64)
  /-- VALUE_LIST (R630). -/
  | valueList (strand : Fin 64)
  /-- TIE_REQUEST (R631). -/
  | tieRequest (strand : Fin 64)
  /-- TIE_LIST (R631). -/
  | tieList (strand : Fin 64)
  /-- KEY (R632). -/
  | key (strand : Fin 64)
  /-- FINAL_LIST (R635). -/
  | finalList (strand : Fin 64)
  /-- STATS_PARTIAL (R638). -/
  | statsPartial (strand : Fin 64)
  /-- REBUILD_DATA (R648). -/
  | rebuildData (strand : Fin 64)
  /-- REBUILD_END (R649). -/
  | rebuildEnd (strand : Fin 64)
  /-- PLAIT_WAIT_EXPIRE (R636). -/
  | plaitWaitExpire (t : Nat)
  /-- MEMBER_LOST (R641). -/
  | memberLost (addr : BitVec 12)
  /-- STRAND_TACET (R760). -/
  | strandTacet (strand : Fin 64) (t : Nat)
  /-- REST_WAKE (R764). -/
  | restWake (t : Nat)
  /-- REST_EXIT_READY (R765). -/
  | restExitReady (failed : BitVec 24) (t : Nat)
  /-- THERMAL_GATE (R771). -/
  | thermalGate (tj : Nat)
  /-- THERMAL_TRIP (R772). -/
  | thermalTrip (tj : Nat)
  /-- AUX_POWER_GOOD (R786). -/
  | auxPowerGood (auxMv t : Nat)
  /-- BLEED_END (R666). -/
  | bleedEnd (bankMv t : Nat)
  /-- CORE_START (R788). -/
  | coreStart (split : Bool) (t : Nat)
  /-- CORE_READY (R788). -/
  | coreReady (trained : BitVec 24) (t : Nat)
  /-- COLD_DATA_CHECK (R800). -/
  | coldDataCheck
  /-- MRST (R775). -/
  | mrst (t : Nat)
  /-- AON_PLL_UNLOCK (R756). -/
  | aonPllUnlock (t : Nat)
  /-- CORE_PLL_UNLOCK (R756). -/
  | corePllUnlock (pll : Fin 16)
  /-- WATCHDOG (R796). -/
  | watchdog (conductor : Fin 4)
  /-- SRAM_DOUBLE_BIT (R837). -/
  | sramDoubleBit (place : Sram)
  /-- FATAL_MRST_TIMER (R842). -/
  | fatalMrstTimer (t : Nat)
  /-- TRIM_UPDATE (R832). -/
  | trimUpdate (measured estimated : Nat)
  /-- GAUGE_SAMPLE (R667). -/
  | gaugeSample (bankMv : Nat) (charge : Int) (overflow : Bool) (busMv inputMa inputMw energyMj auxMv tj memC inletC : Nat) (temps : List Nat) (t : Nat)
  /-- EFUSE_TRIP (R661). -/
  | efuseTrip (ma mv durNs t : Nat)
  /-- BUS_UNDERVOLTAGE (R671). -/
  | busUndervoltage (mv durNs t : Nat)
  /-- CONVERTER_FAULT (R671). -/
  | converterFault (t : Nat)
  /-- PWR_EN_LOW (R673). -/
  | pwrEnLow (t : Nat)
  /-- PWR_EN_HIGH (R682). -/
  | pwrEnHigh (mv t : Nat)
  /-- FERMATA_EXIT (R677). -/
  | fermataExit (t : Nat)
  /-- AUX_DIP (R675). -/
  | auxDip (mv durNs t : Nat)
  /-- EJECT (R683). -/
  | eject
  /-- TC_IDENT (R687). -/
  | tcIdent (body : List Byte) (crc : Byte) (t : Nat)
  /-- TC_STATUS (R687). -/
  | tcStatus (body : List Byte) (crc : Byte) (t : Nat)
  /-- TC_TELEM (R700). -/
  | tcTelem (body : List Byte) (crc : Byte) (t : Nat)
  /-- TC_EFUSE_REARM (R664). -/
  | tcEfuseRearm (body : List Byte) (crc : Byte) (t : Nat)
  /-- TC_FW_OPEN (R695). -/
  | tcFwOpen (body : List Byte) (crc : Byte) (t : Nat)
  /-- TC_FW_WRITE (R726). -/
  | tcFwWrite (body : List Byte) (crc : Byte) (t : Nat)
  /-- TC_FW_CLOSE (R695). -/
  | tcFwClose (body : List Byte) (crc : Byte) (t : Nat)
  /-- TC_FW_READ (R687). -/
  | tcFwRead (body : List Byte) (crc : Byte) (t : Nat)
  /-- TC_LOG_READ (R687). -/
  | tcLogRead (body : List Byte) (crc : Byte) (t : Nat)
  /-- TC_FAULT_READ (R687). -/
  | tcFaultRead (body : List Byte) (crc : Byte) (t : Nat)
  /-- FW_CHUNK_PROGRAMMED (R725). -/
  | fwChunkProgrammed (t : Nat)
  /-- TC_FW_SESSION_TIMEOUT (R695). -/
  | tcFwSessionTimeout (t : Nat)
  /-- SPS_TRANSFER_CUT (R724). -/
  | spsTransferCut (bytes : List Byte) (t : Nat)
  /-- XIP_READ (R714). -/
  | xipRead (addr : Word) (waitNs t : Nat)
  /-- XIP_WRITE (R712). -/
  | xipWrite (addr : Word)
  /-- XIP_RESUME (R714). -/
  | xipResume (t : Nat)
  /-- FLASH_OP_DONE (R715). -/
  | flashOpDone (t : Nat)
  /-- SPM_COMMAND_TRANSFER (R713). -/
  | spmCommandTransfer (command : SpmCmd) (addr : Word) (data : List Byte) (t : Nat)
  /-- GPIO_SET (R729). -/
  | gpioSet (source : PinSrc) (fn : Seat) (bits : BitVec 24)
  /-- GPIO_CLR (R729). -/
  | gpioClr (source : PinSrc) (fn : Seat) (bits : BitVec 24)
  /-- GPIO_TOG (R729). -/
  | gpioTog (source : PinSrc) (fn : Seat) (bits : BitVec 24)
  /-- GPIO_LOCK (R743). -/
  | gpioLock (source : PinSrc) (fn : Seat) (v : Word)
  /-- PATTERN_MATCH (R738). -/
  | patternMatch (mask levels : BitVec 24) (samples : Nat)
  /-- ECHO (R814). -/
  | echo
  /-- CORE_STATE (R814). -/
  | coreState
  /-- LITMUS (R814). -/
  | litmus (n00 n01 n10 n11 : Word)
  /-- MAILBOX_REPLY (R813). -/
  | mailboxReply
  /-- AUX_POWER_LOSS (R758). -/
  | auxPowerLoss (t : Nat)
  /-- TRAY_BUS_RETURN (R657). -/
  | trayBusReturn (mv t : Nat)
  /-- EJECT_CLOSE (R682). -/
  | ejectClose
  /-- D3HOT_EXIT (R399). -/
  | d3hotExit (fn : Seat)
  /-- PERST_DEASSERT (R788). -/
  | perstDeassert (port : Fin 2)
  /-- DATAPATH_PARITY_ERROR (R842). -/
  | datapathParityError
  /-- ACK_TIMER (R596). -/
  | ackTimer (strand : Fin 64) (t : Nat)
  /-- CREDIT_RETURN_TIMER (R597). -/
  | creditReturnTimer (strand : Fin 64)
  /-- TELEMETRY_SAMPLE (R98). -/
  | telemetrySample (t : Nat)
  /-- CHANNEL_TRAINING_END (R849). -/
  | channelTrainingEnd (channel : Fin 24) (ok : Bool) (t : Nat)
  /-- TAP_TCK_EDGE (R871). -/
  | tapTckEdge (rising tms tdi : Bool)
  /-- TRST_ASSERT (R873). -/
  | trstAssert (low : Bool)
  /-- SPS_UNKNOWN_COMMAND (R722). -/
  | spsUnknownCommand (code : Byte) (body : List Byte) (crc : Byte) (t : Nat)
  deriving DecidableEq, Repr

end Sys2Proof
end

