-- ==== Sys2Proof/Decode.lean ====
section
/-!
DEFINITION. The command a word of the command table spells: the table gives none of its rows bits (log entry 3).
-/
namespace Sys2Proof

/-- The command that a word spells by the table's bits: none, since no row has any. -/
def decodeTableWord (_nbits _w : Nat) : Option Instr := none

end Sys2Proof
end

