-- ==== Sys2Proof/Machine/Auth.lean ====
section
/-!
DEFINITION. SHA-384 and the verification of an ECDSA P-384 signature, as firmware authentication uses them (R797 to R799). The
spec names the two algorithms and does not give them: they are taken from their published standards.
-/
namespace Sys2Proof.Machine

/-! ## SHA-384 -/

/-- The largest number of `k` bits above `r` whose `n`-th power does not exceed `x`. -/
def rootFrom (n x : Nat) : Nat → Nat → Nat
  | 0, r => r
  | k + 1, r => rootFrom n x k (if (r + 2 ^ k) ^ n ≤ x then r + 2 ^ k else r)

/-- The first 64 bits of the fraction of the `n`-th root of a number below 2^8 ^ n. -/
def rootFraction (n x : Nat) : Nat := rootFrom n (x * 2 ^ (64 * n)) 72 0 % 2 ^ 64

/-- The prime numbers below a bound, in order. -/
def primesBelow (b : Nat) : List Nat :=
  (List.range b).filter (fun p => decide (2 ≤ p) && (List.range p).all (fun d => decide (d < 2) || p % d != 0))

/-- The initial hash value of SHA-384: the square roots of the ninth to the sixteenth prime. -/
def shaStart : List Nat := ((primesBelow 54).drop 8).map (rootFraction 2)

/-- The round constants: the cube roots of the first eighty primes. -/
def shaWeights : List Nat := (primesBelow 410).map (rootFraction 3)

/-- A 64-bit rotation to the right. -/
def rotr64 (n x : Nat) : Nat := (x / 2 ^ n + x * 2 ^ (64 - n)) % 2 ^ 64

/-- The big-endian value of a string of bytes. -/
def beNat (bs : Bytes) : Nat := bs.foldl (fun a b => 256 * a + b.toNat) 0

/-- The message schedule: `n` further words after the newest-first words so far. -/
def shaSchedule : Nat → List Nat → List Nat
  | 0, ws => ws
  | n + 1, ws =>
    let g := fun (i : Nat) => ws.getD i 0
    let s0 := rotr64 1 (g 14) ^^^ rotr64 8 (g 14) ^^^ (g 14 / 2 ^ 7)
    let s1 := rotr64 19 (g 1) ^^^ rotr64 61 (g 1) ^^^ (g 1 / 2 ^ 6)
    shaSchedule n ((g 15 + s0 + g 6 + s1) % 2 ^ 64 :: ws)

/-- One round: the eight working variables, and a constant and a schedule word. -/
def shaRound (v : List Nat) (kw : Nat × Nat) : List Nat :=
  match v with
  | [a, b, c, d, e, f, g, h] =>
    let t1 := h + (rotr64 14 e ^^^ rotr64 18 e ^^^ rotr64 41 e) + ((e &&& f) ^^^ ((2 ^ 64 - 1 - e) &&& g)) + kw.1 + kw.2
    let t2 := (rotr64 28 a ^^^ rotr64 34 a ^^^ rotr64 39 a) + ((a &&& b) ^^^ (a &&& c) ^^^ (b &&& c))
    [(t1 + t2) % 2 ^ 64, a, b, c, (d + t1) % 2 ^ 64, e, f, g]
  | _ => v

/-- One block of 128 bytes. -/
def shaBlock (h : List Nat) (b : Bytes) : List Nat :=
  let w := ((List.range 16).map (fun i => beNat (slice b (8 * i) 8))).reverse
  let v := (shaWeights.zip (shaSchedule 64 w).reverse).foldl shaRound h
  (h.zip v).map (fun p => (p.1 + p.2) % 2 ^ 64)

/-- The blocks of a padded message, folded. -/
def shaBlocks : Nat → List Nat → Bytes → List Nat
  | 0, h, _ => h
  | n + 1, h, b => shaBlocks n (shaBlock h (b.take 128)) (b.drop 128)

/-- The SHA-384 hash of a message, as a 384-bit number. -/
def sha384 (m : Bytes) : Nat :=
  let nil0 := (240 - (m.length + 1) % 128) % 128
  let p := m ++ [0x80] ++ zeros nil0 ++ (leBytes 16 (8 * m.length)).reverse
  ((shaBlocks (p.length / 128) shaStart p).take 6).foldl (fun a w => a * 2 ^ 64 + w) 0

/-! ## ECDSA P-384 -/

/-- The field prime. -/
def p384 : Nat := 2 ^ 384 - 2 ^ 128 - 2 ^ 96 + 2 ^ 32 - 1
/-- The order of the base point. -/
def n384 : Nat := 0xFFFFFFFFFFFFFFFFFFFFFFFFFFFFFFFFFFFFFFFFFFFFFFFFC7634D81F4372DDF581A0DB248B0A77AECEC196ACCC52973
/-- The curve's constant b; a is −3. -/
def b384 : Nat := 0xB3312FA7E23EE7E4988E056BE3F82D19181D9C6EFE8141120314088F5013875AC656398D8A2ED19D2A85C8EDD3EC2AEF
/-- The base point. -/
def g384 : Nat × Nat :=
  (0xAA87CA22BE8B05378EB1C71EF320AD746E1D3B628BA79B9859F741E082542A385502F25DBF55296C3A545E3872760AB7,
   0x3617DE4A96262C6F5D9E98BF9292DC29F8F41DBD289A147CE9DA3113B5F0B8C00A60B1CE1D7E819D7A431D7C90EA0E5F)

/-- A power modulo `m`, over the low `k` bits of the exponent. -/
def powMod (m : Nat) : Nat → Nat → Nat → Nat
  | 0, _, _ => 1 % m
  | k + 1, x, e => (if e % 2 = 1 then x else 1) * powMod m k (x * x % m) (e / 2) % m

/-- The inverse modulo a prime. -/
def invMod (m x : Nat) : Nat := powMod m 384 (x % m) (m - 2)

/-- The sum of two points of the curve; none is the point at infinity. -/
def ptAdd (a b : Option (Nat × Nat)) : Option (Nat × Nat) :=
  match a, b with
  | none, q => q
  | q, none => q
  | some (x1, y1), some (x2, y2) =>
    let third := fun (l : Nat) =>
      let x := (l * l + 2 * p384 - x1 - x2) % p384
      some (x, (l * (x1 + p384 - x) + p384 - y1) % p384)
    if x1 = x2 then
      if (y1 + y2) % p384 = 0 then none else third ((3 * x1 * x1 + p384 - 3) * invMod p384 (2 * y1) % p384)
    else third ((y2 + p384 - y1) * invMod p384 (x2 + p384 - x1) % p384)

/-- A multiple of a point, over the low `k` bits of the factor. -/
def ptMul : Nat → Nat → Option (Nat × Nat) → Option (Nat × Nat)
  | 0, _, _ => none
  | k + 1, e, q => ptAdd (if e % 2 = 1 then q else none) (ptMul k (e / 2) (ptAdd q q))

/-- A point lies on the curve. -/
def onCurve (x y : Nat) : Bool :=
  decide (x < p384 ∧ y < p384) && (y * y % p384 == (x * x * x + (p384 - 3) * x + b384) % p384)

/-- The ECDSA verification of a signature (r, s) over a hash by the public key (x, y). -/
def ecdsaOk (x y r s hash : Nat) : Bool :=
  if !onCurve x y || r == 0 || s == 0 || decide (n384 ≤ r) || decide (n384 ≤ s) then false
  else
    let w := invMod n384 s
    match ptAdd (ptMul 384 (hash * w % n384) (some g384)) (ptMul 384 (r * w % n384) (some (x, y))) with
    | none => false
    | some (v, _) => v % n384 == r

end Sys2Proof.Machine
end

