-- ==== Sys2Proof/Machine/Types.lean ====
section
/-!
DEFINITION. The plain-data records State is made of, for the measure, the store, the sweep, the voices, the coda, the streams,
the host link, the commands, the mutations, the ownership and the graphics memory (chapters 01 to 13).
-/
namespace Sys2Proof.Machine

/-- The phases of a measure (R52); `idle` while no measure runs. -/
inductive Phase where
  | idle | admission | sweep | rerank | tail
  deriving DecidableEq, Repr

/-- Time and the measure. Instants are exact, in units of 1/768 ns: one ns is 768 units, one core cycle (5/6 ns) 640, one
CLK_BEAT tick (25/3 ns) 6,400, and 1/256 tick 25. -/
structure Clock where
  now : Nat
  lastDb : Nat            -- the instant of the downbeat that started this measure
  predicted : Nat         -- the predicted next downbeat (R39), fraction included
  phase : Phase
  ready : Bool            -- the core start is done and the device may admit (R788)
  started : Bool          -- a first downbeat has been taken since the start (R789)
  locked : Bool           -- MEAS_STATUS.locked
  holdover : Bool         -- MEAS_STATUS.holdover (R44)
  sourceGone : Bool       -- holdover_en is 0 and the source is lost: no admission (R44)
  missed : Nat            -- consecutive missed edges (R44)
  good : Nat              -- consecutive external downbeats within the window (R44)
  kappa : Nat             -- the admission factor in 1/256 (R69)
  planFrozen : Bool       -- the plan of this measure is frozen (R79)
  bgOpen : Bool           -- the background window is open (R55)
  sweepEnd : Nat          -- the instant the drain ended, for VOI_LAST_RERANK
  overrun : Bool          -- this measure returned an OK_PARTIAL for lack of time (R86)
  done : Nat × Nat        -- of an overrun measure: work completed and work planned of its cut queries, for `a` of R69
  used : Nat              -- of an overrun measure: the time its pass had, for `a` of R69
  emptyRun : Nat          -- consecutive measures with an empty plan and no command (R761)
  prevDb : Nat            -- the instant of the downbeat before that one
  edgeNow : Bool          -- in a holdover: the downbeat that started this measure has had its edge (R44)
  edgeNext : Bool         -- in a holdover: the edge of the predicted downbeat has come, up to 2 µs before it (R44)
  fetched : Bool          -- a command was fetched in this measure (R761)
  hotMem : Bool           -- this measure plans with 0.75 × BW (R770)
  deriving DecidableEq, Repr

/-- The value a row is ranked by: the delivered value v × 2^g (R231), and the row's sq_norm for cosine (R179). -/
structure Score where
  v : Int
  g : Int
  nx : Nat
  deriving DecidableEq, Repr

/-- A row's place: a slab row, or a staging slot (R259, R290). -/
structure Place where
  staged : Bool
  slab : Nat              -- slab number, or staging handle
  row : Nat
  deriving DecidableEq, Repr

/-- An entry of a cluster list or band (R290). -/
structure ClEnt where
  score : Score
  at_ : Place
  idKnown : Bool
  id : Nat
  deriving DecidableEq, Repr

/-- A cluster list of one search (R291). -/
structure ClList where
  cid : Nat
  better : List ClEnt
  band : List ClEnt
  bound : Option Score
  deriving DecidableEq, Repr

/-- A pair drained to a cluster coda (R204): its command, its column, and the row with its value. -/
structure Drained where
  cid : Nat
  col : Nat
  ent : ClEnt
  deriving DecidableEq, Repr

/-- One cluster coda (R288): its lists with their bands, the drained pairs it has been handed, and its cut registers by number (engine of the
cluster × 1,024 + group slot × 64 + column), those that hold a score; a register not listed passes every score (R205, R291). -/
structure Cluster where
  lists : List ClList
  queue : List Drained
  cuts : List (Nat × Score)
  deriving DecidableEq, Repr

/-- An entry of a final list (R301, R320). -/
structure FinEnt where
  id : Nat
  score : Score
  fused : Bool
  deriving DecidableEq, Repr

/-- One pair of reduction lanes (R309): sums in units of 2^-672. -/
structure Lane where
  n : Nat
  sum : Int
  sq : Int
  mn : Int
  mx : Int
  deriving DecidableEq, Repr

/-- A pass command that was admitted to the measure: what it ran on and what it has gathered. -/
structure Run where
  cid : Nat
  shelf : Nat             -- local index
  kind : Nat              -- 0 a search, else the kind of the STATS (R312)
  col : Nat               -- a search's number among its shelf's admitted ones: its group is col / 64, its column col % 64 (R192)
  gen : Nat               -- store generation of the view (R131)
  rows : Nat              -- rows of the view
  compared : Nat          -- rows compared by the sweep (R84)
  cands : List ClEnt      -- the candidate set (R250, R294)
  handed : Nat
  passed : Nat
  reranked : Nat
  keysLeft : List Nat     -- candidates of a search without a voice whose key is not read yet (R300)
  keysWait : List Nat     -- of these, the ones the key reader has not taken up yet (R288)
  final : List FinEnt
  cutTime : Bool          -- touched by R81, R82 or R296 (R83)
  degraded : Bool         -- touched by a fault (R88, R89)
  finished : Bool         -- its final list or reduction is complete
  posted : Bool
  lanes : List Lane       -- STATS reductions
  ones : List Nat         -- BITS counts
  inputs : Nat            -- plait inputs still awaited at a rim (R634)
  voided : Bool           -- its coda memory was lost: no entry, both coverages 0 (R837)
  absent : Bool           -- OK_PARTIAL only for a branch of the weave that brought nothing, not for lack of time (R86)
  tiles : List (Nat × Nat)  -- the slabs compared so far, each with the live mask compared (R84, R89)
  energy : Nat            -- what the search caused on the members of a weave, in nJ (R637)
  deriving DecidableEq, Repr

/-- One copy of a shelf's groups: its team, each engine with the groups it holds (R195). A projection's copy names its command; in a chain
the team stands in the order of its positions (R208). -/
structure Copy where
  shelf : Nat
  proj : Nat              -- the command of a projection; 0 for the shelf's searches
  team : List (Nat × List Nat)
  deriving DecidableEq, Repr

/-- The plan of the measure (R58 to R66). -/
structure Plan where
  ids : List Nat          -- admitted commands in order of admission
  copies : List Copy
  tSweep : Rat
  tRerank : Rat
  tPt : Rat
  load : Nat              -- L of R196, in engine cycles
  bound : Nat             -- the load bound of R197, in cc
  deriving DecidableEq, Repr

/-- A tile (R200): a slab's rows, or a staged tile; of a chain, one position's slice of it (R208). -/
structure Tile where
  tid : Nat
  shelf : Nat
  proj : Nat              -- the projection it belongs to; 0 for the searches
  pos : Nat               -- chain position of its slice; 0 in pass mode
  staged : Bool
  slab : Nat
  handles : List Nat      -- staged rows
  fill : Nat
  masked : Bool           -- its descriptor asks for live masks (R326, R339)
  live : Nat              -- live mask (R201)
  waiting : List Nat      -- granule reads still in flight (request numbers)
  copy : Option Nat       -- the copy it goes to, once its first slice is dealt
  slot : Nat              -- the slab-buffer slot that holds it, 0 or 1
  queue : Nat             -- the tile queue that deals it
  only : Option (Nat × List Nat)  -- dealt: the engine and the groups it runs; re-issued: those that take it over (R217)
  reissue : Bool          -- re-issued after an engine fault or ERST (R88)
  deriving DecidableEq, Repr

/-- One column of a query group in a query bank: its number, its command, its operand (R192, R193). -/
structure BankCol where
  col : Nat
  cid : Nat
  operand : Bytes
  deriving DecidableEq, Repr

/-- A query group held in an engine's query bank (R186, R193): the group slots it occupies, and its columns. -/
structure BankGroup where
  shelf : Nat
  proj : Nat
  group : Nat
  units : Nat
  code : Bool             -- of a product-code shelf: its tables lie in the table store (R194)
  cols : List BankCol
  deriving DecidableEq, Repr

/-- The table set in an engine's table store (R186, R194): the lines received of it, and the tables by command once it is whole. -/
structure TableSet where
  shelf : Nat
  group : Nat
  got : Nat
  need : Nat
  tables : List (Nat × Bytes)
  deriving DecidableEq, Repr

/-- A sweep engine and its storage (R186, R202, R203). -/
structure Engine where
  slots : List Tile       -- the slab buffer: at most two tiles held
  computing : Option Nat  -- the tile being computed
  groups : List Nat       -- groups of the computed tile still to drain, ascending; the first one's output tile is full
  bank : List BankGroup   -- the query bank
  tset : Option TableSet  -- the table store
  acc : List (Nat × DWord)  -- the accumulator memory: its nonzero words by word address (R232), addresses rising
  sel : Nat               -- the output tile that holds the sums about to drain (R234)
  recv : Option (Nat × Nat)  -- the receive tile holds the sums of this tile, for the rows of this mask (R236)
  took : Bool             -- it took over groups of another engine in this pass (R217)
  cc : Nat                -- cycles of the tiles dealt to it in this pass (R197)
  inErst : Bool           -- reset; it rejoins at the next downbeat (R216)
  tacet : Bool
  thermal : Bool          -- thermally gated (R771, R769)
  deriving DecidableEq, Repr

/-- The fill of a group's table set through the table cache (R348, R349): its granules, how many are issued and how many delivered, and the
engines that still hold a reference to its lines. -/
structure TFill where
  shelf : Nat
  group : Nat
  queue : Nat
  lines : List Nat
  issued : Nat
  back : Nat
  refs : List Nat
  reread : Bool           -- read again for an engine that took the group over (R351)
  deriving DecidableEq, Repr

/-- A tile queue (R321): the tiles it has still to deal, and the reads of the tile it is filling. -/
structure TileQ where
  todo : List Tile
  last : Bool             -- its last descriptor of the phase is loaded (R326)
  endMark : Bool          -- the last tile is dealt, or R342 applied (R354 step 1)
  bad : Bool              -- its figure had an error (R335)
  deriving DecidableEq, Repr

/-- What a granule read or write is for. -/
inductive Client where
  | tile (tid : Nat) (index : Nat)
  | table (fill : Nat)
  | key (cid : Nat) (cand : Nat)
  | record (cid : Nat) (index : Nat)
  | spill (cid : Nat) (index : Nat)
  | spillOut (cid : Nat)
  | codaKey (cid : Nat) (cand : Nat)
  | point (cid : Nat) (part : Nat)
  | slab (journal : Nat)
  | slabOut (shelf : Nat)
  | scrub
  deriving DecidableEq, Repr

/-- A granule request: its number, its stream queue, its granule (device address / 256), whether the staging buffer serves it, the clients it
was merged for (R336), and whether it has returned. -/
structure Req where
  rid : Nat
  sq : Nat
  granule : Nat
  staging : Bool
  far : Bool
  clients : List Client
  write : Bool
  arr : Option Nat        -- its arrival number in its channel's reorder queue; none while it waits in its stream queue (R550, R552)
  passed : Nat            -- later arrivals that have issued ahead of it (R551)
  issued : Nat
  retries : Nat           -- link CRC repetitions so far (R558)
  returned : Bool
  lost : Bool
  deriving DecidableEq, Repr

/-- Voice states (R258). -/
inductive VState where
  | free | keying | fetching | ready | running | waiting | done | stopped
  deriving DecidableEq, Repr

/-- A candidate of a voice (R259). -/
structure Cand where
  at_ : Place
  sweep : Score
  keyed : Bool
  filteredOut : Bool
  reranked : Bool
  lost : Bool
  id : Nat
  attr : Nat
  sqNorm : Nat
  deriving DecidableEq, Repr

/-- One fetch of a voice's record stage, in processing order: the spill word of a candidate before segment `seg`, or granule `granule` of
its record for segment `seg`. -/
inductive Fetch where
  | spill (cand seg : Nat)
  | record (cand seg granule : Nat)
  deriving DecidableEq, Repr

/-- The accumulator state of a voice (R246). -/
structure AccState where
  gridValue : Int         -- v
  gridExp : Int           -- g
  groupSum : Int          -- exact sum of the open promotion group, in units of its scale
  element : Nat           -- index of the next element
  segment : Nat
  candidate : Nat         -- index in the candidate list
  deriving DecidableEq, Repr

/-- A voice context (R258), with its candidate list (R259) and its record stage. -/
structure Voice where
  ctx : Nat               -- context number (R255)
  cid : Nat
  state : VState
  section_ : Nat          -- 0 U, 1 to 4 W0 to W3
  seat : Nat
  tag : Nat
  shelf : Nat
  candBase : Nat
  cands : List Cand
  passed : Nat
  querySlot : Nat
  k : Nat
  options : Nat           -- bit 0 exact score, bit 1 compact spill, bit 2 far store
  outstanding : Nat
  acc : AccState          -- as saved when a unit last switched the voice out (R246)
  nextCand : Nat
  nextGranule : Nat
  readySince : Nat        -- low 32 bits of the CLK_CORE count at which it last became ready
  readyAt : Nat           -- that instant
  plan : List Fetch       -- the record stage, once every key is in
  keysIssued : Nat
  issued : Nat            -- fetches of the plan issued
  consumed : Nat          -- fetches of the plan consumed
  landed : List Nat       -- plan indices in the landing buffer
  gather : List (Nat × Nat)  -- spill words gathered for the granule not yet written: address and word (R337)
  deriving DecidableEq, Repr

/-- A spill word in graphics memory (R239, R241): its device address, its boundary, its bytes. -/
structure SpillWord where
  addr : Nat
  seg : Nat
  word : Nat
  deriving DecidableEq, Repr

/-- A query vector in the query store (R256, R257): its voice's command, its offset in units of 256 B, the vector. -/
structure StoredQuery where
  cid : Nat
  slot : Nat
  vec : Bytes
  deriving DecidableEq, Repr

/-- A re-rank unit (R267). -/
structure RUnit where
  voice : Option Nat      -- the cid of the running voice
  since : Nat             -- the instant of the last switch-in
  upto : Nat              -- the instant up to which it has worked
  acc : AccState          -- the accumulation of the running voice
  deriving DecidableEq, Repr

/-- A staging entry (R457, R458). -/
structure StgEnt where
  handle : Nat
  shelf : Nat
  id : Nat
  kill : Bool
  superseded : Bool
  tombWritten : Bool
  settle : Bool
  units : Nat
  commitMeasure : Nat
  endMeasure : Option Nat -- none: 0xFFFF_FFFF
  order : Nat
  attr : Nat              -- insert: the attribute word
  slab : Nat              -- kill: the position
  row : Nat
  sqNorm : Nat
  sweep : Bytes
  vec : Bytes
  cid : Nat               -- the mutation that made it
  rowGen : Nat            -- insert: the store generation of the first measure whose view holds the row (R134)
  deriving DecidableEq, Repr

/-- A filled row of a slab: key entry (R115), sweep row, record. -/
structure Row where
  id : Nat
  filled : Bool
  moved : Bool
  attr : Nat
  sqNorm : Nat
  rowGen : Nat
  sweep : Bytes
  record : Bytes
  deriving DecidableEq, Repr

/-- A slab: header (R117) and rows. -/
structure Slab where
  tomb : Nat
  gen : Nat
  fill : Nat
  writer : Nat
  opSeq : Nat
  rows : List Row
  deriving DecidableEq, Repr

/-- A directory entry's state (R119). -/
inductive DirState where
  | empty | live | erased
  deriving DecidableEq, Repr

/-- A directory entry (R119), with the number of its slot in the bucket array (bucket × 16 + entry). -/
structure DirEnt where
  slot : Nat
  id : Nat
  shelf : Nat
  slab : Nat
  row : Nat
  state : DirState
  deriving DecidableEq, Repr

/-- A shelf: the descriptor of R106, its slabs, its rights (R508) and its state in the measure. -/
structure Shelf where
  index : Nat             -- local index
  handle : Nat
  name : Bytes
  sweepKind : Nat
  sweepWidth : Nat
  elemFormat : Nat
  distance : Nat
  dim : Nat
  fullPlace : Nat
  replicas : Nat
  ownerSeat : Nat
  dropping : Bool
  gen : Nat
  sweepBase : Nat
  keyBase : Nat
  deepBase : Nat
  farBase : Nat
  capacity : Nat
  slabs : List Slab
  searchers : List Nat
  readers : List Nat
  lost : Bool
  dropAt : Nat            -- measure in which SHELF_DROP committed (R147)
  released : Bool         -- arrays and entries released (R147)
  committed : Bool        -- the generation steps at the next downbeat: a mutation, or the creation, committed in this measure (R131)
  order : Nat             -- the shelf's next commit order number (R136)
  held : List Nat         -- granules a slab operation met as uncorrectable (R887)
  counted : Nat           -- rows counted against the capacity (R154)
  sub : Nat               -- in a weave: 0 the primary sub-shelf, r replica r (R617)
  opening : Option Slab   -- the header of slab `slabs.length` while a place that starts it is in progress (R118)
  genLog : List (Nat × Nat)  -- the measures at whose downbeat the generation changed, with its value from then on, newest first (R131)
  deriving DecidableEq, Repr

/-- The slab operations (R479). -/
inductive SlabOp where
  | place | mark | move | trim
  deriving DecidableEq, Repr

/-- A journal slot in use (R489). -/
structure Journal where
  slot : Nat
  jstate : Nat
  op : SlabOp
  shelf : Nat
  target : Nat
  firstRow : Nat
  rows : Nat
  source : Nat
  sourceRow : Nat
  oldTomb : Nat
  newCount : Nat
  newTail : Nat
  targetSeq : Nat
  sourceSeq : Nat
  entries : List Nat      -- staging handles held
  reads : Nat             -- granule and far reads still in flight
  startAt : Nat
  holes : List Nat        -- move: the target rows, in the order in which the source rows go to them
  deriving DecidableEq, Repr

/-- Where a fetched command stands. -/
inductive Stage where
  | operands              -- waits for its operands at step 12 (R408)
  | ready                 -- has passed intake: its own row may run
  | candidate             -- a search waiting for admission (R71)
  | admitted
  | waitGrant             -- a mutation waiting for its grant or for room (R434, R463)
  | granted               -- its data is being read (R436)
  | deferredCommit        -- its commit waits for a slab operation (R468)
  | settling              -- committed, waits for its entries to reach the store (R476)
  | timed                 -- waits for a downbeat or an event (R49, R574)
  | duplicate             -- waits on a pending original (R446)
  | held                  -- a CLAIM held for the election (R515), a point read held (R97)
  | remote                -- waits for other chips of the weave
  | recheck               -- a resend whose original was never executed: intake goes on at step 7 (R446)
  deriving DecidableEq, Repr

/-- A fetched command that has not completed. -/
structure Cmd where
  cid : Nat
  seat : Nat
  queue : Nat
  cpq : Nat
  tag : Nat
  seq : Nat
  opcode : Nat
  cls : Nat
  flags : Nat
  shelf : Nat             -- handle
  deadline : Nat
  param : Bytes
  operands : Bytes
  table : Bytes
  tableSlot : Option Nat
  stage : Stage
  first : Nat             -- F of R73
  last : Nat              -- L of R73
  carried : Bool
  queuedAt : Nat          -- instant its doorbell reached the admission queue (R71)
  fetchedAt : Nat         -- instant its packet and operands had arrived (R408)
  intakeAt : Nat          -- measure of intake
  target : Nat            -- measure a timed command waits for; commit measure of a mutation
  waits : List Nat        -- staging handles a settle wait covers (R476, R477)
  reserved : Nat × Nat    -- units reserved in the insert and the kill region (R462)
  origin : Nat            -- 0: this chip's host; 1: a part of a search this chip runs for the weave; 2: REMOTE (R606)
  quiet : Bool            -- its seat was reset: it completes internally and posts nothing (R393)
  ref : Nat               -- the head rim's search reference, or the operation id of a REMOTE (R607)
  opRoom : Nat            -- intake storage reserved for its out-of-line operands and table (R405); 0 while it waits for room
  spent : Nat             -- the estimate of R831 of what it has caused so far, before the trim, in 1/65,536 nJ (R432)
  deriving DecidableEq, Repr

/-- The states of a replay-window entry (R446). -/
inductive WinState where
  | pending | executed | unposted | never
  deriving DecidableEq, Repr

/-- A replay-window entry (R445, R446). -/
structure WinEnt where
  seat : Nat
  seq : Nat
  opcode : Nat
  shelf : Nat
  state : WinState
  cid : Nat
  status : Nat
  tag : Nat
  measure : Nat
  location : Nat
  count : Nat
  deriving DecidableEq, Repr

/-- A submission queue's state beside its registers (R372, R378, R395). -/
structure Sbq where
  fn : Nat
  q : Nat
  tail : Nat
  posted : Nat            -- flits posted since the enable
  fetched : Nat           -- flits fetched or discarded since the enable
  bells : List (Nat × Nat)  -- tail doorbells not yet passed by the fetch: (flits posted, instant)
  reading : List Nat      -- packets being read: the flits reserved for each
  partly : Bool           -- the next packet's header is posted, and declares flits that are not (R372, R452)
  deriving DecidableEq, Repr

/-- A completion queue's state beside its registers (R375, R376, R390). -/
structure Cpq where
  fn : Nat
  q : Nat
  head : Nat
  written : Nat           -- records written and not yet consumed
  reserved : Nat          -- records reserved
  pend : Nat              -- records whose interrupt is pending
  oldest : Nat            -- instant of the oldest pending record
  waitFrom : Option Nat   -- a fetch has waited for room since
  deriving DecidableEq, Repr

/-- A function (R363): its configuration-space state that the commands read or change. -/
structure Fn where
  seat : Nat
  enabled : Bool          -- the function exists for the host (a PF, or a VF whose VF Enable is set)
  bme : Bool
  d3hot : Bool
  msixEnable : Bool
  fmask : Bool
  masked : List Nat       -- masked vectors
  pba : List Nat          -- pending vectors
  meterLatch : List (Nat × Nat)  -- high words latched by meter reads (R536)
  ctl : DeviceControl     -- the Device Control registers (R358 to R361, R398)
  internalError : Bool    -- AER: Uncorrectable Internal Error has been signalled (R397)
  deriving DecidableEq, Repr

/-- A host-link port (R358, R362). -/
structure Port where
  perst : Bool            -- PERST_N asserted
  up : Bool
  width : Nat
  speed : Nat
  flit : Bool
  vfEnable : Bool
  deriving DecidableEq, Repr

/-- A CLAIM held for the election (R515). -/
structure Claim where
  cid : Nat
  seat : Nat
  priority : Nat
  nonce : Nat
  deriving DecidableEq, Repr

/-- A graphics-memory channel (chapter 13). -/
structure Channel where
  trained : Bool
  faulted : Bool
  selfRefresh : Bool
  temp : Nat
  retrainAt : Nat         -- instant of the last retraining
  retrainTemp : Nat
  step : Nat              -- retraining steps done of the one due; 0: none
  stepFails : Nat
  failAt : Nat            -- the measure of the last failed step (R568)
  stepEnd : Nat           -- instant at which the last retraining step ends: the channel takes no request before it (R567)
  bad : List Nat          -- granules that read uncorrectable
  ueLog : List (Nat × Nat)  -- (granule, measure) of uncorrectable errors (R562)
  postponed : List Nat    -- postponed per-bank refreshes, per bank (R564)
  scrubbed : Nat          -- granules scrubbed in this round
  turn : Nat              -- the stream queue granted last (R323)
  burst : Option Nat      -- the check burst of the entry that issued last: a granule of the same burst shares it (R550)
  bursts : Nat            -- check bursts read or updated since training (R550, R557)
  deriving DecidableEq, Repr

/-- A MAP_OUT or MAP_IN of a channel waiting for its re-lay, by command (R574). -/
structure Pend where
  cid : Nat
  kind : Nat
  index : Nat
  deriving DecidableEq, Repr

end Sys2Proof.Machine
end

