-- ==== Sys2Proof/Machine/Numeric.lean ====
section
/-!
DEFINITION. Numbers: element formats and path images (R155 to R168), products and norms on the pair grid (R169, R175,
R220 to R231), distances, order and score output (R177 to R184, R248), chain and spill words (R235 to R244), the fused step
(R306), reductions (R309, R310), and CRC-32C (R402).
-/
namespace Sys2Proof.Machine

/-- An exact dyadic number m × 2^e. -/
structure Dy where
  m : Int
  e : Int
  deriving DecidableEq, Repr

/-- Half-even rounding of n / d, d positive. -/
def rneDiv (n : Int) (d : Nat) : Int :=
  let q := n / (d : Int)
  let r := (n % (d : Int)).toNat
  if 2 * r < d then q else if d < 2 * r then q + 1 else if q % 2 = 0 then q else q + 1

/-- The integer nearest to m × 2^k, ties to even (RNE of R166 and R227). -/
def rneShift (m : Int) (k : Int) : Int :=
  if 0 ≤ k then m * 2 ^ k.toNat else rneDiv m (2 ^ (-k).toNat)

/-- floor(log2) of a positive number. -/
def flog2 (n : Nat) : Int := (Nat.log2 n : Int)

/-- The sum of two dyadic numbers. -/
def Dy.add (a b : Dy) : Dy :=
  let e := min a.e b.e
  ⟨a.m * 2 ^ (a.e - e).toNat + b.m * 2 ^ (b.e - e).toNat, e⟩

/-- The product of two dyadic numbers. -/
def Dy.mul (a b : Dy) : Dy := ⟨a.m * b.m, a.e + b.e⟩

/-- The negative of a dyadic number. -/
def Dy.neg (a : Dy) : Dy := ⟨-a.m, a.e⟩

/-- a < b, exactly. -/
def Dy.lt (a b : Dy) : Bool := decide ((Dy.add a (Dy.neg b)).m < 0)

/-- a = b as numbers. -/
def Dy.same (a b : Dy) : Bool := decide ((Dy.add a (Dy.neg b)).m = 0)

/-- The canonical form of R184: m odd, or m = 0 with e = 0; by at most `fuel` halvings. -/
def Dy.canonGo : Nat → Int → Int → Dy
  | 0, m, e => ⟨m, e⟩
  | k + 1, m, e => if m = 0 then ⟨0, 0⟩ else if m % 2 = 0 then Dy.canonGo k (m / 2) (e + 1) else ⟨m, e⟩

/-- The canonical form of R184. -/
def Dy.canon (a : Dy) : Dy := Dy.canonGo (Nat.log2 a.m.natAbs + 1) a.m a.e

/-! ## Element formats -/

/-- A floating-point format of R156: exponent bits, fraction bits, bias, the path constant L of R167. -/
structure FpFmt where
  ebits : Nat
  fbits : Nat
  bias : Nat
  pathL : Nat
  deriving DecidableEq, Repr

/-- The floating-point formats by element format code (R155, R156, R167). -/
def fpFmt : Nat → Option FpFmt
  | 0 => some ⟨8, 23, 127, 30⟩
  | 1 => some ⟨5, 10, 15, 14⟩
  | 2 => some ⟨8, 7, 127, 14⟩
  | 3 => some ⟨4, 3, 7, 6⟩
  | 4 => some ⟨5, 2, 15, 6⟩
  | _ => none

/-- Bytes of a `d`-element vector in an element format (R155). -/
def vecBytes (fmt d : Nat) : Nat :=
  match fmt with
  | 0 => 4 * d
  | 1 | 2 => 2 * d
  | 3 | 4 | 5 | 6 => d
  | 7 => d / 2
  | 8 => 17 * d / 32
  | 9 => d / 8
  | _ => 0

/-- The dimensions an element format accepts (R155). -/
def dimOk (fmt d : Nat) : Bool :=
  decide (1 ≤ d ∧ d ≤ 16384) &&
  (match fmt with
   | 0 | 1 | 2 | 3 | 4 | 5 | 6 => true
   | 7 => d % 2 == 0
   | 8 => d % 32 == 0
   | 9 => d % 8 == 0
   | _ => false)

/-- The value of a floating-point code, or none for an infinity or a NaN (R156, R173). -/
def fpVal (fmt : Nat) (f : FpFmt) (c : Nat) : Option Dy :=
  let fr := c % 2 ^ f.fbits
  let ex := c / 2 ^ f.fbits % 2 ^ f.ebits
  let neg := c / 2 ^ (f.fbits + f.ebits) % 2 = 1
  let special := if fmt = 3 then ex = 15 ∧ fr = 7 else ex = 2 ^ f.ebits - 1
  if special then none
  else
    let mag : Int := if ex = 0 then fr else 2 ^ f.fbits + fr
    let e : Int := (if ex = 0 then (1 : Int) else (ex : Int)) - f.bias - f.fbits
    some ⟨if neg then -mag else mag, e⟩

/-- The value of an FP32 code taken as an exact number; an infinity or a NaN reads as 0. -/
def f32Val (c : Nat) : Dy := ((fpFmt 0).bind (fun f => fpVal 0 f c)).getD ⟨0, 0⟩

/-- Twice the magnitude of an E2M1 code (R158). -/
def e2m1Twice (c : Nat) : Int :=
  let mag : Int := match c % 8 with
    | 0 => 0 | 1 => 1 | 2 => 2 | 3 => 3 | 4 => 4 | 5 => 6 | 6 => 8 | _ => 12
  if 8 ≤ c % 16 then -mag else mag

/-- The code of element `i` of a vector in a format (R157, R158), little-endian. -/
def elemCode (fmt : Nat) (bs : Bytes) (i : Nat) : Nat :=
  match fmt with
  | 0 => field bs (4 * i) 4
  | 1 | 2 => field bs (2 * i) 2
  | 3 | 4 | 5 | 6 => field bs i 1
  | 7 => field bs (i / 2) 1 / 16 ^ (i % 2) % 16
  | 8 => field bs (17 * (i / 32) + 1 + i % 32 / 2) 1 / 16 ^ (i % 2) % 16
  | 9 => field bs (i / 8) 1 / 2 ^ (i % 8) % 2
  | _ => 0

/-- A block of a path image: the scale exponent t and the mantissas (R164). -/
structure Block where
  t : Int
  a : List Int
  deriving DecidableEq, Repr

/-- floor(log2 |x|) of a nonzero dyadic number. -/
def Dy.expo (x : Dy) : Int := flog2 x.m.natAbs + x.e

/-- The block of a floating-point format (R166): `xs` are the element values. -/
def fpBlock (pathL : Nat) (xs : List Dy) : Block :=
  match (xs.filter (fun x => x.m != 0)).map Dy.expo with
  | [] => ⟨0, xs.map (fun _ => 0)⟩
  | e :: es =>
    let eb := es.foldl max e
    ⟨eb - pathL, xs.map (fun x => rneShift x.m (x.e + pathL - eb))⟩

/-- Block `b` of the path image of a vector (R164 to R166), or none where an element is an infinity or a NaN (R170). -/
def pathBlock (fmt d : Nat) (bs : Bytes) (b : Nat) : Option Block :=
  let idx := (List.range 32).map (fun i => 32 * b + i) |>.filter (fun i => i < d)
  match fpFmt fmt with
  | some f =>
    let vs := idx.map (fun i => fpVal fmt f (elemCode fmt bs i))
    if vs.any (fun v => v == none) then none
    else some (fpBlock f.pathL (vs.map (fun v => v.getD ⟨0, 0⟩)))
  | none =>
    match fmt with
    | 5 => some ⟨0, idx.map (fun i => signed 8 (elemCode fmt bs i))⟩
    | 7 => some ⟨0, idx.map (fun i => signed 4 (elemCode fmt bs i))⟩
    | 8 =>
      let x := field bs (17 * b) 1
      if x = 255 then none
      else some ⟨(x : Int) - 128, idx.map (fun i => e2m1Twice (elemCode fmt bs i))⟩
    | _ => some ⟨0, idx.map (fun i => (elemCode fmt bs i : Int))⟩

/-- The path image of a vector, or none where R170 rejects an element. -/
def pathImage (fmt d : Nat) (bs : Bytes) : Option (List Block) :=
  let l := (List.range (cdiv d 32)).map (pathBlock fmt d bs)
  if l.any (fun b => b == none) then none else some (l.map (fun b => b.getD ⟨0, []⟩))

/-- The path image with rejected vectors read as empty; stored vectors have passed R170. -/
def image (fmt d : Nat) (bs : Bytes) : List Block := (pathImage fmt d bs).getD []

/-! ## Rounding to FP32 -/

/-- The magnitude bits of FP32 nearest to n / d (both naturals, d positive), ties to even; 0x7F80_0000 or more on overflow. -/
def f32Mag (n d : Nat) : Nat :=
  if n = 0 then 0
  else
    let e0 : Int := flog2 n - flog2 d
    let e := if 0 ≤ e0 then (if n < d * 2 ^ e0.toNat then e0 - 1 else e0)
             else (if n * 2 ^ (-e0).toNat < d then e0 - 1 else e0)
    let q := max (e - 23) (-149)
    let m := if 0 ≤ q then rneDiv n (d * 2 ^ q.toNat) else rneDiv (n * 2 ^ (-q).toNat : Int) d
    ((q + 149) * 2 ^ 23 + m).toNat

/-- The FP32 code of a sign and a magnitude, with R182: overflow gives the largest finite value, zero gives +0.0. -/
def f32Clamp (neg : Bool) (mag : Nat) : Nat :=
  let m := min mag 0x7F7FFFFF
  if m = 0 then 0 else if neg then m + 0x80000000 else m

/-- A dyadic number rounded once to FP32 (R181, R182, R231). -/
def f32Of (x : Dy) : Nat :=
  let n := x.m.natAbs
  f32Clamp (decide (x.m < 0)) (if 0 ≤ x.e then f32Mag (n * 2 ^ x.e.toNat) 1 else f32Mag n (2 ^ (-x.e).toNat))

/-- A rational number rounded once to FP32 (R310). -/
def f32OfRat (x : Rat) : Nat := f32Clamp (decide (x < 0)) (f32Mag x.num.natAbs x.den)

/-- The correctly rounded FP32 of p / sqrt(r), r positive (R181): from the exact square p² / r. -/
def f32Cos (p r : Dy) : Nat :=
  if p.m = 0 ∨ r.m ≤ 0 then 0
  else
    let sq := p.mul p
    let k := sq.e - r.e
    let n := sq.m.natAbs * (if 0 ≤ k then 2 ^ k.toNat else 1)
    let d := r.m.natAbs * (if 0 ≤ k then 1 else 2 ^ (-k).toNat)
    let e0 : Int := flog2 n - flog2 d
    let e2 := if 0 ≤ e0 then (if n < d * 2 ^ e0.toNat then e0 - 1 else e0)
              else (if n * 2 ^ (-e0).toNat < d then e0 - 1 else e0)
    let q := max (e2 / 2 - 23) (-149)
    let n' := if 0 ≤ q then n else n * 4 ^ (-q).toNat
    let d' := if 0 ≤ q then d * 4 ^ q.toNat else d
    let m := Nat.sqrt (n' / d')
    let up := 4 * n' > (2 * m + 1) ^ 2 * d' ∨ (4 * n' = (2 * m + 1) ^ 2 * d' ∧ m % 2 = 1)
    f32Clamp (decide (p.m < 0)) ((q + 149) * 2 ^ 23 + (if up then m + 1 else m : Nat)).toNat

/-! ## Norms and products -/

/-- The exact sum of squares of a path image (R175). -/
def sumSq (im : List Block) : Dy :=
  im.foldl (fun acc b => acc.add ⟨b.a.foldl (fun s x => s + x * x) 0, 2 * b.t⟩) ⟨0, 0⟩

/-- The magnitude bits of the squared norm of R175; 0x7F80_0000 or more when it is beyond the largest finite FP32. -/
def normMag (fmt d : Nat) (bs : Bytes) : Nat :=
  let s := sumSq (image fmt d bs)
  if 0 ≤ s.e then f32Mag (s.m.natAbs * 2 ^ s.e.toNat) 1 else f32Mag s.m.natAbs (2 ^ (-s.e).toNat)

/-- The bound exponent of a path image, from its bytes (R225, sweep and chain). -/
def betaBytes (im : List Block) : Int :=
  im.foldl (fun acc b => b.a.foldl (fun acc x =>
    if x = 0 then acc else max acc (flog2 x.natAbs + b.t + 1)) acc) (-150)

/-- The bound exponent from a squared norm (R225, re-rank). -/
def betaNorm (n : Nat) : Int :=
  let x := f32Val n
  let e : Int := if x.m = 0 then -150 else x.expo
  (e + 2) / 2

/-- The grid exponent of a pair (R226): distance 0 squared Euclidean, 1 inner product, 2 cosine. -/
def gridExp (distance : Nat) (bq bx : Int) : Int :=
  if distance = 0 then 2 * max bq bx - 30 else bq + bx - 32

/-! ## The cell (R187 to R189, R220 to R224)

A cell adds the lane products of a promotion group into its 16 accumulators of 20 bits, and promotes their weighted sum at the group's
end. Formats are element format codes; the sketch and product-code cells use accumulator 0 alone. -/

/-- The slices of a path mantissa, lowest first: bytes, of which the top one is signed; the other formats have one slice (R188). -/
def slices (fmt : Nat) (a : Int) : List Int :=
  match fmt with
  | 0 => [a % 256, a / 2 ^ 8 % 256, a / 2 ^ 16 % 256, a / 2 ^ 24]
  | 1 | 2 => [a % 256, a / 2 ^ 8]
  | _ => [a]

/-- Slices of a mantissa. -/
def sliceCount (fmt : Nat) : Nat := match fmt with | 0 => 4 | 1 | 2 => 2 | _ => 1

/-- The accumulators a cell uses (R220). -/
def accCount (fmt : Nat) : Nat := match fmt with | 0 | 7 => 16 | 9 => 1 | _ => 8

/-- The accumulator that takes the product of slice class `cls` of element `i` of a promotion group (R220). -/
def accOf (fmt i cls : Nat) : Nat :=
  match fmt with
  | 0 => cls
  | 1 | 2 => 4 * (i % 2) + cls
  | 7 => i % 16
  | 9 => 0
  | _ => i % 8

/-- The slice class whose products an accumulator receives (R220). -/
def accClass (fmt l : Nat) : Nat := match fmt with | 0 => l | 1 | 2 => l % 4 | _ => 0

/-- The weight of a slice class: 2^(8(i + j)) for the slice pair (i, j) (R188). -/
def classWeight (fmt cls : Nat) : Int := 2 ^ (8 * (cls / sliceCount fmt + cls % sliceCount fmt))

/-- The products of a slice class have two unsigned operands (R188, R222). -/
def classUnsigned (fmt cls : Nat) : Bool :=
  match fmt with
  | 0 => cls / 4 != 3 && cls % 4 != 3
  | 1 | 2 => cls == 0
  | 6 | 9 => true
  | _ => false

/-- The accumulators of a cell: each 20 bits (R220). -/
abbrev Accs := List (BitVec 20)

/-- The accumulators as a promotion leaves them (R223). -/
def accsZero : Accs := List.replicate 16 0#20

/-- The value an accumulator holds (R222). -/
def accRead (unsigned : Bool) (a : BitVec 20) : Int := if unsigned then (a.toNat : Int) else a.toInt

/-- A product added into an accumulator. -/
def accAdd (l : Nat) (v : Int) (a : Accs) : Accs := updAt l (fun x => x + BitVec.ofInt 20 v) a

/-- The slice products of one element added (R187, R188). -/
def cellElement (fmt i : Nat) (q x : Int) (a : Accs) : Accs :=
  let n := sliceCount fmt
  let sq := slices fmt q
  let sx := slices fmt x
  (List.range (n * n)).foldl (fun a cls => accAdd (accOf fmt i cls) (sq.getD (cls / n) 0 * sx.getD (cls % n) 0) a) a

/-- The accumulators at the end of a promotion group. -/
def cellGroup (fmt : Nat) (q x : List Int) : Accs :=
  ((q.zip x).zip (List.range q.length)).foldl (fun a p => cellElement fmt p.2 p.1.1 p.1.2 a) accsZero

/-- The exact integer A of a promotion (R223): the weighted sum of the accumulators. -/
def accsValue (fmt : Nat) (a : Accs) : Int :=
  (List.range (accCount fmt)).foldl (fun s l =>
    s + accRead (classUnsigned fmt (accClass fmt l)) (a.getD l 0#20) * classWeight fmt (accClass fmt l)) 0

/-- The accumulator 0 of a sketch or product-code cell at the end of a promotion group of unsigned terms (R220, R222). -/
def cellCount (terms : List Nat) : Nat := (terms.foldl (fun (a : BitVec 20) t => a + BitVec.ofNat 20 t) 0#20).toNat

/-- A promotion group of a pair (R221): the scale exponent of its products, and the mantissas of its elements. -/
structure PGroup where
  t : Int
  q : List Int
  x : List Int
  deriving DecidableEq, Repr

/-- A list cut into runs of `n`, at most `fuel` of them. -/
def runsOf {α : Type} (n : Nat) : Nat → List α → List (List α)
  | 0, _ => []
  | k + 1, l => if l.isEmpty then [] else l.take n :: runsOf n k (l.drop n)

/-- The promotion groups of two blocks: 8 elements in FP32, the block in every other format (R221). -/
def blockGroups (fmt : Nat) (q x : Block) : List PGroup :=
  if fmt = 0 then ((runsOf 8 4 q.a).zip (runsOf 8 4 x.a)).map (fun p => ⟨q.t + x.t, p.1, p.2⟩) else [⟨q.t + x.t, q.a, x.a⟩]

/-- The promotion groups of a pair of path images in element order (R221): binary groups span 32 blocks. -/
def pairGroups (fmt : Nat) (q x : List Block) : List PGroup :=
  if fmt = 9 then
    let f := fun (im : List Block) => runsOf 1024 (cdiv im.length 32) (im.flatMap (fun b => b.a))
    ((f q).zip (f x)).map (fun p => ⟨0, p.1, p.2⟩)
  else (q.zip x).flatMap (fun p => blockGroups fmt p.1 p.2)

/-- The exact integer A of a promotion group. -/
def PGroup.exact (fmt : Nat) (p : PGroup) : Int := accsValue fmt (cellGroup fmt p.q p.x)

/-- The integer a promotion adds to the pair's word on the grid 2^g (R223, R227). -/
def PGroup.promote (fmt : Nat) (g : Int) (p : PGroup) : Int := rneShift (p.exact fmt) (p.t - g)

/-- The promotion rounds nonzero bits away (R230). -/
def PGroup.rounds (fmt : Nat) (g : Int) (p : PGroup) : Bool :=
  decide (p.t - g < 0) && p.exact fmt % (2 ^ (g - p.t).toNat : Int) != 0

/-- The path product of two images on the grid 2^g (R169, R223, R227). -/
def gridP (fmt : Nat) (g : Int) (q x : List Block) : Int := (pairGroups fmt q x).foldl (fun s p => s + p.promote fmt g) 0

/-- Promotions of a pair that round away nonzero bits (ACC_FOLD_INEXACT, ACC_RERANK_INEXACT). -/
def inexactP (fmt : Nat) (g : Int) (q x : List Block) : Nat := ((pairGroups fmt q x).filter (PGroup.rounds fmt g)).length

/-! ## Pair words (R224, R233) -/

/-- A pair word: the grid value in bits 47:0, the grid exponent in bits 57:48, bit 58 set by the first promotion, zeros above (R233). -/
def pairWord (v g : Int) : DWord := BitVec.ofNat 64 (unsign 48 v + 2 ^ 48 * unsign 10 g + 2 ^ 58)

/-- The grid value of a pair word. -/
def wordValue (w : DWord) : Int := signed 48 (w.toNat % 2 ^ 48)

/-- The grid exponent of a pair word. -/
def wordExp (w : DWord) : Int := signed 10 (w.toNat / 2 ^ 48 % 2 ^ 10)

/-- A promotion of value `n` on the grid 2^g arrives at the stored word: with the overwrite flag it writes the value and the exponent,
without it adds the value (R224). -/
def promoteInto (overwrite : Bool) (n g : Int) (w : DWord) : DWord :=
  if overwrite then pairWord n g else pairWord (wordValue w + n) (wordExp w)

/-- The promoted values of a pair taken into its word, the first one overwriting what the output tile held (R224). -/
def promoteAll (g : Int) (ns : List Int) (w : DWord) : DWord :=
  ((ns.zip (List.range ns.length)).foldl (fun w p => promoteInto (p.2 == 0) p.1 g w) w)

/-! ## Re-rank accumulation (R237, R246) -/

/-- An accumulation under way: the grid value, the exact sum of the open promotion group in units of its scale, and the promotions that
rounded so far. -/
structure AccSum where
  v : Int
  sum : Int
  inexact : Nat
  deriving DecidableEq, Repr

/-- Elements of a promotion group (R221). -/
def groupLen (fmt : Nat) : Nat := match fmt with | 0 => 8 | 9 => 1024 | _ => 32

/-- A group of exact sum `sum` and scale exponent `t` promoted onto the grid 2^g (R227). -/
def AccSum.promote (t g : Int) (a : AccSum) : AccSum :=
  ⟨a.v + rneShift a.sum (t - g), 0, if t < g ∧ a.sum % (2 ^ (g - t).toNat : Int) ≠ 0 then a.inexact + 1 else a.inexact⟩

/-- Element `i` of a vector of dimension `d` accumulated; the last one of a promotion group promotes it (R237). -/
def accElem (fmt d : Nat) (g : Int) (q x : List Block) (a : AccSum) (i : Nat) : AccSum :=
  let bq := q.getD (i / 32) ⟨0, []⟩
  let bx := x.getD (i / 32) ⟨0, []⟩
  let a := { a with sum := a.sum + bq.a.getD (i % 32) 0 * bx.a.getD (i % 32) 0 }
  if (i + 1) % groupLen fmt = 0 ∨ i + 1 = d then a.promote (bq.t + bx.t) g else a

/-- The elements from `i` up to `j` accumulated. -/
def accRange (fmt d : Nat) (g : Int) (q x : List Block) (i j : Nat) (a : AccSum) : AccSum :=
  ((List.range (j - i)).map (fun k => i + k)).foldl (accElem fmt d g q x) a

/-- A squared norm rounded onto the grid 2^g (R228). -/
def gridNorm (g : Int) (n : Nat) : Int := rneShift (f32Val n).m ((f32Val n).e - g)

/-- The delivered grid value of a pair (R226, R228, R231) from its path product on the grid. -/
def deliver (distance : Nat) (g p : Int) (nq nx : Nat) : Int :=
  if distance = 0 then gridNorm g nq - 2 * p + gridNorm g nx else p

/-- The grid exponent of a direct pair in the sweep (R225, R226). -/
def directExp (distance : Nat) (iq ix : List Block) : Int := gridExp distance (betaBytes iq) (betaBytes ix)

/-- The promoted values of a direct pair in the sweep, and their grid exponent (R221, R223, R226). -/
def directTerms (fmt distance : Nat) (iq ix : List Block) : List Int × Int :=
  let g := directExp distance iq ix
  ((pairGroups fmt iq ix).map (PGroup.promote fmt g), g)

/-- The popcounts of the steps of a sketch pair: 64 bits a step (R187). -/
def sketchSteps (q x : Bytes) : List Nat :=
  (runsOf 8 (cdiv q.length 8) (List.zipWith (fun (a b : Byte) => popcount 8 (a ^^^ b).toNat) q x)).map sumN

/-- The Hamming distance of two sketches (R177): one promotion group of the whole sketch (R221). -/
def hamming (q x : Bytes) : Nat := cellCount (sketchSteps q x)

/-- Code index `m` of a product-code row (R160); kind 1 is 4-bit, kind 2 is 8-bit. -/
def codeAt (kind : Nat) (row : Bytes) (m : Nat) : Nat :=
  if kind = 2 then field row m 1 else field row (m / 2) 1 / 16 ^ (m % 2) % 16

/-- The table entries a product-code row adds, one a step (R161, R187): `ms` sub-quantizers. -/
def codeTerms (kind ms : Nat) (table row : Bytes) : List Nat :=
  let k := if kind = 2 then 256 else 16
  (List.range ms).map (fun m => field table (2 * (m * k + codeAt kind row m)) 2)

/-- The promoted values of a product-code pair: groups of 16 sub-quantizers (R221, R223). -/
def codeGroups (kind ms : Nat) (table row : Bytes) : List Int :=
  (runsOf 16 (cdiv ms 16) (codeTerms kind ms table row)).map (fun g => (cellCount g : Int))

/-- The code sum of a row (R162). -/
def codeSum (kind ms : Nat) (table row : Bytes) : Nat := sumN (codeTerms kind ms table row)

/-! ## Chain, spill and dither -/

/-- The running chain word combined with a slice word (R236): (value, grid exponent). -/
def chainAdd (a b : Int × Int) : Int × Int :=
  if a.2 = b.2 then (a.1 + b.1, a.2)
  else if a.2 < b.2 then (rneShift a.1 (a.2 - b.2) + b.1, b.2)
  else (a.1 + rneShift b.1 (b.2 - a.2), a.2)

/-- Slice `j` of a vector's bytes (R208): elements 2,048 j on, up to 2,048 of them. -/
def sliceBytes (fmt d j : Nat) (bs : Bytes) : Bytes :=
  (bs.drop (vecBytes fmt (2048 * j))).take (vecBytes fmt (min 2048 (d - 2048 * j)))

/-- The word a chain position holds after it has combined the running word with its own (R236). -/
def chainWord (running own : DWord) : DWord :=
  let p := chainAdd (wordValue running, wordExp running) (wordValue own, wordExp own)
  pairWord p.1 p.2

/-- The mixing function of R244, modulo 2^64. -/
def ditherMix (z : DWord) : DWord :=
  let z := (z ^^^ (z >>> 30)) * 0xBF58476D1CE4E5B9#64
  let z := (z ^^^ (z >>> 27)) * 0x94D049BB133111EB#64
  z ^^^ (z >>> 31)

/-- The dither of R244 for generation, id, tag and boundary. -/
def dither (g i t s : Nat) : Nat :=
  let w0 := BitVec.ofNat 64 (g + s * 2 ^ 48)
  let w1 := BitVec.ofNat 64 (i + t * 2 ^ 48)
  ((ditherMix (ditherMix (w1 ^^^ 0x9E3779B97F4A7C15#64) ^^^ w0)) >>> 48).toNat

/-- The spill word a running value leaves at a boundary (R239): its 64 bits, or compact the 32 bits of (v + r) / 2^16, rounded down, with the dither
r. -/
def spillStore (compact : Bool) (g i t s : Nat) (v : Int) : Nat :=
  if compact then unsign 32 ((v + dither g i t s) / 2 ^ 16) else unsign 64 v

/-- The running value restored from a spill word (R239). -/
def spillLoad (compact : Bool) (w : Nat) : Int := if compact then signed 32 w * 2 ^ 16 else signed 64 w

/-- A running word spilled and restored at a boundary (R239): full is exact, compact rounds with the dither. -/
def spillWord (compact : Bool) (g i t s : Nat) (v : Int) : Int := spillLoad compact (spillStore compact g i t s v)

/-! ## Order -/

/-- Whether a smaller value is nearer: Hamming, code sum and squared Euclidean (R177). -/
inductive Order where
  | smaller | larger | cosine
  deriving DecidableEq, Repr

/-- The value of a score. -/
def Score.dy (s : Score) : Dy := ⟨s.v, s.g⟩

/-- Score `a` is strictly nearer than score `b` (R177, R179). -/
def nearer (o : Order) (a b : Score) : Bool :=
  match o with
  | .smaller => a.dy.lt b.dy
  | .larger => b.dy.lt a.dy
  | .cosine =>
    let pa := a.dy
    let pb := b.dy
    let sa := Int.sign a.v
    let sb := Int.sign b.v
    if sa ≠ sb then decide (sb < sa)
    else
      let l := (pa.mul pa).mul (f32Val b.nx)
      let r := (pb.mul pb).mul (f32Val a.nx)
      if sa < 0 then l.lt r else r.lt l

/-- The order of R248: by value, then by vector id ascending. -/
def rowBefore (o : Order) (a : Score) (ia : Nat) (b : Score) (ib : Nat) : Bool :=
  nearer o a b || (!nearer o b a && decide (ia < ib))

/-- A list with an entry inserted in order. -/
def insertBy {α : Type} (lt : α → α → Bool) (x : α) : List α → List α
  | [] => [x]
  | y :: ys => if lt y x then y :: insertBy lt x ys else x :: y :: ys

/-- A list sorted by insertion, earlier elements ahead among equals. -/
def sortBy {α : Type} (lt : α → α → Bool) (l : List α) : List α :=
  l.foldr (fun x acc => insertBy lt x acc) []

/-! ## Score output and the fused step -/

/-- A dyadic number rounded to at most 62 significant bits, ties to even (R306). -/
def round62 (x : Dy) : Dy :=
  let k : Int := flog2 x.m.natAbs + 1 - 62
  if x.m = 0 ∨ k ≤ 0 then x else (⟨rneShift x.m (-k), x.e + k⟩ : Dy).canon

/-- One operation of the fused step: 0 none, 1 add, 2 multiply (R304). -/
def fuseOp (op : Nat) (x b : Dy) : Dy := if op = 1 then x.add b else if op = 2 then x.mul b else x

/-- The fused value F of R306 from the score-step block, the score tensor, the attribute word and the input value. -/
def fusedValue (step tensor : Bytes) (attr : Nat) (x : Dy) : Dy :=
  let j := attr / 2 ^ field step 2 1 % 256
  let y := if j < field step 4 2 then fuseOp (field step 0 1) x (f32Val (field tensor (4 * j) 4)) else x
  round62 (fuseOp (field step 1 1) y (f32Val (field step 8 4)))

/-- The 16-byte exact score of R183 and R184. -/
def exactScore (x : Dy) (kind : Nat) : Bytes :=
  let c := x.canon
  leBytes 8 (unsign 64 c.m) ++ leBytes 2 (unsign 16 c.e) ++ leBytes 1 kind ++ zeros 5

/-! ## Filters -/

/-- A row with attribute word `a` passes the filter block of R126 (R127). -/
def filterPass (fb : Bytes) (a : Nat) : Bool :=
  let m := field fb 0 8
  let v := field fb 8 8
  let y := field fb 16 8
  let w := a / 2 ^ field fb 24 1 % 65536
  (a &&& m == v &&& m) && (y == 0 || a &&& y != 0) &&
  (field fb 25 1 % 2 == 0 || (decide (field fb 26 2 ≤ w) && decide (w ≤ field fb 28 2)))

/-- The filter block breaks a rule of R128. -/
def filterBad (fb : Bytes) : Bool :=
  decide (field fb 24 1 > 48) || (field fb 25 1 == 1 && decide (field fb 26 2 > field fb 28 2)) ||
  decide (field fb 25 1 > 1) || field fb 30 2 != 0

/-! ## Reductions -/

/-- A dyadic number in the fixed point of R309, least significant bit 2^-672. -/
def fix672 (x : Dy) : Int := rneShift x.m (x.e + 672)

/-- An empty reduction lane. -/
def laneNil : Lane := ⟨0, 0, 0, 0, 0⟩

/-- An integer in the 1,280 bits of an accumulator (R309). -/
def wrap1280 (x : Int) : Int := signed 1280 (unsign 1280 x)

/-- A value added to a lane (R309). -/
def laneAdd (l : Lane) (x : Dy) : Lane :=
  let f := wrap1280 (fix672 x)
  ⟨l.n + 1, wrap1280 (l.sum + f), wrap1280 (l.sq + fix672 (x.mul x)), if l.n = 0 then f else min l.mn f, if l.n = 0 then f else max l.mx f⟩

/-- Two lanes combined exactly (R309, R638). -/
def laneMerge (a b : Lane) : Lane :=
  if a.n = 0 then b else if b.n = 0 then a
  else ⟨a.n + b.n, wrap1280 (a.sum + b.sum), wrap1280 (a.sq + b.sq), min a.mn b.mn, max a.mx b.mx⟩

/-- A fixed-point value of R309 as a rational number. -/
def fixRat (x : Int) : Rat := (x : Rat) / (2 ^ 672 : Nat)

/-- Mean, variance, minimum and maximum of a lane, each FP32 (R310). -/
def laneReport (l : Lane) : List Nat :=
  if l.n = 0 then [0, 0, 0, 0]
  else
    let n : Rat := (l.n : Rat)
    let m := fixRat l.sum / n
    [f32OfRat m, f32OfRat (fixRat l.sq / n - m * m), f32OfRat (fixRat l.mn), f32OfRat (fixRat l.mx)]

/-! ## CRC-32C -/

/-- One bit step of the reflected CRC-32C (R402). -/
def crcBit (c : BitVec 32) : BitVec 32 :=
  if c.getLsbD 0 then (c >>> 1) ^^^ 0x82F63B78#32 else c >>> 1

/-- One byte of the reflected CRC-32C. -/
def crcByte (c : BitVec 32) (b : Byte) : BitVec 32 :=
  crcBit (crcBit (crcBit (crcBit (crcBit (crcBit (crcBit (crcBit (c ^^^ b.zeroExtend 32))))))))

/-- The CRC-32C of a string of bytes (R402). -/
def crc32c (bs : Bytes) : Nat := (bs.foldl crcByte 0xFFFFFFFF#32 ^^^ 0xFFFFFFFF#32).toNat

end Sys2Proof.Machine
end

