-- ==== Sys2Proof/Machine/Layout.lean ====
section
/-!
DEFINITION. Layouts: the geometry of a shelf (R108 to R112, R153, R190, R193, R420, R458), device addresses and the interleave
hash (R543, R545, R547, R548), the directory (R119, R120), and the byte layouts of descriptors, slab headers, key entries,
directory entries and journal slots (R106, R115, R117, R119, R489).
-/
namespace Sys2Proof.Machine

/-! ## Shelf geometry -/

/-- The sweep row width w (R109). -/
def Shelf.w (h : Shelf) : Nat :=
  match h.sweepKind with
  | 0 => 16 * h.sweepWidth
  | 1 => h.sweepWidth / 2
  | 2 => h.sweepWidth
  | _ => roundUp (vecBytes h.elemFormat h.dim) 4

/-- Sketch bits of a sketch shelf (R106). -/
def Shelf.bits (h : Shelf) : Nat := 128 * h.sweepWidth

/-- The record size D (R110). -/
def Shelf.recSize (h : Shelf) : Nat := roundUp (vecBytes h.elemFormat h.dim) 256

/-- D on a deep-store shelf, 0 otherwise (R153, R479). -/
def Shelf.deepSize (h : Shelf) : Nat := if h.fullPlace = 1 then h.recSize else 0

/-- D on a far-store shelf, 0 otherwise (R479). -/
def Shelf.farSize (h : Shelf) : Nat := if h.fullPlace = 2 then h.recSize else 0

/-- The shelf keeps vectors apart from its sweep rows (R254). -/
def Shelf.voiced (h : Shelf) : Bool := h.fullPlace = 1 || h.fullPlace = 2

/-- Bytes of the vector of a record, padded to a multiple of 4 (R420, R458). -/
def Shelf.vecPad (h : Shelf) : Nat := if h.voiced then roundUp (vecBytes h.elemFormat h.dim) 4 else 0

/-- The data record size of R420. -/
def Shelf.dataRec (h : Shelf) : Nat := roundUp (16 + h.w + h.vecPad) 16

/-- The units of 32 B of an insert entry (R458). -/
def Shelf.entryUnits (h : Shelf) : Nat := cdiv (40 + h.w + h.vecPad) 32

/-- Bytes of graphics memory a shelf occupies (R153). -/
def Shelf.bytes (h : Shelf) : Nat := h.capacity * (64 * h.w + 2304 + 64 * h.deepSize + 1280)

/-- Filled rows of the tail slab (R106, R112). -/
def Shelf.tailFill (h : Shelf) : Nat := match h.slabs.getLast? with | none => 0 | some s => s.fill

/-- Filled rows N of the placed view, live or dead (R112). -/
def Shelf.placed (h : Shelf) : Nat := h.slabs.foldl (fun n s => n + s.fill) 0

/-- Steps of a direct slice of `d` elements in an element format (R190). -/
def directSteps (fmt d : Nat) : Nat :=
  max 64 (match fmt with
    | 9 => cdiv d 64
    | 7 => cdiv d 16
    | 5 | 6 => cdiv d 8
    | 8 => d / 8
    | 3 | 4 => 4 * (d / 32) + cdiv (d % 32) 8
    | 1 | 2 => 16 * (d / 32) + cdiv (d % 32) 2
    | _ => 2 * d)

/-- Steps per query group per tile k (R190), for the kind of the sweep. -/
def Shelf.steps (h : Shelf) : Nat :=
  match h.sweepKind with
  | 0 => h.bits / 64
  | 1 | 2 => h.sweepWidth
  | _ => directSteps h.elemFormat h.dim

/-- Steps of a projection, summed over the chain's slices (R210). -/
def projectSteps (fmt d : Nat) : Nat :=
  ((List.range (cdiv d 2048)).map (fun j => directSteps fmt (min 2048 (d - 2048 * j)))).foldl (· + ·) 0

/-- Group slots u of a query group (R193). -/
def Shelf.groupSlots (h : Shelf) : Nat :=
  if h.sweepKind = 1 ∨ h.sweepKind = 2 then 1 else cdiv h.w 512

/-- Bytes of a distance table (R161); 0 unless the shelf is product-code. -/
def Shelf.tableBytes (h : Shelf) : Nat :=
  match h.sweepKind with | 1 => 32 * h.sweepWidth | 2 => 512 * h.sweepWidth | _ => 0

/-- Operand bytes of a search (R416). -/
def Shelf.operandBytes (h : Shelf) : Nat :=
  (if h.sweepKind = 1 ∨ h.sweepKind = 2 then 0 else h.w) + h.vecPad

/-- The order in which a shelf's sweep ranks rows (R177). -/
def Shelf.sweepOrder (h : Shelf) : Order :=
  if h.sweepKind ≠ 3 then .smaller else if h.distance = 0 then .smaller else if h.distance = 1 then .larger else .cosine

/-- The order in which a shelf's final results rank (R178, R307). -/
def Shelf.finalOrder (h : Shelf) : Order :=
  if h.sweepKind ≠ 3 ∧ h.fullPlace = 0 then .smaller
  else if h.distance = 0 then .smaller else if h.distance = 1 then .larger else .cosine

/-- The kind of the exact score (R183). -/
def Shelf.scoreKind (h : Shelf) : Nat :=
  if h.sweepKind ≠ 3 ∧ h.fullPlace = 0 then (if h.sweepKind = 0 then 0 else 1) else 2 + h.distance

/-- Elements per cc of a re-rank unit (R267). -/
def rerankRate : Nat → Nat
  | 0 => 16 | 1 | 2 => 32 | 7 => 128 | 9 => 512 | _ => 64

/-! ## Addresses -/

/-- Granules hashed on each channel: the local granules below the system area (R545, R547). -/
def hashedPerChannel : Nat := 24313856

/-- The hashed reserve in bytes with `c` active channels (R548). -/
def hashedReserve (c : Nat) : Nat := 3584 * 2 ^ 20 - c * 16 * 2 ^ 20

/-- Bytes available to shelves with `c` active channels (R152): c × 5.8125 GiB − 3.5 GiB. -/
def shelfSpace (c : Nat) : Nat := c * 6241124352 - 3584 * 2 ^ 20

/-- The swizzled granule number P of R547. -/
def swizzle (g : Nat) : Nat :=
  let low := (List.range 5).foldl (fun acc j =>
    acc + (if ([0, 5, 10, 15, 20, 25].foldl (fun b o => b ^^ g.testBit (j + o)) false) then 2 ^ j else 0)) 0
  g / 32 * 32 + low

/-- The channel and local granule of device granule `g` among the active channels (R547). -/
def hashGranule (active : List Nat) (g : Nat) : Nat × Nat :=
  let p := swizzle g
  (active.getD (p % active.length) 0, p / active.length)

/-- Bank, row and data slot of a local granule (R543). -/
def granuleSlot (l : Nat) : Nat × Nat × Nat :=
  let q := l / 31
  ((q % 16) ^^^ (q / 16 % 16) ^^^ (q / 256 % 16), q / 16, l % 31)

/-- Primary and mirror of system granule `j` (R545): channel and local granule of each. -/
def systemCopies (active : List Nat) (j : Nat) : (Nat × Nat) × (Nat × Nat) :=
  let c := active.length
  ((active.getD (j % c) 0, 24313856 + j / c), (active.getD ((j + 1) % c) 0, 24346624 + j / c))

/-- Granules of the bytes [a, a + n) of device memory. -/
def granulesOf (a n : Nat) : List Nat :=
  (List.range (cdiv (a % 256 + n) 256)).map (fun i => a / 256 + i)

/-- Granules of slab `j`'s sweep section (R108, R113). -/
def Shelf.sweepGranules (h : Shelf) (j : Nat) : List Nat := granulesOf (h.sweepBase + j * (64 * h.w)) (64 * h.w)

/-- Granules that hold row `r`'s sweep bytes in slab `j` (R113). -/
def Shelf.rowGranules (h : Shelf) (j r : Nat) : List Nat := granulesOf (h.sweepBase + j * (64 * h.w) + r * h.w) h.w

/-- The granule of the key entry of row `r` of slab `j` (R114). -/
def Shelf.keyGranule (h : Shelf) (j r : Nat) : Nat := (h.keyBase + j * 2304 + 256 + 32 * r) / 256

/-- Granules of the record of row `r` of slab `j` on a deep-store shelf (R123). -/
def Shelf.recGranules (h : Shelf) (j r : Nat) : List Nat :=
  if h.fullPlace = 1 then granulesOf (h.deepBase + (64 * j + r) * h.recSize) h.recSize else []

/-- Host address of the far record of row `r` of slab `j` (R123). -/
def Shelf.farAddr (h : Shelf) (j r : Nat) : Nat := h.farBase + (64 * j + r) * h.recSize

/-! ## Directory -/

/-- The home bucket of an id (R120). -/
def homeBucket (buckets handle id : Nat) : Nat := crc32c (leBytes 4 handle ++ leBytes 6 id) % max buckets 1

/-- The shelf keeps arrays on this chip: a head rim that holds no shards keeps a descriptor alone (sub-shelf 9), and a lost shelf holds
none (R571). -/
def Shelf.arrays (h : Shelf) : Bool := h.sub != 9 && !h.released && !h.lost

/-- Buckets reserved by the shelves that keep arrays: 1.25 × 64 × capacity entries each, 16 to a bucket (R120). -/
def dirBuckets (shelves : List Shelf) : Nat := shelves.foldl (fun n h => if h.arrays then n + 5 * h.capacity else n) 0

/-- The buckets a probe passes from bucket `b` on, among `n` (R120): in ascending order, wrapping, to the first that holds an empty entry. An
entry not listed is empty; live and erased ones are listed. The count bounds the full buckets. -/
def probeFrom (dir : List DirEnt) (n : Nat) : Nat → Nat → List Nat
  | 0, b => [b]
  | k + 1, b => if 16 ≤ (dir.filter (fun e => e.slot / 16 == b)).length then b :: probeFrom dir n k ((b + 1) % max n 1) else [b]

/-- The probe chain of an id (R120). -/
def probeChain (dir : List DirEnt) (n handle id : Nat) : List Nat := probeFrom dir n (min (n - 1) (dir.length / 16)) (homeBucket n handle id)

/-- A live entry put into the first slot of its id's probe chain that holds no live entry (R119, R120). -/
def dirInsert (n handle : Nat) (dir : List DirEnt) (id shelf slab row : Nat) : List DirEnt :=
  let slots := (probeChain dir n handle id).flatMap (fun b => (List.range 16).map (fun i => 16 * b + i))
  let k := (slots.find? (fun k => !(dir.any (fun e => e.slot == k && e.state == .live)))).getD 0
  ⟨k, id, shelf, slab, row, .live⟩ :: dir.filter (fun e => e.slot != k)

/-- The directory formed again over the buckets the shelves reserve now: every live entry of a shelf that keeps arrays goes, in order of its slot,
into its probe chain (DESIGN CHOICE, log entry 76: the home bucket of R120 depends on the bucket count, which changes with every shelf
created or released, and no rule says how the entries follow). -/
def rehash (shelves : List Shelf) (dir : List DirEnt) : List DirEnt :=
  let n := dirBuckets shelves
  (sortBy (fun (a b : DirEnt) => decide (a.slot < b.slot)) (dir.filter (fun e => e.state == .live))).foldl (fun d e =>
    match shelves.find? (fun h => h.index == e.shelf && h.arrays) with
    | some h => dirInsert n h.handle d e.id e.shelf e.slab e.row
    | none => d) []

/-! ## Byte layouts -/

/-- The key entry of a row (R115); an unfilled row reads as its reserved id with filled 0 (R112, R116). -/
def keyBytes (r : Row) : Bytes :=
  leBytes 6 r.id ++ leBytes 1 ((if r.filled then 1 else 0) + (if r.moved then 2 else 0)) ++ zeros 1 ++ leBytes 8 r.attr ++
  leBytes 4 r.sqNorm ++ leBytes 6 r.rowGen ++ zeros 6

/-- The slab header (R117). -/
def headerBytes (h : Shelf) (j : Nat) (s : Slab) : Bytes :=
  leBytes 8 s.tomb ++ leBytes 6 s.gen ++ zeros 2 ++ leBytes 4 h.handle ++ leBytes 4 j ++ leBytes 1 s.fill ++
  leBytes 1 s.writer ++ zeros 2 ++ leBytes 4 s.opSeq ++ zeros 224

/-- The shelf descriptor (R106); a lost shelf's sizes and bases read 0 (R571). -/
def descriptorBytes (h : Shelf) (live dead : Nat) : Bytes :=
  let z := fun (v : Nat) => if h.lost then 0 else v
  leBytes 4 h.handle ++ padTo 32 (h.name.take 32) ++ leBytes 1 h.sweepKind ++ leBytes 1 h.sweepWidth ++
  leBytes 1 h.elemFormat ++ leBytes 1 h.distance ++ leBytes 2 h.dim ++ leBytes 1 h.fullPlace ++ leBytes 1 h.replicas ++
  leBytes 2 h.ownerSeat ++ leBytes 2 (if h.dropping then 1 else 0) ++ leBytes 6 h.gen ++ leBytes 2 h.index ++
  leBytes 4 (z h.slabs.length) ++ leBytes 1 (z h.tailFill) ++ zeros 3 ++ leBytes 8 (z h.sweepBase) ++
  leBytes 8 (z h.keyBase) ++ leBytes 8 (z h.deepBase) ++ leBytes 8 h.farBase ++ leBytes 4 h.capacity ++ zeros 4 ++
  leBytes 8 (z live) ++ leBytes 8 (z dead) ++ zeros 136

/-- A directory entry (R119). -/
def dirBytes (e : DirEnt) : Bytes :=
  leBytes 6 e.id ++ leBytes 2 e.shelf ++ leBytes 4 e.slab ++ leBytes 1 e.row ++
  leBytes 1 (match e.state with | .empty => 0 | .live => 1 | .erased => 2) ++ zeros 2

/-- The number of a slab operation in a journal slot (R489). -/
def opCode : SlabOp → Nat
  | .place => 1 | .mark => 2 | .move => 3 | .trim => 4

/-- A journal slot (R489). -/
def journalBytes (j : Journal) : Bytes :=
  leBytes 1 j.jstate ++ leBytes 1 (opCode j.op) ++ leBytes 2 j.shelf ++ leBytes 4 j.target ++ leBytes 1 j.firstRow ++
  leBytes 1 j.rows ++ zeros 6 ++ leBytes 4 j.source ++ leBytes 1 j.sourceRow ++ zeros 3 ++ leBytes 8 j.oldTomb ++
  leBytes 4 j.newCount ++ leBytes 1 j.newTail ++ zeros 3 ++ leBytes 4 j.targetSeq ++ leBytes 4 j.sourceSeq ++ zeros 16

/-! ## Staged and placed values -/

/-- A staging entry's header and body (R457, R458). -/
def stagingBytes (e : StgEnt) : Bytes :=
  let flags := (if e.superseded then 1 else 0) + (if e.tombWritten then 2 else 0) + (if e.settle then 4 else 0)
  let head := leBytes 6 e.id ++ leBytes 2 e.shelf ++ leBytes 1 (if e.kill then 2 else 1) ++ leBytes 1 flags ++
    leBytes 2 e.units ++ leBytes 4 e.commitMeasure ++ leBytes 4 (e.endMeasure.getD 0xFFFFFFFF) ++ leBytes 4 e.order ++
    (if e.kill then leBytes 4 e.slab ++ leBytes 1 e.row ++ zeros 3 else leBytes 8 e.attr)
  if e.kill then head else padTo (32 * e.units) (head ++ leBytes 4 e.sqNorm ++ zeros 4 ++ e.sweep ++ e.vec)

/-- The handles an insert entry is formed with: a tombstone word with the bits of some rows set. -/
def setTomb (w : Nat) (rows : List Nat) : Nat := rows.foldl (fun a r => a ||| 2 ^ r) w

/-- A tombstone word with the bits of some rows cleared. -/
def clearTomb (w : Nat) (rows : List Nat) : Nat :=
  rows.foldl (fun a r => if a.testBit r then a - 2 ^ r else a) w

end Sys2Proof.Machine
end

