-- ==== Sys2Proof/Config.lean ====
section
/-!
DEFINITION. What an implementation or a part fixes, and the free values: each a constant with no body, so that no proof can
see what it is. Each is named in the assumption log.
-/
namespace Sys2Proof

/-- The stepping code, fused at manufacture (R885). -/
opaque Config.stepping : BitVec 8
/-- The Vendor ID, from fuses, and the Subsystem IDs, from module flash (R365). -/
opaque Config.vendorId : BitVec 16
opaque Config.subsystemVendorId : BitVec 16
opaque Config.subsystemId : BitVec 16
/-- What the host has put into the message address and data words of a function's MSI-X table, by function and word (R370). -/
opaque Config.msixWord : Nat → Nat → BitVec 32
/-- The module serial number, written at manufacture (R885). -/
opaque Config.serial : BitVec 64
/-- A byte of the flash as it leaves manufacture, by flash address: the image in bank A, the module record (R689). -/
opaque Config.shippedByte : Nat → BitVec 8
/-- The rated capacitance C of the hold-up bank in µF, in the module record (R665). -/
opaque Config.ratedC : Nat
/-- The SHA-384 hash of an ECDSA P-384 public key fused in a key slot (R797). -/
opaque Config.keyHash : Nat → BitVec 384
/-- The fused count of ones of the minimum security version, 0 to 64 (R797). -/
opaque Config.svnFused : Fin 65
/-- The fused revocation bits, one per key slot (R797). -/
opaque Config.revoked : BitVec 3
/-- The slot number strapped on SLOT_ID (R684). -/
opaque Config.slotId : BitVec 4
/-- The manufacturer code of the IDCODE, from fuses (R871). -/
opaque Config.maker : BitVec 11
/-- The coefficient table of the module record fails its CRC (R835). -/
opaque Config.coeffBad : Bool
/-- The seed a scrambler starts from, by strand and lane (R587). -/
opaque Config.seed : Nat → Nat → BitVec 31
/-- The events an energy estimate counts, in the order of R831. -/
inductive EnergyEvent where
  | fill | gated | granule | tableLine | unit | staging | coda | hostByte | block
  deriving DecidableEq, Repr

/-- The energy coefficients of the module record (R831), in 1/65,536 nJ: the event, its class (format, or link speed), and the pin-rate set. -/
opaque Config.coefficient : EnergyEvent → Nat → Nat → Nat
/-- The fixed estimate per record of the placement and compaction a mutation will cause (R432), in 1/65,536 nJ. -/
opaque Config.perRecord : Nat
/-- The module energy measured over a measure (R535, R701), in nJ. -/
opaque Config.moduleEnergy : Nat → BitVec 48
/-- A value from the random source of the boot authentication unit (R537). -/
opaque Config.random : Nat → BitVec 32
/-- A byte the spec leaves undefined, such as the bytes of a suppressed run (R334). -/
opaque Config.freeByte : Nat → BitVec 8
/-- A measured quantity the spec states only as measured: a duration, a count of cycles. -/
opaque Config.measured : Nat → BitVec 32
/-- The device address a full training gives the spill area, the staging image and the journal (R549), by the number of active
channels. -/
opaque Config.baseAddr : Nat → Nat → BitVec 64

end Sys2Proof
end

