-- ==== Sys2Proof/Machine/RegFile.lean ====
section
/-!
DEFINITION. The register file: register fields (R25 to R29), access codes (R30), Survives letters (R31), and the canonical
list of the fields that differ from their reset values.
-/
namespace Sys2Proof.Machine

/-- The access codes of R30. -/
inductive Acc where
  | rw | ro | wo | w1c | w1s | rwl | rwo
  deriving DecidableEq, Repr

/-- One field of a register table (R29): base offset of the register, lowest bit, width, stride and count of its index, reset
values (one for all indices, or one per index), access code, the Survives letters as a mask (P 1, M 2, W 4, S 8, T 16, F 32),
whether it lies in the function window, and whether it is a live field of R886. -/
structure Fld where
  off : Nat
  lo : Nat
  width : Nat
  stride : Nat
  count : Nat
  resets : List Nat
  acc : Acc
  surv : Nat
  win : Bool
  live : Bool
  deriving DecidableEq, Repr

/-- The reset value of instance `i` of a field. -/
def resetOf (f : Fld) (i : Nat) : Nat :=
  match f.resets with
  | [v] => v
  | l => l.getD i 0

/-- The key of a field's instance: the bit address of its lowest bit in BAR0, with the seat above it for a function window. -/
def regKey (f : Fld) (seat i : Nat) : Nat :=
  ((if f.win then (seat + 1) * 2 ^ 24 else 0) + f.off + f.stride * i) * 32 + f.lo

/-- The value listed for a key. -/
def regFind (k : Nat) : List (Nat × Nat) → Option Nat
  | [] => none
  | (k', v) :: l => if k = k' then some v else regFind k l

/-- The list with the entry of a key removed. -/
def regErase (k : Nat) : List (Nat × Nat) → List (Nat × Nat)
  | [] => []
  | (k', v) :: l => if k = k' then l else (k', v) :: regErase k l

/-- The list with an entry put in its place by key. -/
def regInsert (k v : Nat) : List (Nat × Nat) → List (Nat × Nat)
  | [] => [(k, v)]
  | (k', v') :: l =>
    if k < k' then (k, v) :: (k', v') :: l
    else if k = k' then (k, v) :: l
    else (k', v') :: regInsert k v l

/-- The value of instance `i` of a field, in the window of `seat` where the field lies in a function window. -/
def regGet (f : Fld) (seat i : Nat) (r : List (Nat × Nat)) : Nat :=
  (regFind (regKey f seat i) r).getD (resetOf f i)

/-- Instance `i` of a field set to the low bits of a value; a value equal to the reset value is not listed. -/
def regSet (f : Fld) (seat i v : Nat) (r : List (Nat × Nat)) : List (Nat × Nat) :=
  if v % 2 ^ f.width = resetOf f i then regErase (regKey f seat i) r
  else regInsert (regKey f seat i) (v % 2 ^ f.width) r

/-- The keys of the list rise strictly: the canonical form of the register file. -/
def regSorted : List (Nat × Nat) → Bool
  | [] => true
  | [_] => true
  | (k, _) :: (k', v') :: l => decide (k < k') && regSorted ((k', v') :: l)

end Sys2Proof.Machine
end

