-- ==== Sys2Proof/Machine/Regs.lean ====
section
/-!
DEFINITION. The register tables of the spec (the tables of chapters 01 to 19 with the columns of R29), one `Fld` per field:
offset, lowest bit, width, stride and count of the index, reset values, access code (R30), survives mask (R31), whether the
register lies in the function window (R368) and whether it is a live field (R886).
-/
namespace Sys2Proof.Machine

/-- `MEAS_CTRL.source` [1:0], reset 0, survives WST. -/
def measCtrlSource : Fld := ⟨0x2000, 0, 2, 0, 1, [0], .rwo, 28, false, false⟩
/-- `MEAS_CTRL.edge` [2], reset 0, survives WST. -/
def measCtrlEdge : Fld := ⟨0x2000, 2, 1, 0, 1, [0], .rwo, 28, false, false⟩
/-- `MEAS_CTRL.holdover_en` [3], reset 1, survives WST. -/
def measCtrlHoldoverEn : Fld := ⟨0x2000, 3, 1, 0, 1, [1], .rwo, 28, false, false⟩
/-- `MEAS_PERIOD.ticks` [30:0], reset 0x0F42_4000, survives WST. -/
def measPeriodTicks : Fld := ⟨0x2004, 0, 31, 0, 1, [256000000], .rwo, 28, false, false⟩
/-- `MEAS_TAIL.bg_permille` [7:0], reset 20, survives WST. -/
def measTailBgPermille : Fld := ⟨0x2008, 0, 8, 0, 1, [20], .rwo, 28, false, false⟩
/-- `MEAS_TAIL.margin_permille` [15:8], reset 30, survives WST. -/
def measTailMarginPermille : Fld := ⟨0x2008, 8, 8, 0, 1, [30], .rwo, 28, false, false⟩
/-- `MEAS_TAIL.defer_limit` [19:16], reset 2, survives WST. -/
def measTailDeferLimit : Fld := ⟨0x2008, 16, 4, 0, 1, [2], .rwo, 28, false, false⟩
/-- `MEAS_POINT_BUDGET.granules` [23:0], reset 65,536, survives WST. -/
def measPointBudgetGranules : Fld := ⟨0x200c, 0, 24, 0, 1, [65536], .rwo, 28, false, false⟩
/-- `MEAS_FAR_BW.gbps` [9:0], reset 64, survives WST. -/
def measFarBwGbps : Fld := ⟨0x2010, 0, 10, 0, 1, [64], .rwo, 28, false, false⟩
/-- `MEAS_NUMBER.value` [31:0], reset 0, survives WST. -/
def measNumberValue : Fld := ⟨0x2014, 0, 32, 0, 1, [0], .ro, 28, false, false⟩
/-- `MEAS_STATUS.locked` [0], reset 0, survives —. -/
def measStatusLocked : Fld := ⟨0x2018, 0, 1, 0, 1, [0], .ro, 0, false, true⟩
/-- `MEAS_STATUS.holdover` [1], reset 0, survives —. -/
def measStatusHoldover : Fld := ⟨0x2018, 1, 1, 0, 1, [0], .ro, 0, false, true⟩
/-- `MEAS_STATUS.kappa` [24:16], reset 256, survives —. -/
def measStatusKappa : Fld := ⟨0x2018, 16, 9, 0, 1, [256], .ro, 0, false, true⟩
/-- `MEAS_EVENT.early_edge` [0], reset 0, survives ST. -/
def measEventEarlyEdge : Fld := ⟨0x201c, 0, 1, 0, 1, [0], .w1c, 24, false, false⟩
/-- `MEAS_EVENT.missed_edge` [1], reset 0, survives ST. -/
def measEventMissedEdge : Fld := ⟨0x201c, 1, 1, 0, 1, [0], .w1c, 24, false, false⟩
/-- `MEAS_EVENT.source_lost` [2], reset 0, survives ST. -/
def measEventSourceLost : Fld := ⟨0x201c, 2, 1, 0, 1, [0], .w1c, 24, false, false⟩
/-- `MEAS_EVENT.overrun` [3], reset 0, survives ST. -/
def measEventOverrun : Fld := ⟨0x201c, 3, 1, 0, 1, [0], .w1c, 24, false, false⟩
/-- `MEAS_EVENT.fetch_late` [4], reset 0, survives ST. -/
def measEventFetchLate : Fld := ⟨0x201c, 4, 1, 0, 1, [0], .w1c, 24, false, false⟩
/-- `MEAS_EVENT.bad_config` [5], reset 0, survives ST. -/
def measEventBadConfig : Fld := ⟨0x201c, 5, 1, 0, 1, [0], .w1c, 24, false, false⟩
/-- `MEAS_LAST_PLAN.ns` [31:0], reset 0, survives ST. -/
def measLastPlanNs : Fld := ⟨0x2020, 0, 32, 0, 1, [0], .ro, 24, false, false⟩
/-- `MEAS_LAST_USED.ns` [31:0], reset 0, survives ST. -/
def measLastUsedNs : Fld := ⟨0x2024, 0, 32, 0, 1, [0], .ro, 24, false, false⟩
/-- `SWP_MAPOUT_LO.engines` [31:0], reset 0, survives WST. -/
def swpMapoutLoEngines : Fld := ⟨0x3000, 0, 32, 0, 1, [0], .rwo, 28, false, false⟩
/-- `SWP_MAPOUT_HI.engines` [31:0], reset 0, survives WST. -/
def swpMapoutHiEngines : Fld := ⟨0x3004, 0, 32, 0, 1, [0], .rwo, 28, false, false⟩
/-- `SWP_ACTIVE_LO.engines` [31:0], reset 0, survives —. -/
def swpActiveLoEngines : Fld := ⟨0x3008, 0, 32, 0, 1, [0], .ro, 0, false, true⟩
/-- `SWP_ACTIVE_HI.engines` [31:0], reset 0, survives —. -/
def swpActiveHiEngines : Fld := ⟨0x300c, 0, 32, 0, 1, [0], .ro, 0, false, true⟩
/-- `SWP_ERST_LO.engines` [31:0], reset 0, survives —. -/
def swpErstLoEngines : Fld := ⟨0x3010, 0, 32, 0, 1, [0], .wo, 0, false, true⟩
/-- `SWP_ERST_HI.engines` [31:0], reset 0, survives —. -/
def swpErstHiEngines : Fld := ⟨0x3014, 0, 32, 0, 1, [0], .wo, 0, false, true⟩
/-- `SWP_EVENT.engine_fault` [0], reset 0, survives ST. -/
def swpEventEngineFault : Fld := ⟨0x3018, 0, 1, 0, 1, [0], .w1c, 24, false, false⟩
/-- `SWP_EVENT.reissue_ok` [1], reset 0, survives ST. -/
def swpEventReissueOk : Fld := ⟨0x3018, 1, 1, 0, 1, [0], .w1c, 24, false, false⟩
/-- `SWP_EVENT.reissue_short` [2], reset 0, survives ST. -/
def swpEventReissueShort : Fld := ⟨0x3018, 2, 1, 0, 1, [0], .w1c, 24, false, false⟩
/-- `SWP_EVENT.chain_refused` [3], reset 0, survives ST. -/
def swpEventChainRefused : Fld := ⟨0x3018, 3, 1, 0, 1, [0], .w1c, 24, false, false⟩
/-- `SWP_PASS_MAX.cc` [31:0], reset 0, survives ST. -/
def swpPassMaxCc : Fld := ⟨0x301c, 0, 32, 0, 1, [0], .ro, 24, false, false⟩
/-- `SWP_PASS_EST.cc` [31:0], reset 0, survives ST. -/
def swpPassEstCc : Fld := ⟨0x3020, 0, 32, 0, 1, [0], .ro, 24, false, false⟩
/-- `SWP_STATUS[e].state` [2:0], reset 0, survives —. -/
def swpStatusState : Fld := ⟨0x3100, 0, 3, 4, 64, [0], .ro, 0, false, true⟩
/-- `SWP_STATUS[e].code_group` [3], reset 0, survives —. -/
def swpStatusCodeGroup : Fld := ⟨0x3100, 3, 1, 4, 64, [0], .ro, 0, false, true⟩
/-- `SWP_STATUS[e].slots` [8:4], reset 0, survives —. -/
def swpStatusSlots : Fld := ⟨0x3100, 4, 5, 4, 64, [0], .ro, 0, false, true⟩
/-- `SWP_BUSY[e].cc` [31:0], reset 0, survives ST. -/
def swpBusyCc : Fld := ⟨0x3200, 0, 32, 4, 64, [0], .ro, 24, false, false⟩
/-- `SWP_TILES[e].count` [31:0], reset 0, survives ST. -/
def swpTilesCount : Fld := ⟨0x3300, 0, 32, 4, 64, [0], .ro, 24, false, false⟩
/-- `ACC_FOLD_INEXACT.count` [31:0], reset 0, survives ST. -/
def accFoldInexactCount : Fld := ⟨0x3800, 0, 32, 0, 1, [0], .ro, 24, false, false⟩
/-- `ACC_RERANK_INEXACT.count` [31:0], reset 0, survives ST. -/
def accRerankInexactCount : Fld := ⟨0x3804, 0, 32, 0, 1, [0], .ro, 24, false, false⟩
/-- `ACC_SPILL_FULL.count` [31:0], reset 0, survives ST. -/
def accSpillFullCount : Fld := ⟨0x3808, 0, 32, 0, 1, [0], .ro, 24, false, false⟩
/-- `ACC_SPILL_COMPACT.count` [31:0], reset 0, survives ST. -/
def accSpillCompactCount : Fld := ⟨0x380c, 0, 32, 0, 1, [0], .ro, 24, false, false⟩
/-- `ACC_SPILL_BASE_LO.addr` [31:0], reset 0, survives WST. -/
def accSpillBaseLoAddr : Fld := ⟨0x3810, 0, 32, 0, 1, [0], .ro, 28, false, false⟩
/-- `ACC_SPILL_BASE_HI.addr` [31:0], reset 0, survives WST. -/
def accSpillBaseHiAddr : Fld := ⟨0x3814, 0, 32, 0, 1, [0], .ro, 28, false, false⟩
/-- `ACC_EVENT.spill_lost` [0], reset 0, survives ST. -/
def accEventSpillLost : Fld := ⟨0x3818, 0, 1, 0, 1, [0], .w1c, 24, false, false⟩
/-- `VOI_FAR_LAT.ns` [15:0], reset 2,000, survives WST. -/
def voiFarLatNs : Fld := ⟨0x4000, 0, 16, 0, 1, [2000], .rwo, 28, false, false⟩
/-- `VOI_ACTIVE.count` [14:0], reset 0, survives —. -/
def voiActiveCount : Fld := ⟨0x4004, 0, 15, 0, 1, [0], .ro, 0, false, true⟩
/-- `VOI_LAST_VOICES.count` [14:0], reset 0, survives ST. -/
def voiLastVoicesCount : Fld := ⟨0x4008, 0, 15, 0, 1, [0], .ro, 24, false, false⟩
/-- `VOI_LAST_CANDS.count` [20:0], reset 0, survives ST. -/
def voiLastCandsCount : Fld := ⟨0x400c, 0, 21, 0, 1, [0], .ro, 24, false, false⟩
/-- `VOI_LAST_RERANK.ns` [31:0], reset 0, survives ST. -/
def voiLastRerankNs : Fld := ⟨0x4010, 0, 32, 0, 1, [0], .ro, 24, false, false⟩
/-- `VOI_SWITCHES.count` [31:0], reset 0, survives ST. -/
def voiSwitchesCount : Fld := ⟨0x4014, 0, 32, 0, 1, [0], .ro, 24, false, false⟩
/-- `VOI_FAR_LAT_MAX.ns` [31:0], reset 0, survives ST. -/
def voiFarLatMaxNs : Fld := ⟨0x4018, 0, 32, 0, 1, [0], .ro, 24, false, false⟩
/-- `VOI_EVENT.far_slow` [0], reset 0, survives ST. -/
def voiEventFarSlow : Fld := ⟨0x401c, 0, 1, 0, 1, [0], .w1c, 24, false, false⟩
/-- `VOI_EVENT.far_error` [1], reset 0, survives ST. -/
def voiEventFarError : Fld := ⟨0x401c, 1, 1, 0, 1, [0], .w1c, 24, false, false⟩
/-- `VOI_EVENT.deep_error` [2], reset 0, survives ST. -/
def voiEventDeepError : Fld := ⟨0x401c, 2, 1, 0, 1, [0], .w1c, 24, false, false⟩
/-- `VOI_EVENT.stopped` [3], reset 0, survives ST. -/
def voiEventStopped : Fld := ⟨0x401c, 3, 1, 0, 1, [0], .w1c, 24, false, false⟩
/-- `VOI_EVENT.bad_config` [4], reset 0, survives ST. -/
def voiEventBadConfig : Fld := ⟨0x401c, 4, 1, 0, 1, [0], .w1c, 24, false, false⟩
/-- `VOI_UNIT_BUSY[u].cc` [31:0], reset 0, survives ST. -/
def voiUnitBusyCc : Fld := ⟨0x4100, 0, 32, 4, 16, [0], .ro, 24, false, false⟩
/-- `VOI_UNIT_IDLE[u].cc` [31:0], reset 0, survives ST. -/
def voiUnitIdleCc : Fld := ⟨0x4140, 0, 32, 4, 16, [0], .ro, 24, false, false⟩
/-- `CODA_POST_LIMIT[k].bytes` [31:0], reset 0, survives —. -/
def codaPostLimitBytes : Fld := ⟨0x4800, 0, 32, 4, 2, [0], .ro, 0, false, true⟩
/-- `CODA_LAST_POST.bytes` [31:0], reset 0, survives ST. -/
def codaLastPostBytes : Fld := ⟨0x4808, 0, 32, 0, 1, [0], .ro, 24, false, false⟩
/-- `CODA_LAST_POST_END.ns` [31:0], reset 0, survives ST. -/
def codaLastPostEndNs : Fld := ⟨0x480c, 0, 32, 0, 1, [0], .ro, 24, false, false⟩
/-- `CODA_TIE_READS.count` [31:0], reset 0, survives ST. -/
def codaTieReadsCount : Fld := ⟨0x4810, 0, 32, 0, 1, [0], .ro, 24, false, false⟩
/-- `CODA_KEY_READS.count` [31:0], reset 0, survives ST. -/
def codaKeyReadsCount : Fld := ⟨0x4814, 0, 32, 0, 1, [0], .ro, 24, false, false⟩
/-- `CODA_FINISH.ns` [31:0], reset 0, survives ST. -/
def codaFinishNs : Fld := ⟨0x4818, 0, 32, 0, 1, [0], .ro, 24, false, false⟩
/-- `CODA_EVENT.band_early` [0], reset 0, survives ST. -/
def codaEventBandEarly : Fld := ⟨0x481c, 0, 1, 0, 1, [0], .w1c, 24, false, false⟩
/-- `CODA_EVENT.band_cut` [1], reset 0, survives ST. -/
def codaEventBandCut : Fld := ⟨0x481c, 1, 1, 0, 1, [0], .w1c, 24, false, false⟩
/-- `CODA_LIST_PEAK[c].entries` [18:0], reset 0, survives ST. -/
def codaListPeakEntries : Fld := ⟨0x4900, 0, 19, 4, 8, [0], .ro, 24, false, false⟩
/-- `CODA_BAND_PEAK[c].entries` [16:0], reset 0, survives ST. -/
def codaBandPeakEntries : Fld := ⟨0x4920, 0, 17, 4, 8, [0], .ro, 24, false, false⟩
/-- `SWP_STALL_CAUSE[e].cc` [31:0], reset 0, survives ST. -/
def swpStallCauseCc : Fld := ⟨0x5000, 0, 32, 4, 512, [0], .ro, 24, false, false⟩
/-- `STRM_QCTRL[q].priority` [2:0], reset per R321, survives WST. -/
def strmQctrlPriority : Fld := ⟨0x5800, 0, 3, 4, 32, [3,3,3,3,3,3,3,3,3,3,3,3,3,3,3,3,5,5,3,6,4,4,4,4,4,4,4,7,0,0,6,2], .rwo, 28, false, false⟩
/-- `STRM_GRANULES[q].count` [31:0], reset 0, survives ST. -/
def strmGranulesCount : Fld := ⟨0x5880, 0, 32, 4, 32, [0], .ro, 24, false, false⟩
/-- `STRM_BLOCKED[q].cc` [31:0], reset 0, survives ST. -/
def strmBlockedCc : Fld := ⟨0x5900, 0, 32, 4, 32, [0], .ro, 24, false, false⟩
/-- `STRM_SHORT[q].count` [31:0], reset 0, survives ST. -/
def strmShortCount : Fld := ⟨0x5980, 0, 32, 4, 32, [0], .ro, 24, false, false⟩
/-- `STRM_TCACHE_FILL.count` [31:0], reset 0, survives ST. -/
def strmTcacheFillCount : Fld := ⟨0x5a00, 0, 32, 0, 1, [0], .ro, 24, false, false⟩
/-- `STRM_TCACHE_SERVED.count` [31:0], reset 0, survives ST. -/
def strmTcacheServedCount : Fld := ⟨0x5a04, 0, 32, 0, 1, [0], .ro, 24, false, false⟩
/-- `STRM_TCACHE_REREAD.count` [31:0], reset 0, survives ST. -/
def strmTcacheRereadCount : Fld := ⟨0x5a08, 0, 32, 0, 1, [0], .ro, 24, false, false⟩
/-- `STRM_BARRIER.ns` [31:0], reset 0, survives ST. -/
def strmBarrierNs : Fld := ⟨0x5a0c, 0, 32, 0, 1, [0], .ro, 24, false, false⟩
/-- `STRM_EVENT.bad_figure` [0], reset 0, survives ST. -/
def strmEventBadFigure : Fld := ⟨0x5a10, 0, 1, 0, 1, [0], .w1c, 24, false, false⟩
/-- `STRM_EVENT.bad_config` [1], reset 0, survives ST. -/
def strmEventBadConfig : Fld := ⟨0x5a10, 1, 1, 0, 1, [0], .w1c, 24, false, false⟩
/-- `STRM_EVENT.granule_lost` [2], reset 0, survives ST. -/
def strmEventGranuleLost : Fld := ⟨0x5a10, 2, 1, 0, 1, [0], .w1c, 24, false, false⟩
/-- `STRM_EVENT.stop_point` [3], reset 0, survives ST. -/
def strmEventStopPoint : Fld := ⟨0x5a10, 3, 1, 0, 1, [0], .w1c, 24, false, false⟩
/-- `HST_ID.device` [15:0], reset 0x3064, survives PMWST. -/
def hstIdDevice : Fld := ⟨0x0, 0, 16, 0, 1, [12388], .ro, 31, false, false⟩
/-- `HST_ID.stepping` [23:16], reset fused, survives PMWST. -/
def hstIdStepping : Fld := ⟨0x0, 16, 8, 0, 1, [Config.stepping.toNat], .ro, 31, false, false⟩
/-- `HST_PORT_MODE.split` [0], reset strap, survives MWST. -/
def hstPortModeSplit : Fld := ⟨0x4, 0, 1, 0, 1, [0], .ro, 30, false, false⟩
/-- `HST_LINK[k].width` [4:0], reset 0, survives —. -/
def hstLinkWidth : Fld := ⟨0x10, 0, 5, 4, 2, [0], .ro, 0, false, true⟩
/-- `HST_LINK[k].speed` [10:8], reset 0, survives —. -/
def hstLinkSpeed : Fld := ⟨0x10, 8, 3, 4, 2, [0], .ro, 0, false, true⟩
/-- `HST_LINK[k].flit` [12], reset 0, survives —. -/
def hstLinkFlit : Fld := ⟨0x10, 12, 1, 4, 2, [0], .ro, 0, false, true⟩
/-- `HST_LINK[k].up` [13], reset 0, survives —. -/
def hstLinkUp : Fld := ⟨0x10, 13, 1, 4, 2, [0], .ro, 0, false, true⟩
/-- `HST_EVENT.retrain` [0], reset 0, survives ST. -/
def hstEventRetrain : Fld := ⟨0x20, 0, 1, 0, 1, [0], .w1c, 24, false, false⟩
/-- `HST_EVENT.malformed` [1], reset 0, survives ST. -/
def hstEventMalformed : Fld := ⟨0x20, 1, 1, 0, 1, [0], .w1c, 24, false, false⟩
/-- `HST_MALFORMED.count` [31:0], reset 0, survives ST. -/
def hstMalformedCount : Fld := ⟨0x24, 0, 32, 0, 1, [0], .ro, 24, false, false⟩
/-- `HST_SBQ_BASE_LO[i].addr` [31:0], reset 0, survives ST. -/
def hstSbqBaseLoAddr : Fld := ⟨0x1000, 0, 32, 32, 8, [0], .rw, 24, true, false⟩
/-- `HST_SBQ_BASE_HI[i].addr` [31:0], reset 0, survives ST. -/
def hstSbqBaseHiAddr : Fld := ⟨0x1004, 0, 32, 32, 8, [0], .rw, 24, true, false⟩
/-- `HST_SBQ_CTRL[i].size_log2` [4:0], reset 0, survives ST. -/
def hstSbqCtrlSizeLog2 : Fld := ⟨0x1008, 0, 5, 32, 8, [0], .rw, 24, true, false⟩
/-- `HST_SBQ_CTRL[i].cpq` [10:8], reset 0, survives ST. -/
def hstSbqCtrlCpq : Fld := ⟨0x1008, 8, 3, 32, 8, [0], .rw, 24, true, false⟩
/-- `HST_SBQ_CTRL[i].enable` [16], reset 0, survives ST. -/
def hstSbqCtrlEnable : Fld := ⟨0x1008, 16, 1, 32, 8, [0], .rw, 24, true, false⟩
/-- `HST_SBQ_STATUS[i].fetch` [15:0], reset 0, survives ST. -/
def hstSbqStatusFetch : Fld := ⟨0x100c, 0, 16, 32, 8, [0], .ro, 24, true, false⟩
/-- `HST_SBQ_STATUS[i].idle` [16], reset 1, survives ST. -/
def hstSbqStatusIdle : Fld := ⟨0x100c, 16, 1, 32, 8, [1], .ro, 24, true, false⟩
/-- `HST_SBQ_STATUS[i].error` [17], reset 0, survives ST. -/
def hstSbqStatusError : Fld := ⟨0x100c, 17, 1, 32, 8, [0], .ro, 24, true, false⟩
/-- `HST_CPQ_BASE_LO[j].addr` [31:0], reset 0, survives ST. -/
def hstCpqBaseLoAddr : Fld := ⟨0x1100, 0, 32, 32, 8, [0], .rw, 24, true, false⟩
/-- `HST_CPQ_BASE_HI[j].addr` [31:0], reset 0, survives ST. -/
def hstCpqBaseHiAddr : Fld := ⟨0x1104, 0, 32, 32, 8, [0], .rw, 24, true, false⟩
/-- `HST_CPQ_CTRL[j].size_log2` [4:0], reset 0, survives ST. -/
def hstCpqCtrlSizeLog2 : Fld := ⟨0x1108, 0, 5, 32, 8, [0], .rw, 24, true, false⟩
/-- `HST_CPQ_CTRL[j].vector` [11:8], reset 0, survives ST. -/
def hstCpqCtrlVector : Fld := ⟨0x1108, 8, 4, 32, 8, [0], .rw, 24, true, false⟩
/-- `HST_CPQ_CTRL[j].int_en` [12], reset 0, survives ST. -/
def hstCpqCtrlIntEn : Fld := ⟨0x1108, 12, 1, 32, 8, [0], .rw, 24, true, false⟩
/-- `HST_CPQ_CTRL[j].enable` [16], reset 0, survives ST. -/
def hstCpqCtrlEnable : Fld := ⟨0x1108, 16, 1, 32, 8, [0], .rw, 24, true, false⟩
/-- `HST_CPQ_COAL[j].count` [7:0], reset 0, survives ST. -/
def hstCpqCoalCount : Fld := ⟨0x110c, 0, 8, 32, 8, [0], .rw, 24, true, false⟩
/-- `HST_CPQ_COAL[j].time` [15:8], reset 0, survives ST. -/
def hstCpqCoalTime : Fld := ⟨0x110c, 8, 8, 32, 8, [0], .rw, 24, true, false⟩
/-- `HST_CPQ_STATUS[j].tail` [15:0], reset 0, survives ST. -/
def hstCpqStatusTail : Fld := ⟨0x1110, 0, 16, 32, 8, [0], .ro, 24, true, false⟩
/-- `HST_CPQ_STATUS[j].phase` [16], reset 1, survives ST. -/
def hstCpqStatusPhase : Fld := ⟨0x1110, 16, 1, 32, 8, [1], .ro, 24, true, false⟩
/-- `HST_CPQ_STATUS[j].idle` [17], reset 1, survives ST. -/
def hstCpqStatusIdle : Fld := ⟨0x1110, 17, 1, 32, 8, [1], .ro, 24, true, false⟩
/-- `HST_FCTRL.beat_int` [0], reset 0, survives ST. -/
def hstFctrlBeatInt : Fld := ⟨0x1200, 0, 1, 0, 1, [0], .rw, 24, true, false⟩
/-- `HST_FEVENT.bad_queue` [0], reset 0, survives ST. -/
def hstFeventBadQueue : Fld := ⟨0x1204, 0, 1, 0, 1, [0], .w1c, 24, true, false⟩
/-- `HST_FEVENT.bad_doorbell` [1], reset 0, survives ST. -/
def hstFeventBadDoorbell : Fld := ⟨0x1204, 1, 1, 0, 1, [0], .w1c, 24, true, false⟩
/-- `HST_FEVENT.fetch_error` [2], reset 0, survives ST. -/
def hstFeventFetchError : Fld := ⟨0x1204, 2, 1, 0, 1, [0], .w1c, 24, true, false⟩
/-- `HST_FEVENT.post_dropped` [3], reset 0, survives ST. -/
def hstFeventPostDropped : Fld := ⟨0x1204, 3, 1, 0, 1, [0], .w1c, 24, true, false⟩
/-- `HST_FEVENT.cpq_wait` [4], reset 0, survives ST. -/
def hstFeventCpqWait : Fld := ⟨0x1204, 4, 1, 0, 1, [0], .w1c, 24, true, false⟩
/-- `HST_BAD_DOORBELL.count` [31:0], reset 0, survives ST. -/
def hstBadDoorbellCount : Fld := ⟨0x1208, 0, 32, 0, 1, [0], .ro, 24, true, false⟩
/-- `HST_POST_DROPPED.count` [31:0], reset 0, survives ST. -/
def hstPostDroppedCount : Fld := ⟨0x120c, 0, 32, 0, 1, [0], .ro, 24, true, false⟩
/-- `HST_CPQ_WAIT_NS.ns` [31:0], reset 0, survives ST. -/
def hstCpqWaitNsNs : Fld := ⟨0x1210, 0, 32, 0, 1, [0], .ro, 24, true, false⟩
/-- `ZCP_SECTION_WEIGHT.w0` [3:0], reset 8, survives WST. -/
def zcpSectionWeightW0 : Fld := ⟨0x6000, 0, 4, 0, 1, [8], .rwo, 28, false, false⟩
/-- `ZCP_SECTION_WEIGHT.w1` [7:4], reset 6, survives WST. -/
def zcpSectionWeightW1 : Fld := ⟨0x6000, 4, 4, 0, 1, [6], .rwo, 28, false, false⟩
/-- `ZCP_SECTION_WEIGHT.w2` [11:8], reset 3, survives WST. -/
def zcpSectionWeightW2 : Fld := ⟨0x6000, 8, 4, 0, 1, [3], .rwo, 28, false, false⟩
/-- `ZCP_SECTION_WEIGHT.w3` [15:12], reset 1, survives WST. -/
def zcpSectionWeightW3 : Fld := ⟨0x6000, 12, 4, 0, 1, [1], .rwo, 28, false, false⟩
/-- `ZCP_GRANT_LIMIT.seat` [6:0], reset 16, survives WST. -/
def zcpGrantLimitSeat : Fld := ⟨0x6004, 0, 7, 0, 1, [16], .rwo, 28, false, false⟩
/-- `ZCP_GRANT_LIMIT.chip` [26:16], reset 256, survives WST. -/
def zcpGrantLimitChip : Fld := ⟨0x6004, 16, 11, 0, 1, [256], .rwo, 28, false, false⟩
/-- `ZCP_GRANTS_OUT.count` [10:0], reset 0, survives —. -/
def zcpGrantsOutCount : Fld := ⟨0x6008, 0, 11, 0, 1, [0], .ro, 0, false, true⟩
/-- `ZCP_EVENT.crc` [0], reset 0, survives ST. -/
def zcpEventCrc : Fld := ⟨0x600c, 0, 1, 0, 1, [0], .w1c, 24, false, false⟩
/-- `ZCP_EVENT.seq_clash` [1], reset 0, survives ST. -/
def zcpEventSeqClash : Fld := ⟨0x600c, 1, 1, 0, 1, [0], .w1c, 24, false, false⟩
/-- `ZCP_EVENT.flush_cut` [2], reset 0, survives ST. -/
def zcpEventFlushCut : Fld := ⟨0x600c, 2, 1, 0, 1, [0], .w1c, 24, false, false⟩
/-- `ZCP_EVENT.grant_revoked` [3], reset 0, survives ST. -/
def zcpEventGrantRevoked : Fld := ⟨0x600c, 3, 1, 0, 1, [0], .w1c, 24, false, false⟩
/-- `ZCP_EVENT.intake_wait` [4], reset 0, survives ST. -/
def zcpEventIntakeWait : Fld := ⟨0x600c, 4, 1, 0, 1, [0], .w1c, 24, false, false⟩
/-- `ZCP_EVENT.bad_config` [5], reset 0, survives ST. -/
def zcpEventBadConfig : Fld := ⟨0x600c, 5, 1, 0, 1, [0], .w1c, 24, false, false⟩
/-- `ZCP_EVENT.table_full` [6], reset 0, survives ST. -/
def zcpEventTableFull : Fld := ⟨0x600c, 6, 1, 0, 1, [0], .w1c, 24, false, false⟩
/-- `ZCP_CRC_ERRORS.count` [31:0], reset 0, survives ST. -/
def zcpCrcErrorsCount : Fld := ⟨0x6010, 0, 32, 0, 1, [0], .ro, 24, false, false⟩
/-- `ZCP_DUPLICATES.count` [31:0], reset 0, survives ST. -/
def zcpDuplicatesCount : Fld := ⟨0x6014, 0, 32, 0, 1, [0], .ro, 24, false, false⟩
/-- `ZCP_FLUSH_CUT.count` [31:0], reset 0, survives ST. -/
def zcpFlushCutCount : Fld := ⟨0x6018, 0, 32, 0, 1, [0], .ro, 24, false, false⟩
/-- `ZCP_GRANTS_REVOKED.count` [31:0], reset 0, survives ST. -/
def zcpGrantsRevokedCount : Fld := ⟨0x601c, 0, 32, 0, 1, [0], .ro, 24, false, false⟩
/-- `ZCP_INTAKE_WAIT_NS.ns` [31:0], reset 0, survives ST. -/
def zcpIntakeWaitNsNs : Fld := ⟨0x6020, 0, 32, 0, 1, [0], .ro, 24, false, false⟩
/-- `ZCP_SEQ_LAST[t].sequence` [31:0], reset 0, survives WST. -/
def zcpSeqLastSequence : Fld := ⟨0x6100, 0, 32, 4, 65, [0], .ro, 28, false, false⟩
/-- `STG_CTRL.wait_measures` [3:0], reset 2, survives WST. -/
def stgCtrlWaitMeasures : Fld := ⟨0x7000, 0, 4, 0, 1, [2], .rwo, 28, false, false⟩
/-- `STG_CTRL.delete_reserve` [12:8], reset 4, survives WST. -/
def stgCtrlDeleteReserve : Fld := ⟨0x7000, 8, 5, 0, 1, [4], .rwo, 28, false, false⟩
/-- `STG_USED.units` [20:0], reset 0, survives —. -/
def stgUsedUnits : Fld := ⟨0x7004, 0, 21, 0, 1, [0], .ro, 0, false, true⟩
/-- `STG_INSERTS.count` [20:0], reset 0, survives —. -/
def stgInsertsCount : Fld := ⟨0x7008, 0, 21, 0, 1, [0], .ro, 0, false, true⟩
/-- `STG_KILLS.count` [20:0], reset 0, survives —. -/
def stgKillsCount : Fld := ⟨0x700c, 0, 21, 0, 1, [0], .ro, 0, false, true⟩
/-- `STG_PEAK.units` [20:0], reset 0, survives ST. -/
def stgPeakUnits : Fld := ⟨0x7010, 0, 21, 0, 1, [0], .ro, 24, false, false⟩
/-- `STG_PLACED.rows` [31:0], reset 0, survives ST. -/
def stgPlacedRows : Fld := ⟨0x7014, 0, 32, 0, 1, [0], .ro, 24, false, false⟩
/-- `STG_MARKED.rows` [31:0], reset 0, survives ST. -/
def stgMarkedRows : Fld := ⟨0x7018, 0, 32, 0, 1, [0], .ro, 24, false, false⟩
/-- `STG_MOVED.rows` [31:0], reset 0, survives ST. -/
def stgMovedRows : Fld := ⟨0x701c, 0, 32, 0, 1, [0], .ro, 24, false, false⟩
/-- `STG_BG_USED.ns` [31:0], reset 0, survives ST. -/
def stgBgUsedNs : Fld := ⟨0x7020, 0, 32, 0, 1, [0], .ro, 24, false, false⟩
/-- `STG_HELD.count` [20:0], reset 0, survives ST. -/
def stgHeldCount : Fld := ⟨0x7024, 0, 21, 0, 1, [0], .ro, 24, false, false⟩
/-- `STG_LOST.count` [31:0], reset 0, survives ST. -/
def stgLostCount : Fld := ⟨0x7028, 0, 32, 0, 1, [0], .ro, 24, false, false⟩
/-- `STG_PRESENT_ID_LO.id` [31:0], reset 0, survives ST. -/
def stgPresentIdLoId : Fld := ⟨0x702c, 0, 32, 0, 1, [0], .ro, 24, false, false⟩
/-- `STG_PRESENT_ID_HI.id` [15:0], reset 0, survives ST. -/
def stgPresentIdHiId : Fld := ⟨0x7030, 0, 16, 0, 1, [0], .ro, 24, false, false⟩
/-- `STG_PT_HITS.count` [31:0], reset 0, survives ST. -/
def stgPtHitsCount : Fld := ⟨0x7034, 0, 32, 0, 1, [0], .ro, 24, false, false⟩
/-- `STG_EVENT.staging_full` [0], reset 0, survives ST. -/
def stgEventStagingFull : Fld := ⟨0x7038, 0, 1, 0, 1, [0], .w1c, 24, false, false⟩
/-- `STG_EVENT.id_present` [1], reset 0, survives ST. -/
def stgEventIdPresent : Fld := ⟨0x7038, 1, 1, 0, 1, [0], .w1c, 24, false, false⟩
/-- `STG_EVENT.lost` [2], reset 0, survives ST. -/
def stgEventLost : Fld := ⟨0x7038, 2, 1, 0, 1, [0], .w1c, 24, false, false⟩
/-- `STG_EVENT.image_bad` [3], reset 0, survives ST. -/
def stgEventImageBad : Fld := ⟨0x7038, 3, 1, 0, 1, [0], .w1c, 24, false, false⟩
/-- `STG_EVENT.recovered` [4], reset 0, survives ST. -/
def stgEventRecovered : Fld := ⟨0x7038, 4, 1, 0, 1, [0], .w1c, 24, false, false⟩
/-- `STG_EVENT.far_held` [5], reset 0, survives ST. -/
def stgEventFarHeld : Fld := ⟨0x7038, 5, 1, 0, 1, [0], .w1c, 24, false, false⟩
/-- `STG_EVENT.bad_config` [6], reset 0, survives ST. -/
def stgEventBadConfig : Fld := ⟨0x7038, 6, 1, 0, 1, [0], .w1c, 24, false, false⟩
/-- `STG_EVENT.op_lost` [7], reset 0, survives ST. -/
def stgEventOpLost : Fld := ⟨0x7038, 7, 1, 0, 1, [0], .w1c, 24, false, false⟩
/-- `STG_IMAGE_BASE_LO.addr` [31:0], reset 0, survives WST. -/
def stgImageBaseLoAddr : Fld := ⟨0x7040, 0, 32, 0, 1, [0], .ro, 28, false, false⟩
/-- `STG_IMAGE_BASE_HI.addr` [31:0], reset 0, survives WST. -/
def stgImageBaseHiAddr : Fld := ⟨0x7044, 0, 32, 0, 1, [0], .ro, 28, false, false⟩
/-- `STG_JOURNAL_BASE_LO.addr` [31:0], reset 0, survives WST. -/
def stgJournalBaseLoAddr : Fld := ⟨0x7048, 0, 32, 0, 1, [0], .ro, 28, false, false⟩
/-- `STG_JOURNAL_BASE_HI.addr` [31:0], reset 0, survives WST. -/
def stgJournalBaseHiAddr : Fld := ⟨0x704c, 0, 32, 0, 1, [0], .ro, 28, false, false⟩
/-- `OWN_STATE.state` [1:0], reset 0, survives ST. -/
def ownStateState : Fld := ⟨0x8000, 0, 2, 0, 1, [0], .ro, 24, false, false⟩
/-- `OWN_STATE.owner` [14:8], reset 0, survives ST. -/
def ownStateOwner : Fld := ⟨0x8000, 8, 7, 0, 1, [0], .ro, 24, false, false⟩
/-- `OWN_STATE.successor` [22:16], reset 0, survives ST. -/
def ownStateSuccessor : Fld := ⟨0x8000, 16, 7, 0, 1, [0], .ro, 24, false, false⟩
/-- `OWN_STATE.priority` [31:24], reset 0, survives ST. -/
def ownStatePriority : Fld := ⟨0x8000, 24, 8, 0, 1, [0], .ro, 24, false, false⟩
/-- `OWN_NONCE_LO.nonce` [31:0], reset 0, survives ST. -/
def ownNonceLoNonce : Fld := ⟨0x8004, 0, 32, 0, 1, [0], .ro, 24, false, false⟩
/-- `OWN_NONCE_HI.nonce` [31:0], reset 0, survives ST. -/
def ownNonceHiNonce : Fld := ⟨0x8008, 0, 32, 0, 1, [0], .ro, 24, false, false⟩
/-- `OWN_LEASE.length` [12:0], reset 256, survives WST. -/
def ownLeaseLength : Fld := ⟨0x800c, 0, 13, 0, 1, [256], .rwo, 28, false, false⟩
/-- `OWN_LEASE_LEFT.measures` [12:0], reset 0, survives ST. -/
def ownLeaseLeftMeasures : Fld := ⟨0x8010, 0, 13, 0, 1, [0], .ro, 24, false, false⟩
/-- `OWN_LAST_CHANGE.measure` [31:0], reset 0, survives ST. -/
def ownLastChangeMeasure : Fld := ⟨0x8014, 0, 32, 0, 1, [0], .ro, 24, false, false⟩
/-- `OWN_CLAIM_MASK_LO.seats` [31:0], reset from flash, survives WST. -/
def ownClaimMaskLoSeats : Fld := ⟨0x8018, 0, 32, 0, 1, [1], .rwo, 28, false, false⟩
/-- `OWN_CLAIM_MASK_HI.seats` [31:0], reset from flash, survives WST. -/
def ownClaimMaskHiSeats : Fld := ⟨0x801c, 0, 32, 0, 1, [2], .rwo, 28, false, false⟩
/-- `OWN_CLAIM_MASK_EXT.seat64` [0], reset from flash, survives WST. -/
def ownClaimMaskExtSeat64 : Fld := ⟨0x8020, 0, 1, 0, 1, [0], .rwo, 28, false, false⟩
/-- `OWN_EVENT.nonowner_write` [0], reset 0, survives ST. -/
def ownEventNonownerWrite : Fld := ⟨0x8024, 0, 1, 0, 1, [0], .w1c, 24, false, false⟩
/-- `OWN_EVENT.lease_expired` [1], reset 0, survives ST. -/
def ownEventLeaseExpired : Fld := ⟨0x8024, 1, 1, 0, 1, [0], .w1c, 24, false, false⟩
/-- `OWN_EVENT.offer_lapsed` [2], reset 0, survives ST. -/
def ownEventOfferLapsed : Fld := ⟨0x8024, 2, 1, 0, 1, [0], .w1c, 24, false, false⟩
/-- `OWN_EVENT.election` [3], reset 0, survives ST. -/
def ownEventElection : Fld := ⟨0x8024, 3, 1, 0, 1, [0], .w1c, 24, false, false⟩
/-- `OWN_EVENT.bad_config` [4], reset 0, survives ST. -/
def ownEventBadConfig : Fld := ⟨0x8024, 4, 1, 0, 1, [0], .w1c, 24, false, false⟩
/-- `OWN_NONOWNER_WRITES.count` [31:0], reset 0, survives ST. -/
def ownNonownerWritesCount : Fld := ⟨0x8028, 0, 32, 0, 1, [0], .ro, 24, false, false⟩
/-- `OWN_NONOWNER_LAST.seat` [6:0], reset 0, survives ST. -/
def ownNonownerLastSeat : Fld := ⟨0x802c, 0, 7, 0, 1, [0], .ro, 24, false, false⟩
/-- `OWN_METER_EPOCH.value` [31:0], reset random, survives WST. -/
def ownMeterEpochValue : Fld := ⟨0x8030, 0, 32, 0, 1, [0], .ro, 28, false, false⟩
/-- `OWN_METER_MODULE_LO.nj` [31:0], reset 0, survives WST. -/
def ownMeterModuleLoNj : Fld := ⟨0x8034, 0, 32, 0, 1, [0], .ro, 28, false, false⟩
/-- `OWN_METER_MODULE_HI.nj` [31:0], reset 0, survives WST. -/
def ownMeterModuleHiNj : Fld := ⟨0x8038, 0, 32, 0, 1, [0], .ro, 28, false, false⟩
/-- `OWN_SEAT_CTRL[t].sections` [4:0], reset 0x1E, survives WST. -/
def ownSeatCtrlSections : Fld := ⟨0x8100, 0, 5, 4, 65, [30], .rwo, 28, false, false⟩
/-- `OWN_SEAT_CTRL[t].quota` [31:16], reset 0, survives WST. -/
def ownSeatCtrlQuota : Fld := ⟨0x8100, 16, 16, 4, 65, [0], .rwo, 28, false, false⟩
/-- `OWN_METER_LO[t].nj` [31:0], reset 0, survives WST. -/
def ownMeterLoNj : Fld := ⟨0x8300, 0, 32, 8, 65, [0], .ro, 28, false, false⟩
/-- `OWN_METER_HI[t].nj` [31:0], reset 0, survives WST. -/
def ownMeterHiNj : Fld := ⟨0x8304, 0, 32, 8, 65, [0], .ro, 28, false, false⟩
/-- `HST_OWN_NOTICE.bits` [5:0], reset 0, survives ST. -/
def hstOwnNoticeBits : Fld := ⟨0x1220, 0, 6, 0, 1, [0], .w1c, 24, true, false⟩
/-- `GDM_CTRL.rate` [1:0], reset from flash, survives WSTF. -/
def gdmCtrlRate : Fld := ⟨0x10000, 0, 2, 0, 1, [0], .rwo, 60, false, false⟩
/-- `GDM_CTRL.auto_mapout` [4], reset 1, survives WST. -/
def gdmCtrlAutoMapout : Fld := ⟨0x10000, 4, 1, 0, 1, [1], .rwo, 28, false, false⟩
/-- `GDM_MAPOUT.channels` [23:0], reset from fault record, survives PMWSTF. -/
def gdmMapoutChannels : Fld := ⟨0x10004, 0, 24, 0, 1, [0], .rwo, 63, false, false⟩
/-- `GDM_ACTIVE.channels` [23:0], reset set at training, survives WSTF. -/
def gdmActiveChannels : Fld := ⟨0x10008, 0, 24, 0, 1, [0], .ro, 60, false, false⟩
/-- `GDM_STATUS.relaying` [0], reset 0, survives —. -/
def gdmStatusRelaying : Fld := ⟨0x1000c, 0, 1, 0, 1, [0], .ro, 0, false, true⟩
/-- `GDM_STATUS.rate_now` [2:1], reset set at training, survives WSTF. -/
def gdmStatusRateNow : Fld := ⟨0x1000c, 1, 2, 0, 1, [0], .ro, 60, false, false⟩
/-- `GDM_STATUS.below_min` [3], reset 0, survives —. -/
def gdmStatusBelowMin : Fld := ⟨0x1000c, 3, 1, 0, 1, [0], .ro, 0, false, true⟩
/-- `GDM_RETRAIN.interval` [9:0], reset 100, survives WST. -/
def gdmRetrainInterval : Fld := ⟨0x10010, 0, 10, 0, 1, [100], .rwo, 28, false, false⟩
/-- `GDM_RETRAIN.temp_step` [15:12], reset 8, survives WST. -/
def gdmRetrainTempStep : Fld := ⟨0x10010, 12, 4, 0, 1, [8], .rwo, 28, false, false⟩
/-- `GDM_SCRUB.hours` [7:0], reset 24, survives WST. -/
def gdmScrubHours : Fld := ⟨0x10014, 0, 8, 0, 1, [24], .rwo, 28, false, false⟩
/-- `GDM_EVENT.fault` [0], reset 0, survives ST. -/
def gdmEventFault : Fld := ⟨0x10018, 0, 1, 0, 1, [0], .w1c, 24, false, false⟩
/-- `GDM_EVENT.ce` [1], reset 0, survives ST. -/
def gdmEventCe : Fld := ⟨0x10018, 1, 1, 0, 1, [0], .w1c, 24, false, false⟩
/-- `GDM_EVENT.ue` [2], reset 0, survives ST. -/
def gdmEventUe : Fld := ⟨0x10018, 2, 1, 0, 1, [0], .w1c, 24, false, false⟩
/-- `GDM_EVENT.crc_retry` [3], reset 0, survives ST. -/
def gdmEventCrcRetry : Fld := ⟨0x10018, 3, 1, 0, 1, [0], .w1c, 24, false, false⟩
/-- `GDM_EVENT.scrub_behind` [4], reset 0, survives ST. -/
def gdmEventScrubBehind : Fld := ⟨0x10018, 4, 1, 0, 1, [0], .w1c, 24, false, false⟩
/-- `GDM_EVENT.layout` [5], reset 0, survives ST. -/
def gdmEventLayout : Fld := ⟨0x10018, 5, 1, 0, 1, [0], .w1c, 24, false, false⟩
/-- `GDM_EVENT.bad_config` [6], reset 0, survives ST. -/
def gdmEventBadConfig : Fld := ⟨0x10018, 6, 1, 0, 1, [0], .w1c, 24, false, false⟩
/-- `GDM_UE_LAST_LO.granule` [31:0], reset 0, survives ST. -/
def gdmUeLastLoGranule : Fld := ⟨0x1001c, 0, 32, 0, 1, [0], .ro, 24, false, false⟩
/-- `GDM_UE_LAST_HI.channel` [4:0], reset 0, survives ST. -/
def gdmUeLastHiChannel : Fld := ⟨0x10020, 0, 5, 0, 1, [0], .ro, 24, false, false⟩
/-- `GDM_UE_LAST_HI.system` [8], reset 0, survives ST. -/
def gdmUeLastHiSystem : Fld := ⟨0x10020, 8, 1, 0, 1, [0], .ro, 24, false, false⟩
/-- `GDM_LAYOUT_MEASURE.measure` [31:0], reset 0, survives WST. -/
def gdmLayoutMeasureMeasure : Fld := ⟨0x10024, 0, 32, 0, 1, [0], .ro, 28, false, false⟩
/-- `GDM_CH[h].state` [2:0], reset 0, survives —. -/
def gdmChState : Fld := ⟨0x10100, 0, 3, 16, 24, [0], .ro, 0, false, true⟩
/-- `GDM_CH[h].temp` [15:8], reset 0, survives —. -/
def gdmChTemp : Fld := ⟨0x10100, 8, 8, 16, 24, [0], .ro, 0, false, true⟩
/-- `GDM_CE[h].count` [31:0], reset 0, survives WST. -/
def gdmCeCount : Fld := ⟨0x10104, 0, 32, 16, 24, [0], .ro, 28, false, false⟩
/-- `GDM_UE[h].count` [31:0], reset 0, survives WST. -/
def gdmUeCount : Fld := ⟨0x10108, 0, 32, 16, 24, [0], .ro, 28, false, false⟩
/-- `GDM_CRC_RETRY[h].count` [31:0], reset 0, survives WST. -/
def gdmCrcRetryCount : Fld := ⟨0x1010c, 0, 32, 16, 24, [0], .ro, 28, false, false⟩
/-- `GDM_LOST[i].shelves` [31:0], reset 0, survives WSTF. -/
def gdmLostShelves : Fld := ⟨0x11000, 0, 32, 4, 128, [0], .ro, 60, false, false⟩
/-- `WV_CTRL.rejoin` [7:0], reset 16, survives WST. -/
def wvCtrlRejoin : Fld := ⟨0x20000, 0, 8, 0, 1, [16], .rwo, 28, false, false⟩
/-- `WV_CTRL.rebuild_gbps` [17:8], reset 4, survives WST. -/
def wvCtrlRebuildGbps : Fld := ⟨0x20000, 8, 10, 0, 1, [4], .rwo, 28, false, false⟩
/-- `WV_SELF.addr` [11:0], reset 0xFFF, survives WST. -/
def wvSelfAddr : Fld := ⟨0x20004, 0, 12, 0, 1, [4095], .ro, 28, false, false⟩
/-- `WV_SELF.role` [13:12], reset 0, survives WST. -/
def wvSelfRole : Fld := ⟨0x20004, 12, 2, 0, 1, [0], .ro, 28, false, false⟩
/-- `WV_SELF.depth` [17:16], reset 0, survives WST. -/
def wvSelfDepth : Fld := ⟨0x20004, 16, 2, 0, 1, [0], .ro, 28, false, false⟩
/-- `WV_PARENT.addr` [11:0], reset 0xFFF, survives WST. -/
def wvParentAddr : Fld := ⟨0x20008, 0, 12, 0, 1, [4095], .ro, 28, false, false⟩
/-- `WV_PARENT.strand` [21:16], reset 0, survives WST. -/
def wvParentStrand : Fld := ⟨0x20008, 16, 6, 0, 1, [0], .ro, 28, false, false⟩
/-- `WV_PARENT.alt` [29:24], reset 0, survives WST. -/
def wvParentAlt : Fld := ⟨0x20008, 24, 6, 0, 1, [0], .ro, 28, false, false⟩
/-- `WV_DEPUTY.addr` [11:0], reset 0xFFF, survives WST. -/
def wvDeputyAddr : Fld := ⟨0x2000c, 0, 12, 0, 1, [4095], .ro, 28, false, false⟩
/-- `WV_DEPUTY.ok` [16], reset 0, survives —. -/
def wvDeputyOk : Fld := ⟨0x2000c, 16, 1, 0, 1, [0], .ro, 0, false, true⟩
/-- `WV_EPOCH.value` [15:0], reset 0, survives WST. -/
def wvEpochValue : Fld := ⟨0x20010, 0, 16, 0, 1, [0], .ro, 28, false, false⟩
/-- `WV_MAPOUT_LO.strands` [31:0], reset 0, survives WST. -/
def wvMapoutLoStrands : Fld := ⟨0x20014, 0, 32, 0, 1, [0], .rwo, 28, false, false⟩
/-- `WV_MAPOUT_HI.strands` [31:0], reset 0, survives WST. -/
def wvMapoutHiStrands : Fld := ⟨0x20018, 0, 32, 0, 1, [0], .rwo, 28, false, false⟩
/-- `WV_STRST_LO.strands` [31:0], reset 0, survives —. -/
def wvStrstLoStrands : Fld := ⟨0x2001c, 0, 32, 0, 1, [0], .wo, 0, false, true⟩
/-- `WV_STRST_HI.strands` [31:0], reset 0, survives —. -/
def wvStrstHiStrands : Fld := ⟨0x20020, 0, 32, 0, 1, [0], .wo, 0, false, true⟩
/-- `WV_EVENT.train_fail` [0], reset 0, survives ST. -/
def wvEventTrainFail : Fld := ⟨0x20024, 0, 1, 0, 1, [0], .w1c, 24, false, false⟩
/-- `WV_EVENT.foreign` [1], reset 0, survives ST. -/
def wvEventForeign : Fld := ⟨0x20024, 1, 1, 0, 1, [0], .w1c, 24, false, false⟩
/-- `WV_EVENT.config_late` [2], reset 0, survives ST. -/
def wvEventConfigLate : Fld := ⟨0x20024, 2, 1, 0, 1, [0], .w1c, 24, false, false⟩
/-- `WV_EVENT.branch_missing` [3], reset 0, survives ST. -/
def wvEventBranchMissing : Fld := ⟨0x20024, 3, 1, 0, 1, [0], .w1c, 24, false, false⟩
/-- `WV_EVENT.member_lost` [4], reset 0, survives ST. -/
def wvEventMemberLost : Fld := ⟨0x20024, 4, 1, 0, 1, [0], .w1c, 24, false, false⟩
/-- `WV_EVENT.promoted` [5], reset 0, survives ST. -/
def wvEventPromoted : Fld := ⟨0x20024, 5, 1, 0, 1, [0], .w1c, 24, false, false⟩
/-- `WV_EVENT.bad_config` [6], reset 0, survives ST. -/
def wvEventBadConfig : Fld := ⟨0x20024, 6, 1, 0, 1, [0], .w1c, 24, false, false⟩
/-- `WV_EVENT.bad_message` [7], reset 0, survives ST. -/
def wvEventBadMessage : Fld := ⟨0x20024, 7, 1, 0, 1, [0], .w1c, 24, false, false⟩
/-- `WV_MARGIN.mv` [7:0], reset 24, survives WST. -/
def wvMarginMv : Fld := ⟨0x20028, 0, 8, 0, 1, [24], .rwo, 28, false, false⟩
/-- `WV_KEY_LAST.ns` [31:0], reset 0, survives ST. -/
def wvKeyLastNs : Fld := ⟨0x2002c, 0, 32, 0, 1, [0], .ro, 24, false, false⟩
/-- `WV_PLAIT_LAST.ns` [31:0], reset 0, survives ST. -/
def wvPlaitLastNs : Fld := ⟨0x20030, 0, 32, 0, 1, [0], .ro, 24, false, false⟩
/-- `WV_STRAND[s].state` [2:0], reset 0, survives —. -/
def wvStrandState : Fld := ⟨0x20100, 0, 3, 32, 64, [0], .ro, 0, false, true⟩
/-- `WV_STRAND[s].spare_used` [4], reset 0, survives —. -/
def wvStrandSpareUsed : Fld := ⟨0x20100, 4, 1, 32, 64, [0], .ro, 0, false, true⟩
/-- `WV_STRAND[s].failed_lane` [7:5], reset 7, survives —. -/
def wvStrandFailedLane : Fld := ⟨0x20100, 5, 3, 32, 64, [7], .ro, 0, false, true⟩
/-- `WV_STRAND[s].use` [9:8], reset 0, survives —. -/
def wvStrandUse : Fld := ⟨0x20100, 8, 2, 32, 64, [0], .ro, 0, false, true⟩
/-- `WV_STRAND[s].peer` [27:16], reset 0xFFF, survives —. -/
def wvStrandPeer : Fld := ⟨0x20100, 16, 12, 32, 64, [4095], .ro, 0, false, true⟩
/-- `WV_DELAY[s].ps` [15:0], reset 0, survives —. -/
def wvDelayPs : Fld := ⟨0x20104, 0, 16, 32, 64, [0], .ro, 0, false, true⟩
/-- `WV_CE[s].count` [31:0], reset 0, survives ST. -/
def wvCeCount : Fld := ⟨0x20108, 0, 32, 32, 64, [0], .ro, 24, false, false⟩
/-- `WV_REPLAY[s].count` [31:0], reset 0, survives ST. -/
def wvReplayCount : Fld := ⟨0x2010c, 0, 32, 32, 64, [0], .ro, 24, false, false⟩
/-- `WV_ALIGN_SLIP[s].count` [31:0], reset 0, survives ST. -/
def wvAlignSlipCount : Fld := ⟨0x20110, 0, 32, 32, 64, [0], .ro, 24, false, false⟩
/-- `PWR_HOLDUP.armed` [0], reset 0, survives —. -/
def pwrHoldupArmed : Fld := ⟨0x40800, 0, 1, 0, 1, [0], .ro, 0, false, true⟩
/-- `PWR_HOLDUP.gauge_fault` [1], reset 0, survives —. -/
def pwrHoldupGaugeFault : Fld := ⟨0x40800, 1, 1, 0, 1, [0], .ro, 0, false, true⟩
/-- `PWR_GAUGE.mj` [15:0], reset 0, survives —. -/
def pwrGaugeMj : Fld := ⟨0x40804, 0, 16, 0, 1, [0], .ro, 0, false, true⟩
/-- `PWR_GAUGE.bank_v` [31:16], reset 0, survives —. -/
def pwrGaugeBankV : Fld := ⟨0x40804, 16, 16, 0, 1, [0], .ro, 0, false, true⟩
/-- `PWR_GAUGE_V.mj` [15:0], reset 0, survives —. -/
def pwrGaugeVMj : Fld := ⟨0x40808, 0, 16, 0, 1, [0], .ro, 0, false, true⟩
/-- `PWR_GAUGE_Q.mj` [31:16], reset 0, survives —. -/
def pwrGaugeQMj : Fld := ⟨0x40808, 16, 16, 0, 1, [0], .ro, 0, false, true⟩
/-- `PWR_QUIESCE.budget_mj` [10:0], reset 800, survives MWSTF. -/
def pwrQuiesceBudgetMj : Fld := ⟨0x4080c, 0, 11, 0, 1, [800], .rwo, 62, false, false⟩
/-- `PWR_EFUSE.trips` [15:0], reset 0, survives MWSTF. -/
def pwrEfuseTrips : Fld := ⟨0x40810, 0, 16, 0, 1, [0], .ro, 62, false, false⟩
/-- `PWR_EFUSE.locked` [16], reset 0, survives MWSTF. -/
def pwrEfuseLocked : Fld := ⟨0x40810, 16, 1, 0, 1, [0], .ro, 62, false, false⟩
/-- `PWR_INPUT.mw` [19:0], reset 0, survives —. -/
def pwrInputMw : Fld := ⟨0x40814, 0, 20, 0, 1, [0], .ro, 0, false, true⟩
/-- `PWR_EVENT.gauge_fault` [0], reset 0, survives MWSTF. -/
def pwrEventGaugeFault : Fld := ⟨0x40818, 0, 1, 0, 1, [0], .w1c, 62, false, false⟩
/-- `PWR_EVENT.unarmed` [1], reset 0, survives MWSTF. -/
def pwrEventUnarmed : Fld := ⟨0x40818, 1, 1, 0, 1, [0], .w1c, 62, false, false⟩
/-- `PWR_EVENT.eject` [2], reset 0, survives MWSTF. -/
def pwrEventEject : Fld := ⟨0x40818, 2, 1, 0, 1, [0], .w1c, 62, false, false⟩
/-- `PWR_EVENT.efuse_trip` [3], reset 0, survives MWSTF. -/
def pwrEventEfuseTrip : Fld := ⟨0x40818, 3, 1, 0, 1, [0], .w1c, 62, false, false⟩
/-- `PWR_EVENT.fermata` [4], reset 0, survives MWSTF. -/
def pwrEventFermata : Fld := ⟨0x40818, 4, 1, 0, 1, [0], .w1c, 62, false, false⟩
/-- `PWR_EVENT.bad_config` [5], reset 0, survives MWSTF. -/
def pwrEventBadConfig : Fld := ⟨0x40818, 5, 1, 0, 1, [0], .w1c, 62, false, false⟩
/-- `MGC_FW_STATE.active_bank` [1:0], reset from boot record, survives MWSTF. -/
def mgcFwStateActiveBank : Fld := ⟨0x61000, 0, 2, 0, 1, [0], .ro, 62, false, false⟩
/-- `MGC_FW_STATE.staged_state` [3:2], reset from boot record, survives MWSTF. -/
def mgcFwStateStagedState : Fld := ⟨0x61000, 2, 2, 0, 1, [0], .ro, 62, false, false⟩
/-- `MGC_FW_STATE.last_boot` [5:4], reset from boot record, survives MWSTF. -/
def mgcFwStateLastBoot : Fld := ⟨0x61000, 4, 2, 0, 1, [0], .ro, 62, false, false⟩
/-- `MGC_FW_ACTIVE_LO.version` [31:0], reset from flash, survives PMWSTF. -/
def mgcFwActiveLoVersion : Fld := ⟨0x61004, 0, 32, 0, 1, [0], .ro, 63, false, false⟩
/-- `MGC_FW_ACTIVE_HI.version` [31:0], reset from flash, survives PMWSTF. -/
def mgcFwActiveHiVersion : Fld := ⟨0x61008, 0, 32, 0, 1, [0], .ro, 63, false, false⟩
/-- `SPM_CLK.div` [6:0], reset 8, survives MWSTF. -/
def spmClkDiv : Fld := ⟨0x30000, 0, 7, 0, 1, [8], .ro, 62, false, false⟩
/-- `SPM_TIMING.css` [7:0], reset 4, survives MWSTF. -/
def spmTimingCss : Fld := ⟨0x30004, 0, 8, 0, 1, [4], .ro, 62, false, false⟩
/-- `SPM_TIMING.csh` [15:8], reset 4, survives MWSTF. -/
def spmTimingCsh : Fld := ⟨0x30004, 8, 8, 0, 1, [4], .ro, 62, false, false⟩
/-- `SPM_TIMING.csd` [23:16], reset 8, survives MWSTF. -/
def spmTimingCsd : Fld := ⟨0x30004, 16, 8, 0, 1, [8], .ro, 62, false, false⟩
/-- `SPM_XIP_CFG.cmd` [15:0], reset 0x0013, survives MWSTF. -/
def spmXipCfgCmd : Fld := ⟨0x30008, 0, 16, 0, 1, [19], .ro, 62, false, false⟩
/-- `SPM_XIP_CFG.lanes` [21:16], reset 0, survives MWSTF. -/
def spmXipCfgLanes : Fld := ⟨0x30008, 16, 6, 0, 1, [0], .ro, 62, false, false⟩
/-- `SPM_XIP_CFG.ddr` [24:22], reset 0, survives MWSTF. -/
def spmXipCfgDdr : Fld := ⟨0x30008, 22, 3, 0, 1, [0], .ro, 62, false, false⟩
/-- `SPM_XIP_CFG.dummy` [29:25], reset 0, survives MWSTF. -/
def spmXipCfgDummy : Fld := ⟨0x30008, 25, 5, 0, 1, [0], .ro, 62, false, false⟩
/-- `SPM_XIP_CFG.dqs` [30], reset 0, survives MWSTF. -/
def spmXipCfgDqs : Fld := ⟨0x30008, 30, 1, 0, 1, [0], .ro, 62, false, false⟩
/-- `SPM_XIP_CFG.duplex` [31], reset 1, survives MWSTF. -/
def spmXipCfgDuplex : Fld := ⟨0x30008, 31, 1, 0, 1, [1], .ro, 62, false, false⟩
/-- `SPM_XIP_READS.count` [31:0], reset 0, survives MWSTF. -/
def spmXipReadsCount : Fld := ⟨0x3000c, 0, 32, 0, 1, [0], .ro, 62, false, false⟩
/-- `SPM_SUSPENDS.count` [31:0], reset 0, survives MWSTF. -/
def spmSuspendsCount : Fld := ⟨0x30010, 0, 32, 0, 1, [0], .ro, 62, false, false⟩
/-- `SPM_XIP_HELD.count` [31:0], reset 0, survives MWSTF. -/
def spmXipHeldCount : Fld := ⟨0x30014, 0, 32, 0, 1, [0], .ro, 62, false, false⟩
/-- `SPM_XIP_WAIT_MAX.ns` [31:0], reset 0, survives MWSTF. -/
def spmXipWaitMaxNs : Fld := ⟨0x30018, 0, 32, 0, 1, [0], .ro, 62, false, false⟩
/-- `SPM_EVENT.xip_write` [0], reset 0, survives MWSTF. -/
def spmEventXipWrite : Fld := ⟨0x3001c, 0, 1, 0, 1, [0], .w1c, 62, false, false⟩
/-- `SPM_EVENT.starved` [1], reset 0, survives MWSTF. -/
def spmEventStarved : Fld := ⟨0x3001c, 1, 1, 0, 1, [0], .w1c, 62, false, false⟩
/-- `SPM_EVENT.bad_config` [2], reset 0, survives MWSTF. -/
def spmEventBadConfig : Fld := ⟨0x3001c, 2, 1, 0, 1, [0], .w1c, 62, false, false⟩
/-- `SPS_FRAMES.count` [31:0], reset 0, survives MWSTF. -/
def spsFramesCount : Fld := ⟨0x31000, 0, 32, 0, 1, [0], .ro, 62, false, false⟩
/-- `SPS_CRC.count` [31:0], reset 0, survives MWSTF. -/
def spsCrcCount : Fld := ⟨0x31004, 0, 32, 0, 1, [0], .ro, 62, false, false⟩
/-- `SPS_CUT.count` [31:0], reset 0, survives MWSTF. -/
def spsCutCount : Fld := ⟨0x31008, 0, 32, 0, 1, [0], .ro, 62, false, false⟩
/-- `SPS_REFUSED.count` [31:0], reset 0, survives MWSTF. -/
def spsRefusedCount : Fld := ⟨0x3100c, 0, 32, 0, 1, [0], .ro, 62, false, false⟩
/-- `GPIO_OUT.value` [23:0], reset 0, survives WSTF. -/
def gpioOutValue : Fld := ⟨0x32000, 0, 24, 0, 1, [0], .rw, 60, false, false⟩
/-- `GPIO_SET.bits` [23:0], reset 0, survives —. -/
def gpioSetBits : Fld := ⟨0x32004, 0, 24, 0, 1, [0], .wo, 0, false, true⟩
/-- `GPIO_CLR.bits` [23:0], reset 0, survives —. -/
def gpioClrBits : Fld := ⟨0x32008, 0, 24, 0, 1, [0], .wo, 0, false, true⟩
/-- `GPIO_TOG.bits` [23:0], reset 0, survives —. -/
def gpioTogBits : Fld := ⟨0x3200c, 0, 24, 0, 1, [0], .wo, 0, false, true⟩
/-- `GPIO_OE.bits` [23:0], reset 0, survives WSTF. -/
def gpioOeBits : Fld := ⟨0x32010, 0, 24, 0, 1, [0], .rwl, 60, false, false⟩
/-- `GPIO_IN.level` [23:0], reset pad, survives —. -/
def gpioInLevel : Fld := ⟨0x32014, 0, 24, 0, 1, [0], .ro, 0, false, true⟩
/-- `GPIO_LOCK.mask` [23:0], reset 0, survives —. -/
def gpioLockMask : Fld := ⟨0x32018, 0, 24, 0, 1, [0], .wo, 0, false, true⟩
/-- `GPIO_LOCK.key` [31:24], reset 0, survives —. -/
def gpioLockKey : Fld := ⟨0x32018, 24, 8, 0, 1, [0], .wo, 0, false, true⟩
/-- `GPIO_LOCKED.pins` [23:0], reset 0, survives WSTF. -/
def gpioLockedPins : Fld := ⟨0x3201c, 0, 24, 0, 1, [0], .ro, 60, false, false⟩
/-- `GPIO_EVENT.locked_write` [0], reset 0, survives WSTF. -/
def gpioEventLockedWrite : Fld := ⟨0x32020, 0, 1, 0, 1, [0], .w1c, 60, false, false⟩
/-- `GPIO_EVENT.bad_config` [1], reset 0, survives WSTF. -/
def gpioEventBadConfig : Fld := ⟨0x32020, 1, 1, 0, 1, [0], .w1c, 60, false, false⟩
/-- `GPIO_PM_STATUS.match` [3:0], reset 0, survives WSTF. -/
def gpioPmStatusMatch : Fld := ⟨0x32024, 0, 4, 0, 1, [0], .w1c, 60, false, false⟩
/-- `GPIO_LOCKED_WRITES.count` [31:0], reset 0, survives WSTF. -/
def gpioLockedWritesCount : Fld := ⟨0x32028, 0, 32, 0, 1, [0], .ro, 60, false, false⟩
/-- `GPIO_PM_SEL_LO[m].pins` [29:0], reset 0, survives WSTF. -/
def gpioPmSelLoPins : Fld := ⟨0x32100, 0, 30, 16, 4, [0], .rw, 60, false, false⟩
/-- `GPIO_PM_SEL_HI[m].pins` [9:0], reset 0, survives WSTF. -/
def gpioPmSelHiPins : Fld := ⟨0x32104, 0, 10, 16, 4, [0], .rw, 60, false, false⟩
/-- `GPIO_PM_CTRL[m].mask` [7:0], reset 0, survives WSTF. -/
def gpioPmCtrlMask : Fld := ⟨0x32108, 0, 8, 16, 4, [0], .rw, 60, false, false⟩
/-- `GPIO_PM_CTRL[u].value` [15:8], reset 0, survives WSTF. -/
def gpioPmCtrlValue : Fld := ⟨0x32108, 8, 8, 16, 4, [0], .rw, 60, false, false⟩
/-- `GPIO_PM_CTRL[u].mode` [16], reset 0, survives WSTF. -/
def gpioPmCtrlMode : Fld := ⟨0x32108, 16, 1, 16, 4, [0], .rw, 60, false, false⟩
/-- `GPIO_PM_CTRL[u].en` [17], reset 0, survives WSTF. -/
def gpioPmCtrlEn : Fld := ⟨0x32108, 17, 1, 16, 4, [0], .rw, 60, false, false⟩
/-- `GPIO_PM_CTRL[u].filter` [23:20], reset 0, survives WSTF. -/
def gpioPmCtrlFilter : Fld := ⟨0x32108, 20, 4, 16, 4, [0], .rw, 60, false, false⟩
/-- `GPIO_PM_CTRL[u].target` [25:24], reset 0, survives WSTF. -/
def gpioPmCtrlTarget : Fld := ⟨0x32108, 24, 2, 16, 4, [0], .rw, 60, false, false⟩
/-- `GPIO_PAD[p].pull` [1:0], reset per pin, survives WSTF. -/
def gpioPadPull : Fld := ⟨0x32200, 0, 2, 4, 24, [0,1,1,0,0,0,1,1,1,1,1,0,0,0,0,0,0,1,0,0,0,0,0,0], .rwl, 60, false, false⟩
/-- `GPIO_PAD[p].drive` [3:2], reset 1, survives WSTF. -/
def gpioPadDrive : Fld := ⟨0x32200, 2, 2, 4, 24, [1], .rwl, 60, false, false⟩
/-- `GPIO_PAD[p].od` [4], reset per pin, survives WSTF. -/
def gpioPadOd : Fld := ⟨0x32200, 4, 1, 4, 24, [0,0,0,1,0,1,0,0,0,0,0,0,0,0,0,0,0,0,0,0,0,0,0,0], .rwl, 60, false, false⟩
/-- `GPIO_PAD[p].ie` [5], reset 1, survives WSTF. -/
def gpioPadIe : Fld := ⟨0x32200, 5, 1, 4, 24, [1], .rwl, 60, false, false⟩
/-- `GPIO_PAD[p].schmitt` [6], reset 1, survives WSTF. -/
def gpioPadSchmitt : Fld := ⟨0x32200, 6, 1, 4, 24, [1], .rwl, 60, false, false⟩
/-- `GPIO_SLEEP[p].rest` [2:0], reset 0, survives WSTF. -/
def gpioSleepRest : Fld := ⟨0x32300, 0, 3, 4, 24, [0], .rwl, 60, false, false⟩
/-- `GPIO_SLEEP[p].fermata` [6:4], reset 0, survives WSTF. -/
def gpioSleepFermata : Fld := ⟨0x32300, 4, 3, 4, 24, [0], .rwl, 60, false, false⟩
/-- `PMX_BANK_MODE.a` [0], reset 0, survives WSTF. -/
def pmxBankModeA : Fld := ⟨0x33000, 0, 1, 0, 1, [0], .rwl, 60, false, false⟩
/-- `PMX_BANK_MODE.b` [1], reset 0, survives WSTF. -/
def pmxBankModeB : Fld := ⟨0x33000, 1, 1, 0, 1, [0], .rwl, 60, false, false⟩
/-- `PMX_FUNC[p].en` [3:0], reset per R747, survives WSTF. -/
def pmxFuncEn : Fld := ⟨0x33100, 0, 4, 4, 24, [1,1,1,1,1,1,1,1,1,1,1,1,1,1,1,1,1,1,1,1,2,2,2,2], .rwl, 60, false, false⟩
/-- `PWR_STATE.state` [2:0], reset 0, survives —. -/
def pwrStateState : Fld := ⟨0x40000, 0, 3, 0, 1, [0], .ro, 0, false, true⟩
/-- `PWR_REST_CTRL.req` [0], reset 0, survives WST. -/
def pwrRestCtrlReq : Fld := ⟨0x40004, 0, 1, 0, 1, [0], .rwo, 28, false, false⟩
/-- `PWR_REST_CTRL.auto_measures` [15:8], reset 0, survives WST. -/
def pwrRestCtrlAutoMeasures : Fld := ⟨0x40004, 8, 8, 0, 1, [0], .rwo, 28, false, false⟩
/-- `PWR_REST_CTRL.wake_pm` [19:16], reset 0, survives WST. -/
def pwrRestCtrlWakePm : Fld := ⟨0x40004, 16, 4, 0, 1, [0], .rwo, 28, false, false⟩
/-- `PWR_THERMAL.derate_c` [7:0], reset 95, survives WST. -/
def pwrThermalDerateC : Fld := ⟨0x40008, 0, 8, 0, 1, [95], .rwo, 28, false, false⟩
/-- `PWR_THERMAL.hot_mem_c` [15:8], reset 95, survives WST. -/
def pwrThermalHotMemC : Fld := ⟨0x40008, 8, 8, 0, 1, [95], .rwo, 28, false, false⟩
/-- `PWR_THERMAL_STATUS.tj` [10:0], reset 0, survives —. -/
def pwrThermalStatusTj : Fld := ⟨0x4000c, 0, 11, 0, 1, [0], .ro, 0, false, true⟩
/-- `PWR_THERMAL_STATUS.engines` [22:16], reset 64, survives —. -/
def pwrThermalStatusEngines : Fld := ⟨0x4000c, 16, 7, 0, 1, [64], .ro, 0, false, true⟩
/-- `PWR_REST_LAST.us` [15:0], reset 0, survives ST. -/
def pwrRestLastUs : Fld := ⟨0x40010, 0, 16, 0, 1, [0], .ro, 24, false, false⟩
/-- `PWR_EVENT.thermal` [6], reset 0, survives MWSTF. -/
def pwrEventThermal : Fld := ⟨0x40818, 6, 1, 0, 1, [0], .w1c, 62, false, false⟩
/-- `RST_CTRL.key` [31:0], reset 0, survives —. -/
def rstCtrlKey : Fld := ⟨0x41000, 0, 32, 0, 1, [0], .wo, 0, false, true⟩
/-- `RST_CAUSE.por_aux` [0], reset set at start, survives ST. -/
def rstCausePorAux : Fld := ⟨0x41004, 0, 1, 0, 1, [0], .ro, 24, false, false⟩
/-- `RST_CAUSE.por_core` [1], reset set at start, survives ST. -/
def rstCausePorCore : Fld := ⟨0x41004, 1, 1, 0, 1, [0], .ro, 24, false, false⟩
/-- `RST_CAUSE.mrst` [2], reset set at start, survives ST. -/
def rstCauseMrst : Fld := ⟨0x41004, 2, 1, 0, 1, [0], .ro, 24, false, false⟩
/-- `RST_CAUSE.wrst_cmd` [3], reset set at start, survives ST. -/
def rstCauseWrstCmd : Fld := ⟨0x41004, 3, 1, 0, 1, [0], .ro, 24, false, false⟩
/-- `RST_CAUSE.wrst_link` [4], reset set at start, survives ST. -/
def rstCauseWrstLink : Fld := ⟨0x41004, 4, 1, 0, 1, [0], .ro, 24, false, false⟩
/-- `RST_CAUSE.fermata` [5], reset set at start, survives ST. -/
def rstCauseFermata : Fld := ⟨0x41004, 5, 1, 0, 1, [0], .ro, 24, false, false⟩
/-- `RST_CAUSE.retained` [8], reset set at start, survives ST. -/
def rstCauseRetained : Fld := ⟨0x41004, 8, 1, 0, 1, [0], .ro, 24, false, false⟩
/-- `RST_READY.us` [15:0], reset 0, survives ST. -/
def rstReadyUs : Fld := ⟨0x41008, 0, 16, 0, 1, [0], .ro, 24, false, false⟩
/-- `CLK_LOCK.plls` [15:0], reset 0, survives —. -/
def clkLockPlls : Fld := ⟨0x42000, 0, 16, 0, 1, [0], .ro, 0, false, true⟩
/-- `CLK_EVENT.unlock` [0], reset 0, survives ST. -/
def clkEventUnlock : Fld := ⟨0x42004, 0, 1, 0, 1, [0], .w1c, 24, false, false⟩
/-- `CND_STATE[i].state` [1:0], reset 0, survives —. -/
def cndStateState : Fld := ⟨0x50000, 0, 2, 4, 4, [0], .ro, 0, false, true⟩
/-- `CND_STATE[i].role` [5:4], reset i, survives —. -/
def cndStateRole : Fld := ⟨0x50000, 4, 2, 4, 4, [0,1,2,3], .ro, 0, false, true⟩
/-- `CND_HEARTBEAT[i].measure` [31:0], reset 0, survives —. -/
def cndHeartbeatMeasure : Fld := ⟨0x50010, 0, 32, 4, 4, [0], .ro, 0, false, true⟩
/-- `CND_EVENT.plan_late` [0], reset 0, survives ST. -/
def cndEventPlanLate : Fld := ⟨0x50020, 0, 1, 0, 1, [0], .w1c, 24, false, false⟩
/-- `CND_EVENT.watchdog` [1], reset 0, survives ST. -/
def cndEventWatchdog : Fld := ⟨0x50020, 1, 1, 0, 1, [0], .w1c, 24, false, false⟩
/-- `CND_EVENT.fw_fault` [2], reset 0, survives ST. -/
def cndEventFwFault : Fld := ⟨0x50020, 2, 1, 0, 1, [0], .w1c, 24, false, false⟩
/-- `CND_EVENT.mbox_busy` [3], reset 0, survives ST. -/
def cndEventMboxBusy : Fld := ⟨0x50020, 3, 1, 0, 1, [0], .w1c, 24, false, false⟩
/-- `CND_EVENT.cold_bad` [4], reset 0, survives ST. -/
def cndEventColdBad : Fld := ⟨0x50020, 4, 1, 0, 1, [0], .w1c, 24, false, false⟩
/-- `CND_PLAN_LATE.count` [31:0], reset 0, survives ST. -/
def cndPlanLateCount : Fld := ⟨0x50024, 0, 32, 0, 1, [0], .ro, 24, false, false⟩
/-- `CND_AUTH.svn_min` [6:0], reset fused, survives PMWSTF. -/
def cndAuthSvnMin : Fld := ⟨0x50028, 0, 7, 0, 1, [0], .ro, 63, false, false⟩
/-- `CND_AUTH.revoked` [10:8], reset fused, survives PMWSTF. -/
def cndAuthRevoked : Fld := ⟨0x50028, 8, 3, 0, 1, [0], .ro, 63, false, false⟩
/-- `CND_AUTH.key_slot` [13:12], reset from boot, survives MWSTF. -/
def cndAuthKeySlot : Fld := ⟨0x50028, 12, 2, 0, 1, [0], .ro, 62, false, false⟩
/-- `CND_H2D_DATA[w].word` [31:0], reset 0, survives ST. -/
def cndH2dDataWord : Fld := ⟨0x50100, 0, 32, 4, 8, [0], .rwo, 24, false, false⟩
/-- `CND_H2D_CTRL.opcode` [7:0], reset 0, survives ST. -/
def cndH2dCtrlOpcode : Fld := ⟨0x50120, 0, 8, 0, 1, [0], .rwo, 24, false, false⟩
/-- `CND_H2D_CTRL.seq` [15:8], reset 0, survives ST. -/
def cndH2dCtrlSeq : Fld := ⟨0x50120, 8, 8, 0, 1, [0], .rwo, 24, false, false⟩
/-- `CND_H2D_CTRL.len` [19:16], reset 0, survives ST. -/
def cndH2dCtrlLen : Fld := ⟨0x50120, 16, 4, 0, 1, [0], .rwo, 24, false, false⟩
/-- `CND_H2D_CTRL.go` [31], reset 0, survives ST. -/
def cndH2dCtrlGo : Fld := ⟨0x50120, 31, 1, 0, 1, [0], .rwo, 24, false, false⟩
/-- `CND_D2H_DATA[w].word` [31:0], reset 0, survives ST. -/
def cndD2hDataWord : Fld := ⟨0x50140, 0, 32, 4, 8, [0], .ro, 24, false, false⟩
/-- `CND_D2H_CTRL.status` [7:0], reset 0, survives ST. -/
def cndD2hCtrlStatus : Fld := ⟨0x50160, 0, 8, 0, 1, [0], .ro, 24, false, false⟩
/-- `CND_D2H_CTRL.seq` [15:8], reset 0, survives ST. -/
def cndD2hCtrlSeq : Fld := ⟨0x50160, 8, 8, 0, 1, [0], .ro, 24, false, false⟩
/-- `CND_D2H_CTRL.len` [19:16], reset 0, survives ST. -/
def cndD2hCtrlLen : Fld := ⟨0x50160, 16, 4, 0, 1, [0], .ro, 24, false, false⟩
/-- `CND_D2H_CTRL.done` [30], reset 0, survives ST. -/
def cndD2hCtrlDone : Fld := ⟨0x50160, 30, 1, 0, 1, [0], .ro, 24, false, false⟩
/-- `TEL_ADMITTED.count` [31:0], reset 0, survives ST. -/
def telAdmittedCount : Fld := ⟨0x70000, 0, 32, 0, 1, [0], .ro, 24, false, false⟩
/-- `TEL_CARRIED.count` [31:0], reset 0, survives ST. -/
def telCarriedCount : Fld := ⟨0x70004, 0, 32, 0, 1, [0], .ro, 24, false, false⟩
/-- `TEL_DEFERRED.count` [31:0], reset 0, survives ST. -/
def telDeferredCount : Fld := ⟨0x70008, 0, 32, 0, 1, [0], .ro, 24, false, false⟩
/-- `TEL_OVER_BUDGET.count` [31:0], reset 0, survives ST. -/
def telOverBudgetCount : Fld := ⟨0x7000c, 0, 32, 0, 1, [0], .ro, 24, false, false⟩
/-- `TEL_FETCH_LATE.count` [31:0], reset 0, survives ST. -/
def telFetchLateCount : Fld := ⟨0x70010, 0, 32, 0, 1, [0], .ro, 24, false, false⟩
/-- `TEL_PARTIAL.count` [31:0], reset 0, survives ST. -/
def telPartialCount : Fld := ⟨0x70014, 0, 32, 0, 1, [0], .ro, 24, false, false⟩
/-- `TEL_DEGRADED.count` [31:0], reset 0, survives ST. -/
def telDegradedCount : Fld := ⟨0x70018, 0, 32, 0, 1, [0], .ro, 24, false, false⟩
/-- `TEL_COV_MIN.sweep` [15:0], reset 0xFFFF, survives ST. -/
def telCovMinSweep : Fld := ⟨0x7001c, 0, 16, 0, 1, [65535], .ro, 24, false, false⟩
/-- `TEL_COV_MIN.rerank` [31:16], reset 0xFFFF, survives ST. -/
def telCovMinRerank : Fld := ⟨0x7001c, 16, 16, 0, 1, [65535], .ro, 24, false, false⟩
/-- `TEL_ADMITTED_TOTAL_LO.count` [31:0], reset 0, survives WST. -/
def telAdmittedTotalLoCount : Fld := ⟨0x70020, 0, 32, 0, 1, [0], .ro, 28, false, false⟩
/-- `TEL_ADMITTED_TOTAL_HI.count` [31:0], reset 0, survives WST. -/
def telAdmittedTotalHiCount : Fld := ⟨0x70024, 0, 32, 0, 1, [0], .ro, 28, false, false⟩
/-- `TEL_ENERGY_TRIM.factor` [15:0], reset 4,096, survives MWSTF. -/
def telEnergyTrimFactor : Fld := ⟨0x70028, 0, 16, 0, 1, [4096], .ro, 62, false, false⟩
/-- `TEL_EVENT.trim_limit` [0], reset 0, survives MWSTF. -/
def telEventTrimLimit : Fld := ⟨0x7002c, 0, 1, 0, 1, [0], .w1c, 62, false, false⟩
/-- `TEL_EVENT.energy_unc` [1], reset 0, survives —. -/
def telEventEnergyUnc : Fld := ⟨0x7002c, 1, 1, 0, 1, [0], .ro, 0, false, true⟩
/-- `TEL_SNAPSHOT.measure` [31:0], reset 0, survives ST. -/
def telSnapshotMeasure : Fld := ⟨0x70030, 0, 32, 0, 1, [0], .ro, 24, false, false⟩
/-- `ERR_CTRL.auto_engine` [0], reset 1, survives WST. -/
def errCtrlAutoEngine : Fld := ⟨0x80000, 0, 1, 0, 1, [1], .rwo, 28, false, false⟩
/-- `ERR_CTRL.engine_limit` [7:4], reset 3, survives WST. -/
def errCtrlEngineLimit : Fld := ⟨0x80000, 4, 4, 0, 1, [3], .rwo, 28, false, false⟩
/-- `ERR_CTRL.mrst_delay` [25:16], reset 10, survives WST. -/
def errCtrlMrstDelay : Fld := ⟨0x80000, 16, 10, 0, 1, [10], .rwo, 28, false, false⟩
/-- `ERR_STATUS.fatal` [0], reset 0, survives WST. -/
def errStatusFatal : Fld := ⟨0x80004, 0, 1, 0, 1, [0], .ro, 28, false, false⟩
/-- `ERR_STATUS.cause` [15:8], reset 0, survives MWSTF. -/
def errStatusCause : Fld := ⟨0x80004, 8, 8, 0, 1, [0], .ro, 62, false, false⟩
/-- `ERR_EVENT.contained` [0], reset 0, survives MWSTF. -/
def errEventContained : Fld := ⟨0x80008, 0, 1, 0, 1, [0], .w1c, 62, false, false⟩
/-- `ERR_EVENT.unit` [1], reset 0, survives MWSTF. -/
def errEventUnit : Fld := ⟨0x80008, 1, 1, 0, 1, [0], .w1c, 62, false, false⟩
/-- `ERR_EVENT.firmware` [2], reset 0, survives MWSTF. -/
def errEventFirmware : Fld := ⟨0x80008, 2, 1, 0, 1, [0], .w1c, 62, false, false⟩
/-- `ERR_EVENT.fatal` [3], reset 0, survives MWSTF. -/
def errEventFatal : Fld := ⟨0x80008, 3, 1, 0, 1, [0], .w1c, 62, false, false⟩
/-- `ERR_EVENT.bad_config` [4], reset 0, survives MWSTF. -/
def errEventBadConfig : Fld := ⟨0x80008, 4, 1, 0, 1, [0], .w1c, 62, false, false⟩
/-- `ERR_LOG_HEAD.count` [31:0], reset 0, survives MWSTF. -/
def errLogHeadCount : Fld := ⟨0x8000c, 0, 32, 0, 1, [0], .ro, 62, false, false⟩
/-- `ERR_LOG_DROPPED.count` [31:0], reset 0, survives MWSTF. -/
def errLogDroppedCount : Fld := ⟨0x80010, 0, 32, 0, 1, [0], .ro, 62, false, false⟩
/-- `ERR_SRAM_CE.count` [31:0], reset 0, survives WST. -/
def errSramCeCount : Fld := ⟨0x80014, 0, 32, 0, 1, [0], .ro, 28, false, false⟩
/-- `ERR_SRAM_UE.count` [31:0], reset 0, survives MWSTF. -/
def errSramUeCount : Fld := ⟨0x80018, 0, 32, 0, 1, [0], .ro, 62, false, false⟩
/-- `ERR_ENGINE_MAPPED_LO.engines` [31:0], reset from fault record, survives PMWSTF. -/
def errEngineMappedLoEngines : Fld := ⟨0x8001c, 0, 32, 0, 1, [0], .ro, 63, false, false⟩
/-- `ERR_ENGINE_MAPPED_HI.engines` [31:0], reset from fault record, survives PMWSTF. -/
def errEngineMappedHiEngines : Fld := ⟨0x80020, 0, 32, 0, 1, [0], .ro, 63, false, false⟩
/-- `ERR_CODES[i].bits` [31:0], reset 0, survives MWSTF. -/
def errCodesBits : Fld := ⟨0x80100, 0, 32, 4, 8, [0], .ro, 62, false, false⟩

/-- Part 0 of the register table. -/
def regTable0 : List Fld :=
  [measCtrlSource, measCtrlEdge, measCtrlHoldoverEn, measPeriodTicks, measTailBgPermille, measTailMarginPermille, measTailDeferLimit, measPointBudgetGranules, measFarBwGbps, measNumberValue, measStatusLocked, measStatusHoldover, measStatusKappa, measEventEarlyEdge, measEventMissedEdge, measEventSourceLost, measEventOverrun, measEventFetchLate, measEventBadConfig, measLastPlanNs, measLastUsedNs, swpMapoutLoEngines, swpMapoutHiEngines, swpActiveLoEngines]
/-- Part 1 of the register table. -/
def regTable1 : List Fld :=
  [swpActiveHiEngines, swpErstLoEngines, swpErstHiEngines, swpEventEngineFault, swpEventReissueOk, swpEventReissueShort, swpEventChainRefused, swpPassMaxCc, swpPassEstCc, swpStatusState, swpStatusCodeGroup, swpStatusSlots, swpBusyCc, swpTilesCount, accFoldInexactCount, accRerankInexactCount, accSpillFullCount, accSpillCompactCount, accSpillBaseLoAddr, accSpillBaseHiAddr, accEventSpillLost, voiFarLatNs, voiActiveCount, voiLastVoicesCount]
/-- Part 2 of the register table. -/
def regTable2 : List Fld :=
  [voiLastCandsCount, voiLastRerankNs, voiSwitchesCount, voiFarLatMaxNs, voiEventFarSlow, voiEventFarError, voiEventDeepError, voiEventStopped, voiEventBadConfig, voiUnitBusyCc, voiUnitIdleCc, codaPostLimitBytes, codaLastPostBytes, codaLastPostEndNs, codaTieReadsCount, codaKeyReadsCount, codaFinishNs, codaEventBandEarly, codaEventBandCut, codaListPeakEntries, codaBandPeakEntries, swpStallCauseCc, strmQctrlPriority, strmGranulesCount]
/-- Part 3 of the register table. -/
def regTable3 : List Fld :=
  [strmBlockedCc, strmShortCount, strmTcacheFillCount, strmTcacheServedCount, strmTcacheRereadCount, strmBarrierNs, strmEventBadFigure, strmEventBadConfig, strmEventGranuleLost, strmEventStopPoint, hstIdDevice, hstIdStepping, hstPortModeSplit, hstLinkWidth, hstLinkSpeed, hstLinkFlit, hstLinkUp, hstEventRetrain, hstEventMalformed, hstMalformedCount, hstSbqBaseLoAddr, hstSbqBaseHiAddr, hstSbqCtrlSizeLog2, hstSbqCtrlCpq]
/-- Part 4 of the register table. -/
def regTable4 : List Fld :=
  [hstSbqCtrlEnable, hstSbqStatusFetch, hstSbqStatusIdle, hstSbqStatusError, hstCpqBaseLoAddr, hstCpqBaseHiAddr, hstCpqCtrlSizeLog2, hstCpqCtrlVector, hstCpqCtrlIntEn, hstCpqCtrlEnable, hstCpqCoalCount, hstCpqCoalTime, hstCpqStatusTail, hstCpqStatusPhase, hstCpqStatusIdle, hstFctrlBeatInt, hstFeventBadQueue, hstFeventBadDoorbell, hstFeventFetchError, hstFeventPostDropped, hstFeventCpqWait, hstBadDoorbellCount, hstPostDroppedCount, hstCpqWaitNsNs]
/-- Part 5 of the register table. -/
def regTable5 : List Fld :=
  [zcpSectionWeightW0, zcpSectionWeightW1, zcpSectionWeightW2, zcpSectionWeightW3, zcpGrantLimitSeat, zcpGrantLimitChip, zcpGrantsOutCount, zcpEventCrc, zcpEventSeqClash, zcpEventFlushCut, zcpEventGrantRevoked, zcpEventIntakeWait, zcpEventBadConfig, zcpEventTableFull, zcpCrcErrorsCount, zcpDuplicatesCount, zcpFlushCutCount, zcpGrantsRevokedCount, zcpIntakeWaitNsNs, zcpSeqLastSequence, stgCtrlWaitMeasures, stgCtrlDeleteReserve, stgUsedUnits, stgInsertsCount]
/-- Part 6 of the register table. -/
def regTable6 : List Fld :=
  [stgKillsCount, stgPeakUnits, stgPlacedRows, stgMarkedRows, stgMovedRows, stgBgUsedNs, stgHeldCount, stgLostCount, stgPresentIdLoId, stgPresentIdHiId, stgPtHitsCount, stgEventStagingFull, stgEventIdPresent, stgEventLost, stgEventImageBad, stgEventRecovered, stgEventFarHeld, stgEventBadConfig, stgEventOpLost, stgImageBaseLoAddr, stgImageBaseHiAddr, stgJournalBaseLoAddr, stgJournalBaseHiAddr, ownStateState]
/-- Part 7 of the register table. -/
def regTable7 : List Fld :=
  [ownStateOwner, ownStateSuccessor, ownStatePriority, ownNonceLoNonce, ownNonceHiNonce, ownLeaseLength, ownLeaseLeftMeasures, ownLastChangeMeasure, ownClaimMaskLoSeats, ownClaimMaskHiSeats, ownClaimMaskExtSeat64, ownEventNonownerWrite, ownEventLeaseExpired, ownEventOfferLapsed, ownEventElection, ownEventBadConfig, ownNonownerWritesCount, ownNonownerLastSeat, ownMeterEpochValue, ownMeterModuleLoNj, ownMeterModuleHiNj, ownSeatCtrlSections, ownSeatCtrlQuota, ownMeterLoNj]
/-- Part 8 of the register table. -/
def regTable8 : List Fld :=
  [ownMeterHiNj, hstOwnNoticeBits, gdmCtrlRate, gdmCtrlAutoMapout, gdmMapoutChannels, gdmActiveChannels, gdmStatusRelaying, gdmStatusRateNow, gdmStatusBelowMin, gdmRetrainInterval, gdmRetrainTempStep, gdmScrubHours, gdmEventFault, gdmEventCe, gdmEventUe, gdmEventCrcRetry, gdmEventScrubBehind, gdmEventLayout, gdmEventBadConfig, gdmUeLastLoGranule, gdmUeLastHiChannel, gdmUeLastHiSystem, gdmLayoutMeasureMeasure, gdmChState]
/-- Part 9 of the register table. -/
def regTable9 : List Fld :=
  [gdmChTemp, gdmCeCount, gdmUeCount, gdmCrcRetryCount, gdmLostShelves, wvCtrlRejoin, wvCtrlRebuildGbps, wvSelfAddr, wvSelfRole, wvSelfDepth, wvParentAddr, wvParentStrand, wvParentAlt, wvDeputyAddr, wvDeputyOk, wvEpochValue, wvMapoutLoStrands, wvMapoutHiStrands, wvStrstLoStrands, wvStrstHiStrands, wvEventTrainFail, wvEventForeign, wvEventConfigLate, wvEventBranchMissing]
/-- Part 10 of the register table. -/
def regTable10 : List Fld :=
  [wvEventMemberLost, wvEventPromoted, wvEventBadConfig, wvEventBadMessage, wvMarginMv, wvKeyLastNs, wvPlaitLastNs, wvStrandState, wvStrandSpareUsed, wvStrandFailedLane, wvStrandUse, wvStrandPeer, wvDelayPs, wvCeCount, wvReplayCount, wvAlignSlipCount, pwrHoldupArmed, pwrHoldupGaugeFault, pwrGaugeMj, pwrGaugeBankV, pwrGaugeVMj, pwrGaugeQMj, pwrQuiesceBudgetMj, pwrEfuseTrips]
/-- Part 11 of the register table. -/
def regTable11 : List Fld :=
  [pwrEfuseLocked, pwrInputMw, pwrEventGaugeFault, pwrEventUnarmed, pwrEventEject, pwrEventEfuseTrip, pwrEventFermata, pwrEventBadConfig, mgcFwStateActiveBank, mgcFwStateStagedState, mgcFwStateLastBoot, mgcFwActiveLoVersion, mgcFwActiveHiVersion, spmClkDiv, spmTimingCss, spmTimingCsh, spmTimingCsd, spmXipCfgCmd, spmXipCfgLanes, spmXipCfgDdr, spmXipCfgDummy, spmXipCfgDqs, spmXipCfgDuplex, spmXipReadsCount]
/-- Part 12 of the register table. -/
def regTable12 : List Fld :=
  [spmSuspendsCount, spmXipHeldCount, spmXipWaitMaxNs, spmEventXipWrite, spmEventStarved, spmEventBadConfig, spsFramesCount, spsCrcCount, spsCutCount, spsRefusedCount, gpioOutValue, gpioSetBits, gpioClrBits, gpioTogBits, gpioOeBits, gpioInLevel, gpioLockMask, gpioLockKey, gpioLockedPins, gpioEventLockedWrite, gpioEventBadConfig, gpioPmStatusMatch, gpioLockedWritesCount, gpioPmSelLoPins]
/-- Part 13 of the register table. -/
def regTable13 : List Fld :=
  [gpioPmSelHiPins, gpioPmCtrlMask, gpioPmCtrlValue, gpioPmCtrlMode, gpioPmCtrlEn, gpioPmCtrlFilter, gpioPmCtrlTarget, gpioPadPull, gpioPadDrive, gpioPadOd, gpioPadIe, gpioPadSchmitt, gpioSleepRest, gpioSleepFermata, pmxBankModeA, pmxBankModeB, pmxFuncEn, pwrStateState, pwrRestCtrlReq, pwrRestCtrlAutoMeasures, pwrRestCtrlWakePm, pwrThermalDerateC, pwrThermalHotMemC, pwrThermalStatusTj]
/-- Part 14 of the register table. -/
def regTable14 : List Fld :=
  [pwrThermalStatusEngines, pwrRestLastUs, pwrEventThermal, rstCtrlKey, rstCausePorAux, rstCausePorCore, rstCauseMrst, rstCauseWrstCmd, rstCauseWrstLink, rstCauseFermata, rstCauseRetained, rstReadyUs, clkLockPlls, clkEventUnlock, cndStateState, cndStateRole, cndHeartbeatMeasure, cndEventPlanLate, cndEventWatchdog, cndEventFwFault, cndEventMboxBusy, cndEventColdBad, cndPlanLateCount, cndAuthSvnMin]
/-- Part 15 of the register table. -/
def regTable15 : List Fld :=
  [cndAuthRevoked, cndAuthKeySlot, cndH2dDataWord, cndH2dCtrlOpcode, cndH2dCtrlSeq, cndH2dCtrlLen, cndH2dCtrlGo, cndD2hDataWord, cndD2hCtrlStatus, cndD2hCtrlSeq, cndD2hCtrlLen, cndD2hCtrlDone, telAdmittedCount, telCarriedCount, telDeferredCount, telOverBudgetCount, telFetchLateCount, telPartialCount, telDegradedCount, telCovMinSweep, telCovMinRerank, telAdmittedTotalLoCount, telAdmittedTotalHiCount, telEnergyTrimFactor]
/-- Part 16 of the register table. -/
def regTable16 : List Fld :=
  [telEventTrimLimit, telEventEnergyUnc, telSnapshotMeasure, errCtrlAutoEngine, errCtrlEngineLimit, errCtrlMrstDelay, errStatusFatal, errStatusCause, errEventContained, errEventUnit, errEventFirmware, errEventFatal, errEventBadConfig, errLogHeadCount, errLogDroppedCount, errSramCeCount, errSramUeCount, errEngineMappedLoEngines, errEngineMappedHiEngines, errCodesBits]
/-- Every field of every register table of the spec. -/
def regTable : List Fld :=
  regTable0 ++ regTable1 ++ regTable2 ++ regTable3 ++ regTable4 ++ regTable5 ++ regTable6 ++ regTable7 ++ regTable8 ++ regTable9 ++ regTable10 ++ regTable11 ++ regTable12 ++ regTable13 ++ regTable14 ++ regTable15 ++ regTable16

end Sys2Proof.Machine
end

