-- ==== Sys2Proof/Machine/TypesPower.lean ====
section
/-!
DEFINITION. The plain-data records of power, start and reset, the module's flash and firmware, the serial ports, the pins, the
conductors, the error log and the test access port (chapters 15 to 20).
-/
namespace Sys2Proof.Machine

/-- The power states of R757, with the starts and the warm reset between them. -/
inductive PMode where
  | off | starting | playing | rest | waking | warm | fermata
  deriving DecidableEq, Repr

/-- What a core start began from (R788). -/
inductive StartKind where
  | porAux | porCore | mrst | fermata
  deriving DecidableEq, Repr

/-- The hold-up bank and its gauge (R665 to R669). -/
structure Gauge where
  bankMv : Nat            -- bank voltage
  qUc : Nat               -- charge counted above Vmin, in µC
  bleeding : Bool         -- the bleed of R666 runs
  bled : Bool             -- the bleed has ended
  fault : Bool            -- held until the next start of the auxiliary supply (R668)
  armed : Bool            -- armed for Fermata at the last evaluation (R669)
  deriving DecidableEq, Repr

/-- The e-fuse (R661 to R664). -/
structure Efuse where
  tripped : Bool
  locked : Bool
  trips : List Nat        -- instants of the trips that count towards the lock, newest first
  deriving DecidableEq, Repr

/-- A Fermata record (R679). -/
structure FermataRec where
  cause : Nat
  outcome : Nat
  measure : Nat
  gauge : Nat
  gaugeV : Nat
  gaugeQ : Nat
  bankMv : Nat
  steps : List Nat
  entered : Nat           -- instant of the PFAIL, for hold_ms
  holdMs : Nat
  deriving DecidableEq, Repr

/-- A part of the flash: pages written since manufacture, sectors of 4 KiB erased since, and whether the rest still holds what
it held at manufacture (R689). -/
structure Area where
  shipped : Bool
  wiped : List Nat
  pages : List (Nat × Bytes)
  deriving DecidableEq, Repr

/-- A TC_FW session (R695, R725, R726). -/
structure Session where
  bank : Nat
  length : Nat
  written : List (Nat × Bytes)   -- chunks accepted: programmed or buffered
  buffered : List Nat            -- offsets in the chunk buffers, in order
  erased : Nat                   -- 64 KiB blocks erased so far
  lastAt : Nat
  deriving DecidableEq, Repr

/-- An FW_STAGE that is writing its bank (R692): its command, the bank, and the flash operations done. -/
structure FwWrite where
  cid : Nat
  bank : Nat
  done : Nat
  deriving DecidableEq, Repr

/-- The boot record and what a start does with it (R695 to R699). -/
structure Boot where
  active : Nat            -- 1 A, 2 B
  staged : Nat            -- staged state of the inactive bank (R695)
  lastBoot : Nat
  activations : Nat
  stagedMeasure : Nat
  activated : Bool        -- the running image was activated at this start, for R802
  raised : Option Nat     -- svn_min once an image raised it
  empty : Bool            -- the inactive bank is marked empty (R692)
  coldOk : Bool           -- the cold-data check has passed (R800)
  coldBad : Bool
  deriving DecidableEq, Repr

/-- A program or an erase in progress in the flash (R714, R715): its flash address and bytes. -/
structure FlashOp where
  erase : Bool
  addr : Nat
  len : Nat
  suspended : Bool
  suspends : Nat
  deriving DecidableEq, Repr

/-- The serial port master and the execute-in-place window. -/
structure Spm where
  lines : List Nat        -- flash addresses of the buffered lines, newest first (R712)
  op : Option FlashOp
  queue : List Nat        -- line addresses of the reads that wait (R715, R800)
  lastRead : Nat          -- the instant of the last line read, for R714
  wel : Bool              -- write enable latch (R708)
  octal : Bool            -- 8D-8D-8D mode entered (R709)
  deriving DecidableEq, Repr

/-- A pattern-match unit's filter (R737, R738). -/
structure Pmu where
  matching : Bool
  run : Nat               -- consecutive samples that differ from the state
  fresh : Bool            -- just enabled: takes its state without an event
  deriving DecidableEq, Repr

/-- The pins: what the board drives, the lock sequences of the three sources, and the pattern-match units (R729 to R745). -/
structure Pins where
  extMask : Nat           -- pins the board drives
  extLevel : Nat
  lockSeq : List (Nat × Nat)  -- MGC, conductors, host: keys accepted so far, and their mask
  pmus : List Pmu
  held : List (Option Bool)   -- levels held by sleep code 1, per pin
  asleep : Nat                -- 0 awake, 1 Rest codes applied, 2 Fermata codes applied (R741)
  deriving DecidableEq, Repr

/-- The states of the test access port (R871). -/
inductive Tap where
  | reset | idle
  | selDr | capDr | shDr | ex1Dr | pauDr | ex2Dr | upDr
  | selIr | capIr | shIr | ex1Ir | pauIr | ex2Ir | upIr
  deriving DecidableEq, Repr

/-- The test access port (R871 to R873). -/
structure Jtag where
  trst : Bool             -- TRST_N low
  state : Tap
  ir : Nat
  irShift : Nat
  drShift : List Bool
  bsr : List Bool         -- update latches of the boundary-scan register
  deriving DecidableEq, Repr

/-- A mailbox reply that is ready to be written (R813). -/
structure MboxReply where
  seq : Nat
  status : Nat
  words : List Nat
  deriving DecidableEq, Repr

/-- A hardware queue between the conductors and the MGC (R816): its entries of 32 bytes, at most 16, oldest first, and the messages of senders that
wait because it is full. -/
structure MgcQueue where
  entries : List Bytes
  held : List Bytes
  deriving DecidableEq, Repr

/-- The module and the always-on domain. -/
structure Power where
  aux : Bool                     -- the auxiliary supply is good and the always-on domain runs
  auxMv : Nat
  mgc : Bool                     -- the MGC firmware runs (R786 step 6)
  mode : PMode
  kind : StartKind               -- of the last core start
  startDue : Option StartKind    -- a core start that begins next (R788)
  mrstInFermata : Bool           -- an MRST was recorded during Fermata (R780)
  linkReset : Bool               -- the warm reset under way came through the host link (R778)
  inLow : Bool                   -- the exit under way has no staging image to restore (R781, R844)
  pllLost : Nat                  -- PLLs that have lost lock, as bits of CLK_LOCK (R756)
  fatalAt : Nat                  -- the instant of the fatal error (R842)
  startAt : Nat                  -- instant of the last core start, warm reset or wake
  coreOn : Bool                  -- core rails in regulation
  busMv : Nat
  busGoodFrom : Option Nat       -- since when the bus has been between 48.0 V and 57.0 V (R677)
  inputMa : Nat
  inputMw : Nat
  samples : List (List Nat)      -- the last ten samples of R700, newest first
  energyMj : Nat                 -- module energy since the start of the auxiliary supply (R701)
  pwrEn : Bool
  waitPwrEn : Bool               -- after a thermal trip: PWR_EN must go low and high again (R772)
  ejectOpen : Bool
  switchOn : Bool                -- hot-swap switch closed
  pwrGood : Bool
  gauge : Gauge
  efuse : Efuse
  retained : Bool                -- the retained mark (R672)
  record : Option FermataRec
  saved : List (Nat × Nat)       -- the F registers the MGC saved (R767)
  tj : Nat                       -- hottest junction sensor, 0.1 °C
  inletC : Nat                   -- module inlet, 0.1 °C
  memC : Nat                     -- hottest GDDR7 device, 0.1 °C
  engines : Nat                  -- engines allowed (R769)
  gatedNow : Bool                -- R771 has gated the upper engines since the last downbeat
  bankA : Area
  bankB : Area
  rest : Area                    -- the flash above the banks
  boot : Boot
  session : Option Session
  fwWrite : Option FwWrite       -- an FW_STAGE is writing
  fwWait : List Nat              -- FW_STAGE commands that wait for a session to close (R693)
  toMgc : MgcQueue               -- from the conductors to the MGC (R816)
  fromMgc : MgcQueue             -- from the MGC to the conductors
  spm : Spm
  spsLast : Bool                 -- R721 bit 0
  alert : Bool                   -- ALERT_N low
  trayEvents : Nat               -- the tray's own copy of PWR_EVENT (R688)
  evLog : List Bytes             -- event log, newest first
  faultTrips : Nat               -- fault record: e-fuse trips and gauge faults (R689)
  faultGauge : Nat
  faultCauses : List Nat
  engFaults : List (Nat × Nat)   -- fault record: engine faults with their measures (R846)
  pins : Pins
  errLog : List Bytes            -- the error log's ring, newest first (R839)
  errThis : Nat                  -- contained errors logged in this measure
  fwFaults : List Nat            -- measures of firmware faults (R838)
  tauNext : Option Nat           -- the trim that applies from the next downbeat (R832)
  trimFrom : Nat                 -- the measure of the last trim update
  sinceStart : Nat               -- measures since the last start from an unpowered core (R835)
  mbox : Option MboxReply
  jtag : Jtag
  seatStatus : List (Nat × Nat × Nat)  -- completions of a seat by status (R829, group 0x0009)
  statusSnap : List (Nat × Nat × Nat)  -- that count in the snapshot (R824)
  traces : List (Nat × List Bytes)     -- descriptor headers run by queue q: in the last pass at q, in the running one at 32 + q (R829)
  wakeAt : Nat                         -- instant of the wake event (R765)
  deriving DecidableEq, Repr

end Sys2Proof.Machine
end

