-- ==== Sys2Proof/Machine/TypesWeave.lean ====
section
/-!
DEFINITION. The plain-data records of the weave (chapter 14): strands, the weave map, messages in transit, and what a head rim,
a rim or a stake keeps of the searches, mutations and administration of the weave.
-/
namespace Sys2Proof.Machine

/-- A control block (R589); the layout of a training word is not stated (R593). -/
inductive Ctl where
  | idle
  | ack (seq : Nat)
  | nak (seq : Nat)
  | replay (seq : Nat)
  | credit (vc0 vc1 vc2 vc3 : Nat)
  | beacon (measure lead period : Nat) (settings : Bool) (records epoch : Nat)
  | align (lane count : Nat)
  | train (word : Nat)
  | stamp (sent echoed hold : Nat)
  deriving DecidableEq, Repr

/-- A numbered data block: sequence number, virtual channel, 30 data bytes (R590, R597). -/
structure DataBlock where
  seq : Nat
  vc : Nat
  data : Bytes
  deriving DecidableEq, Repr

/-- A strand (R579 to R599). The fields of its WV_STRAND and WV_DELAY registers are in the register file. -/
structure Strand where
  lanes : List Nat          -- pins of D0 to D3 (R581)
  peerSerial : Nat          -- the peer's serial number, from its training word (R593)
  peerStrand : Nat          -- the strand's number at the peer (R593)
  txSeq : Nat               -- sequence of the next new data block
  rxSeq : Nat               -- sequence expected next
  nakked : Bool             -- a NAK is out: data blocks are discarded until a REPLAY (R596)
  unacked : Nat             -- accepted blocks since the last ACK
  firstUnacked : Nat        -- the instant of the oldest of them
  replay : List DataBlock       -- blocks sent and not acknowledged (R596)
  credits : List Nat        -- credits held per virtual channel (R597)
  owed : List Nat           -- credits to return per virtual channel
  sendq : List (Nat × Bytes)  -- blocks waiting to be sent, in order: virtual channel and data
  turn : Nat                -- round robin of VC2 and VC3 (R597)
  part : List (Nat × Nat × Bytes)  -- messages being received: virtual channel, blocks still to come, bytes so far
  inbox : List Bytes        -- whole messages received for this chip, oldest first
  lastData : Nat            -- instant of the last data block sent (R760)
  tacet : Bool              -- R760
  deriving DecidableEq, Repr

/-- An entry of the weave map (R651). -/
structure MapEnt where
  serial : Nat
  addr : Nat
  parent : Nat
  up : Nat
  alt : Nat
  flags : Nat
  deriving DecidableEq, Repr

/-- One shelf's record of a capacity report (R608, R621). -/
structure CapRec where
  handle : Nat
  sub : Nat
  rows : Nat
  staged : Nat
  deriving DecidableEq, Repr

/-- A capacity report (R621): the inputs of R63 to R65. -/
structure Capacity where
  measure : Nat
  engines : Nat
  kappa : Nat
  bw : Nat                  -- in 1/256 B/ns
  point : Nat               -- ns
  farBw : Nat
  farLat : Nat
  recs : List CapRec
  deriving DecidableEq, Repr

/-- What a rim keeps of a member. -/
structure Member where
  addr : Nat
  lost : Bool               -- R641
  downFrom : Option Nat     -- the measure in which its downlink went down
  cap : Option Capacity
  deriving DecidableEq, Repr

/-- A sub-shelf out of service on its holder: dropped, lost or being rebuilt (R619, R642, R648). -/
structure SubOut where
  handle : Nat
  holder : Nat
  sub : Nat
  deriving DecidableEq, Repr

/-- A weave shelf at the head rim (R615): its holders in ascending address and its sub-shelves out of service. -/
structure WShelf where
  template : Shelf          -- the shelf's fixed properties (R105), with no slabs
  holders : List Nat
  outs : List SubOut
  gen : Nat
  committed : Bool          -- a mutation committed that no generation record shows yet (R614)
  deriving DecidableEq, Repr

/-- What an outstanding operation of the head rim does (R639). -/
inductive WKind where
  | prepare | commit | abort | point | remote | admin | settle | rebuild
  deriving DecidableEq, Repr

/-- An outstanding operation of the head rim: its operation id, its command, the members that have not answered, and the
messages as sent, kept for a re-send (R640). -/
structure WOp where
  id : Nat
  kind : WKind
  cid : Nat
  handle : Nat
  waiting : List Nat
  sent : List (Nat × Bytes)   -- destination and body
  worst : Nat                 -- the first failing status, 0 for none
  present : List (Nat × Nat)  -- (record index, present) as the primaries reported
  records : List Bytes        -- the batch of a prepare
  deriving DecidableEq, Repr

/-- A tentative batch at a holder (R624): records as sent, not yet visible. -/
structure Tent where
  op : Nat
  handle : Nat
  opcode : Nat
  records : List Bytes
  units : Nat × Nat           -- insert and kill units reserved
  decided : Option Nat        -- the commit measure of a commit that waits for a slab operation (R468)
  deriving DecidableEq, Repr

/-- A search or STATS forwarded through the weave: at the head rim with the members whose acknowledgement is awaited, at a
member as it was received (R620). -/
structure Fan where
  ref : Nat
  cid : Nat                   -- the host's command at the head rim; 0 at a member
  waiting : List Nat
  noRoom : Bool               -- a member answered that it has no intake room
  packet : Bytes
  operands : Bytes
  table : Bytes
  deriving DecidableEq, Repr

/-- A value of a value list (R630): a sweep value, and on a direct cosine shelf its row's squared norm (log entry 36). -/
structure WVal where
  v : Int
  e : Int
  nx : Nat
  deriving DecidableEq, Repr

/-- One input of a merge of value lists: where it came from (a child's address, or this chip), its values and trailer. -/
structure ValIn where
  src : Nat
  vals : List WVal
  trailer : Nat
  deriving DecidableEq, Repr

/-- One input of a plait (R634): its header fields and its entries, best first. -/
structure FinIn where
  src : Nat
  status : Nat
  view : Nat
  swept : Nat
  handed : Nat
  reranked : Nat
  passed : Nat
  energy : Nat
  entries : List FinEnt
  deriving DecidableEq, Repr

/-- One STATS partial of a rim's inputs (R638). -/
structure StatIn where
  src : Nat
  n : Nat
  lanes : List Lane
  ones : List Nat
  view : Nat
  status : Nat
  deriving DecidableEq, Repr

/-- A search of this pass as the rim function of this chip handles it (R630 to R638). -/
structure Merge where
  ref : Nat
  cid : Nat                   -- the host's command at the head rim; 0 elsewhere
  runs : List Nat             -- this chip's runs of the search, by cid
  kids : List Nat             -- children expected (R884)
  vals : List ValIn
  sentVals : Bool
  mergedVals : List WVal
  mergedTrailer : Nat
  bstar : Option WVal         -- B* while the tie round runs (R631)
  need : Nat
  ties : List (Nat × List Nat)
  sentTies : Bool
  key : Option (WVal × Nat)
  fins : List FinIn
  stats : List StatIn
  cut : Bool                  -- a branch is missing (R633, R636)
  done : Bool
  deriving DecidableEq, Repr

/-- A bucket copy of a rebuild (R648, R649), at the target. -/
structure Rebuild where
  op : Nat
  handle : Nat
  buckets : List Nat          -- buckets whose end has not arrived
  missing : Bool              -- some bucket had no copy in service
  late : List (Nat × Nat × List Bytes)  -- commits since the copy began: opcode, commit measure and records (R648)
  deriving DecidableEq, Repr

/-- A bucket a source has still to copy to a rebuild's target (R648, R649), with the rows of it already sent. -/
structure Feed where
  op : Nat
  handle : Nat
  target : Nat
  bucket : Nat
  sent : Nat
  deriving DecidableEq, Repr

/-- A committed operation whose entries have not all reached the store: at a holder with its entries' handles, at the head rim
with the holders that have not reported (R629). -/
structure Settle where
  op : Nat
  handle : Nat
  measure : Nat
  left : List Nat
  deriving DecidableEq, Repr

/-- A promotion of the deputy in progress (R643): the measure of the loss, and the old head rim. -/
structure Promo where
  lossMeasure : Nat
  oldHead : Nat
  planned : Bool              -- by WEAVE_ADMIN PROMOTE (R650)
  deriving DecidableEq, Repr

/-- The weave. Address, role, depth, parent, deputy and epoch are in the registers WV_SELF, WV_PARENT, WV_DEPUTY and
WV_EPOCH. -/
structure Weave where
  strands : List Strand
  map : List MapEnt
  nextMap : Option (List MapEnt)   -- taken at the next downbeat (R651)
  members : List Member
  shelves : List WShelf
  kept : List WShelf               -- what a chip that has left the weave at Fermata entry knew of its shelves (R652)
  ops : List WOp
  opCount : Nat                    -- the counter of R639
  applied : List (Nat × Nat × Bytes)  -- operation ids with the type and body of the answer given, newest first (R639)
  tents : List Tent
  commitLog : List (Nat × Nat × Nat)  -- operations this holder has committed: id, commit measure and shelf (R643)
  landing : List Settle            -- at a holder (R629)
  settles : List Settle            -- at the head rim (R629)
  fans : List Fan
  merges : List Merge
  nextRef : Nat
  passed : List (Nat × Nat × List Nat)  -- plan messages forwarded: measure, child, search references (R884)
  gens : List (Nat × Nat × Nat)    -- generation records: measure of the downbeat, handle, generation (R614)
  settings : List (Nat × Bytes)    -- settings of R613: target measure, bytes 4 to 23 of the parameter block
  reports : List Nat               -- direct children that reported the loss of the head rim (R643)
  missed : Bool                    -- this measure started without a BEACON
  beacon : Option (Nat × Nat)      -- the weave downbeat a BEACON named: its instant and measure number (R610, R612)
  promo : Option Promo
  mirror : List WinEnt             -- at the deputy the mirror of the head rim's replay window, at the head rim what was sent of it (R628)
  rebuilds : List Rebuild
  feeds : List Feed
  backs : List (Nat × Nat)         -- rebuilt copies that serve from the next downbeat: handle and holder (R649)
  restAt : Option (Nat × Nat)      -- a REST request: 1 enter or 2 wake, and the downbeat named (R652, R761)
  plan : Option (Nat × List Nat)   -- the plan message: measure and search references (R623)
  keySent : Nat                    -- the instant of the first value list sent in this pass, for WV_KEY_LAST
  deriving DecidableEq, Repr

end Sys2Proof.Machine
end

