-- ==== Sys2Proof/Machine/State.lean ====
section
/-!
DEFINITION. The state of the block, its faults and refusals, and the state after reset: the machine at the start of the
auxiliary supply, before PWR_EN (log entries 1 and 2).
-/
namespace Sys2Proof.Machine

/-- What the block sends out: each posting or signal, in the order it is issued. -/
inductive Out where
  | hostWrite (fn addr : Nat) (bytes : Bytes) (relaxed : Bool)  -- a posted write under a function's identity (R364, R386)
  | hostRead (fn addr len : Nat)                                -- a device read (R364)
  | msix (fn vector : Nat)                                      -- an MSI-X message (R389)
  | readReturn (fn off value : Nat)                             -- the value returned for a register read
  | barReturn (fn bar off value : Nat)                          -- the value returned for a read of BAR2 or BAR4 (R369, R370)
  | configReturn (fn : Nat) (field : ConfigField) (value : Nat) -- the value returned for a read of configuration space
  | block (strand : Nat) (bits : BitVec 258)                    -- a block on a strand: the line bits of R583, first bit lowest
  | beat                                                        -- the pulse of BEAT_OUT (R747)
  | sps (bytes : Bytes)                                         -- an SPS reply frame (R721)
  | alert (low : Bool)                                          -- a change of ALERT_N (R685)
  | uncorrectable                                               -- Uncorrectable Internal Error on every enabled PF (R397)
  | xip (data : Bytes) (error : Bool)                           -- the answer to an execute-in-place access
  | tdo (bit : Bool)                                            -- the test access port's output
  deriving DecidableEq, Repr

/-- The sweep: the plan and what runs it. -/
structure Sweep where
  plan : Plan
  runs : List Run
  engines : List Engine
  clusters : List Cluster
  queues : List TileQ           -- SQ0 to SQ31; the tile queues are SQ0 to SQ15 and SQ18 (R321)
  work : List Tile              -- slab tiles of the pass that no queue's descriptor names yet
  scanDone : Bool               -- the staging scan has ended (R345)
  tfill : List TFill            -- the table sets filled through the table cache in this pass (R347 to R351)
  reissued : Bool               -- tiles were re-issued in this pass (R88)
  stopped : Bool                -- the protection point has stopped the sweep (R81)
  bandCut : Bool                -- boundary resolutions open at the protection point (R296)
  codaDone : Bool               -- coda finish is complete (R294)
  nextTid : Nat
  deriving DecidableEq, Repr

/-- The re-rank and the granule requests. -/
structure Rerank where
  voices : List Voice
  units : List RUnit
  cur : List Int                -- switch-in credits of W0 to W3 (R442)
  reqs : List Req
  nextRid : Nat
  nextArr : Nat                 -- arrivals in the reorder queues so far
  queries : List StoredQuery    -- the query store (R256)
  spill : List SpillWord        -- the spill words written in this measure (R241)
  deriving DecidableEq, Repr

/-- The store: shelves, directory, staging buffer, journal. -/
structure Store where
  shelves : List Shelf
  dir : List DirEnt
  staging : List StgEnt
  nextHandle : Nat
  journal : List Journal
  image : Option (List StgEnt)  -- the staging image of a Fermata entry (R494)
  imageBad : Bool               -- the image's CRC fails
  busyFrom : Nat                -- since when a slab operation has been in progress
  laid : List Nat               -- the channels the retained store is laid out on (R575)
  deriving DecidableEq, Repr

/-- The host link, the commands and the seats. -/
structure HostSt where
  fns : List Fn
  ports : List Port
  sbqs : List Sbq
  cpqs : List Cpq
  cmds : List Cmd
  nextCid : Nat                 -- from 1; 0 marks an entry of no command
  window : List WinEnt          -- newest first
  grantCur : List Int           -- grant credits of W0 to W3 (R442)
  grants : List (Nat × Nat)     -- granted commands, with their seats
  claims : List Claim
  offerAt : Nat                 -- the measure in which the HANDOVER committed (R527)
  energy : List (Nat × Nat)     -- nanojoules completed by each seat in this measure (R534)
  intakeFrom : Option Nat       -- since when a packet or an operand waits for intake storage (R405)
  deriving DecidableEq, Repr

/-- Graphics memory. -/
structure Mem where
  channels : List Channel
  relaying : Bool               -- GDM_STATUS.relaying (R573)
  belowMin : Bool               -- GDM_STATUS.below_min (R576)
  pends : List Pend             -- MAP_OUT and MAP_IN commands waiting (R574, R214)
  pointUsed : Nat               -- point-read granules of this measure (R96)
  scrubStart : Nat              -- the instant the scrub round began
  deriving DecidableEq, Repr

/-- The block. `free` counts the free values taken so far (the model's own field); `pending` is the queue of commands that wait,
first in, first out. -/
structure State where
  regs : List (Nat × Nat)       -- register fields that differ from reset (chapters 01 to 19)
  latched : List (Nat × Nat)    -- the register values in force since the last downbeat (R48)
  tally : List (Nat × Nat)      -- the counts of the running measure or pass, shown from the next downbeat (R823)
  snap : List (Nat × Nat)       -- the snapshot of counters taken at the last downbeat (R824)
  clk : Clock
  sweep : Sweep
  rr : Rerank
  store : Store
  host : HostSt
  mem : Mem
  weave : Weave
  pwr : Power
  out : List Out
  free : Nat
  pending : List Instr
  deriving DecidableEq, Repr

/-! ## Faults and refusals -/

/-- Why a step stops: `illFormed`, raised by a command whose operands describe no event of the hardware (a packet read that returns
another number of bytes than the packet has). Safe: the model stops where nothing happens. -/
inductive Fault where
  | illFormed
  deriving DecidableEq, Repr

/-- Why a command is refused: `notModelled` is the arm of a command that has no meaning yet. Safe. -/
inductive Refusal where
  | notModelled (mnemonic : String)
  deriving DecidableEq, Repr

/-! ## The state after reset -/

/-- The measure at a core start: nothing runs, κ is 1.0 (R69). -/
def clockReset : Clock := ⟨0, 0, 0, .idle, false, false, false, false, false, 0, 0, 256, false, false, 0, false, (0, 0), 0, 0, 0, false, false, false, false⟩

/-- An engine at rest. -/
def engineReset : Engine := ⟨[], none, [], [], none, [], 0, none, false, 0, false, false, false⟩

/-- A cluster coda that holds nothing. -/
def clusterNil : Cluster := ⟨[], [], []⟩

/-- The sweep at a core start: an empty plan. -/
def sweepReset : Sweep :=
  ⟨⟨[], [], 0, 0, 0, 0, 0⟩, [], List.replicate 64 engineReset, List.replicate 8 clusterNil, List.replicate 32 ⟨[], false, false, false⟩, [], false, [],
   false, false, false, false, 0⟩

/-- An accumulation not begun. -/
def accNil : AccState := ⟨0, 0, 0, 0, 0, 0⟩

/-- A unit that runs no voice. -/
def unitReset : RUnit := ⟨none, 0, 0, accNil⟩

/-- The re-rank at a core start. -/
def rerankReset : Rerank := ⟨[], List.replicate 16 unitReset, [0, 0, 0, 0], [], 0, 0, [], []⟩

/-- An empty store. -/
def storeReset : Store := ⟨[], [], [], 0, [], none, false, 0, []⟩

/-- The Device Control registers after a reset: the values of the base specification (PRESUMED, log entry 34). -/
def controlReset : DeviceControl := ⟨0, 2, true, .eight, .standard, false⟩

/-- A function as a Function Level Reset leaves it (R889): not enabled for the host, no Bus Master Enable, D0, MSI-X off and every
vector masked. -/
def fnNil (seat : Nat) : Fn := ⟨seat, false, false, false, false, false, List.range 16, [], [], controlReset, false⟩

/-- A port whose PERST_N is asserted. -/
def portReset : Port := ⟨true, false, 0, 0, false, false⟩

/-- The host side at a core start. -/
def hostReset : HostSt :=
  ⟨(List.range 65).map fnNil, [portReset, portReset], [], [], [], 1, [], [0, 0, 0, 0], [], [], 0, [], none⟩

/-- A channel that is not trained. -/
def channelNil : Channel := ⟨false, false, false, 0, 0, 0, 0, 0, 0, 0, [], [], [], 0, 0, none, 0⟩

/-- Graphics memory before its first training. -/
def memReset : Mem := ⟨List.replicate 24 channelNil, false, false, [], 0, 0⟩

/-- A strand that never trained. -/
def strandNil : Strand :=
  ⟨[], 0, 0, 0, 0, false, 0, 0, [], [16, 128, 256, 128], [0, 0, 0, 0], [], 0, [], [], 0, false⟩

/-- No weave. -/
def weaveReset : Weave :=
  { strands := List.replicate 64 strandNil, map := [], nextMap := none, members := [], shelves := [], kept := [], ops := [], opCount := 0, applied := [],
    tents := [], commitLog := [], landing := [], settles := [], fans := [], merges := [], nextRef := 0, passed := [], gens := [], settings := [],
    reports := [], missed := false, beacon := none, promo := none, mirror := [], rebuilds := [], feeds := [], backs := [], restAt := none, plan := none, keySent := 0 }

/-- The always-on domain before the auxiliary supply is good, with a module as it was shipped. -/
def powerReset : Power :=
  { aux := false, auxMv := 0, mgc := false, mode := .off, kind := .porAux, startDue := none, mrstInFermata := false, linkReset := false,
    inLow := false, pllLost := 0, fatalAt := 0, startAt := 0, coreOn := false, busMv := 0, busGoodFrom := none, inputMa := 0, inputMw := 0,
    samples := [], energyMj := 0, pwrEn := false, waitPwrEn := false, ejectOpen := false, switchOn := false, pwrGood := false,
    gauge := ⟨0, 0, false, false, false, false⟩, efuse := ⟨false, false, []⟩, retained := false, record := none, saved := [], tj := 0, inletC := 0,
    memC := 0, engines := 64, gatedNow := false, bankA := ⟨true, [], []⟩, bankB := ⟨true, [], []⟩, rest := ⟨true, [], []⟩,
    boot := ⟨1, 0, 0, 0, 0, false, none, false, false, false⟩, session := none, fwWrite := none, fwWait := [], toMgc := ⟨[], []⟩, fromMgc := ⟨[], []⟩, spm := ⟨[], none, [], 0, false, false⟩,
    spsLast := false, alert := false, trayEvents := 0, evLog := [], faultTrips := 0, faultGauge := 0, faultCauses := [], engFaults := [],
    pins := ⟨0, 0, [(0, 0), (0, 0), (0, 0)], List.replicate 4 ⟨false, 0, false⟩, [], 0⟩, errLog := [], errThis := 0, fwFaults := [],
    tauNext := none, trimFrom := 0, sinceStart := 0, mbox := none, jtag := ⟨true, .reset, 0xFE, 0, [], []⟩, seatStatus := [], statusSnap := [],
    traces := [], wakeAt := 0 }

/-- The machine right after reset: the always-on domain before the auxiliary supply is good. Every register holds its reset value,
and no command waits. -/
def State.reset : State :=
  { regs := [], latched := [], tally := [], snap := [], clk := clockReset, sweep := sweepReset, rr := rerankReset, store := storeReset,
    host := hostReset, mem := memReset, weave := weaveReset, pwr := powerReset, out := [], free := 0, pending := [] }

end Sys2Proof.Machine
end

