-- ==== Sys2Proof/Machine/Base.lean ====
section
/-!
DEFINITION. The plainest operations over State: registers, events and counters, the parts of State changed, what is sent out,
and free values.
-/
namespace Sys2Proof.Machine

/-- A change made only when a condition holds. -/
def State.when (s : State) (b : Bool) (f : State → State) : State := if b then f s else s

/-- A change folded over a list. -/
def State.each {α : Type} (s : State) (l : List α) (f : State → α → State) : State := l.foldl f s

/-! ## Registers -/

/-- A register field's value. -/
def State.rd (s : State) (f : Fld) (i : Nat := 0) : Nat := regGet f 0 i s.regs

/-- A function-window field's value in the window of a seat. -/
def State.rdw (s : State) (f : Fld) (seat i : Nat) : Nat := regGet f seat i s.regs

/-- A register field's value in force since the last downbeat (R48). -/
def State.inForce (s : State) (f : Fld) (i : Nat := 0) : Nat := regGet f 0 i s.latched

/-- A register field set. -/
def State.wr (s : State) (f : Fld) (i v : Nat) : State := { s with regs := regSet f 0 i v s.regs }

/-- A function-window field set in the window of a seat. -/
def State.wrw (s : State) (f : Fld) (seat i v : Nat) : State := { s with regs := regSet f seat i v s.regs }

/-- An event bit set. -/
def State.ev (s : State) (f : Fld) (i : Nat := 0) : State := s.wr f i 1

/-- A cumulative counter increased; it saturates at its largest value (R823). -/
def State.inc (s : State) (f : Fld) (i : Nat := 0) (n : Nat := 1) : State :=
  s.wr f i (min (s.rd f i + n) (2 ^ f.width - 1))

/-- A count of this measure or pass increased: the register shows it from the next downbeat (R823). -/
def State.bump (s : State) (f : Fld) (i : Nat := 0) (n : Nat := 1) : State :=
  { s with tally := regSet f 0 i (min (regGet f 0 i s.tally + n) (2 ^ f.width - 1)) s.tally }

/-- A count of this measure or pass set (R823). -/
def State.bumpSet (s : State) (f : Fld) (i v : Nat) : State := { s with tally := regSet f 0 i v s.tally }

/-- A function-window count of this measure increased (R823). -/
def State.bumpw (s : State) (f : Fld) (seat n : Nat) : State :=
  { s with tally := regSet f seat 0 (min (regGet f seat 0 s.tally + n) (2 ^ f.width - 1)) s.tally }

/-- The count of this measure or pass so far. -/
def State.tallied (s : State) (f : Fld) (i : Nat := 0) : Nat := regGet f 0 i s.tally

/-- A function-window counter increased. -/
def State.incw (s : State) (f : Fld) (seat : Nat) (n : Nat := 1) : State := s.wrw f seat 0 (min (s.rdw f seat 0 + n) (2 ^ f.width - 1))

/-- A register that keeps the larger of its value and a new one. -/
def State.peak (s : State) (f : Fld) (i v : Nat) : State := s.wr f i (max (s.rd f i) v)

/-- The current measure number (R46). -/
def State.measure (s : State) : Nat := s.rd measNumberValue

/-! ## Sub-states -/

/-- The clock changed. -/
def State.clkMap (s : State) (f : Clock → Clock) : State := { s with clk := f s.clk }
/-- The sweep changed. -/
def State.sweepMap (s : State) (f : Sweep → Sweep) : State := { s with sweep := f s.sweep }
/-- The re-rank changed. -/
def State.rrMap (s : State) (f : Rerank → Rerank) : State := { s with rr := f s.rr }
/-- The store changed. -/
def State.storeMap (s : State) (f : Store → Store) : State := { s with store := f s.store }
/-- The host side changed. -/
def State.hostMap (s : State) (f : HostSt → HostSt) : State := { s with host := f s.host }
/-- Graphics memory changed. -/
def State.memMap (s : State) (f : Mem → Mem) : State := { s with mem := f s.mem }
/-- The weave changed. -/
def State.weaveMap (s : State) (f : Weave → Weave) : State := { s with weave := f s.weave }
/-- The power, reset, serial and pin state changed. -/
def State.pwrMap (s : State) (f : Power → Power) : State := { s with pwr := f s.pwr }

/-- Something sent out. -/
def State.emit (s : State) (o : Out) : State := { s with out := s.out ++ [o] }

/-- The model's free-value counter moved on by one. -/
def State.tickFree (s : State) : State := { s with free := s.free + 1 }

/-- `n` bytes the spec leaves open. -/
def State.freeBytes (s : State) (n : Nat) : Bytes := (List.range n).map (fun i => Config.freeByte (s.free + i))

/-- The free-value counter moved on by `n`. -/
def State.tickFrees (s : State) (n : Nat) : State := { s with free := s.free + n }

/-- A count or duration of this measure or pass that the device measures and the spec does not state. -/
def State.measured (s : State) (f : Fld) (i : Nat := 0) : State :=
  (s.bumpSet f i (Config.measured s.free).toNat).tickFree

end Sys2Proof.Machine
end

