-- ==== Sys2Proof/Machine/Link.lean ====
section
/-!
DEFINITION. The strand link layer (chapter 14, sections 1 and 2.2): block layout, CRC and correction, scrambling, control blocks,
credits and replay on the sending side, and the heads and routing of messages.
-/
namespace Sys2Proof.Machine

/-! ## Blocks (R583 to R589) -/

/-- One step of the CRC-16 of R586. -/
def crc16Step (crc : Nat) (b : Bool) : Nat :=
  let sh := crc * 2 % 65536
  if (crc.testBit 15) != b then sh ^^^ 0x1021 else sh

/-- The CRC-16 of R586 over bits 0 to `n - 1` of a value, in ascending order. -/
def crc16 (n v : Nat) : Nat := (List.range n).foldl (fun c i => crc16Step c (v.testBit i)) 0xFFFF

/-- The 256 payload bits of a block's 240 data bits (R585, R586). -/
def payloadOf (d : Nat) : Nat := d % 2 ^ 240 + crc16 240 d * 2 ^ 240

/-- The CRC syndrome of 256 payload bits (R588). -/
def syndrome (p : Nat) : Nat := crc16 240 p ^^^ (p / 2 ^ 240 % 65536)

/-- A received payload accepted as it is, corrected in one bit, or uncorrectable (R588). -/
def correct (p : Nat) : Option (Nat × Bool) :=
  if syndrome p = 0 then some (p % 2 ^ 240, false)
  else ((List.range 256).find? (fun i => syndrome (p ^^^ 2 ^ i) == 0)).map (fun i => ((p ^^^ 2 ^ i) % 2 ^ 240, true))

/-- `n` output bits of the scrambler x^31 + x^28 + 1 from its state, the last 31 output bits (R587); the bits, then the state
after them. -/
def scramble : Nat → Nat → Nat × Nat
  | 0, st => (0, st)
  | n + 1, st =>
    let o := if (st.testBit 30) != (st.testBit 27) then 1 else 0
    let r := scramble n ((2 * st + o) % 2 ^ 31)
    (o + 2 * r.1, r.2)

/-- A block's line bits (R583): sync header 01 for data and 10 for control, then the scrambled payload. -/
def lineBits (control : Bool) (scrambled : Nat) : BitVec 258 := BitVec.ofNat 258 ((if control then 1 else 2) + 4 * scrambled)

/-- The PAM4 levels of line bits (R584). -/
def pam4 (bits : BitVec 258) : List Nat :=
  (List.range 129).map (fun i => match bits.getLsbD (2 * i), bits.getLsbD (2 * i + 1) with
    | false, false => 0 | false, true => 1 | true, true => 2 | true, false => 3)

/-- The data bits of a control block (R589). -/
def ctlBits : Ctl → Nat
  | .idle => 0
  | .ack q => 1 + 2 ^ 8 * (q % 65536)
  | .nak q => 2 + 2 ^ 8 * (q % 65536)
  | .replay q => 3 + 2 ^ 8 * (q % 65536)
  | .credit a b c d => 4 + 2 ^ 8 * (a % 256) + 2 ^ 16 * (b % 256) + 2 ^ 24 * (c % 256) + 2 ^ 32 * (d % 256)
  | .beacon m l p st r e => 5 + 2 ^ 8 * (m % 2 ^ 32) + 2 ^ 40 * (l % 65536) + 2 ^ 56 * (p % 2 ^ 31) + (if st then 2 ^ 87 else 0) +
      2 ^ 88 * (r % 65536) + 2 ^ 104 * (e % 65536)
  | .align l c => 6 + 2 ^ 8 * (l % 8) + 2 ^ 16 * (c % 65536)
  | .train w => 7 + 2 ^ 8 * (w % 2 ^ 232)
  | .stamp a b h => 8 + 2 ^ 8 * (a % 2 ^ 48) + 2 ^ 56 * (b % 2 ^ 48) + 2 ^ 104 * (h % 2 ^ 48)

/-! ## Sending -/

/-- A strand. -/
def State.strand (s : State) (i : Nat) : Strand := s.weave.strands.getD i strandNil

/-- A strand changed. -/
def State.strandMap (s : State) (i : Nat) (f : Strand → Strand) : State :=
  s.weaveMap (fun w => { w with strands := updAt i f w.strands })

/-- A strand is up (WV_STRAND.state 2), or in low-power idle or Tacet, from which a message wakes it (R760). -/
def State.strandUp (s : State) (i : Nat) : Bool := s.rd wvStrandState i == 2

/-- A block put on the line (R583 to R587): the payload with its CRC, scrambled from the state the lane's scrambler has reached. The
idle blocks between are not modelled, so that state is free. -/
def State.emitBlock (s : State) (i : Nat) (control : Bool) (d : Nat) : State :=
  let m := scramble 256 (Config.seed i s.free).toNat
  (s.emit (.block i (lineBits control (payloadOf d ^^^ m.1)))).tickFree

/-- A control block sent on a strand that is up. -/
def State.sendCtl (s : State) (i : Nat) (c : Ctl) : State := if s.strandUp i then s.emitBlock i true (ctlBits c) else s

/-- Credits of a virtual channel held on a strand. -/
def Strand.credit (x : Strand) (vc : Nat) : Nat := x.credits.getD vc 0

/-- The virtual channel whose block goes next (R597): VC0, VC1, then VC2 and VC3 three to one, among those that have a block
waiting and hold a credit. -/
def Strand.nextVc (x : Strand) : Option Nat :=
  let can := fun (vc : Nat) => x.sendq.any (fun b => b.1 == vc) && decide (0 < x.credit vc)
  if can 0 then some 0 else if can 1 then some 1
  else if x.turn < 3 then (if can 2 then some 2 else if can 3 then some 3 else none)
  else (if can 3 then some 3 else if can 2 then some 2 else none)

/-- A list without its first element that satisfies `p`. -/
def dropFirst {α : Type} (p : α → Bool) : List α → List α
  | [] => []
  | x :: xs => if p x then xs else x :: dropFirst p xs

/-- One waiting block sent, if a credit and room in the replay buffer allow (R596, R597). -/
def State.pumpOne (s : State) (i : Nat) : State :=
  let x := s.strand i
  match x.nextVc.bind (fun vc => x.sendq.find? (fun b => b.1 == vc)) with
  | some (vc, d) =>
    if s.strandUp i ∧ x.replay.length < 512 then
      let s := s.emitBlock i false (leNat d)
      s.strandMap i (fun x => { x with
        replay := x.replay ++ [⟨x.txSeq, vc, d⟩], txSeq := (x.txSeq + 1) % 65536
        credits := updAt vc (fun c => c - 1) x.credits
        sendq := dropFirst (fun b => b.1 == vc) x.sendq
        turn := if 2 ≤ vc then (x.turn + 1) % 4 else x.turn, lastData := s.clk.now, tacet := false })
    else s
  | none => s

/-- Waiting blocks sent while any can be. -/
def State.pump (s : State) (i : Nat) : State := (List.range (s.strand i).sendq.length).foldl (fun s _ => s.pumpOne i) s

/-- The virtual channel of a message type (R608); none for a type that is not listed. -/
def msgVc (t : Nat) : Option Nat :=
  if 0x01 ≤ t ∧ t ≤ 0x06 then some 0
  else if t = 0x13 ∨ t = 0x30 ∨ t = 0x31 then some 3
  else if 0x10 ≤ t ∧ t ≤ 0x1D then some 1
  else if 0x20 ≤ t ∧ t ≤ 0x26 then some 2
  else none

/-- A message (R607): head and body, padded to whole blocks. -/
def msgBytes (t dst src op : Nat) (body : Bytes) : Bytes :=
  let n := cdiv (16 + body.length) 30
  padTo (30 * n) (leBytes 1 t ++ leBytes 1 ((msgVc t).getD 0) ++ leBytes 2 dst ++ leBytes 2 src ++ leBytes 2 n ++ leBytes 8 op ++ body)

/-- A string cut into blocks of 30 bytes. -/
def blocksOf : Nat → Bytes → List Bytes
  | 0, _ => []
  | n + 1, b => if b = [] then [] else b.take 30 :: blocksOf n (b.drop 30)

/-- A message queued on a strand. -/
def State.queueMsg (s : State) (i : Nat) (m : Bytes) : State :=
  let vc := field m 1 1 % 4
  (s.strandMap i (fun x => { x with sendq := x.sendq ++ (blocksOf m.length m).map (fun b => (vc, b)) })).pump i

/-! ## Routing (R602, R607) -/

/-- This chip's weave address. -/
def State.self (s : State) : Nat := s.rd wvSelfAddr
/-- This chip is in a weave. -/
def State.inWeave (s : State) : Bool := s.rd wvSelfRole != 0
/-- This chip is the head rim. -/
def State.isHead (s : State) : Bool := s.rd wvSelfRole == 1

/-- The map entry of a member. -/
def State.mapEnt? (s : State) (a : Nat) : Option MapEnt := s.weave.map.find? (fun m => m.addr == a)

/-- The head rim's address: the root of the map (R651). -/
def State.headAddr (s : State) : Nat := ((s.weave.map.find? (fun m => m.parent == 0xFFFF)).map (fun m => m.addr)).getD 0

/-- The children of a member. -/
def State.childrenOf (s : State) (a : Nat) : List Nat := (s.weave.map.filter (fun m => m.parent == a && m.addr != a)).map (fun m => m.addr)

/-- The child of member `self` whose sub-tree holds a member, within `n` hops, in a map. -/
def mapTowards (map : List MapEnt) (self : Nat) : Nat → Nat → Option Nat
  | 0, _ => none
  | n + 1, a =>
    match map.find? (fun m => m.addr == a) with
    | none => none
    | some m => if m.parent = self then some a else mapTowards map self n m.parent

/-- The child of this chip whose sub-tree holds a member. -/
def State.towards (s : State) (n a : Nat) : Option Nat := mapTowards s.weave.map s.self n a

/-- The trained strand to a chip by its serial number. -/
def State.strandBySerial (s : State) (serial : Nat) : Option Nat :=
  (List.range 64).find? (fun i => s.strandUp i && (s.strand i).peerSerial == serial)

/-- The strand that leads to a neighbour of a map. -/
def State.strandIn (s : State) (map : List MapEnt) (a : Nat) : Option Nat :=
  (map.find? (fun m => m.addr == a)).bind (fun m => s.strandBySerial m.serial)

/-- The strand that leads to a neighbour. -/
def State.strandTo (s : State) (a : Nat) : Option Nat := s.strandIn s.weave.map a

/-- The uplink. -/
def State.uplink (s : State) : Nat := s.rd wvParentStrand

/-- A message forwarded or sent towards its destination in a map (R607): down every downlink for 0xFFF, to the child whose sub-tree holds
the destination, and up otherwise. -/
def State.routeIn (s : State) (map : List MapEnt) (self : Nat) (up : Option Nat) (m : Bytes) : State :=
  let dst := field m 2 2 % 4096
  if dst = 0xFFF then
    s.each ((map.filter (fun e => e.parent == self && e.addr != self)).map (fun e => e.addr))
      (fun s c => match s.strandIn map c with | some i => s.queueMsg i m | none => s)
  else match mapTowards map self 4 dst with
    | some c => (match s.strandIn map c with | some i => s.queueMsg i m | none => s)
    | none => (match up with | some i => s.queueMsg i m | none => s)

/-- A message forwarded or sent towards its destination. -/
def State.route (s : State) (m : Bytes) : State := s.routeIn s.weave.map s.self (if s.isHead then none else some s.uplink) m

/-- A message of this chip sent. -/
def State.send (s : State) (t dst op : Nat) (body : Bytes) : State := s.route (msgBytes t dst s.self op body)

/-- A message of this chip sent on a side link (R608). -/
def State.sendSide (s : State) (t dst op : Nat) (body : Bytes) : State :=
  match s.strandTo dst with | some i => s.queueMsg i (msgBytes t dst s.self op body) | none => s

end Sys2Proof.Machine
end

