-- ==== Sys2Proof/Machine/Ops.lean ====
section
/-!
DEFINITION. The named operations over State: postings and interrupts, commands and their completions with the replay window,
ownership, rows and views of the store, and the loss of granules.
-/
namespace Sys2Proof.Machine

/-! ## Functions, postings, interrupts -/

/-- The function of a seat. -/
def State.fn (s : State) (seat : Nat) : Fn := (s.host.fns.find? (fun f => f.seat == seat)).getD (fnNil seat)

/-- A function changed. -/
def State.fnMap (s : State) (seat : Nat) (f : Fn → Fn) : State :=
  s.hostMap (fun h => { h with fns := updFirst (fun x => x.seat == seat) f h.fns })

/-- A function may issue requests under its identity (R394, R399). -/
def Fn.canPost (f : Fn) : Bool := f.enabled && f.bme && !f.d3hot

/-- The port of a seat (R363). -/
def State.portOf (s : State) (seat : Nat) : Nat := if s.rd hstPortModeSplit = 1 ∧ 33 ≤ seat then 1 else 0

/-- The message of an MSI-X vector, or its pending bit when it is masked (R391); discarded without Bus Master Enable (R394). -/
def State.raise (s : State) (seat vector : Nat) : State :=
  let f := s.fn seat
  if !f.msixEnable then s
  else if f.fmask || f.masked.contains vector then
    s.fnMap seat (fun g => { g with pba := if g.pba.contains vector then g.pba else g.pba ++ [vector] })
  else if f.canPost then s.emit (.msix seat vector)
  else (s.incw hstPostDroppedCount seat).wrw hstFeventPostDropped seat 0 1

/-- A function event: the bit set, and vector 8 signalled when it is newly set (R389). -/
def State.fevent (s : State) (f : Fld) (seat : Nat) : State :=
  if s.rdw f seat 0 = 1 then s else (s.wrw f seat 0 1).raise seat 8

/-- A bit of HST_OWN_NOTICE set in a window, and vector 8 signalled when it is newly set (R532). -/
def State.notice (s : State) (seat bit : Nat) : State :=
  let v := s.rdw hstOwnNoticeBits seat 0
  if v.testBit bit then s else (s.wrw hstOwnNoticeBits seat 0 (v + 2 ^ bit)).raise seat 8

/-- A posted write under a function's identity, or its discard (R394). -/
def State.post (s : State) (seat addr : Nat) (bytes : Bytes) (relaxed : Bool := false) : State :=
  if (s.fn seat).canPost then s.emit (.hostWrite seat addr bytes (relaxed && (s.fn seat).ctl.relaxed))
  else (s.incw hstPostDroppedCount seat).fevent hstFeventPostDropped seat

/-- The bytes one read request may ask for (R360). -/
def readSize (c : DeviceControl) : Nat := 128 * 2 ^ c.maxRead.val

/-- The requests a read is issued in: each of at most `size` bytes (R360), and none across a 4 KiB boundary, as the base specification requires of
an endpoint (R358; PRESUMED, log entry 34). -/
def readParts (size : Nat) : Nat → Nat → Nat → List (Nat × Nat)
  | 0, _, _ => []
  | k + 1, addr, len =>
    if len = 0 then []
    else
      let n := max 1 (min len (min size (4096 - addr % 4096)))
      (addr, n) :: readParts size k (addr + n) (len - n)

/-- The requests of a read under a function's identity. -/
def Fn.reads (f : Fn) (addr len : Nat) : List (Nat × Nat) := readParts (readSize f.ctl) len addr len

/-- A read of host memory under a function's identity (R360, R364). -/
def State.readHost (s : State) (seat addr len : Nat) : State := s.each ((s.fn seat).reads addr len) (fun s p => s.emit (.hostRead seat p.1 p.2))

/-- The tags a function's reads may use (R361): 14-bit tags in flit mode only (R358). -/
def State.tagSpace (s : State) (seat : Nat) : Nat :=
  match (s.fn seat).ctl.tags with
  | .eight => 256
  | .ten => 768
  | .fourteen => if ((s.host.ports[s.portOf seat]?).map (fun p => p.flit)).getD false then 4096 else 768

/-- A completion queue's state. -/
def State.cpq (s : State) (fn q : Nat) : Cpq :=
  (s.host.cpqs.find? (fun c => c.fn == fn && c.q == q)).getD ⟨fn, q, 0, 0, 0, 0, 0, none⟩

/-- A completion queue's state changed; it is listed from then on. -/
def State.cpqMap (s : State) (fn q : Nat) (f : Cpq → Cpq) : State :=
  let l := f (s.cpq fn q) :: s.host.cpqs.filter (fun c => !(c.fn == fn && c.q == q))
  s.hostMap (fun h => { h with cpqs := l })

/-- A submission queue's state. -/
def State.sbq (s : State) (fn q : Nat) : Sbq :=
  (s.host.sbqs.find? (fun c => c.fn == fn && c.q == q)).getD ⟨fn, q, 0, 0, 0, [], [], false⟩

/-- A submission queue's state changed; it is listed from then on. -/
def State.sbqMap (s : State) (fn q : Nat) (f : Sbq → Sbq) : State :=
  let l := f (s.sbq fn q) :: s.host.sbqs.filter (fun c => !(c.fn == fn && c.q == q))
  s.hostMap (fun h => { h with sbqs := l })

/-- The pending interrupt of a completion queue sent (R390). -/
def State.sendPending (s : State) (fn q : Nat) : State :=
  if (s.cpq fn q).pend = 0 then s
  else (s.cpqMap fn q (fun c => { c with pend := 0 })).raise fn (s.rdw hstCpqCtrlVector fn q)

/-- Whether a completion queue has no reservation left after its disable: its idle bit (R379). -/
def State.settleCpqIdle (s : State) (fn q : Nat) : State :=
  s.wrw hstCpqStatusIdle fn q (if s.rdw hstCpqCtrlEnable fn q = 0 ∧ (s.cpq fn q).reserved = 0 then 1 else 0)

/-- Whether a submission queue has no fetched command left after its disable: its idle bit (R378). -/
def State.settleSbqIdle (s : State) (fn q : Nat) : State :=
  s.wrw hstSbqStatusIdle fn q
    (if s.rdw hstSbqCtrlEnable fn q = 0 ∧ !(s.host.cmds.any (fun c => c.origin == 0 && c.seat == fn && c.queue == q)) then 1 else 0)

/-! ## Commands -/

/-- A fetched command by its number. -/
def State.cmd? (s : State) (cid : Nat) : Option Cmd := s.host.cmds.find? (fun c => c.cid == cid)

/-- A fetched command changed. -/
def State.cmdMap (s : State) (cid : Nat) (f : Cmd → Cmd) : State :=
  s.hostMap (fun h => { h with cmds := updFirst (fun c => c.cid == cid) f h.cmds })

/-- Opcodes the replay window tracks (R413). -/
def tracked (op : Nat) : Bool :=
  [0x04, 0x05, 0x06, 0x10, 0x11, 0x18, 0x20, 0x21, 0x22, 0x23, 0x28, 0x29, 0x2A, 0x31, 0x38, 0x40, 0x58, 0x60, 0x61].contains op

/-- The status codes (R429). -/
def stOk : Nat := 0x00
def stDuplicate : Nat := 0x01
def stPartial : Nat := 0x02
def stDeferred : Nat := 0x10
def stOverBudget : Nat := 0x11
def stNotOwner : Nat := 0x20
def stNoAccess : Nat := 0x21
def stBadParam : Nat := 0x30
def stBadFormat : Nat := 0x31
def stNoShelf : Nat := 0x32
def stCrc : Nat := 0x33
def stStoreFull : Nat := 0x40
def stStagingFull : Nat := 0x41
def stFlushed : Nat := 0x50
def stHwFault : Nat := 0x60
def stDegraded : Nat := 0x61

/-- The window-entry state a final status gives (R446). -/
def winFinal (status : Nat) (posted : Bool) : WinState :=
  if status = stOk ∨ status = stPartial ∨ status = stDegraded then (if posted then .executed else .unposted) else .never

/-- Seat `seat` charged with the energy of a completed command (R534). -/
def State.charge (s : State) (seat nj : Nat) : State :=
  let l := if s.host.energy.any (fun p => p.1 == seat)
    then updFirst (fun p => p.1 == seat) (fun p => (p.1, p.2 + nj)) s.host.energy
    else s.host.energy ++ [(seat, nj)]
  s.hostMap (fun h => { h with energy := l })

/-- A coefficient of R831 at the pin rate in force. -/
def State.coeff (s : State) (e : EnergyEvent) (cls : Nat) : Nat := Config.coefficient e cls (s.rd gdmStatusRateNow)

/-- The speed of a seat's port, the class of a host-link byte (R831). -/
def State.linkSpeed (s : State) (seat : Nat) : Nat := ((s.host.ports[s.portOf seat]?).map (fun p => p.speed)).getD 0

/-- The estimate of R831 in nJ, rounded down: the trim in force times the sum of counts and coefficients (log entry 84). -/
def State.estimate (s : State) (spent : Nat) : Nat := s.rd telEnergyTrimFactor * spent / (4096 * 65536)

/-- Events counted for a command (R432). -/
def State.spend (s : State) (cid spent : Nat) : State := s.cmdMap cid (fun c => { c with spent := c.spent + spent })

/-- What a command has caused so far, with the `bytes` of its completion record. -/
def State.spentBy (s : State) (c : Cmd) (bytes : Nat) : Nat :=
  ((s.cmd? c.cid).map (fun x => x.spent)).getD 0 + bytes * s.coeff .hostByte (s.linkSpeed c.seat)

/-- The 32 bytes of a completion record (R430). -/
def completionBytes (status orig phase queue tag fetch seq measure location count receipt : Nat) (noReceipt : Bool) : Bytes :=
  leBytes 1 status ++ leBytes 1 orig ++
  leBytes 1 (phase + (if location = 0 then 0 else 2) + (if noReceipt then 4 else 0)) ++ leBytes 1 queue ++
  leBytes 2 tag ++ leBytes 2 fetch ++ leBytes 4 seq ++ leBytes 4 measure ++ leBytes 8 location ++ leBytes 4 count ++
  leBytes 4 receipt

/-- A completion record written into the next slot of the command's completion queue, its reservation used, and its interrupt
made pending (R375, R376, R390). A record that is discarded (R394) is not written: its slot stays the next one, and no interrupt becomes
pending. -/
def State.writeCompletion (s : State) (c : Cmd) (status orig tag measure location count receipt : Nat) : State :=
  let fn := c.seat
  let q := c.cpq
  let tail := s.rdw hstCpqStatusTail fn q
  let phase := s.rdw hstCpqStatusPhase fn q
  let base := s.rdw hstCpqBaseLoAddr fn q + 2 ^ 32 * s.rdw hstCpqBaseHiAddr fn q
  let size := 2 ^ s.rdw hstCpqCtrlSizeLog2 fn q
  let noR := c.flags.testBit 3
  let bytes := completionBytes status orig phase c.queue tag (s.rdw hstSbqStatusFetch fn c.queue) c.seq measure location count
    (if noR then 0 else receipt) noR
  let wrap := size ≤ tail + 1
  if !(s.fn fn).canPost then
    ((s.post fn (base + 32 * tail) bytes).cpqMap fn q (fun x => { x with reserved := x.reserved - 1 })).settleCpqIdle fn q
  else
    let s := s.post fn (base + 32 * tail) bytes
    let s := s.wrw hstCpqStatusTail fn q (if wrap then 0 else tail + 1)
    let s := s.when (decide wrap) (fun s => s.wrw hstCpqStatusPhase fn q (1 - phase))
    let s := s.cpqMap fn q (fun x => { x with reserved := x.reserved - 1, written := x.written + 1 })
    let s := s.when (s.rdw hstCpqCtrlIntEn fn q == 1) (fun s =>
      let s := s.cpqMap fn q (fun x => { x with pend := x.pend + 1, oldest := if x.pend = 0 then s.clk.now else x.oldest })
      s.when (decide (s.rdw hstCpqCoalCount fn q ≤ (s.cpq fn q).pend)) (fun s => s.sendPending fn q))
    s.settleCpqIdle fn q

/-- The window entry of a command set to its final state (R446). -/
def State.closeWindow (s : State) (c : Cmd) (status measure location count : Nat) (posted : Bool) : State :=
  let close := fun (e : WinEnt) =>
    { e with state := winFinal status posted, status := status, tag := c.tag, measure := measure,
             location := if posted then location else 0, count := if posted then count else 0 }
  s.hostMap (fun h => { h with window := updFirst (fun e => e.cid == c.cid) close h.window })

/-- The window's completed entries beyond the 65,536 newest of a seat dropped (R445). -/
def trimWindow (seat : Nat) : Nat → List WinEnt → List WinEnt
  | _, [] => []
  | n, e :: l =>
    if e.seat = seat ∧ e.state ≠ .pending then
      (match n with | 0 => trimWindow seat 0 l | k + 1 => e :: trimWindow seat k l)
    else e :: trimWindow seat n l

/-- A command taken off the list of fetched commands, its submission queue's idle bit settled. -/
def State.dropCmd (s : State) (c : Cmd) : State :=
  (s.hostMap (fun h => { h with cmds := h.cmds.filter (fun x => x.cid != c.cid),
                                grants := h.grants.filter (fun g => g.1 != c.cid) })).settleSbqIdle c.seat c.queue

/-- A completion counted by seat and status (R829, group 0x0009). -/
def State.countStatus (s : State) (seat status : Nat) : State :=
  let hit := fun (p : Nat × Nat × Nat) => p.1 == seat && p.2.1 == status
  let l := s.pwr.seatStatus
  let l' := if l.any hit then updFirst hit (fun p => (p.1, p.2.1, p.2.2 + 1)) l else l ++ [(seat, status, 1)]
  s.pwrMap (fun p => { p with seatStatus := l' })

/-- The energy a search of a weave caused on its members (R637). -/
def State.plaited (s : State) (cid : Nat) : Nat := ((s.sweep.runs.find? (fun r => r.cid == cid)).map (fun r => r.energy)).getD 0

/-- A command of this chip's host completed: its completion record unless its seat was reset (R393), its window entry, its
energy (R432 to R434, R534) and the list of commands. `executed` is false for a refusal, a failure of R406 and FLUSHED, whose
receipt is 0. -/
def State.finishHost (s : State) (c : Cmd) (status measure location count : Nat) (executed : Bool) : State :=
  let posted := !c.quiet && (s.fn c.seat).canPost
  let e := if executed then s.estimate (s.spentBy c (if posted then 32 else 0)) + s.plaited c.cid else 0
  let s := s.when executed (fun s => s.charge c.seat e)
  let s := if c.quiet then s.cpqMap c.seat c.cpq (fun x => { x with reserved := x.reserved - 1 })
    else (s.writeCompletion c status 0 c.tag measure location count (min e 0xFFFFFFFF)).countStatus c.seat status
  let s := s.when (tracked c.opcode) (fun s =>
    (s.closeWindow c status measure location count posted).hostMap (fun h => { h with window := trimWindow c.seat 65536 h.window }))
  s.dropCmd c

/-- The reply record kept for the head rim. -/
def State.kept (s : State) (c : Cmd) : Bytes := ((s.cmd? c.cid).map (fun x => x.table)).getD []

/-- A command completed, by where it came from: this chip's host, a search this chip runs for the weave (which ends with its run), a
REMOTE (R606, whose completion record and reply record go back to the head rim), or a POINT_READ (R627). -/
def State.finish (s : State) (c : Cmd) (status measure location count : Nat) (executed : Bool) : State :=
  match c.origin with
  | 0 => s.finishHost c status measure location count executed
  | 2 =>
    let record := completionBytes status 0 0 c.queue c.tag 0 c.seq measure location count 0 true
    let body := record ++ s.kept c
    let s := s.weaveMap (fun w => { w with applied := ((c.ref, 0x1A, body) :: w.applied).take 65536 })
    (s.send 0x1B s.headAddr c.ref body).dropCmd c
  | 3 => (s.send 0x19 s.headAddr c.ref (if status = stHwFault then [] else s.kept c)).dropCmd c
  | _ => s.dropCmd c

/-- A command that found an executed entry of its sequence completed with OK_DUPLICATE (R446). -/
def State.finishDuplicate (s : State) (c : Cmd) (e : WinEnt) : State :=
  let s := s.inc zcpDuplicatesCount
  let s := if c.quiet then s.cpqMap c.seat c.cpq (fun x => { x with reserved := x.reserved - 1 })
    else (s.writeCompletion c stDuplicate e.status e.tag e.measure e.location e.count 0).countStatus c.seat stDuplicate
  s.dropCmd c

/-- The resends that waited on a command completed or started, by the original's final state (R446). -/
def State.wakeDuplicates (s : State) (c : Cmd) : State :=
  match s.host.window.find? (fun e => e.cid == c.cid) with
  | none => s
  | some e =>
    let waiters := s.host.cmds.filter (fun d => d.stage == .duplicate && d.seat == c.seat && d.seq == c.seq)
    match waiters with
    | [] => s
    | d :: ds =>
      if e.state = .never then
        let again := fun (x : WinEnt) => { x with state := .pending, cid := d.cid }
        let s := s.hostMap (fun h => { h with window := updFirst (fun x => x.cid == c.cid) again h.window })
        s.cmdMap d.cid (fun x => { x with stage := .recheck })
      else s.each (d :: ds) (fun s d => s.finishDuplicate d e)

/-- A command completed, and the resends that waited on it served. -/
def State.complete (s : State) (c : Cmd) (status : Nat) (measure location count : Nat) (executed : Bool) : State :=
  (s.finish c status measure location count executed).wakeDuplicates c

/-- An intake command completed with OK in the current measure, with a reply record at `location` when it is not 0. -/
def State.completeOk (s : State) (c : Cmd) (location count : Nat) : State :=
  s.complete c stOk s.measure location count true

/-- A command completed without being executed (R407). -/
def State.refuse (s : State) (c : Cmd) (status : Nat) : State := s.complete c status s.measure 0 0 false

/-! ## Ownership -/

/-- The owner seat, if the device is owned (R514). -/
def State.owner? (s : State) : Option Nat := if s.rd ownStateState = 1 then some (s.rd ownStateOwner) else none

/-- A seat's bit of OWN_CLAIM_MASK. -/
def State.claimOk (s : State) (seat : Nat) : Bool :=
  if seat < 32 then (s.rd ownClaimMaskLoSeats).testBit seat
  else if seat < 64 then (s.rd ownClaimMaskHiSeats).testBit (seat - 32) else s.rd ownClaimMaskExtSeat64 == 1

/-- The notice `changed` to every enabled function (R532). -/
def State.noticeChanged (s : State) : State :=
  s.each (s.host.fns.filter (fun f => f.enabled)) (fun s f => s.notice f.seat 0)

/-- Ownership ends and becomes vacant, or offered to a seat (R516, R522, R525, R526): the lease reads 0, the former owner is
told unless the event was its own reset. -/
def State.endOwnership (s : State) (offer : Option Nat) (tellLost : Bool) : State :=
  let former := s.owner?
  let s := s.wr ownStateState 0 (if offer.isSome then 2 else 0)
  let s := s.wr ownStateSuccessor 0 (offer.getD 0)
  let s := s.wr ownLeaseLeftMeasures 0 0
  let s := s.wr ownLastChangeMeasure 0 s.measure
  let s := s.noticeChanged
  let s := match former, tellLost with | some t, true => s.notice t 2 | _, _ => s
  match offer with | some t => s.notice t 3 | none => s

/-! ## Graphics memory -/

/-- The active channels (R547). -/
def State.active (s : State) : List Nat := setBits 24 (s.rd gdmActiveChannels)

/-- A channel's state. -/
def State.channel (s : State) (h : Nat) : Channel := s.mem.channels.getD h channelNil

/-- A channel's state changed. -/
def State.channelMap (s : State) (h : Nat) (f : Channel → Channel) : State :=
  s.memMap (fun m => { m with channels := updAt h f m.channels })

/-- The channel of a device granule in the layout in force (R547). -/
def State.channelOf (s : State) (g : Nat) : Nat := (hashGranule s.active g).1

/-- A granule that cannot be read: its channel has faulted, or it reads uncorrectable (R560, R563). -/
def State.granuleLost (s : State) (g : Nat) : Bool :=
  let c := s.channel (s.channelOf g)
  c.faulted || c.bad.contains g

/-! ## Store and staging -/

/-- The shelf of a handle; a handle counts as in use until R147 frees it. -/
def State.shelfOf? (s : State) (handle : Nat) : Option Shelf := s.store.shelves.find? (fun h => h.handle == handle)

/-- The shelf of a local index. -/
def State.shelfAt? (s : State) (i : Nat) : Option Shelf := s.store.shelves.find? (fun h => h.index == i)

/-- The generation of a shelf after its next step (R131). -/
def Shelf.nextGen (h : Shelf) : Nat := (h.gen + 1) % 2 ^ 48

/-- The generation of a shelf from the downbeat of measure `n` on. -/
def Shelf.setGen (n g : Nat) (h : Shelf) : Shelf := if g = h.gen then h else { h with gen := g, genLog := (n, g) :: h.genLog }

/-- The measure that follows has no commit of the shelf yet. -/
def Shelf.uncommit (h : Shelf) : Shelf := { h with committed := false }

/-- The generation in force in measure `n`, which has begun (R131). -/
def Shelf.genIn (h : Shelf) (n : Nat) : Nat := ((h.genLog.find? (fun p => !later p.1 n)).map (fun p => p.2)).getD 0

/-- The generation of the first measure whose view holds a row that committed in measure `m` (R134): the next one for a commit of this measure. -/
def State.rowGen (s : State) (h : Shelf) (m : Nat) : Nat := if m = s.measure then h.nextGen else h.genIn (measureAdd m 1)

/-- A shelf changed. -/
def State.shelfMap (s : State) (i : Nat) (f : Shelf → Shelf) : State :=
  s.storeMap (fun t => { t with shelves := updFirst (fun h => h.index == i) f t.shelves })

/-- Units held by insert entries and by kill entries (R461). -/
def insertUnits (l : List StgEnt) : Nat := l.foldl (fun n e => if e.kill then n else n + e.units) 0
def killUnits (l : List StgEnt) : Nat := l.foldl (fun n e => if e.kill then n + e.units else n) 0

/-- The size of the kill region in units (R461, R464): the latched reserve, or what kill entries hold when that is more. -/
def State.killRegion (s : State) : Nat := max (s.inForce stgCtrlDeleteReserve * 32768) (killUnits s.store.staging)

/-- The units reserved by waiting and granted mutations and by tentative batches (R624): insert and kill. -/
def State.reservedUnits (s : State) : Nat × Nat :=
  let r := s.host.cmds.foldl (fun n c => (n.1 + c.reserved.1, n.2 + c.reserved.2)) (0, 0)
  s.weave.tents.foldl (fun n t => (n.1 + t.units.1, n.2 + t.units.2)) r

/-- A reservation fits the free units of its regions (R461, R463). -/
def State.roomFor (s : State) (ins kill : Nat) : Bool :=
  let r := s.reservedUnits
  (ins == 0 || decide (insertUnits s.store.staging + r.1 + ins ≤ 1572864 - s.killRegion)) &&
  (kill == 0 || decide (killUnits s.store.staging + r.2 + kill ≤ s.inForce stgCtrlDeleteReserve * 32768))

/-- An insert entry lies in the view of the pass of measure `n` (R470): committed before `n`, not superseded before `n`. -/
def StgEnt.inView (e : StgEnt) (n : Nat) : Bool :=
  !e.kill && later n e.commitMeasure && (match e.endMeasure with | none => true | some m => !later n m)

/-- The staged rows of a shelf in the view of measure `n`. -/
def State.stagedView (s : State) (shelf n : Nat) : List StgEnt :=
  s.store.staging.filter (fun e => e.shelf == shelf && e.inView n)

/-- A position is masked by a kill entry for the pass of measure `n` (R469). -/
def State.killedAt (s : State) (shelf slab row n : Nat) : Bool :=
  s.store.staging.any (fun e => e.kill && e.shelf == shelf && e.slab == slab && e.row == row && later n e.commitMeasure)

/-- A position has a kill entry at this instant, as point reads see it (R469). -/
def State.killedNow (s : State) (shelf slab row : Nat) : Bool :=
  s.store.staging.any (fun e => e.kill && e.shelf == shelf && e.slab == slab && e.row == row)

/-- The row at a position. -/
def Shelf.row? (h : Shelf) (slab row : Nat) : Option Row := (h.slabs[slab]?).bind (fun b => b.rows[row]?)

/-- The placed rows of a shelf in the view of measure `n`, as (slab, row). -/
def State.placedView (s : State) (h : Shelf) (n : Nat) : List (Nat × Nat) :=
  (List.range h.slabs.length).flatMap (fun j =>
    ((List.range (h.slabs.getD j ⟨0, 0, 0, 0, 0, []⟩).fill).filter (fun r => !s.killedAt h.index j r n)).map (fun r => (j, r)))

/-- Rows of a shelf's view at measure `n` (R137). -/
def State.viewRows (s : State) (h : Shelf) (n : Nat) : Nat :=
  (s.placedView h n).length + (s.stagedView h.index n).length

/-- Rows of a shelf that are killed and that the compactor has not removed (R106): the positions kill entries name. -/
def State.deadRows (s : State) (h : Shelf) : Nat := (s.store.staging.filter (fun e => e.kill && e.shelf == h.index)).length

/-- A shelf's descriptor (R106): live_rows counts the rows of the current measure's view. -/
def State.descriptor (s : State) (h : Shelf) : Bytes := descriptorBytes h (s.viewRows h s.measure) (s.deadRows h)

/-- The descriptor table held on chip (R106): an entry for each local index, zeros where no shelf has it. Its mirror in graphics memory holds the
same bytes, in the reserve of R152. -/
def State.descriptorTable (s : State) : List Bytes :=
  (List.range 4096).map (fun i => match s.shelfAt? i with | some h => s.descriptor h | none => zeros 256)

/-- The newest staged insert entry of an id that is not superseded. -/
def State.stagedId? (s : State) (shelf id : Nat) : Option StgEnt :=
  s.store.staging.find? (fun e => !e.kill && e.shelf == shelf && e.id == id && !e.superseded)

/-- The buckets a lookup of an id probes (R120). -/
def State.probe (s : State) (handle id : Nat) : List Nat := probeChain s.store.dir (dirBuckets s.store.shelves) handle id

/-- The live directory entry of an id in the buckets its lookup probes, whose position no kill entry masks (R120, R472). -/
def State.placedId? (s : State) (shelf id : Nat) : Option DirEnt :=
  (s.shelfAt? shelf).bind (fun h =>
    let chain := s.probe h.handle id
    s.store.dir.find? (fun e => chain.contains (e.slot / 16) && e.shelf == shelf && e.id == id && e.state == .live && !s.killedNow shelf e.slab e.row))

/-- The directory formed again over the buckets reserved now (log entry 76). -/
def State.rehashDir (s : State) : State := s.storeMap (fun t => { t with dir := rehash t.shelves t.dir })

/-- An id is present in the latest committed state (R465, R466). -/
def State.present (s : State) (shelf id : Nat) : Bool :=
  (s.stagedId? shelf id).isSome || (s.placedId? shelf id).isSome

/-- The granule of a directory bucket: the directory lies at the top of the hashed space, bucket 0 highest, so that it grows downwards as shelves
are created (DESIGN CHOICE, log entry 76: the spec gives the directory no address). -/
def State.dirGranule (s : State) (bucket : Nat) : Nat := hashedPerChannel * s.active.length - 1 - bucket

/-- The requests of some clients ended: a request serves the clients left, and one that serves none is gone. -/
def dropClients (p : Client → Bool) (l : List Req) : List Req :=
  (l.map (fun r => { r with clients := r.clients.filter (fun c => !p c) })).filter (fun r => !r.clients.isEmpty)

/-- The staged entries, kill entries, arrays and directory entries of every dropping shelf released (R147), with the slab
operations still under way on it. -/
def State.releaseDropped (s : State) : State :=
  let gone := (s.store.shelves.filter (fun h => h.dropping && !h.released)).map (fun h => h.index)
  if gone = [] then s
  else
    let slots := (s.store.journal.filter (fun j => gone.contains j.shelf)).map (fun j => j.slot)
    let s := s.storeMap (fun t => { t with
      staging := t.staging.filter (fun e => !gone.contains e.shelf), dir := t.dir.filter (fun e => !gone.contains e.shelf)
      journal := t.journal.filter (fun j => !gone.contains j.shelf)
      shelves := updAll (fun h => gone.contains h.index)
        (fun h => { h with slabs := [], opening := none, released := true, counted := 0, held := [] }) t.shelves })
    s.rehashDir.rrMap (fun r => { r with reqs := dropClients (fun c => slots.any (fun k => c == .slab k)) r.reqs })

/-- A reset ends every drop: a dropping shelf's handle and index are free from the first downbeat after it (R147; log entry 44). -/
def State.endDrops (s : State) : State :=
  let s := s.releaseDropped.storeMap (fun t => { t with shelves := t.shelves.filter (fun h => !h.dropping) })
  s.weaveMap (fun w => { w with shelves := w.shelves.filter (fun x => !x.template.dropping) })

/-- Superseded insert entries freed whose end measure has come (R468). -/
def State.freeSuperseded (s : State) : State :=
  s.storeMap (fun t => { t with staging := t.staging.filter (fun e =>
    !(e.superseded && (match e.endMeasure with | none => false | some m => !later m s.measure))) })

/-- A record written to a buffer a command names (R414): posted under its seat's identity, kept for the reply to the head rim of a command
run for it (R606, R627), and not posted for a seat that was reset (R393). -/
def State.reply (s : State) (c : Cmd) (addr : Nat) (bytes : Bytes) : State :=
  if 2 ≤ c.origin then s.cmdMap c.cid (fun x => { x with table := bytes })
  else if c.quiet then s
  else (s.post c.seat addr bytes).when (s.fn c.seat).canPost (fun s => s.spend c.cid (bytes.length * s.coeff .hostByte (s.linkSpeed c.seat)))

/-- A staging entry by its handle. -/
def State.entry? (s : State) (handle : Nat) : Option StgEnt := s.store.staging.find? (fun e => e.handle == handle)

end Sys2Proof.Machine
end

