-- ==== Sys2Proof/Machine/Operands.lean ====
section
/-!
DEFINITION. Operand forms: the fields of ZCP headers and of every parameter block (R400, R414 to R427), the buffers they name,
and what a data record holds (R420).
-/
namespace Sys2Proof.Machine

/-! ## The header (R400) -/

/-- The header fields of a packet, as read. -/
structure Header where
  version : Nat
  opcode : Nat
  cls : Nat
  flags : Nat
  seat : Nat
  tag : Nat
  seq : Nat
  length : Nat
  shelf : Nat
  deadline : Nat
  reserved : Nat
  crc : Nat
  deriving DecidableEq, Repr

/-- The header of a packet (R400). -/
def headerOf (p : Bytes) : Header :=
  ⟨field p 0 1, field p 1 1, field p 2 1, field p 3 1, field p 4 2, field p 6 2, field p 8 4, field p 12 4, field p 16 4,
   field p 20 4, field p 24 4, field p 28 4⟩

/-- The CRC of a packet, with bytes 28 to 31 taken as 0 (R402). -/
def packetCrc (p : Bytes) : Nat := crc32c (p.take 28 ++ zeros 4 ++ p.drop 32)

/-! ## Buffer descriptors (R414) -/

/-- Address and length of the buffer descriptor at an offset of a parameter block (R414). -/
def bufAddr (p : Bytes) (off : Nat) : Nat := field p off 8
def bufLen (p : Bytes) (off : Nat) : Nat := field p (off + 8) 4
/-- A buffer descriptor is well-formed: aligned to 64 B (R410), its last bytes 0, and the buffer holds `need` bytes. -/
def bufOk (p : Bytes) (off need : Nat) : Bool :=
  bufAddr p off % 64 == 0 && field p (off + 12) 4 == 0 && decide (need ≤ bufLen p off)

/-! ## Searches and statistics (R415 to R418) -/

/-- A SEARCH or SEARCH_FUSED. -/
def isSearch (op : Nat) : Bool := op == 0x10 || op == 0x11
/-- Pass work (R58). -/
def isPass (op : Nat) : Bool := op == 0x10 || op == 0x11 || op == 0x18
/-- A mutation (R413). -/
def isMutation (op : Nat) : Bool := op == 0x20 || op == 0x21 || op == 0x22

/-- A mutation waits for a grant or for room. -/
def Cmd.waiting (c : Cmd) : Bool := c.stage == .waitGrant && isMutation c.opcode

def Cmd.k (c : Cmd) : Nat := if c.opcode = 0x18 then 0 else field c.param 0 2
def Cmd.cand (c : Cmd) : Nat := if c.opcode = 0x18 then 0 else field c.param 2 2
def Cmd.sopt (c : Cmd) : Nat := if c.opcode = 0x18 then field c.param 2 1 else field c.param 4 1
def Cmd.exact (c : Cmd) : Bool := c.opcode != 0x18 && c.sopt.testBit 0
def Cmd.compact (c : Cmd) : Bool := c.opcode != 0x18 && c.sopt.testBit 1
def Cmd.fused (c : Cmd) : Bool := c.opcode == 0x11
def Cmd.resultAddr (c : Cmd) : Nat := bufAddr c.param 8
def Cmd.filter (c : Cmd) : Bytes := slice c.param 64 32
def Cmd.step (c : Cmd) : Bytes := slice c.param 96 16
def Cmd.boostCount (c : Cmd) : Nat := if c.fused then field c.param 100 2 else 0
def Cmd.tensor (c : Cmd) : Bytes := slice c.param 128 (4 * c.boostCount)
def Cmd.statsKind (c : Cmd) : Nat := field c.param 0 1
def Cmd.probes (c : Cmd) : Nat := field c.param 1 1
def Cmd.deferOk (c : Cmd) : Bool := c.flags.testBit 1
def Cmd.settleFlag (c : Cmd) : Bool := c.flags.testBit 0

/-- The operands lie out of line (R415, R418). -/
def outOfLine (op : Nat) (p : Bytes) : Bool :=
  if op = 0x18 then (field p 2 1).testBit 2 else if isSearch op then (field p 4 1).testBit 2 else false

/-- Where inline operands begin in the parameter block (R415, R418). -/
def inlineAt (op : Nat) (p : Bytes) : Nat := if op = 0x18 then 64 else 128 + (if op = 0x11 then 4 * field p 100 2 else 0)

/-- The sweep query of a search (R416): the sketch or the direct row. -/
def Cmd.sweepQuery (c : Cmd) (h : Shelf) : Bytes := if h.sweepKind = 1 ∨ h.sweepKind = 2 then [] else c.operands.take h.w
/-- The full-precision query vector of a search (R416). -/
def Cmd.fullQuery (c : Cmd) (h : Shelf) : Bytes :=
  ((c.operands.drop (if h.sweepKind = 1 ∨ h.sweepKind = 2 then 0 else h.w)).take (vecBytes h.elemFormat h.dim))
/-- The query vector whose values R172 checks and whose norm R176 forms: the full vector, or the direct row. -/
def Cmd.queryVec (c : Cmd) (h : Shelf) : Bytes :=
  if h.sweepKind = 3 then c.operands.take (vecBytes h.elemFormat h.dim) else c.fullQuery h
/-- Probe `j` of a PROJECT (R418). -/
def Cmd.probe (c : Cmd) (h : Shelf) (j : Nat) : Bytes :=
  let n := roundUp (vecBytes h.elemFormat h.dim) 4
  (c.operands.drop (n * j)).take (vecBytes h.elemFormat h.dim)

/-- Bytes of a STATS body (R317). -/
def statsBody (kind bits probes : Nat) : Nat :=
  match kind with | 1 => 32 | 2 => 32 | 3 => 8 + 8 * bits | _ => 8 + 32 * probes

/-- The result record's size when every entry is written (R314 to R317). -/
def Cmd.recordBytes (c : Cmd) (h : Shelf) : Nat :=
  if c.opcode = 0x18 then 64 + statsBody c.statsKind h.bits c.probes
  else 64 + c.k * (if c.exact then 32 else 16)

/-! ## Mutations (R419 to R423) -/

def Cmd.batch (c : Cmd) : Nat := field c.param 0 2
def Cmd.dataCrc (c : Cmd) : Nat := field c.param 4 4
def Cmd.dataAddr (c : Cmd) : Nat := field c.param 8 8
def Cmd.dataLen (c : Cmd) : Nat := field c.param 16 4
def Cmd.noticeAddr (c : Cmd) : Nat := field c.param 24 8
/-- The ids of a DELETE (R422). -/
def Cmd.deleteIds (c : Cmd) : List Nat := (List.range c.batch).map (fun i => field c.param (8 + 8 * i) 6)

/-- A data record (R420): id, attribute word, sweep row, vector. -/
structure DataRec where
  id : Nat
  attr : Nat
  sweep : Bytes
  vec : Bytes
  padOk : Bool
  deriving DecidableEq, Repr

/-- Data record `i` of a batch (R420). -/
def dataRec (h : Shelf) (d : Bytes) (i : Nat) : DataRec :=
  let r := slice d (i * h.dataRec) h.dataRec
  let vb := if h.voiced then vecBytes h.elemFormat h.dim else 0
  ⟨field r 0 6, field r 8 8, slice r 16 h.w, slice r (16 + h.w) vb,
   field r 6 2 == 0 && (r.drop (16 + h.w + vb)).all (fun b => b == 0)⟩

/-- The bytes whose values R170 checks and whose norm R176 stores: the vector, or the direct row. -/
def DataRec.vecOf (r : DataRec) (h : Shelf) : Bytes :=
  if h.sweepKind = 3 then r.sweep.take (vecBytes h.elemFormat h.dim) else r.vec

/-! ## The parameter-block length each opcode must have (R401, R413) -/

/-- The exact parameter-block length of R413, for an opcode, its parameter block and the shelf it names. -/
def paramLen (op : Nat) (p : Bytes) (h : Option Shelf) : Option Nat :=
  let x := match h with
    | some h => if outOfLine op p then 0 else if op = 0x18
        then field p 1 1 * roundUp (vecBytes h.elemFormat h.dim) 4 * (if field p 0 1 = 4 then 1 else 0)
        else h.operandBytes
    | none => 0
  match op with
  | 0x01 | 0x05 | 0x29 => some 0
  | 0x02 | 0x04 | 0x41 => some 16
  | 0x06 | 0x23 | 0x2A | 0x50 | 0x60 | 0x61 => some 8
  | 0x10 => some (128 + x)
  | 0x11 => some (128 + 4 * field p 100 2 + x)
  | 0x12 | 0x48 | 0x40 => some 24
  | 0x18 => some (64 + x)
  | 0x20 | 0x22 | 0x38 => some 32
  | 0x21 => some (8 + 8 * field p 0 2)
  | 0x28 | 0x58 => some 64
  | 0x30 => some (24 + 4 * field p 0 2)
  | 0x31 => some (8 + 16 * field p 0 2)
  | _ => none

/-- The opcodes of R413. -/
def knownOp (op : Nat) : Bool :=
  [0x01, 0x02, 0x04, 0x05, 0x06, 0x10, 0x11, 0x12, 0x18, 0x20, 0x21, 0x22, 0x23, 0x28, 0x29, 0x2A, 0x30, 0x31, 0x38, 0x40, 0x41,
   0x48, 0x50, 0x58, 0x60, 0x61].contains op

/-- The opcodes only the owner may issue (R413). -/
def ownerOnly (op : Nat) : Bool :=
  [0x05, 0x06, 0x20, 0x21, 0x22, 0x23, 0x28, 0x29, 0x2A, 0x31, 0x38, 0x40, 0x58, 0x60, 0x61].contains op

/-- The opcodes that name a shelf in the header (R400, R413): SETTLE of scope 0 too. -/
def namesShelf (op : Nat) (p : Bytes) : Bool :=
  [0x10, 0x11, 0x12, 0x18, 0x20, 0x21, 0x22, 0x28, 0x29, 0x2A].contains op || (op == 0x23 && field p 0 1 == 0)

/-- Flags valid on an opcode (R403). -/
def flagsOk (op flags : Nat) : Bool :=
  decide (flags < 16) && (!flags.testBit 0 || isMutation op) && (!flags.testBit 1 || isPass op) &&
  (flags.testBit 2 == (op == 0x11))

end Sys2Proof.Machine
end

