-- ==== Sys2Proof/Machine/Cost.lean ====
section
/-!
DEFINITION. The cost of a plan: the phases of a measure (R52, R53, R81, R891), the costs of R63 to R65, the admission factor
(R69), the placement of query groups (R192 to R198, R207 to R211), the voice limits (R282), the coda and posting limits (R293,
R302, R319), and the worst-case time of a slab operation (R482).
-/
namespace Sys2Proof.Machine

/-! ## Phases -/

/-- Nanoseconds in units of 1/768 ns. -/
def ns (n : Nat) : Nat := 768 * n

/-- The measure length in units, from the period in force (R39). -/
def State.period (s : State) : Nat := 25 * s.inForce measPeriodTicks

/-- The exact length of this measure up to its predicted next downbeat, in units (R39, R53, R891). -/
def State.length (s : State) : Nat := s.clk.predicted - s.clk.lastDb

/-- The tail in ns (R52, R891): the ceiling of the exact share plus 2,000 ns, at least 62,000 ns. -/
def State.tailNs (s : State) : Nat := max (cdiv (s.inForce measTailBgPermille * s.length) (768 * 1000) + 2000) 62000

/-- A time after the downbeat placed on the last CLK_BEAT tick at or before it; ticks are counted from the downbeat (R755, R891). -/
def onTick (u : Nat) : Nat := u / 6400 * 6400

/-- The end of the admission window (R52). -/
def State.windowEnd (s : State) : Nat := s.clk.lastDb + onTick (ns 20000)
/-- The foreground end (R53): the predicted next downbeat minus the tail. -/
def State.fgEnd (s : State) : Nat := s.clk.lastDb + onTick (s.length - ns s.tailNs)
/-- The end of the posting reserve (R54). -/
def State.reserveEnd (s : State) : Nat := s.clk.lastDb + onTick (s.length - ns s.tailNs + ns 60000)
/-- The foreground budget in ns, exact (R891, section 2.2). -/
def State.budget (s : State) : Rat := ((s.length - ns 23000 - ns s.tailNs : Nat) : Rat) / 768
/-- The re-rank protection point (R81): the foreground end minus 3,000 ns minus the plan's re-rank time. -/
def State.protectAt (s : State) : Nat :=
  let r := s.sweep.plan.tRerank * 768
  s.clk.lastDb + onTick (s.length - ns s.tailNs - ns 3000 - (cdiv r.num.toNat r.den))
/-- The right-hand side of the first condition of R66. -/
def State.cap (s : State) : Rat :=
  s.budget * (1 - (s.inForce measTailMarginPermille : Rat) / 1000) * ((s.clk.kappa : Rat) / 256)

/-! ## Rates -/

/-- The pin rate in force, in Gb/s (R541). -/
def State.pinRate (s : State) : Nat := match s.rd gdmStatusRateNow with | 1 => 32 | 2 => 24 | _ => 28
/-- BW of R63 in B/ns: active channels × 32 pins × rate / 8 × 0.92. -/
def State.bw (s : State) : Rat := (s.active.length : Rat) * s.pinRate * 92 / 25
/-- The engines SWP_ACTIVE holds. -/
def State.engines (s : State) : List Nat := setBits 32 (s.rd swpActiveLoEngines) ++ (setBits 32 (s.rd swpActiveHiEngines)).map (· + 32)
/-- SWP_ACTIVE as held by the engines: not mapped out, not gated, not in reset (R215). -/
def State.usable (s : State) : List Nat :=
  let out := s.inForce swpMapoutLoEngines + 2 ^ 32 * s.inForce swpMapoutHiEngines
  (List.range 64).filter (fun e =>
    !out.testBit e && (match s.sweep.engines[e]? with | some g => !g.thermal && !g.inErst | none => false))

/-- a / b as a rational number, and 0 for b = 0. -/
def ratio (a b : Rat) : Rat := if b = 0 then 0 else a / b

/-! ## Work items -/

/-- A pass command with its shelf, the filled rows N of the shelf's placed view and the bytes of its staged entries (R63). -/
structure Item where
  cmd : Cmd
  shelf : Shelf
  rows : Nat
  staged : Nat
  deriving DecidableEq, Repr

/-- What a chip brings to the costs of R63 to R66: BW, the engines it holds, the right-hand side of R66, the point-read reserve,
and the far-read figures. -/
structure Costing where
  bw : Rat
  engines : Nat
  cap : Rat
  point : Rat
  farBw : Nat
  farLat : Nat
  deriving DecidableEq, Repr

/-- The command is a search. -/
def Item.search (i : Item) : Bool := isSearch i.cmd.opcode
/-- The command is a projection (R207). -/
def Item.project (i : Item) : Bool := i.cmd.opcode == 0x18 && i.cmd.statsKind == 4
/-- The command targets its shelf for R63 (R312): every one but COUNT. -/
def Item.targets (i : Item) : Bool := !(i.cmd.opcode == 0x18 && i.cmd.statsKind == 1)
/-- The search has a voice (R254). -/
def Item.voiced (i : Item) : Bool := i.search && i.shelf.voiced

/-- The items of a list, one for each shelf, in order of first appearance. -/
def itemHeads (l : List Item) : List Item :=
  l.foldl (fun acc h => if acc.any (fun g => g.shelf.index == h.shelf.index) then acc else acc ++ [h]) []

/-- The items' shelves, each once, in order of first appearance. -/
def itemShelves (l : List Item) : List Shelf := (itemHeads l).map (fun i => i.shelf)

/-- The items of one shelf. -/
def itemsOf (l : List Item) (h : Shelf) : List Item := l.filter (fun i => i.shelf.index == h.index)

/-- Sweep bytes of one array per R63: whole granules per slab. -/
def sweepBytesOf (n w : Nat) : Nat := cdiv n 64 * cdiv (64 * w) 256 * 256

/-- Memory bytes the items of one shelf cost in the sweep (R63, R312). -/
def shelfBytes (l : List Item) (h : Shelf) (n : Nat) : Nat :=
  let q := (l.filter Item.search).length
  let has := fun (k : Nat) => l.any (fun i => i.cmd.opcode == 0x18 && i.cmd.statsKind == k)
  (if 0 < q then sweepBytesOf n h.w + q * h.tableBytes else 0) +
  (if has 2 then sweepBytesOf n 32 else 0) +
  (if has 3 && q == 0 then sweepBytesOf n h.w else 0) +
  (l.filter Item.project).length * sweepBytesOf n h.recSize

/-- Query groups of a shelf (R192). -/
def shelfGroups (l : List Item) : Nat := cdiv (l.filter Item.search).length 64

/-- Engine cycles the items of one shelf cost (R63, R210): the L of R196. -/
def shelfCycles (l : List Item) (h : Shelf) (n : Nat) : Nat :=
  cdiv n 64 * (shelfGroups l * h.steps + (l.filter Item.project).length * projectSteps h.elemFormat h.dim)

/-- Bytes of staged insert entries of a shelf (S of R63, R470). -/
def State.stagedBytes (s : State) (h : Shelf) : Nat :=
  32 * insertUnits (s.store.staging.filter (fun e => e.shelf == h.index))

/-- A command on its shelf, as the plan costs it. -/
def State.item (s : State) (c : Cmd) (h : Shelf) : Item := ⟨c, h, h.placed, s.stagedBytes h⟩

/-- What this chip brings to the costs of R63 to R66; a hot memory plans with 0.75 × BW (R770). -/
def State.costing (s : State) : Costing :=
  let bw := if s.clk.hotMem then s.bw * 3 / 4 else s.bw
  ⟨bw, s.engines.length, s.cap, ratio ((s.inForce measPointBudgetGranules * 256 : Nat) : Rat) bw, s.inForce measFarBwGbps,
   s.inForce voiFarLatNs⟩

/-- The sweep time of R63 in ns. -/
def sweepCost (k : Costing) (l : List Item) : Rat :=
  let hs := itemHeads (l.filter Item.targets)
  let bytes := sumN (hs.map (fun i => shelfBytes (itemsOf l i.shelf) i.shelf i.rows))
  let cyc := sumN (hs.map (fun i => shelfCycles (itemsOf l i.shelf) i.shelf i.rows))
  let staged := sumN (hs.map (fun i => i.staged))
  (staged : Rat) * 5 / 3072 + max (ratio bytes k.bw) (ratio cyc ((k.engines : Rat) * 6 / 5))

/-- The re-rank time of R64 in ns. -/
def rerankCost (k : Costing) (l : List Item) : Rat :=
  let vs := l.filter Item.voiced
  let bytes := fun (p : Nat) => sumN ((vs.filter (fun i => i.shelf.fullPlace == p)).map
    (fun i => i.cmd.cand * i.shelf.recSize))
  let elems := (vs.map (fun i => ((i.cmd.cand * i.shelf.dim : Nat) : Rat) / (rerankRate i.shelf.elemFormat : Rat))).foldl (· + ·) 0
  max (max (ratio ((bytes 1 : Nat) : Rat) k.bw) (ratio ((bytes 2 : Nat) : Rat) k.farBw)) (elems * 5 / 96)

/-- The planned time of one voice (R282, item 4). -/
def voiceTime (k : Costing) (i : Item) : Rat :=
  let c := i.cmd.cand
  let lat := if i.shelf.fullPlace = 2 then k.farLat else 800
  max ((cdiv c 32 * 800 + cdiv (c * i.shelf.recSize) 8192 * lat : Nat) : Rat)
    (((c * i.shelf.dim : Nat) : Rat) * 5 / (6 * rerankRate i.shelf.elemFormat))

/-- The first condition of R66: sweep, re-rank and point-read reserve (R65) fit the budget. -/
def fits (k : Costing) (l : List Item) : Bool := decide (sweepCost k l + rerankCost k l + k.point ≤ k.cap)

/-- The voice limits of R282. -/
def voicesOk (k : Costing) (l : List Item) : Bool :=
  let vs := l.filter Item.voiced
  let room := k.cap - sweepCost k l - k.point
  decide (vs.length ≤ 16384) &&
  decide ((vs.map (fun i => i.cmd.cand)).foldl (· + ·) 0 ≤ 1048576) &&
  decide ((vs.map (fun i => i.shelf.recSize)).foldl (· + ·) 0 ≤ 33554432) &&
  vs.all (fun i => decide (voiceTime k i ≤ room))

/-! ## Placement -/

/-- Groups split into runs of at most `m`. -/
def chunks (m : Nat) : Nat → List Nat → List (List Nat)
  | 0, _ => []
  | k + 1, l => if l = [] ∨ m = 0 then [] else l.take m :: chunks m k (l.drop m)

/-- Free group slots and product-code use of each active engine while a placement is built. -/
structure Room where
  engine : Nat
  free : Nat
  code : Bool
  deriving DecidableEq, Repr

/-- One copy of a shelf's groups placed on the engines with most room (R193 to R196); none where no team fits. -/
def placeCopy (h : Shelf) (groups : Nat) (rooms : List Room) : Option (Copy × List Room) :=
  let code := h.sweepKind == 1 || h.sweepKind == 2
  let u := h.groupSlots
  let per := if code then 1 else 16 / u
  let parts := chunks per (groups + 1) (List.range groups)
  let team := if code then groups else cdiv (groups * u) 16
  let best := sortBy (fun (a b : Room) => decide (b.free < a.free)) (rooms.filter (fun r => !(code && r.code)))
  let pairs := best.zip parts
  if parts.length ≤ team ∧ pairs.length = parts.length ∧ pairs.all (fun p => decide (p.2.length * u ≤ p.1.free)) then
    some (⟨h.index, 0, pairs.map (fun p => (p.1.engine, p.2))⟩,
      rooms.map (fun r => match pairs.find? (fun p => p.1.engine == r.engine) with
        | some p => { r with free := r.free - p.2.length * u, code := r.code || code }
        | none => r))
  else none

/-- `n` copies of a shelf placed one after another. -/
def placeCopies (h : Shelf) (groups : Nat) : Nat → List Copy × List Room → Option (List Copy × List Room)
  | 0, acc => some acc
  | n + 1, acc => (placeCopy h groups acc.2).bind (fun p => placeCopies h groups n (acc.1 ++ [p.1], p.2))

/-- The positions of a projection's chain (R208); 1 in pass mode (R207). -/
def chainLength (dim : Nat) : Nat := max 1 (cdiv dim 2048)

/-- Group slots a projection's probes occupy of each engine of its team: 64 operands of one slice (R193; DESIGN CHOICE, log entry 80). -/
def Shelf.probeSlots (h : Shelf) : Nat := cdiv (vecBytes h.elemFormat (min h.dim 2048)) 512

/-- The engines of a projection's team: `n` engines of one cluster with `u` group slots free, in ascending index order (R208). Of the clusters that
have them the one with most room takes the chain, the lowest-numbered of equals, and in it the engines with most room (DESIGN CHOICE, log entry
80). -/
def chainTeam (n u : Nat) (rooms : List Room) : Option (List Nat) :=
  let of := fun (c : Nat) => sortBy (fun (a b : Room) => decide (b.free < a.free)) (rooms.filter (fun r => r.engine / 8 == c && decide (u ≤ r.free)))
  let room := fun (c : Nat) => sumN ((of c).map (fun r => r.free))
  let fit := (List.range 8).filter (fun c => decide (n ≤ (of c).length))
  (fit.foldl (fun (b : Option Nat) c => match b with
    | none => some c
    | some x => if room x < room c then some c else some x) none).map (fun c =>
      sortBy (fun (a b : Nat) => decide (a < b)) (((of c).take n).map (fun r => r.engine)))

/-- One chain of a projection placed (R208, R210). -/
def placeChain (i : Item) (acc : List Copy × List Room) : Option (List Copy × List Room) :=
  let u := i.shelf.probeSlots
  (chainTeam (chainLength i.shelf.dim) u acc.2).map (fun t =>
    (acc.1 ++ [⟨i.shelf.index, i.cmd.cid, t.map (fun e => (e, [0]))⟩],
     acc.2.map (fun r => if t.contains r.engine then { r with free := r.free - u } else r)))

/-- `n` copies of a projection placed one after another (R196). -/
def placeChains (i : Item) : Nat → List Copy × List Room → Option (List Copy × List Room)
  | 0, acc => some acc
  | n + 1, acc => (placeChain i acc).bind (placeChains i n)

/-- The minimum copies of a shelf (R196). -/
def minCopies (engines load total team : Nat) : Nat := if total = 0 then 1 else max 1 (cdiv (engines * load) (total * team))

/-- Engine cycles of one projection on its shelf (R210). -/
def projectCycles (i : Item) : Nat := cdiv i.rows 64 * projectSteps i.shelf.elemFormat i.shelf.dim

/-- Engine cycles of the searches of a shelf: L of R196. -/
def searchCycles (l : List Item) (h : Shelf) (n : Nat) : Nat := cdiv n 64 * (shelfGroups (itemsOf l h) * h.steps)

/-- L of R196 over a plan. -/
def planLoad (l : List Item) : Nat :=
  sumN ((itemHeads (l.filter Item.search)).map (fun i => searchCycles l i.shelf i.rows)) + sumN ((l.filter Item.project).map projectCycles)

/-- The load bound of R197. -/
def loadBound (engines : Nat) (l : List Item) : Nat :=
  cdiv (planLoad l) engines +
    ((itemHeads (l.filter Item.search)).map (fun i => shelfGroups (itemsOf l i.shelf) * i.shelf.steps) ++
      (l.filter Item.project).map (fun i => projectSteps i.shelf.elemFormat i.shelf.dim)).foldl max 0

/-- A placement on a list of engines that meets R194, R196 and R198, projections first, then product-code shelves; none where none is built. -/
def placementOn (engines : List Nat) (l : List Item) : Option (List Copy) :=
  let hs := itemShelves (l.filter Item.search)
  let total := planLoad l
  let copies := fun (load team : Nat) => minCopies engines.length load total team
  let coded := hs.filter (fun h => h.sweepKind == 1 || h.sweepKind == 2)
  let plain := hs.filter (fun h => !(h.sweepKind == 1 || h.sweepKind == 2))
  let start : Option (List Copy × List Room) := some ([], engines.map (fun e => ⟨e, 16, false⟩))
  let projected := (l.filter Item.project).foldl (fun acc i => acc.bind (fun a =>
    placeChains i (copies (projectCycles i) (chainLength i.shelf.dim)) a)) start
  let placed := (itemHeads (l.filter Item.search)).foldl (fun rows i => rows ++ [(i.shelf.index, i.rows)]) ([] : List (Nat × Nat))
  let rowsOf := fun (h : Shelf) => ((placed.find? (fun p => p.1 == h.index)).map (fun p => p.2)).getD 0
  let all := (coded ++ plain).foldl (fun acc h => acc.bind (fun a =>
    let g := shelfGroups (itemsOf l h)
    let t := if h.sweepKind = 1 ∨ h.sweepKind = 2 then g else cdiv (g * h.groupSlots) 16
    placeCopies h g (copies (searchCycles l h (rowsOf h)) t) a)) projected
  all.map (fun a => a.1)

/-- The placement on this chip's active engines. -/
def State.placement (s : State) (l : List Item) : Option (List Copy) := placementOn s.engines l

/-- A projection of the plan has no chain: no cluster has as many active engines as its slices (R211). -/
def State.chainRefused (s : State) (l : List Item) : Bool :=
  (l.filter Item.project).any (fun i => (List.range 8).all (fun c =>
    decide ((s.engines.filter (fun e => e / 8 == c)).length < chainLength i.shelf.dim)))

/-- The query group of a search among its shelf's searches (R192). -/
def groupIn (l : List Item) (i : Item) : Nat :=
  ((itemsOf (l.filter Item.search) i.shelf).findIdx (fun j => j.cmd.cid == i.cmd.cid)) / 64

/-- Clusters in which a search has a column (R290). -/
def clustersOf (copies : List Copy) (shelf group : Nat) : List Nat :=
  ((copies.filter (fun c => c.shelf == shelf && c.proj == 0)).flatMap (fun c =>
    (c.team.filter (fun t => t.2.contains group)).map (fun t => t.1 / 8))).eraseDups

/-- The list-memory limit of R293. -/
def listsOk (l : List Item) (copies : List Copy) : Bool :=
  (List.range 8).all (fun c =>
    decide ((((l.filter Item.search).filter (fun i => (clustersOf copies i.shelf.index (groupIn l i)).contains c)).map
      (fun i => i.cmd.cand)).foldl (· + ·) 0 ≤ 262144))

/-- The result-memory limit of R302. -/
def resultsOk (l : List Item) : Bool :=
  decide (((l.filter Item.search).map (fun i => if i.voiced then i.cmd.k else i.cmd.cand)).foldl (· + ·) 0 ≤ 1048576)

/-- The posting limit of a port (R319): lanes × rate × 30,000 / 8 bytes. -/
def State.postLimit (s : State) (k : Nat) : Nat :=
  match s.host.ports[k]? with
  | none => 0
  | some p =>
    let gt2 := match p.speed with | 1 => 5 | 2 => 10 | 3 => 16 | 4 => 32 | 5 => 64 | 6 => 128 | _ => 0
    if p.up then p.width * gt2 * 30000 / 16 else 0

/-- The posting limits of R319 hold for the items. -/
def State.postingOk (s : State) (l : List Item) : Bool :=
  [0, 1].all (fun k => decide (((l.filter (fun i => s.portOf i.cmd.seat == k && i.cmd.origin == 0)).map
    (fun i => i.cmd.recordBytes i.shelf + 32)).foldl (· + ·) 0 ≤ s.postLimit k))

/-- The plan of a list of items with a chip's costing and `key` ns beside its re-rank (R622), if it meets R66, R282, R293 and R302. -/
def State.planWith (s : State) (k : Costing) (key : Rat) (l : List Item) : Option Plan :=
  if fits k l && voicesOk k l && resultsOk l then
    (s.placement l).bind (fun cs =>
      if listsOk l cs then some ⟨l.map (fun i => i.cmd.cid), cs, sweepCost k l, rerankCost k l + key, k.point, planLoad l, loadBound k.engines l⟩ else none)
  else none

/-- The plan of a list of items on this chip, if it meets R66, R282, R293, R302 and R319. -/
def State.planOf (s : State) (l : List Item) : Option Plan := if s.postingOk l then s.planWith s.costing 0 l else none

/-! ## Slab operations -/

/-- Bytes G and H of a slab operation of `n` rows (R479). -/
def opBytes (op : SlabOp) (h : Shelf) (n : Nat) : Nat × Nat :=
  match op with
  | .place => (n * (h.w + 32 + h.deepSize + 512) + 768, n * h.farSize)
  | .mark => (512 * n + 768, 0)
  | .move => (n * (2 * (h.w + 32 + h.deepSize) + 512) + 1024, 2 * n * h.farSize)
  | .trim => (768, 0)

/-- The worst-case time of a slab operation in ns (R482). -/
def State.opTime (s : State) (op : SlabOp) (h : Shelf) (n : Nat) : Rat :=
  let b := opBytes op h n
  1000 + ratio ((cdiv b.1 256 * 256 : Nat) : Rat) (s.bw / 2) + ratio b.2 (s.inForce measFarBwGbps) +
  (if op = .move ∧ h.fullPlace = 2 then (s.inForce voiFarLatNs : Rat) else 0)

/-- An operation of that time started now ends at least 2,000 ns before the predicted next downbeat (R482). -/
def State.opFits (s : State) (t : Rat) : Bool :=
  decide (((s.clk.now : Nat) : Rat) / 768 + t + 2000 ≤ ((s.clk.predicted : Nat) : Rat) / 768)

/-! ## The admission factor -/

/-- κ after a measure without an OK_PARTIAL for lack of time (R69), rounded up to 1/256. -/
def kappaUp (k : Nat) : Nat := min 256 (k + cdiv (256 - k) 8)

/-- κ after a measure cut for lack of time (R69), rounded down: `p` is the planned sweep and re-rank time in ns, and the time the measure would
have needed is the time `used` its pass had, in units, extrapolated from the fraction num / den of its work completed; with none completed
it has no bound. -/
def kappaDown (k : Nat) (p : Rat) (used num den : Nat) : Nat :=
  let share : Rat := if used * den = 0 then 1 else p * 768 * ((num : Rat) / ((used : Rat) * (den : Rat)))
  max 128 (((k : Rat) * min 1 share).floor.toNat)

end Sys2Proof.Machine
end

