-- ==== Sys2Proof/Machine/Stream.lean ====
section
/-!
DEFINITION. Streams (chapter 08) and the reorder queues of graphics memory (chapter 13): figures, granule requests, their merging, and the
order in which requests reach a channel's queue and leave it.
-/
namespace Sys2Proof.Machine

/-! ## Figures (R329 to R335) -/

/-- The instructions of a figure (R329). -/
inductive Fig where
  | stop
  | base (b : Nat)
  | loop (level count : Nat) (stride : Int)
  | run (length : Nat) (offset : Int)
  | pred (a b mode va vb : Nat)
  | gather (level count : Nat)
  | bad
  deriving DecidableEq, Repr

/-- One instruction decoded; a reserved opcode or a nonzero reserved bit decodes to `bad` (R329, R335). -/
def figDecode (w : DWord) : Fig :=
  let v := w.toNat
  let f := fun (lo n : Nat) => v / 2 ^ lo % 2 ^ n
  match f 60 4 with
  | 0 => if f 0 60 = 0 then .stop else .bad
  | 1 => if f 40 20 = 0 then .base (f 0 40) else .bad
  | 2 => .loop (f 58 2) (f 32 26 + 1) (signed 32 (f 0 32))
  | 3 => if f 32 17 = 0 then .run (f 49 11 + 1) (signed 32 (f 0 32)) else .bad
  | 4 => if f 0 3 = 0 then .pred (f 58 2) (f 56 2) (f 55 1) (f 29 26) (f 3 26) else .bad
  | 5 => if f 0 52 = 0 then .gather (f 58 2) (f 52 6 + 1) else .bad
  | _ => .bad

/-- A level of a figure: its count, and its address terms. -/
structure FigLevel where
  count : Nat
  stride : Int
  gather : Bool
  deriving DecidableEq, Repr

/-- A RUN with the PRED that guards it. -/
structure FigRun where
  length : Nat
  offset : Int
  pred : Option (Nat × Nat × Nat × Nat × Nat)
  deriving DecidableEq, Repr

/-- A figure in the order of R331. -/
structure Figure where
  base : Nat
  levels : List FigLevel
  runs : List FigRun
  deriving DecidableEq, Repr

/-- The LOOP and GATHER instructions at the head of a program, levels in order. -/
def figLevels : Nat → List Fig → List FigLevel × List Fig
  | n, .loop l c s :: r => if l = n then let p := figLevels (n + 1) r; (⟨c, s, false⟩ :: p.1, p.2) else ([], .loop l c s :: r)
  | n, .gather l c :: r => if l = n then let p := figLevels (n + 1) r; (⟨c, 0, true⟩ :: p.1, p.2) else ([], .gather l c :: r)
  | _, r => ([], r)

/-- The RUN instructions, each with its PRED, down to END. -/
def figRuns : List Fig → Option (List FigRun)
  | [.stop] => some []
  | .run l o :: r => (figRuns r).map (fun t => ⟨l, o, none⟩ :: t)
  | .pred a b m x y :: .run l o :: r => (figRuns r).map (fun t => ⟨l, o, some (a, b, m, x, y)⟩ :: t)
  | _ => none

/-- A figure parsed and checked against R331 and R333, with a gather list of `gn` entries (R335). -/
def figParse (ws : List DWord) (gn : Nat) : Option Figure :=
  match ws.map figDecode with
  | .base b :: r =>
    let p := figLevels 0 r
    (figRuns p.2).bind (fun runs =>
      let n := p.1.length
      let predOk := fun (x : FigRun) => match x.pred with
        | none => true
        | some (a, b, m, _, _) => decide (b < n) && (m == 1 || decide (a < n))
      if 2 ≤ ws.length ∧ ws.length ≤ 16 ∧ 1 ≤ n ∧ n ≤ 4 ∧ 1 ≤ runs.length ∧ runs.length ≤ 4 ∧ runs.all predOk ∧
          p.1.all (fun l => !l.gather || decide (l.count ≤ gn)) then some ⟨b, p.1, runs⟩ else none)
  | _ => none

/-- A PRED suppresses its RUN at these counters (R333). -/
def predHit (p : Nat × Nat × Nat × Nat × Nat) (ix : List Nat) : Bool :=
  let (a, b, m, va, vb) := p
  decide (vb ≤ ix.getD b 0) && (m == 1 || ix.getD a 0 == va)

/-- All combinations of counters, the last level fastest (R332). -/
def figIndex : List FigLevel → List (List Nat)
  | [] => [[]]
  | l :: ls => (List.range l.count).flatMap (fun i => (figIndex ls).map (fun r => i :: r))

/-- The granules a figure emits, in order (R332). -/
def figGranules (f : Figure) (gather : List Int) : List Int :=
  (figIndex f.levels).flatMap (fun ix =>
    let at_ : Int := (List.zip f.levels ix).foldl (fun (acc : Int) p =>
      acc + (if p.1.gather then gather.getD p.2 0 else (p.2 : Int) * p.1.stride)) (f.base : Int)
    f.runs.flatMap (fun r =>
      if (match r.pred with | some p => predHit p ix | none => false) then []
      else (List.range r.length).map (fun (i : Nat) => at_ + r.offset + (i : Int))))

/-! ## Reorder queues (R323, R550 to R552, R557) -/

/-- The priority of a stream queue in force (R321, R322). -/
def State.priority (s : State) (q : Nat) : Nat := if q = 27 then 7 else if q = 28 ∨ q = 29 then 0 else s.inForce strmQctrlPriority q

/-- The request goes to a channel's reorder queue: neither the host link nor the staging buffer serves it. -/
def Req.onChannel (r : Req) : Bool := !r.far && !r.staging

/-- The entries of channel `h`'s reorder queue (R550). -/
def State.reorder (s : State) (h : Nat) : List Req :=
  s.rr.reqs.filter (fun r => r.onChannel && r.arr.isSome && !r.returned && s.channelOf r.granule == h)

/-- The requests for channel `h` that wait in their stream queues. -/
def State.waitingOn (s : State) (h : Nat) : List Req :=
  s.rr.reqs.filter (fun r => r.onChannel && r.arr.isNone && s.channelOf r.granule == h)

/-- The queue whose turn it is after queue `turn`, in round robin. -/
def nextTurn (turn : Nat) (qs : List Nat) : Option Nat :=
  ((List.range 32).map (fun i => (turn + 1 + i) % 32)).find? (fun q => qs.contains q)

/-- The request that the next free slot of channel `h`'s reorder queue goes to: of the highest-priority queue that has one, equal queues in round
robin, each queue in its own order (R323, R552). -/
def State.nextGrant (s : State) (h : Nat) : Option Req :=
  let wait := s.waitingOn h
  let top := wait.foldl (fun m r => max m (s.priority r.sq)) 0
  (nextTurn (s.channel h).turn ((wait.filter (fun r => s.priority r.sq == top)).map (fun r => r.sq))).bind (fun q =>
    wait.find? (fun r => r.sq == q))

/-- A request changed. -/
def State.reqMap (s : State) (rid : Nat) (f : Req → Req) : State :=
  s.rrMap (fun r => { r with reqs := updFirst (fun x => x.rid == rid) f r.reqs })

/-- A retraining step of channel `h` runs: the channel takes no request (R567). -/
def State.inStep (s : State) (h : Nat) : Bool := decide (s.clk.now < (s.channel h).stepEnd)

/-- A free slot of channel `h`'s reorder queue granted (R323, R550). -/
def State.grantOne (s : State) (h : Nat) : State :=
  match s.nextGrant h with
  | none => s
  | some r =>
    if 32 ≤ (s.reorder h).length ∨ s.inStep h then s
    else
      let s := s.reqMap r.rid (fun x => { x with arr := some s.rr.nextArr })
      (s.rrMap (fun x => { x with nextArr := x.nextArr + 1 })).channelMap h (fun c => { c with turn := r.sq })

/-- The free slots of channel `h`'s reorder queue granted, as far as requests wait; at most `fuel` of them. -/
def State.fillQueue (h : Nat) : Nat → State → State
  | 0, s => s
  | k + 1, s =>
    match s.nextGrant h with
    | none => s
    | some _ => if 32 ≤ (s.reorder h).length ∨ s.inStep h then s else State.fillQueue h k (s.grantOne h)

/-- The check burst of a granule (R543, R544, R550): four data slots share one. -/
def State.burstOf (s : State) (g : Nat) : Nat :=
  let p := granuleSlot (hashGranule s.active g).2
  (p.2.1 * 16 + p.1) * 8 + p.2.2 / 4

/-- The entries of a reorder queue that arrived ahead of an entry. -/
def aheadOf (q : List Req) (r : Req) : List Req := q.filter (fun x => decide (x.arr.getD 0 < r.arr.getD 0))

/-- An entry may issue (R551, R557): no entry for its granule is ahead of it, no entry ahead of it has been passed 31 times, and a write has no
write of its check burst ahead of it. -/
def State.mayIssue (s : State) (h : Nat) (r : Req) : Bool :=
  (aheadOf (s.reorder h) r).all (fun x => x.granule != r.granule && decide (x.passed < 31) &&
    !(x.write && r.write && s.burstOf x.granule == s.burstOf r.granule))

/-- An entry issues: the entries it passes are counted, and the check burst is read with it, unless the entry that issued last used the same one
(R550); a write updates its check burst (R557). -/
def State.issueEntry (s : State) (h : Nat) (r : Req) : State :=
  let passed := (aheadOf (s.reorder h) r).map (fun x => x.rid)
  let b := s.burstOf r.granule
  let s := s.rrMap (fun x => { x with reqs := updAll (fun y => passed.contains y.rid) (fun y => { y with passed := y.passed + 1 }) x.reqs })
  s.channelMap h (fun c => { c with burst := some b, bursts := if r.write || c.burst != some b then c.bursts + 1 else c.bursts })

/-- A request taken out of its queue. -/
def State.dropReq (s : State) (rid : Nat) : State := s.rrMap (fun x => { x with reqs := x.reqs.filter (fun y => y.rid != rid) })

/-- The first write of channel `h`'s reorder queue that may issue leaves it, and the slot it frees is granted (log entry 81). -/
def State.writeOut (s : State) (h : Nat) : State :=
  match (s.reorder h).find? (fun r => r.write && s.mayIssue h r) with
  | none => s
  | some r => ((s.issueEntry h r).dropReq r.rid) |> State.fillQueue h 32

/-- Every write that may issue leaves channel `h`'s reorder queue. -/
def State.writesOut (s : State) (h : Nat) : State := s.each (List.range 32) (fun s _ => s.writeOut h)

/-- A corrected granule written back as the next entry of channel `h`'s reorder queue (R561): it comes from no stream queue. -/
def State.writeBack (s : State) (h g : Nat) : State :=
  (s.rrMap (fun r => { r with
    reqs := r.reqs ++ [⟨r.nextRid, 32, g, false, false, [], true, some r.nextArr, 0, s.clk.now, 0, false, false⟩]
    nextRid := r.nextRid + 1, nextArr := r.nextArr + 1 })).writesOut h

/-- The request before this one in a stream queue asks for the same granule: the two are one (R336). -/
def State.mergeWith (s : State) (sq granule : Nat) : Option Nat :=
  match (s.rr.reqs.filter (fun r => r.sq == sq && !r.returned)).getLast? with
  | some r => if r.granule = granule ∧ r.onChannel ∧ r.write = false then some r.rid else none
  | none => none

/-- A granule read issued on a stream queue (R336): it counts one granule, unless it merges with the request before it in the queue; the staging
buffer's own reads have returned as they are issued (R277). -/
def State.issue (s : State) (sq granule : Nat) (staging far : Bool) (c : Client) : State :=
  match if staging || far then none else s.mergeWith sq granule with
  | some rid => s.reqMap rid (fun r => { r with clients := r.clients ++ [c] })
  | none =>
    let s := s.rrMap (fun r => { r with
      reqs := r.reqs ++ [⟨r.nextRid, sq, granule, staging, far, [c], false, none, 0, s.clk.now, 0, staging, false⟩], nextRid := r.nextRid + 1 })
    if staging then s else (s.bump strmGranulesCount sq).when (!far) (State.fillQueue (s.channelOf granule) 32)

/-- A granule write issued on a stream queue (R336, R550). -/
def State.issueWrite (s : State) (sq granule : Nat) (c : Client) : State :=
  let s := s.rrMap (fun r => { r with
    reqs := r.reqs ++ [⟨r.nextRid, sq, granule, false, false, [c], true, none, 0, s.clk.now, 0, false, false⟩], nextRid := r.nextRid + 1 })
  let h := s.channelOf granule
  ((s.bump strmGranulesCount sq) |> State.fillQueue h 32).writesOut h

/-- A read leaves its channel's reorder queue (R550, R551): it issues, the slot it frees is granted, and the writes that waited for it leave. -/
def State.readIssued (s : State) (r : Req) : State :=
  let h := s.channelOf r.granule
  (((s.issueEntry h r).reqMap r.rid (fun x => { x with returned := true })) |> State.fillQueue h 32).writesOut h

end Sys2Proof.Machine
end

