-- ==== Sys2Proof/Machine/Point.lean ====
section
/-!
DEFINITION. Point reads: GET_BY_ID served on this chip (R96, R97, R424, R472, R560).
-/
namespace Sys2Proof.Machine

/-- The budget or the background window lets a point read run now (R97). -/
def State.pointOpen (s : State) : Bool := s.clk.bgOpen || decide (s.mem.pointUsed < s.inForce measPointBudgetGranules)

/-- The reply record of a GET_BY_ID (R424). -/
def pointReply (id found source attr norm gen : Nat) (rest : Bytes) : Bytes :=
  leBytes 6 id ++ leBytes 1 found ++ leBytes 1 source ++ leBytes 8 attr ++ leBytes 4 norm ++ leBytes 6 gen ++ zeros 6 ++ rest

/-- The parts of a row a GET_BY_ID asked for (R424). -/
def pointParts (h : Shelf) (want : Nat) (sweep vec : Bytes) : Bytes :=
  (if want.testBit 0 then padTo h.w (sweep.take h.w) else []) ++ (if want.testBit 1 then padTo h.vecPad (vec.take h.vecPad) else [])

/-- A point read answered: its reply record, then its completion (R424, R560). -/
def State.pointDone (s : State) (c : Cmd) (bytes : Bytes) (status found : Nat) : State :=
  (s.reply c (bufAddr c.param 8) bytes).complete c status s.measure (bufAddr c.param 8) found true

/-- A granule read of a point read issued on SQ27; it counts against the budget (R472). -/
def State.issuePoint (s : State) (cid : Nat) (p : Nat × Nat) : State :=
  ((s.issue 27 p.1 false false (.point cid p.2)).memMap (fun m => { m with pointUsed := m.pointUsed + 1 })).spend cid (s.coeff .granule 0)

/-- A point read held on the shelf it is for, until it may be served. -/
def State.holdPoint (s : State) (c : Cmd) (h : Shelf) : State := s.cmdMap c.cid (fun x => { x with stage := .held, target := h.index })

/-- GET_BY_ID served on this chip (R472): from staging at once; otherwise through the directory, its answer taken at this instant
and delivered when its granule reads have returned. -/
def State.pointServe (s : State) (c : Cmd) (h : Shelf) : State :=
  let id := field c.param 0 6
  let want := field c.param 6 1
  if h.lost then s.pointDone c (pointReply id 0 0 0 0 0 []) stDegraded 0
  else if s.rd gdmStatusBelowMin = 1 then s.refuse c stHwFault
  else if !s.pointOpen then s.holdPoint c h
  else match s.stagedId? h.index id with
    | some e => (s.bump stgPtHitsCount).pointDone c (pointReply id 1 1 e.attr e.sqNorm 0 (pointParts h want e.sweep e.vec)) stOk 1
    | none =>
      let buckets := (s.probe h.handle id).map s.dirGranule
      let hit := s.placedId? h.index id
      let row := hit.bind (fun e => h.row? e.slab e.row)
      let gs := match hit with
        | none => []
        | some e => h.keyGranule e.slab e.row :: (if want.testBit 0 then h.rowGranules e.slab e.row else []) ++
            (if want.testBit 1 then h.recGranules e.slab e.row else [])
      let bytes := match row with
        | none => pointReply id 0 0 0 0 0 []
        | some r => pointReply id 1 0 r.attr r.sqNorm r.rowGen (pointParts h want r.sweep r.record)
      let all := buckets ++ gs
      if all = [] then s.pointDone c bytes stOk 0
      else
        let s := s.cmdMap c.cid (fun x => { x with stage := .granted, first := all.length, last := 0, operands := bytes })
        s.each (all.zip (List.range all.length)) (fun s p => s.issuePoint c.cid p)

/-- A granule of a point read has returned; the last one completes it (R560). -/
def State.pointPart (s : State) (cid : Nat) (lost : Bool) : State :=
  match s.cmd? cid with
  | none => s
  | some c =>
    let c := { c with first := c.first - 1, last := if lost then 1 else c.last }
    let s := s.cmdMap cid (fun _ => c)
    if c.first ≠ 0 then s
    else if c.last = 1 then s.pointDone c (pointReply (field c.param 0 6) 0 0 0 0 0 []) stDegraded 0
    else s.pointDone c c.operands stOk (field c.operands 6 1)

/-- The point reads held back, served in their order of arrival (R97). -/
def State.servePoints (s : State) : State :=
  s.each (s.host.cmds.filter (fun c => c.stage == .held && c.opcode == 0x12)) (fun s c => match s.shelfAt? c.target with
    | some h => s.pointServe { c with stage := .ready } h
    | none => s.refuse c stNoShelf)

end Sys2Proof.Machine
end

