-- ==== Sys2Proof/Machine/Errors.lean ====
section
/-!
DEFINITION. Errors and their reporting (R836 to R846): the error log, event bits, function events, ALERT_N, the event log in
flash, firmware faults and the fatal error.
-/
namespace Sys2Proof.Machine

/-- The device runs: its core is started, no fatal error stands (R757, R842). -/
def State.live (s : State) : Bool := s.pwr.mode == .playing && s.rd errStatusFatal == 0

/-- The device is in Rest or a core start aside, able to answer register accesses: its core is on (R843). -/
def State.answers (s : State) : Bool := s.pwr.coreOn && (s.pwr.mode == .playing || s.pwr.mode == .rest || s.pwr.mode == .waking)

/-- The host-link controller runs: the core answers, or it is starting or in a warm reset (R778, R788). -/
def State.linkRuns (s : State) : Bool :=
  s.answers || (s.pwr.coreOn && s.pwr.startDue.isNone && (s.pwr.mode == .starting || s.pwr.mode == .warm))

/-- The seats of the physical functions (R363). -/
def State.pfs (s : State) : List Nat := if s.rd hstPortModeSplit = 1 then [0, 33] else [0]

/-- ALERT_N driven low (R685). -/
def State.alertOn (s : State) : State :=
  if s.pwr.alert then s else (s.pwrMap (fun p => { p with alert := true })).emit (.alert true)

/-- A PWR_EVENT bit newly set: the host's register, the tray's copy, and ALERT_N (R685, R688). -/
def State.powerEvent (s : State) (f : Fld) : State :=
  let fresh := s.rd f == 0 || !s.pwr.trayEvents.testBit f.lo
  let s := (s.ev f).pwrMap (fun p => { p with trayEvents := p.trayEvents ||| 2 ^ f.lo })
  s.when fresh State.alertOn

/-- A 64-byte record put at the head of the event log in flash (R689); what a shorter record leaves open is free. -/
def State.logFlash (s : State) (r : Bytes) : State :=
  let n := 64 - r.length
  let rec64 := r.take 64 ++ s.freeBytes n
  (s.tickFrees n).pwrMap (fun p => { p with evLog := (rec64 :: p.evLog).take 258048 })

/-- The 32 bytes of an error-log record (R839). -/
def errRecord (cls kind unit code measure offset detail : Nat) : Bytes :=
  leBytes 1 cls ++ leBytes 1 kind ++ leBytes 2 unit ++ leBytes 2 code ++ zeros 2 ++ leBytes 4 measure ++ leBytes 4 offset ++
  leBytes 6 detail ++ zeros 10

/-- Vector 8 of the owner's function and of every enabled PF (R841). -/
def State.signalError (s : State) : State :=
  let own := match s.owner? with | some t => [t] | none => []
  s.each ((own ++ s.pfs.filter (fun t => (s.fn t).enabled)).eraseDups) (fun s t => s.raise t 8)

/-- An error of class contained or above, logged and reported (R839 to R841): a contained error beyond the sixteenth of the
measure is only counted. -/
def State.logError (s : State) (cls kind unit code detail : Nat) : State :=
  let s := s.ev (match cls with | 2 => errEventContained | 3 => errEventUnit | 4 => errEventFirmware | _ => errEventFatal)
  if cls = 2 ∧ 16 ≤ s.pwr.errThis then s.inc errLogDroppedCount
  else
    let r := errRecord cls kind unit code s.measure ((s.clk.now - s.clk.lastDb) / 768) detail
    let s := s.pwrMap (fun p => { p with
      errLog := (r :: p.errLog).take 128, errThis := if cls = 2 then p.errThis + 1 else p.errThis })
    let s := s.inc errLogHeadCount
    let s := s.wr errCodesBits (code / 32) (s.rd errCodesBits (code / 32) ||| 2 ^ (code % 32))
    s.when (decide (3 ≤ cls)) (fun s => s.signalError.logFlash r)

/-- Uncorrectable Internal Error signalled through AER on every enabled PF (R397). -/
def State.internalError (s : State) : State :=
  s.each (s.pfs.filter (fun t => (s.fn t).enabled)) (fun s t => s.fnMap t (fun f => { f with internalError := true }))

/-- A fatal error (R842): the cause kept, work stopped (`live` no longer holds), the error reported and recorded. -/
def State.fatal (s : State) (cause unit : Nat) : State :=
  if s.rd errStatusFatal = 1 then s
  else
    let s := (s.wr errStatusFatal 0 1).wr errStatusCause 0 cause
    let s := s.logError 5 (if cause = 2 then 9 else 0) unit (63 + cause) 0
    let s := s.pwrMap (fun p => { p with faultCauses := p.faultCauses ++ [cause], fatalAt := s.clk.now })
    s.internalError.alertOn.emit .uncorrectable

/-- A firmware fault (R838): the eighth within 1,024 consecutive measures is fatal. -/
def State.fwFault (s : State) (kind unit code detail : Nat) : State :=
  let s := s.ev cndEventFwFault
  let s := s.logError 4 kind unit code detail
  let recent := s.pwr.fwFaults.filter (fun m => decide ((s.measure + 2 ^ 32 - m) % 2 ^ 32 < 1024)) ++ [s.measure]
  let s := s.pwrMap (fun p => { p with fwFaults := recent })
  s.when (decide (8 ≤ recent.length)) (fun s => s.fatal 4 0)

/-- An engine fault recorded with its measure, and the automatic map-out at the limit (R846). -/
def State.engineFaulted (s : State) (e : Nat) : State :=
  let kept := s.pwr.engFaults.filter (fun f => decide ((s.measure + 2 ^ 32 - f.2) % 2 ^ 32 < 10000)) ++ [(e, s.measure)]
  let s := s.pwrMap (fun p => { p with engFaults := kept })
  let n := (kept.filter (fun f => f.1 == e)).length
  let s := s.alertOn
  if s.rd errCtrlAutoEngine = 1 ∧ s.rd errCtrlEngineLimit ≤ n then
    let s := if e < 32 then
        (s.wr swpMapoutLoEngines 0 (s.rd swpMapoutLoEngines ||| 2 ^ e)).wr errEngineMappedLoEngines 0 (s.rd errEngineMappedLoEngines ||| 2 ^ e)
      else
        (s.wr swpMapoutHiEngines 0 (s.rd swpMapoutHiEngines ||| 2 ^ (e - 32))).wr errEngineMappedHiEngines 0
          (s.rd errEngineMappedHiEngines ||| 2 ^ (e - 32))
    s.logError 3 1 e 18 n
  else s

end Sys2Proof.Machine
end

