-- ==== Sys2Proof/Machine/Sweep.lean ====
section
/-!
DEFINITION. The sweep (chapters 04, 07 and 08): stream descriptors, dealing tiles, output tiles, the cluster codas, engine
faults and ERST, and the re-rank protection point.
-/
namespace Sys2Proof.Machine

/-! ## The pass -/

/-- A run of the pass by its command. -/
def State.run? (s : State) (cid : Nat) : Option Run := s.sweep.runs.find? (fun r => r.cid == cid)

/-- A run changed. -/
def State.runMap (s : State) (cid : Nat) (f : Run → Run) : State :=
  s.sweepMap (fun w => { w with runs := updFirst (fun r => r.cid == cid) f w.runs })

/-- The unfinished runs that satisfy `p` changed. -/
def State.runsMap (s : State) (p : Run → Bool) (f : Run → Run) : State :=
  s.sweepMap (fun w => { w with runs := updAll (fun r => p r && !r.finished) f w.runs })

/-- The items of the runs of this pass. -/
def State.items (s : State) : List Item :=
  s.sweep.plan.ids.filterMap (fun i => (s.cmd? i).bind (fun c =>
    (s.run? i).bind (fun r => (s.shelfAt? r.shelf).map (fun h => s.item c h))))

/-- A stream queue changed. -/
def State.queueMap (s : State) (q : Nat) (f : TileQ → TileQ) : State :=
  s.sweepMap (fun w => { w with queues := updAt q f w.queues })

/-- A queue that has loaded its last descriptor of the phase and has no tile left to deal sends its end marks (R354 step 1). -/
def TileQ.marked (x : TileQ) : TileQ := { x with endMark := x.endMark || (x.last && x.todo.isEmpty) }

/-- A stream queue. -/
def State.queue (s : State) (q : Nat) : TileQ := s.sweep.queues.getD q ⟨[], false, true, false⟩

/-- An engine changed. -/
def State.engineMap (s : State) (e : Nat) (f : Engine → Engine) : State :=
  s.sweepMap (fun w => { w with engines := updAt e f w.engines })

/-- An engine. -/
def State.engine (s : State) (e : Nat) : Engine := s.sweep.engines.getD e { engineReset with tacet := true }

/-- The searches of query group `g` of a shelf (R192). -/
def Run.inGroup (r : Run) (shelf g : Nat) : Bool := r.shelf == shelf && r.kind == 0 && r.col / 64 == g

/-- A run rides a tile: the projection the tile belongs to, or a search of its shelf, in the groups it is dealt for. -/
def Run.rides (t : Tile) (r : Run) : Bool :=
  if t.proj ≠ 0 then r.cid == t.proj
  else r.shelf == t.shelf && r.kind == 0 && (match t.only with | some p => p.2.contains (r.col / 64) | none => true)

/-- Every command whose data a figure carries completed with HW_FAULT (R335). -/
def State.failRuns (s : State) (p : Run → Bool) : State :=
  let hit := s.sweep.runs.filter (fun r => p r && !r.finished)
  let s := s.each hit (fun s r => match s.cmd? r.cid with
    | some c => s.complete c stHwFault s.measure 0 0 false
    | none => s)
  s.runsMap p (fun r => { r with finished := true, posted := true })

/-- The numbers of a plan's copies that serve a tile's queries and still have a team. -/
def State.copiesFor (s : State) (t : Tile) : List (Nat × Copy) :=
  ((List.range s.sweep.plan.copies.length).zip s.sweep.plan.copies).filter (fun p =>
    p.2.shelf == t.shelf && p.2.proj == t.proj && !p.2.team.isEmpty && (t.copy == none || t.copy == some p.1 || t.reissue))

/-- The engines a tile goes to from a copy's team, each with the groups it runs (R195): the engine of its slice in a chain, those that take over
its groups when it is re-issued. -/
def tileTeam (t : Tile) (c : Copy) : List (Nat × List Nat) :=
  if t.reissue then t.only.toList else if c.proj = 0 then c.team else (c.team[t.pos]?).toList

/-- An engine has a tile left in the pass (R57): one it holds, or one that a copy of its may still be dealt. -/
def State.tileLeft (s : State) (e : Nat) : Bool :=
  !(s.engine e).slots.isEmpty ||
  (s.sweep.work ++ s.sweep.queues.flatMap (fun q => q.todo)).any (fun t =>
    (s.copiesFor t).any (fun c => (tileTeam t c.2).any (fun p => p.1 == e)))

/-- Engines with no tile left in the pass go to Tacet, and those that have one leave it (R57, R213). -/
def State.restEngines (s : State) : State :=
  let idle := fun (e : Nat) => !s.tileLeft e
  s.sweepMap (fun w => { w with engines := (w.engines.zip (List.range 64)).map (fun p => { p.1 with tacet := idle p.2 }) })

/-- Within the admission window the engines that the next pass needs leave Tacet (R57). -/
def State.wakeEngines (s : State) : State :=
  let need := fun (e : Nat) => s.sweep.plan.copies.any (fun c => c.team.any (fun t => t.1 == e))
  s.sweepMap (fun w => { w with engines := (w.engines.zip (List.range 64)).map (fun p => { p.1 with tacet := p.1.tacet && !need p.2 }) })

/-! ## Query banks and table sets (R186, R192 to R194, R344 to R351) -/

/-- Group slots a copy's group occupies (R193). -/
def copySlots (h : Shelf) (c : Copy) : Nat := if c.proj = 0 then h.groupSlots else h.probeSlots

/-- A group of a copy as the query bank of the engine at place `pos` of its team holds it: the searches' operands, or the probes' slices. -/
def State.bankGroup (s : State) (h : Shelf) (c : Copy) (pos g : Nat) : BankGroup :=
  let cols := if c.proj = 0 then
      (s.sweep.runs.filter (fun r => r.inGroup h.index g)).filterMap (fun r =>
        (s.cmd? r.cid).map (fun x => ⟨r.col % 64, r.cid, x.sweepQuery h⟩))
    else match s.cmd? c.proj with
      | none => []
      | some x => (List.range x.probes).map (fun j => ⟨j, x.cid, sliceBytes h.elemFormat h.dim pos (x.probe h j)⟩)
  ⟨h.index, c.proj, g, copySlots h c, c.proj == 0 && h.tableBytes != 0, cols⟩

/-- A group loaded into an engine's query bank. -/
def State.loadGroup (s : State) (c : Copy) (e pos g : Nat) : State :=
  match s.shelfAt? c.shelf with
  | none => s
  | some h => s.engineMap e (fun x => { x with bank := x.bank ++ [s.bankGroup h c pos g] })

/-- SQ18 loads each engine's query operands at the start of the sweep phase (R344). -/
def State.loadBanks (s : State) : State :=
  s.each s.sweep.plan.copies (fun s c => s.each (c.team.zip (List.range c.team.length)) (fun s p =>
    s.each p.1.2 (fun s g => s.loadGroup c p.1.1 p.2 g)))

/-- Table-cache lines in use: issued and not yet delivered (R347, R349). -/
def State.linesUsed (s : State) : Nat := sumN (s.sweep.tfill.map (fun f => f.issued - f.back))

/-- The granules of fill `k` issued, as far as free lines allow (R349). -/
def State.issueFill (s : State) (k : Nat) : State :=
  match s.sweep.tfill[k]? with
  | none => s
  | some f =>
    let n := min (32768 - s.linesUsed) (f.lines.length - f.issued)
    let s := s.sweepMap (fun w => { w with tfill := updAt k (fun f => { f with issued := f.issued + n }) w.tfill })
    s.each ((f.lines.drop f.issued).take n) (fun s g => s.issue f.queue g false false (.table k))

/-- The fills issued in their order, as far as free lines allow. -/
def State.issueFills (s : State) : State := s.each (List.range s.sweep.tfill.length) State.issueFill

/-- The engines of the plan that hold a search group of a shelf. -/
def State.holders (s : State) (shelf g : Nat) : List Nat :=
  ((s.sweep.plan.copies.filter (fun c => c.shelf == shelf && c.proj == 0)).flatMap (fun c =>
    (c.team.filter (fun t => t.2.contains g)).map (fun t => t.1))).eraseDups

/-- A table figure's fill begins (R348, R349): the next group of the shelf in group order, for every engine that holds it. -/
def State.startFill (s : State) (h : Shelf) (q : Nat) (gs : List Nat) : State :=
  let g := (s.sweep.tfill.filter (fun f => f.shelf == h.index && !f.reread)).length
  let refs := (s.holders h.index g).filter (fun e => !(s.engine e).inErst)
  let s := s.each refs (fun s e => s.engineMap e (fun x => { x with tset := some ⟨h.index, g, 0, gs.length, []⟩ }))
  (s.sweepMap (fun w => { w with tfill := w.tfill ++ [⟨h.index, g, q, gs, 0, 0, refs, false⟩] })).issueFills

/-- The tables of a group by command. -/
def State.groupTables (s : State) (shelf g : Nat) : List (Nat × Bytes) :=
  (s.sweep.runs.filter (fun r => r.inGroup shelf g)).filterMap (fun r => (s.cmd? r.cid).map (fun c => (c.cid, c.table)))

/-- A line of a group's tables delivered to an engine's table store (R349, R350). -/
def State.tableLine (s : State) (shelf g : Nat) (e : Nat) : State :=
  let all := s.groupTables shelf g
  s.engineMap e (fun x => { x with tset := x.tset.map (fun t =>
    if t.shelf = shelf ∧ t.group = g then { t with got := t.got + 1, tables := if t.got + 1 = t.need then all else t.tables } else t) })

/-- A line of fill `k` has come from memory (R349 to R351): every engine with a reference takes it, and the line is free. -/
def State.tableLanded (s : State) (k : Nat) : State :=
  match s.sweep.tfill[k]? with
  | none => s
  | some f =>
    let s := s.bump (if f.reread then strmTcacheRereadCount else strmTcacheFillCount)
    let s := s.bump strmTcacheServedCount 0 f.refs.length
    let s := s.each f.refs (fun s e => s.tableLine f.shelf f.group e)
    (s.sweepMap (fun w => { w with tfill := updAt k (fun f => { f with back := f.back + 1 }) w.tfill })).issueFills

/-- An engine that takes a product-code group over receives its tables (R351): the lines still to come with the others, those already freed
read again. -/
def State.takeTables (s : State) (shelf g e : Nat) : State :=
  match s.sweep.tfill.find? (fun f => f.shelf == shelf && f.group == g && !f.reread) with
  | none => s
  | some f =>
    let s := s.engineMap e (fun x => { x with tset := some ⟨shelf, g, 0, f.lines.length, []⟩ })
    let s := s.sweepMap (fun w => { w with
      tfill := updFirst (fun f => f.shelf == shelf && f.group == g && !f.reread) (fun f => { f with refs := f.refs ++ [e] }) w.tfill ++
        (if f.back = 0 then [] else [⟨shelf, g, f.queue, f.lines.take f.back, 0, 0, [e], true⟩]) })
    s.issueFills

/-- The engine's query bank holds every group the plan gives it, and its table store the whole table set of its product-code group (R346). -/
def State.bankReady (s : State) (e : Nat) : Bool :=
  let x := s.engine e
  s.sweep.plan.copies.all (fun c => c.team.all (fun t => t.1 != e || t.2.all (fun g =>
    x.bank.any (fun b => b.shelf == c.shelf && b.proj == c.proj && b.group == g)))) &&
  x.bank.all (fun b => !b.code || (match x.tset with
    | some t => t.shelf == b.shelf && t.group == b.group && t.got == t.need
    | none => false))

/-! ## Stream descriptors -/

/-- A granule that lies in the shelf's arrays, the distance-table area or the spill area (R335, R548). -/
def Shelf.inAreas (h : Shelf) (spill : Nat) (g : Int) : Bool :=
  let a := g * 256
  let within := fun (base size : Nat) => decide ((base : Int) ≤ a) && decide (a < ((base + size : Nat) : Int))
  within 0 2147483648 || within spill 536870912 ||
  within h.sweepBase (h.capacity * 64 * h.w) || within h.keyBase (h.capacity * 2304) ||
  (h.fullPlace == 1 && within h.deepBase (h.capacity * 64 * h.recSize))

/-- The entries of a block list: the number of the slab and the kind of each block, in order (R327). -/
def blockEntries (body : List DWord) : List (Nat × Nat) :=
  match body with
  | _ :: y :: r => (y.toNat % 2 ^ 32, y.toNat / 2 ^ 32 % 256) :: blockEntries r
  | _ => []

/-- The work a block-list entry names: a sweep section of the searches, or a deep section of a projection (R200, R327). -/
def Tile.isBlock (shelf : Nat) (b : Nat × Nat) (t : Tile) : Bool :=
  t.shelf == shelf && t.slab == b.1 && (if b.2 = 0 then t.proj == 0 else b.2 == 1 && t.proj != 0)

/-- Byte offset of slice `j` in a record (R208). -/
def Shelf.sliceOffset (h : Shelf) (j : Nat) : Nat := vecBytes h.elemFormat (2048 * j)

/-- The chain position whose slice begins in the granule of a record at byte offset `a`. -/
def Shelf.positionAt (h : Shelf) (a : Nat) : Option Nat :=
  (List.range (chainLength h.dim)).find? (fun j => h.sliceOffset j / 256 == a / 256)

/-- Tiles of the work moved to a queue, in the order given, by a descriptor with these dflags (R326): bit 1 asks for live masks, bit 3 marks the
queue's last descriptor of the phase. -/
def State.queueTiles (s : State) (q dflags : Nat) (ts : List Tile) : State :=
  (s.sweepMap (fun w => { w with work := w.work.filter (fun t => !(ts.any (fun m => m.tid == t.tid))) })).queueMap q
    (fun x => TileQ.marked { x with
      todo := x.todo ++ ts.map (fun t => { t with queue := q, masked := dflags.testBit 1 }), last := x.last || dflags.testBit 3 })

/-- STREAM_START (R326, R335, R348): the stream engine loads a descriptor. A block list on a tile queue takes the blocks it names from the pass's
work; a figure is checked, and an erroneous one emits nothing, fails the commands it carries and is a firmware fault (R838); a figure on a tile queue takes one chain
position's slices of a projection, and one on a table queue fills a group's table set. -/
def State.streamStart (s : State) (hdr : Bytes) (body gather : List DWord) : State :=
  let q := field hdr 1 1
  let shelf := field hdr 4 2 % 4096
  match s.shelfAt? shelf with
  | none => s
  | some h =>
    if s.clk.phase ≠ .sweep then s
    else if field hdr 0 1 = 1 then
      let gl := gather.map (fun w => signed 40 (w.toNat % 2 ^ 40))
      let spill := s.rd accSpillBaseLoAddr + 2 ^ 32 * s.rd accSpillBaseHiAddr
      match (figParse body (field hdr 20 2)).filter (fun f => (figGranules f gl).all (h.inAreas spill)) with
      | none =>
        let g := (s.sweep.tfill.filter (fun f => f.shelf == shelf && !f.reread)).length
        let carried := fun (r : Run) => if q < 16 then r.shelf == shelf && r.kind == 4 else r.inGroup shelf g
        (((s.ev strmEventBadFigure).queueMap q (fun t => { t with bad := true, todo := [] })).failRuns carried).fwFault 6 q 48 q
      | some f =>
        let gs := (figGranules f gl).map Int.toNat
        if 16 ≤ q ∧ q ≤ 17 then s.startFill h q gs
        else if q < 16 then
          match h.positionAt ((gs.headD 0 * 256 - h.deepBase) % max h.recSize 1) with
          | none => s
          | some j =>
            let owner := ((s.sweep.work.find? (fun t => t.shelf == shelf && t.proj != 0 && t.pos == j)).map (fun t => t.proj)).getD 0
            s.queueTiles q (field hdr 2 1) (s.sweep.work.filter (fun t => t.shelf == shelf && t.proj != 0 && t.proj == owner && t.pos == j))
        else s
    else if q < 16 then
      s.queueTiles q (field hdr 2 1) ((blockEntries body).filterMap (fun b => s.sweep.work.find? (fun t => t.isBlock shelf b))).eraseDups
    else s

/-- STAGING_SCAN_END (R60, R345): every staged tile is dealt, and the tile queues may issue slab-tile granules. -/
def State.stagingScanEnd (s : State) : State :=
  if s.clk.phase = .sweep ∧ (s.queue 18).todo = [] then s.sweepMap (fun w => { w with scanDone := true }) else s

/-! ## Tiles -/

/-- The live mask of a tile (R201, R339): every filled row, less, where the descriptor asks for it, the killed ones. -/
def State.liveMask (s : State) (t : Tile) : Nat :=
  if t.staged then 2 ^ t.handles.length - 1
  else if !t.masked then 2 ^ t.fill - 1
  else clearTomb (2 ^ t.fill - 1) ((List.range t.fill).filter (fun r => s.killedAt t.shelf t.slab r s.measure))

/-- Byte range of row `r` of a tile in graphics memory: its sweep row, or its slice of the record for a projection. -/
def Shelf.tileRange (h : Shelf) (t : Tile) (r : Nat) : Nat × Nat :=
  if t.proj = 0 then (h.sweepBase + t.slab * (64 * h.w) + r * h.w, h.w)
  else (h.deepBase + (64 * t.slab + r) * h.recSize + h.sliceOffset t.pos,
    if h.dim ≤ 2048 then h.recSize else vecBytes h.elemFormat (min 2048 (h.dim - 2048 * t.pos)))

/-- The granules a tile reads, in ascending order (R200, R338): a whole section, or in a chain the filled rows' slices. -/
def Shelf.tileGranules (h : Shelf) (t : Tile) : List Nat :=
  if t.staged then []
  else if t.proj = 0 then h.sweepGranules t.slab
  else if h.dim ≤ 2048 then granulesOf (h.deepBase + t.slab * 64 * h.recSize) (64 * h.recSize)
  else (List.range t.fill).flatMap (fun r => granulesOf (h.tileRange t r).1 (h.tileRange t r).2)

/-- Steps of one output tile of a tile (R190, R210): of a projection those of its slice. -/
def Shelf.tileSteps (h : Shelf) (t : Tile) : Nat :=
  if t.proj = 0 then h.steps else directSteps h.elemFormat (min 2048 (h.dim - 2048 * t.pos))

/-- Dealing a tile to a copy keeps every engine within the load bound of R197. -/
def State.dealFits (s : State) (h : Shelf) (t : Tile) (c : Copy) : Bool :=
  (tileTeam t c).all (fun p => decide ((s.engine p.1).cc + p.2.length * h.tileSteps t ≤ s.sweep.plan.bound))

/-- A copy may be dealt a tile (R195, R197): it serves the tile's queries, and the deal keeps the load bound, unless the tile is re-issued or no
copy can keep it. -/
def State.mayDeal (s : State) (h : Shelf) (t : Tile) (copy : Nat) : Bool :=
  let cs := s.copiesFor t
  cs.any (fun c => c.1 == copy && (t.reissue || s.dealFits h t c.2 || cs.all (fun d => !s.dealFits h t d.2)))

/-- The free tile slot of an engine (R202). -/
def Engine.freeSlot (x : Engine) : Option Nat := [0, 1].find? (fun k => !(x.slots.any (fun t => t.slot == k)))

/-- An engine takes a tile it is dealt into its free slot, for the groups it runs. -/
def Engine.takeTile (h : Shelf) (t : Tile) (p : Nat × List Nat) (x : Engine) : Engine :=
  { x with slots := x.slots ++ [{ t with only := some p, slot := x.freeSlot.getD 0 }], cc := x.cc + p.2.length * h.tileSteps t }

/-- TILE_DEAL (R60, R195, R338, R339, R343): queue `q` deals its next tile to a copy of the tile's shelf, every engine of whose team has a free
slot; its granules are read once for all of them. The other slices of a chain tile follow it to the same copy. -/
def State.tileDeal (s : State) (q copy : Nat) : State :=
  match (s.queue q).todo, s.sweep.plan.copies[copy]? with
  | t :: rest, some c =>
    let team := tileTeam t c
    match s.shelfAt? t.shelf with
    | none => s
    | some h =>
      if s.clk.phase = .sweep ∧ !s.sweep.stopped ∧ s.mayDeal h t copy ∧ team ≠ [] ∧ (s.sweep.scanDone ∨ t.staged) ∧ !(s.queue q).bad ∧
          team.all (fun p => (s.engine p.1).freeSlot.isSome && s.engines.contains p.1 && !(s.engine p.1).thermal && !(s.engine p.1).inErst) then
        let gs := h.tileGranules t
        let t' := { t with live := s.liveMask t, copy := some copy, waiting := List.range gs.length }
        let bind := fun (x : Tile) => if x.proj = t.proj ∧ x.slab = t.slab ∧ x.staged = t.staged ∧ x.shelf = t.shelf then { x with copy := some copy } else x
        let s := s.queueMap q (fun x => TileQ.marked { x with todo := rest })
        let s := s.when (t.proj != 0) (fun s => s.sweepMap (fun w => { w with
          work := w.work.map bind, queues := w.queues.map (fun x => { x with todo := x.todo.map bind }) }))
        let s := s.each team (fun s p => s.engineMap p.1 (Engine.takeTile h t' p))
        (s.each (gs.zip (List.range gs.length)) (fun s g => s.issue q g.1 false false (.tile t.tid g.2))).restEngines
      else s
  | _, _ => s

/-! ## The accumulator memory and output tiles (R203, R204, R223, R224, R232 to R236) -/

/-- The word address of a pair in an output tile, 0 or 1, or in the chain receive tile, 2 (R232). -/
def pairAddr (r tile col : Nat) : Nat := 512 * r + 64 * tile + col

/-- The word address of a row's norm word for a tile slot (R191, R232). -/
def normAddr (r slot : Nat) : Nat := 512 * r + 192 + slot

/-- A word of the accumulator memory. -/
def Engine.word (x : Engine) (a : Nat) : DWord := ((x.acc.find? (fun p => p.1 == a)).map (fun p => p.2)).getD 0#64

/-- A word put into a list of nonzero words with rising addresses. -/
def accPut (a : Nat) (w : DWord) : List (Nat × DWord) → List (Nat × DWord)
  | [] => if w = 0#64 then [] else [(a, w)]
  | p :: l =>
    if p.1 < a then p :: accPut a w l
    else (if w = 0#64 then [] else [(a, w)]) ++ (if p.1 = a then l else p :: l)

/-- The canonical form of the accumulator memory: addresses rise strictly, and a word that is 0 is not listed. -/
def accWf (l : List (Nat × DWord)) : Bool := decide (l.Pairwise (fun p q => p.1 < q.1)) && l.all (fun p => p.2 != 0#64)

/-- A word of the accumulator memory written. -/
def Engine.setWord (x : Engine) (a : Nat) (w : DWord) : Engine := { x with acc := accPut a w x.acc }

/-- Row `r` of a tile: its place, and the bytes an engine computes on, its sweep row or its slice of the record. -/
def State.tileRow (s : State) (h : Shelf) (t : Tile) (r : Nat) : Option (Place × Bytes) :=
  let cut := fun (sweep vec : Bytes) => if t.proj = 0 then sweep else sliceBytes h.elemFormat h.dim t.pos vec
  if t.staged then (t.handles[r]?).bind (fun hd => (s.entry? hd).map (fun e => (⟨true, hd, 0⟩, cut e.sweep e.vec)))
  else (h.row? t.slab r).map (fun x => (⟨false, t.slab, r⟩, cut x.sweep x.record))

/-- Elements of a row of a tile. -/
def Shelf.tileDim (h : Shelf) (t : Tile) : Nat := if t.proj = 0 then h.dim else min 2048 (h.dim - 2048 * t.pos)

/-- The distance a tile's pairs are accumulated for: a projection forms path products (R207, R226). -/
def Shelf.tileDistance (h : Shelf) (t : Tile) : Nat := if t.proj = 0 then h.distance else 1

/-- A tile's elements are element-format vectors: a direct row, or a record of a projection. -/
def Shelf.tileDirect (h : Shelf) (t : Tile) : Bool := t.proj != 0 || h.sweepKind == 3

/-- The values a cell promotes for a pair, and the pair's grid exponent (R221, R223, R226, R230). -/
def Shelf.pairTerms (h : Shelf) (t : Tile) (operand table row : Bytes) : List Int × Int :=
  if h.tileDirect t then
    directTerms h.elemFormat (h.tileDistance t) (image h.elemFormat (h.tileDim t) operand) (image h.elemFormat (h.tileDim t) row)
  else if h.sweepKind = 0 then ([(hamming operand row : Int)], 0)
  else (codeGroups h.sweepKind h.sweepWidth table row, 0)

/-- Promotions of a pair that round nonzero bits away (ACC_FOLD_INEXACT). -/
def Shelf.pairInexact (h : Shelf) (t : Tile) (operand row : Bytes) : Nat :=
  if h.tileDirect t then
    let iq := image h.elemFormat (h.tileDim t) operand
    let ix := image h.elemFormat (h.tileDim t) row
    inexactP h.elemFormat (directExp (h.tileDistance t) iq ix) iq ix
  else 0

/-- The group of an engine's bank that a tile runs. -/
def Engine.bankFor (x : Engine) (t : Tile) (g : Nat) : Option BankGroup :=
  x.bank.find? (fun b => b.shelf == t.shelf && b.proj == t.proj && b.group == g)

/-- The distance table of a command in an engine's table store. -/
def Engine.tableOf (x : Engine) (cid : Nat) : Bytes :=
  ((x.tset.bind (fun t => t.tables.find? (fun p => p.1 == cid))).map (fun p => p.2)).getD []

/-- An output tile fills (R203, R223, R224): for every live row and every column that holds a query the promotions enter the pair's word, the
first one overwriting what the output tile held before. -/
def State.fillTile (s : State) (e : Nat) (h : Shelf) (t : Tile) (g : Nat) : State :=
  let x := s.engine e
  match x.bankFor t g with
  | none => s
  | some b =>
    let pairs := (setBits 64 t.live).flatMap (fun r => match s.tileRow h t r with
      | none => []
      | some row => b.cols.map (fun c => (r, c, row.2)))
    let s := s.each pairs (fun s p =>
      let v := h.pairTerms t p.2.1.operand (x.tableOf p.2.1.cid) p.2.2
      let a := pairAddr p.1 x.sel p.2.1.col
      s.engineMap e (fun y => y.setWord a (promoteAll v.2 v.1 (y.word a))))
    s.bump accFoldInexactCount 0 (sumN (pairs.map (fun p => h.pairInexact t p.2.1.operand p.2.2)))

/-- The norm column forms the squared norms of a tile's rows (R191): on a direct shelf with distance 0 or 2. -/
def State.fillNorms (s : State) (e : Nat) (h : Shelf) (t : Tile) : State :=
  if t.proj ≠ 0 ∨ h.sweepKind ≠ 3 ∨ h.distance = 1 then s
  else s.each (setBits 64 t.live) (fun s r => match s.tileRow h t r with
    | none => s
    | some row => s.engineMap e (fun y => y.setWord (normAddr r t.slot) (BitVec.ofNat 64 (normMag h.elemFormat h.dim row.2))))

/-- The engines of the chain a tile belongs to, in the order of their positions; none in pass mode. -/
def State.chainOf (s : State) (t : Tile) : List Nat :=
  match (t.copy.bind (fun c => s.sweep.plan.copies[c]?)) with
  | some c => if c.proj = 0 ∨ c.team.length ≤ 1 then [] else c.team.map (fun p => p.1)
  | none => []

/-- TILE_START (R202, R346): an engine whose query bank and table store are complete starts a tile whose granules and live mask are complete; its
first output tile fills. -/
def State.tileStart (s : State) (e slot : Nat) : State :=
  let x := s.engine e
  match x.computing, x.slots.find? (fun t => t.slot == slot) with
  | none, some t =>
    match s.shelfAt? t.shelf with
    | none => s
    | some h =>
      let groups := match t.only with | some p => p.2 | none => []
      if t.waiting = [] ∧ s.bankReady e ∧ s.clk.phase = .sweep then
        let s := s.engineMap e (fun y => { y with computing := some t.tid, groups := groups, sel := if s.chainOf t = [] then y.sel else 0 })
        (s.fillNorms e h t).fillTile e h t (groups.headD 0)
      else s
  | _, _ => s

/-- The score a pair delivers from its word and its row's norm word (R228, R231): of a projection the path product. -/
def Shelf.pairScore (h : Shelf) (t : Tile) (operand : Bytes) (w norm : DWord) : Score :=
  let g := wordExp w
  if t.proj = 0 ∧ h.sweepKind = 3 then
    let nq := normMag h.elemFormat h.dim operand
    ⟨deliver h.distance g (wordValue w) nq norm.toNat, g, if h.distance = 2 then norm.toNat else 0⟩
  else ⟨wordValue w, g, 0⟩

/-- The cluster list of a search. -/
def Cluster.list? (c : Cluster) (cid : Nat) : Option ClList := c.lists.find? (fun l => l.cid == cid)

/-- The group slot at which a bank's group begins (R193). -/
def slotOf (bank : List BankGroup) (b : BankGroup) : Nat := sumN ((bank.takeWhile (fun x => x != b)).map (fun x => x.units))

/-- The number of the cut register of column `col` of a group in engine `e`'s bank (R288). -/
def Engine.cutReg (x : Engine) (e : Nat) (b : BankGroup) (col : Nat) : Nat := e % 8 * 1024 + slotOf x.bank b * 64 + col

/-- A score passes a cut register of a cluster coda (R204, R205): no cut on a direct shelf, nor before the list is full. -/
def passesCut (h : Shelf) (t : Tile) (c : Cluster) (reg : Nat) (sc : Score) : Bool :=
  h.tileDirect t || (match c.cuts.find? (fun p => p.1 == reg) with
    | none => true
    | some p => !nearer h.sweepOrder p.2 sc)

/-- A cluster coda changed. -/
def State.clusterMap (s : State) (c : Nat) (f : Cluster → Cluster) : State :=
  s.sweepMap (fun w => { w with clusters := updAt c f w.clusters })

/-- The cut registers of cluster `c`'s columns of a search (R288, R291): those of every engine of the cluster that holds its group. -/
def State.cutRegs (s : State) (c cid : Nat) : List Nat :=
  (List.range 8).flatMap (fun i => let x := s.engine (8 * c + i)
    x.bank.flatMap (fun b => (b.cols.filter (fun k => k.cid == cid)).map (fun k => x.cutReg (8 * c + i) b k.col)))

/-- Cluster coda `c` writes the boundary of a search's list into the cut register of each of its columns (R205, R291). -/
def State.writeCuts (s : State) (c cid : Nat) : State :=
  match ((s.sweep.clusters.getD c clusterNil).list? cid).bind (fun l => l.bound) with
  | none => s
  | some b =>
    let regs := s.cutRegs c cid
    s.clusterMap c (fun k => { k with cuts := k.cuts.filter (fun p => !regs.contains p.1) ++ regs.map (fun r => (r, b)) })

/-- The output tile of group `g` drains to the cluster coda of its engine (R204): the pairs of live rows and columns with a query that pass the
cut. The rows are compared for the commands of the group (R84). -/
def State.drainGroup (s : State) (e : Nat) (h : Shelf) (t : Tile) (g : Nat) : State :=
  let x := s.engine e
  match x.bankFor t g with
  | none => s
  | some b =>
    let cl := s.sweep.clusters.getD (e / 8) clusterNil
    let rows := (setBits 64 t.live).filterMap (fun r => (s.tileRow h t r).map (fun p => (r, p.1)))
    let pairs := b.cols.flatMap (fun c => rows.filterMap (fun r =>
      let sc := h.pairScore t c.operand (x.word (pairAddr r.1 x.sel c.col)) (x.word (normAddr r.1 t.slot))
      if passesCut h t cl (x.cutReg e b c.col) sc then some ⟨c.cid, c.col, ⟨sc, r.2, false, 0⟩⟩ else none))
    let s := s.clusterMap (e / 8) (fun k => { k with queue := k.queue ++ pairs })
    let mask := sumN (rows.map (fun r => 2 ^ r.1))
    s.runsMap (fun r => if t.proj ≠ 0 then r.cid == t.proj else r.inGroup h.index g) (fun r => { r with
      compared := r.compared + rows.length, tiles := if t.staged then r.tiles else r.tiles ++ [(t.slab, mask)] })

/-! ## Chain mode (R207 to R209, R235, R236) -/

/-- What tells the tiles of a chain apart: the slab, or the staged tile. -/
def Tile.key (t : Tile) : Nat := 2 * t.slab + (if t.staged then 1 else 0)

/-- The words of a tile's pairs, as (row, column). -/
def Engine.pairsOf (x : Engine) (t : Tile) : List (Nat × Nat) :=
  match x.bankFor t 0 with
  | none => []
  | some b => (setBits 64 t.live).flatMap (fun r => b.cols.map (fun c => (r, c.col)))

/-- The running sums in an engine's receive tile combined into its own (R236); a row that an earlier position lost is lost. -/
def State.chainCombine (s : State) (e : Nat) (t : Tile) (mask : Nat) : State :=
  s.engineMap e (fun x =>
    let x := { x with slots := updAll (fun y => y.tid == t.tid) (fun y => { y with live := y.live &&& mask }) x.slots, recv := none }
    (x.pairsOf { t with live := t.live &&& mask }).foldl (fun x p =>
      x.setWord (pairAddr p.1 0 p.2) (chainWord (x.word (pairAddr p.1 2 p.2)) (x.word (pairAddr p.1 0 p.2)))) x)

/-- The sums of position `e` passed over the chain link into the receive tile of the next position (R209). -/
def State.chainPass (s : State) (e next : Nat) (t : Tile) : State :=
  let x := s.engine e
  s.engineMap next (fun y => (x.pairsOf t).foldl (fun y p => y.setWord (pairAddr p.1 2 p.2) (x.word (pairAddr p.1 0 p.2)))
    { y with recv := some (t.key, t.live) })

/-- The engine holds tile `t` no longer: its slot is free, and the tile is counted (R202). -/
def State.tileDone (s : State) (e : Nat) (t : Tile) : State :=
  let s := (s.engineMap e (fun x => { x with computing := none, groups := [], slots := x.slots.filter (fun y => y.tid != t.tid) })).bump swpTilesCount e
  let s := s.when (t.reissue && !s.sweep.stopped &&
    !((s.sweep.queues.flatMap (fun q => q.todo) ++ s.sweep.engines.flatMap (fun y => y.slots)).any (fun y => y.reissue)))
    (fun s => s.ev swpEventReissueOk)
  s.restEngines

/-- The output tile of a chain position is complete (R209): it waits for the sums of the position before it, and for the next position's receive
tile; the last position drains the combined sums. -/
def State.chainDrain (s : State) (e : Nat) (h : Shelf) (t : Tile) (chain : List Nat) : State :=
  let mask := match (s.engine e).recv with | some p => if p.1 = t.key then some p.2 else none | none => none
  let next := chain[t.pos + 1]?
  let blocked := match next with | some n => (s.engine n).recv.isSome | none => false
  if (t.pos != 0 && mask == none) || blocked then s
  else
    let s := (s.bump swpBusyCc e (h.tileSteps t)).when (t.pos != 0) (fun s => s.chainCombine e t (mask.getD 0))
    let t := ((s.engine e).slots.find? (fun y => y.tid == t.tid)).getD t
    let s := match next with
      | some n => s.chainPass e n t
      | none => s.drainGroup e h t 0
    s.tileDone e t

/-- OUTPUT_TILE_DRAIN (R203, R204): the full output tile of the tile an engine computes drains, and the next group's fills the other one; after the
last one the slot is freed (R202). -/
def State.outputTileDrain (s : State) (e : Nat) : State :=
  let x := s.engine e
  match x.computing.bind (fun tid => x.slots.find? (fun t => t.tid == tid)) with
  | none => s
  | some t =>
    match s.shelfAt? t.shelf with
    | none => s
    | some h =>
      let chain := s.chainOf t
      if chain ≠ [] then s.chainDrain e h t chain
      else
        let s := (s.drainGroup e h t (x.groups.headD 0)).bump swpBusyCc e (h.tileSteps t)
        let s := s.engineMap e (fun y => { y with groups := y.groups.drop 1, sel := 1 - y.sel })
        match x.groups.drop 1 with
        | [] => s.tileDone e t
        | g :: _ => s.fillTile e h t g

/-- The worst of a nonempty list of entries (R291). -/
def worstOf (o : Order) : List ClEnt → Option Score
  | [] => none
  | x :: xs => some (xs.foldl (fun w y => if nearer o w y.score then y.score else w) x.score)

/-- Two scores are equal under an order: neither is nearer. -/
def tied (o : Order) (a b : Score) : Bool := !nearer o a b && !nearer o b a

/-- An entry taken into a cluster list (R291): `c` is the search's candidate count. -/
def ClList.take (o : Order) (c : Nat) (l : ClList) (x : ClEnt) : ClList :=
  match l.bound with
  | none =>
    let all := l.better ++ l.band ++ [x]
    if all.length < c then { l with better := all }
    else match worstOf o all with
      | none => { l with better := all }
      | some b =>
        { l with better := all.filter (fun y => !tied o y.score b), band := all.filter (fun y => tied o y.score b), bound := some b }
  | some b =>
    if nearer o x.score b then
      let better := l.better ++ [x]
      if better.length < c then { l with better := better }
      else match worstOf o better with
        | none => l
        | some b' => { l with better := better.filter (fun y => !tied o y.score b'),
                              band := better.filter (fun y => tied o y.score b'), bound := some b' }
    else if tied o x.score b then { l with band := l.band ++ [x] }
    else l

/-- The id of a row at a place of a shelf. -/
def State.idAt (s : State) (h : Shelf) (p : Place) : Nat :=
  if p.staged then ((s.entry? p.slab).map (fun e => e.id)).getD 0 else ((h.row? p.slab p.row).map (fun r => r.id)).getD 0

/-- Entries with their ids read (R292, R294), and the count of placed rows whose key entry was read for it. -/
def State.withIds (s : State) (h : Shelf) (l : List ClEnt) : List ClEnt :=
  l.map (fun x => if x.idKnown then x else { x with idKnown := true, id := s.idAt h x.at_ })

/-- The `n` entries of lowest id. -/
def lowestIds (n : Nat) (l : List ClEnt) : List ClEnt := (sortBy (fun (a b : ClEnt) => decide (a.id < b.id)) l).take n

/-- The largest band of a cluster resolved early (R292). -/
def State.resolveLargest (s : State) (c : Nat) : State :=
  let cl := s.sweep.clusters.getD c clusterNil
  match cl.lists.foldl (fun (m : Option ClList) l => match m with
      | none => some l
      | some k => if k.band.length < l.band.length then some l else some k) none with
  | none => s
  | some l =>
    match s.cmd? l.cid, (s.run? l.cid).bind (fun r => s.shelfAt? r.shelf) with
    | some cm, some h =>
      let reads := l.band.filter (fun x => !x.idKnown && !x.at_.staged)
      let bad := reads.filter (fun x => s.granuleLost (h.keyGranule x.at_.slab x.at_.row))
      let keep := lowestIds (cm.cand - l.better.length) (s.withIds h (l.band.filter (fun x => !bad.contains x)))
      let s := ((s.ev codaEventBandEarly).bump codaTieReadsCount 0 reads.length).bump strmGranulesCount 19 reads.length
      let s := s.when (!bad.isEmpty) (fun s => s.runMap l.cid (fun r => { r with degraded := true }))
      s.clusterMap c (fun x => { x with lists := updFirst (fun y => y.cid == l.cid) (fun y => { y with band := keep }) x.lists })
    | _, _ => s

/-- DRAIN_PAIR (R291, R292, R309): a cluster coda takes the oldest pair drained to it, into a search's list or a projection's reduction lane. -/
def State.drainPair (s : State) (c : Nat) : State :=
  match (s.sweep.clusters.getD c clusterNil).queue with
  | [] => s
  | p :: rest =>
    let s := s.clusterMap c (fun k => { k with queue := rest })
    match s.cmd? p.cid, s.run? p.cid, (s.run? p.cid).bind (fun r => s.shelfAt? r.shelf) with
    | some cm, some r, some h =>
      if r.kind ≠ 0 then s.runMap p.cid (fun r => { r with lanes := updAt p.col (fun l => laneAdd l p.ent.score.dy) r.lanes })
      else
        let s := s.clusterMap c (fun k =>
          let l := (k.list? p.cid).getD ⟨p.cid, [], [], none⟩
          { k with lists := l.take h.sweepOrder cm.cand p.ent :: k.lists.filter (fun y => y.cid != p.cid) })
        let s := s.writeCuts c p.cid
        let k := s.sweep.clusters.getD c clusterNil
        let bands := sumN (k.lists.map (fun l => l.band.length))
        let all := bands + sumN (k.lists.map (fun l => l.better.length))
        let s := s.bumpSet codaListPeakEntries c (max (s.tallied codaListPeakEntries c) all)
        let s := s.bumpSet codaBandPeakEntries c (max (s.tallied codaBandPeakEntries c) bands)
        s.when (decide (57344 ≤ bands)) (fun s => s.resolveLargest c)
    | _, _, _ => s

/-! ## Faults and the protection point -/

/-- Group slots the plan gives an engine (R193). -/
def State.slotsPlanned (s : State) (e : Nat) : Nat :=
  sumN (s.sweep.plan.copies.map (fun c => match s.shelfAt? c.shelf with
    | none => 0
    | some h => sumN ((c.team.filter (fun t => t.1 == e)).map (fun t => t.2.length * copySlots h c))))

/-- The engine holds a product-code group in the plan. -/
def State.codePlanned (s : State) (e : Nat) : Bool :=
  s.sweep.plan.copies.any (fun c => c.proj == 0 && c.team.any (fun t => t.1 == e && !t.2.isEmpty) &&
    (match s.shelfAt? c.shelf with | some h => h.tableBytes != 0 | none => false))

/-- Where one group of a reset engine goes: the copy, the group, its group slots, whether it needs the table store, and the engine that takes
it (R217). -/
structure Moved where
  copy : Nat
  group : Nat
  units : Nat
  code : Bool
  dest : Option Nat
  deriving DecidableEq, Repr

/-- The engine of the cluster of `e` that takes over a group (R217): an active one with free group slots for it, and a free table store where the
group has tables; of a chain, one that holds no other position of it. -/
def State.taker (s : State) (e : Nat) (c : Copy) (units : Nat) (code : Bool) (before : List Moved) : Option Nat :=
  let mine := fun (x : Nat) => before.filter (fun m => m.dest == some x)
  s.engines.find? (fun x => x != e && x / 8 == e / 8 && !(s.engine x).inErst && !(s.engine x).thermal &&
    !(c.proj != 0 && c.team.any (fun t => t.1 == x)) &&
    decide (s.slotsPlanned x + sumN ((mine x).map (fun m => m.units)) + units ≤ 16) &&
    !(code && (s.codePlanned x || (mine x).any (fun m => m.code))))

/-- The groups of a reset engine, each with its taker (R217). -/
def State.moves (s : State) (e : Nat) : List Moved :=
  let held := (((List.range s.sweep.plan.copies.length).zip s.sweep.plan.copies).flatMap (fun c =>
    ((c.2.team.filter (fun t => t.1 == e)).flatMap (fun t => t.2)).map (fun g => (c.1, c.2, g))))
  held.foldl (fun ms p => match s.shelfAt? p.2.1.shelf with
    | none => ms
    | some h =>
      let code := p.2.1.proj == 0 && h.tableBytes != 0
      let u := copySlots h p.2.1
      ms ++ [⟨p.1, p.2.2, u, code, s.taker e p.2.1 u code ms⟩]) []

/-- A copy's team with engine `e`'s groups given to their takers; a chain keeps its order, and one that can no longer be formed is gone. -/
def moveTeam (e : Nat) (ms : List Moved) (c : Copy) : List (Nat × List Nat) :=
  if c.proj ≠ 0 then
    match (ms.findSome? (fun m => m.dest)) with
    | some x => c.team.map (fun t => if t.1 = e then (x, t.2) else t)
    | none => []
  else ms.foldl (fun team m => match m.dest with
    | none => team
    | some x => if team.any (fun t => t.1 == x) then updFirst (fun t => t.1 == x) (fun t => (t.1, t.2 ++ [m.group])) team else team ++ [(x, [m.group])])
    (c.team.filter (fun t => t.1 != e))

/-- The plan's copies after an engine's groups have moved: a copy that lost a group gives way to another of its kind that lost none. -/
def moveCopies (e : Nat) (ms : List Moved) (cs : List Copy) : List Copy :=
  let lost := fun (i : Nat) => ms.any (fun m => m.copy == i && m.dest == none)
  ((List.range cs.length).zip cs).map (fun p =>
    let other := ((List.range cs.length).zip cs).any (fun q => q.1 != p.1 && q.2.shelf == p.2.shelf && q.2.proj == p.2.proj && !q.2.team.isEmpty && !lost q.1)
    if !p.2.team.any (fun t => t.1 == e) then p.2
    else if lost p.1 && other then { p.2 with team := [] }
    else { p.2 with team := moveTeam e (ms.filter (fun m => m.copy == p.1)) p.2 })

/-- A group loaded at its taker (R217, R351): into the query bank, and its tables through the table cache. -/
def State.loadMoved (s : State) (m : Moved) : State :=
  match m.dest, s.sweep.plan.copies[m.copy]? with
  | some x, some c =>
    let pos := if c.proj = 0 then 0 else c.team.findIdx (fun t => t.1 == x)
    let s := (s.loadGroup c x pos m.group).engineMap x (fun y => { y with took := true })
    let s := s.each ((s.sweep.runs.filter (fun r => r.inGroup c.shelf m.group)).map (fun r => r.cid)) (fun s i => s.writeCuts (x / 8) i)
    s.when m.code (fun s => s.takeTables c.shelf m.group x)
  | _, _ => s

/-- The tile a taker is re-issued of one the reset engine had not finished (R217, R343): for the groups it took over, read from memory again; a
chain's tile keeps its copy. -/
def reissueTiles (held : List Tile) (ms : List Moved) (tid : Nat) : List Tile :=
  let parts := held.flatMap (fun t =>
    let groups := match t.only with | some p => p.2 | none => []
    let mine := ms.filter (fun m => some m.copy == t.copy && groups.contains m.group)
    ((mine.filterMap (fun m => m.dest)).eraseDups).map (fun x => (t, x, (mine.filter (fun m => m.dest == some x)).map (fun m => m.group))))
  ((List.range parts.length).zip parts).map (fun p =>
    { p.2.1 with tid := tid + p.1, waiting := [], only := some (p.2.2.1, p.2.2.2), reissue := true })

/-- ERST of an engine (R216, R217, R351): its storage is cleared, its registers return to reset and its table-cache references end; in a pass its
groups move to other engines of its cluster with room, which are re-issued its unfinished tiles, and the queries of a group that finds no
room are degraded. κ restarts at 1.0 (R69, R783). -/
def State.erstEngine (s : State) (e : Nat) : State :=
  let x := s.engine e
  let held := x.slots.map (fun t => if x.computing = some t.tid then { t with only := some (e, x.groups) } else t)
  let s := (s.engineMap e (fun y => { engineReset with thermal := y.thermal, inErst := true })).clkMap (fun k => { k with kappa := 256 })
  let s := ((s.wr swpBusyCc e 0).wr swpTilesCount e 0).each (List.range 8) (fun s i => s.wr swpStallCauseCc (8 * e + i) 0)
  let s := ((s.bumpSet swpBusyCc e 0).bumpSet swpTilesCount e 0).each (List.range 8) (fun s i => s.bumpSet swpStallCauseCc (8 * e + i) 0)
  let s := s.sweepMap (fun w => { w with tfill := w.tfill.map (fun f => { f with refs := f.refs.filter (fun r => r != e) }) })
  let ms := s.moves e
  if s.clk.phase ≠ .sweep ∧ s.clk.phase ≠ .admission ∨ ms = [] then s
  else
    let s := s.ev swpEventEngineFault
    let old := s.sweep.plan.copies
    let s := s.sweepMap (fun w => { w with plan := { w.plan with copies := moveCopies e ms w.plan.copies } })
    let s := s.when (s.clk.phase == .sweep) (fun s => s.each ms State.loadMoved)
    let s := s.each ms (fun s m => match m.dest, old[m.copy]? with
      | none, some c => s.runsMap (fun r => if c.proj ≠ 0 then r.cid == c.proj else r.inGroup c.shelf m.group) (fun r => { r with degraded := true })
      | _, _ => s)
    let s := s.when (ms.any (fun m => m.dest == none)) (fun s => s.ev swpEventReissueShort)
    let back := reissueTiles held ms s.sweep.nextTid
    let s := s.sweepMap (fun w => { w with
      nextTid := w.nextTid + back.length, reissued := w.reissued || !back.isEmpty
      queues := ((List.range 32).zip w.queues).map (fun q => { q.2 with todo := back.filter (fun t => t.queue == q.1) ++ q.2.todo }) })
    s.restEngines

/-- Every tile of the sweep is dealt, computed, drained and taken by its coda (R354 steps 1 to 4). -/
def State.sweepDrained (s : State) : Bool :=
  s.sweep.work.isEmpty && s.sweep.queues.all (fun q => q.todo.isEmpty) &&
  s.sweep.engines.all (fun e => e.slots.isEmpty) && s.sweep.clusters.all (fun c => c.queue.isEmpty)

/-- The runs that lose unfinished tiles: cut for lack of time, or degraded where the tile was re-issued (R81, R83, R88). -/
def State.loseTiles (s : State) (ts : List Tile) : State :=
  s.each ts (fun s t => s.runsMap (Run.rides t) (fun r => if t.reissue then { r with degraded := true } else { r with cutTime := true }))

/-- Re-issued tiles that engines hold and have not finished: their queries are degraded (R88). -/
def State.reissuedHeld (s : State) : List Tile := (s.sweep.engines.flatMap (fun x => x.slots)).filter (fun t => t.reissue)

/-- RERANK_PROTECTION_POINT (R81, R88, R296, R342): an unfinished sweep stops dealing; the boundary resolutions still open, those not begun among
them (log entry 91), are cut. -/
def State.protectionPoint (s : State) : State :=
  if s.clk.phase ≠ .sweep ∨ s.sweep.codaDone then s
  else if s.sweepDrained then s.sweepMap (fun w => { w with bandCut := true })
  else
    let left := s.sweep.work ++ s.sweep.queues.flatMap (fun q => q.todo)
    let again := s.reissuedHeld
    let s := (s.loseTiles left).loseTiles again
    let s := s.sweepMap (fun w => { w with stopped := true, bandCut := true, work := [], queues := w.queues.map (fun q => { q with todo := [], endMark := true }) })
    let s := s.when ((left ++ again).any (fun t => t.reissue)) (fun s => s.ev swpEventReissueShort)
    (s.when (!left.isEmpty) (fun s => s.ev strmEventStopPoint)).restEngines

end Sys2Proof.Machine
end

