-- ==== Sys2Proof/Machine/Rerank.lean ====
section
/-!
DEFINITION. Coda finish, the barrier, the voices and re-rank units, the final lists and result records, and the end of the
foreground (chapters 05, 06, 07 and the phase rules of chapter 01).
-/
namespace Sys2Proof.Machine

/-! ## Coverage and result records -/

/-- A coverage value (R84). -/
def coverage (num den : Nat) : Nat := if den ≤ num then 0xFFFF else min (num * 65536 / den) 0xFFFE

/-- Sweep and re-rank coverage of a run (R84, R837). -/
def Run.sweepCover (r : Run) : Nat := if r.voided then 0 else coverage r.compared r.rows
def Run.rerankCover (r : Run) : Nat := if r.voided then 0 else coverage r.reranked r.handed

/-- The status of a run's completion (R83, R84, R90): never OK_PARTIAL with both coverages complete. -/
def Run.status (r : Run) : Nat :=
  if r.degraded then stDegraded
  else if r.cutTime && (decide (r.compared < r.rows) || decide (r.reranked < r.handed)) then stPartial else stOk

/-- The value an entry reports (R181, R231, R307), as FP32. -/
def Shelf.scoreBits (h : Shelf) (nq : Nat) (e : FinEnt) : Nat :=
  if h.finalOrder = .cosine ∧ !e.fused then f32Cos e.score.dy ((f32Val nq).mul (f32Val e.score.nx)) else f32Of e.score.dy

/-- An entry of a search record (R316). -/
def entryBytes (h : Shelf) (c : Cmd) (nq rank : Nat) (e : FinEnt) : Bytes :=
  leBytes 6 e.id ++ leBytes 2 rank ++ leBytes 4 (h.scoreBits nq e) ++ zeros 4 ++
  (if c.exact then exactScore e.score.dy (if e.fused then 5 else h.scoreKind) else [])

/-- A STATS body (R317). -/
def State.statsBytes (s : State) (h : Shelf) (c : Cmd) (r : Run) : Bytes :=
  let lane := fun (l : Lane) => ((laneReport l).map (leBytes 4)).flatten
  match c.statsKind with
  | 1 =>
    leBytes 8 r.rows ++ leBytes 8 (s.deadRows h) ++ leBytes 8 (s.stagedView h.index s.measure).length ++ leBytes 4 h.slabs.length ++
    leBytes 1 h.tailFill ++ zeros 3
  | 2 => leBytes 8 (r.lanes.headD laneNil).n ++ lane (r.lanes.headD laneNil) ++ zeros 8
  | 3 => leBytes 8 r.compared ++ (r.ones.map (leBytes 8)).flatten
  | _ => leBytes 8 (r.lanes.headD laneNil).n ++ (r.lanes.map (fun l => lane l ++ zeros 16)).flatten

/-- The header of a result record (R315). -/
def headerRecord (h : Shelf) (c : Cmd) (r : Run) (status measure : Nat) : Bytes :=
  let stats := c.opcode == 0x18
  leBytes 1 3 ++ leBytes 1 (if stats then c.statsKind else 0) ++ leBytes 1 status ++
  leBytes 1 ((if c.exact then 1 else 0) + (if c.fused then 2 else 0)) ++ leBytes 2 (if stats then 0 else r.final.length) ++
  leBytes 2 c.k ++ leBytes 2 (if h.lost then 0 else r.sweepCover) ++ leBytes 2 r.rerankCover ++
  leBytes 4 measure ++ leBytes 2 c.seat ++ leBytes 2 c.tag ++ leBytes 4 h.handle ++ leBytes 6 r.gen ++
  leBytes 2 (if stats then 0 else if c.exact then 32 else 16) ++ leBytes 4 r.handed ++ leBytes 4 r.passed ++ zeros 24

/-! ## The record stage of a voice -/

/-- Elements of a vector wholly in its first `n` bytes. -/
def elemsIn (fmt n : Nat) : Nat :=
  match fmt with
  | 0 => n / 4
  | 1 | 2 => n / 2
  | 7 => 2 * n
  | 8 => n / 17 * 32 + (n % 17 - 1) * 2
  | 9 => 8 * n
  | _ => n

/-- Elements of a re-rank segment (R238). -/
def segLen : Nat := 4096

/-- The first element a voice takes from granule `g` of a record in segment `seg`. -/
def fetchFrom (h : Shelf) (seg g : Nat) : Nat := max (segLen * seg) (elemsIn h.elemFormat (256 * g))

/-- The element after the last one it takes: those wholly in the record's first g + 1 granules, within the segment and the dimension. -/
def fetchTo (h : Shelf) (seg g : Nat) : Nat := min (min h.dim (segLen * (seg + 1))) (elemsIn h.elemFormat (256 * (g + 1)))

/-- The granules of a record that hold elements of a segment (R238, R265). In MXFP4 a boundary lies inside a granule, and that granule is fetched
for either segment (DESIGN CHOICE, log entry 82). The last segment takes the record to its end. -/
def segGranules (h : Shelf) (seg : Nat) : List Nat :=
  let segs := max 1 (cdiv h.dim segLen)
  let first := vecBytes h.elemFormat (segLen * seg) / 256
  let stop := if seg + 1 < segs then cdiv (vecBytes h.elemFormat (segLen * (seg + 1))) 256 else h.recSize / 256
  (List.range (stop - first)).map (fun i => first + i)

/-- The record stage of a voice in processing order (R238, R265): segment by segment, candidate by candidate. -/
def fetchPlan (h : Shelf) (cands : List Cand) : List Fetch :=
  let live := (List.range cands.length).filter (fun i => match cands[i]? with
    | some c => c.keyed && !c.filteredOut && !c.lost
    | none => false)
  (List.range (max 1 (cdiv h.dim segLen))).flatMap (fun sg => live.flatMap (fun i =>
    (if sg = 0 then [] else [Fetch.spill i sg]) ++ (segGranules h sg).map (fun g => Fetch.record i sg g)))

/-- The segment of a fetch. -/
def Fetch.seg : Fetch → Nat
  | .spill _ sg => sg
  | .record _ sg _ => sg

/-- The candidate of a fetch. -/
def Fetch.cand : Fetch → Nat
  | .spill i _ => i
  | .record i _ _ => i

/-- Cycles a unit needs for a fetch (R267): the elements it completes at the rate of the format. -/
def fetchCc (h : Shelf) : Fetch → Nat
  | .spill _ _ => 0
  | .record _ seg g => cdiv (fetchTo h seg g - fetchFrom h seg g) (rerankRate h.elemFormat)

/-! ## The energy of pass work (R432) -/

/-- What the voice of a search has caused (R432): its granule fetches, near and far, and its unit cycles. -/
def State.voiceSpent (s : State) (h : Shelf) (v : Voice) : Nat :=
  let staged := fun (i : Nat) => ((v.cands[i]?).map (fun c => c.at_.staged)).getD false
  let fetch := fun (f : Fetch) => match f with
    | .record i _ _ =>
      if staged i then 8 * s.coeff .staging 0
      else if h.fullPlace = 2 then 256 * s.coeff .hostByte (s.linkSpeed h.ownerSeat) else s.coeff .granule 0
    | .spill _ _ => s.coeff .granule 0
  sumN ((v.plan.take v.issued).map fetch) + sumN ((v.plan.take v.consumed).map (fetchCc h)) * s.coeff .unit h.elemFormat +
    ((List.range v.keysIssued).filter (fun i => !staged i)).length * s.coeff .granule 0

/-- What a run has caused on this chip (R432): its engine cycles, of which the queries of its group bear equal parts (log entry 84), its table
fill, its voice, or the key reads of a search without one, and its equal share of the memory reads of its shelf's sweep. -/
def State.runSpent (s : State) (r : Run) : Nat :=
  match s.shelfAt? r.shelf with
  | none => 0
  | some h =>
    let its := itemsOf s.items h
    let riders := s.sweep.runs.filter (fun x => x.shelf == r.shelf && x.kind != 1)
    let mates := if r.kind = 0 then riders.filter (fun x => x.inGroup r.shelf (r.col / 64)) else [r]
    let steps := if r.kind = 0 then h.steps else if r.kind = 4 then projectSteps h.elemFormat h.dim else 0
    let fill := cdiv r.compared 64 * steps * s.coeff .fill (16 * h.sweepKind + h.elemFormat) / max 1 mates.length
    let tables := (its.filter Item.search).length * h.tableBytes
    let reads := if r.kind = 1 then 0 else (shelfBytes its h h.placed - tables) / 256 * s.coeff .granule 0 / max 1 riders.length
    let table := if r.kind = 0 then cdiv h.tableBytes 256 * s.coeff .tableLine 0 else 0
    let voice := match s.rr.voices.find? (fun v => v.cid == r.cid) with
      | some v => s.voiceSpent h v
      | none => if r.kind = 0 ∧ !h.voiced then (r.cands.filter (fun e => !e.at_.staged)).length * s.coeff .granule 0 else 0
    fill + reads + table + voice

/-- A query of this measure ends with OK_PARTIAL for lack of time (R86): the work it completed counts toward the admission factor of the next
measure (R69; log entry 75). -/
def State.markOverrun (s : State) (r : Run) : State :=
  (s.ev measEventOverrun).clkMap (fun k => { k with
    overrun := true, done := (k.done.1 + r.compared + r.reranked, k.done.2 + r.rows + r.handed), used := max k.used (k.now - s.windowEnd) })

/-- A voice's context is free again (R285). -/
def State.freeVoice (s : State) (cid : Nat) : State :=
  s.rrMap (fun r => { r with voices := r.voices.filter (fun v => v.cid != cid), queries := r.queries.filter (fun q => q.cid != cid) })

/-- RESULT_POST (R318, R386): the result record, then the completion record; the counts of the measure (R823). -/
def State.postResult (s : State) (cid : Nat) : State :=
  match s.cmd? cid, s.run? cid with
  | some c, some r =>
    match s.shelfAt? r.shelf with
    | none => s
    | some h =>
      if r.posted then s
      else
        let nq := normMag h.elemFormat h.dim (c.queryVec h)
        let st := r.status
        let body := if c.opcode = 0x18 then s.statsBytes h c r
          else ((r.final.zip (List.range r.final.length)).map (fun p => entryBytes h c nq p.2 p.1)).flatten
        let bytes := headerRecord h c r st s.measure ++ body
        let posts := !c.quiet && (s.fn c.seat).canPost
        let s := s.spend cid ((if s.sweep.plan.ids.contains cid then s.runSpent r else 0) +
          (if posts then bytes.length * s.coeff .hostByte (s.linkSpeed c.seat) else 0))
        let s := s.when (!c.quiet) (fun s => s.post c.seat c.resultAddr bytes true)
        let s := s.bump codaLastPostBytes 0 (bytes.length + 32)
        let s := s.when (decide (st = stPartial)) (fun s => (s.bump telPartialCount).when (!r.absent) (fun s => s.markOverrun r))
        let s := s.when (decide (st = stDegraded)) (fun s => s.bump telDegradedCount)
        let s := s.bumpSet telCovMinSweep 0 (min (s.tallied telCovMinSweep) r.sweepCover)
        let s := s.bumpSet telCovMinRerank 0 (min (s.tallied telCovMinRerank) r.rerankCover)
        let s := s.complete c st s.measure c.resultAddr (if c.opcode = 0x18 then 1 else r.final.length) true
        (s.runMap cid (fun r => { r with posted := true })).freeVoice cid
  | _, _ => s

/-! ## Final lists -/

/-- The final entry of a candidate (R300, R301, R306): its delivered value, after the fused step when there is one. -/
def finalOf (h : Shelf) (c : Cmd) (nq attr id : Nat) (sc : Score) : FinEnt :=
  if c.fused then
    let x : Dy := if h.finalOrder = .cosine then f32Val (f32Cos sc.dy ((f32Val nq).mul (f32Val sc.nx))) else sc.dy
    let f := fusedValue c.step c.tensor attr x
    ⟨id, ⟨f.m, f.e, 0⟩, true⟩
  else ⟨id, sc, false⟩

/-- The order in which final entries rank (R178, R248, R307); fused rows on a cosine shelf rank by F, larger nearer. -/
def finBefore (h : Shelf) (a b : FinEnt) : Bool :=
  let o := if a.fused ∧ h.finalOrder = .cosine then Order.larger else h.finalOrder
  rowBefore o a.score a.id b.score b.id

/-- An entry inserted into a final list of at most `k` (R301). -/
def finInsert (h : Shelf) (k : Nat) (e : FinEnt) (l : List FinEnt) : List FinEnt := (insertBy (finBefore h) e l).take k

/-- A run's final list or reduction is complete: its result is posted; on a chip in a weave the list is handed to the weave
instead (R318, R320). -/
def State.finishRun (s : State) (cid : Nat) : State :=
  let s := s.runMap cid (fun r => { r with finished := true })
  match s.run? cid with
  | some r => if r.inputs = 0 then s.postResult cid else s
  | none => s

/-! ## Background window and point reads -/

/-- The background window opens (R55): superseded entries (R468) and dropped shelves (R147) are released, and the point reads the budget held back
are served before any background work (R97). -/
def State.openBackground (s : State) : State :=
  if s.clk.bgOpen then s
  else (s.clkMap (fun k => { k with bgOpen := true })).freeSuperseded.releaseDropped.servePoints

/-- Every run of the pass is complete on this chip. -/
def State.passDone (s : State) : Bool := s.sweep.runs.all (fun r => r.finished)

/-- The re-rank phase ends when every run of the pass is complete. -/
def State.endRerank (s : State) : State :=
  if s.clk.phase = .rerank ∧ s.passDone then
    let s := s.bumpSet measLastUsedNs 0 ((s.clk.now - s.windowEnd) / 768)
    s.openBackground.clkMap (fun k => { k with phase := .tail })
  else s

/-! ## Coda finish (R294 to R297) and STATS -/

/-- The candidate set of a search from its cluster lists (R294): the rows kept, the key reads, the ties dropped by a cut, and
whether a tie's key could not be read. -/
def State.candidateSet (s : State) (h : Shelf) (c : Cmd) : List ClEnt × Nat × Nat × Bool :=
  let all := s.sweep.clusters.flatMap (fun k => match k.list? c.cid with | some l => l.better ++ l.band | none => [])
  let o := h.sweepOrder
  let idOf := fun (x : ClEnt) => if x.idKnown then x.id else s.idAt h x.at_
  let sorted := sortBy (fun (a b : ClEnt) => rowBefore o a.score (idOf a) b.score (idOf b)) all
  match sorted[c.cand - 1]? with
  | none => (sorted, 0, 0, false)
  | some e =>
    let strict := sorted.filter (fun x => nearer o x.score e.score)
    let ties := sorted.filter (fun x => tied o x.score e.score)
    let need := c.cand - strict.length
    if ties.length ≤ need then (strict ++ ties, 0, 0, false)
    else if s.sweep.bandCut then (strict, 0, ties.length, false)
    else
      let unread := ties.filter (fun x => !x.idKnown && !x.at_.staged)
      let bad := unread.filter (fun x => s.granuleLost (h.keyGranule x.at_.slab x.at_.row))
      let good := ties.filter (fun x => !bad.contains x)
      (strict ++ lowestIds need (s.withIds h good), unread.length, 0, !bad.isEmpty)

/-- The rows of a STATS view that can be read: sq_norm and sweep bytes (R312). -/
def State.statsRows (s : State) (h : Shelf) (key : Bool) : List (Nat × Bytes) :=
  let placed := (s.placedView h s.measure).filterMap (fun p =>
    let gs := if key then [h.keyGranule p.1 p.2] else h.rowGranules p.1 p.2
    if gs.any s.granuleLost then none else (h.row? p.1 p.2).map (fun r => (r.sqNorm, r.sweep)))
  placed ++ (s.stagedView h.index s.measure).map (fun e => (e.sqNorm, e.sweep))

/-- A STATS of kind COUNT, NORM or BITS reduced over its view (R309, R312). -/
def State.reduceStats (s : State) (h : Shelf) (c : Cmd) : State :=
  match c.statsKind with
  | 2 =>
    let rows := s.statsRows h true
    s.runMap c.cid (fun r => { r with compared := rows.length, degraded := r.degraded || decide (rows.length < r.rows)
                                      lanes := [rows.foldl (fun l x => laneAdd l (f32Val x.1)) laneNil] })
  | 3 =>
    let rows := s.statsRows h false
    let ones := (List.range h.bits).map (fun b => (rows.filter (fun x => (field x.2 (b / 8) 1).testBit (b % 8))).length)
    s.runMap c.cid (fun r => { r with compared := rows.length, degraded := r.degraded || decide (rows.length < r.rows), ones := ones })
  | 1 =>
    let gone := ((s.placedView h s.measure).filter (fun p => (h.rowGranules p.1 p.2).any (fun g => (s.channel (s.channelOf g)).faulted))).length
    s.runMap c.cid (fun r => { r with compared := r.rows - gone, degraded := r.degraded || decide (0 < gone) })
  | _ => s

/-- CODA_FINISH (R294, R295, R300): after the last tile has drained, each search's candidate set is formed and each STATS
reduced. -/
def State.codaFinish (s : State) : State :=
  if s.clk.phase ≠ .sweep ∨ !s.sweepDrained ∨ s.sweep.codaDone then s
  else
    let s := s.each s.items (fun s i =>
      if i.search then
        let (set, reads, dropped, bad) := s.candidateSet i.shelf i.cmd
        let s := (s.bump codaTieReadsCount 0 reads).bump strmGranulesCount 19 reads
        let s := s.when (decide (0 < dropped)) (fun s => s.ev codaEventBandCut)
        s.runMap i.cmd.cid (fun r => { r with
          cands := set, handed := set.length, compared := r.compared - dropped
          cutTime := r.cutTime || decide (0 < dropped), degraded := r.degraded || bad })
      else s.reduceStats i.shelf i.cmd)
    let s := s.measured codaFinishNs
    let s := s.sweepMap (fun w => { w with codaDone := true })
    s.each (s.items.filter (fun i => !i.search)) (fun s i => s.finishRun i.cmd.cid)

/-! ## Voices -/

/-- A voice by its command. -/
def State.voice? (s : State) (cid : Nat) : Option Voice := s.rr.voices.find? (fun v => v.cid == cid)

/-- A voice changed. -/
def State.voiceMap (s : State) (cid : Nat) (f : Voice → Voice) : State :=
  s.rrMap (fun r => { r with voices := updFirst (fun v => v.cid == cid) f r.voices })

/-- Landing slots in use: fetches in flight and granules not yet consumed (R272). -/
def State.landingUsed (s : State) : Nat := sumN (s.rr.voices.map (fun v => v.outstanding + v.landed.length))

/-! ## Spill slots (R239 to R241, R337) -/

/-- The spill area's device address. -/
def State.spillBase (s : State) : Nat := s.rd accSpillBaseLoAddr + 2 ^ 32 * s.rd accSpillBaseHiAddr

/-- The voice spills in compact form (R258). -/
def Voice.compact (v : Voice) : Bool := v.options.testBit 1

/-- The device address of candidate `j`'s spill word (R241). -/
def State.spillAddr (s : State) (v : Voice) (j : Nat) : Nat := s.spillBase + 32768 * v.ctx + (if v.compact then 4 else 8) * j

/-- The word spilled at an address before a segment. -/
def State.spilled? (s : State) (a seg : Nat) : Option Nat :=
  (s.rr.spill.find? (fun w => w.addr == a && w.seg == seg)).map (fun w => w.word)

/-- The words a voice has gathered written as one granule on SQ26 (R337); what lies after the last word of the granule is zero. -/
def State.spillFlush (s : State) (cid seg : Nat) : State :=
  match s.voice? cid with
  | none => s
  | some v =>
    match v.gather with
    | [] => s
    | w :: _ =>
      let s := s.rrMap (fun r => { r with
        spill := r.spill.filter (fun x => !(v.gather.any (fun p => p.1 == x.addr))) ++ v.gather.map (fun p => ⟨p.1, seg, p.2⟩) })
      (s.voiceMap cid (fun v => { v with gather := [] })).issueWrite 26 (w.1 / 256) (.spillOut cid)

/-- A candidate's word gathered at a boundary; a granule once full is written (R337). -/
def State.spillPut (s : State) (cid seg j word : Nat) : State :=
  match s.voice? cid with
  | none => s
  | some v =>
    let a := s.spillAddr v j
    let s := s.when (v.gather.any (fun p => p.1 / 256 != a / 256)) (fun s => s.spillFlush cid seg)
    let s := (s.voiceMap cid (fun v => { v with gather := v.gather ++ [(a, word)] })).bump
      (if v.compact then accSpillCompactCount else accSpillFullCount)
    s.when ((a + (if v.compact then 4 else 8)) % 256 == 0) (fun s => s.spillFlush cid seg)

/-! ## Fetches (R272 to R278) -/

/-- The far reads of a shelf can be issued (R274, R287). -/
def State.farOk (s : State) (h : Shelf) : Bool := (s.fn h.ownerSeat).canPost

/-- Far granule reads outstanding on the chip (R274). -/
def State.farOut (s : State) : Nat := (s.rr.reqs.filter (fun r => r.far && !r.returned)).length

/-- A far read is of a shelf whose home is the seat (R274, R287). -/
def State.homeIs (s : State) (seat : Nat) (r : Req) : Bool :=
  let homes := (s.store.shelves.filter (fun h => h.ownerSeat == seat)).map (fun h => h.index)
  r.far && r.clients.any (fun c => match c with
    | .record cid _ => (match s.run? cid with | some x => homes.contains x.shelf | none => false)
    | .slab k => s.store.journal.any (fun j => j.slot == k && homes.contains j.shelf)
    | _ => false)

/-- The far reads of a seat's shelves that are outstanding (R287). -/
def State.farOf (s : State) (seat : Nat) : List Req := s.rr.reqs.filter (fun r => !r.returned && s.homeIs seat r)

/-- Requests outstanding under a function's identity (R361): its far reads and its packets being read. Buffer reads issue their requests as tags
come free, which only delays them (log entry 51). -/
def State.tagsUsed (s : State) (seat : Nat) : Nat :=
  let f := s.fn seat
  sumN ((s.farOf seat).map (fun r => (f.reads 0 (match r.clients with | .slab _ :: _ => 4096 | _ => 256)).length)) +
    sumN ((s.host.sbqs.filter (fun q => q.fn == seat)).map (fun q => sumN (q.reading.map (fun n => (f.reads 0 (64 * n)).length))))

/-- A far read of a shelf finds fewer than 4,096 outstanding, and tags of its home's function (R274, R361). -/
def State.farRoom (s : State) (h : Shelf) : Bool :=
  decide (s.farOut < 4096) && decide (s.tagsUsed h.ownerSeat + ((s.fn h.ownerSeat).reads 0 256).length ≤ s.tagSpace h.ownerSeat)

/-- A candidate of a voice marked lost (R278): the search is degraded. -/
def State.loseCand (s : State) (cid i : Nat) : State :=
  (s.voiceMap cid (fun v => { v with cands := updAt i (fun c => { c with lost := true }) v.cands })).runMap cid
    (fun r => { r with degraded := true })

/-- A far read that cannot be issued fails at once (R287). -/
def State.issueFarLost (s : State) (c : Client) : State :=
  (s.issue 24 0 true true c).rrMap (fun r => { r with reqs := updFirst (fun q => q.clients == [c]) (fun q => { q with lost := true }) r.reqs })

/-- A record granule of a candidate issued (R265, R272 to R274, R277). -/
def State.issueRecord (s : State) (h : Shelf) (c : Cand) (g : Nat) (cl : Client) : State :=
  if c.at_.staged then s.issue 20 0 true false cl
  else if h.fullPlace = 2 then
    if s.farOk h then (s.issue 24 0 false true cl).readHost h.ownerSeat (h.farAddr c.at_.slab c.at_.row + 256 * g) 256
    else s.issueFarLost cl
  else s.issue 21 ((h.recGranules c.at_.slab c.at_.row).getD g 0) false false cl

/-- A fetch of a voice may be issued (R272, R274): it has fewer than 32 outstanding, a landing slot is free, a far read has
room, and a spill word has been written. -/
def State.mayFetch (s : State) (h : Shelf) (v : Voice) : Bool :=
  v.state != .done && v.state != .stopped && decide (v.outstanding < 32) && decide (s.landingUsed < 32768) &&
  (decide (v.keysIssued < v.cands.length) || (match v.plan[v.issued]? with
    | none => false
    | some (.spill i sg) => (s.spilled? (s.spillAddr v i) sg).isSome || ((v.cands[i]?).map (fun c => c.lost)).getD true
    | some (.record i _ _) => h.fullPlace != 2 || ((v.cands[i]?).map (fun c => c.at_.staged)).getD true || s.farRoom h))

/-- One fetch of a voice issued, if it may be (R272). -/
def State.issueOne (s : State) (cid : Nat) : State :=
  match s.voice? cid, (s.run? cid).bind (fun r => s.shelfAt? r.shelf) with
  | some v, some h =>
    if !s.mayFetch h v then s
    else if v.keysIssued < v.cands.length then
      match v.cands[v.keysIssued]? with
      | none => s
      | some c =>
        let s := s.issue 20 (h.keyGranule c.at_.slab c.at_.row) c.at_.staged false (.key cid v.keysIssued)
        let s := s.when (!c.at_.staged) (fun s => s.bump strmShortCount 20)
        s.voiceMap cid (fun v => { v with keysIssued := v.keysIssued + 1, nextCand := v.keysIssued + 1, outstanding := v.outstanding + 1 })
    else match v.plan[v.issued]? with
      | none => s
      | some f =>
        let s := match f with
          | .spill i _ => (s.issue 22 (s.spillAddr v i / 256) false false (.spill cid v.issued)).bump strmShortCount 22
          | .record i _ g => match v.cands[i]? with
            | none => s
            | some c => s.issueRecord h c g (.record cid v.issued)
        s.voiceMap cid (fun v =>
          let next := v.plan[v.issued + 1]?
          { v with issued := v.issued + 1, outstanding := v.outstanding + 1, nextCand := (next.map Fetch.cand).getD v.cands.length
                   nextGranule := match next with | some (.record _ _ g) => g | _ => 0 })
  | _, _ => s

/-- A voice's fetches issued up to its limit (R272). -/
def State.issueAll (s : State) (cid : Nat) : State := (List.range 32).foldl (fun s _ => s.issueOne cid) s

/-- The landing slots, or the far reads, are all in use: a voice may wait for another to free one (R272, R274). -/
def State.tight (s : State) : Bool :=
  decide (32768 ≤ s.landingUsed) || s.store.shelves.any (fun h => h.fullPlace == 2 && !s.farRoom h)

/-- Every voice issues what it may, in the order of the contexts. -/
def State.issueEvery (s : State) : State := s.each (s.rr.voices.map (fun v => v.cid)) State.issueAll

/-- The voice's next fetch is issued, and its granule lies in the landing buffer, or the staging buffer serves it (R268, R271). -/
def Voice.canRun (v : Voice) : Bool :=
  decide (v.consumed < v.issued) && (v.landed.contains v.consumed || (match v.plan[v.consumed]? with
    | some (.record i _ _) => ((v.cands[i]?).map (fun c => c.at_.staged)).getD false
    | _ => false))

/-- The CLK_CORE count at an instant, its low 32 bits (R258). -/
def ccAt (t : Nat) : Nat := t / 640 % 2 ^ 32

/-- A voice becomes ready (R271). -/
def Voice.readyFrom (t : Nat) (v : Voice) : Voice := { v with state := .ready, readySince := ccAt t, readyAt := t }

/-- A voice that is neither running nor done becomes ready when the granule it needs next is there (R271). -/
def State.makeReady (s : State) (cid : Nat) : State :=
  match s.voice? cid with
  | some v =>
    if (v.state = .fetching ∨ v.state = .waiting) ∧ v.canRun then s.voiceMap cid (Voice.readyFrom s.clk.now) else s
  | none => s

/-- A done or stopped voice's query vector leaves the query store (R257). -/
def State.dropQuery (s : State) (cid : Nat) : State := s.rrMap (fun r => { r with queries := r.queries.filter (fun q => q.cid != cid) })

/-- A voice whose plan is consumed becomes done: its final list is complete (R268, R318). -/
def State.voiceDone (s : State) (cid : Nat) : State :=
  match s.voice? cid with
  | some v =>
    if v.state ≠ .done ∧ v.state ≠ .stopped ∧ v.keysIssued = v.cands.length ∧ v.cands.all (fun c => c.keyed || c.lost) ∧
        v.plan.length ≤ v.consumed then
      let s := (s.voiceMap cid (fun v => { v with state := .done })).dropQuery cid
      let s := s.rrMap (fun r => { r with units := updAll (fun u => u.voice == some cid) (fun u => { u with voice := none }) r.units })
      let s := s.bumpSet voiLastRerankNs 0 ((s.clk.now - s.clk.sweepEnd) / 768)
      (s.finishRun cid).endRerank
    else s
  | none => s

/-- The key stage of one candidate (R263): id, norm and attribute word, then the filter. -/
def State.keyCand (s : State) (h : Shelf) (c : Cmd) (i : Nat) : State :=
  match (s.voice? c.cid).bind (fun v => v.cands[i]?) with
  | none => s
  | some x =>
    let key : Option (Nat × Nat × Nat) := if x.at_.staged then (s.entry? x.at_.slab).map (fun e => (e.id, e.attr, e.sqNorm))
      else (h.row? x.at_.slab x.at_.row).map (fun r => (r.id, r.attr, r.sqNorm))
    match key with
    | none => s.loseCand c.cid i
    | some (id, attr, nx) =>
      let pass := filterPass c.filter attr
      let s := s.voiceMap c.cid (fun v => { v with
        passed := if pass then v.passed + 1 else v.passed
        cands := updAt i (fun y => { y with keyed := true, filteredOut := !pass, id := id, attr := attr, sqNorm := nx }) v.cands })
      s.runMap c.cid (fun r => if pass then { r with passed := r.passed + 1 } else { r with reranked := r.reranked + 1 })

/-- The record stage planned once every key is in (R265). -/
def State.planRecords (s : State) (h : Shelf) (cid : Nat) : State :=
  match s.voice? cid with
  | some v =>
    if v.state = .keying ∧ v.cands.all (fun c => c.keyed || c.lost) ∧ v.keysIssued = v.cands.length then
      (((s.voiceMap cid (fun v => { v with state := .fetching, plan := fetchPlan h v.cands })).issueAll cid).makeReady cid).voiceDone cid
    else s
  | none => s

/-- The record bytes of a candidate. -/
def State.recordOf (s : State) (h : Shelf) (p : Place) : Bytes :=
  if p.staged then ((s.entry? p.slab).map (fun e => e.vec)).getD [] else ((h.row? p.slab p.row).map (fun r => r.record)).getD []

/-- The query vector of a voice, from the query store (R257). -/
def State.storedQuery (s : State) (cid : Nat) : Bytes := ((s.rr.queries.find? (fun q => q.cid == cid)).map (fun q => q.vec)).getD []

/-- A re-rank unit changed. -/
def State.unitMap (s : State) (u : Nat) (f : RUnit → RUnit) : State :=
  s.rrMap (fun r => { r with units := updAt u f r.units })

/-- A re-rank unit. -/
def State.unit (s : State) (u : Nat) : RUnit := s.rr.units.getD u unitReset

/-- A finished candidate sent to the chip coda (R228, R231, R265). -/
def State.sendCand (s : State) (h : Shelf) (c : Cmd) (i : Nat) (x : Cand) (nq : Nat) (g v : Int) : State :=
  let sc : Score := ⟨deliver h.distance g v nq x.sqNorm, g, if h.distance = 2 then x.sqNorm else 0⟩
  let s := s.voiceMap c.cid (fun y => { y with cands := updAt i (fun z => { z with reranked := true }) y.cands })
  s.runMap c.cid (fun r => { r with reranked := r.reranked + 1, final := finInsert h c.k (finalOf h c nq x.attr x.id sc) r.final })

/-- A record granule accumulated on unit `u` (R237, R238, R246): the elements it completes enter the accumulation; at the end of the record the
candidate is sent, at a segment's end it is spilled. -/
def State.accumulate (s : State) (u : Nat) (h : Shelf) (c : Cmd) (i seg gr : Nat) (x : Cand) : State :=
  let q := s.storedQuery c.cid
  let nq := normMag h.elemFormat h.dim q
  let g := gridExp h.distance (betaNorm nq) (betaNorm x.sqNorm)
  let a := if seg = 0 ∧ gr = 0 then ⟨0, g, 0, 0, 0, i⟩ else (s.unit u).acc
  let upTo := fetchTo h seg gr
  let r := accRange h.elemFormat h.dim g (image h.elemFormat h.dim q) (image h.elemFormat h.dim (s.recordOf h x.at_)) a.element upTo
    ⟨a.gridValue, a.groupSum, 0⟩
  let s := (s.unitMap u (fun y => { y with acc := { a with gridValue := r.v, groupSum := r.sum, element := upTo } })).bump accRerankInexactCount 0 r.inexact
  if h.dim ≤ upTo then s.sendCand h c i x nq g r.v
  else if upTo = segLen * (seg + 1) then
    let gen := ((s.run? c.cid).map (fun r => r.gen)).getD 0
    s.spillPut c.cid (seg + 1) i (spillStore c.compact gen x.id c.tag (seg + 1) r.v)
  else s

/-- A spill word restored into the accumulation of unit `u` before segment `seg` (R238, R239). -/
def State.restore (s : State) (u : Nat) (h : Shelf) (v : Voice) (i seg : Nat) (x : Cand) : State :=
  let g := gridExp h.distance (betaNorm (normMag h.elemFormat h.dim (s.storedQuery v.cid))) (betaNorm x.sqNorm)
  s.unitMap u (fun y => { y with acc := ⟨spillLoad v.compact ((s.spilled? (s.spillAddr v i) seg).getD 0), g, 0, segLen * seg, seg, i⟩ })

/-- The running voice's next fetch consumed on unit `u` (R237 to R239, R265); the words gathered are written at the end of a segment (R337). -/
def State.consume (s : State) (u cid : Nat) : State :=
  match s.voice? cid, s.cmd? cid, (s.run? cid).bind (fun r => s.shelfAt? r.shelf) with
  | some v, some c, some h =>
    let s := s.voiceMap cid (fun v => { v with consumed := v.consumed + 1, landed := v.landed.filter (fun x => x != v.consumed) })
    match v.plan[v.consumed]? with
    | none => s
    | some f =>
      let s := match v.cands[f.cand]? with
        | none => s
        | some x =>
          if x.lost then s
          else match f with
            | .record i seg gr => s.accumulate u h c i seg gr x
            | .spill i seg => s.restore u h v i seg x
      s.when (((v.plan[v.consumed + 1]?).map (fun n => n.seg != f.seg)).getD true) (fun s => s.spillFlush cid (f.seg + 1))
  | _, _, _ => s

/-! ## Re-rank units (R267 to R271, R280) -/

/-- One pick of the smooth weighted round robin of R441 among the sections that hold work. -/
def wrrPick (weight : Nat → Nat) (cur : List Int) (elig : List Nat) : Option (Nat × List Int) :=
  let total : Int := ((sumN (elig.map weight) : Nat) : Int)
  let add := (List.range 4).map (fun i => if elig.contains i then cur.getD i 0 + (weight i : Int) else 0)
  match elig with
  | [] => none
  | e :: es =>
    let best := es.foldl (fun b i => if add.getD b 0 < add.getD i 0 then i else b) e
    some (best, updAt best (fun x => x - total) add)

/-- The section weights in force (R443). -/
def State.weight (s : State) (i : Nat) : Nat :=
  match i with
  | 0 => s.inForce zcpSectionWeightW0 | 1 => s.inForce zcpSectionWeightW1 | 2 => s.inForce zcpSectionWeightW2
  | _ => s.inForce zcpSectionWeightW3

/-- A voice became ready before another (R280): the earlier ready_since, counted back from the present cycle; a tie goes to the lower context. -/
def State.readyBefore (s : State) (a b : Voice) : Bool :=
  let age := fun (v : Voice) => (ccAt s.clk.now + 2 ^ 32 - v.readySince) % 2 ^ 32
  decide (age b < age a) || (age a == age b && decide (a.ctx < b.ctx))

/-- The ready voice a unit takes next, and the credits after the pick (R280). -/
def State.pickVoice (s : State) (ready : List Voice) : Option (Voice × List Int) :=
  let first := fun (l : List Voice) => (sortBy s.readyBefore l).head?
  match first (ready.filter (fun v => v.section_ == 0)) with
  | some v => some (v, s.rr.cur)
  | none =>
    let elig := (List.range 4).filter (fun i => ready.any (fun v => v.section_ == i + 1))
    (wrrPick s.weight s.rr.cur elig).bind (fun p =>
      (first (ready.filter (fun v => v.section_ == p.1 + 1))).map (fun v => (v, p.2)))

/-- The voices that are ready. -/
def State.readyVoices (s : State) : List Voice := s.rr.voices.filter (fun v => v.state == .ready)

/-- The instant at which idle unit `u` can switch a voice in: when it stands and a voice is ready. -/
def State.switchAt (s : State) (u : Nat) : Option Nat :=
  match s.readyVoices.map (fun v => v.readyAt) with
  | [] => none
  | t :: ts => some (max (s.unit u).upto (ts.foldl min t))

/-- VOICE_SWITCH (R269, R280): unit `u` takes, at an instant, the voice placed first of those ready by then, and restores its accumulation; the
switch takes one cc. -/
def State.switchIn (s : State) (u at_ : Nat) : State :=
  match s.pickVoice (s.readyVoices.filter (fun v => decide (v.readyAt ≤ at_))) with
  | none => s
  | some (v, cur) =>
    let s := s.rrMap (fun r => { r with cur := cur })
    let s := s.voiceMap v.cid (fun v => { v with state := .running })
    (s.unitMap u (fun _ => ⟨some v.cid, at_ + 640, at_ + 640, v.acc⟩)).bump voiSwitchesCount

/-- Unit `u` leaves its voice, whose accumulation is saved in its context (R246, R269). -/
def State.switchOut (s : State) (u cid : Nat) : State :=
  (s.voiceMap cid (fun v => { v with acc := (s.unit u).acc })).unitMap u (fun y => { y with voice := none })

/-- The instant at which the next action of unit `u` ends: a switch-in, a fetch consumed, or a voice left for want of its next granule. -/
def State.unitNext (s : State) (u : Nat) : Option Nat :=
  let x := s.unit u
  match x.voice with
  | none => (s.switchAt u).map (fun t => t + 640)
  | some cid =>
    match s.voice? cid, (s.run? cid).bind (fun r => s.shelfAt? r.shelf) with
    | some v, some h => if v.canRun then some (x.upto + 640 * fetchCc h (v.plan.getD v.consumed (.spill 0 0))) else some x.upto
    | _, _ => some x.upto

/-- The next action of unit `u` (R268, R269). -/
def State.unitAct (s : State) (u : Nat) : State :=
  let x := s.unit u
  match x.voice with
  | none => match s.switchAt u with | some t => s.switchIn u t | none => s
  | some cid =>
    match s.voice? cid, (s.run? cid).bind (fun r => s.shelfAt? r.shelf) with
    | some v, some h =>
      if v.canRun then
        let cc := fetchCc h (v.plan.getD v.consumed (.spill 0 0))
        let full := s.tight
        let s := (((s.unitMap u (fun y => { y with upto := y.upto + 640 * cc })).bump voiUnitBusyCc u cc).consume u cid).issueAll cid
        (s.when full State.issueEvery).voiceDone cid
      else if v.state = .running then (s.voiceMap cid (fun v => { v with state := .waiting })).switchOut u cid
      else s.unitMap u (fun y => { y with voice := none })
    | _, _ => s.unitMap u (fun y => { y with voice := none })

/-- The unit whose next action ends first, the lowest-numbered of equals. -/
def State.nextUnit (s : State) : Option (Nat × Nat) :=
  (List.range 16).foldl (fun b u => match s.unitNext u, b with
    | none, _ => b
    | some t, none => some (u, t)
    | some t, some p => if t < p.2 then some (u, t) else b) none

/-- The units' work up to an instant, in the order in which their actions end; at most `fuel` actions. -/
def State.unitsRun : Nat → Nat → State → State
  | 0, _, s => s
  | k + 1, t, s =>
    match s.nextUnit with
    | none => s
    | some p => if t < p.2 then s else State.unitsRun k t ((s.clkMap (fun c => { c with now := max c.now p.2 })).unitAct p.1)

/-- The actions the units can have left: fetches to consume, switches and waits. -/
def State.unitFuel (s : State) : Nat := 64 + 4 * sumN (s.rr.voices.map (fun v => v.plan.length + 4))

/-- Time passes to the instant `t`: the re-rank units work until then. The clock never runs backwards. -/
def State.advance (s : State) (t : Nat) : State :=
  if t ≤ s.clk.now then s
  else (if s.clk.phase = .rerank then State.unitsRun s.unitFuel t s else s).clkMap (fun k => { k with now := max k.now t })

/-! ## Barrier, landing granules, slices -/

/-- The query vectors of the admitted searches with voices loaded into the query store (R256, R257; log entry 89). -/
def State.loadQueries (s : State) : State :=
  s.each (s.items.filter Item.voiced) (fun s i => s.rrMap (fun r =>
    if r.queries.any (fun q => q.cid == i.cmd.cid) then r
    else { r with queries := r.queries ++ [⟨i.cmd.cid, sumN (r.queries.map (fun q => cdiv q.vec.length 256)), i.cmd.fullQuery i.shelf⟩] }))

/-- The candidates of a run as a voice receives them (R261). -/
def candNew (e : ClEnt) : Cand := ⟨e.at_, e.score, false, false, false, false, e.id, 0, 0⟩

/-- A voice context that is free (R258). -/
def voiceFree (ctx : Nat) : Voice :=
  { ctx := ctx, cid := 0, state := .free, section_ := 0, seat := 0, tag := 0, shelf := 0, candBase := 0, cands := [], passed := 0, querySlot := 0
    k := 0, options := 0, outstanding := 0, acc := accNil, nextCand := 0, nextGranule := 0, readySince := 0, readyAt := 0, plan := []
    keysIssued := 0, issued := 0, consumed := 0, landed := [], gather := [] }

/-- A voice context by its number (R255, R258). -/
def State.context (s : State) (ctx : Nat) : Voice := (s.rr.voices.find? (fun v => v.ctx == ctx)).getD (voiceFree ctx)

/-- A run's voice created at the barrier (R254, R262), its fetches issued. -/
def State.startVoice (s : State) (h : Shelf) (c : Cmd) (cands : List ClEnt) : State :=
  let ctx := ((List.range 16384).find? (fun i => (s.context i).state == .free)).getD 0
  let v : Voice := { voiceFree ctx with
    cid := c.cid, state := .keying, section_ := c.cls, seat := c.seat, tag := c.tag, shelf := h.index
    candBase := sumN (s.rr.voices.map (fun v => v.cands.length)), cands := cands.map candNew
    querySlot := ((s.rr.queries.find? (fun q => q.cid == c.cid)).map (fun q => q.slot)).getD 0, k := c.k
    options := (if c.exact then 1 else 0) + (if c.compact then 2 else 0) + (if h.fullPlace = 2 then 4 else 0) }
  let s := s.rrMap (fun r => { r with voices := r.voices ++ [v] })
  (s.issueAll c.cid).planRecords h c.cid

/-- Key reads the chip coda has outstanding (R288). -/
def State.keysOut (s : State) : Nat := sumN (s.sweep.runs.map (fun r => r.keysLeft.length - r.keysWait.length))

/-- One more key read of a search without a voice (R300): the chip coda's key reader has at most 4,096 outstanding (R288). -/
def State.issueKey (s : State) (h : Shelf) (cid : Nat) : State :=
  match s.run? cid with
  | none => s
  | some r =>
    match r.keysWait.head?.bind (fun i => (r.cands[i]?).map (fun x => (i, x))) with
    | none => s
    | some (i, x) =>
      if 4096 ≤ s.keysOut then s
      else
        let s := s.runMap cid (fun r => { r with keysWait := r.keysWait.drop 1 })
        let s := s.issue 19 (h.keyGranule x.at_.slab x.at_.row) x.at_.staged false (.codaKey cid i)
        s.when (!x.at_.staged) (fun s => s.bump codaKeyReadsCount)

/-- The key reads of a search without a voice issued as far as the key reader has room. -/
def State.issueKeys (s : State) (h : Shelf) (cid : Nat) : State :=
  s.each (((s.run? cid).map (fun r => r.keysWait)).getD []) (fun s _ => s.issueKey h cid)

/-- The key reader, once a read is back, goes on with the searches that wait for it. -/
def State.nextKeys (s : State) : State :=
  s.each (s.sweep.runs.filter (fun r => !r.keysWait.isEmpty)) (fun s r => match s.shelfAt? r.shelf with
    | some h => s.issueKeys h r.cid
    | none => s)

/-- A search without a voice starts its key reads (R300). -/
def State.startKeys (s : State) (h : Shelf) (c : Cmd) (cands : List ClEnt) : State :=
  let idx := List.range cands.length
  let s := s.runMap c.cid (fun r => { r with keysLeft := idx, keysWait := idx })
  if cands = [] then s.finishRun c.cid else s.issueKeys h c.cid

/-- A search handed its candidates (R262, R300); one whose seat was reset gets no voice and ends with what its sweep found (R286, R393). -/
def State.handOver (s : State) (i : Item) (cands : List ClEnt) : State :=
  if i.cmd.quiet then s.finishRun i.cmd.cid
  else if i.voiced then s.startVoice i.shelf i.cmd cands
  else s.startKeys i.shelf i.cmd cands

/-- BARRIER (R354 step 6, R262, R356): quiesced, every voice is handed its list and the re-rank queues may issue. -/
def State.barrier (s : State) : State :=
  if s.clk.phase ≠ .sweep ∨ !s.sweep.codaDone ∨ s.rr.reqs.any (fun r => decide (r.sq ≤ 19) && !r.returned) then s
  else
    let s := s.clkMap (fun k => { k with phase := .rerank, sweepEnd := k.now })
    let s := s.measured strmBarrierNs
    let s := s.rrMap (fun r => { r with units := List.replicate 16 ⟨none, s.clk.now, s.clk.now, accNil⟩ })
    let its := s.items.filter (fun i => i.search && !((s.run? i.cmd.cid).map (fun r => r.finished)).getD true)
    let cands := fun (s : State) (i : Item) => ((s.run? i.cmd.cid).map (fun r => r.cands)).getD []
    let s := s.bumpSet voiLastVoicesCount 0 (its.filter Item.voiced).length
    let s := s.bumpSet voiLastCandsCount 0 (sumN (its.map (fun i => (cands s i).length)))
    let s := s.each its (fun s i => s.handOver i (cands s i))
    s.endRerank

/-- A key read of a search without a voice taken in (R300); after the last one its final list is complete. -/
def State.codaKey (s : State) (h : Shelf) (c : Cmd) (i : Nat) (lost : Bool) : State :=
  match (s.run? c.cid).bind (fun r => r.cands[i]?) with
  | none => s
  | some x =>
    let key : Option (Nat × Nat × Nat) := if lost then none
      else if x.at_.staged then (s.entry? x.at_.slab).map (fun e => (e.id, e.attr, e.sqNorm))
      else (h.row? x.at_.slab x.at_.row).map (fun r => (r.id, r.attr, r.sqNorm))
    let nq := normMag h.elemFormat h.dim (c.queryVec h)
    let s := s.runMap c.cid (fun r =>
      let r := { r with keysLeft := r.keysLeft.filter (fun j => j != i) }
      match key with
      | none => { r with degraded := true }
      | some (id, attr, _) =>
        let r := { r with reranked := r.reranked + 1 }
        if filterPass c.filter attr then
          { r with passed := r.passed + 1, final := finInsert h c.k (finalOf h c nq attr id x.score) r.final }
        else r)
    match s.run? c.cid with
    | some r => if r.keysLeft = [] then (s.nextKeys.finishRun c.cid).endRerank else s.nextKeys
    | none => s

/-- A fetched granule lands for one of its clients (R263, R271, R278, R279, R300): a lost one loses its candidate, and what a stopped voice had in
flight is dropped. -/
def State.landFor (s : State) (far lost : Bool) (cl : Client) : State :=
  let ctx := fun (cid : Nat) => (s.cmd? cid).bind (fun c => ((s.run? cid).bind (fun x => s.shelfAt? x.shelf)).map (fun h => (c, h)))
  let runs := fun (cid : Nat) => match s.voice? cid with | some v => v.state != .stopped && v.state != .done | none => false
  let less := fun (s : State) (cid : Nat) => s.voiceMap cid (fun v => { v with outstanding := v.outstanding - 1 })
  let ev := fun (s : State) => s.ev (if far then voiEventFarError else voiEventDeepError)
  match cl with
  | .key cid i =>
    match ctx cid with
    | some (c, h) =>
      if !runs cid then less s cid
      else
        let s := less s cid
        let s := if lost then (ev s).loseCand cid i else s.keyCand h c i
        (s.issueAll cid).planRecords h cid
    | none => s
  | .record cid i | .spill cid i =>
    if !runs cid then less s cid
    else
      let s := less s cid
      let s := s.when lost (fun s =>
        let s := match cl with | .spill _ _ => s.ev accEventSpillLost | _ => ev s
        match (s.voice? cid).bind (fun v => v.plan[i]?) with
        | some f => s.loseCand cid f.cand
        | none => s)
      (s.voiceMap cid (fun v => if i < v.consumed then v else { v with landed := v.landed ++ [i] })).makeReady cid
  | .codaKey cid i =>
    match ctx cid with
    | some (c, h) => s.codaKey h c i lost
    | none => s
  | _ => s

/-- GRANULE_LAND (R263, R271): a fetched granule that has returned lands for every client it was read for. -/
def State.granuleLand (s : State) (rid t : Nat) : State :=
  let s := s.advance t
  match s.rr.reqs.find? (fun r => r.rid == rid && r.returned) with
  | none => s
  | some r =>
    let full := s.tight
    let s := (s.dropReq rid).each r.clients (fun s c => s.landFor r.far r.lost c)
    let s := s.when full State.issueEvery
    if s.clk.phase = .rerank then State.unitsRun s.unitFuel s.clk.now s else s

/-- What a reset of its seat does to a search or STATS of the pass (R286, R393, R783): its voice stops and its context is free, its coda lists and
what it reads for itself are dropped, and it ends, posting nothing; one that is still swept runs on to the end of the drain. -/
def State.freeSearch (s : State) (c : Cmd) : State :=
  let s := (s.freeVoice c.cid).rrMap (fun r => { r with
    units := updAll (fun u => u.voice == some c.cid) (fun u => { u with voice := none, acc := accNil }) r.units
    reqs := dropClients (fun x => match x with
      | .key i _ | .record i _ | .spill i _ | .codaKey i _ => i == c.cid
      | _ => false) r.reqs })
  let s := s.sweepMap (fun w => { w with clusters := w.clusters.map (fun k => { k with lists := k.lists.filter (fun l => l.cid != c.cid) }) })
  let s := s.runMap c.cid (fun r => { r with cands := [], keysLeft := [], keysWait := [] })
  match s.run? c.cid with
  | some r => if s.clk.phase = .rerank ∧ !r.finished then s.finishRun c.cid else s
  | none => s

/-- VOICE_SLICE_EXPIRE (R268, R269): a voice that has run 4,096 cc gives its unit to a ready voice placed ahead of it. -/
def State.sliceExpire (s : State) (u t : Nat) : State :=
  let s := s.advance t
  match s.rr.units[u]? with
  | none => s
  | some x =>
    match x.voice.bind s.voice? with
    | none => s
    | some v =>
      let v' : Voice := { v.readyFrom s.clk.now with acc := x.acc }
      match s.pickVoice (s.readyVoices ++ [v']) with
      | some (w, _) =>
        if 4096 * 640 ≤ s.clk.now - x.since ∧ w.cid ≠ v.cid then
          ((s.voiceMap v.cid (fun _ => v')).unitMap u (fun y => { y with voice := none })).switchIn u s.clk.now
        else s
      | none => s

/-! ## The end of the foreground -/

/-- FOREGROUND_END (R53, R82, R279): every unfinished voice stops and its search completes; the background window opens. -/
def State.foregroundEnd (s : State) : State :=
  if s.clk.phase = .idle ∨ s.clk.phase = .tail then s.advance s.fgEnd |>.openBackground
  else
    let s := s.advance s.fgEnd
    let cut := s.sweep.runs.filter (fun r => !r.finished)
    let s := s.when (s.rr.voices.any (fun v => v.state != .done && v.state != .stopped)) (fun s =>
      (s.ev voiEventStopped).bumpSet voiLastRerankNs 0 ((s.clk.now - s.clk.sweepEnd) / 768))
    let s := s.rrMap (fun r => { r with
      voices := updAll (fun v => v.state != .done) (fun v => { v with state := .stopped, landed := [], gather := [], acc := accNil }) r.voices
      units := r.units.map (fun u => { u with voice := none, acc := accNil }), queries := [] })
    let s := s.loseTiles (((s.sweep.work ++ s.sweep.queues.flatMap (fun q => q.todo)) ++ s.reissuedHeld).filter (fun t => t.reissue))
    let s := s.sweepMap (fun w => { w with
      work := [], clusters := w.clusters.map (fun _ => clusterNil), queues := w.queues.map (fun q => { q with todo := [] })
      engines := w.engines.map (fun e => { e with slots := [], computing := none, groups := [], tacet := true }) })
    let s := s.each cut (fun s r => (s.runMap r.cid (fun r => { r with cutTime := true })).finishRun r.cid)
    let s := s.when (!cut.isEmpty) (fun s => s.bumpSet measLastUsedNs 0 ((s.clk.now - s.windowEnd) / 768))
    (s.openBackground).clkMap (fun k => { k with phase := .tail })

/-- POSTING_RESERVE_END (R390): every pending completion interrupt is sent. -/
def State.reserveEndAct (s : State) : State :=
  let s := s.advance s.reserveEnd
  s.each s.host.cpqs (fun s c => s.sendPending c.fn c.q)

/-- COAL_TIMER (R390): the coalescing time of a completion queue has passed since its oldest pending record. -/
def State.coalTimer (s : State) (fn q t : Nat) : State :=
  let s := s.advance t
  let time := s.rdw hstCpqCoalTime fn q
  let c := s.cpq fn q
  if time ≠ 0 ∧ 0 < c.pend ∧ c.oldest + ns (100 * time) ≤ s.clk.now then s.sendPending fn q else s

end Sys2Proof.Machine
end

