-- ==== Sys2Proof/Machine/Slab.lean ====
section
/-!
DEFINITION. The placer and the compactor (chapter 11, sections 4 and 5): which slab operation comes next, what it writes at its
commit, its journal slot, its rollback and recovery, the directory's edits, and settle waits.
-/
namespace Sys2Proof.Machine

/-! ## The directory (R119, R120) -/

/-- A live entry put into an id's probe chain. -/
def State.dirAdd (s : State) (h : Shelf) (id slab row : Nat) : State :=
  s.storeMap (fun t => { t with dir := dirInsert (dirBuckets t.shelves) h.handle t.dir id h.index slab row })

/-- The live entry of a position changed. -/
def State.dirAt (s : State) (shelf slab row : Nat) (f : DirEnt → DirEnt) : State :=
  s.storeMap (fun t => { t with dir := updFirst (fun e => e.shelf == shelf && e.slab == slab && e.row == row && e.state == .live) f t.dir })

/-! ## Settle waits (R475 to R477) -/

/-- Entries have reached the store, or never will: every wait drops them. -/
def State.reached (s : State) (hs : List Nat) : State :=
  s.hostMap (fun h => { h with cmds := h.cmds.map (fun c => { c with waits := c.waits.filter (fun w => !hs.contains w) }) })

/-- Staging entries freed (R475, R480). -/
def State.freeEntries (s : State) (hs : List Nat) : State :=
  s.storeMap (fun t => { t with staging := t.staging.filter (fun e => !hs.contains e.handle) })

/-- The settle waiter flag set on entries (R476, R477). -/
def State.flagSettle (s : State) (hs : List Nat) : State :=
  s.storeMap (fun t => { t with staging := updAll (fun e => hs.contains e.handle) (fun e => { e with settle := true }) t.staging })

/-- Entries that have not reached the store (R475): unplaced inserts that are not superseded, and kills whose tombstone bit is
not written. -/
def StgEnt.unsettled (e : StgEnt) : Bool := if e.kill then !e.tombWritten else !e.superseded

/-- SETTLED_COMPLETION (R476, R477): a settle mutation or SETTLE none of whose entries is awaited completes with OK; a mutation
with its commit measure. -/
def State.settledCompletion (s : State) (cid : Nat) : State :=
  match s.cmd? cid with
  | some c =>
    if c.stage = .settling ∧ c.waits = [] then
      s.complete c stOk (if isMutation c.opcode then c.target else s.measure) 0 0 true
    else s
  | none => s

/-! ## Which operation comes next (R479, R482 to R488) -/

/-- A slab is owned by an operation in progress (R483). -/
def State.owned (s : State) (shelf slab : Nat) : Bool :=
  s.store.journal.any (fun j => j.shelf == shelf && (j.target == slab || (j.op == .move && j.source == slab)))

/-- A place, move or trim of the shelf is in progress (R483). -/
def State.endBusy (s : State) (shelf : Nat) : Bool := s.store.journal.any (fun j => j.shelf == shelf && j.op != .mark)

/-- An entry is held by an operation in progress. -/
def State.entryHeld (s : State) (h : Nat) : Bool := s.store.journal.any (fun j => j.entries.contains h)

/-- The slab of a shelf, empty where it has none. -/
def Shelf.slab (h : Shelf) (j : Nat) : Slab := h.slabs.getD j ⟨0, 0, 0, 0, 0, []⟩

/-- The shelf takes no place or move for want of its far store (R487). -/
def State.farHeld (s : State) (h : Shelf) : Bool := h.fullPlace == 2 && !(s.fn h.ownerSeat).canPost

/-- Granules an operation reads (R887): those it does not supply whole, the slab headers and the source rows. -/
def opReads (h : Shelf) (j : Journal) : List Nat :=
  let part := fun (slab : Nat) (rows : List Nat) =>
    (rows.flatMap (fun r => h.rowGranules slab r)) ++ rows.map (fun r => h.keyGranule slab r)
  let header := fun (slab : Nat) => (h.keyBase + slab * 2304) / 256
  let src := (List.range j.rows).map (fun i => j.sourceRow + i)
  (match j.op with
  | .place => if j.firstRow = 0 then [] else header j.target :: part j.target ((List.range j.rows).map (fun i => j.firstRow + i))
  | .mark => [header j.target]
  | .trim => [header j.target]
  | .move => header j.target :: header j.source :: part j.source src ++ part j.target j.holes ++
      src.flatMap (fun r => h.recGranules j.source r)).eraseDups

/-- The lowest free journal slot (R489). -/
def State.freeJournal (s : State) : Option Nat :=
  (List.range 16).find? (fun k => !(s.store.journal.any (fun j => j.slot == k)))

/-- The marks of a shelf among some kill entries, one for each slab in the order of its first entry (R479). -/
def State.marksOf (s : State) (h : Shelf) (es : List StgEnt) : List Journal :=
  let es := es.filter (fun e => e.kill && e.shelf == h.index && !e.tombWritten && !s.entryHeld e.handle && !s.owned h.index e.slab)
  (es.map (fun e => e.slab)).eraseDups.map (fun j =>
    let here := (es.filter (fun x => x.slab == j)).take 64
    let b := h.slab j
    ⟨0, 1, .mark, h.index, j, (here.map (fun x => x.row)).headD 0, here.length, 0, 0, b.tomb, h.slabs.length, h.tailFill, (b.opSeq + 1) % 2 ^ 32, 0,
      here.map (fun x => x.handle), 0, s.clk.now, []⟩)

/-- An insert entry may be placed (R485): it is not superseded, and every kill of its id with an order no higher is written. -/
def State.placeable (s : State) (e : StgEnt) : Bool :=
  !e.kill && !e.superseded && !s.entryHeld e.handle &&
  s.store.staging.all (fun k => !(k.kill && k.shelf == e.shelf && k.id == e.id && !later k.order e.order) || k.tombWritten)

/-- A place into the tail of a shelf (R479, R485 to R487) of some of its entries, in commit order: staging lists them so. -/
def State.placeOf (s : State) (h : Shelf) (es : List StgEnt) : Option Journal :=
  let es := es.filter (fun e => e.shelf == h.index && s.placeable e)
  let new := h.slabs.isEmpty || h.tailFill == 64
  let slab := if new then h.slabs.length else h.slabs.length - 1
  let first := if new then 0 else h.tailFill
  let n := min es.length (64 - first)
  if n = 0 ∨ s.endBusy h.index ∨ s.farHeld h ∨ (new && decide (h.capacity ≤ slab)) ∨ s.owned h.index slab then none
  else
    some ⟨0, 1, .place, h.index, slab, first, n, 0, 0, (h.slab slab).tomb, slab + 1, first + n, ((h.slab slab).opSeq + 1) % 2 ^ 32, 0,
      (es.take n).map (fun x => x.handle), 0, s.clk.now, []⟩

/-- The marked rows at the end of a slab's filled rows. -/
def endMarked (tomb : Nat) : Nat → Nat
  | 0 => 0
  | n + 1 => if tomb.testBit n then endMarked tomb n + 1 else 0

/-- A row can be read whole: no slab operation has met one of its sweep, key or record granules as uncorrectable (R887). -/
def Shelf.rowReadable (h : Shelf) (slab row : Nat) : Bool :=
  (h.rowGranules slab row ++ h.keyGranule slab row :: h.recGranules slab row).all (fun g => !h.held.contains g)

/-- The rows at the end of a slab that can be moved: unmarked, readable, and with no kill entry that waits for its mark (R488, R887). -/
def State.endLive (s : State) (h : Shelf) (slab : Nat) : Nat → Nat
  | 0 => 0
  | n + 1 => if (h.slab slab).tomb.testBit n || s.killedNow h.index slab n || !h.rowReadable slab n then 0 else s.endLive h slab n + 1

/-- The move of the last rows of a shelf into the marked positions of slab `t`, if there is one (R479, R488): positions whose granules cannot be
read are passed over (R887). -/
def State.moveOf (s : State) (h : Shelf) (b : Slab) (t : Nat) : Option Journal :=
  let last := h.slabs.length - 1
  let live := s.endLive h last b.fill
  let part := fun (r : Nat) => (h.rowGranules t r ++ [h.keyGranule t r]).all (fun g => !h.held.contains g)
  let holes := (setBits 64 (h.slab t).tomb).filter (fun r => part r && (t != last || decide (r < b.fill - live)))
  let fit := fun (n : Nat) => t != last || (holes.take n).all (fun r => decide (r < b.fill - n))
  let n := ((List.range (min holes.length live + 1)).filter fit).foldl max 0
  if n = 0 then none
  else
    let left := b.fill - n
    some ⟨0, 1, .move, h.index, t, holes.headD 0, n, last, left, (h.slab t).tomb, if left = 0 then last else last + 1,
      if left = 0 then (if last = 0 then 0 else 64) else left, ((h.slab t).opSeq + 1) % 2 ^ 32, (b.opSeq + 1) % 2 ^ 32, [], 0, s.clk.now, holes.take n⟩

/-- The trim of a shelf, or the moves it could have, one for each slab with marked positions (R479, R487, R488). -/
def State.compactOf (s : State) (h : Shelf) : List Journal :=
  match h.slabs.getLast? with
  | none => []
  | some b =>
    let last := h.slabs.length - 1
    let m := endMarked b.tomb b.fill
    if s.endBusy h.index ∨ s.owned h.index last then []
    else if 0 < m then
      let left := b.fill - m
      [⟨0, 1, .trim, h.index, last, left, m, 0, 0, b.tomb, if left = 0 then last else last + 1,
        if left = 0 then (if last = 0 then 0 else 64) else left, (b.opSeq + 1) % 2 ^ 32, 0, [], 0, s.clk.now, []⟩]
    else if s.farHeld h then []
    else ((List.range h.slabs.length).filter (fun j => (h.slab j).tomb != 0 && !s.owned h.index j)).filterMap (s.moveOf h b)

/-- The candidates for the next operation in the order of R484; staging lists its entries in the order of their commits. -/
def State.slabCandidates (s : State) : List Journal :=
  let hs := s.store.shelves.filter (fun h => !h.lost && !h.dropping)
  let waiters := s.store.staging.filter (fun e => e.settle)
  let first := (waiters.filter StgEnt.unsettled).map (fun e => e.shelf)
  let byCommit := first.eraseDups.filterMap (fun i => hs.find? (fun h => h.index == i))
  let settle := byCommit.flatMap (fun h => s.marksOf h waiters ++ (s.placeOf h waiters).toList)
  let marks := hs.flatMap (fun h => s.marksOf h s.store.staging)
  let places := hs.filterMap (fun h => s.placeOf h s.store.staging)
  settle ++ marks ++ places ++ hs.flatMap s.compactOf

/-- The worst-case time of an operation (R482). -/
def State.journalTime (s : State) (j : Journal) : Rat :=
  match s.shelfAt? j.shelf with | none => 0 | some h => s.opTime j.op h j.rows

/-- An operation reads no granule that a slab operation has met as uncorrectable (R887). -/
def State.readable (s : State) (j : Journal) : Bool :=
  match s.shelfAt? j.shelf with | none => false | some h => (opReads h j).all (fun g => !h.held.contains g)

/-- A slab changed. -/
def State.slabMap (s : State) (shelf slab : Nat) (f : Slab → Slab) : State :=
  s.shelfMap shelf (fun h => { h with slabs := updAt slab f h.slabs })

/-- The writer code of an operation (R117). -/
def writerOf : SlabOp → Nat
  | .place => 1 | .mark => 1 | .move => 2 | .trim => 2

/-- A granule read of an operation issued: SQ28 for the placer, SQ29 for the compactor (R481). -/
def State.issueSlab (s : State) (j : Journal) (g : Nat) (far : Bool) : State :=
  s.issue (if writerOf j.op = 1 then 28 else 29) g false far (.slab j.slot)

/-- The writer field of a slab that an operation takes (R118): that of a slab the shelf has, or of the one a place starts. -/
def State.setWriter (s : State) (shelf slab code : Nat) : State :=
  s.shelfMap shelf (fun h =>
    if slab < h.slabs.length then { h with slabs := updAt slab (fun b => { b with writer := code }) h.slabs }
    else { h with opening := if code = 0 then none else some ⟨0, 0, 0, code, 0, []⟩ })

/-- SLAB_OP_START (R482 to R490): in the background window the next operation that can end at least 2,000 ns before the next
downbeat opens its journal slot, takes its slabs and issues its reads. -/
def State.slabOpStart (s : State) : State :=
  if !s.clk.bgOpen then s
  else
    let s := s.when (s.store.shelves.any (fun h => s.farHeld h &&
      s.store.staging.any (fun e => e.shelf == h.index && s.placeable e))) (fun s => s.ev stgEventFarHeld)
    match s.freeJournal, s.slabCandidates.find? (fun j => s.readable j && s.opFits (s.journalTime j)) with
    | some k, some j =>
      match s.shelfAt? j.shelf with
      | none => s
      | some h =>
        let gs := opReads h j
        let far := if j.op = .move ∧ h.fullPlace = 2 then j.rows else 0
        let j := { j with slot := k, startAt := s.clk.now, reads := gs.length + far }
        let s := s.storeMap (fun t => { t with
          busyFrom := if t.journal = [] then s.clk.now else t.busyFrom, journal := t.journal ++ [j] })
        let s := s.setWriter j.shelf j.target (writerOf j.op)
        let s := s.when (j.op == .move) (fun s => s.setWriter j.shelf j.source 2)
        let s := s.each gs (fun s g => s.issueSlab j g false)
        s.each (List.range far) (fun s i => (s.issueSlab j 0 true).readHost h.ownerSeat (h.farAddr j.source (j.sourceRow + i)) h.recSize)
    | _, _ => s

/-! ## Commit and rollback (R480, R489 to R491, R887) -/

/-- The operation of a journal slot. -/
def State.journal? (s : State) (k : Nat) : Option Journal := s.store.journal.find? (fun j => j.slot == k)

/-- A journal slot freed; the time with an operation in progress is counted when the last one ends. -/
def State.closeJournal (s : State) (k : Nat) : State :=
  let s := s.storeMap (fun t => { t with journal := t.journal.filter (fun j => j.slot != k) })
  let s := s.rrMap (fun r => { r with reqs := dropClients (fun c => c == .slab k) r.reqs })
  if s.store.journal = [] then s.bump stgBgUsedNs 0 ((s.clk.now - s.store.busyFrom) / 768) else s

/-- A slab's header after a commit (R118): the generation in force, the operation counted, no writer. -/
def Slab.stamp (gen : Nat) (b : Slab) : Slab := { b with writer := 0, gen := gen, opSeq := (b.opSeq + 1) % 2 ^ 32 }

/-- A staged entry as a row of a slab (R115, R123, R134). -/
def rowOf (h : Shelf) (e : StgEnt) : Row :=
  ⟨e.id, true, false, e.attr, e.sqNorm, e.rowGen, e.sweep, if h.voiced then padTo h.recSize e.vec else []⟩

/-- A commit's rows of a far-store shelf written to the host (R124, R481). -/
def State.writeFar (s : State) (h : Shelf) (slab first : Nat) (rows : List Row) : State :=
  if h.fullPlace = 2 then
    s.each (rows.zip (List.range rows.length)) (fun s p => s.post h.ownerSeat (h.farAddr slab (first + p.2)) p.1.record)
  else s

/-- The commit of a place. A slab begun again after an earlier one of its number emptied counts its operations from 0 (DESIGN CHOICE, log entry
78: R117 does not say whether the count of the slab that is gone goes on). -/
def State.commitPlace (s : State) (h : Shelf) (j : Journal) : State :=
  let es := j.entries.filterMap s.entry?
  let rows := es.map (rowOf h)
  let grow := fun (b : Slab) => Slab.stamp h.gen { b with fill := j.firstRow + j.rows, rows := b.rows ++ rows }
  let s := s.shelfMap h.index (fun x =>
    if j.target < x.slabs.length then { x with slabs := updAt j.target grow x.slabs }
    else { x with slabs := x.slabs ++ [grow ⟨0, 0, 0, 0, 0, []⟩], opening := none })
  let s := s.writeFar h j.target j.firstRow rows
  let s := s.each (es.zip (List.range es.length)) (fun s p => s.dirAdd h p.1.id j.target (j.firstRow + p.2))
  ((s.freeEntries j.entries).reached j.entries).bump stgPlacedRows 0 j.rows

/-- The commit of a mark. -/
def State.commitMark (s : State) (h : Shelf) (j : Journal) : State :=
  let rows := (j.entries.filterMap s.entry?).map (fun e => e.row)
  let s := s.slabMap h.index j.target (fun b => Slab.stamp h.gen { b with tomb := setTomb b.tomb rows })
  let s := s.each rows (fun s r => s.dirAt h.index j.target r (fun e => { e with state := .erased }))
  let s := s.storeMap (fun t => { t with
    staging := updAll (fun e => j.entries.contains e.handle) (fun e => { e with tombWritten := true }) t.staging })
  (s.reached j.entries).bump stgMarkedRows 0 j.rows

/-- The kill entries of some positions freed, whose rows no longer count against the capacity (R141, R154). -/
def State.freeKills (s : State) (shelf slab : Nat) (rows : List Nat) : State :=
  let hs := (s.store.staging.filter (fun e => e.kill && e.shelf == shelf && e.slab == slab && rows.contains e.row)).map (fun e => e.handle)
  (s.freeEntries hs).shelfMap shelf (fun h => { h with counted := h.counted - rows.length })

/-- The last `n` rows of the last slab removed, and the slab with them when it empties. -/
def Shelf.dropRows (h : Shelf) (n : Nat) : Shelf :=
  match h.slabs.getLast? with
  | none => h
  | some b =>
    let left := b.fill - n
    if left = 0 then { h with slabs := h.slabs.dropLast }
    else
      let cut := clearTomb b.tomb ((List.range n).map (fun i => left + i))
      { h with slabs := updAt (h.slabs.length - 1) (fun b => Slab.stamp h.gen { b with fill := left, rows := b.rows.take left, tomb := cut }) h.slabs }

/-- The commit of a move. -/
def State.commitMove (s : State) (h : Shelf) (j : Journal) : State :=
  let holes := j.holes
  let src := ((h.slab j.source).rows.drop j.sourceRow).take j.rows
  let moved := (holes.zip src).zip (List.range j.rows)
  let s := s.each moved (fun s p =>
    let r := { p.1.2 with moved := true }
    let s := s.slabMap h.index j.target (fun b => { b with rows := updAt p.1.1 (fun _ => r) b.rows })
    let s := s.when (h.fullPlace == 2) (fun s => s.post h.ownerSeat (h.farAddr j.target p.1.1) r.record)
    s.dirAt h.index j.source (j.sourceRow + p.2) (fun e => { e with slab := j.target, row := p.1.1 }))
  let s := s.slabMap h.index j.target (fun b => { b with tomb := clearTomb b.tomb holes })
  let s := s.when (j.target != j.source) (fun s => s.slabMap h.index j.target (Slab.stamp h.gen))
  let s := s.shelfMap h.index (fun x => x.dropRows j.rows)
  (s.freeKills h.index j.target holes).bump stgMovedRows 0 j.rows

/-- The commit of a trim. -/
def State.commitTrim (s : State) (h : Shelf) (j : Journal) : State :=
  let s := s.shelfMap h.index (fun x => x.dropRows j.rows)
  (s.freeKills h.index j.target ((List.range j.rows).map (fun i => j.firstRow + i))).bump stgMovedRows 0 j.rows

/-- The rows an operation writes at its target: slab and row. -/
def Journal.rowsWritten (j : Journal) : List Nat :=
  match j.op with
  | .place => (List.range j.rows).map (fun i => j.firstRow + i)
  | .move => j.holes
  | _ => []

/-- Granules an operation writes (R490): rows, key entries, records and slab headers. -/
def opWrites (h : Shelf) (j : Journal) : List Nat :=
  let header := fun (slab : Nat) => (h.keyBase + slab * 2304) / 256
  header j.target :: (if j.op = .move then [header j.source] else []) ++
  j.rowsWritten.flatMap (fun r => h.rowGranules j.target r ++ h.keyGranule j.target r :: h.recGranules j.target r)

/-- Granules an operation supplies whole (R887): the records of the rows it writes, and every granule of a slab it starts. -/
def opHeals (h : Shelf) (j : Journal) : List Nat :=
  j.rowsWritten.flatMap (fun r => h.recGranules j.target r) ++
  (if j.op = .place ∧ j.firstRow = 0 then h.sweepGranules j.target ++ granulesOf (h.keyBase + j.target * 2304) 2304 else [])

/-- Granules written whole: they read as written from now on (R560, R887). -/
def State.heal (s : State) (shelf : Nat) (gs : List Nat) : State :=
  let s := s.memMap (fun m => { m with channels := m.channels.map (fun c => { c with bad := c.bad.filter (fun g => !gs.contains g) }) })
  s.shelfMap shelf (fun h => { h with held := h.held.filter (fun g => !gs.contains g) })

/-- PLACE, MARK, MOVE, TRIM: the operation of a journal slot commits, if it is of that kind, its reads have
all returned and no channel it writes to has faulted (R563). -/
def State.slabCommit (s : State) (op : SlabOp) (slot : Nat) : State :=
  match s.journal? slot with
  | some j =>
    match s.shelfAt? j.shelf with
    | some h =>
      if j.op ≠ op ∨ j.reads ≠ 0 ∨ (opWrites h j).any (fun g => (s.channel (s.channelOf g)).faulted) then s
      else
        let s := match op with
          | .place => s.commitPlace h j
          | .mark => s.commitMark h j
          | .move => s.commitMove h j
          | .trim => s.commitTrim h j
        (s.closeJournal slot).heal h.index (opHeals h j)
    | none => s
  | none => s

/-- The jstate 1 recovery of an operation (R491): nothing it wrote stands, and its writer fields are cleared. -/
def State.undoSlab (s : State) (j : Journal) : State :=
  let s := s.setWriter j.shelf j.target 0
  let s := s.when (j.op == .move) (fun s => s.setWriter j.shelf j.source 0)
  s.closeJournal j.slot

/-- A downbeat ends every slab operation (R92, R482): those whose reads have all returned commit, and one that still waits for a read, which a start
under R482 excludes, is undone (log entry 77). -/
def State.endSlabOps (s : State) : State :=
  let s := s.each s.store.journal (fun s j => s.slabCommit j.op j.slot)
  s.each s.store.journal State.undoSlab

/-- SLAB_OP_ROLLBACK (R887): an operation that must read an uncorrectable granule is undone, and the granule is held. -/
def State.slabRollback (s : State) (slot granule : Nat) : State :=
  match s.journal? slot with
  | none => s
  | some j =>
    let s := s.undoSlab j
    (s.shelfMap j.shelf (fun h => { h with held := granule :: h.held.filter (fun g => g != granule) })).ev stgEventOpLost

/-- A read of an operation has returned. -/
def State.slabRead (s : State) (slot : Nat) : State :=
  s.storeMap (fun t => { t with journal := updFirst (fun j => j.slot == slot) (fun j => { j with reads := j.reads - 1 }) t.journal })

/-- Journal recovery (R491): every open operation is undone. -/
def State.recover (s : State) : State :=
  if s.store.journal = [] then s else (s.each s.store.journal State.undoSlab).ev stgEventRecovered

/-- A rebuilt kill entry: its commit measure, its handle, and its shelf, slab, row and id. It commits in the measure in force, so that it masks its
position for every later pass, and takes the order number 0 (DESIGN CHOICE, log entry 79: R143 gives a rebuilt entry neither). -/
def killOf (m : Nat) (p : Nat × (Nat × Nat × Nat × Nat)) : StgEnt :=
  ⟨p.1, p.2.1, p.2.2.2.2, true, false, true, false, 1, m, none, 0, 0, p.2.2.1, p.2.2.2.1, 0, [], [], 0, 0⟩

/-- Kill entries rebuilt from the tombstone words (R143); staged inserts are gone, and count no more against a capacity (R154). -/
def State.rebuildKills (s : State) : State :=
  let kills := s.store.shelves.flatMap (fun h => (List.range h.slabs.length).flatMap (fun j =>
    (setBits 64 (h.slab j).tomb).map (fun r => (h.index, j, r, ((h.row? j r).map (fun x => x.id)).getD 0))))
  s.storeMap (fun t => { t with staging := ((List.range kills.length).zip kills).map (killOf s.measure), nextHandle := kills.length
                                shelves := t.shelves.map (fun h => { h with counted := h.placed }) })

end Sys2Proof.Machine
end

