-- ==== Sys2Proof/Machine/Gddr.lean ====
section
/-!
DEFINITION. Graphics memory (chapter 13): granule reads and their checks, channel faults, refresh, scrub, retraining, the layout
change and the re-lay.
-/
namespace Sys2Proof.Machine

/-! ## Channel faults (R562, R563, R569, R570) -/

/-- Channels that would stay active with these mapped out: trained, not faulted, not mapped out (R569), their number being what R570 compares
with 12. -/
def State.wanted (s : State) (mapout : Nat) : List Nat :=
  (List.range 24).filter (fun h => !mapout.testBit h && (s.channel h).trained && !(s.channel h).faulted)

/-- The granules a pass command reads of a row of its view: its key entry for NORM, its record for PROJECT, its sweep row else (R312). -/
def Run.rowGranules (r : Run) (h : Shelf) (p : Nat × Nat) : List Nat :=
  if r.kind = 2 then [h.keyGranule p.1 p.2] else if r.kind = 4 then h.recGranules p.1 p.2 else h.rowGranules p.1 p.2

/-- A channel's fault ends what a pass command had of the rows on it (R89): with rows of its view there the command is degraded, and rows already
compared no longer count. -/
def State.loseRows (s : State) (k : Nat) : State :=
  let on := fun (r : Run) (h : Shelf) (p : Nat × Nat) =>
    (r.rowGranules h p).any (fun g => s.channelOf g == k) && !(r.rowGranules h p).any (fun g => s.channelOf g != k && (s.channel (s.channelOf g)).faulted)
  s.runsMap (fun _ => true) (fun r => match s.shelfAt? r.shelf with
    | none => r
    | some h =>
      let gone := (s.placedView h s.measure).filter (on r h)
      let had := (gone.filter (fun p => r.tiles.any (fun t => t.1 == p.1 && t.2.testBit p.2))).length
      { r with degraded := r.degraded || !gone.isEmpty, compared := r.compared - had })

/-- A channel faults (R89, R563): it accepts no request, and with auto_mapout its bit of GDM_MAPOUT is set where R570 allows. -/
def State.channelFault (s : State) (h code detail : Nat) : State :=
  if (s.channel h).faulted then s
  else
    let s := (s.loseRows h).channelMap h (fun c => { c with faulted := true }) |>.ev gdmEventFault
    let m := s.rd gdmMapoutChannels
    let s := s.when (s.rd gdmCtrlAutoMapout == 1 && decide (12 ≤ (s.wanted (m ||| 2 ^ h)).length)) (fun s =>
      (s.wr gdmMapoutChannels 0 (m ||| 2 ^ h)).alertOn)
    s.logError 3 2 h code detail

/-- CHANNEL_FAULT (R562): a device of a channel stops answering its identity or temperature read. -/
def State.deviceSilent (s : State) (h device : Nat) : State :=
  if s.live && (s.channel h).trained then s.channelFault h 11 (2 * h + device) else s

/-! ## Errors of a granule read (R558 to R560) -/

/-- A granule above the hashed reserve: a shelf array or the directory (R548). -/
def State.inStoreArea (s : State) (g : Nat) : Bool := decide (hashedReserve s.active.length ≤ g * 256)

/-- Repetitions of a transfer counted (R558). -/
def State.crcRetry (s : State) (h n : Nat) : State :=
  s.when (decide (0 < n)) (fun s => (s.inc gdmCrcRetryCount h n).ev gdmEventCrcRetry)

/-- An uncorrectable granule counted (R560), and the channel's fault at the sixteenth within 1,000 measures (R562). -/
def State.uncorrectable (s : State) (h g : Nat) (system : Bool) : State :=
  let s := ((s.inc gdmUeCount h).ev gdmEventUe).wr gdmUeLastLoGranule 0 g
  let s := (s.wr gdmUeLastHiChannel 0 h).wr gdmUeLastHiSystem 0 (if system then 1 else 0)
  let old := (s.channel h).ueLog.filter (fun p => p.1 != g && decide ((s.measure + 2 ^ 32 - p.2) % 2 ^ 32 < 1000))
  let log := (g, s.measure) :: old
  let keep := !system && s.inStoreArea g && !(s.channel h).bad.contains g
  let s := s.channelMap h (fun c => { c with ueLog := log, bad := if keep then c.bad ++ [g] else c.bad })
  s.when (decide (16 ≤ log.length)) (fun s => s.channelFault h 9 g)

/-- A granule read checked (R558 to R563): whether it is lost. `crc` repetitions were needed, 4 when all of them failed; `ecc` is
1 for a corrected error and 2 for an uncorrectable one. -/
def State.checkGranule (s : State) (h g crc ecc : Nat) (system : Bool) : State × Bool :=
  if (s.channel h).faulted then (s, true)
  else
    let s := s.crcRetry h (min crc 3)
    if 4 ≤ crc then (s.channelFault h 8 g, true)
    else if ecc = 2 ∨ (!system && (s.channel h).bad.contains g) then (s.uncorrectable h g system, true)
    else (s.when (ecc == 1) (fun s => (s.inc gdmCeCount h).ev gdmEventCe), false)

/-! ## A granule read returns (R559, R560) -/

/-- Rows of a tile whose bytes lie in a granule (R340). -/
def Shelf.rowsIn (h : Shelf) (t : Tile) (g : Nat) : List Nat :=
  (List.range 64).filter (fun r => let x := h.tileRange t r; decide (x.1 < 256 * (g + 1) ∧ 256 * g < x.1 + x.2))

/-- A tile granule delivered, or lost with the rows that lie in it, at every engine that holds the tile (R338, R340). -/
def State.tileGranule (s : State) (g tid i : Nat) (lost : Bool) : State :=
  match (s.sweep.engines.flatMap (fun e => e.slots)).find? (fun t => t.tid == tid) with
  | none => s
  | some t =>
    let rows := match s.shelfAt? t.shelf with | none => [] | some h => h.rowsIn t g
    let fix := fun (t : Tile) => { t with waiting := t.waiting.filter (fun w => w != i), live := if lost then clearTomb t.live rows else t.live }
    let s := s.sweepMap (fun w => { w with engines := w.engines.map (fun e => { e with slots := updAll (fun t => t.tid == tid) fix e.slots }) })
    s.when lost (fun s => (s.ev strmEventGranuleLost).runsMap (Run.rides { t with only := none }) (fun x => { x with degraded := true }))

/-- A distance-table granule delivered through the table cache (R348, R349); where it is lost, the search whose table slot holds it completes with
HW_FAULT. -/
def State.tableGranule (s : State) (g k : Nat) (lost : Bool) : State :=
  let s := s.tableLanded k
  if !lost then s
  else match s.host.cmds.find? (fun c => c.tableSlot == some (g * 256 / 65536)) with
    | none => s
    | some c => (s.runMap c.cid (fun r => { r with finished := true, posted := true, degraded := true })).complete c stHwFault s.measure 0 0 false

/-- The vector id an error record of a lost re-rank granule names: that of the candidate where it is known. -/
def State.candId (s : State) : Client → Nat
  | .key cid i => ((s.voice? cid).bind (fun v => v.cands[i]?)).elim 0 (fun c => c.id)
  | .record cid i | .spill cid i =>
    ((s.voice? cid).bind (fun v => (v.plan[i]?).bind (fun f => v.cands[f.cand]?))).elim 0 (fun c => c.id)
  | .codaKey cid i => ((s.run? cid).bind (fun r => r.cands[i]?)).elim 0 (fun c => c.id)
  | _ => 0

/-- A granule that has returned given to one of its clients (R340, R348, R560, R887); key, record and spill granules wait for their
GRANULE_LAND. -/
def State.giveClient (s : State) (h g : Nat) (lost : Bool) (cl : Client) : State :=
  let log := fun (s : State) (code detail : Nat) => s.when lost (fun s => s.logError 2 2 h code detail)
  match cl with
  | .tile tid i => log (s.tileGranule g tid i lost) 1 g
  | .table k => log (s.tableGranule g k lost) 1 g
  | .point cid _ =>
    let d := match s.cmd? cid with | some c => c.seat + 65536 * c.tag | none => 0
    log (s.pointPart cid lost) 3 d
  | .slab k => if lost then (log s 2 0).slabRollback k g else s.slabRead k
  | c => log s 2 (s.candId c)

/-- A far read has taken until now (R276): the longest of the measure is recorded, and one that took longer than VOI_FAR_LAT is reported. -/
def State.farTook (s : State) (r : Req) : State :=
  let t := s.clk.now - r.issued
  let s := s.bumpSet voiFarLatMaxNs 0 (max (s.tallied voiFarLatMaxNs) (t / 768))
  s.when (decide (ns (s.inForce voiFarLatNs) < t)) (fun s => s.ev voiEventFarSlow)

/-- The granule goes to a voice or to the chip coda, which takes it when it lands. -/
def Client.lands : Client → Bool
  | .key _ _ | .record _ _ | .spill _ _ | .codaKey _ _ => true
  | _ => false

/-- GDDR_READ_RETURN of a stream or point request (R550, R551, R558 to R560): an entry of its channel's reorder queue that may issue is read and
checked, and its granule given to its clients. A faulted channel fails every request (R563). -/
def State.readReturn (s : State) (rid crc ecc t : Nat) : State :=
  let s := s.advance t
  match s.rr.reqs.find? (fun r => r.rid == rid && !r.returned && !r.far && !r.write) with
  | none => s
  | some r =>
    let h := s.channelOf r.granule
    let s := State.fillQueue h 32 s
    match s.rr.reqs.find? (fun r => r.rid == rid) with
    | none => s
    | some r =>
      if !(s.channel h).faulted && (r.arr.isNone || !s.mayIssue h r) then s
      else
        let res := s.checkGranule h r.granule crc ecc false
        let lost := res.2
        let s := res.1.readIssued r
        let s := if r.clients.any Client.lands then s.reqMap rid (fun y => { y with lost := lost, retries := min crc 3 }) else s.dropReq rid
        s.each r.clients (fun s c => s.giveClient h r.granule lost c)

/-- GDDR_READ_RETURN of system granule `j` (R545, R560): an uncorrectable primary is read from its mirror and rewritten. -/
def State.systemReturn (s : State) (j crc ecc t : Nat) : State :=
  let s := s.advance t
  let h := (systemCopies s.active j).1.1
  let res := s.checkGranule h j crc ecc true
  res.1.when res.2 (fun s => s.logError 2 2 h 4 j)

/-! ## Refresh, scrub, retraining (R561, R564 to R568) -/

/-- PER_BANK_REFRESH (R564): a bank's refresh is issued, or postponed, up to eight times, while the bank has queued requests. -/
def State.perBankRefresh (s : State) (h bank : Nat) (postpone : Bool) : State :=
  let c := s.channel h
  let n := c.postponed.getD bank 0
  let busy := s.rr.reqs.any (fun r => !r.returned && !r.far && !r.staging && s.channelOf r.granule == h &&
    (granuleSlot (hashGranule s.active r.granule).2).1 == bank)
  if postpone && busy && decide (n < 8) && c.trained && !c.faulted then
    s.channelMap h (fun c => { c with postponed := updAt bank (fun n => n + 1) (if c.postponed = [] then List.replicate 16 0 else c.postponed) })
  else s

/-- ALL_BANK_REFRESH (R565): in the background window, the postponed refreshes of a channel are caught up. -/
def State.allBankRefresh (s : State) (h t : Nat) : State :=
  let s := s.advance t
  if s.clk.bgOpen then s.channelMap h (fun c => { c with postponed := [] }) else s

/-- Granules of a channel that a scrub round reads. -/
def scrubTotal : Nat := 24379392

/-- A scrub round that runs longer than GDM_SCRUB.hours (R561). -/
def State.scrubLate (s : State) : State :=
  s.when (decide (ns (3600 * 1000000000 * s.rd gdmScrubHours) < s.clk.now - s.mem.scrubStart)) (fun s => s.ev gdmEventScrubBehind)

/-- The slab of a shelf array that a device granule lies in. -/
def State.slabOf (s : State) (g : Nat) : Option (Nat × Nat) :=
  let a := g * 256
  let within := fun (base size unit : Nat) => if base ≤ a ∧ a < base + size then some ((a - base) / max unit 1) else none
  s.store.shelves.findSome? (fun h =>
    ((within h.sweepBase (h.capacity * 64 * h.w) (64 * h.w)).or ((within h.keyBase (h.capacity * 2304) 2304).or
      (if h.fullPlace = 1 then within h.deepBase (h.capacity * 64 * h.recSize) (64 * h.recSize) else none))).map (fun j => (h.index, j)))

/-- The system granule that local granule `l` of the `k`-th of `c` active channels holds, as its primary or its mirror (R545). -/
def systemGranule (c k l : Nat) : Nat :=
  if l < 24346624 then (l - 24313856) * c + k else (l - 24346624) * c + (k + c - 1) % c

/-- SCRUB (R561): in the background window, one granule of a channel is read and checked; a granule of a slab that an operation
owns is skipped, and a corrected one of a shelf array or the directory is written back. -/
def State.scrub (s : State) (h l crc ecc t : Nat) : State :=
  let s := s.advance t
  let g := swizzle (l * s.active.length + s.active.idxOf h)
  let system := decide (hashedPerChannel ≤ l)
  let held := match s.slabOf g with | some p => !system && s.owned p.1 p.2 | none => false
  if !s.clk.bgOpen || !s.active.contains h || (s.channel h).faulted || s.inStep h || held then s
  else
    let res := s.checkGranule h (if system then systemGranule s.active.length (s.active.idxOf h) l else g) crc ecc system
    let s := res.1.when (!res.2 && ecc == 1 && !system && s.inStoreArea g) (fun s => s.writeBack h g)
    let s := s.channelMap h (fun c => { c with scrubbed := c.scrubbed + 1 })
    let s := s.scrubLate
    s.when (s.active.all (fun k => decide (scrubTotal ≤ (s.channel k).scrubbed))) (fun s =>
      s.memMap (fun m => { m with scrubStart := s.clk.now, channels := m.channels.map (fun c => { c with scrubbed := 0 }) }))

/-- Worst-case time of a retraining step, in ns (R567). -/
def retrainNs (k : Nat) : Nat := [1200, 6000, 6000, 4000].getD (k - 1) 6000

/-- A channel's retraining is due, or has begun (R567). -/
def State.retrainDue (s : State) (h : Nat) : Bool :=
  let c := s.channel h
  decide (0 < c.step) || decide (ns (1000000 * s.rd gdmRetrainInterval) ≤ s.clk.now - c.retrainAt) ||
  decide (s.rd gdmRetrainTempStep ≤ max c.temp c.retrainTemp - min c.temp c.retrainTemp)

/-- No channel of the clock group of channel `h` is in a retraining step (R567); CLK_GDM0 clocks CH0 to CH5, and so on (log entry 92). -/
def State.groupFree (s : State) (h : Nat) : Bool := (List.range 24).all (fun k => k / 6 != h / 6 || !s.inStep k)

/-- A retraining step of channel `h` begins; the time it takes is free within its worst case (R567; log entry 92). -/
def State.beginStep (s : State) (h k : Nat) : State :=
  (s.channelMap h (fun c => { c with stepEnd := s.clk.now + (Config.measured s.free).toNat % (ns (retrainNs k) + 1) })).tickFree

/-- RETRAIN_STEP (R567, R568): the next step of a due retraining runs in a background window it fits, while the channel's reorder queue is empty (the
channel takes no request during a step) and its clock group runs no other; a failed one is repeated in a later window, and a second failure faults
the channel. -/
def State.retrainStep (s : State) (h : Nat) (ok : Bool) (t : Nat) : State :=
  let s := s.advance t
  let c := s.channel h
  let k := c.step + 1
  if !s.clk.bgOpen || !c.trained || c.faulted || !(s.reorder h).isEmpty || !s.groupFree h || !s.retrainDue h || (decide (0 < c.stepFails) && c.failAt == s.measure) ||
      decide (s.clk.predicted < s.clk.now + ns (retrainNs k + 2000)) then s
  else
    let s := s.beginStep h k
    if ok then
      s.channelMap h (fun c =>
        if k = 4 then { c with step := 0, stepFails := 0, retrainAt := s.clk.now, retrainTemp := c.temp } else { c with step := k, stepFails := 0 })
    else if c.stepFails = 0 then s.channelMap h (fun c => { c with stepFails := 1, failAt := s.measure })
    else s.channelFault h 10 k

/-! ## Layout (R569 to R576, R849) -/

/-- The bases a full training and a layout change set (R549). -/
def State.setBases (s : State) : State :=
  let c := s.active.length
  let put := fun (s : State) (lo hi : Fld) (k : Nat) =>
    let a := (Config.baseAddr c k).toNat
    (s.wr lo 0 (a % 2 ^ 32)).wr hi 0 (a / 2 ^ 32)
  put (put (put s accSpillBaseLoAddr accSpillBaseHiAddr 0) stgImageBaseLoAddr stgImageBaseHiAddr 1)
    stgJournalBaseLoAddr stgJournalBaseHiAddr 2

/-- Every shelf becomes lost (R571, R572): arrays, directory, staged and kill entries end; settle waits complete with DEGRADED and
uncommitted mutations with HW_FAULT. -/
def State.loseShelves (s : State) : State :=
  let s := s.each s.store.shelves (fun s h =>
    if h.dropping then s
    else s.wr gdmLostShelves (h.index / 32) (s.rd gdmLostShelves (h.index / 32) ||| 2 ^ (h.index % 32)))
  let s := s.storeMap (fun t => { t with
    dir := [], staging := [], journal := []
    shelves := t.shelves.map (fun h => if h.dropping then h
      else { h with lost := true, slabs := [], opening := none, sweepBase := 0, keyBase := 0, deepBase := 0, held := [], counted := 0 }) })
  let s := s.rrMap (fun r => { r with reqs := dropClients (fun c => match c with | .slab _ => true | _ => false) r.reqs, spill := [] })
  s.each s.host.cmds (fun s c =>
    if c.stage = .settling then s.complete c stDegraded (if isMutation c.opcode then c.target else s.measure) 0 0 true
    else if isMutation c.opcode ∧ (c.stage = .waitGrant ∨ c.stage = .granted ∨ c.stage = .deferredCommit) then s.refuse c stHwFault
    else s)

/-- A layout takes effect on a set of channels: GDM_ACTIVE, the bases, and every shelf lost; the re-lay begins (R571, R573). -/
def State.newLayout (s : State) (set : List Nat) : State :=
  let s := s.wr gdmActiveChannels 0 (sumN (set.map (fun h => 2 ^ h)))
  let s := s.setBases.loseShelves
  let s := s.wr gdmStatusRelaying 0 1
  s.memMap (fun m => { m with relaying := true, belowMin := false })

/-- The layout downbeat (R569, R576, R849): a request is pending when an active channel is mapped out, or a channel that is neither
mapped out nor faulted is not active; fewer than 12 channels change nothing. -/
def State.layoutChange (s : State) : State :=
  let m := s.rd gdmMapoutChannels
  let new := s.wanted m
  let asked := s.active.any (fun h => m.testBit h) || new.any (fun h => !s.active.contains h)
  if asked ∧ 12 ≤ new.length then (s.wr gdmStatusBelowMin 0 0).newLayout new
  else s

/-- A MAP_IN of channel `h` that fails has no effect (R569): its bit of GDM_MAPOUT stands again. -/
def State.mapInFails (s : State) (h : Nat) (c : Cmd) : State :=
  (s.wr gdmMapoutChannels 0 (s.rd gdmMapoutChannels ||| 2 ^ h)).refuse c stHwFault

/-- The MAP_OUT and MAP_IN commands of channels completed at the end of a re-lay (R574), and MAP_IN of a channel that did not come
back completed with HW_FAULT (R569). -/
def State.finishPends (s : State) : State :=
  let mine := s.mem.pends.filter (fun p => p.kind == 1 || p.kind == 3)
  let s := s.memMap (fun m => { m with pends := m.pends.filter (fun p => !(p.kind == 1 || p.kind == 3)) })
  s.each mine (fun s p => match s.cmd? p.cid with
    | none => s
    | some c =>
      if p.kind = 3 ∧ !(s.active.contains p.index) then s.mapInFails p.index c
      else s.complete c stOk c.target 0 0 true)

/-- RELAY_END (R573, R574): fetching resumes, the layout's measure is shown, and the commands that asked for it complete. -/
def State.relayEnd (s : State) : State :=
  if !s.mem.relaying then s
  else
    let s := (s.wr gdmStatusRelaying 0 0).memMap (fun m => { m with relaying := false })
    let s := (s.ev gdmEventLayout).wr gdmLayoutMeasureMeasure 0 s.measure
    let s := s.logError 3 2 ((s.mem.pends.map (fun p => p.index)).headD 0) 12 s.measure
    s.finishPends

/-- CHANNEL_TRAINING_END (R849): the full training of a channel mapped in while below_min is 1 ends. -/
def State.channelTrained (s : State) (h : Nat) (ok : Bool) : State :=
  match s.mem.pends.find? (fun p => p.kind == 3 && p.index == h) with
  | some p =>
    if s.rd gdmStatusBelowMin ≠ 1 then s
    else if ok then s.channelMap h (fun c => { c with trained := true, faulted := false, retrainAt := s.clk.now, retrainTemp := c.temp, step := 0, stepFails := 0 })
    else
      let s := s.memMap (fun m => { m with pends := m.pends.filter (fun q => !(q.kind == 3 && q.index == h)) })
      let s := s.channelMap h (fun c => { c with faulted := true })
      match s.cmd? p.cid with
      | some c => s.mapInFails h c
      | none => s
  | none => s

end Sys2Proof.Machine
end

