-- ==== Sys2Proof/Machine/Mutation.lean ====
section
/-!
DEFINITION. Mutations (chapter 10, sections 5 and 6; chapter 11, sections 1, 2 and 4): reservations and their order, transfer-ready
grants, the record checks, the commit of a batch, settle waits, and staging waits that expire.
-/
namespace Sys2Proof.Machine

/-! ## Arbitration (R441, R442) -/

/-- The order in which smooth weighted round robin serves the lists of the sections W0 to W3 (R441). -/
def wrrOrder {α : Type} (weight : Nat → Nat) : Nat → List Int → List (List α) → List α
  | 0, _, _ => []
  | n + 1, cur, ls =>
    let elig := (List.range 4).filter (fun i => !(ls.getD i []).isEmpty)
    match wrrPick weight cur elig with
    | none => []
    | some (i, cur') =>
      match ls.getD i [] with
      | [] => []
      | x :: rest =>
        let cur' := if rest.isEmpty then updAt i (fun _ => 0) cur' else cur'
        x :: wrrOrder weight n cur' (updAt i (fun _ => rest) ls)

/-- Commands in the order of R441: section U in order, then W0 to W3 by the weights in force. -/
def State.sectionOrder (s : State) (cur : List Int) (l : List Cmd) : List Cmd :=
  l.filter (fun c => c.cls == 0) ++
    wrrOrder s.weight l.length cur ((List.range 4).map (fun i => l.filter (fun c => c.cls == i + 1)))

/-! ## Room (R461 to R463) -/

/-- The units a mutation reserves: insert region and kill region (R462). -/
def State.needs (s : State) (c : Cmd) : Nat × Nat :=
  match s.shelfOf? c.shelf with
  | none => (0, 0)
  | some h => (if c.opcode = 0x21 then 0 else c.batch * h.entryUnits, if c.opcode = 0x20 then 0 else c.batch)

/-- A reservation exceeds the whole size of its region (R463). -/
def State.neverFits (s : State) (n : Nat × Nat) : Bool :=
  let kill := s.inForce stgCtrlDeleteReserve * 32768
  decide (1572864 - kill < n.1) || decide (kill < n.2)

/-- Every condition of R434 but room holds of a waiting mutation. -/
def State.otherwiseFree (s : State) (c : Cmd) : Bool :=
  let before := (s.host.cmds.takeWhile (fun d => d.cid != c.cid)).any (fun d =>
    isMutation d.opcode && d.seat == c.seat && d.queue == c.queue && d.shelf == c.shelf && d.stage != .settling && d.stage != .duplicate)
  !before && (c.opcode == 0x21 || (decide ((s.host.grants.filter (fun g => g.2 == c.seat)).length < s.rd zcpGrantLimitSeat) &&
    decide (s.host.grants.length < s.rd zcpGrantLimitChip)))

/-- The first waiting mutation whose room fits, taken strictly in order separately in each region (R463). -/
def State.servable (s : State) : Bool → Bool → List Cmd → Option Cmd
  | _, _, [] => none
  | insBlocked, killBlocked, c :: l =>
    let n := if c.reserved = (0, 0) then s.needs c else (0, 0)
    if (!(insBlocked && n.1 != 0) && !(killBlocked && n.2 != 0)) && s.roomFor n.1 n.2 then some c
    else s.servable (insBlocked || n.1 != 0) (killBlocked || n.2 != 0) l

/-- The waiting mutations that lack nothing but room, in the order of R441. -/
def State.waitOrder (s : State) : List Cmd :=
  s.sectionOrder s.host.grantCur (s.host.cmds.filter (fun c => c.waiting && s.otherwiseFree c))

/-- The grant point's credits after a section is served (R441, R442). -/
def State.serveSection (s : State) (cls : Nat) : State :=
  if cls = 0 then s
  else
    let elig := ((List.range 4).filter (fun i => s.waitOrder.any (fun c => c.cls == i + 1)))
    let total : Int := sumN (elig.map s.weight)
    let cur := (s.host.grantCur.zip (List.range 4)).map (fun (p : Int × Nat) =>
      p.1 + (if elig.contains p.2 then (s.weight p.2 : Int) else 0) - (if p.2 + 1 = cls then total else 0))
    s.hostMap (fun h => { h with grantCur := cur })

/-! ## Completions of mutations -/

/-- The notice word of a mutation written (R435). -/
def State.noticeWord (s : State) (c : Cmd) (state : Nat) : State :=
  if c.noticeAddr = 0 ∨ c.opcode = 0x21 ∨ c.quiet then s
  else s.post c.seat c.noticeAddr (leBytes 2 c.tag ++ leBytes 1 state ++ zeros 1 ++ leBytes 4 c.seq ++ leBytes 4 s.measure ++ zeros 4)

/-- A mutation completed with STAGING_FULL (R463). -/
def State.stagingFull (s : State) (c : Cmd) : State := (s.ev stgEventStagingFull).refuse c stStagingFull

/-- The shelf a mutation may still act on (R147, R572): present, not dropping, not lost; otherwise the status it completes with. -/
def State.mutationShelf (s : State) (c : Cmd) : Except Nat Shelf :=
  match s.shelfOf? c.shelf with
  | none => .error stNoShelf
  | some h => if h.dropping then .error stNoShelf else if s.isHead then .ok h else if h.lost then .error stHwFault
    else if s.rd gdmStatusBelowMin = 1 then .error stHwFault else .ok h

/-! ## Record checks (R116, R170, R171, R420, R421, R437) -/

/-- Bytes of a vector or a direct row that hold values its format rejects, or a norm R171 rejects. -/
def badVector (fmt d distance : Nat) (bs : Bytes) : Bool :=
  match pathImage fmt d bs with
  | none => true
  | some _ =>
    let n := normMag fmt d bs
    decide (0x7F800000 ≤ n) || (distance == 2 && n == 0)

/-- A shelf keeps values R170 checks: full-precision vectors or direct rows. -/
def Shelf.hasValues (h : Shelf) : Bool := h.voiced || h.sweepKind == 3

/-- Two equal elements in a list. -/
def hasDup : List Nat → Bool
  | [] => false
  | x :: l => l.contains x || hasDup l

/-- The status of the record checks that need no store: padding and reserved ids, a repeated id, then the values. -/
def recordStatus (h : Shelf) (rs : List DataRec) : Nat :=
  if rs.any (fun r => !r.padOk || r.id == 0xFFFFFFFFFFFF) ∨ hasDup (rs.map (fun r => r.id)) then stBadParam
  else if h.hasValues && rs.any (fun r => badVector h.elemFormat h.dim h.distance (r.vecOf h)) then stBadFormat
  else stOk

/-! ## Commit (R465 to R468) -/

/-- A record to be committed: its id, and its data unless it is a DELETE's. -/
structure Rec where
  id : Nat
  data : Option DataRec
  deriving DecidableEq, Repr

/-- The commit must wait for a slab operation that holds an entry it supersedes or a row it kills (R468). -/
def State.heldBySlab (s : State) (shelf id : Nat) : Bool :=
  match s.stagedId? shelf id with
  | some e => s.entryHeld e.handle
  | none => match s.placedId? shelf id with
    | none => false
    | some d => s.store.journal.any (fun j => j.op == .move && j.shelf == shelf && j.source == d.slab &&
        decide (j.sourceRow ≤ d.row ∧ d.row < j.sourceRow + j.rows))

/-- The lowest free handle (R459). -/
def State.freeHandle (s : State) : Nat :=
  let used := s.store.staging.map (fun e => e.handle)
  ((List.range (used.length + 1)).find? (fun k => !used.contains k)).getD 0

/-- A staging entry superseded by a commit of measure `m` (R468): it has reached its end (R475), and its row counts no more. -/
def State.supersede (s : State) (e : StgEnt) (m : Nat) : State :=
  let gone := fun (x : StgEnt) => { x with superseded := true, endMeasure := some m }
  let s := s.storeMap (fun t => { t with staging := updFirst (fun x => x.handle == e.handle) gone t.staging })
  let s := (s.reached [e.handle]).shelfMap e.shelf (fun h => { h with counted := h.counted - 1 })
  s.when s.clk.bgOpen State.freeSuperseded

/-- A new entry put into the staging buffer, charged to its mutation (R432), and noted for its settle wait. -/
def State.putEntry (s : State) (e : StgEnt) : State :=
  let s := (s.storeMap (fun t => { t with staging := t.staging ++ [e] })).spend e.cid (e.units * s.coeff .staging 0)
  s.cmdMap e.cid (fun c => if e.settle then { c with waits := c.waits ++ [e.handle] } else c)

/-- One record committed with commit measure `m` (R465): its order number, the entry or position of its id removed, and its own entry made. -/
def State.commitRec (s : State) (shelf cid m : Nat) (settle : Bool) (r : Rec) : State :=
  match s.shelfAt? shelf with
  | none => s
  | some h =>
    let s := s.shelfMap shelf (fun h => { h with order := (h.order + 1) % 2 ^ 32 })
    let s := match s.stagedId? shelf r.id with
      | some e => s.supersede e m
      | none => match s.placedId? shelf r.id with
        | some d => s.putEntry ⟨s.freeHandle, shelf, r.id, true, false, false, settle, 1, m, none, h.order, 0, d.slab, d.row, 0, [], [], cid, 0⟩
        | none => s
    match r.data with
    | none => s
    | some d =>
      let s := s.shelfMap shelf (fun h => { h with counted := h.counted + 1 })
      let norm := if h.hasValues then normMag h.elemFormat h.dim (d.vecOf h) else 0
      s.putEntry ⟨s.freeHandle, shelf, r.id, false, false, false, settle, h.entryUnits, m, none, h.order, d.attr, 0, 0, norm,
        d.sweep, d.vec, cid, s.rowGen h m⟩

/-- A batch committed at this instant, in record order (R135, R421, R465): the shelf has committed in this measure (R131). -/
def State.commitRecs (s : State) (shelf cid m : Nat) (settle : Bool) (rs : List Rec) : State :=
  let s := (s.each rs (fun s r => s.commitRec shelf cid m settle r)).spend cid (rs.length * Config.perRecord)
  let s := s.shelfMap shelf (fun h => { h with committed := true })
  s.bumpSet stgPeakUnits 0 (max (s.tallied stgPeakUnits) (insertUnits s.store.staging + killUnits s.store.staging))

/-- The first record an INSERT may not commit because its id is present (R466). -/
def State.presentId? (s : State) (shelf : Nat) (rs : List Rec) : Option Nat :=
  (rs.find? (fun r => s.present shelf r.id)).map (fun r => r.id)

/-- A new id of the batch would raise the shelf's count above its capacity (R154, R467). The records count one by one: a row that replaces a
placed one counts beside it and is never refused, and one that replaces a staged one takes its place. -/
def State.overCapacity (s : State) (h : Shelf) (rs : List Rec) : Bool :=
  (rs.foldl (fun (acc : Nat × Bool) r =>
    if r.data.isNone ∨ (s.stagedId? h.index r.id).isSome then acc
    else if (s.placedId? h.index r.id).isSome then (acc.1 + 1, acc.2)
    else (acc.1 + 1, acc.2 || decide (64 * h.capacity ≤ acc.1))) (h.counted, false)).2

/-- The id that stopped an INSERT is shown (R466). -/
def State.showPresent (s : State) (id : Nat) : State :=
  ((s.ev stgEventIdPresent).wr stgPresentIdLoId 0 (id % 2 ^ 32)).wr stgPresentIdHiId 0 (id / 2 ^ 32)

/-- The completion of a committed mutation (R438, R474, R476): notice state 2, then the completion, or the settle wait. -/
def State.committed (s : State) (c : Cmd) : State :=
  let c := { c with waits := ((s.cmd? c.cid).map (fun x => x.waits)).getD [] }
  let s := s.noticeWord c 2
  if c.settleFlag && c.waits != [] then
    let s := s.hostMap (fun h => { h with grants := h.grants.filter (fun g => g.1 != c.cid) })
    let m := s.measure
    s.cmdMap c.cid (fun x => { x with stage := .settling, target := m, reserved := (0, 0) })
  else s.complete c stOk s.measure 0 0 true

/-- The commit of a mutation whose data has passed its checks: present ids, capacity, operations it must wait for, then the
batch (R465 to R468). At the head rim of a weave the two rounds of R624 begin instead. -/
def State.tryCommit (s : State) (c : Cmd) (h : Shelf) (rs : List Rec) : State :=
  if s.isHead then s.cmdMap c.cid (fun x => { x with stage := .remote })
  else if rs.any (fun r => s.heldBySlab h.index r.id) then s.cmdMap c.cid (fun x => { x with stage := .deferredCommit })
  else
    match (if c.opcode = 0x20 then s.presentId? h.index rs else none) with
    | some id => (s.showPresent id).refuse c stBadParam
    | none =>
      if s.overCapacity h rs then s.refuse c stStoreFull
      else (s.commitRecs h.index c.cid s.measure c.settleFlag rs).committed c

/-- The records of a mutation: those of its data buffer (held in its operands) or the ids of a DELETE. -/
def Cmd.records (c : Cmd) (h : Shelf) : List Rec :=
  if c.opcode = 0x21 then c.deleteIds.map (fun i => ⟨i, none⟩)
  else (List.range c.batch).map (fun i => let r := dataRec h c.operands i; ⟨r.id, some r⟩)

/-- The commits that waited for a slab operation go on once it has ended (R468). -/
def State.retryCommits (s : State) : State :=
  s.each (s.host.cmds.filter (fun c => c.stage == .deferredCommit)) (fun s c => match s.mutationShelf c with
    | .ok h => s.tryCommit c h (c.records h)
    | .error st => s.refuse c st)

/-! ## The rows -/

/-- INSERT and UPSERT (R434, R463): a batch that has passed intake waits for its grant. -/
def State.insertBegin (s : State) (c : Cmd) : State :=
  match s.mutationShelf c with
  | .error st => s.refuse c st
  | .ok _ => if s.neverFits (s.needs c) then s.stagingFull c else s.cmdMap c.cid (fun x => { x with stage := .waitGrant })

/-- DELETE (R462, R463, R465): kill room is reserved, and the batch commits unless an earlier mutation of its queue and shelf
stands before it. -/
def State.deleteBegin (s : State) (c : Cmd) : State :=
  match s.mutationShelf c with
  | .error st => s.refuse c st
  | .ok h =>
    let n := s.needs c
    let ahead := s.waitOrder.any (fun d => (s.needs d).2 != 0 && d.reserved == (0, 0))
    if s.neverFits n then s.stagingFull c
    else if s.roomFor 0 n.2 && !ahead then
      let s := s.cmdMap c.cid (fun x => { x with reserved := n, stage := .waitGrant })
      if s.otherwiseFree c then s.tryCommit { c with reserved := n } h (c.records h) else s
    else if s.inForce stgCtrlWaitMeasures = 0 then s.stagingFull c
    else s.cmdMap c.cid (fun x => { x with stage := .waitGrant })

/-- A grant (R434 to R436): the reservation made, notice state 1 written, and the data read issued, or failed at once without Bus
Master Enable (R394). -/
def State.grant (s : State) (c : Cmd) : State :=
  let c := { c with reserved := s.needs c }
  let s := s.cmdMap c.cid (fun x => { x with reserved := c.reserved, stage := .granted })
  let s := s.hostMap (fun h => { h with grants := h.grants ++ [(c.cid, c.seat)] })
  let s := s.noticeWord c 1
  if (s.fn c.seat).canPost then s.readHost c.seat c.dataAddr c.dataLen else s.refuse c stNoAccess

/-- TRANSFER_GRANT (R434, R441, R463): the next waiting mutation in order whose room fits is granted, or commits when it is a
DELETE; with wait_measures 0 one that does not fit completes with STAGING_FULL. -/
def State.transferGrant (s : State) : State :=
  let order := s.waitOrder
  match s.servable false false order with
  | some c =>
    let s := s.serveSection c.cls
    (match s.mutationShelf c with
    | .error st => s.refuse c st
    | .ok h =>
      if c.opcode = 0x21 then
        let n := s.needs c
        let s := s.cmdMap c.cid (fun x => { x with reserved := n })
        s.tryCommit { c with reserved := n } h (c.records h)
      else s.grant c)
  | none =>
    match order with
    | c :: _ => (match s.mutationShelf c with
      | .error st => s.refuse c st
      | .ok _ => if s.inForce stgCtrlWaitMeasures = 0 then s.stagingFull c else s)
    | [] => s

/-- INSERT_DATA_COMPLETE (R437, R438): the data of a granted batch has arrived, or its read has failed; it is checked and
committed. -/
def State.dataComplete (s : State) (c : Cmd) (ok : Bool) (data : Bytes) : State :=
  if !ok then s.refuse c stNoAccess
  else if crc32c data ≠ c.dataCrc then ((s.ev zcpEventCrc).inc zcpCrcErrorsCount).refuse c stCrc
  else match s.mutationShelf c with
    | .error st => s.refuse c st
    | .ok h =>
      let c := { c with operands := data }
      let s := (s.cmdMap c.cid (fun x => { x with operands := data })).spend c.cid (data.length * s.coeff .hostByte (s.linkSpeed c.seat))
      let rs := (List.range c.batch).map (dataRec h data)
      let st := recordStatus h rs
      if st ≠ stOk then s.refuse c st else s.tryCommit c h (rs.map (fun r => ⟨r.id, some r⟩))

/-- STAGING_WAIT_EXPIRE (R463): a mutation still waiting for room at its wait_measures-th downbeat completes with STAGING_FULL. -/
def State.stagingExpire (s : State) (cid : Nat) : State :=
  match s.cmd? cid with
  | some c =>
    let waited := (s.measure + 2 ^ 32 - c.intakeAt) % 2 ^ 32
    let fits := match s.servable false false (s.waitOrder.takeWhile (fun d => d.cid != cid) ++ [c]) with | some d => d.cid == cid | none => false
    if c.waiting && c.reserved == (0, 0) && s.otherwiseFree c && decide (s.inForce stgCtrlWaitMeasures ≤ waited) && !fits then
      (match s.mutationShelf c with | .error st => s.refuse c st | .ok _ => s.stagingFull c)
    else s
  | none => s

/-- SETTLE (R477): the unsettled entries of its scope are flagged and awaited. -/
def State.settleBegin (s : State) (c : Cmd) : State :=
  let all := field c.param 0 1 == 1
  let shelf := s.shelfOf? c.shelf
  let lost := match shelf with | some h => h.lost && !all | none => false
  if lost then s.refuse c stHwFault
  else
    let inScope := fun (e : StgEnt) => all || (match shelf with | some h => e.shelf == h.index | none => false)
    let hs := (s.store.staging.filter (fun e => inScope e && e.unsettled)).map (fun e => e.handle)
    if hs = [] then s.completeOk c 0 0
    else (s.flagSettle hs).cmdMap c.cid (fun x => { x with stage := .settling, waits := hs })

/-- A grant or a waiting mutation withdrawn (R440): its reservation and its window entry go, and it completes with `status`. -/
def State.withdraw (s : State) (c : Cmd) (status : Nat) : State :=
  let granted := s.host.grants.any (fun g => g.1 == c.cid)
  let s := s.when granted (fun s => ((s.inc zcpGrantsRevokedCount).ev zcpEventGrantRevoked).noticeWord c 3)
  s.refuse c status

end Sys2Proof.Machine
end

