-- ==== Sys2Proof/Machine/Queue.lean ====
section
/-!
DEFINITION. Queues, doorbells and packet fetches of the host link (chapter 09), the reset of a seat (R393, R538, R889), bus
mastering, D3hot and MSI-X masks.
-/
namespace Sys2Proof.Machine

/-! ## Doorbells (R380 to R383) -/

/-- A discarded doorbell (R382). -/
def State.badDoorbell (s : State) (fn : Nat) : State := (s.incw hstBadDoorbellCount fn).fevent hstFeventBadDoorbell fn

/-- Time from the pins to the admission queue (R383), in ns. -/
def State.bellNs (s : State) (fn : Nat) : Nat :=
  match s.host.ports[s.portOf fn]? with
  | some p => if p.flit || p.speed == 6 then 38 else 40
  | none => 38

/-- SQ_TAIL_DOORBELL (R380 to R383): a write of `v` to a tail doorbell, 32 bits wide when `wide`. -/
def State.tailBell (s : State) (fn q : Nat) (wide : Bool) (v t : Nat) : State :=
  let s := s.advance t
  let size := 2 ^ s.rdw hstSbqCtrlSizeLog2 fn q
  let x := s.sbq fn q
  let adv := (v + size - x.tail) % size
  if !(s.fn fn).enabled then s
  else if !wide || decide (65536 ≤ v) || s.rdw hstSbqCtrlEnable fn q == 0 || decide (size ≤ v) ||
      decide (size - 1 < (x.posted - x.fetched) + adv) then s.badDoorbell fn
  else if adv = 0 then s
  else s.sbqMap fn q (fun x => { x with
    tail := v, posted := x.posted + adv, bells := x.bells ++ [(x.posted + adv, s.clk.now + ns (s.bellNs fn))] })

/-- CQ_HEAD_DOORBELL (R375, R380, R382): the host returns the records before the new head. -/
def State.headBell (s : State) (fn q : Nat) (wide : Bool) (v t : Nat) : State :=
  let s := s.advance t
  let size := 2 ^ s.rdw hstCpqCtrlSizeLog2 fn q
  let x := s.cpq fn q
  let freed := (v + size - x.head) % size
  if !(s.fn fn).enabled then s
  else if !wide || decide (65536 ≤ v) || s.rdw hstCpqCtrlEnable fn q == 0 || decide (size ≤ v) || decide (x.written < freed) then s.badDoorbell fn
  else s.cpqMap fn q (fun x => { x with head := v, written := x.written - freed })

/-! ## Packet fetch (R371 to R376, R405) -/

/-- Flits of a packet whose header declares a length: one where the length is out of range (R406 step 1). -/
def flitsOf (len : Nat) : Nat := if 32 ≤ len ∧ len ≤ 4096 then cdiv len 64 else 1

/-- Bytes of intake storage in use (R405): packets and operands of fetched commands, packets being read, and the searches a head rim
has forwarded to this member (R620). -/
def State.intakeUsed (s : State) : Nat :=
  sumN (s.host.cmds.map (fun c => 32 + c.param.length + c.opRoom)) + sumN (s.host.sbqs.map (fun q => 64 * sumN q.reading)) +
  sumN ((s.weave.fans.filter (fun f => f.cid == 0)).map (fun f => f.packet.length + f.operands.length + f.table.length))

/-- A command that waits for intake storage at step 12 (R405). -/
def Cmd.waitsRoom (c : Cmd) : Bool := c.stage == .operands && c.opRoom == 0

/-- A packet or a command's operands find no room in the intake storage (R405). -/
def State.intakeWait (s : State) : State :=
  (s.ev zcpEventIntakeWait).hostMap (fun h => { h with intakeFrom := some (h.intakeFrom.getD s.clk.now) })

/-- The wait for intake storage counted up to now (R405); it goes on where `more` is set. -/
def State.countIntake (s : State) (more : Bool) : State :=
  match s.host.intakeFrom with
  | none => s
  | some w => (s.bump zcpIntakeWaitNsNs 0 ((s.clk.now - w) / 768)).hostMap (fun h => { h with intakeFrom := if more then some s.clk.now else none })

/-- The waits in progress counted up to now, at the end of a measure (R376, R405, R823). -/
def State.countWaits (s : State) : State :=
  let s := s.countIntake true
  let s := s.each s.host.cpqs (fun s y => match y.waitFrom with
    | some w => s.bumpw hstCpqWaitNsNs y.fn ((s.clk.now - w) / 768)
    | none => s)
  s.hostMap (fun h => { h with cpqs := h.cpqs.map (fun y => { y with waitFrom := y.waitFrom.map (fun _ => s.clk.now) }) })

/-- PACKET_FETCH (R372, R373, R376, R405): a completion record and intake storage are reserved and the read of the next packet is
issued, in two parts where it wraps (R371), when every flit its header declares is posted and tags are free (R361); where they are not, the queue is noted to hold a packet posted in part (R452). -/
def State.packetFetch (s : State) (fn q len t : Nat) : State :=
  let s := s.advance t
  let x := s.sbq fn q
  let n := flitsOf len
  let busy := sumN x.reading
  let cq := s.rdw hstSbqCtrlCpq fn q
  let y := s.cpq fn cq
  let size := 2 ^ s.rdw hstCpqCtrlSizeLog2 fn cq
  let short := decide (x.fetched + busy < x.posted) && decide (x.posted < x.fetched + busy + n)
  let stuck := s.host.cmds.any (fun c => c.origin == 0 && c.seat == fn && c.queue == q && c.waitsRoom)
  let reached := x.bells.any (fun b => decide (x.fetched + busy + n ≤ b.1 ∧ b.2 ≤ s.clk.now))
  if !s.live || s.mem.relaying || s.rdw hstSbqCtrlEnable fn q == 0 || s.rdw hstSbqStatusError fn q == 1 || !(s.fn fn).canPost then s
  else if short then s.sbqMap fn q (fun x => { x with partly := true })
  else if decide (x.posted < x.fetched + busy + n) || !reached || stuck || s.rdw hstCpqCtrlEnable fn cq == 0 then s
  else if size < y.written + y.reserved + 2 then
    (s.fevent hstFeventCpqWait fn).cpqMap fn cq (fun y => { y with waitFrom := some (y.waitFrom.getD s.clk.now) })
  else if 67108864 < s.intakeUsed + 64 * n then s.intakeWait
  else if s.tagSpace fn < s.tagsUsed fn + ((s.fn fn).reads 0 (64 * n)).length then s
  else
    let waited := match y.waitFrom with | some w => (s.clk.now - w) / 768 | none => 0
    let s := s.when (decide (0 < waited)) (fun s => s.bumpw hstCpqWaitNsNs fn waited)
    let s := (s.countIntake false).cpqMap fn cq (fun y => { y with reserved := y.reserved + 1, waitFrom := none })
    let base := s.rdw hstSbqBaseLoAddr fn q + 2 ^ 32 * s.rdw hstSbqBaseHiAddr fn q
    let ring := 2 ^ s.rdw hstSbqCtrlSizeLog2 fn q
    let s := s.sbqMap fn q (fun x => { x with reading := x.reading ++ [n], partly := false })
    let first := (s.rdw hstSbqStatusFetch fn q + busy) % ring
    let before := min n (ring - first)
    (s.readHost fn (base + 64 * first) (64 * before)).readHost fn base (64 * (n - before))

/-- A packet's flits consumed (R406): the fetch pointer moves on; the instant its doorbell reached the admission queue. -/
def State.consumeFlits (s : State) (fn q n : Nat) : State × Nat :=
  let x := s.sbq fn q
  let upto := x.fetched + n
  let at_ := ((x.bells.find? (fun b => decide (upto ≤ b.1))).map (fun b => b.2)).getD s.clk.now
  let ring := 2 ^ s.rdw hstSbqCtrlSizeLog2 fn q
  let s := s.sbqMap fn q (fun x => { x with fetched := upto, reading := x.reading.drop 1, bells := x.bells.filter (fun b => decide (upto < b.1)) })
  (s.wrw hstSbqStatusFetch fn q ((s.rdw hstSbqStatusFetch fn q + n) % ring), at_)

/-- Completion reservations of a submission queue given back. -/
def State.unreserve (s : State) (fn q n : Nat) : State :=
  let cq := s.rdw hstSbqCtrlCpq fn q
  (s.cpqMap fn cq (fun y => { y with reserved := y.reserved - n })).settleCpqIdle fn cq

/-- PACKET_READ_ERROR (R395): no completion for the packet; the queue stops until it is enabled again. -/
def State.packetError (s : State) (fn q : Nat) : State :=
  let n := (s.sbq fn q).reading.length
  let s := (s.unreserve fn q n).sbqMap fn q (fun x => { x with reading := [] })
  let s := (s.wrw hstSbqStatusError fn q 1).fevent hstFeventFetchError fn
  s.logError 2 8 (s.portOf fn) 33 (fn + 65536 * q)

/-! ## Enabling and deleting queues (R377 to R379) -/

/-- A refused queue enable or disable (R377, R379). -/
def State.badQueue (s : State) (fn : Nat) : State := s.fevent hstFeventBadQueue fn

/-- SBQ_ENABLE (R377): enable = 1 written with a size and a bound completion queue. A queue that is enabled already stays as it is. -/
def State.sbqEnable (s : State) (fn q sizeLog2 cpq : Nat) : State :=
  if s.rdw hstSbqCtrlEnable fn q = 1 then s
  else
    let s := (s.wrw hstSbqCtrlSizeLog2 fn q sizeLog2).wrw hstSbqCtrlCpq fn q cpq
    if sizeLog2 < 6 ∨ 16 < sizeLog2 ∨ s.rdw hstCpqCtrlEnable fn cpq = 0 then s.badQueue fn
    else
      let s := s.sbqMap fn q (fun _ => ⟨fn, q, 0, 0, 0, [], [], false⟩)
      let s := ((s.wrw hstSbqStatusFetch fn q 0).wrw hstSbqStatusError fn q 0).wrw hstSbqCtrlEnable fn q 1
      s.wrw hstSbqStatusIdle fn q 0

/-- SBQ_DELETE (R378): posted packets not yet fetched are discarded; a packet being read is not fetched and is discarded too. The
size and binding written with the enable bit then take effect. -/
def State.sbqDelete (s : State) (fn q sizeLog2 cpq : Nat) : State :=
  let n := (s.sbq fn q).reading.length
  let s := (s.unreserve fn q n).sbqMap fn q (fun x => { x with reading := [], bells := [], posted := x.fetched, partly := false })
  let was := s.rdw hstSbqCtrlEnable fn q
  let s := s.wrw hstSbqCtrlEnable fn q 0
  let s := s.when (was == 0) (fun s => (s.wrw hstSbqCtrlSizeLog2 fn q sizeLog2).wrw hstSbqCtrlCpq fn q cpq)
  s.settleSbqIdle fn q

/-- CPQ_ENABLE (R377): enable = 1 written with a size, a vector and int_en. -/
def State.cpqEnable (s : State) (fn q sizeLog2 vector intEn : Nat) : State :=
  let s := (s.wrw hstCpqCtrlVector fn q vector).wrw hstCpqCtrlIntEn fn q intEn
  if s.rdw hstCpqCtrlEnable fn q = 1 then s
  else
    let s := s.wrw hstCpqCtrlSizeLog2 fn q sizeLog2
    if sizeLog2 < 4 ∨ 16 < sizeLog2 then s.badQueue fn
    else
      let s := s.cpqMap fn q (fun x => ⟨fn, q, 0, 0, x.reserved, 0, 0, none⟩)
      let s := ((s.wrw hstCpqStatusTail fn q 0).wrw hstCpqStatusPhase fn q 1).wrw hstCpqCtrlEnable fn q 1
      s.settleCpqIdle fn q

/-- CPQ_DELETE (R379): refused while an enabled submission queue is bound to it. -/
def State.cpqDelete (s : State) (fn q sizeLog2 vector intEn : Nat) : State :=
  let s := (s.wrw hstCpqCtrlVector fn q vector).wrw hstCpqCtrlIntEn fn q intEn
  if s.rdw hstCpqCtrlEnable fn q = 0 then s.wrw hstCpqCtrlSizeLog2 fn q sizeLog2
  else if (List.range 8).any (fun i => s.rdw hstSbqCtrlEnable fn i == 1 && s.rdw hstSbqCtrlCpq fn i == q) then s.badQueue fn
  else (s.wrw hstCpqCtrlEnable fn q 0).settleCpqIdle fn q

/-! ## Seat reset (R392, R393, R440, R519, R529, R538, R889) -/

/-- The function window of a seat returned to its reset values. -/
def State.clearWindow (s : State) (seat : Nat) : State :=
  let lo := (seat + 1) * 2 ^ 24 * 32
  { s with regs := s.regs.filter (fun p => decide (p.1 < lo ∨ lo + 2 ^ 24 * 32 ≤ p.1)) }

/-- The far reads of a reset seat's shelves discarded (R287): their candidates are lost, and a slab operation that waits for one is rolled back. -/
def State.discardFar (s : State) (seat : Nat) : State :=
  s.each (s.farOf seat) (fun s r => (((s.farTook r).dropReq r.rid).each r.clients (fun s c => match c with
    | .slab k => s.slabRollback k 0
    | _ => s.landFor true true c)))

/-- SRST of a seat (R286, R287, R393, R440, R519, R529, R538, R783, R889). On the head rim the parts of the seat's searches that this chip runs are
among its commands. -/
def State.srst (s : State) (seat : Nat) : State :=
  let s := s.when (s.owner? == some seat) (fun s => s.endOwnership none false)
  let own := fun (c : Cmd) => c.seat == seat && (c.origin == 0 || (c.origin == 1 && s.isHead))
  let s := s.hostMap (fun h => { h with cmds := updAll own (fun c => { c with quiet := true }) h.cmds })
  let s := s.discardFar seat
  let s := s.each ((s.host.cmds.filter own).filter (fun c => (s.run? c.cid).isSome)) State.freeSearch
  let mine := s.host.cmds.filter (fun c => c.seat == seat && c.origin == 0)
  let s := s.each mine (fun s c =>
    if isMutation c.opcode ∧ (c.stage = .waitGrant ∨ c.stage = .granted ∨ c.stage = .deferredCommit ∨ c.stage = .ready) then s.withdraw c stFlushed
    else if c.opcode = 0x04 ∧ c.stage = .held then s.refuse c stNotOwner
    else s)
  let s := s.hostMap (fun h => { h with
    claims := h.claims.filter (fun c => c.seat != seat), sbqs := h.sbqs.filter (fun q => q.fn != seat), cpqs := h.cpqs.filter (fun q => q.fn != seat) })
  let s := (s.endRerank.clkMap (fun k => { k with kappa := 256 }))
  (s.clearWindow seat).fnMap seat (fun f => { fnNil seat with enabled := f.enabled, internalError := f.internalError })

/-- The virtual-function seats of a port (R363). -/
def State.vfSeats (s : State) (port : Nat) : List Nat :=
  if s.rd hstPortModeSplit = 1 then (if port = 0 then (List.range 32).map (· + 1) else (List.range 31).map (· + 34))
  else (List.range 64).map (· + 1)

/-- The seat of a port's physical function. -/
def pfSeat (port : Nat) : Nat := if port = 0 then 0 else 33

/-- FLR (R392): of a virtual function its seat, of a physical function every seat of its port. -/
def State.flr (s : State) (fn : Nat) : State :=
  if s.pfs.contains fn then s.each (fn :: s.vfSeats (s.portOf fn)) State.srst else s.srst fn

/-- VF_ENABLE_CLEAR (R392). -/
def State.vfClear (s : State) (port : Nat) : State :=
  let s := s.each (s.vfSeats port) State.srst
  let s := s.each (s.vfSeats port) (fun s t => s.fnMap t (fun f => { f with enabled := false }))
  s.hostMap (fun h => { h with ports := updAt port (fun p => { p with vfEnable := false }) h.ports })

/-! ## Bus mastering, power state, masks (R287, R391, R394, R399) -/

/-- The far reads of the shelves of a seat that are in flight fail (R287, R394). -/
def State.failFar (s : State) (seat : Nat) : State :=
  let hit := fun (r : Req) => !r.returned && s.homeIs seat r && r.clients.all (fun c => match c with | .slab _ => false | _ => true)
  let s := s.each (s.rr.reqs.filter hit) (fun s r => s.farTook r)
  s.rrMap (fun x => { x with reqs := updAll hit (fun r => { r with returned := true, lost := true }) x.reqs })

/-- BUS_MASTER_DISABLE (R394): reads not issued from now on fail at once; a packet, operand or data read already issued returns by its own row. -/
def State.bmeClear (s : State) (fn : Nat) : State :=
  if (s.fn fn).bme then (s.fnMap fn (fun f => { f with bme := false })).failFar fn else s

/-- BUS_MASTER_ENABLE (R287): requests under the identity resume, as its Device Control registers say. A function whose Command register the
host writes is enabled for it (R363); that of a virtual function only exists while VF Enable is set. -/
def State.bmeSet (s : State) (fn : Nat) (ctl : DeviceControl) : State :=
  let up := match s.host.ports[s.portOf fn]? with | some p => p.up | none => false
  let virt := !s.pfs.contains fn
  if up then
    (s.fnMap fn (fun f => { f with bme := true, enabled := true, ctl := ctl })).when virt (fun s =>
      s.hostMap (fun h => { h with ports := updAt (s.portOf fn) (fun p => { p with vfEnable := true }) h.ports }))
  else s

/-- D3HOT_ENTRY and D3HOT_EXIT (R399). -/
def State.d3hot (s : State) (fn : Nat) (enter : Bool) : State :=
  if enter then (if (s.fn fn).enabled then (s.fnMap fn (fun f => { f with d3hot := true })).failFar fn else s)
  else s.fnMap fn (fun f => { f with d3hot := false })

/-- MSIX_UNMASK (R391): a vector's mask, or the Function Mask, is cleared, and the pending messages it held back are sent. A write
that clears the Function Mask sets MSI-X Enable. -/
def State.msixUnmask (s : State) (fn : Nat) (vector : Option Nat) : State :=
  let s := s.fnMap fn (fun f => match vector with
    | none => { f with fmask := false, msixEnable := true }
    | some v => { f with masked := f.masked.filter (fun m => m != v) })
  let f := s.fn fn
  if f.fmask || !f.msixEnable then s
  else
    let due := f.pba.filter (fun v => !f.masked.contains v)
    let s := s.fnMap fn (fun f => { f with pba := f.pba.filter (fun v => f.masked.contains v) })
    s.each due (fun s v => s.raise fn v)

/-- The seat whose function reads the far store for a client: its shelf's owner (R274). -/
def State.farSeat (s : State) : Client → Nat
  | .record cid _ => ((s.run? cid).bind (fun r => s.shelfAt? r.shelf)).elim 0 (fun h => h.ownerSeat)
  | .slab k => ((s.store.journal.find? (fun j => j.slot == k)).bind (fun j => s.shelfAt? j.shelf)).elim 0 (fun h => h.ownerSeat)
  | _ => 0

/-- FAR_READ_COMPLETE (R274, R276, R278): a far read returns, or fails; its latency is recorded. -/
def State.farReturn (s : State) (rid : Nat) (ok : Bool) (t : Nat) : State :=
  let s := s.advance t
  match s.rr.reqs.find? (fun r => r.rid == rid && r.far && !r.returned) with
  | none => s
  | some r =>
    let s := s.farTook r
    let s := s.when (!ok) (fun s => s.logError 2 8 (s.portOf (r.clients.head?.elim 0 s.farSeat)) 32 (((r.clients.head?).map s.candId).getD 0))
    match r.clients.head? with
    | some (.slab k) =>
      let s := s.rrMap (fun x => { x with reqs := x.reqs.filter (fun y => y.rid != rid) })
      if ok then s.slabRead k else s.slabRollback k 0
    | _ => s.rrMap (fun x => { x with reqs := updFirst (fun y => y.rid == rid) (fun y => { y with returned := true, lost := !ok }) x.reqs })

/-- LINK_RETRAIN (R358): a port retrains at a width and speed. -/
def State.linkRetrain (s : State) (port width speed : Nat) (flit : Bool) : State :=
  match s.host.ports[port]? with
  | none => s
  | some p =>
    if p.perst || (port == 1 && s.rd hstPortModeSplit == 0) then s
    else
      let s := s.when p.up (fun s => s.ev hstEventRetrain)
      let new : Port := { p with up := true, width := width, speed := speed, flit := flit }
      let s := s.hostMap (fun h => { h with ports := updAt port (fun _ => new) h.ports })
      s.fnMap (pfSeat port) (fun f => { f with enabled := true })

end Sys2Proof.Machine
end

