-- ==== Sys2Proof/Machine/Firmware.lean ====
section
/-!
DEFINITION. The flash and the firmware (R689 to R699, R711 to R717, R797 to R802): flash contents, image headers and signature
blocks, the six authentication checks, staging by command, the bank selected at a start, flash operations and execute in place.
-/
namespace Sys2Proof.Machine

/-! ## Flash contents (R689) -/

/-- A byte of an area whose first flash address is `base`: the newest page written, erased flash, or what it was shipped with. -/
def Area.byte (a : Area) (base off : Nat) : Byte :=
  match a.pages.find? (fun p => p.1 / 256 == off / 256) with
  | some p => p.2.getD (off % 256) 0xFF
  | none => if !a.shipped || a.wiped.contains (off / 4096) then 0xFF else Config.shippedByte (base + off)

/-- Sectors erased: pages in them are gone. -/
def Area.wipe (a : Area) (off len : Nat) : Area :=
  let gone := (List.range (cdiv len 4096)).map (fun i => off / 4096 + i)
  { a with wiped := gone ++ a.wiped.filter (fun w => !gone.contains w), pages := a.pages.filter (fun p => !gone.contains (p.1 / 4096)) }

/-- A page programmed. -/
def Area.program (a : Area) (off : Nat) (b : Bytes) : Area := { a with pages := (off, b) :: a.pages }

/-- The bank of a number: 1 A, 2 B. -/
def State.bank (s : State) (k : Nat) : Area := if k = 1 then s.pwr.bankA else s.pwr.bankB

/-- A bank changed. -/
def State.bankMap (s : State) (k : Nat) (f : Area → Area) : State :=
  s.pwrMap (fun p => if k = 1 then { p with bankA := f p.bankA } else { p with bankB := f p.bankB })

/-- The flash address of a bank. -/
def bankBase (k : Nat) : Nat := if k = 1 then 0 else 0x01000000

/-- Bytes of a bank. -/
def State.bankBytes (s : State) (k off n : Nat) : Bytes := (List.range n).map (fun i => (s.bank k).byte (bankBase k) (off + i))

/-- The inactive bank. -/
def State.inactive (s : State) : Nat := 3 - s.pwr.boot.active

/-- Bytes of the flash (R689, R711). The layouts of the fault record, the boot record and the event log are not stated. -/
def State.flashBytes (s : State) (addr n : Nat) : Bytes :=
  (List.range n).map (fun i =>
    let a := addr + i
    if a < 0x01000000 then s.pwr.bankA.byte 0 a
    else if a < 0x02000000 then s.pwr.bankB.byte 0x01000000 (a - 0x01000000)
    else if 0x02010000 ≤ a ∧ a < 0x03000000 then Config.freeByte (s.free + i)
    else s.pwr.rest.byte 0x02000000 (a - 0x02000000))

/-! ## Images (R690, R798, R799) -/

/-- The header of an image (R690), from its first 64 bytes. -/
structure ImgHead where
  magic : Nat
  version : Nat
  format : Nat
  length : Nat
  bodyCrc : Nat
  sigOff : Nat
  sigLen : Nat
  deriving DecidableEq, Repr

/-- A header read from 64 bytes. -/
def imgHead (b : Bytes) : ImgHead := ⟨field b 0 4, field b 4 8, field b 12 2, field b 16 4, field b 20 4, field b 24 4, field b 28 4⟩

/-- The header is one of R690: magic, reserved bytes and length. -/
def ImgHead.ok (h : ImgHead) (b : Bytes) : Bool :=
  h.magic == 0x57464C5A && field b 14 2 == 0 && decide (64 ≤ h.length ∧ h.length ≤ 16777216) && (b.drop 32).all (fun x => x == 0)

/-- The header of a bank's image. -/
def State.bankHead (s : State) (k : Nat) : ImgHead := imgHead (s.bankBytes k 0 64)

/-- A bank holds an image: its header reads as one, and it is not marked empty (R692). -/
def State.bankFull (s : State) (k : Nat) : Bool :=
  (s.bankHead k).ok (s.bankBytes k 0 64) && !(k == s.inactive && s.pwr.boot.empty)

/-- Version and store format of a bank's image; 0 where the bank is empty (R699). -/
def State.bankVersion (s : State) (k : Nat) : Nat := if s.bankFull k then (s.bankHead k).version else 0
def State.bankFormat (s : State) (k : Nat) : Nat := if s.bankFull k then (s.bankHead k).format else 0

/-- A segment entry of a signature block (R798). -/
structure Seg where
  kind : Nat
  offset : Nat
  length : Nat
  hash : Nat
  resOk : Bool
  deriving DecidableEq, Repr

/-- The segment entries of a signature block. -/
def segsOf (sig : Bytes) : List Seg :=
  (List.range (field sig 6 1)).map (fun i =>
    let e := slice sig (152 + 64 * i) 64
    ⟨field e 0 1, field e 4 4, field e 8 4, beNat (e.drop 16), field e 1 3 == 0⟩)

/-- The minimum security version (R797, R802). -/
def State.svnMin (s : State) : Nat := max Config.svnFused.val (s.pwr.boot.raised.getD 0)

/-- Byte ranges that do not overlap. -/
def apart (a b : Nat × Nat) : Bool := decide (a.1 + a.2 ≤ b.1 ∨ b.1 + b.2 ≤ a.1)

/-- No two ranges of a list overlap. -/
def allApart : List (Nat × Nat) → Bool
  | [] => true
  | x :: l => l.all (apart x) && allApart l

/-- Checks 1 to 5 of R799 on an image, given its bytes and signature block. -/
def State.signed (s : State) (image sig : Bytes) (h : ImgHead) : Bool :=
  let n := field sig 6 1
  let segs := segsOf sig
  let key := slice sig 8 96
  let signature := slice sig (152 + 64 * n) 96
  let slot := field sig 4 1
  field sig 0 4 == 0x53474C5A && decide (slot < 3) && (n == 2 || n == 3) && h.sigLen == 248 + 64 * n && decide (field sig 7 1 < 2) &&
  sha384 key == (Config.keyHash slot).toNat && !Config.revoked.getLsbD slot &&
  decide (s.svnMin ≤ field sig 5 1) && decide (field sig 5 1 ≤ 64) &&
  ecdsaOk (beNat (key.take 48)) (beNat (key.drop 48)) (beNat (signature.take 48)) (beNat (signature.drop 48)) (sha384 (sig.take (152 + 64 * n))) &&
  beNat (slice sig 104 48) == sha384 (image.take 64) &&
  (segs.filter (fun g => g.kind == 1)).length == 1 && (segs.filter (fun g => g.kind == 2)).length == 1 &&
  decide ((segs.filter (fun g => g.kind == 3)).length ≤ 1) &&
  segs.all (fun g => (g.kind == 1 && decide (g.length ≤ 1048576)) || (g.kind == 2 && decide (g.length ≤ 2097152)) || g.kind == 3) &&
  segs.all (fun g => g.resOk && decide (g.offset + g.length ≤ h.length)) &&
  allApart ((0, 64) :: (h.sigOff, h.sigLen) :: segs.map (fun g => (g.offset, g.length)))

/-- Check 6 of R799 for the segments of some kinds. -/
def hashesOk (image sig : Bytes) (kinds : List Nat) : Bool :=
  (segsOf sig).all (fun g => !kinds.contains g.kind || sha384 (slice image g.offset g.length) == g.hash)

/-- The checks of R692 on a whole image: header, body_crc and authenticity (R799). -/
def State.imageOk (s : State) (image : Bytes) : Bool :=
  let h := imgHead image
  let sig := slice image h.sigOff h.sigLen
  h.ok (image.take 64) && decide (h.length ≤ image.length) && decide (h.sigOff + h.sigLen ≤ h.length) &&
  crc32c ((image.take h.length).drop 64) == h.bodyCrc && s.signed (image.take h.length) sig h && hashesOk image sig [1, 2, 3]

/-- A bank untouched since manufacture. -/
def Area.asShipped (a : Area) : Bool := a.shipped && a.wiped.isEmpty && a.pages.isEmpty

/-- The image of a bank, its signature block, and whether the checks of a start pass (R800): checks 1 to 5, and check 6 for the MGC and
conductor segments. The bank shipped with the image passes all but check 2, which it still must pass. -/
def State.bankSig (s : State) (k : Nat) : Bytes := s.bankBytes k (s.bankHead k).sigOff (s.bankHead k).sigLen
def State.bankBoots (s : State) (k : Nat) : Bool :=
  if k == 1 && (s.bank 1).asShipped then decide (s.pwr.boot.raised.getD 0 ≤ field (s.bankSig 1) 5 1)
  else
    let h := s.bankHead k
    let image := s.bankBytes k 0 h.length
    s.bankFull k && decide (h.sigOff + h.sigLen ≤ h.length) && s.signed image (s.bankSig k) h && hashesOk image (s.bankSig k) [1, 2]

/-- The cold-data segment of the active image matches its hash (R800). -/
def State.coldMatches (s : State) : Bool :=
  let k := s.pwr.boot.active
  (k == 1 && (s.bank 1).asShipped) || hashesOk (s.bankBytes k 0 (s.bankHead k).length) (s.bankSig k) [3]

/-! ## The bank selected at a start (R697, R698, R801) -/

/-- The boot record changed. -/
def State.bootMap (s : State) (f : Boot → Boot) : State := s.pwrMap (fun p => { p with boot := f p.boot })

/-- The outcome of an activation is written to the event log (R698). -/
def State.logBoot (s : State) : State := s.logFlash []

/-- The other bank becomes active again after the active one has failed (R698, R800, R801). -/
def State.fallBack (s : State) : State :=
  (s.bootMap (fun b => { b with active := 3 - b.active, staged := 2, lastBoot := 2, coldOk := false, coldBad := false, activated := false, empty := false })).logBoot

/-- The bank a start from main power off selects (R697, R698): a staged and verified image is activated unless the retained store has
another format; an activated image that fails its authentication falls back. -/
def State.selectBank (s : State) (retained : Bool) : State :=
  let b := s.pwr.boot
  let cand := b.staged = 1 ∨ b.staged = 3
  let fits := !retained || s.bankFormat s.inactive == s.bankFormat b.active
  if b.coldBad ∧ s.bankBoots s.inactive then s.fallBack
  else if cand ∧ fits then
    if s.bankBoots s.inactive then
      (s.bootMap (fun b => { b with
        active := 3 - b.active, staged := 0, lastBoot := 1, activations := (b.activations + 1) % 2 ^ 32
        activated := true, coldOk := false, coldBad := false, empty := false, stagedMeasure := 0 })).logBoot
    else (s.bootMap (fun b => { b with staged := 2, lastBoot := 2 })).logBoot
  else if cand then s.bootMap (fun b => { b with staged := 3, lastBoot := 0, activated := false })
  else s.bootMap (fun b => { b with lastBoot := 0, activated := false })

/-- A start that reloads the segment of the active bank without activating one (R697, R778); at a start the cold-data check begins
anew (R800). -/
def State.reloadBank (s : State) : State := s.bootMap (fun b => { b with coldOk := false })

/-- An activated image that asks for it raises svn_min when it first reaches ready (R802). -/
def State.raiseSvn (s : State) : State :=
  let sig := s.bankSig s.pwr.boot.active
  if s.pwr.boot.activated ∧ (field sig 7 1).testBit 0 then
    s.bootMap (fun b => { b with raised := some (max (b.raised.getD 0) (field sig 5 1)), activated := false })
  else s.bootMap (fun b => { b with activated := false })

/-! ## Flash operations (R692, R695, R712, R714 to R716) -/

/-- The serial port master changed. -/
def State.spmMap (s : State) (f : Spm → Spm) : State := s.pwrMap (fun p => { p with spm := f p.spm })

/-- A program or erase starts: every buffered line is invalidated (R712). -/
def State.startFlash (s : State) (erase : Bool) (addr len : Nat) : State :=
  s.spmMap (fun m => { m with lines := [], op := some ⟨erase, addr, len, false, 0⟩ })

/-- Flash operation `n` of writing an image of `len` bytes: each 4 KiB sector is erased, then its pages are programmed (R692). -/
def stageOp (len n : Nat) : Option (Bool × Nat) :=
  let base := n / 17 * 4096
  let off := base + (n % 17 - 1) * 256
  if len ≤ base then none
  else if n % 17 = 0 then some (true, base)
  else if len ≤ off then none else some (false, off)

/-- The next flash operation starts when none is in progress: that of the FW_STAGE that is writing, an erase of the session's bank, or
the program of its oldest buffered chunk. -/
def State.nextFlash (s : State) : State :=
  if s.pwr.spm.op.isSome then s
  else match s.pwr.fwWrite, s.pwr.session with
    | some w, _ =>
      match s.cmd? w.cid with
      | none => s.pwrMap (fun p => { p with fwWrite := none })
      | some c =>
        (match stageOp c.operands.length w.done with
        | some (true, off) => s.startFlash true (bankBase w.bank + off) 4096
        | some (false, off) => s.startFlash false (bankBase w.bank + off) 256
        | none => s)
    | none, some x =>
      if x.erased < cdiv x.length 65536 then s.startFlash true (bankBase x.bank + 65536 * x.erased) 65536
      else match x.buffered with
        | off :: _ => s.startFlash false (bankBase x.bank + off) 256
        | [] => s
    | none, none => s

/-- An erase of flash addresses. -/
def State.eraseAt (s : State) (addr len : Nat) : State :=
  if addr < 0x01000000 then s.bankMap 1 (fun a => a.wipe addr len)
  else if addr < 0x02000000 then s.bankMap 2 (fun a => a.wipe (addr - 0x01000000) len)
  else s.pwrMap (fun p => { p with rest := p.rest.wipe (addr - 0x02000000) len })

/-- A page program at a flash address. -/
def State.programAt (s : State) (addr : Nat) (b : Bytes) : State :=
  if addr < 0x01000000 then s.bankMap 1 (fun a => a.program addr b)
  else if addr < 0x02000000 then s.bankMap 2 (fun a => a.program (addr - 0x01000000) b)
  else s.pwrMap (fun p => { p with rest := p.rest.program (addr - 0x02000000) b })

/-- The cold-data segment of the active image as flash addresses. -/
def State.coldRange (s : State) : Option (Nat × Nat) :=
  ((segsOf (s.bankSig s.pwr.boot.active)).find? (fun g => g.kind == 3)).map (fun g => (bankBase s.pwr.boot.active + g.offset, g.length))

/-- A line lies in the cold-data segment. -/
def State.inCold (s : State) (line : Nat) : Bool :=
  match s.coldRange with | some (a, n) => !(apart (a, n) (line, 64)) | none => false

/-- A line lies in a 64 KiB block in which an operation is in progress (R715). -/
def State.onBusyBlock (s : State) (line : Nat) : Bool :=
  match s.pwr.spm.op with
  | some o => decide (o.addr / 65536 ≤ line / 65536 ∧ line / 65536 ≤ (o.addr + o.len - 1) / 65536)
  | none => false

/-- A line read from the flash into the line buffer and returned (R711, R712). -/
def State.fetchLine (s : State) (line : Nat) : State :=
  let s := (s.inc spmXipReadsCount).spmMap (fun m => { m with lines := (line :: m.lines.filter (fun l => l != line)).take 16, lastRead := s.clk.now })
  (s.emit (.xip (s.flashBytes line 64) false)).tickFrees 64

/-- A waiting read must still wait: for its block, or for the cold-data check. -/
def State.xipBlocked (s : State) (line : Nat) : Bool :=
  s.onBusyBlock line || (s.inCold line && !s.pwr.boot.coldOk && !s.pwr.boot.coldBad)

/-- The reads that waited and need not any longer are served, or answered with an error when the cold-data check has failed. -/
def State.releaseXip (s : State) : State :=
  let due := s.pwr.spm.queue.filter (fun l => !s.xipBlocked l)
  let s := s.spmMap (fun m => { m with queue := m.queue.filter (fun l => !due.contains l) })
  s.each due (fun s l => if s.inCold l && s.pwr.boot.coldBad then s.emit (.xip [] true) else s.fetchLine l)

/-- XIP_READ (R711 to R716, R800): a read of the execute-in-place window, which waited `waitNs` for the bus. -/
def State.xipRead (s : State) (addr waitNs t : Nat) : State :=
  let s := s.advance t
  let line := addr / 64 * 64
  if !s.pwr.mgc then s
  else if s.inCold line && s.pwr.boot.coldBad then s.emit (.xip [] true)
  else if s.inCold line && !s.pwr.boot.coldOk then s.spmMap (fun m => { m with queue := m.queue ++ [line] })
  else if s.pwr.spm.lines.contains line then
    s.emit (.xip (s.flashBytes line 64) false)
  else if s.onBusyBlock line then
    (s.inc spmXipHeldCount).spmMap (fun m => { m with queue := m.queue ++ [line] })
  else
    let s := match s.pwr.spm.op with
      | some o =>
        if o.suspended then s
        else
          let n := o.suspends + 1
          let s := (s.inc spmSuspendsCount).spmMap (fun m => { m with op := some { o with suspended := true, suspends := n } })
          s.when (n == 64) (fun s => s.ev spmEventStarved)
      | none => s
    (s.peak spmXipWaitMaxNs 0 waitNs).fetchLine line

/-- XIP_RESUME (R714): a suspended operation resumes once no read has been queued for 2 µs. -/
def State.xipResume (s : State) (t : Nat) : State :=
  let s := s.advance t
  match s.pwr.spm.op with
  | some o =>
    if o.suspended ∧ s.pwr.spm.lastRead + ns 2000 ≤ s.clk.now then s.spmMap (fun m => { m with op := some { o with suspended := false } }) else s
  | none => s

/-- The operation in progress ends; held reads of its block are served (R715). -/
def State.endFlash (s : State) (o : FlashOp) (page : Bytes) : State :=
  let s := if o.erase then s.eraseAt o.addr o.len else s.when (!page.isEmpty) (fun s => s.programAt o.addr page)
  (s.spmMap (fun m => { m with op := none })).releaseXip

/-- The page an operation programs: a page of the image an FW_STAGE writes. -/
def State.stagePage (s : State) (w : FwWrite) (addr : Nat) : Bytes :=
  match s.cmd? w.cid with
  | some c => ((c.operands.drop (addr - bankBase w.bank)).take 256)
  | none => []

/-- FLASH_OP_DONE (R715): the erase or program in progress completes, and the next one of the same staging starts. The program of a
session's chunk completes with FW_CHUNK_PROGRAMMED. -/
def State.flashDone (s : State) (t : Nat) : State :=
  let s := s.advance t
  match s.pwr.spm.op with
  | none => s
  | some o =>
    if o.suspended then s
    else match s.pwr.fwWrite, s.pwr.session with
      | some w, _ =>
        if bankBase w.bank ≤ o.addr ∧ o.addr < bankBase w.bank + 16777216 then
          let s := s.endFlash o (s.stagePage w o.addr)
          (s.pwrMap (fun p => { p with fwWrite := some { w with done := w.done + 1 } })).nextFlash
        else (s.endFlash o []).nextFlash
      | none, some x =>
        if !o.erase && decide (bankBase x.bank ≤ o.addr ∧ o.addr < bankBase x.bank + 16777216) then s
        else if o.erase then
          let s := s.endFlash o []
          (s.pwrMap (fun p => { p with session := some { x with erased := x.erased + 1 } })).nextFlash
        else (s.endFlash o []).nextFlash
      | none, none => (s.endFlash o []).nextFlash

/-- FW_CHUNK_PROGRAMMED (R725): the oldest buffered chunk is programmed, and its buffer is free. -/
def State.chunkDone (s : State) (t : Nat) : State :=
  let s := s.advance t
  match s.pwr.spm.op, s.pwr.session with
  | some o, some x =>
    (match x.buffered with
    | off :: rest =>
      if o.erase ∨ o.suspended ∨ o.addr ≠ bankBase x.bank + off then s
      else
        let page := ((x.written.find? (fun c => c.1 == off)).map (fun c => c.2)).getD []
        let s := s.endFlash o page
        (s.pwrMap (fun p => { p with session := some { x with buffered := rest } })).nextFlash
    | [] => s)
  | _, _ => s

/-- SPM_COMMAND_TRANSFER (R708, R710, R713): a command transfer of the MGC takes the flash bus. A program or an erase needs the write
enable latch; the banks are written by staging alone (R689). -/
def State.spmTransfer (s : State) (c : SpmCmd) (addr : Nat) (data : Bytes) (t : Nat) : State :=
  let s := s.advance t
  let may := s.pwr.spm.wel && s.pwr.spm.op.isNone && decide (0x02000000 ≤ addr)
  if !s.pwr.aux then s
  else match c with
    | .readSfdp | .readId | .readStatus | .read => s
    | .writeEnable => s.spmMap (fun m => { m with wel := true })
    | .pageProgram => if may then ((s.startFlash false addr 256).programAt (addr / 256 * 256) (data.take 256)).spmMap (fun m => { m with wel := false }) else s
    | .erase4k => if may then (s.startFlash true (addr / 4096 * 4096) 4096).spmMap (fun m => { m with wel := false }) else s
    | .erase64k => if may then (s.startFlash true (addr / 65536 * 65536) 65536).spmMap (fun m => { m with wel := false }) else s
    | .suspend => s.spmMap (fun m => { m with op := m.op.map (fun o => { o with suspended := true }) })
    | .resume => s.spmMap (fun m => { m with op := m.op.map (fun o => { o with suspended := false }) })
    | .reset => s.spmMap (fun m => { m with wel := false, octal := false, op := none })
    | .octalEntry => s.spmMap (fun m => { m with octal := true })

/-! ## Staging (R691 to R693, R695) -/

/-- FW_STAGE begins to write its bank (R692): what the bank held is gone. -/
def State.stageWrite (s : State) (c : Cmd) : State :=
  let field16 := field c.param 16 1
  let bank := if field16 = 0 then s.inactive else field16
  let s := s.bootMap (fun b => { b with staged := 0, stagedMeasure := 0, empty := true })
  let s := s.cmdMap c.cid (fun x => { x with stage := .timed })
  (s.pwrMap (fun p => { p with fwWrite := some ⟨c.cid, bank, 0⟩ })).nextFlash

/-! ## The queues between the conductors and the MGC (R816) -/

/-- A message enqueued; its sender waits while the queue holds 16 entries. -/
def MgcQueue.put (q : MgcQueue) (m : Bytes) : MgcQueue :=
  if q.entries.length < 16 then { q with entries := q.entries ++ [m] } else { q with held := q.held ++ [m] }

/-- The oldest message dequeued, and the first sender that waits served. -/
def MgcQueue.take (q : MgcQueue) : MgcQueue := ⟨q.entries.drop 1 ++ q.held.take 1, q.held.drop 1⟩

/-- The conductors send the MGC a message of 32 bytes, whose contents the spec leaves to the firmware (log entry 87). -/
def State.tellMgc (s : State) : State := (s.pwrMap (fun p => { p with toMgc := p.toMgc.put (s.freeBytes 32) })).tickFrees 32

/-- The MGC takes the oldest message of the conductors. -/
def State.hearCnd (s : State) : State := s.pwrMap (fun p => { p with toMgc := p.toMgc.take })

/-- The MGC answers the conductors, which take its message at once. -/
def State.answerCnd (s : State) : State :=
  let s := (s.pwrMap (fun p => { p with fromMgc := p.fromMgc.put (s.freeBytes 32) })).tickFrees 32
  s.pwrMap (fun p => { p with fromMgc := p.fromMgc.take })

/-- FW_STAGE (R693, R794): the conductors ask the MGC, which writes at once, or waits for an open session or for an FW_STAGE before it. -/
def State.fwStage (s : State) (c : Cmd) : State :=
  if s.pwr.session.isSome ∨ s.pwr.fwWrite.isSome then
    ((s.tellMgc).cmdMap c.cid (fun x => { x with stage := .timed })).pwrMap (fun p => { p with fwWait := p.fwWait ++ [c.cid] })
  else s.tellMgc.hearCnd.stageWrite c

/-- The next waiting FW_STAGE begins when the bank has no writer (R693). -/
def State.stageNext (s : State) : State :=
  match s.pwr.fwWait with
  | cid :: rest =>
    if s.pwr.session.isSome ∨ s.pwr.fwWrite.isSome then s
    else
      let s := s.hearCnd.pwrMap (fun p => { p with fwWait := rest })
      match s.cmd? cid with
      | some c => s.stageWrite c
      | none => s
  | [] => s

/-- FW_STAGE_VERIFY (R692): once the bank is written, the image is checked. -/
def State.stageVerify (s : State) (cid : Nat) : State :=
  match s.pwr.fwWrite, s.cmd? cid with
  | some w, some c =>
    if w.cid ≠ cid ∨ (stageOp c.operands.length w.done).isSome ∨ s.pwr.spm.op.isSome then s
    else
      let ok := s.imageOk (s.bankBytes w.bank 0 c.operands.length)
      let m := s.measure
      let s := s.answerCnd.pwrMap (fun p => { p with fwWrite := none })
      let s := s.bootMap (fun b => { b with staged := if ok then 1 else 2, empty := !ok, stagedMeasure := if ok then m else 0 })
      let s := if ok then s.complete c stOk s.measure 0 0 true else s.complete c stBadFormat s.measure 0 0 false
      s.stageNext
  | _, _ => s

/-- The FW_QUERY reply record (R699). -/
def State.fwQuery (s : State) : Bytes :=
  let b := s.pwr.boot
  padTo 64 (leBytes 1 b.active ++ leBytes 1 b.staged ++ leBytes 1 b.lastBoot ++ zeros 1 ++ leBytes 2 (s.bankFormat b.active) ++
    leBytes 2 (s.bankFormat s.inactive) ++ leBytes 8 (s.bankVersion b.active) ++ leBytes 8 (s.bankVersion s.inactive) ++
    leBytes 4 b.activations ++ leBytes 4 b.stagedMeasure)

/-- COLD_DATA_CHECK (R800): the hash check of the cold-data segment of the active image completes. -/
def State.coldCheck (s : State) : State :=
  if s.pwr.mode ≠ .playing ∨ s.pwr.boot.coldOk ∨ s.pwr.boot.coldBad then s
  else
    let ok := s.coldMatches
    let s := s.bootMap (fun b => { b with coldOk := ok, coldBad := !ok })
    (s.when (!ok) (fun s => s.ev cndEventColdBad)).releaseXip

end Sys2Proof.Machine
end

