-- ==== Sys2Proof/Machine/Gpio.lean ====
section
/-!
DEFINITION. The pins (R729 to R748): what drives a pad, what GPIO_IN reads, writes of the GPIO_ and PMX_ registers with the pin
lock, the lock sequence, and the pattern-match units.
-/
namespace Sys2Proof.Machine

/-- The pins changed. -/
def State.pinMap (s : State) (f : Pins → Pins) : State := s.pwrMap (fun p => { p with pins := f p.pins })

/-! ## What drives a pad (R732 to R734, R740, R741, R747) -/

/-- A pin lies in bank A. -/
def bankA (p : Nat) : Bool := decide (p < 12)

/-- What an enabled output function of a pin drives: the outer none where the function is no output, the inner none where it
releases the pad (R747). The levels of the console, trigger and lamp outputs are not stated. -/
def State.pinFunc (s : State) (p f : Nat) : Option (Option Bool) :=
  let w := s.pwr
  let open_ := (Config.freeByte (s.free + p)).getLsbD 0
  match p, f with
  | 3, 0 => some (if w.pwrGood then none else some false)
  | 5, 0 => some (if w.alert then some false else none)
  | 11, 0 => some (some false)
  | 12, 0 => some (some (w.pwrGood && w.gauge.bled))
  | 13, 0 => some (some w.gauge.bleeding)
  | 14, 0 => some (some (w.mode == .fermata))
  | 15, 0 => some (some (w.mode == .fermata || w.mode == .warm || (w.mode == .starting && w.kind == .mrst)))
  | 16, 0 => some (some open_)
  | 16, 2 => some (some open_)
  | 18, 0 => some (some open_)
  | 19, 0 => some (some open_)
  | 0, 2 => some (some (s.clk.started && decide (s.clk.now < s.clk.lastDb + ns 1000)))
  | 18, 2 => some (some (s.clk.started && decide (s.clk.now < s.clk.lastDb + ns 1000)))
  | 20, 2 => some (some true)
  | _, 1 => if (s.rd gpioOeBits).testBit p then some (some ((s.rd gpioOutValue).testBit p)) else none
  | _, _ => none

/-- What the enabled functions of a pin drive together (R734): none releases the pad. -/
def State.pinDrive (s : State) (p : Nat) : Option Bool :=
  let en := s.rd pmxFuncEn p
  let outs := ((List.range 4).filter (fun f => en.testBit f)).filterMap (fun f => s.pinFunc p f)
  let merge := if bankA p then s.rd pmxBankModeA == 1 else s.rd pmxBankModeB == 1
  let v := if merge then (if outs.contains (some true) then some true else if outs.contains (some false) then some false else none)
    else (outs.head?).join
  if s.rd gpioPadOd p = 1 ∧ v = some true then none else v

/-- An enabled output function of a pin belongs to the core domain (R741, R747): BEAT_OUT, the console, the trigger and the lamps. -/
def State.coreDriven (s : State) (p : Nat) : Bool :=
  let en := s.rd pmxFuncEn p
  match p with
  | 0 => en.testBit 2
  | 16 | 18 => en.testBit 0 || en.testBit 2
  | 19 => en.testBit 0
  | _ => false

/-- The sleep code in force on a pin (R740, R741). -/
def State.sleepCode (s : State) (p : Nat) : Nat :=
  match s.pwr.pins.asleep with
  | 0 => 0
  | 1 => s.rd gpioSleepRest p
  | _ =>
    let c := s.rd gpioSleepFermata p
    if c = 0 ∧ s.coreDriven p then 1 else c

/-- The level of a pad: what the board drives overpowers it; otherwise the chip's drive, held or set by a sleep code, or the pull; a
floating pad's level is free. -/
def State.padLevel (s : State) (p : Nat) : Bool :=
  let x := s.pwr.pins
  let open_ := (Config.freeByte (s.free + 32 + p)).getLsbD 0
  let pulled := fun (k : Nat) => if k = 1 then true else if k = 2 then false else open_
  if x.extMask.testBit p then x.extLevel.testBit p
  else match s.sleepCode p with
    | 0 => (s.pinDrive p).getD (pulled (s.rd gpioPadPull p))
    | 1 => ((x.held.getD p none).getD (pulled (s.rd gpioPadPull p)))
    | 2 => false
    | 3 => if s.rd gpioPadOd p = 1 then pulled (s.rd gpioPadPull p) else true
    | 5 => true
    | 6 => false
    | _ => open_

/-- GPIO_IN (R731): a pin whose input buffer is off reads 0. -/
def State.gpioIn (s : State) : Nat :=
  sumN ((List.range 24).map (fun p => if s.rd gpioPadIe p = 1 ∧ s.padLevel p then 2 ^ p else 0))

/-- Function `f` of a pin is enabled as an input, and the pin's input buffer is on (R731, R733). -/
def State.inputOn (s : State) (p f : Nat) : Bool := (s.rd pmxFuncEn p).testBit f && s.rd gpioPadIe p == 1

/-- The sleep codes applied at the entry of Rest (1) or Fermata (2), with the levels that code 1 holds (R741). -/
def State.sleepPins (s : State) (k : Nat) : State :=
  let l := (List.range 24).map (fun p => some (s.padLevel p))
  (s.pinMap (fun x => { x with asleep := k, held := if x.asleep = 0 then l else x.held })).tickFrees 64

/-- The sleep codes released at exit (R741). -/
def State.wakePins (s : State) : State := s.pinMap (fun x => { x with asleep := 0, held := [] })

/-! ## Writes (R729, R740, R743, R744, R750) -/

/-- A frozen field was written (R744). -/
def State.lockedWrite (s : State) : State := (s.ev gpioEventLockedWrite).inc gpioLockedWritesCount

/-- The pins locked. -/
def State.lockedPins (s : State) : Nat := s.rd gpioLockedPins

/-- GPIO_OUT written by one of its four registers (R729): `set`, `clear` and `toggle` masks applied to its 24 bits. -/
def State.gpioOut (s : State) (v : Nat) : State := s.wr gpioOutValue 0 v

/-- GPIO_SET, GPIO_CLR and GPIO_TOG (R729). -/
def State.gpioSetBits (s : State) (b : Nat) : State := s.gpioOut (s.rd gpioOutValue ||| b)
def State.gpioClrBits (s : State) (b : Nat) : State := s.gpioOut (s.rd gpioOutValue &&& (16777215 - b % 16777216))
def State.gpioTogBits (s : State) (b : Nat) : State := s.gpioOut (s.rd gpioOutValue ^^^ b)

/-- GPIO_OE written (R729, R744): only free pins change. -/
def State.gpioOe (s : State) (v : Nat) : State :=
  let locked := s.lockedPins
  let old := s.rd gpioOeBits
  let new := (v &&& (16777215 - locked)) ||| (old &&& locked)
  (s.wr gpioOeBits 0 new).when (locked != 0) State.lockedWrite

/-- A per-pin register written (R732, R740, R750): none of its fields changes on a locked pin, nor on a reserved code. -/
def State.gpioPin (s : State) (p : Nat) (bad : Bool) (f : State → State) : State :=
  if s.lockedPins.testBit p then s.lockedWrite else if bad then s.ev gpioEventBadConfig else f s

/-- PMX_BANK_MODE written (R734, R744): a bank with a locked pin keeps its mode. -/
def State.bankMode (s : State) (v : Nat) : State :=
  let la := s.lockedPins % 4096 != 0
  let lb := s.lockedPins / 4096 != 0
  let s := s.when (!la) (fun s => s.wr pmxBankModeA 0 v)
  let s := s.when (!lb) (fun s => s.wr pmxBankModeB 0 (v / 2))
  s.when (la || lb) State.lockedWrite

/-- GPIO_LOCK written by a source (R743): three writes with one mask and the keys in order lock the pins of the mask. -/
def State.gpioLock (s : State) (src : PinSrc) (v : Nat) : State :=
  let i := match src with | .mgc => 0 | .conductors => 1 | .host => 2
  let key := v / 2 ^ 24 % 256
  let mask := v % 2 ^ 24
  let st := s.pwr.pins.lockSeq.getD i (0, 0)
  let put := fun (s : State) (x : Nat × Nat) => s.pinMap (fun p => { p with lockSeq := updAt i (fun _ => x) p.lockSeq })
  if st.1 = 1 ∧ key = 0xB3 ∧ mask = st.2 then put s (2, mask)
  else if st.1 = 2 ∧ key = 0x4C ∧ mask = st.2 then (put s (0, 0)).wr gpioLockedPins 0 (s.lockedPins ||| mask)
  else if key = 0x4C then put s (1, mask)
  else put s (0, 0)

/-- A write of one 32-bit word of the GPIO_ and PMX_ blocks by a source, to the registers that do more than store. `none` for the
registers that only store or clear bits. -/
def State.gpioWrite (s : State) (src : PinSrc) (off v : Nat) : Option State :=
  if off = 0x32000 then some (s.gpioOut v)
  else if off = 0x32004 then some (s.gpioSetBits (v % 2 ^ 24))
  else if off = 0x32008 then some (s.gpioClrBits (v % 2 ^ 24))
  else if off = 0x3200C then some (s.gpioTogBits (v % 2 ^ 24))
  else if off = 0x32010 then some (s.gpioOe (v % 2 ^ 24))
  else if off = 0x32018 then some (s.gpioLock src v)
  else if 0x32100 ≤ off ∧ off < 0x32140 then
    let m := (off - 0x32100) / 16
    let pinsOk := fun (n : Nat) => (List.range n).all (fun i => decide (v / 2 ^ (5 * i) % 32 ≤ 23))
    if off % 16 = 0 then some (if pinsOk 6 then s.wr gpioPmSelLoPins m v else s.ev gpioEventBadConfig)
    else if off % 16 = 4 then some (if pinsOk 2 then s.wr gpioPmSelHiPins m v else s.ev gpioEventBadConfig)
    else if off % 16 = 8 then
      let on := s.rd gpioPmCtrlEn m = 0 ∧ v / 2 ^ 17 % 2 = 1
      let s := (((((s.wr gpioPmCtrlMask m v).wr gpioPmCtrlValue m (v / 2 ^ 8)).wr gpioPmCtrlMode m (v / 2 ^ 16)).wr gpioPmCtrlEn m (v / 2 ^ 17)).wr
        gpioPmCtrlFilter m (v / 2 ^ 20)).wr gpioPmCtrlTarget m (v / 2 ^ 24)
      some (if on then s.pinMap (fun p => { p with pmus := updAt m (fun _ => ⟨false, 0, true⟩) p.pmus }) else s)
    else none
  else if 0x32200 ≤ off ∧ off < 0x32260 then
    let p := (off - 0x32200) / 4
    some (s.gpioPin p (v % 4 == 3) (fun s =>
      ((((s.wr gpioPadPull p v).wr gpioPadDrive p (v / 4)).wr gpioPadOd p (v / 16)).wr gpioPadIe p (v / 32)).wr gpioPadSchmitt p (v / 64)))
  else if 0x32300 ≤ off ∧ off < 0x32360 then
    let p := (off - 0x32300) / 4
    some (s.gpioPin p (v % 8 == 7 || v / 16 % 8 == 7) (fun s => (s.wr gpioSleepRest p v).wr gpioSleepFermata p (v / 16)))
  else if off = 0x33000 then some (s.bankMode v)
  else if 0x33100 ≤ off ∧ off < 0x33160 then
    let p := (off - 0x33100) / 4
    some (s.gpioPin p false (fun s => s.wr pmxFuncEn p v))
  else none

/-! ## Pattern match (R736 to R739) -/

/-- The pin of slot `i` of a pattern-match unit. -/
def State.pmPin (s : State) (m i : Nat) : Nat :=
  if i < 6 then s.rd gpioPmSelLoPins m / 2 ^ (5 * i) % 32 else s.rd gpioPmSelHiPins m / 2 ^ (5 * (i - 6)) % 32

/-- The raw match of a unit on a sample of the pins (R736). -/
def State.pmRaw (s : State) (m level : Nat) : Bool :=
  let x := sumN ((List.range 8).map (fun i => if level.testBit (s.pmPin m i) then 2 ^ i else 0))
  let mask := s.rd gpioPmCtrlMask m
  x &&& mask == (s.rd gpioPmCtrlValue m) &&& mask

/-- One sample taken by a unit (R737, R738): whether it sets its bit. -/
def State.pmSample (s : State) (m level : Nat) : State × Bool :=
  let u := s.pwr.pins.pmus.getD m ⟨false, 0, false⟩
  if s.rd gpioPmCtrlEn m = 0 then (s, false)
  else
    let raw := s.pmRaw m level
    let run := if raw = u.matching then 0 else u.run + 1
    let turn := u.fresh || decide (s.rd gpioPmCtrlFilter m < run)
    let now := if turn then raw else u.matching
    let hit := if s.rd gpioPmCtrlMode m = 0 then now else now && !u.matching && !u.fresh
    let s := s.pinMap (fun p => { p with pmus := updAt m (fun _ => ⟨now, if turn then 0 else run, false⟩) p.pmus })
    (if hit then s.wr gpioPmStatusMatch 0 (s.rd gpioPmStatusMatch ||| 2 ^ m) else s, hit)

/-- The board drives some pins to some levels for `n` samples of GPIO_IN; every unit takes each sample (R737). The mask of the units that
matched is the second part. More than 17 equal samples act as 17. -/
def State.pmRun (s : State) (mask level n : Nat) : State × Nat :=
  let s := s.pinMap (fun p => { p with extMask := mask, extLevel := level })
  (List.range (min n 17)).foldl (fun (x : State × Nat) _ =>
    let lv := x.1.gpioIn
    let x := (x.1.tickFrees 64, x.2)
    (List.range 4).foldl (fun (x : State × Nat) m =>
      let r := x.1.pmSample m lv
      (r.1, if r.2 then x.2 ||| 2 ^ m else x.2)) x) (s, 0)

end Sys2Proof.Machine
end

