-- ==== Sys2Proof/Machine/Power.lean ====
section
/-!
DEFINITION. Power entry, the hold-up gauge, Fermata, Rest, the starts and the resets (chapters 15 and 17), with the master survival
table (R783): what each reset or start clears, and what a start does before the device is ready.
-/
namespace Sys2Proof.Machine

/-! ## What survives (R31, R774, R783) -/

/-- A key of the register file belongs to a field. -/
def Fld.holds (f : Fld) (k : Nat) : Bool :=
  let a := k % (2 ^ 24 * 32)
  let off := a / 32
  f.win == decide (2 ^ 24 * 32 ≤ k) && a % 32 == f.lo && decide (f.off ≤ off) &&
    (if f.stride = 0 then off == f.off else (off - f.off) % f.stride == 0 && decide ((off - f.off) / f.stride < f.count))

/-- The field a key belongs to. -/
def fieldOf (k : Nat) : Option Fld := regTable.find? (fun f => f.holds k)

/-- The entries of a register list whose fields survive. -/
def keepRegs (p : Fld → Bool) (l : List (Nat × Nat)) : List (Nat × Nat) :=
  l.filter (fun e => match fieldOf e.1 with | some f => p f | none => false)

/-- A register of the always-on domain (R774): the GPIO_, PMX_, SPM_ and SPS_ blocks, and what is kept across everything but POR. -/
def Fld.alwaysOn (f : Fld) : Bool := f.surv == 62 || (decide (0x30000 ≤ f.off) && decide (f.off < 0x34000))

/-- Survives letters. -/
def Fld.keepP (f : Fld) : Bool := f.surv.testBit 0
def Fld.keepM (f : Fld) : Bool := f.surv.testBit 1
def Fld.keepW (f : Fld) : Bool := f.surv.testBit 2
def Fld.keepF (f : Fld) : Bool := f.surv.testBit 5

/-- A register list kept by a predicate, in every copy of the registers (R34). -/
def State.clearRegs (s : State) (p : Fld → Bool) : State :=
  { s with regs := keepRegs p s.regs, latched := keepRegs p s.latched, tally := [], snap := keepRegs p s.snap }

/-- The functions after a reset that reaches configuration space (R778, R783): a physical function exists while its port's link is up (R363), and no
virtual one does until VF Enable is set again. -/
def State.fnsAfter (s : State) (warm : Bool) : List Fn :=
  s.host.fns.map (fun f =>
    let up := match s.host.ports[s.portOf f.seat]? with | some p => p.up | none => false
    { fnNil f.seat with
      enabled := s.pfs.contains f.seat && f.enabled && warm && up, internalError := warm && f.internalError })

/-- The work of the core domain discarded (R783): the measure, the sweep and re-rank, fetched commands, grants, queues, function
windows, claims, the mailbox, pending map-outs. A warm reset keeps the replay windows, whose pending entries were never executed, and
the meters. -/
def State.dropWork (s : State) (warm : Bool) : State :=
  let window := if warm then updAll (fun (e : WinEnt) => e.state == .pending) (fun e => { e with state := .never }) s.host.window else []
  let host : HostSt := { hostReset with
    fns := s.fnsAfter warm, ports := if warm then s.host.ports.map (fun p => { p with vfEnable := false }) else s.host.ports.map (fun p => { portReset with perst := p.perst }), window := window, nextCid := s.host.nextCid, energy := if warm then s.host.energy else [] }
  let clk : Clock := { clockReset with now := s.clk.now, lastDb := s.clk.now, predicted := s.clk.now }
  let mem : Mem := { s.mem with
    relaying := false, pends := [], pointUsed := 0
    channels := s.mem.channels.map (fun c => { c with step := 0, stepFails := 0, stepEnd := 0, postponed := [], turn := 0, burst := none }) }
  let s := { s with clk := clk, sweep := sweepReset, rr := rerankReset, host := host, mem := mem }
  s.pwrMap (fun p => { p with
    errThis := 0, fwFaults := [], mbox := none, traces := [], gatedNow := false, engines := 64, fwWrite := none, fwWait := [], toMgc := ⟨[], []⟩, fromMgc := ⟨[], []⟩
    seatStatus := if warm then p.seatStatus else [], pllLost := 0 })

/-- The weave after a reset (R783): a warm reset keeps the map, the members and the shelves it knows; the strands retrain. -/
def State.weaveAfter (s : State) (warm : Bool) : State :=
  let w := s.weave
  s.weaveMap (fun _ => if warm then { weaveReset with
      map := w.map, nextMap := w.nextMap, members := w.members, shelves := w.shelves, opCount := w.opCount, applied := w.applied
      commitLog := w.commitLog, landing := w.landing, settles := w.settles, mirror := w.mirror }
    else weaveReset)

/-- Staging lost (R493), with the journal's open operations left for recovery. -/
def State.loseStaging (s : State) : State := s.storeMap (fun t => { t with staging := [], image := none, imageBad := false })

/-- The store lost. -/
def State.loseStore (s : State) : State := { s with store := storeReset }

/-- The GPIO_ and PMX_ registers at their reset values, and GPIO0 to GPIO15 locked again (R746, R775). -/
def State.pinsReset (s : State) : State :=
  let s := { s with regs := s.regs.filter (fun e => !(decide (0x32000 * 32 ≤ e.1) && decide (e.1 < 0x34000 * 32))) }
  let s := s.pinMap (fun x => { x with lockSeq := [(0, 0), (0, 0), (0, 0)], pmus := List.replicate 4 ⟨false, 0, false⟩ })
  s.wr gpioLockedPins 0 0xFFFF

/-! ## The gauge (R665 to R670) -/

/-- The voltage reading Ev in mJ (R667). -/
def gaugeEv (mv : Nat) : Nat :=
  if mv ≤ 36000 then 0 else (Config.ratedC * (mv * mv - 36000 * 36000) + 1000000000) / 2000000000

/-- The charge reading Eq in mJ (R667), with Q in µC. -/
def gaugeEq (q : Nat) : Nat :=
  let d := 2 * max Config.ratedC 1
  (q * 36 * d + q * q + d * 500) / (d * 1000)

/-- The gauge reading: the smaller of the two. -/
def Gauge.reading (g : Gauge) : Nat := min (gaugeEv g.bankMv) (gaugeEq g.qUc)

/-- The gauge changed. -/
def State.gaugeMap (s : State) (f : Gauge → Gauge) : State := s.pwrMap (fun p => { p with gauge := f p.gauge })

/-- The gauge fault flag set, and reported when it is new (R668, R837). -/
def State.gaugeFault (s : State) : State :=
  if s.pwr.gauge.fault then s
  else
    let s := (s.gaugeMap (fun g => { g with fault := true })).powerEvent pwrEventGaugeFault
    let s := (s.pwrMap (fun p => { p with faultGauge := p.faultGauge + 1 })).alertOn
    s.logError 3 10 0 58 s.pwr.gauge.reading

/-- Arming re-evaluated (R669, R787). -/
def State.rearm (s : State) : State :=
  let now := decide (s.rd pwrQuiesceBudgetMj ≤ s.pwr.gauge.reading)
  let s := s.when (s.pwr.gauge.armed && !now) (fun s => s.powerEvent pwrEventUnarmed)
  s.gaugeMap (fun g => { g with armed := now })

/-! ## Main power (R657, R682) -/

/-- The hot-swap switch is closed and the core start is due when every condition of R682 holds and the bus is in range (R657). -/
def State.tryClose (s : State) : State :=
  let p := s.pwr
  let may := p.pwrEn && p.aux && p.mgc && !p.efuse.tripped && !p.efuse.locked && p.session.isNone && !p.ejectOpen && !p.waitPwrEn
  if !may || p.mode != .off then s
  else
    let good := decide (45000 ≤ p.busMv ∧ p.busMv ≤ 60000)
    let s := s.pwrMap (fun p => { p with switchOn := true, pwrGood := good })
    if good ∧ s.pwr.startDue = none then s.pwrMap (fun p => { p with startDue := some p.kind }) else s

/-- The core domain loses power. -/
def State.coreOff (s : State) : State :=
  s.pwrMap (fun p => { p with coreOn := false, switchOn := false, pwrGood := false, startDue := none })

/-! ## Fermata (R671 to R679, R767, R781, R844) -/

/-- The limits of the steps of R672, in µs. -/
def stepLimits : List Nat := [1, 5, 50, 100, 150, 200, 250]

/-- A Fermata record (R679); the times its steps took are free within their limits. -/
def State.fermataRecord (s : State) (cause outcome : Nat) : State :=
  let g := s.pwr.gauge
  let steps := stepLimits.zip (List.range 7) |>.map (fun p => (Config.measured (s.free + p.2)).toNat % (p.1 + 1))
  let r : FermataRec := ⟨cause, outcome, s.measure, g.reading, gaugeEv g.bankMv, gaugeEq g.qUc, g.bankMv, steps, s.clk.now, 0⟩
  (s.tickFrees 7).pwrMap (fun p => { p with record := some r })

/-- The 64 bytes of a Fermata record (R679). -/
def FermataRec.bytes (r : FermataRec) : Bytes :=
  padTo 64 (leBytes 1 r.cause ++ leBytes 1 r.outcome ++ zeros 2 ++ leBytes 4 r.measure ++ leBytes 4 r.gauge ++ leBytes 4 r.gaugeV ++
    leBytes 4 r.gaugeQ ++ leBytes 2 r.bankMv ++ zeros 2 ++ r.steps.flatMap (leBytes 2) ++ zeros 2 ++ leBytes 8 r.holdMs)

/-- A slab operation that can complete does (R672 step 3): the reads it waits for return, and one that meets an uncorrectable granule is rolled back
(R150, R887). -/
def State.finishSlab (s : State) (j : Journal) : State :=
  match s.rr.reqs.find? (fun r => !r.returned && r.clients.contains (.slab j.slot) && s.granuleLost r.granule) with
  | some r => s.slabRollback j.slot r.granule
  | none =>
    (s.storeMap (fun t => { t with journal := updFirst (fun x => x.slot == j.slot) (fun x => { x with reads := 0 }) t.journal })).slabCommit j.op j.slot

/-- Slab operations that move no host-link bytes complete (R672 step 3, R492). -/
def State.finishSlabs (s : State) : State :=
  s.each s.store.journal (fun s j => match s.shelfAt? j.shelf with
    | none => s
    | some h => if h.fullPlace = 2 ∧ (j.op = .place ∨ j.op = .move) then s else s.finishSlab j)

/-- Devices put into self-refresh. -/
def State.selfRefresh (s : State) (on : Bool) : State :=
  s.memMap (fun m => { m with channels := m.channels.map (fun c => { c with selfRefresh := on && c.trained }) })

/-- Fermata entry (R652, R672, R673): work stops, slab operations that can complete do, the staging image is written when there is one to
write, the F registers are saved, and the core loses power with the store retained; a member leaves the weave. -/
def State.fermataEnter (s : State) (cause : Nat) (image : Bool) : State :=
  let s := (s.fermataRecord cause 0).endDrops
  let s := if image then s.finishSlabs else s
  let stg := s.store.staging
  let s := s.storeMap (fun t => { t with image := if image then some stg else none, imageBad := false, staging := [] })
  let s := (s.selfRefresh true).sleepPins 2
  let kept := keepRegs (fun f => f.keepF && !f.alwaysOn) s.regs
  let s := (s.clearRegs Fld.alwaysOn).pwrMap (fun p => { p with saved := kept, retained := true, mode := .fermata, kind := .fermata, inLow := !image })
  let kept := s.weave.shelves ++ s.weave.kept
  (((s.dropWork false).weaveAfter false).weaveMap (fun w => { w with kept := kept })).coreOff

/-- Fermata refused (R674): the store and staging are lost, and the core loses power. -/
def State.fermataRefuse (s : State) : State :=
  let s := s.fermataRecord 5 1
  let s := match s.pwr.record with | some r => s.logFlash r.bytes | none => s
  let s := (s.clearRegs (fun f => f.keepP || f.alwaysOn)).pwrMap (fun p => { p with saved := [], retained := false, mode := .off, kind := .porCore })
  ((s.dropWork false).weaveAfter false).loseStore.coreOff

/-- The staging buffer stands in SRAM and the control state can be trusted, so an image can be written (R672, R781, R844). -/
def State.canImage (s : State) : Bool :=
  (s.pwr.mode == .playing || s.pwr.mode == .rest || s.pwr.mode == .waking) && s.rd errStatusFatal == 0

/-- A start from Off that has not ended is given up. -/
def State.backToOff (s : State) : State :=
  ((((s.clearRegs (fun f => f.keepP || f.alwaysOn)).dropWork false).weaveAfter false).loseStore.coreOff).pwrMap (fun p => { p with
    mode := .off, kind := if p.kind = .porAux then .porAux else .porCore, retained := false, saved := [] })

/-- An exit from Fermata, or a start that retains the store, returns to Fermata with the image that stands (R678). -/
def State.backToFermata (s : State) : State := s.coreOff.pwrMap (fun p => { p with mode := .fermata })

/-- A loss of main power (R671, R672, R674, R678, R781), or the planned entry (R673), which needs no arming. -/
def State.powerFail (s : State) (cause : Nat) (planned : Bool) : State :=
  let may := planned || s.pwr.gauge.armed
  match s.pwr.mode with
  | .off => s.coreOff
  | .fermata => s.coreOff
  | .starting =>
    if s.pwr.kind = .porAux ∨ s.pwr.kind = .porCore then s.backToOff
    else if s.pwr.startDue.isSome then (if s.pwr.kind = .fermata then s.backToFermata else if may then s.fermataEnter cause false else s.fermataRefuse)
    else if s.pwr.kind = .fermata ∧ may then s.backToFermata
    else if may then s.fermataEnter cause false else s.fermataRefuse
  | _ => if may then s.fermataEnter cause s.canImage else s.fermataRefuse

/-- Retention lost (R675): the store is gone, and the next start is a POR. -/
def State.retentionLost (s : State) : State :=
  let s := s.pwrMap (fun p => { p with
    retained := false, saved := [], mode := .off, kind := .porCore, mrstInFermata := false
    record := p.record.map (fun r => { r with outcome := 2, holdMs := (s.clk.now - r.entered) / 768000000 }) })
  let s := match s.pwr.record with | some r => s.logFlash r.bytes | none => s
  s.loseStore.coreOff

/-! ## Resets of the core (R773 to R781) -/

/-- A Fermata exit that runs as an MRST start (R780): the staging image is discarded, and of what Fermata kept an MRST keeps the M
registers. -/
def State.asMrst (s : State) : State :=
  let both := keepRegs Fld.keepM s.pwr.saved
  let s := { s with regs := both.foldl (fun r (e : Nat × Nat) => regInsert e.1 e.2 r) s.regs }
  (s.storeMap (fun t => { t with image := none })).pwrMap (fun p => { p with
    kind := .mrst, saved := [], mrstInFermata := true, startDue := p.startDue.map (fun _ => .mrst) })

/-- MRST (R775, R779, R780): work is discarded, the pins are returned and locked again, the store is kept in self-refresh, and a core
start follows. -/
def State.mrst (s : State) : State :=
  if !s.pwr.aux then s
  else match s.pwr.mode with
    | .off => s.pinsReset
    | .fermata => (s.pinsReset.storeMap (fun t => { t with image := none })).pwrMap (fun p => { p with mrstInFermata := true })
    | .starting =>
      if s.pwr.kind = .porAux ∨ s.pwr.kind = .porCore then s
      else if s.pwr.kind = .fermata then s.pinsReset.asMrst
      else s.pinsReset
    | _ =>
      let fatal := s.rd errStatusFatal
      let s := (s.endDrops.selfRefresh true).clearRegs (fun f => f.keepM)
      let s := (((s.dropWork false).weaveAfter false).loseStaging).pinsReset
      let s := s.when (fatal == 1) (fun s => s.wr errStatusFatal 0 1)
      s.pwrMap (fun p => { p with mode := .starting, kind := .mrst, startDue := some .mrst, linkReset := false })

/-- The replay-window entries of mutations that lost an entry (R496). -/
def State.markLost (s : State) : State :=
  let cids := ((s.store.staging.filter StgEnt.unsettled).map (fun e => e.cid)).eraseDups.filter (fun c => c != 0)
  let s := s.hostMap (fun h => { h with window := updAll (fun e => cids.contains e.cid) (fun e => { e with state := .never }) h.window })
  if cids = [] then s else (s.inc stgLostCount 0 cids.length).ev stgEventLost

/-- A warm reset (R778, R779): the core logic starts again with the store, the memory training and what W keeps; GDM_STATUS.below_min, a live
field, still reads whether the layout stands (R886). `link` is true for one
that comes through the host link. -/
def State.warmReset (s : State) (link : Bool) : State :=
  match s.pwr.mode with
  | .playing | .rest | .waking =>
    if s.rd errStatusFatal = 1 then s.mrst
    else
      let s := ((s.endDrops.selfRefresh true).clearRegs Fld.keepW).wr gdmStatusBelowMin 0 (if s.mem.belowMin then 1 else 0)
      let s := s.markLost
      let s := ((s.dropWork true).weaveAfter true).loseStaging
      s.pwrMap (fun p => { p with mode := .warm, startAt := s.clk.now, linkReset := link })
  | _ => s

/-- RST_CTRL written by a function (R777): only the owner's key has an effect. -/
def State.rstCtrl (s : State) (v : Nat) : State := if v = 0xA55A then s.warmReset false else s

/-! ## Starts (R786 to R790) -/

/-- The auxiliary supply is lost (R758): every state ends. -/
def State.auxLoss (s : State) : State :=
  let rec_ := s.pwr.record
  let s := ((s.clearRegs Fld.keepP).dropWork false).weaveAfter false
  let s := s.loseStore.pwrMap (fun p => { p with
    aux := false, auxMv := 0, mgc := false, mode := .off, kind := .porAux, startDue := none, retained := false, saved := [], session := none
    mrstInFermata := false, efuse := { p.efuse with locked := false, trips := [] }, gauge := ⟨p.gauge.bankMv, 0, false, false, false, false⟩
    record := rec_, alert := false, trayEvents := 0, errLog := [], samples := [], energyMj := 0, spsLast := false, waitPwrEn := false
    spm := ⟨[], none, [], 0, false, false⟩, boot := { p.boot with coldOk := false }, sinceStart := 0, jtag := ⟨true, .reset, 0xFE, 0, [], []⟩ })
  let s := s.memMap (fun _ => memReset)
  s.coreOff

/-- The always-on domain starts (R786): the pins are locked, the flash enters service mode, the MGC firmware is authenticated, and the
bleed begins. -/
def State.auxStart (s : State) (auxMv : Nat) : State :=
  let s := s.auxLoss
  let s := s.pwrMap (fun p => { p with aux := true, auxMv := auxMv })
  let s := s.pinsReset
  let dummy := (Config.measured s.free).toNat
  let s := (((((s.wr spmClkDiv 0 1).wr spmXipCfgCmd 0 0xEE11).wr spmXipCfgLanes 0 63).wr spmXipCfgDdr 0 7).wr spmXipCfgDuplex 0 0)
  let s := ((s.wr spmXipCfgDummy 0 dummy).wr spmXipCfgDqs 0 (dummy / 32)).tickFree
  let s := s.spmMap (fun m => { m with octal := true })
  let s := if s.bankBoots s.pwr.boot.active then s.pwrMap (fun p => { p with mgc := true })
    else if s.bankBoots s.inactive then s.fallBack.pwrMap (fun p => { p with mgc := true }) else s
  s.gaugeMap (fun g => if g.bankMv < 36000 then { g with bled := true, qUc := 0 } else { g with bleeding := true })

/-- CORE_START (R788, R697, R801): the core start that is due begins; the bank is selected when main power was off. HOSTMODE is sampled
at a POR and an MRST (R785), and a Fermata exit, which keeps no HST_PORT_MODE, finds the strap again (R34; log entry 90). A core POR resets the pins' set-up
and locks (R32, R783; log entry 86). -/
def State.coreStart (s : State) (split : Bool) (t : Nat) : State :=
  let s := s.advance t
  match s.pwr.startDue with
  | none => s
  | some k =>
    let s := match k with
      | .porAux | .porCore => s.selectBank false
      | .fermata => s.selectBank true
      | .mrst => s.reloadBank
    let s := s.wr hstPortModeSplit 0 (if split then 1 else 0)
    let s := s.when (k == .porAux || k == .porCore) State.pinsReset
    s.pwrMap (fun p => { p with startDue := none, mode := .starting, kind := k, startAt := s.clk.now, coreOn := true })

/-- STRST of a strand (R599): its buffers are discarded, its registers return to reset, and its training begins unless it is mapped
out (R591, R600). κ restarts at 1.0 (R69, R783). -/
def State.startTraining (s : State) (i : Nat) : State :=
  let s := s.clkMap (fun k => { k with kappa := 256 })
  let out := if i < 32 then (s.rd wvMapoutLoStrands).testBit i else (s.rd wvMapoutHiStrands).testBit (i - 32)
  let s := s.strandMap i (fun _ => strandNil)
  let s := (((s.wr wvStrandSpareUsed i 0).wr wvStrandFailedLane i 7).wr wvDelayPs i 0).wr wvStrandUse i 0
  let s := (((s.wr wvStrandPeer i 0xFFF).wr wvCeCount i 0).wr wvReplayCount i 0).wr wvAlignSlipCount i 0
  s.wr wvStrandState i (if out then 3 else 1)

/-- The engines of the fault record mapped out again before the first admission (R847). -/
def State.reMapOut (s : State) : State :=
  (s.wr swpMapoutLoEngines 0 (s.rd swpMapoutLoEngines ||| s.rd errEngineMappedLoEngines)).wr swpMapoutHiEngines 0
    (s.rd swpMapoutHiEngines ||| s.rd errEngineMappedHiEngines)

/-- The channels after a training (R541, R542, R549, R566, R576), which runs on every channel, mapped out or not: the pin rate is applied, the layout is the trained channels that are not
mapped out, and fewer than twelve leave no layout. A retained store keeps the marks of its granules. -/
def State.trainMemory (s : State) (trained : Nat) (retained : Bool) : State :=
  let s := s.wr gdmStatusRateNow 0 (s.rd gdmCtrlRate)
  let out := s.rd gdmMapoutChannels
  let s := s.memMap (fun m => { m with
    channels := (m.channels.zip (List.range 24)).map (fun p =>
      { p.1 with
        trained := trained.testBit p.2, faulted := !(trained.testBit p.2), selfRefresh := false
        retrainAt := s.clk.now, retrainTemp := p.1.temp, step := 0, stepFails := 0, stepEnd := 0, scrubbed := 0, postponed := []
        bad := if retained then p.1.bad else [], ueLog := if retained then p.1.ueLog else [] })
    scrubStart := s.clk.now })
  let set := (List.range 24).filter (fun h => trained.testBit h && !out.testBit h)
  if set.length < 12 then ((s.wr gdmActiveChannels 0 0).wr gdmStatusBelowMin 0 1).memMap (fun m => { m with belowMin := true })
  else
    let s := ((s.wr gdmActiveChannels 0 (sumN (set.map (fun h => 2 ^ h)))).wr gdmStatusBelowMin 0 0).memMap (fun m => { m with belowMin := false })
    s.setBases

/-- Staging at the exit of Fermata (R494, R495): the image is restored and rebased, or staging is lost and the kill entries rebuilt. -/
def State.restoreStaging (s : State) : State :=
  match s.store.image with
  | some l =>
    if s.store.imageBad then (s.storeMap (fun t => { t with image := none, staging := [] })).rebuildKills.ev stgEventImageBad
    else
      let keep := (l.filter (fun e => e.kill || e.endMeasure == none)).map (fun e => { e with commitMeasure := 0, settle := false })
      s.storeMap (fun t => { t with image := none, staging := keep })
  | none => s.rebuildKills

/-- The meters restart under a new epoch (R537). -/
def State.newEpoch (s : State) : State :=
  let r := (Config.random s.free).toNat
  let old := s.rd ownMeterEpochValue
  (s.wr ownMeterEpochValue 0 (if r = old then (r + 1) % 2 ^ 32 else r)).tickFree

/-- RST_CAUSE and RST_READY written at the end of a start (section 6 of chapter 17). -/
def State.writeCause (s : State) (f : Fld) (retained : Bool) : State :=
  let s := s.each [rstCausePorAux, rstCausePorCore, rstCauseMrst, rstCauseWrstCmd, rstCauseWrstLink, rstCauseFermata, rstCauseRetained]
    (fun s f => s.wr f 0 0)
  let s := (s.wr f 0 1).wr rstCauseRetained 0 (if retained then 1 else 0)
  s.wr rstReadyUs 0 (min 65535 ((s.clk.now - s.pwr.startAt) / 768000))

/-- The device is ready (R788): the lost marks are shown (R784), the strands train, the pins' sleep codes are released, the former owner's
functions are told (R890), and the first downbeat may come (R789). -/
def State.becomeReady (s : State) : State :=
  let s := s.each (s.store.shelves.filter (fun h => h.lost)) (fun s h =>
    s.wr gdmLostShelves (h.index / 32) (s.rd gdmLostShelves (h.index / 32) ||| 2 ^ (h.index % 32)))
  let s := s.each (List.range 64) State.startTraining
  let s := s.each (List.range 4) (fun s i => s.wr cndStateState i 1)
  let s := s.wakePins.clkMap (fun k => { k with ready := true, started := false, kappa := 256, predicted := k.now, missed := 0, good := 0 })
  let s := s.pwrMap (fun p => { p with mode := .playing })
  let s := s.wr errStatusFatal 0 0
  s.noticeChanged

/-- The Fermata record completed at exit and copied to the event log (R679). -/
def State.closeRecord (s : State) : State :=
  match s.pwr.record with
  | some r =>
    let r := { r with holdMs := (s.clk.now - r.entered) / 768000000 }
    (s.pwrMap (fun p => { p with record := some r })).logFlash r.bytes
  | none => s

/-- CORE_READY (R788, R789, R845, R847): a core start ends. `trained` has a bit for each channel that passed its training. -/
def State.coreReady (s : State) (trained t : Nat) : State :=
  let s := s.advance t
  if s.pwr.mode ≠ .starting ∨ s.pwr.startDue.isSome then s
  else match s.pwr.kind with
    | .porAux | .porCore =>
      let aux := s.pwr.kind = .porAux
      let s := (s.loseStore.trainMemory trained false).reMapOut
      let s := s.storeMap (fun t => { t with laid := s.active })
      let s := s.writeCause (if aux then rstCausePorAux else rstCausePorCore) false
      let s := s.pwrMap (fun p => { p with kind := .porCore, retained := false, sinceStart := 0 })
      (s.newEpoch.raiseSvn).becomeReady
    | .mrst =>
      let s := ((s.trainMemory trained true).recover.loseStaging).rebuildKills.reMapOut
      let s := s.writeCause rstCauseMrst true
      let s := s.pwrMap (fun p => { p with kind := .porCore, retained := false, mrstInFermata := false, sinceStart := if p.mrstInFermata then 0 else p.sinceStart })
      (s.newEpoch.raiseSvn).becomeReady
    | .fermata =>
      let saved := s.pwr.saved
      let s := { s with regs := saved.foldl (fun r (e : Nat × Nat) => regInsert e.1 e.2 r) s.regs }
      let s := ((s.trainMemory trained true).recover.restoreStaging).reMapOut
      let s := (s.writeCause rstCauseFermata true).ev pwrEventFermata
      let s := s.closeRecord.pwrMap (fun p => { p with kind := .porCore, retained := false, saved := [], inLow := false, sinceStart := 0 })
      (s.newEpoch.raiseSvn).becomeReady

/-- WRST_READY (R778, R496): a warm reset ends; a change of the pin rate runs a full training that keeps the contents (R776). -/
def State.wrstReady (s : State) (trained t : Nat) : State :=
  let s := s.advance t
  if s.pwr.mode ≠ .warm then s
  else
    let s := if s.rd gdmCtrlRate = s.rd gdmStatusRateNow then s.selfRefresh false else s.trainMemory trained true
    let s := ((s.reloadBank).recover).rebuildKills
    let s := s.writeCause (if s.pwr.linkReset then rstCauseWrstLink else rstCauseWrstCmd) true
    s.becomeReady

/-- FERMATA_EXIT (R677, R780): after 10 ms of good bus with PWR_EN high the switch closes and the exit begins. -/
def State.fermataExit (s : State) (t : Nat) : State :=
  let s := s.advance t
  let p := s.pwr
  let steady := match p.busGoodFrom with | some f => decide (f + ns 10000000 ≤ s.clk.now) | none => false
  let may := p.pwrEn && p.aux && p.mgc && !p.efuse.tripped && !p.efuse.locked && p.session.isNone && !p.ejectOpen && !p.waitPwrEn
  if p.mode ≠ .fermata ∨ p.startDue.isSome ∨ !steady ∨ !may then s
  else
    let s := s.pwrMap (fun p => { p with switchOn := true, pwrGood := true, mode := .starting, kind := .fermata, startDue := some .fermata })
    s.when s.pwr.mrstInFermata State.asMrst

/-! ## Rest (R761 to R766) -/

/-- Rest is entered (R577, R762): graphics memory refreshed and in self-refresh, the strands in low-power idle, the pins' Rest codes. -/
def State.restEnter (s : State) : State :=
  let s := ((s.selfRefresh true).memMap (fun m => { m with channels := m.channels.map (fun c => { c with postponed := [] }) })).sleepPins 1
  let s := s.each (List.range 64) (fun s i => if s.rd wvStrandState i = 2 then s.wr wvStrandState i 4 else s)
  (s.pwrMap (fun p => { p with mode := .rest })).clkMap (fun k => { k with emptyRun := 0, ready := false })

/-- A wake event (R764): Rest exit begins. -/
def State.restWake (s : State) : State :=
  if s.pwr.mode = .rest then s.pwrMap (fun p => { p with mode := .waking, wakeAt := s.clk.now }) else s

/-- REST_EXIT_READY (R765, R577): Rest exit ends; `failed` has a bit for each channel that failed its retraining and its full training. -/
def State.restReady (s : State) (failed t : Nat) : State :=
  let s := s.advance t
  if s.pwr.mode ≠ .waking then s
  else
    let s := s.selfRefresh false
    let s := s.memMap (fun m => { m with channels := m.channels.map (fun c => { c with retrainAt := s.clk.now, retrainTemp := c.temp, step := 0 }) })
    let s := s.each (List.range 64) (fun s i => if s.rd wvStrandState i = 4 then s.wr wvStrandState i 2 else s)
    let s := (s.wakePins.pwrMap (fun p => { p with mode := .playing })).clkMap (fun k => { k with ready := true, kappa := 256 })
    let s := s.wr pwrRestLastUs 0 (min 65535 ((s.clk.now - s.pwr.wakeAt) / 768000))
    s.each (setBits 24 failed) (fun s h => if s.active.contains h then s.channelFault h 10 4 else s)

/-! ## Host-link resets (R392, R773, R783) -/

/-- A port's link and configuration space reset: its functions are gone until the link trains again. -/
def State.portDown (s : State) (port : Nat) : State :=
  let seats := if port = 0 ∧ s.rd hstPortModeSplit = 0 then List.range 65 else pfSeat port :: s.vfSeats port
  let s := s.each seats (fun s t => s.fnMap t (fun f => { fnNil t with internalError := f.internalError }))
  s.hostMap (fun h => { h with ports := updAt port (fun p => { p with up := false, width := 0, speed := 0, flit := false, vfEnable := false }) h.ports })

/-- A hot reset of a port (R392): a warm reset in x16 mode, the seat resets of the port's seats in x8x8 mode. -/
def State.hotReset (s : State) (port : Nat) : State :=
  if s.rd hstPortModeSplit = 1 then
    (s.each (pfSeat port :: s.vfSeats port) State.srst).portDown port
  else if port = 0 then (s.portDown 0).warmReset true
  else s

/-! ## Thermal (R769, R771, R772) -/

/-- THERMAL_GATE (R771): the upper four engines of each cluster take no further tile. -/
def State.thermalGate (s : State) (tj : Nat) : State :=
  let s := s.pwrMap (fun p => { p with tj := tj })
  if tj < 1050 ∨ s.pwr.mode ≠ .playing then s
  else
    let es := (s.sweep.engines.zip (List.range 64)).map (fun p => if 4 ≤ p.2 % 8 then { p.1 with thermal := true } else p.1)
    let s := (s.sweepMap (fun w => { w with engines := es })).pwrMap (fun p => { p with gatedNow := true })
    (s.powerEvent pwrEventThermal).logError 3 0 0 56 tj

/-- THERMAL_TRIP (R772): the planned entry, after which PWR_EN must go low and high again. -/
def State.thermalTrip (s : State) (tj : Nat) : State :=
  let s := s.pwrMap (fun p => { p with tj := tj })
  if tj < 1150 ∨ !s.pwr.coreOn then s
  else
    let s := (s.powerEvent pwrEventThermal).logError 3 0 0 57 tj
    (s.powerFail 6 true).pwrMap (fun p => { p with waitPwrEn := true })

/-! ## The e-fuse and the tray's main power (R661 to R664, R671, R673, R682, R683) -/

/-- EFUSE_TRIP (R661, R663, R664): the e-fuse opens when its limits are passed for their times; the third trip within 600 s of the
first locks it. -/
def State.efuseTrip (s : State) (ma mv durNs t : Nat) : State :=
  let s := s.advance t
  let trips := 9000 < ma ∨ (5400 < ma ∧ 10000000 < durNs) ∨ (60000 < mv ∧ 1000 < durNs)
  if ¬ trips ∨ !s.pwr.switchOn ∨ s.pwr.efuse.tripped then s
  else
    let e := s.pwr.efuse
    let locks := match e.trips with | _ :: first :: _ => decide (s.clk.now ≤ first + ns 600000000000) | _ => false
    let s := s.pwrMap (fun p => { p with
      efuse := ⟨true, e.locked || locks, s.clk.now :: e.trips.take 1⟩, faultTrips := p.faultTrips + 1, inputMa := ma, busMv := mv })
    let s := (s.inc pwrEfuseTrips).wr pwrEfuseLocked 0 (if s.pwr.efuse.locked then 1 else 0)
    let s := (s.powerEvent pwrEventEfuseTrip).alertOn
    (s.logError 3 10 0 59 (s.rd pwrEfuseTrips)).powerFail 2 false

/-- BUS_UNDERVOLTAGE (R671): the module bus below 46.0 V for 2 µs. -/
def State.busLow (s : State) (mv durNs t : Nat) : State :=
  let s := s.advance t
  if 46000 ≤ mv ∨ durNs < 2000 then s
  else
    let s := s.pwrMap (fun p => { p with busMv := mv, busGoodFrom := none })
    if s.pwr.switchOn then s.powerFail 1 false else s

/-- CONVERTER_FAULT (R671). -/
def State.converterFault (s : State) (t : Nat) : State :=
  let s := s.advance t
  if s.pwr.switchOn then s.powerFail 3 false else s

/-- PWR_EN_LOW (R673): the planned entry on main power; the switch opens. -/
def State.pwrEnLow (s : State) (t : Nat) : State :=
  let s := s.advance t
  let s := s.pwrMap (fun p => { p with pwrEn := false })
  s.powerFail 4 true

/-- Since when the bus has been in the range of R677, after a reading. -/
def State.busNow (s : State) (mv : Nat) : State :=
  let good := decide (48000 ≤ mv ∧ mv ≤ 57000)
  s.pwrMap (fun p => { p with busMv := mv, busGoodFrom := if good then some (p.busGoodFrom.getD s.clk.now) else none })

/-- PWR_EN_HIGH (R682, R695): an open session ends without staging, and the switch closes when its conditions hold. -/
def State.pwrEnHigh (s : State) (mv t : Nat) : State :=
  let s := (s.advance t).busNow mv
  if s.pwr.pwrEn then s
  else
    let s := s.pwrMap (fun p => { p with pwrEn := true, waitPwrEn := false, session := none })
    (s.stageNext).tryClose

/-- TRAY_BUS_RETURN (R657, R682): the tray bus comes back into range. -/
def State.busReturn (s : State) (mv t : Nat) : State := ((s.advance t).busNow mv).tryClose

/-- EJECT (R683). -/
def State.eject (s : State) : State :=
  if s.pwr.ejectOpen ∨ !s.pwr.aux then s.pwrMap (fun p => { p with ejectOpen := true })
  else (s.pwrMap (fun p => { p with ejectOpen := true })).powerEvent pwrEventEject

/-- EJECT_CLOSE (R682). -/
def State.ejectClose (s : State) : State := (s.pwrMap (fun p => { p with ejectOpen := false })).tryClose

/-- AUX_DIP (R675): an auxiliary dip below 3.0 V for 10 µs in Fermata loses retention. -/
def State.auxDip (s : State) (mv durNs t : Nat) : State :=
  let s := (s.advance t).pwrMap (fun p => { p with auxMv := mv })
  if mv < 3000 ∧ 10000 ≤ durNs ∧ (s.pwr.mode = .fermata ∨ (s.pwr.retained ∧ s.pwr.startDue.isSome)) then s.retentionLost else s

/-- BLEED_END (R666, R668, R787): the bank is below Vmin, or the bleed has run for 2 s and the gauge is at fault. -/
def State.bleedEnd (s : State) (mv t : Nat) : State :=
  let s := s.advance t
  if !s.pwr.gauge.bleeding then s
  else
    let low := decide (mv < 36000)
    let s := s.gaugeMap (fun g => { g with bankMv := mv, bleeding := false, bled := true, qUc := 0 })
    s.when (!low) State.gaugeFault

/-- GAUGE_SAMPLE (R667 to R669, R700): every 1 ms the MGC samples the module, the gauge forms its readings, and arming is re-evaluated.
`dq` is the charge that has flowed into the bank since the last sample, in µC; `temps` are the hotter device temperatures of the channels,
in °C. -/
def State.gaugeSample (s : State) (bankMv : Nat) (dq : Int) (overflow : Bool) (busMv inputMa inputMw dMj auxMv tj memC inletC : Nat)
    (temps : List Nat) (t : Nat) : State :=
  let s := s.advance t
  if !s.pwr.aux ∨ !s.pwr.mgc then s
  else
    let s := (s.busNow busMv).pwrMap (fun p => { p with
      inputMa := inputMa, inputMw := inputMw, energyMj := (p.energyMj + dMj) % 2 ^ 64, auxMv := auxMv, tj := tj, memC := memC, inletC := inletC })
    let s := s.memMap (fun m => { m with channels := (m.channels.zip (List.range 24)).map (fun p => { p.1 with temp := temps.getD p.2 p.1.temp }) })
    let s := s.gaugeMap (fun g => { g with
      bankMv := bankMv, qUc := if g.bled && (decide (36000 ≤ bankMv) || decide (0 < g.qUc)) then ((g.qUc : Int) + dq).toNat else g.qUc })
    let g := s.pwr.gauge
    let ev := gaugeEv bankMv
    let eq := gaugeEq g.qUc
    let apart := decide (15 * max ev eq < 100 * (max ev eq - min ev eq))
    let s := s.when (g.bled && (apart || decide (60000 < bankMv) || overflow)) State.gaugeFault
    let sample := [busMv, inputMa, inputMw, bankMv, g.reading, tj, memC, inletC, auxMv]
    (s.pwrMap (fun p => { p with samples := (sample :: p.samples).take 10 })).rearm

/-- The average of a sampled quantity over the last 10 ms (R700). -/
def State.average (s : State) (k : Nat) : Nat :=
  let l := s.pwr.samples.map (fun x => x.getD k 0)
  if l = [] then 0 else sumN l / l.length

end Sys2Proof.Machine
end

