-- ==== Sys2Proof/Machine/Serial.lean ====
section
/-!
DEFINITION. The serial port slave and the tray commands (R684 to R688, R695, R700, R718 to R728).
-/
namespace Sys2Proof.Machine

/-- One step of the CRC-8 of R720. -/
def crc8Byte (c : BitVec 8) (b : Byte) : BitVec 8 :=
  (List.range 8).foldl (fun c _ => if c.getLsbD 7 then (c <<< 1) ^^^ 0x07#8 else c <<< 1) (c ^^^ b)

/-- The CRC-8 of a string (R720). -/
def crc8 (bs : Bytes) : BitVec 8 := bs.foldl crc8Byte 0#8

/-- The status byte (R721). -/
def State.spsStatus (s : State) : Byte :=
  let p := s.pwr
  let full := match p.session with | some x => decide (2 ≤ x.buffered.length) | none => false
  BitVec.ofNat 8 (64 + (if p.alert then 32 else 0) + (if full then 16 else 0) + (if p.session.isSome then 8 else 0) +
    (if p.pwrGood then 4 else 0) + (if p.mode == .fermata then 2 else 0) + (if p.spsLast then 1 else 0))

/-- The state code of TC_STATUS (R687). -/
def State.tcState (s : State) : Nat :=
  match s.pwr.mode with
  | .off => if s.pwr.startDue.isSome then 1 else 0
  | .starting => if s.pwr.kind = .fermata then 6 else 1
  | .playing => 2 | .rest => 3 | .waking => 3 | .warm => 1 | .fermata => 5

/-- The PWR_EVENT bits as the tray sees them (R687, R688). -/
def State.trayBits (s : State) : Nat := s.pwr.trayEvents

/-- What a tray command does: the state after it, its result code (R722) and its reply. -/
abbrev TcOut := State × Nat × Bytes

/-- A result without effect. -/
def State.tcNo (s : State) (code : Nat) : TcOut := (s, code, [])

/-- TC_IDENT (R687). -/
def State.tcIdent (s : State) : TcOut :=
  let b := s.pwr.boot
  let retained := s.pwr.mode == .fermata || s.pwr.retained
  (s, 0, padTo 64 (leBytes 8 Config.serial.toNat ++ [64] ++ leBytes 1 Config.stepping.toNat ++ leBytes 1 Config.slotId.toNat ++
    leBytes 1 (if retained then 1 else 0) ++ leBytes 8 (s.bankVersion b.active) ++ leBytes 8 (s.bankVersion s.inactive) ++ leBytes 1 b.staged))

/-- TC_STATUS (R685, R687, R688): the tray's copy of PWR_EVENT is returned and cleared, and ALERT_N released. -/
def State.tcStatus (s : State) : TcOut :=
  let p := s.pwr
  let flags := (if p.pwrGood then 1 else 0) + (if p.gauge.armed then 2 else 0) + (if p.gauge.fault then 4 else 0) +
    (if p.efuse.tripped then 8 else 0) + (if p.efuse.locked then 16 else 0)
  let reply := padTo 32 (leBytes 1 s.tcState ++ leBytes 1 flags ++ zeros 2 ++ leBytes 4 p.gauge.reading ++ leBytes 4 s.trayBits ++
    leBytes 4 (s.rd pwrEfuseTrips))
  let s' := s.pwrMap (fun p => { p with trayEvents := 0, alert := false })
  (if p.alert then s'.emit (.alert false) else s', 0, reply)

/-- TC_TELEM (R700). -/
def State.tcTelem (s : State) : TcOut :=
  let off := !s.pwr.coreOn
  (s, 0, padTo 64 (leBytes 2 (s.average 0 / 10) ++ leBytes 2 (s.average 1) ++ leBytes 4 (s.average 2) ++ leBytes 8 s.pwr.energyMj ++
    leBytes 2 (s.average 3 / 10) ++ zeros 2 ++ leBytes 4 (s.average 4) ++ leBytes 2 (if off then 0xFFFF else s.average 5) ++
    leBytes 2 (if off then 0xFFFF else s.average 6) ++ leBytes 2 (s.average 7) ++ leBytes 2 (s.average 8)))

/-- TC_EFUSE_REARM (R664, R727). -/
def State.tcRearm (s : State) : TcOut :=
  let e := s.pwr.efuse
  if !e.tripped then (s, 0, [])
  else if e.locked || (match e.trips with | t :: _ => decide (s.clk.now < t + ns 1000000000) | [] => false) then s.tcNo 1
  else ((s.pwrMap (fun p => { p with efuse := { p.efuse with tripped := false } })).tryClose, 0, [])

/-- TC_FW_OPEN (R693, R695, R727): a session on the inactive bank, which is erased for the declared length. -/
def State.tcOpen (s : State) (body : Bytes) : TcOut :=
  let len := field body 0 4
  if s.pwr.session.isSome ∨ s.pwr.fwWrite.isSome ∨ len < 64 ∨ 16777216 < len then s.tcNo 1
  else
    let s := s.bootMap (fun b => { b with staged := 0, stagedMeasure := 0, empty := true })
    let k := s.inactive
    ((s.pwrMap (fun p => { p with session := some ⟨k, len, [], [], 0, s.clk.now⟩ })).nextFlash, 0, [])

/-- TC_FW_WRITE (R725, R726). -/
def State.tcWrite (s : State) (body : Bytes) : TcOut :=
  let off := field body 0 4
  let chunk := body.drop 4
  match s.pwr.session with
  | none => s.tcNo 1
  | some x =>
    if 2 ≤ x.buffered.length then s.tcNo 2
    else if off % 256 ≠ 0 ∨ x.length < off + 256 then s.tcNo 6
    else match x.written.find? (fun c => c.1 == off) with
      | some c => if c.2 = chunk then (s, 0, []) else s.tcNo 6
      | none =>
        let x := { x with written := x.written ++ [(off, chunk)], buffered := x.buffered ++ [off] }
        ((s.pwrMap (fun p => { p with session := some x })).nextFlash, 0, [])

/-- A session ends (R695): a waiting FW_STAGE may write, and the switch may close. -/
def State.endSession (s : State) : State :=
  let s := s.spmMap (fun m => { m with op := none })
  ((s.pwrMap (fun p => { p with session := none })).stageNext).tryClose

/-- TC_FW_CLOSE (R692, R695, R725): every buffered chunk is programmed, the image is checked, and the session closes. -/
def State.tcClose (s : State) (body : Bytes) : TcOut :=
  match s.pwr.session with
  | none => s.tcNo 1
  | some x =>
    if 2 ≤ x.buffered.length then s.tcNo 2
    else
      let s := s.bankMap x.bank (fun a => a.wipe (65536 * x.erased) (65536 * (cdiv x.length 65536 - x.erased)))
      let s := s.each x.buffered (fun s off => s.bankMap x.bank (fun a =>
        a.program off (((x.written.find? (fun c => c.1 == off)).map (fun c => c.2)).getD [])))
      let image := s.bankBytes x.bank 0 x.length
      let crcOk := crc32c image == field body 0 4
      let ok := crcOk && s.imageOk image
      let s := s.bootMap (fun b => { b with staged := if ok then 1 else 2, empty := !ok, stagedMeasure := 0 })
      (s.endSession, 0, [if ok then 0 else if crcOk then 2 else 1])

/-- TC_FW_READ (R687). -/
def State.tcRead (s : State) (body : Bytes) : TcOut :=
  let bank := field body 0 1
  let off := field body 1 4
  if s.pwr.session.isSome ∨ (bank ≠ 1 ∧ bank ≠ 2) ∨ 16777216 < off + 256 then s.tcNo 1
  else (s, 0, s.bankBytes bank off 256)

/-- TC_LOG_READ (R687). -/
def State.tcLog (s : State) (body : Bytes) : TcOut :=
  match s.pwr.evLog[field body 0 2]? with
  | some r => (s, 0, r)
  | none => s.tcNo 1

/-- TC_FAULT_READ (R687): the layout of the fault record is not stated, so its bytes are free. -/
def State.tcFault (s : State) : TcOut := (s.tickFrees 256, 0, s.freeBytes 256)

/-- The request length of a tray command (R687); none for a code that is not listed (R722). -/
def tcLength (code : Nat) : Option Nat :=
  match code with
  | 0x01 | 0x02 | 0x03 | 0x10 | 0x31 => some 0
  | 0x20 | 0x22 => some 4
  | 0x21 => some 260
  | 0x23 => some 5
  | 0x30 => some 2
  | _ => none

/-- A tray command applied (R687): while the MGC is in its boot ROM it answers TC_IDENT, TC_STATUS, the sessions and TC_FW_READ
(R786). -/
def State.tcApply (s : State) (code : Nat) (body : Bytes) : TcOut :=
  if !s.pwr.mgc && [0x03, 0x10, 0x30, 0x31].contains code then s.tcNo 1
  else match code with
    | 0x01 => s.tcIdent
    | 0x02 => s.tcStatus
    | 0x03 => s.tcTelem
    | 0x10 => s.tcRearm
    | 0x20 => s.tcOpen body
    | 0x21 => s.tcWrite body
    | 0x22 => s.tcClose body
    | 0x23 => s.tcRead body
    | 0x30 => s.tcLog body
    | _ => s.tcFault

/-- A request as the MGC takes it (R722): its CRC, then its code, then its length, then its state. -/
def State.tcRequest (s : State) (code : Nat) (body : Bytes) (crc : Byte) : TcOut :=
  if crc8 (leBytes 1 code ++ leBytes 2 body.length ++ body) ≠ crc then s.tcNo 5
  else match tcLength code with
    | none => s.tcNo 3
    | some n =>
      if body.length ≠ n then s.tcNo 4
      else
        let s := s.pwrMap (fun p => { p with session := p.session.map (fun x => { x with lastAt := s.clk.now }) })
        s.tcApply code body

/-- The counts of a result (section 9 of chapter 16). -/
def State.spsCount (s : State) (result : Nat) : State :=
  if result = 0 then s else if result = 5 then s.inc spsCrcCount else s.inc spsRefusedCount

/-- One whole transfer (R719, R721, R722): the status byte as at its start, the start byte, the result, the reply and its CRC. An MGC
that does not answer yet leaves the line released. -/
def State.spsFrame (s : State) (code : Nat) (body : Bytes) (crc : Byte) (t : Nat) : State :=
  let s := s.advance t
  if !s.pwr.aux then s
  else
    let st := s.spsStatus
    let r := s.tcRequest code body crc
    let tail := leBytes 1 r.2.1 ++ leBytes 2 r.2.2.length ++ r.2.2
    let s := ((r.1.inc spsFramesCount).spsCount r.2.1).pwrMap (fun p => { p with spsLast := decide (r.2.1 ≠ 0) })
    s.emit (.sps (st :: 0xA5#8 :: tail ++ [crc8 tail]))

/-- SPS_TRANSFER_CUT (R724): chip select rises after the bytes given; the request is applied when its CRC byte was complete. -/
def State.spsCut (s : State) (bytes : Bytes) (t : Nat) : State :=
  let s := s.advance t
  if !s.pwr.aux then s
  else
    let n := field bytes 1 2
    let whole := decide (4 + n ≤ bytes.length)
    let s := if whole then
        let r := s.tcRequest (field bytes 0 1) (slice bytes 3 n) (bytes.getD (3 + n) 0)
        r.1.spsCount r.2.1
      else s
    (s.inc spsCutCount).pwrMap (fun p => { p with spsLast := true })

/-- TC_FW_SESSION_TIMEOUT (R695): a session that has had no command for 600 s ends without staging. -/
def State.sessionTimeout (s : State) (t : Nat) : State :=
  let s := s.advance t
  match s.pwr.session with
  | some x => if x.lastAt + ns 600000000000 ≤ s.clk.now then s.endSession else s
  | none => s

end Sys2Proof.Machine
end

