-- ==== Sys2Proof/Machine/Tap.lean ====
section
/-!
DEFINITION. The test access port (R871 to R873): its sixteen states, its instruction register and its data registers. The state
diagram and the edges on which the port acts are those of IEEE 1149.1 (PRESUMED, log entry 42).
-/
namespace Sys2Proof.Machine

/-- The test access port changed. -/
def State.jtagMap (s : State) (f : Jtag → Jtag) : State := s.pwrMap (fun p => { p with jtag := f p.jtag })

/-- The next state by TMS. -/
def Tap.next : Tap → Bool → Tap
  | .reset, false => .idle | .reset, true => .reset
  | .idle, false => .idle | .idle, true => .selDr
  | .selDr, false => .capDr | .selDr, true => .selIr
  | .capDr, false => .shDr | .capDr, true => .ex1Dr
  | .shDr, false => .shDr | .shDr, true => .ex1Dr
  | .ex1Dr, false => .pauDr | .ex1Dr, true => .upDr
  | .pauDr, false => .pauDr | .pauDr, true => .ex2Dr
  | .ex2Dr, false => .shDr | .ex2Dr, true => .upDr
  | .upDr, false => .idle | .upDr, true => .selDr
  | .selIr, false => .capIr | .selIr, true => .reset
  | .capIr, false => .shIr | .capIr, true => .ex1Ir
  | .shIr, false => .shIr | .shIr, true => .ex1Ir
  | .ex1Ir, false => .pauIr | .ex1Ir, true => .upIr
  | .pauIr, false => .pauIr | .pauIr, true => .ex2Ir
  | .ex2Ir, false => .shIr | .ex2Ir, true => .upIr
  | .upIr, false => .idle | .upIr, true => .selDr

/-- The IDCODE (R871, R885). -/
def idcode : Nat := 1 + 2 * Config.maker.toNat + 2 ^ 12 * 0x3064 + 2 ^ 28 * (Config.stepping.toNat % 16)

/-- Cells of the boundary-scan register (R872): 24 GPIO, 13 SPM, 4 SPS, MRST_N, PERST_N and HOSTMODE, and RESET_N and CKE_N of 24 channels,
one cell a ball. -/
def bsrCells : Nat := 92

/-- The register between TDI and TDO (R871): EXTEST and SAMPLE/PRELOAD select the boundary-scan register, IDCODE the IDCODE, every other
code the bypass bit. -/
inductive TapReg where
  | boundary | idcode | bypass
  deriving DecidableEq, Repr

/-- The data register an instruction selects. -/
def tapReg (ir : Nat) : TapReg := if ir = 0x00 ∨ ir = 0x01 then .boundary else if ir = 0xFE then .idcode else .bypass

/-- What a data register captures. The order of the boundary-scan cells and what they sample are not stated, so their bits are free. -/
def State.tapCapture (s : State) (ir : Nat) : List Bool :=
  match tapReg ir with
  | .boundary => (List.range bsrCells).map (fun i => (Config.freeByte (s.free + i)).getLsbD 0)
  | .idcode => (List.range 32).map (fun i => idcode.testBit i)
  | .bypass => [false]

/-- A bit shifted into a register whose first bit is next to TDO. -/
def shiftIn (tdi : Bool) (l : List Bool) : List Bool := l.drop 1 ++ [tdi]

/-- The port in Test-Logic-Reset with IDCODE selected. -/
def State.tapReset (s : State) : State := s.jtagMap (fun j => { j with state := .reset, ir := 0xFE })

/-- TAP_TCK_EDGE (R871): on a rising edge the port captures, shifts and moves by TMS; on a falling edge it drives TDO and updates. -/
def State.tapEdge (s : State) (rising tms tdi : Bool) : State :=
  let j := s.pwr.jtag
  if j.trst then s.tapReset
  else if rising then
    let s := match j.state with
      | .capDr => (s.jtagMap (fun j => { j with drShift := s.tapCapture j.ir })).tickFrees bsrCells
      | .shDr => s.jtagMap (fun j => { j with drShift := shiftIn tdi j.drShift })
      | .capIr => s.jtagMap (fun j => { j with irShift := 1 })
      | .shIr => s.jtagMap (fun j => { j with irShift := j.irShift / 2 + (if tdi then 128 else 0) })
      | _ => s
    let nx := j.state.next tms
    if nx = .reset then s.tapReset else s.jtagMap (fun j => { j with state := nx })
  else match j.state with
    | .shDr => s.emit (.tdo (j.drShift.headD false))
    | .shIr => s.emit (.tdo (j.irShift.testBit 0))
    | .upIr => s.jtagMap (fun j => { j with ir := j.irShift })
    | .upDr => if tapReg j.ir = .boundary then s.jtagMap (fun j => { j with bsr := j.drShift }) else s
    | _ => s

/-- TRST_ASSERT (R873): TRST_N goes low, or is released. -/
def State.trst (s : State) (low : Bool) : State :=
  let s := s.jtagMap (fun j => { j with trst := low })
  if low then s.tapReset else s

end Sys2Proof.Machine
end

