-- ==== Sys2Proof/Machine/Bar0.lean ====
section
/-!
DEFINITION. BAR0 (R25 to R31, R368, R499, R500, R536, R886): the value of every register, live fields computed from the state they
report, and what a 32-bit write of each register does.
-/
namespace Sys2Proof.Machine

/-! ## Reads -/

/-- The state of an engine (SWP_STATUS): reset, mapped out, Tacet, chain mode where it holds a position of a chain of several (R207, R208), or pass
mode. -/
def State.engineState (s : State) (e : Nat) : Nat :=
  let out := s.inForce swpMapoutLoEngines + 2 ^ 32 * s.inForce swpMapoutHiEngines
  if (s.engine e).inErst then 3
  else if out.testBit e then 4
  else if (s.engine e).tacet then 0
  else if s.sweep.plan.copies.any (fun c => c.proj != 0 && decide (1 < c.team.length) && c.team.any (fun t => t.1 == e)) then 2 else 1

/-- An engine holds a product-code group in this pass (SWP_STATUS.code_group). -/
def State.codeGroup (s : State) (e : Nat) : Bool := (s.engine e).bank.any (fun b => b.code)

/-- The group slots of an engine's query bank in use (SWP_STATUS.slots). -/
def State.slotsHeld (s : State) (e : Nat) : Nat := sumN ((s.engine e).bank.map (fun b => b.units))

/-- Voices that are neither done nor stopped (VOI_ACTIVE; R285). -/
def State.voicesActive (s : State) : Nat := (s.rr.voices.filter (fun v => v.state != .done && v.state != .stopped && v.state != .free)).length

/-- The state of a channel (GDM_CH). -/
def State.chState (s : State) (h : Nat) : Nat :=
  let c := s.channel h
  if (s.rd gdmMapoutChannels).testBit h ∧ !(s.active.contains h) then 4
  else if c.faulted then 3 else if c.selfRefresh then 5 else if !c.trained then 0 else if s.inStep h then 2 else 1

/-- PWR_STATE: Tacet while every active engine is in Tacet (R759). -/
def State.pwrState (s : State) : Nat :=
  match s.pwr.mode with
  | .rest => 2
  | .waking => 3
  | .playing => if s.clk.started ∧ s.engines ≠ [] ∧ s.engines.all (fun e => (s.engine e).tacet) then 1 else 0
  | _ => 0

/-- CLK_LOCK: in Rest only PLL_BEAT, PLL_HOST and the strand PLLs run (R751, R762). -/
def State.clkLock (s : State) : Nat :=
  if !s.pwr.coreOn then 0 else (if s.pwr.mode = .rest then 0xFF0C else 0xFFFF) &&& (0xFFFF - s.pwr.pllLost % 65536)

/-- TEL_EVENT.energy_unc (R835). -/
def State.energyUnc (s : State) : Bool := Config.coeffBad || decide (1050 < s.pwr.tj) || decide (s.pwr.sinceStart < 1024)

/-- The deputy is in the map and not lost (WV_DEPUTY.ok). -/
def State.deputyOk (s : State) : Bool :=
  let a := s.rd wvDeputyAddr
  a != 0xFFF && (s.mapEnt? a).isSome && !(s.weave.members.any (fun m => m.addr == a && m.lost))

/-- A Bool as a bit. -/
def bit (b : Bool) : Nat := if b then 1 else 0

/-- A field whose value is computed from the state it reports (R886), and the fields loaded from fuses and flash. -/
def State.live? (s : State) (f : Fld) (i : Nat) : Option Nat :=
  if f.win then none
  else match f.off, f.lo with
    | 0x10, 0 => some (s.host.ports.getD i portReset).width
    | 0x10, 8 => some (s.host.ports.getD i portReset).speed
    | 0x10, 12 => some (bit (s.host.ports.getD i portReset).flit)
    | 0x10, 13 => some (bit (s.host.ports.getD i portReset).up)
    | 0x2018, 0 => some (bit s.clk.locked)
    | 0x2018, 1 => some (bit s.clk.holdover)
    | 0x2018, 16 => some s.clk.kappa
    | 0x3100, 0 => some (s.engineState i)
    | 0x3100, 3 => some (bit (s.codeGroup i))
    | 0x3100, 4 => some (s.slotsHeld i)
    | 0x4004, 0 => some s.voicesActive
    | 0x4800, 0 => some (s.postLimit i)
    | 0x6008, 0 => some s.host.grants.length
    | 0x7004, 0 => some (insertUnits s.store.staging + killUnits s.store.staging)
    | 0x7008, 0 => some (s.store.staging.filter (fun e => !e.kill)).length
    | 0x700C, 0 => some (s.store.staging.filter (fun e => e.kill)).length
    | 0x10100, 0 => some (s.chState i)
    | 0x10100, 8 => some (s.channel i).temp
    | 0x2000C, 16 => some (bit s.deputyOk)
    | 0x32014, 0 => some s.gpioIn
    | 0x40000, 0 => some s.pwrState
    | 0x4000C, 0 => some s.pwr.tj
    | 0x4000C, 16 => some s.pwr.engines
    | 0x40800, 0 => some (bit s.pwr.gauge.armed)
    | 0x40800, 1 => some (bit s.pwr.gauge.fault)
    | 0x40804, 0 => some s.pwr.gauge.reading
    | 0x40804, 16 => some (s.pwr.gauge.bankMv / 10)
    | 0x40808, 0 => some (gaugeEv s.pwr.gauge.bankMv)
    | 0x40808, 16 => some (gaugeEq s.pwr.gauge.qUc)
    | 0x40814, 0 => some (s.average 2)
    | 0x42000, 0 => some s.clkLock
    | 0x50028, 0 => some s.svnMin
    | 0x50028, 8 => some Config.revoked.toNat
    | 0x50028, 12 => some (field (s.bankSig s.pwr.boot.active) 4 1)
    | 0x61000, 0 => some s.pwr.boot.active
    | 0x61000, 2 => some s.pwr.boot.staged
    | 0x61000, 4 => some s.pwr.boot.lastBoot
    | 0x61004, 0 => some (s.bankVersion s.pwr.boot.active)
    | 0x61008, 0 => some (s.bankVersion s.pwr.boot.active / 2 ^ 32)
    | 0x7002C, 1 => some (bit s.energyUnc)
    | _, _ => none

/-- The instance of a field that lies in the register word at an offset. -/
def Fld.indexAt (f : Fld) (off : Nat) : Option Nat :=
  if off < f.off then none
  else if f.stride = 0 then (if off = f.off then some 0 else none)
  else if (off - f.off) % f.stride = 0 ∧ (off - f.off) / f.stride < f.count then some ((off - f.off) / f.stride) else none

/-- The fields of the register word at an offset, with their instances. -/
def fieldsAt (off : Nat) : List (Fld × Nat) := regTable.filterMap (fun f => (f.indexAt off).map (fun i => (f, i)))

/-- A field as a read of a register list returns it: WO fields read 0 (R30), live fields what they report. -/
def State.fieldOfRegs (s : State) (regs : List (Nat × Nat)) (seat : Nat) (p : Fld × Nat) : Nat :=
  let v := if p.1.acc = .wo then 0 else (s.live? p.1 p.2).getD (regGet p.1 (if p.1.win then seat else 0) p.2 regs)
  v % 2 ^ p.1.width * 2 ^ p.1.lo

/-- ERR_LOG[r] (R839): word `k` of the record in slot `r` of the ring. -/
def State.errLogWord (s : State) (r k : Nat) : Nat :=
  let n := s.rd errLogHeadCount
  let age := (n + 127 - r) % 128
  if age < n then field (s.pwr.errLog.getD age []) (4 * k) 4 else 0

/-- A 32-bit register word as a function reads it from a register list. -/
def State.wordOf (s : State) (regs : List (Nat × Nat)) (seat off : Nat) : Nat :=
  if 0x81000 ≤ off ∧ off < 0x82000 then s.errLogWord ((off - 0x81000) / 32) ((off - 0x81000) % 32 / 4)
  else sumN ((fieldsAt off).map (s.fieldOfRegs regs seat))

/-- The blocks of R368. -/
def assigned (off : Nat) : Bool :=
  decide (off < 0x9000) || decide (0x10000 ≤ off ∧ off < 0x34000) || decide (0x40000 ≤ off ∧ off < 0x43000) ||
  decide (0x50000 ≤ off ∧ off < 0x90000)

/-- A seat may read another seat's meter: its own, or any as the owner (R500). -/
def State.mayMeter (s : State) (fn t : Nat) : Bool := fn == t || s.owner? == some fn

/-- A meter's high word latched for a function (R536). -/
def State.latchMeter (s : State) (fn k hi : Nat) : State :=
  s.fnMap fn (fun f => { f with meterLatch := (k, hi) :: f.meterLatch.filter (fun p => p.1 != k) })

/-- A read of a meter's low or high word (R500, R536): `k` is the seat, or 65 for the module. -/
def State.meterRead (s : State) (fn k : Nat) (high : Bool) : State × Nat :=
  let lo := if k = 65 then s.rd ownMeterModuleLoNj else s.rd ownMeterLoNj k
  let hi := if k = 65 then s.rd ownMeterModuleHiNj else s.rd ownMeterHiNj k
  if k ≠ 65 ∧ !s.mayMeter fn k then (s, 0)
  else if high then
    match (s.fn fn).meterLatch.find? (fun p => p.1 == k) with
    | some p => (s.fnMap fn (fun f => { f with meterLatch := f.meterLatch.filter (fun q => q.1 != k) }), p.2)
    | none => (s, hi)
  else (s.latchMeter fn k hi, lo)

/-- A 32-bit BAR0 read by a function (R368, R500, R536). -/
def State.bar0Read (s : State) (fn off : Nat) : State × Nat :=
  if 0x8300 ≤ off ∧ off < 0x8508 then s.meterRead fn ((off - 0x8300) / 8) (off % 8 == 4)
  else if off = 0x8034 then s.meterRead fn 65 false
  else if off = 0x8038 then s.meterRead fn 65 true
  else if !assigned off then (s, 0)
  else (if off = 0x32014 then s.tickFrees 64 else s, s.wordOf s.regs fn off)

/-! ## Writes -/

/-- A field written under its access code (R30). -/
def State.writeField (s : State) (seat v : Nat) (p : Fld × Nat) : State :=
  let f := p.1
  let x := v / 2 ^ f.lo % 2 ^ f.width
  let w := if f.win then seat else 0
  let old := regGet f w p.2 s.regs
  match f.acc with
  | .rw | .rwo | .rwl => { s with regs := regSet f w p.2 x s.regs }
  | .w1c => { s with regs := regSet f w p.2 (old &&& (2 ^ f.width - 1 - x)) s.regs }
  | .w1s => { s with regs := regSet f w p.2 (old ||| x) s.regs }
  | .ro | .wo => s

/-- Every field of a register word written under its access code. -/
def State.writeWord (s : State) (seat off v : Nat) : State := (fieldsAt off).foldl (fun s p => s.writeField seat v p) s

/-- Bits of a word. -/
def bitsOf (v lo n : Nat) : Nat := v / 2 ^ lo % 2 ^ n

/-- A register word whose values lie within ranges is written; otherwise the write has no effect and sets an event (R40 and its
kin). -/
def State.ranged (s : State) (ok : Bool) (e : Fld) (seat off v : Nat) : State := if ok then s.writeWord seat off v else s.ev e

/-- A value within bounds. -/
def within (a x b : Nat) : Bool := decide (a ≤ x ∧ x ≤ b)

/-- An owner write that clears engine map-outs clears their fault records (R848). -/
def State.clearMapped (s : State) (es : List Nat) : State :=
  let lo := es.foldl (fun a e => if e < 32 then a ||| 2 ^ e else a) 0
  let hi := es.foldl (fun a e => if 32 ≤ e then a ||| 2 ^ (e - 32) else a) 0
  let s := (s.wr errEngineMappedLoEngines 0 (s.rd errEngineMappedLoEngines &&& (2 ^ 32 - 1 - lo))).wr errEngineMappedHiEngines 0
    (s.rd errEngineMappedHiEngines &&& (2 ^ 32 - 1 - hi))
  s.pwrMap (fun p => { p with engFaults := p.engFaults.filter (fun f => !es.contains f.1) })

/-- SWP_MAPOUT written (R214, R848). -/
def State.writeSwpMapout (s : State) (high : Bool) (v : Nat) : State :=
  let f := if high then swpMapoutHiEngines else swpMapoutLoEngines
  let cleared := setBits 32 (s.rd f &&& (2 ^ 32 - 1 - v % 2 ^ 32))
  (s.wr f 0 v).clearMapped (cleared.map (fun e => if high then e + 32 else e))

/-- GDM_MAPOUT written (R569, R570): one that takes channels out and leaves fewer than twelve is refused. -/
def State.writeGdmMapout (s : State) (v : Nat) : State :=
  let v := v % 2 ^ 24
  let old := s.rd gdmMapoutChannels
  let adds := (List.range 24).any (fun h => v.testBit h && !old.testBit h)
  if adds ∧ (s.wanted v).length < 12 then s.ev gdmEventBadConfig else s.wr gdmMapoutChannels 0 v

/-- CND_H2D_CTRL written (R813): a request begins, and D2H done is cleared; while one is in progress the write has no effect. -/
def State.writeH2d (s : State) (v : Nat) : State :=
  if s.rd cndH2dCtrlGo = 1 then s.ev cndEventMboxBusy
  else
    let s := s.writeWord 0 0x50120 v
    s.when (v.testBit 31) (fun s => s.wr cndD2hCtrlDone 0 0)

/-- A ring's base register, its control word and its coalescing word in a function window (R377 to R379). -/
def State.writeQueueWord (s : State) (fn off v : Nat) : State :=
  let o := off - 0x1000
  if o < 0x100 then
    let q := o / 32
    let on := s.rdw hstSbqCtrlEnable fn q == 1
    match o % 32 with
    | 0 => if on then s else s.wrw hstSbqBaseLoAddr fn q (v / 4096 * 4096)
    | 4 => if on then s else s.wrw hstSbqBaseHiAddr fn q v
    | 8 => if v.testBit 16 then s.sbqEnable fn q (bitsOf v 0 5) (bitsOf v 8 3) else s.sbqDelete fn q (bitsOf v 0 5) (bitsOf v 8 3)
    | _ => s
  else
    let q := (o - 0x100) / 32
    let on := s.rdw hstCpqCtrlEnable fn q == 1
    match o % 32 with
    | 0 => if on then s else s.wrw hstCpqBaseLoAddr fn q (v / 4096 * 4096)
    | 4 => if on then s else s.wrw hstCpqBaseHiAddr fn q v
    | 8 => if v.testBit 16 then s.cpqEnable fn q (bitsOf v 0 5) (bitsOf v 8 4) (bitsOf v 12 1)
           else s.cpqDelete fn q (bitsOf v 0 5) (bitsOf v 8 4) (bitsOf v 12 1)
    | 12 => s.writeWord fn off v
    | _ => s

/-- An owner's write of a register word outside the function windows. -/
def State.ownerWrite (s : State) (off v : Nat) : State :=
  if 0x32000 ≤ off ∧ off < 0x34000 then (s.gpioWrite .host off v).getD (s.writeWord 0 off v)
  else if 0x5800 ≤ off ∧ off < 0x5880 then
    let q := (off - 0x5800) / 4
    s.ranged (within 1 (v % 8) 6 && !(within 27 q 29)) strmEventBadConfig 0 off v
  else match off with
    | 0x2000 =>
      let src := s.rd measCtrlSource
      let s := s.writeWord 0 off v
      if v % 4 = 3 then s.wr measCtrlSource 0 src else s
    | 0x2004 => s.ranged (within 64000000 (bitsOf v 0 31) 1280000000) measEventBadConfig 0 off v
    | 0x2008 => s.ranged (within 20 (bitsOf v 0 8) 200 && within 10 (bitsOf v 8 8) 200) measEventBadConfig 0 off v
    | 0x2010 => s.ranged (bitsOf v 0 10 != 0) measEventBadConfig 0 off v
    | 0x3000 => s.writeSwpMapout false v
    | 0x3004 => s.writeSwpMapout true v
    | 0x3010 => s.each (setBits 32 v) State.erstEngine
    | 0x3014 => s.each ((setBits 32 v).map (· + 32)) State.erstEngine
    | 0x4000 => s.ranged (within 200 (bitsOf v 0 16) 20000) voiEventBadConfig 0 off v
    | 0x6000 => s.ranged ((List.range 4).all (fun i => bitsOf v (4 * i) 4 != 0)) zcpEventBadConfig 0 off v
    | 0x6004 => s.ranged (within 1 (bitsOf v 0 7) 64 && within 1 (bitsOf v 16 11) 1024) zcpEventBadConfig 0 off v
    | 0x7000 => s.ranged (within 1 (bitsOf v 8 5) 16) stgEventBadConfig 0 off v
    | 0x800C => s.ranged (within 16 (bitsOf v 0 13) 4096) ownEventBadConfig 0 off v
    | 0x10000 => s.ranged (v % 4 != 3) gdmEventBadConfig 0 off v
    | 0x10004 => s.writeGdmMapout v
    | 0x10010 => s.ranged (within 50 (bitsOf v 0 10) 1000 && within 2 (bitsOf v 12 4) 15) gdmEventBadConfig 0 off v
    | 0x10014 => s.ranged (within 1 (bitsOf v 0 8) 168) gdmEventBadConfig 0 off v
    | 0x20000 => s.ranged (bitsOf v 0 8 != 0 && within 1 (bitsOf v 8 10) 26) wvEventBadConfig 0 off v
    | 0x2001C => s.each (setBits 32 v) State.startTraining
    | 0x20020 => s.each ((setBits 32 v).map (· + 32)) State.startTraining
    | 0x40008 => s.ranged (within 85 (bitsOf v 0 8) 100 && within 85 (bitsOf v 8 8) 100) pwrEventBadConfig 0 off v
    | 0x4080C => s.ranged (within 700 (bitsOf v 0 11) 2000) pwrEventBadConfig 0 off v
    | 0x41000 => s.rstCtrl v
    | 0x50120 => s.writeH2d v
    | 0x80000 => s.ranged (bitsOf v 4 4 != 0 && within 0 (bitsOf v 16 10) 1000) errEventBadConfig 0 off v
    | _ => s.writeWord 0 off v

/-- A write by a function that is not the owner (R499). -/
def State.nonOwner (s : State) (fn : Nat) : State :=
  ((s.inc ownNonownerWritesCount).wr ownNonownerLastSeat 0 fn).ev ownEventNonownerWrite

/-- A 32-bit BAR0 write by a function (R30, R368, R499): its own window, or the rest of BAR0 as the owner. -/
def State.bar0Write (s : State) (fn off v : Nat) : State :=
  if !assigned off then s
  else if 0x1000 ≤ off ∧ off < 0x2000 then
    (if off < 0x1200 then s.writeQueueWord fn off v else s.writeWord fn off v)
  else if s.owner? ≠ some fn then s.nonOwner fn
  else s.ownerWrite off v

/-- The core answers BAR accesses of a function (R363, R757, R843). An access in Rest wakes the device (R764). -/
def State.hostAccess (s : State) (fn : Nat) : Bool := s.answers && (s.fn fn).enabled && !(s.fn fn).d3hot

/-- REGISTER_WRITE (R30). -/
def State.registerWrite (s : State) (fn off v : Nat) : State := if s.hostAccess fn then (s.restWake).bar0Write fn off v else s

/-- MALFORMED_ACCESS (R27): a write narrower than 32 bits. -/
def State.malformed (s : State) (fn : Nat) : State :=
  if s.hostAccess fn then ((s.restWake).inc hstMalformedCount).ev hstEventMalformed else s

/-- A write of consecutive words in ascending offset order (R27), within BAR0 (R25). -/
def State.writeWords (s : State) (fn off : Nat) : List Word → State
  | [] => s
  | v :: more => if 2 ^ 24 ≤ off then s else State.writeWords (s.registerWrite fn off v.toNat) fn (off + 4) more

/-- The addressed bytes of one word of BAR0, returned to a function (R27). -/
def State.readPart (s : State) (fn off bytes word : Nat) : State :=
  let r := s.bar0Read fn (4 * word)
  let lo := max off (4 * word)
  let hi := min (off + bytes) (4 * word + 4)
  r.1.emit (.readReturn fn lo (r.2 / 256 ^ (lo - 4 * word) % 256 ^ (hi - lo)))

/-- A read of BAR0 of any width (R27, R500, R536): the words it touches, in ascending offset order. -/
def State.readBar0 (s : State) (fn off bytes : Nat) : State :=
  if s.hostAccess fn then
    s.restWake.each (List.range ((off + bytes + 3) / 4 - off / 4)) (fun s i => s.readPart fn off bytes (off / 4 + i))
  else s

/-! ## Configuration space (R358, R363, R365, R366, R398) -/

/-- A function is the physical one of its port. -/
def State.physical (s : State) (fn : Nat) : Bool := s.pfs.contains fn

/-- The capability list of every function, by the capability IDs of the base specification (R366; PRESUMED, log entry 34): Power Management, PCI
Express, MSI-X. -/
def capabilities : List Nat := [0x01, 0x10, 0x11]

/-- The extended capability list of a function (R366; PRESUMED, log entry 34): AER, ARI, Device Serial Number; on the PF SR-IOV, Data Link Feature,
Physical Layer 16.0, 32.0 and 64.0 GT/s, Lane Margining, L1 PM Substates, LTR; a vendor-specific one. -/
def extendedCapabilities (physical : Bool) : List Nat :=
  [0x0001, 0x000E, 0x0003] ++ (if physical then [0x0010, 0x0025, 0x0026, 0x002A, 0x0031, 0x0027, 0x001E, 0x0018] else []) ++ [0x000B]

/-- A Completion Timeout Value as Device Control 2 holds it (R398; PRESUMED, log entry 34). -/
def timeoutCode : Timeout → Nat
  | .standard => 0
  | .a1 => 1
  | .a2 => 2
  | .b1 => 5
  | .b2 => 6

/-- A field of a function's configuration space. -/
def State.configField (s : State) (fn : Nat) (c : ConfigField) : Nat :=
  let f := s.fn fn
  let pf := s.physical fn
  let port := s.portOf fn
  match c with
  | .vendorId => if pf then Config.vendorId.toNat else 0xFFFF
  | .deviceId => if pf then 0x3064 else 0x3065
  | .classCode => 0x120000
  | .revisionId => Config.stepping.toNat
  | .subsystemVendorId => Config.subsystemVendorId.toNat
  | .subsystemId => Config.subsystemId.toNat
  | .headerType => 0
  | .interruptPin => 0
  | .busMaster => bit f.bme
  | .maxPayload => f.ctl.maxPayload.val
  | .maxRead => f.ctl.maxRead.val
  | .relaxed => bit f.ctl.relaxed
  | .timeoutRanges => 3
  | .timeoutOffSupported => 1
  | .timeout => timeoutCode f.ctl.timeout
  | .timeoutOff => bit f.ctl.timeoutOff
  | .msixVectors => 16
  | .msixEnable => bit f.msixEnable
  | .functionMask => bit f.fmask
  | .powerState => if f.d3hot then 3 else 0
  | .totalVfs => if !pf then 0 else if s.rd hstPortModeSplit = 0 then 64 else if port = 0 then 32 else 31
  | .firstVfOffset => if pf then 1 else 0
  | .vfStride => if pf then 1 else 0
  | .vfDeviceId => if pf then 0x3065 else 0
  | .vfEnable => if pf then bit ((s.host.ports.getD port portReset).vfEnable) else 0
  | .pageSizes => if pf then 0x11 else 0
  | .serialNumber => Config.serial.toNat
  | .internalError => bit f.internalError
  | .barSize k => if k = 0 then 2 ^ 24 else 4096
  | .capability i => capabilities.getD i 0
  | .extended i => (extendedCapabilities pf).getD i 0
  | .vsecHeader => 0x00010001
  | .vsecWord => 3 + 2 ^ 16 * fn + 2 ^ 24 * port

/-- A 32-bit word of BAR4 (R370): of the MSI-X table's 16 entries, whose fourth word holds the vector's mask and whose others what the host has put
there, or of the Pending Bit Array. -/
def State.bar4Word (s : State) (fn off : Nat) : Nat :=
  let f := s.fn fn
  if off < 0x100 then
    if off % 16 = 12 then bit (f.masked.contains (off / 16)) else (Config.msixWord fn (off / 4)).toNat
  else if off = 0x800 then sumN ((List.range 16).map (fun v => if f.pba.contains v then 2 ^ v else 0))
  else 0

/-- A read of BAR2 or BAR4 by a function; one in Rest wakes the device (R764). -/
def State.readOther (s : State) (fn bar off v : Nat) : State :=
  if s.hostAccess fn then s.restWake.emit (.barReturn fn bar off v) else s

/-- METER_READ, and every other read by the host: of BAR0, or of configuration space, which answers in D3hot too and wakes nothing (R764). -/
def State.hostRead (s : State) (fn : Nat) : HostRead → State
  | .bar0 off bytes => s.readBar0 fn off.toNat bytes
  | .bar2 word => s.readOther fn 2 (4 * word.toNat) 0
  | .bar4 word => s.readOther fn 4 (4 * word.toNat) (s.bar4Word fn (4 * word.toNat))
  | .config c => s.when (s.answers && (s.fn fn).enabled) (fun s => s.emit (.configReturn fn c (s.configField fn c)))

end Sys2Proof.Machine
end

