-- ==== Sys2Proof/Machine/Conductor.lean ====
section
/-!
DEFINITION. The conductors and their mailbox (chapter 18), fatal errors and the containment of SRAM double-bit errors (R837 to
R845), engine faults (R88, R216), PLL unlocks (R756), and the energy trim (R832).
-/
namespace Sys2Proof.Machine

/-! ## Fatal errors -/

/-- WATCHDOG (R796, R842): conductor `i` has missed two heartbeats. -/
def State.watchdog (s : State) (i : Nat) : State :=
  if s.live then ((s.ev cndEventWatchdog).wr cndStateState i 2).fatal 2 i else s

/-- CORE_PLL_UNLOCK (R756, R842): a core PLL, by its bit of CLK_LOCK, loses lock. -/
def State.corePllUnlock (s : State) (pll : Nat) : State :=
  if s.answers then ((s.ev clkEventUnlock).pwrMap (fun p => { p with pllLost := p.pllLost ||| 2 ^ pll })).fatal 1 0 else s

/-- DATAPATH_PARITY_ERROR (R842). -/
def State.parityError (s : State) : State := if s.answers then s.fatal 5 0 else s

/-- AON_PLL_UNLOCK (R756): the always-on domain restarts as at a start of the auxiliary supply. -/
def State.aonPllUnlock (s : State) : State := if s.pwr.aux then s.auxStart s.pwr.auxMv else s

/-- FATAL_MRST_TIMER (R842): mrst_delay after the fatal error, the MGC runs an MRST. -/
def State.fatalTimer (s : State) (t : Nat) : State :=
  let s := s.advance t
  let d := s.rd errCtrlMrstDelay
  if s.rd errStatusFatal = 1 ∧ d ≠ 0 ∧ s.pwr.fatalAt + ns (1000000 * d) ≤ s.clk.now then s.mrst else s

/-! ## Engine faults and SRAM double-bit errors -/

/-- ENGINE_FAULT (R88, R216, R846): an engine reports a fault of a storage (1 query bank, 2 table store, 3 slab buffer,
4 accumulator memory) or another one (0). -/
def State.engineFault (s : State) (e cause : Nat) : State :=
  if !s.live then s
  else
    let s := s.logError 3 1 e (if cause = 0 then 17 else 16) cause
    (s.ev swpEventEngineFault).engineFaulted e |>.erstEngine e

/-- Seat and tag as an error record holds them (R839). -/
def Cmd.seatTag (c : Cmd) : Nat := c.seat + 65536 * c.tag

/-- A voice stops (R279): what it accumulated, gathered and had landed is discarded, and its query leaves the query store (R257). -/
def State.stopVoice (s : State) (cid : Nat) : State :=
  let s := s.voiceMap cid (fun v => { v with state := .stopped, landed := [], gather := [], acc := accNil })
  let s := s.rrMap (fun r => { r with units := updAll (fun u => u.voice == some cid) (fun u => { u with voice := none, acc := accNil }) r.units })
  s.dropQuery cid

/-- A voice stopped by the loss of its context (R837): its search completes with what the voice had delivered. -/
def State.voiceLost (s : State) (cid : Nat) : State :=
  match s.voice? cid, s.cmd? cid with
  | some v, some c =>
    if v.state = .done ∨ v.state = .stopped then s
    else
      let s := (s.logError 2 4 0 41 c.seatTag).stopVoice cid
      ((s.runMap cid (fun r => { r with degraded := true })).finishRun cid).endRerank
  | _, _ => s

/-- Candidates of a voice lost (R278, R837): one of them, or all. -/
def State.candsLost (s : State) (cid : Nat) (one : Option Nat) : State :=
  match s.voice? cid, s.cmd? cid with
  | some v, some c =>
    let s := s.logError 2 4 0 40 c.seatTag
    let l := match one with | some i => [i] | none => List.range v.cands.length
    let s := s.each l (fun s i => s.loseCand cid i)
    match (s.run? cid).bind (fun r => s.shelfAt? r.shelf) with
    | some h => s.planRecords h cid
    | none => s
  | _, _ => s

/-- The search that owns an entry of a coda memory completes DEGRADED without entries and with both coverages 0 (R837). -/
def State.codaLost (s : State) (cid : Nat) : State :=
  match s.run? cid, s.cmd? cid with
  | some r, some c =>
    if r.finished then s
    else
      let s := s.logError 2 5 0 42 c.seatTag
      let s := s.runMap cid (fun r => { r with degraded := true, voided := true, final := [] })
      ((s.stopVoice cid).finishRun cid).endRerank
  | _, _ => s

/-- A command whose packet lay in the intake storage completes with HW_FAULT, never executed (R837). -/
def State.intakeLost (s : State) (cid : Nat) : State :=
  match s.cmd? cid with
  | some c =>
    if (s.run? cid).isSome || c.stage == .settling then s
    else (s.logError 2 8 (s.portOf c.seat) 43 c.seatTag).withdraw c stHwFault
  | none => s

/-- SRAM_DOUBLE_BIT (R837): contained according to the memory concerned. -/
def State.sramDoubleBit (s : State) (u : Sram) : State :=
  if !s.live then s
  else
    let s := s.inc errSramUeCount
    match u with
    | .engine e storage => s.engineFault e.val (storage.val + 1)
    | .tableCache => s.bump strmTcacheRereadCount
    | .candidate cid i => s.candsLost cid (some i)
    | .queryStore cid => s.candsLost cid none
    | .voice cid => s.voiceLost cid
    | .coda cid => s.codaLost cid
    | .intake cid => s.intakeLost cid
    | .control => s.fatal 3 0

/-! ## The mailbox (R813 to R815) -/

/-- A mailbox request of an opcode is in progress. -/
def State.mailboxHas (s : State) (op : Nat) : Bool := s.rd cndH2dCtrlGo == 1 && s.rd cndH2dCtrlOpcode == op && s.pwr.mbox.isNone

/-- A reply made ready. -/
def State.mailboxReady (s : State) (status : Nat) (words : List Nat) : State :=
  s.pwrMap (fun p => { p with mbox := some ⟨s.rd cndH2dCtrlSeq, status, words⟩ })

/-- ECHO (R814). -/
def State.mailboxEcho (s : State) : State :=
  if !s.live || !s.mailboxHas 1 then s
  else if 8 < s.rd cndH2dCtrlLen then s.mailboxReady 2 []
  else s.mailboxReady 0 ((List.range (s.rd cndH2dCtrlLen)).map (fun w => s.rd cndH2dDataWord w))

/-- CORE_STATE (R814). -/
def State.mailboxCores (s : State) : State :=
  if !s.live || !s.mailboxHas 2 then s
  else if s.rd cndH2dCtrlLen ≠ 0 then s.mailboxReady 2 []
  else s.mailboxReady 0 ((List.range 4).map (fun i =>
    s.rd cndStateState i + 16 * s.rd cndStateRole i + 2 ^ 16 * (s.rd cndHeartbeatMeasure i % 2 ^ 16)))

/-- The counts of a LITMUS run agree with R812 and R814: they add up to the iterations, and a fenced test does not show the
outcome that R812 forbids. -/
def litmusOk (test n : Nat) (fenced : Bool) (w : List Nat) : Bool :=
  match test with
  | 0 => sumN w == n && (!fenced || w.getD 0 0 == 0)
  | 1 => sumN w == n && (!fenced || w.getD 2 0 == 0)
  | _ => w.getD 0 0 + w.getD 1 0 == n && (!fenced || w.getD 0 0 == 0)

/-- LITMUS (R814): a test runs in a background window; `w` are the counts of its outcomes. None where the counts are not those of
a run R812 allows. -/
def State.mailboxLitmus (s : State) (w : List Nat) : Option State :=
  if !s.mailboxHas 3 || s.rd errStatusFatal == 1 then some s
  else if s.rd cndH2dCtrlLen ≠ 3 ∨ 2 < s.rd cndH2dDataWord 0 ∨ s.rd cndH2dDataWord 1 = 0 ∨ 1000000 < s.rd cndH2dDataWord 1 then
    some (s.mailboxReady 2 [])
  else if s.pwr.mode ≠ .playing then some (s.mailboxReady 3 [])
  else if !s.clk.bgOpen then some s
  else if litmusOk (s.rd cndH2dDataWord 0) (s.rd cndH2dDataWord 1) ((s.rd cndH2dDataWord 2).testBit 0) w then some (s.mailboxReady 0 w)
  else none

/-- MAILBOX_REPLY (R813): the reply words, then the control word with done, then go cleared; an unknown opcode is answered with
status 1. -/
def State.mailboxReply (s : State) : State :=
  let s := s.when (s.live && s.rd cndH2dCtrlGo == 1 && s.pwr.mbox.isNone && !([1, 2, 3].contains (s.rd cndH2dCtrlOpcode)))
    (fun s => s.mailboxReady 1 [])
  match s.pwr.mbox with
  | none => s
  | some r =>
    let s := s.each (r.words.zip (List.range r.words.length)) (fun s p => s.wr cndD2hDataWord p.2 p.1)
    let s := (((s.wr cndD2hCtrlStatus 0 r.status).wr cndD2hCtrlSeq 0 r.seq).wr cndD2hCtrlLen 0 r.words.length).wr cndD2hCtrlDone 0 1
    (s.wr cndH2dCtrlGo 0 0).pwrMap (fun p => { p with mbox := none })

/-! ## Energy -/

/-- TRIM_UPDATE (R832): after 1,024 measures, the trim is multiplied by the measured over the estimated energy, rounded to the
nearest 1/4,096 and held between 0.90 and 1.10. -/
def State.trimUpdate (s : State) (measured estimated : Nat) : State :=
  if !s.live || estimated == 0 || decide ((s.measure + 2 ^ 32 - s.pwr.trimFrom) % 2 ^ 32 < 1024) then s
  else
    let new := (2 * s.rd telEnergyTrimFactor * measured + estimated) / (2 * estimated)
    let held := max 3687 (min 4505 new)
    let s := s.when (new != held) (fun s => s.ev telEventTrimLimit)
    s.pwrMap (fun p => { p with tauNext := some held, trimFrom := s.measure })

/-! ## The start of a port -/

/-- PERST_ASSERT (R773): as a hot reset of the port. -/
def State.perstLow (s : State) (port : Nat) : State :=
  (s.hotReset port).hostMap (fun h => { h with ports := updAt port (fun p => { p with perst := true }) h.ports })

/-- PERST_DEASSERT (R788): host-link training of the port may begin. -/
def State.perstHigh (s : State) (port : Nat) : State :=
  s.hostMap (fun h => { h with ports := updAt port (fun p => { p with perst := false }) h.ports })

end Sys2Proof.Machine
end

