-- ==== Sys2Proof/Machine/Strand.lean ====
section
/-!
DEFINITION. Strands in service (chapter 14, section 1): training, lock loss, blocks received and delivered in sequence,
acknowledgement, replay and credits; and the messages they carry, received, forwarded and taken by their rows.
-/
namespace Sys2Proof.Machine

/-! ## Training (R581, R582, R591 to R595, R599) -/

/-- The use of a strand whose peer is a member: 1 uplink, 2 downlink, 3 side link; 0 where the peer is no member. -/
def State.useOf (s : State) (i serial : Nat) : Nat :=
  match s.weave.map.find? (fun m => m.serial == serial) with
  | none => 0
  | some m =>
    if !s.inWeave then 0
    else if m.addr = s.rd wvParentAddr ∧ i = s.uplink ∧ !s.isHead then 1
    else if m.parent = s.self ∧ m.addr ≠ s.self then 2 else 3

/-- The peer and use registers of a strand that is up (WV_STRAND). -/
def State.labelStrand (s : State) (i : Nat) : State :=
  let serial := (s.strand i).peerSerial
  let addr := ((s.weave.map.find? (fun m => m.serial == serial)).map (fun m => m.addr)).getD (s.rd wvStrandPeer i)
  (s.wr wvStrandPeer i addr).wr wvStrandUse i (s.useOf i serial)

/-- The one-way delay in ps by the STAMP exchanges, each with its round trip and the peer's hold time (R594): half of the mean difference, rounded
to the nearest ps. -/
def stampDelay (l : List (Nat × Nat)) : Nat :=
  (sumN (l.map (fun x => x.1 - x.2)) + l.length) / max 1 (2 * l.length)

/-- What a training found (R591 to R594): the lanes that passed the margin test, the step that failed twice (0 for none), and the
peer's protocol version, serial number, strand number and weave address, the delay and the alignment slips. -/
structure Trained where
  lanes : Nat
  failed : Nat
  version : Nat
  serial : Nat
  strand : Nat
  addr : Nat
  delay : Nat
  slips : Nat
  deriving DecidableEq, Repr

/-- The step at which a training fails, 0 where it succeeds: fewer than four lanes fail step 2, another version fails step 5. -/
def Trained.step (r : Trained) : Nat :=
  if r.failed = 1 then 1 else if popcount 5 r.lanes < 4 then 2 else if r.failed ≠ 0 then r.failed else if r.version ≠ 3 then 5 else 0

/-- STRAND_TRAINED (R581, R582, R591, R593, R597): a training ends, with the strand up or left down. -/
def State.strandTrained (s : State) (i : Nat) (r : Trained) (t : Nat) : State :=
  let s := s.advance t
  if s.rd wvStrandState i ≠ 1 then s
  else
    let s := s.inc wvAlignSlipCount i r.slips
    let bad := (List.range 5).find? (fun l => !r.lanes.testBit l)
    let s := s.wr wvStrandFailedLane i (bad.getD 7)
    let foreign := r.step = 5 ∧ r.version ≠ 3
    if r.step ≠ 0 then
      let s := (s.wr wvStrandState i 0).ev wvEventTrainFail
      let s := if foreign then (s.ev wvEventForeign).logError 3 3 i 26 r.version else s
      s.logError 3 3 i 24 r.step
    else
      let s := ((s.wr wvStrandState i 2).wr wvDelayPs i r.delay).wr wvStrandPeer i r.addr
      let lanes := (setBits 5 r.lanes).take 4
      let s := s.wr wvStrandSpareUsed i (if lanes.contains 4 then 1 else 0)
      (s.strandMap i (fun x => { x with lanes := lanes, peerSerial := r.serial, peerStrand := r.strand, lastData := s.clk.now })).labelStrand i

/-- A strand reset (R599): its buffers and the messages in them are lost, and it retrains. -/
def State.strst (s : State) (i : Nat) : State := if s.answers then s.startTraining i else s

/-- LANE_LOCK_LOSS (R595): a data lane has lost header lock; the strand goes down and retrains at once. -/
def State.lockLoss (s : State) (i lane : Nat) : State :=
  if (s.strandUp i || s.rd wvStrandState i == 4) && (s.strand i).lanes.contains lane then (s.logError 3 3 i 25 lane).startTraining i else s

/-! ## Messages (R607, R608) -/

/-- A message's type, its head's fields, and its body. -/
def msgType (m : Bytes) : Nat := field m 0 1
def msgDst (m : Bytes) : Nat := field m 2 2 % 4096
def msgSrc (m : Bytes) : Nat := field m 4 2 % 4096
def msgOp (m : Bytes) : Nat := field m 8 8
def msgBody (m : Bytes) : Bytes := m.drop 16

/-! ## Capacity reports (R621) -/

/-- A capacity report read (R608). -/
def capOf (b : Bytes) : Capacity :=
  ⟨field b 0 4, field b 4 2, field b 6 2, field b 8 4, field b 12 4, field b 16 2, field b 18 2,
   (List.range (field b 20 2)).map (fun i => ⟨field b (24 + 24 * i) 4, field b (28 + 24 * i) 1, field b (32 + 24 * i) 8, field b (40 + 24 * i) 8⟩)⟩

/-- CAPACITY (R621): a member's costing inputs, kept for the coming measure. -/
def State.onCapacity (s : State) (m : Bytes) : State :=
  s.weaveMap (fun w => { w with members := updFirst (fun x => x.addr == msgSrc m) (fun x => { x with cap := some (capOf (msgBody m)) }) w.members })

/-- The references a PLAN message lists (R608). -/
def planRefs (b : Bytes) : List Nat := (List.range (field b 4 4)).map (fun i => field b (8 + 8 * i) 8)

/-- A message put in the inbox of the strand it arrived on. -/
def State.deliver (s : State) (i : Nat) (m : Bytes) : State := s.strandMap i (fun x => { x with inbox := x.inbox ++ [m] })

/-- A whole message received on a strand (R607, R608): discarded where its type is not listed or its channel is wrong, kept where it is
for this chip, and forwarded. A rim notes the plan messages (R884) and the capacity reports (R636) it
forwards. -/
def State.receiveMsg (s : State) (i : Nat) (m : Bytes) : State :=
  let t := msgType m
  if msgVc t ≠ some (field m 1 1) then s.ev wvEventBadMessage
  else
    let dst := msgDst m
    if dst = 0xFFF then
      if s.inWeave then (s.deliver i m).route m else s.deliver i m
    else if !s.inWeave || dst == s.self then s.deliver i m
    else
      let s := match (if t = 0x12 then s.towards 4 dst else none) with
        | some c => s.weaveMap (fun w => { w with passed := w.passed ++ [(field (msgBody m) 0 4, c, planRefs (msgBody m))] })
        | none => s
      (s.when (t == 0x20) (fun s => s.onCapacity m)).route m

/-- A data block delivered to the message it belongs to (R607). -/
def State.assemble (s : State) (i vc : Nat) (d : Bytes) : State :=
  match (s.strand i).part.find? (fun p => p.1 == vc) with
  | some (_, left, got) =>
    let drop := fun (x : Strand) => x.part.filter (fun p => p.1 != vc)
    if left ≤ 1 then (s.strandMap i (fun x => { x with part := drop x })).receiveMsg i (got ++ d)
    else s.strandMap i (fun x => { x with part := (vc, left - 1, got ++ d) :: drop x })
  | none =>
    let n := field d 6 2
    if n ≤ 1 then s.receiveMsg i d
    else if 4096 < n then s.ev wvEventBadMessage
    else s.strandMap i (fun x => { x with part := (vc, n - 1, d) :: x.part })

/-! ## Blocks (R588, R596, R597) -/

/-- An ACK sent for the last data block accepted. -/
def State.sendAck (s : State) (i : Nat) : State :=
  (s.sendCtl i (.ack ((s.strand i).rxSeq + 65535))).strandMap i (fun x => { x with unacked := 0 })

/-- A data block is rejected: one NAK is sent, and data blocks are discarded until a REPLAY. -/
def State.rejectBlock (s : State) (i : Nat) : State :=
  if (s.strand i).nakked then s
  else (s.sendCtl i (.nak (s.strand i).rxSeq)).strandMap i (fun x => { x with nakked := true })

/-- DATA_BLOCK (R588, R596, R597, R607): a data block arrives, descrambled, as the sender's number `seq`; it is corrected or rejected, and
delivered in sequence. -/
def State.dataBlock (s : State) (i seq vc payload t : Nat) : State :=
  let s := s.advance t
  if !s.strandUp i then s
  else match correct payload with
    | none => s.rejectBlock i
    | some (d, fixed) =>
      let s := s.when fixed (fun s => s.inc wvCeCount i)
      let x := s.strand i
      if x.nakked then s
      else if seq ≠ x.rxSeq then s.rejectBlock i
      else
        let s := s.strandMap i (fun x => { x with
          rxSeq := (x.rxSeq + 1) % 65536, unacked := x.unacked + 1, firstUnacked := if x.unacked = 0 then s.clk.now else x.firstUnacked
          owed := updAt vc (· + 1) x.owed })
        let s := s.when (decide (64 ≤ (s.strand i).unacked)) (fun s => s.sendAck i)
        s.assemble i vc (leBytes 30 d)

/-- ACK (R596): the blocks up to the one named are freed from the replay buffer. -/
def State.ackBlock (s : State) (i seq : Nat) : State :=
  if (s.strand i).replay.any (fun b => b.seq == seq) then
    (s.strandMap i (fun x => { x with replay := (x.replay.dropWhile (fun b => b.seq != seq)).drop 1 })).pump i
  else s

/-- NAK (R596): a REPLAY, then every unacknowledged block from the one named onward. -/
def State.nakBlock (s : State) (i seq : Nat) : State :=
  let again := (s.strand i).replay.dropWhile (fun b => b.seq != seq)
  if !s.strandUp i ∨ again = [] then s
  else ((s.inc wvReplayCount i).sendCtl i (.replay seq)).each again (fun s b => s.emitBlock i false (leNat b.data))

/-- REPLAY (R596): data blocks are accepted again from the expected one. -/
def State.replayBlock (s : State) (i seq : Nat) : State :=
  s.strandMap i (fun x => if x.nakked ∧ seq = x.rxSeq then { x with nakked := false } else x)

/-- CREDIT (R597): credits return, and blocks that waited for them go. -/
def State.creditBlock (s : State) (i : Nat) (c : List Nat) : State :=
  let most := [16, 128, 256, 128]
  (s.strandMap i (fun x => { x with
    credits := (List.range 4).map (fun v => min (most.getD v 0) (x.credits.getD v 0 + c.getD v 0)) })).pump i

/-- ACK_TIMER (R596): 200 ns after an accepted block, an ACK is sent. -/
def State.ackTimer (s : State) (i t : Nat) : State :=
  let s := s.advance t
  let x := s.strand i
  if s.strandUp i ∧ 0 < x.unacked ∧ x.firstUnacked + ns 200 ≤ s.clk.now then s.sendAck i else s

/-- CREDIT_RETURN_TIMER (R597): the credits due are returned. -/
def State.creditTimer (s : State) (i : Nat) : State :=
  let g := fun (v : Nat) => min 255 ((s.strand i).owed.getD v 0)
  if !s.strandUp i || (s.strand i).owed.all (fun n => n == 0) then s
  else (s.sendCtl i (.credit (g 0) (g 1) (g 2) (g 3))).strandMap i (fun x => { x with owed := x.owed.map (fun n => n - min 255 n) })

/-- STRAND_TACET (R760): a side link, or a trained strand with no use, that has sent no data block for 1 µs. -/
def State.strandTacet (s : State) (i t : Nat) : State :=
  let s := s.advance t
  let x := s.strand i
  let use := s.rd wvStrandUse i
  if s.strandUp i ∧ (use = 0 ∨ use = 3) ∧ x.sendq = [] ∧ x.lastData + ns 1000 ≤ s.clk.now then
    s.strandMap i (fun x => { x with tacet := true })
  else s

/-! ## Taking a message -/

/-- The oldest message of a type in the inbox of a strand is taken out of it and acted on, where the chip may act. -/
def State.withMsgIf (s : State) (may : Bool) (i t : Nat) (f : State → Bytes → State) : State :=
  match (s.strand i).inbox.find? (fun m => msgType m == t) with
  | none => s
  | some m => if may then f (s.strandMap i (fun x => { x with inbox := dropFirst (fun y => msgType y == t) x.inbox })) m else s

/-- A message acted on where the chip runs. -/
def State.withMsg (s : State) (i t : Nat) (f : State → Bytes → State) : State := s.withMsgIf s.live i t f

end Sys2Proof.Machine
end

