-- ==== Sys2Proof/Machine/Shelves.lean ====
section
/-!
DEFINITION. SHELF_CREATE, SHELF_DROP and SHELF_GRANT on one chip (R104 to R107, R146, R147, R152, R153, R509, R617), with the
placement of a shelf's arrays, and the buckets and copies of weave shelves (R615 to R619, R882).
-/
namespace Sys2Proof.Machine

/-! ## Creation -/

/-- The shelf a SHELF_CREATE describes (R106, R425), before it has a place. -/
def shelfOfParam (handle seat : Nat) (p : Bytes) : Shelf :=
  { index := 0, handle := handle, name := p.take 32, sweepKind := field p 32 1, sweepWidth := field p 33 1, elemFormat := field p 34 1
    distance := field p 35 1, dim := field p 36 2, fullPlace := field p 38 1, replicas := field p 39 1, ownerSeat := seat, dropping := false
    gen := 0, sweepBase := 0, keyBase := 0, deepBase := 0, farBase := field p 40 8, capacity := field p 48 4, slabs := [], searchers := [seat]
    readers := [seat], lost := false, dropAt := 0, released := false, committed := true, order := 0, held := [], counted := 0, sub := 0, opening := none, genLog := [] }

/-- The fields of a SHELF_CREATE that R107 rejects, whatever the chip holds. -/
def shelfBad (h : Shelf) : Bool :=
  let code := h.sweepKind == 1 || h.sweepKind == 2
  decide (h.dim = 0 ∨ 16384 < h.dim) || (h.elemFormat != 0xFF && !dimOk h.elemFormat h.dim) ||
  (code && (h.sweepWidth % 8 != 0 || h.sweepWidth == 0 || decide (128 < h.sweepWidth) || h.dim % h.sweepWidth != 0)) ||
  (h.sweepKind == 3 && (decide (2048 < h.dim) || h.fullPlace != 0 || h.elemFormat == 0xFF || h.sweepWidth != 0)) ||
  (h.sweepKind == 0 && !([1, 2, 4, 8].contains h.sweepWidth)) ||
  (h.elemFormat == 0xFF && h.voiced) || (h.elemFormat != 0xFF && h.sweepKind != 3 && h.fullPlace == 0) ||
  (h.fullPlace == 2 && (h.farBase == 0 || h.farBase % 256 != 0)) || (h.fullPlace != 2 && h.farBase != 0) ||
  h.capacity == 0 || decide (3 < h.sweepKind) || decide (2 < h.distance) || decide (2 < h.fullPlace) || decide (2 < h.replicas) ||
  decide (9 < h.elemFormat ∧ h.elemFormat ≠ 0xFF) || h.handle == 0 || h.handle == 0xFFFFFFFF

/-- The sizes of a shelf's sweep, key and deep arrays in bytes (R108). -/
def Shelf.arraySize (h : Shelf) (i : Nat) : Nat :=
  match i with | 0 => h.capacity * (64 * h.w) | 1 => h.capacity * 2304 | _ => h.capacity * (64 * h.deepSize)

/-- The arrays of a shelf as first address and end (R108). -/
def Shelf.ranges (h : Shelf) : List (Nat × Nat) :=
  [(h.sweepBase, h.sweepBase + h.arraySize 0), (h.keyBase, h.keyBase + h.arraySize 1)] ++
  (if h.fullPlace = 1 then [(h.deepBase, h.deepBase + h.arraySize 2)] else [])

/-- Bytes allocated to shelves (R153). -/
def State.allocated (s : State) : Nat := sumN ((s.store.shelves.filter Shelf.arrays).map Shelf.bytes)

/-- The lowest device address from `lo` up with room for `n` bytes below `top`, outside the ranges in use. -/
def gap (used : List (Nat × Nat)) (lo top n : Nat) : Option Nat :=
  (sortBy (fun (a b : Nat) => decide (a < b)) (lo :: used.map (fun u => u.2))).find? (fun a =>
    decide (lo ≤ a ∧ a + n ≤ top) && used.all (fun u => decide (u.2 ≤ a ∨ a + n ≤ u.1)))

/-- A shelf's arrays placed one after another in some order, each where it first fits: array and base, the last placed first. -/
def placeArrays (h : Shelf) (lo top : Nat) : List Nat → List (Nat × Nat) × List (Nat × Nat) → Option (List (Nat × Nat))
  | [], acc => some acc.1
  | i :: is, acc => (gap acc.2 lo top (h.arraySize i)).bind (fun a =>
      placeArrays h lo top is ((i, a) :: acc.1, (a, a + h.arraySize i) :: acc.2))

/-- The bases of a new shelf's arrays: each contiguous, between the hashed reserve and the directory, clear of every array in use and of each other
(R108, R111). In one of the orders of three arrays first fit finds places whenever there are any. The directory, with the new shelf's buckets,
must lie clear of the arrays too. -/
def State.arrayBases (s : State) (h : Shelf) : Option (List (Nat × Nat)) :=
  let c := s.active.length
  let hs := s.store.shelves.filter Shelf.arrays
  let used := hs.flatMap Shelf.ranges
  let top := hashedPerChannel * 256 * c - 256 * dirBuckets (hs ++ [h])
  let orders := if h.fullPlace = 1 then [[0, 1, 2], [0, 2, 1], [1, 0, 2], [1, 2, 0], [2, 0, 1], [2, 1, 0]] else [[0, 1], [1, 0]]
  if used.all (fun u => decide (u.2 ≤ top)) then orders.findSome? (fun o => placeArrays h (hashedReserve c) top o ([], used)) else none

/-- The lowest local index not in use (R104). -/
def State.freeIndex (s : State) : Option Nat :=
  (List.range 4096).find? (fun i => !(s.store.shelves.any (fun h => h.index == i)))

/-- A shelf put in place: its local index and its arrays, and the directory over its buckets too; none where the store is full (R107). -/
def State.placeShelf (s : State) (h : Shelf) : Option State :=
  s.freeIndex.bind (fun i =>
    let keep := fun (h : Shelf) => (s.storeMap (fun t => { t with shelves := t.shelves ++ [{ h with index := i }] })).rehashDir
    if h.sub = 9 then some (keep h)
    else if shelfSpace s.active.length < s.allocated + h.bytes then none
    else (s.arrayBases h).map (fun l =>
      let base := fun (i : Nat) => ((l.find? (fun p => p.1 == i)).map (fun p => p.2)).getD 0
      keep { h with sweepBase := base 0, keyBase := base 1, deepBase := base 2 }))

/-! ## Buckets and copies (R616 to R619) -/

/-- The bucket of an id (R616). -/
def bucketOf (handle id : Nat) : Nat := crc32c (leBytes 4 handle ++ leBytes 6 id ++ [0x57]) % 4096

/-- The place of a holder among a shelf's holders. -/
def WShelf.place (w : WShelf) (a : Nat) : Nat := w.holders.findIdx (fun x => x == a)

/-- The copies of the buckets whose number is `p` modulo the number of holders: holder and sub-shelf, the primary first (R616). -/
def WShelf.copies (w : WShelf) (p : Nat) : List (Nat × Nat) :=
  (List.range (1 + w.template.replicas)).map (fun r => (w.holders.getD ((p + r) % w.holders.length) 0, r))

/-- A copy is in service. -/
def WShelf.serves (w : WShelf) (c : Nat × Nat) : Bool := !(w.outs.any (fun o => o.holder == c.1 && o.sub == c.2))

/-- The serving copy (R619); none where the buckets are missing. -/
def WShelf.serving (w : WShelf) (p : Nat) : Option (Nat × Nat) := (w.copies p).find? w.serves

/-- The residue whose buckets a holder's sub-shelf holds (R617). -/
def WShelf.residue (w : WShelf) (a r : Nat) : Nat := (w.place a + w.holders.length - r % w.holders.length) % w.holders.length

/-- The sub-shelves of a member that serve in a pass (R619). -/
def WShelf.servingSubs (w : WShelf) (a : Nat) : List Nat :=
  if w.holders.contains a then
    (List.range (1 + w.template.replicas)).filter (fun r => w.serving (w.residue a r) == some (a, r))
  else []

/-- The sub-shelf of a member that holds an id, if it holds it. -/
def WShelf.subFor (w : WShelf) (a id : Nat) : Option Nat :=
  let p := bucketOf w.template.handle id % w.holders.length
  (List.range (1 + w.template.replicas)).find? (fun r => w.holders.getD ((p + r) % w.holders.length) 0xFFFF == a)

/-- Some bucket of the shelf has no copy in service. -/
def WShelf.missing (w : WShelf) : Bool := (List.range w.holders.length).any (fun p => (w.serving p).isNone)

/-- A weave shelf by its handle. -/
def State.wshelf? (s : State) (handle : Nat) : Option WShelf := s.weave.shelves.find? (fun w => w.template.handle == handle)

/-- A weave shelf changed. -/
def State.wshelfMap (s : State) (handle : Nat) (f : WShelf → WShelf) : State :=
  s.weaveMap (fun w => { w with shelves := updFirst (fun x => x.template.handle == handle) f w.shelves })

/-- A sub-shelf of this chip. -/
def State.subShelf? (s : State) (handle sub : Nat) : Option Shelf :=
  s.store.shelves.find? (fun h => h.handle == handle && h.sub == sub && !h.released)

/-- The members that hold shards, in ascending address (R615). -/
def State.shardMembers (s : State) : List Nat :=
  sortBy (fun (a b : Nat) => decide (a < b)) ((s.weave.map.filter (fun m => m.flags.testBit 0)).map (fun m => m.addr))

/-- Sub-shelf `r` of a shelf: its far array follows those of the lower sub-shelves (R882), and its home seat on a chip other than
the head rim is seat 0 (R617). -/
def State.subOf (s : State) (h : Shelf) (r : Nat) : Shelf :=
  { h with sub := r, farBase := if h.fullPlace = 2 then h.farBase + r * 64 * h.capacity * h.recSize else 0
           ownerSeat := if s.isHead then h.ownerSeat else 0 }

/-- The shelf put in place on this chip: on a chip outside a weave its arrays, on a holder its sub-shelves, on a head rim without
shards its descriptor; and the weave shelf noted. -/
def State.makeShelf (s : State) (h : Shelf) : Option State :=
  if !s.inWeave then s.placeShelf h
  else
    let holders := s.shardMembers
    let subs := if holders.contains s.self then List.range (1 + h.replicas) else if s.isHead then [9] else []
    let placed := subs.foldl (fun (acc : Option State) r => acc.bind (fun s => s.placeShelf (s.subOf h r))) (some s)
    placed.map (fun s => s.weaveMap (fun w => { w with shelves := w.shelves ++ [⟨h, holders, [], 0, false⟩] }))

/-! ## Drop and grant -/

/-- The settle waits on a dropped shelf end (R147). -/
def State.endSettles (s : State) (handle : Nat) : State :=
  let gone := (s.store.shelves.filter (fun h => h.handle == handle)).map (fun h => h.index)
  let hs := (s.store.staging.filter (fun e => gone.contains e.shelf)).map (fun e => e.handle) ++
    (s.weave.settles.filter (fun x => x.handle == handle)).map (fun x => 2 ^ 64 + x.op)
  let hit := s.host.cmds.filter (fun c => c.stage == .settling && c.waits.any hs.contains && c.shelf == handle)
  let s := s.each hit (fun s c =>
    s.complete c stDegraded (if isMutation c.opcode then c.target else s.measure) 0 0 true)
  (s.reached hs).weaveMap (fun w => { w with settles := w.settles.filter (fun x => x.handle != handle) })

/-- A lost shelf is lost no more (R572): its mark in the descriptor and its bit of GDM_LOST; nothing of it is left to release. -/
def State.endLost (s : State) (handle : Nat) : State :=
  let lost := s.store.shelves.filter (fun h => h.handle == handle && h.lost)
  let s := s.each lost (fun s h =>
    let w := s.rd gdmLostShelves (h.index / 32)
    s.wr gdmLostShelves (h.index / 32) (if w.testBit (h.index % 32) then w - 2 ^ (h.index % 32) else w))
  s.storeMap (fun t => { t with
    shelves := updAll (fun h => h.handle == handle && h.lost) (fun h => { h with lost := false, released := true }) t.shelves })

/-- SHELF_DROP's effect (R147): the dropping flag, the settle waits ended, the mutations that still wait for a grant or for room ended with NO_SHELF,
and the arrays released in the background window. -/
def State.dropShelf (s : State) (handle : Nat) : State :=
  let s := (s.endLost handle).storeMap (fun t => { t with
    shelves := updAll (fun h => h.handle == handle) (fun h => { h with dropping := true, dropAt := s.measure }) t.shelves })
  let s := s.wshelfMap handle (fun w => { w with template := { w.template with dropping := true, dropAt := s.measure } })
  let s := s.endSettles handle
  let s := s.each (s.host.cmds.filter (fun c => c.waiting && c.shelf == handle)) (fun s c => s.refuse c stNoShelf)
  s.when s.clk.bgOpen State.releaseDropped

/-- SHELF_GRANT's effect (R509): the rights replace those the seat held. -/
def State.grantShelf (s : State) (handle seat rights : Nat) : State :=
  let put := fun (on : Bool) (l : List Nat) => let r := l.filter (fun x => x != seat); if on then r ++ [seat] else r
  s.storeMap (fun t => { t with
    shelves := updAll (fun h => h.handle == handle)
      (fun h => { h with searchers := put (rights.testBit 0) h.searchers, readers := put (rights.testBit 1) h.readers }) t.shelves })

end Sys2Proof.Machine
end

