-- ==== Sys2Proof/Machine/WeaveMut.lean ====
section
/-!
DEFINITION. Mutations, point reads and remote commands across the weave (chapter 14, sections 5.2, 6.1 and 8): operation ids, prepare and
commit, settling, the deputy's mirror, and the packets that run for the head rim.
-/
namespace Sys2Proof.Machine

/-! ## Operation ids (R639) -/

/-- A fresh operation id: the epoch, then the counter. -/
def State.newOp (s : State) : State × Nat :=
  (s.weaveMap (fun w => { w with opCount := (w.opCount + 1) % 2 ^ 48 }), s.rd wvEpochValue * 2 ^ 48 + s.weave.opCount)

/-- An outstanding operation of the head rim. -/
def State.wop? (s : State) (op : Nat) : Option WOp := s.weave.ops.find? (fun o => o.id == op)

/-- An outstanding operation changed. -/
def State.wopMap (s : State) (op : Nat) (f : WOp → WOp) : State :=
  s.weaveMap (fun w => { w with ops := updFirst (fun o => o.id == op) f w.ops })

/-- An outstanding operation ended. -/
def State.endOp (s : State) (op : Nat) : State := s.weaveMap (fun w => { w with ops := w.ops.filter (fun o => o.id != op) })

/-- The answer recorded for an operation message (R639). -/
def State.answered? (s : State) (op t : Nat) : Option Bytes :=
  (s.weave.applied.find? (fun a => a.1 == op && a.2.1 == t)).map (fun a => a.2.2)

/-- An operation message answered: the answer is recorded and sent to the head rim (R639). -/
def State.answer (s : State) (op t reply : Nat) (body : Bytes) : State :=
  (s.weaveMap (fun w => { w with applied := ((op, t, body) :: w.applied).take 65536 })).send reply s.headAddr op body

/-- An operation message applied once: a message whose id is held gets the recorded answer (R639). -/
def State.once (s : State) (m : Bytes) (reply : Nat) (f : State → State) : State :=
  match s.answered? (msgOp m) (msgType m) with
  | some b => s.send reply s.headAddr (msgOp m) b
  | none => f s

/-- The outcome byte and measure of a message body. -/
def outcomeBody (result measure : Nat) : Bytes := leBytes 1 result ++ zeros 3 ++ leBytes 4 measure

/-! ## Prepare and commit at a holder (R624, R883) -/

/-- The id of a record as sent (R420, R422). -/
def recId (b : Bytes) : Nat := field b 0 6

/-- A record as sent, as a record to commit. -/
def recOf (h : Shelf) (opcode : Nat) (b : Bytes) : Rec :=
  if opcode = 0x21 then ⟨recId b, none⟩ else ⟨recId b, some (dataRec h b 0)⟩

/-- The records of a batch that a sub-shelf of this chip holds. -/
def State.recsFor (s : State) (w : WShelf) (sub : Nat) (records : List Bytes) : List Bytes :=
  records.filter (fun b => w.subFor s.self (recId b) == some sub)

/-- The sub-shelves of this chip that hold some record of a batch. -/
def State.subsOf (s : State) (w : WShelf) (records : List Bytes) : List Nat :=
  (records.filterMap (fun b => w.subFor s.self (recId b))).eraseDups

/-- The units a batch takes in the staging buffer of this chip. -/
def unitsOf (h : Shelf) (opcode n : Nat) : Nat × Nat :=
  (if opcode = 0x21 then 0 else n * h.entryUnits, if opcode = 0x20 then 0 else n)

/-- The check of a batch at this chip (R624, R883): the status of the first failure, and the index of the record. -/
def State.prepareStatus (s : State) (w : WShelf) (opcode : Nat) (records : List Bytes) (room : Bool) : Nat × Nat :=
  let h := w.template
  let rs := records.map (recOf h opcode)
  let st := recordStatus h (rs.filterMap (fun r => r.data))
  let subs := s.subsOf w records
  if opcode ≠ 0x21 ∧ st ≠ stOk then (st, 0)
  else if subs.any (fun r => match s.subShelf? h.handle r with | some x => x.lost || x.dropping | none => true) then (stHwFault, 0)
  else if subs.any (fun r => match s.subShelf? h.handle r with
      | some x => s.overCapacity x ((s.recsFor w r records).map (recOf h opcode))
      | none => false) then (stStoreFull, 0)
  else
    let u := unitsOf h opcode records.length
    if room && !s.roomFor u.1 u.2 then (stStagingFull, 0) else (stOk, 0xFFFF)

/-- The presence bitmap of a batch: the ids present on the buckets this chip serves (R624). -/
def State.presence (s : State) (w : WShelf) (records : List Bytes) : List Bool :=
  records.map (fun b => match w.subFor s.self (recId b) with
    | none => false
    | some r => w.serving (bucketOf w.template.handle (recId b) % w.holders.length) == some (s.self, r) &&
        (match s.subShelf? w.template.handle r with | some h => s.present h.index (recId b) | none => false))

/-- Bits packed into bytes, the first bit lowest. -/
def packBits (l : List Bool) : Bytes :=
  (List.range (cdiv l.length 8)).map (fun i => BitVec.ofNat 8 (sumN ((List.range 8).map (fun j => if l.getD (8 * i + j) false then 2 ^ j else 0))))

/-- Entries held as tentative, or noted for after a rebuild's copy (R624, R648). -/
def State.hold (s : State) (op handle opcode : Nat) (records : List Bytes) (units : Nat × Nat) : State :=
  s.weaveMap (fun w => { w with tents := w.tents ++ [⟨op, handle, opcode, records, units, none⟩] })

/-- A commit of measure `m` on a weave shelf (R131, R614): its generation rises at a downbeat to come, unless a generation record of the downbeat after
the commit, or of a later one, has already come. -/
def State.markCommitted (s : State) (handle m : Nat) : State :=
  s.wshelfMap handle (fun w => match w.template.genLog.head? with
    | some g => if later (measureAdd m 1) g.1 then { w with committed := true } else w
    | none => { w with committed := true })

/-- A tentative batch made visible with a commit measure on this chip's sub-shelves; its entries are noted until they have reached the store
(R624, R629). -/
def State.applyTent (s : State) (t : Tent) (m : Nat) : State :=
  let s := s.weaveMap (fun w => { w with tents := w.tents.filter (fun x => x.op != t.op), commitLog := ((t.op, m, t.handle) :: w.commitLog).take 65536 })
  match s.wshelf? t.handle with
  | none => s
  | some w =>
    let s := s.each (s.subsOf w t.records) (fun s r => match s.subShelf? t.handle r with
      | none => s
      | some h => s.commitRecs h.index (2 ^ 64 + t.op) m false ((s.recsFor w r t.records).map (recOf h t.opcode)))
    let hs := (s.store.staging.filter (fun e => e.cid == 2 ^ 64 + t.op)).map (fun e => e.handle)
    (s.weaveMap (fun w => { w with landing := w.landing ++ [⟨t.op, t.handle, m, hs⟩] })).markCommitted t.handle m

/-- The commit of a tentative batch must wait for a slab operation (R468). -/
def State.tentHeld (s : State) (t : Tent) : Bool :=
  match s.wshelf? t.handle with
  | none => false
  | some w => (s.subsOf w t.records).any (fun r => match s.subShelf? t.handle r with
      | none => false
      | some h => (s.recsFor w r t.records).any (fun b => s.heldBySlab h.index (recId b)))

/-- A decision on a batch at this chip (R624): committed with its commit measure, or dropped. -/
def State.decideTent (s : State) (op : Nat) (m : Option Nat) : State :=
  match s.weave.tents.find? (fun t => t.op == op), m with
  | none, _ => s
  | some _, none => s.weaveMap (fun w => { w with tents := w.tents.filter (fun x => x.op != op) })
  | some t, some m =>
    match s.weave.rebuilds.find? (fun r => r.handle == t.handle) with
    | some r => s.weaveMap (fun w => { w with
        tents := w.tents.filter (fun x => x.op != op)
        rebuilds := updFirst (fun x => x.op == r.op) (fun x => { x with late := x.late ++ [(t.opcode, m, t.records)] }) w.rebuilds })
    | none =>
      if s.tentHeld t then s.weaveMap (fun w => { w with tents := updFirst (fun x => x.op == op) (fun x => { x with decided := some m }) w.tents })
      else s.applyTent t m

/-- The commits that waited for a slab operation go on (R468), and every commit whose entries have all reached the store is reported
to the head rim (R629). -/
def State.weaveLanded (s : State) : State :=
  if !s.inWeave then s
  else
    let waits := s.weave.tents.filter (fun t => t.decided.isSome)
    let s := s.each waits (fun s t => s.decideTent t.op t.decided)
    let s := s.when (waits != [] && s.weave.tents.all (fun t => t.decided.isNone)) State.servePoints
    let left := fun (l : Settle) => l.left.filter (fun k => s.store.staging.any (fun e => e.handle == k && e.cid == 2 ^ 64 + l.op && e.unsettled))
    let done := s.weave.landing.filter (fun l => (left l).isEmpty)
    let s := s.weaveMap (fun w => { w with landing := (w.landing.filter (fun l => !(left l).isEmpty)).map (fun l => { l with left := left l }) })
    s.each done (fun s l =>
      if s.isHead then
        let s := s.weaveMap (fun w => { w with settles := (w.settles.map (fun x => if x.op = l.op then { x with left := x.left.filter (fun a => a != s.self) } else x)) })
        s
      else s.send 0x17 s.headAddr l.op (outcomeBody 0 l.measure))

/-- The settle waits of the head rim whose operations have settled on every holder end (R629). -/
def State.weaveSettles (s : State) : State :=
  let done := (s.weave.settles.filter (fun x => x.left.isEmpty)).map (fun x => 2 ^ 64 + x.op)
  if done = [] then s
  else (s.reached done).weaveMap (fun w => { w with settles := w.settles.filter (fun x => !x.left.isEmpty) })

/-! ## Prepare and commit at the head rim (R619, R624 to R628) -/

/-- The holders of a record: every copy of its bucket in service, or being rebuilt (R648). -/
def State.holdersOf (s : State) (w : WShelf) (b : Bytes) : List Nat :=
  let p := bucketOf w.template.handle (recId b) % w.holders.length
  let building := fun (a : Nat) => s.weave.ops.any (fun o => o.kind == .rebuild && o.handle == w.template.handle && o.waiting.contains a)
  ((w.copies p).filter (fun c => w.serves c || building c.1)).map (fun c => c.1)

/-- The records of a mutation as they are sent. -/
def Cmd.rawRecords (c : Cmd) (h : Shelf) : List Bytes :=
  if c.opcode = 0x21 then (List.range c.batch).map (fun i => slice c.param (8 + 8 * i) 8)
  else (List.range c.batch).map (fun i => slice c.operands (i * h.dataRec) h.dataRec)

/-- The PREPARE message body for a holder (R608). -/
def prepareBody (handle opcode : Nat) (records : List Bytes) : Bytes :=
  leBytes 4 handle ++ leBytes 1 opcode ++ zeros 1 ++ leBytes 2 records.length ++ records.flatten

/-- The first round of a mutation at the head rim (R624): every holder of every record is asked; a bucket without a copy in service fails
the command with HW_FAULT (R619). -/
def State.prepare (s : State) (c : Cmd) : State :=
  match s.wshelf? c.shelf with
  | none => s.refuse c stNoShelf
  | some w =>
    let records := c.rawRecords w.template
    let hit := fun (a : Nat) => records.filter (fun b => (s.holdersOf w b).contains a)
    if records.any (fun b => (w.serving (bucketOf c.shelf (recId b) % w.holders.length)).isNone) then s.refuse c stHwFault
    else
      let all := (records.flatMap (fun b => s.holdersOf w b)).eraseDups
      let (s, op) := s.newOp
      let others := all.filter (fun a => a != s.self)
      let sent := others.map (fun a => (a, prepareBody c.shelf c.opcode (hit a)))
      let o : WOp := ⟨op, .prepare, c.cid, c.shelf, others, sent, 0, [], records⟩
      let mine := hit s.self
      let st := if mine = [] then (stOk, 0) else s.prepareStatus w c.opcode mine false
      let here := ((s.presence w records).zip (List.range records.length)).filterMap (fun p => if p.1 then some (p.2, 1) else none)
      let s := s.weaveMap (fun x => { x with ops := x.ops ++ [{ o with worst := if mine = [] then 0 else st.1, present := here }] })
      let s := s.when (mine != []) (fun s => s.hold op c.shelf c.opcode mine (0, 0))
      s.each sent (fun s p => s.send 0x13 p.1 op p.2)

/-- The mutations at the head rim whose first round has not begun begin it, in fetch order. -/
def State.weavePrepares (s : State) : State :=
  if !s.isHead then s
  else s.each (s.host.cmds.filter (fun c => isMutation c.opcode && c.stage == .remote && !(s.weave.ops.any (fun o => o.cid == c.cid)))) State.prepare

/-- A window entry as the mirror data holds it (R628). -/
def mirrorBytes (e : WinEnt) : Bytes :=
  leBytes 2 e.seat ++ leBytes 4 e.seq ++ leBytes 1 e.opcode ++ leBytes 4 e.shelf ++
  leBytes 1 (match e.state with | .pending => 0 | .executed => 1 | .unposted => 2 | .never => 3) ++
  leBytes 1 e.status ++ leBytes 2 e.tag ++ leBytes 4 e.measure ++ leBytes 8 e.location ++ leBytes 4 e.count ++ zeros 1

/-- A window entry read from mirror data. -/
def mirrorEnt (b : Bytes) : WinEnt :=
  ⟨field b 0 2, field b 2 4, field b 6 1, field b 7 4, (match field b 11 1 with | 0 => .pending | 1 => .executed | 2 => .unposted | _ => .never), 0,
   field b 12 1, field b 13 2, field b 15 4, field b 19 8, field b 27 4⟩

/-- The completed entries of tracked mutations and administration commands that the deputy has not been sent. -/
def State.unmirrored (s : State) : List WinEnt :=
  (s.host.window.filter (fun e => e.state != .pending && !isPass e.opcode &&
    !(s.weave.mirror.any (fun x => x.seat == e.seat && x.seq == e.seq && x.state == e.state)))).take 3000

/-- The COMMIT message sent to a member: the decision and the commit measure, and the mirror data to the deputy (R608, R628). -/
def State.sendCommit (s : State) (op a : Nat) (commit : Bool) (m : Nat) : State :=
  let body := leBytes 1 (if commit then 1 else 2) ++ zeros 3 ++ leBytes 4 m
  let mirror := if a = s.rd wvDeputyAddr then s.unmirrored else []
  let s := s.send 0x15 a op (body ++ (mirror.map mirrorBytes).flatten)
  let kept := s.weave.mirror.filter (fun e => !(mirror.any (fun x => x.seat == e.seat && x.seq == e.seq)))
  s.weaveMap (fun w => { w with mirror := (mirror ++ kept).take 262144 })

/-- The members of the weave but this chip. -/
def State.others (s : State) : List Nat := (s.weave.map.map (fun m => m.addr)).filter (fun a => a != s.self)

/-- The decision on a batch at the head rim (R624): abort where a record fails, commit otherwise. The deputy gets the commit message with its mirror
data even where it holds none of the records (R628). -/
def State.decideOp (s : State) (o : WOp) : State :=
  match s.cmd? o.cid with
  | none => s.endOp o.id
  | some c =>
    let dup := if c.opcode = 0x20 then (o.present.find? (fun p => p.2 == 1)).map (fun p => p.1) else none
    let fails := o.worst ≠ 0 ∨ dup.isSome
    let dest := (o.sent.map (fun p => p.1))
    if fails then
      let s := (s.decideTent o.id none).each dest (fun s a => s.sendCommit o.id a false 0)
      let s := s.endOp o.id
      match o.worst, dup with
      | 0, some i => (s.showPresent (recId (o.records.getD i []))).refuse c stBadParam
      | st, _ => s.refuse c st
    else
      let m := s.measure
      let s := s.markCommitted o.handle m
      let all := (if s.weave.tents.any (fun t => t.op == o.id) then [s.self] else []) ++ dest
      let s := s.weaveMap (fun w => { w with settles := w.settles ++ [⟨o.id, o.handle, m, all⟩] })
      let s := s.decideTent o.id (some m)
      let s := s.cmdMap c.cid (fun x => { x with waits := [2 ^ 64 + o.id] })
      let s := if dest = [] then s.endOp o.id
        else s.wopMap o.id (fun x => { x with kind := .commit, waiting := dest, sent := dest.map (fun a => (a, leBytes 1 1 ++ zeros 3 ++ leBytes 4 m)) })
      let s := s.committed c
      let also := (s.others.filter (fun a => a == s.rd wvDeputyAddr)).filter (fun a => !dest.contains a)
      (s.each (dest ++ also) (fun s a => s.sendCommit o.id a true m)).weaveLanded.weaveSettles

/-- The head rim decides no commit within 5,000 ns before its predicted next downbeat (R625). -/
def State.mayDecide (s : State) : Bool := decide (s.clk.now + ns 5000 ≤ s.clk.predicted)

/-- The batches whose holders have all reported are decided, in order (R624 to R626). -/
def State.weaveDecide (s : State) : State :=
  if !s.isHead || !s.mayDecide then s
  else s.each (s.weave.ops.filter (fun o => o.kind == .prepare && o.waiting.isEmpty)) State.decideOp

/-! ## The mutation messages -/

/-- PREPARE (R624): a holder checks the records and holds the entries as tentative. -/
def State.onPrepare (s : State) (m : Bytes) : State :=
  s.once m 0x14 (fun s =>
    let b := msgBody m
    let handle := field b 0 4
    let opcode := field b 4 1
    match s.wshelf? handle with
    | none => s.answer (msgOp m) 0x13 0x14 (leBytes 1 stNoShelf ++ zeros 1 ++ leBytes 2 0)
    | some w =>
      let size := if opcode = 0x21 then 8 else w.template.dataRec
      let records := (List.range (field b 6 2)).map (fun i => slice b (8 + size * i) size)
      let rebuilding := s.weave.rebuilds.any (fun r => r.handle == handle)
      let st := if rebuilding then (stOk, 0xFFFF) else s.prepareStatus w opcode records true
      let s := s.when (st.1 == stOk) (fun s => s.hold (msgOp m) handle opcode records
        (if rebuilding then (0, 0) else unitsOf w.template opcode records.length))
      s.answer (msgOp m) 0x13 0x14 (leBytes 1 st.1 ++ zeros 1 ++ leBytes 2 st.2 ++ packBits (s.presence w records)))

/-- PREPARE_REPLY (R624): a holder's check; when all have reported, the head rim decides. -/
def State.onPrepareReply (s : State) (m : Bytes) : State :=
  match s.wop? (msgOp m) with
  | none => s
  | some o =>
    if o.kind ≠ .prepare ∨ !o.waiting.contains (msgSrc m) then s
    else
      let b := msgBody m
      let mine := match s.wshelf? o.handle with
        | none => []
        | some w => (List.range o.records.length).filter (fun i => (s.holdersOf w (o.records.getD i [])).contains (msgSrc m))
      let here := (mine.zip (List.range mine.length)).filterMap (fun p => if (field b (4 + p.2 / 8) 1).testBit (p.2 % 8) then some (p.1, 1) else none)
      let worst := if o.worst = 0 then field b 0 1 else o.worst
      (s.wopMap o.id (fun x => { x with waiting := x.waiting.filter (fun a => a != msgSrc m), worst := worst, present := x.present ++ here })).weaveDecide

/-- COMMIT (R624, R628): tentative entries become visible with the commit measure, or are aborted; the deputy takes the mirror data. -/
def State.onCommit (s : State) (m : Bytes) : State :=
  s.once m 0x16 (fun s =>
    let b := msgBody m
    let cm := field b 4 4
    let s := s.decideTent (msgOp m) (if field b 0 1 = 1 then some cm else none)
    let more := (List.range ((b.length - 8) / 32)).map (fun i => slice b (8 + 32 * i) 32)
    let ents := ((more.filter (fun e => e.any (fun x => x != 0))).map mirrorEnt)
    let kept := s.weave.mirror.filter (fun e => !(ents.any (fun x => x.seat == e.seat && x.seq == e.seq)))
    let s := s.weaveMap (fun w => { w with mirror := (ents ++ kept).take 262144 })
    (s.answer (msgOp m) 0x15 0x16 (outcomeBody 0 cm)).weaveLanded)

/-- APPLIED (R624): a holder has applied a commit. -/
def State.onApplied (s : State) (m : Bytes) : State :=
  match s.wop? (msgOp m) with
  | none => s
  | some o =>
    let left := o.waiting.filter (fun a => a != msgSrc m)
    if o.kind ≠ .commit then s else if left = [] then s.endOp o.id else s.wopMap o.id (fun x => { x with waiting := left })

/-- SETTLED (R629): a holder's entries of an operation have reached its store. -/
def State.onSettled (s : State) (m : Bytes) : State :=
  let drop := fun (x : Settle) => { x with left := x.left.filter (fun a => a != msgSrc m) }
  (s.weaveMap (fun w => { w with settles := updFirst (fun x => x.op == msgOp m) drop w.settles })).weaveSettles

/-- A SETTLE at the head rim (R477, R629): it waits for the operations of its scope that have not settled everywhere. -/
def State.weaveSettle (s : State) (c : Cmd) : State :=
  let all := field c.param 0 1 == 1
  let ops := (s.weave.settles.filter (fun x => all || x.handle == c.shelf)).map (fun x => 2 ^ 64 + x.op)
  if ops = [] then s.completeOk c 0 0 else s.cmdMap c.cid (fun x => { x with stage := .settling, waits := ops })

/-! ## Point reads (R627) -/

/-- A committed batch that names an id waits for a slab operation on this chip (R468). -/
def State.commitWaits (s : State) (handle id : Nat) : Bool :=
  s.weave.tents.any (fun t => t.decided.isSome && t.handle == handle && t.records.any (fun b => recId b == id))

/-- A point read of a host or of the head rim, on the shelf that holds the id: it sees every commit that came before it (R144, R627), so it waits
for one that a slab operation holds up. -/
def State.pointRead (s : State) (c : Cmd) : State :=
  let id := field c.param 0 6
  match s.wshelf? c.shelf with
  | none => (match s.shelfOf? c.shelf with | none => s.refuse c stNoShelf | some h => s.pointServe c h)
  | some w =>
    match w.serving (bucketOf c.shelf id % w.holders.length) with
    | none => s.pointDone c (pointReply id 0 0 0 0 0 []) stDegraded 0
    | some (a, r) =>
      if a = s.self ∨ c.origin = 3 then
        (match s.subShelf? c.shelf ((w.subFor s.self id).getD r) with
        | some h => if s.commitWaits c.shelf id then s.holdPoint c h else s.pointServe c h
        | none => s.refuse c stHwFault)
      else
        let (s, op) := s.newOp
        let body := leBytes 4 c.shelf ++ slice c.param 0 7
        let s := s.weaveMap (fun x => { x with ops := x.ops ++ [⟨op, .point, c.cid, c.shelf, [a], [(a, body)], 0, [], []⟩] })
        (s.cmdMap c.cid (fun x => { x with stage := .remote })).send 0x18 a op body

/-- A command made by this chip itself. -/
def innerCmd (cid opcode shelf origin ref : Nat) (param : Bytes) : Cmd :=
  { cid := cid, seat := 0, queue := 0, cpq := 0, tag := 0, seq := 0, opcode := opcode, cls := 0, flags := 8, shelf := shelf, deadline := 0
    param := param, operands := [], table := [], tableSlot := none, stage := .ready, first := 0, last := 0, carried := false, queuedAt := 0
    fetchedAt := 0, intakeAt := 0, target := 0, waits := [], reserved := (0, 0), origin := origin, quiet := false, ref := ref, opRoom := 0, spent := 0 }

/-- A command put on the list of fetched commands. -/
def State.addCmd (s : State) (c : Cmd) : State := s.hostMap (fun h => { h with cmds := h.cmds ++ [c], nextCid := h.nextCid + 1 })

/-- POINT_READ (R627): the serving holder reads the row. -/
def State.onPointRead (s : State) (m : Bytes) : State :=
  let b := msgBody m
  let c := innerCmd s.host.nextCid 0x12 (field b 0 4) 3 (msgOp m) (slice b 4 7 ++ zeros 17)
  (s.addCmd c).pointRead c

/-- POINT_REPLY (R627): the reply record is relayed; an empty one reports a read that failed. -/
def State.onPointReply (s : State) (m : Bytes) : State :=
  match s.wop? (msgOp m) with
  | none => s
  | some o =>
    let s := s.endOp o.id
    match s.cmd? o.cid, s.wshelf? o.handle with
    | some c, some w =>
      let b := msgBody m
      let found := field b 6 1
      let n := 32 + (if found = 1 then (pointParts w.template (field c.param 6 1) (zeros w.template.w) (zeros (vecBytes w.template.elemFormat w.template.dim))).length else 0)
      if b.all (fun x => x == 0) then s.refuse c stHwFault else s.pointDone c (b.take n) stOk found
    | _, _ => s

/-! ## Remote commands (R606, R650) -/

/-- The packet of a command (R400, R402). -/
def Cmd.packet (c : Cmd) : Bytes :=
  let head := fun (crc : Nat) => leBytes 1 3 ++ leBytes 1 c.opcode ++ leBytes 1 c.cls ++ leBytes 1 c.flags ++ leBytes 2 c.seat ++ leBytes 2 c.tag ++
    leBytes 4 c.seq ++ leBytes 4 (32 + c.param.length) ++ leBytes 4 c.shelf ++ leBytes 4 c.deadline ++ zeros 4 ++ leBytes 4 crc
  head (crc32c (head 0 ++ c.param)) ++ c.param

/-- Opcodes a REMOTE may run at a member: all but pass work, mutations, point reads, SETTLE and WEAVE_ADMIN, which a member refuses
(R605). -/
def remoteOp (op : Nat) : Bool := knownOp op && !isPass op && !isMutation op && op != 0x12 && op != 0x23 && op != 0x58 && op != 0x50

/-- REMOTE (R606): the packet runs as a command of this chip; the row of its opcode follows. -/
def State.onRemote (s : State) (m : Bytes) : State :=
  s.once m 0x1B (fun s =>
    if s.host.cmds.any (fun c => c.origin == 2 && c.ref == msgOp m) then s
    else
      let b := msgBody m
      let p := slice b 4 (field b 0 4)
      let h := headerOf p
      let c := { innerCmd s.host.nextCid h.opcode h.shelf 2 (msgOp m) (p.drop 32) with
        tag := h.tag, seq := h.seq, flags := h.flags, operands := b.drop (4 + roundUp (field b 0 4) 16) }
      let s := s.addCmd c
      if h.crc ≠ packetCrc p then s.refuse c stCrc
      else if !remoteOp h.opcode then s.refuse c stNotOwner
      else if paramLen h.opcode c.param (s.shelfOf? h.shelf) ≠ some c.param.length then s.refuse c stBadParam else s)

/-- A command of the head rim that every other member runs too (SHELF_CREATE, SHELF_DROP): sent to each as a REMOTE. -/
def State.spread (s : State) (c : Cmd) : State :=
  let p := c.packet
  let body := leBytes 4 p.length ++ padTo (roundUp p.length 16) p
  let (s, op) := s.newOp
  let dest := s.others
  if dest = [] then s
  else
    let s := s.weaveMap (fun x => { x with ops := x.ops ++ [⟨op, .remote, c.cid, c.shelf, dest, dest.map (fun a => (a, body)), 0, [], []⟩] })
    s.each dest (fun s a => s.send 0x1A a op body)

/-- The end of a command that members ran too: OK, or the first failing status. -/
def State.endSpread (s : State) (o : WOp) : State :=
  let s := s.endOp o.id
  match s.cmd? o.cid with
  | none => s
  | some c =>
    if o.worst = 0 then s.completeOk c 0 0
    else
      let s := s.when (c.opcode == 0x28) (fun s => (s.dropShelf c.shelf).spread { c with cid := s.host.nextCid, opcode := 0x29, param := [] })
      s.refuse c o.worst

/-- REMOTE_REPLY (R650): the target's completion record and reply record; the head rim writes them to the reply buffer. -/
def State.onRemoteReply (s : State) (m : Bytes) : State :=
  match s.wop? (msgOp m) with
  | none => s
  | some o =>
    let b := msgBody m
    let left := o.waiting.filter (fun a => a != msgSrc m)
    let o' := { o with waiting := left, worst := if o.worst = 0 then field b 0 1 else o.worst }
    match s.cmd? o.cid with
    | none => if left = [] then s.endOp o.id else s.wopMap o.id (fun _ => o')
    | some c =>
      if c.opcode = 0x58 then
        let n := if field b 16 8 = 0 then 32 else b.length
        ((s.endOp o.id).reply c (bufAddr c.param 24) (b.take (min n (bufLen c.param 24)))).completeOk c (bufAddr c.param 24) 1
      else if left = [] then s.endSpread o' else s.wopMap o.id (fun _ => o')

/-! ## Loss (R640, R641) -/

/-- The messages of outstanding operations sent again to the members below a child whose path has returned (R640). -/
def State.resend (s : State) (child : Nat) : State :=
  let under := fun (a : Nat) => s.towards 4 a == some child
  let kind := fun (o : WOp) => match o.kind with
    | .prepare => 0x13 | .commit => 0x15 | .abort => 0x15 | .point => 0x18 | .remote => 0x1A | .admin => 0x1C | .settle => 0x1C | .rebuild => 0x1C
  s.each s.weave.ops (fun s o => s.each (o.sent.filter (fun p => o.waiting.contains p.1 && under p.1)) (fun s p => s.send (kind o) p.1 o.id p.2))

/-- The operations that waited for lost members go on without them: a prepare starts again on the holders that are left, a point read fails,
and administration counts the member as failed. -/
def State.forget (s : State) (lost : List Nat) : State :=
  let s := s.weaveMap (fun w => { w with settles := w.settles.map (fun x => { x with left := x.left.filter (fun a => !lost.contains a) }) })
  let s := s.each (s.weave.ops.filter (fun o => o.waiting.any lost.contains)) (fun s o =>
    let left := o.waiting.filter (fun a => !lost.contains a)
    match o.kind with
    | .prepare =>
      let s := (s.decideTent o.id none).each (o.sent.filter (fun p => !lost.contains p.1)) (fun s p => s.sendCommit o.id p.1 false 0)
      s.endOp o.id
    | .commit => if left = [] then s.endOp o.id else s.wopMap o.id (fun x => { x with waiting := left })
    | .point => (match s.cmd? o.cid with | some c => (s.endOp o.id).refuse c stHwFault | none => s.endOp o.id)
    | .remote =>
      (match s.cmd? o.cid with
      | some c => if c.opcode = 0x58 then (s.endOp o.id).complete c stDegraded s.measure 0 0 true
          else if left = [] then s.endSpread { o with waiting := [] } else s.wopMap o.id (fun x => { x with waiting := left })
      | none => s.endOp o.id)
    | _ => s.wopMap o.id (fun x => { x with waiting := left, worst := stDegraded }))
  s.weaveSettles

end Sys2Proof.Machine
end

