-- ==== Sys2Proof/Machine/WeavePass.lean ====
section
/-!
DEFINITION. Pass work across the weave (chapter 14, sections 5.1, 5.3 and 5.4): fan-out, capacity reports, the costing of members and
plan messages, the candidate key, and the plaiting of final lists and statistics.
-/
namespace Sys2Proof.Machine

/-! ## Runs -/

/-- The number under which this chip runs its part of a search on one sub-shelf. -/
def subCid (ref sub : Nat) : Nat := 2 ^ 70 + 16 * ref + sub

/-- A search as it was forwarded. -/
def State.fan? (s : State) (ref : Nat) : Option Fan := s.weave.fans.find? (fun f => f.ref == ref)

/-- A merge of this pass. -/
def State.merge? (s : State) (ref : Nat) : Option Merge := s.weave.merges.find? (fun m => m.ref == ref)

/-- A merge changed. -/
def State.mergeMap (s : State) (ref : Nat) (f : Merge → Merge) : State :=
  s.weaveMap (fun w => { w with merges := updFirst (fun m => m.ref == ref) f w.merges })

/-- The command of a forwarded search on one sub-shelf of this chip. -/
def Fan.part (f : Fan) (sub : Nat) : Cmd :=
  let h := headerOf f.packet
  { innerCmd (subCid f.ref sub) h.opcode h.shelf 1 f.ref (f.packet.drop 32) with
    seat := h.seat, tag := h.tag, cls := h.cls, operands := f.operands, table := f.table, stage := .admitted }

/-- The parts of a forwarded search that this chip serves (R619), as items of a plan. -/
def State.partItems (s : State) (f : Fan) : List Item :=
  let handle := (headerOf f.packet).shelf
  match s.wshelf? handle with
  | none => []
  | some w => (w.servingSubs s.self).filterMap (fun r =>
      ((s.subShelf? handle r).filter (fun h => !h.lost)).map (fun h => s.item (f.part r) h))

/-! ## Fan-out (R620) -/

/-- The FORWARD message of a search (R608). -/
def forwardBody (c : Cmd) (packet : Bytes) : Bytes :=
  let pad := fun (b : Bytes) => padTo (roundUp b.length 16) b
  leBytes 2 c.seat ++ leBytes 2 c.tag ++ leBytes 4 c.seq ++ leBytes 4 packet.length ++ leBytes 4 c.operands.length ++ leBytes 4 c.table.length ++
  pad packet ++ pad c.operands ++ pad c.table

/-- A search that has passed intake at the head rim is forwarded to every other holder of its shelf (R620) that is not lost (R641). -/
def State.fanOut (s : State) (c : Cmd) : State :=
  match s.wshelf? c.shelf with
  | none => s
  | some w =>
    let ref := s.weave.nextRef
    let dest := w.holders.filter (fun a => a != s.self && !s.weave.members.any (fun m => m.addr == a && m.lost))
    let packet := c.packet
    let f : Fan := ⟨ref, c.cid, dest, false, packet, c.operands, c.table⟩
    let s := s.weaveMap (fun x => { x with nextRef := x.nextRef + 1, fans := x.fans ++ [f] })
    let s := s.cmdMap c.cid (fun x => { x with ref := ref, stage := if dest = [] then .candidate else .remote })
    s.each dest (fun s a => s.send 0x10 a ref (forwardBody c packet))

/-- FORWARD (R620): a holder takes a search and acknowledges it, or reports that it has no intake room. -/
def State.onForward (s : State) (m : Bytes) : State :=
  let b := msgBody m
  let n1 := field b 8 4
  let n2 := field b 12 4
  let n3 := field b 16 4
  let room := s.intakeUsed + n1 + n2 ≤ 67108864
  let f : Fan := ⟨msgOp m, 0, [], false, slice b 20 n1, slice b (20 + roundUp n1 16) n2, slice b (20 + roundUp n1 16 + roundUp n2 16) n3⟩
  let s := if room then s.weaveMap (fun w => { w with fans := w.fans.filter (fun x => x.ref != msgOp m) ++ [f] }) else s
  s.send 0x11 s.headAddr (msgOp m) (leBytes 1 (if room then 0 else 1))

/-- Every acknowledgement of a search is in (R620): it is a candidate at this downbeat where they came by downbeat + 14,000 ns, and otherwise at the
next. -/
def State.fanHeld (s : State) (f : Fan) : State :=
  let inTime := s.clk.now ≤ s.clk.lastDb + ns 14000 ∧ !s.clk.planFrozen
  let n := if inTime then s.measure else measureAdd s.measure 1
  s.cmdMap f.cid (fun c => { c with stage := .candidate, first := if later n c.first then n else c.first, last := if later n c.last then n else c.last })

/-- The searches that waited for the acknowledgement of lost members wait for it no more (R641). -/
def State.forgetFans (s : State) (lost : List Nat) : State :=
  let hit := s.weave.fans.filter (fun f => f.waiting.any lost.contains)
  let s := s.weaveMap (fun w => { w with fans := w.fans.map (fun f => { f with waiting := f.waiting.filter (fun a => !lost.contains a) }) })
  s.each (hit.filter (fun f => f.waiting.all lost.contains)) State.fanHeld

/-- FORWARD_ACK (R620): the last acknowledgement makes the search a candidate: at this downbeat when it arrives by downbeat + 14,000 ns, and
otherwise at the next. -/
def State.onForwardAck (s : State) (m : Bytes) : State :=
  match s.fan? (msgOp m) with
  | none => s
  | some f =>
    let held := field (msgBody m) 0 1 == 0
    let left := if held then f.waiting.filter (fun a => a != msgSrc m) else f.waiting
    let upd := fun (x : Fan) => { x with waiting := left, noRoom := x.noRoom || !held }
    let s := s.weaveMap (fun w => { w with fans := updFirst (fun x => x.ref == f.ref) upd w.fans })
    if left ≠ [] ∨ f.waiting = [] then s
    else s.fanHeld f

/-! ## Capacity (R621, R622) -/

/-- This chip's capacity report (R608, R621). -/
def State.capacityBody (s : State) : Bytes :=
  let k := s.costing
  let recs := s.weave.shelves.flatMap (fun w => (w.servingSubs s.self).filterMap (fun r =>
    (s.subShelf? w.template.handle r).map (fun h =>
      leBytes 4 h.handle ++ leBytes 1 r ++ zeros 3 ++ leBytes 8 h.placed ++ leBytes 8 (s.stagedBytes h))))
  leBytes 4 (measureAdd s.measure 1) ++ leBytes 2 k.engines ++ leBytes 2 s.clk.kappa ++ leBytes 4 ((k.bw * 256).floor.toNat) ++
  leBytes 4 (k.point.ceil.toNat) ++ leBytes 2 k.farBw ++ leBytes 2 k.farLat ++ leBytes 2 recs.length ++ zeros 2 ++ recs.flatten

/-- CAPACITY_REPORT_SEND (R621): 20 µs before each downbeat, a member reports to the head rim. -/
def State.capacitySend (s : State) : State :=
  if s.live && s.inWeave && !s.isHead then
    let s := s.advance (s.clk.predicted - ns 20000)
    s.send 0x20 s.headAddr 0 s.capacityBody
  else s

/-- The greatest hop count of the weave (R622). -/
def State.depth (s : State) : Nat :=
  let up := fun (a : Nat) => ((s.mapEnt? a).map (fun m => m.parent)).getD 0xFFFF
  let hops := fun (a : Nat) => if up a = 0xFFFF then 0 else if up (up a) = 0xFFFF then 1 else if up (up (up a)) = 0xFFFF then 2 else 3
  s.weave.map.foldl (fun n m => max n (hops m.addr)) 0

/-- t_key of R622 for the searches with these candidate counts, in ns. -/
def State.tKey (s : State) (cs : List Nat) : Rat := 2 * ((sumN (cs.map (fun c => 8 * c + 24)) : Nat) : Rat) / 26 + 400 * (s.depth : Rat)

/-- The member's report applies to this measure. -/
def State.reported (s : State) (m : Member) : Bool :=
  match m.cap with | some k => k.measure == s.measure && !m.lost | none => false

/-- The items of a list of searches on a member, by its report (R621). -/
def State.memberItems (s : State) (m : Member) (cs : List Cmd) : List Item :=
  match m.cap with
  | none => []
  | some k => cs.flatMap (fun c => match s.wshelf? c.shelf with
    | none => []
    | some w => (w.servingSubs m.addr).map (fun r =>
        let rec_ := k.recs.find? (fun x => x.handle == c.shelf && x.sub == r)
        ⟨c, { w.template with index := 16 * c.shelf + r }, (rec_.map (fun x => x.rows)).getD 0, (rec_.map (fun x => x.staged)).getD 0⟩))

/-- What a member brings to the costs, with t_key taken from its budget (R622). -/
def State.memberCosting (s : State) (k : Capacity) (key : Rat) : Costing :=
  ⟨(k.bw : Rat) / 256, k.engines, s.budget * (1 - (s.inForce measTailMarginPermille : Rat) / 1000) * ((k.kappa : Rat) / 256) - key,
   (k.point : Rat), k.farBw, k.farLat⟩

/-- The plan of this chip's own part of a list of searches, with t_key (R622): none where it does not fit. -/
def State.ownPlan (s : State) (l : List Item) (key : Rat) : Option Plan := s.planWith { s.costing with cap := s.cap - key } key l

/-- Engines as many as a member reports, spread over its clusters as gating leaves them (R215, R769): the head rim places a member's groups on
these (DESIGN CHOICE, log entry 83: a report names no engines). -/
def spreadEngines (n : Nat) : List Nat := sortBy (fun (a b : Nat) => decide (a < b)) ((List.range (min n 64)).map (fun i => 8 * (i % 8) + i / 8))

/-- A member's columns and lists fit the engines it reports (R61, R66, R80, R293). -/
def memberPlaced (k : Capacity) (l : List Item) : Bool :=
  match placementOn (spreadEngines k.engines) l with
  | some cs => listsOk l cs
  | none => false

/-- The searches of the head rim fit every member that has reported (R622), the strands (R637), and the posting limits. -/
def State.weaveFits (s : State) (cs : List Cmd) : Bool :=
  let searches := cs.filter (fun c => isSearch c.opcode)
  let key := s.tKey (searches.map Cmd.cand)
  let strand := decide (sumN (searches.map (fun c => 24 * c.k + 64)) ≤ 26 * (23600 - 400 * s.depth))
  let posts := s.postingOk (cs.filterMap (fun c => (s.wshelf? c.shelf).map (fun w => s.item c w.template)))
  strand && posts && s.weave.members.all (fun m => !s.reported m || (match m.cap with
    | none => true
    | some k => let l := s.memberItems m cs; let c := s.memberCosting k key; fits c l && voicesOk c l && resultsOk l && memberPlaced k l))

/-- The head rim's plan of a list of its hosts' searches: its own part, where every member fits. -/
def State.weavePlan (s : State) (cs : List Cmd) : Option Plan :=
  let key := s.tKey ((cs.filter (fun c => isSearch c.opcode)).map Cmd.cand)
  let l := cs.flatMap (fun c => match s.fan? c.ref with | some f => s.partItems f | none => [])
  if s.weaveFits cs then s.ownPlan l key else none

/-! ## The start of a pass -/

/-- What a frozen plan shows and readies (R57, R257): its cost, the engines it needs out of Tacet, the queries of its voices loaded. -/
def State.planShown (s : State) (p : Plan) : State :=
  let s := s.bumpSet measLastPlanNs 0 (p.tSweep + p.tRerank + p.tPt).floor.toNat
  (s.bumpSet swpPassEstCc 0 (cdiv p.load s.engines.length)).wakeEngines.loadQueries

/-- The run of a part of a search on this chip; `col` searches of its sub-shelf come before it (R192). -/
def State.partRun (s : State) (i : Item) (col : Nat) : Run :=
  { cid := i.cmd.cid, shelf := i.shelf.index, kind := if i.search then 0 else i.cmd.statsKind, col := col, gen := i.shelf.gen
    rows := s.viewRows i.shelf s.measure, compared := 0, cands := [], handed := 0
    passed := 0, reranked := 0, keysLeft := [], keysWait := [], final := [], cutTime := false, degraded := false, finished := false, posted := false
    lanes := if i.project then List.replicate i.cmd.probes laneNil else [], ones := [], inputs := 1, voided := false, absent := false, tiles := [], energy := 0 }

/-- Members below a child. -/
def State.below (s : State) (child : Nat) : List Nat := (s.weave.map.filter (fun m => s.towards 4 m.addr == some child)).map (fun m => m.addr)

/-- The children expected to bring an input for a search (R884): at the head rim those with a planned member below, at a rim those to which a
plan that names the search was forwarded. -/
def State.kidsOf (s : State) (ref handle : Nat) : List Nat :=
  if s.isHead then
    match s.wshelf? handle with
    | none => []
    | some w => (s.childrenOf s.self).filter (fun c => (s.below c).any (fun a => w.servingSubs a != [] &&
        s.weave.members.any (fun m => m.addr == a && s.reported m)))
  else ((s.weave.passed.filter (fun p => p.1 == s.measure && p.2.2.contains ref)).map (fun p => p.2.1)).eraseDups

/-- A merge of a search as this chip begins it. -/
def State.newMerge (s : State) (ref cid handle : Nat) (runs : List Nat) : Merge :=
  ⟨ref, cid, runs, s.kidsOf ref handle, [], false, [], 0, none, 0, [], false, none, [], [], false, false⟩

/-- A merge of a search, made when the first of its inputs arrives at a rim that runs no part of it. -/
def State.ensureMerge (s : State) (ref : Nat) : State :=
  if (s.merge? ref).isSome then s
  else
    let f := s.fan? ref
    let handle := (f.map (fun f => (headerOf f.packet).shelf)).getD 0
    let mg := s.newMerge ref 0 handle []
    s.weaveMap (fun w => { w with merges := w.merges ++ [mg] })

/-- The parts of the searches this chip runs begin: their commands, runs and merges, and the plan. -/
def State.beginParts (s : State) (refs : List Nat) (plan : Plan) : State :=
  let fans := refs.filterMap s.fan?
  let s := s.each fans (fun s f =>
    let its := s.partItems f
    let handle := (headerOf f.packet).shelf
    let mg := s.newMerge f.ref f.cid handle (its.map (fun i => i.cmd.cid))
    let runs := its.map (fun i => s.partRun i (s.sweep.runs.filter (fun r => r.shelf == i.shelf.index && r.kind == 0)).length)
    let s := s.hostMap (fun h => { h with cmds := h.cmds ++ its.map (fun i => i.cmd) })
    let s := s.sweepMap (fun w => { w with runs := w.runs ++ runs })
    s.weaveMap (fun w => { w with merges := w.merges ++ [mg] }))
  (s.sweepMap (fun w => { w with plan := plan })).clkMap (fun k => { k with planFrozen := true })

/-- The plan message of each member that has reported (R623). -/
def State.sendPlans (s : State) (cs : List Cmd) : State :=
  s.each (s.weave.members.filter (fun m => m.addr != s.self && s.reported m)) (fun s m =>
    let refs := (cs.filter (fun c => match s.wshelf? c.shelf with | some w => w.servingSubs m.addr != [] | none => false)).map (fun c => c.ref)
    s.send 0x12 m.addr 0 (leBytes 4 s.measure ++ leBytes 4 refs.length ++ (refs.map (leBytes 8)).flatten))

/-- PLAN (R80, R623): a member runs the searches its plan lists as its pass, when the plan reaches it in its admission window; where its engines
cannot hold them, their sweep finishes nothing. -/
def State.onPlan (s : State) (m : Bytes) : State :=
  let b := msgBody m
  if field b 0 4 ≠ s.measure ∨ s.clk.planFrozen ∨ s.clk.phase ≠ .admission then s
  else
    let refs := planRefs b
    let s := s.weaveMap (fun w => { w with plan := some (s.measure, refs) })
    let l := (refs.filterMap s.fan?).flatMap s.partItems
    let key := s.tKey ((l.filter Item.search).map (fun i => i.cmd.cand))
    let k := s.costing
    let p : Plan := ⟨l.map (fun i => i.cmd.cid), (s.placement l).getD [], sweepCost k l, rerankCost k l + key, k.point, planLoad l, loadBound k.engines l⟩
    (s.beginParts refs p).planShown p

/-! ## Values and the key (R630 to R633) -/

/-- A value entry (R608): grid value and exponent. -/
def valBytes (v : WVal) : Bytes := leBytes 6 (unsign 48 v.v) ++ leBytes 2 (unsign 16 v.e)
/-- A value entry read, with the norm that came beside it. -/
def valOf (b : Bytes) (nx : Nat) : WVal := ⟨signed 48 (field b 0 6), signed 16 (field b 6 2), nx⟩
/-- A value as a score. -/
def WVal.score (v : WVal) : Score := ⟨v.v, v.e, v.nx⟩
/-- A score as a value. -/
def Score.val (x : Score) : WVal := ⟨x.v, x.g, x.nx⟩

/-- The shelf of a search, as this chip knows it. -/
def State.mergeShelf (s : State) (m : Merge) : Option Shelf :=
  ((s.fan? m.ref).bind (fun f => s.wshelf? (headerOf f.packet).shelf)).map (fun w => w.template)

/-- The packet fields of a search of the weave. -/
def State.mergeCmd (s : State) (m : Merge) : Cmd := ((s.fan? m.ref).map (fun f => f.part 0)).getD (innerCmd 0 0x10 0 1 m.ref (zeros 128))

/-- This chip's value list for a search (R630): up to `c` values of its candidate sets, and the count of its rows that equal the last. -/
def State.ownValues (s : State) (m : Merge) (h : Shelf) (c : Nat) : ValIn :=
  let o := h.sweepOrder
  let runs := m.runs.filterMap s.run?
  let vals := (sortBy (fun (a b : Score) => nearer o a b) (runs.flatMap (fun r => r.cands.map (fun x => x.score)))).take c
  let rows := m.runs.flatMap (fun cid => s.sweep.clusters.flatMap (fun k => match k.list? cid with | some l => (l.better ++ l.band).map (fun x => x.score) | none => []))
  let t := match vals.getLast? with | none => 0 | some b => (rows.filter (fun x => tied o x b)).length
  ⟨s.self, vals.map Score.val, t⟩

/-- Value lists merged (R630): the best `c` values of the union, and the trailer. -/
def mergeVals (o : Order) (c : Nat) (l : List ValIn) : List WVal × Nat :=
  let all := (sortBy (fun (a b : WVal) => nearer o a.score b.score) (l.flatMap (fun i => i.vals))).take c
  match all.getLast? with
  | none => ([], 0)
  | some b =>
    let t := sumN (l.map (fun i => match i.vals.getLast? with
      | none => 0
      | some x => if tied o x.score b.score then i.trailer else (i.vals.filter (fun y => tied o y.score b.score)).length))
    (all, t)

/-- The message body of a value list (R608). An entry has no field for the norm that R179 orders a cosine value by, so the norms of a direct cosine
shelf follow the entries, where the body has zeros otherwise (DESIGN CHOICE, log entry 36). -/
def valueBody (l : List WVal) (t : Nat) : Bytes :=
  leBytes 2 l.length ++ zeros 2 ++ leBytes 4 t ++ (l.map valBytes).flatten ++
  (if l.all (fun v => v.nx == 0) then [] else (l.map (fun v => leBytes 4 v.nx)).flatten)

/-- The candidates of a run at or ahead of the key (R632). -/
def State.keepByKey (s : State) (o : Order) (key : WVal × Nat) (cid : Nat) : State :=
  match (s.run? cid).bind (fun r => s.shelfAt? r.shelf) with
  | none => s
  | some h => s.runMap cid (fun r =>
      let k := (s.withIds h r.cands).filter (fun x => nearer o x.score key.1.score || (tied o x.score key.1.score && decide (x.id ≤ key.2)))
      { r with cands := k, handed := k.length })

/-- A key fixed for a search (R632), sent down by the head rim and applied to this chip's candidates. -/
def State.setKey (s : State) (m : Merge) (h : Shelf) (key : WVal × Nat) : State :=
  let s := s.when s.isHead (fun s => s.send 0x24 0xFFF m.ref (valBytes key.1 ++ leBytes 6 key.2 ++ zeros 2 ++ leBytes 4 key.1.nx))
  let s := s.mergeMap m.ref (fun x => { x with key := some key, bstar := none })
  let s := s.each m.runs (fun s c => s.keepByKey h.sweepOrder key c)
  s.bumpSet wvKeyLastNs 0 ((s.clk.now - s.weave.keySent) / 768)

/-- This chip's lowest `n` ids at a value (R298, R631). -/
def State.ownTies (s : State) (m : Merge) (o : Order) (b : WVal) (n : Nat) : List Nat :=
  let ids := m.runs.flatMap (fun cid => match s.run? cid, (s.run? cid).bind (fun r => s.shelfAt? r.shelf) with
    | some r, some h => (((s.withIds h r.cands).filter (fun x => tied o x.score b.score)).map (fun x => x.id))
    | _, _ => [])
  (sortBy (fun (a b : Nat) => decide (a < b)) ids).take n

/-- The values of a search once every input is there (R630, R631): a rim sends the merged list up, the head rim fixes the key or starts the
tie round. -/
def State.valuesIn (s : State) (m : Merge) (h : Shelf) : State :=
  let c := (s.mergeCmd m).cand
  let o := h.sweepOrder
  let (vals, t) := mergeVals o c m.vals
  let s := s.mergeMap m.ref (fun x => { x with sentVals := true, mergedVals := vals, mergedTrailer := t })
  let s := s.when (s.weave.keySent == 0) (fun s => s.weaveMap (fun w => { w with keySent := s.clk.now }))
  if !s.isHead then s.send 0x21 (s.rd wvParentAddr) m.ref (valueBody vals t)
  else match vals.getLast? with
    | none => s.setKey m h (⟨0, 0, 0⟩, 0xFFFFFFFFFFFF)
    | some b =>
      let better := (vals.filter (fun x => nearer o x.score b.score)).length
      if vals.length < c ∨ t ≤ c - better then s.setKey m h (b, 0xFFFFFFFFFFFF)
      else
        let s := s.mergeMap m.ref (fun x => { x with bstar := some b, need := c - better, ties := [(s.self, s.ownTies m o b (c - better))] })
        s.send 0x22 0xFFF m.ref (valBytes b ++ leBytes 2 (c - better) ++ zeros 2 ++ leBytes 4 b.nx)

/-- The tie lists of a search once every input is there (R631). -/
def State.tiesIn (s : State) (m : Merge) (h : Shelf) : State :=
  let ids := (sortBy (fun (a b : Nat) => decide (a < b)) (m.ties.flatMap (fun t => t.2))).take m.need
  match m.bstar with
  | none => s
  | some b =>
    let s := s.mergeMap m.ref (fun x => { x with sentTies := true })
    if s.isHead then s.setKey m h (b, ids.getLast?.getD 0xFFFFFFFFFFFF)
    else s.send 0x23 (s.rd wvParentAddr) m.ref (leBytes 2 ids.length ++ (let l := (ids.map (leBytes 6)).flatten; padTo (roundUp l.length 8) l))

/-! ## Plaiting (R634 to R638) -/

/-- A final-list entry (R320). -/
def finBytes (e : FinEnt) : Bytes :=
  leBytes 8 (unsign 64 e.score.v) ++ leBytes 2 (unsign 16 e.score.g) ++ leBytes 6 e.id ++ leBytes 4 e.score.nx ++ leBytes 1 (if e.fused then 1 else 0) ++ zeros 3
/-- A final-list entry read. -/
def finOf (b : Bytes) : FinEnt := ⟨field b 10 6, ⟨signed 64 (field b 0 8), signed 16 (field b 8 2), field b 16 4⟩, (field b 20 1).testBit 0⟩

/-- A final list with its header (R634). -/
def finalBody (ref : Nat) (i : FinIn) : Bytes :=
  leBytes 8 ref ++ leBytes 2 i.entries.length ++ leBytes 1 i.status ++ zeros 1 ++ leBytes 6 i.view ++ leBytes 6 i.swept ++ leBytes 4 i.handed ++
  leBytes 4 i.reranked ++ leBytes 4 i.passed ++ leBytes 4 i.energy ++ zeros 8 ++ (i.entries.map finBytes).flatten
/-- A final list read. -/
def finalOf? (src : Nat) (b : Bytes) : FinIn :=
  ⟨src, field b 10 1, field b 12 6, field b 18 6, field b 24 4, field b 28 4, field b 32 4, field b 36 4,
   (List.range (field b 8 2)).map (fun i => finOf (slice b (48 + 24 * i) 24))⟩

/-- The worst of two statuses of R635. -/
def worseStatus (a b : Nat) : Nat := if a = stDegraded ∨ b = stDegraded then stDegraded else if a = stPartial ∨ b = stPartial then stPartial else stOk

/-- This chip's own part of a search, complete (R634). -/
def State.ownFinal (s : State) (m : Merge) (h : Shelf) : FinIn :=
  let c := s.mergeCmd m
  let runs := m.runs.filterMap s.run?
  let sum := fun (f : Run → Nat) => sumN (runs.map f)
  let list := (runs.flatMap (fun r => r.final)).foldl (fun l e => finInsert h c.k e l) []
  ⟨s.self, runs.foldl (fun a r => worseStatus a r.status) stOk, sum (fun r => r.rows), sum (fun r => r.compared), sum (fun r => r.handed),
   sum (fun r => r.reranked), sum (fun r => r.passed), s.estimate (sum s.runSpent) % 2 ^ 32, list⟩

/-- Final lists plaited (R635): the best `k` entries, the sums of the counts, the worst status, OK_PARTIAL where an input is missing. -/
def plait (h : Shelf) (k self : Nat) (short : Bool) (l : List FinIn) : FinIn :=
  let sum := fun (f : FinIn → Nat) => sumN (l.map f)
  ⟨self, l.foldl (fun a i => worseStatus a i.status) (if short then stPartial else stOk), sum (fun i => i.view), sum (fun i => i.swept),
   sum (fun i => i.handed), sum (fun i => i.reranked), sum (fun i => i.passed), sum (fun i => i.energy),
   (l.flatMap (fun i => i.entries)).foldl (fun a e => finInsert h k e a) []⟩

/-- A lane as a STATS_PARTIAL carries it: sum, sum of squares, minimum, maximum (R608). -/
def laneBytes (l : Lane) : Bytes :=
  leBytes 160 (unsign 1280 l.sum) ++ leBytes 160 (unsign 1280 l.sq) ++ exactScore ⟨l.mn, -672⟩ 0 ++ exactScore ⟨l.mx, -672⟩ 0
/-- A lane read. -/
def laneOf (n : Nat) (b : Bytes) : Lane :=
  let ex := fun (off : Nat) => fix672 ⟨signed 64 (field b off 8), signed 16 (field b (off + 8) 2)⟩
  ⟨n, signed 1280 (field b 0 160), signed 1280 (field b 160 160), ex 320, ex 336⟩

/-- A partial of a STATS command (R608, R638). -/
def statBody (c : Cmd) (i : StatIn) : Bytes :=
  leBytes 1 c.statsKind ++ leBytes 1 c.probes ++ leBytes 1 i.status ++ zeros 5 ++ leBytes 8 i.n ++
  (if c.statsKind = 3 then (i.ones.map (leBytes 160)).flatten else (i.lanes.map laneBytes).flatten) ++ leBytes 8 i.view
/-- A partial read. -/
def statOf (c : Cmd) (bits src : Nat) (b : Bytes) : StatIn :=
  let lanes := match c.statsKind with | 2 => 1 | 4 => c.probes | _ => 0
  let body := if c.statsKind = 3 then 160 * bits else 352 * lanes
  ⟨src, field b 8 8, (List.range lanes).map (fun j => laneOf (field b 8 8) (slice b (16 + 352 * j) 352)),
   if c.statsKind = 3 then (List.range bits).map (fun j => field b (16 + 160 * j) 160) else [], field b (16 + body) 8, field b 2 1⟩

/-- This chip's own partial of a STATS command. -/
def State.ownStat (s : State) (m : Merge) : StatIn :=
  let runs := m.runs.filterMap s.run?
  let add := fun (a b : List Lane) => (List.range (max a.length b.length)).map (fun j => laneMerge (a.getD j laneNil) (b.getD j laneNil))
  let plus := fun (a b : List Nat) => (List.range (max a.length b.length)).map (fun j => a.getD j 0 + b.getD j 0)
  ⟨s.self, sumN (runs.map (fun r => r.compared)), runs.foldl (fun a r => add a r.lanes) [], runs.foldl (fun a r => plus a r.ones) [],
   sumN (runs.map (fun r => r.rows)), runs.foldl (fun a r => worseStatus a r.status) stOk⟩

/-- STATS partials added exactly (R638). -/
def addStats (self : Nat) (short : Bool) (l : List StatIn) : StatIn :=
  let add := fun (a b : List Lane) => (List.range (max a.length b.length)).map (fun j => laneMerge (a.getD j laneNil) (b.getD j laneNil))
  let plus := fun (a b : List Nat) => (List.range (max a.length b.length)).map (fun j => a.getD j 0 + b.getD j 0)
  ⟨self, sumN (l.map (fun i => i.n)), l.foldl (fun a i => add a i.lanes) [], l.foldl (fun a i => plus a i.ones) [], sumN (l.map (fun i => i.view)),
   l.foldl (fun a i => worseStatus a i.status) (if short then stPartial else stOk)⟩

/-- Rows of a search's view on the members below children that brought no input, by their last reports (R636). -/
def State.rowsMissing (s : State) (handle : Nat) (heard : List Nat) : Nat :=
  match s.wshelf? handle with
  | none => 0
  | some w =>
    let kids := (s.childrenOf s.self).filter (fun c => !heard.contains c)
    sumN ((kids.flatMap s.below).map (fun a => match (s.weave.members.find? (fun x => x.addr == a)).bind (fun x => x.cap) with
      | none => 0
      | some k => sumN ((w.servingSubs a).map (fun r => match k.recs.find? (fun x => x.handle == handle && x.sub == r) with
          | none => 0
          | some x => x.rows + x.staged / (32 * max 1 w.template.entryUnits)))))

/-- The result of a search of the weave, posted by the head rim (R637): coverage from the summed counts. -/
def State.weavePost (s : State) (m : Merge) (h : Shelf) (heard : List Nat) : State :=
  match s.cmd? m.cid with
  | none => s
  | some c =>
    let miss := s.rowsMissing c.shelf heard
    let w := s.wshelf? c.shelf
    let gone := match w with | some w => w.missing | none => false
    let idx := ((s.store.shelves.find? (fun x => x.handle == c.shelf)).map (fun x => x.index)).getD h.index
    let gen := (w.map (fun w => w.gen)).getD 0
    let base : Run := { cid := m.cid, shelf := idx, kind := if isSearch c.opcode then 0 else c.statsKind, col := 0, gen := gen, rows := 0, compared := 0, cands := [], handed := 0, passed := 0, reranked := 0
                        keysLeft := [], keysWait := [], final := [], cutTime := false, degraded := false, finished := true, posted := false, lanes := [], ones := []
                        inputs := 0, voided := false, absent := false, tiles := [], energy := 0 }
    let late := if c.opcode = 0x18 then (addStats s.self false m.stats).status == stPartial else (plait h c.k s.self false m.fins).status == stPartial
    let base := { base with absent := !late }
    let r : Run := if c.opcode = 0x18 then
        let t := addStats s.self m.cut m.stats
        { base with energy := s.estimate (sumN ((m.runs.filterMap s.run?).map s.runSpent)), rows := t.view + miss, compared := t.n, lanes := t.lanes, ones := t.ones, cutTime := t.status == stPartial || decide (0 < miss)
                    degraded := t.status == stDegraded || gone }
      else
        let t := plait h c.k s.self m.cut m.fins
        { base with energy := t.energy, rows := t.view + miss, compared := t.swept, handed := t.handed, passed := t.passed, reranked := t.reranked, final := t.entries
                    cutTime := t.status == stPartial || decide (0 < miss), degraded := t.status == stDegraded || gone }
    let s := s.sweepMap (fun x => { x with runs := x.runs ++ [r] })
    (s.postResult m.cid).weaveMap (fun w => { w with fans := w.fans.filter (fun f => f.ref != m.ref) })

/-- A search's inputs are all there: the head rim posts its result, a rim sends it up (R635, R638), with the rows of the branches that brought no
input as in view and not compared (R636). -/
def State.plaitOut (s : State) (m : Merge) (h : Shelf) : State :=
  let c := s.mergeCmd m
  let stats := c.opcode == 0x18
  let heard := if stats then m.stats.map (fun i => i.src) else m.fins.map (fun i => i.src)
  let s := s.mergeMap m.ref (fun x => { x with done := true })
  let s := s.bumpSet wvPlaitLastNs 0 ((s.clk.now - s.fgEnd) / 768)
  let s := s.hostMap (fun k => { k with cmds := k.cmds.filter (fun x => !m.runs.contains x.cid) })
  if s.isHead then s.weavePost m h heard
  else
    let s := s.weaveMap (fun w => { w with fans := w.fans.filter (fun f => f.ref != m.ref) })
    let miss := s.rowsMissing c.shelf heard
    if stats then
      let i := addStats s.self (m.cut || decide (0 < miss)) m.stats
      s.send 0x26 (s.rd wvParentAddr) m.ref (statBody c { i with view := i.view + miss })
    else
      let i := plait h c.k s.self (m.cut || decide (0 < miss)) m.fins
      s.send 0x25 (s.rd wvParentAddr) m.ref (finalBody m.ref { i with view := i.view + miss })

/-! ## What a chip does with a search's inputs as they stand -/

/-- The parts of a search that this chip has ended with OK_PARTIAL for lack of time count as its overrun (R69, R86); the head rim's count with the
whole search. -/
def State.ownLate (s : State) (m : Merge) : State :=
  if s.isHead then s
  else s.each ((m.runs.filterMap s.run?).filter (fun r => r.status == stPartial)) State.markOverrun

/-- The next action due for one search of the weave: its own values, the merged values, the tie round, its own final list, the plait. -/
def State.mergeStep (s : State) (ref : Nat) : State :=
  match s.merge? ref with
  | none => s
  | some m =>
    match s.mergeShelf m with
    | none => s
    | some h =>
      let c := s.mergeCmd m
      if m.done then s
      else if c.opcode = 0x18 then
        if m.runs.all (fun r => ((s.run? r).map (fun x => x.finished)).getD true) && !(m.stats.any (fun i => i.src == s.self)) && m.runs != [] then
          let i := s.ownStat m
          (s.mergeMap ref (fun x => { x with stats := x.stats ++ [i] })).ownLate m
        else if m.kids.all (fun k => m.cut || m.stats.any (fun i => i.src == k)) && (m.runs == [] || m.stats.any (fun i => i.src == s.self)) then s.plaitOut m h
        else s
      else if m.runs != [] && s.sweep.codaDone && !(m.vals.any (fun i => i.src == s.self)) then
        let i := s.ownValues m h c.cand
        s.mergeMap ref (fun x => { x with vals := x.vals ++ [i] })
      else if !m.sentVals && (m.runs == [] || m.vals.any (fun i => i.src == s.self)) && m.kids.all (fun k => m.cut || m.vals.any (fun i => i.src == k)) then
        s.valuesIn m h
      else if m.bstar.isSome && !m.sentTies && m.kids.all (fun k => m.cut || m.ties.any (fun t => t.1 == k)) then s.tiesIn m h
      else if m.runs != [] && m.runs.all (fun r => ((s.run? r).map (fun x => x.finished)).getD true) && !(m.fins.any (fun i => i.src == s.self)) then
        let i := s.ownFinal m h
        ((s.mergeMap ref (fun x => { x with fins := x.fins ++ [i] })).ownLate m).tickFree
      else if (m.runs == [] || m.fins.any (fun i => i.src == s.self)) && m.kids.all (fun k => m.fins.any (fun i => i.src == k)) && (m.fins != [] || m.cut) then
        s.plaitOut m h
      else s

/-- Every action due for the searches of the weave (at most six for each). -/
def State.weaveRun (s : State) : State :=
  if !s.inWeave then s
  else s.each (s.weave.merges.map (fun m => m.ref)) (fun s r => (List.range 6).foldl (fun s _ => s.mergeStep r) s)

/-- The searches of this chip wait for their keys (R632). -/
def State.keysMissing (s : State) : Bool :=
  s.weave.merges.any (fun m => m.runs != [] && m.key.isNone && (s.mergeCmd m).opcode != 0x18)

/-- Without a key by the re-rank protection point, a member re-ranks none of a search's candidates (R633). -/
def State.dropKeyless (s : State) : State :=
  s.each (s.weave.merges.filter (fun m => m.key.isNone && (s.mergeCmd m).opcode != 0x18)) (fun s m =>
    s.each m.runs (fun s c => s.runMap c (fun r => { r with cands := [], handed := r.cands.length, cutTime := true })))

/-- BARRIER in a weave (R632, R633): the voices are handed their lists once the keys are in, or at the re-rank protection point without
them. -/
def State.weaveBarrier (s : State) : State :=
  if !s.inWeave then s.barrier
  else if s.keysMissing && decide (s.clk.now < s.protectAt) then s
  else s.dropKeyless.barrier.weaveRun

/-- RERANK_PROTECTION_POINT in a weave (R633): branches whose value lists are missing are left out. -/
def State.weaveProtect (s : State) : State :=
  if !s.inWeave then s
  else
    let late := fun (m : Merge) => !m.sentVals && m.kids.any (fun k => !(m.vals.any (fun i => i.src == k)))
    let s := s.when (s.weave.merges.any late) (fun s => s.ev wvEventBranchMissing)
    (s.weaveMap (fun w => { w with merges := updAll late (fun m => { m with cut := true }) w.merges })).weaveRun

/-- The children whose final list or partial is missing. -/
def State.kidsLate (s : State) (m : Merge) : Bool :=
  let heard := if (s.mergeCmd m).opcode = 0x18 then m.stats.map (fun i => i.src) else m.fins.map (fun i => i.src)
  !m.done && m.kids.any (fun k => !heard.contains k)

/-- PLAIT_WAIT_EXPIRE (R636): a rim's wait for missing inputs ends 23,600 ns after its foreground end, 400 ns earlier for each hop below the head
rim. -/
def State.plaitExpire (s : State) (t : Nat) : State :=
  let s := s.advance t
  if !s.live || !s.inWeave || decide (s.clk.now + ns (400 * s.rd wvSelfDepth) < s.fgEnd + ns 23600) then s
  else
    let late := s.weave.merges.filter s.kidsLate
    let s := s.when (late != []) (fun s => s.ev wvEventBranchMissing)
    let refs := late.map (fun m => m.ref)
    let give := fun (m : Merge) => { m with cut := true, kids := m.kids.filter (fun k =>
      m.fins.any (fun i => i.src == k) || m.stats.any (fun i => i.src == k)) }
    (s.weaveMap (fun w => { w with merges := updAll (fun m => refs.contains m.ref) give w.merges })).weaveRun

/-! ## The messages -/

/-- VALUE_LIST (R630): a member's or a sub-tree's candidate values. -/
def State.onValues (s : State) (m : Bytes) : State :=
  let b := msgBody m
  let s := s.ensureMerge (msgOp m)
  let n := field b 0 2
  let i : ValIn := ⟨msgSrc m, (List.range n).map (fun j => valOf (slice b (8 + 8 * j) 8) (field b (8 + 8 * n + 4 * j) 4)), field b 4 4⟩
  (s.mergeMap (msgOp m) (fun x => if x.sentVals then x else { x with vals := x.vals.filter (fun y => y.src != i.src) ++ [i] })).weaveRun

/-- TIE_REQUEST (R631): the chip's lowest ids at B*. -/
def State.onTieRequest (s : State) (m : Bytes) : State :=
  let b := msgBody m
  match (s.ensureMerge (msgOp m)).merge? (msgOp m), ((s.ensureMerge (msgOp m)).merge? (msgOp m)).bind s.mergeShelf with
  | some mg, some h =>
    let at_ := valOf (slice b 0 8) (field b 12 4)
    let own := if mg.runs = [] then [] else [(s.self, s.ownTies mg h.sweepOrder at_ (field b 8 2))]
    ((s.ensureMerge (msgOp m)).mergeMap (msgOp m) (fun x => { x with bstar := some at_, need := field b 8 2, ties := own })).weaveRun
  | _, _ => s

/-- TIE_LIST (R631). -/
def State.onTieList (s : State) (m : Bytes) : State :=
  let b := msgBody m
  let ids := (List.range (field b 0 2)).map (fun j => field b (2 + 6 * j) 6)
  (s.mergeMap (msgOp m) (fun x => { x with ties := x.ties.filter (fun t => t.1 != msgSrc m) ++ [(msgSrc m, ids)] })).weaveRun

/-- KEY (R632): the members' candidates for the re-rank are fixed. -/
def State.onKey (s : State) (m : Bytes) : State :=
  let b := msgBody m
  match s.merge? (msgOp m), (s.merge? (msgOp m)).bind s.mergeShelf with
  | some mg, some h => if mg.key.isSome then s else (s.setKey mg h (valOf (slice b 0 8) (field b 16 4), field b 8 6)).weaveRun
  | _, _ => s

/-- FINAL_LIST (R635): an input of a plait. -/
def State.onFinal (s : State) (m : Bytes) : State :=
  let i := finalOf? (msgSrc m) (msgBody m)
  ((s.ensureMerge (msgOp m)).mergeMap (msgOp m) (fun x => { x with fins := x.fins.filter (fun y => y.src != i.src) ++ [i] })).weaveRun

/-- STATS_PARTIAL (R638). -/
def State.onStats (s : State) (m : Bytes) : State :=
  let s := s.ensureMerge (msgOp m)
  match s.merge? (msgOp m), (s.merge? (msgOp m)).bind s.mergeShelf with
  | some mg, some h =>
    let i := statOf (s.mergeCmd mg) h.bits (msgSrc m) (msgBody m)
    (s.mergeMap (msgOp m) (fun x => { x with stats := x.stats.filter (fun y => y.src != i.src) ++ [i] })).weaveRun
  | _, _ => s

end Sys2Proof.Machine
end

