-- ==== Sys2Proof/Machine/WeaveAdmin.lean ====
section
/-!
DEFINITION. The structure of the weave (chapter 14, sections 2.1, 3, 6 to 9): weave maps and WEAVE_ADMIN, beacons, settings and
generations, the loss and return of members, promotion of the deputy, rebuild, and Rest.
-/
namespace Sys2Proof.Machine

/-! ## Maps (R602, R603, R651) -/

/-- A map entry read, and its reserved byte and flag bits (R651). -/
def mapEntOf (b : Bytes) : MapEnt := ⟨field b 0 8, field b 8 2, field b 10 2, field b 12 1, field b 13 1, field b 14 1⟩
/-- The bytes of a map entry, its reserved byte 0. -/
def mapEntBytes (e : MapEnt) : Bytes :=
  leBytes 8 e.serial ++ leBytes 2 e.addr ++ leBytes 2 e.parent ++ leBytes 1 e.up ++ leBytes 1 e.alt ++ leBytes 1 e.flags ++ zeros 1
/-- The entries of a map's bytes. -/
def mapOf (b : Bytes) : List MapEnt := (List.range (b.length / 16)).map (fun i => mapEntOf (slice b (16 * i) 16))

/-- Hops of a member below the root of a map; 4 where it does not reach the root in three. -/
def hopsIn (map : List MapEnt) (a : Nat) : Nat :=
  let up := fun (a : Nat) => ((map.find? (fun m => m.addr == a)).map (fun m => m.parent)).getD 0xFFFE
  if up a = 0xFFFF then 0 else if up (up a) = 0xFFFF then 1 else if up (up (up a)) = 0xFFFF then 2 else if up (up (up (up a))) = 0xFFFF then 3 else 4

/-- A map that breaks the limits of R602, R603 or R651, or that names a strand of this chip that is not trained to the chip it names. -/
def State.mapBad (s : State) (map : List MapEnt) : Bool :=
  let roots := map.filter (fun m => m.parent == 0xFFFF)
  map == [] || decide (4096 < map.length) || hasDup (map.map (fun m => m.addr)) || hasDup (map.map (fun m => m.serial)) ||
  roots.length != 1 || roots.any (fun m => m.addr != 0 || m.serial != Config.serial.toNat) ||
  map.any (fun m => decide (4095 < m.addr) || decide (3 < m.flags) || (decide (63 < m.up) && m.parent != 0xFFFF) ||
    (decide (63 < m.alt) && m.alt != 0xFF) || decide (3 < hopsIn map m.addr)) ||
  decide (1 < (map.filter (fun m => m.flags.testBit 1)).length) ||
  map.any (fun m => decide (63 < (map.filter (fun x => x.parent == m.addr)).length)) ||
  (map.filter (fun m => m.parent == 0)).any (fun m => !((List.range 64).any (fun i =>
    s.strandUp i && (s.strand i).peerSerial == m.serial && (s.strand i).peerStrand == m.up)))

/-- The map that will be in force from the next downbeat. -/
def State.mapNext (s : State) : List MapEnt := s.weave.nextMap.getD s.weave.map

/-- A shelf's copies on a member taken out of service (R619). -/
def WShelf.without (a : Nat) (w : WShelf) : WShelf :=
  if w.holders.contains a then
    let more := (List.range (1 + w.template.replicas)).map (fun r => (⟨w.template.handle, a, r⟩ : SubOut))
    { w with outs := w.outs.filter (fun o => o.holder != a) ++ more }
  else w

/-- Every copy on a member taken out of service (R619). -/
def State.outHolder (s : State) (a : Nat) : State := s.weaveMap (fun w => { w with shelves := w.shelves.map (WShelf.without a) })

/-- A map takes effect (R651): address, role, depth, parent and deputy, the members, and the uses of the strands. -/
def State.takeMap (s : State) (map : List MapEnt) : State :=
  let gone := s.weave.map.filter (fun m => !(map.any (fun x => x.serial == m.serial)))
  let s := s.each gone (fun s m => s.outHolder m.addr)
  let keep := fun (e : MapEnt) => (s.weave.members.find? (fun x => x.addr == e.addr)).getD ⟨e.addr, false, none, none⟩
  let s := s.weaveMap (fun w => { w with map := map, nextMap := none, members := map.map keep })
  match map.find? (fun m => m.serial == Config.serial.toNat) with
  | none => ((((s.wr wvSelfAddr 0 0xFFF).wr wvSelfRole 0 0).wr wvSelfDepth 0 0).wr wvParentAddr 0 0xFFF).wr wvDeputyAddr 0 0xFFF
  | some e =>
    let role := if e.parent = 0xFFFF then 1 else if map.any (fun m => m.parent == e.addr) then 2 else 3
    let s := ((s.wr wvSelfAddr 0 e.addr).wr wvSelfRole 0 role).wr wvSelfDepth 0 (hopsIn map e.addr)
    let s := ((s.wr wvParentAddr 0 (if role = 1 then 0xFFF else e.parent)).wr wvParentStrand 0 (if role = 1 then 0 else e.up)).wr wvParentAlt 0 (if role = 1 then 0 else e.alt)
    let s := s.wr wvDeputyAddr 0 (((map.find? (fun m => m.flags.testBit 1)).map (fun m => m.addr)).getD 0xFFF)
    let s := s.when (role != 1) (fun s => (s.wr measCtrlSource 0 2).when s.owner?.isSome (fun s => s.endOwnership none true))
    s.each ((List.range 64).filter s.strandUp) State.labelStrand

/-! ## WEAVE_ADMIN at the head rim (R650) -/

/-- An administration message to some members, as an outstanding operation. -/
def State.administer (s : State) (c : Cmd) (kind : WKind) (map : List MapEnt) (body : Bytes) (dest waits : List Nat) : State :=
  let (s, op) := s.newOp
  let s := s.weaveMap (fun w => { w with ops := w.ops ++ [⟨op, kind, c.cid, c.shelf, waits, dest.map (fun a => (a, body)), 0, [], []⟩] })
  let root := ((map.find? (fun m => m.parent == 0xFFFF)).map (fun m => m.addr)).getD 0
  s.each dest (fun s a => s.routeIn map root none (msgBytes 0x1C a root op body))

/-- An administration command ends: OK, or DEGRADED where some member did not apply it. -/
def State.endAdmin (s : State) (o : WOp) : State :=
  let s := s.endOp o.id
  match s.cmd? o.cid with
  | none => s
  | some c => s.complete c (if o.worst = 0 then stOk else stDegraded) s.measure 0 0 true

/-- An administration command whose members have all answered. -/
def State.adminDone (s : State) : State :=
  s.each (s.weave.ops.filter (fun o => (o.kind == .admin || o.kind == .rebuild) && o.waiting.isEmpty)) State.endAdmin

/-- The command is kept until its members have answered. -/
def State.adminWait (s : State) (c : Cmd) : State := (s.cmdMap c.cid (fun x => { x with stage := .remote })).adminDone

/-- WEAVE_ADMIN_FORM (R651). -/
def State.weaveForm (s : State) (c : Cmd) : State :=
  let map := mapOf c.operands
  let bad := (List.range (c.operands.length / 16)).any (fun i => field c.operands (16 * i + 15) 1 != 0) || c.operands.length % 16 != 0
  if bad || s.mapBad map || !s.store.shelves.isEmpty || !s.weave.shelves.isEmpty then s.refuse c stBadParam
  else
    let s := s.weaveMap (fun w => { w with nextMap := some map })
    let dest := (map.filter (fun m => m.parent != 0xFFFF)).map (fun m => m.addr)
    (s.administer c .admin map (leBytes 1 1 ++ zeros 3 ++ (map.map mapEntBytes).flatten) dest dest).adminWait c

/-- WEAVE_ADMIN_ADMIT (R650). -/
def State.weaveAdmit (s : State) (c : Cmd) : State :=
  let e := mapEntOf (slice c.param 8 16)
  let map := s.mapNext ++ [e]
  if !s.isHead || field c.param 23 1 != 0 || s.mapBad map then s.refuse c stBadParam
  else
    let s := s.weaveMap (fun w => { w with nextMap := some map })
    let dest := (map.filter (fun m => m.parent != 0xFFFF)).map (fun m => m.addr)
    (s.administer c .admin map (leBytes 1 2 ++ zeros 3 ++ (map.map mapEntBytes).flatten) dest dest).adminWait c

/-- WEAVE_ADMIN_EXCLUDE (R650): the member leaves the map; its buckets are served by their next copies. -/
def State.weaveExclude (s : State) (c : Cmd) : State :=
  let a := field c.param 4 2
  if !s.isHead || a == s.self || !(s.mapNext.any (fun m => m.addr == a)) then s.refuse c stBadParam
  else
    let map := s.mapNext
    let left := map.filter (fun m => m.addr != a)
    let s := (s.forget [a]).forgetFans [a]
    let dest := (map.filter (fun m => m.parent != 0xFFFF)).map (fun m => m.addr)
    let s := s.administer c .admin map (leBytes 1 3 ++ zeros 3 ++ leBytes 2 a) dest (dest.filter (fun x => x != a && !(s.weave.members.any (fun m => m.addr == x && m.lost))))
    (s.weaveMap (fun w => { w with nextMap := some left })).adminWait c

/-- WEAVE_ADMIN_REBUILD (R648): the target and the serving holders are told; the command ends when the target has every row. -/
def State.weaveRebuild (s : State) (c : Cmd) : State :=
  let a := field c.param 4 2
  match s.wshelf? c.shelf with
  | none => s.refuse c (if s.isHead then stNoShelf else stBadParam)
  | some w =>
    if !s.isHead || !w.holders.contains a then s.refuse c stBadParam
    else
      let missing := (List.range (1 + w.template.replicas)).any (fun r => ((w.copies (w.residue a r)).filter (fun x => x.1 != a && w.serves x)).isEmpty)
      let body := leBytes 1 4 ++ zeros 3 ++ leBytes 4 c.shelf ++ leBytes 2 a ++ leBytes 1 (if missing then 1 else 0)
      let s := s.outHolder a
      let s := s.administer c .rebuild s.weave.map body s.others [a]
      s.adminWait c

/-- WEAVE_ADMIN_REMOTE (R650): the packet of the buffer runs at the target. -/
def State.weaveRemote (s : State) (c : Cmd) : State :=
  let a := field c.param 4 2
  if !s.isHead || a == s.self || (s.mapEnt? a).isNone then s.refuse c stBadParam
  else
    let (s, op) := s.newOp
    let n := min c.operands.length (max 32 (field c.operands 12 4))
    let body := leBytes 4 n ++ padTo (roundUp n 16) (c.operands.take n) ++ c.operands.drop n
    let s := s.weaveMap (fun w => { w with ops := w.ops ++ [⟨op, .remote, c.cid, 0, [a], [(a, body)], 0, [], []⟩] })
    (s.cmdMap c.cid (fun x => { x with stage := .remote })).send 0x1A a op body

/-- WEAVE_ADMIN_PROMOTE (R650): the deputy takes the head role at the next downbeat. -/
def State.weavePromote (s : State) (c : Cmd) : State :=
  let a := field c.param 4 2
  if !s.isHead || a != s.rd wvDeputyAddr || !s.deputyOk then s.refuse c stBadParam
  else
    let s := s.weaveMap (fun w => { w with promo := some ⟨s.measure, s.self, true⟩ })
    (s.administer c .admin s.weave.map (leBytes 1 6 ++ zeros 3 ++ leBytes 2 a ++ zeros 2 ++ leBytes 4 s.measure) s.others [a]).adminWait c

/-- WEAVE_ADMIN_STATUS (R650): the weave map; the form of each member's state is not stated, so its byte is free. -/
def State.weaveStatus (s : State) (c : Cmd) : State :=
  let l := s.weave.map
  let bytes := ((l.zip (List.range l.length)).map (fun p => (mapEntBytes p.1).take 15 ++ [Config.freeByte (s.free + p.2)])).flatten
  if bufLen c.param 8 < bytes.length then s.refuse c stBadParam
  else ((s.tickFrees l.length).reply c (bufAddr c.param 8) bytes).completeOk c (bufAddr c.param 8) 1

/-! ## Rebuild (R648, R649) -/

/-- A row put at the end of a sub-shelf, with its directory entry, and its record written to a far store (R110, R123, R648). A slab a rebuild begins
has the generation in force and the operation count 0, and one it fills further keeps its header (DESIGN CHOICE, log entry 78). -/
def State.appendRow (s : State) (idx : Nat) (r : Row) : State :=
  match s.shelfAt? idx with
  | none => s
  | some h =>
    let last := h.slabs.length - 1
    let fresh := h.slabs = [] ∨ 64 ≤ h.tailFill
    let slabs := if fresh then h.slabs ++ [⟨0, h.gen, 1, 0, 0, [r]⟩]
      else updAt last (fun b => { b with fill := b.fill + 1, rows := b.rows ++ [r] }) h.slabs
    let slab := if fresh then h.slabs.length else last
    let row := if fresh then 0 else h.tailFill
    let s := s.shelfMap idx (fun h => { h with slabs := slabs, counted := h.counted + 1 })
    (s.dirAdd h r.id slab row).writeFar h slab row [r]

/-- The live rows of a bucket on a sub-shelf: placed rows that no kill or tombstone removes, and staged rows. -/
def State.bucketRows (s : State) (h : Shelf) (bucket : Nat) : List Row :=
  let placed := (List.range h.slabs.length).flatMap (fun j =>
    let b := h.slab j
    (List.range b.fill).filterMap (fun r => if b.tomb.testBit r || s.killedNow h.index j r then none else b.rows[r]?))
  let staged := (s.store.staging.filter (fun e => !e.kill && e.shelf == h.index && !e.superseded)).map (fun e => rowOf h e)
  (placed ++ staged).filter (fun r => bucketOf h.handle r.id == bucket)

/-- What some local shelves hold on this chip is gone: their slab operations, staging entries and directory entries. -/
def State.wipe (s : State) (gone : List Nat) : State :=
  let s := s.each (s.store.journal.filter (fun j => gone.contains j.shelf)) State.undoSlab
  (s.storeMap (fun t => { t with staging := t.staging.filter (fun e => !gone.contains e.shelf), dir := t.dir.filter (fun e => !gone.contains e.shelf) })).rehashDir

/-- REBUILD at a member: the target makes its sub-shelves new and waits for its buckets; a serving holder lists the buckets it sends. -/
def State.startRebuild (s : State) (op handle target : Nat) (missing : Bool) : State :=
  match s.wshelf? handle with
  | none => s
  | some w =>
    let s := s.outHolder target
    let residues := (List.range (1 + w.template.replicas)).map (w.residue target)
    let src := fun (p : Nat) => (w.copies p).find? (fun c => c.1 != target && w.serves c)
    if target = s.self then
      let subs := List.range (1 + w.template.replicas)
      let old := (s.store.shelves.filter (fun h => h.handle == handle)).map (fun h => h.index)
      let s := ((s.endLost handle).wipe old).storeMap (fun t => { t with shelves := t.shelves.filter (fun h => h.handle != handle) })
      let s := subs.foldl (fun s r => (s.placeShelf (s.subOf { w.template with gen := w.gen } r)).getD s) s
      let buckets := (List.range 4096).filter (fun b => residues.contains (b % w.holders.length) && (src (b % w.holders.length)).isSome)
      s.weaveMap (fun x => { x with rebuilds := x.rebuilds ++ [⟨op, handle, buckets, missing, []⟩] })
    else
      let mine := (List.range 4096).filter (fun b => residues.contains (b % w.holders.length) &&
        (match src (b % w.holders.length) with | some c => c.1 == s.self | none => false))
      s.weaveMap (fun x => { x with feeds := x.feeds ++ mine.map (fun b => ⟨op, handle, target, b, 0⟩) })

/-- One bucket's next rows sent to the target of a rebuild, at most `n` bytes of them; the bytes left. -/
def State.feedOne (s : State) (n : Nat) : State × Nat :=
  match s.weave.feeds with
  | [] => (s, 0)
  | f :: rest =>
    let w := s.wshelf? f.handle
    let sub := w.bind (fun w => (w.serving (f.bucket % w.holders.length)).map (fun c => c.2))
    match sub.bind (fun r => s.subShelf? f.handle r) with
    | none => (s.weaveMap (fun w => { w with feeds := rest }), n)
    | some h =>
      let rows := (s.bucketRows h f.bucket).drop f.sent
      let size := 32 + h.w + vecBytes h.elemFormat h.dim
      let k := min rows.length (min (n / size) (120000 / size))
      let body := leBytes 4 f.handle ++ leBytes 2 f.bucket ++ leBytes 2 k ++
        ((rows.take k).map (fun r => keyBytes r ++ padTo h.w (r.sweep.take h.w) ++ (if h.voiced then padTo (vecBytes h.elemFormat h.dim) (r.record.take (vecBytes h.elemFormat h.dim)) else []))).flatten
      let s := s.when (decide (0 < k)) (fun s => s.send 0x30 f.target f.op body)
      if k = rows.length then
        let s := s.send 0x31 f.target f.op (leBytes 4 f.handle ++ leBytes 2 f.bucket ++ zeros 2 ++ leBytes 8 (f.sent + k))
        (s.weaveMap (fun w => { w with feeds := rest }), n - k * size)
      else (s.weaveMap (fun w => { w with feeds := { f with sent := f.sent + k } :: rest }), if k = 0 then 0 else n - k * size)

/-- Copy traffic of this background window (R649): at most WV_CTRL.rebuild_gbps bytes a ns on a strand. -/
def State.feed (s : State) : State :=
  let room := (s.clk.predicted - s.clk.now) / 768 * s.inForce wvCtrlRebuildGbps
  if s.clk.bgOpen && s.live then ((List.range (2 * s.weave.feeds.length)).foldl (fun (p : State × Nat) _ => if p.2 = 0 then p else p.1.feedOne p.2) (s, room)).1 else s

/-- A row of a REBUILD_DATA message. -/
def rebuildRow (h : Shelf) (b : Bytes) : Row :=
  ⟨field b 0 6, true, (field b 6 1).testBit 1, field b 8 8, field b 16 4, field b 20 6, slice b 32 h.w,
   if h.voiced then padTo h.recSize (b.drop (32 + h.w)) else []⟩

/-- REBUILD_DATA (R648): rows of a bucket are copied. -/
def State.onRebuildData (s : State) (m : Bytes) : State :=
  let b := msgBody m
  match s.wshelf? (field b 0 4) with
  | none => s
  | some w =>
    let h := w.template
    let size := 32 + h.w + (if h.voiced then vecBytes h.elemFormat h.dim else 0)
    let rows := (List.range (field b 6 2)).map (fun i => rebuildRow h (slice b (8 + size * i) size))
    s.each rows (fun s r => match (w.subFor s.self r.id).bind (fun sub => s.subShelf? h.handle sub) with
      | some x => s.appendRow x.index r
      | none => s)

/-- The copy of a rebuild has ended: the commits since it began are applied, and the head rim is told (R648, R649). -/
def State.endRebuild (s : State) (r : Rebuild) : State :=
  let s := s.weaveMap (fun w => { w with rebuilds := w.rebuilds.filter (fun x => x.op != r.op) })
  let s := s.each (r.late.zip (List.range r.late.length)) (fun s p =>
    s.applyTent ⟨2 ^ 72 + 4096 * r.op + p.2, r.handle, p.1.1, p.1.2.2, (0, 0), none⟩ p.1.2.1)
  s.answer r.op 0x1C 0x1D (leBytes 1 (if r.missing then stDegraded else 0))

/-- REBUILD_END (R649): the copy of a bucket has ended. -/
def State.onRebuildEnd (s : State) (m : Bytes) : State :=
  match s.weave.rebuilds.find? (fun r => r.op == msgOp m) with
  | none => s
  | some r =>
    let left := r.buckets.filter (fun b => b != field (msgBody m) 4 2)
    let r' := { r with buckets := left }
    let s := s.weaveMap (fun w => { w with rebuilds := updFirst (fun x => x.op == r.op) (fun _ => r') w.rebuilds })
    if left = [] then s.endRebuild r' else s

/-! ## Promotion (R643 to R646) -/

/-- The tentative batches and commits of this holder, for a new head rim: operation id, state, commit measure and shelf of each. -/
def State.tentReport (s : State) : Bytes :=
  let t := s.weave.tents.map (fun t => leBytes 8 t.op ++ leBytes 4 0 ++ leBytes 4 0 ++ leBytes 4 t.handle)
  let c := (s.weave.commitLog.take 4096).map (fun p => leBytes 8 p.1 ++ leBytes 4 1 ++ leBytes 4 p.2.1 ++ leBytes 4 p.2.2)
  leBytes 4 (t.length + c.length) ++ t.flatten ++ c.flatten

/-- The map after the deputy has taken the head role: the old head rim leaves it, or becomes a stake of the new one. -/
def promotedMap (map : List MapEnt) (old new : Nat) (planned : Bool) : List MapEnt :=
  let m := if planned then map else map.filter (fun e => e.addr != old)
  m.map (fun e => if e.addr = new then { e with parent := 0xFFFF, flags := e.flags % 2 }
    else if e.parent = old ∨ e.addr = old then { e with parent := new } else e)

/-- This chip becomes the head rim (R643): the epoch rises, the other direct children are adopted over their side links, ownership is vacant
(R646), and the mirror answers resent commands (R645). -/
def State.becomeHead (s : State) (old : Nat) (planned : Bool) : State :=
  let map := promotedMap s.weave.map old s.self planned
  let epoch := (s.rd wvEpochValue + 1) % 65536
  let kids := (s.childrenOf old).filter (fun a => a != s.self)
  let s := s.weaveMap (fun w => { w with
    members := if planned then w.members else updAll (fun m => m.addr == old) (fun m => { m with lost := true }) w.members, ops := []
    promo := some ⟨s.measure, old, planned⟩, reports := [], missed := false })
  let s := s.hostMap (fun h => { h with window := s.weave.mirror ++ h.window })
  let s := (s.wr wvEpochValue 0 epoch).ev wvEventPromoted
  let self := s.self
  let s := s.each kids (fun s a => s.sendSide 0x04 a 0 (leBytes 2 self ++ leBytes 2 epoch ++ leBytes 4 (measureAdd s.measure 1)))
  let s := (s.takeMap map).wr measCtrlSource 0 0
  let c := innerCmd s.host.nextCid 0x58 0 1 0 []
  s.administer c .abort s.weave.map (leBytes 1 6 ++ zeros 3 ++ leBytes 2 s.self) s.others s.others

/-- The deputy promotes itself when more than half of the head rim's direct children, itself counted, have reported the loss (R643). -/
def State.tryPromote (s : State) : State :=
  let n := (s.childrenOf s.headAddr).length
  let r := (s.weave.reports ++ (if s.weave.missed then [s.self] else [])).eraseDups.length
  if s.self = s.rd wvDeputyAddr ∧ !s.isHead ∧ s.weave.missed ∧ n < 2 * r then s.becomeHead s.headAddr false else s

/-- A missed BEACON: a direct child of the head rim reports the loss to the deputy over its side link (R643). -/
def State.reportLoss (s : State) : State :=
  if !s.inWeave || s.isHead then s
  else
    let s := s.weaveMap (fun w => { w with missed := true })
    if s.rd wvParentAddr ≠ s.headAddr then s
    else if s.self = s.rd wvDeputyAddr then s.tryPromote
    else s.sendSide 0x03 (s.rd wvDeputyAddr) 0 (leBytes 4 s.measure ++ leBytes 2 s.self ++ leBytes 2 (s.rd wvEpochValue))

/-- LOSS_REPORT (R643): the deputy learns of a missed BEACON. -/
def State.onLoss (s : State) (m : Bytes) : State :=
  let b := msgBody m
  if s.self ≠ s.rd wvDeputyAddr ∨ field b 6 2 ≠ s.rd wvEpochValue ∨ s.isHead then s
  else (s.weaveMap (fun w => { w with reports := (w.reports ++ [field b 4 2]).eraseDups })).tryPromote

/-- ADOPT (R643): a direct child moves to the new head rim, over the side link it came on. -/
def State.onAdopt (s : State) (i : Nat) (m : Bytes) : State :=
  let b := msgBody m
  let new := field b 0 2
  let map := promotedMap s.weave.map s.headAddr new ((s.weave.promo.map (fun p => p.planned)).getD false)
  let map := map.map (fun e => if e.addr = s.self then { e with up := i } else e)
  let s := (s.takeMap map).wr wvEpochValue 0 (field b 2 2)
  s.weaveMap (fun w => { w with missed := false, promo := none })

/-- A new head rim resolves the tentative batches its members report (R643): a batch that any holder has committed is committed everywhere, every
other one aborted. -/
def State.resolveTents (s : State) (src : Nat) (b : Bytes) : State :=
  let ents := (List.range (field b 0 4)).map (fun i => (field b (4 + 20 * i) 8, field b (12 + 20 * i) 4, field b (16 + 20 * i) 4, field b (20 + 20 * i) 4))
  let done := ents.filter (fun e => e.2.1 == 1)
  let s := s.weaveMap (fun w => { w with commitLog := w.commitLog ++ (done.filter (fun e => !(w.commitLog.any (fun c => c.1 == e.1)))).map (fun e => (e.1, e.2.2.1, e.2.2.2)) })
  let open_ := ents.filter (fun e => e.2.1 == 0)
  s.weaveMap (fun w => { w with reports := w.reports ++ (if open_ = [] then [] else [src]) })

/-- The decisions of a new head rim, once every member has reported. -/
def State.finishResolve (s : State) : State :=
  let known := fun (op : Nat) => (s.weave.commitLog.find? (fun c => c.1 == op)).map (fun c => c.2.1)
  let s := s.each s.weave.tents (fun s t => s.decideTent t.op (known t.op))
  let commits := s.weave.commitLog.take 4096
  let s := s.each commits (fun s c => s.markCommitted c.2.2 c.2.1)
  let s := s.each s.others (fun s a => s.each commits (fun s c => s.send 0x15 a c.1 (leBytes 1 1 ++ zeros 3 ++ leBytes 4 c.2.1)))
  let s := s.each s.others (fun s a => s.send 0x15 a (2 ^ 64 - 1) (leBytes 1 2 ++ zeros 7))
  s.weaveMap (fun w => { w with reports := [] })

/-! ## The administration messages -/

/-- The answer of a member to an administration message, by its map in force or the one it has just been given. -/
def State.ackAdmin (s : State) (m : Bytes) (body : Bytes) : State :=
  if s.inWeave then s.answer (msgOp m) 0x1C 0x1D body
  else
    let e := s.mapNext.find? (fun x => x.serial == Config.serial.toNat)
    let s := s.weaveMap (fun w => { w with applied := ((msgOp m, 0x1C, body) :: w.applied).take 65536 })
    match e with
    | some e => s.queueMsg e.up (msgBytes 0x1D 0 e.addr (msgOp m) body)
    | none => s

/-- ADMIN (R650): a member applies an administration sub-operation. -/
def State.onAdmin (s : State) (m : Bytes) : State :=
  let b := msgBody m
  let code := field b 0 1
  let map := mapOf (b.drop 4) |>.filter (fun e => e.serial != 0)
  let next := if code = 1 ∨ code = 2 then map else s.mapNext
  let me := next.find? (fun e => e.serial == Config.serial.toNat)
  if !s.inWeave && (match me with | some e => e.addr != msgDst m | none => true) then
    -- a chip that has no address yet passes on what is not for it
    match me with
    | some e => (s.weaveMap (fun w => { w with nextMap := some next })).routeIn next e.addr none m
    | none => s
  else s.once m 0x1D (fun s => match code with
    | 1 | 2 => (s.weaveMap (fun w => { w with nextMap := some map })).ackAdmin m (leBytes 1 0)
    | 3 =>
      let a := field b 4 2
      let s := s.ackAdmin m (leBytes 1 0)
      s.weaveMap (fun w => { w with nextMap := some (s.mapNext.filter (fun e => e.addr != a)) })
    | 4 =>
      if field b 1 1 = 1 then (s.weaveMap (fun w => { w with backs := w.backs ++ [(field b 4 4, field b 8 2)] })).ackAdmin m (leBytes 1 0)
      else
        let s := s.startRebuild (msgOp m) (field b 4 4) (field b 8 2) (field b 10 1 == 1)
        if field b 8 2 = s.self then
          (match s.weave.rebuilds.find? (fun r => r.op == msgOp m) with
          | some r => if r.buckets = [] then s.endRebuild r else s
          | none => s.ackAdmin m (leBytes 1 stHwFault))
        else s
    | 6 =>
      if field b 4 2 = s.self ∧ !s.isHead then
        (s.ackAdmin m (leBytes 1 0)).weaveMap (fun w => { w with promo := some ⟨s.measure, s.headAddr, true⟩ })
      else s.ackAdmin m (leBytes 1 0 ++ zeros 3 ++ s.tentReport)
    | _ => s.ackAdmin m (leBytes 1 stBadParam))

/-- ADMIN_ACK (R650): a member's result; a chip on the way passes it up. -/
def State.onAdminAck (s : State) (m : Bytes) : State :=
  let passUp := !s.isHead && !(s.mapNext.any (fun e => e.parent == 0xFFFF && e.serial == Config.serial.toNat))
  if passUp then
    match s.mapNext.find? (fun e => e.serial == Config.serial.toNat) with
    | some e => s.queueMsg e.up m
    | none => s
  else match s.wop? (msgOp m) with
    | none => s
    | some o =>
      let b := msgBody m
      let left := o.waiting.filter (fun a => a != msgSrc m)
      let worst := if o.worst = 0 then field b 0 1 else o.worst
      let s := s.wopMap o.id (fun x => { x with waiting := left, worst := worst })
      match o.kind with
      | .abort =>
        let s := s.resolveTents (msgSrc m) (b.drop 4)
        if left = [] then (s.endOp o.id).finishResolve else s
      | .rebuild =>
        if left = [] then
          let a := (o.sent.head?.map (fun p => field p.2 8 2)).getD 0
          let s := s.weaveMap (fun w => { w with backs := w.backs ++ [(o.handle, a)] })
          let c := innerCmd s.host.nextCid 0x58 o.handle 1 0 []
          let s := s.administer c .settle s.weave.map (leBytes 1 4 ++ leBytes 1 1 ++ zeros 2 ++ leBytes 4 o.handle ++ leBytes 2 a) s.others s.others
          s.adminDone
        else s
      | .settle => if left = [] then s.endOp o.id else s
      | _ => s.adminDone

/-! ## Beacons, settings, generations (R609 to R614) -/

/-- The generation records of the next downbeat (R614). -/
def State.genRecords (s : State) : List (Nat × Nat) :=
  s.weave.shelves.filterMap (fun w =>
    if w.gen = 0 then some (w.template.handle, 1)
    else if w.committed then some (w.template.handle, (w.gen + 1) % 2 ^ 48) else none)

/-- BEACON_SEND (R610, R613, R614): 2,000 ns before its downbeat, the head rim sends the BEACON on every downlink, and the records that
follow it. -/
def State.beaconSend (s : State) : State :=
  if !s.live || !s.isHead then s
  else
    let s := s.advance (s.clk.predicted - ns 2000)
    let n := measureAdd s.measure 1
    let recs := s.genRecords
    let set := s.weave.settings.filter (fun p => !later n p.1)
    let kids := (s.childrenOf s.self).filterMap s.strandTo
    let ctl : Ctl := .beacon n 2000 (s.inForce measPeriodTicks) (set != []) recs.length (s.rd wvEpochValue)
    let s := s.each kids (fun s i => s.sendCtl i ctl)
    let s := s.each set (fun s p => s.send 0x01 0xFFF 0 (leBytes 4 p.1 ++ p.2))
    let s := s.when (recs != []) (fun s => s.send 0x02 0xFFF 0 (leBytes 4 n ++ (recs.map (fun r => leBytes 4 r.1 ++ leBytes 6 r.2)).flatten))
    s.weaveMap (fun w => { w with gens := w.gens ++ recs.map (fun r => (n, r.1, r.2)) })

/-- BEACON (R610, R612): the weave downbeat and its measure number, by the instant the block left the parent; it is forwarded with the lead
less the 36 ns of the hop (R601). -/
def State.onBeacon (s : State) (i measure lead period : Nat) (set : Bool) (records epoch t : Nat) : State :=
  if !s.live || !s.inWeave || s.isHead || i != s.uplink || !s.strandUp i then s
  else
    let s := s.advance t
    let left := s.clk.now - s.rd wvDelayPs i * 768 / 1000
    let s := (s.weaveMap (fun w => { w with beacon := some (left + ns lead, measure) })).wr wvEpochValue 0 epoch
    let kids := (s.childrenOf s.self).filterMap s.strandTo
    s.each kids (fun s k => s.sendCtl k (.beacon measure (lead - 36) period set records epoch))

/-- SETTINGS (R613): each record of each BEACON is noted, the one heard last after the others, so that those of one target apply in the order of the
head rim. -/
def State.onSettings (s : State) (m : Bytes) : State :=
  let b := msgBody m
  let n := field b 0 4
  let x := (n, slice b 4 20)
  s.weaveMap (fun w => { w with settings := w.settings.filter (fun p => p != x) ++ [x] })

/-- GENERATIONS (R614). A record sent to one member that has rejoined drops its sub-shelves of a shelf whose generation has changed
(R642). -/
def State.onGenerations (s : State) (m : Bytes) : State :=
  let b := msgBody m
  let n := field b 0 4
  let recs := ((List.range ((b.length - 4) / 10)).map (fun i => (field b (4 + 10 * i) 4, field b (8 + 10 * i) 6))).filter (fun r => r.1 != 0)
  if msgDst m = s.self then
    s.each recs (fun s r => match s.wshelf? r.1 with
      | none => s
      | some w =>
        if w.gen = r.2 then s
        else
          let gone := (s.store.shelves.filter (fun h => h.handle == r.1)).map (fun h => h.index)
          let s := (s.wipe gone).storeMap (fun t => { t with
            shelves := updAll (fun h => gone.contains h.index) (fun h => { h with slabs := [], opening := none, lost := true, counted := 0, held := [] }) t.shelves })
          (s.outHolder s.self).wshelfMap r.1 (fun w => { w with gen := r.2, template := w.template.setGen n r.2 }))
  else s.weaveMap (fun w => { w with gens := w.gens ++ recs.map (fun r => (n, r.1, r.2)) })

/-! ## Loss and return of members (R641, R642) -/

/-- A member asks the head rim to take it back: the handle and generation of each weave shelf it holds (R642). It does so whenever its uplink comes
back, since it may have missed generation records (DEDUCED, log entry 93). -/
def State.askRejoin (s : State) : State :=
  let recs := s.weave.shelves.map (fun w => leBytes 4 w.template.handle ++ leBytes 6 w.gen)
  s.send 0x05 s.headAddr 0 (leBytes 2 s.self ++ leBytes 2 recs.length ++ recs.flatten)

/-- The uplink is lost and the map names an alternate parent strand that is up: the chip re-parents and asks to rejoin (R642). -/
def State.reparent (s : State) : State :=
  let alt := s.rd wvParentAlt
  if !s.inWeave || s.isHead || s.strandUp s.uplink || alt == s.uplink || !((s.mapEnt? s.self).map (fun e => e.alt != 0xFF)).getD false || !s.strandUp alt then s
  else
    let parent := s.rd wvStrandPeer alt
    let map := s.weave.map.map (fun e => if e.addr = s.self then { e with parent := parent, up := alt, alt := 0xFF } else e)
    (s.takeMap map).askRejoin

/-- REJOIN (R642): the head rim takes the member back; the copies of a shelf whose generation has not changed serve from the next downbeat, unless
they are being rebuilt, those of the others are out of service until they are, and the member is told the generations. -/
def State.onRejoin (s : State) (i : Nat) (m : Bytes) : State :=
  let b := msgBody m
  let a := field b 0 2
  let recs := (List.range (field b 2 2)).map (fun j => (field b (4 + 10 * j) 4, field b (8 + 10 * j) 6))
  let peer := s.rd wvStrandPeer i
  let parent := if peer = a then s.self else peer
  let map := s.weave.map.map (fun e => if e.addr = a then { e with parent := parent } else e)
  let was := s.weave.members.any (fun x => x.addr == a && x.lost) || s.weave.shelves.any (fun w => w.outs.any (fun o => o.holder == a))
  let building := fun (h : Nat) => s.weave.ops.any (fun o => o.kind == .rebuild && o.handle == h && o.sent.any (fun p => field p.2 8 2 == a))
  let s := s.weaveMap (fun w => { w with map := map, members := updFirst (fun x => x.addr == a) (fun x => { x with lost := false, downFrom := none }) w.members })
  let same := fun (r : Nat × Nat) => match s.wshelf? r.1 with | some w => w.gen == r.2 && !w.committed | none => false
  let back := recs.filter (fun r => was && same r && !building r.1)
  let s := s.weaveMap (fun w => { w with backs := w.backs ++ back.map (fun r => (r.1, a)) })
  let s := s.each (recs.filter (fun r => !same r)) (fun s r => s.wshelfMap r.1 (WShelf.without a))
  s.send 0x02 a 0 (leBytes 4 s.measure ++ (s.weave.shelves.map (fun w => leBytes 4 w.template.handle ++ leBytes 6 w.gen)).flatten)

/-- MEMBER_LOST (R641): a child's downlink has stayed down for WV_CTRL.rejoin measures; the child and what lies below it are lost. -/
def State.memberLost (s : State) (a : Nat) : State :=
  match s.weave.members.find? (fun m => m.addr == a) with
  | none => s
  | some mb =>
    let due := match mb.downFrom with | some n => decide (s.rd wvCtrlRejoin ≤ (s.measure + 2 ^ 32 - n) % 2 ^ 32) | none => false
    if !s.live || !((s.childrenOf s.self).contains a) || mb.lost || !due || (s.strandTo a).isSome then s
    else
      let all := a :: (s.below a).filter (fun x => x != a)
      let s := s.weaveMap (fun w => { w with members := updAll (fun m => all.contains m.addr) (fun m => { m with lost := true }) w.members })
      let strand := ((List.range 64).find? (fun i => s.rd wvStrandPeer i == a)).getD 0
      let s := s.logError 3 3 strand 27 a
      if s.isHead then (((s.ev wvEventMemberLost).forget all).forgetFans all).weavePrepares.adminDone else s

/-- The downlinks looked at, at a downbeat: since when each child's has been down (R641), and the loss of members put into service (R619). -/
def State.watchLinks (s : State) : State :=
  let see := fun (m : Member) => if (s.childrenOf s.self).contains m.addr then
      (if (s.strandTo m.addr).isSome then { m with downFrom := none } else { m with downFrom := some (m.downFrom.getD s.measure) })
    else m
  let s := s.weaveMap (fun w => { w with members := w.members.map see })
  let s := s.each (s.weave.members.filter (fun m => m.lost)) (fun s m => s.outHolder m.addr)
  let back := fun (w : WShelf) => { w with outs := w.outs.filter (fun o => !(s.weave.backs.contains (o.handle, o.holder))) }
  s.weaveMap (fun w => { w with shelves := w.shelves.map back, backs := [] })

/-! ## Rest (R652, R761, R764) -/

/-- REST (R652): a member is asked to enter Rest, or to wake, at a named downbeat; a wake message wakes it. -/
def State.onRest (s : State) (m : Bytes) : State :=
  let b := msgBody m
  let s := s.weaveMap (fun w => { w with restAt := some (field b 0 1, field b 4 4) })
  if field b 0 1 = 2 then s.restWake else s

/-- The head rim asks the weave to enter Rest (1) or to wake (2) at the next downbeat; the strands leave low-power idle for it. -/
def State.askRest (s : State) (what : Nat) : State :=
  if !s.isHead then s
  else
    let n := measureAdd s.measure 1
    let s := s.each ((List.range 64).filter (fun i => s.rd wvStrandState i == 4)) (fun s i => s.wr wvStrandState i 2)
    (s.send 0x06 0xFFF 0 (leBytes 1 what ++ zeros 3 ++ leBytes 4 n)).weaveMap (fun w => { w with restAt := some (what, n) })

/-! ## The downbeat in a weave -/

/-- The map, the generations and the links at a downbeat, with this measure's number in place. -/
def State.weaveDownbeat (s : State) : State :=
  let n := s.measure
  let s := match s.weave.promo with
    | some p => if p.planned ∧ s.inWeave ∧ s.self = s.rd wvDeputyAddr ∧ !s.isHead ∧ p.lossMeasure ≠ n then s.becomeHead p.oldHead true
        else if p.planned ∧ s.isHead ∧ p.oldHead = s.self ∧ p.lossMeasure ≠ n then
          ((s.takeMap (promotedMap s.weave.map s.self (s.rd wvDeputyAddr) true)).weaveMap (fun w => { w with promo := none, ops := [] })).endOwnership none true
        else s
    | none => s
  let new := !s.inWeave
  let s := match s.weave.nextMap with | some m => s.takeMap m | none => s
  let s := if new && s.inWeave && !s.isHead && !s.weave.kept.isEmpty then
      (s.weaveMap (fun w => { w with shelves := w.kept, kept := [] })).askRejoin
    else s
  if !s.inWeave then s
  else
    let due := s.weave.gens.filter (fun g => !later g.1 n)
    let s := s.each due (fun s g =>
      let s := s.wshelfMap g.2.1 (fun w => { w with gen := g.2.2, committed := false, template := w.template.setGen g.1 g.2.2 })
      s.storeMap (fun t => { t with shelves := updAll (fun h => h.handle == g.2.1) (Shelf.setGen g.1 g.2.2) t.shelves }))
    let s := s.weaveMap (fun w => { w with
      gens := w.gens.filter (fun g => later g.1 n), merges := [], plan := none, keySent := 0, beacon := none
      passed := w.passed.filter (fun p => !later n p.1) })
    s.watchLinks.reparent

end Sys2Proof.Machine
end

