-- ==== Sys2Proof/Machine/Measure.lean ====
section
/-!
DEFINITION. The measure (chapter 01): the downbeat and what happens at it (settings, counters, ownership, generations, map-outs,
temperature, the snapshot, Rest), admission and the freezing of the plan, and the start of the sweep.
-/
namespace Sys2Proof.Machine

/-! ## Counters and meters (R534, R535, R823, R824) -/

/-- Counters of the last measure. -/
def measureCounts : List Fld :=
  [accSpillFullCount, accSpillCompactCount, voiFarLatMaxNs, codaLastPostBytes, codaLastPostEndNs, strmGranulesCount, strmBlockedCc,
   strmShortCount, hstCpqWaitNsNs, zcpIntakeWaitNsNs, stgPeakUnits, stgPlacedRows, stgMarkedRows, stgMovedRows, stgBgUsedNs, stgPtHitsCount] ++
  [telAdmittedCount, telDeferredCount, telOverBudgetCount, telFetchLateCount, telPartialCount, telDegradedCount,
   telCovMinSweep, telCovMinRerank]

/-- Counters of the last pass. -/
def passCounts : List Fld :=
  [measLastPlanNs, measLastUsedNs, swpPassMaxCc, swpPassEstCc, swpBusyCc, swpTilesCount, accFoldInexactCount, accRerankInexactCount,
   voiLastVoicesCount, voiLastCandsCount, voiLastRerankNs, voiSwitchesCount, voiUnitBusyCc, voiUnitIdleCc] ++
  [codaTieReadsCount, codaKeyReadsCount, codaFinishNs, codaListPeakEntries, codaBandPeakEntries, swpStallCauseCc, strmTcacheFillCount,
   strmTcacheServedCount, strmTcacheRereadCount, strmBarrierNs, wvKeyLastNs, wvPlaitLastNs]

/-- A key belongs to one of some fields. -/
def keyIn (fs : List Fld) (k : Nat) : Bool := fs.any (fun f => f.holds k)

/-- The counts of the measure or pass that ended, shown in the registers of some fields (R823). -/
def State.showCounts (s : State) (fs : List Fld) : State :=
  let new := s.tally.filter (fun p => keyIn fs p.1)
  { s with regs := new.foldl (fun r p => regInsert p.1 p.2 r) (s.regs.filter (fun p => !keyIn fs p.1)) }

/-- The counts of the measure that ended, put away; the peak of the staging units of the next one begins with those held now. -/
def State.dropCounts (s : State) : State :=
  ({ s with tally := [] } : State).bumpSet stgPeakUnits 0 (insertUnits s.store.staging + killUnits s.store.staging)

/-- The stall causes an engine can have counted in the pass (R352): a table cause only where it holds a product-code group, chain causes only in
a chain, a drain stall never on direct shelves alone (R206), and recovery only where it took groups over; none without a group (R213). -/
def State.stallCauses (s : State) (e : Nat) : List Nat :=
  let x := s.engine e
  let chained := s.sweep.plan.copies.any (fun c => c.proj != 0 && decide (1 < c.team.length) && c.team.any (fun t => t.1 == e))
  let narrow := x.bank.any (fun b => b.proj == 0 && ((s.shelfAt? b.shelf).map (fun h => h.sweepKind != 3)).getD false)
  if x.bank = [] then []
  else [0] ++ (if x.bank.any (fun b => b.code) then [1] else []) ++ [2] ++ (if chained then [3, 4] else []) ++ (if narrow then [5] else []) ++
    (if x.took then [6] else []) ++ [7]

/-- The quantities of a pass that the device measures and the spec does not state: waits, idle cycles, stall causes, the end of posting. -/
def State.measurePass (s : State) : State :=
  let s := s.each ((List.range 32).filter (fun q => s.tallied strmGranulesCount q != 0)) (fun s q => s.measured strmBlockedCc q)
  if s.sweep.plan.ids = [] then s
  else
    let busy := (List.range 64).filter (fun e => s.tallied swpTilesCount e != 0)
    let s := s.bumpSet swpPassMaxCc 0 (busy.foldl (fun n e => max n (s.tallied swpBusyCc e)) 0)
    let s := s.each ((List.range 64).flatMap (fun e => (s.stallCauses e).map (fun i => 8 * e + i))) (fun s i => s.measured swpStallCauseCc i)
    let s := s.each (List.range 16) (fun s u => s.measured voiUnitIdleCc u)
    s.measured codaLastPostEndNs

/-- A 64-bit cumulative count increased, in its two registers; it saturates (R823). -/
def State.addMeter (s : State) (lo hi : Fld) (i n : Nat) : State :=
  let v := min (s.rd lo i + 2 ^ 32 * s.rd hi i + n) (2 ^ 64 - 1)
  (s.wr lo i (v % 2 ^ 32)).wr hi i (v / 2 ^ 32)

/-- The meters at a downbeat (R534, R535); the module's measured energy of a measure is free. -/
def State.runMeters (s : State) : State :=
  let s := s.each s.host.energy (fun s p => s.addMeter ownMeterLoNj ownMeterHiNj p.1 p.2)
  let e := (Config.moduleEnergy s.free).toNat
  ((s.tickFree).addMeter ownMeterModuleLoNj ownMeterModuleHiNj 0 e).hostMap (fun h => { h with energy := [] })

/-- The snapshot of R824: every register with its live fields as they read, and the seats' completions by status. -/
def State.takeSnapshot (s : State) : State :=
  let lives := (regTable.filter (fun f => f.live)).flatMap (fun f => (List.range f.count).map (fun i => (f, i)))
  let snap := lives.foldl (fun r p => match s.live? p.1 p.2 with | some v => regSet p.1 0 p.2 v r | none => r) s.regs
  let s := { s with snap := snap }
  (s.wr telSnapshotMeasure 0 s.measure).pwrMap (fun p => { p with statusSnap := p.seatStatus })

/-! ## Settings (R48 to R50, R613) -/

/-- A MEASURE_CONFIG's fields, bytes 4 to 23 of its parameter block, written where its valid mask names them; a source of 3 changes nothing
(R38). -/
def State.applySettings (s : State) (b : Bytes) : State :=
  let mask := field b 16 4
  let set := fun (i : Nat) (f : Fld) (v : Nat) (s : State) => if mask.testBit i then s.wr f 0 v else s
  let misc := field b 7 1
  let s := set 0 measPeriodTicks (field b 0 4) s
  let s := set 1 measTailBgPermille (field b 4 1) s
  let s := set 2 measTailMarginPermille (field b 5 1) s
  let s := set 3 measTailDeferLimit (field b 6 1) s
  let s := if misc % 4 = 3 then s else set 4 measCtrlSource (misc % 4) s
  let s := set 5 measCtrlEdge (misc / 4 % 2) s
  let s := set 6 measCtrlHoldoverEn (misc / 8 % 2) s
  let s := set 7 measPointBudgetGranules (field b 8 4) s
  let s := set 8 measFarBwGbps (field b 12 2) s
  set 9 voiFarLatNs (field b 14 2) s

/-- The settings due at measure `n`: those of the weave (R613), then the MEASURE_CONFIG commands, which complete (R49, R428). -/
def State.dueSettings (s : State) (n : Nat) : State :=
  let due := s.weave.settings.filter (fun p => !later p.1 n)
  let s := s.weaveMap (fun w => { w with settings := w.settings.filter (fun p => later p.1 n) })
  let s := s.each due (fun s p => (s.applySettings p.2).when (!s.isHead && p.1 != n) (fun s => s.ev wvEventConfigLate))
  let cs := s.host.cmds.filter (fun c => c.stage == .timed && c.opcode == 0x38 && !later c.target n)
  s.each cs (fun s c => (s.applySettings (slice c.param 4 20)).complete c stOk c.target 0 0 true)

/-- The registers in force from measure `n` on: the values written, then the settings due (R48, R50). -/
def State.latchSettings (s : State) (n : Nat) : State :=
  let s := s.dueSettings n
  { s with latched := s.regs }

/-! ## Ownership (R514 to R527, R532) -/

/-- LEASE_EXPIRY (R522): ownership expires at the downbeat that starts measure `n`. -/
def State.expireLease (s : State) (n : Nat) : State :=
  if s.rd ownStateState = 1 ∧ s.rd ownLeaseLeftMeasures = 0 then
    ((s.endOwnership none true).wr ownLastChangeMeasure 0 n).ev ownEventLeaseExpired
  else s

/-- OFFER_LAPSE (R527): an offer whose successor holds no claim lapses at the downbeat that starts measure `n`, seventeen after it was made. -/
def State.lapseOffer (s : State) (n : Nat) : State :=
  let held := s.host.claims.any (fun c => c.seat == s.rd ownStateSuccessor)
  if s.rd ownStateState = 2 ∧ 17 ≤ (n + 2 ^ 32 - s.host.offerAt) % 2 ^ 32 ∧ !held then
    ((s.endOwnership none false).wr ownLastChangeMeasure 0 n).ev ownEventOfferLapsed
  else s

/-- Claim `a` wins over claim `b` (R517, R518). -/
def claimBefore (a b : Claim) : Bool :=
  decide (b.priority < a.priority) || (a.priority == b.priority &&
    (decide (b.nonce < a.nonce) || (a.nonce == b.nonce && decide (a.seat < b.seat))))

/-- The election of measure `n` (R517, R518). -/
def State.elect (s : State) (n : Nat) : State :=
  match sortBy claimBefore s.host.claims with
  | [] => s
  | w :: rest =>
    let s := s.hostMap (fun h => { h with claims := [] })
    let s := ((s.wr ownStateState 0 1).wr ownStateOwner 0 w.seat).wr ownStateSuccessor 0 0
    let s := ((s.wr ownStatePriority 0 w.priority).wr ownNonceLoNonce 0 (w.nonce % 2 ^ 32)).wr ownNonceHiNonce 0 (w.nonce / 2 ^ 32)
    let s := ((s.wr ownLeaseLeftMeasures 0 (s.rd ownLeaseLength)).wr ownLastChangeMeasure 0 n).ev ownEventElection
    let s := (s.noticeChanged).notice w.seat 1
    let finish := fun (s : State) (c : Claim) (st : Nat) => match s.cmd? c.cid with
      | some x => s.complete x st n 0 0 (st == stOk)
      | none => s
    s.each rest (fun s c => finish s c stNotOwner) |> (fun s => finish s w stOk)

/-- Ownership at the downbeat of measure `n`: expiry and lapse, then the election (R517); downbeats taken in Rest do not count. -/
def State.ownershipStep (s : State) (n : Nat) : State :=
  let owned := s.rd ownStateState == 1
  let s := (s.expireLease n).lapseOffer n
  let s := match s.owner? with
    | some t =>
      let left := s.rd ownLeaseLeftMeasures - 1
      let s := s.wr ownLeaseLeftMeasures 0 left
      s.when (owned && left == s.rd ownLeaseLength / 4) (fun s => s.notice t 4)
    | none => s
  s.elect n

/-! ## The store and graphics memory at a downbeat -/

/-- The generation of a shelf at the downbeat of measure `n` (R131); on a member of a weave the head rim gives it (R614). -/
def Shelf.stepGen (inWeave : Bool) (n : Nat) (h : Shelf) : Shelf :=
  (if !inWeave && h.committed then h.setGen n h.nextGen else h).uncommit

/-- The generations of the shelves, and the handles of dropped shelves that are free from now on (R131, R147). -/
def State.storeStep (s : State) (n : Nat) : State :=
  let gone := fun (h : Shelf) => h.dropping && !later (measureAdd h.dropAt 2) n
  let s := s.storeMap (fun t => { t with shelves := (t.shelves.filter (fun h => !gone h)).map (Shelf.stepGen s.inWeave n) })
  let s := s.weaveMap (fun w => { w with shelves := w.shelves.filter (fun x => !gone x.template) })
  let full := fun (h : Shelf) => h.slabs.length == h.capacity && h.tailFill == 64
  let stuck := s.store.staging.filter (fun e => !e.kill && !e.superseded &&
    (match s.shelfAt? e.shelf with | some h => full h || s.farHeld h | none => false))
  s.wr stgHeldCount 0 stuck.length

/-- The first downbeat after a start: a store laid out on other channels is lost (R575), and the staging entries held, restored, rebuilt or
committed since the start, take the measure before this one: they lie in the view of every pass from now on (R495; log entry 79). -/
def State.firstStep (s : State) (n : Nat) : State :=
  let moved := s.store.shelves != [] && s.store.laid != s.active
  let s := s.when moved (fun s => if s.active = [] then s.loseShelves else s.newLayout s.active)
  s.storeMap (fun t => { t with staging := (t.staging.filter (fun e => !e.superseded)).map (fun e => { e with commitMeasure := (n + 2 ^ 32 - 1) % 2 ^ 32 }) })

/-- MAP_OUT and MAP_IN at the downbeat of measure `n`: engines and strands at once (R214, R600); channels with the layout, or at once where it
does not change (R569, R574). -/
def State.memoryStep (s : State) (n : Nat) : State :=
  let s := s.each (s.host.cmds.filter (fun c => (c.opcode == 0x60 || c.opcode == 0x61) && c.stage == .timed)) (fun s c =>
    s.cmdMap c.cid (fun x => { x with target := if x.target = 0 then n else x.target }))
  let now := s.mem.pends.filter (fun p => p.kind == 0 || p.kind == 2)
  let s := s.memMap (fun m => { m with pends := m.pends.filter (fun p => p.kind == 1 || p.kind == 3) })
  let s := s.each now (fun s p => match s.cmd? p.cid with | some c => s.complete c stOk n 0 0 true | none => s)
  let s := s.layoutChange
  let s := s.storeMap (fun t => { t with laid := if s.active = [] then t.laid else s.active })
  if s.mem.relaying ∨ s.rd gdmStatusBelowMin = 1 then s else s.finishPends

/-- Strands leave service, or begin to train, at the downbeat after WV_MAPOUT changed (R600): `old` is the mask that was in force. -/
def State.strandMaps (s : State) (old : Nat) : State :=
  let now := s.rd wvMapoutLoStrands + 2 ^ 32 * s.rd wvMapoutHiStrands
  s.each ((List.range 64).filter (fun i => old.testBit i != now.testBit i)) (fun s i =>
    if now.testBit i then (s.strandMap i (fun _ => strandNil)).wr wvStrandState i 3 else s.startTraining i)

/-! ## Temperature and the engines (R215, R216, R769 to R771) -/

/-- The engines allowed from the readings at the downbeat (R769); after a gating at 105 °C the count takes the value that gating left
(R771; log entry 46). -/
def State.allowed (s : State) : Nat :=
  let tj := s.pwr.tj
  let d := 10 * s.rd pwrThermalDerateC
  let n := s.pwr.engines
  if s.pwr.gatedNow then min n 32
  else if d ≤ tj then max 16 (n - 8) else if tj + 30 ≤ d then min 64 (n + 8) else n

/-- The highest-numbered engines of each cluster gated, `cut` of those that are not mapped out (R769). -/
def gatedEngines (out cut : Nat) : List Nat :=
  (List.range 8).flatMap (fun c =>
    (((List.range 8).map (fun i => 8 * c + 7 - i)).filter (fun e => !out.testBit e)).take cut)

/-- The thermal state, the engines in ERST, and SWP_ACTIVE of a measure (R215, R769, R770). -/
def State.engineStep (s : State) : State :=
  let n := s.allowed
  let out := s.inForce swpMapoutLoEngines + 2 ^ 32 * s.inForce swpMapoutHiEngines
  let gated := gatedEngines out ((64 - n) / 8)
  let s := s.pwrMap (fun p => { p with engines := n, gatedNow := false })
  let s := s.sweepMap (fun w => { w with engines := (List.range 64).map (fun e => { engineReset with thermal := gated.contains e, tacet := true }) })
  let use := s.usable
  let word := fun (lo : Nat) => sumN ((use.filter (fun e => decide (lo ≤ e ∧ e < lo + 32))).map (fun e => 2 ^ (e - lo)))
  let hot := decide (10 * s.rd pwrThermalHotMemC ≤ s.pwr.memC)
  ((s.wr swpActiveLoEngines 0 (word 0)).wr swpActiveHiEngines 0 (word 32)).clkMap (fun k => { k with hotMem := hot })

/-! ## Rest (R761, R652) -/

/-- The conditions of R761 that this chip sees hold. -/
def State.mayRest (s : State) : Bool :=
  let auto := s.rd pwrRestCtrlAutoMeasures
  (s.rd pwrRestCtrlReq == 1 || (auto != 0 && decide (auto ≤ s.clk.emptyRun))) &&
  s.host.cmds.isEmpty && s.host.grants.isEmpty && s.store.journal.isEmpty && s.host.sbqs.all (fun q => q.reading.isEmpty)

/-- Rest entry at a downbeat (R762): the measure it would have started runs no phase. -/
def State.beginRest (s : State) : State := (s.restEnter).clkMap (fun k => { k with phase := .idle })

/-- Rest at the downbeat of measure `n`: a standalone chip enters it when it may; the head rim then asks its weave, which enters it together at
the downbeat named. -/
def State.restStep (s : State) (n : Nat) : State :=
  if s.inWeave then
    match s.weave.restAt with
    | some (1, m) => if later m n then s else (s.weaveMap (fun w => { w with restAt := none })).beginRest
    | some (_, m) => if later m n then s else s.weaveMap (fun w => { w with restAt := none })
    | none => if s.mayRest then s.askRest 1 else s
  else if s.mayRest then s.beginRest else s

/-! ## The downbeat -/

/-- The device takes downbeats: it plays and no fatal error stands, or it is in Rest or leaving it (R763, R842). -/
def State.ticking (s : State) : Bool := (s.live && s.clk.ready) || s.pwr.mode == .rest || s.pwr.mode == .waking

/-- κ after the measure that ended (R69). What fraction of a cut measure's work counts as completed is the model's choice (log entry 75). -/
def State.nextKappa (s : State) : Nat :=
  let k := s.clk
  if k.overrun then kappaDown k.kappa (s.sweep.plan.tSweep + s.sweep.plan.tRerank) k.used k.done.1 k.done.2 else kappaUp k.kappa

/-- The measure that ran is closed at the instant of a downbeat: what its own steps left is ended, its counts are taken, and κ and the count of
empty measures follow it. -/
def State.closeMeasure (s : State) (at_ : Nat) : State :=
  let s := s.when (s.clk.phase == .sweep || s.clk.phase == .rerank) State.foregroundEnd
  let s := s.when s.inWeave (fun s => s.plaitExpire at_)
  let s := s.when s.clk.started State.reserveEndAct
  let s := s.advance at_
  let s := s.when (s.store.journal != []) (fun s => s.endSlabOps.retryCommits.weaveLanded)
  let s := (s.countWaits.measurePass).showCounts measureCounts
  let s := s.when (s.sweep.plan.ids != []) (fun s => s.showCounts passCounts)
  let s := s.dropCounts
  let empty := s.sweep.plan.ids.isEmpty && !s.clk.fetched
  let kappa := s.nextKappa
  s.clkMap (fun k => { k with kappa := if k.started then kappa else 256, emptyRun := if k.started && empty then k.emptyRun + 1 else 0 })

/-- The far reads still in flight when their pass ends have taken at least until now (R276). -/
def State.lateFar (s : State) : State :=
  s.each (s.rr.reqs.filter (fun r => r.far && !r.returned)) (fun s r => s.farTook r)

/-- The pass of the measure that ran is put away: its runs, tiles, voices and requests; parts of the weave's searches go with it. -/
def State.clearPass (s : State) : State :=
  let keep := fun (q : Req) => q.write || q.clients.any (fun c => match c with | .point _ _ | .slab _ => true | _ => false)
  let ran := s.sweep.plan.ids != []
  let s := s.when ran (fun s => s.pwrMap (fun p => { p with
    traces := (p.traces.filter (fun t => decide (32 ≤ t.1))).map (fun t => (t.1 - 32, t.2)) }))
  let s := s.sweepMap (fun w => { sweepReset with engines := w.engines })
  let s := s.rrMap (fun r => { rerankReset with reqs := r.reqs.filter keep, nextRid := r.nextRid, nextArr := r.nextArr })
  let s := s.hostMap (fun h => { h with
    grantCur := [0, 0, 0, 0]
    cmds := (h.cmds.filter (fun c => c.origin != 1)).map (fun c => if c.stage = .held ∧ c.opcode = 0x12 then { c with stage := .ready } else c) })
  s.memMap (fun m => { m with pointUsed := 0 })

/-- A lost source that the settings in force no longer name: the internal timebase is now the source selected, and the loss is over (DESIGN CHOICE,
log entry 73: R44 does not say what becomes of a holdover, or of the stop of admission, when MEAS_CTRL.source is changed to 0 in it). -/
def State.sourceLeft (s : State) : State :=
  s.when (s.clk.holdover || s.clk.sourceGone) (fun s => s.clkMap (fun k => { k with holdover := false, sourceGone := false, missed := 0, good := 0 }))

/-- A measure begins at an instant with a number (R39, R46): everything that R48 to R50, R69, R87, R131, R214, R517, R769 and R824 place at a
downbeat, in that order; in Rest the count alone goes on, and nothing is admitted (R763). -/
def State.startMeasure (s : State) (at_ n : Nat) : State :=
  let first := !s.clk.started
  let resting := s.pwr.mode != .playing
  let old := s.inForce wvMapoutLoStrands + 2 ^ 32 * s.inForce wvMapoutHiStrands
  let s := ((s.closeMeasure at_).lateFar).clearPass
  let s := (s.wr measNumberValue 0 n).emit .beat
  let s := s.runMeters.latchSettings n
  let s := s.clkMap (fun k => { k with
    lastDb := at_, prevDb := k.lastDb, phase := if resting then .idle else .admission, started := true, planFrozen := false, bgOpen := false
    overrun := false, done := (0, 0), used := 0, fetched := false })
  let s := s.clkMap (fun k => { k with predicted := at_ + s.period })
  let s := s.when (s.inForce measCtrlSource == 0) State.sourceLeft
  let s := s.pwrMap (fun p => { p with errThis := 0, sinceStart := p.sinceStart + 1, tauNext := none }) |>
    (fun s' => match s.pwr.tauNext with | some t => s'.wr telEnergyTrimFactor 0 t | none => s')
  let s := s.each (List.range 4) (fun s i => s.wr cndHeartbeatMeasure i n)
  if resting then (s.takeSnapshot.wr telCarriedCount 0 0).restStep n
  else
    let s := s.weaveDownbeat
    let s := s.when first (fun s => s.firstStep n)
    let s := (s.ownershipStep n).storeStep n
    let s := ((s.memoryStep n).strandMaps old).scrubLate
    let s := s.engineStep.takeSnapshot.wr telCarriedCount 0 0
    let s := s.weaveDecide.weavePrepares
    s.restStep n

/-! ## The sources of the downbeat (R38 to R45, R789) -/

/-- An external source is configured, and not given up for the internal timebase (R44). -/
def State.followsEdges (s : State) : Bool := s.inForce measCtrlSource != 0 && !s.clk.holdover && !s.clk.sourceGone

/-- The source is lost, and sixteen external downbeats in a row have not yet brought it back (R44): the internal timebase starts the measures. A
sixteenth edge that comes just before its prediction brings the source back at the downbeat predicted. -/
def Clock.offEdges (k : Clock) : Bool := (k.holdover || k.sourceGone) && (decide (k.good < 16) || k.edgeNext)

/-- The device waits for an edge at the predicted instant. -/
def State.awaitsEdges (s : State) : Bool := s.inForce measCtrlSource != 0 && !s.clk.offEdges

/-- An instant lies within ±2 µs of another (R41). -/
def nearInstant (a b : Nat) : Bool := decide (a ≤ b + ns 2000 ∧ b ≤ a + ns 2000)

/-- The number of the next measure. -/
def State.nextNumber (s : State) : Nat := measureAdd s.measure 1

/-- The source is back (R44): the holdover, or the stop of admission, is over. -/
def State.sourceBack (s : State) : State :=
  s.clkMap (fun k => { k with holdover := false, sourceGone := false, missed := 0, good := 0, edgeNow := false, edgeNext := false })

/-- An external downbeat while the source is lost (R44). It counts when it lies within ±2 µs of the downbeat that began this measure, or of
the predicted one, if that has had no edge yet; an edge that lies elsewhere is more than 2 µs early (R42) and ends the run of good ones. The
sixteenth good one in a row ends the holdover. -/
def State.holdoverEdge (s : State) (t : Nat) : State :=
  if nearInstant t s.clk.lastDb then
    s.when (!s.clk.edgeNow) (fun s => s.clkMap (fun k => { k with good := k.good + 1, edgeNow := true, holdover := k.holdover && decide (k.good < 15) }))
  else if nearInstant t s.clk.predicted then
    s.when (!s.clk.edgeNext) (fun s => s.clkMap (fun k => { k with good := if k.edgeNow then k.good + 1 else 1, edgeNext := true }))
  else (s.ev measEventEarlyEdge).clkMap (fun k => { k with good := 0 })

/-- The good edges at a downbeat of the internal timebase (R44): a downbeat that had none ends the run, and sixteen in a row bring the source
back. -/
def State.countEdges (s : State) : State :=
  if decide (16 ≤ s.clk.good) && (s.clk.edgeNow || s.clk.edgeNext) then s.sourceBack
  else s.clkMap (fun k => { k with good := if k.edgeNow || k.edgeNext then k.good else 0, edgeNow := k.edgeNext, edgeNext := false })

/-- A measure started by the internal timebase. -/
def State.internalDownbeat (s : State) (n : Nat) : State :=
  let p := s.clk.predicted
  let s := s.when (s.clk.holdover || s.clk.sourceGone) State.countEdges
  (s.clkMap (fun k => { k with locked := false })).startMeasure p n

/-- A measure started by an accepted external downbeat (R41). -/
def State.acceptEdge (s : State) (t n : Nat) : State :=
  (s.clkMap (fun k => { k with locked := true, missed := 0, good := 0 })).startMeasure t n

/-- An external downbeat at an instant, naming measure `n` (R41, R42, R44, R789). -/
def State.externalEdge (s : State) (t n : Nat) : State :=
  if !s.clk.started then s.acceptEdge t n
  else if s.clk.offEdges then s.holdoverEdge t
  else if t + ns 2000 < s.clk.predicted then s.ev measEventEarlyEdge
  else if t ≤ s.clk.predicted + ns 2000 then (s.when (s.clk.holdover || s.clk.sourceGone) State.sourceBack).acceptEdge t n
  else s

/-- The source in force, or before the first downbeat the source written. -/
def State.source (s : State) : Nat := if s.clk.started then s.inForce measCtrlSource else s.rd measCtrlSource

/-- The edge of the DOWNBEAT pin that counts (R38): the falling one where MEAS_CTRL.edge is 1. -/
def State.edgeFalls (s : State) : Bool := (if s.clk.started then s.inForce measCtrlEdge else s.rd measCtrlEdge) == 1

/-- DOWNBEAT (R39, R44, R610, R789): the internal timebase reaches the predicted instant, or the weave downbeat a BEACON named comes. With source 2
on a chip that no rim sends downbeats (a standalone chip, the head rim) the measures start on the internal timebase (DESIGN CHOICE, log entry
74). -/
def State.downbeat (s : State) : State :=
  if !s.ticking then s
  else
    let onWeave := s.source == 2 && s.inWeave && !s.isHead
    let own := !onWeave && s.source != 1
    let lost := s.clk.started && s.clk.offEdges
    if onWeave then
      match s.weave.beacon with
      | some (t, n) =>
        let s := s.weaveMap (fun w => { w with beacon := none })
        if lost then (s.holdoverEdge t).internalDownbeat s.nextNumber else s.externalEdge t n
      | none => if lost then s.internalDownbeat s.nextNumber else s
    else if own || lost then s.internalDownbeat s.nextNumber
    else s

/-- DOWNBEAT_EDGE (R38, R41, R42, R733, R789): an edge of the DOWNBEAT pin arrives, where the pin's F0 is enabled; the other edge than the one
MEAS_CTRL.edge selects is none. -/
def State.downbeatEdge (s : State) (falling : Bool) (t : Nat) : State :=
  if s.ticking && s.source == 1 && falling == s.edgeFalls && s.inputOn 0 0 then s.externalEdge t s.nextNumber else s

/-- FLYWHEEL_DOWNBEAT (R43, R44, R643): no acceptable downbeat by prediction + 2 µs. The eighth missed edge in a row begins the holdover, from
the last accepted phase. -/
def State.flywheel (s : State) : State :=
  if !s.ticking || !s.clk.started || !s.awaitsEdges then s
  else
    let s := s.when (s.clk.holdover || s.clk.sourceGone) State.sourceBack
    let missed := s.clk.missed + 1
    let lost := decide (8 ≤ missed)
    let hold := s.inForce measCtrlHoldoverEn == 1
    let s := (s.ev measEventMissedEdge).when (s.source == 2) State.reportLoss
    let s := s.when lost (fun s => (s.ev measEventSourceLost).clkMap (fun k =>
      { k with holdover := hold, sourceGone := !hold, good := 0, edgeNow := true, edgeNext := false }))
    let s := (s.clkMap (fun k => { k with locked := false, missed := missed })).startMeasure (s.clk.predicted + ns 2000) s.nextNumber
    s.when lost (fun s => s.clkMap (fun k => { k with predicted := k.predicted - ns (2000 * missed) }))

/-! ## Admission (R71 to R79) -/

/-- A search the device admits nothing for in this measure: the source is gone (R44), the system area is being laid again (R573), or the head
rim was promoted less than four measures ago (R644). -/
def State.noAdmission (s : State) : Bool :=
  s.clk.sourceGone || s.mem.relaying ||
  (s.isHead && (match s.weave.promo with | some p => !p.planned && decide ((s.measure + 2 ^ 32 - p.lossMeasure) % 2 ^ 32 < 4) | none => false))

/-- Refused for load (R77). -/
def State.defer (s : State) (c : Cmd) : State := (s.bump telDeferredCount).refuse c stDeferred

/-- A candidate that does not fit is carried, or refused where this is its last measure (R75, R77). -/
def State.notFitting (s : State) (c : Cmd) : State :=
  if later c.last s.measure then (s.inc telCarriedCount).cmdMap c.cid (fun x => { x with carried := true }) else s.defer c

/-- The plan of some candidates, where they fit (R66, R622). -/
def State.fitting (s : State) (cs : List Cmd) : Option Plan :=
  if s.isHead then s.weavePlan cs
  else s.planOf (cs.filterMap (fun c => (s.shelfOf? c.shelf).map (fun h => s.item c h)))

/-- The run of an admitted command (R60, R137, R192): `col` searches of its shelf were admitted before it. -/
def State.newRun (s : State) (c : Cmd) (h : Shelf) (col : Nat) : Run :=
  { cid := c.cid, shelf := h.index, kind := if isSearch c.opcode then 0 else c.statsKind, col := col, gen := h.gen, rows := s.viewRows h s.measure
    compared := 0, cands := [], handed := 0, passed := 0, reranked := 0
    keysLeft := [], keysWait := [], final := [], cutTime := false, degraded := false, finished := false, posted := false
    lanes := if c.opcode = 0x18 ∧ c.statsKind = 4 then List.replicate c.probes laneNil else [], ones := [], inputs := 0, voided := false, absent := false, tiles := [], energy := 0 }

/-- The runs of the admitted commands, each search numbered among its shelf's (R192). -/
def State.newRuns (s : State) (cs : List Cmd) : List Run :=
  cs.foldl (fun rs c => match s.shelfOf? c.shelf with
    | none => rs
    | some h => rs ++ [s.newRun c h (rs.filter (fun r => r.shelf == h.index && r.kind == 0)).length]) []

/-- A command on a lost shelf completes with DEGRADED and a record of no entry (R572). -/
def State.lostRun (s : State) (c : Cmd) (h : Shelf) : State :=
  let r := { s.newRun c h 0 with rows := 0, degraded := true, finished := true }
  (s.sweepMap (fun w => { w with runs := w.runs ++ [r] })).postResult c.cid

/-- Pass commands of a seat among those admitted so far reach its quota (R505). -/
def State.overQuota (s : State) (cs : List Cmd) (seat : Nat) : Bool :=
  let q := s.inForce ownSeatCtrlQuota seat
  q != 0 && decide (q ≤ (cs.filter (fun c => c.seat == seat)).length)

/-- One candidate considered (R74, R77, R78, R145, R147, R505, R572, R576): a shelf dropped in this measure is still in its table. -/
def State.consider (acc : State × List Cmd) (c : Cmd) : State × List Cmd :=
  let (s, cs) := acc
  match s.shelfOf? c.shelf with
  | none => (s.refuse c stNoShelf, cs)
  | some h =>
    if h.dropping && later s.measure h.dropAt then (s.refuse c stNoShelf, cs)
    else if c.deadline ≠ 0 ∧ later c.first c.deadline then (s.defer c, cs)
    else if !s.isHead ∧ h.lost then (s.lostRun c h, cs)
    else if !s.isHead ∧ s.rd gdmStatusBelowMin = 1 then (s.refuse c stHwFault, cs)
    else if s.noAdmission then (s.notFitting c, cs)
    else if (s.fitting [c]).isNone then
      (((s.when (s.chainRefused [s.item c h]) (fun s => s.ev swpEventChainRefused)).bump telOverBudgetCount).refuse c stOverBudget, cs)
    else if s.overQuota cs c.seat ∨ (s.fitting (cs ++ [c])).isNone then (s.notFitting c, cs)
    else (s, cs ++ [c])

/-- The candidates of this downbeat in the order of R76. -/
def State.candidates (s : State) : List Cmd :=
  let l := s.host.cmds.filter (fun c => c.stage == .candidate && isPass c.opcode && !later c.first s.measure)
  let arrived := fun (a b : Cmd) => decide (a.queuedAt < b.queuedAt) || (a.queuedAt == b.queuedAt && decide (a.cid < b.cid))
  let before := fun (a b : Cmd) => if a.cls ≠ 0 ∧ b.cls ≠ 0 ∧ a.carried ≠ b.carried then a.carried else arrived a b
  let u := sortBy arrived (l.filter (fun c => c.cls == 0))
  let w := sortBy before (l.filter (fun c => c.cls != 0))
  s.sectionOrder [0, 0, 0, 0] (u ++ w)

/-- The admitted commands begin their pass: their runs, the plan, and what the registers show of it (R60, R823). -/
def State.freezePlan (s : State) (cs : List Cmd) : State :=
  let s := s.clkMap (fun k => { k with planFrozen := true })
  let s := s.when s.isHead (fun s => s.sendPlans cs)
  match cs, s.fitting cs with
  | [], _ | _, none => s
  | _, some p =>
    let s := s.each cs (fun s c => s.cmdMap c.cid (fun x => { x with stage := .admitted }))
    let s := (s.bump telAdmittedCount 0 cs.length).addMeter telAdmittedTotalLoCount telAdmittedTotalHiCount 0 cs.length
    let s := if s.isHead then s.beginParts (cs.map (fun c => c.ref)) p
      else
        let runs := s.newRuns cs
        s.sweepMap (fun w => { w with runs := w.runs ++ runs, plan := p })
    s.planShown p

/-- Searches at the head rim that no member has acknowledged in time for their last measure (R620). -/
def State.unheld (s : State) : List Cmd :=
  s.host.cmds.filter (fun c => c.stage == .remote && isPass c.opcode && !later c.last s.measure)

/-- The admission of a measure (R76 to R78, R620). -/
def State.admission (s : State) : State :=
  let order := s.candidates
  let s := s.each s.unheld State.defer
  let (s, cs) := (order.take 65536).foldl State.consider (s, [])
  (s.each (order.drop 65536) State.notFitting).freezePlan cs

/-- The conductors of this chip plan this measure's pass: a member of a weave takes its plan from the head rim (R623). -/
def State.plansItself (s : State) : Bool := !s.inWeave || s.isHead

/-- PLAN_FREEZE (R71, R79): the plan is frozen within the admission window, once the 12,000 ns in which a search may still be fetched have passed. -/
def State.planFreeze (s : State) (t : Nat) : State :=
  if !s.live || s.clk.phase != .admission || s.clk.planFrozen || !s.plansItself || decide (t < s.clk.lastDb + ns 12000) || decide (s.windowEnd < t) then s
  else (s.advance t).admission

/-! ## The end of the admission window (R52, R62, R345, R389, R795) -/

/-- A plan that is not frozen in time is replaced by an empty plan (R795). -/
def State.planLate (s : State) : State :=
  let s := ((s.ev cndEventPlanLate).inc cndPlanLateCount).fwFault 9 1 49 0
  let s := s.each (s.candidates ++ s.unheld) State.notFitting
  s.clkMap (fun k => { k with planFrozen := true })

/-- A tile not yet dealt (R200). -/
def tileNew (shelf proj pos slab fill : Nat) (staged : Bool) (handles : List Nat) : Tile :=
  { tid := 0, shelf := shelf, proj := proj, pos := pos, staged := staged, slab := slab, handles := handles, fill := fill, masked := staged, live := 0, waiting := []
    copy := none, slot := 0, queue := if staged then 18 else 0, only := none, reissue := false }

/-- The commands a shelf's tiles are for: its searches together (0), and each position of each of its projections' chains (R195, R208). -/
def tileKinds (its : List Item) (h : Shelf) : List (Nat × Nat) :=
  (if its.any Item.search then [(0, 0)] else []) ++
  (its.filter Item.project).flatMap (fun i => (List.range (chainLength h.dim)).map (fun j => (i.cmd.cid, j)))

/-- Tiles numbered from `t0` on. -/
def numberTiles (t0 : Nat) (l : List Tile) : List Tile := (l.zip (List.range l.length)).map (fun p => { p.1 with tid := t0 + p.2 })

/-- The slab tiles and staged tiles of a shelf of the pass (R200, R344), from tile number `t0`: for each kind of work one of every slab, and one of
every 64 staged rows. -/
def State.shelfTiles (s : State) (its : List Item) (h : Shelf) (t0 : Nat) : List Tile × List Tile :=
  let kinds := tileKinds its h
  let rows := (s.stagedView h.index s.measure).map (fun e => e.handle)
  let parts := chunks 64 (rows.length + 1) rows
  let slabs := kinds.flatMap (fun k => (List.range h.slabs.length).map (fun j => tileNew h.index k.1 k.2 j (h.slab j).fill false []))
  let staged := (parts.zip (List.range parts.length)).flatMap (fun p => kinds.map (fun k => tileNew h.index k.1 k.2 p.2 p.1.length true p.1))
  (numberTiles t0 slabs, numberTiles (t0 + slabs.length) staged)

/-- The cluster lists of the searches of the pass (R290). -/
def State.startLists (s : State) : State :=
  let put := fun (k : Cluster × Nat) =>
    { k.1 with lists := (s.sweep.runs.filter (fun r => r.kind == 0 && !r.finished &&
      (clustersOf s.sweep.plan.copies r.shelf (r.col / 64)).contains k.2)).map (fun r => ⟨r.cid, [], [], none⟩) }
  s.sweepMap (fun w => { w with clusters := (w.clusters.zip (List.range 8)).map put })

/-- The sweep phase begins: the tiles of every shelf that a search or a projection rides, and the lists of the searches; the storage of the
operands that have loaded is free (R405). -/
def State.beginSweep (s : State) : State :=
  let its := s.items.filter (fun i => i.search || i.project)
  let s := s.each (itemShelves its) (fun s h =>
    let ts := s.shelfTiles (itemsOf its h) h s.sweep.nextTid
    let s := s.sweepMap (fun w => { w with work := w.work ++ ts.1, nextTid := w.nextTid + ts.1.length + ts.2.length })
    s.queueMap 18 (fun q => { q with todo := q.todo ++ ts.2 }))
  let s := s.queueMap 18 (fun q => TileQ.marked { q with last := true })
  let s := s.startLists.loadBanks.restEngines.hostMap (fun h => { h with cmds := updAll (fun c => c.stage == .admitted) (fun c => { c with opRoom := 0 }) h.cmds })
  s.clkMap (fun k => { k with phase := .sweep })

/-- ADMISSION_WINDOW_END (R52, R55, R62, R389, R795): the window ends, the plan is frozen whatever happened, and the sweep starts; with an empty
plan the background window opens. -/
def State.windowEnds (s : State) : State :=
  if !s.live || s.clk.phase != .admission then s
  else
    let s := s.advance s.windowEnd
    let s := if s.clk.planFrozen then s else if s.plansItself then s.planLate else s.clkMap (fun k => { k with planFrozen := true })
    let s := s.each (s.host.fns.filter (fun f => f.enabled && s.rdw hstFctrlBeatInt f.seat 0 == 1)) (fun s f => s.raise f.seat 9)
    if s.sweep.plan.ids = [] then s.openBackground.clkMap (fun k => { k with phase := .tail })
    else s.beginSweep

end Sys2Proof.Machine
end

