-- ==== Sys2Proof/Machine/Intake.lean ====
section
/-!
DEFINITION. Intake (chapter 10, sections 1, 2, 3 and 7): the checks of R406 in order, the replay window, the ranges and alignments of
every parameter block, the reads of step 12 and the table slots of step 13.
-/
namespace Sys2Proof.Machine

/-! ## Parameter blocks (step 11 of R406) -/

/-- The bytes of a range are 0. -/
def zeroAt (p : Bytes) (off n : Nat) : Bool := (slice p off n).all (fun b => b == 0)

/-- A filter block that R128 accepts. -/
def filterOk (f : Bytes) : Bool :=
  decide (field f 24 1 ≤ 48) && decide (field f 25 1 < 2) && (field f 25 1 == 0 || decide (field f 26 2 ≤ field f 28 2)) && zeroAt f 30 2

/-- An FP32 word that is neither an infinity nor a NaN. -/
def f32Finite (v : Nat) : Bool := v / 2 ^ 23 % 256 != 255

/-- A score-step block and its tensor that R305 accepts. -/
def stepOk (step tensor : Bytes) : Bool :=
  let bop := field step 0 1
  let wop := field step 1 1
  let n := field step 4 2
  decide (bop ≤ 2) && decide (wop ≤ 2) && decide (field step 2 1 ≤ 56) && zeroAt step 3 1 && zeroAt step 6 2 && zeroAt step 12 4 &&
  (if bop = 0 then n == 0 else decide (1 ≤ n ∧ n ≤ 256)) && (wop == 0 || f32Finite (field step 8 4)) &&
  (bop == 0 || (List.range n).all (fun i => f32Finite (field tensor (4 * i) 4)))

/-- Operands inline or out of line as R415 and R418 lay them out: `n` bytes of them. -/
def operandsOk (op : Nat) (p : Bytes) (n : Nat) : Bool :=
  field p 32 4 == n && (if outOfLine op p then field p 24 8 % 64 == 0 else zeroAt p 24 8 && zeroAt p 36 4)

/-- The parameter block of a SEARCH or SEARCH_FUSED on a shelf (R260, R299, R305, R314, R415 to R417). -/
def searchOk (c : Cmd) (h : Shelf) : Bool :=
  let p := c.param
  let code := h.sweepKind == 1 || h.sweepKind == 2
  decide (1 ≤ c.k ∧ c.k ≤ 1024 ∧ c.k ≤ c.cand ∧ c.cand ≤ 4096) && decide (c.sopt < 8) && (!c.compact || h.voiced) && zeroAt p 5 3 &&
  bufOk p 8 (c.recordBytes h) && operandsOk c.opcode p h.operandBytes && (if code then field p 40 8 % 64 == 0 else zeroAt p 40 8) &&
  zeroAt p 52 12 && filterOk c.filter && (if c.fused then stepOk c.step c.tensor else zeroAt p 96 16) && zeroAt p 112 16

/-- Bytes of the probes of a projection, and none for the other kinds (R418). -/
def Cmd.probeBytes (c : Cmd) (h : Shelf) : Nat := if c.statsKind = 4 then c.probes * roundUp (vecBytes h.elemFormat h.dim) 4 else 0

/-- The parameter block of a STATS on a shelf (R312, R314, R418). -/
def statsOk (c : Cmd) (h : Shelf) : Bool :=
  let p := c.param
  (match c.statsKind with | 1 => true | 2 => h.elemFormat != 0xFF | 3 => h.sweepKind == 0 | 4 => h.fullPlace == 1 | _ => false) &&
  (if c.statsKind = 4 then decide (1 ≤ c.probes ∧ c.probes ≤ 64) else c.probes == 0) && (c.sopt == 0 || c.sopt == 4) && zeroAt p 3 5 &&
  bufOk p 8 (c.recordBytes h) && operandsOk 0x18 p (c.probeBytes h) && zeroAt p 40 24

/-- The parameter block of a GET_BY_ID on a shelf (R424). -/
def pointOk (p : Bytes) (h : Shelf) : Bool :=
  let want := field p 6 1
  decide (want < 4) && zeroAt p 7 1 && (!want.testBit 1 || h.fullPlace == 1) &&
  bufOk p 8 (32 + (if want.testBit 0 then h.w else 0) + (if want.testBit 1 then h.vecPad else 0))

/-- The parameter block of an INSERT or UPSERT on a shelf (R410, R419, R420). -/
def batchOk (c : Cmd) (h : Shelf) : Bool :=
  decide (1 ≤ c.batch ∧ c.batch ≤ 4096) && zeroAt c.param 2 2 && c.dataLen == c.batch * h.dataRec && decide (c.dataLen ≤ 4194304) &&
  c.dataAddr % 64 == 0 && zeroAt c.param 20 4 && c.noticeAddr % 16 == 0

/-- The parameter block of a DELETE (R421, R422). -/
def deleteOk (c : Cmd) : Bool :=
  decide (1 ≤ c.batch ∧ c.batch ≤ 504) && zeroAt c.param 2 6 && (List.range c.batch).all (fun i => zeroAt c.param (14 + 8 * i) 2) &&
  !hasDup c.deleteIds

/-- The parameter block of a MEASURE_CONFIG taken in measure `n` (R40, R49, R56, R67, R68, R425, R428). -/
def measureOk (p : Bytes) (n : Nat) : Bool :=
  let mask := field p 20 4
  let on := fun (i : Nat) (ok : Bool) => !mask.testBit i || ok
  later (field p 0 4) (measureAdd n 1) && decide (mask < 1024) && decide (field p 11 1 < 16) && zeroAt p 24 8 &&
  on 0 (decide (64000000 ≤ field p 4 4 ∧ field p 4 4 ≤ 1280000000)) && on 1 (decide (20 ≤ field p 8 1 ∧ field p 8 1 ≤ 200)) &&
  on 2 (decide (10 ≤ field p 9 1 ∧ field p 9 1 ≤ 200)) && on 3 (decide (field p 10 1 ≤ 15)) && on 7 (decide (field p 12 4 < 2 ^ 24)) &&
  on 8 (decide (1 ≤ field p 16 2 ∧ field p 16 2 ≤ 1023)) && on 9 (decide (200 ≤ field p 18 2 ∧ field p 18 2 ≤ 20000))

/-- Entries of a CONFIG_READ and of a CONFIG_WRITE (R427). -/
def readOffsets (p : Bytes) : List Nat := (List.range (field p 0 2)).map (fun i => field p (24 + 4 * i) 4)
def writeEntries (p : Bytes) : List (Nat × Nat × Nat) :=
  (List.range (field p 0 2)).map (fun i => (field p (8 + 16 * i) 4, field p (12 + 16 * i) 4, field p (16 + 16 * i) 4))

/-- Units of MAP_OUT and MAP_IN, by kind: engines, channels, strands (R425). -/
def unitCount (kind : Nat) : Nat := match kind with | 0 => 64 | 1 => 24 | 2 => 64 | _ => 0

/-- Values of a counter group (R829): none for a group that is not listed. -/
def State.groupSize (s : State) (g : Nat) : Option Nat :=
  match g with
  | 0x0001 => some 12 | 0x0002 => some 706 | 0x0003 => some 100 | 0x0004 => some 39 | 0x0005 => some 22 | 0x0006 => some 99
  | 0x0007 => some 322 | 0x0008 => some 13 | 0x0009 => some 17 | 0x000A => some 69 | 0x000B => some 512
  | _ => if 0x100 ≤ g ∧ g < 0x120 then
      some (4 * (min 64 (((s.pwr.traces.find? (fun t => t.1 == g - 0x100)).map (fun t => t.2.length)).getD 0)))
    else none

/-- The parameter block of a WEAVE_ADMIN (R650). -/
def adminOk (p : Bytes) : Bool :=
  let op := field p 0 1
  let used : List (Nat × Nat) := match op with | 1 => [(8, 16)] | 2 => [(8, 16)] | 3 => [(4, 2)] | 4 => [(4, 2)] | 5 => [(4, 2), (8, 16), (24, 16)] | 6 => [(4, 2)] | _ => [(8, 16)]
  decide (1 ≤ op ∧ op ≤ 7) && (List.range 63).all (fun i => used.any (fun u => decide (u.1 ≤ i + 1 ∧ i + 1 < u.1 + u.2)) || zeroAt p (i + 1) 1)

/-- Step 11 of R406: the status of a command whose parameter block fails a check. -/
def State.step11 (s : State) (c : Cmd) : Nat :=
  let p := c.param
  let h := s.shelfOf? c.shelf
  let on := fun (f : Shelf → Bool) => match h with | some h => f h | none => false
  let ok : Bool := paramLen c.opcode p h == some p.length && (match c.opcode with
    | 0x02 => bufOk p 0 128
    | 0x04 => zeroAt p 9 7
    | 0x06 => decide (field p 0 2 ≤ 64) && field p 0 2 != c.seat && s.claimOk (field p 0 2) && zeroAt p 2 6
    | 0x10 | 0x11 => on (searchOk c)
    | 0x12 => on (pointOk p)
    | 0x18 => on (statsOk c)
    | 0x20 | 0x22 => on (batchOk c)
    | 0x21 => deleteOk c
    | 0x23 => decide (field p 0 1 ≤ 1) && zeroAt p 1 7
    | 0x28 =>
      let n := shelfOfParam c.shelf c.seat p
      !shelfBad n && h.isNone && (s.wshelf? c.shelf).isNone && zeroAt p 52 12 &&
      (if s.inWeave then decide (n.replicas < s.shardMembers.length) else n.replicas == 0)
    | 0x2A => decide (field p 0 2 ≤ 64) && decide (field p 2 1 < 4) && zeroAt p 3 5
    | 0x30 => decide (1 ≤ field p 0 2 ∧ field p 0 2 ≤ 256) && zeroAt p 2 6 && bufOk p 8 (4 * field p 0 2) &&
        (readOffsets p).all (fun o => o % 4 == 0 && decide (o < 0x1000000))
    | 0x31 => decide (1 ≤ field p 0 2 ∧ field p 0 2 ≤ 253) && zeroAt p 2 6 &&
        (List.range (field p 0 2)).all (fun i => zeroAt p (20 + 16 * i) 4) && (writeEntries p).all (fun e => e.1 % 4 == 0 && assigned e.1)
    | 0x38 => measureOk p s.measure
    | 0x40 => decide (field p 16 1 ≤ 2) && field p 16 1 != s.pwr.boot.active && decide (64 ≤ field p 8 4 ∧ field p 8 4 ≤ 16777216) &&
        field p 0 8 % 64 == 0 && zeroAt p 17 7
    | 0x41 => bufOk p 0 64
    | 0x48 => zeroAt p 2 6 && (match s.groupSize (field p 0 2) with | some n => bufOk p 8 (32 + 8 * n) | none => false)
    | 0x50 => decide (field p 0 1 ≤ 7) && decide (1 ≤ field p 1 1 ∧ field p 1 1 ≤ 3) && zeroAt p 2 6
    | 0x58 => adminOk p
    | 0x60 | 0x61 =>
      let i := field p 2 2
      decide (i < unitCount (field p 0 1)) && zeroAt p 1 1 && zeroAt p 4 4 &&
      (c.opcode == 0x61 || field p 0 1 != 1 || decide (12 ≤ (s.wanted (s.rd gdmMapoutChannels ||| 2 ^ i)).length))
    | _ => true)
  if ok then stOk else stBadParam

/-! ## Counter groups (R827 to R829) -/

/-- A register word of the snapshot. -/
def State.snapWord (s : State) (off : Nat) : Nat :=
  sumN ((fieldsAt off).map (fun p => regGet p.1 0 p.2 s.snap * 2 ^ p.1.lo))

/-- A seat meter of the snapshot as a function may read it (R500). -/
def State.snapMeter (s : State) (fn t : Nat) : Nat :=
  if s.mayMeter fn t then regGet ownMeterLoNj 0 t s.snap + 2 ^ 32 * regGet ownMeterHiNj 0 t s.snap else 0

/-- Registers of indices 0 to `n - 1`, each index with the registers it lists. -/
def indexed (n : Nat) (f : Nat → List Nat) : List Nat := (List.range n).flatMap f

/-- The register words of a group of the snapshot (R829). -/
def groupOffsets (g : Nat) : List Nat :=
  match g with
  | 0x0001 => [0x2020, 0x2024, 0x2018, 0x201C] ++ indexed 8 (fun i => [0x70000 + 4 * i])
  | 0x0002 => indexed 64 (fun e => [0x3100 + 4 * e, 0x3200 + 4 * e, 0x3300 + 4 * e] ++ (List.range 8).map (fun i => 0x5000 + 32 * e + 4 * i)) ++
      [swpPassMaxCc.off, swpPassEstCc.off]
  | 0x0003 => indexed 32 (fun q => [0x5880 + 4 * q, 0x5900 + 4 * q, 0x5980 + 4 * q]) ++ [0x5A00, 0x5A04, 0x5A08, 0x5A0C]
  | 0x0004 => indexed 7 (fun i => [0x4004 + 4 * i]) ++ indexed 16 (fun u => [0x4100 + 4 * u, 0x4140 + 4 * u])
  | 0x0005 => indexed 6 (fun i => [0x4808 + 4 * i]) ++ indexed 8 (fun c => [0x4900 + 4 * c, 0x4920 + 4 * c])
  | 0x0006 => indexed 24 (fun h => (List.range 4).map (fun i => 0x10100 + 16 * h + 4 * i)) ++ [0x10008, 0x1000C, 0x10024]
  | 0x0007 => indexed 64 (fun i => (List.range 5).map (fun k => 0x20100 + 32 * i + 4 * k)) ++ [0x2002C, 0x20030]
  | 0x0008 => indexed 13 (fun i => [0x7004 + 4 * i])
  | _ => []

/-- The sixteen status codes in ascending order (R429). -/
def statusCodes : List Nat :=
  [stOk, stDuplicate, stPartial, stDeferred, stOverBudget, stNotOwner, stNoAccess, stBadParam, stBadFormat, stNoShelf, stCrc, stStoreFull,
   stStagingFull, stFlushed, stHwFault, stDegraded]

/-- The 64-bit words of a string of bytes. -/
def qwords (n : Nat) (b : Bytes) : List Nat := (List.range n).map (fun i => field b (8 * i) 8)

/-- The values of a counter group as a function reads them (R829). -/
def State.groupValues (s : State) (fn g : Nat) : List Nat :=
  match g with
  | 0x0009 =>
    statusCodes.map (fun st => ((s.pwr.statusSnap.find? (fun p => p.1 == fn && p.2.1 == st)).map (fun p => p.2.2)).getD 0) ++ [s.snapMeter fn fn]
  | 0x000A =>
    [regGet ownMeterModuleLoNj 0 0 s.snap + 2 ^ 32 * regGet ownMeterModuleHiNj 0 0 s.snap, s.snapWord 0x8030, s.snapWord 0x70028,
     s.snapWord 0x7002C] ++ (List.range 65).map (s.snapMeter fn)
  | 0x000B => qwords 512 (padTo 4096 (s.pwr.errLog.take 128).reverse.flatten)
  | _ =>
    if g < 0x100 then (groupOffsets g).map s.snapWord
    else
      let hs := (((s.pwr.traces.find? (fun t => t.1 == g - 0x100)).map (fun t => t.2)).getD []).take 64
      hs.flatMap (fun h => qwords 4 h)

/-- The snapshot a TELEMETRY_READ returns (R828): its measure and the values of the group, taken as the command passes intake. -/
def State.groupTaken (s : State) (c : Cmd) : Bytes :=
  let g := field c.param 0 2
  if c.opcode = 0x48 ∧ g < 0x000B then leBytes 4 (s.rd telSnapshotMeasure) ++ (s.groupValues c.seat g).flatMap (leBytes 8) else c.operands

/-! ## Steps 12 and 13 -/

/-- What step 12 reads for a command: address and length of its operands, and of its distance table. -/
def State.reads12 (s : State) (c : Cmd) : (Nat × Nat) × (Nat × Nat) :=
  let p := c.param
  let ops := if outOfLine c.opcode p then (field p 24 8, field p 32 4) else (0, 0)
  match c.opcode with
  | 0x10 | 0x11 => (ops, (field p 40 8, ((s.shelfOf? c.shelf).map Shelf.tableBytes).getD 0))
  | 0x18 => (ops, (0, 0))
  | 0x40 => ((field p 0 8, field p 8 4), (0, 0))
  | 0x58 => (if field p 0 1 = 1 ∨ field p 0 1 = 5 then (bufAddr p 8, bufLen p 8) else (0, 0), (0, 0))
  | _ => ((0, 0), (0, 0))

/-- The CRCs that the parts read at step 12 must have (R402); the map and the packet of a WEAVE_ADMIN carry none. -/
def Cmd.crcs12 (c : Cmd) : Option Nat × Option Nat :=
  match c.opcode with
  | 0x10 | 0x11 => (some (field c.param 36 4), some (field c.param 48 4))
  | 0x18 => (some (field c.param 36 4), none)
  | 0x40 => (some (field c.param 12 4), none)
  | _ => (none, none)

/-- The element values of the query vector are accepted (R172), and those of the probes of a projection. -/
def State.valuesOk (s : State) (c : Cmd) : Bool :=
  match s.shelfOf? c.shelf with
  | none => true
  | some h =>
    if isSearch c.opcode then !(h.hasValues && badVector h.elemFormat h.dim h.distance (c.queryVec h))
    else if c.opcode = 0x18 ∧ c.statsKind = 4 then
      (List.range c.probes).all (fun j => (pathImage h.elemFormat h.dim (c.probe h j)).isSome)
    else true

/-- A table slot that is free (R408, R409), of 32,768. -/
def State.tableSlot (s : State) : Option Nat :=
  let used := s.host.cmds.filterMap (fun c => c.tableSlot)
  if 32768 ≤ used.length then none else (List.range (used.length + 1)).find? (fun i => !used.contains i)

/-- Step 13 of R406, after which the command's own row may run: a product-code search takes a table slot, or completes with DEFERRED. -/
def State.step13 (s : State) (c : Cmd) : State :=
  let now := s.clk.now
  let taken := s.groupTaken c
  let ready := fun (slot : Option Nat) => s.cmdMap c.cid (fun x => { x with stage := .ready, fetchedAt := now, tableSlot := slot, operands := taken })
  if (s.reads12 c).2.2 = 0 then ready none
  else match s.tableSlot with
    | some i => ready (some i)
    | none => ((s.ev zcpEventTableFull).bump telDeferredCount).refuse c stDeferred

/-- Step 12 of R406 once every part is there: the values, then step 13. -/
def State.step12 (s : State) (c : Cmd) : State := if s.valuesOk c then s.step13 c else s.refuse c stBadFormat

/-- A CRC failure counted (R406). -/
def State.crcFailed (s : State) : State := (s.ev zcpEventCrc).inc zcpCrcErrorsCount

/-- The reads of step 12 issued for a command whose storage is reserved, or its wait for that storage begun (R405). -/
def State.reserveRoom (s : State) (c : Cmd) : State :=
  let r := s.reads12 c
  let n := r.1.2 + r.2.2
  if !(s.fn c.seat).canPost then s.refuse c stNoAccess
  else if 67108864 < s.intakeUsed + n then s.intakeWait
  else
    let s := s.cmdMap c.cid (fun x => { x with opRoom := n })
    let s := s.when (r.1.2 != 0) (fun s => s.readHost c.seat r.1.1 r.1.2)
    s.when (r.2.2 != 0) (fun s => s.readHost c.seat r.2.1 r.2.2)

/-- A read of a command's buffer failed: the error is logged (R410, R840). -/
def State.bufferLost (s : State) (c : Cmd) : State := s.logError 2 8 (s.portOf c.seat) 34 (c.seat + 65536 * c.tag)

/-- The parts of a command are read from host memory (R405, R408), or step 12 goes on at once where nothing is out of line. -/
def State.startReads (s : State) (c : Cmd) : State :=
  let r := s.reads12 c
  if r.1.2 + r.2.2 = 0 then s.step12 c else (s.cmdMap c.cid (fun x => { x with stage := .operands })).reserveRoom c

/-- The commands that wait for intake storage tried again, in the order they were fetched (R405; log entry 45). -/
def State.retryRooms (s : State) : State :=
  if s.host.intakeFrom = none ∨ !s.live then s
  else
    let s := s.each (s.host.cmds.filter Cmd.waitsRoom) State.reserveRoom
    if s.host.cmds.any Cmd.waitsRoom then s else s.countIntake false

/-! ## Steps 7 to 11 -/

/-- Opcodes that only the head rim of a weave takes from its hosts (R605). -/
def headOnly (op : Nat) : Bool :=
  [0x10, 0x11, 0x12, 0x18, 0x20, 0x21, 0x22, 0x23, 0x28, 0x29, 0x2A, 0x38, 0x58, 0x60, 0x61].contains op

/-- A seat's right on a shelf that an opcode needs (R413, R508): the owner holds both. -/
def State.hasRight (s : State) (c : Cmd) (h : Shelf) : Bool :=
  s.owner? == some c.seat || (if isPass c.opcode then h.searchers.contains c.seat else if c.opcode = 0x12 then h.readers.contains c.seat else true)

/-- Steps 9 to 13 of R406. -/
def State.step9 (s : State) (c : Cmd) : State :=
  let named := namesShelf c.opcode c.param && c.opcode != 0x28
  let h := s.shelfOf? c.shelf
  let lacks := match h with | some h => h.dropping | none => true
  if named && lacks then s.refuse c stNoShelf
  else if named && (match h with | some h => !s.hasRight c h | none => false) then s.refuse c stNoAccess
  else
    let st := s.step11 c
    if st ≠ stOk then s.refuse c st
    else
      let ops := if isPass c.opcode ∧ !outOfLine c.opcode c.param then c.param.drop (inlineAt c.opcode c.param) else c.operands
      let c := { c with operands := ops }
      (s.cmdMap c.cid (fun x => { x with operands := ops })).startReads c

/-- Intake from step 7 of R406 on. -/
def State.step7 (s : State) (c : Cmd) : State :=
  if (ownerOnly c.opcode && s.owner? != some c.seat) || (s.inWeave && !s.isHead && headOnly c.opcode) then s.refuse c stNotOwner
  else if (isPass c.opcode || isMutation c.opcode) && !(s.inForce ownSeatCtrlSections c.seat).testBit c.cls then s.refuse c stNoAccess
  else s.step9 c

/-! ## Steps 1 to 6 -/

/-- Step 5 of R406: opcode, class, flags, and the fields that must be 0. -/
def headerOk (h : Header) (param : Bytes) : Bool :=
  knownOp h.opcode && decide (h.cls ≤ 4) && flagsOk h.opcode h.flags && h.reserved == 0 &&
  (namesShelf h.opcode param || h.shelf == 0) && (isPass h.opcode || h.deadline == 0)

/-- Step 6 of R406 for a tracked command: the replay window (R445 to R447). -/
def State.step6 (s : State) (c : Cmd) : State :=
  let enter := fun (s : State) => s.hostMap (fun x => { x with
    window := ⟨c.seat, c.seq, c.opcode, c.shelf, .pending, c.cid, 0, 0, 0, 0, 0⟩ :: x.window })
  match s.host.window.find? (fun e => e.seat == c.seat && e.seq == c.seq) with
  | none => (enter s).step7 c
  | some e =>
    if e.opcode ≠ c.opcode ∨ e.shelf ≠ c.shelf then (s.ev zcpEventSeqClash).refuse c stBadParam
    else match e.state with
      | .pending => s.cmdMap c.cid (fun x => { x with stage := .duplicate })
      | .executed | .unposted => s.finishDuplicate c e
      | .never =>
        (enter (s.hostMap (fun x => { x with window := x.window.filter (fun w => !(w.seat == c.seat && w.seq == c.seq)) }))).step7 c

/-- The command of a packet fetched from a queue. -/
def State.packetCmd (s : State) (fn q at_ : Nat) (p : Bytes) : Cmd :=
  let h := headerOf p
  { cid := s.host.nextCid, seat := fn, queue := q, cpq := s.rdw hstSbqCtrlCpq fn q, tag := h.tag, seq := h.seq, opcode := h.opcode, cls := h.cls
    flags := h.flags, shelf := h.shelf, deadline := h.deadline, param := (p.take h.length).drop 32, operands := [], table := [], tableSlot := none
    stage := .operands, first := 0, last := 0, carried := false, queuedAt := at_, fetchedAt := s.clk.now, intakeAt := s.measure, target := 0
    waits := [], reserved := (0, 0), origin := 0, quiet := false, ref := 0, opRoom := 0
    spent := if isPass h.opcode then 0 else (32 + (p.take h.length).length) * s.coeff .hostByte (s.linkSpeed fn) }

/-- The checks of R406 on a packet whose flits are consumed. -/
def State.intake (s : State) (c : Cmd) (p : Bytes) : State :=
  let h := headerOf p
  let s := (s.addCmd c).clkMap (fun k => { k with fetched := true })
  if h.length < 32 ∨ 4096 < h.length then s.refuse c stBadParam
  else if packetCrc (p.take h.length) ≠ h.crc then s.crcFailed.refuse c stCrc
  else if h.version ≠ 3 then s.refuse c stBadFormat
  else if h.seat ≠ c.seat then s.refuse c stNoAccess
  else if !headerOk h c.param then s.refuse c stBadParam
  else
    let s := s.when (s.owner? == some c.seat) (fun s => s.wr ownLeaseLeftMeasures 0 (s.rd ownLeaseLength))
    if tracked c.opcode then (s.wr zcpSeqLastSequence c.seat c.seq).step6 c else s.step7 c

/-- PACKET_READ_COMPLETE (R395, R406): the read of the oldest packet being fetched from a queue returns the flits that were read for it, or
fails. None where the bytes are not those flits. -/
def State.packetRead (s : State) (fn q : Nat) (ok : Bool) (p : Bytes) (t : Nat) : Option State :=
  match (s.sbq fn q).reading with
  | [] => some s
  | n :: _ =>
    let s := (s.advance t).retryRooms
    if !s.live then some s
    else if !ok then some (s.packetError fn q)
    else if p.length ≠ 64 * n ∨ flitsOf (field p 12 4) ≠ n then none
    else
      let (s, at_) := s.consumeFlits fn q n
      some (s.intake (s.packetCmd fn q at_ p) p)

/-- OPERAND_READ_COMPLETE (R406 step 12, R408, R410): the out-of-line operands and the table of a command arrive, or a read fails. None where
the bytes are not as many as were read. -/
def State.operandRead (s : State) (cid : Nat) (ok : Bool) (operands table : Bytes) (t : Nat) : Option State :=
  let s := (s.advance t).retryRooms
  match s.cmd? cid with
  | none => some s
  | some c =>
    if c.stage ≠ .operands ∨ c.opRoom = 0 ∨ !s.live then some s
    else if !ok then some ((s.bufferLost c).refuse c stNoAccess)
    else
      let r := s.reads12 c
      let bad := fun (want : Option Nat) (b : Bytes) (n : Nat) => match want with | some w => n != 0 && crc32c b != w | none => false
      if operands.length ≠ r.1.2 ∨ table.length ≠ r.2.2 then none
      else if bad c.crcs12.1 operands r.1.2 || bad c.crcs12.2 table r.2.2 then some (s.crcFailed.refuse c stCrc)
      else
        let ops := if r.1.2 = 0 then c.operands else operands
        let c := { c with operands := ops, table := table }
        let read := if isPass c.opcode then 0 else operands.length * s.coeff .hostByte (s.linkSpeed c.seat)
        some (((s.cmdMap cid (fun x => { x with operands := ops, table := table })).spend cid read).step12 c)

/-- The opcodes whose effects keep the fetch order of their queue (R412): CONFIG_WRITE, MEASURE_CONFIG, MAP_OUT and MAP_IN. -/
def ordered (op : Nat) : Bool := op == 0x31 || op == 0x38 || op == 0x60 || op == 0x61

/-- An earlier command `d` of its queue holds a command back (R412): it has not been taken up, or its effect is still to come and the later one's would
come first. Two MEASURE_CONFIG each take effect at the downbeat they name (DEDUCED, log entry 88). -/
def Cmd.holds (c d : Cmd) : Bool :=
  d.origin == 0 && d.seat == c.seat && d.queue == c.queue && ordered d.opcode &&
  (d.stage == .ready || d.stage == .recheck || (d.stage == .timed && c.opcode != 0x38 && (c.opcode == 0x31 || d.opcode == 0x38)))

/-- No earlier command of its queue holds a command back (R412). -/
def State.inOrder (s : State) (c : Cmd) : Bool :=
  !ordered c.opcode || !(s.host.cmds.takeWhile (fun d => d.cid != c.cid)).any c.holds

/-- A command's own row: it runs once intake has passed it, in the order R412 keeps; a resend whose original was never executed goes through intake
from step 7 first (R446). -/
def State.row (s : State) (cid op : Nat) (f : State → Cmd → State) : State :=
  match s.cmd? cid with
  | none => s
  | some c =>
    if !s.live || c.opcode != op then s
    else match c.stage with
      | .ready => if s.inOrder c then f s c else s
      | .recheck => s.step7 c
      | _ => s

/-- The checks of steps 9 and 11 on the packet of a REMOTE, which its target runs as if it came from its owner (R606). -/
def State.checkRemote (s : State) (op : Nat) : State :=
  match s.host.cmds.find? (fun c => c.origin == 2 && c.ref == op) with
  | none => s
  | some c =>
    let lacks := match s.shelfOf? c.shelf with | some h => h.dropping | none => true
    if namesShelf c.opcode c.param && c.opcode != 0x28 && lacks then s.refuse c stNoShelf
    else
      let st := s.step11 c
      if st ≠ stOk then s.refuse c st else s.cmdMap c.cid (fun x => { x with operands := s.groupTaken c })

end Sys2Proof.Machine
end

