-- ==== Sys2Proof/Machine/Commands.lean ====
section
/-!
DEFINITION. The commands of the command protocol once intake has passed them (chapters 10, 12, 13, 15 and 19): queries, ownership, searches,
shelves, configuration, telemetry, FLUSH_QUEUE, and the map-out of engines, channels and strands.
-/
namespace Sys2Proof.Machine

/-! ## Queries -/

/-- An intake command that writes a reply record to the buffer at byte `off` of its parameter block, and completes with OK (R414). -/
def State.replyOk (s : State) (c : Cmd) (off : Nat) (bytes : Bytes) : State :=
  (s.reply c (bufAddr c.param off) bytes).completeOk c (bufAddr c.param off) 1

/-- The ownership byte of IDENTIFY (R426). -/
def State.ownerCode (s : State) (seat : Nat) : Nat :=
  match s.rd ownStateState with
  | 1 => if s.rd ownStateOwner = seat then 1 else 2
  | 2 => if s.rd ownStateSuccessor = seat then 3 else 4
  | _ => 0

/-- The IDENTIFY reply record (R426). -/
def State.identity (s : State) (seat : Nat) : Bytes :=
  let up := ((List.range 64).filter (fun i => s.strandUp i)).length
  let other := if s.pwr.boot.staged = 1 ∨ s.pwr.boot.staged = 3 then s.bankVersion s.inactive else 0
  padTo 128 (leBytes 1 64 ++ leBytes 1 Config.stepping.toNat ++ leBytes 1 3 ++ leBytes 1 (s.ownerCode seat) ++ leBytes 2 seat ++
    leBytes 1 (s.portOf seat) ++ zeros 1 ++ leBytes 2 (popcount 32 (s.rd swpActiveLoEngines) + popcount 32 (s.rd swpActiveHiEngines)) ++
    leBytes 1 s.active.length ++ leBytes 1 up ++ leBytes 2 16384 ++ leBytes 2 s.store.shelves.length ++ leBytes 8 Config.serial.toNat ++
    leBytes 8 (s.bankVersion s.pwr.boot.active) ++ leBytes 8 other ++ leBytes 4 s.measure ++ leBytes 4 (s.rd measPeriodTicks) ++
    leBytes 8 (shelfSpace s.active.length - s.allocated))

/-- IDENTIFY (R426). -/
def State.identify (s : State) (c : Cmd) : State := s.replyOk c 0 (s.identity c.seat)

/-- A list of registers read in entry order by a function (R427, R500). -/
def State.readList (s : State) (fn : Nat) : List Nat → State × Bytes
  | [] => (s, [])
  | o :: l =>
    let a := s.bar0Read fn o
    let b := a.1.readList fn l
    (b.1, leBytes 4 a.2 ++ b.2)

/-- CONFIG_READ (R427). -/
def State.configRead (s : State) (c : Cmd) : State :=
  let r := s.readList c.seat (readOffsets c.param)
  r.1.replyOk c 8 r.2

/-- One entry of a CONFIG_WRITE applied (R427). -/
def State.maskedWrite (s : State) (fn : Nat) (e : Nat × Nat × Nat) : State :=
  s.bar0Write fn e.1 ((e.2.1 &&& e.2.2) ||| (s.wordOf s.regs fn e.1 &&& (2 ^ 32 - 1 - e.2.2)))

/-- CONFIG_WRITE (R427): every entry in order; the warm reset that a write of RST_CTRL begins comes after the completion (R777). -/
def State.configWrite (s : State) (c : Cmd) : State :=
  let es := writeEntries c.param
  let s := (s.each (es.filter (fun e => e.1 != 0x41000)) (fun s e => s.maskedWrite c.seat e)).completeOk c 0 0
  s.each (es.filter (fun e => e.1 == 0x41000)) (fun s e => s.maskedWrite c.seat e)

/-! ## Telemetry (R827, R828) -/

/-- TELEMETRY_READ (R827, R828): a group of the snapshot as intake took it, or one read live. -/
def State.telemetryRead (s : State) (c : Cmd) : State :=
  let g := field c.param 0 2
  let values := if g < 0x000B then c.operands.drop 4 else (s.groupValues c.seat g).flatMap (leBytes 8)
  let head := leBytes 2 g ++ leBytes 2 (values.length / 8) ++ (if g < 0x000B then c.operands.take 4 else zeros 4) ++ leBytes 4 s.measure ++ zeros 20
  s.replyOk c 8 (head ++ values)

/-! ## Ownership -/

/-- CLAIM (R515): renewed, refused, or held for the election. -/
def State.claim (s : State) (c : Cmd) : State :=
  let hold := (s.cmdMap c.cid (fun x => { x with stage := .held })).hostMap (fun h => { h with
    claims := h.claims ++ [⟨c.cid, c.seat, field c.param 8 1, field c.param 0 8⟩] })
  if s.inWeave && !s.isHead then s.refuse c stNotOwner
  else match s.rd ownStateState with
    | 1 => if s.owner? = some c.seat then (s.wr ownLeaseLeftMeasures 0 (s.rd ownLeaseLength)).completeOk c 0 0 else s.refuse c stNotOwner
    | 2 => if s.rd ownStateSuccessor = c.seat then hold else s.refuse c stNotOwner
    | _ => if s.claimOk c.seat then hold else s.refuse c stNotOwner

/-- RELEASE (R525). -/
def State.release (s : State) (c : Cmd) : State :=
  (s.when (s.owner? == some c.seat) (fun s => s.endOwnership none true)).completeOk c 0 0

/-- HANDOVER (R526, R527). -/
def State.handover (s : State) (c : Cmd) : State :=
  (s.when (s.owner? == some c.seat) (fun s =>
    (s.endOwnership (some (field c.param 0 2)) true).hostMap (fun h => { h with offerAt := s.measure }))).completeOk c 0 0

/-! ## Searches and STATS (R71 to R73, R146, R620) -/

/-- The first measure a search may run in (R71, R146), and whether it missed the fetch limit. -/
def State.firstMeasure (s : State) (c : Cmd) : Nat × Bool :=
  let k := s.clk
  let limit := decide (c.fetchedAt ≤ k.lastDb + ns 12000)
  let late := (decide (c.queuedAt < k.lastDb) && !limit) || decide (c.queuedAt < k.prevDb ∧ k.prevDb + ns 12000 < c.fetchedAt)
  let now := decide (c.queuedAt < k.lastDb) && limit && !k.planFrozen && k.phase == .admission
  let f := if now then s.measure else measureAdd s.measure 1
  let born := ((s.shelfOf? c.shelf).map (fun h => if h.gen = 0 then measureAdd s.measure 1 else f)).getD f
  (if later born f then born else f, late)

/-- The last measure a search may run in (R73), by the defer_limit in force when its row runs (DESIGN CHOICE, log entry 72). -/
def State.lastMeasure (s : State) (c : Cmd) (f : Nat) : Nat :=
  if !c.deferOk then f
  else if c.deadline = 0 then measureAdd f (s.inForce measTailDeferLimit)
  else if later c.deadline (measureAdd f 255) then measureAdd f 255 else c.deadline

/-- SEARCH, SEARCH_FUSED and STATS become candidates for admission; a head rim fans them out first (R620). -/
def State.search (s : State) (c : Cmd) : State :=
  let f := s.firstMeasure c
  let s := s.when f.2 (fun s => (s.ev measEventFetchLate).bump telFetchLateCount)
  let c := { c with first := f.1, last := s.lastMeasure c f.1 }
  let s := s.cmdMap c.cid (fun x => { x with first := c.first, last := c.last, stage := .candidate })
  if s.isHead ∧ (s.wshelf? c.shelf).isSome then s.fanOut c else s

/-! ## Settles and shelves -/

/-- SETTLE (R477, R629). -/
def State.settle (s : State) (c : Cmd) : State := if s.isHead then s.weaveSettle c else s.settleBegin c

/-- SHELF_CREATE (R107, R146, R615). -/
def State.shelfCreate (s : State) (c : Cmd) : State :=
  if (s.shelfOf? c.shelf).isSome ∨ (s.wshelf? c.shelf).isSome then s.refuse c stBadParam
  else match s.makeShelf (shelfOfParam c.shelf c.seat c.param) with
    | none => s.refuse c stStoreFull
    | some s => if s.isHead ∧ s.others ≠ [] then (s.cmdMap c.cid (fun x => { x with stage := .remote })).spread c else s.completeOk c 0 0

/-- The seats that lose a right with a shelf: those in its sets, and the owner (R532). -/
def State.rightHolders (s : State) (h : Shelf) : List Nat :=
  (List.range 65).filter (fun t => h.searchers.contains t || h.readers.contains t || s.owner? == some t)

/-- SHELF_DROP (R147, R511, R532). -/
def State.shelfDrop (s : State) (c : Cmd) : State :=
  let told := ((s.shelfOf? c.shelf).map s.rightHolders).getD []
  let s := (s.dropShelf c.shelf).each told (fun s t => s.notice t 5)
  if s.isHead ∧ s.others ≠ [] then (s.cmdMap c.cid (fun x => { x with stage := .remote })).spread c else s.completeOk c 0 0

/-- SHELF_GRANT (R509, R532). -/
def State.shelfGrant (s : State) (c : Cmd) : State :=
  let t := field c.param 0 2
  let r := field c.param 2 1
  let old := ((s.shelfOf? c.shelf).map (fun h => bit (h.searchers.contains t) + 2 * bit (h.readers.contains t))).getD 0
  let s := (s.grantShelf c.shelf t r).when (old != r % 4) (fun s => s.notice t 5)
  s.completeOk c 0 0

/-! ## Settings, firmware -/

/-- MEASURE_CONFIG (R49, R613): the settings wait for their target measure, and a head rim sends them to its weave. -/
def State.measureConfig (s : State) (c : Cmd) : State :=
  let t := field c.param 0 4
  let s := s.cmdMap c.cid (fun x => { x with stage := .timed, target := t })
  s.when s.isHead (fun s => s.weaveMap (fun w => { w with settings := w.settings ++ [(t, slice c.param 4 20)] }))

/-- FW_QUERY (R699). -/
def State.fwAsk (s : State) (c : Cmd) : State := s.replyOk c 0 s.fwQuery

/-! ## FLUSH_QUEUE (R451 to R455) -/

/-- The posted flits of a queue discarded (R452); a packet being read, or posted in part, counts as cut. -/
def State.flushPosted (s : State) (fn q : Nat) : State :=
  let x := s.sbq fn q
  let read := x.reading.length
  let cut := read + (if x.partly then 1 else 0)
  let s := s.when (cut != 0) (fun s => ((s.unreserve fn q read).inc zcpFlushCutCount 0 cut).ev zcpEventFlushCut)
  let s := s.sbqMap fn q (fun x => { x with fetched := x.posted, bells := [], reading := [], partly := false })
  s.wrw hstSbqStatusFetch fn q x.tail

/-- A command that FLUSH_QUEUE withdraws (R453). -/
def Cmd.flushable (c : Cmd) : Bool :=
  (isPass c.opcode && (c.stage == .candidate || c.stage == .ready || c.stage == .remote)) ||
  ((isMutation c.opcode || c.opcode == 0x23) && c.stage != .operands && c.stage != .duplicate && c.stage != .recheck &&
    !(isMutation c.opcode && c.stage == .settling))

/-- A mutation's first round in the weave ended, its tentative batches dropped (R624). -/
def State.abortRound (s : State) (cid : Nat) : State :=
  s.each (s.weave.ops.filter (fun o => o.cid == cid)) (fun s o =>
    let s := s.when (o.kind == .prepare) (fun s => (s.decideTent o.id none).each o.sent (fun s p => s.sendCommit o.id p.1 false 0))
    s.endOp o.id)

/-- A command withdrawn by FLUSH_QUEUE (R453). -/
def State.flushOne (s : State) (c : Cmd) : State :=
  if isPass c.opcode then (s.weaveMap (fun w => { w with fans := w.fans.filter (fun f => f.cid != c.cid) })).refuse c stFlushed
  else (s.abortRound c.cid).withdraw c stFlushed

/-- FLUSH_QUEUE (R451 to R455). -/
def State.flushQueue (s : State) (c : Cmd) : State :=
  let q := field c.param 0 1
  let scope := field c.param 1 1
  let s := s.when (scope.testBit 0) (fun s => s.flushPosted c.seat q)
  let hit := if scope.testBit 1 then s.host.cmds.filter (fun x => x.seat == c.seat && x.queue == q && x.origin == 0 && x.flushable) else []
  (s.each hit State.flushOne).completeOk c 0 hit.length

/-! ## MAP_OUT and MAP_IN (R87, R214, R569, R574, R600) -/

/-- A unit's map-out bit written (R214, R569, R600). -/
def State.mapBit (s : State) (kind i : Nat) (out : Bool) : State :=
  let put := fun (v j : Nat) => if out then v ||| 2 ^ j else v &&& (2 ^ 64 - 1 - 2 ^ j)
  match kind with
  | 0 => if i < 32 then s.writeSwpMapout false (put (s.rd swpMapoutLoEngines) i) else s.writeSwpMapout true (put (s.rd swpMapoutHiEngines) (i - 32))
  | 1 => s.writeGdmMapout (put (s.rd gdmMapoutChannels) i)
  | _ => if i < 32 then s.wr wvMapoutLoStrands 0 (put (s.rd wvMapoutLoStrands) i) else s.wr wvMapoutHiStrands 0 (put (s.rd wvMapoutHiStrands) (i - 32))

/-- MAP_OUT and MAP_IN: the request, which takes effect at the next downbeat. A MAP_IN of a faulted channel has no effect (R569), unless
it is mapped out and below_min lets it train (R849). -/
def State.mapUnit (s : State) (c : Cmd) (out : Bool) : State :=
  let kind := field c.param 0 1
  let i := field c.param 2 2
  let trains := kind == 1 && !out && s.rd gdmStatusBelowMin == 1 && (s.rd gdmMapoutChannels).testBit i
  if kind = 1 ∧ !out ∧ (s.channel i).faulted ∧ !trains then s.refuse c stHwFault
  else
    let s := s.when trains (fun s => s.channelMap i (fun x => { x with trained := false, faulted := false }))
    let s := (s.mapBit kind i out).cmdMap c.cid (fun x => { x with stage := .timed, target := 0 })
    s.memMap (fun m => { m with pends := m.pends ++ [⟨c.cid, if kind = 1 ∧ !out then 3 else kind, i⟩] })

end Sys2Proof.Machine
end

