-- ==== Sys2Proof/Machine/Steps.lean ====
section
/-!
DEFINITION. What the steps of the command table are made of, beside the operations of the chapters: who may cause them, and what they bring
about together.
-/
namespace Sys2Proof.Machine

/-- The outcome of a step. -/
abbrev StepOut := Host.Outcome State Fault Refusal

/-- The outcome of an event that may be none of the hardware's: then the fault `illFormed`. -/
def given : Option State → StepOut
  | some s => .next s
  | none => .fault .illFormed

/-! ## Accesses of the host -/

/-- A BAR write of a function at an instant: it wakes a chip in Rest (R764), and has no effect where the chip does not answer. -/
def State.barWrite (s : State) (fn t : Nat) (f : State → State) : State := if s.hostAccess fn then f ((s.advance t).restWake) else s

/-- A write of a ring's control word by its function. -/
def State.ringWrite (s : State) (fn : Nat) (f : State → State) : State := if s.hostAccess fn then f s.restWake else s

/-- An MSI-X vector's mask cleared by a BAR write, or the Function Mask in configuration space. -/
def State.unmaskWrite (s : State) (fn : Nat) (vector : Option Nat) : State :=
  if s.hostAccess fn then (s.when vector.isSome State.restWake).msixUnmask fn vector else s

/-- PACKET_FETCH; a head rim that took over without being asked fetches from three measures after the loss on (R644). -/
def State.fetchPacket (s : State) (fn q len t : Nat) : State :=
  let early := s.isHead && (match s.weave.promo with
    | some p => !p.planned && decide ((s.measure + 2 ^ 32 - p.lossMeasure) % 2 ^ 32 < 3)
    | none => false)
  if early then s.advance t else (s.advance t).retryRooms.packetFetch fn q len t

/-- INSERT_DATA_COMPLETE (R437, R438): the data read of a granted batch returns, or fails. None where the bytes are not as many as were
read. -/
def State.dataArrive (s : State) (cid : Nat) (ok : Bool) (data : Bytes) (t : Nat) : Option State :=
  let s := s.advance t
  match s.cmd? cid with
  | none => some s
  | some c =>
    if !s.live || !isMutation c.opcode || c.stage != .granted then some s
    else if ok && data.length != c.dataLen then none
    else some ((s.when (!ok) (fun s => s.bufferLost c)).dataComplete c ok data).weavePrepares

/-- Lease expiry or offer lapse at the downbeat that is due (R522, R527): the first of what that downbeat does. -/
def State.ownershipDue (s : State) (t : Nat) (f : State → Nat → State) : State :=
  if s.live && s.clk.started && decide (s.clk.predicted ≤ t + ns 2000) then f (s.advance t) s.nextNumber else s

/-- A WEAVE_ADMIN command of one sub-operation (R650). -/
def State.adminRow (s : State) (cid sub : Nat) (f : State → Cmd → State) : State :=
  s.row cid 0x58 (fun s c => if field c.param 0 1 = sub then f s c else s)

/-! ## The pass and the store -/

/-- STREAM_START with the trace of the queue's descriptors (R829). -/
def State.runDescriptor (s : State) (header : Bytes) (body gather : List DWord) : State :=
  let q := 32 + field header 1 1
  let note := fun (l : List (Nat × List Bytes)) =>
    if l.any (fun t => t.1 == q) then updFirst (fun t => t.1 == q) (fun t => (t.1, (t.2 ++ [header]).take 64)) l else l ++ [(q, [header])]
  let s := s.when (s.clk.phase == .sweep) (fun s => s.pwrMap (fun p => { p with traces := note p.traces }))
  (s.streamStart header body gather).weaveRun

/-- A slab operation commits, within the background window (R139, R479, R490): the commits that waited for it go on, and a weave hears of what has landed. -/
def State.slabEnd (s : State) (op : SlabOp) (slot t : Nat) : State :=
  if s.live then
    let s := s.advance t
    if s.clk.bgOpen then ((s.slabCommit op slot).retryCommits).weaveLanded.weavePrepares else s
  else s

/-- GDDR_READ_RETURN (R559): of a request, or of a granule of the system area. -/
def State.granuleReturn (s : State) (system : Bool) (rid crc ecc t : Nat) : State :=
  if system then s.systemReturn rid crc ecc t
  else (s.readReturn rid crc ecc t).retryCommits.weavePrepares.weaveRun

/-! ## The weave -/

/-- STRAND_TRAINED, and the messages sent again over a downlink that has come up (R640); over an uplink that has come back the member asks to
rejoin (R642). -/
def State.trainingEnd (s : State) (i : Nat) (r : Trained) (t : Nat) : State :=
  let n := s.strandTrained i r t
  n.when (!s.strandUp i && n.strandUp i && n.rd wvStrandUse i == 2) (fun n => n.resend (n.rd wvStrandPeer i))
    |>.when (n.inWeave && !n.isHead && i == n.uplink && !s.strandUp i && n.strandUp i) State.askRejoin

/-- A REST message, which a chip in Rest takes too (R652, R764). -/
def State.restMsg (s : State) (i : Nat) : State := s.withMsgIf s.answers i 0x06 State.onRest

/-! ## Pins and the module -/

/-- A write of a pin register by the MGC, a conductor, or a function, which must be the owner's (R499, R730). -/
def State.pinWrite (s : State) (src : PinSrc) (fn : Nat) (f : State → State) : State :=
  match src with
  | .mgc => if s.pwr.aux && s.pwr.mgc then f s else s
  | .conductors => if s.live then f s else s
  | .host =>
    if !s.hostAccess fn then s
    else if s.owner? = some fn then f s.restWake else s.restWake.nonOwner fn

/-- PATTERN_MATCH (R736 to R738, R764): samples of the pins; a match that PWR_REST_CTRL.wake_pm names ends Rest. -/
def State.pinSamples (s : State) (mask levels n : Nat) : State :=
  if !s.pwr.aux then s
  else
    let r := s.pmRun mask levels n
    r.1.when (r.2 &&& r.1.rd pwrRestCtrlWakePm != 0) State.restWake

/-- XIP_WRITE (R712): no effect but an error. -/
def State.xipWrite (s : State) : State :=
  if s.pwr.mgc then (s.ev spmEventXipWrite).emit (.xip [] true) else s

/-- SPS_UNKNOWN_COMMAND (R722). None where the code is a listed one. -/
def State.unknownCommand (s : State) (code : Nat) (body : Bytes) (crc : Byte) (t : Nat) : Option State :=
  if (tcLength code).isSome then none else some (s.spsFrame code body crc t)

end Sys2Proof.Machine
end

