-- ==== Sys2Proof/Machine/ExecHost.lean ====
section
/-!
DEFINITION. The registers and the host link: the meaning of each command, as one definition.
-/
namespace Sys2Proof.Machine

/-- REGISTER_WRITE (R30): a host 32-bit write to a BAR0 register that has no row of its own takes effect under the register's access code. A wider
write acts as its words in ascending order (R27). -/
def execRegisterWrite (fn : Seat) (word : BitVec 22) (v : HostData) (s : State) : StepOut :=
  .next (s.writeWords fn.val (4 * word.toNat) (v.first :: v.more))

/-- MALFORMED_ACCESS (R27): a host BAR0 write narrower than 32 bits completes without effect, is counted in HST_MALFORMED and sets
HST_EVENT.malformed. -/
def execMalformedAccess (fn : Seat) (s : State) : StepOut :=
  .next (s.malformed fn.val)

/-- METER_READ (R536): a read of a meter's low word latches the matching high word for the reading function, and returns 0 to a function
that is neither the seat nor the owner. Every other read by the host is answered here too (R27, R365; log entry 85). -/
def execMeterRead (fn : Seat) (what : HostRead) (s : State) : StepOut :=
  .next (s.hostRead fn.val what)

/-- SQ_TAIL_DOORBELL (R383): a tail doorbell write is checked and reaches the admission queue in 38 ns. -/
def execSqTailDoorbell (fn : Seat) (queue : Fin 8) (wide : Bool) (v : Word) (t : Nat) (s : State) : StepOut :=
  .next (s.barWrite fn.val t (fun s => s.tailBell fn.val queue.val wide v.toNat t))

/-- CQ_HEAD_DOORBELL (R380): a head doorbell write returns consumed completion records to the device. -/
def execCqHeadDoorbell (fn : Seat) (queue : Fin 8) (wide : Bool) (v : Word) (t : Nat) (s : State) : StepOut :=
  .next (s.barWrite fn.val t (fun s => s.headBell fn.val queue.val wide v.toNat t))

/-- PACKET_FETCH (R376): the device reserves a completion record and intake storage and issues a packet read. -/
def execPacketFetch (fn : Seat) (queue : Fin 8) (length t : Nat) (s : State) : StepOut :=
  .next (s.fetchPacket fn.val queue.val length t)

/-- PACKET_READ_COMPLETE (R406): the last byte of a packet arrives, and intake checks it in order. -/
def execPacketReadComplete (fn : Seat) (queue : Fin 8) (ok : Bool) (packet : List Byte) (t : Nat) (s : State) : StepOut :=
  given (s.packetRead fn.val queue.val ok packet t)

/-- OPERAND_READ_COMPLETE (R408): the out-of-line operands and tables of a command arrive and are checked at step 12. -/
def execOperandReadComplete (cid : Nat) (ok : Bool) (operands table : List Byte) (t : Nat) (s : State) : StepOut :=
  given (s.operandRead cid ok operands table t)

/-- SBQ_ENABLE (R377): writing enable = 1 to a submission queue checks and enables it. -/
def execSbqEnable (fn : Seat) (queue : Fin 8) (sizeLog2 : BitVec 5) (cpq : Fin 8) (s : State) : StepOut :=
  .next (s.ringWrite fn.val (fun s => s.sbqEnable fn.val queue.val sizeLog2.toNat cpq.val))

/-- SBQ_DELETE (R378): writing enable = 0 to a submission queue stops fetching and discards unfetched packets. -/
def execSbqDelete (fn : Seat) (queue : Fin 8) (sizeLog2 : BitVec 5) (cpq : Fin 8) (s : State) : StepOut :=
  .next (s.ringWrite fn.val (fun s => s.sbqDelete fn.val queue.val sizeLog2.toNat cpq.val))

/-- CPQ_ENABLE (R377): writing enable = 1 to a completion queue checks and enables it. -/
def execCpqEnable (fn : Seat) (queue : Fin 8) (sizeLog2 : BitVec 5) (vector : Fin 16) (intEn : Bool) (s : State) : StepOut :=
  .next (s.ringWrite fn.val (fun s => s.cpqEnable fn.val queue.val sizeLog2.toNat vector.val (bit intEn)))

/-- CPQ_DELETE (R379): writing enable = 0 to a completion queue stops it, or is refused while a bound submission queue is enabled. -/
def execCpqDelete (fn : Seat) (queue : Fin 8) (sizeLog2 : BitVec 5) (vector : Fin 16) (intEn : Bool) (s : State) : StepOut :=
  .next (s.ringWrite fn.val (fun s => s.cpqDelete fn.val queue.val sizeLog2.toNat vector.val (bit intEn)))

/-- MSIX_UNMASK (R391): clearing an MSI-X mask sends the messages that are pending. -/
def execMsixUnmask (fn : Seat) (vector : Option (Fin 16)) (s : State) : StepOut :=
  .next (s.unmaskWrite fn.val (vector.map Fin.val))

/-- FLR (R392): a Function Level Reset applies SRST to its seat, and for a PF also to its VF seats. -/
def execFlr (fn : Seat) (s : State) : StepOut :=
  .next (s.when s.answers (fun s => s.flr fn.val))

/-- VF_ENABLE_CLEAR (R392): clearing VF Enable applies SRST to every VF seat of the port. -/
def execVfEnableClear (port : Fin 2) (s : State) : StepOut :=
  .next (s.when s.answers (fun s => s.vfClear port.val))

/-- HOT_RESET (R392): a hot reset is a WRST in x16 mode, or an SRST of the port's seats in x8x8 mode. -/
def execHotReset (port : Fin 2) (s : State) : StepOut :=
  .next (s.hotReset port.val)

/-- DL_DOWN (R392): a data-link-down event acts as a hot reset of that port. -/
def execDlDown (port : Fin 2) (s : State) : StepOut :=
  .next (s.hotReset port.val)

/-- PERST_ASSERT (R773): an assertion of PERST_N acts as a WRST in x16 mode, or as the port's hot reset. -/
def execPerstAssert (port : Fin 2) (s : State) : StepOut :=
  .next (s.perstLow port.val)

/-- BUS_MASTER_DISABLE (R394): clearing Bus Master Enable stops requests under that identity and discards its postings. -/
def execBusMasterDisable (fn : Seat) (s : State) : StepOut :=
  .next (s.bmeClear fn.val)

/-- BUS_MASTER_ENABLE (R287): setting Bus Master Enable lets far reads and placement of the function's shelves resume, under
the Device Control values the host has programmed (R358, R360, R361, R398). -/
def execBusMasterEnable (fn : EnabledFn) (s : State) : StepOut :=
  .next (s.when s.answers (fun s => s.bmeSet fn.seat.val fn.control))

/-- D3HOT_ENTRY (R399): a function in D3hot fetches no packet, and its postings are discarded. -/
def execD3hotEntry (fn : Seat) (s : State) : StepOut :=
  .next (s.d3hot fn.val true)

/-- LINK_RETRAIN (R358, R788): a host-link port trains, in a core start too, and HST_EVENT.retrain is set where it was up. -/
def execLinkRetrain (port : Fin 2) (width speed : Nat) (flit : Bool) (s : State) : StepOut :=
  .next (s.when s.linkRuns (fun s => s.linkRetrain port.val width speed flit))

/-- FAR_READ_COMPLETE (R278): a far record read completes, or fails or times out and its candidate is lost. -/
def execFarReadComplete (rid : Nat) (ok : Bool) (t : Nat) (s : State) : StepOut :=
  .next (s.farReturn rid ok t).retryCommits.weavePrepares

/-- D3HOT_EXIT (R399): a function leaves D3hot for D0, so fetching, postings, far reads and placement of its shelves resume. -/
def execD3hotExit (fn : Seat) (s : State) : StepOut :=
  .next (s.d3hot fn.val false)

/-- PERST_DEASSERT (R788): PERST_N rises, and host-link training of the port begins. -/
def execPerstDeassert (port : Fin 2) (s : State) : StepOut :=
  .next (s.perstHigh port.val)

end Sys2Proof.Machine
end

