-- ==== Sys2Proof/Machine/ExecMemory.lean ====
section
/-!
DEFINITION. Graphics memory: the meaning of each command, as one definition.
-/
namespace Sys2Proof.Machine

/-- GDDR_READ_RETURN (R559): a granule read returns from a channel and is checked, with correction or loss. -/
def execGddrReadReturn (system : Bool) (rid : Nat) (crc : Fin 5) (ecc : Fin 3) (t : Nat) (s : State) : StepOut :=
  .next (s.granuleReturn system rid crc.val ecc.val t)

/-- PER_BANK_REFRESH (R564): the controller issues a per-bank refresh at its average rate. -/
def execPerBankRefresh (channel : Fin 24) (bank : Fin 16) (postpone : Bool) (s : State) : StepOut :=
  .next (s.perBankRefresh channel.val bank.val postpone)

/-- ALL_BANK_REFRESH (R565): in the background window the controller issues an all-bank refresh to catch up on postponed refreshes. -/
def execAllBankRefresh (channel : Fin 24) (t : Nat) (s : State) : StepOut :=
  .next (s.allBankRefresh channel.val t)

/-- SCRUB (R561): scrub reads a granule in the background window and writes back a corrected single-symbol error. -/
def execScrub (channel : Fin 24) (granule : Nat) (crc : Fin 5) (ecc : Fin 3) (t : Nat) (s : State) : StepOut :=
  .next (s.scrub channel.val granule crc.val ecc.val t)

/-- RETRAIN_STEP (R567): a due retraining step of a channel runs in a background window. -/
def execRetrainStep (channel : Fin 24) (ok : Bool) (t : Nat) (s : State) : StepOut :=
  .next (s.retrainStep channel.val ok t)

/-- CHANNEL_FAULT (R563): a channel faults, accepts no further request and is auto-mapped out when enabled. -/
def execChannelFault (channel : Fin 24) (device : Fin 2) (s : State) : StepOut :=
  .next (s.deviceSilent channel.val device.val)

/-- RELAY_END (R573): the re-lay of the system area ends, fetching resumes, and MAP_OUT or MAP_IN completes. -/
def execRelayEnd (t : Nat) (s : State) : StepOut :=
  .next (s.advance t).relayEnd

/-- CHANNEL_TRAINING_END (R849): the full training of a channel mapped in while below_min ends, letting the layout form or completing the
MAP_IN with HW_FAULT. -/
def execChannelTrainingEnd (channel : Fin 24) (ok : Bool) (t : Nat) (s : State) : StepOut :=
  .next ((s.advance t).channelTrained channel.val ok)

end Sys2Proof.Machine
end

