-- ==== Sys2Proof/Machine/ExecModule.lean ====
section
/-!
DEFINITION. Serial ports, flash, pins, the mailbox and the test access port: the meaning of each command, as one definition.
-/
namespace Sys2Proof.Machine

/-- TC_IDENT (R687): TC_IDENT returns module identity. -/
def execTcIdent (body : List Byte) (crc : Byte) (t : Nat) (s : State) : StepOut :=
  .next (s.spsFrame 0x01 body crc t)

/-- TC_STATUS (R687): TC_STATUS returns status, clears the tray's event copy and releases ALERT_N. -/
def execTcStatus (body : List Byte) (crc : Byte) (t : Nat) (s : State) : StepOut :=
  .next (s.spsFrame 0x02 body crc t)

/-- TC_TELEM (R700): TC_TELEM returns the telemetry block. -/
def execTcTelem (body : List Byte) (crc : Byte) (t : Nat) (s : State) : StepOut :=
  .next (s.spsFrame 0x03 body crc t)

/-- TC_EFUSE_REARM (R664): TC_EFUSE_REARM re-arms a tripped e-fuse. -/
def execTcEfuseRearm (body : List Byte) (crc : Byte) (t : Nat) (s : State) : StepOut :=
  .next (s.spsFrame 0x10 body crc t)

/-- TC_FW_OPEN (R695): TC_FW_OPEN opens a staging session and erases the inactive bank. -/
def execTcFwOpen (body : List Byte) (crc : Byte) (t : Nat) (s : State) : StepOut :=
  .next (s.spsFrame 0x20 body crc t)

/-- TC_FW_WRITE (R726): TC_FW_WRITE accepts a 256-byte chunk into a buffer. -/
def execTcFwWrite (body : List Byte) (crc : Byte) (t : Nat) (s : State) : StepOut :=
  .next (s.spsFrame 0x21 body crc t)

/-- TC_FW_CLOSE (R695): TC_FW_CLOSE verifies the image and closes the session. -/
def execTcFwClose (body : List Byte) (crc : Byte) (t : Nat) (s : State) : StepOut :=
  .next (s.spsFrame 0x22 body crc t)

/-- TC_FW_READ (R687): TC_FW_READ returns 256 bytes of a bank. -/
def execTcFwRead (body : List Byte) (crc : Byte) (t : Nat) (s : State) : StepOut :=
  .next (s.spsFrame 0x23 body crc t)

/-- TC_LOG_READ (R687): TC_LOG_READ returns one event log record. -/
def execTcLogRead (body : List Byte) (crc : Byte) (t : Nat) (s : State) : StepOut :=
  .next (s.spsFrame 0x30 body crc t)

/-- TC_FAULT_READ (R687): TC_FAULT_READ returns the fault record. -/
def execTcFaultRead (body : List Byte) (crc : Byte) (t : Nat) (s : State) : StepOut :=
  .next (s.spsFrame 0x31 body crc t)

/-- FW_CHUNK_PROGRAMMED (R725): a buffered firmware chunk finishes programming and frees its buffer. -/
def execFwChunkProgrammed (t : Nat) (s : State) : StepOut :=
  .next (s.chunkDone t)

/-- TC_FW_SESSION_TIMEOUT (R695): a session idle for 600 s ends without staging. -/
def execTcFwSessionTimeout (t : Nat) (s : State) : StepOut :=
  .next (s.sessionTimeout t)

/-- SPS_TRANSFER_CUT (R724): SPS_CS_N rises early, and the transfer is discarded or cut. -/
def execSpsTransferCut (bytes : List Byte) (t : Nat) (s : State) : StepOut :=
  .next (s.spsCut bytes t)

/-- XIP_READ (R714): an XIP read is served from the buffer or flash, suspending a program if needed. -/
def execXipRead (addr : Word) (waitNs t : Nat) (s : State) : StepOut :=
  .next (s.xipRead addr.toNat waitNs t)

/-- XIP_WRITE (R712): a write to the XIP window has no effect and returns an error. -/
def execXipWrite (_addr : Word) (s : State) : StepOut :=
  .next s.xipWrite

/-- XIP_RESUME (R714): 2 µs without a queued XIP read resumes the suspended operation. -/
def execXipResume (t : Nat) (s : State) : StepOut :=
  .next (s.xipResume t)

/-- FLASH_OP_DONE (R715): a flash program or erase completes, releasing reads held on its block. -/
def execFlashOpDone (t : Nat) (s : State) : StepOut :=
  .next (s.flashDone t)

/-- SPM_COMMAND_TRANSFER (R713): an MGC command transfer takes the flash bus. -/
def execSpmCommandTransfer (command : SpmCmd) (addr : Word) (data : List Byte) (t : Nat) (s : State) : StepOut :=
  .next (s.spmTransfer command addr.toNat data t)

/-- GPIO_SET (R729): a write of GPIO_SET sets GPIO_OUT bits. -/
def execGpioSet (source : PinSrc) (fn : Seat) (bits : BitVec 24) (s : State) : StepOut :=
  .next (s.pinWrite source fn.val (fun s => s.gpioSetBits bits.toNat))

/-- GPIO_CLR (R729): a write of GPIO_CLR clears GPIO_OUT bits. -/
def execGpioClr (source : PinSrc) (fn : Seat) (bits : BitVec 24) (s : State) : StepOut :=
  .next (s.pinWrite source fn.val (fun s => s.gpioClrBits bits.toNat))

/-- GPIO_TOG (R729): a write of GPIO_TOG inverts GPIO_OUT bits. -/
def execGpioTog (source : PinSrc) (fn : Seat) (bits : BitVec 24) (s : State) : StepOut :=
  .next (s.pinWrite source fn.val (fun s => s.gpioTogBits bits.toNat))

/-- GPIO_LOCK (R743): a GPIO_LOCK write advances the source's lock sequence and locks pins on the third key. -/
def execGpioLock (source : PinSrc) (fn : Seat) (v : Word) (s : State) : StepOut :=
  .next (s.pinWrite source fn.val (fun s => s.gpioLock source v.toNat))

/-- PATTERN_MATCH (R738): a pattern-match unit's filtered state matches and sets its status bit. -/
def execPatternMatch (mask levels : BitVec 24) (samples : Nat) (s : State) : StepOut :=
  .next (s.pinSamples mask.toNat levels.toNat samples)

/-- ECHO (R814): mailbox ECHO returns its data words. -/
def execEcho (s : State) : StepOut :=
  .next s.mailboxEcho

/-- CORE_STATE (R814): mailbox CORE_STATE returns each conductor's state. -/
def execCoreState (s : State) : StepOut :=
  .next s.mailboxCores

/-- LITMUS (R814): mailbox LITMUS runs a litmus test and counts outcomes. -/
def execLitmus (n00 n01 n10 n11 : Word) (s : State) : StepOut :=
  given (s.mailboxLitmus [n00.toNat, n01.toNat, n10.toNat, n11.toNat])

/-- MAILBOX_REPLY (R813): the device writes a mailbox reply and sets done. -/
def execMailboxReply (s : State) : StepOut :=
  .next s.mailboxReply

/-- TAP_TCK_EDGE (R871): a TCK edge advances the IEEE 1149.1 test access port, shifting or updating its instruction and data registers. -/
def execTapTckEdge (rising tms tdi : Bool) (s : State) : StepOut :=
  .next (s.tapEdge rising tms tdi)

/-- TRST_ASSERT (R873): TRST_N going low forces the test access port to Test-Logic-Reset. -/
def execTrstAssert (low : Bool) (s : State) : StepOut :=
  .next (s.trst low)

/-- SPS_UNKNOWN_COMMAND (R722): an SPS transfer carries an unlisted command code and is answered with result 0x03 without being applied. -/
def execSpsUnknownCommand (code : Byte) (body : List Byte) (crc : Byte) (t : Nat) (s : State) : StepOut :=
  given (s.unknownCommand code.toNat body crc t)

end Sys2Proof.Machine
end

