-- ==== Sys2Proof/Machine/ExecPass.lean ====
section
/-!
DEFINITION. The measure, the sweep and the re-rank: the meaning of each command, as one definition.
-/
namespace Sys2Proof.Machine

/-- DOWNBEAT (R39): the internal timebase reaches the predicted instant and starts a measure: the device increments MEAS_NUMBER, latches
settings and begins admission. -/
def execDownbeat (s : State) : StepOut :=
  .next s.downbeat

/-- DOWNBEAT_EDGE (R41): an external DOWNBEAT edge arrives and, when it lies within ±2 µs of the prediction, starts the measure. -/
def execDownbeatEdge (t : DownbeatIn) (s : State) : StepOut :=
  .next (s.downbeatEdge t.falling t.instant)

/-- FLYWHEEL_DOWNBEAT (R43): no acceptable external downbeat arrives by prediction + 2 µs, so the device starts the measure itself and sets
missed_edge. -/
def execFlywheelDownbeat (s : State) : StepOut :=
  .next s.flywheel

/-- PLAN_FREEZE (R79): the conductors freeze the plan before the admission window ends. -/
def execPlanFreeze (t : Nat) (s : State) : StepOut :=
  .next (s.planFreeze t)

/-- ADMISSION_WINDOW_END (R795): at downbeat + 20,000 ns the admission window ends; if no plan is frozen, the hardware freezes an empty
plan, and the sweep phase starts. -/
def execAdmissionWindowEnd (s : State) : StepOut :=
  .next s.windowEnds.weaveRun

/-- STREAM_START (R335): a stream engine loads a descriptor when its queue is started, and rejects a figure that has an error. -/
def execStreamStart (header : List Byte) (body gather : List DWord) (s : State) : StepOut :=
  .next (s.runDescriptor header body gather)

/-- STAGING_SCAN_END (R345): the staging scan ends, and the tile queues may begin issuing slab-tile granules. -/
def execStagingScanEnd (s : State) : StepOut :=
  .next s.stagingScanEnd

/-- TILE_DEAL (R338): a tile queue deals a tile to a copy whose team all have a free slot, and forms its live mask. -/
def execTileDeal (queue : Fin 32) (copy : Nat) (s : State) : StepOut :=
  .next (s.tileDeal queue.val copy)

/-- TILE_START (R202): an engine starts a tile once the whole tile and its live mask are in a slot. -/
def execTileStart (engine : Fin 64) (slot : Fin 2) (s : State) : StepOut :=
  .next (s.tileStart engine.val slot.val)

/-- OUTPUT_TILE_DRAIN (R204): an output tile completes, and its passing pairs drain to the cluster coda. -/
def execOutputTileDrain (engine : Fin 64) (s : State) : StepOut :=
  .next (s.outputTileDrain engine.val)

/-- DRAIN_PAIR (R291): a cluster coda takes a drained pair into its list or band and updates the boundary and the cut registers. -/
def execDrainPair (cluster : Fin 8) (s : State) : StepOut :=
  .next (s.drainPair cluster.val)

/-- ENGINE_FAULT (R88): an engine reports a fault; the device applies ERST and re-issues its unfinished tiles. -/
def execEngineFault (engine : Fin 64) (cause : Fin 5) (s : State) : StepOut :=
  .next (s.engineFault engine.val cause.val).weaveRun

/-- RERANK_PROTECTION_POINT (R81): at the re-rank protection point the sweep stops dealing tiles, and open band resolutions are cut. -/
def execRerankProtectionPoint (s : State) : StepOut :=
  .next (s.advance s.protectAt).protectionPoint.weaveProtect

/-- CODA_FINISH (R294): after the last tile drains, the chip coda merges the cluster lists into each search's candidate set. -/
def execCodaFinish (t : Nat) (s : State) : StepOut :=
  .next (s.advance t).codaFinish.weaveRun

/-- BARRIER (R354): the barrier's quiesce step completes, every voice is handed its list, and the re-rank queues may issue. -/
def execBarrier (t : Nat) (s : State) : StepOut :=
  .next (s.advance t).weaveBarrier

/-- GRANULE_LAND (R271): a fetched key, record or spill granule lands, and its voice becomes ready or continues on a unit. -/
def execGranuleLand (rid t : Nat) (s : State) : StepOut :=
  .next (s.granuleLand rid t).weaveRun

/-- VOICE_SLICE_EXPIRE (R268): a voice has run 4,096 cc while a voice placed ahead of it waits, so the unit switches. -/
def execVoiceSliceExpire (unit : Fin 16) (t : Nat) (s : State) : StepOut :=
  .next (s.sliceExpire unit.val t).weaveRun

/-- FOREGROUND_END (R82): at the foreground end every unfinished voice stops, and its search completes with OK_PARTIAL. -/
def execForegroundEnd (s : State) : StepOut :=
  .next (s.when (s.live && s.clk.started) (fun s => s.foregroundEnd.weaveRun.feed))

/-- POSTING_RESERVE_END (R390): at foreground end + 60,000 ns the device sends every pending completion interrupt. -/
def execPostingReserveEnd (s : State) : StepOut :=
  .next (s.when (s.live && s.clk.started) (fun s => s.reserveEndAct.feed))

/-- COAL_TIMER (R390): the coalescing time of a completion queue expires, and its MSI-X message is sent. -/
def execCoalTimer (fn : Seat) (queue : Fin 8) (t : Nat) (s : State) : StepOut :=
  .next (s.when s.answers (fun s => s.coalTimer fn.val queue.val t))

/-- ERST (R216): writing SWP_ERST resets one engine. -/
def execErst (engine : Fin 64) (s : State) : StepOut :=
  .next (s.when s.answers (fun s => (s.erstEngine engine.val).weaveRun))

/-- TELEMETRY_SAMPLE (R98): every 10 µs a coda unit's counters are sampled into the snapshot path, blocking its posting and reduction paths
for 8 cc. -/
def execTelemetrySample (t : Nat) (s : State) : StepOut :=
  .next (s.advance t)

end Sys2Proof.Machine
end

