-- ==== Sys2Proof/Machine/ExecPower.lean ====
section
/-!
DEFINITION. Power, starts, resets and errors: the meaning of each command, as one definition.
-/
namespace Sys2Proof.Machine

/-- WARM_RESET (R777): the owner's key write to RST_CTRL starts a WRST 10 µs later. -/
def execWarmReset (fn : Seat) (v : Word) (s : State) : StepOut :=
  .next (s.registerWrite fn.val 0x41000 v.toNat)

/-- WRST_READY (R778): a warm reset completes, and the device is ready to admit. -/
def execWrstReady (trained : BitVec 24) (t : Nat) (s : State) : StepOut :=
  .next (s.wrstReady trained.toNat t)

/-- REST_WAKE (R764): a BAR access, a pattern match or a wake message wakes the device from Rest. -/
def execRestWake (t : Nat) (s : State) : StepOut :=
  .next (s.advance t).restWake

/-- REST_EXIT_READY (R765): rest exit completes, and the device is ready to admit. -/
def execRestExitReady (failed : BitVec 24) (t : Nat) (s : State) : StepOut :=
  .next (s.restReady failed.toNat t)

/-- THERMAL_GATE (R771): Tj reaching 105 °C gates the upper four engines of each cluster. -/
def execThermalGate (tj : Nat) (s : State) : StepOut :=
  .next (s.thermalGate tj)

/-- THERMAL_TRIP (R772): Tj reaching 115 °C runs the planned Fermata entry. -/
def execThermalTrip (tj : Nat) (s : State) : StepOut :=
  .next (s.thermalTrip tj)

/-- AUX_POWER_GOOD (R786): the auxiliary supply becomes good, and the always-on domain starts. -/
def execAuxPowerGood (auxMv t : Nat) (s : State) : StepOut :=
  .next ((s.advance t).auxStart auxMv)

/-- BLEED_END (R666): the bank falls below Vmin, or the bleed times out with a gauge fault. -/
def execBleedEnd (bankMv t : Nat) (s : State) : StepOut :=
  .next (s.bleedEnd bankMv t)

/-- CORE_START (R788): the core domain starts after PWR_GOOD, an MRST or a Fermata exit. -/
def execCoreStart (split : Bool) (t : Nat) (s : State) : StepOut :=
  .next (s.coreStart split t)

/-- CORE_READY (R788): the core start completes, and the device is ready to admit. -/
def execCoreReady (trained : BitVec 24) (t : Nat) (s : State) : StepOut :=
  .next (s.coreReady trained.toNat t)

/-- COLD_DATA_CHECK (R800): the MGC's hash check of the cold-data segment completes. -/
def execColdDataCheck (s : State) : StepOut :=
  .next s.coldCheck

/-- MRST (R775): a low pulse on MRST_N resets the core while the store is kept in self-refresh. -/
def execMrst (t : Nat) (s : State) : StepOut :=
  .next (s.advance t).mrst

/-- AON_PLL_UNLOCK (R756): a loss of AON_PLL lock restarts the always-on domain. -/
def execAonPllUnlock (t : Nat) (s : State) : StepOut :=
  .next (s.advance t).aonPllUnlock

/-- CORE_PLL_UNLOCK (R756): a core PLL loses lock, which is a fatal error. -/
def execCorePllUnlock (pll : Fin 16) (s : State) : StepOut :=
  .next (s.corePllUnlock pll.val)

/-- WATCHDOG (R796): a conductor misses two heartbeats, which is a fatal error. -/
def execWatchdog (conductor : Fin 4) (s : State) : StepOut :=
  .next (s.watchdog conductor.val)

/-- SRAM_DOUBLE_BIT (R837): an SRAM double-bit error is contained according to the SRAM concerned. -/
def execSramDoubleBit (place : Sram) (s : State) : StepOut :=
  .next (s.sramDoubleBit place).weaveRun

/-- FATAL_MRST_TIMER (R842): mrst_delay after a fatal error expires, and the MGC runs an MRST. -/
def execFatalMrstTimer (t : Nat) (s : State) : StepOut :=
  .next (s.fatalTimer t)

/-- TRIM_UPDATE (R832): every 1,024 measures τ is recomputed from measured module energy. -/
def execTrimUpdate (measured estimated : Nat) (s : State) : StepOut :=
  .next (s.trimUpdate measured estimated)

/-- GAUGE_SAMPLE (R667): every 1 ms the gauge forms its readings, checks for faults and re-evaluates arming. -/
def execGaugeSample (bankMv : Nat) (charge : Int) (overflow : Bool) (busMv inputMa inputMw energyMj auxMv tj memC inletC : Nat) (temps : List Nat) (t : Nat) (s : State) : StepOut :=
  .next (s.gaugeSample bankMv charge overflow busMv inputMa inputMw energyMj auxMv tj memC inletC temps t)

/-- EFUSE_TRIP (R661): the e-fuse opens on overcurrent or overvoltage and declares PFAIL. -/
def execEfuseTrip (ma mv durNs t : Nat) (s : State) : StepOut :=
  .next (s.efuseTrip ma mv durNs t)

/-- BUS_UNDERVOLTAGE (R671): the module bus below 46 V for 2 µs declares PFAIL. -/
def execBusUndervoltage (mv durNs t : Nat) (s : State) : StepOut :=
  .next (s.busLow mv durNs t)

/-- CONVERTER_FAULT (R671): an intermediate-converter fault declares PFAIL. -/
def execConverterFault (t : Nat) (s : State) : StepOut :=
  .next (s.converterFault t)

/-- PWR_EN_LOW (R673): PWR_EN going low runs the planned Fermata entry on main power. -/
def execPwrEnLow (t : Nat) (s : State) : StepOut :=
  .next (s.pwrEnLow t)

/-- PWR_EN_HIGH (R682): PWR_EN going high closes the hot-swap switch when the conditions hold. -/
def execPwrEnHigh (mv t : Nat) (s : State) : StepOut :=
  .next (s.pwrEnHigh mv t)

/-- FERMATA_EXIT (R677): after 10 ms of good bus with PWR_EN high, Fermata exit begins. -/
def execFermataExit (t : Nat) (s : State) : StepOut :=
  .next (s.fermataExit t)

/-- AUX_DIP (R675): an auxiliary dip below 3.0 V for 10 µs in Fermata loses retention. -/
def execAuxDip (mv durNs t : Nat) (s : State) : StepOut :=
  .next (s.auxDip mv durNs t)

/-- EJECT (R683): EJECT_N opening sets the eject event and asserts ALERT_N. -/
def execEject (s : State) : StepOut :=
  .next s.eject

/-- AUX_POWER_LOSS (R758): the auxiliary 3.3 V supply is lost, ending every state, the MGC, any TC_FW session and an e-fuse lock. -/
def execAuxPowerLoss (t : Nat) (s : State) : StepOut :=
  .next (s.advance t).auxLoss

/-- TRAY_BUS_RETURN (R657): the tray bus returns into range while the module is Off with PWR_EN already high, so PWR_GOOD can assert and
the core can start. -/
def execTrayBusReturn (mv t : Nat) (s : State) : StepOut :=
  .next (s.busReturn mv t)

/-- EJECT_CLOSE (R682): EJECT_N closes as the module is seated, letting the MGC close the hot-swap switch when the other conditions hold. -/
def execEjectClose (s : State) : StepOut :=
  .next s.ejectClose

/-- DATAPATH_PARITY_ERROR (R842): an internal parity error of a datapath without its own containment is detected, a fatal error of cause 5. -/
def execDatapathParityError (s : State) : StepOut :=
  .next s.parityError

end Sys2Proof.Machine
end

