-- ==== Sys2Proof/Machine/ExecProtocol.lean ====
section
/-!
DEFINITION. The command protocol: the meaning of each command, as one definition.
-/
namespace Sys2Proof.Machine

/-- PING (R413): PING completes with OK. -/
def execPing (cid : Nat) (s : State) : StepOut :=
  .next (s.row cid 0x01 (fun s c => s.completeOk c 0 0))

/-- IDENTIFY (R426): IDENTIFY writes the 128-byte identity reply record. -/
def execIdentify (cid : Nat) (s : State) : StepOut :=
  .next (s.row cid 0x02 State.identify)

/-- CLAIM (R515): CLAIM renews the lease, completes with NOT_OWNER, or is held for the next election. -/
def execClaim (cid : Nat) (s : State) : StepOut :=
  .next (s.row cid 0x04 State.claim)

/-- RELEASE (R525): RELEASE makes ownership vacant. -/
def execRelease (cid : Nat) (s : State) : StepOut :=
  .next (s.row cid 0x05 State.release)

/-- HANDOVER (R526): HANDOVER ends ownership and offers it to a successor. -/
def execHandover (cid : Nat) (s : State) : StepOut :=
  .next (s.row cid 0x06 State.handover)

/-- SEARCH (R415): a SEARCH passes intake and becomes a candidate for admission. -/
def execSearch (cid : Nat) (s : State) : StepOut :=
  .next (s.row cid 0x10 State.search)

/-- SEARCH_FUSED (R306): a SEARCH_FUSED passes intake and becomes a candidate, with a fused score step. -/
def execSearchFused (cid : Nat) (s : State) : StepOut :=
  .next (s.row cid 0x11 State.search)

/-- GET_BY_ID (R472): a point read is served from staging or the directory and replies within its bound. -/
def execGetById (cid : Nat) (s : State) : StepOut :=
  .next (s.row cid 0x12 State.pointRead)

/-- STATS (R312): a STATS command passes intake and becomes pass work that reduces over its shelf's view. -/
def execStats (cid : Nat) (s : State) : StepOut :=
  .next (s.row cid 0x18 State.search)

/-- INSERT (R465): an INSERT batch passes intake and waits for a transfer-ready grant. -/
def execInsert (cid : Nat) (s : State) : StepOut :=
  .next (s.row cid 0x20 State.insertBegin)

/-- DELETE (R465): a DELETE batch reserves kill room and commits its kills or supersessions. -/
def execDelete (cid : Nat) (s : State) : StepOut :=
  .next (s.row cid 0x21 (fun s c => (s.deleteBegin c).weavePrepares))

/-- UPSERT (R465): an UPSERT batch passes intake and waits for a transfer-ready grant. -/
def execUpsert (cid : Nat) (s : State) : StepOut :=
  .next (s.row cid 0x22 State.insertBegin)

/-- SETTLE (R477): SETTLE marks the earlier entries of its scope as settle waiters. -/
def execSettle (cid : Nat) (s : State) : StepOut :=
  .next (s.row cid 0x23 State.settle)

/-- SHELF_CREATE (R107): SHELF_CREATE checks its parameters and allocates a shelf's arrays and descriptor. -/
def execShelfCreate (cid : Nat) (s : State) : StepOut :=
  .next (s.row cid 0x28 State.shelfCreate)

/-- SHELF_DROP (R147): SHELF_DROP sets the dropping flag, ends settle waits and releases the shelf. -/
def execShelfDrop (cid : Nat) (s : State) : StepOut :=
  .next (s.row cid 0x29 State.shelfDrop)

/-- SHELF_GRANT (R509): SHELF_GRANT replaces a seat's rights on a shelf. -/
def execShelfGrant (cid : Nat) (s : State) : StepOut :=
  .next (s.row cid 0x2A State.shelfGrant)

/-- CONFIG_READ (R427): CONFIG_READ reads a list of BAR0 registers into a reply record. -/
def execConfigRead (cid : Nat) (s : State) : StepOut :=
  .next (s.row cid 0x30 State.configRead)

/-- CONFIG_WRITE (R427): CONFIG_WRITE applies masked BAR0 writes from the owner in one step. -/
def execConfigWrite (cid : Nat) (s : State) : StepOut :=
  .next (s.row cid 0x31 State.configWrite)

/-- MEASURE_CONFIG (R49): MEASURE_CONFIG schedules measure settings for a target measure. -/
def execMeasureConfig (cid : Nat) (s : State) : StepOut :=
  .next (s.row cid 0x38 State.measureConfig)

/-- FW_STAGE (R691): FW_STAGE writes a firmware image into a flash bank. -/
def execFwStage (cid : Nat) (s : State) : StepOut :=
  .next (s.row cid 0x40 State.fwStage)

/-- FW_STAGE_VERIFY (R692): after the bank is written, the image is checked and the bank is marked staged or empty. -/
def execFwStageVerify (cid t : Nat) (s : State) : StepOut :=
  .next (s.when s.live (fun s => (s.advance t).stageVerify cid))

/-- FW_QUERY (R699): FW_QUERY writes the firmware state reply record. -/
def execFwQuery (cid : Nat) (s : State) : StepOut :=
  .next (s.row cid 0x41 State.fwAsk)

/-- TELEMETRY_READ (R827): TELEMETRY_READ writes a counter group from the snapshot or live values. -/
def execTelemetryRead (cid : Nat) (s : State) : StepOut :=
  .next (s.row cid 0x48 State.telemetryRead)

/-- FLUSH_QUEUE (R453): FLUSH_QUEUE discards posted packets and completes pending commands with FLUSHED. -/
def execFlushQueue (cid : Nat) (s : State) : StepOut :=
  .next (s.row cid 0x50 State.flushQueue)

/-- WEAVE_ADMIN_FORM (R651): FORM forms or replaces the weave from a map. -/
def execWeaveAdminForm (cid : Nat) (s : State) : StepOut :=
  .next (s.adminRow cid 1 State.weaveForm)

/-- WEAVE_ADMIN_ADMIT (R650): ADMIT adds one member to the weave. -/
def execWeaveAdminAdmit (cid : Nat) (s : State) : StepOut :=
  .next (s.adminRow cid 2 State.weaveAdmit)

/-- WEAVE_ADMIN_EXCLUDE (R650): EXCLUDE removes a member, whose buckets are then served by their next copies. -/
def execWeaveAdminExclude (cid : Nat) (s : State) : StepOut :=
  .next (s.adminRow cid 3 State.weaveExclude)

/-- WEAVE_ADMIN_REBUILD (R648): REBUILD copies a shelf's buckets to a target member. -/
def execWeaveAdminRebuild (cid : Nat) (s : State) : StepOut :=
  .next (s.adminRow cid 4 State.weaveRebuild)

/-- WEAVE_ADMIN_REMOTE (R650): REMOTE runs one ZCP packet at a target member. -/
def execWeaveAdminRemote (cid : Nat) (s : State) : StepOut :=
  .next (s.adminRow cid 5 State.weaveRemote)

/-- WEAVE_ADMIN_PROMOTE (R650): PROMOTE hands the head role to the deputy at the next downbeat. -/
def execWeaveAdminPromote (cid : Nat) (s : State) : StepOut :=
  .next (s.adminRow cid 6 State.weavePromote)

/-- WEAVE_ADMIN_STATUS (R650): STATUS writes the weave map with each member's state. -/
def execWeaveAdminStatus (cid : Nat) (s : State) : StepOut :=
  .next (s.adminRow cid 7 State.weaveStatus)

/-- MAP_OUT (R214): MAP_OUT requests that an engine, channel or strand leave service at the next downbeat. -/
def execMapOut (cid : Nat) (s : State) : StepOut :=
  .next (s.row cid 0x60 (fun s c => s.mapUnit c true))

/-- MAP_IN (R214): MAP_IN requests that an engine, channel or strand return at the next downbeat. -/
def execMapIn (cid : Nat) (s : State) : StepOut :=
  .next (s.row cid 0x61 (fun s c => s.mapUnit c false))

/-- TRANSFER_GRANT (R434): once room and grant limits allow, the device grants an insert, writes notice state 1 and reads its data. -/
def execTransferGrant (s : State) : StepOut :=
  .next (s.when s.live (fun s => s.transferGrant.weavePrepares))

/-- INSERT_DATA_COMPLETE (R438): the last data byte arrives, the batch is checked and committed, and notice state 2 is written. -/
def execInsertDataComplete (cid : Nat) (ok : Bool) (data : List Byte) (t : Nat) (s : State) : StepOut :=
  given (s.dataArrive cid ok data t)

/-- STAGING_WAIT_EXPIRE (R463): a mutation still waiting for staging room at its wait_measures-th downbeat completes with STAGING_FULL. -/
def execStagingWaitExpire (cid : Nat) (s : State) : StepOut :=
  .next (s.when s.live (fun s => s.stagingExpire cid))

/-- LEASE_EXPIRY (R522): a downbeat finds OWN_LEASE_LEFT at 0, and ownership becomes vacant. -/
def execLeaseExpiry (t : Nat) (s : State) : StepOut :=
  .next (s.ownershipDue t State.expireLease)

/-- OFFER_LAPSE (R527): an offer that is not claimed by downbeat h + 17 lapses to vacant. -/
def execOfferLapse (t : Nat) (s : State) : StepOut :=
  .next (s.ownershipDue t State.lapseOffer)

end Sys2Proof.Machine
end

