-- ==== Sys2Proof/Machine/ExecStore.lean ====
section
/-!
DEFINITION. Slab operations: the meaning of each command, as one definition.
-/
namespace Sys2Proof.Machine

/-- SLAB_OP_START (R482): in the background window the device starts a slab operation that can end at least 2,000 ns before the next
downbeat. -/
def execSlabOpStart (t : Nat) (s : State) : StepOut :=
  .next (s.when s.live (fun s => (s.advance t).slabOpStart))

/-- PLACE (R479): a place operation commits staged insert entries into slab rows and directory entries. -/
def execPlace (slot : Fin 16) (t : Nat) (s : State) : StepOut :=
  .next (s.slabEnd .place slot.val t)

/-- MARK (R479): a mark operation commits tombstone bits for kill entries and erases their directory entries. -/
def execMark (slot : Fin 16) (t : Nat) (s : State) : StepOut :=
  .next (s.slabEnd .mark slot.val t)

/-- MOVE (R479): a move operation commits live rows from the shelf's end into marked positions. -/
def execMove (slot : Fin 16) (t : Nat) (s : State) : StepOut :=
  .next (s.slabEnd .move slot.val t)

/-- TRIM (R479): a trim operation commits the removal of marked rows from the shelf's end. -/
def execTrim (slot : Fin 16) (t : Nat) (s : State) : StepOut :=
  .next (s.slabEnd .trim slot.val t)

/-- SETTLED_COMPLETION (R476): a settle mutation or a SETTLE completes once its entries have reached the store. -/
def execSettledCompletion (cid t : Nat) (s : State) : StepOut :=
  .next (s.when s.live (fun s => (s.advance t).settledCompletion cid))

end Sys2Proof.Machine
end

