-- ==== Sys2Proof/Machine/ExecWeave.lean ====
section
/-!
DEFINITION. The weave: the meaning of each command, as one definition.
-/
namespace Sys2Proof.Machine

/-- STRST (R599): writing WV_STRST resets and retrains one strand. -/
def execStrst (strand : Fin 64) (s : State) : StepOut :=
  .next (s.strst strand.val)

/-- STRAND_TRAINED (R591): a strand training ends, with the strand up or left down. -/
def execStrandTrained (strand : Fin 64) (lanes : BitVec 5) (failed : Fin 8) (version : BitVec 8) (serial : DWord) (peerStrand : Fin 64) (addr : BitVec 12)
    (stamps : List (Nat × Nat)) (slips t : Nat) (s : State) : StepOut :=
  .next (s.trainingEnd strand.val
    ⟨lanes.toNat, failed.val, version.toNat, serial.toNat, peerStrand.val, addr.toNat, stampDelay stamps, slips⟩ t)

/-- LANE_LOCK_LOSS (R595): a data lane loses header lock, so the strand goes down and retrains. -/
def execLaneLockLoss (strand : Fin 64) (lane : Fin 5) (t : Nat) (s : State) : StepOut :=
  .next ((s.advance t).lockLoss strand.val lane.val)

/-- DATA_BLOCK (R596): a data block is received, corrected or rejected, and delivered in sequence. -/
def execDataBlock (strand : Fin 64) (seq : BitVec 16) (vc : Fin 4) (payload : BitVec 256) (t : Nat) (s : State) : StepOut :=
  .next (s.dataBlock strand.val seq.toNat vc.val payload.toNat t)

/-- ACK (R596): an ACK frees acknowledged blocks from the replay buffer. -/
def execAck (strand : Fin 64) (seq : BitVec 16) (s : State) : StepOut :=
  .next (s.when (s.strandUp strand.val) (fun s => s.ackBlock strand.val seq.toNat))

/-- NAK (R596): a NAK makes the sender send REPLAY and resend unacknowledged blocks. -/
def execNak (strand : Fin 64) (seq : BitVec 16) (s : State) : StepOut :=
  .next (s.nakBlock strand.val seq.toNat)

/-- REPLAY (R596): a REPLAY resumes acceptance of data blocks at the named sequence. -/
def execReplay (strand : Fin 64) (seq : BitVec 16) (s : State) : StepOut :=
  .next (s.when (s.strandUp strand.val) (fun s => s.replayBlock strand.val seq.toNat))

/-- CREDIT (R597): a CREDIT block returns credits per virtual channel. -/
def execCredit (strand : Fin 64) (vc0 vc1 vc2 vc3 : Byte) (s : State) : StepOut :=
  .next (s.when (s.strandUp strand.val) (fun s => s.creditBlock strand.val [vc0.toNat, vc1.toNat, vc2.toNat, vc3.toNat]))

/-- BEACON_SEND (R610): the head rim sends a BEACON 2,000 ns before each downbeat. -/
def execBeaconSend (s : State) : StepOut :=
  .next s.beaconSend

/-- BEACON (R610): a received BEACON sets the weave downbeat and measure number and is forwarded downward. -/
def execBeacon (strand : Fin 64) (measure : Word) (lead : BitVec 16) (period : BitVec 31) (settings : Bool) (records epoch : BitVec 16) (t : Nat) (s : State) : StepOut :=
  .next (s.onBeacon strand.val measure.toNat lead.toNat period.toNat settings records.toNat epoch.toNat t)

/-- SETTINGS (R613): a SETTINGS message delivers measure settings for a target measure. -/
def execSettings (strand : Fin 64) (s : State) : StepOut :=
  .next (s.withMsg strand.val 0x01 State.onSettings)

/-- GENERATIONS (R614): a GENERATIONS message gives new store generations for the named downbeat. -/
def execGenerations (strand : Fin 64) (s : State) : StepOut :=
  .next (s.withMsg strand.val 0x02 State.onGenerations)

/-- LOSS_REPORT (R643): a LOSS_REPORT tells the deputy of a missed BEACON; a majority promotes it. -/
def execLossReport (strand : Fin 64) (s : State) : StepOut :=
  .next (s.withMsg strand.val 0x03 State.onLoss)

/-- ADOPT (R643): ADOPT moves a direct child to the new head rim. -/
def execAdopt (strand : Fin 64) (s : State) : StepOut :=
  .next (s.withMsg strand.val 0x04 (fun s m => s.onAdopt strand.val m))

/-- REJOIN (R642): REJOIN re-parents a member and resumes or drops its sub-shelves. -/
def execRejoin (strand : Fin 64) (s : State) : StepOut :=
  .next (s.withMsg strand.val 0x05 (fun s m => s.onRejoin strand.val m))

/-- REST (R652): a REST message asks a member to enter Rest or to wake at a named downbeat. -/
def execRest (strand : Fin 64) (s : State) : StepOut :=
  .next (s.restMsg strand.val)

/-- FORWARD (R620): FORWARD delivers a search packet and its operands to a holder, which acknowledges it. -/
def execForward (strand : Fin 64) (s : State) : StepOut :=
  .next (s.withMsg strand.val 0x10 State.onForward)

/-- FORWARD_ACK (R620): FORWARD_ACK acknowledges the fan-out at the head rim. -/
def execForwardAck (strand : Fin 64) (s : State) : StepOut :=
  .next (s.withMsg strand.val 0x11 State.onForwardAck)

/-- PLAN (R623): a PLAN message gives a member the searches it runs in the measure. -/
def execPlan (strand : Fin 64) (s : State) : StepOut :=
  .next (s.withMsg strand.val 0x12 State.onPlan)

/-- PREPARE (R624): PREPARE makes a holder check records and hold entries as tentative. -/
def execPrepare (strand : Fin 64) (s : State) : StepOut :=
  .next (s.withMsg strand.val 0x13 State.onPrepare)

/-- PREPARE_REPLY (R624): PREPARE_REPLY reports a holder's check; when all have reported, the head rim decides. -/
def execPrepareReply (strand : Fin 64) (s : State) : StepOut :=
  .next (s.withMsg strand.val 0x14 State.onPrepareReply)

/-- COMMIT (R624): COMMIT makes tentative entries visible with the commit measure, or aborts them. -/
def execCommit (strand : Fin 64) (s : State) : StepOut :=
  .next (s.withMsg strand.val 0x15 State.onCommit)

/-- APPLIED (R624): APPLIED reports that a holder applied a commit. -/
def execApplied (strand : Fin 64) (s : State) : StepOut :=
  .next (s.withMsg strand.val 0x16 State.onApplied)

/-- SETTLED (R629): SETTLED reports that a holder's entries have reached its store. -/
def execSettled (strand : Fin 64) (s : State) : StepOut :=
  .next (s.withMsg strand.val 0x17 State.onSettled)

/-- POINT_READ (R627): POINT_READ asks the serving holder for a row. -/
def execPointRead (strand : Fin 64) (s : State) : StepOut :=
  .next (s.withMsg strand.val 0x18 State.onPointRead)

/-- POINT_REPLY (R627): POINT_REPLY returns the reply record, which the head rim relays. -/
def execPointReply (strand : Fin 64) (s : State) : StepOut :=
  .next (s.withMsg strand.val 0x19 State.onPointReply)

/-- REMOTE (R606): REMOTE runs a ZCP packet at its target as if it came from the target's owner. -/
def execRemote (strand : Fin 64) (s : State) : StepOut :=
  .next (s.withMsg strand.val 0x1A (fun s m => (s.onRemote m).checkRemote (msgOp m)))

/-- REMOTE_REPLY (R650): REMOTE_REPLY returns the remote command's completion and reply. -/
def execRemoteReply (strand : Fin 64) (s : State) : StepOut :=
  .next (s.withMsg strand.val 0x1B State.onRemoteReply)

/-- ADMIN (R650): ADMIN carries a weave administration sub-operation to a member. -/
def execAdmin (strand : Fin 64) (s : State) : StepOut :=
  .next (s.withMsg strand.val 0x1C State.onAdmin)

/-- ADMIN_ACK (R650): ADMIN_ACK reports the member's result. -/
def execAdminAck (strand : Fin 64) (s : State) : StepOut :=
  .next (s.withMsg strand.val 0x1D State.onAdminAck)

/-- CAPACITY_REPORT_SEND (R621): 20 µs before each downbeat, a member sends its capacity report. -/
def execCapacityReportSend (s : State) : StepOut :=
  .next s.capacitySend

/-- CAPACITY (R621): a CAPACITY message gives the head rim a member's costing inputs. -/
def execCapacity (strand : Fin 64) (s : State) : StepOut :=
  .next (s.withMsg strand.val 0x20 State.onCapacity)

/-- VALUE_LIST (R630): a VALUE_LIST brings a member's candidate values, which a rim merges. -/
def execValueList (strand : Fin 64) (s : State) : StepOut :=
  .next (s.withMsg strand.val 0x21 State.onValues)

/-- TIE_REQUEST (R631): TIE_REQUEST asks members for their lowest ids at B*. -/
def execTieRequest (strand : Fin 64) (s : State) : StepOut :=
  .next (s.withMsg strand.val 0x22 State.onTieRequest)

/-- TIE_LIST (R631): TIE_LIST returns ids at B*, which rims merge. -/
def execTieList (strand : Fin 64) (s : State) : StepOut :=
  .next (s.withMsg strand.val 0x23 State.onTieList)

/-- KEY (R632): KEY fixes each member's candidates for the re-rank. -/
def execKey (strand : Fin 64) (s : State) : StepOut :=
  .next (s.withMsg strand.val 0x24 State.onKey)

/-- FINAL_LIST (R635): a FINAL_LIST input is plaited by a rim. -/
def execFinalList (strand : Fin 64) (s : State) : StepOut :=
  .next (s.withMsg strand.val 0x25 State.onFinal)

/-- STATS_PARTIAL (R638): STATS_PARTIAL brings exact partial sums that rims add. -/
def execStatsPartial (strand : Fin 64) (s : State) : StepOut :=
  .next (s.withMsg strand.val 0x26 State.onStats)

/-- REBUILD_DATA (R648): REBUILD_DATA copies rows of a bucket to the target. -/
def execRebuildData (strand : Fin 64) (s : State) : StepOut :=
  .next (s.withMsg strand.val 0x30 State.onRebuildData)

/-- REBUILD_END (R649): REBUILD_END ends the copy of a bucket. -/
def execRebuildEnd (strand : Fin 64) (s : State) : StepOut :=
  .next (s.withMsg strand.val 0x31 State.onRebuildEnd)

/-- PLAIT_WAIT_EXPIRE (R636): a rim stops waiting for a missing input and plaits without it. -/
def execPlaitWaitExpire (t : Nat) (s : State) : StepOut :=
  .next (s.plaitExpire t)

/-- MEMBER_LOST (R641): a child's downlink stays down for rejoin measures, and the child is lost. -/
def execMemberLost (addr : BitVec 12) (s : State) : StepOut :=
  .next (s.memberLost addr.toNat)

/-- STRAND_TACET (R760): an unused strand idle for 1 µs enters Tacet. -/
def execStrandTacet (strand : Fin 64) (t : Nat) (s : State) : StepOut :=
  .next (s.strandTacet strand.val t)

/-- ACK_TIMER (R596): 200 ns after an accepted data block without an ACK sent, the receiver sends an ACK. -/
def execAckTimer (strand : Fin 64) (t : Nat) (s : State) : StepOut :=
  .next (s.ackTimer strand.val t)

/-- CREDIT_RETURN_TIMER (R597): every 100 ns while credits are due, the receiver sends a CREDIT block. -/
def execCreditReturnTimer (strand : Fin 64) (s : State) : StepOut :=
  .next (s.creditTimer strand.val)

end Sys2Proof.Machine
end

