-- ==== Sys2Proof/Machine/Dispatch.lean ====
section
/-!
DEFINITION. The command table: one arm per command, each one call of its meaning.
-/
namespace Sys2Proof.Machine

def exec (i : Instr) (s : State) : Host.Outcome State Fault Refusal :=
  match i with
  | .registerWrite fn word v => Sys2Proof.Machine.execRegisterWrite fn word v s
  | .malformedAccess fn => Sys2Proof.Machine.execMalformedAccess fn s
  | .meterRead fn what => Sys2Proof.Machine.execMeterRead fn what s
  | .downbeat => Sys2Proof.Machine.execDownbeat s
  | .downbeatEdge t => Sys2Proof.Machine.execDownbeatEdge t s
  | .flywheelDownbeat => Sys2Proof.Machine.execFlywheelDownbeat s
  | .planFreeze t => Sys2Proof.Machine.execPlanFreeze t s
  | .admissionWindowEnd => Sys2Proof.Machine.execAdmissionWindowEnd s
  | .streamStart header body gather => Sys2Proof.Machine.execStreamStart header body gather s
  | .stagingScanEnd => Sys2Proof.Machine.execStagingScanEnd s
  | .tileDeal queue copy => Sys2Proof.Machine.execTileDeal queue copy s
  | .tileStart engine slot => Sys2Proof.Machine.execTileStart engine slot s
  | .outputTileDrain engine => Sys2Proof.Machine.execOutputTileDrain engine s
  | .drainPair cluster => Sys2Proof.Machine.execDrainPair cluster s
  | .engineFault engine cause => Sys2Proof.Machine.execEngineFault engine cause s
  | .rerankProtectionPoint => Sys2Proof.Machine.execRerankProtectionPoint s
  | .codaFinish t => Sys2Proof.Machine.execCodaFinish t s
  | .barrier t => Sys2Proof.Machine.execBarrier t s
  | .granuleLand rid t => Sys2Proof.Machine.execGranuleLand rid t s
  | .voiceSliceExpire unit t => Sys2Proof.Machine.execVoiceSliceExpire unit t s
  | .foregroundEnd => Sys2Proof.Machine.execForegroundEnd s
  | .postingReserveEnd => Sys2Proof.Machine.execPostingReserveEnd s
  | .coalTimer fn queue t => Sys2Proof.Machine.execCoalTimer fn queue t s
  | .slabOpStart t => Sys2Proof.Machine.execSlabOpStart t s
  | .place slot t => Sys2Proof.Machine.execPlace slot t s
  | .mark slot t => Sys2Proof.Machine.execMark slot t s
  | .move slot t => Sys2Proof.Machine.execMove slot t s
  | .trim slot t => Sys2Proof.Machine.execTrim slot t s
  | .settledCompletion cid t => Sys2Proof.Machine.execSettledCompletion cid t s
  | .gddrReadReturn system rid crc ecc t => Sys2Proof.Machine.execGddrReadReturn system rid crc ecc t s
  | .perBankRefresh channel bank postpone => Sys2Proof.Machine.execPerBankRefresh channel bank postpone s
  | .allBankRefresh channel t => Sys2Proof.Machine.execAllBankRefresh channel t s
  | .scrub channel granule crc ecc t => Sys2Proof.Machine.execScrub channel granule crc ecc t s
  | .retrainStep channel ok t => Sys2Proof.Machine.execRetrainStep channel ok t s
  | .channelFault channel device => Sys2Proof.Machine.execChannelFault channel device s
  | .relayEnd t => Sys2Proof.Machine.execRelayEnd t s
  | .sqTailDoorbell fn queue wide v t => Sys2Proof.Machine.execSqTailDoorbell fn queue wide v t s
  | .cqHeadDoorbell fn queue wide v t => Sys2Proof.Machine.execCqHeadDoorbell fn queue wide v t s
  | .packetFetch fn queue length t => Sys2Proof.Machine.execPacketFetch fn queue length t s
  | .packetReadComplete fn queue ok packet t => Sys2Proof.Machine.execPacketReadComplete fn queue ok packet t s
  | .operandReadComplete cid ok operands table t => Sys2Proof.Machine.execOperandReadComplete cid ok operands table t s
  | .sbqEnable fn queue sizeLog2 cpq => Sys2Proof.Machine.execSbqEnable fn queue sizeLog2 cpq s
  | .sbqDelete fn queue sizeLog2 cpq => Sys2Proof.Machine.execSbqDelete fn queue sizeLog2 cpq s
  | .cpqEnable fn queue sizeLog2 vector intEn => Sys2Proof.Machine.execCpqEnable fn queue sizeLog2 vector intEn s
  | .cpqDelete fn queue sizeLog2 vector intEn => Sys2Proof.Machine.execCpqDelete fn queue sizeLog2 vector intEn s
  | .msixUnmask fn vector => Sys2Proof.Machine.execMsixUnmask fn vector s
  | .flr fn => Sys2Proof.Machine.execFlr fn s
  | .vfEnableClear port => Sys2Proof.Machine.execVfEnableClear port s
  | .hotReset port => Sys2Proof.Machine.execHotReset port s
  | .dlDown port => Sys2Proof.Machine.execDlDown port s
  | .perstAssert port => Sys2Proof.Machine.execPerstAssert port s
  | .busMasterDisable fn => Sys2Proof.Machine.execBusMasterDisable fn s
  | .busMasterEnable fn => Sys2Proof.Machine.execBusMasterEnable fn s
  | .d3hotEntry fn => Sys2Proof.Machine.execD3hotEntry fn s
  | .linkRetrain port width speed flit => Sys2Proof.Machine.execLinkRetrain port width speed flit s
  | .farReadComplete rid ok t => Sys2Proof.Machine.execFarReadComplete rid ok t s
  | .ping cid => Sys2Proof.Machine.execPing cid s
  | .identify cid => Sys2Proof.Machine.execIdentify cid s
  | .claim cid => Sys2Proof.Machine.execClaim cid s
  | .release cid => Sys2Proof.Machine.execRelease cid s
  | .handover cid => Sys2Proof.Machine.execHandover cid s
  | .search cid => Sys2Proof.Machine.execSearch cid s
  | .searchFused cid => Sys2Proof.Machine.execSearchFused cid s
  | .getById cid => Sys2Proof.Machine.execGetById cid s
  | .stats cid => Sys2Proof.Machine.execStats cid s
  | .insert cid => Sys2Proof.Machine.execInsert cid s
  | .delete cid => Sys2Proof.Machine.execDelete cid s
  | .upsert cid => Sys2Proof.Machine.execUpsert cid s
  | .settle cid => Sys2Proof.Machine.execSettle cid s
  | .shelfCreate cid => Sys2Proof.Machine.execShelfCreate cid s
  | .shelfDrop cid => Sys2Proof.Machine.execShelfDrop cid s
  | .shelfGrant cid => Sys2Proof.Machine.execShelfGrant cid s
  | .configRead cid => Sys2Proof.Machine.execConfigRead cid s
  | .configWrite cid => Sys2Proof.Machine.execConfigWrite cid s
  | .measureConfig cid => Sys2Proof.Machine.execMeasureConfig cid s
  | .fwStage cid => Sys2Proof.Machine.execFwStage cid s
  | .fwStageVerify cid t => Sys2Proof.Machine.execFwStageVerify cid t s
  | .fwQuery cid => Sys2Proof.Machine.execFwQuery cid s
  | .telemetryRead cid => Sys2Proof.Machine.execTelemetryRead cid s
  | .flushQueue cid => Sys2Proof.Machine.execFlushQueue cid s
  | .weaveAdminForm cid => Sys2Proof.Machine.execWeaveAdminForm cid s
  | .weaveAdminAdmit cid => Sys2Proof.Machine.execWeaveAdminAdmit cid s
  | .weaveAdminExclude cid => Sys2Proof.Machine.execWeaveAdminExclude cid s
  | .weaveAdminRebuild cid => Sys2Proof.Machine.execWeaveAdminRebuild cid s
  | .weaveAdminRemote cid => Sys2Proof.Machine.execWeaveAdminRemote cid s
  | .weaveAdminPromote cid => Sys2Proof.Machine.execWeaveAdminPromote cid s
  | .weaveAdminStatus cid => Sys2Proof.Machine.execWeaveAdminStatus cid s
  | .mapOut cid => Sys2Proof.Machine.execMapOut cid s
  | .mapIn cid => Sys2Proof.Machine.execMapIn cid s
  | .transferGrant => Sys2Proof.Machine.execTransferGrant s
  | .insertDataComplete cid ok data t => Sys2Proof.Machine.execInsertDataComplete cid ok data t s
  | .stagingWaitExpire cid => Sys2Proof.Machine.execStagingWaitExpire cid s
  | .leaseExpiry t => Sys2Proof.Machine.execLeaseExpiry t s
  | .offerLapse t => Sys2Proof.Machine.execOfferLapse t s
  | .erst engine => Sys2Proof.Machine.execErst engine s
  | .strst strand => Sys2Proof.Machine.execStrst strand s
  | .warmReset fn v => Sys2Proof.Machine.execWarmReset fn v s
  | .wrstReady trained t => Sys2Proof.Machine.execWrstReady trained t s
  | .strandTrained strand lanes failed version serial peerStrand addr stamps slips t => Sys2Proof.Machine.execStrandTrained strand lanes failed version serial peerStrand addr stamps slips t s
  | .laneLockLoss strand lane t => Sys2Proof.Machine.execLaneLockLoss strand lane t s
  | .dataBlock strand seq vc payload t => Sys2Proof.Machine.execDataBlock strand seq vc payload t s
  | .ack strand seq => Sys2Proof.Machine.execAck strand seq s
  | .nak strand seq => Sys2Proof.Machine.execNak strand seq s
  | .replay strand seq => Sys2Proof.Machine.execReplay strand seq s
  | .credit strand vc0 vc1 vc2 vc3 => Sys2Proof.Machine.execCredit strand vc0 vc1 vc2 vc3 s
  | .beaconSend => Sys2Proof.Machine.execBeaconSend s
  | .beacon strand measure lead period settings records epoch t => Sys2Proof.Machine.execBeacon strand measure lead period settings records epoch t s
  | .settings strand => Sys2Proof.Machine.execSettings strand s
  | .generations strand => Sys2Proof.Machine.execGenerations strand s
  | .lossReport strand => Sys2Proof.Machine.execLossReport strand s
  | .adopt strand => Sys2Proof.Machine.execAdopt strand s
  | .rejoin strand => Sys2Proof.Machine.execRejoin strand s
  | .rest strand => Sys2Proof.Machine.execRest strand s
  | .forward strand => Sys2Proof.Machine.execForward strand s
  | .forwardAck strand => Sys2Proof.Machine.execForwardAck strand s
  | .plan strand => Sys2Proof.Machine.execPlan strand s
  | .prepare strand => Sys2Proof.Machine.execPrepare strand s
  | .prepareReply strand => Sys2Proof.Machine.execPrepareReply strand s
  | .commit strand => Sys2Proof.Machine.execCommit strand s
  | .applied strand => Sys2Proof.Machine.execApplied strand s
  | .settled strand => Sys2Proof.Machine.execSettled strand s
  | .pointRead strand => Sys2Proof.Machine.execPointRead strand s
  | .pointReply strand => Sys2Proof.Machine.execPointReply strand s
  | .remote strand => Sys2Proof.Machine.execRemote strand s
  | .remoteReply strand => Sys2Proof.Machine.execRemoteReply strand s
  | .admin strand => Sys2Proof.Machine.execAdmin strand s
  | .adminAck strand => Sys2Proof.Machine.execAdminAck strand s
  | .capacityReportSend => Sys2Proof.Machine.execCapacityReportSend s
  | .capacity strand => Sys2Proof.Machine.execCapacity strand s
  | .valueList strand => Sys2Proof.Machine.execValueList strand s
  | .tieRequest strand => Sys2Proof.Machine.execTieRequest strand s
  | .tieList strand => Sys2Proof.Machine.execTieList strand s
  | .key strand => Sys2Proof.Machine.execKey strand s
  | .finalList strand => Sys2Proof.Machine.execFinalList strand s
  | .statsPartial strand => Sys2Proof.Machine.execStatsPartial strand s
  | .rebuildData strand => Sys2Proof.Machine.execRebuildData strand s
  | .rebuildEnd strand => Sys2Proof.Machine.execRebuildEnd strand s
  | .plaitWaitExpire t => Sys2Proof.Machine.execPlaitWaitExpire t s
  | .memberLost addr => Sys2Proof.Machine.execMemberLost addr s
  | .strandTacet strand t => Sys2Proof.Machine.execStrandTacet strand t s
  | .restWake t => Sys2Proof.Machine.execRestWake t s
  | .restExitReady failed t => Sys2Proof.Machine.execRestExitReady failed t s
  | .thermalGate tj => Sys2Proof.Machine.execThermalGate tj s
  | .thermalTrip tj => Sys2Proof.Machine.execThermalTrip tj s
  | .auxPowerGood auxMv t => Sys2Proof.Machine.execAuxPowerGood auxMv t s
  | .bleedEnd bankMv t => Sys2Proof.Machine.execBleedEnd bankMv t s
  | .coreStart split t => Sys2Proof.Machine.execCoreStart split t s
  | .coreReady trained t => Sys2Proof.Machine.execCoreReady trained t s
  | .coldDataCheck => Sys2Proof.Machine.execColdDataCheck s
  | .mrst t => Sys2Proof.Machine.execMrst t s
  | .aonPllUnlock t => Sys2Proof.Machine.execAonPllUnlock t s
  | .corePllUnlock pll => Sys2Proof.Machine.execCorePllUnlock pll s
  | .watchdog conductor => Sys2Proof.Machine.execWatchdog conductor s
  | .sramDoubleBit place => Sys2Proof.Machine.execSramDoubleBit place s
  | .fatalMrstTimer t => Sys2Proof.Machine.execFatalMrstTimer t s
  | .trimUpdate measured estimated => Sys2Proof.Machine.execTrimUpdate measured estimated s
  | .gaugeSample bankMv charge overflow busMv inputMa inputMw energyMj auxMv tj memC inletC temps t => Sys2Proof.Machine.execGaugeSample bankMv charge overflow busMv inputMa inputMw energyMj auxMv tj memC inletC temps t s
  | .efuseTrip ma mv durNs t => Sys2Proof.Machine.execEfuseTrip ma mv durNs t s
  | .busUndervoltage mv durNs t => Sys2Proof.Machine.execBusUndervoltage mv durNs t s
  | .converterFault t => Sys2Proof.Machine.execConverterFault t s
  | .pwrEnLow t => Sys2Proof.Machine.execPwrEnLow t s
  | .pwrEnHigh mv t => Sys2Proof.Machine.execPwrEnHigh mv t s
  | .fermataExit t => Sys2Proof.Machine.execFermataExit t s
  | .auxDip mv durNs t => Sys2Proof.Machine.execAuxDip mv durNs t s
  | .eject => Sys2Proof.Machine.execEject s
  | .tcIdent body crc t => Sys2Proof.Machine.execTcIdent body crc t s
  | .tcStatus body crc t => Sys2Proof.Machine.execTcStatus body crc t s
  | .tcTelem body crc t => Sys2Proof.Machine.execTcTelem body crc t s
  | .tcEfuseRearm body crc t => Sys2Proof.Machine.execTcEfuseRearm body crc t s
  | .tcFwOpen body crc t => Sys2Proof.Machine.execTcFwOpen body crc t s
  | .tcFwWrite body crc t => Sys2Proof.Machine.execTcFwWrite body crc t s
  | .tcFwClose body crc t => Sys2Proof.Machine.execTcFwClose body crc t s
  | .tcFwRead body crc t => Sys2Proof.Machine.execTcFwRead body crc t s
  | .tcLogRead body crc t => Sys2Proof.Machine.execTcLogRead body crc t s
  | .tcFaultRead body crc t => Sys2Proof.Machine.execTcFaultRead body crc t s
  | .fwChunkProgrammed t => Sys2Proof.Machine.execFwChunkProgrammed t s
  | .tcFwSessionTimeout t => Sys2Proof.Machine.execTcFwSessionTimeout t s
  | .spsTransferCut bytes t => Sys2Proof.Machine.execSpsTransferCut bytes t s
  | .xipRead addr waitNs t => Sys2Proof.Machine.execXipRead addr waitNs t s
  | .xipWrite addr => Sys2Proof.Machine.execXipWrite addr s
  | .xipResume t => Sys2Proof.Machine.execXipResume t s
  | .flashOpDone t => Sys2Proof.Machine.execFlashOpDone t s
  | .spmCommandTransfer command addr data t => Sys2Proof.Machine.execSpmCommandTransfer command addr data t s
  | .gpioSet source fn bits => Sys2Proof.Machine.execGpioSet source fn bits s
  | .gpioClr source fn bits => Sys2Proof.Machine.execGpioClr source fn bits s
  | .gpioTog source fn bits => Sys2Proof.Machine.execGpioTog source fn bits s
  | .gpioLock source fn v => Sys2Proof.Machine.execGpioLock source fn v s
  | .patternMatch mask levels samples => Sys2Proof.Machine.execPatternMatch mask levels samples s
  | .echo => Sys2Proof.Machine.execEcho s
  | .coreState => Sys2Proof.Machine.execCoreState s
  | .litmus n00 n01 n10 n11 => Sys2Proof.Machine.execLitmus n00 n01 n10 n11 s
  | .mailboxReply => Sys2Proof.Machine.execMailboxReply s
  | .auxPowerLoss t => Sys2Proof.Machine.execAuxPowerLoss t s
  | .trayBusReturn mv t => Sys2Proof.Machine.execTrayBusReturn mv t s
  | .ejectClose => Sys2Proof.Machine.execEjectClose s
  | .d3hotExit fn => Sys2Proof.Machine.execD3hotExit fn s
  | .perstDeassert port => Sys2Proof.Machine.execPerstDeassert port s
  | .datapathParityError => Sys2Proof.Machine.execDatapathParityError s
  | .ackTimer strand t => Sys2Proof.Machine.execAckTimer strand t s
  | .creditReturnTimer strand => Sys2Proof.Machine.execCreditReturnTimer strand s
  | .telemetrySample t => Sys2Proof.Machine.execTelemetrySample t s
  | .channelTrainingEnd channel ok t => Sys2Proof.Machine.execChannelTrainingEnd channel ok t s
  | .tapTckEdge rising tms tdi => Sys2Proof.Machine.execTapTckEdge rising tms tdi s
  | .trstAssert low => Sys2Proof.Machine.execTrstAssert low s
  | .spsUnknownCommand code body crc t => Sys2Proof.Machine.execSpsUnknownCommand code body crc t s

end Sys2Proof.Machine
end

