-- ==== Sys2Proof/Safety.lean ====
section
/-!
DEFINITION. What claims about every state and every step speak of: the canonical form of the registers, and the fixed complement of the
hardware's parts.
-/
namespace Sys2Proof.Machine

/-- Every copy of the registers is in canonical form: one entry for a bit address at most, in ascending order. -/
def State.canon (s : State) : Bool := regSorted s.regs && regSorted s.latched && regSorted s.tally && regSorted s.snap

/-- The parts the chip has, whatever happens to it: 64 engines (R186), 8 cluster codas (R288), 32 stream queues (R321), 16 re-rank units
(R267), 24 channels (R541), 64 strands (R579), 65 functions (R363), 2 ports (R358). -/
def State.whole (s : State) : Bool :=
  s.sweep.engines.length == 64 && s.sweep.clusters.length == 8 && s.sweep.queues.length == 32 && s.rr.units.length == 16 &&
  s.mem.channels.length == 24 && s.weave.strands.length == 64 && s.host.fns.length == 65 && s.host.ports.length == 2

/-- The invariant of every step. -/
def State.sound (s : State) : Bool := s.canon && s.whole

/-- A run is safe while no step has stopped it. -/
def safeStep (s : State) : Bool :=
  match step s with
  | .next _ => true
  | .fault _ => false
  | .refused _ => false

end Sys2Proof.Machine
end

