-- ==== Sys2Proof/WellFormed.lean ====
section
/-!
DEFINITION. The well-formed commands: the operands that the types leave too wide.
-/
namespace Sys2Proof

/-- A command whose operands describe an event of the hardware: a descriptor header has 32 bytes (R326), a packet read returns whole flits
(R371), a failed read returns nothing, an access lies within BAR0 (R25), a port trains at a width and a speed of R358, a sample covers 24 channels, and
SPS_UNKNOWN_COMMAND carries a code that R722 does not list. -/
def Instr.wf : Instr → Bool
  | .registerWrite _ word v => decide (word.toNat + v.more.length < 2 ^ 22)
  | .meterRead _ (.bar0 off bytes) => decide (0 < bytes ∧ off.toNat + bytes ≤ 2 ^ 24)
  | .streamStart header _ _ => header.length == 32
  | .packetReadComplete _ _ ok packet _ => if ok then packet.length % 64 == 0 && packet.length != 0 else packet.isEmpty
  | .operandReadComplete _ ok operands table _ => ok || (operands.isEmpty && table.isEmpty)
  | .insertDataComplete _ ok data _ => ok || data.isEmpty
  | .linkRetrain _ width speed _ => [1, 2, 4, 8, 16].contains width && decide (1 ≤ speed ∧ speed ≤ 6)
  | .gaugeSample _ _ _ _ _ _ _ _ _ _ _ temps _ => temps.length == 24
  | .spsUnknownCommand code _ _ _ => !([0x01, 0x02, 0x03, 0x10, 0x20, 0x21, 0x22, 0x23, 0x30, 0x31].contains code.toNat)
  | _ => true

end Sys2Proof
end

