-- ==== Sys2Proof/Certificates/Slice0/Obligations.lean ====
section
/-!
DEFINITION. The statements for the provers. Each docstring names the rule or the log entry a statement follows.
-/
namespace Sys2Proof.Claims
open Sys2Proof.Machine

/-! ## Words the statements share -/

/-- A command answers the state `t`. -/
abbrev Answers (i : Instr) (s t : State) : Prop := exec i s = .next t

/-- The sources that may write the pins now: the MGC while it runs, the conductors while the core runs, the host through the owner's
function (R499, R730). -/
def mayPins (s : State) (src : PinSrc) (fn : Nat) : Bool :=
  match src with
  | .mgc => s.pwr.aux && s.pwr.mgc
  | .conductors => s.live
  | .host => s.hostAccess fn && s.owner? == some fn

/-- A write of the host wakes a chip in Rest (R764). -/
def pinsAwake (s : State) (src : PinSrc) : State :=
  match src with
  | .host => s.restWake
  | _ => s

/-- Where a source keeps its lock sequence (R743). -/
def lockPlace : PinSrc → Nat
  | .mgc => 0
  | .conductors => 1
  | .host => 2

/-- A GPIO_LOCK word of a key and a mask (R743). -/
def lockWord (key : BitVec 8) (mask : BitVec 24) : Word := key ++ mask

/-- The CRC byte of a tray request (R720). -/
def spsCrc (code : Nat) (body : Bytes) : BitVec 8 := crc8 (leBytes 1 code ++ leBytes 2 body.length ++ body)

/-- The state in which the MGC applies a tray request that arrives at `t`: the open session, if any, has been used (R695). -/
def spsTaken (s : State) (t : Nat) : State :=
  let u := s.advance t
  u.pwrMap (fun p => { p with session := p.session.map (fun x => { x with lastAt := u.clk.now }) })

/-- The end of a tray transfer that arrived at `t`: the frame counted, its result kept for the next status byte, and the reply sent
(R719, R721, R722). `u` is the state after the request was applied. -/
def spsSent (s : State) (t : Nat) (u : State) (result : Nat) (reply : Bytes) : State :=
  let tail := leBytes 1 result ++ leBytes 2 reply.length ++ reply
  let v := if result = 0 then u.inc spsFramesCount
    else if result = 5 then (u.inc spsFramesCount).inc spsCrcCount else (u.inc spsFramesCount).inc spsRefusedCount
  (v.pwrMap (fun p => { p with spsLast := decide (result ≠ 0) })).emit (.sps ((s.advance t).spsStatus :: 0xA5#8 :: tail ++ [crc8 tail]))

/-- The core domain works: it plays, rests or wakes. -/
abbrev coreWorks (s : State) : Prop := s.pwr.mode = .playing ∨ s.pwr.mode = .rest ∨ s.pwr.mode = .waking

/-- The core has lost its power (R672, R674): `kept` in Fermata with the store retained, otherwise off with the store lost. -/
abbrev powerLost (v : State) (kept : Bool) : Prop :=
  v.pwr.coreOn = false ∧ v.pwr.switchOn = false ∧ v.pwr.pwrGood = false ∧ v.pwr.startDue = none ∧ v.store.staging = [] ∧ v.host.cmds = [] ∧
    v.pwr.retained = kept ∧ v.pwr.mode = (if kept then .fermata else .off) ∧ (kept = false → v.store = storeReset)

/-- Every condition of R682 for closing the hot-swap switch, of a chip that is off with no start due. -/
abbrev mayClose (p : Power) : Prop :=
  p.pwrEn = true ∧ p.aux = true ∧ p.mgc = true ∧ p.efuse.tripped = false ∧ p.efuse.locked = false ∧ p.session = none ∧ p.ejectOpen = false ∧
    p.waitPwrEn = false ∧ p.mode = .off ∧ p.startDue = none

/-- A fatal error of a cause has been taken (R842): it is reported and nothing runs. -/
abbrev isFatal (v : State) (cause : Nat) : Prop :=
  v.rd errStatusFatal = 1 ∧ v.rd errStatusCause = cause ∧ v.live = false ∧ v.pwr.alert = true ∧ v.rd errEventFatal = 1

/-- A command of this chip's host that intake has passed and that is to be executed now (R402, R412, R413). -/
abbrev hostReady (s : State) (cid op : Nat) (c : Cmd) : Prop :=
  s.live = true ∧ s.cmd? cid = some c ∧ c.opcode = op ∧ c.stage = .ready ∧ c.origin = 0 ∧ c.quiet = false ∧ s.inOrder c = true

/-- What a write of the value `x` leaves in a field that held `old`, by its access code (R30). -/
def written (f : Fld) (old x : Nat) : Nat :=
  match f.acc with
  | .rw | .rwo | .rwl => x % 2 ^ f.width
  | .w1c => (old &&& (2 ^ f.width - 1 - x)) % 2 ^ f.width
  | .w1s => (old ||| x) % 2 ^ f.width
  | .ro | .wo => old

/-- The words outside the function windows whose write does more, or may do less, than their fields' access codes say: ranges (R40 and its
kin), map-outs, resets, trainings, the mailbox, the pins. -/
def specialWords : List Nat :=
  [0x2000, 0x2004, 0x2008, 0x2010, 0x3000, 0x3004, 0x3010, 0x3014, 0x4000, 0x6000, 0x6004, 0x7000, 0x800C, 0x10000, 0x10004, 0x10010, 0x10014,
    0x20000, 0x2001C, 0x20020, 0x40008, 0x4080C, 0x41000, 0x50120, 0x80000]

/-- What follows when a granule has landed: slots it freed are used, where there were none, and the re-rank units go on (R268, R272). -/
def afterLanding (full : Bool) (w : State) : State :=
  let v := if full then w.issueEvery else w
  if v.clk.phase = .rerank then State.unitsRun v.unitFuel v.clk.now v else v

/-- A message of a type has arrived whole on a strand, and is the oldest of its type (R602, R605). -/
abbrev gotMsg (s : State) (i t : Nat) (m : Bytes) : Prop :=
  s.live = true ∧ (s.strand i).inbox.find? (fun m => msgType m == t) = some m

/-- The state with that message taken. -/
def takenMsg (s : State) (i t : Nat) : State :=
  s.strandMap i (fun x => { x with inbox := dropFirst (fun y => msgType y == t) x.inbox })

end Sys2Proof.Claims

open Sys2Proof Sys2Proof.Machine Sys2Proof.Claims

/-! ## The block as a machine -/

/-- The step (log entry 3): with a command at the front of the queue, a step executes it with the rest of the queue left; on an empty queue the
block idles. -/
def Obligations.StepRunsFront : Prop :=
  ∀ (c : Instr) (rest : List Instr) (s : State),
    step { s with pending := c :: rest } = exec c { s with pending := rest } ∧ step { s with pending := [] } = .next { s with pending := [] }

/-- The machine after reset: no supply, core and store off, every register at its reset value in every copy (R31), nothing fetched, nothing
sent, no command waiting, no function that may access it, and the invariant of every step true of it. The values the spec does not give are those
of log entries 1 and 2. -/
def Obligations.ResetState : Prop :=
  (State.reset.pwr.aux = false ∧ State.reset.pwr.mode = .off ∧ State.reset.pwr.coreOn = false ∧ State.reset.live = false ∧
      State.reset.pending = [] ∧ State.reset.out = [] ∧ State.reset.host.cmds = [] ∧ State.reset.store.staging = [] ∧
      (∀ (f : Fld) (i : Nat), State.reset.rd f i = resetOf f i) ∧ (∀ fn : Nat, State.reset.hostAccess fn = false) ∧
      State.reset.owner? = none) ∧
  (State.reset.sound = true)

/-- The invariant of every step: whatever the command, the registers stay in their one canonical form, and the chip keeps its 64 engines
(R186), 8 cluster codas (R288), 32 stream queues (R321), 16 re-rank units (R267), 24 channels (R541), 64 strands (R579), 65 functions (R363) and
2 ports (R358). -/
def Obligations.StepsKeepSound : Prop :=
  ∀ s s' : State, s.sound = true → step s = .next s' → s'.sound = true

/-- What no step does: take a command that is not at the front, take back anything that was sent, or turn time or the count of the free
values back. It holds of every command in every state. -/
def Obligations.StepsGoForward : Prop :=
  ∀ s s' : State, step s = .next s' →
    s'.pending = s.pending.drop 1 ∧ s.out <+: s'.out ∧ s.clk.now ≤ s'.clk.now ∧ s.free ≤ s'.free

/-- Every command completes in every state, but for one that describes no event of the hardware (log entry 6): nothing is refused, and only five
commands can fault, with operands that do not fit the event. -/
def Obligations.OnlyIllFormedCommandsStop : Prop :=
  ∀ (i : Instr) (s : State),
    (∃ t, Answers i s t) ∨
    (exec i s = .fault .illFormed ∧
      match i with
      | .packetReadComplete .. => True
      | .operandReadComplete .. => True
      | .insertDataComplete .. => True
      | .litmus n00 n01 n10 n11 => ∀ t, exec (.litmus n00 n01 n10 n11) s ≠ .next t
      | .spsUnknownCommand code .. => code.toNat ∈ [0x01, 0x02, 0x03, 0x10, 0x20, 0x21, 0x22, 0x23, 0x30, 0x31]
      | _ => False)

/-- A command of the protocol that was never fetched, or has completed, does nothing, and neither does a message of the weave that has not arrived
(log entry 5). -/
def Obligations.AbsentCommandsDoNothing : Prop :=
  ∀ s : State,
    (∀ cid : Nat, s.cmd? cid = none →
      ∀ i ∈ [Instr.ping cid, .identify cid, .claim cid, .release cid, .handover cid, .search cid, .searchFused cid, .getById cid, .stats cid,
        .insert cid, .delete cid, .upsert cid, .settle cid, .shelfCreate cid, .shelfDrop cid, .shelfGrant cid, .configRead cid, .configWrite cid,
        .measureConfig cid, .fwStage cid, .fwQuery cid, .telemetryRead cid, .flushQueue cid, .weaveAdminForm cid, .weaveAdminAdmit cid,
        .weaveAdminExclude cid, .weaveAdminRebuild cid, .weaveAdminRemote cid, .weaveAdminPromote cid, .weaveAdminStatus cid, .mapOut cid,
        .mapIn cid, .stagingWaitExpire cid],
        Answers i s s) ∧
    (∀ k : Fin 64, ∀ p ∈ [(0x01, Instr.settings k), (0x02, .generations k), (0x03, .lossReport k), (0x04, .adopt k), (0x05, .rejoin k), (0x06, .rest k),
        (0x10, .forward k), (0x11, .forwardAck k), (0x12, .plan k), (0x13, .prepare k), (0x14, .prepareReply k), (0x15, .commit k), (0x16, .applied k),
        (0x17, .settled k), (0x18, .pointRead k), (0x19, .pointReply k), (0x1A, .remote k), (0x1B, .remoteReply k), (0x1C, .admin k),
        (0x1D, .adminAck k), (0x20, .capacity k), (0x21, .valueList k), (0x22, .tieRequest k), (0x23, .tieList k), (0x24, .key k), (0x25, .finalList k),
        (0x26, .statsPartial k), (0x30, .rebuildData k), (0x31, .rebuildEnd k)],
      (∀ m ∈ (s.strand k.val).inbox, msgType m ≠ p.1) → Answers p.2 s s)

/-! ## Pins, serial ports, flash, mailbox, test access port -/

/-- GPIO_SET, GPIO_CLR and GPIO_TOG from a source that may write the pins: GPIO_OUT takes its new value and nothing else changes. Bit by
bit, SET sets the bits written as 1, CLR clears them, TOG inverts them, and bits written as 0 keep their values (R729).
Where the spec leaves a point open, the clause follows the model's choice: log entry 30. -/
def Obligations.PinOutputWrites : Prop :=
  ∀ (src : PinSrc) (fn : Seat) (bits : BitVec 24) (s : State), mayPins s src fn.val = true →
    (∃ v, Answers (.gpioSet src fn bits) s ((pinsAwake s src).wr gpioOutValue 0 v) ∧
      ∀ p < 24, v.testBit p = ((s.rd gpioOutValue).testBit p || bits.getLsbD p)) ∧
    (∃ v, Answers (.gpioClr src fn bits) s ((pinsAwake s src).wr gpioOutValue 0 v) ∧
      ∀ p < 24, v.testBit p = ((s.rd gpioOutValue).testBit p && !bits.getLsbD p)) ∧
    (∃ v, Answers (.gpioTog src fn bits) s ((pinsAwake s src).wr gpioOutValue 0 v) ∧
      ∀ p < 24, v.testBit p = ((s.rd gpioOutValue).testBit p ^^ bits.getLsbD p))

/-- The lock sequence of R743: three consecutive writes of GPIO_LOCK from one source with one mask and the keys 0x4C, 0xB3, 0x4C lock
every pin of the mask, and no others; a write with any other key, or with another mask, ends the source's sequence and locks nothing; a write with
key 0x4C that does not complete a sequence starts a new one; no write touches the sequence of another source. -/
def Obligations.PinLockSequence : Prop :=
  ∀ (src : PinSrc) (fn : Seat) (mask : BitVec 24) (s : State), s.sound = true → s.pwr.pins.lockSeq.length = 3 →
    s.rd gpioLockedPins < 2 ^ 24 → mayPins s src fn.val = true →
    (∃ a b c, Answers (.gpioLock src fn (lockWord 0x4C mask)) s a ∧ Answers (.gpioLock src fn (lockWord 0xB3 mask)) a b ∧
      Answers (.gpioLock src fn (lockWord 0x4C mask)) b c ∧ c.lockedPins = s.lockedPins ||| mask.toNat) ∧
    (∀ key : BitVec 8, key ≠ 0x4C → key ≠ 0xB3 → ∃ t, Answers (.gpioLock src fn (lockWord key mask)) s t ∧
      t.lockedPins = s.lockedPins ∧ t.pwr.pins.lockSeq[lockPlace src]? = some (0, 0)) ∧
    (∀ n m, s.pwr.pins.lockSeq[lockPlace src]? = some (n, m) →
      (∀ key : BitVec 8, key ≠ 0x4C → mask.toNat ≠ m → ∃ t, Answers (.gpioLock src fn (lockWord key mask)) s t ∧
        t.lockedPins = s.lockedPins ∧ t.pwr.pins.lockSeq[lockPlace src]? = some (0, 0)) ∧
      (n ≠ 2 ∨ mask.toNat ≠ m → ∃ t, Answers (.gpioLock src fn (lockWord 0x4C mask)) s t ∧
        t.lockedPins = s.lockedPins ∧ t.pwr.pins.lockSeq[lockPlace src]? = some (1, mask.toNat))) ∧
    (∀ w, ∃ t, Answers (.gpioLock src fn w) s t ∧
      ∀ j, j ≠ lockPlace src → t.pwr.pins.lockSeq[j]? = s.pwr.pins.lockSeq[j]?)

/-- Samples of the pins (R736 to R738): the board drives the pins of the mask, and every pattern-match unit takes each sample that results. However
many there are, they clear no bit of GPIO_PM_STATUS and set none of a unit that is off. On one sample, a unit in level mode with filter 0 sets
its bit exactly when it matches. -/
def Obligations.PatternSampleSetsStatus : Prop :=
  ∀ (mask levels : BitVec 24) (s : State), s.sound = true → s.pwr.aux = true →
    (∀ samples : Nat, ∃ t, Answers (.patternMatch mask levels samples) s t ∧ t.pwr.pins.extMask = mask.toNat ∧
      t.pwr.pins.extLevel = levels.toNat ∧ t.store = s.store ∧ t.out = s.out ∧
      ∀ m < 4, ((s.rd gpioPmStatusMatch).testBit m = true → (t.rd gpioPmStatusMatch).testBit m = true) ∧
        (s.rd gpioPmCtrlEn m = 0 → (t.rd gpioPmStatusMatch).testBit m = (s.rd gpioPmStatusMatch).testBit m)) ∧
    (∃ t, Answers (.patternMatch mask levels 1) s t ∧
      ∀ m < 4,
        let lv := (s.pinMap (fun p => { p with extMask := mask.toNat, extLevel := levels.toNat })).gpioIn
        s.rd gpioPmCtrlEn m ≠ 0 → s.rd gpioPmCtrlMode m = 0 → s.rd gpioPmCtrlFilter m = 0 →
          (t.rd gpioPmStatusMatch).testBit m = ((s.rd gpioPmStatusMatch).testBit m || s.pmRaw m lv))

/-- The tray's questions (R687, R700, R722), each with a right CRC and the length of its request while the MGC runs: the transfer is
answered with result 0x00. TC_STATUS clears the tray's copy of PWR_EVENT and releases ALERT_N (R688, R685); the others change nothing but
the counts of the transfer. TC_FW_READ is refused while a session is open, and TC_LOG_READ past the last record. A request that is not
applied (R722) is answered with an empty reply: a wrong CRC with 0x05, a code that is not listed with 0x03, a body of another length with 0x04.
Where the spec leaves a point open, the clause follows the model's choice: log entries 20 and 24. -/
def Obligations.TrayRequests : Prop :=
  (∀ (s : State) (t : Nat), (s.advance t).pwr.aux = true → (s.advance t).pwr.mgc = true →
      let u := spsTaken s t
      (∃ reply, Answers (.tcIdent [] (spsCrc 0x01 []) t) s (spsSent s t u 0 reply) ∧ reply.length = 64 ∧
        reply.take 8 = leBytes 8 Config.serial.toNat) ∧
      (∃ reply v, Answers (.tcStatus [] (spsCrc 0x02 []) t) s (spsSent s t v 0 reply) ∧ reply.length = 32 ∧
        v.pwr.trayEvents = 0 ∧ v.pwr.alert = false ∧ v.regs = u.regs ∧
        field reply 8 4 = u.pwr.trayEvents % 2 ^ 32) ∧
      (∃ reply, Answers (.tcTelem [] (spsCrc 0x03 []) t) s (spsSent s t u 0 reply) ∧ reply.length = 64) ∧
      (∀ body : Bytes, body.length = 5 → (field body 0 1 = 1 ∨ field body 0 1 = 2) → field body 1 4 + 256 ≤ 2 ^ 24 →
        Answers (.tcFwRead body (spsCrc 0x23 body) t) s
          (if u.pwr.session.isSome then spsSent s t u 1 [] else spsSent s t u 0 (u.bankBytes (field body 0 1) (field body 1 4) 256))) ∧
      (∀ body : Bytes, body.length = 2 →
        Answers (.tcLogRead body (spsCrc 0x30 body) t) s
          (match u.pwr.evLog[field body 0 2]? with
          | some r => spsSent s t u 0 r
          | none => spsSent s t u 1 [])) ∧
      (∃ reply v, Answers (.tcFaultRead [] (spsCrc 0x31 []) t) s (spsSent s t v 0 reply) ∧ reply.length = 256 ∧ v.regs = u.regs ∧ v.pwr = u.pwr)) ∧
  (∀ (s : State) (t : Nat) (body : List Byte) (crc : Byte), (s.advance t).pwr.aux = true →
      (crc ≠ spsCrc 0x01 body → Answers (.tcIdent body crc t) s (spsSent s t (s.advance t) 5 [])) ∧
      (crc = spsCrc 0x01 body → body ≠ [] → Answers (.tcIdent body crc t) s (spsSent s t (s.advance t) 4 [])) ∧
      (crc = spsCrc 0x21 body → body.length ≠ 260 → Answers (.tcFwWrite body crc t) s (spsSent s t (s.advance t) 4 [])) ∧
      (∀ code : Byte, (Instr.spsUnknownCommand code body crc t).wf = true →
        Answers (.spsUnknownCommand code body crc t) s
          (if crc = spsCrc code.toNat body then spsSent s t (s.advance t) 3 [] else spsSent s t (s.advance t) 5 [])) ∧
      (∀ code : Byte, (Instr.spsUnknownCommand code body crc t).wf = false → exec (.spsUnknownCommand code body crc t) s = .fault .illFormed))

/-- The tray's firmware session and the e-fuse (R664, R695, R725, R726), each request with a right CRC and its length while the MGC runs.
TC_FW_OPEN with no session and a length from 64 B to 16 MiB opens one on the inactive bank; TC_FW_WRITE in a session with a free buffer
takes a chunk it has not taken before; TC_FW_CLOSE of a session with a free buffer ends it and leaves the bank valid or failed;
TC_EFUSE_REARM re-arms a tripped e-fuse that is not locked once 1 s has passed since the trip. A transfer cut before its CRC byte applies
nothing, one cut after it applies the request, and both are counted (R724); a session idle for 600 s ends (R695); a chunk's program ends with its
bytes in the session's bank and its buffer free (R725).
Where the spec leaves a point open, the clause follows the model's choice: log entry 21. -/
def Obligations.TraySessions : Prop :=
  (∀ (s : State) (t : Nat), (s.advance t).pwr.aux = true → (s.advance t).pwr.mgc = true →
      let u := spsTaken s t
      (∀ body : Bytes, body.length = 4 → u.pwr.session = none → u.pwr.fwWrite = none → 64 ≤ field body 0 4 → field body 0 4 ≤ 2 ^ 24 →
        ∃ v x, Answers (.tcFwOpen body (spsCrc 0x20 body) t) s (spsSent s t v 0 []) ∧ v.pwr.session = some x ∧ x.bank = u.inactive ∧
          x.length = field body 0 4 ∧ x.written = [] ∧ x.buffered = [] ∧ v.pwr.boot.staged = 0) ∧
      (∀ (body : Bytes) (x : Session), body.length = 260 → u.pwr.session = some x → x.buffered.length < 2 →
        field body 0 4 % 256 = 0 → field body 0 4 + 256 ≤ x.length → x.written.all (fun c => c.1 != field body 0 4) = true →
        ∃ v y, Answers (.tcFwWrite body (spsCrc 0x21 body) t) s (spsSent s t v 0 []) ∧ v.pwr.session = some y ∧
          y.written = x.written ++ [(field body 0 4, body.drop 4)] ∧ y.buffered = x.buffered ++ [field body 0 4]) ∧
      (∀ (body : Bytes) (x : Session), body.length = 4 → u.pwr.session = some x → x.buffered.length < 2 →
        ∃ v code, Answers (.tcFwClose body (spsCrc 0x22 body) t) s (spsSent s t v 0 [code]) ∧ v.pwr.session = none ∧
          (code = 0 ∨ code = 1 ∨ code = 2) ∧ (u.pwr.fwWait = [] → v.pwr.boot.staged = if code = 0 then 1 else 2)) ∧
      (u.pwr.efuse.tripped = true → u.pwr.efuse.locked = false → (∀ a ∈ u.pwr.efuse.trips, a + ns 1000000000 ≤ u.clk.now) →
        ∃ v, Answers (.tcEfuseRearm [] (spsCrc 0x10 []) t) s (spsSent s t v 0 []) ∧ v.pwr.efuse.tripped = false) ∧
      (u.pwr.efuse.tripped = true → u.pwr.efuse.locked = true →
        Answers (.tcEfuseRearm [] (spsCrc 0x10 []) t) s (spsSent s t u 1 []))) ∧
  (∀ (s : State) (t : Nat),
      let u := s.advance t
      (∀ bytes : List Byte, u.pwr.aux = true → bytes.length < 4 + field bytes 1 2 →
        Answers (.spsTransferCut bytes t) s ((u.inc spsCutCount).pwrMap (fun p => { p with spsLast := true }))) ∧
      (u.pwr.aux = true → ∃ v, Answers (.spsTransferCut [0x02, 0, 0, spsCrc 0x02 []] t) s v ∧ v.pwr.trayEvents = 0 ∧ v.pwr.alert = false ∧
        v.pwr.spsLast = true ∧ v.regs = (u.inc spsCutCount).regs) ∧
      (∀ x : Session, u.pwr.session = some x →
        if x.lastAt + ns 600000000000 ≤ u.clk.now then
          ∃ v, Answers (.tcFwSessionTimeout t) s v ∧ v.pwr.session = none ∧ (u.pwr.fwWait = [] → v.pwr.boot = u.pwr.boot)
        else Answers (.tcFwSessionTimeout t) s u) ∧
      (∀ (x : Session) (o : FlashOp) (off : Nat) (rest : List Nat) (chunk : Bytes), u.pwr.session = some x → u.pwr.spm.op = some o →
        x.buffered = off :: rest → o.erase = false → o.suspended = false → o.addr = bankBase x.bank + off → (x.bank = 1 ∨ x.bank = 2) →
        off < 2 ^ 24 → x.written.find? (fun c => c.1 == off) = some (off, chunk) → chunk ≠ [] →
        ∃ v y, Answers (.fwChunkProgrammed t) s v ∧ v.pwr.session = some y ∧ y.buffered = rest ∧ y.written = x.written ∧
          (v.bank x.bank).pages = (off, chunk) :: (u.bank x.bank).pages))

/-- The execute-in-place window (R711, R712, R714, R715, R800) once the MGC runs: a buffered line is returned without a flash access; a line
of a block in which an operation is in progress waits, and is counted; with the bus free the line is read, counted and buffered; a read
during an operation elsewhere suspends it once; a line of a cold-data segment that failed its check, and every write, returns an error. The flash
behind it (R708, R709): a suspended operation resumes 2 µs after the last line read; an operation that ends leaves its addresses wiped or its page
programmed, and the staging that began it goes on, but the program of a session's chunk ends as FW_CHUNK_PROGRAMMED; an MGC command transfer
sets the write enable latch, starts a program or an erase above the banks, suspends, resumes, resets or enters octal mode; those that read
change nothing.
Where the spec leaves a point open, the clause follows the model's choice: log entries 23 and 63. -/
def Obligations.FlashWindowAndOperations : Prop :=
  (∀ (s : State) (addr : Word) (waitNs t : Nat),
      let u := s.advance t
      let line := addr.toNat / 64 * 64
      u.pwr.mgc = true →
      (u.inCold line = true → u.pwr.boot.coldBad = true → Answers (.xipRead addr waitNs t) s (u.emit (.xip [] true))) ∧
      (u.inCold line = true → u.pwr.boot.coldBad = false → u.pwr.boot.coldOk = false →
        Answers (.xipRead addr waitNs t) s (u.pwrMap (fun p => { p with spm := { p.spm with queue := p.spm.queue ++ [line] } }))) ∧
      (u.inCold line = false ∨ u.pwr.boot.coldBad = false ∧ u.pwr.boot.coldOk = true →
        (line ∈ u.pwr.spm.lines → Answers (.xipRead addr waitNs t) s (u.emit (.xip (u.flashBytes line 64) false))) ∧
        (line ∉ u.pwr.spm.lines → u.onBusyBlock line = true →
          Answers (.xipRead addr waitNs t) s
            ((u.inc spmXipHeldCount).pwrMap (fun p => { p with spm := { p.spm with queue := p.spm.queue ++ [line] } }))) ∧
        (line ∉ u.pwr.spm.lines → u.pwr.spm.op = none → ∃ v, Answers (.xipRead addr waitNs t) s v ∧
          v.out = u.out ++ [.xip (u.flashBytes line 64) false] ∧ v.pwr.spm.lines.head? = some line ∧ v.pwr.spm.lines.length ≤ 16 ∧
          v.pwr.spm.op = none) ∧
        (∀ o, line ∉ u.pwr.spm.lines → u.onBusyBlock line = false → u.pwr.spm.op = some o → ∃ v o', Answers (.xipRead addr waitNs t) s v ∧
          v.out = u.out ++ [.xip (u.flashBytes line 64) false] ∧ v.pwr.spm.op = some o' ∧ o'.suspended = true ∧
          o'.suspends = if o.suspended then o.suspends else o.suspends + 1)) ∧
      (s.pwr.mgc = true → Answers (.xipWrite addr) s ((s.ev spmEventXipWrite).emit (.xip [] true)))) ∧
  (∀ (s : State) (t : Nat),
      let u := s.advance t
      (∀ o, u.pwr.spm.op = some o → o.suspended = true → u.pwr.spm.lastRead + ns 2000 ≤ u.clk.now →
        Answers (.xipResume t) s (u.spmMap (fun m => { m with op := some { o with suspended := false } }))) ∧
      (u.pwr.spm.op = none → Answers (.flashOpDone t) s u) ∧
      (∀ o, u.pwr.spm.op = some o → (o.suspended = true → Answers (.flashOpDone t) s u) ∧
        (o.suspended = false → u.pwr.fwWrite = none → u.pwr.session = none → ∃ v, Answers (.flashOpDone t) s v ∧ v.pwr.spm.op = none ∧
          (o.erase = false → v.pwr.rest = u.pwr.rest ∧ v.pwr.bankA = u.pwr.bankA ∧ v.pwr.bankB = u.pwr.bankB) ∧
          (o.erase = true → 0x02000000 ≤ o.addr → v.pwr.rest = u.pwr.rest.wipe (o.addr - 0x02000000) o.len ∧ v.pwr.bankA = u.pwr.bankA ∧
            v.pwr.bankB = u.pwr.bankB)) ∧
        (∀ (w : FwWrite) (c : Cmd) (off : Nat), o.suspended = false → u.pwr.fwWrite = some w → (w.bank = 1 ∨ w.bank = 2) → u.cmd? w.cid = some c →
          o.addr = bankBase w.bank + off → off < 2 ^ 24 → ∃ v, Answers (.flashOpDone t) s v ∧ v.pwr.fwWrite = some { w with done := w.done + 1 } ∧
            (v.bank w.bank = if o.erase then (u.bank w.bank).wipe off o.len
              else if (c.operands.drop off).take 256 = [] then u.bank w.bank else (u.bank w.bank).program off ((c.operands.drop off).take 256))) ∧
        (∀ (x : Session) (off : Nat), o.suspended = false → u.pwr.fwWrite = none → u.pwr.session = some x → (x.bank = 1 ∨ x.bank = 2) →
          o.addr = bankBase x.bank + off → off < 2 ^ 24 → (o.erase = false → Answers (.flashOpDone t) s u) ∧
          (o.erase = true → ∃ v, Answers (.flashOpDone t) s v ∧ v.pwr.session = some { x with erased := x.erased + 1 } ∧
            v.bank x.bank = (u.bank x.bank).wipe off o.len))) ∧
      (∀ (addr : Word) (data : List Byte), u.pwr.aux = true →
        (∀ c, c = SpmCmd.readSfdp ∨ c = .readId ∨ c = .readStatus ∨ c = .read → Answers (.spmCommandTransfer c addr data t) s u) ∧
        Answers (.spmCommandTransfer .writeEnable addr data t) s (u.spmMap (fun m => { m with wel := true })) ∧
        (u.pwr.spm.wel = true → u.pwr.spm.op = none → 0x02000000 ≤ addr.toNat →
          (∃ v, Answers (.spmCommandTransfer .pageProgram addr data t) s v ∧ v.pwr.spm.lines = [] ∧ v.pwr.spm.wel = false ∧
            v.pwr.spm.op = some ⟨false, addr.toNat, 256, false, 0⟩ ∧
            v.pwr.rest = u.pwr.rest.program (addr.toNat / 256 * 256 - 0x02000000) (data.take 256)) ∧
          (∃ v, Answers (.spmCommandTransfer .erase4k addr data t) s v ∧ v.pwr.spm.lines = [] ∧ v.pwr.spm.wel = false ∧
            v.pwr.spm.op = some ⟨true, addr.toNat / 4096 * 4096, 4096, false, 0⟩ ∧ v.pwr.rest = u.pwr.rest) ∧
          (∃ v, Answers (.spmCommandTransfer .erase64k addr data t) s v ∧ v.pwr.spm.lines = [] ∧ v.pwr.spm.wel = false ∧
            v.pwr.spm.op = some ⟨true, addr.toNat / 65536 * 65536, 65536, false, 0⟩ ∧ v.pwr.rest = u.pwr.rest)) ∧
        ((u.pwr.spm.wel = false ∨ u.pwr.spm.op ≠ none ∨ addr.toNat < 0x02000000) →
          Answers (.spmCommandTransfer .pageProgram addr data t) s u ∧ Answers (.spmCommandTransfer .erase4k addr data t) s u ∧
            Answers (.spmCommandTransfer .erase64k addr data t) s u) ∧
        Answers (.spmCommandTransfer .suspend addr data t) s
          (u.spmMap (fun m => { m with op := m.op.map (fun o => { o with suspended := true }) })) ∧
        Answers (.spmCommandTransfer .resume addr data t) s
          (u.spmMap (fun m => { m with op := m.op.map (fun o => { o with suspended := false }) })) ∧
        Answers (.spmCommandTransfer .reset addr data t) s (u.spmMap (fun m => { m with wel := false, octal := false, op := none })) ∧
        Answers (.spmCommandTransfer .octalEntry addr data t) s (u.spmMap (fun m => { m with octal := true }))))

/-- The host mailbox (R813, R814). ECHO answers the request's words and CORE_STATE one word for each core, both with status 0, and with
status 2 for a bad length; LITMUS answers 2 for a bad parameter, 3 outside Playing, and in a background window, for which it waits, the counts of
a run of any of its three tests that R812 allows, while counts that no run gives stop the model; MAILBOX_REPLY writes the words, the sequence number, the status, the length
and done, and clears go.
Where the spec leaves a point open, the clause follows the model's choice: log entries 6 and 29. -/
def Obligations.MailboxRequestsAndReplies : Prop :=
  ∀ s : State,
    (s.live = true → s.mailboxHas 1 = true →
      Answers .echo s (if 8 < s.rd cndH2dCtrlLen then s.mailboxReady 2 []
        else s.mailboxReady 0 ((List.range (s.rd cndH2dCtrlLen)).map (fun w => s.rd cndH2dDataWord w)))) ∧
    (s.live = true → s.mailboxHas 2 = true →
      Answers .coreState s (if s.rd cndH2dCtrlLen ≠ 0 then s.mailboxReady 2 []
        else s.mailboxReady 0 ((List.range 4).map (fun i =>
          s.rd cndStateState i + 16 * s.rd cndStateRole i + 2 ^ 16 * (s.rd cndHeartbeatMeasure i % 2 ^ 16))))) ∧
    (∀ a b c d : Word, s.mailboxHas 3 = true → s.rd errStatusFatal = 0 →
      (s.rd cndH2dCtrlLen ≠ 3 ∨ 2 < s.rd cndH2dDataWord 0 ∨ s.rd cndH2dDataWord 1 = 0 ∨ 1000000 < s.rd cndH2dDataWord 1 →
        Answers (.litmus a b c d) s (s.mailboxReady 2 [])) ∧
      (s.rd cndH2dCtrlLen = 3 → s.rd cndH2dDataWord 0 ≤ 2 → 0 < s.rd cndH2dDataWord 1 → s.rd cndH2dDataWord 1 ≤ 1000000 →
        (s.pwr.mode ≠ .playing → Answers (.litmus a b c d) s (s.mailboxReady 3 [])) ∧
        (s.pwr.mode = .playing → s.clk.bgOpen = false → Answers (.litmus a b c d) s s) ∧
        (s.pwr.mode = .playing → s.clk.bgOpen = true →
          let all := if s.rd cndH2dDataWord 0 = 2 then a.toNat + b.toNat else a.toNat + b.toNat + c.toNat + d.toNat
          let forbidden := if s.rd cndH2dDataWord 0 = 1 then c.toNat else a.toNat
          (all = s.rd cndH2dDataWord 1 → (s.rd cndH2dDataWord 2 % 2 = 0 ∨ forbidden = 0) →
            Answers (.litmus a b c d) s (s.mailboxReady 0 [a.toNat, b.toNat, c.toNat, d.toNat])) ∧
          (all ≠ s.rd cndH2dDataWord 1 ∨ s.rd cndH2dDataWord 2 % 2 = 1 ∧ forbidden ≠ 0 → exec (.litmus a b c d) s = .fault .illFormed)))) ∧
    (∀ r : MboxReply, s.sound = true → s.pwr.mbox = some r → r.words.length ≤ 8 → (∀ w ∈ r.words, w < 2 ^ 32) →
      r.seq < 256 → r.status < 256 →
      ∃ v, Answers .mailboxReply s v ∧ v.pwr.mbox = none ∧ v.rd cndD2hCtrlDone = 1 ∧ v.rd cndD2hCtrlSeq = r.seq ∧
        v.rd cndD2hCtrlStatus = r.status ∧ v.rd cndD2hCtrlLen = r.words.length ∧ v.rd cndH2dCtrlGo = 0 ∧
        ∀ i w, r.words[i]? = some w → v.rd cndD2hDataWord i = w)

/-- The test access port (R871, R873; the state diagram is that of IEEE 1149.1, PRESUMED, log entry 42). While TRST_N is low every edge
leaves the port in Test-Logic-Reset with IDCODE selected and nothing else changed; with TRST_N high, five rising edges with TMS 1 reach
Test-Logic-Reset from every state; a rising edge moves the port by the diagram and captures or shifts; a falling edge drives TDO and
updates the instruction or the boundary-scan register; TRST_N going low resets at once, and going high leaves the port where it is. -/
def Obligations.TestAccessPortResets : Prop :=
  ∀ s : State,
    (∀ rising tms tdi : Bool, s.pwr.jtag.trst = true →
      Answers (.tapTckEdge rising tms tdi) s (s.jtagMap (fun j => { j with state := .reset, ir := 0xFE }))) ∧
    (∀ tdi : Bool, s.pwr.jtag.trst = false → ∃ a b c d e,
      Answers (.tapTckEdge true true tdi) s a ∧ Answers (.tapTckEdge true true tdi) a b ∧ Answers (.tapTckEdge true true tdi) b c ∧
      Answers (.tapTckEdge true true tdi) c d ∧ Answers (.tapTckEdge true true tdi) d e ∧ e.pwr.jtag.state = .reset ∧
      e.pwr.jtag.ir = 0xFE ∧ e.out = s.out ∧ e.regs = s.regs) ∧
    (∀ tms tdi : Bool, s.pwr.jtag.trst = false → ∃ v, Answers (.tapTckEdge true tms tdi) s v ∧
      v.pwr.jtag.state = s.pwr.jtag.state.next tms ∧ v.regs = s.regs ∧ v.out = s.out ∧ v.pwr.jtag.bsr = s.pwr.jtag.bsr ∧
      (s.pwr.jtag.state = .capIr → v.pwr.jtag.irShift = 1) ∧
      (s.pwr.jtag.state = .shIr → v.pwr.jtag.irShift = s.pwr.jtag.irShift / 2 + (if tdi then 128 else 0)) ∧
      (s.pwr.jtag.state = .shDr → v.pwr.jtag.drShift = s.pwr.jtag.drShift.drop 1 ++ [tdi]) ∧
      (s.pwr.jtag.state = .capDr → s.pwr.jtag.ir = 0xFE → v.pwr.jtag.drShift = (List.range 32).map (fun i => idcode.testBit i)) ∧
      (s.pwr.jtag.state = .capDr → s.pwr.jtag.ir ≠ 0xFE → s.pwr.jtag.ir ≠ 0 → s.pwr.jtag.ir ≠ 1 → v.pwr.jtag.drShift = [false])) ∧
    (∀ tms tdi : Bool, s.pwr.jtag.trst = false → ∃ v, Answers (.tapTckEdge false tms tdi) s v ∧ v.pwr.jtag.state = s.pwr.jtag.state ∧
      v.regs = s.regs ∧ v.pwr.jtag.ir = (if s.pwr.jtag.state = .upIr then s.pwr.jtag.irShift else s.pwr.jtag.ir) ∧
      v.pwr.jtag.bsr = (if s.pwr.jtag.state = .upDr ∧ (s.pwr.jtag.ir = 0 ∨ s.pwr.jtag.ir = 1) then s.pwr.jtag.drShift else s.pwr.jtag.bsr) ∧
      v.out = s.out ++ (if s.pwr.jtag.state = .shDr then [.tdo (s.pwr.jtag.drShift.headD false)]
        else if s.pwr.jtag.state = .shIr then [.tdo (s.pwr.jtag.irShift.testBit 0)] else [])) ∧
    (∃ v, Answers (.trstAssert true) s v ∧ v.pwr.jtag.trst = true ∧ v.pwr.jtag.state = .reset ∧ v.pwr.jtag.ir = 0xFE) ∧
    (∃ v, Answers (.trstAssert false) s v ∧ v.pwr.jtag.trst = false ∧ v.pwr.jtag.state = s.pwr.jtag.state)

/-! ## Power, starts and resets -/

/-- The ways main power is lost (R661, R671, R672, R673, R674, R772): PWR_EN low, a converter fault, a bus below 46 V for 2 µs, an eFuse trip, a
junction at 115 °C. From a core that works, the store is kept in Fermata where the entry is planned or the gauge is armed, and is lost
otherwise; staging leaves SRAM and the switch opens. A dip or a surge below its limits, or with the switch open, takes no power.
Where the spec leaves a point open, the clause follows the model's choice: log entry 19. -/
def Obligations.PowerLossEntersFermata : Prop :=
  ∀ (s : State) (t : Nat), let u := s.advance t;
    (coreWorks u →
      (∃ v, Answers (.pwrEnLow t) s v ∧ powerLost v true ∧ v.pending = s.pending) ∧
      (u.pwr.switchOn = true →
        (∃ v, Answers (.converterFault t) s v ∧ powerLost v u.pwr.gauge.armed) ∧
        (∀ mv durNs, mv < 46000 → 2000 ≤ durNs → ∃ v, Answers (.busUndervoltage mv durNs t) s v ∧ powerLost v u.pwr.gauge.armed) ∧
        (∀ ma mv durNs, s.sound = true → u.pwr.efuse.tripped = false →
          (9000 < ma ∨ (5400 < ma ∧ 10000000 < durNs) ∨ (60000 < mv ∧ 1000 < durNs)) →
          ∃ w : State, Answers (.efuseTrip ma mv durNs t) s (w.powerFail 2 false) ∧ powerLost (w.powerFail 2 false) u.pwr.gauge.armed ∧
            w.pwr.efuse.tripped = true ∧ w.rd pwrEventEfuseTrip = 1 ∧ w.rd pwrEfuseTrips = min (u.rd pwrEfuseTrips + 1) 65535 ∧
            w.pwr.alert = true ∧ w.store = u.store))) ∧
    (u.pwr.switchOn = false → Answers (.converterFault t) s u ∧
      ∀ ma mv durNs, Answers (.efuseTrip ma mv durNs t) s u) ∧
    (∀ mv durNs, 46000 ≤ mv ∨ durNs < 2000 → Answers (.busUndervoltage mv durNs t) s u) ∧
    (∀ ma mv durNs, ma ≤ 5400 → mv ≤ 60000 → Answers (.efuseTrip ma mv durNs t) s u) ∧
    (coreWorks s → s.pwr.coreOn = true → ∀ tj, 1150 ≤ tj →
      ∃ v, Answers (.thermalTrip tj) s v ∧ powerLost v true ∧ v.pwr.waitPwrEn = true) ∧
    (∀ tj, tj < 1150 ∨ s.pwr.coreOn = false → Answers (.thermalTrip tj) s (s.pwrMap (fun p => { p with tj := tj })))

/-- Main power comes back (R657, R677, R682, R683). With every other condition of R682 met and the chip off, PWR_EN high, the return of the bus
or the ejector lever closed closes the switch, and with the bus in range the start is due; the lever opened is an event, once. After 10 ms of
good bus in Fermata the exit begins, and not before. -/
def Obligations.PowerComesBack : Prop :=
  ∀ s : State,
    (s.pwr.ejectOpen = true → Answers .eject s s) ∧
    (s.sound = true → s.pwr.ejectOpen = false → s.pwr.aux = true → ∃ v, Answers .eject s v ∧ v.pwr.ejectOpen = true ∧ v.rd pwrEventEject = 1 ∧
      v.store = s.store ∧ v.pwr.mode = s.pwr.mode) ∧
    (mayClose { s.pwr with ejectOpen := false } → ∃ v, Answers .ejectClose s v ∧ v.pwr.ejectOpen = false ∧ v.pwr.switchOn = true ∧
      v.pwr.pwrGood = decide (45000 ≤ s.pwr.busMv ∧ s.pwr.busMv ≤ 60000) ∧
      v.pwr.startDue = (if 45000 ≤ s.pwr.busMv ∧ s.pwr.busMv ≤ 60000 then some s.pwr.kind else none) ∧ v.regs = s.regs) ∧
    (∀ t mv : Nat, let u := s.advance t;
      (mayClose u.pwr → ∃ v, Answers (.trayBusReturn mv t) s v ∧ v.pwr.busMv = mv ∧ v.pwr.switchOn = true ∧
        v.pwr.startDue = (if 45000 ≤ mv ∧ mv ≤ 60000 then some u.pwr.kind else none) ∧ v.regs = u.regs) ∧
      (u.pwr.pwrEn = false → ∃ v, Answers (.trayBusReturn mv t) s v ∧ v.pwr.switchOn = u.pwr.switchOn ∧ v.pwr.startDue = u.pwr.startDue) ∧
      (u.pwr.pwrEn = false → u.pwr.fwWait = [] → mayClose { u.pwr with pwrEn := true, waitPwrEn := false, session := none } →
        ∃ v, Answers (.pwrEnHigh mv t) s v ∧ v.pwr.pwrEn = true ∧ v.pwr.session = none ∧ v.pwr.switchOn = true ∧
          v.pwr.startDue = (if 45000 ≤ mv ∧ mv ≤ 60000 then some u.pwr.kind else none)) ∧
      (mayClose { u.pwr with mode := .off } → u.pwr.mode = .fermata → ∀ from_, u.pwr.busGoodFrom = some from_ →
        (u.clk.now < from_ + ns 10000000 → Answers (.fermataExit t) s u) ∧
        (from_ + ns 10000000 ≤ u.clk.now → u.pwr.mrstInFermata = false →
          ∃ v, Answers (.fermataExit t) s v ∧ v.pwr.mode = .starting ∧ v.pwr.kind = .fermata ∧ v.pwr.startDue = some .fermata ∧
            v.pwr.switchOn = true ∧ v.store = u.store)))

/-- The auxiliary supply (R675, R758, R786, R788). Its good start brings the MGC up with the pins locked and the bank bled when it stands at 36 V or
more; its loss ends every state; without it there is no always-on PLL to unlock; a dip below 3 V for 10 µs in Fermata loses the store. -/
def Obligations.AuxiliarySupply : Prop :=
  ∀ (s : State) (t : Nat), s.sound = true → let u := s.advance t;
    (∀ mv : Nat, ∃ v, Answers (.auxPowerGood mv t) s v ∧ v.pwr.aux = true ∧ v.pwr.auxMv = mv ∧ v.pwr.mode = .off ∧ v.pwr.coreOn = false ∧
      v.store = storeReset ∧ v.rd gpioLockedPins = 0xFFFF ∧ v.pwr.gauge.bleeding = decide (36000 ≤ u.pwr.gauge.bankMv) ∧
      v.pwr.gauge.bled = decide (u.pwr.gauge.bankMv < 36000) ∧ v.pwr.spm.octal = true) ∧
    (u.pwr.aux = false → Answers (.aonPllUnlock t) s u) ∧
    (∃ v, Answers (.auxPowerLoss t) s v ∧ v.pwr.aux = false ∧ v.pwr.mgc = false ∧ v.pwr.mode = .off ∧ v.store = storeReset ∧
      v.mem = memReset ∧ v.pwr.efuse.locked = false ∧ v.host.cmds = [] ∧ v.pwr.coreOn = false) ∧
    (∀ mv durNs : Nat,
      (mv < 3000 → 10000 ≤ durNs → u.pwr.mode = .fermata → ∃ v, Answers (.auxDip mv durNs t) s v ∧ v.pwr.mode = .off ∧ v.pwr.retained = false ∧
        v.store = storeReset ∧ v.pwr.kind = .porCore ∧ (∀ r, u.pwr.record = some r → ∃ r', v.pwr.record = some r' ∧ r'.outcome = 2)) ∧
      (3000 ≤ mv ∨ durNs < 10000 → Answers (.auxDip mv durNs t) s (u.pwrMap (fun p => { p with auxMv := mv })))) ∧
    (∀ mv : Nat, (u.pwr.gauge.bleeding = false → Answers (.bleedEnd mv t) s u) ∧
      (u.pwr.gauge.bleeding = true → ∃ v, Answers (.bleedEnd mv t) s v ∧ v.pwr.gauge.bleeding = false ∧ v.pwr.gauge.bled = true ∧
        v.pwr.gauge.qUc = 0 ∧ v.pwr.gauge.bankMv = mv ∧
        (v.pwr.gauge.fault = (u.pwr.gauge.fault || decide (36000 ≤ mv)))))

/-- The starts (R788, R789, R800, R845). A start that is due turns the core on; one that is under way ends ready, with its cause and what was
retained, the first downbeat free to come; the check of the cold data is made once, and bad data sets CND_EVENT.cold_bad.
Where the spec leaves a point open, the clause follows the model's choice: log entry 86. -/
def Obligations.StartsEndReady : Prop :=
  ∀ (s : State) (t : Nat), s.sound = true → let u := s.advance t;
    (∀ split : Bool, (u.pwr.startDue = none → Answers (.coreStart split t) s u) ∧
      (∀ k, u.pwr.startDue = some k → ∃ v, Answers (.coreStart split t) s v ∧ v.pwr.startDue = none ∧ v.pwr.mode = .starting ∧
        v.pwr.kind = k ∧ v.pwr.coreOn = true ∧ v.pwr.startAt = u.clk.now ∧ v.store = u.store ∧
        v.rd hstPortModeSplit = (if split then 1 else 0) ∧ (k = .porAux ∨ k = .porCore → v.rd gpioLockedPins = 0xFFFF))) ∧
    (∀ trained : BitVec 24,
      (u.pwr.mode ≠ .starting ∨ u.pwr.startDue.isSome = true → Answers (.coreReady trained t) s u) ∧
      (u.pwr.mode = .starting → u.pwr.startDue = none → ∃ w : State, Answers (.coreReady trained t) s w.raiseSvn.becomeReady ∧
        w.raiseSvn.becomeReady.pwr.mode = .playing ∧ w.raiseSvn.becomeReady.clk.ready = true ∧ w.raiseSvn.becomeReady.clk.started = false ∧
        w.pwr.retained = false ∧ w.pwr.kind = .porCore ∧
        (u.pwr.kind = .porAux → w.rd rstCausePorAux = 1 ∧ w.rd rstCausePorCore = 0 ∧ w.rd rstCauseRetained = 0 ∧ w.store.staging = []) ∧
        (u.pwr.kind = .porCore → w.rd rstCausePorCore = 1 ∧ w.rd rstCausePorAux = 0 ∧ w.rd rstCauseRetained = 0 ∧ w.store.staging = []) ∧
        (u.pwr.kind = .mrst → w.rd rstCauseMrst = 1 ∧ w.rd rstCauseFermata = 0 ∧ w.rd rstCauseRetained = 1) ∧
        (u.pwr.kind = .fermata → w.rd rstCauseFermata = 1 ∧ w.rd rstCauseMrst = 0 ∧ w.rd rstCauseRetained = 1))) ∧
    (s.pwr.mode ≠ .playing ∨ s.pwr.boot.coldOk = true ∨ s.pwr.boot.coldBad = true → Answers .coldDataCheck s s) ∧
    (s.pwr.mode = .playing → s.pwr.boot.coldOk = false → s.pwr.boot.coldBad = false →
      ∃ w : State, Answers .coldDataCheck s w.releaseXip ∧ w.pwr.boot.coldOk = s.coldMatches ∧ w.pwr.boot.coldBad = !s.coldMatches ∧
        (s.coldMatches = false → w.rd cndEventColdBad = 1) ∧ (s.coldMatches = true → w.regs = s.regs) ∧ w.out = s.out)

/-- The resets of the core and Rest (R764, R765, R775, R778, R779, R842). An MRST of a core that works discards the work, keeps the store and
makes a start due, with the pins locked; a warm reset ends ready, its cause saying what began it; a fatal error left for its delay is an MRST; a
wake event in Rest begins the exit, which ends playing with the strands active again, a fault of each active channel that failed its alignment.
Where the spec leaves a point open, the clause follows the model's choice: log entry 27. -/
def Obligations.ResetsAndRest : Prop :=
  ∀ (s : State) (t : Nat), s.sound = true → let u := s.advance t;
    (u.pwr.aux = false → Answers (.mrst t) s u) ∧
    (u.pwr.aux = true → coreWorks u →
      ∃ v, Answers (.mrst t) s v ∧ v.pwr.mode = .starting ∧ v.pwr.kind = .mrst ∧ v.pwr.startDue = some .mrst ∧ v.store.staging = [] ∧
        (u.store.shelves.all (fun h => !h.dropping) = true → v.store.shelves = u.store.shelves) ∧ v.host.cmds = [] ∧
        v.rd gpioLockedPins = 0xFFFF ∧
        (u.rd errStatusFatal = 1 → v.rd errStatusFatal = 1) ∧ (u.rd errStatusFatal = 0 → v.rd errStatusFatal = 0)) ∧
    (u.rd errStatusFatal = 1 → u.rd errCtrlMrstDelay ≠ 0 →
      (u.pwr.fatalAt + ns (1000000 * u.rd errCtrlMrstDelay) ≤ u.clk.now → Answers (.fatalMrstTimer t) s u.mrst) ∧
      (u.clk.now < u.pwr.fatalAt + ns (1000000 * u.rd errCtrlMrstDelay) → Answers (.fatalMrstTimer t) s u)) ∧
    (u.rd errStatusFatal ≠ 1 ∨ u.rd errCtrlMrstDelay = 0 → Answers (.fatalMrstTimer t) s u) ∧
    (∀ trained : BitVec 24, (u.pwr.mode ≠ .warm → Answers (.wrstReady trained t) s u) ∧
      (u.pwr.mode = .warm → ∃ w : State, Answers (.wrstReady trained t) s w.becomeReady ∧ w.becomeReady.pwr.mode = .playing ∧
        w.rd rstCauseWrstLink = (if u.pwr.linkReset then 1 else 0) ∧ w.rd rstCauseWrstCmd = (if u.pwr.linkReset then 0 else 1) ∧
        w.rd rstCauseRetained = 1 ∧ w.rd rstReadyUs = min 65535 ((u.clk.now - u.pwr.startAt) / 768000))) ∧
    (u.pwr.mode ≠ .rest → Answers (.restWake t) s u) ∧
    (u.pwr.mode = .rest → Answers (.restWake t) s (u.pwrMap (fun p => { p with mode := .waking, wakeAt := u.clk.now }))) ∧
    (∀ failed : BitVec 24, (u.pwr.mode ≠ .waking → Answers (.restExitReady failed t) s u) ∧
      (u.pwr.mode = .waking → ∃ w : State, w.pwr.mode = .playing ∧ w.clk.ready = true ∧
        w.rd pwrRestLastUs = min 65535 ((u.clk.now - u.pwr.wakeAt) / 768000) ∧ w.store = u.store ∧
        (w.mem.channels.all (fun c => !c.selfRefresh)) = true ∧ (∀ i < 64, u.rd wvStrandState i = 4 → w.rd wvStrandState i = 2) ∧
        Answers (.restExitReady 0#24 t) s w ∧
        Answers (.restExitReady failed t) s
          (w.each (setBits 24 failed.toNat) (fun x h => if x.active.contains h then x.channelFault h 10 4 else x))))

/-- Errors of the chip (R756, R796, R837, R838, R842). A core PLL that unlocks, a conductor that stops answering, a datapath's parity and a double-bit
error in a control memory are fatal: the status and the cause are set, the host is told and the chip executes nothing more. A second fatal error
changes neither. A double-bit error in an engine's storage is an engine fault. A loss of the always-on PLL's lock restarts the always-on domain, as
a start of the auxiliary supply does. -/
def Obligations.FatalErrorsStopTheChip : Prop :=
  ∀ s : State, s.sound = true →
    (s.answers = true → s.rd errStatusFatal = 0 →
      (∀ pll : Fin 16, ∃ v, Answers (.corePllUnlock pll) s v ∧ isFatal v 1 ∧ v.rd clkEventUnlock = 1 ∧ v.store = s.store) ∧
      (∃ v, Answers .datapathParityError s v ∧ isFatal v 5 ∧ v.store = s.store)) ∧
    (s.live = true → (∀ i : Fin 4, ∃ v, Answers (.watchdog i) s v ∧ isFatal v 2 ∧ v.rd cndEventWatchdog = 1 ∧ v.rd cndStateState i.val = 2) ∧
      (∃ w : State, Answers (.sramDoubleBit .control) s w.weaveRun ∧ isFatal w 3 ∧ w.rd errSramUeCount = min (s.rd errSramUeCount + 1) (2 ^ 32 - 1)) ∧
      (∃ w : State, Answers (.sramDoubleBit .tableCache) s w.weaveRun ∧ w = (s.inc errSramUeCount).bump strmTcacheRereadCount ∧
        w.rd errStatusFatal = 0) ∧
      (let u := s.inc errSramUeCount;
        (∀ cid i, Answers (.sramDoubleBit (.candidate cid i)) s (u.candsLost cid (some i)).weaveRun) ∧
        (∀ cid, Answers (.sramDoubleBit (.queryStore cid)) s (u.candsLost cid none).weaveRun ∧
          Answers (.sramDoubleBit (.voice cid)) s (u.voiceLost cid).weaveRun ∧ Answers (.sramDoubleBit (.coda cid)) s (u.codaLost cid).weaveRun ∧
          Answers (.sramDoubleBit (.intake cid)) s (u.intakeLost cid).weaveRun)) ∧
      (∀ (e : Fin 64) (k : Fin 4), ∃ w : State, Answers (.sramDoubleBit (.engine e k)) s w.weaveRun ∧ w = (s.inc errSramUeCount).engineFault e.val (k.val + 1) ∧
        (w.engine e.val).slots = [] ∧ (w.engine e.val).inErst = true ∧ w.rd swpEventEngineFault = 1)) ∧
    (s.live = false → (∀ i, Answers (.watchdog i) s s) ∧ ∀ p, Answers (.sramDoubleBit p) s s.weaveRun) ∧
    (s.answers = true → s.rd errStatusFatal = 1 → Answers .datapathParityError s s) ∧
    (s.answers = false → Answers .datapathParityError s s ∧ ∀ pll, Answers (.corePllUnlock pll) s s) ∧
    (∀ t : Nat, (s.advance t).pwr.aux = true → ∃ v, Answers (.aonPllUnlock t) s v ∧ Answers (.auxPowerGood (s.advance t).pwr.auxMv t) s v ∧
      v.pwr.mode = .off ∧ v.store = storeReset)

/-- The gauges (R667, R668, R669, R771, R832). A sample is kept, the last ten of them; readings that differ by more than 15 % of the larger, a bank above
60 V or an overflow are a gauge fault; the gauge is armed while its reading reaches the budget. A junction at 105 °C keeps the upper half
of every cluster out of the work. A trim factor out of 0.9 to 1.1 is held at the limit and reported.
Where the spec leaves a point open, the clause follows the model's choice: log entries 22, 25 and 26. -/
def Obligations.GaugesThermalAndTrim : Prop :=
  ∀ s : State, s.sound = true →
    (∀ (bankMv busMv inputMa inputMw energyMj auxMv tj memC inletC t : Nat) (charge : Int) (overflow : Bool) (temps : List Nat),
      let u := s.advance t;
      (u.pwr.aux = false ∨ u.pwr.mgc = false →
        Answers (.gaugeSample bankMv charge overflow busMv inputMa inputMw energyMj auxMv tj memC inletC temps t) s u) ∧
      (u.pwr.aux = true → u.pwr.mgc = true →
        ∃ v, Answers (.gaugeSample bankMv charge overflow busMv inputMa inputMw energyMj auxMv tj memC inletC temps t) s v ∧
          v.pwr.inputMa = inputMa ∧ v.pwr.inputMw = inputMw ∧ v.pwr.tj = tj ∧ v.pwr.gauge.bankMv = bankMv ∧
          (∃ g, v.pwr.samples = ([busMv, inputMa, inputMw, bankMv, g, tj, memC, inletC, auxMv] :: u.pwr.samples).take 10) ∧
          v.pwr.gauge.armed = decide (v.rd pwrQuiesceBudgetMj ≤ v.pwr.gauge.reading) ∧
          (u.pwr.gauge.bled = true → 60000 < bankMv ∨ overflow = true ∨
            15 * max (gaugeEv bankMv) (gaugeEq v.pwr.gauge.qUc) <
              100 * (max (gaugeEv bankMv) (gaugeEq v.pwr.gauge.qUc) - min (gaugeEv bankMv) (gaugeEq v.pwr.gauge.qUc)) → v.pwr.gauge.fault = true) ∧
          (u.pwr.gauge.bled = false → v.pwr.gauge.fault = u.pwr.gauge.fault))) ∧
    (∀ tj : Nat, (tj < 1050 ∨ s.pwr.mode ≠ .playing → Answers (.thermalGate tj) s (s.pwrMap (fun p => { p with tj := tj }))) ∧
      (1050 ≤ tj → s.pwr.mode = .playing → ∃ v, Answers (.thermalGate tj) s v ∧ v.rd pwrEventThermal = 1 ∧
        (∀ e < 64, (v.engine e).thermal = if 4 ≤ e % 8 then true else (s.engine e).thermal) ∧ v.store = s.store)) ∧
    (∀ measured estimated : Nat,
      let new := (2 * s.rd telEnergyTrimFactor * measured + estimated) / (2 * estimated);
      (s.live = false ∨ estimated = 0 ∨ (s.measure + 2 ^ 32 - s.pwr.trimFrom) % 2 ^ 32 < 1024 → Answers (.trimUpdate measured estimated) s s) ∧
      (s.live = true → estimated ≠ 0 → 1024 ≤ (s.measure + 2 ^ 32 - s.pwr.trimFrom) % 2 ^ 32 →
        ∃ v, Answers (.trimUpdate measured estimated) s v ∧ v.pwr.tauNext = some (max 3687 (min 4505 new)) ∧ v.pwr.trimFrom = s.measure ∧
          (new < 3687 ∨ 4505 < new → v.rd telEventTrimLimit = 1) ∧ (3687 ≤ new → new ≤ 4505 → v.regs = s.regs)))

/-! ## Registers and the host link -/

/-- What a 32-bit write of a register does (R30, R499, R40), once the function reaches the chip: a chip in Rest wakes first (R764). A
function other than the owner changes nothing outside its window but the counts of R499; an unassigned offset does nothing; a field of the
function window takes its new value; the owner's write of MEAS_PERIOD takes effect in its range and sets bad_config outside it; each 1
written to MEAS_EVENT clears that bit, and each 0 keeps it; a read-only register is not changed; every other word the owner writes gives each of its
fields the value its access code says. A write wider than 32 bits writes its words in ascending order (R27). -/
def Obligations.RegisterWritesByAccessCode : Prop :=
  ∀ (fn : Seat) (v : Word) (s : State), s.sound = true → s.hostAccess fn.val = true →
    let u := s.restWake
    (∀ word : BitVec 22, assigned (4 * word.toNat) = true → (4 * word.toNat < 0x1000 ∨ 0x2000 ≤ 4 * word.toNat) → s.owner? ≠ some fn.val →
      Answers (.registerWrite fn word ⟨v, []⟩) s (((u.inc ownNonownerWritesCount).wr ownNonownerLastSeat 0 fn.val).ev ownEventNonownerWrite)) ∧
    (∀ word : BitVec 22, assigned (4 * word.toNat) = false → Answers (.registerWrite fn word ⟨v, []⟩) s u) ∧
    Answers (.registerWrite fn 0x480 ⟨v, []⟩) s (u.wrw hstFctrlBeatInt fn.val 0 (v.toNat % 2)) ∧
    (s.owner? = some fn.val →
      Answers (.registerWrite fn 0x801 ⟨v, []⟩) s
        (if 64000000 ≤ v.toNat % 2 ^ 31 ∧ v.toNat % 2 ^ 31 ≤ 1280000000 then u.wr measPeriodTicks 0 (v.toNat % 2 ^ 31)
         else u.ev measEventBadConfig) ∧
      Answers (.registerWrite fn 0x805 ⟨v, []⟩) s u ∧
      ∃ t, Answers (.registerWrite fn 0x807 ⟨v, []⟩) s t ∧
        ∀ p ∈ [(measEventEarlyEdge, 0), (measEventMissedEdge, 1), (measEventSourceLost, 2), (measEventOverrun, 3), (measEventFetchLate, 4),
          (measEventBadConfig, 5)],
          t.rd p.1 = if v.getLsbD p.2 then 0 else s.rd p.1 % 2) ∧
    (s.owner? = some fn.val → ∀ word : BitVec 22,
      let off := 4 * word.toNat
      assigned off = true → (off < 0x1000 ∨ 0x2000 ≤ off) → (off < 0x5800 ∨ 0x5880 ≤ off) → (off < 0x32000 ∨ 0x34000 ≤ off) → off ∉ specialWords →
        Answers (.registerWrite fn word ⟨v, []⟩) s (u.writeWord 0 off v.toNat) ∧
        ((∀ p ∈ fieldsAt off, p.1.win = false) → ((fieldsAt off).map (fun p => p.1.lo)).Nodup → ∀ p ∈ fieldsAt off,
          (u.writeWord 0 off v.toNat).rd p.1 p.2 = written p.1 (s.rd p.1 p.2) (v.toNat / 2 ^ p.1.lo % 2 ^ p.1.width))) ∧
    (∀ (word : BitVec 22) (next : Word) (more : List Word), word.toNat + 1 < 2 ^ 22 → ∃ a b, Answers (.registerWrite fn word ⟨v, []⟩) s a ∧
      Answers (.registerWrite fn (word + 1) ⟨next, more⟩) a b ∧ Answers (.registerWrite fn word ⟨v, next :: more⟩) s b)

/-- A BAR0 write narrower than 32 bits is counted and has no other effect but to wake a chip in Rest (R27). A meter read returns 0 to a
function that is neither the seat nor the owner, and else the low word and the high word that goes with it (R500, R536); a read of any other
assigned word returns what its fields hold, one of an unassigned word 0 (R30, R368), one of configuration space its field (R365). The owner's key
in RST_CTRL begins a warm reset, and another value does nothing (R777). A function that does not reach the chip changes nothing. -/
def Obligations.NarrowWritesMetersAndResetKey : Prop :=
  ∀ (fn : Seat) (s : State),
    (s.hostAccess fn.val = true →
      Answers (.malformedAccess fn) s ((s.restWake.inc hstMalformedCount).ev hstEventMalformed) ∧
      (∀ k : Fin 66, k.val < 65 → k.val ≠ fn.val → s.owner? ≠ some fn.val →
        Answers (.meterRead fn (.meter k)) s ((s.restWake.emit (.readReturn fn.val (0x8300 + 8 * k.val) 0)).emit
          (.readReturn fn.val (0x8300 + 8 * k.val + 4) 0))) ∧
      (∀ k : Fin 66, k.val < 65 → (k.val = fn.val ∨ s.owner? = some fn.val) →
        ∃ t, Answers (.meterRead fn (.meter k)) s t ∧ t.regs = s.regs ∧
          t.out = s.out ++ [.readReturn fn.val (0x8300 + 8 * k.val) (s.rd ownMeterLoNj k.val % 2 ^ 32),
            .readReturn fn.val (0x8300 + 8 * k.val + 4) (s.rd ownMeterHiNj k.val % 2 ^ 32)]) ∧
      (∀ off : BitVec 24, off.toNat % 4 = 0 → off.toNat ≠ 0x8034 → off.toNat ≠ 0x8038 → off.toNat ≠ 0x32014 →
        (off.toNat < 0x8300 ∨ 0x8508 ≤ off.toNat) →
        Answers (.meterRead fn (.bar0 off 4)) s (s.restWake.emit (.readReturn fn.val off.toNat
          (if assigned off.toNat = true then s.restWake.wordOf s.regs fn.val off.toNat % 2 ^ 32 else 0)))) ∧
      (∀ c : ConfigField, Answers (.meterRead fn (.config c)) s (s.emit (.configReturn fn.val c (s.configField fn.val c)))) ∧
      (s.owner? = some fn.val →
        (∀ v : Word, v ≠ 0x0000A55A → Answers (.warmReset fn v) s s.restWake) ∧
        (s.pwr.mode = .playing → s.rd errStatusFatal ≠ 1 → ∃ t, Answers (.warmReset fn 0x0000A55A) s t ∧ t.pwr.mode = .warm))) ∧
    (s.hostAccess fn.val = false → ∀ (word : BitVec 22) (v : Word) (more : List Word) (off : BitVec 24) (bytes : Nat),
      Answers (.registerWrite fn word ⟨v, more⟩) s s ∧ Answers (.malformedAccess fn) s s ∧ Answers (.meterRead fn (.bar0 off bytes)) s s ∧
      Answers (.warmReset fn v) s s)

/-- Enabling and disabling a queue (R377, R378, R379). A completion queue that is off, with a size in its range, comes on with its tail at 0 and
its phase 1; a submission queue that is off, with a size in its range and its completion queue on, comes on empty, with its fetch pointer at 0 and
its error cleared. Any other enable leaves the bit 0 and sets HST_FEVENT.bad_queue. A submission queue goes off at once and keeps no packet
that is posted or being read; a completion queue that an enabled submission queue is bound to stays on, with bad_queue set, and any other goes off. -/
def Obligations.QueuesGoOnAndOff : Prop :=
  (∀ (fn : Seat) (q j : Fin 8) (size : BitVec 5) (vector : Fin 16) (intEn : Bool) (s : State), s.sound = true → s.hostAccess fn.val = true →
      (s.rdw hstCpqCtrlEnable fn.val q.val = 0 →
        if 4 ≤ size.toNat ∧ size.toNat ≤ 16 then
          ∃ t, Answers (.cpqEnable fn q size vector intEn) s t ∧ t.rdw hstCpqCtrlEnable fn.val q.val = 1 ∧
            t.rdw hstCpqCtrlSizeLog2 fn.val q.val = size.toNat ∧ t.rdw hstCpqCtrlVector fn.val q.val = vector.val ∧
            t.rdw hstCpqStatusTail fn.val q.val = 0 ∧ t.rdw hstCpqStatusPhase fn.val q.val = 1 ∧
            (t.cpq fn.val q.val).written = 0 ∧ (t.cpq fn.val q.val).reserved = (s.cpq fn.val q.val).reserved ∧ t.out = s.out
        else ∃ t, Answers (.cpqEnable fn q size vector intEn) s t ∧ t.rdw hstCpqCtrlEnable fn.val q.val = 0 ∧
          t.rdw hstFeventBadQueue fn.val 0 = 1) ∧
      (s.rdw hstSbqCtrlEnable fn.val q.val = 0 →
        if 6 ≤ size.toNat ∧ size.toNat ≤ 16 ∧ s.rdw hstCpqCtrlEnable fn.val j.val ≠ 0 then
          ∃ t, Answers (.sbqEnable fn q size j) s t ∧ t.rdw hstSbqCtrlEnable fn.val q.val = 1 ∧
            t.rdw hstSbqCtrlSizeLog2 fn.val q.val = size.toNat ∧ t.rdw hstSbqCtrlCpq fn.val q.val = j.val ∧
            t.rdw hstSbqStatusFetch fn.val q.val = 0 ∧ t.rdw hstSbqStatusError fn.val q.val = 0 ∧
            t.rdw hstSbqStatusIdle fn.val q.val = 0 ∧ (t.sbq fn.val q.val).posted = 0 ∧ (t.sbq fn.val q.val).fetched = 0 ∧ t.out = s.out
        else ∃ t, Answers (.sbqEnable fn q size j) s t ∧ t.rdw hstSbqCtrlEnable fn.val q.val = 0 ∧
          t.rdw hstFeventBadQueue fn.val 0 = 1)) ∧
  (∀ (fn : Seat) (q j : Fin 8) (size : BitVec 5) (vector : Fin 16) (intEn : Bool) (s : State), s.sound = true → s.hostAccess fn.val = true →
      (∃ t, Answers (.sbqDelete fn q size j) s t ∧ t.rdw hstSbqCtrlEnable fn.val q.val = 0 ∧ (t.sbq fn.val q.val).reading = [] ∧
        (t.sbq fn.val q.val).posted = (s.sbq fn.val q.val).fetched ∧ (t.sbq fn.val q.val).bells = [] ∧ t.host.cmds = s.host.cmds) ∧
      (s.rdw hstCpqCtrlEnable fn.val q.val = 1 →
        ((∃ i < 8, s.rdw hstSbqCtrlEnable fn.val i = 1 ∧ s.rdw hstSbqCtrlCpq fn.val i = q.val) →
          ∃ t, Answers (.cpqDelete fn q size vector intEn) s t ∧ t.rdw hstCpqCtrlEnable fn.val q.val = 1 ∧
            t.rdw hstFeventBadQueue fn.val 0 = 1) ∧
        ((∀ i < 8, s.rdw hstSbqCtrlEnable fn.val i = 1 → s.rdw hstSbqCtrlCpq fn.val i ≠ q.val) →
          ∃ t, Answers (.cpqDelete fn q size vector intEn) s t ∧ t.rdw hstCpqCtrlEnable fn.val q.val = 0 ∧
            (t.rdw hstCpqStatusIdle fn.val q.val = 1 ↔ (s.cpq fn.val q.val).reserved = 0))))

/-- Doorbells (R380, R382, R383). A tail doorbell of an enabled queue that posts no more flits than the ring holds moves the tail and
posts the flits between; a head doorbell of an enabled queue that frees no more records than were written frees them. A doorbell that is
not a 32-bit write, has a reserved bit set, names a queue that is off, or has an index that is not below the queue's size leaves the queue as
it was, is counted and sets bad_doorbell. -/
def Obligations.DoorbellsAreChecked : Prop :=
  ∀ (fn : Seat) (q : Fin 8) (wide : Bool) (v : Word) (t : Nat) (s : State), s.sound = true → s.hostAccess fn.val = true →
    let u := (s.advance t).restWake
    let size := 2 ^ u.rdw hstSbqCtrlSizeLog2 fn.val q.val
    let x := u.sbq fn.val q.val
    let adv := (v.toNat + size - x.tail) % size
    let csize := 2 ^ u.rdw hstCpqCtrlSizeLog2 fn.val q.val
    let y := u.cpq fn.val q.val
    let freed := (v.toNat + csize - y.head) % csize
    (wide = true → u.rdw hstSbqCtrlEnable fn.val q.val = 1 → v.toNat < 65536 → v.toNat < size → x.posted - x.fetched + adv < size → adv ≠ 0 →
      ∃ w, Answers (.sqTailDoorbell fn q wide v t) s w ∧ w.regs = u.regs ∧ w.out = u.out ∧ (w.sbq fn.val q.val).tail = v.toNat ∧
        (w.sbq fn.val q.val).posted = x.posted + adv ∧ (w.sbq fn.val q.val).fetched = x.fetched) ∧
    (wide = true → u.rdw hstCpqCtrlEnable fn.val q.val = 1 → v.toNat < 65536 → v.toNat < csize → freed ≤ y.written →
      ∃ w, Answers (.cqHeadDoorbell fn q wide v t) s w ∧ w.regs = u.regs ∧ w.out = u.out ∧ (w.cpq fn.val q.val).head = v.toNat ∧
        (w.cpq fn.val q.val).written = y.written - freed) ∧
    ((wide = false ∨ 65536 ≤ v.toNat ∨ u.rdw hstSbqCtrlEnable fn.val q.val = 0 ∨ size ≤ v.toNat ∨ size ≤ x.posted - x.fetched + adv) →
      ∃ w, Answers (.sqTailDoorbell fn q wide v t) s w ∧ w.host.sbqs = u.host.sbqs ∧ w.rdw hstFeventBadDoorbell fn.val 0 = 1 ∧
        w.rdw hstBadDoorbellCount fn.val 0 = min (u.rdw hstBadDoorbellCount fn.val 0 + 1) (2 ^ 32 - 1)) ∧
    ((wide = false ∨ 65536 ≤ v.toNat ∨ u.rdw hstCpqCtrlEnable fn.val q.val = 0 ∨ csize ≤ v.toNat ∨ y.written < freed) →
      ∃ w, Answers (.cqHeadDoorbell fn q wide v t) s w ∧ w.host.cpqs = u.host.cpqs ∧ w.rdw hstFeventBadDoorbell fn.val 0 = 1)

/-- The fetch of a packet (R371, R372, R376): with the queue on and without error, a free pair of completion records, room in the intake
storage, tags, posting allowed and a doorbell that covers the packet, the device reserves a completion record and reads the packet's flits from
the ring, in the requests the function's Max Read Request Size allows (R360), those past the ring's end from its base (R371). With no free
completion record it only notes that it waits (HST_FEVENT.cpq_wait).
Where the spec leaves a point open, the clause follows the model's choice: log entries 34, 45 and 51. -/
def Obligations.PacketFetchReservesAndReads : Prop :=
  ∀ (fn : Seat) (q : Fin 8) (len t : Nat) (s : State), s.sound = true → s.isHead = false ∨ s.weave.promo = none →
    let u := (s.advance t).retryRooms
    let x := u.sbq fn.val q.val
    let n := flitsOf len
    let busy := sumN x.reading
    let cq := u.rdw hstSbqCtrlCpq fn.val q.val
    let y := u.cpq fn.val cq
    u.live = true → t ≤ u.clk.now → u.mem.relaying = false → u.rdw hstSbqCtrlEnable fn.val q.val ≠ 0 → u.rdw hstSbqStatusError fn.val q.val ≠ 1 →
    (u.fn fn.val).canPost = true → x.fetched + busy + n ≤ x.posted → (∃ b ∈ x.bells, x.fetched + busy + n ≤ b.1 ∧ b.2 ≤ u.clk.now) →
    u.rdw hstCpqCtrlEnable fn.val cq ≠ 0 →
    (∀ c ∈ u.host.cmds, c.origin = 0 → c.seat = fn.val → c.queue = q.val → c.waitsRoom = false) →
    (2 ^ u.rdw hstCpqCtrlSizeLog2 fn.val cq < y.written + y.reserved + 2 →
      ∃ v, Answers (.packetFetch fn q len t) s v ∧ v.rdw hstFeventCpqWait fn.val 0 = 1 ∧ v.host.sbqs = u.host.sbqs) ∧
    (y.written + y.reserved + 2 ≤ 2 ^ u.rdw hstCpqCtrlSizeLog2 fn.val cq → u.intakeUsed + 64 * n ≤ 67108864 →
      u.tagsUsed fn.val + ((u.fn fn.val).reads 0 (64 * n)).length ≤ u.tagSpace fn.val →
      let base := u.rdw hstSbqBaseLoAddr fn.val q.val + 2 ^ 32 * u.rdw hstSbqBaseHiAddr fn.val q.val
      let ring := 2 ^ u.rdw hstSbqCtrlSizeLog2 fn.val q.val
      let first := (u.rdw hstSbqStatusFetch fn.val q.val + busy) % ring
      ∃ v, Answers (.packetFetch fn q len t) s v ∧ (v.sbq fn.val q.val).reading = x.reading ++ [n] ∧
        (v.sbq fn.val q.val).fetched = x.fetched ∧ (v.cpq fn.val cq).reserved = y.reserved + 1 ∧ v.regs = u.regs ∧
        v.out = u.out ++ ((u.fn fn.val).reads (base + 64 * first) (64 * min n (ring - first)) ++
          (u.fn fn.val).reads base (64 * (n - min n (ring - first)))).map (fun p => .hostRead fn.val p.1 p.2))

/-- What a packet's last byte brings (R395, R401, R402, R406, R413): a failed read stops the queue with its error and fetch_error set; a
read of another number of bytes than was asked for is no event of the hardware and stops the model; any other packet is consumed and goes
through intake: one whose CRC is wrong is counted and refused, and a good PING becomes a command that has passed intake. The bytes a command
waits for at step 12 (R408, R394, R407): once its operands and its distance table have arrived, each with its CRC right, and its values are
accepted, the command has passed intake, with a table slot where it has a table; a failed read ends the command; a read of another length is no event
of the hardware.
Where the spec leaves a point open, the clause follows the model's choice: log entries 6, 45 and 60. -/
def Obligations.PacketsAndOperandsArrive : Prop :=
  (∀ (fn : Seat) (q : Fin 8) (p : List Byte) (t n : Nat) (rest : List Nat) (s : State), s.sound = true →
      let u := (s.advance t).retryRooms
      let h := headerOf p
      (s.sbq fn.val q.val).reading = n :: rest → u.live = true →
      (∃ v, Answers (.packetReadComplete fn q false [] t) s v ∧ (v.sbq fn.val q.val).reading = [] ∧
        v.rdw hstSbqStatusError fn.val q.val = 1 ∧ v.rdw hstFeventFetchError fn.val 0 = 1 ∧ v.host.cmds = u.host.cmds) ∧
      (p.length ≠ 64 * n ∨ flitsOf h.length ≠ n → exec (.packetReadComplete fn q true p t) s = .fault .illFormed) ∧
      (p.length = 64 * n → flitsOf h.length = n →
        (∃ (w : State) (at_ : Nat), Answers (.packetReadComplete fn q true p t) s (w.intake (w.packetCmd fn.val q.val at_ p) p) ∧
          w.host.cmds = u.host.cmds ∧ w.host.nextCid = u.host.nextCid ∧ (w.sbq fn.val q.val).fetched = (u.sbq fn.val q.val).fetched + n ∧
          (32 ≤ h.length → h.length ≤ 4096 → packetCrc (p.take h.length) ≠ h.crc → ∃ x : State,
            w.intake (w.packetCmd fn.val q.val at_ p) p = x.refuse (w.packetCmd fn.val q.val at_ p) stCrc ∧ x.rd zcpEventCrc = 1)) ∧
        ((u.cmd? u.host.nextCid) = none → u.owner? ≠ some fn.val →
          h.length = 32 → packetCrc (p.take 32) = h.crc → h.version = 3 → h.seat = fn.val →
          h.opcode = 0x01 → h.cls ≤ 4 → h.flags % 8 = 0 → h.flags < 16 → h.reserved = 0 → h.shelf = 0 → h.deadline = 0 →
          ∃ v c, Answers (.packetReadComplete fn q true p t) s v ∧ v.cmd? u.host.nextCid = some c ∧ c.stage = .ready ∧ c.opcode = 0x01 ∧
            c.seat = fn.val ∧ c.queue = q.val ∧ c.tag = h.tag ∧ c.seq = h.seq ∧ v.out = u.out ∧
            (v.sbq fn.val q.val).fetched = (u.sbq fn.val q.val).fetched + n))) ∧
  (∀ (cid : Nat) (c : Cmd) (ops table : List Byte) (t : Nat) (s : State),
      let u := (s.advance t).retryRooms
      let r := u.reads12 c
      let got : Cmd := { c with operands := if r.1.2 = 0 then c.operands else ops, table := table }
      u.live = true → u.cmd? cid = some c → c.stage = .operands → c.opRoom ≠ 0 → c.origin = 0 → c.quiet = false → c.opcode ≠ 0x48 →
      (∃ v, Answers (.operandReadComplete cid false [] [] t) s v ∧ v.cmd? cid = none) ∧
      (ops.length ≠ r.1.2 ∨ table.length ≠ r.2.2 → exec (.operandReadComplete cid true ops table t) s = .fault .illFormed) ∧
      (ops.length = r.1.2 → table.length = r.2.2 → (r.1.2 = 0 ∨ ∀ x, c.crcs12.1 = some x → crc32c ops = x) →
        (r.2.2 = 0 ∨ ∀ x, c.crcs12.2 = some x → crc32c table = x) →
        (u.valuesOk got = false → ∃ w : State, Answers (.operandReadComplete cid true ops table t) s (w.refuse got stBadFormat) ∧ w.regs = u.regs ∧
          w.store = u.store) ∧
        (u.valuesOk got = true → r.2.2 = 0 ∨ u.tableSlot.isSome = true →
          ∃ v c', Answers (.operandReadComplete cid true ops table t) s v ∧ v.cmd? cid = some c' ∧ c'.stage = .ready ∧
            c'.operands = got.operands ∧ c'.table = table ∧ c'.tableSlot = (if r.2.2 = 0 then none else u.tableSlot) ∧
            v.out = u.out ∧ v.regs = u.regs)))

/-- Interrupts (R389, R390, R391). Clearing a vector's mask, with MSI-X on and the Function Mask clear, sends the message that was pending
on it, if any, and no other; clearing the Function Mask turns MSI-X on and sends every pending message whose vector is not masked; when the
coalescing time of a completion queue has run from its oldest pending record, its message is sent; the end of the posting reserve sends the pending
message of every queue of a function. -/
def Obligations.PendingInterruptsAreSent : Prop :=
  ∀ (fn : Seat) (s : State), s.hostAccess fn.val = true →
    (s.pwr.mode = .playing → (s.fn fn.val).bme = true → (∃ f ∈ s.host.fns, f.seat = fn.val) →
      let masked := (s.fn fn.val).masked
      let pba := (s.fn fn.val).pba
      (∀ k : Fin 16, (s.fn fn.val).msixEnable = true → (s.fn fn.val).fmask = false →
        let left := masked.filter (fun m => m != k.val)
        ∃ v, Answers (.msixUnmask fn (some k)) s v ∧ (v.fn fn.val).masked = left ∧ (v.fn fn.val).pba = pba.filter (fun m => left.contains m) ∧
          v.out = s.out ++ (pba.filter (fun m => !left.contains m)).map (fun m => .msix fn.val m) ∧ v.regs = s.regs) ∧
      (∃ v, Answers (.msixUnmask fn none) s v ∧ (v.fn fn.val).msixEnable = true ∧ (v.fn fn.val).fmask = false ∧
        (v.fn fn.val).masked = masked ∧ (v.fn fn.val).pba = pba.filter (fun m => masked.contains m) ∧
        v.out = s.out ++ (pba.filter (fun m => !masked.contains m)).map (fun m => .msix fn.val m) ∧ v.regs = s.regs)) ∧
    (∀ (q : Fin 8) (t : Nat),
      let u := s.advance t
      u.rdw hstCpqCoalTime fn.val q.val ≠ 0 → 0 < (u.cpq fn.val q.val).pend →
      (u.cpq fn.val q.val).oldest + ns (100 * u.rdw hstCpqCoalTime fn.val q.val) ≤ u.clk.now →
      (u.fn fn.val).msixEnable = true → (u.fn fn.val).fmask = false → (u.fn fn.val).masked = [] → (u.fn fn.val).canPost = true →
      ∃ v, Answers (.coalTimer fn q t) s v ∧ v.out = u.out ++ [.msix fn.val (u.rdw hstCpqCtrlVector fn.val q.val)] ∧
        (v.cpq fn.val q.val).pend = 0) ∧
    (s.live = true → s.clk.started = true → s.clk.bgOpen = false →
      let u := s.advance s.reserveEnd
      (∀ y ∈ u.host.cpqs, y.fn = fn.val) → (u.host.cpqs.map (fun y => y.q)).Nodup → (u.fn fn.val).msixEnable = true →
      (u.fn fn.val).fmask = false → (u.fn fn.val).masked = [] → (u.fn fn.val).canPost = true → u.clk.bgOpen = false →
      ∃ v, Answers .postingReserveEnd s v ∧
        v.out = u.out ++ (u.host.cpqs.filter (fun y => 0 < y.pend)).map (fun y => .msix fn.val (u.rdw hstCpqCtrlVector fn.val y.q)))

/-- Bus mastering, D3hot and link training (R287, R358, R394, R399, R788). The function's bit changes and nothing is sent; a port that trains,
in a core start too, shows its width, speed and mode, and sets HST_EVENT.retrain if it was up; a port whose PERST_N is low does not train, and PERST_N rising
changes nothing else. The function's Device Control registers come with Bus Master Enable.
Where the spec leaves a point open, the clause follows the model's choice: log entries 34 and 85. -/
def Obligations.FunctionAndPortStates : Prop :=
  ∀ s : State, s.sound = true →
    (∀ fn : Seat, (∃ f ∈ s.host.fns, f.seat = fn.val) →
      ((s.fn fn.val).bme = true → ∃ v, Answers (.busMasterDisable fn) s v ∧ (v.fn fn.val).bme = false ∧ v.regs = s.regs ∧ v.out = s.out ∧
        v.host.cmds = s.host.cmds ∧ v.store = s.store) ∧
      (s.answers = true → (∃ p, s.host.ports[s.portOf fn.val]? = some p ∧ p.up = true) → ∀ control, ∃ v, Answers (.busMasterEnable ⟨fn, control⟩) s v ∧
        (v.fn fn.val).bme = true ∧ (v.fn fn.val).enabled = true ∧ (v.fn fn.val).ctl = control ∧ v.regs = s.regs ∧ v.out = s.out) ∧
      ((s.fn fn.val).enabled = true → ∃ v, Answers (.d3hotEntry fn) s v ∧ (v.fn fn.val).d3hot = true ∧ v.regs = s.regs ∧ v.out = s.out) ∧
      (∃ v, Answers (.d3hotExit fn) s v ∧ (v.fn fn.val).d3hot = false ∧ v.regs = s.regs ∧ v.out = s.out)) ∧
    (∀ (port : Fin 2) (width speed : Nat) (flit : Bool) (p : Port), s.linkRuns = true → s.host.ports[port.val]? = some p →
      (p.perst = true → Answers (.linkRetrain port width speed flit) s s) ∧
      (p.perst = false → (port.val = 0 ∨ s.rd hstPortModeSplit ≠ 0) → ∃ v p', Answers (.linkRetrain port width speed flit) s v ∧
        v.host.ports[port.val]? = some p' ∧ p'.up = true ∧ p'.width = width ∧ p'.speed = speed ∧ p'.flit = flit ∧
        (p.up = true → v.rd hstEventRetrain = 1) ∧ (p.up = false → v.regs = s.regs))) ∧
    (∀ (port : Fin 2) (p : Port), s.host.ports[port.val]? = some p →
      ∃ v, Answers (.perstDeassert port) s v ∧ v.host.ports[port.val]? = some { p with perst := false } ∧ v.regs = s.regs ∧
        v.host.fns = s.host.fns)

/-- Resets that come through the host link (R392, R393, R773). A Function Level Reset of a VF, and clearing VF Enable, reset each seat they
name: its queues are off, its function's registers are back at reset, and κ is 1.0 (R783); a VF whose VF Enable is cleared is there no more. The Function Level Reset of a PF resets it and then every VF of its port. A
hot reset, a data link going down and PERST_N falling are a warm reset in x16 mode; in x8x8 mode they take the port down.
Where the spec leaves a point open, the clause follows the model's choice: log entry 34. -/
def Obligations.HostLinkResets : Prop :=
  ∀ s : State, s.sound = true →
    (∀ fn : Seat, s.answers = true → fn.val ∉ s.pfs → ∃ v, Answers (.flr fn) s v ∧
      (∀ q < 8, v.rdw hstSbqCtrlEnable fn.val q = 0 ∧ v.rdw hstCpqCtrlEnable fn.val q = 0) ∧ (v.fn fn.val).bme = false ∧
      (v.fn fn.val).d3hot = false ∧ (v.fn fn.val).msixEnable = false ∧ v.clk.kappa = 256) ∧
    (∀ fn : Seat, s.answers = true → fn.val ∈ s.pfs →
      Answers (.flr fn) s (s.each (fn.val :: s.vfSeats (s.portOf fn.val)) State.srst)) ∧
    (∀ port : Fin 2, s.answers = true → ∃ v, Answers (.vfEnableClear port) s v ∧
      (∃ p, v.host.ports[port.val]? = some p ∧ p.vfEnable = false) ∧ (∀ k ∈ s.vfSeats port.val, (v.fn k).enabled = false) ∧
      v.host = ((s.each (s.vfSeats port.val) State.srst).each (s.vfSeats port.val) (fun s t => s.fnMap t (fun f => { f with enabled := false }))
        |>.hostMap (fun h => { h with ports := updAt port.val (fun p => { p with vfEnable := false }) h.ports })).host) ∧
    (∀ port : Fin 2, s.rd hstPortModeSplit = 1 →
      (∃ v p, Answers (.hotReset port) s v ∧ v.host.ports[port.val]? = some p ∧ p.up = false ∧ p.vfEnable = false) ∧
      (∃ v p, Answers (.dlDown port) s v ∧ v.host.ports[port.val]? = some p ∧ p.up = false ∧ p.vfEnable = false) ∧
      (∃ v p, Answers (.perstAssert port) s v ∧ v.host.ports[port.val]? = some p ∧ p.up = false ∧ p.perst = true)) ∧
    (s.rd hstPortModeSplit = 0 → s.pwr.mode = .playing → s.rd errStatusFatal = 0 →
      (∃ v, Answers (.hotReset 0) s v ∧ v.pwr.mode = .warm ∧ v.pwr.linkReset = true) ∧
      (∃ v, Answers (.dlDown 0) s v ∧ v.pwr.mode = .warm ∧ v.pwr.linkReset = true) ∧
      (∃ v p, Answers (.perstAssert 0) s v ∧ v.pwr.mode = .warm ∧ v.host.ports[0]? = some p ∧ p.perst = true))

/-- A far read that is in flight (R276, R278): its return is noted with its outcome, as lost when it failed, and a latency above VOI_FAR_LAT
sets far_slow; that of a slab operation is one of its reads returned, or rolls it back (R887); the commits and prepares that waited go on after
it. An unknown read changes nothing but the instant.
Where the spec leaves a point open, the clause follows the model's choice: log entry 5. -/
def Obligations.FarReadsReturn : Prop :=
  ∀ (rid : Nat) (ok : Bool) (t : Nat) (s : State),
    let u := s.advance t
    (∀ r : Req, u.rr.reqs.find? (fun r => r.rid == rid && r.far && !r.returned) = some r → (∀ k, r.clients.head? ≠ some (.slab k)) →
      ∃ w : State, Answers (.farReadComplete rid ok t) s w.retryCommits.weavePrepares ∧
        w.rr.reqs = updFirst (fun y => y.rid == rid) (fun y => { y with returned := true, lost := !ok }) u.rr.reqs ∧
        w.host = u.host ∧ w.store = u.store ∧ w.out = u.out ∧
        (s.sound = true → ns (u.inForce voiFarLatNs) < u.clk.now - r.issued → w.rd voiEventFarSlow = 1)) ∧
    (∀ (r : Req) (k : Nat), u.rr.reqs.find? (fun r => r.rid == rid && r.far && !r.returned) = some r → r.clients.head? = some (.slab k) →
      ∃ w : State, w.rr.reqs = u.rr.reqs.filter (fun y => y.rid != rid) ∧ w.host = u.host ∧ w.store = u.store ∧ w.out = u.out ∧
        Answers (.farReadComplete rid ok t) s (if ok then w.slabRead k else w.slabRollback k 0).retryCommits.weavePrepares) ∧
    (u.rr.reqs.find? (fun r => r.rid == rid && r.far && !r.returned) = none →
      Answers (.farReadComplete rid ok t) s u.retryCommits.weavePrepares)

/-! ## The command protocol -/

/-- A completion (R386, R387, R388, R413, R418, R420, R536): a PING writes one record of 32 bytes at its ring's tail, with the ring's phase, the
packet's tag and sequence number and the energy charged; the tail moves on, the phase turns where the ring wraps, the command is gone, and
nothing else of the chip changes. A function that may not post loses the record, and post_dropped is set. The energy is the estimate of R831 of what
the command caused, its record with it; the coefficients are free values (log entries 7 and 84). -/
def Obligations.PingWritesItsRecord : Prop :=
  ∀ (cid : Nat) (c : Cmd) (s : State), s.sound = true → hostReady s cid 0x01 c → s.host.window.all (fun e => e.cid != cid) = true →
    let tail := s.rdw hstCpqStatusTail c.seat c.cpq
    let phase := s.rdw hstCpqStatusPhase c.seat c.cpq
    let size := 2 ^ s.rdw hstCpqCtrlSizeLog2 c.seat c.cpq
    let base := s.rdw hstCpqBaseLoAddr c.seat c.cpq + 2 ^ 32 * s.rdw hstCpqBaseHiAddr c.seat c.cpq
    ((s.fn c.seat).canPost = true → s.rdw hstCpqCtrlIntEn c.seat c.cpq = 0 →
      ∃ v, Answers (.ping cid) s v ∧ v.out = s.out ++ [.hostWrite c.seat (base + 32 * tail)
          (completionBytes stOk 0 phase c.queue c.tag (s.rdw hstSbqStatusFetch c.seat c.queue) c.seq s.measure 0 0
            (if c.flags.testBit 3 then 0 else min (s.estimate (s.spentBy c 32) + s.plaited cid) 0xFFFFFFFF) (c.flags.testBit 3)) false] ∧
        v.rdw hstCpqStatusTail c.seat c.cpq = (if size ≤ tail + 1 then 0 else tail + 1) % 2 ^ hstCpqStatusTail.width ∧
        v.rdw hstCpqStatusPhase c.seat c.cpq = (if size ≤ tail + 1 then (1 - phase) % 2 else phase) ∧ v.cmd? cid = none ∧
        v.store = s.store ∧ v.mem = s.mem ∧ v.weave = s.weave ∧ v.sweep = s.sweep ∧ v.rr = s.rr ∧ v.clk = s.clk) ∧
    ((s.fn c.seat).canPost = false →
      ∃ v, Answers (.ping cid) s v ∧ v.out = s.out ∧ v.rdw hstCpqStatusTail c.seat c.cpq = tail ∧
        v.rdw hstFeventPostDropped c.seat 0 = 1 ∧ v.cmd? cid = none ∧ v.store = s.store)

/-- The commands that answer with a record (R414, R426, R427, R500, R650, R699, R827): IDENTIFY's 128 bytes, the words a CONFIG_READ lists, a
counter group with its header, the 64 bytes of FW_QUERY, and the map of WEAVE_ADMIN 7, are written to the buffer the command names, and then
it completes. A map that does not fit its buffer is refused.
Where the spec leaves a point open, the clause follows the model's choice: log entries 7, 32 and 37. -/
def Obligations.QueriesAnswerWithARecord : Prop :=
  ∀ (cid op : Nat) (c : Cmd) (s : State), hostReady s cid op c → (s.fn c.seat).canPost = true →
    (op = 0x02 → ∃ w : State, Answers (.identify cid) s (w.completeOk c (bufAddr c.param 0) 1) ∧
      w.out = s.out ++ [.hostWrite c.seat (bufAddr c.param 0) (s.identity c.seat) false] ∧ w.regs = s.regs ∧ w.store = s.store ∧ w.host.cpqs = s.host.cpqs ∧
      (s.identity c.seat).length = 128 ∧ field (s.identity c.seat) 0 1 = 64 ∧ field (s.identity c.seat) 4 2 = c.seat % 65536 ∧
      (w.completeOk c (bufAddr c.param 0) 1).cmd? cid = none) ∧
    (op = 0x30 → ∃ (w : State) (bytes : Bytes), Answers (.configRead cid) s (w.completeOk c (bufAddr c.param 8) 1) ∧
      w.out = s.out ++ [.hostWrite c.seat (bufAddr c.param 8) bytes false] ∧ bytes = (s.readList c.seat (readOffsets c.param)).2 ∧
      bytes.length = 4 * (readOffsets c.param).length ∧ w.store = s.store ∧ (w.completeOk c (bufAddr c.param 8) 1).cmd? cid = none) ∧
    (op = 0x48 → ∃ (w : State) (bytes : Bytes), Answers (.telemetryRead cid) s (w.completeOk c (bufAddr c.param 8) 1) ∧
      w.out = s.out ++ [.hostWrite c.seat (bufAddr c.param 8) bytes false] ∧ w.regs = s.regs ∧ field bytes 0 2 = field c.param 0 2 ∧
      (field c.param 0 2 < 0x0B → bytes.drop 32 = c.operands.drop 4) ∧
      (0x0B ≤ field c.param 0 2 → bytes.length = 32 + 8 * (s.groupValues c.seat (field c.param 0 2)).length) ∧
      (w.completeOk c (bufAddr c.param 8) 1).cmd? cid = none) ∧
    (op = 0x41 → ∃ w : State, Answers (.fwQuery cid) s (w.completeOk c (bufAddr c.param 0) 1) ∧
      w.out = s.out ++ [.hostWrite c.seat (bufAddr c.param 0) s.fwQuery false] ∧ w.regs = s.regs ∧ s.fwQuery.length = 64 ∧
      field s.fwQuery 1 1 = s.pwr.boot.staged % 256 ∧ (w.completeOk c (bufAddr c.param 0) 1).cmd? cid = none) ∧
    (op = 0x58 → field c.param 0 1 = 7 →
      (bufLen c.param 8 < 16 * s.weave.map.length → Answers (.weaveAdminStatus cid) s (s.refuse c stBadParam)) ∧
      (16 * s.weave.map.length ≤ bufLen c.param 8 → ∃ (w : State) (bytes : Bytes),
        Answers (.weaveAdminStatus cid) s (w.completeOk c (bufAddr c.param 8) 1) ∧
        w.out = s.out ++ [.hostWrite c.seat (bufAddr c.param 8) bytes false] ∧ bytes.length = 16 * s.weave.map.length ∧
        (∀ i m, s.weave.map[i]? = some m → slice bytes (16 * i) 15 = (mapEntBytes m).take 15) ∧ w.regs = s.regs))

/-- Ownership (R515, R516, R522, R525, R526, R527). A claim on a free chip is held for the election if the claim mask lets its seat claim; the
owner's renews its lease; any other is NOT_OWNER. RELEASE frees the chip, HANDOVER offers it to the seat it names. At the downbeat that finds
a lease run out, or an offer 16 measures old with no claim, the ownership or the offer ends, with its event; otherwise nothing happens.
Where the spec leaves a point open, the clause follows the model's choice: log entry 55. -/
def Obligations.OwnershipComesAndGoes : Prop :=
  (∀ (cid op : Nat) (c : Cmd) (s : State), s.sound = true → hostReady s cid op c → s.inWeave = false →
      (op = 0x04 →
        (s.rd ownStateState = 0 → s.claimOk c.seat = true → ∃ v, Answers (.claim cid) s v ∧
          v.host.claims = s.host.claims ++ [⟨cid, c.seat, field c.param 8 1, field c.param 0 8⟩] ∧ v.cmd? cid = some { c with stage := .held } ∧
          v.regs = s.regs ∧ v.out = s.out ∧ v.store = s.store) ∧
        (s.rd ownStateState = 0 → s.claimOk c.seat = false → Answers (.claim cid) s (s.refuse c stNotOwner)) ∧
        (s.rd ownStateState = 2 → s.rd ownStateSuccessor ≠ c.seat → Answers (.claim cid) s (s.refuse c stNotOwner)) ∧
        (s.rd ownStateState = 1 → s.rd ownStateOwner ≠ c.seat → Answers (.claim cid) s (s.refuse c stNotOwner)) ∧
        (s.owner? = some c.seat → ∃ w : State, Answers (.claim cid) s (w.completeOk c 0 0) ∧
          w.rd ownLeaseLeftMeasures = s.rd ownLeaseLength % 2 ^ ownLeaseLeftMeasures.width ∧ w.owner? = some c.seat ∧ w.out = s.out)) ∧
      (op = 0x05 → s.owner? = some c.seat → ∃ w : State, Answers (.release cid) s (w.completeOk c 0 0) ∧ w.owner? = none ∧
        w.rd ownStateState = 0 ∧ w.rd ownLeaseLeftMeasures = 0 ∧ w.store = s.store ∧ (w.completeOk c 0 0).cmd? cid = none) ∧
      (op = 0x06 → s.owner? = some c.seat → ∃ w : State, Answers (.handover cid) s (w.completeOk c 0 0) ∧ w.owner? = none ∧
        w.rd ownStateState = 2 ∧ w.rd ownStateSuccessor = field c.param 0 2 % 2 ^ ownStateSuccessor.width ∧ w.host.offerAt = s.measure ∧
        w.store = s.store)) ∧
  (∀ (t : Nat) (s : State), s.sound = true → let u := s.advance t;
      (s.live = false ∨ s.clk.started = false ∨ t + ns 2000 < s.clk.predicted → Answers (.leaseExpiry t) s s ∧ Answers (.offerLapse t) s s) ∧
      (s.live = true → s.clk.started = true → s.clk.predicted ≤ t + ns 2000 →
        (u.rd ownStateState = 1 → u.rd ownLeaseLeftMeasures = 0 → ∃ v, Answers (.leaseExpiry t) s v ∧ v.owner? = none ∧
          v.rd ownStateState = 0 ∧ v.rd ownEventLeaseExpired = 1 ∧ v.rd ownLastChangeMeasure = s.nextNumber % 2 ^ 32 ∧ v.store = u.store) ∧
        (u.rd ownStateState ≠ 1 ∨ u.rd ownLeaseLeftMeasures ≠ 0 → Answers (.leaseExpiry t) s u) ∧
        (u.rd ownStateState = 2 → 17 ≤ (s.nextNumber + 2 ^ 32 - u.host.offerAt) % 2 ^ 32 →
          (∀ x ∈ u.host.claims, x.seat ≠ u.rd ownStateSuccessor) → ∃ v, Answers (.offerLapse t) s v ∧ v.rd ownStateState = 0 ∧
            v.rd ownEventOfferLapsed = 1 ∧ v.rd ownStateSuccessor = 0 ∧ v.store = u.store) ∧
        (u.rd ownStateState ≠ 2 ∨ (s.nextNumber + 2 ^ 32 - u.host.offerAt) % 2 ^ 32 < 17 → Answers (.offerLapse t) s u)))

/-- Searches (R71, R73, R620) and point reads (R472, R473). A SEARCH, SEARCH_FUSED or STATS that was queued before the downbeat, fetched within 12 µs
of it, and reaches an open admission window may run in this measure; any other in the next; nothing is sent. A point read of a staged vector answers
from staging; one of any other goes through the directory, its reads issued and counted against the budget; outside its slot it waits; of an unknown
shelf it is NO_SHELF.
Where the spec leaves a point open, the clause follows the model's choice: log entry 76. -/
def Obligations.SearchesAndPointReads : Prop :=
  ∀ (cid op : Nat) (c : Cmd) (s : State), s.sound = true → hostReady s cid op c →
    (s.isHead = false → (∀ h, s.shelfOf? c.shelf = some h → h.gen ≠ 0) → ∀ i : Instr,
      (i = .search cid ∧ op = 0x10 ∨ i = .searchFused cid ∧ op = 0x11 ∨ i = .stats cid ∧ op = 0x18) →
      ∃ v c', Answers i s v ∧ v.cmd? cid = some c' ∧ c'.stage = .candidate ∧
        c'.first = (if c.queuedAt < s.clk.lastDb ∧ c.fetchedAt ≤ s.clk.lastDb + ns 12000 ∧ s.clk.planFrozen = false ∧ s.clk.phase = .admission
          then s.measure else measureAdd s.measure 1) ∧
        c' = { c with first := c'.first, last := c'.last, stage := .candidate } ∧ (c.deferOk = false → c'.last = c'.first) ∧
        v.out = s.out ∧ v.store = s.store ∧ v.sweep = s.sweep ∧
        (s.clk.lastDb ≤ c.queuedAt → s.clk.prevDb ≤ c.queuedAt → v.regs = s.regs) ∧
        (c.queuedAt < s.clk.lastDb → s.clk.lastDb + ns 12000 < c.fetchedAt → v.rd measEventFetchLate = 1)) ∧
    (op = 0x12 → s.wshelf? c.shelf = none →
      (s.shelfOf? c.shelf = none → Answers (.getById cid) s (s.refuse c stNoShelf)) ∧
      (∀ h, s.shelfOf? c.shelf = some h → h.lost = false → s.rd gdmStatusBelowMin ≠ 1 →
        (s.pointOpen = false → ∃ v, Answers (.getById cid) s v ∧ v.cmd? cid = some { c with stage := .held, target := h.index } ∧ v.out = s.out ∧
          v.regs = s.regs) ∧
        (s.pointOpen = true → s.stagedId? h.index (field c.param 0 6) = none → s.probe h.handle (field c.param 0 6) ≠ [] →
          let hit := s.placedId? h.index (field c.param 0 6)
          let rows := (hit.map (fun e => 1 + (if (field c.param 6 1).testBit 0 then (h.rowGranules e.slab e.row).length else 0) +
            (if (field c.param 6 1).testBit 1 then (h.recGranules e.slab e.row).length else 0))).getD 0
          ∃ v c', Answers (.getById cid) s v ∧ v.cmd? cid = some c' ∧ c'.stage = .granted ∧ c'.last = 0 ∧
            c'.first = (s.probe h.handle (field c.param 0 6)).length + rows ∧ v.mem.pointUsed = s.mem.pointUsed + c'.first ∧
            c'.operands = ((hit.bind (fun e => h.row? e.slab e.row)).map (fun r => pointReply (field c.param 0 6) 1 0 r.attr r.sqNorm r.rowGen
              (pointParts h (field c.param 6 1) r.sweep r.record))).getD (pointReply (field c.param 0 6) 0 0 0 0 0 []) ∧
            v.out = s.out ∧ v.store = s.store) ∧
        (∀ e, s.pointOpen = true → s.stagedId? h.index (field c.param 0 6) = some e → (s.fn c.seat).canPost = true →
          ∃ w : State, Answers (.getById cid) s (w.complete c stOk s.measure (bufAddr c.param 8) 1 true) ∧
            w.out = s.out ++ [.hostWrite c.seat (bufAddr c.param 8) (pointReply (field c.param 0 6) 1 1 e.attr e.sqNorm 0
              (pointParts h (field c.param 6 1) e.sweep e.vec)) false] ∧ w.store = s.store ∧ w.regs = s.regs)))

/-- The mutations (R434, R438, R462, R463, R465, R466). An INSERT or UPSERT that staging can hold waits for its grant, and one that it never can is STAGING_FULL;
a DELETE with room commits at once, as DELETE and grants are served in order. A grant writes the notice word and reads the data; data whose CRC is
wrong is refused, of a wrong length is no event, and good data commits, but for an INSERT of an id that is present. A wait that runs out ends in
STAGING_FULL.
Where the spec leaves a point open, the clause follows the model's choice: log entries 6 and 57. -/
def Obligations.MutationsAreGrantedAndCommit : Prop :=
  ∀ (cid : Nat) (c : Cmd) (s : State), s.sound = true → s.isHead = false → s.live = true → s.cmd? cid = some c → c.origin = 0 → c.quiet = false →
    (∀ i : Instr, (i = .insert cid ∧ c.opcode = 0x20 ∨ i = .upsert cid ∧ c.opcode = 0x22) → c.stage = .ready →
      (∀ st, s.mutationShelf c = .error st → Answers i s (s.refuse c st)) ∧
      (∀ h, s.mutationShelf c = .ok h →
        (s.neverFits (s.needs c) = true → ∃ w : State, Answers i s (w.refuse c stStagingFull) ∧ w.rd stgEventStagingFull = 1 ∧ w.store = s.store) ∧
        (s.neverFits (s.needs c) = false → ∃ v, Answers i s v ∧ v.cmd? cid = some { c with stage := .waitGrant } ∧ v.store = s.store ∧
          v.regs = s.regs ∧ v.out = s.out))) ∧
    (∀ h, c.opcode = 0x21 → c.stage = .ready → s.mutationShelf c = .ok h → s.neverFits (s.needs c) = false →
      s.roomFor 0 (s.needs c).2 = true → s.waitOrder = [] →
      (s.cmdMap cid (fun x => { x with reserved := s.needs c, stage := .waitGrant })).otherwiseFree c = true →
      (c.records h).any (fun r => s.heldBySlab h.index r.id) = false → s.overCapacity h (c.records h) = false →
      ∃ w : State, Answers (.delete cid) s (w.committed { c with reserved := s.needs c }).weavePrepares ∧
        w = (s.cmdMap cid (fun x => { x with reserved := s.needs c, stage := .waitGrant })).commitRecs h.index cid s.measure c.settleFlag (c.records h)) ∧
    (s.waitOrder = [] → Answers .transferGrant s s.weavePrepares) ∧
    (∀ h, s.servable false false s.waitOrder = some c → c.opcode ≠ 0x21 → s.mutationShelf c = .ok h →
      (s.fn c.seat).canPost = true →
      ∃ w : State, Answers .transferGrant s w.weavePrepares ∧ w.host.grants = s.host.grants ++ [(cid, c.seat)] ∧
        w.cmd? cid = some { c with reserved := s.needs c, stage := .granted } ∧
        w.out = s.out ++ (if c.noticeAddr = 0 then [] else
            [.hostWrite c.seat c.noticeAddr (leBytes 2 c.tag ++ leBytes 1 1 ++ zeros 1 ++ leBytes 4 c.seq ++ leBytes 4 s.measure ++ zeros 4) false]) ++
          ((s.fn c.seat).reads c.dataAddr c.dataLen).map (fun p => .hostRead c.seat p.1 p.2) ∧
        w.store = s.store ∧ w.regs = s.regs) ∧
    (∀ (t : Nat) (data : List Byte), let u := s.advance t;
      u.live = true → u.cmd? cid = some c → isMutation c.opcode = true → c.stage = .granted →
      (data.length ≠ c.dataLen → exec (.insertDataComplete cid true data t) s = .fault .illFormed) ∧
      (data.length = c.dataLen → crc32c data ≠ c.dataCrc →
        ∃ w : State, Answers (.insertDataComplete cid true data t) s (w.refuse c stCrc).weavePrepares ∧ w.rd zcpEventCrc = 1 ∧
          w.rd zcpCrcErrorsCount = min (u.rd zcpCrcErrorsCount + 1) (2 ^ zcpCrcErrorsCount.width - 1) ∧ w.store = u.store) ∧
      (∃ w : State, Answers (.insertDataComplete cid false [] t) s (w.refuse c stNoAccess).weavePrepares ∧ w.store = u.store) ∧
      (∀ h, data.length = c.dataLen → crc32c data = c.dataCrc → u.mutationShelf c = .ok h → c.opcode ≠ 0x21 → u.isHead = false →
        recordStatus h ((List.range c.batch).map (dataRec h data)) = stOk →
        (let rs := (List.range c.batch).map (fun i => (⟨(dataRec h data i).id, some (dataRec h data i)⟩ : Rec));
          let got := (u.cmdMap cid (fun x => { x with operands := data })).spend cid (data.length * u.coeff .hostByte (u.linkSpeed c.seat))
          rs.any (fun r => u.heldBySlab h.index r.id) = false →
          ((c.opcode = 0x20 → rs.all (fun r => !u.present h.index r.id) = true) → u.overCapacity h rs = false →
            ∃ w : State, Answers (.insertDataComplete cid true data t) s (w.committed { c with operands := data }).weavePrepares ∧
              w = got.commitRecs h.index cid u.measure c.settleFlag rs) ∧
          (∀ id, c.opcode = 0x20 → u.presentId? h.index rs = some id → Answers (.insertDataComplete cid true data t) s
            ((got.showPresent id).refuse { c with operands := data } stBadParam).weavePrepares)))) ∧
    (∀ h, s.mutationShelf c = .ok h → c.waiting = true → c.reserved = (0, 0) → s.otherwiseFree c = true →
      (s.servable false false (s.waitOrder.takeWhile (fun d => d.cid != cid) ++ [c]) = none) →
      ((s.measure + 2 ^ 32 - c.intakeAt) % 2 ^ 32 < s.inForce stgCtrlWaitMeasures → Answers (.stagingWaitExpire cid) s s) ∧
      (s.inForce stgCtrlWaitMeasures ≤ (s.measure + 2 ^ 32 - c.intakeAt) % 2 ^ 32 →
        ∃ w : State, Answers (.stagingWaitExpire cid) s (w.refuse c stStagingFull) ∧ w.rd stgEventStagingFull = 1 ∧
          (w.refuse c stStagingFull).cmd? cid = none))

/-- Shelves and SETTLE (R107, R147, R477, R509). SHELF_CREATE of a handle in use is BAD_PARAM, one that does not fit STORE_FULL, and another adds an
empty shelf under an index of its own, open to its creator alone. SHELF_DROP leaves the shelf dropping. SHELF_GRANT sets exactly the rights
it names. SETTLE completes at once when nothing waits, and otherwise flags and waits for the entries of its scope.
Where the spec leaves a point open, the clause follows the model's choice: log entries 41 and 62. -/
def Obligations.ShelvesAndSettles : Prop :=
  ∀ (cid op : Nat) (c : Cmd) (s : State), hostReady s cid op c → s.inWeave = false →
    (op = 0x28 →
      (∀ h, s.shelfOf? c.shelf = some h → Answers (.shelfCreate cid) s (s.refuse c stBadParam)) ∧
      (s.shelfOf? c.shelf = none → s.wshelf? c.shelf = none →
        (s.placeShelf (shelfOfParam c.shelf c.seat c.param) = none → Answers (.shelfCreate cid) s (s.refuse c stStoreFull)) ∧
        (∀ w, s.placeShelf (shelfOfParam c.shelf c.seat c.param) = some w → Answers (.shelfCreate cid) s (w.completeOk c 0 0) ∧
          ∃ h, w.store.shelves = s.store.shelves ++ [h] ∧ h.handle = c.shelf ∧ h.ownerSeat = c.seat ∧ h.searchers = [c.seat] ∧
            h.readers = [c.seat] ∧ h.slabs = [] ∧ h.capacity = field c.param 48 4 ∧ h.dropping = false ∧
            (∀ x ∈ s.store.shelves, x.index ≠ h.index) ∧ w.regs = s.regs ∧ w.host = s.host))) ∧
    (op = 0x29 → ∃ w : State, Answers (.shelfDrop cid) s (w.completeOk c 0 0) ∧
      (∀ h ∈ w.store.shelves, h.handle = c.shelf → h.dropping = true)) ∧
    (op = 0x2A → ∃ w : State, Answers (.shelfGrant cid) s (w.completeOk c 0 0) ∧
      (∀ h ∈ w.store.shelves, h.handle = c.shelf → h.searchers.contains (field c.param 0 2) = (field c.param 2 1).testBit 0 ∧
        h.readers.contains (field c.param 0 2) = (field c.param 2 1).testBit 1) ∧
      (∀ h ∈ s.store.shelves, h.handle ≠ c.shelf → h ∈ w.store.shelves) ∧ w.store.staging = s.store.staging) ∧
    (∀ h, op = 0x23 → s.shelfOf? c.shelf = some h → h.lost = false → field c.param 0 1 ≠ 1 →
      s.store.staging.any (fun e => e.shelf == h.index && e.unsettled) = true → ∃ v c', Answers (.settle cid) s v ∧
        v.cmd? cid = some c' ∧ c'.stage = .settling ∧
        c'.waits = (s.store.staging.filter (fun e => e.shelf == h.index && e.unsettled)).map (fun e => e.handle) ∧ v.regs = s.regs ∧ v.out = s.out) ∧
    (op = 0x23 → (∀ h, s.shelfOf? c.shelf = some h → h.lost = false) →
      (s.store.staging.all (fun e => !e.unsettled) = true → Answers (.settle cid) s (s.completeOk c 0 0)) ∧
      (field c.param 0 1 = 1 → s.store.staging.any StgEnt.unsettled = true → ∃ v c', Answers (.settle cid) s v ∧
        v.cmd? cid = some c' ∧ c'.stage = .settling ∧ c'.waits = (s.store.staging.filter StgEnt.unsettled).map (fun e => e.handle) ∧
        (∀ e ∈ v.store.staging, e.unsettled = true → e.settle = true) ∧ v.regs = s.regs ∧ v.out = s.out))

/-- Settings and firmware (R49, R427, R453, R691, R692, R777). CONFIG_WRITE writes its entries in order under their masks and completes, and the
write that begins a warm reset comes after the completion; MEASURE_CONFIG waits for its measure; FW_STAGE waits for the flash or starts writing the
other bank; once the whole image is in the bank its verification stages it, or leaves the bank bad with BAD_FORMAT; FLUSH_QUEUE discards the
posted packets, or withdraws every command it covers, and completes with their number.
Where the spec leaves a point open, the clause follows the model's choice: log entries 27, 31, 87 and 88. -/
def Obligations.SettingsFirmwareAndFlush : Prop :=
  (∀ (cid op : Nat) (c : Cmd) (s : State), hostReady s cid op c →
      (op = 0x31 → ∃ w : State, w = (((writeEntries c.param).filter (fun e => e.1 != 0x41000)).foldl (fun s e => s.maskedWrite c.seat e) s) ∧
        Answers (.configWrite cid) s
          (((writeEntries c.param).filter (fun e => e.1 == 0x41000)).foldl (fun s e => s.maskedWrite c.seat e) (w.completeOk c 0 0))) ∧
      (op = 0x38 → s.isHead = false → ∃ v, Answers (.measureConfig cid) s v ∧ v.cmd? cid = some { c with stage := .timed, target := field c.param 0 4 } ∧
        v.regs = s.regs ∧ v.out = s.out ∧ v.store = s.store) ∧
      (op = 0x40 → (s.pwr.session.isSome = true ∨ s.pwr.fwWrite.isSome = true → ∃ v, Answers (.fwStage cid) s v ∧
          v.pwr.fwWait = s.pwr.fwWait ++ [cid] ∧ v.pwr.boot = s.pwr.boot ∧ v.cmd? cid = some { c with stage := .timed }) ∧
        (s.pwr.session = none → s.pwr.fwWrite = none → ∃ w : State, Answers (.fwStage cid) s w.nextFlash ∧
          w.pwr.fwWrite = some ⟨cid, if field c.param 16 1 = 0 then s.inactive else field c.param 16 1, 0⟩ ∧ w.pwr.boot.staged = 0 ∧
          w.pwr.boot.active = s.pwr.boot.active ∧ w.regs = s.regs)) ∧
      (op = 0x50 → field c.param 1 1 = 0 → Answers (.flushQueue cid) s (s.completeOk c 0 0)) ∧
      (op = 0x50 → field c.param 1 1 = 1 → ∃ w : State, Answers (.flushQueue cid) s (w.completeOk c 0 0) ∧
        (w.sbq c.seat (field c.param 0 1)).fetched = (s.sbq c.seat (field c.param 0 1)).posted ∧ (w.sbq c.seat (field c.param 0 1)).reading = [] ∧
        (w.sbq c.seat (field c.param 0 1)).bells = [] ∧ w.host.cmds = s.host.cmds ∧ w.store = s.store) ∧
      (op = 0x50 → field c.param 1 1 = 2 →
        let hit := s.host.cmds.filter (fun x => x.seat == c.seat && x.queue == field c.param 0 1 && x.origin == 0 && x.flushable)
        Answers (.flushQueue cid) s ((hit.foldl (fun s x => s.flushOne x) s).completeOk c 0 hit.length))) ∧
  (∀ (cid t : Nat) (c : Cmd) (s : State), s.live = true → let u := s.advance t;
      u.cmd? cid = some c → ∀ fw, u.pwr.fwWrite = some fw → fw.cid = cid → u.pwr.fwWait = [] →
      ((stageOp c.operands.length fw.done).isSome = true ∨ u.pwr.spm.op.isSome = true → Answers (.fwStageVerify cid t) s u) ∧
      (stageOp c.operands.length fw.done = none → u.pwr.spm.op = none →
        (u.imageOk (u.bankBytes fw.bank 0 c.operands.length) = true → ∃ w : State, Answers (.fwStageVerify cid t) s (w.complete c stOk u.measure 0 0 true) ∧
          w.pwr.boot.staged = 1 ∧ w.pwr.boot.stagedMeasure = u.measure ∧ w.pwr.fwWrite = none ∧ w.pwr.boot.active = u.pwr.boot.active) ∧
        (u.imageOk (u.bankBytes fw.bank 0 c.operands.length) = false →
          ∃ w : State, Answers (.fwStageVerify cid t) s (w.complete c stBadFormat u.measure 0 0 false) ∧ w.pwr.boot.staged = 2 ∧
            w.pwr.fwWrite = none ∧ w.pwr.boot.active = u.pwr.boot.active)))

/-- MAP_OUT and MAP_IN (R214, R569, R600): the unit's bit is set or cleared, of an engine, a channel or a strand, and the command waits for the downbeat
that applies it; a MAP_IN of a channel that has faulted ends with HW_FAULT, unless fewer than the minimum are left and it is mapped out (R849). -/
def Obligations.UnitsAreMapped : Prop :=
  ∀ (cid op i : Nat) (c : Cmd) (s : State), s.sound = true → hostReady s cid op c → field c.param 2 2 = i →
    (op = 0x60 → field c.param 0 1 = 2 → i < 32 → ∃ v, Answers (.mapOut cid) s v ∧
      v.rd wvMapoutLoStrands = (s.rd wvMapoutLoStrands ||| 2 ^ i) % 2 ^ 32 ∧ v.cmd? cid = some { c with stage := .timed, target := 0 } ∧
      v.mem.pends = s.mem.pends ++ [⟨cid, 2, i⟩] ∧ v.store = s.store ∧ v.out = s.out) ∧
    (op = 0x60 → field c.param 0 1 = 0 → i < 32 → s.rd swpMapoutLoEngines < 2 ^ 32 → ∃ v, Answers (.mapOut cid) s v ∧
      v.rd swpMapoutLoEngines = s.rd swpMapoutLoEngines ||| 2 ^ i ∧ v.cmd? cid = some { c with stage := .timed, target := 0 } ∧
      v.mem.pends = s.mem.pends ++ [⟨cid, 0, i⟩]) ∧
    (op = 0x61 → field c.param 0 1 = 2 → i < 32 → ∃ v, Answers (.mapIn cid) s v ∧ (v.rd wvMapoutLoStrands).testBit i = false ∧
      v.cmd? cid = some { c with stage := .timed, target := 0 } ∧ v.mem.pends = s.mem.pends ++ [⟨cid, 2, i⟩] ∧ v.store = s.store) ∧
    (op = 0x61 → field c.param 0 1 = 1 → (s.channel i).faulted = true → s.rd gdmStatusBelowMin = 0 ∨ (s.rd gdmMapoutChannels).testBit i = false →
      Answers (.mapIn cid) s (s.refuse c stHwFault)) ∧
    (32 ≤ i → i < 64 →
      (op = 0x60 → field c.param 0 1 = 2 → ∃ v, Answers (.mapOut cid) s v ∧
        v.rd wvMapoutHiStrands = (s.rd wvMapoutHiStrands ||| 2 ^ (i - 32)) % 2 ^ 32 ∧ v.mem.pends = s.mem.pends ++ [⟨cid, 2, i⟩]) ∧
      (op = 0x60 → field c.param 0 1 = 0 → s.rd swpMapoutHiEngines < 2 ^ 32 → ∃ v, Answers (.mapOut cid) s v ∧
        v.rd swpMapoutHiEngines = s.rd swpMapoutHiEngines ||| 2 ^ (i - 32) ∧ v.mem.pends = s.mem.pends ++ [⟨cid, 0, i⟩]) ∧
      (op = 0x61 → field c.param 0 1 = 2 → ∃ v, Answers (.mapIn cid) s v ∧ (v.rd wvMapoutHiStrands).testBit (i - 32) = false ∧
        v.mem.pends = s.mem.pends ++ [⟨cid, 2, i⟩]) ∧
      (op = 0x61 → field c.param 0 1 = 0 → ∃ v, Answers (.mapIn cid) s v ∧ (v.rd swpMapoutHiEngines).testBit (i - 32) = false ∧
        v.mem.pends = s.mem.pends ++ [⟨cid, 0, i⟩])) ∧
    (op = 0x61 → field c.param 0 1 = 0 → i < 32 → ∃ v, Answers (.mapIn cid) s v ∧ (v.rd swpMapoutLoEngines).testBit i = false ∧
      v.mem.pends = s.mem.pends ++ [⟨cid, 0, i⟩]) ∧
    (field c.param 0 1 = 1 → i < 24 →
      (op = 0x60 → s.rd gdmMapoutChannels < 2 ^ 24 → 12 ≤ (s.wanted (s.rd gdmMapoutChannels ||| 2 ^ i)).length → ∃ v, Answers (.mapOut cid) s v ∧
        v.rd gdmMapoutChannels = s.rd gdmMapoutChannels ||| 2 ^ i ∧ v.cmd? cid = some { c with stage := .timed, target := 0 } ∧
        v.mem.pends = s.mem.pends ++ [⟨cid, 1, i⟩] ∧ v.store = s.store ∧ v.out = s.out) ∧
      (op = 0x61 → (s.channel i).faulted = false ∨ (s.rd gdmStatusBelowMin = 1 ∧ (s.rd gdmMapoutChannels).testBit i = true) →
        ∃ v, Answers (.mapIn cid) s v ∧ (v.rd gdmMapoutChannels).testBit i = false ∧
        v.cmd? cid = some { c with stage := .timed, target := 0 } ∧ v.mem.pends = s.mem.pends ++ [⟨cid, 3, i⟩]))

/-- The administration of the weave (R648, R650, R651). A command whose map or member does not fit its rules, or on a chip that may not give it, is
BAD_PARAM; a good one records its map, its rebuild or its promotion, sends its ADMIN or REMOTE to the members it concerns, and waits for
their answers.
Where the spec leaves a point open, the clause follows the model's choice: log entries 38 and 39. -/
def Obligations.WeaveAdministration : Prop :=
  ∀ (cid : Nat) (c : Cmd) (s : State), hostReady s cid 0x58 c → let a := field c.param 4 2;
    (field c.param 0 1 = 1 → let map := mapOf c.operands;
      (s.mapBad map = true ∨ s.store.shelves ≠ [] → Answers (.weaveAdminForm cid) s (s.refuse c stBadParam)) ∧
      (s.mapBad map = false → s.store.shelves = [] → s.weave.shelves = [] → c.operands.length % 16 = 0 →
        (∀ k < c.operands.length / 16, field c.operands (16 * k + 15) 1 = 0) →
        ∃ w : State, Answers (.weaveAdminForm cid) s (w.adminWait c) ∧ w.weave.nextMap = some map ∧
          ∃ o ∈ w.weave.ops, o.cid = cid ∧ o.kind = .admin ∧ o.waiting = (map.filter (fun m => m.parent != 0xFFFF)).map (fun m => m.addr))) ∧
    (field c.param 0 1 = 2 → let map := s.mapNext ++ [mapEntOf (slice c.param 8 16)];
      (s.isHead = false ∨ s.mapBad map = true → Answers (.weaveAdminAdmit cid) s (s.refuse c stBadParam)) ∧
      (s.isHead = true → s.mapBad map = false → field c.param 23 1 = 0 →
        ∃ w : State, Answers (.weaveAdminAdmit cid) s (w.adminWait c) ∧ w.weave.nextMap = some map ∧ ∃ o ∈ w.weave.ops, o.cid = cid ∧ o.kind = .admin)) ∧
    (field c.param 0 1 = 3 →
      (s.isHead = false ∨ a = s.self → Answers (.weaveAdminExclude cid) s (s.refuse c stBadParam)) ∧
      (s.isHead = true → a ≠ s.self → s.mapNext.any (fun m => m.addr == a) = true →
        ∃ w : State, Answers (.weaveAdminExclude cid) s (w.adminWait c) ∧ w.weave.nextMap = some (s.mapNext.filter (fun m => m.addr != a)))) ∧
    (field c.param 0 1 = 4 →
      (s.wshelf? c.shelf = none → Answers (.weaveAdminRebuild cid) s (s.refuse c (if s.isHead then stNoShelf else stBadParam))) ∧
      (∀ x, s.wshelf? c.shelf = some x → s.isHead = true → x.holders.contains a = true →
        ∃ w : State, Answers (.weaveAdminRebuild cid) s (w.adminWait c) ∧ ∃ o ∈ w.weave.ops, o.cid = cid ∧ o.kind = .rebuild ∧ o.waiting = [a])) ∧
    (field c.param 0 1 = 5 →
      (s.isHead = false ∨ a = s.self ∨ s.mapEnt? a = none → Answers (.weaveAdminRemote cid) s (s.refuse c stBadParam)) ∧
      (s.isHead = true → a ≠ s.self → (s.mapEnt? a).isSome = true →
        ∃ (w : State) (n : Nat) (body : Bytes), Answers (.weaveAdminRemote cid) s (w.send 0x1A a n body) ∧ w.cmd? cid = some { c with stage := .remote } ∧
          ∃ o ∈ w.weave.ops, o.id = n ∧ o.cid = cid ∧ o.kind = .remote ∧ o.waiting = [a])) ∧
    (field c.param 0 1 = 6 →
      (s.isHead = false ∨ s.deputyOk = false → Answers (.weaveAdminPromote cid) s (s.refuse c stBadParam)) ∧
      (s.isHead = true → s.deputyOk = true → a = s.rd wvDeputyAddr →
        ∃ w : State, Answers (.weaveAdminPromote cid) s (w.adminWait c) ∧ w.weave.promo = some ⟨s.measure, s.self, true⟩))

/-! ## The measure, the sweep and the re-rank -/

/-- The ways a measure begins (R38, R39, R41, R42, R43, R44, R789), on a chip that is in no weave: the internal timebase at the predicted
instant, with a source that is lost too; an external edge of the selected kind within 2 µs of it, or the first of all; the flywheel 2 µs after it,
with the edge counted as missed, the eighth in a row of which loses the source and goes on from the last accepted phase. An edge more than 2 µs
early sets MEAS_EVENT.early_edge and starts nothing, one that is late or of the other kind is ignored, and one within 2 µs of the prediction of a
lost source counts towards its return.
Where the spec leaves a point open, the clause follows the model's choice: log entries 73 and 74. -/
def Obligations.DownbeatSources : Prop :=
  ∀ s : State, s.ticking = true → s.inWeave = false → let n := (s.measure + 1) % 2 ^ 32;
    (s.source ≠ 1 → s.clk.holdover = false → s.clk.sourceGone = false →
      Answers .downbeat s ((s.clkMap (fun k => { k with locked := false })).startMeasure s.clk.predicted n)) ∧
    (s.clk.started = true → (s.clk.holdover = true ∨ s.clk.sourceGone = true) → s.clk.good < 16 →
      Answers .downbeat s ((s.countEdges.clkMap (fun k => { k with locked := false })).startMeasure s.clk.predicted n)) ∧
    (∀ (falling : Bool) (t : Nat), s.source = 1 → s.inputOn 0 0 = true →
      (falling ≠ s.edgeFalls → Answers (.downbeatEdge ⟨falling, t⟩) s s) ∧
      (falling = s.edgeFalls →
        (s.clk.started = false ∨ s.clk.holdover = false ∧ s.clk.sourceGone = false ∧ s.clk.predicted ≤ t + ns 2000 ∧ t ≤ s.clk.predicted + ns 2000 →
          Answers (.downbeatEdge ⟨falling, t⟩) s ((s.clkMap (fun k => { k with locked := true, missed := 0, good := 0 })).startMeasure t n)) ∧
        (s.clk.started = true → s.clk.holdover = false → s.clk.sourceGone = false →
          (t + ns 2000 < s.clk.predicted → Answers (.downbeatEdge ⟨falling, t⟩) s (s.ev measEventEarlyEdge)) ∧
          (s.clk.predicted + ns 2000 < t → Answers (.downbeatEdge ⟨falling, t⟩) s s)) ∧
        (s.clk.started = true → (s.clk.holdover = true ∨ s.clk.sourceGone = true) → s.clk.good < 16 → s.clk.edgeNext = false →
          nearInstant t s.clk.lastDb = false → nearInstant t s.clk.predicted = true →
          Answers (.downbeatEdge ⟨falling, t⟩) s
            (s.clkMap (fun k => { k with good := if k.edgeNow then k.good + 1 else 1, edgeNext := true }))))) ∧
    (s.clk.started = true → s.clk.holdover = false → s.clk.sourceGone = false → s.inForce measCtrlSource = 1 →
      (s.clk.missed + 1 < 8 →
        Answers .flywheelDownbeat s (((s.ev measEventMissedEdge).clkMap (fun k => { k with locked := false, missed := k.missed + 1 })).startMeasure
          (s.clk.predicted + ns 2000) n)) ∧
      (8 ≤ s.clk.missed + 1 → let hold := s.inForce measCtrlHoldoverEn == 1;
        Answers .flywheelDownbeat s (((((s.ev measEventMissedEdge).ev measEventSourceLost).clkMap (fun k =>
          { k with holdover := hold, sourceGone := !hold, good := 0, edgeNow := true, edgeNext := false, locked := false, missed := k.missed + 1 })).startMeasure
          (s.clk.predicted + ns 2000) n).clkMap (fun k => { k with predicted := k.predicted - ns (2000 * (s.clk.missed + 1)) }))))

/-- Every measure that begins has its pulse on BEAT_OUT (R747), and begins no earlier than its downbeat: whatever the chip was doing, and
whatever the number, starting a measure at an instant sends the pulse, and no posting that was made before is taken back. -/
def Obligations.MeasuresBeginWithABeat : Prop :=
  ∀ (s : State) (at_ n : Nat),
    (∃ before after, (s.startMeasure at_ n).out = s.out ++ before ++ [.beat] ++ after) ∧ at_ ≤ (s.startMeasure at_ n).clk.now ∧
    (s.startMeasure at_ n).pending = s.pending ∧ (s.sound = true → (s.startMeasure at_ n).sound = true)

/-- The admission window (R52, R60, R71, R78, R79, R795). The conductors' freeze, from 12 µs after the downbeat to the window's end, freezes the plan;
with no candidate it is empty, and a single candidate that fits is admitted with its run and its plan. At the window's end a frozen empty plan
opens the background window and leaves the measure in its tail, a frozen plan starts the sweep, and with no plan frozen in time
plan_late is set.
Where the spec leaves a point open, the clause follows the model's choice: log entry 11. -/
def Obligations.AdmissionWindow : Prop :=
  ∀ s : State, s.sound = true → s.live = true → s.clk.phase = .admission →
    (∀ t : Nat, s.clk.planFrozen = false → s.inWeave = false → s.clk.lastDb + ns 12000 ≤ t → t ≤ s.windowEnd →
      let u := s.advance t
      Answers (.planFreeze t) s u.admission ∧ u.admission.clk.planFrozen = true ∧ t ≤ u.admission.clk.now ∧
      (s.host.cmds = [] → u.admission.sweep = u.sweep ∧ u.admission.out = u.out) ∧
      (∀ (c : Cmd) (h : Shelf) (p : Plan), u.unheld = [] → u.candidates = [c] → u.cmd? c.cid = some c → u.shelfOf? c.shelf = some h →
        h.dropping = false → c.deadline = 0 → h.lost = false → u.rd gdmStatusBelowMin ≠ 1 → u.noAdmission = false → u.fitting [c] = some p →
        u.overQuota [] c.seat = false →
        ∃ v, Answers (.planFreeze t) s v ∧ v.cmd? c.cid = some { c with stage := .admitted } ∧ v.sweep.plan = p ∧
          v.sweep.runs = u.sweep.runs ++ [u.newRun c h 0] ∧ v.clk.planFrozen = true ∧ v.out = u.out ∧ v.store = u.store)) ∧
    (s.clk.planFrozen = true → s.sweep.plan.ids = [] →
      ∃ w : State, Answers .admissionWindowEnd s w.weaveRun ∧ w.clk.phase = .tail ∧ w.clk.bgOpen = true ∧ s.windowEnd ≤ w.clk.now ∧
        ((∀ f ∈ s.host.fns, s.rdw hstFctrlBeatInt f.seat 0 = 0) → (∀ c ∈ s.host.cmds, c.stage = .held → c.opcode ≠ 0x12) → w.out = s.out)) ∧
    (s.clk.planFrozen = true → s.sweep.plan.ids ≠ [] →
      ∃ w : State, Answers .admissionWindowEnd s w.weaveRun ∧ w.clk.phase = .sweep ∧ s.windowEnd ≤ w.clk.now ∧ w.sweep.plan = s.sweep.plan ∧
        w.store = s.store) ∧
    (s.clk.planFrozen = false → s.inWeave = false → s.host.cmds = [] → s.sweep.plan.ids = [] →
      ∃ w : State, Answers .admissionWindowEnd s w.weaveRun ∧ w.clk.planFrozen = true ∧ w.clk.phase = .tail ∧ w.rd cndEventPlanLate = 1 ∧
        w.rd cndPlanLateCount = min (s.rd cndPlanLateCount + 1) (2 ^ cndPlanLateCount.width - 1))

/-- The stream queues (R321, R327, R334, R335, R338, R345, R348). A figure with an error sets bad_figure, stops its queue, fails the commands it
carries and is a firmware fault; a block list hands its tile queue the tiles it names, a good figure there one position's tiles of a projection, and one on a table
queue begins a fill of a group's tables; the staging scan's end, once its tiles are dealt, lets slab tiles be dealt; a queue deals its first tile to
a copy whose team has room, and each engine of the team takes it with its live mask formed.
Where the spec leaves a point open, the clause follows the model's choice: log entry 80. -/
def Obligations.StreamsDealTiles : Prop :=
  ∀ s : State, s.sound = true → s.clk.phase = .sweep →
    (∀ (hdr : List Byte) (body gather : List DWord) (h : Shelf), let q := field hdr 1 1; let shelf := field hdr 4 2 % 4096
      let gl := gather.map (fun w => signed 40 (w.toNat % 2 ^ 40))
      let good := (figParse body (field hdr 20 2)).filter (fun f => (figGranules f gl).all (h.inAreas s.spillBase))
      s.shelfAt? shelf = some h →
      (field hdr 0 1 = 1 → good = none → q < 32 →
        let g := (s.sweep.tfill.filter (fun f => f.shelf == shelf && !f.reread)).length
        ∃ w : State, w.rd strmEventBadFigure = 1 ∧ (w.queue q).bad = true ∧ (w.queue q).todo = [] ∧
          Answers (.streamStart hdr body gather) s
            (((w.failRuns (fun r => if q < 16 then r.shelf == shelf && r.kind == 4 else r.inGroup shelf g)).fwFault 6 q 48 q).weaveRun)) ∧
      (∀ f j, field hdr 0 1 = 1 → good = some f → q < 16 →
        h.positionAt ((((figGranules f gl).map Int.toNat).headD 0 * 256 - h.deepBase) % max h.recSize 1) = some j →
        let owner := ((s.sweep.work.find? (fun t => t.shelf == shelf && t.proj != 0 && t.pos == j)).map (fun t => t.proj)).getD 0
        let ts := s.sweep.work.filter (fun t => t.shelf == shelf && t.proj != 0 && t.proj == owner && t.pos == j)
        ∃ w : State, Answers (.streamStart hdr body gather) s w.weaveRun ∧
          (w.queue q).todo = (s.queue q).todo ++ ts.map (fun t => { t with queue := q, masked := (field hdr 2 1).testBit 1 }) ∧
          w.sweep.work = s.sweep.work.filter (fun t => !(ts.any (fun m => m.tid == t.tid))) ∧ w.regs = s.regs) ∧
      (∀ f, field hdr 0 1 = 1 → good = some f → 16 ≤ q → q ≤ 17 →
        let gs := (figGranules f gl).map Int.toNat
        let g := (s.sweep.tfill.filter (fun x => x.shelf == h.index && !x.reread)).length
        ∃ w : State, Answers (.streamStart hdr body gather) s w.weaveRun ∧ w.sweep.tfill.length = s.sweep.tfill.length + 1 ∧
          (∀ e ∈ s.holders h.index g, e < 64 → (s.engine e).inErst = false → (w.engine e).tset = some ⟨h.index, g, 0, gs.length, []⟩) ∧
          w.regs = s.regs ∧ w.out = s.out ∧ w.store = s.store) ∧
      (field hdr 0 1 ≠ 1 → q < 16 →
        let ts := ((blockEntries body).filterMap (fun b => s.sweep.work.find? (fun t => t.isBlock shelf b))).eraseDups
        ∃ w : State, Answers (.streamStart hdr body gather) s w.weaveRun ∧
          (w.queue q).todo = (s.queue q).todo ++ ts.map (fun t => { t with queue := q, masked := (field hdr 2 1).testBit 1 }) ∧
          w.sweep.work = s.sweep.work.filter (fun t => !(ts.any (fun m => m.tid == t.tid))) ∧ w.regs = s.regs)) ∧
    ((s.queue 18).todo = [] → Answers .stagingScanEnd s (s.sweepMap (fun w => { w with scanDone := true }))) ∧
    ((s.queue 18).todo ≠ [] → Answers .stagingScanEnd s s) ∧
    (∀ (q : Fin 32) (copy : Nat) (c : Copy) (x : Tile) (rest : List Tile) (h : Shelf), (s.queue q.val).todo = x :: rest →
      s.sweep.plan.copies[copy]? = some c → s.shelfAt? x.shelf = some h → s.sweep.stopped = false → s.mayDeal h x copy = true → tileTeam x c ≠ [] →
      (s.sweep.scanDone = true ∨ x.staged = true) → (s.queue q.val).bad = false →
      (∀ p ∈ tileTeam x c, (s.engine p.1).freeSlot.isSome = true ∧ s.engines.contains p.1 = true ∧ (s.engine p.1).thermal = false ∧
        (s.engine p.1).inErst = false) →
      let y := { x with live := s.liveMask x, copy := some copy, waiting := List.range (h.tileGranules x).length }
      ∃ w : State, Answers (.tileDeal q copy) s w.restEngines ∧ (x.proj = 0 → (w.queue q.val).todo = rest) ∧
        w.sweep.engines = ((tileTeam x c).foldl (fun s p => s.engineMap p.1 (Engine.takeTile h y p)) s).sweep.engines ∧
        w.sweep.plan = s.sweep.plan ∧ (x.staged = true → w.rr = s.rr) ∧ w.regs = s.regs ∧ w.out = s.out ∧ w.store = s.store)

/-- An engine at work (R202, R203, R204, R209, R236, R291, R309). It starts a tile that is whole in a slot, with its query bank and tables ready; the
drain of a tile's last group frees its slot, and of another moves to the next group; in a chain a position that has the sums of the one before
it, and the next one's receive tile free, is done with its tile and hands its sums on; a cluster coda takes the first drained pair into the list of
its search, or into the lane of its projection. -/
def Obligations.EnginesComputeTiles : Prop :=
  ∀ s : State, s.sound = true →
    (∀ (e : Fin 64) (slot : Fin 2) (x : Tile) (h : Shelf), s.clk.phase = .sweep → (s.engine e.val).computing = none →
      (s.engine e.val).slots.find? (fun y => y.slot == slot.val) = some x → s.shelfAt? x.shelf = some h → x.waiting = [] →
      s.bankReady e.val = true →
      ∃ v, Answers (.tileStart e slot) s v ∧ (v.engine e.val).computing = some x.tid ∧
        (v.engine e.val).groups = (match x.only with | some p => p.2 | none => []) ∧ (v.engine e.val).slots = (s.engine e.val).slots ∧
        v.regs = s.regs ∧ v.out = s.out) ∧
    (∀ (e : Fin 64) (x : Tile) (h : Shelf), (s.engine e.val).computing = some x.tid →
      (s.engine e.val).slots.find? (fun y => y.tid == x.tid) = some x → s.shelfAt? x.shelf = some h →
      (s.chainOf x = [] → ∃ v, Answers (.outputTileDrain e) s v ∧ v.out = s.out ∧ v.store = s.store ∧
        ((s.engine e.val).groups.length ≤ 1 → (v.engine e.val).computing = none ∧
          (v.engine e.val).slots = (s.engine e.val).slots.filter (fun y => y.tid != x.tid)) ∧
        (2 ≤ (s.engine e.val).groups.length → (v.engine e.val).computing = some x.tid ∧
          (v.engine e.val).groups = (s.engine e.val).groups.drop 1)) ∧
      (s.chainOf x ≠ [] → (x.pos = 0 ∨ ∃ mask, (s.engine e.val).recv = some (x.key, mask)) →
        (∀ n, (s.chainOf x)[x.pos + 1]? = some n → (s.engine n).recv = none) →
        ∃ v, Answers (.outputTileDrain e) s v ∧ (v.engine e.val).computing = none ∧
          (v.engine e.val).slots = (s.engine e.val).slots.filter (fun y => y.tid != x.tid) ∧
          (∀ n < 64, (s.chainOf x)[x.pos + 1]? = some n → (v.engine n).recv.isSome = true) ∧ v.out = s.out ∧ v.store = s.store)) ∧
    (∀ (c : Fin 8) (p : Drained) (rest : List Drained) (cm : Cmd) (r : Run) (h : Shelf), let k := s.sweep.clusters.getD c.val clusterNil
      k.queue = p :: rest → s.cmd? p.cid = some cm → s.run? p.cid = some r → s.shelfAt? r.shelf = some h →
      (r.kind = 0 →
        let lists := ClList.take h.sweepOrder cm.cand ((k.list? p.cid).getD ⟨p.cid, [], [], none⟩) p.ent :: k.lists.filter (fun y => y.cid != p.cid)
        ∃ w : State, (w.sweep.clusters.getD c.val clusterNil).queue = rest ∧ (w.sweep.clusters.getD c.val clusterNil).lists = lists ∧ w.regs = s.regs ∧
          Answers (.drainPair c) s (if 57344 ≤ sumN (lists.map (fun l => l.band.length)) then w.resolveLargest c.val else w)) ∧
      (r.kind ≠ 0 → ∃ v, Answers (.drainPair c) s v ∧ (v.sweep.clusters.getD c.val clusterNil).queue = rest ∧
        v.run? p.cid = some { r with lanes := updAt p.col (fun l => laneAdd l p.ent.score.dy) r.lanes } ∧ v.regs = s.regs))

/-- An engine reset (R216, R217) and an engine fault (R88), in a pass or outside one, empty the engine's slots, stop what it computes and take it out
until the next downbeat; κ is 1.0 again (R783). At the protection point (R81, R83) an undrained sweep stops: no tile is left to deal, every
tile queue is at its end, and strm stop_point is set when tiles were left; a drained sweep goes on to its coda with open bands cut.
Where the spec leaves a point open, the clause follows the model's choice: log entry 14. -/
def Obligations.EngineResetsAndProtection : Prop :=
  ∀ s : State, s.sound = true → s.inWeave = false →
    (∀ e : Fin 64, s.answers = true →
      ∃ v, Answers (.erst e) s v ∧ (v.engine e.val).slots = [] ∧ (v.engine e.val).computing = none ∧ (v.engine e.val).bank = [] ∧
        (v.engine e.val).acc = [] ∧ (v.engine e.val).inErst = true ∧ v.rd swpBusyCc e.val = 0 ∧ v.rd swpTilesCount e.val = 0 ∧
        v.clk.kappa = 256 ∧ v.out = s.out ∧ v.host = s.host ∧ v.store = s.store) ∧
    (∀ (e : Fin 64) (cause : Fin 5), s.live = true →
      ∃ w : State, Answers (.engineFault e cause) s w.weaveRun ∧ (w.engine e.val).slots = [] ∧ (w.engine e.val).computing = none ∧
        (w.engine e.val).inErst = true ∧ w.rd swpEventEngineFault = 1 ∧ w.clk.kappa = 256 ∧ w.store = s.store) ∧
    (let u := s.advance s.protectAt
     s.clk.phase = .sweep → s.sweep.codaDone = false →
      (s.sweepDrained = true → Answers .rerankProtectionPoint s (u.sweepMap (fun w => { w with bandCut := true }))) ∧
      (s.sweepDrained = false →
        ∃ v, Answers .rerankProtectionPoint s v ∧ v.sweep.stopped = true ∧ v.sweep.work = [] ∧
          (∀ q ∈ v.sweep.queues, q.todo = [] ∧ q.endMark = true) ∧ s.protectAt ≤ v.clk.now ∧
          (s.sweep.work ≠ [] → v.rd strmEventStopPoint = 1)))

/-- The end of a pass (R55, R80, R82, R262, R294, R354). Coda finish ends a drained sweep: each search gets its candidate set, and each STATS, once
reduced, finishes. The barrier then begins the re-rank, every search handed its candidates. At the foreground end every voice that is not done
stops, no tile or pair is left, every engine is Tacet and the measure is in its tail; a measure with no pass only opens its background window.
Where the spec leaves a point open, the clause follows the model's choice: log entry 12. -/
def Obligations.PassEndsInOrder : Prop :=
  ∀ s : State, s.sound = true →
    (∀ t : Nat, let u := s.advance t;
      u.clk.phase = .sweep → u.sweepDrained = true → u.sweep.codaDone = false →
      (∃ w : State, w.sweep.codaDone = true ∧ w.clk = u.clk ∧ w.out = u.out ∧ w.host = u.host ∧ w.store = u.store ∧
        Answers (.codaFinish t) s ((w.items.filter (fun i => !i.search)).foldl (fun s i => s.finishRun i.cmd.cid) w).weaveRun) ∧
      (∀ (i : Item) (r : Run), u.items = [i] → i.search = true → u.run? i.cmd.cid = some r →
        let cs := u.candidateSet i.shelf i.cmd
        ∃ w : State, Answers (.codaFinish t) s w.weaveRun ∧ w.sweep.codaDone = true ∧ w.out = u.out ∧
          w.run? i.cmd.cid = some { r with
            cands := cs.1, handed := cs.1.length, compared := r.compared - cs.2.2.1
            cutTime := r.cutTime || decide (0 < cs.2.2.1), degraded := r.degraded || cs.2.2.2 })) ∧
    (∀ t : Nat, let u := s.advance t;
      u.inWeave = false → u.clk.phase = .sweep → u.sweep.codaDone = true → u.rr.reqs.all (fun r => decide (19 < r.sq) || r.returned) = true →
      ∃ w : State, w.clk.phase = .rerank ∧ w.clk.sweepEnd = u.clk.now ∧ w.rr.voices = u.rr.voices ∧
        w.rr.units = List.replicate 16 ⟨none, u.clk.now, u.clk.now, accNil⟩ ∧ w.out = u.out ∧ w.host = u.host ∧ w.sweep = u.sweep ∧
        Answers (.barrier t) s ((u.items.filter (fun i => i.search && !((u.run? i.cmd.cid).map (fun r => r.finished)).getD true)).foldl
          (fun s i => s.handOver i (((s.run? i.cmd.cid).map (fun r => r.cands)).getD [])) w).endRerank) ∧
    (s.live = true → s.clk.started = true →
      (s.clk.phase = .sweep ∨ s.clk.phase = .rerank →
        ∃ w : State, Answers .foregroundEnd s w.weaveRun.feed ∧ w.clk.phase = .tail ∧ w.clk.bgOpen = true ∧ s.fgEnd ≤ w.clk.now ∧ w.sweep.work = [] ∧
          (∀ x ∈ w.rr.voices, x.state = .done ∨ x.state = .stopped) ∧ (∀ x ∈ w.sweep.engines, x.slots = [] ∧ x.tacet = true) ∧
          (∀ x ∈ w.sweep.clusters, x.lists = [] ∧ x.queue = []) ∧ (∀ q ∈ w.sweep.queues, q.todo = [])) ∧
      (s.clk.phase = .idle ∨ s.clk.phase = .tail → Answers .foregroundEnd s (s.advance s.fgEnd).openBackground.weaveRun.feed))

/-- The re-rank (R98, R258, R263, R268, R271, R278, R279, R300). A key that has landed gives its candidate its id, its attribute word and its filter
decision; a record or spill granule goes to its voice, which may become ready or go on, and a lost one loses its candidate and degrades the
search; of a voice that has stopped it is dropped; the key of a search without a voice enters its final list if the filter lets it. A read that has
not returned changes nothing. A slice of 4,096 cc that has run out while another voice goes first gives its unit to that voice; a sample of the
telemetry path only takes its time.
Where the spec leaves a point open, the clause follows the model's choice: log entries 28 and 65. -/
def Obligations.VoicesTakeTurns : Prop :=
  ∀ s : State,
    (∀ (rid t : Nat), let u := s.advance t;
      u.rr.reqs.find? (fun r => r.rid == rid && r.returned) = none → Answers (.granuleLand rid t) s u.weaveRun) ∧
    (∀ (rid t cid i : Nat) (r : Req) (v : Voice), let u := s.advance t;
      u.rr.reqs.find? (fun r => r.rid == rid && r.returned) = some r → u.voice? cid = some v →
      (r.clients = [.record cid i] ∨ r.clients = [.spill cid i] → v.state ≠ .stopped → v.state ≠ .done → r.lost = false →
        ∃ (w : State) (v' : Voice), w.voice? cid = some v' ∧ v'.landed = (if i < v.consumed then v.landed else v.landed ++ [i]) ∧
          v'.outstanding = v.outstanding - 1 ∧ w.regs = u.regs ∧ w.out = u.out ∧
          Answers (.granuleLand rid t) s (afterLanding u.tight (w.makeReady cid)).weaveRun) ∧
      (∀ f, r.clients = [.record cid i] → v.state ≠ .stopped → v.state ≠ .done → r.lost = true → v.plan[i]? = some f →
        ∃ (w : State) (v' : Voice), w.voice? cid = some v' ∧ v'.cands = updAt f.cand (fun c => { c with lost := true }) v.cands ∧
          w.out = u.out ∧ (s.sound = true → w.rd (if r.far then voiEventFarError else voiEventDeepError) = 1) ∧
          (∀ x, u.run? cid = some x → w.run? cid = some { x with degraded := true }) ∧
          Answers (.granuleLand rid t) s (afterLanding u.tight (w.makeReady cid)).weaveRun) ∧
      (r.clients = [.record cid i] ∨ r.clients = [.spill cid i] → v.state = .stopped ∨ v.state = .done →
        Answers (.granuleLand rid t) s
          (afterLanding u.tight ((u.dropReq rid).voiceMap cid (fun v => { v with outstanding := v.outstanding - 1 }))).weaveRun) ∧
      (∀ (c : Cmd) (x : Run) (h : Shelf) (y : Cand) (row : Row), r.clients = [.key cid i] → v.state ≠ .stopped → v.state ≠ .done → r.lost = false →
        u.cmd? cid = some c → u.run? cid = some x → u.shelfAt? x.shelf = some h → v.cands[i]? = some y → y.at_.staged = false →
        h.row? y.at_.slab y.at_.row = some row →
        ∃ (w : State) (v' : Voice), w.voice? cid = some v' ∧ v'.outstanding = v.outstanding - 1 ∧ w.regs = u.regs ∧ w.out = u.out ∧
          v'.cands[i]? = some { y with
            keyed := true, filteredOut := !filterPass c.filter row.attr, id := row.id, attr := row.attr, sqNorm := row.sqNorm } ∧
          Answers (.granuleLand rid t) s (afterLanding u.tight ((w.issueAll cid).planRecords h cid)).weaveRun)) ∧
    (∀ (rid t cid i : Nat) (r : Req) (c : Cmd) (x : Run) (h : Shelf) (y : ClEnt) (row : Row), let u := s.advance t;
      u.rr.reqs.find? (fun r => r.rid == rid && r.returned) = some r → r.clients = [.codaKey cid i] → r.lost = false → u.cmd? cid = some c →
      u.run? cid = some x → u.shelfAt? x.shelf = some h → x.cands[i]? = some y → y.at_.staged = false → h.row? y.at_.slab y.at_.row = some row →
      let pass := filterPass c.filter row.attr
      ∃ w : State, w.regs = u.regs ∧ w.out = u.out ∧
        w.run? cid = some { x with
          keysLeft := x.keysLeft.filter (fun j => j != i), reranked := x.reranked + 1, passed := if pass then x.passed + 1 else x.passed
          final := if pass then finInsert h c.k (finalOf h c (normMag h.elemFormat h.dim (c.queryVec h)) row.attr row.id y.score) x.final
            else x.final } ∧
        Answers (.granuleLand rid t) s
          (afterLanding u.tight (if x.keysLeft.filter (fun j => j != i) = [] then (w.nextKeys.finishRun cid).endRerank else w.nextKeys)).weaveRun) ∧
    (∀ (unit : Fin 16) (t : Nat) (x : RUnit) (v w : Voice) (cur : List Int), let u := s.advance t;
      let v' : Voice := { v.readyFrom u.clk.now with acc := x.acc }
      u.rr.units[unit.val]? = some x → x.voice = some v.cid → u.voice? v.cid = some v → u.pickVoice (u.readyVoices ++ [v']) = some (w, cur) →
      w.cid ≠ v.cid → 4096 * 640 ≤ u.clk.now - x.since →
      Answers (.voiceSliceExpire unit t) s
        (((u.voiceMap v.cid (fun _ => v')).unitMap unit.val (fun y => { y with voice := none })).switchIn unit.val u.clk.now).weaveRun) ∧
    (∀ t : Nat, Answers (.telemetrySample t) s (s.advance t))

/-! ## The weave -/

/-- Strands (R591, R595, R599, R600, R760). STRST discards a strand's buffers and starts its training unless it is mapped out, and touches no other
strand; a training that ends well, with four lanes and a peer of this protocol version, leaves the strand up with the lanes, peer and delay it
found, and a member whose uplink it is asks to rejoin; one that fails leaves it down with its event; a lane that loses lock sends the strand back to training; a strand without use, with nothing sent for 1 µs, goes tacet. -/
def Obligations.StrandsTrain : Prop :=
  ∀ (i : Fin 64) (t : Nat) (s : State), s.sound = true → let u := s.advance t;
    (s.answers = false → Answers (.strst i) s s) ∧
    (s.answers = true → ∃ v, Answers (.strst i) s v ∧ v.strand i.val = strandNil ∧ v.rd wvStrandPeer i.val = 0xFFF ∧
      v.rd wvStrandUse i.val = 0 ∧ (∀ j, j ≠ i.val → v.strand j = s.strand j) ∧ v.clk.kappa = 256 ∧ v.store = s.store ∧
      v.out = s.out ∧
      v.rd wvStrandState i.val = (if (if i.val < 32 then (s.rd wvMapoutLoStrands).testBit i.val else (s.rd wvMapoutHiStrands).testBit (i.val - 32))
        then 3 else 1)) ∧
    (u.rd wvStrandState i.val = s.rd wvStrandState i.val →
      ∀ (lanes : BitVec 5) (failed : Fin 8) (version : BitVec 8) (serial : DWord) (peer : Fin 64) (addr : BitVec 12) (stamps : List (Nat × Nat)) (slips : Nat),
      (s.rd wvStrandState i.val ≠ 1 → Answers (.strandTrained i lanes failed version serial peer addr stamps slips t) s u) ∧
      (s.rd wvStrandState i.val = 1 → failed.val ≠ 0 ∨ popcount 5 lanes.toNat < 4 ∨ version ≠ 3#8 → ∃ v, Answers (.strandTrained i lanes failed version serial peer addr stamps slips t) s v ∧
        v.rd wvStrandState i.val = 0 ∧ v.rd wvEventTrainFail = 1 ∧ (failed.val = 0 ∨ failed.val = 5 → 4 ≤ popcount 5 lanes.toNat → version ≠ 3#8 → v.rd wvEventForeign = 1) ∧
        v.weave.strands = u.weave.strands) ∧
      (s.rd wvStrandState i.val = 1 → failed.val = 0 → 4 ≤ popcount 5 lanes.toNat → version = 3#8 → ∃ w : State,
        (let v := if s.strandUp i.val = false ∧ w.rd wvStrandUse i.val = 2 then w.resend (w.rd wvStrandPeer i.val) else w
         Answers (.strandTrained i lanes failed version serial peer addr stamps slips t) s
          (if w.inWeave = true ∧ w.isHead = false ∧ i.val = w.uplink ∧ s.strandUp i.val = false then v.askRejoin else v)) ∧
        w.rd wvStrandState i.val = 2 ∧ (stampDelay stamps < 65536 → w.rd wvDelayPs i.val = stampDelay stamps) ∧ (w.strand i.val).lanes = (setBits 5 lanes.toNat).take 4 ∧
        (w.strand i.val).peerSerial = serial.toNat ∧ (w.strand i.val).peerStrand = peer.val)) ∧
    (∀ lane : Fin 5,
      (u.strandUp i.val = true → (u.strand i.val).lanes.contains lane.val = true → ∃ w : State, Answers (.laneLockLoss i lane t) s (w.startTraining i.val) ∧
        w.rd errEventUnit = 1 ∧ w.weave = u.weave ∧ (w.startTraining i.val).strand i.val = strandNil) ∧
      ((u.strand i.val).lanes.contains lane.val = false → Answers (.laneLockLoss i lane t) s u)) ∧
    (u.strandUp i.val = true → u.rd wvStrandUse i.val = 0 → (u.strand i.val).sendq = [] →
      ((u.strand i.val).lastData + ns 1000 ≤ u.clk.now → Answers (.strandTacet i t) s (u.strandMap i.val (fun x => { x with tacet := true }))) ∧
      (u.clk.now < (u.strand i.val).lastData + ns 1000 → Answers (.strandTacet i t) s u))

/-- The reliable link (R596, R597). The next block in order is taken, counted for its ACK and its credit, and its errors of one bit are corrected; a
block that cannot be, or comes out of order, is answered with NAK once, and blocks are discarded until the REPLAY; an ACK frees the replay
buffer up to its block; a NAK sends the rest of it again; ACKs and credits owed are sent when their times come.
Where the spec leaves a point open, the clause follows the model's choice: log entry 35. -/
def Obligations.LinkIsReliable : Prop :=
  ∀ (i : Fin 64) (seq : BitVec 16) (t : Nat) (s : State), s.sound = true → let u := s.advance t;
    (∀ (vc : Fin 4) (payload : BitVec 256),
      (u.strandUp i.val = false → Answers (.dataBlock i seq vc payload t) s u) ∧
      (∀ d fixed, u.strandUp i.val = true → correct payload.toNat = some (d, fixed) → (u.strand i.val).nakked = false →
        seq.toNat = (u.strand i.val).rxSeq → (u.strand i.val).unacked < 63 →
        ∃ w : State, Answers (.dataBlock i seq vc payload t) s (w.assemble i.val vc.val (leBytes 30 d)) ∧
          (w.strand i.val).rxSeq = ((u.strand i.val).rxSeq + 1) % 65536 ∧ (w.strand i.val).unacked = (u.strand i.val).unacked + 1 ∧
          (w.strand i.val).owed = updAt vc.val (· + 1) (u.strand i.val).owed ∧ w.out = u.out ∧
          (fixed = false → w.regs = u.regs) ∧ (fixed = true → w.rd wvCeCount i.val = min (u.rd wvCeCount i.val + 1) (2 ^ wvCeCount.width - 1))) ∧
      (u.strandUp i.val = true → (u.strand i.val).nakked = false →
        (correct payload.toNat = none ∨ (∃ d, correct payload.toNat = some (d, false)) ∧ seq.toNat ≠ (u.strand i.val).rxSeq) →
        ∃ v b, Answers (.dataBlock i seq vc payload t) s v ∧ (v.strand i.val).nakked = true ∧ (v.strand i.val).rxSeq = (u.strand i.val).rxSeq ∧
          (v.strand i.val).inbox = (u.strand i.val).inbox ∧ v.out = u.out ++ [.block i.val b] ∧ v.regs = u.regs) ∧
      (u.strandUp i.val = true → (u.strand i.val).nakked = true → (∃ d, correct payload.toNat = some (d, false)) →
        Answers (.dataBlock i seq vc payload t) s u)) ∧
    (s.strandUp i.val = true →
      ((s.strand i.val).replay.any (fun b => b.seq == seq.toNat) = false → Answers (.ack i seq) s s ∧ Answers (.nak i seq) s s) ∧
      ((s.strand i.val).replay.any (fun b => b.seq == seq.toNat) = true →
        (∃ w : State, Answers (.ack i seq) s (w.pump i.val) ∧
          (w.strand i.val).replay = ((s.strand i.val).replay.dropWhile (fun b => b.seq != seq.toNat)).drop 1 ∧ w.regs = s.regs ∧ w.out = s.out) ∧
        (∃ v, Answers (.nak i seq) s v ∧ v.rd wvReplayCount i.val = min (s.rd wvReplayCount i.val + 1) (2 ^ wvReplayCount.width - 1) ∧
          v.out.length = s.out.length + 1 + ((s.strand i.val).replay.dropWhile (fun b => b.seq != seq.toNat)).length ∧
          v.weave.strands = s.weave.strands)) ∧
      (∃ v, Answers (.replay i seq) s v ∧ v.regs = s.regs ∧ v.out = s.out ∧
        (v.strand i.val).nakked = ((s.strand i.val).nakked && seq.toNat != (s.strand i.val).rxSeq)) ∧
      (∀ a b c d : Byte, ∃ w : State, Answers (.credit i a b c d) s (w.pump i.val) ∧ w.regs = s.regs ∧ w.out = s.out ∧
        (w.strand i.val).credits = (List.range 4).map (fun v => min ([16, 128, 256, 128].getD v 0)
          ((s.strand i.val).credits.getD v 0 + [a.toNat, b.toNat, c.toNat, d.toNat].getD v 0))) ∧
      ((s.strand i.val).owed.all (fun n => n == 0) = true → Answers (.creditReturnTimer i) s s) ∧
      ((s.strand i.val).owed.all (fun n => n == 0) = false → ∃ v b, Answers (.creditReturnTimer i) s v ∧ v.out = s.out ++ [.block i.val b] ∧
        (v.strand i.val).owed = (s.strand i.val).owed.map (fun n => n - min 255 n))) ∧
    (u.strandUp i.val = true → 0 < (u.strand i.val).unacked →
      ((u.strand i.val).firstUnacked + ns 200 ≤ u.clk.now → ∃ v b, Answers (.ackTimer i t) s v ∧ (v.strand i.val).unacked = 0 ∧
        v.out = u.out ++ [.block i.val b]) ∧
      (u.clk.now < (u.strand i.val).firstUnacked + ns 200 → Answers (.ackTimer i t) s u))

/-- The beacon and what travels with it (R610, R613, R614, R621). A head rim sends one to each child's strand 2 µs ahead of its downbeat; a rim takes the
one from its uplink, corrected by the strand's delay, and no other; settings and generations are kept for the measure they name; a member's
capacity goes to the head rim in time, which keeps it.
Where the spec leaves a point open, the clause follows the model's choice: log entry 36. -/
def Obligations.BeaconsAndReports : Prop :=
  ∀ (i : Fin 64) (m : Bytes) (s : State), s.sound = true →
    (s.live = false ∨ s.isHead = false → Answers .beaconSend s s) ∧
    (s.live = true → s.isHead = true → let u := s.advance (s.clk.predicted - ns 2000);
      (∃ v, Answers .beaconSend s v ∧ v.store = u.store ∧ v.weave.gens = u.weave.gens ++ u.genRecords.map (fun r => (measureAdd u.measure 1, r.1, r.2))) ∧
      (∀ k, u.genRecords = [] → u.weave.settings = [] → (u.childrenOf u.self).filterMap u.strandTo = [k] → u.strandUp k = true →
        ∃ v b, Answers .beaconSend s v ∧ v.out = u.out ++ [.block k b] ∧ v.regs = u.regs)) ∧
    (∀ (measure : Word) (lead : BitVec 16) (period : BitVec 31) (set : Bool) (records epoch : BitVec 16) (t : Nat), let u := s.advance t;
      (s.live = false ∨ s.inWeave = false ∨ s.isHead = true ∨ i.val ≠ s.uplink ∨ s.strandUp i.val = false →
        Answers (.beacon i measure lead period set records epoch t) s s) ∧
      (s.live = true → s.inWeave = true → s.isHead = false → i.val = s.uplink → s.strandUp i.val = true →
        ∃ v, Answers (.beacon i measure lead period set records epoch t) s v ∧ v.rd wvEpochValue = epoch.toNat ∧ v.store = u.store ∧
          v.weave.beacon = some (u.clk.now - u.rd wvDelayPs i.val * 768 / 1000 + ns lead.toNat, measure.toNat))) ∧
    (gotMsg s i.val 0x01 m → let x := (field (msgBody m) 0 4, slice (msgBody m) 4 20);
      ∃ v, Answers (.settings i) s v ∧ v.regs = s.regs ∧ v.store = s.store ∧ v.weave.settings = s.weave.settings.filter (fun p => p != x) ++ [x] ∧
        v.weave.strands = (takenMsg s i.val 0x01).weave.strands) ∧
    (gotMsg s i.val 0x02 m → msgDst m ≠ s.self → ∃ v, Answers (.generations i) s v ∧ v.regs = s.regs ∧ v.store = s.store ∧
      v.weave.gens = s.weave.gens ++ (((List.range (((msgBody m).length - 4) / 10)).map (fun j =>
        (field (msgBody m) (4 + 10 * j) 4, field (msgBody m) (8 + 10 * j) 6))).filter (fun r => r.1 != 0)).map
          (fun r => (field (msgBody m) 0 4, r.1, r.2))) ∧
    (gotMsg s i.val 0x02 m → msgDst m = s.self → ∀ (w : WShelf) (g : Nat), s.wshelf? w.template.handle = some w → w.template.handle ≠ 0 →
      (msgBody m).length = 14 → field (msgBody m) 4 4 = w.template.handle → field (msgBody m) 8 6 = g →
      (w.gen = g → Answers (.generations i) s (takenMsg s i.val 0x02)) ∧
      (w.gen ≠ g → ∃ v w', Answers (.generations i) s v ∧ v.wshelf? w.template.handle = some w' ∧ w'.gen = g ∧
        (∀ h ∈ v.store.shelves, h.handle = w.template.handle → h.lost = true ∧ h.slabs = []))) ∧
    (s.live = true → s.inWeave = true → s.isHead = false → let u := s.advance (s.clk.predicted - ns 20000);
      Answers .capacityReportSend s (u.send 0x20 u.headAddr 0 u.capacityBody) ∧ (u.send 0x20 u.headAddr 0 u.capacityBody).store = u.store) ∧
    (s.live = false ∨ s.inWeave = false ∨ s.isHead = true → Answers .capacityReportSend s s) ∧
    (gotMsg s i.val 0x20 m → ∃ v, Answers (.capacity i) s v ∧ v.regs = s.regs ∧ v.store = s.store ∧
      (∀ x, s.weave.members.find? (fun x => x.addr == msgSrc m) = some x →
        v.weave.members.find? (fun x => x.addr == msgSrc m) = some { x with cap := some (capOf (msgBody m)) }))

/-- Loss, rejoining and Rest in the weave (R641, R642, R643, R652, R650). A member gone for the time set is lost with all below it; the deputy gathers the loss
reports of its epoch; a promoted head is taken with its epoch; a member that comes back is a member again; the Rest request of the head is
kept, or wakes the chip; an ADMIN is answered once, and its answer, sent again, is the same.
Where the spec leaves a point open, the clause follows the model's choice: log entries 38 and 39. -/
def Obligations.MembersComeAndGo : Prop :=
  ∀ (i : Fin 64) (m : Bytes) (s : State), s.sound = true →
    (∀ (a : BitVec 12) (mb : Member) (n : Nat), s.live = true → s.weave.members.find? (fun x => x.addr == a.toNat) = some mb →
      (s.childrenOf s.self).contains a.toNat = true → mb.lost = false → mb.downFrom = some n → s.strandTo a.toNat = none →
      ((s.measure + 2 ^ 32 - n) % 2 ^ 32 < s.rd wvCtrlRejoin → Answers (.memberLost a) s s) ∧
      (s.rd wvCtrlRejoin ≤ (s.measure + 2 ^ 32 - n) % 2 ^ 32 → ∃ w : State,
        Answers (.memberLost a) s (let all := a.toNat :: (s.below a.toNat).filter (fun x => x != a.toNat)
          if s.isHead then (((w.forget all).forgetFans all).weavePrepares).adminDone else w) ∧
        w.rd errEventUnit = 1 ∧ w.store = s.store ∧ (s.isHead = true → w.rd wvEventMemberLost = 1) ∧
        (∀ x ∈ w.weave.members, x.addr = a.toNat ∨ x.addr ∈ s.below a.toNat → x.lost = true))) ∧
    (gotMsg s i.val 0x03 m → s.isHead = false → let u := takenMsg s i.val 0x03;
      (s.self ≠ s.rd wvDeputyAddr ∨ field (msgBody m) 6 2 ≠ s.rd wvEpochValue → Answers (.lossReport i) s u) ∧
      (s.self = s.rd wvDeputyAddr → field (msgBody m) 6 2 = s.rd wvEpochValue → ∃ w : State, Answers (.lossReport i) s w.tryPromote ∧
        w.weave.reports = (s.weave.reports ++ [field (msgBody m) 4 2]).eraseDups ∧ w.regs = s.regs)) ∧
    (gotMsg s i.val 0x04 m → ∃ v, Answers (.adopt i) s v ∧ v.rd wvEpochValue = field (msgBody m) 2 2 ∧ v.weave.missed = false ∧
      v.weave.promo = none ∧ v.weave.nextMap = none ∧ v.store = s.store) ∧
    (gotMsg s i.val 0x05 m → let a := field (msgBody m) 0 2;
      ∃ (w : State) (b : Bytes), Answers (.rejoin i) s (w.send 0x02 a 0 b) ∧ w.regs = s.regs ∧ w.store = s.store ∧
        (∀ x, s.weave.members.find? (fun x => x.addr == a) = some x →
          w.weave.members.find? (fun x => x.addr == a) = some { x with lost := false, downFrom := none })) ∧
    (s.answers = true → (s.strand i.val).inbox.find? (fun m => msgType m == 0x06) = some m →
      ∃ v, Answers (.rest i) s v ∧ v.weave.restAt = some (field (msgBody m) 0 1, field (msgBody m) 4 4) ∧ v.regs = s.regs ∧
        v.pwr.mode = (if field (msgBody m) 0 1 = 2 ∧ s.pwr.mode = .rest then .waking else s.pwr.mode)) ∧
    (gotMsg s i.val 0x1C m → s.inWeave = true → let u := takenMsg s i.val 0x1C; let code := field (msgBody m) 0 1;
      (∀ b, s.answered? (msgOp m) (msgType m) = some b → Answers (.admin i) s (u.send 0x1D u.headAddr (msgOp m) b)) ∧
      (s.answered? (msgOp m) (msgType m) = none →
        (code = 1 ∨ code = 2 → ∃ w : State, Answers (.admin i) s (w.ackAdmin m (leBytes 1 0)) ∧
          w.weave.nextMap = some ((mapOf ((msgBody m).drop 4)).filter (fun e => e.serial != 0)) ∧ w.regs = s.regs) ∧
        (code = 3 → ∃ v, Answers (.admin i) s v ∧ v.weave.nextMap = some (s.mapNext.filter (fun e => e.addr != field (msgBody m) 4 2)) ∧
          v.store = s.store) ∧
        (code = 6 → field (msgBody m) 4 2 = s.self → s.isHead = false → ∃ v, Answers (.admin i) s v ∧
          v.weave.promo = some ⟨s.measure, s.headAddr, true⟩ ∧ v.store = s.store) ∧
        (7 < code → Answers (.admin i) s (u.ackAdmin m (leBytes 1 stBadParam))))) ∧
    (gotMsg s i.val 0x1D m → s.isHead = true → let u := takenMsg s i.val 0x1D;
      (s.wop? (msgOp m) = none → Answers (.adminAck i) s u) ∧
      (∀ o, s.wop? (msgOp m) = some o → o.kind = .admin → ∃ (w : State) (o' : WOp), Answers (.adminAck i) s w.adminDone ∧
        w.wop? (msgOp m) = some o' ∧ o'.waiting = o.waiting.filter (fun a => a != msgSrc m) ∧
        o'.worst = (if o.worst = 0 then field (msgBody m) 0 1 else o.worst) ∧ w.regs = s.regs))

/-- A search in the weave (R620, R623, R630, R631, R632, R633, R635, R636, R638). A forwarded search is kept if intake has room and answered either way; the last
answer makes it a candidate; a plan of this measure is taken, another is not; value lists, tie rounds, keys, final lists and statistics are
gathered once from each child; children that have not answered when the wait ends are given up.
Where the spec leaves a point open, the clause follows the model's choice: log entries 36 and 66. -/
def Obligations.SearchesCrossTheWeave : Prop :=
  ∀ (i : Fin 64) (m : Bytes) (s : State), s.sound = true →
    (gotMsg s i.val 0x10 m → let u := takenMsg s i.val 0x10; let b := msgBody m;
      (u.intakeUsed + field b 8 4 + field b 12 4 ≤ 67108864 → ∃ (w : State) (f : Fan), Answers (.forward i) s (w.send 0x11 w.headAddr (msgOp m) (leBytes 1 0)) ∧
        w.weave.fans = s.weave.fans.filter (fun x => x.ref != msgOp m) ++ [f] ∧ f.ref = msgOp m ∧ f.packet = slice b 20 (field b 8 4) ∧
        w.regs = s.regs) ∧
      (67108864 < u.intakeUsed + field b 8 4 + field b 12 4 → Answers (.forward i) s (u.send 0x11 u.headAddr (msgOp m) (leBytes 1 1)))) ∧
    (gotMsg s i.val 0x11 m → let u := takenMsg s i.val 0x11;
      (s.fan? (msgOp m) = none → Answers (.forwardAck i) s u) ∧
      (∀ f c, s.fan? (msgOp m) = some f → f.waiting = [msgSrc m] → field (msgBody m) 0 1 = 0 → s.cmd? f.cid = some c →
        ∃ v c', Answers (.forwardAck i) s v ∧ v.cmd? f.cid = some c' ∧ c'.stage = .candidate ∧ v.regs = s.regs ∧ v.out = s.out)) ∧
    (gotMsg s i.val 0x12 m → let u := takenMsg s i.val 0x12;
      (field (msgBody m) 0 4 ≠ s.measure ∨ s.clk.planFrozen = true ∨ s.clk.phase ≠ .admission → Answers (.plan i) s u) ∧
      (field (msgBody m) 0 4 = s.measure → s.clk.planFrozen = false → s.clk.phase = .admission →
        ∃ (w : State) (p : Plan), Answers (.plan i) s ((w.beginParts (planRefs (msgBody m)) p).planShown p) ∧
          w.weave.plan = some (s.measure, planRefs (msgBody m)) ∧ w.regs = s.regs ∧ w.store = s.store ∧ w.sweep = s.sweep ∧
          p.ids = (((planRefs (msgBody m)).filterMap s.fan?).flatMap s.partItems).map (fun x => x.cmd.cid))) ∧
    (∀ mg : Merge, s.merge? (msgOp m) = some mg →
      (gotMsg s i.val 0x21 m → mg.sentVals = false → let b := msgBody m; let n := field b 0 2;
        ∃ (w : State) (x : Merge), Answers (.valueList i) s w.weaveRun ∧ w.merge? (msgOp m) = some x ∧ w.regs = s.regs ∧
          x.vals = mg.vals.filter (fun z => z.src != msgSrc m) ++
            [⟨msgSrc m, (List.range n).map (fun j => valOf (slice b (8 + 8 * j) 8) (field b (8 + 8 * n + 4 * j) 4)), field b 4 4⟩]) ∧
      (gotMsg s i.val 0x22 m → (s.mergeShelf mg).isSome = true → ∃ (w : State) (x : Merge), Answers (.tieRequest i) s w.weaveRun ∧
        w.merge? (msgOp m) = some x ∧ x.bstar = some (valOf (slice (msgBody m) 0 8) (field (msgBody m) 12 4)) ∧ x.need = field (msgBody m) 8 2 ∧ w.regs = s.regs) ∧
      (gotMsg s i.val 0x23 m → ∃ (w : State) (x : Merge), Answers (.tieList i) s w.weaveRun ∧ w.merge? (msgOp m) = some x ∧ w.regs = s.regs ∧
        x.ties = mg.ties.filter (fun z => z.1 != msgSrc m) ++
          [(msgSrc m, (List.range (field (msgBody m) 0 2)).map (fun j => field (msgBody m) (2 + 6 * j) 6))]) ∧
      (gotMsg s i.val 0x24 m → (mg.key.isSome = true → Answers (.key i) s (takenMsg s i.val 0x24)) ∧
        (∀ h, mg.key = none → s.mergeShelf mg = some h → s.isHead = false → ∃ (w : State) (x : Merge), Answers (.key i) s w.weaveRun ∧
          w.merge? mg.ref = some x ∧ x.key = some (valOf (slice (msgBody m) 0 8) (field (msgBody m) 16 4), field (msgBody m) 8 6) ∧ w.regs = s.regs)) ∧
      (gotMsg s i.val 0x25 m → ∃ (w : State) (x : Merge), Answers (.finalList i) s w.weaveRun ∧ w.merge? (msgOp m) = some x ∧ w.regs = s.regs ∧
        x.fins = mg.fins.filter (fun z => z.src != msgSrc m) ++ [finalOf? (msgSrc m) (msgBody m)]) ∧
      (gotMsg s i.val 0x26 m → (s.mergeShelf mg).isSome = true → ∃ (w : State) (x : Merge) (y : StatIn), Answers (.statsPartial i) s w.weaveRun ∧
        w.merge? (msgOp m) = some x ∧ x.stats = mg.stats.filter (fun z => z.src != msgSrc m) ++ [y] ∧ y.src = msgSrc m ∧ w.regs = s.regs)) ∧
    (∀ t : Nat, let u := s.advance t;
      (u.live = false ∨ u.inWeave = false ∨ u.clk.now + ns (400 * u.rd wvSelfDepth) < u.fgEnd + ns 23600 → Answers (.plaitWaitExpire t) s u) ∧
      (u.live = true → u.inWeave = true → u.fgEnd + ns 23600 ≤ u.clk.now + ns (400 * u.rd wvSelfDepth) →
        ∃ w : State, Answers (.plaitWaitExpire t) s w.weaveRun ∧ (u.weave.merges.filter u.kidsLate = [] → w.regs = u.regs) ∧
          (u.weave.merges.filter u.kidsLate ≠ [] → w.rd wvEventBranchMissing = 1) ∧
          (∀ x ∈ w.weave.merges, x.ref ∈ (u.weave.merges.filter u.kidsLate).map (fun y => y.ref) → x.cut = true)))

/-- Mutations, point reads, remote commands and rebuilds in the weave (R606, R624, R627, R629, R648, R649, R650). PREPARE and COMMIT are done once and answered again
alike; their replies bring the operation to its decision and its end; a point read and a remote command become commands of the member; an
answer ends what waited for it; a rebuild's rows are appended and its last bucket ends it.
Where the spec leaves a point open, the clause follows the model's choice: log entries 38 and 39. -/
def Obligations.MutationsCrossTheWeave : Prop :=
  ∀ (i : Fin 64) (m : Bytes) (s : State), s.sound = true → let b := msgBody m; let op := msgOp m;
    (gotMsg s i.val 0x13 m → let u := takenMsg s i.val 0x13;
      (∀ r, s.answered? op 0x13 = some r → Answers (.prepare i) s (u.send 0x14 u.headAddr op r)) ∧
      (s.answered? op 0x13 = none → s.wshelf? (field b 0 4) = none →
        Answers (.prepare i) s (u.answer op 0x13 0x14 (leBytes 1 stNoShelf ++ zeros 1 ++ leBytes 2 0))) ∧
      (∀ x, s.answered? op 0x13 = none → s.wshelf? (field b 0 4) = some x → s.weave.rebuilds = [] →
        let records := (List.range (field b 6 2)).map (fun k => slice b (8 + (if field b 4 1 = 0x21 then 8 else x.template.dataRec) * k)
          (if field b 4 1 = 0x21 then 8 else x.template.dataRec));
        ∃ (w : State) (reply : Bytes), Answers (.prepare i) s (w.answer op 0x13 0x14 reply) ∧ w.regs = s.regs ∧ w.store = s.store ∧
          reply.head? = some (BitVec.ofNat 8 (u.prepareStatus x (field b 4 1) records true).1) ∧
          ((u.prepareStatus x (field b 4 1) records true).1 = stOk → ∃ z, w.weave.tents = s.weave.tents ++ [z] ∧ z.op = op ∧ z.records = records) ∧
          ((u.prepareStatus x (field b 4 1) records true).1 ≠ stOk → w.weave.tents = s.weave.tents))) ∧
    (gotMsg s i.val 0x14 m → let u := takenMsg s i.val 0x14;
      (s.wop? op = none → Answers (.prepareReply i) s u) ∧
      (∀ o, s.wop? op = some o → o.kind = .prepare → o.waiting.contains (msgSrc m) = true → ∃ (w : State) (o' : WOp),
        Answers (.prepareReply i) s w.weaveDecide ∧ w.wop? op = some o' ∧ o'.waiting = o.waiting.filter (fun a => a != msgSrc m) ∧
        o'.worst = (if o.worst = 0 then field b 0 1 else o.worst) ∧ w.regs = s.regs)) ∧
    (gotMsg s i.val 0x15 m → let u := takenMsg s i.val 0x15;
      (∀ r, s.answered? op 0x15 = some r → msgType m = 0x15 → Answers (.commit i) s (u.send 0x16 u.headAddr op r)) ∧
      (s.answered? op 0x15 = none → ∃ w : State, Answers (.commit i) s (w.answer op 0x15 0x16 (outcomeBody 0 (field b 4 4))).weaveLanded ∧
        w.regs = s.regs ∧
        (field b 0 1 ≠ 1 → w.weave.tents = s.weave.tents.filter (fun x => x.op != op) ∧ w.store = s.store) ∧
        (∀ z, field b 0 1 = 1 → s.weave.tents.find? (fun x => x.op == op) = some z → s.weave.rebuilds = [] →
          (s.tentHeld z = true → w.weave.tents = updFirst (fun x => x.op == op) (fun x => { x with decided := some (field b 4 4) }) s.weave.tents ∧
            w.store = s.store) ∧
          (s.tentHeld z = false → w.weave.tents = s.weave.tents.filter (fun x => x.op != op) ∧
            w.weave.commitLog.head? = some (op, field b 4 4, z.handle))))) ∧
    (gotMsg s i.val 0x16 m → let u := takenMsg s i.val 0x16;
      (s.wop? op = none → Answers (.applied i) s u) ∧
      (∀ o, s.wop? op = some o → o.kind = .commit → let left := o.waiting.filter (fun a => a != msgSrc m);
        ∃ v, Answers (.applied i) s v ∧ v.wop? op = (if left = [] then none else some { o with waiting := left }) ∧ v.regs = s.regs) ∧
      (∀ o, s.wop? op = some o → o.kind ≠ .commit → Answers (.applied i) s u)) ∧
    (gotMsg s i.val 0x17 m → ∃ w : State, Answers (.settled i) s w.weaveSettles ∧ w.regs = s.regs ∧ w.store = s.store ∧
      (∀ x, s.weave.settles.find? (fun x => x.op == op) = some x →
        w.weave.settles.find? (fun x => x.op == op) = some { x with left := x.left.filter (fun a => a != msgSrc m) })) ∧
    (gotMsg s i.val 0x18 m → s.cmd? s.host.nextCid = none → ∃ (w : State) (c : Cmd), Answers (.pointRead i) s (w.pointRead c) ∧
      w.cmd? s.host.nextCid = some c ∧ c.opcode = 0x12 ∧ c.origin = 3 ∧ c.ref = op ∧ c.shelf = field b 0 4 ∧ w.regs = s.regs) ∧
    (gotMsg s i.val 0x19 m → let u := takenMsg s i.val 0x19;
      (s.wop? op = none → Answers (.pointReply i) s u) ∧
      (∀ o c x, s.wop? op = some o → s.cmd? o.cid = some c → s.wshelf? o.handle = some x →
        ∃ w : State, w.wop? op = none ∧ w.regs = s.regs ∧
          (b.all (fun y => y == 0) = true → Answers (.pointReply i) s (w.refuse c stHwFault)) ∧
          (b.all (fun y => y == 0) = false → ∃ n, Answers (.pointReply i) s (w.pointDone c (b.take n) stOk (field b 6 1)) ∧ 32 ≤ n))) ∧
    (gotMsg s i.val 0x1A m → s.cmd? s.host.nextCid = none → let u := takenMsg s i.val 0x1A; let p := slice b 4 (field b 0 4); let h := headerOf p;
      (∀ r, s.answered? op 0x1A = some r → msgType m = 0x1A → Answers (.remote i) s ((u.send 0x1B u.headAddr op r).checkRemote op)) ∧
      (s.answered? op 0x1A = none → s.host.cmds.any (fun c => c.origin == 2 && c.ref == op) = false → h.crc = packetCrc p → remoteOp h.opcode = true →
        paramLen h.opcode (p.drop 32) (s.shelfOf? h.shelf) = some (p.drop 32).length → ∃ (w : State) (c : Cmd), Answers (.remote i) s (w.checkRemote op) ∧
          w.cmd? s.host.nextCid = some c ∧ c.stage = .ready ∧ c.opcode = h.opcode ∧ c.origin = 2 ∧ c.ref = op ∧ c.param = p.drop 32 ∧ w.regs = s.regs)) ∧
    (gotMsg s i.val 0x1B m → let u := takenMsg s i.val 0x1B;
      (s.wop? op = none → Answers (.remoteReply i) s u) ∧
      (∀ o c, s.wop? op = some o → s.cmd? o.cid = some c → c.opcode = 0x58 → c.origin = 0 → ∃ w : State,
        Answers (.remoteReply i) s (w.completeOk c (bufAddr c.param 24) 1) ∧ w.wop? op = none ∧ (w.completeOk c (bufAddr c.param 24) 1).cmd? c.cid = none)) ∧
    (gotMsg s i.val 0x30 m → s.wshelf? (field b 0 4) = none → Answers (.rebuildData i) s (takenMsg s i.val 0x30)) ∧
    (∀ (x : WShelf) (y h : Shelf) (sub : Nat), gotMsg s i.val 0x30 m → s.wshelf? (field b 0 4) = some x → field b 6 2 = 1 →
      let size := 32 + x.template.w + (if x.template.voiced then vecBytes x.template.elemFormat x.template.dim else 0);
      let r := rebuildRow x.template (slice b 8 size);
      x.subFor s.self r.id = some sub → s.subShelf? x.template.handle sub = some y → s.shelfAt? y.index = some h →
      ∃ v h', Answers (.rebuildData i) s v ∧ v.shelfAt? y.index = some h' ∧ h'.counted = h.counted + 1 ∧
        (h.fullPlace ≠ 2 → v.regs = s.regs ∧ v.out = s.out) ∧
        (h.fullPlace = 2 → (s.fn h.ownerSeat).canPost = true → ∃ a relaxed, v.out = s.out ++ [.hostWrite h.ownerSeat a r.record relaxed])) ∧
    (gotMsg s i.val 0x30 m → ∃ v, Answers (.rebuildData i) s v ∧ v.store.staging = s.store.staging ∧ v.store.journal = s.store.journal ∧
      v.host.cmds = s.host.cmds ∧ v.weave.tents = s.weave.tents) ∧
    (gotMsg s i.val 0x31 m → let u := takenMsg s i.val 0x31;
      (s.weave.rebuilds.find? (fun r => r.op == op) = none → Answers (.rebuildEnd i) s u) ∧
      (∀ r, s.weave.rebuilds.find? (fun r => r.op == op) = some r → ∃ w : State,
        w.weave.rebuilds.find? (fun r => r.op == op) = some { r with buckets := r.buckets.filter (fun k => k != field b 4 2) } ∧ w.regs = s.regs ∧
        (r.buckets.filter (fun k => k != field b 4 2) = [] →
          Answers (.rebuildEnd i) s (w.endRebuild { r with buckets := r.buckets.filter (fun k => k != field b 4 2) })) ∧
        (r.buckets.filter (fun k => k != field b 4 2) ≠ [] → Answers (.rebuildEnd i) s w)))

/-! ## Graphics memory and the store -/

/-- A granule read that returns (R550, R551, R558, R559, R560, R562, R563, R887). An entry of its channel's reorder queue that may not issue yet,
or a read that nothing asked for, changes nothing but the grants. A good read for a key or a record of the re-rank is noted as returned, with its
repetitions; for a tile, it is no longer awaited; for a slab operation, that operation awaits one read fewer. A corrected granule is counted in
GDM_CE and sets GDM_EVENT.ce; a transfer that failed every repetition faults the channel and is lost; an uncorrectable one undoes the slab
operation that reads it. A good read of the system area changes nothing, and an uncorrectable one sets GDM_EVENT.ue. -/
def Obligations.GranuleReadsAreChecked : Prop :=
  ∀ (rid t : Nat) (s : State), s.sound = true →
    let u := s.advance t
    (∀ (r r' : Req) (crc : Fin 5) (ecc : Fin 3), u.rr.reqs.filter (fun r => r.rid == rid) = [r] → r.returned = false → r.far = false → r.write = false →
      let h := u.channelOf r.granule
      let v := State.fillQueue h 32 u
      h < 24 → v.rr.reqs.find? (fun r => r.rid == rid) = some r' → (v.channel h).faulted = false →
      (r'.arr = none ∨ v.mayIssue h r' = false → Answers (.gddrReadReturn false rid crc ecc t) s v.retryCommits.weavePrepares.weaveRun) ∧
      (r'.arr.isSome = true → v.mayIssue h r' = true →
        (crc.val < 4 → ecc.val ≤ 1 → (v.channel h).bad.contains r.granule = false →
          ∃ w : State, Answers (.gddrReadReturn false rid crc ecc t) s w.retryCommits.weavePrepares.weaveRun ∧
            (ecc.val = 1 → w.rd gdmCeCount h = min (v.rd gdmCeCount h + 1) (2 ^ 32 - 1) ∧ w.rd gdmEventCe = 1) ∧
            (r'.clients.all Client.lands = true → r'.clients ≠ [] → w.store = v.store ∧ w.host = v.host ∧ w.out = v.out ∧
              ∃ y, w.rr.reqs.find? (fun y => y.rid == rid) = some y ∧ y.returned = true ∧ y.lost = false ∧ y.retries = crc.val) ∧
            (∀ tid i, r'.clients = [.tile tid i] → w.rr.reqs.find? (fun y => y.rid == rid) = none ∧
              ∀ e ∈ w.sweep.engines, ∀ x ∈ e.slots, x.tid = tid → i ∉ x.waiting) ∧
            (∀ k j, r'.clients = [.slab k] → v.journal? k = some j → w.journal? k = some { j with reads := j.reads - 1 })) ∧
        (crc.val = 4 → ∃ w : State, Answers (.gddrReadReturn false rid crc ecc t) s w.retryCommits.weavePrepares.weaveRun ∧
          (w.channel h).faulted = true ∧ w.rd gdmEventFault = 1 ∧
          (r'.clients.all Client.lands = true → r'.clients ≠ [] →
            ∃ y, w.rr.reqs.find? (fun y => y.rid == rid) = some y ∧ y.returned = true ∧ y.lost = true ∧ y.retries = 3)) ∧
        (∀ k j, crc.val < 4 → ecc.val = 2 → r'.clients = [.slab k] → v.journal? k = some j →
          ∃ w : State, Answers (.gddrReadReturn false rid crc ecc t) s w.retryCommits.weavePrepares.weaveRun ∧
            w.journal? k = none ∧ w.rd gdmEventUe = 1 ∧ w.rd stgEventOpLost = 1))) ∧
    (∀ ecc crc, u.rr.reqs.find? (fun r => r.rid == rid && !r.returned && !r.far && !r.write) = none →
      Answers (.gddrReadReturn false rid crc ecc t) s u.retryCommits.weavePrepares.weaveRun) ∧
    ((u.channel (systemCopies u.active rid).1.1).faulted = false → Answers (.gddrReadReturn true rid 0 0 t) s u ∧
      ∃ v, Answers (.gddrReadReturn true rid 0 2 t) s v ∧ v.rd gdmEventUe = 1 ∧ v.store = u.store)

/-- Refresh, scrub and retraining (R561, R564, R565, R567, R568). A per-bank refresh of a busy bank may be postponed, up to 8; an all-bank refresh
in the background window catches them up; scrub reads one granule of an active channel in the window, but not during a retraining step, and a corrected error is counted; a due
retraining step of a channel whose reorder queue is empty, and whose clock group runs no other, runs in order and within its worst case, the fourth
ends the retraining, and a step that fails in two windows faults the channel. Outside the window none of the last three does anything.
Where the spec leaves a point open, the clause follows the model's choice: log entry 92. -/
def Obligations.RefreshScrubAndRetrain : Prop :=
  ∀ (ch : Fin 24) (t : Nat) (s : State), s.sound = true →
    let u := s.advance t
    let c := u.channel ch.val
    (∀ bank : Fin 16, Answers (.perBankRefresh ch bank false) s s) ∧
    (∀ bank : Fin 16, (s.channel ch.val).trained = true → (s.channel ch.val).faulted = false → (s.channel ch.val).postponed.length = 16 →
      ((s.channel ch.val).postponed.getD bank.val 0 = 8 → Answers (.perBankRefresh ch bank true) s s) ∧
      (s.rr.reqs.any (fun r => !r.returned && !r.far && !r.staging && s.channelOf r.granule == ch.val &&
          (granuleSlot (hashGranule s.active r.granule).2).1 == bank.val) = true → (s.channel ch.val).postponed.getD bank.val 0 < 8 →
        ∃ v, Answers (.perBankRefresh ch bank true) s v ∧
          (v.channel ch.val).postponed.getD bank.val 0 = (s.channel ch.val).postponed.getD bank.val 0 + 1 ∧ v.regs = s.regs)) ∧
    (u.clk.bgOpen = true → ∃ v, Answers (.allBankRefresh ch t) s v ∧ (v.channel ch.val).postponed = [] ∧ v.regs = u.regs) ∧
    (u.clk.bgOpen = false → Answers (.allBankRefresh ch t) s u ∧
      (∀ g crc ecc, Answers (.scrub ch g crc ecc t) s u) ∧ (∀ ok, Answers (.retrainStep ch ok t) s u)) ∧
    (∀ (g : Nat) (crc : Fin 5) (ecc : Fin 3), let x := swizzle (g * u.active.length + u.active.idxOf ch.val);
      (hashedPerChannel ≤ g ∨ u.slabOf x = none ∧ c.bad.contains x = false) → crc.val < 4 → ecc.val ≤ 1 →
      u.clk.bgOpen = true → u.active.contains ch.val = true → c.faulted = false → (u.inStep ch.val = true → Answers (.scrub ch g crc ecc t) s u) ∧
        (u.inStep ch.val = false → c.scrubbed + 1 < scrubTotal →
      ∃ v, Answers (.scrub ch g crc ecc t) s v ∧ (v.channel ch.val).scrubbed = c.scrubbed + 1 ∧ v.store = u.store ∧ v.out = u.out ∧
        (ecc.val = 1 → v.rd gdmEventCe = 1))) ∧
    (u.groupFree ch.val = false → ∀ ok, Answers (.retrainStep ch ok t) s u) ∧
    (u.groupFree ch.val = true → u.clk.bgOpen = true → c.trained = true → c.faulted = false → u.reorder ch.val = [] → c.stepFails = 1 → c.failAt ≠ u.measure →
      u.retrainDue ch.val = true → c.step < 4 → u.clk.now + ns 8000 ≤ u.clk.predicted →
      ∃ v, Answers (.retrainStep ch false t) s v ∧ (v.channel ch.val).faulted = true ∧ v.rd gdmEventFault = 1) ∧
    (u.groupFree ch.val = true → u.clk.bgOpen = true → c.trained = true → c.faulted = false → u.reorder ch.val = [] → u.retrainDue ch.val = true →
      c.stepFails = 0 → c.step < 4 → u.clk.now + ns 8000 ≤ u.clk.predicted →
      (∃ v, Answers (.retrainStep ch true t) s v ∧ u.clk.now ≤ (v.channel ch.val).stepEnd ∧
        (v.channel ch.val).stepEnd ≤ u.clk.now + ns (retrainNs (c.step + 1)) ∧ (v.channel ch.val).step = (if c.step = 3 then 0 else c.step + 1) ∧
        (c.step = 3 → (v.channel ch.val).retrainAt = u.clk.now ∧ (v.channel ch.val).retrainTemp = c.temp) ∧ v.regs = u.regs) ∧
      (∃ v, Answers (.retrainStep ch false t) s v ∧ (v.channel ch.val).stepFails = 1 ∧ (v.channel ch.val).step = c.step ∧
        (v.channel ch.val).faulted = false)) ∧
    (u.clk.bgOpen = true → c.faulted = false → u.retrainDue ch.val = false → ∀ ok, Answers (.retrainStep ch ok t) s u)

/-- Channel faults and layouts (R563, R573, R849). A device that falls silent faults its trained channel and sets GDM_EVENT.fault, and with
auto_mapout 1 and 12 channels left the channel is to be mapped out; a channel that has faulted does not fault again. The end of a re-lay
clears GDM_STATUS.relaying. A channel mapped in below the minimum that trains is trained and whole; one that does not ends its MAP_IN. -/
def Obligations.ChannelFaultsAndLayouts : Prop :=
  ∀ (ch : Fin 24) (s : State), s.sound = true →
    (∀ dev : Fin 2, s.live = true → (s.channel ch.val).trained = true →
      ((s.channel ch.val).faulted = true → Answers (.channelFault ch dev) s s) ∧
      ((s.channel ch.val).faulted = false → ∃ v, Answers (.channelFault ch dev) s v ∧ (v.channel ch.val).faulted = true ∧
        v.rd gdmEventFault = 1 ∧
        (s.rd gdmCtrlAutoMapout = 1 → 12 ≤ (s.wanted (s.rd gdmMapoutChannels ||| 2 ^ ch.val)).length →
          (v.rd gdmMapoutChannels).testBit ch.val = true))) ∧
    (∀ t : Nat, let u := s.advance t;
      (u.mem.relaying = false → Answers (.relayEnd t) s u) ∧
      (u.mem.relaying = true → ∃ w : State, Answers (.relayEnd t) s w.finishPends ∧ w.mem.relaying = false ∧ w.mem.pends = u.mem.pends ∧
        w.host = u.host ∧ w.store = u.store ∧ w.rd gdmStatusRelaying = 0 ∧ w.rd gdmEventLayout = 1 ∧ w.rd gdmLayoutMeasureMeasure = u.measure)) ∧
    (∀ (t : Nat) (p : Pend), let u := s.advance t;
      u.mem.pends.find? (fun p => p.kind == 3 && p.index == ch.val) = some p → u.rd gdmStatusBelowMin = 1 →
      (∃ v, Answers (.channelTrainingEnd ch true t) s v ∧ (v.channel ch.val).trained = true ∧ (v.channel ch.val).faulted = false ∧
        v.regs = u.regs) ∧
      (∀ c, u.cmd? p.cid = some c → c.origin = 0 → ∃ v, Answers (.channelTrainingEnd ch false t) s v ∧ v.cmd? p.cid = none)) ∧
    (∀ (t : Nat) (ok : Bool), (s.advance t).mem.pends.find? (fun p => p.kind == 3 && p.index == ch.val) = none →
      Answers (.channelTrainingEnd ch ok t) s (s.advance t))

/-- The slab operations (R139, R479, R482, R487, R490). In the background window, one that has its reads and whose channels all work commits: its
journal slot is free again; PLACE fills the rows of its slab and frees its entries; MARK sets the tombstone bits of its rows in the target slab
and erases their directory entries; TRIM and MOVE drop their rows at the end of the shelf, and the slab they empty. One that still waits for a
read does not commit, and outside the window none does. Starting one in the window takes a free journal slot; outside it none starts.
Where the spec leaves a point open, the clause follows the model's choice: log entry 62. -/
def Obligations.SlabOperationsCommit : Prop :=
  ∀ (slot : Fin 16) (t : Nat) (s : State), s.live = true →
    let u := s.advance t
    (∀ (op : SlabOp) (i : Instr), (i = .place slot t ∧ op = .place ∨ i = .mark slot t ∧ op = .mark ∨ i = .move slot t ∧ op = .move ∨
        i = .trim slot t ∧ op = .trim) →
      (u.clk.bgOpen = false → Answers i s u) ∧
      (∀ (j : Journal) (h : Shelf), u.clk.bgOpen = true → u.journal? slot.val = some j → u.shelfAt? j.shelf = some h →
        (j.reads ≠ 0 ∨ j.op ≠ op → Answers i s u.retryCommits.weaveLanded.weavePrepares) ∧
        (j.op = op → j.reads = 0 → (opWrites h j).any (fun g => (u.channel (u.channelOf g)).faulted) = false →
          ∃ (w : State) (h' : Shelf), Answers i s w.retryCommits.weaveLanded.weavePrepares ∧ w.journal? slot.val = none ∧
            w.shelfAt? h.index = some h' ∧
            (op = .place → (∀ e ∈ w.store.staging, e.handle ∉ j.entries) ∧
              h'.slabs.length = (if j.target < h.slabs.length then h.slabs.length else h.slabs.length + 1) ∧
              (j.target ≤ h.slabs.length → ∃ b, h'.slabs[j.target]? = some b ∧ b.fill = j.firstRow + j.rows ∧ b.gen = h.gen ∧ b.writer = 0)) ∧
            (∀ b, op = .mark → h.slabs[j.target]? = some b → ∃ b', h'.slabs[j.target]? = some b' ∧ b'.rows = b.rows ∧
              b'.tomb = setTomb b.tomb ((j.entries.filterMap u.entry?).map (fun e => e.row)) ∧ b'.gen = h.gen ∧ b'.writer = 0) ∧
            (∀ b, op = .move ∨ op = .trim → h.slabs.getLast? = some b →
              (b.fill ≤ j.rows → h'.slabs.length + 1 = h.slabs.length) ∧
              (j.rows < b.fill → h'.slabs.length = h.slabs.length ∧ h'.slabs.getLast?.map (fun b => b.fill) = some (b.fill - j.rows)))))) ∧
    (u.clk.bgOpen = false → Answers (.slabOpStart t) s u) ∧
    (∀ (k : Nat) (j : Journal) (h : Shelf), u.clk.bgOpen = true → u.freeJournal = some k →
      (∀ x ∈ u.store.shelves, u.farHeld x = false) → u.slabCandidates.find? (fun j => u.readable j && u.opFits (u.journalTime j)) = some j →
      u.shelfAt? j.shelf = some h → ∃ v j', Answers (.slabOpStart t) s v ∧ v.store.journal = u.store.journal ++ [j'] ∧ j'.slot = k ∧
        j'.op = j.op ∧ j'.target = j.target ∧ j'.startAt = u.clk.now)

/-- A command that waits for its entries (R135, R476): once they have all reached the store it completes with OK, its measure field the commit
measure of a mutation; until then nothing happens. -/
def Obligations.SettledCommandsComplete : Prop :=
  ∀ (cid t : Nat) (c : Cmd) (s : State), s.live = true →
    let u := s.advance t
    u.cmd? cid = some c → c.stage = .settling →
    (c.waits = [] →
      Answers (.settledCompletion cid t) s (u.complete c stOk (if isMutation c.opcode then c.target else u.measure) 0 0 true) ∧
      (c.origin = 0 → (u.complete c stOk (if isMutation c.opcode then c.target else u.measure) 0 0 true).cmd? cid = none)) ∧
    (c.waits ≠ [] → Answers (.settledCompletion cid t) s u)
end

