-- ==== Sys2Proof/Laws/Accumulator.lean ====
section
/-!
SUPPORT. Laws of an engine's accumulator memory (R232): a word reads as it was written last, every other word is unchanged, and the list keeps its
canonical form.
-/
namespace Sys2Proof.Machine

theorem mem_accPut {a : Nat} {w : DWord} {l : List (Nat × DWord)} {p : Nat × DWord} (h : p ∈ accPut a w l) :
    p = (a, w) ∧ w ≠ 0#64 ∨ p ∈ l := by
  induction l with
  | nil =>
    simp only [accPut] at h
    split at h
    · simp at h
    · exact .inl ⟨by simpa using h, ‹_›⟩
  | cons q l ih =>
    simp only [accPut] at h
    split at h
    · rcases List.mem_cons.1 h with h | h
      · exact .inr (h ▸ List.mem_cons_self ..)
      · exact (ih h).imp id (List.mem_cons_of_mem _)
    · rcases List.mem_append.1 h with h | h
      · split at h
        · simp at h
        · exact .inl ⟨by simpa using h, ‹_›⟩
      · split at h
        · exact .inr (List.mem_cons_of_mem _ h)
        · exact .inr h

/-- Writing a word keeps the canonical form. -/
theorem accPut_wf {a : Nat} {w : DWord} {l : List (Nat × DWord)} (h : accWf l = true) : accWf (accPut a w l) = true := by
  simp only [accWf, Bool.and_eq_true, decide_eq_true_eq, List.all_eq_true, bne_iff_ne, ne_eq] at h ⊢
  obtain ⟨hs, hz⟩ := h
  refine ⟨?_, fun p hp => (mem_accPut hp).elim (fun e => e.1 ▸ e.2) (hz p)⟩
  clear hz
  induction l with
  | nil => simp only [accPut]; split <;> simp
  | cons q l ih =>
    obtain ⟨hq, hl⟩ := List.pairwise_cons.1 hs
    simp only [accPut]
    split
    · refine List.pairwise_cons.2 ⟨fun p hp => ?_, ih hl⟩
      rcases mem_accPut hp with ⟨rfl, -⟩ | hp
      · assumption
      · exact hq p hp
    · have rest : ((if q.1 = a then l else q :: l).Pairwise (fun p q => p.1 < q.1)) := by split <;> assumption
      split
      · simpa using rest
      · refine List.pairwise_cons.2 ⟨fun p hp => ?_, by simpa using rest⟩
        have hp : p ∈ (if q.1 = a then l else q :: l) := hp
        split at hp
        · next e => have := hq p hp; simp only at this ⊢; omega
        · rcases List.mem_cons.1 hp with rfl | hp
          · simp only; omega
          · have := hq p hp; simp only at this ⊢; omega

theorem find_accPut_other {a b : Nat} {w : DWord} {l : List (Nat × DWord)} (h : b ≠ a) :
    (accPut a w l).find? (fun p => p.1 == b) = l.find? (fun p => p.1 == b) := by
  have ha : (a == b) = false := by simpa using fun e => h e.symm
  induction l with
  | nil => simp only [accPut]; split <;> simp [ha]
  | cons q l ih =>
    simp only [accPut]
    split
    · simp only [List.find?_cons, ih]
    · have e : ((if w = 0#64 then [] else [(a, w)]) ++ (if q.1 = a then l else q :: l)).find? (fun p => p.1 == b) =
          (if q.1 = a then l else q :: l).find? (fun p => p.1 == b) := by
        split <;> simp [ha]
      rw [e]
      split
      · next hq => simp [hq, ha]
      · rfl

theorem find_accPut_same {a : Nat} {w : DWord} {l : List (Nat × DWord)} (h : accWf l = true) :
    (((accPut a w l).find? (fun p => p.1 == a)).map (fun p => p.2)).getD 0#64 = w := by
  simp only [accWf, Bool.and_eq_true, decide_eq_true_eq] at h
  obtain ⟨hs, -⟩ := h
  induction l with
  | nil => simp only [accPut]; split <;> simp_all
  | cons q l ih =>
    obtain ⟨hq, hl⟩ := List.pairwise_cons.1 hs
    simp only [accPut]
    split
    · next hlt => simpa [List.find?_cons, Nat.ne_of_lt hlt] using ih hl
    · split
      · next hw =>
        have none_of : ∀ l' : List (Nat × DWord), (∀ p ∈ l', p.1 ≠ a) → l'.find? (fun p => p.1 == a) = none := fun l' h' =>
          List.find?_eq_none.2 (fun p hp => by simpa using h' p hp)
        rw [List.nil_append, none_of, hw]
        · rfl
        · intro p hp
          split at hp
          · next e => have := hq p hp; omega
          · rcases List.mem_cons.1 hp with rfl | hp
            · assumption
            · have := hq p hp; omega
      · simp

/-- A word reads as it was written. -/
@[simp] theorem Engine.word_setWord_same (x : Engine) (a : Nat) (w : DWord) (h : accWf x.acc = true) : (x.setWord a w).word a = w :=
  find_accPut_same h

/-- Every other word is as it was. -/
@[simp] theorem Engine.word_setWord_other (x : Engine) {a b : Nat} (w : DWord) (h : b ≠ a) : (x.setWord a w).word b = x.word b := by
  simp only [Engine.word, Engine.setWord, find_accPut_other h]

/-- Every write keeps the canonical form. -/
theorem Engine.setWord_wf (x : Engine) (a : Nat) (w : DWord) (h : accWf x.acc = true) : accWf (x.setWord a w).acc = true := accPut_wf h

/-- The accumulator memory of an engine at reset has it. -/
theorem engineReset_accWf : accWf engineReset.acc = true := by decide

end Sys2Proof.Machine
end

