-- ==== Sys2Proof/Laws/RegFile.lean ====
section
/-!
SUPPORT. Laws of the register file: what a field reads after another field is set, and that every operation over the list keeps its
canonical form.
-/
namespace Sys2Proof.Machine

/-! ## Reading after setting -/

theorem regFind_regInsert_same (k v : Nat) (r : List (Nat × Nat)) : regFind k (regInsert k v r) = some v := by
  induction r with
  | nil => simp [regInsert, regFind]
  | cons e l ih =>
    obtain ⟨k', v'⟩ := e
    simp only [regInsert]
    split
    · simp [regFind]
    · split
      · simp [regFind]
      · next h => simp [regFind, h, ih]

theorem regFind_regInsert_other (k j v : Nat) (r : List (Nat × Nat)) (h : j ≠ k) :
    regFind j (regInsert k v r) = regFind j r := by
  induction r with
  | nil => simp [regInsert, regFind, h]
  | cons e l ih =>
    obtain ⟨k', v'⟩ := e
    simp only [regInsert]
    split
    · simp [regFind, h]
    · split
      · next hk => subst hk; simp [regFind, h]
      · simp only [regFind, ih]

/-- Every key of a list is above a bound. -/
def keysAbove (n : Nat) (r : List (Nat × Nat)) : Prop := ∀ e ∈ r, n < e.1

theorem regSorted_cons (k v : Nat) (l : List (Nat × Nat)) :
    regSorted ((k, v) :: l) = true ↔ keysAbove k l ∧ regSorted l = true := by
  induction l generalizing k v with
  | nil => simp [regSorted, keysAbove]
  | cons e l ih =>
    obtain ⟨k', v'⟩ := e
    rw [regSorted, Bool.and_eq_true, decide_eq_true_iff]
    constructor
    · rintro ⟨h, hs⟩
      refine ⟨?_, hs⟩
      intro e he
      rcases List.mem_cons.1 he with rfl | he
      · exact h
      · exact Nat.lt_trans h (((ih k' v').1 hs).1 e he)
    · rintro ⟨h, hs⟩
      exact ⟨h (k', v') (List.mem_cons_self ..), hs⟩

theorem regFind_none_of_above (k : Nat) (r : List (Nat × Nat)) (h : keysAbove k r) : regFind k r = none := by
  induction r with
  | nil => rfl
  | cons e l ih =>
    obtain ⟨k', v'⟩ := e
    have hk : k < k' := h (k', v') (List.mem_cons_self ..)
    have : k ≠ k' := by omega
    simp [regFind, this, ih (fun x hx => h x (List.mem_cons_of_mem _ hx))]

theorem regFind_regErase_same (k : Nat) (r : List (Nat × Nat)) (h : regSorted r = true) : regFind k (regErase k r) = none := by
  induction r with
  | nil => rfl
  | cons e l ih =>
    obtain ⟨k', v'⟩ := e
    have hs := (regSorted_cons k' v' l).1 h
    simp only [regErase]
    split
    · next hk => subst hk; exact regFind_none_of_above k l hs.1
    · next hk => simp [regFind, hk, ih hs.2]

theorem regFind_regErase_other (k j : Nat) (r : List (Nat × Nat)) (h : j ≠ k) : regFind j (regErase k r) = regFind j r := by
  induction r with
  | nil => rfl
  | cons e l ih =>
    obtain ⟨k', v'⟩ := e
    simp only [regErase]
    split
    · next hk => subst hk; simp [regFind, h]
    · simp only [regFind, ih]

/-- A field set reads as the low bits of the value. -/
theorem regGet_regSet_same (f : Fld) (seat i v : Nat) (r : List (Nat × Nat)) (h : regSorted r = true) :
    regGet f seat i (regSet f seat i v r) = v % 2 ^ f.width := by
  unfold regSet regGet
  split
  · next hv => simp [regFind_regErase_same _ _ h, ← hv]
  · simp [regFind_regInsert_same]

/-- A field at another bit address reads as before. -/
theorem regGet_regSet_other (f g : Fld) (seat i seat' j v : Nat) (r : List (Nat × Nat)) (h : regKey g seat' j ≠ regKey f seat i) :
    regGet g seat' j (regSet f seat i v r) = regGet g seat' j r := by
  unfold regSet regGet
  split
  · rw [regFind_regErase_other _ _ _ h]
  · rw [regFind_regInsert_other _ _ _ _ h]

/-! ## The canonical form -/

theorem keysAbove_regInsert (n k v : Nat) (r : List (Nat × Nat)) (hk : n < k) (h : keysAbove n r) : keysAbove n (regInsert k v r) := by
  induction r with
  | nil => simp [regInsert, keysAbove, hk]
  | cons e l ih =>
    obtain ⟨k', v'⟩ := e
    have hl : keysAbove n l := fun x hx => h x (List.mem_cons_of_mem _ hx)
    have hk' : n < k' := h (k', v') (List.mem_cons_self ..)
    simp only [regInsert]
    split
    · intro x hx; rcases List.mem_cons.1 hx with rfl | hx
      · exact hk
      · exact h x hx
    · split
      · intro x hx; rcases List.mem_cons.1 hx with rfl | hx
        · exact hk
        · exact hl x hx
      · intro x hx; rcases List.mem_cons.1 hx with rfl | hx
        · exact hk'
        · exact ih hl x hx

theorem keysAbove_regErase (n k : Nat) (r : List (Nat × Nat)) (h : keysAbove n r) : keysAbove n (regErase k r) := by
  induction r with
  | nil => exact h
  | cons e l ih =>
    obtain ⟨k', v'⟩ := e
    have hl : keysAbove n l := fun x hx => h x (List.mem_cons_of_mem _ hx)
    simp only [regErase]
    split
    · exact hl
    · intro x hx; rcases List.mem_cons.1 hx with rfl | hx
      · exact h _ (List.mem_cons_self ..)
      · exact ih hl x hx

theorem regSorted_regInsert (k v : Nat) (r : List (Nat × Nat)) (h : regSorted r = true) : regSorted (regInsert k v r) = true := by
  induction r with
  | nil => rfl
  | cons e l ih =>
    obtain ⟨k', v'⟩ := e
    have hs := (regSorted_cons k' v' l).1 h
    simp only [regInsert]
    split
    · next hk =>
      refine (regSorted_cons ..).2 ⟨?_, h⟩
      intro x hx; rcases List.mem_cons.1 hx with rfl | hx
      · exact hk
      · exact Nat.lt_trans hk (hs.1 x hx)
    · split
      · next _ hk => subst hk; exact (regSorted_cons ..).2 hs
      · next h1 h2 => exact (regSorted_cons ..).2 ⟨keysAbove_regInsert _ _ _ _ (by omega) hs.1, ih hs.2⟩

theorem regSorted_regErase (k : Nat) (r : List (Nat × Nat)) (h : regSorted r = true) : regSorted (regErase k r) = true := by
  induction r with
  | nil => rfl
  | cons e l ih =>
    obtain ⟨k', v'⟩ := e
    have hs := (regSorted_cons k' v' l).1 h
    simp only [regErase]
    split
    · exact hs.2
    · exact (regSorted_cons ..).2 ⟨keysAbove_regErase _ _ _ hs.1, ih hs.2⟩

theorem regSorted_regSet (f : Fld) (seat i v : Nat) (r : List (Nat × Nat)) (h : regSorted r = true) :
    regSorted (regSet f seat i v r) = true := by
  unfold regSet
  split
  · exact regSorted_regErase _ _ h
  · exact regSorted_regInsert _ _ _ h

theorem keysAbove_filter (n : Nat) (p : Nat × Nat → Bool) (r : List (Nat × Nat)) (h : keysAbove n r) : keysAbove n (r.filter p) :=
  fun x hx => h x (List.mem_filter.1 hx).1

theorem regSorted_filter (p : Nat × Nat → Bool) (r : List (Nat × Nat)) (h : regSorted r = true) : regSorted (r.filter p) = true := by
  induction r with
  | nil => rfl
  | cons e l ih =>
    obtain ⟨k, v⟩ := e
    have hs := (regSorted_cons k v l).1 h
    rw [List.filter_cons]
    split
    · exact (regSorted_cons ..).2 ⟨keysAbove_filter _ _ _ hs.1, ih hs.2⟩
    · exact ih hs.2

theorem regSorted_foldInsert (l r : List (Nat × Nat)) (h : regSorted r = true) :
    regSorted (l.foldl (fun r (e : Nat × Nat) => regInsert e.1 e.2 r) r) = true := by
  induction l generalizing r with
  | nil => exact h
  | cons e l ih => exact ih _ (regSorted_regInsert _ _ _ h)

end Sys2Proof.Machine
end

