-- ==== Sys2Proof/Laws/State.lean ====
section
/-!
SUPPORT. One lemma per field of State for each of its plainest updates, and what a register reads after a write.
-/
namespace Sys2Proof.Machine

/-! ## wr -/

@[simp] theorem State.wr_regs (s : State) (g : Fld) (i v : Nat) : (s.wr g i v).regs = regSet g 0 i v s.regs := rfl
@[simp] theorem State.wr_latched (s : State) (g : Fld) (i v : Nat) : (s.wr g i v).latched = s.latched := rfl
@[simp] theorem State.wr_tally (s : State) (g : Fld) (i v : Nat) : (s.wr g i v).tally = s.tally := rfl
@[simp] theorem State.wr_snap (s : State) (g : Fld) (i v : Nat) : (s.wr g i v).snap = s.snap := rfl
@[simp] theorem State.wr_clk (s : State) (g : Fld) (i v : Nat) : (s.wr g i v).clk = s.clk := rfl
@[simp] theorem State.wr_sweep (s : State) (g : Fld) (i v : Nat) : (s.wr g i v).sweep = s.sweep := rfl
@[simp] theorem State.wr_rr (s : State) (g : Fld) (i v : Nat) : (s.wr g i v).rr = s.rr := rfl
@[simp] theorem State.wr_store (s : State) (g : Fld) (i v : Nat) : (s.wr g i v).store = s.store := rfl
@[simp] theorem State.wr_host (s : State) (g : Fld) (i v : Nat) : (s.wr g i v).host = s.host := rfl
@[simp] theorem State.wr_mem (s : State) (g : Fld) (i v : Nat) : (s.wr g i v).mem = s.mem := rfl
@[simp] theorem State.wr_weave (s : State) (g : Fld) (i v : Nat) : (s.wr g i v).weave = s.weave := rfl
@[simp] theorem State.wr_pwr (s : State) (g : Fld) (i v : Nat) : (s.wr g i v).pwr = s.pwr := rfl
@[simp] theorem State.wr_out (s : State) (g : Fld) (i v : Nat) : (s.wr g i v).out = s.out := rfl
@[simp] theorem State.wr_free (s : State) (g : Fld) (i v : Nat) : (s.wr g i v).free = s.free := rfl
@[simp] theorem State.wr_pending (s : State) (g : Fld) (i v : Nat) : (s.wr g i v).pending = s.pending := rfl

/-! ## wrw -/

@[simp] theorem State.wrw_regs (s : State) (g : Fld) (seat i v : Nat) : (s.wrw g seat i v).regs = regSet g seat i v s.regs := rfl
@[simp] theorem State.wrw_latched (s : State) (g : Fld) (seat i v : Nat) : (s.wrw g seat i v).latched = s.latched := rfl
@[simp] theorem State.wrw_tally (s : State) (g : Fld) (seat i v : Nat) : (s.wrw g seat i v).tally = s.tally := rfl
@[simp] theorem State.wrw_snap (s : State) (g : Fld) (seat i v : Nat) : (s.wrw g seat i v).snap = s.snap := rfl
@[simp] theorem State.wrw_clk (s : State) (g : Fld) (seat i v : Nat) : (s.wrw g seat i v).clk = s.clk := rfl
@[simp] theorem State.wrw_sweep (s : State) (g : Fld) (seat i v : Nat) : (s.wrw g seat i v).sweep = s.sweep := rfl
@[simp] theorem State.wrw_rr (s : State) (g : Fld) (seat i v : Nat) : (s.wrw g seat i v).rr = s.rr := rfl
@[simp] theorem State.wrw_store (s : State) (g : Fld) (seat i v : Nat) : (s.wrw g seat i v).store = s.store := rfl
@[simp] theorem State.wrw_host (s : State) (g : Fld) (seat i v : Nat) : (s.wrw g seat i v).host = s.host := rfl
@[simp] theorem State.wrw_mem (s : State) (g : Fld) (seat i v : Nat) : (s.wrw g seat i v).mem = s.mem := rfl
@[simp] theorem State.wrw_weave (s : State) (g : Fld) (seat i v : Nat) : (s.wrw g seat i v).weave = s.weave := rfl
@[simp] theorem State.wrw_pwr (s : State) (g : Fld) (seat i v : Nat) : (s.wrw g seat i v).pwr = s.pwr := rfl
@[simp] theorem State.wrw_out (s : State) (g : Fld) (seat i v : Nat) : (s.wrw g seat i v).out = s.out := rfl
@[simp] theorem State.wrw_free (s : State) (g : Fld) (seat i v : Nat) : (s.wrw g seat i v).free = s.free := rfl
@[simp] theorem State.wrw_pending (s : State) (g : Fld) (seat i v : Nat) : (s.wrw g seat i v).pending = s.pending := rfl

/-! ## ev -/

@[simp] theorem State.ev_regs (s : State) (g : Fld) (i : Nat) : (s.ev g i).regs = regSet g 0 i 1 s.regs := rfl
@[simp] theorem State.ev_latched (s : State) (g : Fld) (i : Nat) : (s.ev g i).latched = s.latched := rfl
@[simp] theorem State.ev_tally (s : State) (g : Fld) (i : Nat) : (s.ev g i).tally = s.tally := rfl
@[simp] theorem State.ev_snap (s : State) (g : Fld) (i : Nat) : (s.ev g i).snap = s.snap := rfl
@[simp] theorem State.ev_clk (s : State) (g : Fld) (i : Nat) : (s.ev g i).clk = s.clk := rfl
@[simp] theorem State.ev_sweep (s : State) (g : Fld) (i : Nat) : (s.ev g i).sweep = s.sweep := rfl
@[simp] theorem State.ev_rr (s : State) (g : Fld) (i : Nat) : (s.ev g i).rr = s.rr := rfl
@[simp] theorem State.ev_store (s : State) (g : Fld) (i : Nat) : (s.ev g i).store = s.store := rfl
@[simp] theorem State.ev_host (s : State) (g : Fld) (i : Nat) : (s.ev g i).host = s.host := rfl
@[simp] theorem State.ev_mem (s : State) (g : Fld) (i : Nat) : (s.ev g i).mem = s.mem := rfl
@[simp] theorem State.ev_weave (s : State) (g : Fld) (i : Nat) : (s.ev g i).weave = s.weave := rfl
@[simp] theorem State.ev_pwr (s : State) (g : Fld) (i : Nat) : (s.ev g i).pwr = s.pwr := rfl
@[simp] theorem State.ev_out (s : State) (g : Fld) (i : Nat) : (s.ev g i).out = s.out := rfl
@[simp] theorem State.ev_free (s : State) (g : Fld) (i : Nat) : (s.ev g i).free = s.free := rfl
@[simp] theorem State.ev_pending (s : State) (g : Fld) (i : Nat) : (s.ev g i).pending = s.pending := rfl

/-! ## inc -/

@[simp] theorem State.inc_regs (s : State) (g : Fld) (i n : Nat) : (s.inc g i n).regs = regSet g 0 i (min (s.rd g i + n) (2 ^ g.width - 1)) s.regs := rfl
@[simp] theorem State.inc_latched (s : State) (g : Fld) (i n : Nat) : (s.inc g i n).latched = s.latched := rfl
@[simp] theorem State.inc_tally (s : State) (g : Fld) (i n : Nat) : (s.inc g i n).tally = s.tally := rfl
@[simp] theorem State.inc_snap (s : State) (g : Fld) (i n : Nat) : (s.inc g i n).snap = s.snap := rfl
@[simp] theorem State.inc_clk (s : State) (g : Fld) (i n : Nat) : (s.inc g i n).clk = s.clk := rfl
@[simp] theorem State.inc_sweep (s : State) (g : Fld) (i n : Nat) : (s.inc g i n).sweep = s.sweep := rfl
@[simp] theorem State.inc_rr (s : State) (g : Fld) (i n : Nat) : (s.inc g i n).rr = s.rr := rfl
@[simp] theorem State.inc_store (s : State) (g : Fld) (i n : Nat) : (s.inc g i n).store = s.store := rfl
@[simp] theorem State.inc_host (s : State) (g : Fld) (i n : Nat) : (s.inc g i n).host = s.host := rfl
@[simp] theorem State.inc_mem (s : State) (g : Fld) (i n : Nat) : (s.inc g i n).mem = s.mem := rfl
@[simp] theorem State.inc_weave (s : State) (g : Fld) (i n : Nat) : (s.inc g i n).weave = s.weave := rfl
@[simp] theorem State.inc_pwr (s : State) (g : Fld) (i n : Nat) : (s.inc g i n).pwr = s.pwr := rfl
@[simp] theorem State.inc_out (s : State) (g : Fld) (i n : Nat) : (s.inc g i n).out = s.out := rfl
@[simp] theorem State.inc_free (s : State) (g : Fld) (i n : Nat) : (s.inc g i n).free = s.free := rfl
@[simp] theorem State.inc_pending (s : State) (g : Fld) (i n : Nat) : (s.inc g i n).pending = s.pending := rfl

/-! ## incw -/

@[simp] theorem State.incw_regs (s : State) (g : Fld) (seat n : Nat) : (s.incw g seat n).regs = regSet g seat 0 (min (s.rdw g seat 0 + n) (2 ^ g.width - 1)) s.regs := rfl
@[simp] theorem State.incw_latched (s : State) (g : Fld) (seat n : Nat) : (s.incw g seat n).latched = s.latched := rfl
@[simp] theorem State.incw_tally (s : State) (g : Fld) (seat n : Nat) : (s.incw g seat n).tally = s.tally := rfl
@[simp] theorem State.incw_snap (s : State) (g : Fld) (seat n : Nat) : (s.incw g seat n).snap = s.snap := rfl
@[simp] theorem State.incw_clk (s : State) (g : Fld) (seat n : Nat) : (s.incw g seat n).clk = s.clk := rfl
@[simp] theorem State.incw_sweep (s : State) (g : Fld) (seat n : Nat) : (s.incw g seat n).sweep = s.sweep := rfl
@[simp] theorem State.incw_rr (s : State) (g : Fld) (seat n : Nat) : (s.incw g seat n).rr = s.rr := rfl
@[simp] theorem State.incw_store (s : State) (g : Fld) (seat n : Nat) : (s.incw g seat n).store = s.store := rfl
@[simp] theorem State.incw_host (s : State) (g : Fld) (seat n : Nat) : (s.incw g seat n).host = s.host := rfl
@[simp] theorem State.incw_mem (s : State) (g : Fld) (seat n : Nat) : (s.incw g seat n).mem = s.mem := rfl
@[simp] theorem State.incw_weave (s : State) (g : Fld) (seat n : Nat) : (s.incw g seat n).weave = s.weave := rfl
@[simp] theorem State.incw_pwr (s : State) (g : Fld) (seat n : Nat) : (s.incw g seat n).pwr = s.pwr := rfl
@[simp] theorem State.incw_out (s : State) (g : Fld) (seat n : Nat) : (s.incw g seat n).out = s.out := rfl
@[simp] theorem State.incw_free (s : State) (g : Fld) (seat n : Nat) : (s.incw g seat n).free = s.free := rfl
@[simp] theorem State.incw_pending (s : State) (g : Fld) (seat n : Nat) : (s.incw g seat n).pending = s.pending := rfl

/-! ## peak -/

@[simp] theorem State.peak_regs (s : State) (g : Fld) (i v : Nat) : (s.peak g i v).regs = regSet g 0 i (max (s.rd g i) v) s.regs := rfl
@[simp] theorem State.peak_latched (s : State) (g : Fld) (i v : Nat) : (s.peak g i v).latched = s.latched := rfl
@[simp] theorem State.peak_tally (s : State) (g : Fld) (i v : Nat) : (s.peak g i v).tally = s.tally := rfl
@[simp] theorem State.peak_snap (s : State) (g : Fld) (i v : Nat) : (s.peak g i v).snap = s.snap := rfl
@[simp] theorem State.peak_clk (s : State) (g : Fld) (i v : Nat) : (s.peak g i v).clk = s.clk := rfl
@[simp] theorem State.peak_sweep (s : State) (g : Fld) (i v : Nat) : (s.peak g i v).sweep = s.sweep := rfl
@[simp] theorem State.peak_rr (s : State) (g : Fld) (i v : Nat) : (s.peak g i v).rr = s.rr := rfl
@[simp] theorem State.peak_store (s : State) (g : Fld) (i v : Nat) : (s.peak g i v).store = s.store := rfl
@[simp] theorem State.peak_host (s : State) (g : Fld) (i v : Nat) : (s.peak g i v).host = s.host := rfl
@[simp] theorem State.peak_mem (s : State) (g : Fld) (i v : Nat) : (s.peak g i v).mem = s.mem := rfl
@[simp] theorem State.peak_weave (s : State) (g : Fld) (i v : Nat) : (s.peak g i v).weave = s.weave := rfl
@[simp] theorem State.peak_pwr (s : State) (g : Fld) (i v : Nat) : (s.peak g i v).pwr = s.pwr := rfl
@[simp] theorem State.peak_out (s : State) (g : Fld) (i v : Nat) : (s.peak g i v).out = s.out := rfl
@[simp] theorem State.peak_free (s : State) (g : Fld) (i v : Nat) : (s.peak g i v).free = s.free := rfl
@[simp] theorem State.peak_pending (s : State) (g : Fld) (i v : Nat) : (s.peak g i v).pending = s.pending := rfl

/-! ## bump -/

@[simp] theorem State.bump_regs (s : State) (g : Fld) (i n : Nat) : (s.bump g i n).regs = s.regs := rfl
@[simp] theorem State.bump_latched (s : State) (g : Fld) (i n : Nat) : (s.bump g i n).latched = s.latched := rfl
@[simp] theorem State.bump_tally (s : State) (g : Fld) (i n : Nat) : (s.bump g i n).tally = regSet g 0 i (min (regGet g 0 i s.tally + n) (2 ^ g.width - 1)) s.tally := rfl
@[simp] theorem State.bump_snap (s : State) (g : Fld) (i n : Nat) : (s.bump g i n).snap = s.snap := rfl
@[simp] theorem State.bump_clk (s : State) (g : Fld) (i n : Nat) : (s.bump g i n).clk = s.clk := rfl
@[simp] theorem State.bump_sweep (s : State) (g : Fld) (i n : Nat) : (s.bump g i n).sweep = s.sweep := rfl
@[simp] theorem State.bump_rr (s : State) (g : Fld) (i n : Nat) : (s.bump g i n).rr = s.rr := rfl
@[simp] theorem State.bump_store (s : State) (g : Fld) (i n : Nat) : (s.bump g i n).store = s.store := rfl
@[simp] theorem State.bump_host (s : State) (g : Fld) (i n : Nat) : (s.bump g i n).host = s.host := rfl
@[simp] theorem State.bump_mem (s : State) (g : Fld) (i n : Nat) : (s.bump g i n).mem = s.mem := rfl
@[simp] theorem State.bump_weave (s : State) (g : Fld) (i n : Nat) : (s.bump g i n).weave = s.weave := rfl
@[simp] theorem State.bump_pwr (s : State) (g : Fld) (i n : Nat) : (s.bump g i n).pwr = s.pwr := rfl
@[simp] theorem State.bump_out (s : State) (g : Fld) (i n : Nat) : (s.bump g i n).out = s.out := rfl
@[simp] theorem State.bump_free (s : State) (g : Fld) (i n : Nat) : (s.bump g i n).free = s.free := rfl
@[simp] theorem State.bump_pending (s : State) (g : Fld) (i n : Nat) : (s.bump g i n).pending = s.pending := rfl

/-! ## bumpSet -/

@[simp] theorem State.bumpSet_regs (s : State) (g : Fld) (i v : Nat) : (s.bumpSet g i v).regs = s.regs := rfl
@[simp] theorem State.bumpSet_latched (s : State) (g : Fld) (i v : Nat) : (s.bumpSet g i v).latched = s.latched := rfl
@[simp] theorem State.bumpSet_tally (s : State) (g : Fld) (i v : Nat) : (s.bumpSet g i v).tally = regSet g 0 i v s.tally := rfl
@[simp] theorem State.bumpSet_snap (s : State) (g : Fld) (i v : Nat) : (s.bumpSet g i v).snap = s.snap := rfl
@[simp] theorem State.bumpSet_clk (s : State) (g : Fld) (i v : Nat) : (s.bumpSet g i v).clk = s.clk := rfl
@[simp] theorem State.bumpSet_sweep (s : State) (g : Fld) (i v : Nat) : (s.bumpSet g i v).sweep = s.sweep := rfl
@[simp] theorem State.bumpSet_rr (s : State) (g : Fld) (i v : Nat) : (s.bumpSet g i v).rr = s.rr := rfl
@[simp] theorem State.bumpSet_store (s : State) (g : Fld) (i v : Nat) : (s.bumpSet g i v).store = s.store := rfl
@[simp] theorem State.bumpSet_host (s : State) (g : Fld) (i v : Nat) : (s.bumpSet g i v).host = s.host := rfl
@[simp] theorem State.bumpSet_mem (s : State) (g : Fld) (i v : Nat) : (s.bumpSet g i v).mem = s.mem := rfl
@[simp] theorem State.bumpSet_weave (s : State) (g : Fld) (i v : Nat) : (s.bumpSet g i v).weave = s.weave := rfl
@[simp] theorem State.bumpSet_pwr (s : State) (g : Fld) (i v : Nat) : (s.bumpSet g i v).pwr = s.pwr := rfl
@[simp] theorem State.bumpSet_out (s : State) (g : Fld) (i v : Nat) : (s.bumpSet g i v).out = s.out := rfl
@[simp] theorem State.bumpSet_free (s : State) (g : Fld) (i v : Nat) : (s.bumpSet g i v).free = s.free := rfl
@[simp] theorem State.bumpSet_pending (s : State) (g : Fld) (i v : Nat) : (s.bumpSet g i v).pending = s.pending := rfl

/-! ## bumpw -/

@[simp] theorem State.bumpw_regs (s : State) (g : Fld) (seat n : Nat) : (s.bumpw g seat n).regs = s.regs := rfl
@[simp] theorem State.bumpw_latched (s : State) (g : Fld) (seat n : Nat) : (s.bumpw g seat n).latched = s.latched := rfl
@[simp] theorem State.bumpw_tally (s : State) (g : Fld) (seat n : Nat) : (s.bumpw g seat n).tally = regSet g seat 0 (min (regGet g seat 0 s.tally + n) (2 ^ g.width - 1)) s.tally := rfl
@[simp] theorem State.bumpw_snap (s : State) (g : Fld) (seat n : Nat) : (s.bumpw g seat n).snap = s.snap := rfl
@[simp] theorem State.bumpw_clk (s : State) (g : Fld) (seat n : Nat) : (s.bumpw g seat n).clk = s.clk := rfl
@[simp] theorem State.bumpw_sweep (s : State) (g : Fld) (seat n : Nat) : (s.bumpw g seat n).sweep = s.sweep := rfl
@[simp] theorem State.bumpw_rr (s : State) (g : Fld) (seat n : Nat) : (s.bumpw g seat n).rr = s.rr := rfl
@[simp] theorem State.bumpw_store (s : State) (g : Fld) (seat n : Nat) : (s.bumpw g seat n).store = s.store := rfl
@[simp] theorem State.bumpw_host (s : State) (g : Fld) (seat n : Nat) : (s.bumpw g seat n).host = s.host := rfl
@[simp] theorem State.bumpw_mem (s : State) (g : Fld) (seat n : Nat) : (s.bumpw g seat n).mem = s.mem := rfl
@[simp] theorem State.bumpw_weave (s : State) (g : Fld) (seat n : Nat) : (s.bumpw g seat n).weave = s.weave := rfl
@[simp] theorem State.bumpw_pwr (s : State) (g : Fld) (seat n : Nat) : (s.bumpw g seat n).pwr = s.pwr := rfl
@[simp] theorem State.bumpw_out (s : State) (g : Fld) (seat n : Nat) : (s.bumpw g seat n).out = s.out := rfl
@[simp] theorem State.bumpw_free (s : State) (g : Fld) (seat n : Nat) : (s.bumpw g seat n).free = s.free := rfl
@[simp] theorem State.bumpw_pending (s : State) (g : Fld) (seat n : Nat) : (s.bumpw g seat n).pending = s.pending := rfl

/-! ## emit -/

@[simp] theorem State.emit_regs (s : State) (o : Out) : (s.emit o).regs = s.regs := rfl
@[simp] theorem State.emit_latched (s : State) (o : Out) : (s.emit o).latched = s.latched := rfl
@[simp] theorem State.emit_tally (s : State) (o : Out) : (s.emit o).tally = s.tally := rfl
@[simp] theorem State.emit_snap (s : State) (o : Out) : (s.emit o).snap = s.snap := rfl
@[simp] theorem State.emit_clk (s : State) (o : Out) : (s.emit o).clk = s.clk := rfl
@[simp] theorem State.emit_sweep (s : State) (o : Out) : (s.emit o).sweep = s.sweep := rfl
@[simp] theorem State.emit_rr (s : State) (o : Out) : (s.emit o).rr = s.rr := rfl
@[simp] theorem State.emit_store (s : State) (o : Out) : (s.emit o).store = s.store := rfl
@[simp] theorem State.emit_host (s : State) (o : Out) : (s.emit o).host = s.host := rfl
@[simp] theorem State.emit_mem (s : State) (o : Out) : (s.emit o).mem = s.mem := rfl
@[simp] theorem State.emit_weave (s : State) (o : Out) : (s.emit o).weave = s.weave := rfl
@[simp] theorem State.emit_pwr (s : State) (o : Out) : (s.emit o).pwr = s.pwr := rfl
@[simp] theorem State.emit_out (s : State) (o : Out) : (s.emit o).out = s.out ++ [o] := rfl
@[simp] theorem State.emit_free (s : State) (o : Out) : (s.emit o).free = s.free := rfl
@[simp] theorem State.emit_pending (s : State) (o : Out) : (s.emit o).pending = s.pending := rfl

/-! ## tickFree -/

@[simp] theorem State.tickFree_regs (s : State) : (s.tickFree).regs = s.regs := rfl
@[simp] theorem State.tickFree_latched (s : State) : (s.tickFree).latched = s.latched := rfl
@[simp] theorem State.tickFree_tally (s : State) : (s.tickFree).tally = s.tally := rfl
@[simp] theorem State.tickFree_snap (s : State) : (s.tickFree).snap = s.snap := rfl
@[simp] theorem State.tickFree_clk (s : State) : (s.tickFree).clk = s.clk := rfl
@[simp] theorem State.tickFree_sweep (s : State) : (s.tickFree).sweep = s.sweep := rfl
@[simp] theorem State.tickFree_rr (s : State) : (s.tickFree).rr = s.rr := rfl
@[simp] theorem State.tickFree_store (s : State) : (s.tickFree).store = s.store := rfl
@[simp] theorem State.tickFree_host (s : State) : (s.tickFree).host = s.host := rfl
@[simp] theorem State.tickFree_mem (s : State) : (s.tickFree).mem = s.mem := rfl
@[simp] theorem State.tickFree_weave (s : State) : (s.tickFree).weave = s.weave := rfl
@[simp] theorem State.tickFree_pwr (s : State) : (s.tickFree).pwr = s.pwr := rfl
@[simp] theorem State.tickFree_out (s : State) : (s.tickFree).out = s.out := rfl
@[simp] theorem State.tickFree_free (s : State) : (s.tickFree).free = s.free + 1 := rfl
@[simp] theorem State.tickFree_pending (s : State) : (s.tickFree).pending = s.pending := rfl

/-! ## tickFrees -/

@[simp] theorem State.tickFrees_regs (s : State) (n : Nat) : (s.tickFrees n).regs = s.regs := rfl
@[simp] theorem State.tickFrees_latched (s : State) (n : Nat) : (s.tickFrees n).latched = s.latched := rfl
@[simp] theorem State.tickFrees_tally (s : State) (n : Nat) : (s.tickFrees n).tally = s.tally := rfl
@[simp] theorem State.tickFrees_snap (s : State) (n : Nat) : (s.tickFrees n).snap = s.snap := rfl
@[simp] theorem State.tickFrees_clk (s : State) (n : Nat) : (s.tickFrees n).clk = s.clk := rfl
@[simp] theorem State.tickFrees_sweep (s : State) (n : Nat) : (s.tickFrees n).sweep = s.sweep := rfl
@[simp] theorem State.tickFrees_rr (s : State) (n : Nat) : (s.tickFrees n).rr = s.rr := rfl
@[simp] theorem State.tickFrees_store (s : State) (n : Nat) : (s.tickFrees n).store = s.store := rfl
@[simp] theorem State.tickFrees_host (s : State) (n : Nat) : (s.tickFrees n).host = s.host := rfl
@[simp] theorem State.tickFrees_mem (s : State) (n : Nat) : (s.tickFrees n).mem = s.mem := rfl
@[simp] theorem State.tickFrees_weave (s : State) (n : Nat) : (s.tickFrees n).weave = s.weave := rfl
@[simp] theorem State.tickFrees_pwr (s : State) (n : Nat) : (s.tickFrees n).pwr = s.pwr := rfl
@[simp] theorem State.tickFrees_out (s : State) (n : Nat) : (s.tickFrees n).out = s.out := rfl
@[simp] theorem State.tickFrees_free (s : State) (n : Nat) : (s.tickFrees n).free = s.free + n := rfl
@[simp] theorem State.tickFrees_pending (s : State) (n : Nat) : (s.tickFrees n).pending = s.pending := rfl

/-! ## clkMap -/

@[simp] theorem State.clkMap_regs (s : State) (f : Clock → Clock) : (s.clkMap f).regs = s.regs := rfl
@[simp] theorem State.clkMap_latched (s : State) (f : Clock → Clock) : (s.clkMap f).latched = s.latched := rfl
@[simp] theorem State.clkMap_tally (s : State) (f : Clock → Clock) : (s.clkMap f).tally = s.tally := rfl
@[simp] theorem State.clkMap_snap (s : State) (f : Clock → Clock) : (s.clkMap f).snap = s.snap := rfl
@[simp] theorem State.clkMap_clk (s : State) (f : Clock → Clock) : (s.clkMap f).clk = f s.clk := rfl
@[simp] theorem State.clkMap_sweep (s : State) (f : Clock → Clock) : (s.clkMap f).sweep = s.sweep := rfl
@[simp] theorem State.clkMap_rr (s : State) (f : Clock → Clock) : (s.clkMap f).rr = s.rr := rfl
@[simp] theorem State.clkMap_store (s : State) (f : Clock → Clock) : (s.clkMap f).store = s.store := rfl
@[simp] theorem State.clkMap_host (s : State) (f : Clock → Clock) : (s.clkMap f).host = s.host := rfl
@[simp] theorem State.clkMap_mem (s : State) (f : Clock → Clock) : (s.clkMap f).mem = s.mem := rfl
@[simp] theorem State.clkMap_weave (s : State) (f : Clock → Clock) : (s.clkMap f).weave = s.weave := rfl
@[simp] theorem State.clkMap_pwr (s : State) (f : Clock → Clock) : (s.clkMap f).pwr = s.pwr := rfl
@[simp] theorem State.clkMap_out (s : State) (f : Clock → Clock) : (s.clkMap f).out = s.out := rfl
@[simp] theorem State.clkMap_free (s : State) (f : Clock → Clock) : (s.clkMap f).free = s.free := rfl
@[simp] theorem State.clkMap_pending (s : State) (f : Clock → Clock) : (s.clkMap f).pending = s.pending := rfl

/-! ## sweepMap -/

@[simp] theorem State.sweepMap_regs (s : State) (f : Sweep → Sweep) : (s.sweepMap f).regs = s.regs := rfl
@[simp] theorem State.sweepMap_latched (s : State) (f : Sweep → Sweep) : (s.sweepMap f).latched = s.latched := rfl
@[simp] theorem State.sweepMap_tally (s : State) (f : Sweep → Sweep) : (s.sweepMap f).tally = s.tally := rfl
@[simp] theorem State.sweepMap_snap (s : State) (f : Sweep → Sweep) : (s.sweepMap f).snap = s.snap := rfl
@[simp] theorem State.sweepMap_clk (s : State) (f : Sweep → Sweep) : (s.sweepMap f).clk = s.clk := rfl
@[simp] theorem State.sweepMap_sweep (s : State) (f : Sweep → Sweep) : (s.sweepMap f).sweep = f s.sweep := rfl
@[simp] theorem State.sweepMap_rr (s : State) (f : Sweep → Sweep) : (s.sweepMap f).rr = s.rr := rfl
@[simp] theorem State.sweepMap_store (s : State) (f : Sweep → Sweep) : (s.sweepMap f).store = s.store := rfl
@[simp] theorem State.sweepMap_host (s : State) (f : Sweep → Sweep) : (s.sweepMap f).host = s.host := rfl
@[simp] theorem State.sweepMap_mem (s : State) (f : Sweep → Sweep) : (s.sweepMap f).mem = s.mem := rfl
@[simp] theorem State.sweepMap_weave (s : State) (f : Sweep → Sweep) : (s.sweepMap f).weave = s.weave := rfl
@[simp] theorem State.sweepMap_pwr (s : State) (f : Sweep → Sweep) : (s.sweepMap f).pwr = s.pwr := rfl
@[simp] theorem State.sweepMap_out (s : State) (f : Sweep → Sweep) : (s.sweepMap f).out = s.out := rfl
@[simp] theorem State.sweepMap_free (s : State) (f : Sweep → Sweep) : (s.sweepMap f).free = s.free := rfl
@[simp] theorem State.sweepMap_pending (s : State) (f : Sweep → Sweep) : (s.sweepMap f).pending = s.pending := rfl

/-! ## rrMap -/

@[simp] theorem State.rrMap_regs (s : State) (f : Rerank → Rerank) : (s.rrMap f).regs = s.regs := rfl
@[simp] theorem State.rrMap_latched (s : State) (f : Rerank → Rerank) : (s.rrMap f).latched = s.latched := rfl
@[simp] theorem State.rrMap_tally (s : State) (f : Rerank → Rerank) : (s.rrMap f).tally = s.tally := rfl
@[simp] theorem State.rrMap_snap (s : State) (f : Rerank → Rerank) : (s.rrMap f).snap = s.snap := rfl
@[simp] theorem State.rrMap_clk (s : State) (f : Rerank → Rerank) : (s.rrMap f).clk = s.clk := rfl
@[simp] theorem State.rrMap_sweep (s : State) (f : Rerank → Rerank) : (s.rrMap f).sweep = s.sweep := rfl
@[simp] theorem State.rrMap_rr (s : State) (f : Rerank → Rerank) : (s.rrMap f).rr = f s.rr := rfl
@[simp] theorem State.rrMap_store (s : State) (f : Rerank → Rerank) : (s.rrMap f).store = s.store := rfl
@[simp] theorem State.rrMap_host (s : State) (f : Rerank → Rerank) : (s.rrMap f).host = s.host := rfl
@[simp] theorem State.rrMap_mem (s : State) (f : Rerank → Rerank) : (s.rrMap f).mem = s.mem := rfl
@[simp] theorem State.rrMap_weave (s : State) (f : Rerank → Rerank) : (s.rrMap f).weave = s.weave := rfl
@[simp] theorem State.rrMap_pwr (s : State) (f : Rerank → Rerank) : (s.rrMap f).pwr = s.pwr := rfl
@[simp] theorem State.rrMap_out (s : State) (f : Rerank → Rerank) : (s.rrMap f).out = s.out := rfl
@[simp] theorem State.rrMap_free (s : State) (f : Rerank → Rerank) : (s.rrMap f).free = s.free := rfl
@[simp] theorem State.rrMap_pending (s : State) (f : Rerank → Rerank) : (s.rrMap f).pending = s.pending := rfl

/-! ## storeMap -/

@[simp] theorem State.storeMap_regs (s : State) (f : Store → Store) : (s.storeMap f).regs = s.regs := rfl
@[simp] theorem State.storeMap_latched (s : State) (f : Store → Store) : (s.storeMap f).latched = s.latched := rfl
@[simp] theorem State.storeMap_tally (s : State) (f : Store → Store) : (s.storeMap f).tally = s.tally := rfl
@[simp] theorem State.storeMap_snap (s : State) (f : Store → Store) : (s.storeMap f).snap = s.snap := rfl
@[simp] theorem State.storeMap_clk (s : State) (f : Store → Store) : (s.storeMap f).clk = s.clk := rfl
@[simp] theorem State.storeMap_sweep (s : State) (f : Store → Store) : (s.storeMap f).sweep = s.sweep := rfl
@[simp] theorem State.storeMap_rr (s : State) (f : Store → Store) : (s.storeMap f).rr = s.rr := rfl
@[simp] theorem State.storeMap_store (s : State) (f : Store → Store) : (s.storeMap f).store = f s.store := rfl
@[simp] theorem State.storeMap_host (s : State) (f : Store → Store) : (s.storeMap f).host = s.host := rfl
@[simp] theorem State.storeMap_mem (s : State) (f : Store → Store) : (s.storeMap f).mem = s.mem := rfl
@[simp] theorem State.storeMap_weave (s : State) (f : Store → Store) : (s.storeMap f).weave = s.weave := rfl
@[simp] theorem State.storeMap_pwr (s : State) (f : Store → Store) : (s.storeMap f).pwr = s.pwr := rfl
@[simp] theorem State.storeMap_out (s : State) (f : Store → Store) : (s.storeMap f).out = s.out := rfl
@[simp] theorem State.storeMap_free (s : State) (f : Store → Store) : (s.storeMap f).free = s.free := rfl
@[simp] theorem State.storeMap_pending (s : State) (f : Store → Store) : (s.storeMap f).pending = s.pending := rfl

/-! ## hostMap -/

@[simp] theorem State.hostMap_regs (s : State) (f : HostSt → HostSt) : (s.hostMap f).regs = s.regs := rfl
@[simp] theorem State.hostMap_latched (s : State) (f : HostSt → HostSt) : (s.hostMap f).latched = s.latched := rfl
@[simp] theorem State.hostMap_tally (s : State) (f : HostSt → HostSt) : (s.hostMap f).tally = s.tally := rfl
@[simp] theorem State.hostMap_snap (s : State) (f : HostSt → HostSt) : (s.hostMap f).snap = s.snap := rfl
@[simp] theorem State.hostMap_clk (s : State) (f : HostSt → HostSt) : (s.hostMap f).clk = s.clk := rfl
@[simp] theorem State.hostMap_sweep (s : State) (f : HostSt → HostSt) : (s.hostMap f).sweep = s.sweep := rfl
@[simp] theorem State.hostMap_rr (s : State) (f : HostSt → HostSt) : (s.hostMap f).rr = s.rr := rfl
@[simp] theorem State.hostMap_store (s : State) (f : HostSt → HostSt) : (s.hostMap f).store = s.store := rfl
@[simp] theorem State.hostMap_host (s : State) (f : HostSt → HostSt) : (s.hostMap f).host = f s.host := rfl
@[simp] theorem State.hostMap_mem (s : State) (f : HostSt → HostSt) : (s.hostMap f).mem = s.mem := rfl
@[simp] theorem State.hostMap_weave (s : State) (f : HostSt → HostSt) : (s.hostMap f).weave = s.weave := rfl
@[simp] theorem State.hostMap_pwr (s : State) (f : HostSt → HostSt) : (s.hostMap f).pwr = s.pwr := rfl
@[simp] theorem State.hostMap_out (s : State) (f : HostSt → HostSt) : (s.hostMap f).out = s.out := rfl
@[simp] theorem State.hostMap_free (s : State) (f : HostSt → HostSt) : (s.hostMap f).free = s.free := rfl
@[simp] theorem State.hostMap_pending (s : State) (f : HostSt → HostSt) : (s.hostMap f).pending = s.pending := rfl

/-! ## memMap -/

@[simp] theorem State.memMap_regs (s : State) (f : Mem → Mem) : (s.memMap f).regs = s.regs := rfl
@[simp] theorem State.memMap_latched (s : State) (f : Mem → Mem) : (s.memMap f).latched = s.latched := rfl
@[simp] theorem State.memMap_tally (s : State) (f : Mem → Mem) : (s.memMap f).tally = s.tally := rfl
@[simp] theorem State.memMap_snap (s : State) (f : Mem → Mem) : (s.memMap f).snap = s.snap := rfl
@[simp] theorem State.memMap_clk (s : State) (f : Mem → Mem) : (s.memMap f).clk = s.clk := rfl
@[simp] theorem State.memMap_sweep (s : State) (f : Mem → Mem) : (s.memMap f).sweep = s.sweep := rfl
@[simp] theorem State.memMap_rr (s : State) (f : Mem → Mem) : (s.memMap f).rr = s.rr := rfl
@[simp] theorem State.memMap_store (s : State) (f : Mem → Mem) : (s.memMap f).store = s.store := rfl
@[simp] theorem State.memMap_host (s : State) (f : Mem → Mem) : (s.memMap f).host = s.host := rfl
@[simp] theorem State.memMap_mem (s : State) (f : Mem → Mem) : (s.memMap f).mem = f s.mem := rfl
@[simp] theorem State.memMap_weave (s : State) (f : Mem → Mem) : (s.memMap f).weave = s.weave := rfl
@[simp] theorem State.memMap_pwr (s : State) (f : Mem → Mem) : (s.memMap f).pwr = s.pwr := rfl
@[simp] theorem State.memMap_out (s : State) (f : Mem → Mem) : (s.memMap f).out = s.out := rfl
@[simp] theorem State.memMap_free (s : State) (f : Mem → Mem) : (s.memMap f).free = s.free := rfl
@[simp] theorem State.memMap_pending (s : State) (f : Mem → Mem) : (s.memMap f).pending = s.pending := rfl

/-! ## weaveMap -/

@[simp] theorem State.weaveMap_regs (s : State) (f : Weave → Weave) : (s.weaveMap f).regs = s.regs := rfl
@[simp] theorem State.weaveMap_latched (s : State) (f : Weave → Weave) : (s.weaveMap f).latched = s.latched := rfl
@[simp] theorem State.weaveMap_tally (s : State) (f : Weave → Weave) : (s.weaveMap f).tally = s.tally := rfl
@[simp] theorem State.weaveMap_snap (s : State) (f : Weave → Weave) : (s.weaveMap f).snap = s.snap := rfl
@[simp] theorem State.weaveMap_clk (s : State) (f : Weave → Weave) : (s.weaveMap f).clk = s.clk := rfl
@[simp] theorem State.weaveMap_sweep (s : State) (f : Weave → Weave) : (s.weaveMap f).sweep = s.sweep := rfl
@[simp] theorem State.weaveMap_rr (s : State) (f : Weave → Weave) : (s.weaveMap f).rr = s.rr := rfl
@[simp] theorem State.weaveMap_store (s : State) (f : Weave → Weave) : (s.weaveMap f).store = s.store := rfl
@[simp] theorem State.weaveMap_host (s : State) (f : Weave → Weave) : (s.weaveMap f).host = s.host := rfl
@[simp] theorem State.weaveMap_mem (s : State) (f : Weave → Weave) : (s.weaveMap f).mem = s.mem := rfl
@[simp] theorem State.weaveMap_weave (s : State) (f : Weave → Weave) : (s.weaveMap f).weave = f s.weave := rfl
@[simp] theorem State.weaveMap_pwr (s : State) (f : Weave → Weave) : (s.weaveMap f).pwr = s.pwr := rfl
@[simp] theorem State.weaveMap_out (s : State) (f : Weave → Weave) : (s.weaveMap f).out = s.out := rfl
@[simp] theorem State.weaveMap_free (s : State) (f : Weave → Weave) : (s.weaveMap f).free = s.free := rfl
@[simp] theorem State.weaveMap_pending (s : State) (f : Weave → Weave) : (s.weaveMap f).pending = s.pending := rfl

/-! ## pwrMap -/

@[simp] theorem State.pwrMap_regs (s : State) (f : Power → Power) : (s.pwrMap f).regs = s.regs := rfl
@[simp] theorem State.pwrMap_latched (s : State) (f : Power → Power) : (s.pwrMap f).latched = s.latched := rfl
@[simp] theorem State.pwrMap_tally (s : State) (f : Power → Power) : (s.pwrMap f).tally = s.tally := rfl
@[simp] theorem State.pwrMap_snap (s : State) (f : Power → Power) : (s.pwrMap f).snap = s.snap := rfl
@[simp] theorem State.pwrMap_clk (s : State) (f : Power → Power) : (s.pwrMap f).clk = s.clk := rfl
@[simp] theorem State.pwrMap_sweep (s : State) (f : Power → Power) : (s.pwrMap f).sweep = s.sweep := rfl
@[simp] theorem State.pwrMap_rr (s : State) (f : Power → Power) : (s.pwrMap f).rr = s.rr := rfl
@[simp] theorem State.pwrMap_store (s : State) (f : Power → Power) : (s.pwrMap f).store = s.store := rfl
@[simp] theorem State.pwrMap_host (s : State) (f : Power → Power) : (s.pwrMap f).host = s.host := rfl
@[simp] theorem State.pwrMap_mem (s : State) (f : Power → Power) : (s.pwrMap f).mem = s.mem := rfl
@[simp] theorem State.pwrMap_weave (s : State) (f : Power → Power) : (s.pwrMap f).weave = s.weave := rfl
@[simp] theorem State.pwrMap_pwr (s : State) (f : Power → Power) : (s.pwrMap f).pwr = f s.pwr := rfl
@[simp] theorem State.pwrMap_out (s : State) (f : Power → Power) : (s.pwrMap f).out = s.out := rfl
@[simp] theorem State.pwrMap_free (s : State) (f : Power → Power) : (s.pwrMap f).free = s.free := rfl
@[simp] theorem State.pwrMap_pending (s : State) (f : Power → Power) : (s.pwrMap f).pending = s.pending := rfl

/-! ## Conditional and repeated changes -/

@[simp] theorem State.when_true (s : State) (f : State → State) : s.when true f = f s := rfl
@[simp] theorem State.when_false (s : State) (f : State → State) : s.when false f = s := rfl
@[simp] theorem State.each_nil {α : Type} (s : State) (f : State → α → State) : s.each [] f = s := rfl
@[simp] theorem State.each_cons {α : Type} (s : State) (x : α) (l : List α) (f : State → α → State) : s.each (x :: l) f = (f s x).each l f := rfl

/-! ## Reading after writing -/

theorem State.rd_wr_same (s : State) (f : Fld) (i v : Nat) (h : regSorted s.regs = true) : (s.wr f i v).rd f i = v % 2 ^ f.width :=
  regGet_regSet_same f 0 i v s.regs h

theorem State.rd_wr_other (s : State) (f g : Fld) (i j v : Nat) (h : regKey g 0 j ≠ regKey f 0 i) : (s.wr f i v).rd g j = s.rd g j :=
  regGet_regSet_other f g 0 i 0 j v s.regs h

theorem State.rdw_wrw_same (s : State) (f : Fld) (seat i v : Nat) (h : regSorted s.regs = true) :
    (s.wrw f seat i v).rdw f seat i = v % 2 ^ f.width := regGet_regSet_same f seat i v s.regs h

theorem State.rdw_wrw_other (s : State) (f g : Fld) (seat i seat' j v : Nat) (h : regKey g seat' j ≠ regKey f seat i) :
    (s.wrw f seat i v).rdw g seat' j = s.rdw g seat' j := regGet_regSet_other f g seat i seat' j v s.regs h

/-- Changes outside the registers leave every register as it was. -/
theorem State.rd_of_regs (s t : State) (f : Fld) (i : Nat) (h : t.regs = s.regs) : t.rd f i = s.rd f i := by
  unfold State.rd; rw [h]

end Sys2Proof.Machine
end

