-- ==== Sys2Proof/Laws/Follows.lean ====
section
/-!
SUPPORT. `Follows b s`: what every operation of the block leaves true of the state `s` it makes from `b`: registers in canonical form,
the parts of the chip complete, the queue of commands as it was, nothing sent taken back, time and the count of free values not turned
back. The files beside this one prove it once for every operation over State, for the claims about steps to cite.
-/
namespace Sys2Proof.Machine

/-- What every operation keeps. -/
structure Follows (b s : State) : Prop where
  sound : b.sound = true → s.sound = true
  pending : s.pending = b.pending
  out : b.out <+: s.out
  now : b.clk.now ≤ s.clk.now
  free : b.free ≤ s.free

theorem Follows.refl (s : State) : Follows s s := ⟨id, rfl, List.prefix_rfl, Nat.le_refl _, Nat.le_refl _⟩

theorem Follows.trans {a b c : State} (h : Follows a b) (g : Follows b c) : Follows a c :=
  ⟨fun x => g.sound (h.sound x), g.pending.trans h.pending, h.out.trans g.out, Nat.le_trans h.now g.now, Nat.le_trans h.free g.free⟩

/-! ## Lengths -/

@[simp] theorem updFirst_length {α : Type} (p : α → Bool) (f : α → α) (l : List α) : (updFirst p f l).length = l.length := by
  induction l with
  | nil => rfl
  | cons x l ih => unfold updFirst; split <;> simp [ih]

@[simp] theorem updAll_length {α : Type} (p : α → Bool) (f : α → α) (l : List α) : (updAll p f l).length = l.length := by simp [updAll]

@[simp] theorem updAt_length {α : Type} (i : Nat) (f : α → α) (l : List α) : (updAt i f l).length = l.length := by
  induction l generalizing i with
  | nil => cases i <;> rfl
  | cons x l ih => cases i <;> simp [updAt, ih]

/-! ## Soundness by parts -/

/-- The parts of the chip in the sub-states that hold them. -/
theorem State.sound_iff (s : State) : s.sound = true ↔
    (regSorted s.regs = true ∧ regSorted s.latched = true ∧ regSorted s.tally = true ∧ regSorted s.snap = true) ∧
    s.sweep.engines.length = 64 ∧ s.sweep.clusters.length = 8 ∧ s.sweep.queues.length = 32 ∧ s.rr.units.length = 16 ∧
    s.mem.channels.length = 24 ∧ s.weave.strands.length = 64 ∧ s.host.fns.length = 65 ∧ s.host.ports.length = 2 := by
  simp [State.sound, State.canon, State.whole, and_assoc]

/-- A state that differs from `s` in its registers only. -/
theorem Follows.ofRegs {b s t : State} (h : Follows b s)
    (hr : (regSorted s.regs = true ∧ regSorted s.latched = true ∧ regSorted s.tally = true ∧ regSorted s.snap = true) →
      regSorted t.regs = true ∧ regSorted t.latched = true ∧ regSorted t.tally = true ∧ regSorted t.snap = true)
    (h1 : t.sweep = s.sweep) (h2 : t.rr = s.rr) (h3 : t.mem = s.mem) (h4 : t.weave = s.weave) (h5 : t.host = s.host)
    (h6 : t.pending = s.pending) (h7 : t.out = s.out) (h8 : t.clk = s.clk) (h9 : t.free = s.free) : Follows b t := by
  refine ⟨fun hb => ?_, h6.trans h.pending, h7 ▸ h.out, h8 ▸ h.now, h9 ▸ h.free⟩
  have := (State.sound_iff s).1 (h.sound hb)
  rw [State.sound_iff, h1, h2, h3, h4, h5]
  exact ⟨hr this.1, this.2⟩

/-- A state that differs from `s` in its sub-states only, with the lengths of its parts kept. -/
theorem Follows.ofParts {b s t : State} (h : Follows b s)
    (r1 : t.regs = s.regs) (r2 : t.latched = s.latched) (r3 : t.tally = s.tally) (r4 : t.snap = s.snap)
    (h1 : t.sweep.engines.length = s.sweep.engines.length ∧ t.sweep.clusters.length = s.sweep.clusters.length ∧
      t.sweep.queues.length = s.sweep.queues.length)
    (h2 : t.rr.units.length = s.rr.units.length) (h3 : t.mem.channels.length = s.mem.channels.length)
    (h4 : t.weave.strands.length = s.weave.strands.length)
    (h5 : t.host.fns.length = s.host.fns.length ∧ t.host.ports.length = s.host.ports.length)
    (h6 : t.pending = s.pending) (h7 : s.out <+: t.out) (h8 : s.clk.now ≤ t.clk.now) (h9 : s.free ≤ t.free) : Follows b t := by
  refine ⟨fun hb => ?_, h6.trans h.pending, h.out.trans h7, Nat.le_trans h.now h8, Nat.le_trans h.free h9⟩
  have := (State.sound_iff s).1 (h.sound hb)
  rw [State.sound_iff, r1, r2, r3, r4, h1.1, h1.2.1, h1.2.2, h2, h3, h4, h5.1, h5.2]
  exact this

/-! ## Branches -/

theorem Follows.ite {b x y : State} {c : Prop} [Decidable c] (hx : c → Follows b x) (hy : ¬ c → Follows b y) :
    Follows b (if c then x else y) := by
  split
  · exact hx ‹_›
  · exact hy ‹_›

theorem Follows.when {b s : State} {c : Bool} {f : State → State} (h : Follows b s) (hf : ∀ t, Follows b t → Follows b (f t)) :
    Follows b (s.when c f) := by
  unfold State.when
  split
  · exact hf s h
  · exact h

theorem Follows.foldl {α : Type} {b s : State} {l : List α} {f : State → α → State} (h : Follows b s)
    (hf : ∀ t x, Follows b t → Follows b (f t x)) : Follows b (l.foldl f s) := by
  induction l generalizing s with
  | nil => exact h
  | cons x l ih => exact ih (hf s x h)

theorem Follows.each {α : Type} {b s : State} {l : List α} {f : State → α → State} (h : Follows b s)
    (hf : ∀ t x, Follows b t → Follows b (f t x)) : Follows b (s.each l f) := Follows.foldl h hf

/-- The state of a pair that another operation answers. -/
theorem Follows.ofFst {α : Type} {b t : State} {p : State × α} {x : α} (h : Follows b p.1) (e : p = (t, x)) : Follows b t := by
  subst e; exact h

/-! ## The plainest updates -/

theorem Follows.wr {b s : State} (f : Fld) (i v : Nat) (h : Follows b s) : Follows b (s.wr f i v) :=
  h.ofRegs (fun r => ⟨regSorted_regSet _ _ _ _ _ r.1, r.2⟩) rfl rfl rfl rfl rfl rfl rfl rfl rfl

theorem Follows.wrw {b s : State} (f : Fld) (seat i v : Nat) (h : Follows b s) : Follows b (s.wrw f seat i v) :=
  h.ofRegs (fun r => ⟨regSorted_regSet _ _ _ _ _ r.1, r.2⟩) rfl rfl rfl rfl rfl rfl rfl rfl rfl

theorem Follows.ev {b s : State} (f : Fld) (i : Nat) (h : Follows b s) : Follows b (s.ev f i) := h.wr f i 1

theorem Follows.inc {b s : State} (f : Fld) (i n : Nat) (h : Follows b s) : Follows b (s.inc f i n) := h.wr f i _

theorem Follows.incw {b s : State} (f : Fld) (seat n : Nat) (h : Follows b s) : Follows b (s.incw f seat n) := h.wrw f seat 0 _

theorem Follows.peak {b s : State} (f : Fld) (i v : Nat) (h : Follows b s) : Follows b (s.peak f i v) := h.wr f i _

theorem Follows.bump {b s : State} (f : Fld) (i n : Nat) (h : Follows b s) : Follows b (s.bump f i n) :=
  h.ofRegs (fun r => ⟨r.1, r.2.1, regSorted_regSet _ _ _ _ _ r.2.2.1, r.2.2.2⟩) rfl rfl rfl rfl rfl rfl rfl rfl rfl

theorem Follows.bumpSet {b s : State} (f : Fld) (i v : Nat) (h : Follows b s) : Follows b (s.bumpSet f i v) :=
  h.ofRegs (fun r => ⟨r.1, r.2.1, regSorted_regSet _ _ _ _ _ r.2.2.1, r.2.2.2⟩) rfl rfl rfl rfl rfl rfl rfl rfl rfl

theorem Follows.bumpw {b s : State} (f : Fld) (seat n : Nat) (h : Follows b s) : Follows b (s.bumpw f seat n) :=
  h.ofRegs (fun r => ⟨r.1, r.2.1, regSorted_regSet _ _ _ _ _ r.2.2.1, r.2.2.2⟩) rfl rfl rfl rfl rfl rfl rfl rfl rfl

theorem Follows.emit {b s : State} (o : Out) (h : Follows b s) : Follows b (s.emit o) :=
  h.ofParts rfl rfl rfl rfl ⟨rfl, rfl, rfl⟩ rfl rfl rfl ⟨rfl, rfl⟩ rfl (List.prefix_append _ _) (Nat.le_refl _) (Nat.le_refl _)

theorem Follows.tickFrees {b s : State} (n : Nat) (h : Follows b s) : Follows b (s.tickFrees n) :=
  h.ofParts rfl rfl rfl rfl ⟨rfl, rfl, rfl⟩ rfl rfl rfl ⟨rfl, rfl⟩ rfl List.prefix_rfl (Nat.le_refl _) (Nat.le_add_right _ _)

theorem Follows.tickFree {b s : State} (h : Follows b s) : Follows b s.tickFree := h.tickFrees 1

theorem Follows.measured {b s : State} (f : Fld) (i : Nat) (h : Follows b s) : Follows b (s.measured f i) := (h.bumpSet f i _).tickFree

theorem Follows.clkMap {b s : State} {f : Clock → Clock} (h : Follows b s) (hf : ∀ x, x.now ≤ (f x).now) : Follows b (s.clkMap f) :=
  h.ofParts rfl rfl rfl rfl ⟨rfl, rfl, rfl⟩ rfl rfl rfl ⟨rfl, rfl⟩ rfl List.prefix_rfl (hf _) (Nat.le_refl _)

theorem Follows.sweepMap {b s : State} {f : Sweep → Sweep} (h : Follows b s)
    (hf : ∀ x, (f x).engines.length = x.engines.length ∧ (f x).clusters.length = x.clusters.length ∧ (f x).queues.length = x.queues.length) :
    Follows b (s.sweepMap f) :=
  h.ofParts rfl rfl rfl rfl (hf _) rfl rfl rfl ⟨rfl, rfl⟩ rfl List.prefix_rfl (Nat.le_refl _) (Nat.le_refl _)

theorem Follows.rrMap {b s : State} {f : Rerank → Rerank} (h : Follows b s) (hf : ∀ x, (f x).units.length = x.units.length) :
    Follows b (s.rrMap f) :=
  h.ofParts rfl rfl rfl rfl ⟨rfl, rfl, rfl⟩ (hf _) rfl rfl ⟨rfl, rfl⟩ rfl List.prefix_rfl (Nat.le_refl _) (Nat.le_refl _)

theorem Follows.storeMap {b s : State} {f : Store → Store} (h : Follows b s) : Follows b (s.storeMap f) :=
  h.ofParts rfl rfl rfl rfl ⟨rfl, rfl, rfl⟩ rfl rfl rfl ⟨rfl, rfl⟩ rfl List.prefix_rfl (Nat.le_refl _) (Nat.le_refl _)

theorem Follows.hostMap {b s : State} {f : HostSt → HostSt} (h : Follows b s)
    (hf : ∀ x, (f x).fns.length = x.fns.length ∧ (f x).ports.length = x.ports.length) : Follows b (s.hostMap f) :=
  h.ofParts rfl rfl rfl rfl ⟨rfl, rfl, rfl⟩ rfl rfl rfl (hf _) rfl List.prefix_rfl (Nat.le_refl _) (Nat.le_refl _)

theorem Follows.memMap {b s : State} {f : Mem → Mem} (h : Follows b s) (hf : ∀ x, (f x).channels.length = x.channels.length) :
    Follows b (s.memMap f) :=
  h.ofParts rfl rfl rfl rfl ⟨rfl, rfl, rfl⟩ rfl (hf _) rfl ⟨rfl, rfl⟩ rfl List.prefix_rfl (Nat.le_refl _) (Nat.le_refl _)

theorem Follows.weaveMap {b s : State} {f : Weave → Weave} (h : Follows b s) (hf : ∀ x, (f x).strands.length = x.strands.length) :
    Follows b (s.weaveMap f) :=
  h.ofParts rfl rfl rfl rfl ⟨rfl, rfl, rfl⟩ rfl rfl (hf _) ⟨rfl, rfl⟩ rfl List.prefix_rfl (Nat.le_refl _) (Nat.le_refl _)

theorem Follows.pwrMap {b s : State} {f : Power → Power} (h : Follows b s) : Follows b (s.pwrMap f) :=
  h.ofParts rfl rfl rfl rfl ⟨rfl, rfl, rfl⟩ rfl rfl rfl ⟨rfl, rfl⟩ rfl List.prefix_rfl (Nat.le_refl _) (Nat.le_refl _)

/-! ## Sub-states set to a complete complement -/

theorem Follows.sweepAt {b s : State} {f : Sweep → Sweep} (h : Follows b s)
    (hf : s.sweep.engines.length = 64 ∧ s.sweep.clusters.length = 8 ∧ s.sweep.queues.length = 32 →
      (f s.sweep).engines.length = 64 ∧ (f s.sweep).clusters.length = 8 ∧ (f s.sweep).queues.length = 32) : Follows b (s.sweepMap f) := by
  refine ⟨fun hb => ?_, h.pending, h.out, h.now, h.free⟩
  have g := (State.sound_iff s).1 (h.sound hb)
  rw [State.sound_iff]
  have := hf ⟨g.2.1, g.2.2.1, g.2.2.2.1⟩
  exact ⟨g.1, this.1, this.2.1, this.2.2, g.2.2.2.2⟩

theorem Follows.sweepSet {b s : State} {f : Sweep → Sweep} (h : Follows b s)
    (hf : ∀ x, x.engines.length = 64 ∧ x.clusters.length = 8 ∧ x.queues.length = 32 →
      (f x).engines.length = 64 ∧ (f x).clusters.length = 8 ∧ (f x).queues.length = 32) : Follows b (s.sweepMap f) := h.sweepAt (hf s.sweep)

theorem Follows.rrSet {b s : State} {f : Rerank → Rerank} (h : Follows b s) (hf : ∀ x, x.units.length = 16 → (f x).units.length = 16) :
    Follows b (s.rrMap f) := by
  refine ⟨fun hb => ?_, h.pending, h.out, h.now, h.free⟩
  have g := (State.sound_iff s).1 (h.sound hb)
  rw [State.sound_iff]
  exact ⟨g.1, g.2.1, g.2.2.1, g.2.2.2.1, hf s.rr g.2.2.2.2.1, g.2.2.2.2.2⟩

theorem Follows.memSet {b s : State} {f : Mem → Mem} (h : Follows b s) (hf : ∀ x, x.channels.length = 24 → (f x).channels.length = 24) :
    Follows b (s.memMap f) := by
  refine ⟨fun hb => ?_, h.pending, h.out, h.now, h.free⟩
  have g := (State.sound_iff s).1 (h.sound hb)
  rw [State.sound_iff]
  exact ⟨g.1, g.2.1, g.2.2.1, g.2.2.2.1, g.2.2.2.2.1, hf s.mem g.2.2.2.2.2.1, g.2.2.2.2.2.2⟩

theorem Follows.weaveSet {b s : State} {f : Weave → Weave} (h : Follows b s) (hf : ∀ x, x.strands.length = 64 → (f x).strands.length = 64) :
    Follows b (s.weaveMap f) := by
  refine ⟨fun hb => ?_, h.pending, h.out, h.now, h.free⟩
  have g := (State.sound_iff s).1 (h.sound hb)
  rw [State.sound_iff]
  exact ⟨g.1, g.2.1, g.2.2.1, g.2.2.2.1, g.2.2.2.2.1, g.2.2.2.2.2.1, hf s.weave g.2.2.2.2.2.2.1, g.2.2.2.2.2.2.2⟩

end Sys2Proof.Machine
end

