-- ==== Sys2Proof/Laws/FollowsLink.lean ====
section
/-!
SUPPORT. The operations of Machine/Link.lean keep what `Follows` says.
-/
namespace Sys2Proof.Machine

theorem Follows.strandMap {b0 : State} {s : State} {i : Nat} {f : Strand → Strand} (hb0 : Follows b0 s) : Follows b0 (State.strandMap s i f) := by
  unfold State.strandMap
  try dsimp only
  repeat' first
    | with_reducible assumption
    | with_reducible refine Follows.weaveMap ?_ (fun _ => rfl)
    | with_reducible apply Follows.weaveMap
    | with_reducible refine Follows.ite (fun _ => ?_) (fun _ => ?_)
    | (intro _; simp only [updFirst_length, updAll_length, updAt_length, List.length_map, List.length_replicate, List.length_range, and_self])
    | with_reducible exact ⟨rfl, rfl, rfl⟩
    | with_reducible exact ⟨rfl, rfl⟩
    | with_reducible rfl
    | with_reducible exact Nat.le_refl _
    | intro _

theorem Follows.emitBlock {b0 : State} {s : State} {i : Nat} {control : Bool} {d : Nat} (hb0 : Follows b0 s) : Follows b0 (State.emitBlock s i control d) := by
  unfold State.emitBlock
  try dsimp only
  repeat' first
    | with_reducible assumption
    | with_reducible apply Follows.emit
    | with_reducible apply Follows.tickFree
    | with_reducible refine Follows.ite (fun _ => ?_) (fun _ => ?_)

theorem Follows.sendCtl {b0 : State} {s : State} {i : Nat} {c : Ctl} (hb0 : Follows b0 s) : Follows b0 (State.sendCtl s i c) := by
  unfold State.sendCtl
  try dsimp only
  repeat' first
    | with_reducible assumption
    | with_reducible apply Follows.emitBlock
    | with_reducible refine Follows.ite (fun _ => ?_) (fun _ => ?_)
    | split

theorem Follows.pumpOne {b0 : State} {s : State} {i : Nat} (hb0 : Follows b0 s) : Follows b0 (State.pumpOne s i) := by
  unfold State.pumpOne
  try dsimp only
  repeat' first
    | with_reducible assumption
    | with_reducible apply Follows.emitBlock
    | with_reducible apply Follows.strandMap
    | with_reducible refine Follows.ite (fun _ => ?_) (fun _ => ?_)
    | intro _
    | split

theorem Follows.pump {b0 : State} {s : State} {i : Nat} (hb0 : Follows b0 s) : Follows b0 (State.pump s i) := by
  unfold State.pump
  try dsimp only
  repeat' first
    | with_reducible assumption
    | with_reducible apply Follows.pumpOne
    | with_reducible apply Follows.foldl
    | with_reducible refine Follows.ite (fun _ => ?_) (fun _ => ?_)
    | intro _

theorem Follows.queueMsg {b0 : State} {s : State} {i : Nat} {m : Bytes} (hb0 : Follows b0 s) : Follows b0 (State.queueMsg s i m) := by
  unfold State.queueMsg
  try dsimp only
  repeat' first
    | with_reducible assumption
    | with_reducible apply Follows.strandMap
    | with_reducible apply Follows.pump
    | with_reducible refine Follows.ite (fun _ => ?_) (fun _ => ?_)
    | intro _

theorem Follows.routeIn {b0 : State} {s : State} {map : List MapEnt} {self : Nat} {up : Option Nat} {m : Bytes} (hb0 : Follows b0 s) : Follows b0 (State.routeIn s map self up m) := by
  unfold State.routeIn
  try dsimp only
  repeat' first
    | with_reducible assumption
    | with_reducible apply Follows.queueMsg
    | with_reducible apply Follows.each
    | with_reducible refine Follows.ite (fun _ => ?_) (fun _ => ?_)
    | intro _
    | split

theorem Follows.route {b0 : State} {s : State} {m : Bytes} (hb0 : Follows b0 s) : Follows b0 (State.route s m) := by
  unfold State.route
  try dsimp only
  repeat' first
    | with_reducible assumption
    | with_reducible apply Follows.routeIn
    | with_reducible refine Follows.ite (fun _ => ?_) (fun _ => ?_)
    | split

theorem Follows.send {b0 : State} {s : State} {t : Nat} {dst : Nat} {op : Nat} {body : Bytes} (hb0 : Follows b0 s) : Follows b0 (State.send s t dst op body) := by
  unfold State.send
  try dsimp only
  repeat' first
    | with_reducible assumption
    | with_reducible apply Follows.route
    | with_reducible refine Follows.ite (fun _ => ?_) (fun _ => ?_)

theorem Follows.sendSide {b0 : State} {s : State} {t : Nat} {dst : Nat} {op : Nat} {body : Bytes} (hb0 : Follows b0 s) : Follows b0 (State.sendSide s t dst op body) := by
  unfold State.sendSide
  try dsimp only
  repeat' first
    | with_reducible assumption
    | with_reducible apply Follows.queueMsg
    | with_reducible refine Follows.ite (fun _ => ?_) (fun _ => ?_)
    | intro _
    | split

end Sys2Proof.Machine
end

