-- ==== Sys2Proof/Laws/FollowsOps.lean ====
section
/-!
SUPPORT. The operations of Machine/Ops.lean keep what `Follows` says.
-/
namespace Sys2Proof.Machine

theorem Follows.fnMap {b0 : State} {s : State} {seat : Nat} {f : Fn → Fn} (hb0 : Follows b0 s) : Follows b0 (State.fnMap s seat f) := by
  unfold State.fnMap
  try dsimp only
  repeat' first
    | with_reducible assumption
    | with_reducible refine Follows.hostMap ?_ (fun _ => ⟨rfl, rfl⟩)
    | with_reducible apply Follows.hostMap
    | with_reducible refine Follows.ite (fun _ => ?_) (fun _ => ?_)
    | (intro _; simp only [updFirst_length, updAll_length, updAt_length, List.length_map, List.length_replicate, List.length_range, and_self])
    | with_reducible exact ⟨rfl, rfl, rfl⟩
    | with_reducible exact ⟨rfl, rfl⟩
    | with_reducible rfl
    | with_reducible exact Nat.le_refl _
    | intro _

theorem Follows.raise {b0 : State} {s : State} {seat : Nat} {vector : Nat} (hb0 : Follows b0 s) : Follows b0 (State.raise s seat vector) := by
  unfold State.raise
  try dsimp only
  repeat' first
    | with_reducible assumption
    | with_reducible apply Follows.fnMap
    | with_reducible apply Follows.wrw
    | with_reducible apply Follows.incw
    | with_reducible apply Follows.emit
    | with_reducible refine Follows.ite (fun _ => ?_) (fun _ => ?_)
    | intro _
    | split

theorem Follows.fevent {b0 : State} {s : State} {f : Fld} {seat : Nat} (hb0 : Follows b0 s) : Follows b0 (State.fevent s f seat) := by
  unfold State.fevent
  try dsimp only
  repeat' first
    | with_reducible assumption
    | with_reducible apply Follows.raise
    | with_reducible apply Follows.wrw
    | with_reducible refine Follows.ite (fun _ => ?_) (fun _ => ?_)
    | split

theorem Follows.notice {b0 : State} {s : State} {seat : Nat} {bit : Nat} (hb0 : Follows b0 s) : Follows b0 (State.notice s seat bit) := by
  unfold State.notice
  try dsimp only
  repeat' first
    | with_reducible assumption
    | with_reducible apply Follows.raise
    | with_reducible apply Follows.wrw
    | with_reducible refine Follows.ite (fun _ => ?_) (fun _ => ?_)
    | split

theorem Follows.post {b0 : State} {s : State} {seat : Nat} {addr : Nat} {bytes : Bytes} {relaxed : Bool} (hb0 : Follows b0 s) : Follows b0 (State.post s seat addr bytes relaxed) := by
  unfold State.post
  try dsimp only
  repeat' first
    | with_reducible assumption
    | with_reducible apply Follows.fevent
    | with_reducible apply Follows.incw
    | with_reducible apply Follows.emit
    | with_reducible refine Follows.ite (fun _ => ?_) (fun _ => ?_)
    | split

theorem Follows.readHost {b0 : State} {s : State} {seat : Nat} {addr : Nat} {len : Nat} (hb0 : Follows b0 s) : Follows b0 (State.readHost s seat addr len) := by
  unfold State.readHost
  try dsimp only
  repeat' first
    | with_reducible assumption
    | with_reducible apply Follows.emit
    | with_reducible apply Follows.each
    | with_reducible refine Follows.ite (fun _ => ?_) (fun _ => ?_)
    | intro _

theorem Follows.cpqMap {b0 : State} {s : State} {fn : Nat} {q : Nat} {f : Cpq → Cpq} (hb0 : Follows b0 s) : Follows b0 (State.cpqMap s fn q f) := by
  unfold State.cpqMap
  try dsimp only
  repeat' first
    | with_reducible assumption
    | with_reducible refine Follows.hostMap ?_ (fun _ => ⟨rfl, rfl⟩)
    | with_reducible apply Follows.hostMap
    | with_reducible refine Follows.ite (fun _ => ?_) (fun _ => ?_)
    | (intro _; simp only [updFirst_length, updAll_length, updAt_length, List.length_map, List.length_replicate, List.length_range, and_self])
    | with_reducible exact ⟨rfl, rfl, rfl⟩
    | with_reducible exact ⟨rfl, rfl⟩
    | with_reducible rfl
    | with_reducible exact Nat.le_refl _
    | intro _

theorem Follows.sbqMap {b0 : State} {s : State} {fn : Nat} {q : Nat} {f : Sbq → Sbq} (hb0 : Follows b0 s) : Follows b0 (State.sbqMap s fn q f) := by
  unfold State.sbqMap
  try dsimp only
  repeat' first
    | with_reducible assumption
    | with_reducible refine Follows.hostMap ?_ (fun _ => ⟨rfl, rfl⟩)
    | with_reducible apply Follows.hostMap
    | with_reducible refine Follows.ite (fun _ => ?_) (fun _ => ?_)
    | (intro _; simp only [updFirst_length, updAll_length, updAt_length, List.length_map, List.length_replicate, List.length_range, and_self])
    | with_reducible exact ⟨rfl, rfl, rfl⟩
    | with_reducible exact ⟨rfl, rfl⟩
    | with_reducible rfl
    | with_reducible exact Nat.le_refl _
    | intro _

theorem Follows.sendPending {b0 : State} {s : State} {fn : Nat} {q : Nat} (hb0 : Follows b0 s) : Follows b0 (State.sendPending s fn q) := by
  unfold State.sendPending
  try dsimp only
  repeat' first
    | with_reducible assumption
    | with_reducible apply Follows.cpqMap
    | with_reducible apply Follows.raise
    | with_reducible refine Follows.ite (fun _ => ?_) (fun _ => ?_)
    | intro _
    | split

theorem Follows.settleCpqIdle {b0 : State} {s : State} {fn : Nat} {q : Nat} (hb0 : Follows b0 s) : Follows b0 (State.settleCpqIdle s fn q) := by
  unfold State.settleCpqIdle
  try dsimp only
  repeat' first
    | with_reducible assumption
    | with_reducible apply Follows.wrw
    | with_reducible refine Follows.ite (fun _ => ?_) (fun _ => ?_)
    | split

theorem Follows.settleSbqIdle {b0 : State} {s : State} {fn : Nat} {q : Nat} (hb0 : Follows b0 s) : Follows b0 (State.settleSbqIdle s fn q) := by
  unfold State.settleSbqIdle
  try dsimp only
  repeat' first
    | with_reducible assumption
    | with_reducible apply Follows.wrw
    | with_reducible refine Follows.ite (fun _ => ?_) (fun _ => ?_)
    | intro _
    | split

theorem Follows.cmdMap {b0 : State} {s : State} {cid : Nat} {f : Cmd → Cmd} (hb0 : Follows b0 s) : Follows b0 (State.cmdMap s cid f) := by
  unfold State.cmdMap
  try dsimp only
  repeat' first
    | with_reducible assumption
    | with_reducible refine Follows.hostMap ?_ (fun _ => ⟨rfl, rfl⟩)
    | with_reducible apply Follows.hostMap
    | with_reducible refine Follows.ite (fun _ => ?_) (fun _ => ?_)
    | (intro _; simp only [updFirst_length, updAll_length, updAt_length, List.length_map, List.length_replicate, List.length_range, and_self])
    | with_reducible exact ⟨rfl, rfl, rfl⟩
    | with_reducible exact ⟨rfl, rfl⟩
    | with_reducible rfl
    | with_reducible exact Nat.le_refl _
    | intro _

theorem Follows.charge {b0 : State} {s : State} {seat : Nat} {nj : Nat} (hb0 : Follows b0 s) : Follows b0 (State.charge s seat nj) := by
  unfold State.charge
  try dsimp only
  repeat' first
    | with_reducible assumption
    | with_reducible refine Follows.hostMap ?_ (fun _ => ⟨rfl, rfl⟩)
    | with_reducible apply Follows.hostMap
    | with_reducible refine Follows.ite (fun _ => ?_) (fun _ => ?_)
    | (intro _; simp only [updFirst_length, updAll_length, updAt_length, List.length_map, List.length_replicate, List.length_range, and_self])
    | with_reducible exact ⟨rfl, rfl, rfl⟩
    | with_reducible exact ⟨rfl, rfl⟩
    | with_reducible rfl
    | with_reducible exact Nat.le_refl _
    | intro _
    | split

theorem Follows.spend {b0 : State} {s : State} {cid : Nat} {spent : Nat} (hb0 : Follows b0 s) : Follows b0 (State.spend s cid spent) := by
  unfold State.spend
  try dsimp only
  repeat' first
    | with_reducible assumption
    | with_reducible apply Follows.cmdMap
    | with_reducible refine Follows.ite (fun _ => ?_) (fun _ => ?_)
    | intro _

theorem Follows.writeCompletion {b0 : State} {s : State} {c : Cmd} {status : Nat} {orig : Nat} {tag : Nat} {measure : Nat} {location : Nat} {count : Nat} {receipt : Nat} (hb0 : Follows b0 s) : Follows b0 (State.writeCompletion s c status orig tag measure location count receipt) := by
  unfold State.writeCompletion
  try dsimp only
  repeat' first
    | with_reducible assumption
    | with_reducible apply Follows.post
    | with_reducible apply Follows.cpqMap
    | with_reducible apply Follows.settleCpqIdle
    | with_reducible apply Follows.sendPending
    | with_reducible apply Follows.wrw
    | with_reducible apply Follows.when
    | with_reducible refine Follows.ite (fun _ => ?_) (fun _ => ?_)
    | intro _
    | split

theorem Follows.closeWindow {b0 : State} {s : State} {c : Cmd} {status : Nat} {measure : Nat} {location : Nat} {count : Nat} {posted : Bool} (hb0 : Follows b0 s) : Follows b0 (State.closeWindow s c status measure location count posted) := by
  unfold State.closeWindow
  try dsimp only
  repeat' first
    | with_reducible assumption
    | with_reducible refine Follows.hostMap ?_ (fun _ => ⟨rfl, rfl⟩)
    | with_reducible apply Follows.hostMap
    | with_reducible refine Follows.ite (fun _ => ?_) (fun _ => ?_)
    | (intro _; simp only [updFirst_length, updAll_length, updAt_length, List.length_map, List.length_replicate, List.length_range, and_self])
    | with_reducible exact ⟨rfl, rfl, rfl⟩
    | with_reducible exact ⟨rfl, rfl⟩
    | with_reducible rfl
    | with_reducible exact Nat.le_refl _
    | intro _
    | split

theorem Follows.dropCmd {b0 : State} {s : State} {c : Cmd} (hb0 : Follows b0 s) : Follows b0 (State.dropCmd s c) := by
  unfold State.dropCmd
  try dsimp only
  repeat' first
    | with_reducible assumption
    | with_reducible apply Follows.settleSbqIdle
    | with_reducible refine Follows.hostMap ?_ (fun _ => ⟨rfl, rfl⟩)
    | with_reducible apply Follows.hostMap
    | with_reducible refine Follows.ite (fun _ => ?_) (fun _ => ?_)
    | (intro _; simp only [updFirst_length, updAll_length, updAt_length, List.length_map, List.length_replicate, List.length_range, and_self])
    | with_reducible exact ⟨rfl, rfl, rfl⟩
    | with_reducible exact ⟨rfl, rfl⟩
    | with_reducible rfl
    | with_reducible exact Nat.le_refl _
    | intro _

theorem Follows.countStatus {b0 : State} {s : State} {seat : Nat} {status : Nat} (hb0 : Follows b0 s) : Follows b0 (State.countStatus s seat status) := by
  unfold State.countStatus
  try dsimp only
  repeat' first
    | with_reducible assumption
    | with_reducible apply Follows.pwrMap
    | with_reducible refine Follows.ite (fun _ => ?_) (fun _ => ?_)
    | intro _
    | split

theorem Follows.finishHost {b0 : State} {s : State} {c : Cmd} {status : Nat} {measure : Nat} {location : Nat} {count : Nat} {executed : Bool} (hb0 : Follows b0 s) : Follows b0 (State.finishHost s c status measure location count executed) := by
  unfold State.finishHost
  try dsimp only
  repeat' first
    | with_reducible assumption
    | with_reducible apply Follows.charge
    | with_reducible apply Follows.cpqMap
    | with_reducible apply Follows.writeCompletion
    | with_reducible apply Follows.countStatus
    | with_reducible apply Follows.closeWindow
    | with_reducible apply Follows.dropCmd
    | with_reducible refine Follows.hostMap ?_ (fun _ => ⟨rfl, rfl⟩)
    | with_reducible apply Follows.hostMap
    | with_reducible apply Follows.when
    | with_reducible refine Follows.ite (fun _ => ?_) (fun _ => ?_)
    | (intro _; simp only [updFirst_length, updAll_length, updAt_length, List.length_map, List.length_replicate, List.length_range, and_self])
    | with_reducible exact ⟨rfl, rfl, rfl⟩
    | with_reducible exact ⟨rfl, rfl⟩
    | with_reducible rfl
    | with_reducible exact Nat.le_refl _
    | intro _
    | split

theorem Follows.finish {b0 : State} {s : State} {c : Cmd} {status : Nat} {measure : Nat} {location : Nat} {count : Nat} {executed : Bool} (hb0 : Follows b0 s) : Follows b0 (State.finish s c status measure location count executed) := by
  unfold State.finish
  try dsimp only
  repeat' first
    | with_reducible assumption
    | with_reducible apply Follows.finishHost
    | with_reducible apply Follows.send
    | with_reducible apply Follows.dropCmd
    | with_reducible refine Follows.weaveMap ?_ (fun _ => rfl)
    | with_reducible apply Follows.weaveMap
    | with_reducible refine Follows.ite (fun _ => ?_) (fun _ => ?_)
    | (intro _; simp only [updFirst_length, updAll_length, updAt_length, List.length_map, List.length_replicate, List.length_range, and_self])
    | with_reducible exact ⟨rfl, rfl, rfl⟩
    | with_reducible exact ⟨rfl, rfl⟩
    | with_reducible rfl
    | with_reducible exact Nat.le_refl _
    | intro _
    | split

theorem Follows.finishDuplicate {b0 : State} {s : State} {c : Cmd} {e : WinEnt} (hb0 : Follows b0 s) : Follows b0 (State.finishDuplicate s c e) := by
  unfold State.finishDuplicate
  try dsimp only
  repeat' first
    | with_reducible assumption
    | with_reducible apply Follows.cpqMap
    | with_reducible apply Follows.writeCompletion
    | with_reducible apply Follows.countStatus
    | with_reducible apply Follows.dropCmd
    | with_reducible apply Follows.inc
    | with_reducible refine Follows.ite (fun _ => ?_) (fun _ => ?_)
    | intro _
    | split

theorem Follows.wakeDuplicates {b0 : State} {s : State} {c : Cmd} (hb0 : Follows b0 s) : Follows b0 (State.wakeDuplicates s c) := by
  unfold State.wakeDuplicates
  try dsimp only
  repeat' first
    | with_reducible assumption
    | with_reducible apply Follows.cmdMap
    | with_reducible apply Follows.finishDuplicate
    | with_reducible refine Follows.hostMap ?_ (fun _ => ⟨rfl, rfl⟩)
    | with_reducible apply Follows.hostMap
    | with_reducible apply Follows.each
    | with_reducible refine Follows.ite (fun _ => ?_) (fun _ => ?_)
    | (intro _; simp only [updFirst_length, updAll_length, updAt_length, List.length_map, List.length_replicate, List.length_range, and_self])
    | with_reducible exact ⟨rfl, rfl, rfl⟩
    | with_reducible exact ⟨rfl, rfl⟩
    | with_reducible rfl
    | with_reducible exact Nat.le_refl _
    | intro _
    | split

theorem Follows.complete {b0 : State} {s : State} {c : Cmd} {status : Nat} {measure : Nat} {location : Nat} {count : Nat} {executed : Bool} (hb0 : Follows b0 s) : Follows b0 (State.complete s c status measure location count executed) := by
  unfold State.complete
  try dsimp only
  repeat' first
    | with_reducible assumption
    | with_reducible apply Follows.finish
    | with_reducible apply Follows.wakeDuplicates
    | with_reducible refine Follows.ite (fun _ => ?_) (fun _ => ?_)

theorem Follows.completeOk {b0 : State} {s : State} {c : Cmd} {location : Nat} {count : Nat} (hb0 : Follows b0 s) : Follows b0 (State.completeOk s c location count) := by
  unfold State.completeOk
  try dsimp only
  repeat' first
    | with_reducible assumption
    | with_reducible apply Follows.complete
    | with_reducible refine Follows.ite (fun _ => ?_) (fun _ => ?_)

theorem Follows.refuse {b0 : State} {s : State} {c : Cmd} {status : Nat} (hb0 : Follows b0 s) : Follows b0 (State.refuse s c status) := by
  unfold State.refuse
  try dsimp only
  repeat' first
    | with_reducible assumption
    | with_reducible apply Follows.complete
    | with_reducible refine Follows.ite (fun _ => ?_) (fun _ => ?_)

theorem Follows.noticeChanged {b0 : State} {s : State} (hb0 : Follows b0 s) : Follows b0 (State.noticeChanged s) := by
  unfold State.noticeChanged
  try dsimp only
  repeat' first
    | with_reducible assumption
    | with_reducible apply Follows.notice
    | with_reducible apply Follows.each
    | with_reducible refine Follows.ite (fun _ => ?_) (fun _ => ?_)
    | intro _

theorem Follows.endOwnership {b0 : State} {s : State} {offer : Option Nat} {tellLost : Bool} (hb0 : Follows b0 s) : Follows b0 (State.endOwnership s offer tellLost) := by
  unfold State.endOwnership
  try dsimp only
  repeat' first
    | with_reducible assumption
    | with_reducible apply Follows.noticeChanged
    | with_reducible apply Follows.notice
    | with_reducible apply Follows.wr
    | with_reducible refine Follows.ite (fun _ => ?_) (fun _ => ?_)
    | intro _
    | split

theorem Follows.channelMap {b0 : State} {s : State} {h : Nat} {f : Channel → Channel} (hb0 : Follows b0 s) : Follows b0 (State.channelMap s h f) := by
  unfold State.channelMap
  try dsimp only
  repeat' first
    | with_reducible assumption
    | with_reducible refine Follows.memMap ?_ (fun _ => rfl)
    | with_reducible apply Follows.memMap
    | with_reducible refine Follows.ite (fun _ => ?_) (fun _ => ?_)
    | (intro _; simp only [updFirst_length, updAll_length, updAt_length, List.length_map, List.length_replicate, List.length_range, and_self])
    | with_reducible exact ⟨rfl, rfl, rfl⟩
    | with_reducible exact ⟨rfl, rfl⟩
    | with_reducible rfl
    | with_reducible exact Nat.le_refl _
    | intro _

theorem Follows.shelfMap {b0 : State} {s : State} {i : Nat} {f : Shelf → Shelf} (hb0 : Follows b0 s) : Follows b0 (State.shelfMap s i f) := by
  unfold State.shelfMap
  try dsimp only
  repeat' first
    | with_reducible assumption
    | with_reducible apply Follows.storeMap
    | with_reducible refine Follows.ite (fun _ => ?_) (fun _ => ?_)
    | intro _

theorem Follows.rehashDir {b0 : State} {s : State} (hb0 : Follows b0 s) : Follows b0 (State.rehashDir s) := by
  unfold State.rehashDir
  try dsimp only
  repeat' first
    | with_reducible assumption
    | with_reducible apply Follows.storeMap
    | with_reducible refine Follows.ite (fun _ => ?_) (fun _ => ?_)
    | intro _

theorem Follows.releaseDropped {b0 : State} {s : State} (hb0 : Follows b0 s) : Follows b0 (State.releaseDropped s) := by
  unfold State.releaseDropped
  try dsimp only
  repeat' first
    | with_reducible assumption
    | with_reducible apply Follows.rehashDir
    | with_reducible refine Follows.rrMap ?_ (fun _ => rfl)
    | with_reducible apply Follows.rrMap
    | with_reducible apply Follows.storeMap
    | with_reducible refine Follows.ite (fun _ => ?_) (fun _ => ?_)
    | (intro _; simp only [updFirst_length, updAll_length, updAt_length, List.length_map, List.length_replicate, List.length_range, and_self])
    | with_reducible exact ⟨rfl, rfl, rfl⟩
    | with_reducible exact ⟨rfl, rfl⟩
    | with_reducible rfl
    | with_reducible exact Nat.le_refl _
    | intro _
    | split

theorem Follows.endDrops {b0 : State} {s : State} (hb0 : Follows b0 s) : Follows b0 (State.endDrops s) := by
  unfold State.endDrops
  try dsimp only
  repeat' first
    | with_reducible assumption
    | with_reducible apply Follows.releaseDropped
    | with_reducible refine Follows.weaveMap ?_ (fun _ => rfl)
    | with_reducible apply Follows.weaveMap
    | with_reducible apply Follows.storeMap
    | with_reducible refine Follows.ite (fun _ => ?_) (fun _ => ?_)
    | (intro _; simp only [updFirst_length, updAll_length, updAt_length, List.length_map, List.length_replicate, List.length_range, and_self])
    | with_reducible exact ⟨rfl, rfl, rfl⟩
    | with_reducible exact ⟨rfl, rfl⟩
    | with_reducible rfl
    | with_reducible exact Nat.le_refl _
    | intro _

theorem Follows.freeSuperseded {b0 : State} {s : State} (hb0 : Follows b0 s) : Follows b0 (State.freeSuperseded s) := by
  unfold State.freeSuperseded
  try dsimp only
  repeat' first
    | with_reducible assumption
    | with_reducible apply Follows.storeMap
    | with_reducible refine Follows.ite (fun _ => ?_) (fun _ => ?_)
    | intro _
    | split

theorem Follows.reply {b0 : State} {s : State} {c : Cmd} {addr : Nat} {bytes : Bytes} (hb0 : Follows b0 s) : Follows b0 (State.reply s c addr bytes) := by
  unfold State.reply
  try dsimp only
  repeat' first
    | with_reducible assumption
    | with_reducible apply Follows.cmdMap
    | with_reducible apply Follows.post
    | with_reducible apply Follows.spend
    | with_reducible apply Follows.when
    | with_reducible refine Follows.ite (fun _ => ?_) (fun _ => ?_)
    | intro _
    | split

end Sys2Proof.Machine
end

