-- ==== Sys2Proof/Laws/FollowsErrors.lean ====
section
/-!
SUPPORT. The operations of Machine/Errors.lean keep what `Follows` says.
-/
namespace Sys2Proof.Machine

theorem Follows.alertOn {b0 : State} {s : State} (hb0 : Follows b0 s) : Follows b0 (State.alertOn s) := by
  unfold State.alertOn
  try dsimp only
  repeat' first
    | with_reducible assumption
    | with_reducible apply Follows.emit
    | with_reducible apply Follows.pwrMap
    | with_reducible refine Follows.ite (fun _ => ?_) (fun _ => ?_)
    | intro _
    | split

theorem Follows.powerEvent {b0 : State} {s : State} {f : Fld} (hb0 : Follows b0 s) : Follows b0 (State.powerEvent s f) := by
  unfold State.powerEvent
  try dsimp only
  repeat' first
    | with_reducible assumption
    | with_reducible apply Follows.alertOn
    | with_reducible apply Follows.ev
    | with_reducible apply Follows.pwrMap
    | with_reducible apply Follows.when
    | with_reducible refine Follows.ite (fun _ => ?_) (fun _ => ?_)
    | intro _

theorem Follows.logFlash {b0 : State} {s : State} {r : Bytes} (hb0 : Follows b0 s) : Follows b0 (State.logFlash s r) := by
  unfold State.logFlash
  try dsimp only
  repeat' first
    | with_reducible assumption
    | with_reducible apply Follows.tickFrees
    | with_reducible apply Follows.pwrMap
    | with_reducible refine Follows.ite (fun _ => ?_) (fun _ => ?_)
    | intro _

theorem Follows.signalError {b0 : State} {s : State} (hb0 : Follows b0 s) : Follows b0 (State.signalError s) := by
  unfold State.signalError
  try dsimp only
  repeat' first
    | with_reducible assumption
    | with_reducible apply Follows.raise
    | with_reducible apply Follows.each
    | with_reducible refine Follows.ite (fun _ => ?_) (fun _ => ?_)
    | intro _
    | split

theorem Follows.logError {b0 : State} {s : State} {cls : Nat} {kind : Nat} {unit : Nat} {code : Nat} {detail : Nat} (hb0 : Follows b0 s) : Follows b0 (State.logError s cls kind unit code detail) := by
  unfold State.logError
  try dsimp only
  repeat' first
    | with_reducible assumption
    | with_reducible apply Follows.signalError
    | with_reducible apply Follows.logFlash
    | with_reducible apply Follows.wr
    | with_reducible apply Follows.ev
    | with_reducible apply Follows.inc
    | with_reducible apply Follows.pwrMap
    | with_reducible apply Follows.when
    | with_reducible refine Follows.ite (fun _ => ?_) (fun _ => ?_)
    | intro _
    | split

theorem Follows.internalError {b0 : State} {s : State} (hb0 : Follows b0 s) : Follows b0 (State.internalError s) := by
  unfold State.internalError
  try dsimp only
  repeat' first
    | with_reducible assumption
    | with_reducible apply Follows.fnMap
    | with_reducible apply Follows.each
    | with_reducible refine Follows.ite (fun _ => ?_) (fun _ => ?_)
    | intro _

theorem Follows.fatal {b0 : State} {s : State} {cause : Nat} {unit : Nat} (hb0 : Follows b0 s) : Follows b0 (State.fatal s cause unit) := by
  unfold State.fatal
  try dsimp only
  repeat' first
    | with_reducible assumption
    | with_reducible apply Follows.logError
    | with_reducible apply Follows.internalError
    | with_reducible apply Follows.alertOn
    | with_reducible apply Follows.wr
    | with_reducible apply Follows.emit
    | with_reducible apply Follows.pwrMap
    | with_reducible refine Follows.ite (fun _ => ?_) (fun _ => ?_)
    | intro _
    | split

theorem Follows.fwFault {b0 : State} {s : State} {kind : Nat} {unit : Nat} {code : Nat} {detail : Nat} (hb0 : Follows b0 s) : Follows b0 (State.fwFault s kind unit code detail) := by
  unfold State.fwFault
  try dsimp only
  repeat' first
    | with_reducible assumption
    | with_reducible apply Follows.logError
    | with_reducible apply Follows.fatal
    | with_reducible apply Follows.ev
    | with_reducible apply Follows.pwrMap
    | with_reducible apply Follows.when
    | with_reducible refine Follows.ite (fun _ => ?_) (fun _ => ?_)
    | intro _

theorem Follows.engineFaulted {b0 : State} {s : State} {e : Nat} (hb0 : Follows b0 s) : Follows b0 (State.engineFaulted s e) := by
  unfold State.engineFaulted
  try dsimp only
  repeat' first
    | with_reducible assumption
    | with_reducible apply Follows.alertOn
    | with_reducible apply Follows.logError
    | with_reducible apply Follows.wr
    | with_reducible apply Follows.pwrMap
    | with_reducible refine Follows.ite (fun _ => ?_) (fun _ => ?_)
    | intro _
    | split

end Sys2Proof.Machine
end

