-- ==== Sys2Proof/Laws/FollowsStream.lean ====
section
/-!
SUPPORT. The operations of Machine/Stream.lean keep what `Follows` says.
-/
namespace Sys2Proof.Machine

theorem Follows.reqMap {b0 : State} {s : State} {rid : Nat} {f : Req → Req} (hb0 : Follows b0 s) : Follows b0 (State.reqMap s rid f) := by
  unfold State.reqMap
  try dsimp only
  repeat' first
    | with_reducible assumption
    | with_reducible refine Follows.rrMap ?_ (fun _ => rfl)
    | with_reducible apply Follows.rrMap
    | with_reducible refine Follows.ite (fun _ => ?_) (fun _ => ?_)
    | (intro _; simp only [updFirst_length, updAll_length, updAt_length, List.length_map, List.length_replicate, List.length_range, and_self])
    | with_reducible exact ⟨rfl, rfl, rfl⟩
    | with_reducible exact ⟨rfl, rfl⟩
    | with_reducible rfl
    | with_reducible exact Nat.le_refl _
    | intro _

theorem Follows.grantOne {b0 : State} {s : State} {h : Nat} (hb0 : Follows b0 s) : Follows b0 (State.grantOne s h) := by
  unfold State.grantOne
  try dsimp only
  repeat' first
    | with_reducible assumption
    | with_reducible apply Follows.reqMap
    | with_reducible apply Follows.channelMap
    | with_reducible refine Follows.rrMap ?_ (fun _ => rfl)
    | with_reducible apply Follows.rrMap
    | with_reducible refine Follows.ite (fun _ => ?_) (fun _ => ?_)
    | (intro _; simp only [updFirst_length, updAll_length, updAt_length, List.length_map, List.length_replicate, List.length_range, and_self])
    | with_reducible exact ⟨rfl, rfl, rfl⟩
    | with_reducible exact ⟨rfl, rfl⟩
    | with_reducible rfl
    | with_reducible exact Nat.le_refl _
    | intro _
    | split

theorem Follows.fillQueue {b0 : State} {h : Nat} {k : Nat} {s : State} (hb0 : Follows b0 s) : Follows b0 (State.fillQueue h k s) := by
  induction k generalizing s with
  | zero => exact hb0
  | succ k ih =>
    unfold State.fillQueue
    split
    · exact hb0
    · split
      · exact hb0
      · exact ih (Follows.grantOne hb0)

theorem Follows.issueEntry {b0 : State} {s : State} {h : Nat} {r : Req} (hb0 : Follows b0 s) : Follows b0 (State.issueEntry s h r) := by
  unfold State.issueEntry
  try dsimp only
  repeat' first
    | with_reducible assumption
    | with_reducible apply Follows.channelMap
    | with_reducible refine Follows.rrMap ?_ (fun _ => rfl)
    | with_reducible apply Follows.rrMap
    | with_reducible refine Follows.ite (fun _ => ?_) (fun _ => ?_)
    | (intro _; simp only [updFirst_length, updAll_length, updAt_length, List.length_map, List.length_replicate, List.length_range, and_self])
    | with_reducible exact ⟨rfl, rfl, rfl⟩
    | with_reducible exact ⟨rfl, rfl⟩
    | with_reducible rfl
    | with_reducible exact Nat.le_refl _
    | intro _
    | split

theorem Follows.dropReq {b0 : State} {s : State} {rid : Nat} (hb0 : Follows b0 s) : Follows b0 (State.dropReq s rid) := by
  unfold State.dropReq
  try dsimp only
  repeat' first
    | with_reducible assumption
    | with_reducible refine Follows.rrMap ?_ (fun _ => rfl)
    | with_reducible apply Follows.rrMap
    | with_reducible refine Follows.ite (fun _ => ?_) (fun _ => ?_)
    | (intro _; simp only [updFirst_length, updAll_length, updAt_length, List.length_map, List.length_replicate, List.length_range, and_self])
    | with_reducible exact ⟨rfl, rfl, rfl⟩
    | with_reducible exact ⟨rfl, rfl⟩
    | with_reducible rfl
    | with_reducible exact Nat.le_refl _
    | intro _

theorem Follows.writeOut {b0 : State} {s : State} {h : Nat} (hb0 : Follows b0 s) : Follows b0 (State.writeOut s h) := by
  unfold State.writeOut
  try dsimp only
  repeat' first
    | with_reducible assumption
    | with_reducible apply Follows.issueEntry
    | with_reducible apply Follows.dropReq
    | with_reducible apply Follows.fillQueue
    | with_reducible refine Follows.ite (fun _ => ?_) (fun _ => ?_)
    | intro _
    | split

theorem Follows.writesOut {b0 : State} {s : State} {h : Nat} (hb0 : Follows b0 s) : Follows b0 (State.writesOut s h) := by
  unfold State.writesOut
  try dsimp only
  repeat' first
    | with_reducible assumption
    | with_reducible apply Follows.writeOut
    | with_reducible apply Follows.each
    | with_reducible refine Follows.ite (fun _ => ?_) (fun _ => ?_)
    | intro _

theorem Follows.writeBack {b0 : State} {s : State} {h : Nat} {g : Nat} (hb0 : Follows b0 s) : Follows b0 (State.writeBack s h g) := by
  unfold State.writeBack
  try dsimp only
  repeat' first
    | with_reducible assumption
    | with_reducible apply Follows.writesOut
    | with_reducible refine Follows.rrMap ?_ (fun _ => rfl)
    | with_reducible apply Follows.rrMap
    | with_reducible refine Follows.ite (fun _ => ?_) (fun _ => ?_)
    | (intro _; simp only [updFirst_length, updAll_length, updAt_length, List.length_map, List.length_replicate, List.length_range, and_self])
    | with_reducible exact ⟨rfl, rfl, rfl⟩
    | with_reducible exact ⟨rfl, rfl⟩
    | with_reducible rfl
    | with_reducible exact Nat.le_refl _
    | intro _

theorem Follows.issue {b0 : State} {s : State} {sq : Nat} {granule : Nat} {staging : Bool} {far : Bool} {c : Client} (hb0 : Follows b0 s) : Follows b0 (State.issue s sq granule staging far c) := by
  unfold State.issue
  try dsimp only
  repeat' first
    | with_reducible assumption
    | with_reducible apply Follows.reqMap
    | with_reducible apply Follows.fillQueue
    | with_reducible apply Follows.bump
    | with_reducible refine Follows.rrMap ?_ (fun _ => rfl)
    | with_reducible apply Follows.rrMap
    | with_reducible apply Follows.when
    | with_reducible refine Follows.ite (fun _ => ?_) (fun _ => ?_)
    | (intro _; simp only [updFirst_length, updAll_length, updAt_length, List.length_map, List.length_replicate, List.length_range, and_self])
    | with_reducible exact ⟨rfl, rfl, rfl⟩
    | with_reducible exact ⟨rfl, rfl⟩
    | with_reducible rfl
    | with_reducible exact Nat.le_refl _
    | intro _
    | split

theorem Follows.issueWrite {b0 : State} {s : State} {sq : Nat} {granule : Nat} {c : Client} (hb0 : Follows b0 s) : Follows b0 (State.issueWrite s sq granule c) := by
  unfold State.issueWrite
  try dsimp only
  repeat' first
    | with_reducible assumption
    | with_reducible apply Follows.fillQueue
    | with_reducible apply Follows.writesOut
    | with_reducible apply Follows.bump
    | with_reducible refine Follows.rrMap ?_ (fun _ => rfl)
    | with_reducible apply Follows.rrMap
    | with_reducible refine Follows.ite (fun _ => ?_) (fun _ => ?_)
    | (intro _; simp only [updFirst_length, updAll_length, updAt_length, List.length_map, List.length_replicate, List.length_range, and_self])
    | with_reducible exact ⟨rfl, rfl, rfl⟩
    | with_reducible exact ⟨rfl, rfl⟩
    | with_reducible rfl
    | with_reducible exact Nat.le_refl _
    | intro _

theorem Follows.readIssued {b0 : State} {s : State} {r : Req} (hb0 : Follows b0 s) : Follows b0 (State.readIssued s r) := by
  unfold State.readIssued
  try dsimp only
  repeat' first
    | with_reducible assumption
    | with_reducible apply Follows.issueEntry
    | with_reducible apply Follows.reqMap
    | with_reducible apply Follows.fillQueue
    | with_reducible apply Follows.writesOut
    | with_reducible refine Follows.ite (fun _ => ?_) (fun _ => ?_)
    | intro _

end Sys2Proof.Machine
end

