-- ==== Sys2Proof/Laws/FollowsSweep.lean ====
section
/-!
SUPPORT. The operations of Machine/Sweep.lean keep what `Follows` says.
-/
namespace Sys2Proof.Machine

theorem Follows.runMap {b0 : State} {s : State} {cid : Nat} {f : Run → Run} (hb0 : Follows b0 s) : Follows b0 (State.runMap s cid f) := by
  unfold State.runMap
  try dsimp only
  repeat' first
    | with_reducible assumption
    | with_reducible refine Follows.sweepMap ?_ (fun _ => ⟨rfl, rfl, rfl⟩)
    | with_reducible apply Follows.sweepMap
    | with_reducible refine Follows.ite (fun _ => ?_) (fun _ => ?_)
    | (intro _; simp only [updFirst_length, updAll_length, updAt_length, List.length_map, List.length_replicate, List.length_range, and_self])
    | with_reducible exact ⟨rfl, rfl, rfl⟩
    | with_reducible exact ⟨rfl, rfl⟩
    | with_reducible rfl
    | with_reducible exact Nat.le_refl _
    | intro _

theorem Follows.runsMap {b0 : State} {s : State} {p : Run → Bool} {f : Run → Run} (hb0 : Follows b0 s) : Follows b0 (State.runsMap s p f) := by
  unfold State.runsMap
  try dsimp only
  repeat' first
    | with_reducible assumption
    | with_reducible refine Follows.sweepMap ?_ (fun _ => ⟨rfl, rfl, rfl⟩)
    | with_reducible apply Follows.sweepMap
    | with_reducible refine Follows.ite (fun _ => ?_) (fun _ => ?_)
    | (intro _; simp only [updFirst_length, updAll_length, updAt_length, List.length_map, List.length_replicate, List.length_range, and_self])
    | with_reducible exact ⟨rfl, rfl, rfl⟩
    | with_reducible exact ⟨rfl, rfl⟩
    | with_reducible rfl
    | with_reducible exact Nat.le_refl _
    | intro _

theorem Follows.queueMap {b0 : State} {s : State} {q : Nat} {f : TileQ → TileQ} (hb0 : Follows b0 s) : Follows b0 (State.queueMap s q f) := by
  unfold State.queueMap
  try dsimp only
  repeat' first
    | with_reducible assumption
    | with_reducible refine Follows.sweepMap ?_ (fun _ => ⟨rfl, rfl, rfl⟩)
    | with_reducible apply Follows.sweepMap
    | with_reducible refine Follows.ite (fun _ => ?_) (fun _ => ?_)
    | (intro _; simp only [updFirst_length, updAll_length, updAt_length, List.length_map, List.length_replicate, List.length_range, and_self])
    | with_reducible exact ⟨rfl, rfl, rfl⟩
    | with_reducible exact ⟨rfl, rfl⟩
    | with_reducible rfl
    | with_reducible exact Nat.le_refl _
    | intro _

theorem Follows.engineMap {b0 : State} {s : State} {e : Nat} {f : Engine → Engine} (hb0 : Follows b0 s) : Follows b0 (State.engineMap s e f) := by
  unfold State.engineMap
  try dsimp only
  repeat' first
    | with_reducible assumption
    | with_reducible refine Follows.sweepMap ?_ (fun _ => ⟨rfl, rfl, rfl⟩)
    | with_reducible apply Follows.sweepMap
    | with_reducible refine Follows.ite (fun _ => ?_) (fun _ => ?_)
    | (intro _; simp only [updFirst_length, updAll_length, updAt_length, List.length_map, List.length_replicate, List.length_range, and_self])
    | with_reducible exact ⟨rfl, rfl, rfl⟩
    | with_reducible exact ⟨rfl, rfl⟩
    | with_reducible rfl
    | with_reducible exact Nat.le_refl _
    | intro _

theorem Follows.failRuns {b0 : State} {s : State} {p : Run → Bool} (hb0 : Follows b0 s) : Follows b0 (State.failRuns s p) := by
  unfold State.failRuns
  try dsimp only
  repeat' first
    | with_reducible assumption
    | with_reducible apply Follows.complete
    | with_reducible apply Follows.runsMap
    | with_reducible apply Follows.each
    | with_reducible refine Follows.ite (fun _ => ?_) (fun _ => ?_)
    | intro _
    | split

theorem Follows.restEngines {b0 : State} {s : State} (hb0 : Follows b0 s) : Follows b0 (State.restEngines s) := by
  unfold State.restEngines
  try dsimp only
  repeat' first
    | with_reducible assumption
    | with_reducible refine Follows.sweepSet ?_ (fun x hx => ⟨by simp [hx.1], hx.2⟩)
    | with_reducible refine Follows.sweepMap ?_ (fun _ => ⟨rfl, rfl, rfl⟩)
    | with_reducible apply Follows.sweepMap
    | with_reducible refine Follows.ite (fun _ => ?_) (fun _ => ?_)
    | (intro _; simp only [updFirst_length, updAll_length, updAt_length, List.length_map, List.length_replicate, List.length_range, and_self])
    | with_reducible exact ⟨rfl, rfl, rfl⟩
    | with_reducible exact ⟨rfl, rfl⟩
    | with_reducible rfl
    | with_reducible exact Nat.le_refl _
    | intro _

theorem Follows.wakeEngines {b0 : State} {s : State} (hb0 : Follows b0 s) : Follows b0 (State.wakeEngines s) := by
  unfold State.wakeEngines
  try dsimp only
  repeat' first
    | with_reducible assumption
    | with_reducible refine Follows.sweepSet ?_ (fun x hx => ⟨by simp [hx.1], hx.2⟩)
    | with_reducible refine Follows.sweepMap ?_ (fun _ => ⟨rfl, rfl, rfl⟩)
    | with_reducible apply Follows.sweepMap
    | with_reducible refine Follows.ite (fun _ => ?_) (fun _ => ?_)
    | (intro _; simp only [updFirst_length, updAll_length, updAt_length, List.length_map, List.length_replicate, List.length_range, and_self])
    | with_reducible exact ⟨rfl, rfl, rfl⟩
    | with_reducible exact ⟨rfl, rfl⟩
    | with_reducible rfl
    | with_reducible exact Nat.le_refl _
    | intro _

theorem Follows.loadGroup {b0 : State} {s : State} {c : Copy} {e : Nat} {pos : Nat} {g : Nat} (hb0 : Follows b0 s) : Follows b0 (State.loadGroup s c e pos g) := by
  unfold State.loadGroup
  try dsimp only
  repeat' first
    | with_reducible assumption
    | with_reducible apply Follows.engineMap
    | with_reducible refine Follows.ite (fun _ => ?_) (fun _ => ?_)
    | intro _
    | split

theorem Follows.loadBanks {b0 : State} {s : State} (hb0 : Follows b0 s) : Follows b0 (State.loadBanks s) := by
  unfold State.loadBanks
  try dsimp only
  repeat' first
    | with_reducible assumption
    | with_reducible apply Follows.loadGroup
    | with_reducible apply Follows.each
    | with_reducible refine Follows.ite (fun _ => ?_) (fun _ => ?_)
    | intro _

theorem Follows.issueFill {b0 : State} {s : State} {k : Nat} (hb0 : Follows b0 s) : Follows b0 (State.issueFill s k) := by
  unfold State.issueFill
  try dsimp only
  repeat' first
    | with_reducible assumption
    | with_reducible apply Follows.issue
    | with_reducible refine Follows.sweepMap ?_ (fun _ => ⟨rfl, rfl, rfl⟩)
    | with_reducible apply Follows.sweepMap
    | with_reducible apply Follows.each
    | with_reducible refine Follows.ite (fun _ => ?_) (fun _ => ?_)
    | (intro _; simp only [updFirst_length, updAll_length, updAt_length, List.length_map, List.length_replicate, List.length_range, and_self])
    | with_reducible exact ⟨rfl, rfl, rfl⟩
    | with_reducible exact ⟨rfl, rfl⟩
    | with_reducible rfl
    | with_reducible exact Nat.le_refl _
    | intro _
    | split

theorem Follows.issueFills {b0 : State} {s : State} (hb0 : Follows b0 s) : Follows b0 (State.issueFills s) := by
  unfold State.issueFills
  try dsimp only
  repeat' first
    | with_reducible assumption
    | with_reducible apply Follows.issueFill
    | with_reducible apply Follows.each
    | with_reducible refine Follows.ite (fun _ => ?_) (fun _ => ?_)
    | intro _

theorem Follows.startFill {b0 : State} {s : State} {h : Shelf} {q : Nat} {gs : List Nat} (hb0 : Follows b0 s) : Follows b0 (State.startFill s h q gs) := by
  unfold State.startFill
  try dsimp only
  repeat' first
    | with_reducible assumption
    | with_reducible apply Follows.engineMap
    | with_reducible apply Follows.issueFills
    | with_reducible refine Follows.sweepMap ?_ (fun _ => ⟨rfl, rfl, rfl⟩)
    | with_reducible apply Follows.sweepMap
    | with_reducible apply Follows.each
    | with_reducible refine Follows.ite (fun _ => ?_) (fun _ => ?_)
    | (intro _; simp only [updFirst_length, updAll_length, updAt_length, List.length_map, List.length_replicate, List.length_range, and_self])
    | with_reducible exact ⟨rfl, rfl, rfl⟩
    | with_reducible exact ⟨rfl, rfl⟩
    | with_reducible rfl
    | with_reducible exact Nat.le_refl _
    | intro _

theorem Follows.tableLine {b0 : State} {s : State} {shelf : Nat} {g : Nat} {e : Nat} (hb0 : Follows b0 s) : Follows b0 (State.tableLine s shelf g e) := by
  unfold State.tableLine
  try dsimp only
  repeat' first
    | with_reducible assumption
    | with_reducible apply Follows.engineMap
    | with_reducible refine Follows.ite (fun _ => ?_) (fun _ => ?_)
    | intro _
    | split

theorem Follows.tableLanded {b0 : State} {s : State} {k : Nat} (hb0 : Follows b0 s) : Follows b0 (State.tableLanded s k) := by
  unfold State.tableLanded
  try dsimp only
  repeat' first
    | with_reducible assumption
    | with_reducible apply Follows.tableLine
    | with_reducible apply Follows.issueFills
    | with_reducible apply Follows.bump
    | with_reducible refine Follows.sweepMap ?_ (fun _ => ⟨rfl, rfl, rfl⟩)
    | with_reducible apply Follows.sweepMap
    | with_reducible apply Follows.each
    | with_reducible refine Follows.ite (fun _ => ?_) (fun _ => ?_)
    | (intro _; simp only [updFirst_length, updAll_length, updAt_length, List.length_map, List.length_replicate, List.length_range, and_self])
    | with_reducible exact ⟨rfl, rfl, rfl⟩
    | with_reducible exact ⟨rfl, rfl⟩
    | with_reducible rfl
    | with_reducible exact Nat.le_refl _
    | intro _
    | split

theorem Follows.takeTables {b0 : State} {s : State} {shelf : Nat} {g : Nat} {e : Nat} (hb0 : Follows b0 s) : Follows b0 (State.takeTables s shelf g e) := by
  unfold State.takeTables
  try dsimp only
  repeat' first
    | with_reducible assumption
    | with_reducible apply Follows.engineMap
    | with_reducible apply Follows.issueFills
    | with_reducible refine Follows.sweepMap ?_ (fun _ => ⟨rfl, rfl, rfl⟩)
    | with_reducible apply Follows.sweepMap
    | with_reducible refine Follows.ite (fun _ => ?_) (fun _ => ?_)
    | (intro _; simp only [updFirst_length, updAll_length, updAt_length, List.length_map, List.length_replicate, List.length_range, and_self])
    | with_reducible exact ⟨rfl, rfl, rfl⟩
    | with_reducible exact ⟨rfl, rfl⟩
    | with_reducible rfl
    | with_reducible exact Nat.le_refl _
    | intro _
    | split

theorem Follows.queueTiles {b0 : State} {s : State} {q : Nat} {dflags : Nat} {ts : List Tile} (hb0 : Follows b0 s) : Follows b0 (State.queueTiles s q dflags ts) := by
  unfold State.queueTiles
  try dsimp only
  repeat' first
    | with_reducible assumption
    | with_reducible apply Follows.queueMap
    | with_reducible refine Follows.sweepMap ?_ (fun _ => ⟨rfl, rfl, rfl⟩)
    | with_reducible apply Follows.sweepMap
    | with_reducible refine Follows.ite (fun _ => ?_) (fun _ => ?_)
    | (intro _; simp only [updFirst_length, updAll_length, updAt_length, List.length_map, List.length_replicate, List.length_range, and_self])
    | with_reducible exact ⟨rfl, rfl, rfl⟩
    | with_reducible exact ⟨rfl, rfl⟩
    | with_reducible rfl
    | with_reducible exact Nat.le_refl _
    | intro _

theorem Follows.streamStart {b0 : State} {s : State} {hdr : Bytes} {body : List DWord} {gather : List DWord} (hb0 : Follows b0 s) : Follows b0 (State.streamStart s hdr body gather) := by
  unfold State.streamStart
  try dsimp only
  repeat' first
    | with_reducible assumption
    | with_reducible apply Follows.queueMap
    | with_reducible apply Follows.failRuns
    | with_reducible apply Follows.fwFault
    | with_reducible apply Follows.startFill
    | with_reducible apply Follows.queueTiles
    | with_reducible apply Follows.ev
    | with_reducible refine Follows.ite (fun _ => ?_) (fun _ => ?_)
    | intro _
    | split

theorem Follows.stagingScanEnd {b0 : State} {s : State} (hb0 : Follows b0 s) : Follows b0 (State.stagingScanEnd s) := by
  unfold State.stagingScanEnd
  try dsimp only
  repeat' first
    | with_reducible assumption
    | with_reducible refine Follows.sweepMap ?_ (fun _ => ⟨rfl, rfl, rfl⟩)
    | with_reducible apply Follows.sweepMap
    | with_reducible refine Follows.ite (fun _ => ?_) (fun _ => ?_)
    | (intro _; simp only [updFirst_length, updAll_length, updAt_length, List.length_map, List.length_replicate, List.length_range, and_self])
    | with_reducible exact ⟨rfl, rfl, rfl⟩
    | with_reducible exact ⟨rfl, rfl⟩
    | with_reducible rfl
    | with_reducible exact Nat.le_refl _
    | intro _
    | split

theorem Follows.tileDeal {b0 : State} {s : State} {q : Nat} {copy : Nat} (hb0 : Follows b0 s) : Follows b0 (State.tileDeal s q copy) := by
  unfold State.tileDeal
  try dsimp only
  repeat' first
    | with_reducible assumption
    | with_reducible apply Follows.queueMap
    | with_reducible apply Follows.engineMap
    | with_reducible apply Follows.issue
    | with_reducible apply Follows.restEngines
    | with_reducible refine Follows.sweepMap ?_ (fun _ => ⟨rfl, rfl, rfl⟩)
    | with_reducible apply Follows.sweepMap
    | with_reducible apply Follows.when
    | with_reducible apply Follows.each
    | with_reducible refine Follows.ite (fun _ => ?_) (fun _ => ?_)
    | (intro _; simp only [updFirst_length, updAll_length, updAt_length, List.length_map, List.length_replicate, List.length_range, and_self])
    | with_reducible exact ⟨rfl, rfl, rfl⟩
    | with_reducible exact ⟨rfl, rfl⟩
    | with_reducible rfl
    | with_reducible exact Nat.le_refl _
    | intro _
    | split

theorem Follows.fillTile {b0 : State} {s : State} {e : Nat} {h : Shelf} {t : Tile} {g : Nat} (hb0 : Follows b0 s) : Follows b0 (State.fillTile s e h t g) := by
  unfold State.fillTile
  try dsimp only
  repeat' first
    | with_reducible assumption
    | with_reducible apply Follows.engineMap
    | with_reducible apply Follows.bump
    | with_reducible apply Follows.each
    | with_reducible refine Follows.ite (fun _ => ?_) (fun _ => ?_)
    | intro _
    | split

theorem Follows.fillNorms {b0 : State} {s : State} {e : Nat} {h : Shelf} {t : Tile} (hb0 : Follows b0 s) : Follows b0 (State.fillNorms s e h t) := by
  unfold State.fillNorms
  try dsimp only
  repeat' first
    | with_reducible assumption
    | with_reducible apply Follows.engineMap
    | with_reducible apply Follows.each
    | with_reducible refine Follows.ite (fun _ => ?_) (fun _ => ?_)
    | intro _
    | split

theorem Follows.tileStart {b0 : State} {s : State} {e : Nat} {slot : Nat} (hb0 : Follows b0 s) : Follows b0 (State.tileStart s e slot) := by
  unfold State.tileStart
  try dsimp only
  repeat' first
    | with_reducible assumption
    | with_reducible apply Follows.engineMap
    | with_reducible apply Follows.fillNorms
    | with_reducible apply Follows.fillTile
    | with_reducible refine Follows.ite (fun _ => ?_) (fun _ => ?_)
    | intro _
    | split

theorem Follows.clusterMap {b0 : State} {s : State} {c : Nat} {f : Cluster → Cluster} (hb0 : Follows b0 s) : Follows b0 (State.clusterMap s c f) := by
  unfold State.clusterMap
  try dsimp only
  repeat' first
    | with_reducible assumption
    | with_reducible refine Follows.sweepMap ?_ (fun _ => ⟨rfl, rfl, rfl⟩)
    | with_reducible apply Follows.sweepMap
    | with_reducible refine Follows.ite (fun _ => ?_) (fun _ => ?_)
    | (intro _; simp only [updFirst_length, updAll_length, updAt_length, List.length_map, List.length_replicate, List.length_range, and_self])
    | with_reducible exact ⟨rfl, rfl, rfl⟩
    | with_reducible exact ⟨rfl, rfl⟩
    | with_reducible rfl
    | with_reducible exact Nat.le_refl _
    | intro _

theorem Follows.writeCuts {b0 : State} {s : State} {c : Nat} {cid : Nat} (hb0 : Follows b0 s) : Follows b0 (State.writeCuts s c cid) := by
  unfold State.writeCuts
  try dsimp only
  repeat' first
    | with_reducible assumption
    | with_reducible apply Follows.clusterMap
    | with_reducible refine Follows.ite (fun _ => ?_) (fun _ => ?_)
    | intro _
    | split

theorem Follows.drainGroup {b0 : State} {s : State} {e : Nat} {h : Shelf} {t : Tile} {g : Nat} (hb0 : Follows b0 s) : Follows b0 (State.drainGroup s e h t g) := by
  unfold State.drainGroup
  try dsimp only
  repeat' first
    | with_reducible assumption
    | with_reducible apply Follows.clusterMap
    | with_reducible apply Follows.runsMap
    | with_reducible refine Follows.ite (fun _ => ?_) (fun _ => ?_)
    | intro _
    | split

theorem Follows.chainCombine {b0 : State} {s : State} {e : Nat} {t : Tile} {mask : Nat} (hb0 : Follows b0 s) : Follows b0 (State.chainCombine s e t mask) := by
  unfold State.chainCombine
  try dsimp only
  repeat' first
    | with_reducible assumption
    | with_reducible apply Follows.engineMap
    | with_reducible apply Follows.foldl
    | with_reducible refine Follows.ite (fun _ => ?_) (fun _ => ?_)
    | intro _

theorem Follows.chainPass {b0 : State} {s : State} {e : Nat} {next : Nat} {t : Tile} (hb0 : Follows b0 s) : Follows b0 (State.chainPass s e next t) := by
  unfold State.chainPass
  try dsimp only
  repeat' first
    | with_reducible assumption
    | with_reducible apply Follows.engineMap
    | with_reducible apply Follows.foldl
    | with_reducible refine Follows.ite (fun _ => ?_) (fun _ => ?_)
    | intro _

theorem Follows.tileDone {b0 : State} {s : State} {e : Nat} {t : Tile} (hb0 : Follows b0 s) : Follows b0 (State.tileDone s e t) := by
  unfold State.tileDone
  try dsimp only
  repeat' first
    | with_reducible assumption
    | with_reducible apply Follows.engineMap
    | with_reducible apply Follows.restEngines
    | with_reducible apply Follows.ev
    | with_reducible apply Follows.bump
    | with_reducible apply Follows.when
    | with_reducible refine Follows.ite (fun _ => ?_) (fun _ => ?_)
    | intro _

theorem Follows.chainDrain {b0 : State} {s : State} {e : Nat} {h : Shelf} {t : Tile} {chain : List Nat} (hb0 : Follows b0 s) : Follows b0 (State.chainDrain s e h t chain) := by
  unfold State.chainDrain
  try dsimp only
  repeat' first
    | with_reducible assumption
    | with_reducible apply Follows.chainCombine
    | with_reducible apply Follows.chainPass
    | with_reducible apply Follows.drainGroup
    | with_reducible apply Follows.tileDone
    | with_reducible apply Follows.bump
    | with_reducible apply Follows.when
    | with_reducible refine Follows.ite (fun _ => ?_) (fun _ => ?_)
    | intro _
    | split

theorem Follows.outputTileDrain {b0 : State} {s : State} {e : Nat} (hb0 : Follows b0 s) : Follows b0 (State.outputTileDrain s e) := by
  unfold State.outputTileDrain
  try dsimp only
  repeat' first
    | with_reducible assumption
    | with_reducible apply Follows.chainDrain
    | with_reducible apply Follows.drainGroup
    | with_reducible apply Follows.engineMap
    | with_reducible apply Follows.tileDone
    | with_reducible apply Follows.fillTile
    | with_reducible apply Follows.bump
    | with_reducible refine Follows.ite (fun _ => ?_) (fun _ => ?_)
    | intro _
    | split

theorem Follows.resolveLargest {b0 : State} {s : State} {c : Nat} (hb0 : Follows b0 s) : Follows b0 (State.resolveLargest s c) := by
  unfold State.resolveLargest
  try dsimp only
  repeat' first
    | with_reducible assumption
    | with_reducible apply Follows.runMap
    | with_reducible apply Follows.clusterMap
    | with_reducible apply Follows.ev
    | with_reducible apply Follows.bump
    | with_reducible apply Follows.when
    | with_reducible apply Follows.foldl
    | with_reducible refine Follows.ite (fun _ => ?_) (fun _ => ?_)
    | intro _
    | split

theorem Follows.drainPair {b0 : State} {s : State} {c : Nat} (hb0 : Follows b0 s) : Follows b0 (State.drainPair s c) := by
  unfold State.drainPair
  try dsimp only
  repeat' first
    | with_reducible assumption
    | with_reducible apply Follows.clusterMap
    | with_reducible apply Follows.runMap
    | with_reducible apply Follows.writeCuts
    | with_reducible apply Follows.resolveLargest
    | with_reducible apply Follows.bumpSet
    | with_reducible apply Follows.when
    | with_reducible refine Follows.ite (fun _ => ?_) (fun _ => ?_)
    | intro _
    | split

theorem Follows.loadMoved {b0 : State} {s : State} {m : Moved} (hb0 : Follows b0 s) : Follows b0 (State.loadMoved s m) := by
  unfold State.loadMoved
  try dsimp only
  repeat' first
    | with_reducible assumption
    | with_reducible apply Follows.loadGroup
    | with_reducible apply Follows.engineMap
    | with_reducible apply Follows.writeCuts
    | with_reducible apply Follows.takeTables
    | with_reducible apply Follows.when
    | with_reducible apply Follows.each
    | with_reducible refine Follows.ite (fun _ => ?_) (fun _ => ?_)
    | intro _
    | split

theorem Follows.erstEngine {b0 : State} {s : State} {e : Nat} (hb0 : Follows b0 s) : Follows b0 (State.erstEngine s e) := by
  unfold State.erstEngine
  try dsimp only
  repeat' first
    | with_reducible assumption
    | with_reducible refine Follows.sweepSet ?_ (fun x hx => ⟨hx.1, hx.2.1, by simp [hx.2.2]⟩)
    | with_reducible apply Follows.engineMap
    | with_reducible apply Follows.loadMoved
    | with_reducible apply Follows.runsMap
    | with_reducible apply Follows.restEngines
    | with_reducible apply Follows.wr
    | with_reducible apply Follows.ev
    | with_reducible apply Follows.bumpSet
    | with_reducible refine Follows.clkMap ?_ (fun _ => Nat.le_refl _)
    | with_reducible apply Follows.clkMap
    | with_reducible refine Follows.sweepMap ?_ (fun _ => ⟨rfl, rfl, rfl⟩)
    | with_reducible apply Follows.sweepMap
    | with_reducible apply Follows.when
    | with_reducible apply Follows.each
    | with_reducible refine Follows.ite (fun _ => ?_) (fun _ => ?_)
    | (intro _; simp only [updFirst_length, updAll_length, updAt_length, List.length_map, List.length_replicate, List.length_range, and_self])
    | with_reducible exact ⟨rfl, rfl, rfl⟩
    | with_reducible exact ⟨rfl, rfl⟩
    | with_reducible rfl
    | with_reducible exact Nat.le_refl _
    | intro _
    | split

theorem Follows.loseTiles {b0 : State} {s : State} {ts : List Tile} (hb0 : Follows b0 s) : Follows b0 (State.loseTiles s ts) := by
  unfold State.loseTiles
  try dsimp only
  repeat' first
    | with_reducible assumption
    | with_reducible apply Follows.runsMap
    | with_reducible apply Follows.each
    | with_reducible refine Follows.ite (fun _ => ?_) (fun _ => ?_)
    | intro _
    | split

theorem Follows.protectionPoint {b0 : State} {s : State} (hb0 : Follows b0 s) : Follows b0 (State.protectionPoint s) := by
  unfold State.protectionPoint
  try dsimp only
  repeat' first
    | with_reducible assumption
    | with_reducible apply Follows.loseTiles
    | with_reducible apply Follows.restEngines
    | with_reducible apply Follows.ev
    | with_reducible refine Follows.sweepMap ?_ (fun _ => ⟨rfl, rfl, rfl⟩)
    | with_reducible apply Follows.sweepMap
    | with_reducible apply Follows.when
    | with_reducible refine Follows.ite (fun _ => ?_) (fun _ => ?_)
    | (intro _; simp only [updFirst_length, updAll_length, updAt_length, List.length_map, List.length_replicate, List.length_range, and_self])
    | with_reducible exact ⟨rfl, rfl, rfl⟩
    | with_reducible exact ⟨rfl, rfl⟩
    | with_reducible rfl
    | with_reducible exact Nat.le_refl _
    | intro _
    | split

end Sys2Proof.Machine
end

