-- ==== Sys2Proof/Laws/FollowsPoint.lean ====
section
/-!
SUPPORT. The operations of Machine/Point.lean keep what `Follows` says.
-/
namespace Sys2Proof.Machine

theorem Follows.pointDone {b0 : State} {s : State} {c : Cmd} {bytes : Bytes} {status : Nat} {found : Nat} (hb0 : Follows b0 s) : Follows b0 (State.pointDone s c bytes status found) := by
  unfold State.pointDone
  try dsimp only
  repeat' first
    | with_reducible assumption
    | with_reducible apply Follows.reply
    | with_reducible apply Follows.complete
    | with_reducible refine Follows.ite (fun _ => ?_) (fun _ => ?_)

theorem Follows.issuePoint {b0 : State} {s : State} {cid : Nat} {p : Nat × Nat} (hb0 : Follows b0 s) : Follows b0 (State.issuePoint s cid p) := by
  unfold State.issuePoint
  try dsimp only
  repeat' first
    | with_reducible assumption
    | with_reducible apply Follows.issue
    | with_reducible apply Follows.spend
    | with_reducible refine Follows.memMap ?_ (fun _ => rfl)
    | with_reducible apply Follows.memMap
    | with_reducible refine Follows.ite (fun _ => ?_) (fun _ => ?_)
    | (intro _; simp only [updFirst_length, updAll_length, updAt_length, List.length_map, List.length_replicate, List.length_range, and_self])
    | with_reducible exact ⟨rfl, rfl, rfl⟩
    | with_reducible exact ⟨rfl, rfl⟩
    | with_reducible rfl
    | with_reducible exact Nat.le_refl _
    | intro _

theorem Follows.holdPoint {b0 : State} {s : State} {c : Cmd} {h : Shelf} (hb0 : Follows b0 s) : Follows b0 (State.holdPoint s c h) := by
  unfold State.holdPoint
  try dsimp only
  repeat' first
    | with_reducible assumption
    | with_reducible apply Follows.cmdMap
    | with_reducible refine Follows.ite (fun _ => ?_) (fun _ => ?_)
    | intro _

theorem Follows.pointServe {b0 : State} {s : State} {c : Cmd} {h : Shelf} (hb0 : Follows b0 s) : Follows b0 (State.pointServe s c h) := by
  unfold State.pointServe
  try dsimp only
  repeat' first
    | with_reducible assumption
    | with_reducible apply Follows.pointDone
    | with_reducible apply Follows.refuse
    | with_reducible apply Follows.holdPoint
    | with_reducible apply Follows.cmdMap
    | with_reducible apply Follows.issuePoint
    | with_reducible apply Follows.bump
    | with_reducible apply Follows.each
    | with_reducible refine Follows.ite (fun _ => ?_) (fun _ => ?_)
    | intro _
    | split

theorem Follows.pointPart {b0 : State} {s : State} {cid : Nat} {lost : Bool} (hb0 : Follows b0 s) : Follows b0 (State.pointPart s cid lost) := by
  unfold State.pointPart
  try dsimp only
  repeat' first
    | with_reducible assumption
    | with_reducible apply Follows.cmdMap
    | with_reducible apply Follows.pointDone
    | with_reducible refine Follows.ite (fun _ => ?_) (fun _ => ?_)
    | intro _
    | split

theorem Follows.servePoints {b0 : State} {s : State} (hb0 : Follows b0 s) : Follows b0 (State.servePoints s) := by
  unfold State.servePoints
  try dsimp only
  repeat' first
    | with_reducible assumption
    | with_reducible apply Follows.pointServe
    | with_reducible apply Follows.refuse
    | with_reducible apply Follows.each
    | with_reducible refine Follows.ite (fun _ => ?_) (fun _ => ?_)
    | intro _
    | split

end Sys2Proof.Machine
end

