-- ==== Sys2Proof/Laws/FollowsRerank.lean ====
section
/-!
SUPPORT. The operations of Machine/Rerank.lean keep what `Follows` says.
-/
namespace Sys2Proof.Machine

theorem Follows.markOverrun {b0 : State} {s : State} {r : Run} (hb0 : Follows b0 s) : Follows b0 (State.markOverrun s r) := by
  unfold State.markOverrun
  try dsimp only
  repeat' first
    | with_reducible assumption
    | with_reducible apply Follows.ev
    | with_reducible refine Follows.clkMap ?_ (fun _ => Nat.le_refl _)
    | with_reducible apply Follows.clkMap
    | with_reducible refine Follows.ite (fun _ => ?_) (fun _ => ?_)
    | (intro _; simp only [updFirst_length, updAll_length, updAt_length, List.length_map, List.length_replicate, List.length_range, and_self])
    | with_reducible exact ⟨rfl, rfl, rfl⟩
    | with_reducible exact ⟨rfl, rfl⟩
    | with_reducible rfl
    | with_reducible exact Nat.le_refl _
    | intro _

theorem Follows.freeVoice {b0 : State} {s : State} {cid : Nat} (hb0 : Follows b0 s) : Follows b0 (State.freeVoice s cid) := by
  unfold State.freeVoice
  try dsimp only
  repeat' first
    | with_reducible assumption
    | with_reducible refine Follows.rrMap ?_ (fun _ => rfl)
    | with_reducible apply Follows.rrMap
    | with_reducible refine Follows.ite (fun _ => ?_) (fun _ => ?_)
    | (intro _; simp only [updFirst_length, updAll_length, updAt_length, List.length_map, List.length_replicate, List.length_range, and_self])
    | with_reducible exact ⟨rfl, rfl, rfl⟩
    | with_reducible exact ⟨rfl, rfl⟩
    | with_reducible rfl
    | with_reducible exact Nat.le_refl _
    | intro _

theorem Follows.postResult {b0 : State} {s : State} {cid : Nat} (hb0 : Follows b0 s) : Follows b0 (State.postResult s cid) := by
  unfold State.postResult
  try dsimp only
  repeat' first
    | with_reducible assumption
    | with_reducible apply Follows.spend
    | with_reducible apply Follows.post
    | with_reducible apply Follows.markOverrun
    | with_reducible apply Follows.complete
    | with_reducible apply Follows.runMap
    | with_reducible apply Follows.freeVoice
    | with_reducible apply Follows.bump
    | with_reducible apply Follows.bumpSet
    | with_reducible apply Follows.when
    | with_reducible refine Follows.ite (fun _ => ?_) (fun _ => ?_)
    | intro _
    | split

theorem Follows.finishRun {b0 : State} {s : State} {cid : Nat} (hb0 : Follows b0 s) : Follows b0 (State.finishRun s cid) := by
  unfold State.finishRun
  try dsimp only
  repeat' first
    | with_reducible assumption
    | with_reducible apply Follows.runMap
    | with_reducible apply Follows.postResult
    | with_reducible refine Follows.ite (fun _ => ?_) (fun _ => ?_)
    | intro _
    | split

theorem Follows.openBackground {b0 : State} {s : State} (hb0 : Follows b0 s) : Follows b0 (State.openBackground s) := by
  unfold State.openBackground
  try dsimp only
  repeat' first
    | with_reducible assumption
    | with_reducible apply Follows.freeSuperseded
    | with_reducible apply Follows.releaseDropped
    | with_reducible apply Follows.servePoints
    | with_reducible refine Follows.clkMap ?_ (fun _ => Nat.le_refl _)
    | with_reducible apply Follows.clkMap
    | with_reducible refine Follows.ite (fun _ => ?_) (fun _ => ?_)
    | (intro _; simp only [updFirst_length, updAll_length, updAt_length, List.length_map, List.length_replicate, List.length_range, and_self])
    | with_reducible exact ⟨rfl, rfl, rfl⟩
    | with_reducible exact ⟨rfl, rfl⟩
    | with_reducible rfl
    | with_reducible exact Nat.le_refl _
    | intro _
    | split

theorem Follows.endRerank {b0 : State} {s : State} (hb0 : Follows b0 s) : Follows b0 (State.endRerank s) := by
  unfold State.endRerank
  try dsimp only
  repeat' first
    | with_reducible assumption
    | with_reducible apply Follows.openBackground
    | with_reducible apply Follows.bumpSet
    | with_reducible refine Follows.clkMap ?_ (fun _ => Nat.le_refl _)
    | with_reducible apply Follows.clkMap
    | with_reducible refine Follows.ite (fun _ => ?_) (fun _ => ?_)
    | (intro _; simp only [updFirst_length, updAll_length, updAt_length, List.length_map, List.length_replicate, List.length_range, and_self])
    | with_reducible exact ⟨rfl, rfl, rfl⟩
    | with_reducible exact ⟨rfl, rfl⟩
    | with_reducible rfl
    | with_reducible exact Nat.le_refl _
    | intro _
    | split

theorem Follows.reduceStats {b0 : State} {s : State} {h : Shelf} {c : Cmd} (hb0 : Follows b0 s) : Follows b0 (State.reduceStats s h c) := by
  unfold State.reduceStats
  try dsimp only
  repeat' first
    | with_reducible assumption
    | with_reducible apply Follows.runMap
    | with_reducible apply Follows.foldl
    | with_reducible refine Follows.ite (fun _ => ?_) (fun _ => ?_)
    | intro _
    | split

theorem Follows.codaFinish {b0 : State} {s : State} (hb0 : Follows b0 s) : Follows b0 (State.codaFinish s) := by
  unfold State.codaFinish
  try dsimp only
  repeat' first
    | with_reducible assumption
    | with_reducible apply Follows.runMap
    | with_reducible apply Follows.reduceStats
    | with_reducible apply Follows.finishRun
    | with_reducible apply Follows.ev
    | with_reducible apply Follows.bump
    | with_reducible apply Follows.measured
    | with_reducible refine Follows.sweepMap ?_ (fun _ => ⟨rfl, rfl, rfl⟩)
    | with_reducible apply Follows.sweepMap
    | with_reducible apply Follows.when
    | with_reducible apply Follows.each
    | with_reducible refine Follows.ite (fun _ => ?_) (fun _ => ?_)
    | (intro _; simp only [updFirst_length, updAll_length, updAt_length, List.length_map, List.length_replicate, List.length_range, and_self])
    | with_reducible exact ⟨rfl, rfl, rfl⟩
    | with_reducible exact ⟨rfl, rfl⟩
    | with_reducible rfl
    | with_reducible exact Nat.le_refl _
    | intro _
    | split

theorem Follows.voiceMap {b0 : State} {s : State} {cid : Nat} {f : Voice → Voice} (hb0 : Follows b0 s) : Follows b0 (State.voiceMap s cid f) := by
  unfold State.voiceMap
  try dsimp only
  repeat' first
    | with_reducible assumption
    | with_reducible refine Follows.rrMap ?_ (fun _ => rfl)
    | with_reducible apply Follows.rrMap
    | with_reducible refine Follows.ite (fun _ => ?_) (fun _ => ?_)
    | (intro _; simp only [updFirst_length, updAll_length, updAt_length, List.length_map, List.length_replicate, List.length_range, and_self])
    | with_reducible exact ⟨rfl, rfl, rfl⟩
    | with_reducible exact ⟨rfl, rfl⟩
    | with_reducible rfl
    | with_reducible exact Nat.le_refl _
    | intro _

theorem Follows.spillFlush {b0 : State} {s : State} {cid : Nat} {seg : Nat} (hb0 : Follows b0 s) : Follows b0 (State.spillFlush s cid seg) := by
  unfold State.spillFlush
  try dsimp only
  repeat' first
    | with_reducible assumption
    | with_reducible apply Follows.voiceMap
    | with_reducible apply Follows.issueWrite
    | with_reducible refine Follows.rrMap ?_ (fun _ => rfl)
    | with_reducible apply Follows.rrMap
    | with_reducible refine Follows.ite (fun _ => ?_) (fun _ => ?_)
    | (intro _; simp only [updFirst_length, updAll_length, updAt_length, List.length_map, List.length_replicate, List.length_range, and_self])
    | with_reducible exact ⟨rfl, rfl, rfl⟩
    | with_reducible exact ⟨rfl, rfl⟩
    | with_reducible rfl
    | with_reducible exact Nat.le_refl _
    | intro _
    | split

theorem Follows.spillPut {b0 : State} {s : State} {cid : Nat} {seg : Nat} {j : Nat} {word : Nat} (hb0 : Follows b0 s) : Follows b0 (State.spillPut s cid seg j word) := by
  unfold State.spillPut
  try dsimp only
  repeat' first
    | with_reducible assumption
    | with_reducible apply Follows.spillFlush
    | with_reducible apply Follows.voiceMap
    | with_reducible apply Follows.bump
    | with_reducible apply Follows.when
    | with_reducible refine Follows.ite (fun _ => ?_) (fun _ => ?_)
    | intro _
    | split

theorem Follows.loseCand {b0 : State} {s : State} {cid : Nat} {i : Nat} (hb0 : Follows b0 s) : Follows b0 (State.loseCand s cid i) := by
  unfold State.loseCand
  try dsimp only
  repeat' first
    | with_reducible assumption
    | with_reducible apply Follows.voiceMap
    | with_reducible apply Follows.runMap
    | with_reducible refine Follows.ite (fun _ => ?_) (fun _ => ?_)
    | intro _

theorem Follows.issueFarLost {b0 : State} {s : State} {c : Client} (hb0 : Follows b0 s) : Follows b0 (State.issueFarLost s c) := by
  unfold State.issueFarLost
  try dsimp only
  repeat' first
    | with_reducible assumption
    | with_reducible apply Follows.issue
    | with_reducible refine Follows.rrMap ?_ (fun _ => rfl)
    | with_reducible apply Follows.rrMap
    | with_reducible refine Follows.ite (fun _ => ?_) (fun _ => ?_)
    | (intro _; simp only [updFirst_length, updAll_length, updAt_length, List.length_map, List.length_replicate, List.length_range, and_self])
    | with_reducible exact ⟨rfl, rfl, rfl⟩
    | with_reducible exact ⟨rfl, rfl⟩
    | with_reducible rfl
    | with_reducible exact Nat.le_refl _
    | intro _

theorem Follows.issueRecord {b0 : State} {s : State} {h : Shelf} {c : Cand} {g : Nat} {cl : Client} (hb0 : Follows b0 s) : Follows b0 (State.issueRecord s h c g cl) := by
  unfold State.issueRecord
  try dsimp only
  repeat' first
    | with_reducible assumption
    | with_reducible apply Follows.issue
    | with_reducible apply Follows.readHost
    | with_reducible apply Follows.issueFarLost
    | with_reducible refine Follows.ite (fun _ => ?_) (fun _ => ?_)
    | split

theorem Follows.issueOne {b0 : State} {s : State} {cid : Nat} (hb0 : Follows b0 s) : Follows b0 (State.issueOne s cid) := by
  unfold State.issueOne
  try dsimp only
  repeat' first
    | with_reducible assumption
    | with_reducible apply Follows.issue
    | with_reducible apply Follows.voiceMap
    | with_reducible apply Follows.issueRecord
    | with_reducible apply Follows.bump
    | with_reducible apply Follows.when
    | with_reducible refine Follows.ite (fun _ => ?_) (fun _ => ?_)
    | intro _
    | split

theorem Follows.issueAll {b0 : State} {s : State} {cid : Nat} (hb0 : Follows b0 s) : Follows b0 (State.issueAll s cid) := by
  unfold State.issueAll
  try dsimp only
  repeat' first
    | with_reducible assumption
    | with_reducible apply Follows.issueOne
    | with_reducible apply Follows.foldl
    | with_reducible refine Follows.ite (fun _ => ?_) (fun _ => ?_)
    | intro _

theorem Follows.issueEvery {b0 : State} {s : State} (hb0 : Follows b0 s) : Follows b0 (State.issueEvery s) := by
  unfold State.issueEvery
  try dsimp only
  repeat' first
    | with_reducible assumption
    | with_reducible apply Follows.issueAll
    | with_reducible apply Follows.each
    | with_reducible refine Follows.ite (fun _ => ?_) (fun _ => ?_)
    | intro _

theorem Follows.makeReady {b0 : State} {s : State} {cid : Nat} (hb0 : Follows b0 s) : Follows b0 (State.makeReady s cid) := by
  unfold State.makeReady
  try dsimp only
  repeat' first
    | with_reducible assumption
    | with_reducible apply Follows.voiceMap
    | with_reducible refine Follows.ite (fun _ => ?_) (fun _ => ?_)
    | intro _
    | split

theorem Follows.dropQuery {b0 : State} {s : State} {cid : Nat} (hb0 : Follows b0 s) : Follows b0 (State.dropQuery s cid) := by
  unfold State.dropQuery
  try dsimp only
  repeat' first
    | with_reducible assumption
    | with_reducible refine Follows.rrMap ?_ (fun _ => rfl)
    | with_reducible apply Follows.rrMap
    | with_reducible refine Follows.ite (fun _ => ?_) (fun _ => ?_)
    | (intro _; simp only [updFirst_length, updAll_length, updAt_length, List.length_map, List.length_replicate, List.length_range, and_self])
    | with_reducible exact ⟨rfl, rfl, rfl⟩
    | with_reducible exact ⟨rfl, rfl⟩
    | with_reducible rfl
    | with_reducible exact Nat.le_refl _
    | intro _

theorem Follows.voiceDone {b0 : State} {s : State} {cid : Nat} (hb0 : Follows b0 s) : Follows b0 (State.voiceDone s cid) := by
  unfold State.voiceDone
  try dsimp only
  repeat' first
    | with_reducible assumption
    | with_reducible apply Follows.voiceMap
    | with_reducible apply Follows.dropQuery
    | with_reducible apply Follows.finishRun
    | with_reducible apply Follows.endRerank
    | with_reducible apply Follows.bumpSet
    | with_reducible refine Follows.rrMap ?_ (fun _ => rfl)
    | with_reducible apply Follows.rrMap
    | with_reducible refine Follows.ite (fun _ => ?_) (fun _ => ?_)
    | (intro _; simp only [updFirst_length, updAll_length, updAt_length, List.length_map, List.length_replicate, List.length_range, and_self])
    | with_reducible exact ⟨rfl, rfl, rfl⟩
    | with_reducible exact ⟨rfl, rfl⟩
    | with_reducible rfl
    | with_reducible exact Nat.le_refl _
    | intro _
    | split

theorem Follows.keyCand {b0 : State} {s : State} {h : Shelf} {c : Cmd} {i : Nat} (hb0 : Follows b0 s) : Follows b0 (State.keyCand s h c i) := by
  unfold State.keyCand
  try dsimp only
  repeat' first
    | with_reducible assumption
    | with_reducible apply Follows.loseCand
    | with_reducible apply Follows.voiceMap
    | with_reducible apply Follows.runMap
    | with_reducible refine Follows.ite (fun _ => ?_) (fun _ => ?_)
    | intro _
    | split

theorem Follows.planRecords {b0 : State} {s : State} {h : Shelf} {cid : Nat} (hb0 : Follows b0 s) : Follows b0 (State.planRecords s h cid) := by
  unfold State.planRecords
  try dsimp only
  repeat' first
    | with_reducible assumption
    | with_reducible apply Follows.voiceMap
    | with_reducible apply Follows.issueAll
    | with_reducible apply Follows.makeReady
    | with_reducible apply Follows.voiceDone
    | with_reducible refine Follows.ite (fun _ => ?_) (fun _ => ?_)
    | intro _
    | split

theorem Follows.unitMap {b0 : State} {s : State} {u : Nat} {f : RUnit → RUnit} (hb0 : Follows b0 s) : Follows b0 (State.unitMap s u f) := by
  unfold State.unitMap
  try dsimp only
  repeat' first
    | with_reducible assumption
    | with_reducible refine Follows.rrMap ?_ (fun _ => rfl)
    | with_reducible apply Follows.rrMap
    | with_reducible refine Follows.ite (fun _ => ?_) (fun _ => ?_)
    | (intro _; simp only [updFirst_length, updAll_length, updAt_length, List.length_map, List.length_replicate, List.length_range, and_self])
    | with_reducible exact ⟨rfl, rfl, rfl⟩
    | with_reducible exact ⟨rfl, rfl⟩
    | with_reducible rfl
    | with_reducible exact Nat.le_refl _
    | intro _

theorem Follows.sendCand {b0 : State} {s : State} {h : Shelf} {c : Cmd} {i : Nat} {x : Cand} {nq : Nat} {g : Int} {v : Int} (hb0 : Follows b0 s) : Follows b0 (State.sendCand s h c i x nq g v) := by
  unfold State.sendCand
  try dsimp only
  repeat' first
    | with_reducible assumption
    | with_reducible apply Follows.voiceMap
    | with_reducible apply Follows.runMap
    | with_reducible refine Follows.ite (fun _ => ?_) (fun _ => ?_)
    | intro _
    | split

theorem Follows.accumulate {b0 : State} {s : State} {u : Nat} {h : Shelf} {c : Cmd} {i : Nat} {seg : Nat} {gr : Nat} {x : Cand} (hb0 : Follows b0 s) : Follows b0 (State.accumulate s u h c i seg gr x) := by
  unfold State.accumulate
  try dsimp only
  repeat' first
    | with_reducible assumption
    | with_reducible apply Follows.unitMap
    | with_reducible apply Follows.sendCand
    | with_reducible apply Follows.spillPut
    | with_reducible apply Follows.bump
    | with_reducible refine Follows.ite (fun _ => ?_) (fun _ => ?_)
    | intro _
    | split

theorem Follows.restore {b0 : State} {s : State} {u : Nat} {h : Shelf} {v : Voice} {i : Nat} {seg : Nat} {x : Cand} (hb0 : Follows b0 s) : Follows b0 (State.restore s u h v i seg x) := by
  unfold State.restore
  try dsimp only
  repeat' first
    | with_reducible assumption
    | with_reducible apply Follows.unitMap
    | with_reducible refine Follows.ite (fun _ => ?_) (fun _ => ?_)
    | intro _

theorem Follows.consume {b0 : State} {s : State} {u : Nat} {cid : Nat} (hb0 : Follows b0 s) : Follows b0 (State.consume s u cid) := by
  unfold State.consume
  try dsimp only
  repeat' first
    | with_reducible assumption
    | with_reducible apply Follows.voiceMap
    | with_reducible apply Follows.accumulate
    | with_reducible apply Follows.restore
    | with_reducible apply Follows.spillFlush
    | with_reducible apply Follows.when
    | with_reducible refine Follows.ite (fun _ => ?_) (fun _ => ?_)
    | intro _
    | split

theorem Follows.switchIn {b0 : State} {s : State} {u : Nat} {at_ : Nat} (hb0 : Follows b0 s) : Follows b0 (State.switchIn s u at_) := by
  unfold State.switchIn
  try dsimp only
  repeat' first
    | with_reducible assumption
    | with_reducible apply Follows.voiceMap
    | with_reducible apply Follows.unitMap
    | with_reducible apply Follows.bump
    | with_reducible refine Follows.rrMap ?_ (fun _ => rfl)
    | with_reducible apply Follows.rrMap
    | with_reducible refine Follows.ite (fun _ => ?_) (fun _ => ?_)
    | (intro _; simp only [updFirst_length, updAll_length, updAt_length, List.length_map, List.length_replicate, List.length_range, and_self])
    | with_reducible exact ⟨rfl, rfl, rfl⟩
    | with_reducible exact ⟨rfl, rfl⟩
    | with_reducible rfl
    | with_reducible exact Nat.le_refl _
    | intro _
    | split

theorem Follows.switchOut {b0 : State} {s : State} {u : Nat} {cid : Nat} (hb0 : Follows b0 s) : Follows b0 (State.switchOut s u cid) := by
  unfold State.switchOut
  try dsimp only
  repeat' first
    | with_reducible assumption
    | with_reducible apply Follows.voiceMap
    | with_reducible apply Follows.unitMap
    | with_reducible refine Follows.ite (fun _ => ?_) (fun _ => ?_)
    | intro _

theorem Follows.unitAct {b0 : State} {s : State} {u : Nat} (hb0 : Follows b0 s) : Follows b0 (State.unitAct s u) := by
  unfold State.unitAct
  try dsimp only
  repeat' first
    | with_reducible assumption
    | with_reducible apply Follows.switchIn
    | with_reducible apply Follows.unitMap
    | with_reducible apply Follows.consume
    | with_reducible apply Follows.issueAll
    | with_reducible apply Follows.issueEvery
    | with_reducible apply Follows.voiceDone
    | with_reducible apply Follows.voiceMap
    | with_reducible apply Follows.switchOut
    | with_reducible apply Follows.bump
    | with_reducible apply Follows.when
    | with_reducible refine Follows.ite (fun _ => ?_) (fun _ => ?_)
    | intro _
    | split

theorem Follows.unitsRun {b0 : State} (k t : Nat) {s : State} (hb0 : Follows b0 s) : Follows b0 (State.unitsRun k t s) := by
  induction k generalizing s with
  | zero => exact hb0
  | succ k ih =>
    unfold State.unitsRun
    split
    · exact hb0
    · split
      · exact hb0
      · refine ih (Follows.unitAct (Follows.clkMap hb0 (fun _ => ?_)))
        exact Nat.le_max_left _ _

theorem Follows.advance {b0 : State} {s : State} {t : Nat} (hb0 : Follows b0 s) : Follows b0 (State.advance s t) := by
  unfold State.advance
  split
  · exact hb0
  · refine Follows.clkMap ?_ (fun _ => ?_)
    rotate_left
    · exact Nat.le_max_left _ _
    split
    · exact Follows.unitsRun _ _ hb0
    · exact hb0

theorem Follows.loadQueries {b0 : State} {s : State} (hb0 : Follows b0 s) : Follows b0 (State.loadQueries s) := by
  unfold State.loadQueries
  try dsimp only
  repeat' first
    | with_reducible assumption
    | with_reducible refine Follows.rrMap ?_ (fun _ => rfl)
    | with_reducible apply Follows.rrMap
    | with_reducible apply Follows.each
    | with_reducible refine Follows.ite (fun _ => ?_) (fun _ => ?_)
    | (intro _; simp only [updFirst_length, updAll_length, updAt_length, List.length_map, List.length_replicate, List.length_range, and_self])
    | with_reducible exact ⟨rfl, rfl, rfl⟩
    | with_reducible exact ⟨rfl, rfl⟩
    | with_reducible rfl
    | with_reducible exact Nat.le_refl _
    | intro _
    | split

theorem Follows.startVoice {b0 : State} {s : State} {h : Shelf} {c : Cmd} {cands : List ClEnt} (hb0 : Follows b0 s) : Follows b0 (State.startVoice s h c cands) := by
  unfold State.startVoice
  try dsimp only
  repeat' first
    | with_reducible assumption
    | with_reducible apply Follows.issueAll
    | with_reducible apply Follows.planRecords
    | with_reducible refine Follows.rrMap ?_ (fun _ => rfl)
    | with_reducible apply Follows.rrMap
    | with_reducible refine Follows.ite (fun _ => ?_) (fun _ => ?_)
    | (intro _; simp only [updFirst_length, updAll_length, updAt_length, List.length_map, List.length_replicate, List.length_range, and_self])
    | with_reducible exact ⟨rfl, rfl, rfl⟩
    | with_reducible exact ⟨rfl, rfl⟩
    | with_reducible rfl
    | with_reducible exact Nat.le_refl _
    | intro _
    | split

theorem Follows.issueKey {b0 : State} {s : State} {h : Shelf} {cid : Nat} (hb0 : Follows b0 s) : Follows b0 (State.issueKey s h cid) := by
  unfold State.issueKey
  try dsimp only
  repeat' first
    | with_reducible assumption
    | with_reducible apply Follows.runMap
    | with_reducible apply Follows.issue
    | with_reducible apply Follows.bump
    | with_reducible apply Follows.when
    | with_reducible refine Follows.ite (fun _ => ?_) (fun _ => ?_)
    | intro _
    | split

theorem Follows.issueKeys {b0 : State} {s : State} {h : Shelf} {cid : Nat} (hb0 : Follows b0 s) : Follows b0 (State.issueKeys s h cid) := by
  unfold State.issueKeys
  try dsimp only
  repeat' first
    | with_reducible assumption
    | with_reducible apply Follows.issueKey
    | with_reducible apply Follows.each
    | with_reducible refine Follows.ite (fun _ => ?_) (fun _ => ?_)
    | intro _

theorem Follows.nextKeys {b0 : State} {s : State} (hb0 : Follows b0 s) : Follows b0 (State.nextKeys s) := by
  unfold State.nextKeys
  try dsimp only
  repeat' first
    | with_reducible assumption
    | with_reducible apply Follows.issueKeys
    | with_reducible apply Follows.each
    | with_reducible refine Follows.ite (fun _ => ?_) (fun _ => ?_)
    | intro _
    | split

theorem Follows.startKeys {b0 : State} {s : State} {h : Shelf} {c : Cmd} {cands : List ClEnt} (hb0 : Follows b0 s) : Follows b0 (State.startKeys s h c cands) := by
  unfold State.startKeys
  try dsimp only
  repeat' first
    | with_reducible assumption
    | with_reducible apply Follows.runMap
    | with_reducible apply Follows.finishRun
    | with_reducible apply Follows.issueKeys
    | with_reducible refine Follows.ite (fun _ => ?_) (fun _ => ?_)
    | intro _
    | split

theorem Follows.handOver {b0 : State} {s : State} {i : Item} {cands : List ClEnt} (hb0 : Follows b0 s) : Follows b0 (State.handOver s i cands) := by
  unfold State.handOver
  try dsimp only
  repeat' first
    | with_reducible assumption
    | with_reducible apply Follows.finishRun
    | with_reducible apply Follows.startVoice
    | with_reducible apply Follows.startKeys
    | with_reducible refine Follows.ite (fun _ => ?_) (fun _ => ?_)
    | split

theorem Follows.barrier {b0 : State} {s : State} (hb0 : Follows b0 s) : Follows b0 (State.barrier s) := by
  unfold State.barrier
  try dsimp only
  repeat' first
    | with_reducible assumption
    | with_reducible refine Follows.rrSet ?_ (fun _ _ => List.length_replicate)
    | with_reducible apply Follows.handOver
    | with_reducible apply Follows.endRerank
    | with_reducible apply Follows.bumpSet
    | with_reducible apply Follows.measured
    | with_reducible refine Follows.clkMap ?_ (fun _ => Nat.le_refl _)
    | with_reducible apply Follows.clkMap
    | with_reducible refine Follows.rrMap ?_ (fun _ => rfl)
    | with_reducible apply Follows.rrMap
    | with_reducible apply Follows.each
    | with_reducible refine Follows.ite (fun _ => ?_) (fun _ => ?_)
    | (intro _; simp only [updFirst_length, updAll_length, updAt_length, List.length_map, List.length_replicate, List.length_range, and_self])
    | with_reducible exact ⟨rfl, rfl, rfl⟩
    | with_reducible exact ⟨rfl, rfl⟩
    | with_reducible rfl
    | with_reducible exact Nat.le_refl _
    | intro _
    | split

theorem Follows.codaKey {b0 : State} {s : State} {h : Shelf} {c : Cmd} {i : Nat} {lost : Bool} (hb0 : Follows b0 s) : Follows b0 (State.codaKey s h c i lost) := by
  unfold State.codaKey
  try dsimp only
  repeat' first
    | with_reducible assumption
    | with_reducible apply Follows.runMap
    | with_reducible apply Follows.nextKeys
    | with_reducible apply Follows.finishRun
    | with_reducible apply Follows.endRerank
    | with_reducible refine Follows.ite (fun _ => ?_) (fun _ => ?_)
    | intro _
    | split

theorem Follows.landFor {b0 : State} {s : State} {far : Bool} {lost : Bool} {cl : Client} (hb0 : Follows b0 s) : Follows b0 (State.landFor s far lost cl) := by
  unfold State.landFor
  try dsimp only
  repeat' first
    | with_reducible assumption
    | with_reducible apply Follows.voiceMap
    | with_reducible apply Follows.loseCand
    | with_reducible apply Follows.keyCand
    | with_reducible apply Follows.issueAll
    | with_reducible apply Follows.planRecords
    | with_reducible apply Follows.makeReady
    | with_reducible apply Follows.codaKey
    | with_reducible apply Follows.ev
    | with_reducible apply Follows.when
    | with_reducible refine Follows.ite (fun _ => ?_) (fun _ => ?_)
    | intro _
    | split

theorem Follows.granuleLand {b0 : State} {s : State} {rid : Nat} {t : Nat} (hb0 : Follows b0 s) : Follows b0 (State.granuleLand s rid t) := by
  unfold State.granuleLand
  try dsimp only
  repeat' first
    | with_reducible assumption
    | with_reducible apply Follows.advance
    | with_reducible apply Follows.dropReq
    | with_reducible apply Follows.landFor
    | with_reducible apply Follows.issueEvery
    | with_reducible apply Follows.unitsRun
    | with_reducible apply Follows.when
    | with_reducible apply Follows.each
    | with_reducible refine Follows.ite (fun _ => ?_) (fun _ => ?_)
    | intro _
    | split

theorem Follows.freeSearch {b0 : State} {s : State} {c : Cmd} (hb0 : Follows b0 s) : Follows b0 (State.freeSearch s c) := by
  unfold State.freeSearch
  try dsimp only
  repeat' first
    | with_reducible assumption
    | with_reducible apply Follows.freeVoice
    | with_reducible apply Follows.codaKey
    | with_reducible apply Follows.runMap
    | with_reducible apply Follows.finishRun
    | with_reducible refine Follows.sweepMap ?_ (fun _ => ⟨rfl, rfl, rfl⟩)
    | with_reducible apply Follows.sweepMap
    | with_reducible refine Follows.rrMap ?_ (fun _ => rfl)
    | with_reducible apply Follows.rrMap
    | with_reducible refine Follows.ite (fun _ => ?_) (fun _ => ?_)
    | (intro _; simp only [updFirst_length, updAll_length, updAt_length, List.length_map, List.length_replicate, List.length_range, and_self])
    | with_reducible exact ⟨rfl, rfl, rfl⟩
    | with_reducible exact ⟨rfl, rfl⟩
    | with_reducible rfl
    | with_reducible exact Nat.le_refl _
    | intro _
    | split

theorem Follows.sliceExpire {b0 : State} {s : State} {u : Nat} {t : Nat} (hb0 : Follows b0 s) : Follows b0 (State.sliceExpire s u t) := by
  unfold State.sliceExpire
  try dsimp only
  repeat' first
    | with_reducible assumption
    | with_reducible apply Follows.advance
    | with_reducible apply Follows.voiceMap
    | with_reducible apply Follows.unitMap
    | with_reducible apply Follows.switchIn
    | with_reducible refine Follows.ite (fun _ => ?_) (fun _ => ?_)
    | intro _
    | split

theorem Follows.foregroundEnd {b0 : State} {s : State} (hb0 : Follows b0 s) : Follows b0 (State.foregroundEnd s) := by
  unfold State.foregroundEnd
  try dsimp only
  repeat' first
    | with_reducible assumption
    | with_reducible apply Follows.advance
    | with_reducible apply Follows.openBackground
    | with_reducible apply Follows.loseTiles
    | with_reducible apply Follows.runMap
    | with_reducible apply Follows.finishRun
    | with_reducible apply Follows.ev
    | with_reducible apply Follows.bumpSet
    | with_reducible refine Follows.clkMap ?_ (fun _ => Nat.le_refl _)
    | with_reducible apply Follows.clkMap
    | with_reducible refine Follows.sweepMap ?_ (fun _ => ⟨rfl, rfl, rfl⟩)
    | with_reducible apply Follows.sweepMap
    | with_reducible refine Follows.rrMap ?_ (fun _ => rfl)
    | with_reducible apply Follows.rrMap
    | with_reducible apply Follows.when
    | with_reducible apply Follows.each
    | with_reducible refine Follows.ite (fun _ => ?_) (fun _ => ?_)
    | (intro _; simp only [updFirst_length, updAll_length, updAt_length, List.length_map, List.length_replicate, List.length_range, and_self])
    | with_reducible exact ⟨rfl, rfl, rfl⟩
    | with_reducible exact ⟨rfl, rfl⟩
    | with_reducible rfl
    | with_reducible exact Nat.le_refl _
    | intro _
    | split

theorem Follows.reserveEndAct {b0 : State} {s : State} (hb0 : Follows b0 s) : Follows b0 (State.reserveEndAct s) := by
  unfold State.reserveEndAct
  try dsimp only
  repeat' first
    | with_reducible assumption
    | with_reducible apply Follows.advance
    | with_reducible apply Follows.sendPending
    | with_reducible apply Follows.each
    | with_reducible refine Follows.ite (fun _ => ?_) (fun _ => ?_)
    | intro _

theorem Follows.coalTimer {b0 : State} {s : State} {fn : Nat} {q : Nat} {t : Nat} (hb0 : Follows b0 s) : Follows b0 (State.coalTimer s fn q t) := by
  unfold State.coalTimer
  try dsimp only
  repeat' first
    | with_reducible assumption
    | with_reducible apply Follows.advance
    | with_reducible apply Follows.sendPending
    | with_reducible refine Follows.ite (fun _ => ?_) (fun _ => ?_)
    | split

end Sys2Proof.Machine
end

