-- ==== Sys2Proof/Laws/FollowsSlab.lean ====
section
/-!
SUPPORT. The operations of Machine/Slab.lean keep what `Follows` says.
-/
namespace Sys2Proof.Machine

theorem Follows.dirAdd {b0 : State} {s : State} {h : Shelf} {id : Nat} {slab : Nat} {row : Nat} (hb0 : Follows b0 s) : Follows b0 (State.dirAdd s h id slab row) := by
  unfold State.dirAdd
  try dsimp only
  repeat' first
    | with_reducible assumption
    | with_reducible apply Follows.storeMap
    | with_reducible refine Follows.ite (fun _ => ?_) (fun _ => ?_)
    | intro _

theorem Follows.dirAt {b0 : State} {s : State} {shelf : Nat} {slab : Nat} {row : Nat} {f : DirEnt → DirEnt} (hb0 : Follows b0 s) : Follows b0 (State.dirAt s shelf slab row f) := by
  unfold State.dirAt
  try dsimp only
  repeat' first
    | with_reducible assumption
    | with_reducible apply Follows.storeMap
    | with_reducible refine Follows.ite (fun _ => ?_) (fun _ => ?_)
    | intro _

theorem Follows.reached {b0 : State} {s : State} {hs : List Nat} (hb0 : Follows b0 s) : Follows b0 (State.reached s hs) := by
  unfold State.reached
  try dsimp only
  repeat' first
    | with_reducible assumption
    | with_reducible refine Follows.hostMap ?_ (fun _ => ⟨rfl, rfl⟩)
    | with_reducible apply Follows.hostMap
    | with_reducible refine Follows.ite (fun _ => ?_) (fun _ => ?_)
    | (intro _; simp only [updFirst_length, updAll_length, updAt_length, List.length_map, List.length_replicate, List.length_range, and_self])
    | with_reducible exact ⟨rfl, rfl, rfl⟩
    | with_reducible exact ⟨rfl, rfl⟩
    | with_reducible rfl
    | with_reducible exact Nat.le_refl _
    | intro _

theorem Follows.freeEntries {b0 : State} {s : State} {hs : List Nat} (hb0 : Follows b0 s) : Follows b0 (State.freeEntries s hs) := by
  unfold State.freeEntries
  try dsimp only
  repeat' first
    | with_reducible assumption
    | with_reducible apply Follows.storeMap
    | with_reducible refine Follows.ite (fun _ => ?_) (fun _ => ?_)
    | intro _

theorem Follows.flagSettle {b0 : State} {s : State} {hs : List Nat} (hb0 : Follows b0 s) : Follows b0 (State.flagSettle s hs) := by
  unfold State.flagSettle
  try dsimp only
  repeat' first
    | with_reducible assumption
    | with_reducible apply Follows.storeMap
    | with_reducible refine Follows.ite (fun _ => ?_) (fun _ => ?_)
    | intro _

theorem Follows.settledCompletion {b0 : State} {s : State} {cid : Nat} (hb0 : Follows b0 s) : Follows b0 (State.settledCompletion s cid) := by
  unfold State.settledCompletion
  try dsimp only
  repeat' first
    | with_reducible assumption
    | with_reducible apply Follows.complete
    | with_reducible refine Follows.ite (fun _ => ?_) (fun _ => ?_)
    | intro _
    | split

theorem Follows.slabMap {b0 : State} {s : State} {shelf : Nat} {slab : Nat} {f : Slab → Slab} (hb0 : Follows b0 s) : Follows b0 (State.slabMap s shelf slab f) := by
  unfold State.slabMap
  try dsimp only
  repeat' first
    | with_reducible assumption
    | with_reducible apply Follows.shelfMap
    | with_reducible refine Follows.ite (fun _ => ?_) (fun _ => ?_)
    | intro _

theorem Follows.issueSlab {b0 : State} {s : State} {j : Journal} {g : Nat} {far : Bool} (hb0 : Follows b0 s) : Follows b0 (State.issueSlab s j g far) := by
  unfold State.issueSlab
  try dsimp only
  repeat' first
    | with_reducible assumption
    | with_reducible apply Follows.issue
    | with_reducible refine Follows.ite (fun _ => ?_) (fun _ => ?_)
    | split

theorem Follows.setWriter {b0 : State} {s : State} {shelf : Nat} {slab : Nat} {code : Nat} (hb0 : Follows b0 s) : Follows b0 (State.setWriter s shelf slab code) := by
  unfold State.setWriter
  try dsimp only
  repeat' first
    | with_reducible assumption
    | with_reducible apply Follows.shelfMap
    | with_reducible refine Follows.ite (fun _ => ?_) (fun _ => ?_)
    | intro _
    | split

theorem Follows.slabOpStart {b0 : State} {s : State} (hb0 : Follows b0 s) : Follows b0 (State.slabOpStart s) := by
  unfold State.slabOpStart
  try dsimp only
  repeat' first
    | with_reducible assumption
    | with_reducible apply Follows.setWriter
    | with_reducible apply Follows.issueSlab
    | with_reducible apply Follows.readHost
    | with_reducible apply Follows.ev
    | with_reducible apply Follows.storeMap
    | with_reducible apply Follows.when
    | with_reducible apply Follows.each
    | with_reducible refine Follows.ite (fun _ => ?_) (fun _ => ?_)
    | intro _
    | split

theorem Follows.closeJournal {b0 : State} {s : State} {k : Nat} (hb0 : Follows b0 s) : Follows b0 (State.closeJournal s k) := by
  unfold State.closeJournal
  try dsimp only
  repeat' first
    | with_reducible assumption
    | with_reducible apply Follows.bump
    | with_reducible refine Follows.rrMap ?_ (fun _ => rfl)
    | with_reducible apply Follows.rrMap
    | with_reducible apply Follows.storeMap
    | with_reducible refine Follows.ite (fun _ => ?_) (fun _ => ?_)
    | (intro _; simp only [updFirst_length, updAll_length, updAt_length, List.length_map, List.length_replicate, List.length_range, and_self])
    | with_reducible exact ⟨rfl, rfl, rfl⟩
    | with_reducible exact ⟨rfl, rfl⟩
    | with_reducible rfl
    | with_reducible exact Nat.le_refl _
    | intro _
    | split

theorem Follows.writeFar {b0 : State} {s : State} {h : Shelf} {slab : Nat} {first : Nat} {rows : List Row} (hb0 : Follows b0 s) : Follows b0 (State.writeFar s h slab first rows) := by
  unfold State.writeFar
  try dsimp only
  repeat' first
    | with_reducible assumption
    | with_reducible apply Follows.post
    | with_reducible apply Follows.each
    | with_reducible refine Follows.ite (fun _ => ?_) (fun _ => ?_)
    | intro _
    | split

theorem Follows.commitPlace {b0 : State} {s : State} {h : Shelf} {j : Journal} (hb0 : Follows b0 s) : Follows b0 (State.commitPlace s h j) := by
  unfold State.commitPlace
  try dsimp only
  repeat' first
    | with_reducible assumption
    | with_reducible apply Follows.shelfMap
    | with_reducible apply Follows.writeFar
    | with_reducible apply Follows.dirAdd
    | with_reducible apply Follows.freeEntries
    | with_reducible apply Follows.reached
    | with_reducible apply Follows.bump
    | with_reducible apply Follows.each
    | with_reducible refine Follows.ite (fun _ => ?_) (fun _ => ?_)
    | intro _
    | split

theorem Follows.commitMark {b0 : State} {s : State} {h : Shelf} {j : Journal} (hb0 : Follows b0 s) : Follows b0 (State.commitMark s h j) := by
  unfold State.commitMark
  try dsimp only
  repeat' first
    | with_reducible assumption
    | with_reducible apply Follows.slabMap
    | with_reducible apply Follows.dirAt
    | with_reducible apply Follows.reached
    | with_reducible apply Follows.bump
    | with_reducible apply Follows.storeMap
    | with_reducible apply Follows.each
    | with_reducible refine Follows.ite (fun _ => ?_) (fun _ => ?_)
    | intro _

theorem Follows.freeKills {b0 : State} {s : State} {shelf : Nat} {slab : Nat} {rows : List Nat} (hb0 : Follows b0 s) : Follows b0 (State.freeKills s shelf slab rows) := by
  unfold State.freeKills
  try dsimp only
  repeat' first
    | with_reducible assumption
    | with_reducible apply Follows.freeEntries
    | with_reducible apply Follows.shelfMap
    | with_reducible refine Follows.ite (fun _ => ?_) (fun _ => ?_)
    | intro _

theorem Follows.commitMove {b0 : State} {s : State} {h : Shelf} {j : Journal} (hb0 : Follows b0 s) : Follows b0 (State.commitMove s h j) := by
  unfold State.commitMove
  try dsimp only
  repeat' first
    | with_reducible assumption
    | with_reducible apply Follows.slabMap
    | with_reducible apply Follows.post
    | with_reducible apply Follows.dirAt
    | with_reducible apply Follows.shelfMap
    | with_reducible apply Follows.freeKills
    | with_reducible apply Follows.bump
    | with_reducible apply Follows.when
    | with_reducible apply Follows.each
    | with_reducible refine Follows.ite (fun _ => ?_) (fun _ => ?_)
    | intro _

theorem Follows.commitTrim {b0 : State} {s : State} {h : Shelf} {j : Journal} (hb0 : Follows b0 s) : Follows b0 (State.commitTrim s h j) := by
  unfold State.commitTrim
  try dsimp only
  repeat' first
    | with_reducible assumption
    | with_reducible apply Follows.shelfMap
    | with_reducible apply Follows.freeKills
    | with_reducible apply Follows.bump
    | with_reducible refine Follows.ite (fun _ => ?_) (fun _ => ?_)
    | intro _

theorem Follows.heal {b0 : State} {s : State} {shelf : Nat} {gs : List Nat} (hb0 : Follows b0 s) : Follows b0 (State.heal s shelf gs) := by
  unfold State.heal
  try dsimp only
  repeat' first
    | with_reducible assumption
    | with_reducible apply Follows.shelfMap
    | with_reducible refine Follows.memMap ?_ (fun _ => rfl)
    | with_reducible apply Follows.memMap
    | with_reducible refine Follows.ite (fun _ => ?_) (fun _ => ?_)
    | (intro _; simp only [updFirst_length, updAll_length, updAt_length, List.length_map, List.length_replicate, List.length_range, and_self])
    | with_reducible exact ⟨rfl, rfl, rfl⟩
    | with_reducible exact ⟨rfl, rfl⟩
    | with_reducible rfl
    | with_reducible exact Nat.le_refl _
    | intro _

theorem Follows.slabCommit {b0 : State} {s : State} {op : SlabOp} {slot : Nat} (hb0 : Follows b0 s) : Follows b0 (State.slabCommit s op slot) := by
  unfold State.slabCommit
  try dsimp only
  repeat' first
    | with_reducible assumption
    | with_reducible apply Follows.commitPlace
    | with_reducible apply Follows.commitMark
    | with_reducible apply Follows.commitMove
    | with_reducible apply Follows.commitTrim
    | with_reducible apply Follows.closeJournal
    | with_reducible apply Follows.heal
    | with_reducible refine Follows.ite (fun _ => ?_) (fun _ => ?_)
    | intro _
    | split

theorem Follows.undoSlab {b0 : State} {s : State} {j : Journal} (hb0 : Follows b0 s) : Follows b0 (State.undoSlab s j) := by
  unfold State.undoSlab
  try dsimp only
  repeat' first
    | with_reducible assumption
    | with_reducible apply Follows.setWriter
    | with_reducible apply Follows.closeJournal
    | with_reducible apply Follows.when
    | with_reducible refine Follows.ite (fun _ => ?_) (fun _ => ?_)
    | intro _

theorem Follows.endSlabOps {b0 : State} {s : State} (hb0 : Follows b0 s) : Follows b0 (State.endSlabOps s) := by
  unfold State.endSlabOps
  try dsimp only
  repeat' first
    | with_reducible assumption
    | with_reducible apply Follows.slabCommit
    | with_reducible apply Follows.undoSlab
    | with_reducible apply Follows.each
    | with_reducible refine Follows.ite (fun _ => ?_) (fun _ => ?_)
    | intro _

theorem Follows.slabRollback {b0 : State} {s : State} {slot : Nat} {granule : Nat} (hb0 : Follows b0 s) : Follows b0 (State.slabRollback s slot granule) := by
  unfold State.slabRollback
  try dsimp only
  repeat' first
    | with_reducible assumption
    | with_reducible apply Follows.undoSlab
    | with_reducible apply Follows.shelfMap
    | with_reducible apply Follows.ev
    | with_reducible refine Follows.ite (fun _ => ?_) (fun _ => ?_)
    | intro _
    | split

theorem Follows.slabRead {b0 : State} {s : State} {slot : Nat} (hb0 : Follows b0 s) : Follows b0 (State.slabRead s slot) := by
  unfold State.slabRead
  try dsimp only
  repeat' first
    | with_reducible assumption
    | with_reducible apply Follows.storeMap
    | with_reducible refine Follows.ite (fun _ => ?_) (fun _ => ?_)
    | intro _

theorem Follows.recover {b0 : State} {s : State} (hb0 : Follows b0 s) : Follows b0 (State.recover s) := by
  unfold State.recover
  try dsimp only
  repeat' first
    | with_reducible assumption
    | with_reducible apply Follows.undoSlab
    | with_reducible apply Follows.ev
    | with_reducible apply Follows.each
    | with_reducible refine Follows.ite (fun _ => ?_) (fun _ => ?_)
    | intro _
    | split

theorem Follows.rebuildKills {b0 : State} {s : State} (hb0 : Follows b0 s) : Follows b0 (State.rebuildKills s) := by
  unfold State.rebuildKills
  try dsimp only
  repeat' first
    | with_reducible assumption
    | with_reducible apply Follows.storeMap
    | with_reducible refine Follows.ite (fun _ => ?_) (fun _ => ?_)
    | intro _

end Sys2Proof.Machine
end

