-- ==== Sys2Proof/Laws/FollowsGddr.lean ====
section
/-!
SUPPORT. The operations of Machine/Gddr.lean keep what `Follows` says.
-/
namespace Sys2Proof.Machine

theorem Follows.loseRows {b0 : State} {s : State} {k : Nat} (hb0 : Follows b0 s) : Follows b0 (State.loseRows s k) := by
  unfold State.loseRows
  try dsimp only
  repeat' first
    | with_reducible assumption
    | with_reducible apply Follows.runsMap
    | with_reducible refine Follows.ite (fun _ => ?_) (fun _ => ?_)
    | intro _
    | split

theorem Follows.channelFault {b0 : State} {s : State} {h : Nat} {code : Nat} {detail : Nat} (hb0 : Follows b0 s) : Follows b0 (State.channelFault s h code detail) := by
  unfold State.channelFault
  try dsimp only
  repeat' first
    | with_reducible assumption
    | with_reducible apply Follows.loseRows
    | with_reducible apply Follows.channelMap
    | with_reducible apply Follows.alertOn
    | with_reducible apply Follows.logError
    | with_reducible apply Follows.wr
    | with_reducible apply Follows.ev
    | with_reducible apply Follows.when
    | with_reducible refine Follows.ite (fun _ => ?_) (fun _ => ?_)
    | intro _
    | split

theorem Follows.deviceSilent {b0 : State} {s : State} {h : Nat} {device : Nat} (hb0 : Follows b0 s) : Follows b0 (State.deviceSilent s h device) := by
  unfold State.deviceSilent
  try dsimp only
  repeat' first
    | with_reducible assumption
    | with_reducible apply Follows.channelFault
    | with_reducible refine Follows.ite (fun _ => ?_) (fun _ => ?_)
    | split

theorem Follows.crcRetry {b0 : State} {s : State} {h : Nat} {n : Nat} (hb0 : Follows b0 s) : Follows b0 (State.crcRetry s h n) := by
  unfold State.crcRetry
  try dsimp only
  repeat' first
    | with_reducible assumption
    | with_reducible apply Follows.ev
    | with_reducible apply Follows.inc
    | with_reducible apply Follows.when
    | with_reducible refine Follows.ite (fun _ => ?_) (fun _ => ?_)
    | intro _

theorem Follows.uncorrectable {b0 : State} {s : State} {h : Nat} {g : Nat} {system : Bool} (hb0 : Follows b0 s) : Follows b0 (State.uncorrectable s h g system) := by
  unfold State.uncorrectable
  try dsimp only
  repeat' first
    | with_reducible assumption
    | with_reducible apply Follows.channelMap
    | with_reducible apply Follows.channelFault
    | with_reducible apply Follows.wr
    | with_reducible apply Follows.ev
    | with_reducible apply Follows.inc
    | with_reducible apply Follows.when
    | with_reducible refine Follows.ite (fun _ => ?_) (fun _ => ?_)
    | intro _
    | split

theorem Follows.checkGranule {b0 : State} {s : State} {h : Nat} {g : Nat} {crc : Nat} {ecc : Nat} {system : Bool} (hb0 : Follows b0 s) : Follows b0 (State.checkGranule s h g crc ecc system).1 := by
  unfold State.checkGranule
  try dsimp only
  repeat' first
    | with_reducible assumption
    | with_reducible apply Follows.crcRetry
    | with_reducible apply Follows.channelFault
    | with_reducible apply Follows.uncorrectable
    | with_reducible apply Follows.ev
    | with_reducible apply Follows.inc
    | with_reducible apply Follows.when
    | with_reducible refine Follows.ite (fun _ => ?_) (fun _ => ?_)
    | intro _
    | split

theorem Follows.tileGranule {b0 : State} {s : State} {g : Nat} {tid : Nat} {i : Nat} {lost : Bool} (hb0 : Follows b0 s) : Follows b0 (State.tileGranule s g tid i lost) := by
  unfold State.tileGranule
  try dsimp only
  repeat' first
    | with_reducible assumption
    | with_reducible apply Follows.runsMap
    | with_reducible apply Follows.ev
    | with_reducible refine Follows.sweepMap ?_ (fun _ => ⟨rfl, rfl, rfl⟩)
    | with_reducible apply Follows.sweepMap
    | with_reducible apply Follows.when
    | with_reducible refine Follows.ite (fun _ => ?_) (fun _ => ?_)
    | (intro _; simp only [updFirst_length, updAll_length, updAt_length, List.length_map, List.length_replicate, List.length_range, and_self])
    | with_reducible exact ⟨rfl, rfl, rfl⟩
    | with_reducible exact ⟨rfl, rfl⟩
    | with_reducible rfl
    | with_reducible exact Nat.le_refl _
    | intro _
    | split

theorem Follows.tableGranule {b0 : State} {s : State} {g : Nat} {k : Nat} {lost : Bool} (hb0 : Follows b0 s) : Follows b0 (State.tableGranule s g k lost) := by
  unfold State.tableGranule
  try dsimp only
  repeat' first
    | with_reducible assumption
    | with_reducible apply Follows.tableLanded
    | with_reducible apply Follows.runMap
    | with_reducible apply Follows.complete
    | with_reducible refine Follows.ite (fun _ => ?_) (fun _ => ?_)
    | intro _
    | split

theorem Follows.giveClient {b0 : State} {s : State} {h : Nat} {g : Nat} {lost : Bool} {cl : Client} (hb0 : Follows b0 s) : Follows b0 (State.giveClient s h g lost cl) := by
  unfold State.giveClient
  try dsimp only
  repeat' first
    | with_reducible assumption
    | with_reducible apply Follows.logError
    | with_reducible apply Follows.tileGranule
    | with_reducible apply Follows.tableGranule
    | with_reducible apply Follows.pointPart
    | with_reducible apply Follows.slabRollback
    | with_reducible apply Follows.slabRead
    | with_reducible apply Follows.when
    | with_reducible refine Follows.ite (fun _ => ?_) (fun _ => ?_)
    | intro _
    | split

theorem Follows.farTook {b0 : State} {s : State} {r : Req} (hb0 : Follows b0 s) : Follows b0 (State.farTook s r) := by
  unfold State.farTook
  try dsimp only
  repeat' first
    | with_reducible assumption
    | with_reducible apply Follows.ev
    | with_reducible apply Follows.bumpSet
    | with_reducible apply Follows.when
    | with_reducible refine Follows.ite (fun _ => ?_) (fun _ => ?_)
    | intro _

theorem Follows.readReturn {b0 : State} {s : State} {rid : Nat} {crc : Nat} {ecc : Nat} {t : Nat} (hb0 : Follows b0 s) : Follows b0 (State.readReturn s rid crc ecc t) := by
  unfold State.readReturn
  try dsimp only
  repeat' first
    | with_reducible assumption
    | with_reducible apply Follows.advance
    | with_reducible apply Follows.fillQueue
    | with_reducible apply Follows.checkGranule
    | with_reducible apply Follows.readIssued
    | with_reducible apply Follows.reqMap
    | with_reducible apply Follows.dropReq
    | with_reducible apply Follows.giveClient
    | with_reducible apply Follows.each
    | with_reducible refine Follows.ite (fun _ => ?_) (fun _ => ?_)
    | with_reducible refine Follows.ofFst ?_ (by with_reducible assumption)
    | intro _
    | split

theorem Follows.systemReturn {b0 : State} {s : State} {j : Nat} {crc : Nat} {ecc : Nat} {t : Nat} (hb0 : Follows b0 s) : Follows b0 (State.systemReturn s j crc ecc t) := by
  unfold State.systemReturn
  try dsimp only
  repeat' first
    | with_reducible assumption
    | with_reducible apply Follows.advance
    | with_reducible apply Follows.checkGranule
    | with_reducible apply Follows.logError
    | with_reducible apply Follows.when
    | with_reducible refine Follows.ite (fun _ => ?_) (fun _ => ?_)
    | with_reducible refine Follows.ofFst ?_ (by with_reducible assumption)
    | intro _

theorem Follows.perBankRefresh {b0 : State} {s : State} {h : Nat} {bank : Nat} {postpone : Bool} (hb0 : Follows b0 s) : Follows b0 (State.perBankRefresh s h bank postpone) := by
  unfold State.perBankRefresh
  try dsimp only
  repeat' first
    | with_reducible assumption
    | with_reducible apply Follows.channelMap
    | with_reducible refine Follows.ite (fun _ => ?_) (fun _ => ?_)
    | intro _
    | split

theorem Follows.allBankRefresh {b0 : State} {s : State} {h : Nat} {t : Nat} (hb0 : Follows b0 s) : Follows b0 (State.allBankRefresh s h t) := by
  unfold State.allBankRefresh
  try dsimp only
  repeat' first
    | with_reducible assumption
    | with_reducible apply Follows.advance
    | with_reducible apply Follows.channelMap
    | with_reducible refine Follows.ite (fun _ => ?_) (fun _ => ?_)
    | intro _
    | split

theorem Follows.scrubLate {b0 : State} {s : State} (hb0 : Follows b0 s) : Follows b0 (State.scrubLate s) := by
  unfold State.scrubLate
  try dsimp only
  repeat' first
    | with_reducible assumption
    | with_reducible apply Follows.ev
    | with_reducible apply Follows.when
    | with_reducible refine Follows.ite (fun _ => ?_) (fun _ => ?_)
    | intro _

theorem Follows.scrub {b0 : State} {s : State} {h : Nat} {l : Nat} {crc : Nat} {ecc : Nat} {t : Nat} (hb0 : Follows b0 s) : Follows b0 (State.scrub s h l crc ecc t) := by
  unfold State.scrub
  try dsimp only
  repeat' first
    | with_reducible assumption
    | with_reducible apply Follows.advance
    | with_reducible apply Follows.checkGranule
    | with_reducible apply Follows.writeBack
    | with_reducible apply Follows.channelMap
    | with_reducible apply Follows.scrubLate
    | with_reducible refine Follows.memMap ?_ (fun _ => rfl)
    | with_reducible apply Follows.memMap
    | with_reducible apply Follows.when
    | with_reducible refine Follows.ite (fun _ => ?_) (fun _ => ?_)
    | with_reducible refine Follows.ofFst ?_ (by with_reducible assumption)
    | (intro _; simp only [updFirst_length, updAll_length, updAt_length, List.length_map, List.length_replicate, List.length_range, and_self])
    | with_reducible exact ⟨rfl, rfl, rfl⟩
    | with_reducible exact ⟨rfl, rfl⟩
    | with_reducible rfl
    | with_reducible exact Nat.le_refl _
    | intro _
    | split

theorem Follows.beginStep {b0 : State} {s : State} {h : Nat} {k : Nat} (hb0 : Follows b0 s) : Follows b0 (State.beginStep s h k) := by
  unfold State.beginStep
  try dsimp only
  repeat' first
    | with_reducible assumption
    | with_reducible apply Follows.channelMap
    | with_reducible apply Follows.tickFree
    | with_reducible apply Follows.measured
    | with_reducible refine Follows.ite (fun _ => ?_) (fun _ => ?_)
    | intro _

theorem Follows.retrainStep {b0 : State} {s : State} {h : Nat} {ok : Bool} {t : Nat} (hb0 : Follows b0 s) : Follows b0 (State.retrainStep s h ok t) := by
  unfold State.retrainStep
  try dsimp only
  repeat' first
    | with_reducible assumption
    | with_reducible apply Follows.advance
    | with_reducible apply Follows.beginStep
    | with_reducible apply Follows.channelMap
    | with_reducible apply Follows.channelFault
    | with_reducible refine Follows.ite (fun _ => ?_) (fun _ => ?_)
    | intro _
    | split

theorem Follows.setBases {b0 : State} {s : State} (hb0 : Follows b0 s) : Follows b0 (State.setBases s) := by
  unfold State.setBases
  try dsimp only
  repeat' first
    | with_reducible assumption
    | with_reducible apply Follows.wr
    | with_reducible refine Follows.ite (fun _ => ?_) (fun _ => ?_)
    | intro _

theorem Follows.loseShelves {b0 : State} {s : State} (hb0 : Follows b0 s) : Follows b0 (State.loseShelves s) := by
  unfold State.loseShelves
  try dsimp only
  repeat' first
    | with_reducible assumption
    | with_reducible apply Follows.complete
    | with_reducible apply Follows.refuse
    | with_reducible apply Follows.wr
    | with_reducible refine Follows.rrMap ?_ (fun _ => rfl)
    | with_reducible apply Follows.rrMap
    | with_reducible apply Follows.storeMap
    | with_reducible apply Follows.each
    | with_reducible refine Follows.ite (fun _ => ?_) (fun _ => ?_)
    | (intro _; simp only [updFirst_length, updAll_length, updAt_length, List.length_map, List.length_replicate, List.length_range, and_self])
    | with_reducible exact ⟨rfl, rfl, rfl⟩
    | with_reducible exact ⟨rfl, rfl⟩
    | with_reducible rfl
    | with_reducible exact Nat.le_refl _
    | intro _
    | split

theorem Follows.newLayout {b0 : State} {s : State} {set : List Nat} (hb0 : Follows b0 s) : Follows b0 (State.newLayout s set) := by
  unfold State.newLayout
  try dsimp only
  repeat' first
    | with_reducible assumption
    | with_reducible apply Follows.setBases
    | with_reducible apply Follows.loseShelves
    | with_reducible apply Follows.wr
    | with_reducible refine Follows.memMap ?_ (fun _ => rfl)
    | with_reducible apply Follows.memMap
    | with_reducible refine Follows.ite (fun _ => ?_) (fun _ => ?_)
    | (intro _; simp only [updFirst_length, updAll_length, updAt_length, List.length_map, List.length_replicate, List.length_range, and_self])
    | with_reducible exact ⟨rfl, rfl, rfl⟩
    | with_reducible exact ⟨rfl, rfl⟩
    | with_reducible rfl
    | with_reducible exact Nat.le_refl _
    | intro _

theorem Follows.layoutChange {b0 : State} {s : State} (hb0 : Follows b0 s) : Follows b0 (State.layoutChange s) := by
  unfold State.layoutChange
  try dsimp only
  repeat' first
    | with_reducible assumption
    | with_reducible apply Follows.newLayout
    | with_reducible apply Follows.wr
    | with_reducible refine Follows.ite (fun _ => ?_) (fun _ => ?_)
    | intro _
    | split

theorem Follows.mapInFails {b0 : State} {s : State} {h : Nat} {c : Cmd} (hb0 : Follows b0 s) : Follows b0 (State.mapInFails s h c) := by
  unfold State.mapInFails
  try dsimp only
  repeat' first
    | with_reducible assumption
    | with_reducible apply Follows.refuse
    | with_reducible apply Follows.wr
    | with_reducible refine Follows.ite (fun _ => ?_) (fun _ => ?_)

theorem Follows.finishPends {b0 : State} {s : State} (hb0 : Follows b0 s) : Follows b0 (State.finishPends s) := by
  unfold State.finishPends
  try dsimp only
  repeat' first
    | with_reducible assumption
    | with_reducible apply Follows.mapInFails
    | with_reducible apply Follows.complete
    | with_reducible refine Follows.memMap ?_ (fun _ => rfl)
    | with_reducible apply Follows.memMap
    | with_reducible apply Follows.each
    | with_reducible refine Follows.ite (fun _ => ?_) (fun _ => ?_)
    | (intro _; simp only [updFirst_length, updAll_length, updAt_length, List.length_map, List.length_replicate, List.length_range, and_self])
    | with_reducible exact ⟨rfl, rfl, rfl⟩
    | with_reducible exact ⟨rfl, rfl⟩
    | with_reducible rfl
    | with_reducible exact Nat.le_refl _
    | intro _
    | split

theorem Follows.relayEnd {b0 : State} {s : State} (hb0 : Follows b0 s) : Follows b0 (State.relayEnd s) := by
  unfold State.relayEnd
  try dsimp only
  repeat' first
    | with_reducible assumption
    | with_reducible apply Follows.logError
    | with_reducible apply Follows.finishPends
    | with_reducible apply Follows.wr
    | with_reducible apply Follows.ev
    | with_reducible refine Follows.memMap ?_ (fun _ => rfl)
    | with_reducible apply Follows.memMap
    | with_reducible refine Follows.ite (fun _ => ?_) (fun _ => ?_)
    | (intro _; simp only [updFirst_length, updAll_length, updAt_length, List.length_map, List.length_replicate, List.length_range, and_self])
    | with_reducible exact ⟨rfl, rfl, rfl⟩
    | with_reducible exact ⟨rfl, rfl⟩
    | with_reducible rfl
    | with_reducible exact Nat.le_refl _
    | intro _
    | split

theorem Follows.channelTrained {b0 : State} {s : State} {h : Nat} {ok : Bool} (hb0 : Follows b0 s) : Follows b0 (State.channelTrained s h ok) := by
  unfold State.channelTrained
  try dsimp only
  repeat' first
    | with_reducible assumption
    | with_reducible apply Follows.channelMap
    | with_reducible apply Follows.mapInFails
    | with_reducible refine Follows.memMap ?_ (fun _ => rfl)
    | with_reducible apply Follows.memMap
    | with_reducible refine Follows.ite (fun _ => ?_) (fun _ => ?_)
    | (intro _; simp only [updFirst_length, updAll_length, updAt_length, List.length_map, List.length_replicate, List.length_range, and_self])
    | with_reducible exact ⟨rfl, rfl, rfl⟩
    | with_reducible exact ⟨rfl, rfl⟩
    | with_reducible rfl
    | with_reducible exact Nat.le_refl _
    | intro _
    | split

end Sys2Proof.Machine
end

