-- ==== Sys2Proof/Laws/FollowsMutation.lean ====
section
/-!
SUPPORT. The operations of Machine/Mutation.lean keep what `Follows` says.
-/
namespace Sys2Proof.Machine

theorem Follows.serveSection {b0 : State} {s : State} {cls : Nat} (hb0 : Follows b0 s) : Follows b0 (State.serveSection s cls) := by
  unfold State.serveSection
  try dsimp only
  repeat' first
    | with_reducible assumption
    | with_reducible refine Follows.hostMap ?_ (fun _ => ⟨rfl, rfl⟩)
    | with_reducible apply Follows.hostMap
    | with_reducible refine Follows.ite (fun _ => ?_) (fun _ => ?_)
    | (intro _; simp only [updFirst_length, updAll_length, updAt_length, List.length_map, List.length_replicate, List.length_range, and_self])
    | with_reducible exact ⟨rfl, rfl, rfl⟩
    | with_reducible exact ⟨rfl, rfl⟩
    | with_reducible rfl
    | with_reducible exact Nat.le_refl _
    | intro _
    | split

theorem Follows.noticeWord {b0 : State} {s : State} {c : Cmd} {state : Nat} (hb0 : Follows b0 s) : Follows b0 (State.noticeWord s c state) := by
  unfold State.noticeWord
  try dsimp only
  repeat' first
    | with_reducible assumption
    | with_reducible apply Follows.post
    | with_reducible refine Follows.ite (fun _ => ?_) (fun _ => ?_)
    | split

theorem Follows.stagingFull {b0 : State} {s : State} {c : Cmd} (hb0 : Follows b0 s) : Follows b0 (State.stagingFull s c) := by
  unfold State.stagingFull
  try dsimp only
  repeat' first
    | with_reducible assumption
    | with_reducible apply Follows.refuse
    | with_reducible apply Follows.ev
    | with_reducible refine Follows.ite (fun _ => ?_) (fun _ => ?_)

theorem Follows.supersede {b0 : State} {s : State} {e : StgEnt} {m : Nat} (hb0 : Follows b0 s) : Follows b0 (State.supersede s e m) := by
  unfold State.supersede
  try dsimp only
  repeat' first
    | with_reducible assumption
    | with_reducible apply Follows.reached
    | with_reducible apply Follows.shelfMap
    | with_reducible apply Follows.freeSuperseded
    | with_reducible apply Follows.storeMap
    | with_reducible apply Follows.when
    | with_reducible refine Follows.ite (fun _ => ?_) (fun _ => ?_)
    | intro _

theorem Follows.putEntry {b0 : State} {s : State} {e : StgEnt} (hb0 : Follows b0 s) : Follows b0 (State.putEntry s e) := by
  unfold State.putEntry
  try dsimp only
  repeat' first
    | with_reducible assumption
    | with_reducible apply Follows.spend
    | with_reducible apply Follows.cmdMap
    | with_reducible apply Follows.storeMap
    | with_reducible refine Follows.ite (fun _ => ?_) (fun _ => ?_)
    | intro _
    | split

theorem Follows.commitRec {b0 : State} {s : State} {shelf : Nat} {cid : Nat} {m : Nat} {settle : Bool} {r : Rec} (hb0 : Follows b0 s) : Follows b0 (State.commitRec s shelf cid m settle r) := by
  unfold State.commitRec
  try dsimp only
  repeat' first
    | with_reducible assumption
    | with_reducible apply Follows.shelfMap
    | with_reducible apply Follows.supersede
    | with_reducible apply Follows.putEntry
    | with_reducible refine Follows.ite (fun _ => ?_) (fun _ => ?_)
    | intro _
    | split

theorem Follows.commitRecs {b0 : State} {s : State} {shelf : Nat} {cid : Nat} {m : Nat} {settle : Bool} {rs : List Rec} (hb0 : Follows b0 s) : Follows b0 (State.commitRecs s shelf cid m settle rs) := by
  unfold State.commitRecs
  try dsimp only
  repeat' first
    | with_reducible assumption
    | with_reducible apply Follows.commitRec
    | with_reducible apply Follows.spend
    | with_reducible apply Follows.shelfMap
    | with_reducible apply Follows.bumpSet
    | with_reducible apply Follows.each
    | with_reducible refine Follows.ite (fun _ => ?_) (fun _ => ?_)
    | intro _

theorem Follows.showPresent {b0 : State} {s : State} {id : Nat} (hb0 : Follows b0 s) : Follows b0 (State.showPresent s id) := by
  unfold State.showPresent
  try dsimp only
  repeat' first
    | with_reducible assumption
    | with_reducible apply Follows.wr
    | with_reducible apply Follows.ev
    | with_reducible refine Follows.ite (fun _ => ?_) (fun _ => ?_)

theorem Follows.committed {b0 : State} {s : State} {c : Cmd} (hb0 : Follows b0 s) : Follows b0 (State.committed s c) := by
  unfold State.committed
  try dsimp only
  repeat' first
    | with_reducible assumption
    | with_reducible apply Follows.noticeWord
    | with_reducible apply Follows.cmdMap
    | with_reducible apply Follows.complete
    | with_reducible refine Follows.hostMap ?_ (fun _ => ⟨rfl, rfl⟩)
    | with_reducible apply Follows.hostMap
    | with_reducible refine Follows.ite (fun _ => ?_) (fun _ => ?_)
    | (intro _; simp only [updFirst_length, updAll_length, updAt_length, List.length_map, List.length_replicate, List.length_range, and_self])
    | with_reducible exact ⟨rfl, rfl, rfl⟩
    | with_reducible exact ⟨rfl, rfl⟩
    | with_reducible rfl
    | with_reducible exact Nat.le_refl _
    | intro _
    | split

theorem Follows.tryCommit {b0 : State} {s : State} {c : Cmd} {h : Shelf} {rs : List Rec} (hb0 : Follows b0 s) : Follows b0 (State.tryCommit s c h rs) := by
  unfold State.tryCommit
  try dsimp only
  repeat' first
    | with_reducible assumption
    | with_reducible apply Follows.cmdMap
    | with_reducible apply Follows.showPresent
    | with_reducible apply Follows.refuse
    | with_reducible apply Follows.commitRecs
    | with_reducible apply Follows.committed
    | with_reducible refine Follows.ite (fun _ => ?_) (fun _ => ?_)
    | intro _
    | split

theorem Follows.retryCommits {b0 : State} {s : State} (hb0 : Follows b0 s) : Follows b0 (State.retryCommits s) := by
  unfold State.retryCommits
  try dsimp only
  repeat' first
    | with_reducible assumption
    | with_reducible apply Follows.tryCommit
    | with_reducible apply Follows.refuse
    | with_reducible apply Follows.each
    | with_reducible refine Follows.ite (fun _ => ?_) (fun _ => ?_)
    | intro _
    | split

theorem Follows.insertBegin {b0 : State} {s : State} {c : Cmd} (hb0 : Follows b0 s) : Follows b0 (State.insertBegin s c) := by
  unfold State.insertBegin
  try dsimp only
  repeat' first
    | with_reducible assumption
    | with_reducible apply Follows.refuse
    | with_reducible apply Follows.stagingFull
    | with_reducible apply Follows.cmdMap
    | with_reducible refine Follows.ite (fun _ => ?_) (fun _ => ?_)
    | intro _
    | split

theorem Follows.deleteBegin {b0 : State} {s : State} {c : Cmd} (hb0 : Follows b0 s) : Follows b0 (State.deleteBegin s c) := by
  unfold State.deleteBegin
  try dsimp only
  repeat' first
    | with_reducible assumption
    | with_reducible apply Follows.refuse
    | with_reducible apply Follows.stagingFull
    | with_reducible apply Follows.cmdMap
    | with_reducible apply Follows.tryCommit
    | with_reducible refine Follows.ite (fun _ => ?_) (fun _ => ?_)
    | intro _
    | split

theorem Follows.grant {b0 : State} {s : State} {c : Cmd} (hb0 : Follows b0 s) : Follows b0 (State.grant s c) := by
  unfold State.grant
  try dsimp only
  repeat' first
    | with_reducible assumption
    | with_reducible apply Follows.cmdMap
    | with_reducible apply Follows.noticeWord
    | with_reducible apply Follows.readHost
    | with_reducible apply Follows.refuse
    | with_reducible refine Follows.hostMap ?_ (fun _ => ⟨rfl, rfl⟩)
    | with_reducible apply Follows.hostMap
    | with_reducible refine Follows.ite (fun _ => ?_) (fun _ => ?_)
    | (intro _; simp only [updFirst_length, updAll_length, updAt_length, List.length_map, List.length_replicate, List.length_range, and_self])
    | with_reducible exact ⟨rfl, rfl, rfl⟩
    | with_reducible exact ⟨rfl, rfl⟩
    | with_reducible rfl
    | with_reducible exact Nat.le_refl _
    | intro _
    | split

theorem Follows.transferGrant {b0 : State} {s : State} (hb0 : Follows b0 s) : Follows b0 (State.transferGrant s) := by
  unfold State.transferGrant
  try dsimp only
  repeat' first
    | with_reducible assumption
    | with_reducible apply Follows.serveSection
    | with_reducible apply Follows.refuse
    | with_reducible apply Follows.cmdMap
    | with_reducible apply Follows.tryCommit
    | with_reducible apply Follows.grant
    | with_reducible apply Follows.stagingFull
    | with_reducible refine Follows.ite (fun _ => ?_) (fun _ => ?_)
    | intro _
    | split

theorem Follows.dataComplete {b0 : State} {s : State} {c : Cmd} {ok : Bool} {data : Bytes} (hb0 : Follows b0 s) : Follows b0 (State.dataComplete s c ok data) := by
  unfold State.dataComplete
  try dsimp only
  repeat' first
    | with_reducible assumption
    | with_reducible apply Follows.refuse
    | with_reducible apply Follows.cmdMap
    | with_reducible apply Follows.spend
    | with_reducible apply Follows.tryCommit
    | with_reducible apply Follows.ev
    | with_reducible apply Follows.inc
    | with_reducible refine Follows.ite (fun _ => ?_) (fun _ => ?_)
    | intro _
    | split

theorem Follows.stagingExpire {b0 : State} {s : State} {cid : Nat} (hb0 : Follows b0 s) : Follows b0 (State.stagingExpire s cid) := by
  unfold State.stagingExpire
  try dsimp only
  repeat' first
    | with_reducible assumption
    | with_reducible apply Follows.refuse
    | with_reducible apply Follows.stagingFull
    | with_reducible refine Follows.ite (fun _ => ?_) (fun _ => ?_)
    | intro _
    | split

theorem Follows.settleBegin {b0 : State} {s : State} {c : Cmd} (hb0 : Follows b0 s) : Follows b0 (State.settleBegin s c) := by
  unfold State.settleBegin
  try dsimp only
  repeat' first
    | with_reducible assumption
    | with_reducible apply Follows.refuse
    | with_reducible apply Follows.completeOk
    | with_reducible apply Follows.flagSettle
    | with_reducible apply Follows.cmdMap
    | with_reducible refine Follows.ite (fun _ => ?_) (fun _ => ?_)
    | intro _
    | split

theorem Follows.withdraw {b0 : State} {s : State} {c : Cmd} {status : Nat} (hb0 : Follows b0 s) : Follows b0 (State.withdraw s c status) := by
  unfold State.withdraw
  try dsimp only
  repeat' first
    | with_reducible assumption
    | with_reducible apply Follows.noticeWord
    | with_reducible apply Follows.refuse
    | with_reducible apply Follows.ev
    | with_reducible apply Follows.inc
    | with_reducible apply Follows.when
    | with_reducible refine Follows.ite (fun _ => ?_) (fun _ => ?_)
    | intro _

end Sys2Proof.Machine
end

