-- ==== Sys2Proof/Laws/FollowsQueue.lean ====
section
/-!
SUPPORT. The operations of Machine/Queue.lean keep what `Follows` says.
-/
namespace Sys2Proof.Machine

theorem Follows.badDoorbell {b0 : State} {s : State} {fn : Nat} (hb0 : Follows b0 s) : Follows b0 (State.badDoorbell s fn) := by
  unfold State.badDoorbell
  try dsimp only
  repeat' first
    | with_reducible assumption
    | with_reducible apply Follows.fevent
    | with_reducible apply Follows.incw
    | with_reducible refine Follows.ite (fun _ => ?_) (fun _ => ?_)

theorem Follows.tailBell {b0 : State} {s : State} {fn : Nat} {q : Nat} {wide : Bool} {v : Nat} {t : Nat} (hb0 : Follows b0 s) : Follows b0 (State.tailBell s fn q wide v t) := by
  unfold State.tailBell
  try dsimp only
  repeat' first
    | with_reducible assumption
    | with_reducible apply Follows.advance
    | with_reducible apply Follows.badDoorbell
    | with_reducible apply Follows.sbqMap
    | with_reducible refine Follows.ite (fun _ => ?_) (fun _ => ?_)
    | intro _
    | split

theorem Follows.headBell {b0 : State} {s : State} {fn : Nat} {q : Nat} {wide : Bool} {v : Nat} {t : Nat} (hb0 : Follows b0 s) : Follows b0 (State.headBell s fn q wide v t) := by
  unfold State.headBell
  try dsimp only
  repeat' first
    | with_reducible assumption
    | with_reducible apply Follows.advance
    | with_reducible apply Follows.badDoorbell
    | with_reducible apply Follows.cpqMap
    | with_reducible refine Follows.ite (fun _ => ?_) (fun _ => ?_)
    | intro _
    | split

theorem Follows.intakeWait {b0 : State} {s : State} (hb0 : Follows b0 s) : Follows b0 (State.intakeWait s) := by
  unfold State.intakeWait
  try dsimp only
  repeat' first
    | with_reducible assumption
    | with_reducible apply Follows.ev
    | with_reducible refine Follows.hostMap ?_ (fun _ => ⟨rfl, rfl⟩)
    | with_reducible apply Follows.hostMap
    | with_reducible refine Follows.ite (fun _ => ?_) (fun _ => ?_)
    | (intro _; simp only [updFirst_length, updAll_length, updAt_length, List.length_map, List.length_replicate, List.length_range, and_self])
    | with_reducible exact ⟨rfl, rfl, rfl⟩
    | with_reducible exact ⟨rfl, rfl⟩
    | with_reducible rfl
    | with_reducible exact Nat.le_refl _
    | intro _

theorem Follows.countIntake {b0 : State} {s : State} {more : Bool} (hb0 : Follows b0 s) : Follows b0 (State.countIntake s more) := by
  unfold State.countIntake
  try dsimp only
  repeat' first
    | with_reducible assumption
    | with_reducible apply Follows.bump
    | with_reducible refine Follows.hostMap ?_ (fun _ => ⟨rfl, rfl⟩)
    | with_reducible apply Follows.hostMap
    | with_reducible refine Follows.ite (fun _ => ?_) (fun _ => ?_)
    | (intro _; simp only [updFirst_length, updAll_length, updAt_length, List.length_map, List.length_replicate, List.length_range, and_self])
    | with_reducible exact ⟨rfl, rfl, rfl⟩
    | with_reducible exact ⟨rfl, rfl⟩
    | with_reducible rfl
    | with_reducible exact Nat.le_refl _
    | intro _
    | split

theorem Follows.countWaits {b0 : State} {s : State} (hb0 : Follows b0 s) : Follows b0 (State.countWaits s) := by
  unfold State.countWaits
  try dsimp only
  repeat' first
    | with_reducible assumption
    | with_reducible apply Follows.countIntake
    | with_reducible apply Follows.bumpw
    | with_reducible refine Follows.hostMap ?_ (fun _ => ⟨rfl, rfl⟩)
    | with_reducible apply Follows.hostMap
    | with_reducible apply Follows.each
    | with_reducible refine Follows.ite (fun _ => ?_) (fun _ => ?_)
    | (intro _; simp only [updFirst_length, updAll_length, updAt_length, List.length_map, List.length_replicate, List.length_range, and_self])
    | with_reducible exact ⟨rfl, rfl, rfl⟩
    | with_reducible exact ⟨rfl, rfl⟩
    | with_reducible rfl
    | with_reducible exact Nat.le_refl _
    | intro _
    | split

theorem Follows.packetFetch {b0 : State} {s : State} {fn : Nat} {q : Nat} {len : Nat} {t : Nat} (hb0 : Follows b0 s) : Follows b0 (State.packetFetch s fn q len t) := by
  unfold State.packetFetch
  try dsimp only
  repeat' first
    | with_reducible assumption
    | with_reducible apply Follows.advance
    | with_reducible apply Follows.sbqMap
    | with_reducible apply Follows.fevent
    | with_reducible apply Follows.cpqMap
    | with_reducible apply Follows.intakeWait
    | with_reducible apply Follows.countIntake
    | with_reducible apply Follows.readHost
    | with_reducible apply Follows.bumpw
    | with_reducible apply Follows.when
    | with_reducible refine Follows.ite (fun _ => ?_) (fun _ => ?_)
    | intro _
    | split

theorem Follows.consumeFlits {b0 : State} {s : State} {fn : Nat} {q : Nat} {n : Nat} (hb0 : Follows b0 s) : Follows b0 (State.consumeFlits s fn q n).1 := by
  unfold State.consumeFlits
  try dsimp only
  repeat' first
    | with_reducible assumption
    | with_reducible apply Follows.sbqMap
    | with_reducible apply Follows.wrw
    | with_reducible refine Follows.ite (fun _ => ?_) (fun _ => ?_)
    | intro _

theorem Follows.unreserve {b0 : State} {s : State} {fn : Nat} {q : Nat} {n : Nat} (hb0 : Follows b0 s) : Follows b0 (State.unreserve s fn q n) := by
  unfold State.unreserve
  try dsimp only
  repeat' first
    | with_reducible assumption
    | with_reducible apply Follows.cpqMap
    | with_reducible apply Follows.settleCpqIdle
    | with_reducible refine Follows.ite (fun _ => ?_) (fun _ => ?_)
    | intro _

theorem Follows.packetError {b0 : State} {s : State} {fn : Nat} {q : Nat} (hb0 : Follows b0 s) : Follows b0 (State.packetError s fn q) := by
  unfold State.packetError
  try dsimp only
  repeat' first
    | with_reducible assumption
    | with_reducible apply Follows.unreserve
    | with_reducible apply Follows.sbqMap
    | with_reducible apply Follows.fevent
    | with_reducible apply Follows.logError
    | with_reducible apply Follows.wrw
    | with_reducible refine Follows.ite (fun _ => ?_) (fun _ => ?_)
    | intro _

theorem Follows.badQueue {b0 : State} {s : State} {fn : Nat} (hb0 : Follows b0 s) : Follows b0 (State.badQueue s fn) := by
  unfold State.badQueue
  try dsimp only
  repeat' first
    | with_reducible assumption
    | with_reducible apply Follows.fevent
    | with_reducible refine Follows.ite (fun _ => ?_) (fun _ => ?_)

theorem Follows.sbqEnable {b0 : State} {s : State} {fn : Nat} {q : Nat} {sizeLog2 : Nat} {cpq : Nat} (hb0 : Follows b0 s) : Follows b0 (State.sbqEnable s fn q sizeLog2 cpq) := by
  unfold State.sbqEnable
  try dsimp only
  repeat' first
    | with_reducible assumption
    | with_reducible apply Follows.badQueue
    | with_reducible apply Follows.sbqMap
    | with_reducible apply Follows.wrw
    | with_reducible refine Follows.ite (fun _ => ?_) (fun _ => ?_)
    | intro _
    | split

theorem Follows.sbqDelete {b0 : State} {s : State} {fn : Nat} {q : Nat} {sizeLog2 : Nat} {cpq : Nat} (hb0 : Follows b0 s) : Follows b0 (State.sbqDelete s fn q sizeLog2 cpq) := by
  unfold State.sbqDelete
  try dsimp only
  repeat' first
    | with_reducible assumption
    | with_reducible apply Follows.unreserve
    | with_reducible apply Follows.sbqMap
    | with_reducible apply Follows.settleSbqIdle
    | with_reducible apply Follows.wrw
    | with_reducible apply Follows.when
    | with_reducible refine Follows.ite (fun _ => ?_) (fun _ => ?_)
    | intro _

theorem Follows.cpqEnable {b0 : State} {s : State} {fn : Nat} {q : Nat} {sizeLog2 : Nat} {vector : Nat} {intEn : Nat} (hb0 : Follows b0 s) : Follows b0 (State.cpqEnable s fn q sizeLog2 vector intEn) := by
  unfold State.cpqEnable
  try dsimp only
  repeat' first
    | with_reducible assumption
    | with_reducible apply Follows.badQueue
    | with_reducible apply Follows.cpqMap
    | with_reducible apply Follows.settleCpqIdle
    | with_reducible apply Follows.wrw
    | with_reducible refine Follows.ite (fun _ => ?_) (fun _ => ?_)
    | intro _
    | split

theorem Follows.cpqDelete {b0 : State} {s : State} {fn : Nat} {q : Nat} {sizeLog2 : Nat} {vector : Nat} {intEn : Nat} (hb0 : Follows b0 s) : Follows b0 (State.cpqDelete s fn q sizeLog2 vector intEn) := by
  unfold State.cpqDelete
  try dsimp only
  repeat' first
    | with_reducible assumption
    | with_reducible apply Follows.badQueue
    | with_reducible apply Follows.settleCpqIdle
    | with_reducible apply Follows.wrw
    | with_reducible refine Follows.ite (fun _ => ?_) (fun _ => ?_)
    | intro _
    | split

theorem Follows.clearWindow {b0 : State} {s : State} {seat : Nat} (hb0 : Follows b0 s) : Follows b0 (State.clearWindow s seat) := by
  exact hb0.ofRegs (fun r => ⟨regSorted_filter _ _ r.1, r.2⟩) rfl rfl rfl rfl rfl rfl rfl rfl rfl

theorem Follows.discardFar {b0 : State} {s : State} {seat : Nat} (hb0 : Follows b0 s) : Follows b0 (State.discardFar s seat) := by
  unfold State.discardFar
  try dsimp only
  repeat' first
    | with_reducible assumption
    | with_reducible apply Follows.farTook
    | with_reducible apply Follows.dropReq
    | with_reducible apply Follows.slabRollback
    | with_reducible apply Follows.landFor
    | with_reducible apply Follows.each
    | with_reducible refine Follows.ite (fun _ => ?_) (fun _ => ?_)
    | intro _
    | split

theorem Follows.srst {b0 : State} {s : State} {seat : Nat} (hb0 : Follows b0 s) : Follows b0 (State.srst s seat) := by
  unfold State.srst
  try dsimp only
  repeat' first
    | with_reducible assumption
    | with_reducible apply Follows.endOwnership
    | with_reducible apply Follows.discardFar
    | with_reducible apply Follows.freeSearch
    | with_reducible apply Follows.withdraw
    | with_reducible apply Follows.refuse
    | with_reducible apply Follows.endRerank
    | with_reducible apply Follows.clearWindow
    | with_reducible apply Follows.fnMap
    | with_reducible apply Follows.internalError
    | with_reducible refine Follows.clkMap ?_ (fun _ => Nat.le_refl _)
    | with_reducible apply Follows.clkMap
    | with_reducible refine Follows.hostMap ?_ (fun _ => ⟨rfl, rfl⟩)
    | with_reducible apply Follows.hostMap
    | with_reducible apply Follows.when
    | with_reducible apply Follows.each
    | with_reducible refine Follows.ite (fun _ => ?_) (fun _ => ?_)
    | (intro _; simp only [updFirst_length, updAll_length, updAt_length, List.length_map, List.length_replicate, List.length_range, and_self])
    | with_reducible exact ⟨rfl, rfl, rfl⟩
    | with_reducible exact ⟨rfl, rfl⟩
    | with_reducible rfl
    | with_reducible exact Nat.le_refl _
    | intro _
    | split

theorem Follows.flr {b0 : State} {s : State} {fn : Nat} (hb0 : Follows b0 s) : Follows b0 (State.flr s fn) := by
  unfold State.flr
  try dsimp only
  repeat' first
    | with_reducible assumption
    | with_reducible apply Follows.srst
    | with_reducible apply Follows.each
    | with_reducible refine Follows.ite (fun _ => ?_) (fun _ => ?_)
    | intro _
    | split

theorem Follows.vfClear {b0 : State} {s : State} {port : Nat} (hb0 : Follows b0 s) : Follows b0 (State.vfClear s port) := by
  unfold State.vfClear
  try dsimp only
  repeat' first
    | with_reducible assumption
    | with_reducible apply Follows.srst
    | with_reducible apply Follows.fnMap
    | with_reducible refine Follows.hostMap ?_ (fun _ => ⟨rfl, rfl⟩)
    | with_reducible apply Follows.hostMap
    | with_reducible apply Follows.each
    | with_reducible refine Follows.ite (fun _ => ?_) (fun _ => ?_)
    | (intro _; simp only [updFirst_length, updAll_length, updAt_length, List.length_map, List.length_replicate, List.length_range, and_self])
    | with_reducible exact ⟨rfl, rfl, rfl⟩
    | with_reducible exact ⟨rfl, rfl⟩
    | with_reducible rfl
    | with_reducible exact Nat.le_refl _
    | intro _

theorem Follows.failFar {b0 : State} {s : State} {seat : Nat} (hb0 : Follows b0 s) : Follows b0 (State.failFar s seat) := by
  unfold State.failFar
  try dsimp only
  repeat' first
    | with_reducible assumption
    | with_reducible apply Follows.farTook
    | with_reducible refine Follows.rrMap ?_ (fun _ => rfl)
    | with_reducible apply Follows.rrMap
    | with_reducible apply Follows.each
    | with_reducible refine Follows.ite (fun _ => ?_) (fun _ => ?_)
    | (intro _; simp only [updFirst_length, updAll_length, updAt_length, List.length_map, List.length_replicate, List.length_range, and_self])
    | with_reducible exact ⟨rfl, rfl, rfl⟩
    | with_reducible exact ⟨rfl, rfl⟩
    | with_reducible rfl
    | with_reducible exact Nat.le_refl _
    | intro _
    | split

theorem Follows.bmeClear {b0 : State} {s : State} {fn : Nat} (hb0 : Follows b0 s) : Follows b0 (State.bmeClear s fn) := by
  unfold State.bmeClear
  try dsimp only
  repeat' first
    | with_reducible assumption
    | with_reducible apply Follows.fnMap
    | with_reducible apply Follows.failFar
    | with_reducible refine Follows.ite (fun _ => ?_) (fun _ => ?_)
    | intro _
    | split

theorem Follows.bmeSet {b0 : State} {s : State} {fn : Nat} {ctl : DeviceControl} (hb0 : Follows b0 s) : Follows b0 (State.bmeSet s fn ctl) := by
  unfold State.bmeSet
  try dsimp only
  repeat' first
    | with_reducible assumption
    | with_reducible apply Follows.fnMap
    | with_reducible refine Follows.hostMap ?_ (fun _ => ⟨rfl, rfl⟩)
    | with_reducible apply Follows.hostMap
    | with_reducible apply Follows.when
    | with_reducible refine Follows.ite (fun _ => ?_) (fun _ => ?_)
    | (intro _; simp only [updFirst_length, updAll_length, updAt_length, List.length_map, List.length_replicate, List.length_range, and_self])
    | with_reducible exact ⟨rfl, rfl, rfl⟩
    | with_reducible exact ⟨rfl, rfl⟩
    | with_reducible rfl
    | with_reducible exact Nat.le_refl _
    | intro _
    | split

theorem Follows.d3hot {b0 : State} {s : State} {fn : Nat} {enter : Bool} (hb0 : Follows b0 s) : Follows b0 (State.d3hot s fn enter) := by
  unfold State.d3hot
  try dsimp only
  repeat' first
    | with_reducible assumption
    | with_reducible apply Follows.fnMap
    | with_reducible apply Follows.failFar
    | with_reducible refine Follows.ite (fun _ => ?_) (fun _ => ?_)
    | intro _
    | split

theorem Follows.msixUnmask {b0 : State} {s : State} {fn : Nat} {vector : Option Nat} (hb0 : Follows b0 s) : Follows b0 (State.msixUnmask s fn vector) := by
  unfold State.msixUnmask
  try dsimp only
  repeat' first
    | with_reducible assumption
    | with_reducible apply Follows.fnMap
    | with_reducible apply Follows.raise
    | with_reducible apply Follows.each
    | with_reducible refine Follows.ite (fun _ => ?_) (fun _ => ?_)
    | intro _
    | split

theorem Follows.farReturn {b0 : State} {s : State} {rid : Nat} {ok : Bool} {t : Nat} (hb0 : Follows b0 s) : Follows b0 (State.farReturn s rid ok t) := by
  unfold State.farReturn
  try dsimp only
  repeat' first
    | with_reducible assumption
    | with_reducible apply Follows.advance
    | with_reducible apply Follows.farTook
    | with_reducible apply Follows.logError
    | with_reducible apply Follows.slabRead
    | with_reducible apply Follows.slabRollback
    | with_reducible refine Follows.rrMap ?_ (fun _ => rfl)
    | with_reducible apply Follows.rrMap
    | with_reducible apply Follows.when
    | with_reducible refine Follows.ite (fun _ => ?_) (fun _ => ?_)
    | (intro _; simp only [updFirst_length, updAll_length, updAt_length, List.length_map, List.length_replicate, List.length_range, and_self])
    | with_reducible exact ⟨rfl, rfl, rfl⟩
    | with_reducible exact ⟨rfl, rfl⟩
    | with_reducible rfl
    | with_reducible exact Nat.le_refl _
    | intro _
    | split

theorem Follows.linkRetrain {b0 : State} {s : State} {port : Nat} {width : Nat} {speed : Nat} {flit : Bool} (hb0 : Follows b0 s) : Follows b0 (State.linkRetrain s port width speed flit) := by
  unfold State.linkRetrain
  try dsimp only
  repeat' first
    | with_reducible assumption
    | with_reducible apply Follows.fnMap
    | with_reducible apply Follows.ev
    | with_reducible refine Follows.hostMap ?_ (fun _ => ⟨rfl, rfl⟩)
    | with_reducible apply Follows.hostMap
    | with_reducible apply Follows.when
    | with_reducible refine Follows.ite (fun _ => ?_) (fun _ => ?_)
    | (intro _; simp only [updFirst_length, updAll_length, updAt_length, List.length_map, List.length_replicate, List.length_range, and_self])
    | with_reducible exact ⟨rfl, rfl, rfl⟩
    | with_reducible exact ⟨rfl, rfl⟩
    | with_reducible rfl
    | with_reducible exact Nat.le_refl _
    | intro _
    | split

end Sys2Proof.Machine
end

