-- ==== Sys2Proof/Laws/FollowsFirmware.lean ====
section
/-!
SUPPORT. The operations of Machine/Firmware.lean keep what `Follows` says.
-/
namespace Sys2Proof.Machine

theorem Follows.bankMap {b0 : State} {s : State} {k : Nat} {f : Area → Area} (hb0 : Follows b0 s) : Follows b0 (State.bankMap s k f) := by
  unfold State.bankMap
  try dsimp only
  repeat' first
    | with_reducible assumption
    | with_reducible apply Follows.pwrMap
    | with_reducible refine Follows.ite (fun _ => ?_) (fun _ => ?_)
    | intro _
    | split

theorem Follows.bootMap {b0 : State} {s : State} {f : Boot → Boot} (hb0 : Follows b0 s) : Follows b0 (State.bootMap s f) := by
  unfold State.bootMap
  try dsimp only
  repeat' first
    | with_reducible assumption
    | with_reducible apply Follows.pwrMap
    | with_reducible refine Follows.ite (fun _ => ?_) (fun _ => ?_)
    | intro _

theorem Follows.logBoot {b0 : State} {s : State} (hb0 : Follows b0 s) : Follows b0 (State.logBoot s) := by
  unfold State.logBoot
  try dsimp only
  repeat' first
    | with_reducible assumption
    | with_reducible apply Follows.logFlash
    | with_reducible refine Follows.ite (fun _ => ?_) (fun _ => ?_)

theorem Follows.fallBack {b0 : State} {s : State} (hb0 : Follows b0 s) : Follows b0 (State.fallBack s) := by
  unfold State.fallBack
  try dsimp only
  repeat' first
    | with_reducible assumption
    | with_reducible apply Follows.bootMap
    | with_reducible apply Follows.logBoot
    | with_reducible refine Follows.ite (fun _ => ?_) (fun _ => ?_)
    | intro _

theorem Follows.selectBank {b0 : State} {s : State} {retained : Bool} (hb0 : Follows b0 s) : Follows b0 (State.selectBank s retained) := by
  unfold State.selectBank
  try dsimp only
  repeat' first
    | with_reducible assumption
    | with_reducible apply Follows.fallBack
    | with_reducible apply Follows.bootMap
    | with_reducible apply Follows.logBoot
    | with_reducible refine Follows.ite (fun _ => ?_) (fun _ => ?_)
    | intro _
    | split

theorem Follows.reloadBank {b0 : State} {s : State} (hb0 : Follows b0 s) : Follows b0 (State.reloadBank s) := by
  unfold State.reloadBank
  try dsimp only
  repeat' first
    | with_reducible assumption
    | with_reducible apply Follows.bootMap
    | with_reducible refine Follows.ite (fun _ => ?_) (fun _ => ?_)
    | intro _

theorem Follows.raiseSvn {b0 : State} {s : State} (hb0 : Follows b0 s) : Follows b0 (State.raiseSvn s) := by
  unfold State.raiseSvn
  try dsimp only
  repeat' first
    | with_reducible assumption
    | with_reducible apply Follows.bootMap
    | with_reducible refine Follows.ite (fun _ => ?_) (fun _ => ?_)
    | intro _
    | split

theorem Follows.spmMap {b0 : State} {s : State} {f : Spm → Spm} (hb0 : Follows b0 s) : Follows b0 (State.spmMap s f) := by
  unfold State.spmMap
  try dsimp only
  repeat' first
    | with_reducible assumption
    | with_reducible apply Follows.pwrMap
    | with_reducible refine Follows.ite (fun _ => ?_) (fun _ => ?_)
    | intro _

theorem Follows.startFlash {b0 : State} {s : State} {erase : Bool} {addr : Nat} {len : Nat} (hb0 : Follows b0 s) : Follows b0 (State.startFlash s erase addr len) := by
  unfold State.startFlash
  try dsimp only
  repeat' first
    | with_reducible assumption
    | with_reducible apply Follows.spmMap
    | with_reducible refine Follows.ite (fun _ => ?_) (fun _ => ?_)
    | intro _

theorem Follows.nextFlash {b0 : State} {s : State} (hb0 : Follows b0 s) : Follows b0 (State.nextFlash s) := by
  unfold State.nextFlash
  try dsimp only
  repeat' first
    | with_reducible assumption
    | with_reducible apply Follows.startFlash
    | with_reducible apply Follows.pwrMap
    | with_reducible refine Follows.ite (fun _ => ?_) (fun _ => ?_)
    | intro _
    | split

theorem Follows.eraseAt {b0 : State} {s : State} {addr : Nat} {len : Nat} (hb0 : Follows b0 s) : Follows b0 (State.eraseAt s addr len) := by
  unfold State.eraseAt
  try dsimp only
  repeat' first
    | with_reducible assumption
    | with_reducible apply Follows.bankMap
    | with_reducible apply Follows.pwrMap
    | with_reducible refine Follows.ite (fun _ => ?_) (fun _ => ?_)
    | intro _
    | split

theorem Follows.programAt {b0 : State} {s : State} {addr : Nat} {b : Bytes} (hb0 : Follows b0 s) : Follows b0 (State.programAt s addr b) := by
  unfold State.programAt
  try dsimp only
  repeat' first
    | with_reducible assumption
    | with_reducible apply Follows.bankMap
    | with_reducible apply Follows.pwrMap
    | with_reducible refine Follows.ite (fun _ => ?_) (fun _ => ?_)
    | intro _
    | split

theorem Follows.fetchLine {b0 : State} {s : State} {line : Nat} (hb0 : Follows b0 s) : Follows b0 (State.fetchLine s line) := by
  unfold State.fetchLine
  try dsimp only
  repeat' first
    | with_reducible assumption
    | with_reducible apply Follows.spmMap
    | with_reducible apply Follows.inc
    | with_reducible apply Follows.emit
    | with_reducible apply Follows.tickFrees
    | with_reducible refine Follows.ite (fun _ => ?_) (fun _ => ?_)
    | intro _

theorem Follows.releaseXip {b0 : State} {s : State} (hb0 : Follows b0 s) : Follows b0 (State.releaseXip s) := by
  unfold State.releaseXip
  try dsimp only
  repeat' first
    | with_reducible assumption
    | with_reducible apply Follows.spmMap
    | with_reducible apply Follows.fetchLine
    | with_reducible apply Follows.emit
    | with_reducible apply Follows.each
    | with_reducible refine Follows.ite (fun _ => ?_) (fun _ => ?_)
    | intro _
    | split

theorem Follows.xipRead {b0 : State} {s : State} {addr : Nat} {waitNs : Nat} {t : Nat} (hb0 : Follows b0 s) : Follows b0 (State.xipRead s addr waitNs t) := by
  unfold State.xipRead
  try dsimp only
  repeat' first
    | with_reducible assumption
    | with_reducible apply Follows.advance
    | with_reducible apply Follows.spmMap
    | with_reducible apply Follows.fetchLine
    | with_reducible apply Follows.ev
    | with_reducible apply Follows.inc
    | with_reducible apply Follows.peak
    | with_reducible apply Follows.emit
    | with_reducible apply Follows.when
    | with_reducible refine Follows.ite (fun _ => ?_) (fun _ => ?_)
    | intro _
    | split

theorem Follows.xipResume {b0 : State} {s : State} {t : Nat} (hb0 : Follows b0 s) : Follows b0 (State.xipResume s t) := by
  unfold State.xipResume
  try dsimp only
  repeat' first
    | with_reducible assumption
    | with_reducible apply Follows.advance
    | with_reducible apply Follows.spmMap
    | with_reducible refine Follows.ite (fun _ => ?_) (fun _ => ?_)
    | intro _
    | split

theorem Follows.endFlash {b0 : State} {s : State} {o : FlashOp} {page : Bytes} (hb0 : Follows b0 s) : Follows b0 (State.endFlash s o page) := by
  unfold State.endFlash
  try dsimp only
  repeat' first
    | with_reducible assumption
    | with_reducible apply Follows.eraseAt
    | with_reducible apply Follows.programAt
    | with_reducible apply Follows.spmMap
    | with_reducible apply Follows.releaseXip
    | with_reducible apply Follows.when
    | with_reducible refine Follows.ite (fun _ => ?_) (fun _ => ?_)
    | intro _
    | split

theorem Follows.flashDone {b0 : State} {s : State} {t : Nat} (hb0 : Follows b0 s) : Follows b0 (State.flashDone s t) := by
  unfold State.flashDone
  try dsimp only
  repeat' first
    | with_reducible assumption
    | with_reducible apply Follows.advance
    | with_reducible apply Follows.endFlash
    | with_reducible apply Follows.nextFlash
    | with_reducible apply Follows.pwrMap
    | with_reducible refine Follows.ite (fun _ => ?_) (fun _ => ?_)
    | intro _
    | split

theorem Follows.chunkDone {b0 : State} {s : State} {t : Nat} (hb0 : Follows b0 s) : Follows b0 (State.chunkDone s t) := by
  unfold State.chunkDone
  try dsimp only
  repeat' first
    | with_reducible assumption
    | with_reducible apply Follows.advance
    | with_reducible apply Follows.endFlash
    | with_reducible apply Follows.nextFlash
    | with_reducible apply Follows.pwrMap
    | with_reducible refine Follows.ite (fun _ => ?_) (fun _ => ?_)
    | intro _
    | split

theorem Follows.spmTransfer {b0 : State} {s : State} {c : SpmCmd} {addr : Nat} {data : Bytes} {t : Nat} (hb0 : Follows b0 s) : Follows b0 (State.spmTransfer s c addr data t) := by
  unfold State.spmTransfer
  try dsimp only
  repeat' first
    | with_reducible assumption
    | with_reducible apply Follows.advance
    | with_reducible apply Follows.spmMap
    | with_reducible apply Follows.startFlash
    | with_reducible apply Follows.programAt
    | with_reducible refine Follows.ite (fun _ => ?_) (fun _ => ?_)
    | intro _
    | split

theorem Follows.stageWrite {b0 : State} {s : State} {c : Cmd} (hb0 : Follows b0 s) : Follows b0 (State.stageWrite s c) := by
  unfold State.stageWrite
  try dsimp only
  repeat' first
    | with_reducible assumption
    | with_reducible apply Follows.bootMap
    | with_reducible apply Follows.cmdMap
    | with_reducible apply Follows.nextFlash
    | with_reducible apply Follows.pwrMap
    | with_reducible refine Follows.ite (fun _ => ?_) (fun _ => ?_)
    | intro _
    | split

theorem Follows.tellMgc {b0 : State} {s : State} (hb0 : Follows b0 s) : Follows b0 (State.tellMgc s) := by
  unfold State.tellMgc
  try dsimp only
  repeat' first
    | with_reducible assumption
    | with_reducible apply Follows.tickFrees
    | with_reducible apply Follows.pwrMap
    | with_reducible refine Follows.ite (fun _ => ?_) (fun _ => ?_)
    | intro _

theorem Follows.hearCnd {b0 : State} {s : State} (hb0 : Follows b0 s) : Follows b0 (State.hearCnd s) := by
  unfold State.hearCnd
  try dsimp only
  repeat' first
    | with_reducible assumption
    | with_reducible apply Follows.pwrMap
    | with_reducible refine Follows.ite (fun _ => ?_) (fun _ => ?_)
    | intro _

theorem Follows.answerCnd {b0 : State} {s : State} (hb0 : Follows b0 s) : Follows b0 (State.answerCnd s) := by
  unfold State.answerCnd
  try dsimp only
  repeat' first
    | with_reducible assumption
    | with_reducible apply Follows.tickFrees
    | with_reducible apply Follows.pwrMap
    | with_reducible refine Follows.ite (fun _ => ?_) (fun _ => ?_)
    | intro _

theorem Follows.fwStage {b0 : State} {s : State} {c : Cmd} (hb0 : Follows b0 s) : Follows b0 (State.fwStage s c) := by
  unfold State.fwStage
  try dsimp only
  repeat' first
    | with_reducible assumption
    | with_reducible apply Follows.tellMgc
    | with_reducible apply Follows.cmdMap
    | with_reducible apply Follows.hearCnd
    | with_reducible apply Follows.stageWrite
    | with_reducible apply Follows.pwrMap
    | with_reducible refine Follows.ite (fun _ => ?_) (fun _ => ?_)
    | intro _
    | split

theorem Follows.stageNext {b0 : State} {s : State} (hb0 : Follows b0 s) : Follows b0 (State.stageNext s) := by
  unfold State.stageNext
  try dsimp only
  repeat' first
    | with_reducible assumption
    | with_reducible apply Follows.hearCnd
    | with_reducible apply Follows.stageWrite
    | with_reducible apply Follows.pwrMap
    | with_reducible refine Follows.ite (fun _ => ?_) (fun _ => ?_)
    | intro _
    | split

theorem Follows.stageVerify {b0 : State} {s : State} {cid : Nat} (hb0 : Follows b0 s) : Follows b0 (State.stageVerify s cid) := by
  unfold State.stageVerify
  try dsimp only
  repeat' first
    | with_reducible assumption
    | with_reducible apply Follows.answerCnd
    | with_reducible apply Follows.bootMap
    | with_reducible apply Follows.complete
    | with_reducible apply Follows.stageNext
    | with_reducible apply Follows.pwrMap
    | with_reducible refine Follows.ite (fun _ => ?_) (fun _ => ?_)
    | intro _
    | split

theorem Follows.coldCheck {b0 : State} {s : State} (hb0 : Follows b0 s) : Follows b0 (State.coldCheck s) := by
  unfold State.coldCheck
  try dsimp only
  repeat' first
    | with_reducible assumption
    | with_reducible apply Follows.bootMap
    | with_reducible apply Follows.releaseXip
    | with_reducible apply Follows.ev
    | with_reducible apply Follows.when
    | with_reducible refine Follows.ite (fun _ => ?_) (fun _ => ?_)
    | intro _
    | split

end Sys2Proof.Machine
end

