-- ==== Sys2Proof/Laws/FollowsGpio.lean ====
section
/-!
SUPPORT. The operations of Machine/Gpio.lean keep what `Follows` says.
-/
namespace Sys2Proof.Machine

theorem Follows.pinMap {b0 : State} {s : State} {f : Pins → Pins} (hb0 : Follows b0 s) : Follows b0 (State.pinMap s f) := by
  unfold State.pinMap
  try dsimp only
  repeat' first
    | with_reducible assumption
    | with_reducible apply Follows.pwrMap
    | with_reducible refine Follows.ite (fun _ => ?_) (fun _ => ?_)
    | intro _

theorem Follows.sleepPins {b0 : State} {s : State} {k : Nat} (hb0 : Follows b0 s) : Follows b0 (State.sleepPins s k) := by
  unfold State.sleepPins
  try dsimp only
  repeat' first
    | with_reducible assumption
    | with_reducible apply Follows.pinMap
    | with_reducible apply Follows.tickFrees
    | with_reducible refine Follows.ite (fun _ => ?_) (fun _ => ?_)
    | intro _
    | split

theorem Follows.wakePins {b0 : State} {s : State} (hb0 : Follows b0 s) : Follows b0 (State.wakePins s) := by
  unfold State.wakePins
  try dsimp only
  repeat' first
    | with_reducible assumption
    | with_reducible apply Follows.pinMap
    | with_reducible refine Follows.ite (fun _ => ?_) (fun _ => ?_)
    | intro _

theorem Follows.lockedWrite {b0 : State} {s : State} (hb0 : Follows b0 s) : Follows b0 (State.lockedWrite s) := by
  unfold State.lockedWrite
  try dsimp only
  repeat' first
    | with_reducible assumption
    | with_reducible apply Follows.ev
    | with_reducible apply Follows.inc
    | with_reducible refine Follows.ite (fun _ => ?_) (fun _ => ?_)

theorem Follows.gpioOut {b0 : State} {s : State} {v : Nat} (hb0 : Follows b0 s) : Follows b0 (State.gpioOut s v) := by
  unfold State.gpioOut
  try dsimp only
  repeat' first
    | with_reducible assumption
    | with_reducible apply Follows.wr
    | with_reducible refine Follows.ite (fun _ => ?_) (fun _ => ?_)

theorem Follows.gpioSetBits {b0 : State} {s : State} {b : Nat} (hb0 : Follows b0 s) : Follows b0 (State.gpioSetBits s b) := by
  unfold State.gpioSetBits
  try dsimp only
  repeat' first
    | with_reducible assumption
    | with_reducible apply Follows.gpioOut
    | with_reducible refine Follows.ite (fun _ => ?_) (fun _ => ?_)

theorem Follows.gpioClrBits {b0 : State} {s : State} {b : Nat} (hb0 : Follows b0 s) : Follows b0 (State.gpioClrBits s b) := by
  unfold State.gpioClrBits
  try dsimp only
  repeat' first
    | with_reducible assumption
    | with_reducible apply Follows.gpioOut
    | with_reducible refine Follows.ite (fun _ => ?_) (fun _ => ?_)

theorem Follows.gpioTogBits {b0 : State} {s : State} {b : Nat} (hb0 : Follows b0 s) : Follows b0 (State.gpioTogBits s b) := by
  unfold State.gpioTogBits
  try dsimp only
  repeat' first
    | with_reducible assumption
    | with_reducible apply Follows.gpioOut
    | with_reducible refine Follows.ite (fun _ => ?_) (fun _ => ?_)

theorem Follows.gpioOe {b0 : State} {s : State} {v : Nat} (hb0 : Follows b0 s) : Follows b0 (State.gpioOe s v) := by
  unfold State.gpioOe
  try dsimp only
  repeat' first
    | with_reducible assumption
    | with_reducible apply Follows.lockedWrite
    | with_reducible apply Follows.wr
    | with_reducible apply Follows.when
    | with_reducible refine Follows.ite (fun _ => ?_) (fun _ => ?_)

theorem Follows.gpioPin {b0 : State} {s : State} {p : Nat} {bad : Bool} {f : State → State} (hb0 : Follows b0 s) (hf_f : ∀ t, Follows b0 t → Follows b0 (f t)) : Follows b0 (State.gpioPin s p bad f) := by
  unfold State.gpioPin
  try dsimp only
  repeat' first
    | with_reducible assumption
    | apply hf_f
    | with_reducible apply Follows.lockedWrite
    | with_reducible apply Follows.ev
    | with_reducible refine Follows.ite (fun _ => ?_) (fun _ => ?_)
    | split

theorem Follows.bankMode {b0 : State} {s : State} {v : Nat} (hb0 : Follows b0 s) : Follows b0 (State.bankMode s v) := by
  unfold State.bankMode
  try dsimp only
  repeat' first
    | with_reducible assumption
    | with_reducible apply Follows.lockedWrite
    | with_reducible apply Follows.wr
    | with_reducible apply Follows.when
    | with_reducible refine Follows.ite (fun _ => ?_) (fun _ => ?_)
    | intro _

theorem Follows.gpioLock {b0 : State} {s : State} {src : PinSrc} {v : Nat} (hb0 : Follows b0 s) : Follows b0 (State.gpioLock s src v) := by
  unfold State.gpioLock
  try dsimp only
  repeat' first
    | with_reducible assumption
    | with_reducible apply Follows.pinMap
    | with_reducible apply Follows.wr
    | with_reducible refine Follows.ite (fun _ => ?_) (fun _ => ?_)
    | intro _
    | split

theorem ifSome {α : Type} {c : Prop} [Decidable c] {x y : Option α} {t : α} {P : Prop} (e : (if c then x else y) = some t)
    (hx : x = some t → P) (hy : y = some t → P) : P := by
  split at e
  · exact hx e
  · exact hy e

theorem Follows.gpioWrite {b0 t0 : State} {s : State} {src : PinSrc} {off : Nat} {v : Nat} (e : State.gpioWrite s src off v = some t0) (hb0 : Follows b0 s) : Follows b0 t0 := by
  unfold State.gpioWrite at e
  dsimp only at e
  repeat' (refine ifSome e ?_ ?_ <;> clear e <;> intro e)
  all_goals first
    | rw [← Option.some.inj e]
    | cases e
  all_goals repeat' first
    | with_reducible assumption
    | with_reducible apply Follows.gpioOut
    | with_reducible apply Follows.gpioSetBits
    | with_reducible apply Follows.gpioClrBits
    | with_reducible apply Follows.gpioTogBits
    | with_reducible apply Follows.gpioOe
    | with_reducible apply Follows.gpioLock
    | with_reducible apply Follows.bankMode
    | with_reducible apply Follows.gpioPin
    | with_reducible apply Follows.pinMap
    | with_reducible apply Follows.wr
    | with_reducible apply Follows.ev
    | with_reducible refine Follows.ite (fun _ => ?_) (fun _ => ?_)
    | intro _

/-- A write of a pin register, or another change where the register is not one of those. -/
theorem Follows.gpioOr {b0 : State} {s u : State} {src : PinSrc} {off : Nat} {v : Nat} (hs : Follows b0 s) (hu : Follows b0 u) :
    Follows b0 ((s.gpioWrite src off v).getD u) := by
  cases e : s.gpioWrite src off v with
  | none => exact hu
  | some t => exact Follows.gpioWrite e hs

theorem Follows.pmSample {b0 : State} {s : State} {m : Nat} {level : Nat} (hb0 : Follows b0 s) : Follows b0 (State.pmSample s m level).1 := by
  unfold State.pmSample
  try dsimp only
  repeat' first
    | with_reducible assumption
    | with_reducible apply Follows.pinMap
    | with_reducible apply Follows.wr
    | with_reducible refine Follows.ite (fun _ => ?_) (fun _ => ?_)
    | intro _
    | split

theorem Follows.foldFst {α β : Type} {b0 s : State} {f : State × β → α → State × β} (hf : ∀ p x, Follows b0 p.1 → Follows b0 (f p x).1)
    (l : List α) (y : β) (hb0 : Follows b0 s) : Follows b0 (l.foldl f (s, y)).1 := by
  induction l generalizing s y with
  | nil => exact hb0
  | cons x l ih => exact ih (f (s, y) x).2 (hf (s, y) x hb0)

theorem Follows.pmRun {b0 : State} {s : State} {mask level n : Nat} (hb0 : Follows b0 s) : Follows b0 (State.pmRun s mask level n).1 := by
  unfold State.pmRun
  dsimp only
  refine Follows.foldFst (fun p _ hp => ?_) _ _ (Follows.pinMap hb0)
  refine Follows.foldFst (fun p _ hp => ?_) _ _ (Follows.tickFrees _ hp)
  exact Follows.pmSample hp

end Sys2Proof.Machine
end

