-- ==== Sys2Proof/Laws/FollowsPower.lean ====
section
/-!
SUPPORT. The operations of Machine/Power.lean keep what `Follows` says.
-/
namespace Sys2Proof.Machine

theorem Follows.clearRegs {b0 : State} {s : State} {p : Fld → Bool} (hb0 : Follows b0 s) : Follows b0 (State.clearRegs s p) := by
  exact hb0.ofRegs (fun r => ⟨regSorted_filter _ _ r.1, regSorted_filter _ _ r.2.1, rfl, regSorted_filter _ _ r.2.2.2⟩) rfl rfl rfl rfl rfl rfl rfl rfl rfl

theorem Follows.dropWork {b0 : State} {s : State} {warm : Bool} (hb0 : Follows b0 s) : Follows b0 (State.dropWork s warm) := by
  refine ⟨fun hb => ?_, hb0.pending, hb0.out, hb0.now, hb0.free⟩
  have g := (State.sound_iff s).1 (hb0.sound hb)
  rw [State.sound_iff]
  refine ⟨g.1, rfl, rfl, rfl, rfl, ?_, g.2.2.2.2.2.2.1, ?_, ?_⟩
  · exact (List.length_map ..).trans g.2.2.2.2.2.1
  · exact (List.length_map ..).trans g.2.2.2.2.2.2.2.1
  · cases warm <;> exact (List.length_map ..).trans g.2.2.2.2.2.2.2.2

theorem Follows.weaveAfter {b0 : State} {s : State} {warm : Bool} (hb0 : Follows b0 s) : Follows b0 (State.weaveAfter s warm) := by
  unfold State.weaveAfter
  cases warm <;> exact hb0.weaveSet (fun _ _ => rfl)

theorem Follows.loseStaging {b0 : State} {s : State} (hb0 : Follows b0 s) : Follows b0 (State.loseStaging s) := by
  unfold State.loseStaging
  try dsimp only
  repeat' first
    | with_reducible assumption
    | with_reducible apply Follows.storeMap
    | with_reducible refine Follows.ite (fun _ => ?_) (fun _ => ?_)
    | intro _

theorem Follows.loseStore {b0 : State} {s : State} (hb0 : Follows b0 s) : Follows b0 (State.loseStore s) :=
  hb0.storeMap (f := fun _ => storeReset)

theorem Follows.pinsReset {b0 : State} {s : State} (hb0 : Follows b0 s) : Follows b0 (State.pinsReset s) := by
  refine Follows.wr _ _ _ (Follows.pinMap ?_)
  exact hb0.ofRegs (fun r => ⟨regSorted_filter _ _ r.1, r.2⟩) rfl rfl rfl rfl rfl rfl rfl rfl rfl

theorem Follows.gaugeMap {b0 : State} {s : State} {f : Gauge → Gauge} (hb0 : Follows b0 s) : Follows b0 (State.gaugeMap s f) := by
  unfold State.gaugeMap
  try dsimp only
  repeat' first
    | with_reducible assumption
    | with_reducible apply Follows.pwrMap
    | with_reducible refine Follows.ite (fun _ => ?_) (fun _ => ?_)
    | intro _

theorem Follows.gaugeFault {b0 : State} {s : State} (hb0 : Follows b0 s) : Follows b0 (State.gaugeFault s) := by
  unfold State.gaugeFault
  try dsimp only
  repeat' first
    | with_reducible assumption
    | with_reducible apply Follows.gaugeMap
    | with_reducible apply Follows.powerEvent
    | with_reducible apply Follows.alertOn
    | with_reducible apply Follows.logError
    | with_reducible apply Follows.pwrMap
    | with_reducible refine Follows.ite (fun _ => ?_) (fun _ => ?_)
    | intro _
    | split

theorem Follows.rearm {b0 : State} {s : State} (hb0 : Follows b0 s) : Follows b0 (State.rearm s) := by
  unfold State.rearm
  try dsimp only
  repeat' first
    | with_reducible assumption
    | with_reducible apply Follows.powerEvent
    | with_reducible apply Follows.gaugeMap
    | with_reducible apply Follows.when
    | with_reducible refine Follows.ite (fun _ => ?_) (fun _ => ?_)
    | intro _

theorem Follows.tryClose {b0 : State} {s : State} (hb0 : Follows b0 s) : Follows b0 (State.tryClose s) := by
  unfold State.tryClose
  try dsimp only
  repeat' first
    | with_reducible assumption
    | with_reducible apply Follows.pwrMap
    | with_reducible refine Follows.ite (fun _ => ?_) (fun _ => ?_)
    | intro _
    | split

theorem Follows.coreOff {b0 : State} {s : State} (hb0 : Follows b0 s) : Follows b0 (State.coreOff s) := by
  unfold State.coreOff
  try dsimp only
  repeat' first
    | with_reducible assumption
    | with_reducible apply Follows.pwrMap
    | with_reducible refine Follows.ite (fun _ => ?_) (fun _ => ?_)
    | intro _

theorem Follows.fermataRecord {b0 : State} {s : State} {cause : Nat} {outcome : Nat} (hb0 : Follows b0 s) : Follows b0 (State.fermataRecord s cause outcome) := by
  unfold State.fermataRecord
  try dsimp only
  repeat' first
    | with_reducible assumption
    | with_reducible apply Follows.tickFrees
    | with_reducible apply Follows.measured
    | with_reducible apply Follows.pwrMap
    | with_reducible refine Follows.ite (fun _ => ?_) (fun _ => ?_)
    | intro _

theorem Follows.finishSlab {b0 : State} {s : State} {j : Journal} (hb0 : Follows b0 s) : Follows b0 (State.finishSlab s j) := by
  unfold State.finishSlab
  try dsimp only
  repeat' first
    | with_reducible assumption
    | with_reducible apply Follows.slabRollback
    | with_reducible apply Follows.slabCommit
    | with_reducible apply Follows.storeMap
    | with_reducible refine Follows.ite (fun _ => ?_) (fun _ => ?_)
    | intro _
    | split

theorem Follows.finishSlabs {b0 : State} {s : State} (hb0 : Follows b0 s) : Follows b0 (State.finishSlabs s) := by
  unfold State.finishSlabs
  try dsimp only
  repeat' first
    | with_reducible assumption
    | with_reducible apply Follows.finishSlab
    | with_reducible apply Follows.each
    | with_reducible refine Follows.ite (fun _ => ?_) (fun _ => ?_)
    | intro _
    | split

theorem Follows.selfRefresh {b0 : State} {s : State} {on : Bool} (hb0 : Follows b0 s) : Follows b0 (State.selfRefresh s on) := by
  unfold State.selfRefresh
  try dsimp only
  repeat' first
    | with_reducible assumption
    | with_reducible refine Follows.memMap ?_ (fun _ => rfl)
    | with_reducible apply Follows.memMap
    | with_reducible refine Follows.ite (fun _ => ?_) (fun _ => ?_)
    | (intro _; simp only [updFirst_length, updAll_length, updAt_length, List.length_map, List.length_replicate, List.length_range, and_self])
    | with_reducible exact ⟨rfl, rfl, rfl⟩
    | with_reducible exact ⟨rfl, rfl⟩
    | with_reducible rfl
    | with_reducible exact Nat.le_refl _
    | intro _

theorem Follows.fermataEnter {b0 : State} {s : State} {cause : Nat} {image : Bool} (hb0 : Follows b0 s) : Follows b0 (State.fermataEnter s cause image) := by
  unfold State.fermataEnter
  try dsimp only
  repeat' first
    | with_reducible assumption
    | with_reducible apply Follows.fermataRecord
    | with_reducible apply Follows.endDrops
    | with_reducible apply Follows.finishSlabs
    | with_reducible apply Follows.selfRefresh
    | with_reducible apply Follows.sleepPins
    | with_reducible apply Follows.clearRegs
    | with_reducible apply Follows.dropWork
    | with_reducible apply Follows.weaveAfter
    | with_reducible apply Follows.coreOff
    | with_reducible refine Follows.weaveMap ?_ (fun _ => rfl)
    | with_reducible apply Follows.weaveMap
    | with_reducible apply Follows.storeMap
    | with_reducible apply Follows.pwrMap
    | with_reducible refine Follows.ite (fun _ => ?_) (fun _ => ?_)
    | (intro _; simp only [updFirst_length, updAll_length, updAt_length, List.length_map, List.length_replicate, List.length_range, and_self])
    | with_reducible exact ⟨rfl, rfl, rfl⟩
    | with_reducible exact ⟨rfl, rfl⟩
    | with_reducible rfl
    | with_reducible exact Nat.le_refl _
    | intro _
    | split

theorem Follows.fermataRefuse {b0 : State} {s : State} (hb0 : Follows b0 s) : Follows b0 (State.fermataRefuse s) := by
  unfold State.fermataRefuse
  try dsimp only
  repeat' first
    | with_reducible assumption
    | with_reducible apply Follows.fermataRecord
    | with_reducible apply Follows.logFlash
    | with_reducible apply Follows.clearRegs
    | with_reducible apply Follows.dropWork
    | with_reducible apply Follows.weaveAfter
    | with_reducible apply Follows.loseStore
    | with_reducible apply Follows.coreOff
    | with_reducible apply Follows.pwrMap
    | with_reducible refine Follows.ite (fun _ => ?_) (fun _ => ?_)
    | intro _
    | split

theorem Follows.backToOff {b0 : State} {s : State} (hb0 : Follows b0 s) : Follows b0 (State.backToOff s) := by
  unfold State.backToOff
  try dsimp only
  repeat' first
    | with_reducible assumption
    | with_reducible apply Follows.clearRegs
    | with_reducible apply Follows.dropWork
    | with_reducible apply Follows.weaveAfter
    | with_reducible apply Follows.loseStore
    | with_reducible apply Follows.coreOff
    | with_reducible apply Follows.pwrMap
    | with_reducible refine Follows.ite (fun _ => ?_) (fun _ => ?_)
    | intro _
    | split

theorem Follows.backToFermata {b0 : State} {s : State} (hb0 : Follows b0 s) : Follows b0 (State.backToFermata s) := by
  unfold State.backToFermata
  try dsimp only
  repeat' first
    | with_reducible assumption
    | with_reducible apply Follows.coreOff
    | with_reducible apply Follows.pwrMap
    | with_reducible refine Follows.ite (fun _ => ?_) (fun _ => ?_)
    | intro _

theorem Follows.powerFail {b0 : State} {s : State} {cause : Nat} {planned : Bool} (hb0 : Follows b0 s) : Follows b0 (State.powerFail s cause planned) := by
  unfold State.powerFail
  try dsimp only
  repeat' first
    | with_reducible assumption
    | with_reducible apply Follows.coreOff
    | with_reducible apply Follows.backToOff
    | with_reducible apply Follows.backToFermata
    | with_reducible apply Follows.fermataEnter
    | with_reducible apply Follows.fermataRefuse
    | with_reducible refine Follows.ite (fun _ => ?_) (fun _ => ?_)
    | intro _
    | split

theorem Follows.retentionLost {b0 : State} {s : State} (hb0 : Follows b0 s) : Follows b0 (State.retentionLost s) := by
  unfold State.retentionLost
  try dsimp only
  repeat' first
    | with_reducible assumption
    | with_reducible apply Follows.logFlash
    | with_reducible apply Follows.loseStore
    | with_reducible apply Follows.coreOff
    | with_reducible apply Follows.pwrMap
    | with_reducible refine Follows.ite (fun _ => ?_) (fun _ => ?_)
    | intro _
    | split

theorem Follows.insertAll {b0 : State} {s : State} (l : List (Nat × Nat)) (hb0 : Follows b0 s) :
    Follows b0 { s with regs := l.foldl (fun r (e : Nat × Nat) => regInsert e.1 e.2 r) s.regs } :=
  hb0.ofRegs (fun r => ⟨regSorted_foldInsert _ _ r.1, r.2⟩) rfl rfl rfl rfl rfl rfl rfl rfl rfl

theorem Follows.asMrst {b0 : State} {s : State} (hb0 : Follows b0 s) : Follows b0 (State.asMrst s) :=
  by
    unfold State.asMrst
    dsimp only
    refine Follows.pwrMap (Follows.storeMap ?_)
    exact hb0.insertAll _

theorem Follows.mrst {b0 : State} {s : State} (hb0 : Follows b0 s) : Follows b0 (State.mrst s) := by
  unfold State.mrst
  try dsimp only
  repeat' first
    | with_reducible assumption
    | with_reducible apply Follows.pinsReset
    | with_reducible apply Follows.asMrst
    | with_reducible apply Follows.endDrops
    | with_reducible apply Follows.selfRefresh
    | with_reducible apply Follows.clearRegs
    | with_reducible apply Follows.dropWork
    | with_reducible apply Follows.weaveAfter
    | with_reducible apply Follows.loseStaging
    | with_reducible apply Follows.wr
    | with_reducible apply Follows.storeMap
    | with_reducible apply Follows.pwrMap
    | with_reducible apply Follows.when
    | with_reducible refine Follows.ite (fun _ => ?_) (fun _ => ?_)
    | intro _
    | split

theorem Follows.markLost {b0 : State} {s : State} (hb0 : Follows b0 s) : Follows b0 (State.markLost s) := by
  unfold State.markLost
  try dsimp only
  repeat' first
    | with_reducible assumption
    | with_reducible apply Follows.ev
    | with_reducible apply Follows.inc
    | with_reducible refine Follows.hostMap ?_ (fun _ => ⟨rfl, rfl⟩)
    | with_reducible apply Follows.hostMap
    | with_reducible refine Follows.ite (fun _ => ?_) (fun _ => ?_)
    | (intro _; simp only [updFirst_length, updAll_length, updAt_length, List.length_map, List.length_replicate, List.length_range, and_self])
    | with_reducible exact ⟨rfl, rfl, rfl⟩
    | with_reducible exact ⟨rfl, rfl⟩
    | with_reducible rfl
    | with_reducible exact Nat.le_refl _
    | intro _
    | split

theorem Follows.warmReset {b0 : State} {s : State} {link : Bool} (hb0 : Follows b0 s) : Follows b0 (State.warmReset s link) := by
  unfold State.warmReset
  try dsimp only
  repeat' first
    | with_reducible assumption
    | with_reducible apply Follows.mrst
    | with_reducible apply Follows.endDrops
    | with_reducible apply Follows.selfRefresh
    | with_reducible apply Follows.clearRegs
    | with_reducible apply Follows.markLost
    | with_reducible apply Follows.dropWork
    | with_reducible apply Follows.weaveAfter
    | with_reducible apply Follows.loseStaging
    | with_reducible apply Follows.wr
    | with_reducible apply Follows.pwrMap
    | with_reducible refine Follows.ite (fun _ => ?_) (fun _ => ?_)
    | intro _
    | split

theorem Follows.rstCtrl {b0 : State} {s : State} {v : Nat} (hb0 : Follows b0 s) : Follows b0 (State.rstCtrl s v) := by
  unfold State.rstCtrl
  try dsimp only
  repeat' first
    | with_reducible assumption
    | with_reducible apply Follows.warmReset
    | with_reducible refine Follows.ite (fun _ => ?_) (fun _ => ?_)
    | split

theorem Follows.auxLoss {b0 : State} {s : State} (hb0 : Follows b0 s) : Follows b0 (State.auxLoss s) := by
  unfold State.auxLoss
  try dsimp only
  repeat' first
    | with_reducible assumption
    | with_reducible refine Follows.memSet ?_ (fun _ _ => rfl)
    | with_reducible apply Follows.clearRegs
    | with_reducible apply Follows.dropWork
    | with_reducible apply Follows.weaveAfter
    | with_reducible apply Follows.loseStore
    | with_reducible apply Follows.coreOff
    | with_reducible refine Follows.memMap ?_ (fun _ => rfl)
    | with_reducible apply Follows.memMap
    | with_reducible apply Follows.pwrMap
    | with_reducible refine Follows.ite (fun _ => ?_) (fun _ => ?_)
    | (intro _; simp only [updFirst_length, updAll_length, updAt_length, List.length_map, List.length_replicate, List.length_range, and_self])
    | with_reducible exact ⟨rfl, rfl, rfl⟩
    | with_reducible exact ⟨rfl, rfl⟩
    | with_reducible rfl
    | with_reducible exact Nat.le_refl _
    | intro _

theorem Follows.auxStart {b0 : State} {s : State} {auxMv : Nat} (hb0 : Follows b0 s) : Follows b0 (State.auxStart s auxMv) := by
  unfold State.auxStart
  try dsimp only
  repeat' first
    | with_reducible assumption
    | with_reducible apply Follows.auxLoss
    | with_reducible apply Follows.pinsReset
    | with_reducible apply Follows.spmMap
    | with_reducible apply Follows.fallBack
    | with_reducible apply Follows.gaugeMap
    | with_reducible apply Follows.wr
    | with_reducible apply Follows.tickFree
    | with_reducible apply Follows.measured
    | with_reducible apply Follows.pwrMap
    | with_reducible refine Follows.ite (fun _ => ?_) (fun _ => ?_)
    | intro _
    | split

theorem Follows.coreStart {b0 : State} {s : State} {split : Bool} {t : Nat} (hb0 : Follows b0 s) : Follows b0 (State.coreStart s split t) := by
  unfold State.coreStart
  try dsimp only
  repeat' first
    | with_reducible assumption
    | with_reducible apply Follows.advance
    | with_reducible apply Follows.selectBank
    | with_reducible apply Follows.mrst
    | with_reducible apply Follows.reloadBank
    | with_reducible apply Follows.pinsReset
    | with_reducible apply Follows.wr
    | with_reducible apply Follows.pwrMap
    | with_reducible apply Follows.when
    | with_reducible refine Follows.ite (fun _ => ?_) (fun _ => ?_)
    | intro _
    | split

theorem Follows.startTraining {b0 : State} {s : State} {i : Nat} (hb0 : Follows b0 s) : Follows b0 (State.startTraining s i) := by
  unfold State.startTraining
  try dsimp only
  repeat' first
    | with_reducible assumption
    | with_reducible apply Follows.strandMap
    | with_reducible apply Follows.wr
    | with_reducible refine Follows.clkMap ?_ (fun _ => Nat.le_refl _)
    | with_reducible apply Follows.clkMap
    | with_reducible refine Follows.ite (fun _ => ?_) (fun _ => ?_)
    | (intro _; simp only [updFirst_length, updAll_length, updAt_length, List.length_map, List.length_replicate, List.length_range, and_self])
    | with_reducible exact ⟨rfl, rfl, rfl⟩
    | with_reducible exact ⟨rfl, rfl⟩
    | with_reducible rfl
    | with_reducible exact Nat.le_refl _
    | intro _
    | split

theorem Follows.reMapOut {b0 : State} {s : State} (hb0 : Follows b0 s) : Follows b0 (State.reMapOut s) := by
  unfold State.reMapOut
  try dsimp only
  repeat' first
    | with_reducible assumption
    | with_reducible apply Follows.wr
    | with_reducible refine Follows.ite (fun _ => ?_) (fun _ => ?_)

theorem Follows.trainMemory {b0 : State} {s : State} {trained : Nat} {retained : Bool} (hb0 : Follows b0 s) : Follows b0 (State.trainMemory s trained retained) := by
  unfold State.trainMemory
  try dsimp only
  repeat' first
    | with_reducible assumption
    | with_reducible refine Follows.memSet ?_ (fun x hx => (by simp [hx]))
    | with_reducible apply Follows.setBases
    | with_reducible apply Follows.wr
    | with_reducible refine Follows.memMap ?_ (fun _ => rfl)
    | with_reducible apply Follows.memMap
    | with_reducible refine Follows.ite (fun _ => ?_) (fun _ => ?_)
    | (intro _; simp only [updFirst_length, updAll_length, updAt_length, List.length_map, List.length_replicate, List.length_range, and_self])
    | with_reducible exact ⟨rfl, rfl, rfl⟩
    | with_reducible exact ⟨rfl, rfl⟩
    | with_reducible rfl
    | with_reducible exact Nat.le_refl _
    | intro _
    | split

theorem Follows.restoreStaging {b0 : State} {s : State} (hb0 : Follows b0 s) : Follows b0 (State.restoreStaging s) := by
  unfold State.restoreStaging
  try dsimp only
  repeat' first
    | with_reducible assumption
    | with_reducible apply Follows.rebuildKills
    | with_reducible apply Follows.ev
    | with_reducible apply Follows.storeMap
    | with_reducible refine Follows.ite (fun _ => ?_) (fun _ => ?_)
    | intro _
    | split

theorem Follows.newEpoch {b0 : State} {s : State} (hb0 : Follows b0 s) : Follows b0 (State.newEpoch s) := by
  unfold State.newEpoch
  try dsimp only
  repeat' first
    | with_reducible assumption
    | with_reducible apply Follows.wr
    | with_reducible apply Follows.tickFree
    | with_reducible refine Follows.ite (fun _ => ?_) (fun _ => ?_)
    | split

theorem Follows.writeCause {b0 : State} {s : State} {f : Fld} {retained : Bool} (hb0 : Follows b0 s) : Follows b0 (State.writeCause s f retained) := by
  unfold State.writeCause
  try dsimp only
  repeat' first
    | with_reducible assumption
    | with_reducible apply Follows.wr
    | with_reducible apply Follows.each
    | with_reducible refine Follows.ite (fun _ => ?_) (fun _ => ?_)
    | intro _
    | split

theorem Follows.becomeReady {b0 : State} {s : State} (hb0 : Follows b0 s) : Follows b0 (State.becomeReady s) := by
  unfold State.becomeReady
  try dsimp only
  repeat' first
    | with_reducible assumption
    | with_reducible apply Follows.startTraining
    | with_reducible apply Follows.wakePins
    | with_reducible apply Follows.noticeChanged
    | with_reducible apply Follows.wr
    | with_reducible refine Follows.clkMap ?_ (fun _ => Nat.le_refl _)
    | with_reducible apply Follows.clkMap
    | with_reducible apply Follows.pwrMap
    | with_reducible apply Follows.each
    | with_reducible refine Follows.ite (fun _ => ?_) (fun _ => ?_)
    | (intro _; simp only [updFirst_length, updAll_length, updAt_length, List.length_map, List.length_replicate, List.length_range, and_self])
    | with_reducible exact ⟨rfl, rfl, rfl⟩
    | with_reducible exact ⟨rfl, rfl⟩
    | with_reducible rfl
    | with_reducible exact Nat.le_refl _
    | intro _

theorem Follows.closeRecord {b0 : State} {s : State} (hb0 : Follows b0 s) : Follows b0 (State.closeRecord s) := by
  unfold State.closeRecord
  try dsimp only
  repeat' first
    | with_reducible assumption
    | with_reducible apply Follows.logFlash
    | with_reducible apply Follows.pwrMap
    | with_reducible refine Follows.ite (fun _ => ?_) (fun _ => ?_)
    | intro _
    | split

theorem Follows.coreReady {b0 : State} {s : State} {trained : Nat} {t : Nat} (hb0 : Follows b0 s) : Follows b0 (State.coreReady s trained t) := by
  unfold State.coreReady
  try dsimp only
  repeat' first
    | with_reducible assumption
    | with_reducible refine Follows.insertAll _ ?_
    | with_reducible apply Follows.advance
    | with_reducible apply Follows.loseStore
    | with_reducible apply Follows.trainMemory
    | with_reducible apply Follows.reMapOut
    | with_reducible apply Follows.writeCause
    | with_reducible apply Follows.newEpoch
    | with_reducible apply Follows.raiseSvn
    | with_reducible apply Follows.becomeReady
    | with_reducible apply Follows.mrst
    | with_reducible apply Follows.recover
    | with_reducible apply Follows.loseStaging
    | with_reducible apply Follows.rebuildKills
    | with_reducible apply Follows.restoreStaging
    | with_reducible apply Follows.closeRecord
    | with_reducible apply Follows.ev
    | with_reducible apply Follows.storeMap
    | with_reducible apply Follows.pwrMap
    | with_reducible apply Follows.foldl
    | with_reducible refine Follows.ite (fun _ => ?_) (fun _ => ?_)
    | intro _
    | split

theorem Follows.wrstReady {b0 : State} {s : State} {trained : Nat} {t : Nat} (hb0 : Follows b0 s) : Follows b0 (State.wrstReady s trained t) := by
  unfold State.wrstReady
  try dsimp only
  repeat' first
    | with_reducible assumption
    | with_reducible apply Follows.advance
    | with_reducible apply Follows.selfRefresh
    | with_reducible apply Follows.trainMemory
    | with_reducible apply Follows.reloadBank
    | with_reducible apply Follows.recover
    | with_reducible apply Follows.rebuildKills
    | with_reducible apply Follows.writeCause
    | with_reducible apply Follows.becomeReady
    | with_reducible refine Follows.ite (fun _ => ?_) (fun _ => ?_)
    | split

theorem Follows.fermataExit {b0 : State} {s : State} {t : Nat} (hb0 : Follows b0 s) : Follows b0 (State.fermataExit s t) := by
  unfold State.fermataExit
  try dsimp only
  repeat' first
    | with_reducible assumption
    | with_reducible apply Follows.advance
    | with_reducible apply Follows.asMrst
    | with_reducible apply Follows.pwrMap
    | with_reducible apply Follows.when
    | with_reducible refine Follows.ite (fun _ => ?_) (fun _ => ?_)
    | intro _
    | split

theorem Follows.restEnter {b0 : State} {s : State} (hb0 : Follows b0 s) : Follows b0 (State.restEnter s) := by
  unfold State.restEnter
  try dsimp only
  repeat' first
    | with_reducible assumption
    | with_reducible apply Follows.selfRefresh
    | with_reducible apply Follows.sleepPins
    | with_reducible apply Follows.wr
    | with_reducible refine Follows.clkMap ?_ (fun _ => Nat.le_refl _)
    | with_reducible apply Follows.clkMap
    | with_reducible refine Follows.memMap ?_ (fun _ => rfl)
    | with_reducible apply Follows.memMap
    | with_reducible apply Follows.pwrMap
    | with_reducible apply Follows.each
    | with_reducible refine Follows.ite (fun _ => ?_) (fun _ => ?_)
    | (intro _; simp only [updFirst_length, updAll_length, updAt_length, List.length_map, List.length_replicate, List.length_range, and_self])
    | with_reducible exact ⟨rfl, rfl, rfl⟩
    | with_reducible exact ⟨rfl, rfl⟩
    | with_reducible rfl
    | with_reducible exact Nat.le_refl _
    | intro _
    | split

theorem Follows.restWake {b0 : State} {s : State} (hb0 : Follows b0 s) : Follows b0 (State.restWake s) := by
  unfold State.restWake
  try dsimp only
  repeat' first
    | with_reducible assumption
    | with_reducible apply Follows.pwrMap
    | with_reducible refine Follows.ite (fun _ => ?_) (fun _ => ?_)
    | intro _
    | split

theorem Follows.restReady {b0 : State} {s : State} {failed : Nat} {t : Nat} (hb0 : Follows b0 s) : Follows b0 (State.restReady s failed t) := by
  unfold State.restReady
  try dsimp only
  repeat' first
    | with_reducible assumption
    | with_reducible apply Follows.advance
    | with_reducible apply Follows.selfRefresh
    | with_reducible apply Follows.wakePins
    | with_reducible apply Follows.channelFault
    | with_reducible apply Follows.wr
    | with_reducible refine Follows.clkMap ?_ (fun _ => Nat.le_refl _)
    | with_reducible apply Follows.clkMap
    | with_reducible refine Follows.memMap ?_ (fun _ => rfl)
    | with_reducible apply Follows.memMap
    | with_reducible apply Follows.pwrMap
    | with_reducible apply Follows.each
    | with_reducible refine Follows.ite (fun _ => ?_) (fun _ => ?_)
    | (intro _; simp only [updFirst_length, updAll_length, updAt_length, List.length_map, List.length_replicate, List.length_range, and_self])
    | with_reducible exact ⟨rfl, rfl, rfl⟩
    | with_reducible exact ⟨rfl, rfl⟩
    | with_reducible rfl
    | with_reducible exact Nat.le_refl _
    | intro _
    | split

theorem Follows.portDown {b0 : State} {s : State} {port : Nat} (hb0 : Follows b0 s) : Follows b0 (State.portDown s port) := by
  unfold State.portDown
  try dsimp only
  repeat' first
    | with_reducible assumption
    | with_reducible apply Follows.fnMap
    | with_reducible apply Follows.internalError
    | with_reducible refine Follows.hostMap ?_ (fun _ => ⟨rfl, rfl⟩)
    | with_reducible apply Follows.hostMap
    | with_reducible apply Follows.each
    | with_reducible refine Follows.ite (fun _ => ?_) (fun _ => ?_)
    | (intro _; simp only [updFirst_length, updAll_length, updAt_length, List.length_map, List.length_replicate, List.length_range, and_self])
    | with_reducible exact ⟨rfl, rfl, rfl⟩
    | with_reducible exact ⟨rfl, rfl⟩
    | with_reducible rfl
    | with_reducible exact Nat.le_refl _
    | intro _
    | split

theorem Follows.hotReset {b0 : State} {s : State} {port : Nat} (hb0 : Follows b0 s) : Follows b0 (State.hotReset s port) := by
  unfold State.hotReset
  try dsimp only
  repeat' first
    | with_reducible assumption
    | with_reducible apply Follows.srst
    | with_reducible apply Follows.portDown
    | with_reducible apply Follows.warmReset
    | with_reducible apply Follows.each
    | with_reducible refine Follows.ite (fun _ => ?_) (fun _ => ?_)
    | intro _
    | split

theorem Follows.thermalGate {b0 : State} {s : State} {tj : Nat} (hb0 : Follows b0 s) : Follows b0 (State.thermalGate s tj) := by
  unfold State.thermalGate
  dsimp only
  split
  · exact Follows.pwrMap hb0
  · refine Follows.logError (Follows.powerEvent (Follows.pwrMap (Follows.sweepAt (Follows.pwrMap hb0) (fun hx => ?_))))
    exact ⟨by have := hx.1; simp at this ⊢; omega, hx.2⟩

theorem Follows.thermalTrip {b0 : State} {s : State} {tj : Nat} (hb0 : Follows b0 s) : Follows b0 (State.thermalTrip s tj) := by
  unfold State.thermalTrip
  try dsimp only
  repeat' first
    | with_reducible assumption
    | with_reducible apply Follows.powerEvent
    | with_reducible apply Follows.logError
    | with_reducible apply Follows.powerFail
    | with_reducible apply Follows.pwrMap
    | with_reducible refine Follows.ite (fun _ => ?_) (fun _ => ?_)
    | intro _
    | split

theorem Follows.efuseTrip {b0 : State} {s : State} {ma : Nat} {mv : Nat} {durNs : Nat} {t : Nat} (hb0 : Follows b0 s) : Follows b0 (State.efuseTrip s ma mv durNs t) := by
  unfold State.efuseTrip
  try dsimp only
  repeat' first
    | with_reducible assumption
    | with_reducible apply Follows.advance
    | with_reducible apply Follows.powerEvent
    | with_reducible apply Follows.alertOn
    | with_reducible apply Follows.logError
    | with_reducible apply Follows.powerFail
    | with_reducible apply Follows.wr
    | with_reducible apply Follows.inc
    | with_reducible apply Follows.pwrMap
    | with_reducible refine Follows.ite (fun _ => ?_) (fun _ => ?_)
    | intro _
    | split

theorem Follows.busLow {b0 : State} {s : State} {mv : Nat} {durNs : Nat} {t : Nat} (hb0 : Follows b0 s) : Follows b0 (State.busLow s mv durNs t) := by
  unfold State.busLow
  try dsimp only
  repeat' first
    | with_reducible assumption
    | with_reducible apply Follows.advance
    | with_reducible apply Follows.powerFail
    | with_reducible apply Follows.pwrMap
    | with_reducible refine Follows.ite (fun _ => ?_) (fun _ => ?_)
    | intro _
    | split

theorem Follows.converterFault {b0 : State} {s : State} {t : Nat} (hb0 : Follows b0 s) : Follows b0 (State.converterFault s t) := by
  unfold State.converterFault
  try dsimp only
  repeat' first
    | with_reducible assumption
    | with_reducible apply Follows.advance
    | with_reducible apply Follows.powerFail
    | with_reducible refine Follows.ite (fun _ => ?_) (fun _ => ?_)
    | split

theorem Follows.pwrEnLow {b0 : State} {s : State} {t : Nat} (hb0 : Follows b0 s) : Follows b0 (State.pwrEnLow s t) := by
  unfold State.pwrEnLow
  try dsimp only
  repeat' first
    | with_reducible assumption
    | with_reducible apply Follows.advance
    | with_reducible apply Follows.powerFail
    | with_reducible apply Follows.pwrMap
    | with_reducible refine Follows.ite (fun _ => ?_) (fun _ => ?_)
    | intro _

theorem Follows.busNow {b0 : State} {s : State} {mv : Nat} (hb0 : Follows b0 s) : Follows b0 (State.busNow s mv) := by
  unfold State.busNow
  try dsimp only
  repeat' first
    | with_reducible assumption
    | with_reducible apply Follows.pwrMap
    | with_reducible refine Follows.ite (fun _ => ?_) (fun _ => ?_)
    | intro _
    | split

theorem Follows.pwrEnHigh {b0 : State} {s : State} {mv : Nat} {t : Nat} (hb0 : Follows b0 s) : Follows b0 (State.pwrEnHigh s mv t) := by
  unfold State.pwrEnHigh
  try dsimp only
  repeat' first
    | with_reducible assumption
    | with_reducible apply Follows.advance
    | with_reducible apply Follows.busNow
    | with_reducible apply Follows.stageNext
    | with_reducible apply Follows.tryClose
    | with_reducible apply Follows.pwrMap
    | with_reducible refine Follows.ite (fun _ => ?_) (fun _ => ?_)
    | intro _
    | split

theorem Follows.busReturn {b0 : State} {s : State} {mv : Nat} {t : Nat} (hb0 : Follows b0 s) : Follows b0 (State.busReturn s mv t) := by
  unfold State.busReturn
  try dsimp only
  repeat' first
    | with_reducible assumption
    | with_reducible apply Follows.advance
    | with_reducible apply Follows.busNow
    | with_reducible apply Follows.tryClose
    | with_reducible refine Follows.ite (fun _ => ?_) (fun _ => ?_)

theorem Follows.eject {b0 : State} {s : State} (hb0 : Follows b0 s) : Follows b0 (State.eject s) := by
  unfold State.eject
  try dsimp only
  repeat' first
    | with_reducible assumption
    | with_reducible apply Follows.powerEvent
    | with_reducible apply Follows.pwrMap
    | with_reducible refine Follows.ite (fun _ => ?_) (fun _ => ?_)
    | intro _
    | split

theorem Follows.ejectClose {b0 : State} {s : State} (hb0 : Follows b0 s) : Follows b0 (State.ejectClose s) := by
  unfold State.ejectClose
  try dsimp only
  repeat' first
    | with_reducible assumption
    | with_reducible apply Follows.tryClose
    | with_reducible apply Follows.pwrMap
    | with_reducible refine Follows.ite (fun _ => ?_) (fun _ => ?_)
    | intro _

theorem Follows.auxDip {b0 : State} {s : State} {mv : Nat} {durNs : Nat} {t : Nat} (hb0 : Follows b0 s) : Follows b0 (State.auxDip s mv durNs t) := by
  unfold State.auxDip
  try dsimp only
  repeat' first
    | with_reducible assumption
    | with_reducible apply Follows.advance
    | with_reducible apply Follows.retentionLost
    | with_reducible apply Follows.pwrMap
    | with_reducible refine Follows.ite (fun _ => ?_) (fun _ => ?_)
    | intro _
    | split

theorem Follows.bleedEnd {b0 : State} {s : State} {mv : Nat} {t : Nat} (hb0 : Follows b0 s) : Follows b0 (State.bleedEnd s mv t) := by
  unfold State.bleedEnd
  try dsimp only
  repeat' first
    | with_reducible assumption
    | with_reducible apply Follows.advance
    | with_reducible apply Follows.gaugeMap
    | with_reducible apply Follows.gaugeFault
    | with_reducible apply Follows.when
    | with_reducible refine Follows.ite (fun _ => ?_) (fun _ => ?_)
    | intro _
    | split

theorem Follows.gaugeSample {b0 : State} {s : State} {bankMv : Nat} {dq : Int} {overflow : Bool} {busMv : Nat} {inputMa : Nat} {inputMw : Nat} {dMj : Nat} {auxMv : Nat} {tj : Nat} {memC : Nat} {inletC : Nat} {temps : List Nat} {t : Nat} (hb0 : Follows b0 s) : Follows b0 (State.gaugeSample s bankMv dq overflow busMv inputMa inputMw dMj auxMv tj memC inletC temps t) := by
  unfold State.gaugeSample
  try dsimp only
  repeat' first
    | with_reducible assumption
    | with_reducible refine Follows.memSet ?_ (fun x hx => (by simp [hx]))
    | with_reducible apply Follows.advance
    | with_reducible apply Follows.busNow
    | with_reducible apply Follows.gaugeMap
    | with_reducible apply Follows.gaugeFault
    | with_reducible apply Follows.rearm
    | with_reducible refine Follows.memMap ?_ (fun _ => rfl)
    | with_reducible apply Follows.memMap
    | with_reducible apply Follows.pwrMap
    | with_reducible apply Follows.when
    | with_reducible refine Follows.ite (fun _ => ?_) (fun _ => ?_)
    | (intro _; simp only [updFirst_length, updAll_length, updAt_length, List.length_map, List.length_replicate, List.length_range, and_self])
    | with_reducible exact ⟨rfl, rfl, rfl⟩
    | with_reducible exact ⟨rfl, rfl⟩
    | with_reducible rfl
    | with_reducible exact Nat.le_refl _
    | intro _
    | split

end Sys2Proof.Machine
end

