-- ==== Sys2Proof/Laws/FollowsSerial.lean ====
section
/-!
SUPPORT. The operations of Machine/Serial.lean keep what `Follows` says.
-/
namespace Sys2Proof.Machine

theorem Follows.tcNo {b0 : State} {s : State} {code : Nat} (hb0 : Follows b0 s) : Follows b0 (State.tcNo s code).1 := by
  unfold State.tcNo
  try dsimp only
  repeat' first
    | with_reducible assumption
    | with_reducible refine Follows.ite (fun _ => ?_) (fun _ => ?_)

theorem Follows.tcIdent {b0 : State} {s : State} (hb0 : Follows b0 s) : Follows b0 (State.tcIdent s).1 := by
  unfold State.tcIdent
  try dsimp only
  repeat' first
    | with_reducible assumption
    | with_reducible refine Follows.ite (fun _ => ?_) (fun _ => ?_)
    | split

theorem Follows.tcStatus {b0 : State} {s : State} (hb0 : Follows b0 s) : Follows b0 (State.tcStatus s).1 := by
  unfold State.tcStatus
  try dsimp only
  repeat' first
    | with_reducible assumption
    | with_reducible apply Follows.emit
    | with_reducible apply Follows.pwrMap
    | with_reducible refine Follows.ite (fun _ => ?_) (fun _ => ?_)
    | intro _
    | split

theorem Follows.tcTelem {b0 : State} {s : State} (hb0 : Follows b0 s) : Follows b0 (State.tcTelem s).1 := by
  unfold State.tcTelem
  try dsimp only
  repeat' first
    | with_reducible assumption
    | with_reducible refine Follows.ite (fun _ => ?_) (fun _ => ?_)
    | split

theorem Follows.tcRearm {b0 : State} {s : State} (hb0 : Follows b0 s) : Follows b0 (State.tcRearm s).1 := by
  unfold State.tcRearm
  try dsimp only
  repeat' first
    | with_reducible assumption
    | with_reducible apply Follows.tcNo
    | with_reducible apply Follows.tryClose
    | with_reducible apply Follows.pwrMap
    | with_reducible refine Follows.ite (fun _ => ?_) (fun _ => ?_)
    | with_reducible refine Follows.ofFst ?_ (by with_reducible assumption)
    | intro _
    | split

theorem Follows.tcOpen {b0 : State} {s : State} {body : Bytes} (hb0 : Follows b0 s) : Follows b0 (State.tcOpen s body).1 := by
  unfold State.tcOpen
  try dsimp only
  repeat' first
    | with_reducible assumption
    | with_reducible apply Follows.tcNo
    | with_reducible apply Follows.bootMap
    | with_reducible apply Follows.nextFlash
    | with_reducible apply Follows.pwrMap
    | with_reducible refine Follows.ite (fun _ => ?_) (fun _ => ?_)
    | with_reducible refine Follows.ofFst ?_ (by with_reducible assumption)
    | intro _
    | split

theorem Follows.tcWrite {b0 : State} {s : State} {body : Bytes} (hb0 : Follows b0 s) : Follows b0 (State.tcWrite s body).1 := by
  unfold State.tcWrite
  try dsimp only
  repeat' first
    | with_reducible assumption
    | with_reducible apply Follows.tcNo
    | with_reducible apply Follows.nextFlash
    | with_reducible apply Follows.pwrMap
    | with_reducible refine Follows.ite (fun _ => ?_) (fun _ => ?_)
    | with_reducible refine Follows.ofFst ?_ (by with_reducible assumption)
    | intro _
    | split

theorem Follows.endSession {b0 : State} {s : State} (hb0 : Follows b0 s) : Follows b0 (State.endSession s) := by
  unfold State.endSession
  try dsimp only
  repeat' first
    | with_reducible assumption
    | with_reducible apply Follows.spmMap
    | with_reducible apply Follows.stageNext
    | with_reducible apply Follows.tryClose
    | with_reducible apply Follows.pwrMap
    | with_reducible refine Follows.ite (fun _ => ?_) (fun _ => ?_)
    | intro _

theorem Follows.tcClose {b0 : State} {s : State} {body : Bytes} (hb0 : Follows b0 s) : Follows b0 (State.tcClose s body).1 := by
  unfold State.tcClose
  try dsimp only
  repeat' first
    | with_reducible assumption
    | with_reducible apply Follows.tcNo
    | with_reducible apply Follows.bankMap
    | with_reducible apply Follows.bootMap
    | with_reducible apply Follows.endSession
    | with_reducible apply Follows.each
    | with_reducible refine Follows.ite (fun _ => ?_) (fun _ => ?_)
    | with_reducible refine Follows.ofFst ?_ (by with_reducible assumption)
    | intro _
    | split

theorem Follows.tcRead {b0 : State} {s : State} {body : Bytes} (hb0 : Follows b0 s) : Follows b0 (State.tcRead s body).1 := by
  unfold State.tcRead
  try dsimp only
  repeat' first
    | with_reducible assumption
    | with_reducible apply Follows.tcNo
    | with_reducible refine Follows.ite (fun _ => ?_) (fun _ => ?_)
    | with_reducible refine Follows.ofFst ?_ (by with_reducible assumption)
    | split

theorem Follows.tcLog {b0 : State} {s : State} {body : Bytes} (hb0 : Follows b0 s) : Follows b0 (State.tcLog s body).1 := by
  unfold State.tcLog
  try dsimp only
  repeat' first
    | with_reducible assumption
    | with_reducible apply Follows.tcNo
    | with_reducible refine Follows.ite (fun _ => ?_) (fun _ => ?_)
    | with_reducible refine Follows.ofFst ?_ (by with_reducible assumption)
    | intro _
    | split

theorem Follows.tcFault {b0 : State} {s : State} (hb0 : Follows b0 s) : Follows b0 (State.tcFault s).1 := by
  unfold State.tcFault
  try dsimp only
  repeat' first
    | with_reducible assumption
    | with_reducible apply Follows.tickFrees
    | with_reducible refine Follows.ite (fun _ => ?_) (fun _ => ?_)

theorem Follows.tcApply {b0 : State} {s : State} {code : Nat} {body : Bytes} (hb0 : Follows b0 s) : Follows b0 (State.tcApply s code body).1 := by
  unfold State.tcApply
  try dsimp only
  repeat' first
    | with_reducible assumption
    | with_reducible apply Follows.tcNo
    | with_reducible apply Follows.tcIdent
    | with_reducible apply Follows.tcStatus
    | with_reducible apply Follows.tcTelem
    | with_reducible apply Follows.tcRearm
    | with_reducible apply Follows.tcOpen
    | with_reducible apply Follows.tcWrite
    | with_reducible apply Follows.tcClose
    | with_reducible apply Follows.tcRead
    | with_reducible apply Follows.tcLog
    | with_reducible apply Follows.tcFault
    | with_reducible refine Follows.ite (fun _ => ?_) (fun _ => ?_)
    | with_reducible refine Follows.ofFst ?_ (by with_reducible assumption)
    | intro _
    | split

theorem Follows.tcRequest {b0 : State} {s : State} {code : Nat} {body : Bytes} {crc : Byte} (hb0 : Follows b0 s) : Follows b0 (State.tcRequest s code body crc).1 := by
  unfold State.tcRequest
  try dsimp only
  repeat' first
    | with_reducible assumption
    | with_reducible apply Follows.tcNo
    | with_reducible apply Follows.tcApply
    | with_reducible apply Follows.pwrMap
    | with_reducible refine Follows.ite (fun _ => ?_) (fun _ => ?_)
    | with_reducible refine Follows.ofFst ?_ (by with_reducible assumption)
    | intro _
    | split

theorem Follows.spsCount {b0 : State} {s : State} {result : Nat} (hb0 : Follows b0 s) : Follows b0 (State.spsCount s result) := by
  unfold State.spsCount
  try dsimp only
  repeat' first
    | with_reducible assumption
    | with_reducible apply Follows.inc
    | with_reducible refine Follows.ite (fun _ => ?_) (fun _ => ?_)
    | split

theorem Follows.spsFrame {b0 : State} {s : State} {code : Nat} {body : Bytes} {crc : Byte} {t : Nat} (hb0 : Follows b0 s) : Follows b0 (State.spsFrame s code body crc t) := by
  unfold State.spsFrame
  try dsimp only
  repeat' first
    | with_reducible assumption
    | with_reducible apply Follows.advance
    | with_reducible apply Follows.tcRequest
    | with_reducible apply Follows.spsCount
    | with_reducible apply Follows.inc
    | with_reducible apply Follows.emit
    | with_reducible apply Follows.pwrMap
    | with_reducible refine Follows.ite (fun _ => ?_) (fun _ => ?_)
    | with_reducible refine Follows.ofFst ?_ (by with_reducible assumption)
    | intro _
    | split

theorem Follows.spsCut {b0 : State} {s : State} {bytes : Bytes} {t : Nat} (hb0 : Follows b0 s) : Follows b0 (State.spsCut s bytes t) := by
  unfold State.spsCut
  try dsimp only
  repeat' first
    | with_reducible assumption
    | with_reducible apply Follows.advance
    | with_reducible apply Follows.tcRequest
    | with_reducible apply Follows.spsCount
    | with_reducible apply Follows.inc
    | with_reducible apply Follows.pwrMap
    | with_reducible refine Follows.ite (fun _ => ?_) (fun _ => ?_)
    | with_reducible refine Follows.ofFst ?_ (by with_reducible assumption)
    | intro _
    | split

theorem Follows.sessionTimeout {b0 : State} {s : State} {t : Nat} (hb0 : Follows b0 s) : Follows b0 (State.sessionTimeout s t) := by
  unfold State.sessionTimeout
  try dsimp only
  repeat' first
    | with_reducible assumption
    | with_reducible apply Follows.advance
    | with_reducible apply Follows.endSession
    | with_reducible refine Follows.ite (fun _ => ?_) (fun _ => ?_)
    | intro _
    | split

end Sys2Proof.Machine
end

