-- ==== Sys2Proof/Laws/FollowsTap.lean ====
section
/-!
SUPPORT. The operations of Machine/Tap.lean keep what `Follows` says.
-/
namespace Sys2Proof.Machine

theorem Follows.jtagMap {b0 : State} {s : State} {f : Jtag → Jtag} (hb0 : Follows b0 s) : Follows b0 (State.jtagMap s f) := by
  unfold State.jtagMap
  try dsimp only
  repeat' first
    | with_reducible assumption
    | with_reducible apply Follows.pwrMap
    | with_reducible refine Follows.ite (fun _ => ?_) (fun _ => ?_)
    | intro _

theorem Follows.tapReset {b0 : State} {s : State} (hb0 : Follows b0 s) : Follows b0 (State.tapReset s) := by
  unfold State.tapReset
  try dsimp only
  repeat' first
    | with_reducible assumption
    | with_reducible apply Follows.jtagMap
    | with_reducible refine Follows.ite (fun _ => ?_) (fun _ => ?_)
    | intro _

theorem Follows.tapEdge {b0 : State} {s : State} {rising : Bool} {tms : Bool} {tdi : Bool} (hb0 : Follows b0 s) : Follows b0 (State.tapEdge s rising tms tdi) := by
  unfold State.tapEdge
  try dsimp only
  repeat' first
    | with_reducible assumption
    | with_reducible apply Follows.tapReset
    | with_reducible apply Follows.jtagMap
    | with_reducible apply Follows.emit
    | with_reducible apply Follows.tickFrees
    | with_reducible refine Follows.ite (fun _ => ?_) (fun _ => ?_)
    | intro _
    | split

theorem Follows.trst {b0 : State} {s : State} {low : Bool} (hb0 : Follows b0 s) : Follows b0 (State.trst s low) := by
  unfold State.trst
  try dsimp only
  repeat' first
    | with_reducible assumption
    | with_reducible apply Follows.jtagMap
    | with_reducible apply Follows.tapReset
    | with_reducible refine Follows.ite (fun _ => ?_) (fun _ => ?_)
    | intro _
    | split

end Sys2Proof.Machine
end

