-- ==== Sys2Proof/Laws/FollowsBar0.lean ====
section
/-!
SUPPORT. The operations of Machine/Bar0.lean keep what `Follows` says.
-/
namespace Sys2Proof.Machine

theorem Follows.latchMeter {b0 : State} {s : State} {fn : Nat} {k : Nat} {hi : Nat} (hb0 : Follows b0 s) : Follows b0 (State.latchMeter s fn k hi) := by
  unfold State.latchMeter
  try dsimp only
  repeat' first
    | with_reducible assumption
    | with_reducible apply Follows.fnMap
    | with_reducible refine Follows.ite (fun _ => ?_) (fun _ => ?_)
    | intro _

theorem Follows.meterRead {b0 : State} {s : State} {fn : Nat} {k : Nat} {high : Bool} (hb0 : Follows b0 s) : Follows b0 (State.meterRead s fn k high).1 := by
  unfold State.meterRead
  try dsimp only
  repeat' first
    | with_reducible assumption
    | with_reducible apply Follows.fnMap
    | with_reducible apply Follows.latchMeter
    | with_reducible refine Follows.ite (fun _ => ?_) (fun _ => ?_)
    | intro _
    | split

theorem Follows.bar0Read {b0 : State} {s : State} {fn : Nat} {off : Nat} (hb0 : Follows b0 s) : Follows b0 (State.bar0Read s fn off).1 := by
  unfold State.bar0Read
  try dsimp only
  repeat' first
    | with_reducible assumption
    | with_reducible apply Follows.meterRead
    | with_reducible apply Follows.tickFrees
    | with_reducible refine Follows.ite (fun _ => ?_) (fun _ => ?_)
    | with_reducible refine Follows.ofFst ?_ (by with_reducible assumption)
    | split

theorem Follows.writeField {b0 : State} {s : State} {seat v : Nat} {p : Fld × Nat} (hb0 : Follows b0 s) : Follows b0 (State.writeField s seat v p) := by
  unfold State.writeField
  dsimp only
  split <;> first
    | exact hb0
    | exact hb0.ofRegs (fun r => ⟨regSorted_regSet _ _ _ _ _ r.1, r.2⟩) rfl rfl rfl rfl rfl rfl rfl rfl rfl

theorem Follows.writeWord {b0 : State} {s : State} {seat : Nat} {off : Nat} {v : Nat} (hb0 : Follows b0 s) : Follows b0 (State.writeWord s seat off v) := by
  unfold State.writeWord
  try dsimp only
  repeat' first
    | with_reducible assumption
    | with_reducible apply Follows.writeField
    | with_reducible apply Follows.foldl
    | with_reducible refine Follows.ite (fun _ => ?_) (fun _ => ?_)
    | intro _

theorem Follows.ranged {b0 : State} {s : State} {ok : Bool} {e : Fld} {seat : Nat} {off : Nat} {v : Nat} (hb0 : Follows b0 s) : Follows b0 (State.ranged s ok e seat off v) := by
  unfold State.ranged
  try dsimp only
  repeat' first
    | with_reducible assumption
    | with_reducible apply Follows.writeWord
    | with_reducible apply Follows.ev
    | with_reducible refine Follows.ite (fun _ => ?_) (fun _ => ?_)
    | split

theorem Follows.clearMapped {b0 : State} {s : State} {es : List Nat} (hb0 : Follows b0 s) : Follows b0 (State.clearMapped s es) := by
  unfold State.clearMapped
  try dsimp only
  repeat' first
    | with_reducible assumption
    | with_reducible apply Follows.wr
    | with_reducible apply Follows.pwrMap
    | with_reducible apply Follows.foldl
    | with_reducible refine Follows.ite (fun _ => ?_) (fun _ => ?_)
    | intro _
    | split

theorem Follows.writeSwpMapout {b0 : State} {s : State} {high : Bool} {v : Nat} (hb0 : Follows b0 s) : Follows b0 (State.writeSwpMapout s high v) := by
  unfold State.writeSwpMapout
  try dsimp only
  repeat' first
    | with_reducible assumption
    | with_reducible apply Follows.clearMapped
    | with_reducible apply Follows.wr
    | with_reducible refine Follows.ite (fun _ => ?_) (fun _ => ?_)
    | intro _
    | split

theorem Follows.writeGdmMapout {b0 : State} {s : State} {v : Nat} (hb0 : Follows b0 s) : Follows b0 (State.writeGdmMapout s v) := by
  unfold State.writeGdmMapout
  try dsimp only
  repeat' first
    | with_reducible assumption
    | with_reducible apply Follows.wr
    | with_reducible apply Follows.ev
    | with_reducible refine Follows.ite (fun _ => ?_) (fun _ => ?_)
    | intro _
    | split

theorem Follows.writeH2d {b0 : State} {s : State} {v : Nat} (hb0 : Follows b0 s) : Follows b0 (State.writeH2d s v) := by
  unfold State.writeH2d
  try dsimp only
  repeat' first
    | with_reducible assumption
    | with_reducible apply Follows.writeWord
    | with_reducible apply Follows.wr
    | with_reducible apply Follows.ev
    | with_reducible apply Follows.when
    | with_reducible refine Follows.ite (fun _ => ?_) (fun _ => ?_)
    | intro _
    | split

theorem Follows.writeQueueWord {b0 : State} {s : State} {fn : Nat} {off : Nat} {v : Nat} (hb0 : Follows b0 s) : Follows b0 (State.writeQueueWord s fn off v) := by
  unfold State.writeQueueWord
  try dsimp only
  repeat' first
    | with_reducible assumption
    | with_reducible apply Follows.sbqEnable
    | with_reducible apply Follows.sbqDelete
    | with_reducible apply Follows.cpqEnable
    | with_reducible apply Follows.cpqDelete
    | with_reducible apply Follows.writeWord
    | with_reducible apply Follows.wrw
    | with_reducible refine Follows.ite (fun _ => ?_) (fun _ => ?_)
    | intro _
    | split

theorem Follows.ownerWrite {b0 : State} {s : State} {off : Nat} {v : Nat} (hb0 : Follows b0 s) : Follows b0 (State.ownerWrite s off v) := by
  unfold State.ownerWrite
  try dsimp only
  repeat' first
    | with_reducible assumption
    | with_reducible apply Follows.gpioOr
    | with_reducible refine Follows.gpioWrite (by with_reducible assumption) ?_
    | with_reducible apply Follows.writeWord
    | with_reducible apply Follows.ranged
    | with_reducible apply Follows.writeSwpMapout
    | with_reducible apply Follows.erstEngine
    | with_reducible apply Follows.writeGdmMapout
    | with_reducible apply Follows.startTraining
    | with_reducible apply Follows.rstCtrl
    | with_reducible apply Follows.writeH2d
    | with_reducible apply Follows.wr
    | with_reducible apply Follows.each
    | with_reducible refine Follows.ite (fun _ => ?_) (fun _ => ?_)
    | intro _
    | split

theorem Follows.nonOwner {b0 : State} {s : State} {fn : Nat} (hb0 : Follows b0 s) : Follows b0 (State.nonOwner s fn) := by
  unfold State.nonOwner
  try dsimp only
  repeat' first
    | with_reducible assumption
    | with_reducible apply Follows.wr
    | with_reducible apply Follows.ev
    | with_reducible apply Follows.inc
    | with_reducible refine Follows.ite (fun _ => ?_) (fun _ => ?_)

theorem Follows.bar0Write {b0 : State} {s : State} {fn : Nat} {off : Nat} {v : Nat} (hb0 : Follows b0 s) : Follows b0 (State.bar0Write s fn off v) := by
  unfold State.bar0Write
  try dsimp only
  repeat' first
    | with_reducible assumption
    | with_reducible apply Follows.writeQueueWord
    | with_reducible apply Follows.writeWord
    | with_reducible apply Follows.nonOwner
    | with_reducible apply Follows.ownerWrite
    | with_reducible refine Follows.ite (fun _ => ?_) (fun _ => ?_)
    | split

theorem Follows.registerWrite {b0 : State} {s : State} {fn : Nat} {off : Nat} {v : Nat} (hb0 : Follows b0 s) : Follows b0 (State.registerWrite s fn off v) := by
  unfold State.registerWrite
  try dsimp only
  repeat' first
    | with_reducible assumption
    | with_reducible apply Follows.restWake
    | with_reducible apply Follows.bar0Write
    | with_reducible refine Follows.ite (fun _ => ?_) (fun _ => ?_)
    | split

theorem Follows.malformed {b0 : State} {s : State} {fn : Nat} (hb0 : Follows b0 s) : Follows b0 (State.malformed s fn) := by
  unfold State.malformed
  try dsimp only
  repeat' first
    | with_reducible assumption
    | with_reducible apply Follows.restWake
    | with_reducible apply Follows.ev
    | with_reducible apply Follows.inc
    | with_reducible refine Follows.ite (fun _ => ?_) (fun _ => ?_)
    | split

theorem Follows.writeWords {b0 : State} {fn : Nat} (l : List Word) {off : Nat} {s : State} (hb0 : Follows b0 s) : Follows b0 (s.writeWords fn off l) := by
  induction l generalizing s off with
  | nil => exact hb0
  | cons v l ih =>
    unfold State.writeWords
    split
    · exact hb0
    · exact ih (Follows.registerWrite hb0)

theorem Follows.readPart {b0 : State} {s : State} {fn : Nat} {off : Nat} {bytes : Nat} {word : Nat} (hb0 : Follows b0 s) : Follows b0 (State.readPart s fn off bytes word) := by
  unfold State.readPart
  try dsimp only
  repeat' first
    | with_reducible assumption
    | with_reducible apply Follows.bar0Read
    | with_reducible apply Follows.readReturn
    | with_reducible apply Follows.emit
    | with_reducible refine Follows.ite (fun _ => ?_) (fun _ => ?_)
    | with_reducible refine Follows.ofFst ?_ (by with_reducible assumption)

theorem Follows.readBar0 {b0 : State} {s : State} {fn : Nat} {off : Nat} {bytes : Nat} (hb0 : Follows b0 s) : Follows b0 (State.readBar0 s fn off bytes) := by
  unfold State.readBar0
  try dsimp only
  repeat' first
    | with_reducible assumption
    | with_reducible apply Follows.restWake
    | with_reducible apply Follows.readPart
    | with_reducible apply Follows.each
    | with_reducible refine Follows.ite (fun _ => ?_) (fun _ => ?_)
    | intro _
    | split

theorem Follows.readOther {b0 : State} {s : State} {fn : Nat} {bar : Nat} {off : Nat} {v : Nat} (hb0 : Follows b0 s) : Follows b0 (State.readOther s fn bar off v) := by
  unfold State.readOther
  try dsimp only
  repeat' first
    | with_reducible assumption
    | with_reducible apply Follows.restWake
    | with_reducible apply Follows.emit
    | with_reducible refine Follows.ite (fun _ => ?_) (fun _ => ?_)
    | split

theorem Follows.hostRead {b0 : State} {s : State} {fn : Nat} {what : HostRead} (hb0 : Follows b0 s) : Follows b0 (s.hostRead fn what) := by
  cases what with
  | bar0 off bytes => exact Follows.readBar0 hb0
  | bar2 word => exact Follows.readOther hb0
  | bar4 word => exact Follows.readOther hb0
  | config c => exact Follows.when hb0 (fun _ h => Follows.emit _ h)

end Sys2Proof.Machine
end

