-- ==== Sys2Proof/Laws/FollowsConductor.lean ====
section
/-!
SUPPORT. The operations of Machine/Conductor.lean keep what `Follows` says.
-/
namespace Sys2Proof.Machine

theorem Follows.watchdog {b0 : State} {s : State} {i : Nat} (hb0 : Follows b0 s) : Follows b0 (State.watchdog s i) := by
  unfold State.watchdog
  try dsimp only
  repeat' first
    | with_reducible assumption
    | with_reducible apply Follows.fatal
    | with_reducible apply Follows.wr
    | with_reducible apply Follows.ev
    | with_reducible refine Follows.ite (fun _ => ?_) (fun _ => ?_)
    | split

theorem Follows.corePllUnlock {b0 : State} {s : State} {pll : Nat} (hb0 : Follows b0 s) : Follows b0 (State.corePllUnlock s pll) := by
  unfold State.corePllUnlock
  try dsimp only
  repeat' first
    | with_reducible assumption
    | with_reducible apply Follows.fatal
    | with_reducible apply Follows.ev
    | with_reducible apply Follows.pwrMap
    | with_reducible refine Follows.ite (fun _ => ?_) (fun _ => ?_)
    | intro _
    | split

theorem Follows.parityError {b0 : State} {s : State} (hb0 : Follows b0 s) : Follows b0 (State.parityError s) := by
  unfold State.parityError
  try dsimp only
  repeat' first
    | with_reducible assumption
    | with_reducible apply Follows.fatal
    | with_reducible refine Follows.ite (fun _ => ?_) (fun _ => ?_)
    | split

theorem Follows.aonPllUnlock {b0 : State} {s : State} (hb0 : Follows b0 s) : Follows b0 (State.aonPllUnlock s) := by
  unfold State.aonPllUnlock
  try dsimp only
  repeat' first
    | with_reducible assumption
    | with_reducible apply Follows.auxStart
    | with_reducible refine Follows.ite (fun _ => ?_) (fun _ => ?_)
    | split

theorem Follows.fatalTimer {b0 : State} {s : State} {t : Nat} (hb0 : Follows b0 s) : Follows b0 (State.fatalTimer s t) := by
  unfold State.fatalTimer
  try dsimp only
  repeat' first
    | with_reducible assumption
    | with_reducible apply Follows.advance
    | with_reducible apply Follows.mrst
    | with_reducible refine Follows.ite (fun _ => ?_) (fun _ => ?_)
    | split

theorem Follows.engineFault {b0 : State} {s : State} {e : Nat} {cause : Nat} (hb0 : Follows b0 s) : Follows b0 (State.engineFault s e cause) := by
  unfold State.engineFault
  try dsimp only
  repeat' first
    | with_reducible assumption
    | with_reducible apply Follows.logError
    | with_reducible apply Follows.engineFaulted
    | with_reducible apply Follows.erstEngine
    | with_reducible apply Follows.ev
    | with_reducible refine Follows.ite (fun _ => ?_) (fun _ => ?_)
    | split

theorem Follows.stopVoice {b0 : State} {s : State} {cid : Nat} (hb0 : Follows b0 s) : Follows b0 (State.stopVoice s cid) := by
  unfold State.stopVoice
  try dsimp only
  repeat' first
    | with_reducible assumption
    | with_reducible apply Follows.voiceMap
    | with_reducible apply Follows.dropQuery
    | with_reducible refine Follows.rrMap ?_ (fun _ => rfl)
    | with_reducible apply Follows.rrMap
    | with_reducible refine Follows.ite (fun _ => ?_) (fun _ => ?_)
    | (intro _; simp only [updFirst_length, updAll_length, updAt_length, List.length_map, List.length_replicate, List.length_range, and_self])
    | with_reducible exact ⟨rfl, rfl, rfl⟩
    | with_reducible exact ⟨rfl, rfl⟩
    | with_reducible rfl
    | with_reducible exact Nat.le_refl _
    | intro _

theorem Follows.voiceLost {b0 : State} {s : State} {cid : Nat} (hb0 : Follows b0 s) : Follows b0 (State.voiceLost s cid) := by
  unfold State.voiceLost
  try dsimp only
  repeat' first
    | with_reducible assumption
    | with_reducible apply Follows.logError
    | with_reducible apply Follows.stopVoice
    | with_reducible apply Follows.runMap
    | with_reducible apply Follows.finishRun
    | with_reducible apply Follows.endRerank
    | with_reducible refine Follows.ite (fun _ => ?_) (fun _ => ?_)
    | intro _
    | split

theorem Follows.candsLost {b0 : State} {s : State} {cid : Nat} {one : Option Nat} (hb0 : Follows b0 s) : Follows b0 (State.candsLost s cid one) := by
  unfold State.candsLost
  try dsimp only
  repeat' first
    | with_reducible assumption
    | with_reducible apply Follows.logError
    | with_reducible apply Follows.loseCand
    | with_reducible apply Follows.planRecords
    | with_reducible apply Follows.each
    | with_reducible refine Follows.ite (fun _ => ?_) (fun _ => ?_)
    | intro _
    | split

theorem Follows.codaLost {b0 : State} {s : State} {cid : Nat} (hb0 : Follows b0 s) : Follows b0 (State.codaLost s cid) := by
  unfold State.codaLost
  try dsimp only
  repeat' first
    | with_reducible assumption
    | with_reducible apply Follows.logError
    | with_reducible apply Follows.runMap
    | with_reducible apply Follows.stopVoice
    | with_reducible apply Follows.finishRun
    | with_reducible apply Follows.endRerank
    | with_reducible refine Follows.ite (fun _ => ?_) (fun _ => ?_)
    | intro _
    | split

theorem Follows.intakeLost {b0 : State} {s : State} {cid : Nat} (hb0 : Follows b0 s) : Follows b0 (State.intakeLost s cid) := by
  unfold State.intakeLost
  try dsimp only
  repeat' first
    | with_reducible assumption
    | with_reducible apply Follows.logError
    | with_reducible apply Follows.withdraw
    | with_reducible refine Follows.ite (fun _ => ?_) (fun _ => ?_)
    | intro _
    | split

theorem Follows.sramDoubleBit {b0 : State} {s : State} {u : Sram} (hb0 : Follows b0 s) : Follows b0 (State.sramDoubleBit s u) := by
  unfold State.sramDoubleBit
  try dsimp only
  repeat' first
    | with_reducible assumption
    | with_reducible apply Follows.engineFault
    | with_reducible apply Follows.candsLost
    | with_reducible apply Follows.voiceLost
    | with_reducible apply Follows.codaLost
    | with_reducible apply Follows.intakeLost
    | with_reducible apply Follows.fatal
    | with_reducible apply Follows.inc
    | with_reducible apply Follows.bump
    | with_reducible refine Follows.ite (fun _ => ?_) (fun _ => ?_)
    | intro _
    | split

theorem Follows.mailboxReady {b0 : State} {s : State} {status : Nat} {words : List Nat} (hb0 : Follows b0 s) : Follows b0 (State.mailboxReady s status words) := by
  unfold State.mailboxReady
  try dsimp only
  repeat' first
    | with_reducible assumption
    | with_reducible apply Follows.pwrMap
    | with_reducible refine Follows.ite (fun _ => ?_) (fun _ => ?_)
    | intro _

theorem Follows.mailboxEcho {b0 : State} {s : State} (hb0 : Follows b0 s) : Follows b0 (State.mailboxEcho s) := by
  unfold State.mailboxEcho
  try dsimp only
  repeat' first
    | with_reducible assumption
    | with_reducible apply Follows.mailboxReady
    | with_reducible refine Follows.ite (fun _ => ?_) (fun _ => ?_)
    | intro _
    | split

theorem Follows.mailboxCores {b0 : State} {s : State} (hb0 : Follows b0 s) : Follows b0 (State.mailboxCores s) := by
  unfold State.mailboxCores
  try dsimp only
  repeat' first
    | with_reducible assumption
    | with_reducible apply Follows.mailboxReady
    | with_reducible refine Follows.ite (fun _ => ?_) (fun _ => ?_)
    | intro _
    | split

theorem Follows.mailboxLitmus {b0 t0 : State} {s : State} {w : List Nat} (e : State.mailboxLitmus s w = some t0) (hb0 : Follows b0 s) : Follows b0 t0 := by
  unfold State.mailboxLitmus at e
  try dsimp only at e
  repeat' split at e
  all_goals first | rw [← Option.some.inj e] | cases e
  all_goals repeat' first
    | with_reducible assumption
    | with_reducible apply Follows.mailboxReady
    | with_reducible refine Follows.ite (fun _ => ?_) (fun _ => ?_)
    | split

theorem Follows.mailboxReply {b0 : State} {s : State} (hb0 : Follows b0 s) : Follows b0 (State.mailboxReply s) := by
  unfold State.mailboxReply
  try dsimp only
  repeat' first
    | with_reducible assumption
    | with_reducible apply Follows.mailboxReady
    | with_reducible apply Follows.wr
    | with_reducible apply Follows.pwrMap
    | with_reducible apply Follows.when
    | with_reducible apply Follows.each
    | with_reducible refine Follows.ite (fun _ => ?_) (fun _ => ?_)
    | intro _
    | split

theorem Follows.trimUpdate {b0 : State} {s : State} {measured : Nat} {estimated : Nat} (hb0 : Follows b0 s) : Follows b0 (State.trimUpdate s measured estimated) := by
  unfold State.trimUpdate
  try dsimp only
  repeat' first
    | with_reducible assumption
    | with_reducible apply Follows.ev
    | with_reducible apply Follows.pwrMap
    | with_reducible apply Follows.when
    | with_reducible refine Follows.ite (fun _ => ?_) (fun _ => ?_)
    | intro _
    | split

theorem Follows.perstLow {b0 : State} {s : State} {port : Nat} (hb0 : Follows b0 s) : Follows b0 (State.perstLow s port) := by
  unfold State.perstLow
  try dsimp only
  repeat' first
    | with_reducible assumption
    | with_reducible apply Follows.hotReset
    | with_reducible refine Follows.hostMap ?_ (fun _ => ⟨rfl, rfl⟩)
    | with_reducible apply Follows.hostMap
    | with_reducible refine Follows.ite (fun _ => ?_) (fun _ => ?_)
    | (intro _; simp only [updFirst_length, updAll_length, updAt_length, List.length_map, List.length_replicate, List.length_range, and_self])
    | with_reducible exact ⟨rfl, rfl, rfl⟩
    | with_reducible exact ⟨rfl, rfl⟩
    | with_reducible rfl
    | with_reducible exact Nat.le_refl _
    | intro _

theorem Follows.perstHigh {b0 : State} {s : State} {port : Nat} (hb0 : Follows b0 s) : Follows b0 (State.perstHigh s port) := by
  unfold State.perstHigh
  try dsimp only
  repeat' first
    | with_reducible assumption
    | with_reducible refine Follows.hostMap ?_ (fun _ => ⟨rfl, rfl⟩)
    | with_reducible apply Follows.hostMap
    | with_reducible refine Follows.ite (fun _ => ?_) (fun _ => ?_)
    | (intro _; simp only [updFirst_length, updAll_length, updAt_length, List.length_map, List.length_replicate, List.length_range, and_self])
    | with_reducible exact ⟨rfl, rfl, rfl⟩
    | with_reducible exact ⟨rfl, rfl⟩
    | with_reducible rfl
    | with_reducible exact Nat.le_refl _
    | intro _

end Sys2Proof.Machine
end

