-- ==== Sys2Proof/Laws/FollowsStrand.lean ====
section
/-!
SUPPORT. The operations of Machine/Strand.lean keep what `Follows` says.
-/
namespace Sys2Proof.Machine

theorem Follows.labelStrand {b0 : State} {s : State} {i : Nat} (hb0 : Follows b0 s) : Follows b0 (State.labelStrand s i) := by
  unfold State.labelStrand
  try dsimp only
  repeat' first
    | with_reducible assumption
    | with_reducible apply Follows.wr
    | with_reducible refine Follows.ite (fun _ => ?_) (fun _ => ?_)
    | intro _

theorem Follows.strandTrained {b0 : State} {s : State} {i : Nat} {r : Trained} {t : Nat} (hb0 : Follows b0 s) : Follows b0 (State.strandTrained s i r t) := by
  unfold State.strandTrained
  try dsimp only
  repeat' first
    | with_reducible assumption
    | with_reducible apply Follows.advance
    | with_reducible apply Follows.logError
    | with_reducible apply Follows.strandMap
    | with_reducible apply Follows.labelStrand
    | with_reducible apply Follows.wr
    | with_reducible apply Follows.ev
    | with_reducible apply Follows.inc
    | with_reducible refine Follows.ite (fun _ => ?_) (fun _ => ?_)
    | intro _
    | split

theorem Follows.strst {b0 : State} {s : State} {i : Nat} (hb0 : Follows b0 s) : Follows b0 (State.strst s i) := by
  unfold State.strst
  try dsimp only
  repeat' first
    | with_reducible assumption
    | with_reducible apply Follows.startTraining
    | with_reducible refine Follows.ite (fun _ => ?_) (fun _ => ?_)
    | split

theorem Follows.lockLoss {b0 : State} {s : State} {i : Nat} {lane : Nat} (hb0 : Follows b0 s) : Follows b0 (State.lockLoss s i lane) := by
  unfold State.lockLoss
  try dsimp only
  repeat' first
    | with_reducible assumption
    | with_reducible apply Follows.logError
    | with_reducible apply Follows.startTraining
    | with_reducible refine Follows.ite (fun _ => ?_) (fun _ => ?_)
    | split

theorem Follows.onCapacity {b0 : State} {s : State} {m : Bytes} (hb0 : Follows b0 s) : Follows b0 (State.onCapacity s m) := by
  unfold State.onCapacity
  try dsimp only
  repeat' first
    | with_reducible assumption
    | with_reducible refine Follows.weaveMap ?_ (fun _ => rfl)
    | with_reducible apply Follows.weaveMap
    | with_reducible refine Follows.ite (fun _ => ?_) (fun _ => ?_)
    | (intro _; simp only [updFirst_length, updAll_length, updAt_length, List.length_map, List.length_replicate, List.length_range, and_self])
    | with_reducible exact ⟨rfl, rfl, rfl⟩
    | with_reducible exact ⟨rfl, rfl⟩
    | with_reducible rfl
    | with_reducible exact Nat.le_refl _
    | intro _

theorem Follows.deliver {b0 : State} {s : State} {i : Nat} {m : Bytes} (hb0 : Follows b0 s) : Follows b0 (State.deliver s i m) := by
  unfold State.deliver
  try dsimp only
  repeat' first
    | with_reducible assumption
    | with_reducible apply Follows.strandMap
    | with_reducible refine Follows.ite (fun _ => ?_) (fun _ => ?_)
    | intro _

theorem Follows.receiveMsg {b0 : State} {s : State} {i : Nat} {m : Bytes} (hb0 : Follows b0 s) : Follows b0 (State.receiveMsg s i m) := by
  unfold State.receiveMsg
  try dsimp only
  repeat' first
    | with_reducible assumption
    | with_reducible apply Follows.deliver
    | with_reducible apply Follows.route
    | with_reducible apply Follows.onCapacity
    | with_reducible apply Follows.ev
    | with_reducible refine Follows.weaveMap ?_ (fun _ => rfl)
    | with_reducible apply Follows.weaveMap
    | with_reducible apply Follows.when
    | with_reducible refine Follows.ite (fun _ => ?_) (fun _ => ?_)
    | (intro _; simp only [updFirst_length, updAll_length, updAt_length, List.length_map, List.length_replicate, List.length_range, and_self])
    | with_reducible exact ⟨rfl, rfl, rfl⟩
    | with_reducible exact ⟨rfl, rfl⟩
    | with_reducible rfl
    | with_reducible exact Nat.le_refl _
    | intro _
    | split

theorem Follows.assemble {b0 : State} {s : State} {i : Nat} {vc : Nat} {d : Bytes} (hb0 : Follows b0 s) : Follows b0 (State.assemble s i vc d) := by
  unfold State.assemble
  try dsimp only
  repeat' first
    | with_reducible assumption
    | with_reducible apply Follows.strandMap
    | with_reducible apply Follows.receiveMsg
    | with_reducible apply Follows.ev
    | with_reducible refine Follows.ite (fun _ => ?_) (fun _ => ?_)
    | intro _
    | split

theorem Follows.sendAck {b0 : State} {s : State} {i : Nat} (hb0 : Follows b0 s) : Follows b0 (State.sendAck s i) := by
  unfold State.sendAck
  try dsimp only
  repeat' first
    | with_reducible assumption
    | with_reducible apply Follows.sendCtl
    | with_reducible apply Follows.strandMap
    | with_reducible refine Follows.ite (fun _ => ?_) (fun _ => ?_)
    | intro _

theorem Follows.rejectBlock {b0 : State} {s : State} {i : Nat} (hb0 : Follows b0 s) : Follows b0 (State.rejectBlock s i) := by
  unfold State.rejectBlock
  try dsimp only
  repeat' first
    | with_reducible assumption
    | with_reducible apply Follows.sendCtl
    | with_reducible apply Follows.strandMap
    | with_reducible refine Follows.ite (fun _ => ?_) (fun _ => ?_)
    | intro _
    | split

theorem Follows.dataBlock {b0 : State} {s : State} {i : Nat} {seq : Nat} {vc : Nat} {payload : Nat} {t : Nat} (hb0 : Follows b0 s) : Follows b0 (State.dataBlock s i seq vc payload t) := by
  unfold State.dataBlock
  try dsimp only
  repeat' first
    | with_reducible assumption
    | with_reducible apply Follows.advance
    | with_reducible apply Follows.rejectBlock
    | with_reducible apply Follows.strandMap
    | with_reducible apply Follows.sendAck
    | with_reducible apply Follows.assemble
    | with_reducible apply Follows.inc
    | with_reducible apply Follows.when
    | with_reducible refine Follows.ite (fun _ => ?_) (fun _ => ?_)
    | intro _
    | split

theorem Follows.ackBlock {b0 : State} {s : State} {i : Nat} {seq : Nat} (hb0 : Follows b0 s) : Follows b0 (State.ackBlock s i seq) := by
  unfold State.ackBlock
  try dsimp only
  repeat' first
    | with_reducible assumption
    | with_reducible apply Follows.strandMap
    | with_reducible apply Follows.pump
    | with_reducible refine Follows.ite (fun _ => ?_) (fun _ => ?_)
    | intro _
    | split

theorem Follows.nakBlock {b0 : State} {s : State} {i : Nat} {seq : Nat} (hb0 : Follows b0 s) : Follows b0 (State.nakBlock s i seq) := by
  unfold State.nakBlock
  try dsimp only
  repeat' first
    | with_reducible assumption
    | with_reducible apply Follows.sendCtl
    | with_reducible apply Follows.emitBlock
    | with_reducible apply Follows.inc
    | with_reducible apply Follows.each
    | with_reducible refine Follows.ite (fun _ => ?_) (fun _ => ?_)
    | intro _
    | split

theorem Follows.replayBlock {b0 : State} {s : State} {i : Nat} {seq : Nat} (hb0 : Follows b0 s) : Follows b0 (State.replayBlock s i seq) := by
  unfold State.replayBlock
  try dsimp only
  repeat' first
    | with_reducible assumption
    | with_reducible apply Follows.strandMap
    | with_reducible refine Follows.ite (fun _ => ?_) (fun _ => ?_)
    | intro _
    | split

theorem Follows.creditBlock {b0 : State} {s : State} {i : Nat} {c : List Nat} (hb0 : Follows b0 s) : Follows b0 (State.creditBlock s i c) := by
  unfold State.creditBlock
  try dsimp only
  repeat' first
    | with_reducible assumption
    | with_reducible apply Follows.strandMap
    | with_reducible apply Follows.pump
    | with_reducible refine Follows.ite (fun _ => ?_) (fun _ => ?_)
    | intro _

theorem Follows.ackTimer {b0 : State} {s : State} {i : Nat} {t : Nat} (hb0 : Follows b0 s) : Follows b0 (State.ackTimer s i t) := by
  unfold State.ackTimer
  try dsimp only
  repeat' first
    | with_reducible assumption
    | with_reducible apply Follows.advance
    | with_reducible apply Follows.sendAck
    | with_reducible refine Follows.ite (fun _ => ?_) (fun _ => ?_)
    | split

theorem Follows.creditTimer {b0 : State} {s : State} {i : Nat} (hb0 : Follows b0 s) : Follows b0 (State.creditTimer s i) := by
  unfold State.creditTimer
  try dsimp only
  repeat' first
    | with_reducible assumption
    | with_reducible apply Follows.sendCtl
    | with_reducible apply Follows.strandMap
    | with_reducible refine Follows.ite (fun _ => ?_) (fun _ => ?_)
    | intro _
    | split

theorem Follows.strandTacet {b0 : State} {s : State} {i : Nat} {t : Nat} (hb0 : Follows b0 s) : Follows b0 (State.strandTacet s i t) := by
  unfold State.strandTacet
  try dsimp only
  repeat' first
    | with_reducible assumption
    | with_reducible apply Follows.advance
    | with_reducible apply Follows.strandMap
    | with_reducible refine Follows.ite (fun _ => ?_) (fun _ => ?_)
    | intro _
    | split

theorem Follows.withMsgIf {b0 : State} {s : State} {may : Bool} {i : Nat} {t : Nat} {f : State → Bytes → State} (hb0 : Follows b0 s) (hf_f : ∀ t x, Follows b0 t → Follows b0 (f t x)) : Follows b0 (State.withMsgIf s may i t f) := by
  unfold State.withMsgIf
  try dsimp only
  repeat' first
    | with_reducible assumption
    | apply hf_f
    | with_reducible apply Follows.strandMap
    | with_reducible refine Follows.ite (fun _ => ?_) (fun _ => ?_)
    | intro _
    | split

theorem Follows.withMsg {b0 : State} {s : State} {i : Nat} {t : Nat} {f : State → Bytes → State} (hb0 : Follows b0 s) (hf_f : ∀ t x, Follows b0 t → Follows b0 (f t x)) : Follows b0 (State.withMsg s i t f) := by
  unfold State.withMsg
  try dsimp only
  repeat' first
    | with_reducible assumption
    | apply hf_f
    | with_reducible apply Follows.withMsgIf
    | with_reducible refine Follows.ite (fun _ => ?_) (fun _ => ?_)

end Sys2Proof.Machine
end

