-- ==== Sys2Proof/Laws/FollowsShelves.lean ====
section
/-!
SUPPORT. The operations of Machine/Shelves.lean keep what `Follows` says.
-/
namespace Sys2Proof.Machine

theorem Follows.placeShelf {b0 t0 : State} {s : State} {h : Shelf} (e : State.placeShelf s h = some t0) (hb0 : Follows b0 s) : Follows b0 t0 := by
  unfold State.placeShelf at e
  obtain ⟨i, -, e⟩ := Option.bind_eq_some_iff.1 e
  dsimp only at e
  split at e
  · cases e; exact Follows.rehashDir hb0.storeMap
  · split at e
    · cases e
    · obtain ⟨l, -, e⟩ := Option.map_eq_some_iff.1 e
      subst e; exact Follows.rehashDir hb0.storeMap

/-- The state a placement answers, or the one it could not change. -/
theorem Follows.placeOr {b0 : State} {s : State} {h : Shelf} (hb0 : Follows b0 s) : Follows b0 ((s.placeShelf h).getD s) := by
  cases e : s.placeShelf h with
  | none => exact hb0
  | some t => exact Follows.placeShelf e hb0

theorem Follows.placeAll {b0 t0 : State} (g : State → Nat → Shelf) (l : List Nat) (acc : Option State) (ha : ∀ s, acc = some s → Follows b0 s)
    (e : l.foldl (fun (acc : Option State) r => acc.bind (fun s => s.placeShelf (g s r))) acc = some t0) : Follows b0 t0 := by
  induction l generalizing acc with
  | nil => exact ha _ e
  | cons r l ih =>
    refine ih _ ?_ e
    intro s hs
    obtain ⟨s0, h0, h1⟩ := Option.bind_eq_some_iff.1 hs
    exact Follows.placeShelf h1 (ha s0 h0)

theorem Follows.wshelfMap {b0 : State} {s : State} {handle : Nat} {f : WShelf → WShelf} (hb0 : Follows b0 s) : Follows b0 (State.wshelfMap s handle f) := by
  unfold State.wshelfMap
  try dsimp only
  repeat' first
    | with_reducible assumption
    | with_reducible refine Follows.weaveMap ?_ (fun _ => rfl)
    | with_reducible apply Follows.weaveMap
    | with_reducible refine Follows.ite (fun _ => ?_) (fun _ => ?_)
    | (intro _; simp only [updFirst_length, updAll_length, updAt_length, List.length_map, List.length_replicate, List.length_range, and_self])
    | with_reducible exact ⟨rfl, rfl, rfl⟩
    | with_reducible exact ⟨rfl, rfl⟩
    | with_reducible rfl
    | with_reducible exact Nat.le_refl _
    | intro _

theorem Follows.makeShelf {b0 t0 : State} {s : State} {h : Shelf} (e : State.makeShelf s h = some t0) (hb0 : Follows b0 s) : Follows b0 t0 := by
  unfold State.makeShelf at e
  split at e
  · exact Follows.placeShelf e hb0
  · dsimp only at e
    obtain ⟨s1, h1, h2⟩ := Option.map_eq_some_iff.1 e
    subst h2
    refine Follows.weaveMap (Follows.placeAll (fun s r => s.subOf h r) _ _ ?_ h1) (fun _ => rfl)
    intro s' hs; cases hs; exact hb0

theorem Follows.endSettles {b0 : State} {s : State} {handle : Nat} (hb0 : Follows b0 s) : Follows b0 (State.endSettles s handle) := by
  unfold State.endSettles
  try dsimp only
  repeat' first
    | with_reducible assumption
    | with_reducible apply Follows.complete
    | with_reducible apply Follows.reached
    | with_reducible refine Follows.weaveMap ?_ (fun _ => rfl)
    | with_reducible apply Follows.weaveMap
    | with_reducible apply Follows.each
    | with_reducible refine Follows.ite (fun _ => ?_) (fun _ => ?_)
    | (intro _; simp only [updFirst_length, updAll_length, updAt_length, List.length_map, List.length_replicate, List.length_range, and_self])
    | with_reducible exact ⟨rfl, rfl, rfl⟩
    | with_reducible exact ⟨rfl, rfl⟩
    | with_reducible rfl
    | with_reducible exact Nat.le_refl _
    | intro _
    | split

theorem Follows.endLost {b0 : State} {s : State} {handle : Nat} (hb0 : Follows b0 s) : Follows b0 (State.endLost s handle) := by
  unfold State.endLost
  try dsimp only
  repeat' first
    | with_reducible assumption
    | with_reducible apply Follows.wr
    | with_reducible apply Follows.storeMap
    | with_reducible apply Follows.each
    | with_reducible refine Follows.ite (fun _ => ?_) (fun _ => ?_)
    | intro _
    | split

theorem Follows.dropShelf {b0 : State} {s : State} {handle : Nat} (hb0 : Follows b0 s) : Follows b0 (State.dropShelf s handle) := by
  unfold State.dropShelf
  try dsimp only
  repeat' first
    | with_reducible assumption
    | with_reducible apply Follows.endLost
    | with_reducible apply Follows.wshelfMap
    | with_reducible apply Follows.endSettles
    | with_reducible apply Follows.refuse
    | with_reducible apply Follows.releaseDropped
    | with_reducible apply Follows.storeMap
    | with_reducible apply Follows.when
    | with_reducible apply Follows.each
    | with_reducible refine Follows.ite (fun _ => ?_) (fun _ => ?_)
    | intro _

theorem Follows.grantShelf {b0 : State} {s : State} {handle : Nat} {seat : Nat} {rights : Nat} (hb0 : Follows b0 s) : Follows b0 (State.grantShelf s handle seat rights) := by
  unfold State.grantShelf
  try dsimp only
  repeat' first
    | with_reducible assumption
    | with_reducible apply Follows.storeMap
    | with_reducible refine Follows.ite (fun _ => ?_) (fun _ => ?_)
    | intro _
    | split

end Sys2Proof.Machine
end

