-- ==== Sys2Proof/Laws/FollowsWeaveMut.lean ====
section
/-!
SUPPORT. The operations of Machine/WeaveMut.lean keep what `Follows` says.
-/
namespace Sys2Proof.Machine

theorem Follows.newOp {b0 : State} {s : State} (hb0 : Follows b0 s) : Follows b0 (State.newOp s).1 := by
  unfold State.newOp
  try dsimp only
  repeat' first
    | with_reducible assumption
    | with_reducible refine Follows.weaveMap ?_ (fun _ => rfl)
    | with_reducible apply Follows.weaveMap
    | with_reducible refine Follows.ite (fun _ => ?_) (fun _ => ?_)
    | (intro _; simp only [updFirst_length, updAll_length, updAt_length, List.length_map, List.length_replicate, List.length_range, and_self])
    | with_reducible exact ⟨rfl, rfl, rfl⟩
    | with_reducible exact ⟨rfl, rfl⟩
    | with_reducible rfl
    | with_reducible exact Nat.le_refl _
    | intro _

theorem Follows.wopMap {b0 : State} {s : State} {op : Nat} {f : WOp → WOp} (hb0 : Follows b0 s) : Follows b0 (State.wopMap s op f) := by
  unfold State.wopMap
  try dsimp only
  repeat' first
    | with_reducible assumption
    | with_reducible refine Follows.weaveMap ?_ (fun _ => rfl)
    | with_reducible apply Follows.weaveMap
    | with_reducible refine Follows.ite (fun _ => ?_) (fun _ => ?_)
    | (intro _; simp only [updFirst_length, updAll_length, updAt_length, List.length_map, List.length_replicate, List.length_range, and_self])
    | with_reducible exact ⟨rfl, rfl, rfl⟩
    | with_reducible exact ⟨rfl, rfl⟩
    | with_reducible rfl
    | with_reducible exact Nat.le_refl _
    | intro _

theorem Follows.endOp {b0 : State} {s : State} {op : Nat} (hb0 : Follows b0 s) : Follows b0 (State.endOp s op) := by
  unfold State.endOp
  try dsimp only
  repeat' first
    | with_reducible assumption
    | with_reducible refine Follows.weaveMap ?_ (fun _ => rfl)
    | with_reducible apply Follows.weaveMap
    | with_reducible refine Follows.ite (fun _ => ?_) (fun _ => ?_)
    | (intro _; simp only [updFirst_length, updAll_length, updAt_length, List.length_map, List.length_replicate, List.length_range, and_self])
    | with_reducible exact ⟨rfl, rfl, rfl⟩
    | with_reducible exact ⟨rfl, rfl⟩
    | with_reducible rfl
    | with_reducible exact Nat.le_refl _
    | intro _

theorem Follows.answer {b0 : State} {s : State} {op : Nat} {t : Nat} {reply : Nat} {body : Bytes} (hb0 : Follows b0 s) : Follows b0 (State.answer s op t reply body) := by
  unfold State.answer
  try dsimp only
  repeat' first
    | with_reducible assumption
    | with_reducible apply Follows.send
    | with_reducible refine Follows.weaveMap ?_ (fun _ => rfl)
    | with_reducible apply Follows.weaveMap
    | with_reducible refine Follows.ite (fun _ => ?_) (fun _ => ?_)
    | (intro _; simp only [updFirst_length, updAll_length, updAt_length, List.length_map, List.length_replicate, List.length_range, and_self])
    | with_reducible exact ⟨rfl, rfl, rfl⟩
    | with_reducible exact ⟨rfl, rfl⟩
    | with_reducible rfl
    | with_reducible exact Nat.le_refl _
    | intro _

theorem Follows.once {b0 : State} {s : State} {m : Bytes} {reply : Nat} {f : State → State} (hb0 : Follows b0 s) (hf_f : ∀ t, Follows b0 t → Follows b0 (f t)) : Follows b0 (State.once s m reply f) := by
  unfold State.once
  try dsimp only
  repeat' first
    | with_reducible assumption
    | apply hf_f
    | with_reducible apply Follows.send
    | with_reducible refine Follows.ite (fun _ => ?_) (fun _ => ?_)
    | intro _
    | split

theorem Follows.hold {b0 : State} {s : State} {op : Nat} {handle : Nat} {opcode : Nat} {records : List Bytes} {units : Nat × Nat} (hb0 : Follows b0 s) : Follows b0 (State.hold s op handle opcode records units) := by
  unfold State.hold
  try dsimp only
  repeat' first
    | with_reducible assumption
    | with_reducible refine Follows.weaveMap ?_ (fun _ => rfl)
    | with_reducible apply Follows.weaveMap
    | with_reducible refine Follows.ite (fun _ => ?_) (fun _ => ?_)
    | (intro _; simp only [updFirst_length, updAll_length, updAt_length, List.length_map, List.length_replicate, List.length_range, and_self])
    | with_reducible exact ⟨rfl, rfl, rfl⟩
    | with_reducible exact ⟨rfl, rfl⟩
    | with_reducible rfl
    | with_reducible exact Nat.le_refl _
    | intro _

theorem Follows.markCommitted {b0 : State} {s : State} {handle : Nat} {m : Nat} (hb0 : Follows b0 s) : Follows b0 (State.markCommitted s handle m) := by
  unfold State.markCommitted
  try dsimp only
  repeat' first
    | with_reducible assumption
    | with_reducible apply Follows.wshelfMap
    | with_reducible refine Follows.ite (fun _ => ?_) (fun _ => ?_)
    | intro _
    | split

theorem Follows.applyTent {b0 : State} {s : State} {t : Tent} {m : Nat} (hb0 : Follows b0 s) : Follows b0 (State.applyTent s t m) := by
  unfold State.applyTent
  try dsimp only
  repeat' first
    | with_reducible assumption
    | with_reducible apply Follows.commitRecs
    | with_reducible apply Follows.markCommitted
    | with_reducible refine Follows.weaveMap ?_ (fun _ => rfl)
    | with_reducible apply Follows.weaveMap
    | with_reducible apply Follows.each
    | with_reducible refine Follows.ite (fun _ => ?_) (fun _ => ?_)
    | (intro _; simp only [updFirst_length, updAll_length, updAt_length, List.length_map, List.length_replicate, List.length_range, and_self])
    | with_reducible exact ⟨rfl, rfl, rfl⟩
    | with_reducible exact ⟨rfl, rfl⟩
    | with_reducible rfl
    | with_reducible exact Nat.le_refl _
    | intro _
    | split

theorem Follows.decideTent {b0 : State} {s : State} {op : Nat} {m : Option Nat} (hb0 : Follows b0 s) : Follows b0 (State.decideTent s op m) := by
  unfold State.decideTent
  try dsimp only
  repeat' first
    | with_reducible assumption
    | with_reducible apply Follows.applyTent
    | with_reducible refine Follows.weaveMap ?_ (fun _ => rfl)
    | with_reducible apply Follows.weaveMap
    | with_reducible refine Follows.ite (fun _ => ?_) (fun _ => ?_)
    | (intro _; simp only [updFirst_length, updAll_length, updAt_length, List.length_map, List.length_replicate, List.length_range, and_self])
    | with_reducible exact ⟨rfl, rfl, rfl⟩
    | with_reducible exact ⟨rfl, rfl⟩
    | with_reducible rfl
    | with_reducible exact Nat.le_refl _
    | intro _
    | split

theorem Follows.weaveLanded {b0 : State} {s : State} (hb0 : Follows b0 s) : Follows b0 (State.weaveLanded s) := by
  unfold State.weaveLanded
  try dsimp only
  repeat' first
    | with_reducible assumption
    | with_reducible apply Follows.decideTent
    | with_reducible apply Follows.servePoints
    | with_reducible apply Follows.send
    | with_reducible refine Follows.weaveMap ?_ (fun _ => rfl)
    | with_reducible apply Follows.weaveMap
    | with_reducible apply Follows.when
    | with_reducible apply Follows.each
    | with_reducible refine Follows.ite (fun _ => ?_) (fun _ => ?_)
    | (intro _; simp only [updFirst_length, updAll_length, updAt_length, List.length_map, List.length_replicate, List.length_range, and_self])
    | with_reducible exact ⟨rfl, rfl, rfl⟩
    | with_reducible exact ⟨rfl, rfl⟩
    | with_reducible rfl
    | with_reducible exact Nat.le_refl _
    | intro _
    | split

theorem Follows.weaveSettles {b0 : State} {s : State} (hb0 : Follows b0 s) : Follows b0 (State.weaveSettles s) := by
  unfold State.weaveSettles
  try dsimp only
  repeat' first
    | with_reducible assumption
    | with_reducible apply Follows.reached
    | with_reducible refine Follows.weaveMap ?_ (fun _ => rfl)
    | with_reducible apply Follows.weaveMap
    | with_reducible refine Follows.ite (fun _ => ?_) (fun _ => ?_)
    | (intro _; simp only [updFirst_length, updAll_length, updAt_length, List.length_map, List.length_replicate, List.length_range, and_self])
    | with_reducible exact ⟨rfl, rfl, rfl⟩
    | with_reducible exact ⟨rfl, rfl⟩
    | with_reducible rfl
    | with_reducible exact Nat.le_refl _
    | intro _
    | split

theorem Follows.prepare {b0 : State} {s : State} {c : Cmd} (hb0 : Follows b0 s) : Follows b0 (State.prepare s c) := by
  unfold State.prepare
  try dsimp only
  repeat' first
    | with_reducible assumption
    | with_reducible apply Follows.refuse
    | with_reducible apply Follows.newOp
    | with_reducible apply Follows.hold
    | with_reducible apply Follows.send
    | with_reducible refine Follows.weaveMap ?_ (fun _ => rfl)
    | with_reducible apply Follows.weaveMap
    | with_reducible apply Follows.when
    | with_reducible apply Follows.each
    | with_reducible refine Follows.ite (fun _ => ?_) (fun _ => ?_)
    | with_reducible refine Follows.ofFst ?_ (by with_reducible assumption)
    | (intro _; simp only [updFirst_length, updAll_length, updAt_length, List.length_map, List.length_replicate, List.length_range, and_self])
    | with_reducible exact ⟨rfl, rfl, rfl⟩
    | with_reducible exact ⟨rfl, rfl⟩
    | with_reducible rfl
    | with_reducible exact Nat.le_refl _
    | intro _
    | split

theorem Follows.weavePrepares {b0 : State} {s : State} (hb0 : Follows b0 s) : Follows b0 (State.weavePrepares s) := by
  unfold State.weavePrepares
  try dsimp only
  repeat' first
    | with_reducible assumption
    | with_reducible apply Follows.prepare
    | with_reducible apply Follows.each
    | with_reducible refine Follows.ite (fun _ => ?_) (fun _ => ?_)
    | intro _
    | split

theorem Follows.sendCommit {b0 : State} {s : State} {op : Nat} {a : Nat} {commit : Bool} {m : Nat} (hb0 : Follows b0 s) : Follows b0 (State.sendCommit s op a commit m) := by
  unfold State.sendCommit
  try dsimp only
  repeat' first
    | with_reducible assumption
    | with_reducible apply Follows.send
    | with_reducible refine Follows.weaveMap ?_ (fun _ => rfl)
    | with_reducible apply Follows.weaveMap
    | with_reducible refine Follows.ite (fun _ => ?_) (fun _ => ?_)
    | (intro _; simp only [updFirst_length, updAll_length, updAt_length, List.length_map, List.length_replicate, List.length_range, and_self])
    | with_reducible exact ⟨rfl, rfl, rfl⟩
    | with_reducible exact ⟨rfl, rfl⟩
    | with_reducible rfl
    | with_reducible exact Nat.le_refl _
    | intro _
    | split

theorem Follows.decideOp {b0 : State} {s : State} {o : WOp} (hb0 : Follows b0 s) : Follows b0 (State.decideOp s o) := by
  unfold State.decideOp
  try dsimp only
  repeat' first
    | with_reducible assumption
    | with_reducible apply Follows.endOp
    | with_reducible apply Follows.decideTent
    | with_reducible apply Follows.sendCommit
    | with_reducible apply Follows.showPresent
    | with_reducible apply Follows.refuse
    | with_reducible apply Follows.markCommitted
    | with_reducible apply Follows.cmdMap
    | with_reducible apply Follows.wopMap
    | with_reducible apply Follows.committed
    | with_reducible apply Follows.weaveLanded
    | with_reducible apply Follows.weaveSettles
    | with_reducible refine Follows.weaveMap ?_ (fun _ => rfl)
    | with_reducible apply Follows.weaveMap
    | with_reducible apply Follows.each
    | with_reducible refine Follows.ite (fun _ => ?_) (fun _ => ?_)
    | (intro _; simp only [updFirst_length, updAll_length, updAt_length, List.length_map, List.length_replicate, List.length_range, and_self])
    | with_reducible exact ⟨rfl, rfl, rfl⟩
    | with_reducible exact ⟨rfl, rfl⟩
    | with_reducible rfl
    | with_reducible exact Nat.le_refl _
    | intro _
    | split

theorem Follows.weaveDecide {b0 : State} {s : State} (hb0 : Follows b0 s) : Follows b0 (State.weaveDecide s) := by
  unfold State.weaveDecide
  try dsimp only
  repeat' first
    | with_reducible assumption
    | with_reducible apply Follows.prepare
    | with_reducible apply Follows.decideOp
    | with_reducible apply Follows.each
    | with_reducible refine Follows.ite (fun _ => ?_) (fun _ => ?_)
    | intro _
    | split

theorem Follows.onPrepare {b0 : State} {s : State} {m : Bytes} (hb0 : Follows b0 s) : Follows b0 (State.onPrepare s m) := by
  unfold State.onPrepare
  try dsimp only
  repeat' first
    | with_reducible assumption
    | with_reducible apply Follows.once
    | with_reducible apply Follows.answer
    | with_reducible apply Follows.hold
    | with_reducible apply Follows.when
    | with_reducible refine Follows.ite (fun _ => ?_) (fun _ => ?_)
    | intro _
    | split

theorem Follows.onPrepareReply {b0 : State} {s : State} {m : Bytes} (hb0 : Follows b0 s) : Follows b0 (State.onPrepareReply s m) := by
  unfold State.onPrepareReply
  try dsimp only
  repeat' first
    | with_reducible assumption
    | with_reducible apply Follows.prepare
    | with_reducible apply Follows.wopMap
    | with_reducible apply Follows.weaveDecide
    | with_reducible refine Follows.ite (fun _ => ?_) (fun _ => ?_)
    | intro _
    | split

theorem Follows.onCommit {b0 : State} {s : State} {m : Bytes} (hb0 : Follows b0 s) : Follows b0 (State.onCommit s m) := by
  unfold State.onCommit
  try dsimp only
  repeat' first
    | with_reducible assumption
    | with_reducible apply Follows.once
    | with_reducible apply Follows.decideTent
    | with_reducible apply Follows.answer
    | with_reducible apply Follows.weaveLanded
    | with_reducible refine Follows.weaveMap ?_ (fun _ => rfl)
    | with_reducible apply Follows.weaveMap
    | with_reducible refine Follows.ite (fun _ => ?_) (fun _ => ?_)
    | (intro _; simp only [updFirst_length, updAll_length, updAt_length, List.length_map, List.length_replicate, List.length_range, and_self])
    | with_reducible exact ⟨rfl, rfl, rfl⟩
    | with_reducible exact ⟨rfl, rfl⟩
    | with_reducible rfl
    | with_reducible exact Nat.le_refl _
    | intro _
    | split

theorem Follows.onApplied {b0 : State} {s : State} {m : Bytes} (hb0 : Follows b0 s) : Follows b0 (State.onApplied s m) := by
  unfold State.onApplied
  try dsimp only
  repeat' first
    | with_reducible assumption
    | with_reducible apply Follows.endOp
    | with_reducible apply Follows.wopMap
    | with_reducible refine Follows.ite (fun _ => ?_) (fun _ => ?_)
    | intro _
    | split

theorem Follows.onSettled {b0 : State} {s : State} {m : Bytes} (hb0 : Follows b0 s) : Follows b0 (State.onSettled s m) := by
  unfold State.onSettled
  try dsimp only
  repeat' first
    | with_reducible assumption
    | with_reducible apply Follows.weaveSettles
    | with_reducible refine Follows.weaveMap ?_ (fun _ => rfl)
    | with_reducible apply Follows.weaveMap
    | with_reducible refine Follows.ite (fun _ => ?_) (fun _ => ?_)
    | (intro _; simp only [updFirst_length, updAll_length, updAt_length, List.length_map, List.length_replicate, List.length_range, and_self])
    | with_reducible exact ⟨rfl, rfl, rfl⟩
    | with_reducible exact ⟨rfl, rfl⟩
    | with_reducible rfl
    | with_reducible exact Nat.le_refl _
    | intro _

theorem Follows.weaveSettle {b0 : State} {s : State} {c : Cmd} (hb0 : Follows b0 s) : Follows b0 (State.weaveSettle s c) := by
  unfold State.weaveSettle
  try dsimp only
  repeat' first
    | with_reducible assumption
    | with_reducible apply Follows.completeOk
    | with_reducible apply Follows.cmdMap
    | with_reducible refine Follows.ite (fun _ => ?_) (fun _ => ?_)
    | intro _
    | split

theorem Follows.pointRead {b0 : State} {s : State} {c : Cmd} (hb0 : Follows b0 s) : Follows b0 (State.pointRead s c) := by
  unfold State.pointRead
  try dsimp only
  repeat' first
    | with_reducible assumption
    | with_reducible apply Follows.refuse
    | with_reducible apply Follows.pointServe
    | with_reducible apply Follows.pointDone
    | with_reducible apply Follows.holdPoint
    | with_reducible apply Follows.newOp
    | with_reducible apply Follows.cmdMap
    | with_reducible apply Follows.send
    | with_reducible refine Follows.weaveMap ?_ (fun _ => rfl)
    | with_reducible apply Follows.weaveMap
    | with_reducible refine Follows.ite (fun _ => ?_) (fun _ => ?_)
    | with_reducible refine Follows.ofFst ?_ (by with_reducible assumption)
    | (intro _; simp only [updFirst_length, updAll_length, updAt_length, List.length_map, List.length_replicate, List.length_range, and_self])
    | with_reducible exact ⟨rfl, rfl, rfl⟩
    | with_reducible exact ⟨rfl, rfl⟩
    | with_reducible rfl
    | with_reducible exact Nat.le_refl _
    | intro _
    | split

theorem Follows.addCmd {b0 : State} {s : State} {c : Cmd} (hb0 : Follows b0 s) : Follows b0 (State.addCmd s c) := by
  unfold State.addCmd
  try dsimp only
  repeat' first
    | with_reducible assumption
    | with_reducible refine Follows.hostMap ?_ (fun _ => ⟨rfl, rfl⟩)
    | with_reducible apply Follows.hostMap
    | with_reducible refine Follows.ite (fun _ => ?_) (fun _ => ?_)
    | (intro _; simp only [updFirst_length, updAll_length, updAt_length, List.length_map, List.length_replicate, List.length_range, and_self])
    | with_reducible exact ⟨rfl, rfl, rfl⟩
    | with_reducible exact ⟨rfl, rfl⟩
    | with_reducible rfl
    | with_reducible exact Nat.le_refl _
    | intro _

theorem Follows.onPointRead {b0 : State} {s : State} {m : Bytes} (hb0 : Follows b0 s) : Follows b0 (State.onPointRead s m) := by
  unfold State.onPointRead
  try dsimp only
  repeat' first
    | with_reducible assumption
    | with_reducible apply Follows.addCmd
    | with_reducible apply Follows.pointRead
    | with_reducible refine Follows.ite (fun _ => ?_) (fun _ => ?_)

theorem Follows.onPointReply {b0 : State} {s : State} {m : Bytes} (hb0 : Follows b0 s) : Follows b0 (State.onPointReply s m) := by
  unfold State.onPointReply
  try dsimp only
  repeat' first
    | with_reducible assumption
    | with_reducible apply Follows.endOp
    | with_reducible apply Follows.refuse
    | with_reducible apply Follows.pointDone
    | with_reducible refine Follows.ite (fun _ => ?_) (fun _ => ?_)
    | intro _
    | split

theorem Follows.onRemote {b0 : State} {s : State} {m : Bytes} (hb0 : Follows b0 s) : Follows b0 (State.onRemote s m) := by
  unfold State.onRemote
  try dsimp only
  repeat' first
    | with_reducible assumption
    | with_reducible apply Follows.once
    | with_reducible apply Follows.addCmd
    | with_reducible apply Follows.refuse
    | with_reducible refine Follows.ite (fun _ => ?_) (fun _ => ?_)
    | intro _
    | split

theorem Follows.spread {b0 : State} {s : State} {c : Cmd} (hb0 : Follows b0 s) : Follows b0 (State.spread s c) := by
  unfold State.spread
  try dsimp only
  repeat' first
    | with_reducible assumption
    | with_reducible apply Follows.newOp
    | with_reducible apply Follows.send
    | with_reducible refine Follows.weaveMap ?_ (fun _ => rfl)
    | with_reducible apply Follows.weaveMap
    | with_reducible apply Follows.each
    | with_reducible refine Follows.ite (fun _ => ?_) (fun _ => ?_)
    | with_reducible refine Follows.ofFst ?_ (by with_reducible assumption)
    | (intro _; simp only [updFirst_length, updAll_length, updAt_length, List.length_map, List.length_replicate, List.length_range, and_self])
    | with_reducible exact ⟨rfl, rfl, rfl⟩
    | with_reducible exact ⟨rfl, rfl⟩
    | with_reducible rfl
    | with_reducible exact Nat.le_refl _
    | intro _
    | split

theorem Follows.endSpread {b0 : State} {s : State} {o : WOp} (hb0 : Follows b0 s) : Follows b0 (State.endSpread s o) := by
  unfold State.endSpread
  try dsimp only
  repeat' first
    | with_reducible assumption
    | with_reducible apply Follows.endOp
    | with_reducible apply Follows.completeOk
    | with_reducible apply Follows.dropShelf
    | with_reducible apply Follows.spread
    | with_reducible apply Follows.refuse
    | with_reducible apply Follows.when
    | with_reducible refine Follows.ite (fun _ => ?_) (fun _ => ?_)
    | intro _
    | split

theorem Follows.onRemoteReply {b0 : State} {s : State} {m : Bytes} (hb0 : Follows b0 s) : Follows b0 (State.onRemoteReply s m) := by
  unfold State.onRemoteReply
  try dsimp only
  repeat' first
    | with_reducible assumption
    | with_reducible apply Follows.endOp
    | with_reducible apply Follows.wopMap
    | with_reducible apply Follows.reply
    | with_reducible apply Follows.completeOk
    | with_reducible apply Follows.endSpread
    | with_reducible refine Follows.ite (fun _ => ?_) (fun _ => ?_)
    | intro _
    | split

theorem Follows.resend {b0 : State} {s : State} {child : Nat} (hb0 : Follows b0 s) : Follows b0 (State.resend s child) := by
  unfold State.resend
  try dsimp only
  repeat' first
    | with_reducible assumption
    | with_reducible apply Follows.prepare
    | with_reducible apply Follows.send
    | with_reducible apply Follows.each
    | with_reducible refine Follows.ite (fun _ => ?_) (fun _ => ?_)
    | intro _
    | split

theorem Follows.forget {b0 : State} {s : State} {lost : List Nat} (hb0 : Follows b0 s) : Follows b0 (State.forget s lost) := by
  unfold State.forget
  try dsimp only
  repeat' first
    | with_reducible assumption
    | with_reducible apply Follows.prepare
    | with_reducible apply Follows.decideTent
    | with_reducible apply Follows.sendCommit
    | with_reducible apply Follows.endOp
    | with_reducible apply Follows.wopMap
    | with_reducible apply Follows.refuse
    | with_reducible apply Follows.complete
    | with_reducible apply Follows.endSpread
    | with_reducible apply Follows.weaveSettles
    | with_reducible refine Follows.weaveMap ?_ (fun _ => rfl)
    | with_reducible apply Follows.weaveMap
    | with_reducible apply Follows.each
    | with_reducible refine Follows.ite (fun _ => ?_) (fun _ => ?_)
    | (intro _; simp only [updFirst_length, updAll_length, updAt_length, List.length_map, List.length_replicate, List.length_range, and_self])
    | with_reducible exact ⟨rfl, rfl, rfl⟩
    | with_reducible exact ⟨rfl, rfl⟩
    | with_reducible rfl
    | with_reducible exact Nat.le_refl _
    | intro _
    | split

end Sys2Proof.Machine
end

