-- ==== Sys2Proof/Laws/FollowsWeavePass.lean ====
section
/-!
SUPPORT. The operations of Machine/WeavePass.lean keep what `Follows` says.
-/
namespace Sys2Proof.Machine

theorem Follows.mergeMap {b0 : State} {s : State} {ref : Nat} {f : Merge → Merge} (hb0 : Follows b0 s) : Follows b0 (State.mergeMap s ref f) := by
  unfold State.mergeMap
  try dsimp only
  repeat' first
    | with_reducible assumption
    | with_reducible refine Follows.weaveMap ?_ (fun _ => rfl)
    | with_reducible apply Follows.weaveMap
    | with_reducible refine Follows.ite (fun _ => ?_) (fun _ => ?_)
    | (intro _; simp only [updFirst_length, updAll_length, updAt_length, List.length_map, List.length_replicate, List.length_range, and_self])
    | with_reducible exact ⟨rfl, rfl, rfl⟩
    | with_reducible exact ⟨rfl, rfl⟩
    | with_reducible rfl
    | with_reducible exact Nat.le_refl _
    | intro _

theorem Follows.fanOut {b0 : State} {s : State} {c : Cmd} (hb0 : Follows b0 s) : Follows b0 (State.fanOut s c) := by
  unfold State.fanOut
  try dsimp only
  repeat' first
    | with_reducible assumption
    | with_reducible apply Follows.cmdMap
    | with_reducible apply Follows.send
    | with_reducible refine Follows.weaveMap ?_ (fun _ => rfl)
    | with_reducible apply Follows.weaveMap
    | with_reducible apply Follows.each
    | with_reducible refine Follows.ite (fun _ => ?_) (fun _ => ?_)
    | (intro _; simp only [updFirst_length, updAll_length, updAt_length, List.length_map, List.length_replicate, List.length_range, and_self])
    | with_reducible exact ⟨rfl, rfl, rfl⟩
    | with_reducible exact ⟨rfl, rfl⟩
    | with_reducible rfl
    | with_reducible exact Nat.le_refl _
    | intro _
    | split

theorem Follows.onForward {b0 : State} {s : State} {m : Bytes} (hb0 : Follows b0 s) : Follows b0 (State.onForward s m) := by
  unfold State.onForward
  try dsimp only
  repeat' first
    | with_reducible assumption
    | with_reducible apply Follows.send
    | with_reducible refine Follows.weaveMap ?_ (fun _ => rfl)
    | with_reducible apply Follows.weaveMap
    | with_reducible refine Follows.ite (fun _ => ?_) (fun _ => ?_)
    | (intro _; simp only [updFirst_length, updAll_length, updAt_length, List.length_map, List.length_replicate, List.length_range, and_self])
    | with_reducible exact ⟨rfl, rfl, rfl⟩
    | with_reducible exact ⟨rfl, rfl⟩
    | with_reducible rfl
    | with_reducible exact Nat.le_refl _
    | intro _
    | split

theorem Follows.fanHeld {b0 : State} {s : State} {f : Fan} (hb0 : Follows b0 s) : Follows b0 (State.fanHeld s f) := by
  unfold State.fanHeld
  try dsimp only
  repeat' first
    | with_reducible assumption
    | with_reducible apply Follows.cmdMap
    | with_reducible refine Follows.ite (fun _ => ?_) (fun _ => ?_)
    | intro _
    | split

theorem Follows.forgetFans {b0 : State} {s : State} {lost : List Nat} (hb0 : Follows b0 s) : Follows b0 (State.forgetFans s lost) := by
  unfold State.forgetFans
  try dsimp only
  repeat' first
    | with_reducible assumption
    | with_reducible apply Follows.fanHeld
    | with_reducible refine Follows.weaveMap ?_ (fun _ => rfl)
    | with_reducible apply Follows.weaveMap
    | with_reducible apply Follows.each
    | with_reducible refine Follows.ite (fun _ => ?_) (fun _ => ?_)
    | (intro _; simp only [updFirst_length, updAll_length, updAt_length, List.length_map, List.length_replicate, List.length_range, and_self])
    | with_reducible exact ⟨rfl, rfl, rfl⟩
    | with_reducible exact ⟨rfl, rfl⟩
    | with_reducible rfl
    | with_reducible exact Nat.le_refl _
    | intro _

theorem Follows.onForwardAck {b0 : State} {s : State} {m : Bytes} (hb0 : Follows b0 s) : Follows b0 (State.onForwardAck s m) := by
  unfold State.onForwardAck
  try dsimp only
  repeat' first
    | with_reducible assumption
    | with_reducible apply Follows.fanHeld
    | with_reducible refine Follows.weaveMap ?_ (fun _ => rfl)
    | with_reducible apply Follows.weaveMap
    | with_reducible refine Follows.ite (fun _ => ?_) (fun _ => ?_)
    | (intro _; simp only [updFirst_length, updAll_length, updAt_length, List.length_map, List.length_replicate, List.length_range, and_self])
    | with_reducible exact ⟨rfl, rfl, rfl⟩
    | with_reducible exact ⟨rfl, rfl⟩
    | with_reducible rfl
    | with_reducible exact Nat.le_refl _
    | intro _
    | split

theorem Follows.capacitySend {b0 : State} {s : State} (hb0 : Follows b0 s) : Follows b0 (State.capacitySend s) := by
  unfold State.capacitySend
  try dsimp only
  repeat' first
    | with_reducible assumption
    | with_reducible apply Follows.advance
    | with_reducible apply Follows.send
    | with_reducible refine Follows.ite (fun _ => ?_) (fun _ => ?_)
    | split

theorem Follows.planShown {b0 : State} {s : State} {p : Plan} (hb0 : Follows b0 s) : Follows b0 (State.planShown s p) := by
  unfold State.planShown
  try dsimp only
  repeat' first
    | with_reducible assumption
    | with_reducible apply Follows.wakeEngines
    | with_reducible apply Follows.loadQueries
    | with_reducible apply Follows.bumpSet
    | with_reducible refine Follows.ite (fun _ => ?_) (fun _ => ?_)

theorem Follows.ensureMerge {b0 : State} {s : State} {ref : Nat} (hb0 : Follows b0 s) : Follows b0 (State.ensureMerge s ref) := by
  unfold State.ensureMerge
  try dsimp only
  repeat' first
    | with_reducible assumption
    | with_reducible refine Follows.weaveMap ?_ (fun _ => rfl)
    | with_reducible apply Follows.weaveMap
    | with_reducible refine Follows.ite (fun _ => ?_) (fun _ => ?_)
    | (intro _; simp only [updFirst_length, updAll_length, updAt_length, List.length_map, List.length_replicate, List.length_range, and_self])
    | with_reducible exact ⟨rfl, rfl, rfl⟩
    | with_reducible exact ⟨rfl, rfl⟩
    | with_reducible rfl
    | with_reducible exact Nat.le_refl _
    | intro _
    | split

theorem Follows.beginParts {b0 : State} {s : State} {refs : List Nat} {plan : Plan} (hb0 : Follows b0 s) : Follows b0 (State.beginParts s refs plan) := by
  unfold State.beginParts
  try dsimp only
  repeat' first
    | with_reducible assumption
    | with_reducible refine Follows.clkMap ?_ (fun _ => Nat.le_refl _)
    | with_reducible apply Follows.clkMap
    | with_reducible refine Follows.sweepMap ?_ (fun _ => ⟨rfl, rfl, rfl⟩)
    | with_reducible apply Follows.sweepMap
    | with_reducible refine Follows.hostMap ?_ (fun _ => ⟨rfl, rfl⟩)
    | with_reducible apply Follows.hostMap
    | with_reducible refine Follows.weaveMap ?_ (fun _ => rfl)
    | with_reducible apply Follows.weaveMap
    | with_reducible apply Follows.each
    | with_reducible refine Follows.ite (fun _ => ?_) (fun _ => ?_)
    | (intro _; simp only [updFirst_length, updAll_length, updAt_length, List.length_map, List.length_replicate, List.length_range, and_self])
    | with_reducible exact ⟨rfl, rfl, rfl⟩
    | with_reducible exact ⟨rfl, rfl⟩
    | with_reducible rfl
    | with_reducible exact Nat.le_refl _
    | intro _

theorem Follows.sendPlans {b0 : State} {s : State} {cs : List Cmd} (hb0 : Follows b0 s) : Follows b0 (State.sendPlans s cs) := by
  unfold State.sendPlans
  try dsimp only
  repeat' first
    | with_reducible assumption
    | with_reducible apply Follows.send
    | with_reducible apply Follows.each
    | with_reducible refine Follows.ite (fun _ => ?_) (fun _ => ?_)
    | intro _
    | split

theorem Follows.onPlan {b0 : State} {s : State} {m : Bytes} (hb0 : Follows b0 s) : Follows b0 (State.onPlan s m) := by
  unfold State.onPlan
  try dsimp only
  repeat' first
    | with_reducible assumption
    | with_reducible apply Follows.beginParts
    | with_reducible apply Follows.planShown
    | with_reducible refine Follows.weaveMap ?_ (fun _ => rfl)
    | with_reducible apply Follows.weaveMap
    | with_reducible refine Follows.ite (fun _ => ?_) (fun _ => ?_)
    | (intro _; simp only [updFirst_length, updAll_length, updAt_length, List.length_map, List.length_replicate, List.length_range, and_self])
    | with_reducible exact ⟨rfl, rfl, rfl⟩
    | with_reducible exact ⟨rfl, rfl⟩
    | with_reducible rfl
    | with_reducible exact Nat.le_refl _
    | intro _
    | split

theorem Follows.keepByKey {b0 : State} {s : State} {o : Order} {key : WVal × Nat} {cid : Nat} (hb0 : Follows b0 s) : Follows b0 (State.keepByKey s o key cid) := by
  unfold State.keepByKey
  try dsimp only
  repeat' first
    | with_reducible assumption
    | with_reducible apply Follows.runMap
    | with_reducible refine Follows.ite (fun _ => ?_) (fun _ => ?_)
    | intro _
    | split

theorem Follows.setKey {b0 : State} {s : State} {m : Merge} {h : Shelf} {key : WVal × Nat} (hb0 : Follows b0 s) : Follows b0 (State.setKey s m h key) := by
  unfold State.setKey
  try dsimp only
  repeat' first
    | with_reducible assumption
    | with_reducible apply Follows.send
    | with_reducible apply Follows.mergeMap
    | with_reducible apply Follows.keepByKey
    | with_reducible apply Follows.bumpSet
    | with_reducible apply Follows.when
    | with_reducible apply Follows.each
    | with_reducible refine Follows.ite (fun _ => ?_) (fun _ => ?_)
    | intro _

theorem Follows.valuesIn {b0 : State} {s : State} {m : Merge} {h : Shelf} (hb0 : Follows b0 s) : Follows b0 (State.valuesIn s m h) := by
  unfold State.valuesIn
  try dsimp only
  repeat' first
    | with_reducible assumption
    | with_reducible apply Follows.mergeMap
    | with_reducible apply Follows.send
    | with_reducible apply Follows.setKey
    | with_reducible refine Follows.weaveMap ?_ (fun _ => rfl)
    | with_reducible apply Follows.weaveMap
    | with_reducible apply Follows.when
    | with_reducible refine Follows.ite (fun _ => ?_) (fun _ => ?_)
    | (intro _; simp only [updFirst_length, updAll_length, updAt_length, List.length_map, List.length_replicate, List.length_range, and_self])
    | with_reducible exact ⟨rfl, rfl, rfl⟩
    | with_reducible exact ⟨rfl, rfl⟩
    | with_reducible rfl
    | with_reducible exact Nat.le_refl _
    | intro _
    | split

theorem Follows.tiesIn {b0 : State} {s : State} {m : Merge} {h : Shelf} (hb0 : Follows b0 s) : Follows b0 (State.tiesIn s m h) := by
  unfold State.tiesIn
  try dsimp only
  repeat' first
    | with_reducible assumption
    | with_reducible apply Follows.mergeMap
    | with_reducible apply Follows.setKey
    | with_reducible apply Follows.send
    | with_reducible refine Follows.ite (fun _ => ?_) (fun _ => ?_)
    | intro _
    | split

theorem Follows.weavePost {b0 : State} {s : State} {m : Merge} {h : Shelf} {heard : List Nat} (hb0 : Follows b0 s) : Follows b0 (State.weavePost s m h heard) := by
  unfold State.weavePost
  try dsimp only
  repeat' first
    | with_reducible assumption
    | with_reducible apply Follows.postResult
    | with_reducible refine Follows.sweepMap ?_ (fun _ => ⟨rfl, rfl, rfl⟩)
    | with_reducible apply Follows.sweepMap
    | with_reducible refine Follows.weaveMap ?_ (fun _ => rfl)
    | with_reducible apply Follows.weaveMap
    | with_reducible refine Follows.ite (fun _ => ?_) (fun _ => ?_)
    | (intro _; simp only [updFirst_length, updAll_length, updAt_length, List.length_map, List.length_replicate, List.length_range, and_self])
    | with_reducible exact ⟨rfl, rfl, rfl⟩
    | with_reducible exact ⟨rfl, rfl⟩
    | with_reducible rfl
    | with_reducible exact Nat.le_refl _
    | intro _
    | split

theorem Follows.plaitOut {b0 : State} {s : State} {m : Merge} {h : Shelf} (hb0 : Follows b0 s) : Follows b0 (State.plaitOut s m h) := by
  unfold State.plaitOut
  try dsimp only
  repeat' first
    | with_reducible assumption
    | with_reducible apply Follows.mergeMap
    | with_reducible apply Follows.weavePost
    | with_reducible apply Follows.send
    | with_reducible apply Follows.bumpSet
    | with_reducible refine Follows.hostMap ?_ (fun _ => ⟨rfl, rfl⟩)
    | with_reducible apply Follows.hostMap
    | with_reducible refine Follows.weaveMap ?_ (fun _ => rfl)
    | with_reducible apply Follows.weaveMap
    | with_reducible refine Follows.ite (fun _ => ?_) (fun _ => ?_)
    | (intro _; simp only [updFirst_length, updAll_length, updAt_length, List.length_map, List.length_replicate, List.length_range, and_self])
    | with_reducible exact ⟨rfl, rfl, rfl⟩
    | with_reducible exact ⟨rfl, rfl⟩
    | with_reducible rfl
    | with_reducible exact Nat.le_refl _
    | intro _
    | split

theorem Follows.ownLate {b0 : State} {s : State} {m : Merge} (hb0 : Follows b0 s) : Follows b0 (State.ownLate s m) := by
  unfold State.ownLate
  try dsimp only
  repeat' first
    | with_reducible assumption
    | with_reducible apply Follows.markOverrun
    | with_reducible apply Follows.each
    | with_reducible refine Follows.ite (fun _ => ?_) (fun _ => ?_)
    | intro _
    | split

theorem Follows.mergeStep {b0 : State} {s : State} {ref : Nat} (hb0 : Follows b0 s) : Follows b0 (State.mergeStep s ref) := by
  unfold State.mergeStep
  try dsimp only
  repeat' first
    | with_reducible assumption
    | with_reducible apply Follows.mergeMap
    | with_reducible apply Follows.ownLate
    | with_reducible apply Follows.plaitOut
    | with_reducible apply Follows.valuesIn
    | with_reducible apply Follows.tiesIn
    | with_reducible apply Follows.tickFree
    | with_reducible refine Follows.ite (fun _ => ?_) (fun _ => ?_)
    | intro _
    | split

theorem Follows.weaveRun {b0 : State} {s : State} (hb0 : Follows b0 s) : Follows b0 (State.weaveRun s) := by
  unfold State.weaveRun
  try dsimp only
  repeat' first
    | with_reducible assumption
    | with_reducible apply Follows.mergeStep
    | with_reducible apply Follows.each
    | with_reducible apply Follows.foldl
    | with_reducible refine Follows.ite (fun _ => ?_) (fun _ => ?_)
    | intro _
    | split

theorem Follows.dropKeyless {b0 : State} {s : State} (hb0 : Follows b0 s) : Follows b0 (State.dropKeyless s) := by
  unfold State.dropKeyless
  try dsimp only
  repeat' first
    | with_reducible assumption
    | with_reducible apply Follows.runMap
    | with_reducible apply Follows.each
    | with_reducible refine Follows.ite (fun _ => ?_) (fun _ => ?_)
    | intro _

theorem Follows.weaveBarrier {b0 : State} {s : State} (hb0 : Follows b0 s) : Follows b0 (State.weaveBarrier s) := by
  unfold State.weaveBarrier
  try dsimp only
  repeat' first
    | with_reducible assumption
    | with_reducible apply Follows.barrier
    | with_reducible apply Follows.dropKeyless
    | with_reducible apply Follows.weaveRun
    | with_reducible refine Follows.ite (fun _ => ?_) (fun _ => ?_)
    | split

theorem Follows.weaveProtect {b0 : State} {s : State} (hb0 : Follows b0 s) : Follows b0 (State.weaveProtect s) := by
  unfold State.weaveProtect
  try dsimp only
  repeat' first
    | with_reducible assumption
    | with_reducible apply Follows.weaveRun
    | with_reducible apply Follows.ev
    | with_reducible refine Follows.weaveMap ?_ (fun _ => rfl)
    | with_reducible apply Follows.weaveMap
    | with_reducible apply Follows.when
    | with_reducible refine Follows.ite (fun _ => ?_) (fun _ => ?_)
    | (intro _; simp only [updFirst_length, updAll_length, updAt_length, List.length_map, List.length_replicate, List.length_range, and_self])
    | with_reducible exact ⟨rfl, rfl, rfl⟩
    | with_reducible exact ⟨rfl, rfl⟩
    | with_reducible rfl
    | with_reducible exact Nat.le_refl _
    | intro _
    | split

theorem Follows.plaitExpire {b0 : State} {s : State} {t : Nat} (hb0 : Follows b0 s) : Follows b0 (State.plaitExpire s t) := by
  unfold State.plaitExpire
  try dsimp only
  repeat' first
    | with_reducible assumption
    | with_reducible apply Follows.advance
    | with_reducible apply Follows.weaveRun
    | with_reducible apply Follows.ev
    | with_reducible refine Follows.weaveMap ?_ (fun _ => rfl)
    | with_reducible apply Follows.weaveMap
    | with_reducible apply Follows.when
    | with_reducible refine Follows.ite (fun _ => ?_) (fun _ => ?_)
    | (intro _; simp only [updFirst_length, updAll_length, updAt_length, List.length_map, List.length_replicate, List.length_range, and_self])
    | with_reducible exact ⟨rfl, rfl, rfl⟩
    | with_reducible exact ⟨rfl, rfl⟩
    | with_reducible rfl
    | with_reducible exact Nat.le_refl _
    | intro _
    | split

theorem Follows.onValues {b0 : State} {s : State} {m : Bytes} (hb0 : Follows b0 s) : Follows b0 (State.onValues s m) := by
  unfold State.onValues
  try dsimp only
  repeat' first
    | with_reducible assumption
    | with_reducible apply Follows.ensureMerge
    | with_reducible apply Follows.mergeMap
    | with_reducible apply Follows.weaveRun
    | with_reducible refine Follows.ite (fun _ => ?_) (fun _ => ?_)
    | intro _
    | split

theorem Follows.onTieRequest {b0 : State} {s : State} {m : Bytes} (hb0 : Follows b0 s) : Follows b0 (State.onTieRequest s m) := by
  unfold State.onTieRequest
  try dsimp only
  repeat' first
    | with_reducible assumption
    | with_reducible apply Follows.ensureMerge
    | with_reducible apply Follows.mergeMap
    | with_reducible apply Follows.weaveRun
    | with_reducible refine Follows.ite (fun _ => ?_) (fun _ => ?_)
    | intro _
    | split

theorem Follows.onTieList {b0 : State} {s : State} {m : Bytes} (hb0 : Follows b0 s) : Follows b0 (State.onTieList s m) := by
  unfold State.onTieList
  try dsimp only
  repeat' first
    | with_reducible assumption
    | with_reducible apply Follows.mergeMap
    | with_reducible apply Follows.weaveRun
    | with_reducible refine Follows.ite (fun _ => ?_) (fun _ => ?_)
    | intro _

theorem Follows.onKey {b0 : State} {s : State} {m : Bytes} (hb0 : Follows b0 s) : Follows b0 (State.onKey s m) := by
  unfold State.onKey
  try dsimp only
  repeat' first
    | with_reducible assumption
    | with_reducible apply Follows.setKey
    | with_reducible apply Follows.weaveRun
    | with_reducible refine Follows.ite (fun _ => ?_) (fun _ => ?_)
    | intro _
    | split

theorem Follows.onFinal {b0 : State} {s : State} {m : Bytes} (hb0 : Follows b0 s) : Follows b0 (State.onFinal s m) := by
  unfold State.onFinal
  try dsimp only
  repeat' first
    | with_reducible assumption
    | with_reducible apply Follows.ensureMerge
    | with_reducible apply Follows.mergeMap
    | with_reducible apply Follows.weaveRun
    | with_reducible refine Follows.ite (fun _ => ?_) (fun _ => ?_)
    | intro _

theorem Follows.onStats {b0 : State} {s : State} {m : Bytes} (hb0 : Follows b0 s) : Follows b0 (State.onStats s m) := by
  unfold State.onStats
  try dsimp only
  repeat' first
    | with_reducible assumption
    | with_reducible apply Follows.ensureMerge
    | with_reducible apply Follows.mergeMap
    | with_reducible apply Follows.weaveRun
    | with_reducible refine Follows.ite (fun _ => ?_) (fun _ => ?_)
    | intro _
    | split

end Sys2Proof.Machine
end

