-- ==== Sys2Proof/Laws/FollowsWeaveAdmin.lean ====
section
/-!
SUPPORT. The operations of Machine/WeaveAdmin.lean keep what `Follows` says.
-/
namespace Sys2Proof.Machine

theorem Follows.outHolder {b0 : State} {s : State} {a : Nat} (hb0 : Follows b0 s) : Follows b0 (State.outHolder s a) := by
  unfold State.outHolder
  try dsimp only
  repeat' first
    | with_reducible assumption
    | with_reducible refine Follows.weaveMap ?_ (fun _ => rfl)
    | with_reducible apply Follows.weaveMap
    | with_reducible refine Follows.ite (fun _ => ?_) (fun _ => ?_)
    | (intro _; simp only [updFirst_length, updAll_length, updAt_length, List.length_map, List.length_replicate, List.length_range, and_self])
    | with_reducible exact ⟨rfl, rfl, rfl⟩
    | with_reducible exact ⟨rfl, rfl⟩
    | with_reducible rfl
    | with_reducible exact Nat.le_refl _
    | intro _

theorem Follows.takeMap {b0 : State} {s : State} {map : List MapEnt} (hb0 : Follows b0 s) : Follows b0 (State.takeMap s map) := by
  unfold State.takeMap
  try dsimp only
  repeat' first
    | with_reducible assumption
    | with_reducible apply Follows.outHolder
    | with_reducible apply Follows.endOwnership
    | with_reducible apply Follows.labelStrand
    | with_reducible apply Follows.wr
    | with_reducible refine Follows.weaveMap ?_ (fun _ => rfl)
    | with_reducible apply Follows.weaveMap
    | with_reducible apply Follows.when
    | with_reducible apply Follows.each
    | with_reducible refine Follows.ite (fun _ => ?_) (fun _ => ?_)
    | (intro _; simp only [updFirst_length, updAll_length, updAt_length, List.length_map, List.length_replicate, List.length_range, and_self])
    | with_reducible exact ⟨rfl, rfl, rfl⟩
    | with_reducible exact ⟨rfl, rfl⟩
    | with_reducible rfl
    | with_reducible exact Nat.le_refl _
    | intro _
    | split

theorem Follows.administer {b0 : State} {s : State} {c : Cmd} {kind : WKind} {map : List MapEnt} {body : Bytes} {dest : List Nat} {waits : List Nat} (hb0 : Follows b0 s) : Follows b0 (State.administer s c kind map body dest waits) := by
  unfold State.administer
  try dsimp only
  repeat' first
    | with_reducible assumption
    | with_reducible apply Follows.newOp
    | with_reducible apply Follows.routeIn
    | with_reducible refine Follows.weaveMap ?_ (fun _ => rfl)
    | with_reducible apply Follows.weaveMap
    | with_reducible apply Follows.each
    | with_reducible refine Follows.ite (fun _ => ?_) (fun _ => ?_)
    | with_reducible refine Follows.ofFst ?_ (by with_reducible assumption)
    | (intro _; simp only [updFirst_length, updAll_length, updAt_length, List.length_map, List.length_replicate, List.length_range, and_self])
    | with_reducible exact ⟨rfl, rfl, rfl⟩
    | with_reducible exact ⟨rfl, rfl⟩
    | with_reducible rfl
    | with_reducible exact Nat.le_refl _
    | intro _

theorem Follows.endAdmin {b0 : State} {s : State} {o : WOp} (hb0 : Follows b0 s) : Follows b0 (State.endAdmin s o) := by
  unfold State.endAdmin
  try dsimp only
  repeat' first
    | with_reducible assumption
    | with_reducible apply Follows.endOp
    | with_reducible apply Follows.complete
    | with_reducible refine Follows.ite (fun _ => ?_) (fun _ => ?_)
    | intro _
    | split

theorem Follows.adminDone {b0 : State} {s : State} (hb0 : Follows b0 s) : Follows b0 (State.adminDone s) := by
  unfold State.adminDone
  try dsimp only
  repeat' first
    | with_reducible assumption
    | with_reducible apply Follows.endAdmin
    | with_reducible apply Follows.each
    | with_reducible refine Follows.ite (fun _ => ?_) (fun _ => ?_)
    | intro _

theorem Follows.adminWait {b0 : State} {s : State} {c : Cmd} (hb0 : Follows b0 s) : Follows b0 (State.adminWait s c) := by
  unfold State.adminWait
  try dsimp only
  repeat' first
    | with_reducible assumption
    | with_reducible apply Follows.cmdMap
    | with_reducible apply Follows.adminDone
    | with_reducible refine Follows.ite (fun _ => ?_) (fun _ => ?_)
    | intro _

theorem Follows.weaveForm {b0 : State} {s : State} {c : Cmd} (hb0 : Follows b0 s) : Follows b0 (State.weaveForm s c) := by
  unfold State.weaveForm
  try dsimp only
  repeat' first
    | with_reducible assumption
    | with_reducible apply Follows.refuse
    | with_reducible apply Follows.administer
    | with_reducible apply Follows.adminWait
    | with_reducible refine Follows.weaveMap ?_ (fun _ => rfl)
    | with_reducible apply Follows.weaveMap
    | with_reducible refine Follows.ite (fun _ => ?_) (fun _ => ?_)
    | (intro _; simp only [updFirst_length, updAll_length, updAt_length, List.length_map, List.length_replicate, List.length_range, and_self])
    | with_reducible exact ⟨rfl, rfl, rfl⟩
    | with_reducible exact ⟨rfl, rfl⟩
    | with_reducible rfl
    | with_reducible exact Nat.le_refl _
    | intro _
    | split

theorem Follows.weaveAdmit {b0 : State} {s : State} {c : Cmd} (hb0 : Follows b0 s) : Follows b0 (State.weaveAdmit s c) := by
  unfold State.weaveAdmit
  try dsimp only
  repeat' first
    | with_reducible assumption
    | with_reducible apply Follows.refuse
    | with_reducible apply Follows.administer
    | with_reducible apply Follows.adminWait
    | with_reducible refine Follows.weaveMap ?_ (fun _ => rfl)
    | with_reducible apply Follows.weaveMap
    | with_reducible refine Follows.ite (fun _ => ?_) (fun _ => ?_)
    | (intro _; simp only [updFirst_length, updAll_length, updAt_length, List.length_map, List.length_replicate, List.length_range, and_self])
    | with_reducible exact ⟨rfl, rfl, rfl⟩
    | with_reducible exact ⟨rfl, rfl⟩
    | with_reducible rfl
    | with_reducible exact Nat.le_refl _
    | intro _
    | split

theorem Follows.weaveExclude {b0 : State} {s : State} {c : Cmd} (hb0 : Follows b0 s) : Follows b0 (State.weaveExclude s c) := by
  unfold State.weaveExclude
  try dsimp only
  repeat' first
    | with_reducible assumption
    | with_reducible apply Follows.refuse
    | with_reducible apply Follows.forget
    | with_reducible apply Follows.forgetFans
    | with_reducible apply Follows.administer
    | with_reducible apply Follows.adminWait
    | with_reducible refine Follows.weaveMap ?_ (fun _ => rfl)
    | with_reducible apply Follows.weaveMap
    | with_reducible refine Follows.ite (fun _ => ?_) (fun _ => ?_)
    | (intro _; simp only [updFirst_length, updAll_length, updAt_length, List.length_map, List.length_replicate, List.length_range, and_self])
    | with_reducible exact ⟨rfl, rfl, rfl⟩
    | with_reducible exact ⟨rfl, rfl⟩
    | with_reducible rfl
    | with_reducible exact Nat.le_refl _
    | intro _
    | split

theorem Follows.weaveRebuild {b0 : State} {s : State} {c : Cmd} (hb0 : Follows b0 s) : Follows b0 (State.weaveRebuild s c) := by
  unfold State.weaveRebuild
  try dsimp only
  repeat' first
    | with_reducible assumption
    | with_reducible apply Follows.refuse
    | with_reducible apply Follows.outHolder
    | with_reducible apply Follows.administer
    | with_reducible apply Follows.adminWait
    | with_reducible refine Follows.ite (fun _ => ?_) (fun _ => ?_)
    | intro _
    | split

theorem Follows.weaveRemote {b0 : State} {s : State} {c : Cmd} (hb0 : Follows b0 s) : Follows b0 (State.weaveRemote s c) := by
  unfold State.weaveRemote
  try dsimp only
  repeat' first
    | with_reducible assumption
    | with_reducible apply Follows.refuse
    | with_reducible apply Follows.newOp
    | with_reducible apply Follows.cmdMap
    | with_reducible apply Follows.send
    | with_reducible refine Follows.weaveMap ?_ (fun _ => rfl)
    | with_reducible apply Follows.weaveMap
    | with_reducible refine Follows.ite (fun _ => ?_) (fun _ => ?_)
    | with_reducible refine Follows.ofFst ?_ (by with_reducible assumption)
    | (intro _; simp only [updFirst_length, updAll_length, updAt_length, List.length_map, List.length_replicate, List.length_range, and_self])
    | with_reducible exact ⟨rfl, rfl, rfl⟩
    | with_reducible exact ⟨rfl, rfl⟩
    | with_reducible rfl
    | with_reducible exact Nat.le_refl _
    | intro _
    | split

theorem Follows.weavePromote {b0 : State} {s : State} {c : Cmd} (hb0 : Follows b0 s) : Follows b0 (State.weavePromote s c) := by
  unfold State.weavePromote
  try dsimp only
  repeat' first
    | with_reducible assumption
    | with_reducible apply Follows.refuse
    | with_reducible apply Follows.administer
    | with_reducible apply Follows.adminWait
    | with_reducible refine Follows.weaveMap ?_ (fun _ => rfl)
    | with_reducible apply Follows.weaveMap
    | with_reducible refine Follows.ite (fun _ => ?_) (fun _ => ?_)
    | (intro _; simp only [updFirst_length, updAll_length, updAt_length, List.length_map, List.length_replicate, List.length_range, and_self])
    | with_reducible exact ⟨rfl, rfl, rfl⟩
    | with_reducible exact ⟨rfl, rfl⟩
    | with_reducible rfl
    | with_reducible exact Nat.le_refl _
    | intro _
    | split

theorem Follows.weaveStatus {b0 : State} {s : State} {c : Cmd} (hb0 : Follows b0 s) : Follows b0 (State.weaveStatus s c) := by
  unfold State.weaveStatus
  try dsimp only
  repeat' first
    | with_reducible assumption
    | with_reducible apply Follows.refuse
    | with_reducible apply Follows.reply
    | with_reducible apply Follows.completeOk
    | with_reducible apply Follows.tickFrees
    | with_reducible refine Follows.ite (fun _ => ?_) (fun _ => ?_)
    | intro _
    | split

theorem Follows.appendRow {b0 : State} {s : State} {idx : Nat} {r : Row} (hb0 : Follows b0 s) : Follows b0 (State.appendRow s idx r) := by
  unfold State.appendRow
  try dsimp only
  repeat' first
    | with_reducible assumption
    | with_reducible apply Follows.shelfMap
    | with_reducible apply Follows.dirAdd
    | with_reducible apply Follows.writeFar
    | with_reducible refine Follows.ite (fun _ => ?_) (fun _ => ?_)
    | intro _
    | split

theorem Follows.wipe {b0 : State} {s : State} {gone : List Nat} (hb0 : Follows b0 s) : Follows b0 (State.wipe s gone) := by
  unfold State.wipe
  try dsimp only
  repeat' first
    | with_reducible assumption
    | with_reducible apply Follows.undoSlab
    | with_reducible apply Follows.rehashDir
    | with_reducible apply Follows.storeMap
    | with_reducible apply Follows.each
    | with_reducible refine Follows.ite (fun _ => ?_) (fun _ => ?_)
    | intro _

theorem Follows.startRebuild {b0 : State} {s : State} {op : Nat} {handle : Nat} {target : Nat} {missing : Bool} (hb0 : Follows b0 s) : Follows b0 (State.startRebuild s op handle target missing) := by
  unfold State.startRebuild
  try dsimp only
  repeat' first
    | with_reducible assumption
    | with_reducible apply Follows.placeOr
    | with_reducible apply Follows.outHolder
    | with_reducible apply Follows.endLost
    | with_reducible apply Follows.wipe
    | with_reducible refine Follows.placeShelf (by with_reducible assumption) ?_
    | with_reducible refine Follows.weaveMap ?_ (fun _ => rfl)
    | with_reducible apply Follows.weaveMap
    | with_reducible apply Follows.storeMap
    | with_reducible apply Follows.foldl
    | with_reducible refine Follows.ite (fun _ => ?_) (fun _ => ?_)
    | (intro _; simp only [updFirst_length, updAll_length, updAt_length, List.length_map, List.length_replicate, List.length_range, and_self])
    | with_reducible exact ⟨rfl, rfl, rfl⟩
    | with_reducible exact ⟨rfl, rfl⟩
    | with_reducible rfl
    | with_reducible exact Nat.le_refl _
    | intro _
    | split

theorem Follows.feedOne {b0 : State} {s : State} {n : Nat} (hb0 : Follows b0 s) : Follows b0 (State.feedOne s n).1 := by
  unfold State.feedOne
  try dsimp only
  repeat' first
    | with_reducible assumption
    | with_reducible apply Follows.send
    | with_reducible refine Follows.weaveMap ?_ (fun _ => rfl)
    | with_reducible apply Follows.weaveMap
    | with_reducible apply Follows.when
    | with_reducible refine Follows.ite (fun _ => ?_) (fun _ => ?_)
    | (intro _; simp only [updFirst_length, updAll_length, updAt_length, List.length_map, List.length_replicate, List.length_range, and_self])
    | with_reducible exact ⟨rfl, rfl, rfl⟩
    | with_reducible exact ⟨rfl, rfl⟩
    | with_reducible rfl
    | with_reducible exact Nat.le_refl _
    | intro _
    | split

theorem Follows.feedAll {α : Type} {b0 : State} (l : List α) (p : State × Nat) (hb0 : Follows b0 p.1) :
    Follows b0 (l.foldl (fun (p : State × Nat) _ => if p.2 = 0 then p else p.1.feedOne p.2) p).1 := by
  induction l generalizing p with
  | nil => exact hb0
  | cons x l ih =>
    simp only [List.foldl_cons]
    apply ih
    split
    · exact hb0
    · exact Follows.feedOne hb0

theorem Follows.feed {b0 : State} {s : State} (hb0 : Follows b0 s) : Follows b0 (State.feed s) := by
  unfold State.feed
  dsimp only
  split
  · exact Follows.feedAll _ _ hb0
  · exact hb0

theorem Follows.onRebuildData {b0 : State} {s : State} {m : Bytes} (hb0 : Follows b0 s) : Follows b0 (State.onRebuildData s m) := by
  unfold State.onRebuildData
  try dsimp only
  repeat' first
    | with_reducible assumption
    | with_reducible apply Follows.appendRow
    | with_reducible apply Follows.each
    | with_reducible refine Follows.ite (fun _ => ?_) (fun _ => ?_)
    | intro _
    | split

theorem Follows.endRebuild {b0 : State} {s : State} {r : Rebuild} (hb0 : Follows b0 s) : Follows b0 (State.endRebuild s r) := by
  unfold State.endRebuild
  try dsimp only
  repeat' first
    | with_reducible assumption
    | with_reducible apply Follows.applyTent
    | with_reducible apply Follows.answer
    | with_reducible refine Follows.weaveMap ?_ (fun _ => rfl)
    | with_reducible apply Follows.weaveMap
    | with_reducible apply Follows.each
    | with_reducible refine Follows.ite (fun _ => ?_) (fun _ => ?_)
    | (intro _; simp only [updFirst_length, updAll_length, updAt_length, List.length_map, List.length_replicate, List.length_range, and_self])
    | with_reducible exact ⟨rfl, rfl, rfl⟩
    | with_reducible exact ⟨rfl, rfl⟩
    | with_reducible rfl
    | with_reducible exact Nat.le_refl _
    | intro _
    | split

theorem Follows.onRebuildEnd {b0 : State} {s : State} {m : Bytes} (hb0 : Follows b0 s) : Follows b0 (State.onRebuildEnd s m) := by
  unfold State.onRebuildEnd
  try dsimp only
  repeat' first
    | with_reducible assumption
    | with_reducible apply Follows.endRebuild
    | with_reducible refine Follows.weaveMap ?_ (fun _ => rfl)
    | with_reducible apply Follows.weaveMap
    | with_reducible refine Follows.ite (fun _ => ?_) (fun _ => ?_)
    | (intro _; simp only [updFirst_length, updAll_length, updAt_length, List.length_map, List.length_replicate, List.length_range, and_self])
    | with_reducible exact ⟨rfl, rfl, rfl⟩
    | with_reducible exact ⟨rfl, rfl⟩
    | with_reducible rfl
    | with_reducible exact Nat.le_refl _
    | intro _
    | split

theorem Follows.becomeHead {b0 : State} {s : State} {old : Nat} {planned : Bool} (hb0 : Follows b0 s) : Follows b0 (State.becomeHead s old planned) := by
  unfold State.becomeHead
  try dsimp only
  repeat' first
    | with_reducible assumption
    | with_reducible apply Follows.sendSide
    | with_reducible apply Follows.takeMap
    | with_reducible apply Follows.administer
    | with_reducible apply Follows.wr
    | with_reducible apply Follows.ev
    | with_reducible refine Follows.hostMap ?_ (fun _ => ⟨rfl, rfl⟩)
    | with_reducible apply Follows.hostMap
    | with_reducible refine Follows.weaveMap ?_ (fun _ => rfl)
    | with_reducible apply Follows.weaveMap
    | with_reducible apply Follows.each
    | with_reducible refine Follows.ite (fun _ => ?_) (fun _ => ?_)
    | (intro _; simp only [updFirst_length, updAll_length, updAt_length, List.length_map, List.length_replicate, List.length_range, and_self])
    | with_reducible exact ⟨rfl, rfl, rfl⟩
    | with_reducible exact ⟨rfl, rfl⟩
    | with_reducible rfl
    | with_reducible exact Nat.le_refl _
    | intro _
    | split

theorem Follows.tryPromote {b0 : State} {s : State} (hb0 : Follows b0 s) : Follows b0 (State.tryPromote s) := by
  unfold State.tryPromote
  try dsimp only
  repeat' first
    | with_reducible assumption
    | with_reducible apply Follows.becomeHead
    | with_reducible refine Follows.ite (fun _ => ?_) (fun _ => ?_)
    | split

theorem Follows.reportLoss {b0 : State} {s : State} (hb0 : Follows b0 s) : Follows b0 (State.reportLoss s) := by
  unfold State.reportLoss
  try dsimp only
  repeat' first
    | with_reducible assumption
    | with_reducible apply Follows.tryPromote
    | with_reducible apply Follows.sendSide
    | with_reducible refine Follows.weaveMap ?_ (fun _ => rfl)
    | with_reducible apply Follows.weaveMap
    | with_reducible refine Follows.ite (fun _ => ?_) (fun _ => ?_)
    | (intro _; simp only [updFirst_length, updAll_length, updAt_length, List.length_map, List.length_replicate, List.length_range, and_self])
    | with_reducible exact ⟨rfl, rfl, rfl⟩
    | with_reducible exact ⟨rfl, rfl⟩
    | with_reducible rfl
    | with_reducible exact Nat.le_refl _
    | intro _
    | split

theorem Follows.onLoss {b0 : State} {s : State} {m : Bytes} (hb0 : Follows b0 s) : Follows b0 (State.onLoss s m) := by
  unfold State.onLoss
  try dsimp only
  repeat' first
    | with_reducible assumption
    | with_reducible apply Follows.tryPromote
    | with_reducible refine Follows.weaveMap ?_ (fun _ => rfl)
    | with_reducible apply Follows.weaveMap
    | with_reducible refine Follows.ite (fun _ => ?_) (fun _ => ?_)
    | (intro _; simp only [updFirst_length, updAll_length, updAt_length, List.length_map, List.length_replicate, List.length_range, and_self])
    | with_reducible exact ⟨rfl, rfl, rfl⟩
    | with_reducible exact ⟨rfl, rfl⟩
    | with_reducible rfl
    | with_reducible exact Nat.le_refl _
    | intro _
    | split

theorem Follows.onAdopt {b0 : State} {s : State} {i : Nat} {m : Bytes} (hb0 : Follows b0 s) : Follows b0 (State.onAdopt s i m) := by
  unfold State.onAdopt
  try dsimp only
  repeat' first
    | with_reducible assumption
    | with_reducible apply Follows.takeMap
    | with_reducible apply Follows.wr
    | with_reducible refine Follows.weaveMap ?_ (fun _ => rfl)
    | with_reducible apply Follows.weaveMap
    | with_reducible refine Follows.ite (fun _ => ?_) (fun _ => ?_)
    | (intro _; simp only [updFirst_length, updAll_length, updAt_length, List.length_map, List.length_replicate, List.length_range, and_self])
    | with_reducible exact ⟨rfl, rfl, rfl⟩
    | with_reducible exact ⟨rfl, rfl⟩
    | with_reducible rfl
    | with_reducible exact Nat.le_refl _
    | intro _
    | split

theorem Follows.resolveTents {b0 : State} {s : State} {src : Nat} {b : Bytes} (hb0 : Follows b0 s) : Follows b0 (State.resolveTents s src b) := by
  unfold State.resolveTents
  try dsimp only
  repeat' first
    | with_reducible assumption
    | with_reducible refine Follows.weaveMap ?_ (fun _ => rfl)
    | with_reducible apply Follows.weaveMap
    | with_reducible refine Follows.ite (fun _ => ?_) (fun _ => ?_)
    | (intro _; simp only [updFirst_length, updAll_length, updAt_length, List.length_map, List.length_replicate, List.length_range, and_self])
    | with_reducible exact ⟨rfl, rfl, rfl⟩
    | with_reducible exact ⟨rfl, rfl⟩
    | with_reducible rfl
    | with_reducible exact Nat.le_refl _
    | intro _
    | split

theorem Follows.finishResolve {b0 : State} {s : State} (hb0 : Follows b0 s) : Follows b0 (State.finishResolve s) := by
  unfold State.finishResolve
  try dsimp only
  repeat' first
    | with_reducible assumption
    | with_reducible apply Follows.decideTent
    | with_reducible apply Follows.markCommitted
    | with_reducible apply Follows.send
    | with_reducible refine Follows.weaveMap ?_ (fun _ => rfl)
    | with_reducible apply Follows.weaveMap
    | with_reducible apply Follows.each
    | with_reducible refine Follows.ite (fun _ => ?_) (fun _ => ?_)
    | (intro _; simp only [updFirst_length, updAll_length, updAt_length, List.length_map, List.length_replicate, List.length_range, and_self])
    | with_reducible exact ⟨rfl, rfl, rfl⟩
    | with_reducible exact ⟨rfl, rfl⟩
    | with_reducible rfl
    | with_reducible exact Nat.le_refl _
    | intro _

theorem Follows.ackAdmin {b0 : State} {s : State} {m : Bytes} {body : Bytes} (hb0 : Follows b0 s) : Follows b0 (State.ackAdmin s m body) := by
  unfold State.ackAdmin
  try dsimp only
  repeat' first
    | with_reducible assumption
    | with_reducible apply Follows.answer
    | with_reducible apply Follows.queueMsg
    | with_reducible refine Follows.weaveMap ?_ (fun _ => rfl)
    | with_reducible apply Follows.weaveMap
    | with_reducible refine Follows.ite (fun _ => ?_) (fun _ => ?_)
    | (intro _; simp only [updFirst_length, updAll_length, updAt_length, List.length_map, List.length_replicate, List.length_range, and_self])
    | with_reducible exact ⟨rfl, rfl, rfl⟩
    | with_reducible exact ⟨rfl, rfl⟩
    | with_reducible rfl
    | with_reducible exact Nat.le_refl _
    | intro _
    | split

theorem Follows.onAdmin {b0 : State} {s : State} {m : Bytes} (hb0 : Follows b0 s) : Follows b0 (State.onAdmin s m) := by
  unfold State.onAdmin
  try dsimp only
  repeat' first
    | with_reducible assumption
    | with_reducible apply Follows.routeIn
    | with_reducible apply Follows.once
    | with_reducible apply Follows.ackAdmin
    | with_reducible apply Follows.startRebuild
    | with_reducible apply Follows.endRebuild
    | with_reducible refine Follows.weaveMap ?_ (fun _ => rfl)
    | with_reducible apply Follows.weaveMap
    | with_reducible refine Follows.ite (fun _ => ?_) (fun _ => ?_)
    | (intro _; simp only [updFirst_length, updAll_length, updAt_length, List.length_map, List.length_replicate, List.length_range, and_self])
    | with_reducible exact ⟨rfl, rfl, rfl⟩
    | with_reducible exact ⟨rfl, rfl⟩
    | with_reducible rfl
    | with_reducible exact Nat.le_refl _
    | intro _
    | split

theorem Follows.onAdminAck {b0 : State} {s : State} {m : Bytes} (hb0 : Follows b0 s) : Follows b0 (State.onAdminAck s m) := by
  unfold State.onAdminAck
  try dsimp only
  repeat' first
    | with_reducible assumption
    | with_reducible apply Follows.queueMsg
    | with_reducible apply Follows.wopMap
    | with_reducible apply Follows.resolveTents
    | with_reducible apply Follows.endOp
    | with_reducible apply Follows.finishResolve
    | with_reducible apply Follows.administer
    | with_reducible apply Follows.adminDone
    | with_reducible refine Follows.weaveMap ?_ (fun _ => rfl)
    | with_reducible apply Follows.weaveMap
    | with_reducible refine Follows.ite (fun _ => ?_) (fun _ => ?_)
    | (intro _; simp only [updFirst_length, updAll_length, updAt_length, List.length_map, List.length_replicate, List.length_range, and_self])
    | with_reducible exact ⟨rfl, rfl, rfl⟩
    | with_reducible exact ⟨rfl, rfl⟩
    | with_reducible rfl
    | with_reducible exact Nat.le_refl _
    | intro _
    | split

theorem Follows.beaconSend {b0 : State} {s : State} (hb0 : Follows b0 s) : Follows b0 (State.beaconSend s) := by
  unfold State.beaconSend
  try dsimp only
  repeat' first
    | with_reducible assumption
    | with_reducible apply Follows.advance
    | with_reducible apply Follows.sendCtl
    | with_reducible apply Follows.send
    | with_reducible refine Follows.weaveMap ?_ (fun _ => rfl)
    | with_reducible apply Follows.weaveMap
    | with_reducible apply Follows.when
    | with_reducible apply Follows.each
    | with_reducible refine Follows.ite (fun _ => ?_) (fun _ => ?_)
    | (intro _; simp only [updFirst_length, updAll_length, updAt_length, List.length_map, List.length_replicate, List.length_range, and_self])
    | with_reducible exact ⟨rfl, rfl, rfl⟩
    | with_reducible exact ⟨rfl, rfl⟩
    | with_reducible rfl
    | with_reducible exact Nat.le_refl _
    | intro _
    | split

theorem Follows.onBeacon {b0 : State} {s : State} {i : Nat} {measure : Nat} {lead : Nat} {period : Nat} {set : Bool} {records : Nat} {epoch : Nat} {t : Nat} (hb0 : Follows b0 s) : Follows b0 (State.onBeacon s i measure lead period set records epoch t) := by
  unfold State.onBeacon
  try dsimp only
  repeat' first
    | with_reducible assumption
    | with_reducible apply Follows.advance
    | with_reducible apply Follows.sendCtl
    | with_reducible apply Follows.wr
    | with_reducible refine Follows.weaveMap ?_ (fun _ => rfl)
    | with_reducible apply Follows.weaveMap
    | with_reducible apply Follows.each
    | with_reducible refine Follows.ite (fun _ => ?_) (fun _ => ?_)
    | (intro _; simp only [updFirst_length, updAll_length, updAt_length, List.length_map, List.length_replicate, List.length_range, and_self])
    | with_reducible exact ⟨rfl, rfl, rfl⟩
    | with_reducible exact ⟨rfl, rfl⟩
    | with_reducible rfl
    | with_reducible exact Nat.le_refl _
    | intro _
    | split

theorem Follows.onSettings {b0 : State} {s : State} {m : Bytes} (hb0 : Follows b0 s) : Follows b0 (State.onSettings s m) := by
  unfold State.onSettings
  try dsimp only
  repeat' first
    | with_reducible assumption
    | with_reducible refine Follows.weaveMap ?_ (fun _ => rfl)
    | with_reducible apply Follows.weaveMap
    | with_reducible refine Follows.ite (fun _ => ?_) (fun _ => ?_)
    | (intro _; simp only [updFirst_length, updAll_length, updAt_length, List.length_map, List.length_replicate, List.length_range, and_self])
    | with_reducible exact ⟨rfl, rfl, rfl⟩
    | with_reducible exact ⟨rfl, rfl⟩
    | with_reducible rfl
    | with_reducible exact Nat.le_refl _
    | intro _

theorem Follows.onGenerations {b0 : State} {s : State} {m : Bytes} (hb0 : Follows b0 s) : Follows b0 (State.onGenerations s m) := by
  unfold State.onGenerations
  try dsimp only
  repeat' first
    | with_reducible assumption
    | with_reducible apply Follows.wipe
    | with_reducible apply Follows.outHolder
    | with_reducible apply Follows.wshelfMap
    | with_reducible refine Follows.weaveMap ?_ (fun _ => rfl)
    | with_reducible apply Follows.weaveMap
    | with_reducible apply Follows.storeMap
    | with_reducible apply Follows.each
    | with_reducible refine Follows.ite (fun _ => ?_) (fun _ => ?_)
    | (intro _; simp only [updFirst_length, updAll_length, updAt_length, List.length_map, List.length_replicate, List.length_range, and_self])
    | with_reducible exact ⟨rfl, rfl, rfl⟩
    | with_reducible exact ⟨rfl, rfl⟩
    | with_reducible rfl
    | with_reducible exact Nat.le_refl _
    | intro _
    | split

theorem Follows.askRejoin {b0 : State} {s : State} (hb0 : Follows b0 s) : Follows b0 (State.askRejoin s) := by
  unfold State.askRejoin
  try dsimp only
  repeat' first
    | with_reducible assumption
    | with_reducible apply Follows.send
    | with_reducible refine Follows.ite (fun _ => ?_) (fun _ => ?_)
    | intro _

theorem Follows.reparent {b0 : State} {s : State} (hb0 : Follows b0 s) : Follows b0 (State.reparent s) := by
  unfold State.reparent
  try dsimp only
  repeat' first
    | with_reducible assumption
    | with_reducible apply Follows.takeMap
    | with_reducible apply Follows.askRejoin
    | with_reducible refine Follows.ite (fun _ => ?_) (fun _ => ?_)
    | intro _
    | split

theorem Follows.onRejoin {b0 : State} {s : State} {i : Nat} {m : Bytes} (hb0 : Follows b0 s) : Follows b0 (State.onRejoin s i m) := by
  unfold State.onRejoin
  try dsimp only
  repeat' first
    | with_reducible assumption
    | with_reducible apply Follows.committed
    | with_reducible apply Follows.wshelfMap
    | with_reducible apply Follows.send
    | with_reducible refine Follows.weaveMap ?_ (fun _ => rfl)
    | with_reducible apply Follows.weaveMap
    | with_reducible apply Follows.each
    | with_reducible refine Follows.ite (fun _ => ?_) (fun _ => ?_)
    | (intro _; simp only [updFirst_length, updAll_length, updAt_length, List.length_map, List.length_replicate, List.length_range, and_self])
    | with_reducible exact ⟨rfl, rfl, rfl⟩
    | with_reducible exact ⟨rfl, rfl⟩
    | with_reducible rfl
    | with_reducible exact Nat.le_refl _
    | intro _
    | split

theorem Follows.memberLost {b0 : State} {s : State} {a : Nat} (hb0 : Follows b0 s) : Follows b0 (State.memberLost s a) := by
  unfold State.memberLost
  try dsimp only
  repeat' first
    | with_reducible assumption
    | with_reducible apply Follows.logError
    | with_reducible apply Follows.forget
    | with_reducible apply Follows.forgetFans
    | with_reducible apply Follows.weavePrepares
    | with_reducible apply Follows.adminDone
    | with_reducible apply Follows.ev
    | with_reducible refine Follows.weaveMap ?_ (fun _ => rfl)
    | with_reducible apply Follows.weaveMap
    | with_reducible refine Follows.ite (fun _ => ?_) (fun _ => ?_)
    | (intro _; simp only [updFirst_length, updAll_length, updAt_length, List.length_map, List.length_replicate, List.length_range, and_self])
    | with_reducible exact ⟨rfl, rfl, rfl⟩
    | with_reducible exact ⟨rfl, rfl⟩
    | with_reducible rfl
    | with_reducible exact Nat.le_refl _
    | intro _
    | split

theorem Follows.watchLinks {b0 : State} {s : State} (hb0 : Follows b0 s) : Follows b0 (State.watchLinks s) := by
  unfold State.watchLinks
  try dsimp only
  repeat' first
    | with_reducible assumption
    | with_reducible apply Follows.outHolder
    | with_reducible refine Follows.weaveMap ?_ (fun _ => rfl)
    | with_reducible apply Follows.weaveMap
    | with_reducible apply Follows.each
    | with_reducible refine Follows.ite (fun _ => ?_) (fun _ => ?_)
    | (intro _; simp only [updFirst_length, updAll_length, updAt_length, List.length_map, List.length_replicate, List.length_range, and_self])
    | with_reducible exact ⟨rfl, rfl, rfl⟩
    | with_reducible exact ⟨rfl, rfl⟩
    | with_reducible rfl
    | with_reducible exact Nat.le_refl _
    | intro _
    | split

theorem Follows.onRest {b0 : State} {s : State} {m : Bytes} (hb0 : Follows b0 s) : Follows b0 (State.onRest s m) := by
  unfold State.onRest
  try dsimp only
  repeat' first
    | with_reducible assumption
    | with_reducible apply Follows.restWake
    | with_reducible refine Follows.weaveMap ?_ (fun _ => rfl)
    | with_reducible apply Follows.weaveMap
    | with_reducible refine Follows.ite (fun _ => ?_) (fun _ => ?_)
    | (intro _; simp only [updFirst_length, updAll_length, updAt_length, List.length_map, List.length_replicate, List.length_range, and_self])
    | with_reducible exact ⟨rfl, rfl, rfl⟩
    | with_reducible exact ⟨rfl, rfl⟩
    | with_reducible rfl
    | with_reducible exact Nat.le_refl _
    | intro _
    | split

theorem Follows.askRest {b0 : State} {s : State} {what : Nat} (hb0 : Follows b0 s) : Follows b0 (State.askRest s what) := by
  unfold State.askRest
  try dsimp only
  repeat' first
    | with_reducible assumption
    | with_reducible apply Follows.send
    | with_reducible apply Follows.wr
    | with_reducible refine Follows.weaveMap ?_ (fun _ => rfl)
    | with_reducible apply Follows.weaveMap
    | with_reducible apply Follows.each
    | with_reducible refine Follows.ite (fun _ => ?_) (fun _ => ?_)
    | (intro _; simp only [updFirst_length, updAll_length, updAt_length, List.length_map, List.length_replicate, List.length_range, and_self])
    | with_reducible exact ⟨rfl, rfl, rfl⟩
    | with_reducible exact ⟨rfl, rfl⟩
    | with_reducible rfl
    | with_reducible exact Nat.le_refl _
    | intro _
    | split

theorem Follows.weaveDownbeat {b0 : State} {s : State} (hb0 : Follows b0 s) : Follows b0 (State.weaveDownbeat s) := by
  unfold State.weaveDownbeat
  try dsimp only
  repeat' first
    | with_reducible assumption
    | with_reducible apply Follows.becomeHead
    | with_reducible apply Follows.takeMap
    | with_reducible apply Follows.endOwnership
    | with_reducible apply Follows.askRejoin
    | with_reducible apply Follows.wshelfMap
    | with_reducible apply Follows.watchLinks
    | with_reducible apply Follows.reparent
    | with_reducible refine Follows.weaveMap ?_ (fun _ => rfl)
    | with_reducible apply Follows.weaveMap
    | with_reducible apply Follows.storeMap
    | with_reducible apply Follows.each
    | with_reducible refine Follows.ite (fun _ => ?_) (fun _ => ?_)
    | (intro _; simp only [updFirst_length, updAll_length, updAt_length, List.length_map, List.length_replicate, List.length_range, and_self])
    | with_reducible exact ⟨rfl, rfl, rfl⟩
    | with_reducible exact ⟨rfl, rfl⟩
    | with_reducible rfl
    | with_reducible exact Nat.le_refl _
    | intro _
    | split

end Sys2Proof.Machine
end

