-- ==== Sys2Proof/Laws/FollowsMeasure.lean ====
section
/-!
SUPPORT. The operations of Machine/Measure.lean keep what `Follows` says.
-/
namespace Sys2Proof.Machine

theorem Follows.showCounts {b0 : State} {s : State} {fs : List Fld} (hb0 : Follows b0 s) : Follows b0 (State.showCounts s fs) :=
  hb0.ofRegs (fun r => ⟨regSorted_foldInsert _ _ (regSorted_filter _ _ r.1), r.2⟩) rfl rfl rfl rfl rfl rfl rfl rfl rfl

theorem Follows.dropCounts {b0 : State} {s : State} (hb0 : Follows b0 s) : Follows b0 (State.dropCounts s) := by
  refine Follows.bumpSet _ _ _ ?_
  exact hb0.ofRegs (fun r => ⟨r.1, r.2.1, rfl, r.2.2.2⟩) rfl rfl rfl rfl rfl rfl rfl rfl rfl

theorem Follows.measurePass {b0 : State} {s : State} (hb0 : Follows b0 s) : Follows b0 (State.measurePass s) := by
  unfold State.measurePass
  try dsimp only
  repeat' first
    | with_reducible assumption
    | with_reducible apply Follows.bumpSet
    | with_reducible apply Follows.measured
    | with_reducible apply Follows.each
    | with_reducible apply Follows.foldl
    | with_reducible refine Follows.ite (fun _ => ?_) (fun _ => ?_)
    | intro _
    | split

theorem Follows.addMeter {b0 : State} {s : State} {lo : Fld} {hi : Fld} {i : Nat} {n : Nat} (hb0 : Follows b0 s) : Follows b0 (State.addMeter s lo hi i n) := by
  unfold State.addMeter
  try dsimp only
  repeat' first
    | with_reducible assumption
    | with_reducible apply Follows.wr
    | with_reducible refine Follows.ite (fun _ => ?_) (fun _ => ?_)

theorem Follows.runMeters {b0 : State} {s : State} (hb0 : Follows b0 s) : Follows b0 (State.runMeters s) := by
  unfold State.runMeters
  try dsimp only
  repeat' first
    | with_reducible assumption
    | with_reducible apply Follows.addMeter
    | with_reducible apply Follows.tickFree
    | with_reducible refine Follows.hostMap ?_ (fun _ => ⟨rfl, rfl⟩)
    | with_reducible apply Follows.hostMap
    | with_reducible apply Follows.each
    | with_reducible refine Follows.ite (fun _ => ?_) (fun _ => ?_)
    | (intro _; simp only [updFirst_length, updAll_length, updAt_length, List.length_map, List.length_replicate, List.length_range, and_self])
    | with_reducible exact ⟨rfl, rfl, rfl⟩
    | with_reducible exact ⟨rfl, rfl⟩
    | with_reducible rfl
    | with_reducible exact Nat.le_refl _
    | intro _

theorem regSorted_snap (s : State) (l : List (Fld × Nat)) (r : List (Nat × Nat)) (h : regSorted r = true) :
    regSorted (l.foldl (fun r p => match s.live? p.1 p.2 with | some v => regSet p.1 0 p.2 v r | none => r) r) = true := by
  induction l generalizing r with
  | nil => exact h
  | cons p l ih =>
    simp only [List.foldl_cons]
    apply ih
    split
    · exact regSorted_regSet _ _ _ _ _ h
    · exact h

theorem Follows.takeSnapshot {b0 : State} {s : State} (hb0 : Follows b0 s) : Follows b0 (State.takeSnapshot s) := by
  unfold State.takeSnapshot
  generalize (regTable.filter (fun f => f.live)).flatMap (fun f => (List.range f.count).map (fun i => (f, i))) = l
  dsimp only
  refine Follows.pwrMap (Follows.wr _ _ _ ?_)
  exact hb0.ofRegs (fun r => ⟨r.1, r.2.1, r.2.2.1, regSorted_snap s _ _ r.1⟩) rfl rfl rfl rfl rfl rfl rfl rfl rfl

theorem Follows.applySettings {b0 : State} {s : State} {b : Bytes} (hb0 : Follows b0 s) : Follows b0 (State.applySettings s b) := by
  unfold State.applySettings
  try dsimp only
  repeat' first
    | with_reducible assumption
    | with_reducible apply Follows.wr
    | with_reducible refine Follows.ite (fun _ => ?_) (fun _ => ?_)
    | intro _
    | split

theorem Follows.dueSettings {b0 : State} {s : State} {n : Nat} (hb0 : Follows b0 s) : Follows b0 (State.dueSettings s n) := by
  unfold State.dueSettings
  try dsimp only
  repeat' first
    | with_reducible assumption
    | with_reducible apply Follows.applySettings
    | with_reducible apply Follows.complete
    | with_reducible apply Follows.ev
    | with_reducible refine Follows.weaveMap ?_ (fun _ => rfl)
    | with_reducible apply Follows.weaveMap
    | with_reducible apply Follows.when
    | with_reducible apply Follows.each
    | with_reducible refine Follows.ite (fun _ => ?_) (fun _ => ?_)
    | (intro _; simp only [updFirst_length, updAll_length, updAt_length, List.length_map, List.length_replicate, List.length_range, and_self])
    | with_reducible exact ⟨rfl, rfl, rfl⟩
    | with_reducible exact ⟨rfl, rfl⟩
    | with_reducible rfl
    | with_reducible exact Nat.le_refl _
    | intro _

theorem Follows.latchSettings {b0 : State} {s : State} {n : Nat} (hb0 : Follows b0 s) : Follows b0 (State.latchSettings s n) := by
  have h : Follows b0 (s.dueSettings n) := Follows.dueSettings hb0
  exact h.ofRegs (fun r => ⟨r.1, r.1, r.2.2⟩) rfl rfl rfl rfl rfl rfl rfl rfl rfl

theorem Follows.expireLease {b0 : State} {s : State} {n : Nat} (hb0 : Follows b0 s) : Follows b0 (State.expireLease s n) := by
  unfold State.expireLease
  try dsimp only
  repeat' first
    | with_reducible assumption
    | with_reducible apply Follows.endOwnership
    | with_reducible apply Follows.wr
    | with_reducible apply Follows.ev
    | with_reducible refine Follows.ite (fun _ => ?_) (fun _ => ?_)
    | split

theorem Follows.lapseOffer {b0 : State} {s : State} {n : Nat} (hb0 : Follows b0 s) : Follows b0 (State.lapseOffer s n) := by
  unfold State.lapseOffer
  try dsimp only
  repeat' first
    | with_reducible assumption
    | with_reducible apply Follows.endOwnership
    | with_reducible apply Follows.wr
    | with_reducible apply Follows.ev
    | with_reducible refine Follows.ite (fun _ => ?_) (fun _ => ?_)
    | intro _
    | split

theorem Follows.elect {b0 : State} {s : State} {n : Nat} (hb0 : Follows b0 s) : Follows b0 (State.elect s n) := by
  unfold State.elect
  try dsimp only
  repeat' first
    | with_reducible assumption
    | with_reducible apply Follows.noticeChanged
    | with_reducible apply Follows.notice
    | with_reducible apply Follows.complete
    | with_reducible apply Follows.wr
    | with_reducible apply Follows.ev
    | with_reducible refine Follows.hostMap ?_ (fun _ => ⟨rfl, rfl⟩)
    | with_reducible apply Follows.hostMap
    | with_reducible apply Follows.each
    | with_reducible refine Follows.ite (fun _ => ?_) (fun _ => ?_)
    | (intro _; simp only [updFirst_length, updAll_length, updAt_length, List.length_map, List.length_replicate, List.length_range, and_self])
    | with_reducible exact ⟨rfl, rfl, rfl⟩
    | with_reducible exact ⟨rfl, rfl⟩
    | with_reducible rfl
    | with_reducible exact Nat.le_refl _
    | intro _
    | split

theorem Follows.ownershipStep {b0 : State} {s : State} {n : Nat} (hb0 : Follows b0 s) : Follows b0 (State.ownershipStep s n) := by
  unfold State.ownershipStep
  try dsimp only
  repeat' first
    | with_reducible assumption
    | with_reducible apply Follows.expireLease
    | with_reducible apply Follows.lapseOffer
    | with_reducible apply Follows.notice
    | with_reducible apply Follows.elect
    | with_reducible apply Follows.wr
    | with_reducible apply Follows.when
    | with_reducible refine Follows.ite (fun _ => ?_) (fun _ => ?_)
    | intro _
    | split

theorem Follows.storeStep {b0 : State} {s : State} {n : Nat} (hb0 : Follows b0 s) : Follows b0 (State.storeStep s n) := by
  unfold State.storeStep
  try dsimp only
  repeat' first
    | with_reducible assumption
    | with_reducible apply Follows.wr
    | with_reducible refine Follows.weaveMap ?_ (fun _ => rfl)
    | with_reducible apply Follows.weaveMap
    | with_reducible apply Follows.storeMap
    | with_reducible refine Follows.ite (fun _ => ?_) (fun _ => ?_)
    | (intro _; simp only [updFirst_length, updAll_length, updAt_length, List.length_map, List.length_replicate, List.length_range, and_self])
    | with_reducible exact ⟨rfl, rfl, rfl⟩
    | with_reducible exact ⟨rfl, rfl⟩
    | with_reducible rfl
    | with_reducible exact Nat.le_refl _
    | intro _
    | split

theorem Follows.firstStep {b0 : State} {s : State} {n : Nat} (hb0 : Follows b0 s) : Follows b0 (State.firstStep s n) := by
  unfold State.firstStep
  try dsimp only
  repeat' first
    | with_reducible assumption
    | with_reducible apply Follows.loseShelves
    | with_reducible apply Follows.newLayout
    | with_reducible apply Follows.storeMap
    | with_reducible apply Follows.when
    | with_reducible refine Follows.ite (fun _ => ?_) (fun _ => ?_)
    | intro _
    | split

theorem Follows.memoryStep {b0 : State} {s : State} {n : Nat} (hb0 : Follows b0 s) : Follows b0 (State.memoryStep s n) := by
  unfold State.memoryStep
  try dsimp only
  repeat' first
    | with_reducible assumption
    | with_reducible apply Follows.cmdMap
    | with_reducible apply Follows.complete
    | with_reducible apply Follows.layoutChange
    | with_reducible apply Follows.finishPends
    | with_reducible refine Follows.memMap ?_ (fun _ => rfl)
    | with_reducible apply Follows.memMap
    | with_reducible apply Follows.storeMap
    | with_reducible apply Follows.each
    | with_reducible refine Follows.ite (fun _ => ?_) (fun _ => ?_)
    | (intro _; simp only [updFirst_length, updAll_length, updAt_length, List.length_map, List.length_replicate, List.length_range, and_self])
    | with_reducible exact ⟨rfl, rfl, rfl⟩
    | with_reducible exact ⟨rfl, rfl⟩
    | with_reducible rfl
    | with_reducible exact Nat.le_refl _
    | intro _
    | split

theorem Follows.strandMaps {b0 : State} {s : State} {old : Nat} (hb0 : Follows b0 s) : Follows b0 (State.strandMaps s old) := by
  unfold State.strandMaps
  try dsimp only
  repeat' first
    | with_reducible assumption
    | with_reducible apply Follows.strandMap
    | with_reducible apply Follows.startTraining
    | with_reducible apply Follows.wr
    | with_reducible apply Follows.each
    | with_reducible refine Follows.ite (fun _ => ?_) (fun _ => ?_)
    | intro _
    | split

theorem Follows.engineStep {b0 : State} {s : State} (hb0 : Follows b0 s) : Follows b0 (State.engineStep s) := by
  unfold State.engineStep
  try dsimp only
  repeat' first
    | with_reducible assumption
    | with_reducible refine Follows.sweepSet ?_ (fun x hx => ⟨by simp, hx.2⟩)
    | with_reducible apply Follows.wr
    | with_reducible refine Follows.clkMap ?_ (fun _ => Nat.le_refl _)
    | with_reducible apply Follows.clkMap
    | with_reducible refine Follows.sweepMap ?_ (fun _ => ⟨rfl, rfl, rfl⟩)
    | with_reducible apply Follows.sweepMap
    | with_reducible apply Follows.pwrMap
    | with_reducible refine Follows.ite (fun _ => ?_) (fun _ => ?_)
    | (intro _; simp only [updFirst_length, updAll_length, updAt_length, List.length_map, List.length_replicate, List.length_range, and_self])
    | with_reducible exact ⟨rfl, rfl, rfl⟩
    | with_reducible exact ⟨rfl, rfl⟩
    | with_reducible rfl
    | with_reducible exact Nat.le_refl _
    | intro _

theorem Follows.beginRest {b0 : State} {s : State} (hb0 : Follows b0 s) : Follows b0 (State.beginRest s) := by
  unfold State.beginRest
  try dsimp only
  repeat' first
    | with_reducible assumption
    | with_reducible apply Follows.restEnter
    | with_reducible refine Follows.clkMap ?_ (fun _ => Nat.le_refl _)
    | with_reducible apply Follows.clkMap
    | with_reducible refine Follows.ite (fun _ => ?_) (fun _ => ?_)
    | (intro _; simp only [updFirst_length, updAll_length, updAt_length, List.length_map, List.length_replicate, List.length_range, and_self])
    | with_reducible exact ⟨rfl, rfl, rfl⟩
    | with_reducible exact ⟨rfl, rfl⟩
    | with_reducible rfl
    | with_reducible exact Nat.le_refl _
    | intro _

theorem Follows.restStep {b0 : State} {s : State} {n : Nat} (hb0 : Follows b0 s) : Follows b0 (State.restStep s n) := by
  unfold State.restStep
  try dsimp only
  repeat' first
    | with_reducible assumption
    | with_reducible apply Follows.beginRest
    | with_reducible apply Follows.askRest
    | with_reducible refine Follows.weaveMap ?_ (fun _ => rfl)
    | with_reducible apply Follows.weaveMap
    | with_reducible refine Follows.ite (fun _ => ?_) (fun _ => ?_)
    | (intro _; simp only [updFirst_length, updAll_length, updAt_length, List.length_map, List.length_replicate, List.length_range, and_self])
    | with_reducible exact ⟨rfl, rfl, rfl⟩
    | with_reducible exact ⟨rfl, rfl⟩
    | with_reducible rfl
    | with_reducible exact Nat.le_refl _
    | intro _
    | split

theorem Follows.closeMeasure {b0 : State} {s : State} {at_ : Nat} (hb0 : Follows b0 s) : Follows b0 (State.closeMeasure s at_) := by
  unfold State.closeMeasure
  try dsimp only
  repeat' first
    | with_reducible assumption
    | with_reducible apply Follows.foregroundEnd
    | with_reducible apply Follows.plaitExpire
    | with_reducible apply Follows.reserveEndAct
    | with_reducible apply Follows.advance
    | with_reducible apply Follows.endSlabOps
    | with_reducible apply Follows.retryCommits
    | with_reducible apply Follows.weaveLanded
    | with_reducible apply Follows.countWaits
    | with_reducible apply Follows.measurePass
    | with_reducible apply Follows.showCounts
    | with_reducible apply Follows.dropCounts
    | with_reducible refine Follows.clkMap ?_ (fun _ => Nat.le_refl _)
    | with_reducible apply Follows.clkMap
    | with_reducible apply Follows.when
    | with_reducible refine Follows.ite (fun _ => ?_) (fun _ => ?_)
    | (intro _; simp only [updFirst_length, updAll_length, updAt_length, List.length_map, List.length_replicate, List.length_range, and_self])
    | with_reducible exact ⟨rfl, rfl, rfl⟩
    | with_reducible exact ⟨rfl, rfl⟩
    | with_reducible rfl
    | with_reducible exact Nat.le_refl _
    | intro _
    | split

theorem Follows.lateFar {b0 : State} {s : State} (hb0 : Follows b0 s) : Follows b0 (State.lateFar s) := by
  unfold State.lateFar
  try dsimp only
  repeat' first
    | with_reducible assumption
    | with_reducible apply Follows.farTook
    | with_reducible apply Follows.each
    | with_reducible refine Follows.ite (fun _ => ?_) (fun _ => ?_)
    | intro _

theorem Follows.clearPass {b0 : State} {s : State} (hb0 : Follows b0 s) : Follows b0 (State.clearPass s) := by
  unfold State.clearPass
  try dsimp only
  repeat' first
    | with_reducible assumption
    | with_reducible refine Follows.sweepSet ?_ (fun x hx => ⟨hx.1, rfl, rfl⟩)
    | with_reducible refine Follows.rrSet ?_ (fun _ _ => rfl)
    | with_reducible refine Follows.sweepMap ?_ (fun _ => ⟨rfl, rfl, rfl⟩)
    | with_reducible apply Follows.sweepMap
    | with_reducible refine Follows.rrMap ?_ (fun _ => rfl)
    | with_reducible apply Follows.rrMap
    | with_reducible refine Follows.hostMap ?_ (fun _ => ⟨rfl, rfl⟩)
    | with_reducible apply Follows.hostMap
    | with_reducible refine Follows.memMap ?_ (fun _ => rfl)
    | with_reducible apply Follows.memMap
    | with_reducible apply Follows.pwrMap
    | with_reducible apply Follows.when
    | with_reducible refine Follows.ite (fun _ => ?_) (fun _ => ?_)
    | (intro _; simp only [updFirst_length, updAll_length, updAt_length, List.length_map, List.length_replicate, List.length_range, and_self])
    | with_reducible exact ⟨rfl, rfl, rfl⟩
    | with_reducible exact ⟨rfl, rfl⟩
    | with_reducible rfl
    | with_reducible exact Nat.le_refl _
    | intro _
    | split

theorem Follows.sourceLeft {b0 : State} {s : State} (hb0 : Follows b0 s) : Follows b0 (State.sourceLeft s) := by
  unfold State.sourceLeft
  try dsimp only
  repeat' first
    | with_reducible assumption
    | with_reducible refine Follows.clkMap ?_ (fun _ => Nat.le_refl _)
    | with_reducible apply Follows.clkMap
    | with_reducible apply Follows.when
    | with_reducible refine Follows.ite (fun _ => ?_) (fun _ => ?_)
    | (intro _; simp only [updFirst_length, updAll_length, updAt_length, List.length_map, List.length_replicate, List.length_range, and_self])
    | with_reducible exact ⟨rfl, rfl, rfl⟩
    | with_reducible exact ⟨rfl, rfl⟩
    | with_reducible rfl
    | with_reducible exact Nat.le_refl _
    | intro _

theorem Follows.startMeasure {b0 : State} {s : State} {at_ : Nat} {n : Nat} (hb0 : Follows b0 s) : Follows b0 (State.startMeasure s at_ n) := by
  unfold State.startMeasure
  try dsimp only
  repeat' first
    | with_reducible assumption
    | with_reducible apply Follows.closeMeasure
    | with_reducible apply Follows.lateFar
    | with_reducible apply Follows.clearPass
    | with_reducible apply Follows.runMeters
    | with_reducible apply Follows.latchSettings
    | with_reducible apply Follows.sourceLeft
    | with_reducible apply Follows.takeSnapshot
    | with_reducible apply Follows.restStep
    | with_reducible apply Follows.weaveDownbeat
    | with_reducible apply Follows.firstStep
    | with_reducible apply Follows.ownershipStep
    | with_reducible apply Follows.storeStep
    | with_reducible apply Follows.memoryStep
    | with_reducible apply Follows.strandMaps
    | with_reducible apply Follows.scrubLate
    | with_reducible apply Follows.engineStep
    | with_reducible apply Follows.weaveDecide
    | with_reducible apply Follows.weavePrepares
    | with_reducible apply Follows.wr
    | with_reducible apply Follows.emit
    | with_reducible refine Follows.clkMap ?_ (fun _ => Nat.le_refl _)
    | with_reducible apply Follows.clkMap
    | with_reducible apply Follows.pwrMap
    | with_reducible apply Follows.when
    | with_reducible apply Follows.each
    | with_reducible refine Follows.ite (fun _ => ?_) (fun _ => ?_)
    | (intro _; simp only [updFirst_length, updAll_length, updAt_length, List.length_map, List.length_replicate, List.length_range, and_self])
    | with_reducible exact ⟨rfl, rfl, rfl⟩
    | with_reducible exact ⟨rfl, rfl⟩
    | with_reducible rfl
    | with_reducible exact Nat.le_refl _
    | intro _
    | split

theorem Follows.sourceBack {b0 : State} {s : State} (hb0 : Follows b0 s) : Follows b0 (State.sourceBack s) := by
  unfold State.sourceBack
  try dsimp only
  repeat' first
    | with_reducible assumption
    | with_reducible refine Follows.clkMap ?_ (fun _ => Nat.le_refl _)
    | with_reducible apply Follows.clkMap
    | with_reducible refine Follows.ite (fun _ => ?_) (fun _ => ?_)
    | (intro _; simp only [updFirst_length, updAll_length, updAt_length, List.length_map, List.length_replicate, List.length_range, and_self])
    | with_reducible exact ⟨rfl, rfl, rfl⟩
    | with_reducible exact ⟨rfl, rfl⟩
    | with_reducible rfl
    | with_reducible exact Nat.le_refl _
    | intro _

theorem Follows.holdoverEdge {b0 : State} {s : State} {t : Nat} (hb0 : Follows b0 s) : Follows b0 (State.holdoverEdge s t) := by
  unfold State.holdoverEdge
  try dsimp only
  repeat' first
    | with_reducible assumption
    | with_reducible apply Follows.ev
    | with_reducible refine Follows.clkMap ?_ (fun _ => Nat.le_refl _)
    | with_reducible apply Follows.clkMap
    | with_reducible apply Follows.when
    | with_reducible refine Follows.ite (fun _ => ?_) (fun _ => ?_)
    | (intro _; simp only [updFirst_length, updAll_length, updAt_length, List.length_map, List.length_replicate, List.length_range, and_self])
    | with_reducible exact ⟨rfl, rfl, rfl⟩
    | with_reducible exact ⟨rfl, rfl⟩
    | with_reducible rfl
    | with_reducible exact Nat.le_refl _
    | intro _
    | split

theorem Follows.countEdges {b0 : State} {s : State} (hb0 : Follows b0 s) : Follows b0 (State.countEdges s) := by
  unfold State.countEdges
  try dsimp only
  repeat' first
    | with_reducible assumption
    | with_reducible apply Follows.sourceBack
    | with_reducible refine Follows.clkMap ?_ (fun _ => Nat.le_refl _)
    | with_reducible apply Follows.clkMap
    | with_reducible refine Follows.ite (fun _ => ?_) (fun _ => ?_)
    | (intro _; simp only [updFirst_length, updAll_length, updAt_length, List.length_map, List.length_replicate, List.length_range, and_self])
    | with_reducible exact ⟨rfl, rfl, rfl⟩
    | with_reducible exact ⟨rfl, rfl⟩
    | with_reducible rfl
    | with_reducible exact Nat.le_refl _
    | intro _
    | split

theorem Follows.internalDownbeat {b0 : State} {s : State} {n : Nat} (hb0 : Follows b0 s) : Follows b0 (State.internalDownbeat s n) := by
  unfold State.internalDownbeat
  try dsimp only
  repeat' first
    | with_reducible assumption
    | with_reducible apply Follows.countEdges
    | with_reducible apply Follows.startMeasure
    | with_reducible refine Follows.clkMap ?_ (fun _ => Nat.le_refl _)
    | with_reducible apply Follows.clkMap
    | with_reducible apply Follows.when
    | with_reducible refine Follows.ite (fun _ => ?_) (fun _ => ?_)
    | (intro _; simp only [updFirst_length, updAll_length, updAt_length, List.length_map, List.length_replicate, List.length_range, and_self])
    | with_reducible exact ⟨rfl, rfl, rfl⟩
    | with_reducible exact ⟨rfl, rfl⟩
    | with_reducible rfl
    | with_reducible exact Nat.le_refl _
    | intro _

theorem Follows.acceptEdge {b0 : State} {s : State} {t : Nat} {n : Nat} (hb0 : Follows b0 s) : Follows b0 (State.acceptEdge s t n) := by
  unfold State.acceptEdge
  try dsimp only
  repeat' first
    | with_reducible assumption
    | with_reducible apply Follows.startMeasure
    | with_reducible refine Follows.clkMap ?_ (fun _ => Nat.le_refl _)
    | with_reducible apply Follows.clkMap
    | with_reducible refine Follows.ite (fun _ => ?_) (fun _ => ?_)
    | (intro _; simp only [updFirst_length, updAll_length, updAt_length, List.length_map, List.length_replicate, List.length_range, and_self])
    | with_reducible exact ⟨rfl, rfl, rfl⟩
    | with_reducible exact ⟨rfl, rfl⟩
    | with_reducible rfl
    | with_reducible exact Nat.le_refl _
    | intro _

theorem Follows.externalEdge {b0 : State} {s : State} {t : Nat} {n : Nat} (hb0 : Follows b0 s) : Follows b0 (State.externalEdge s t n) := by
  unfold State.externalEdge
  try dsimp only
  repeat' first
    | with_reducible assumption
    | with_reducible apply Follows.acceptEdge
    | with_reducible apply Follows.holdoverEdge
    | with_reducible apply Follows.sourceBack
    | with_reducible apply Follows.ev
    | with_reducible apply Follows.when
    | with_reducible refine Follows.ite (fun _ => ?_) (fun _ => ?_)
    | split

theorem Follows.downbeat {b0 : State} {s : State} (hb0 : Follows b0 s) : Follows b0 (State.downbeat s) := by
  unfold State.downbeat
  try dsimp only
  repeat' first
    | with_reducible assumption
    | with_reducible apply Follows.holdoverEdge
    | with_reducible apply Follows.internalDownbeat
    | with_reducible apply Follows.externalEdge
    | with_reducible refine Follows.weaveMap ?_ (fun _ => rfl)
    | with_reducible apply Follows.weaveMap
    | with_reducible refine Follows.ite (fun _ => ?_) (fun _ => ?_)
    | (intro _; simp only [updFirst_length, updAll_length, updAt_length, List.length_map, List.length_replicate, List.length_range, and_self])
    | with_reducible exact ⟨rfl, rfl, rfl⟩
    | with_reducible exact ⟨rfl, rfl⟩
    | with_reducible rfl
    | with_reducible exact Nat.le_refl _
    | intro _
    | split

theorem Follows.downbeatEdge {b0 : State} {s : State} {falling : Bool} {t : Nat} (hb0 : Follows b0 s) : Follows b0 (State.downbeatEdge s falling t) := by
  unfold State.downbeatEdge
  try dsimp only
  repeat' first
    | with_reducible assumption
    | with_reducible apply Follows.externalEdge
    | with_reducible refine Follows.ite (fun _ => ?_) (fun _ => ?_)
    | split

theorem Follows.flywheel {b0 : State} {s : State} (hb0 : Follows b0 s) : Follows b0 (State.flywheel s) := by
  unfold State.flywheel
  try dsimp only
  repeat' first
    | with_reducible assumption
    | with_reducible apply Follows.sourceBack
    | with_reducible apply Follows.reportLoss
    | with_reducible apply Follows.startMeasure
    | with_reducible apply Follows.ev
    | with_reducible refine Follows.clkMap ?_ (fun _ => Nat.le_refl _)
    | with_reducible apply Follows.clkMap
    | with_reducible apply Follows.when
    | with_reducible refine Follows.ite (fun _ => ?_) (fun _ => ?_)
    | (intro _; simp only [updFirst_length, updAll_length, updAt_length, List.length_map, List.length_replicate, List.length_range, and_self])
    | with_reducible exact ⟨rfl, rfl, rfl⟩
    | with_reducible exact ⟨rfl, rfl⟩
    | with_reducible rfl
    | with_reducible exact Nat.le_refl _
    | intro _
    | split

theorem Follows.defer {b0 : State} {s : State} {c : Cmd} (hb0 : Follows b0 s) : Follows b0 (State.defer s c) := by
  unfold State.defer
  try dsimp only
  repeat' first
    | with_reducible assumption
    | with_reducible apply Follows.refuse
    | with_reducible apply Follows.bump
    | with_reducible refine Follows.ite (fun _ => ?_) (fun _ => ?_)

theorem Follows.notFitting {b0 : State} {s : State} {c : Cmd} (hb0 : Follows b0 s) : Follows b0 (State.notFitting s c) := by
  unfold State.notFitting
  try dsimp only
  repeat' first
    | with_reducible assumption
    | with_reducible apply Follows.cmdMap
    | with_reducible apply Follows.defer
    | with_reducible apply Follows.inc
    | with_reducible refine Follows.ite (fun _ => ?_) (fun _ => ?_)
    | intro _
    | split

theorem Follows.lostRun {b0 : State} {s : State} {c : Cmd} {h : Shelf} (hb0 : Follows b0 s) : Follows b0 (State.lostRun s c h) := by
  unfold State.lostRun
  try dsimp only
  repeat' first
    | with_reducible assumption
    | with_reducible apply Follows.postResult
    | with_reducible refine Follows.sweepMap ?_ (fun _ => ⟨rfl, rfl, rfl⟩)
    | with_reducible apply Follows.sweepMap
    | with_reducible refine Follows.ite (fun _ => ?_) (fun _ => ?_)
    | (intro _; simp only [updFirst_length, updAll_length, updAt_length, List.length_map, List.length_replicate, List.length_range, and_self])
    | with_reducible exact ⟨rfl, rfl, rfl⟩
    | with_reducible exact ⟨rfl, rfl⟩
    | with_reducible rfl
    | with_reducible exact Nat.le_refl _
    | intro _

theorem Follows.consider {b0 : State} {acc : State × List Cmd} {c : Cmd} (hb0 : Follows b0 acc.1) : Follows b0 (State.consider acc c).1 := by
  obtain ⟨s, cs⟩ := acc
  unfold State.consider
  dsimp only
  repeat' first
    | with_reducible assumption
    | with_reducible apply Follows.refuse
    | with_reducible apply Follows.defer
    | with_reducible apply Follows.lostRun
    | with_reducible apply Follows.notFitting
    | with_reducible apply Follows.bump
    | with_reducible apply Follows.when
    | with_reducible apply Follows.ev
    | intro _
    | split

theorem Follows.freezePlan {b0 : State} {s : State} {cs : List Cmd} (hb0 : Follows b0 s) : Follows b0 (State.freezePlan s cs) := by
  unfold State.freezePlan
  try dsimp only
  repeat' first
    | with_reducible assumption
    | with_reducible apply Follows.sendPlans
    | with_reducible apply Follows.cmdMap
    | with_reducible apply Follows.addMeter
    | with_reducible apply Follows.beginParts
    | with_reducible apply Follows.planShown
    | with_reducible apply Follows.bump
    | with_reducible refine Follows.clkMap ?_ (fun _ => Nat.le_refl _)
    | with_reducible apply Follows.clkMap
    | with_reducible refine Follows.sweepMap ?_ (fun _ => ⟨rfl, rfl, rfl⟩)
    | with_reducible apply Follows.sweepMap
    | with_reducible apply Follows.when
    | with_reducible apply Follows.each
    | with_reducible refine Follows.ite (fun _ => ?_) (fun _ => ?_)
    | (intro _; simp only [updFirst_length, updAll_length, updAt_length, List.length_map, List.length_replicate, List.length_range, and_self])
    | with_reducible exact ⟨rfl, rfl, rfl⟩
    | with_reducible exact ⟨rfl, rfl⟩
    | with_reducible rfl
    | with_reducible exact Nat.le_refl _
    | intro _
    | split

theorem Follows.admission {b0 : State} {s : State} (hb0 : Follows b0 s) : Follows b0 (State.admission s) := by
  unfold State.admission
  dsimp only
  refine Follows.freezePlan (Follows.each ?_ (fun _ _ h => Follows.notFitting h))
  exact Follows.foldFst (fun _ _ h => Follows.consider h) _ _ (Follows.each hb0 (fun _ _ h => Follows.defer h))

theorem Follows.planFreeze {b0 : State} {s : State} {t : Nat} (hb0 : Follows b0 s) : Follows b0 (State.planFreeze s t) := by
  unfold State.planFreeze
  try dsimp only
  repeat' first
    | with_reducible assumption
    | with_reducible apply Follows.admission
    | with_reducible apply Follows.advance
    | with_reducible refine Follows.ite (fun _ => ?_) (fun _ => ?_)
    | split

theorem Follows.planLate {b0 : State} {s : State} (hb0 : Follows b0 s) : Follows b0 (State.planLate s) := by
  unfold State.planLate
  try dsimp only
  repeat' first
    | with_reducible assumption
    | with_reducible apply Follows.fwFault
    | with_reducible apply Follows.notFitting
    | with_reducible apply Follows.ev
    | with_reducible apply Follows.inc
    | with_reducible refine Follows.clkMap ?_ (fun _ => Nat.le_refl _)
    | with_reducible apply Follows.clkMap
    | with_reducible apply Follows.each
    | with_reducible refine Follows.ite (fun _ => ?_) (fun _ => ?_)
    | (intro _; simp only [updFirst_length, updAll_length, updAt_length, List.length_map, List.length_replicate, List.length_range, and_self])
    | with_reducible exact ⟨rfl, rfl, rfl⟩
    | with_reducible exact ⟨rfl, rfl⟩
    | with_reducible rfl
    | with_reducible exact Nat.le_refl _
    | intro _

theorem Follows.startLists {b0 : State} {s : State} (hb0 : Follows b0 s) : Follows b0 (State.startLists s) := by
  unfold State.startLists
  try dsimp only
  repeat' first
    | with_reducible assumption
    | with_reducible refine Follows.sweepSet ?_ (fun x hx => ⟨hx.1, by simp [hx.2.1], hx.2.2⟩)
    | with_reducible refine Follows.sweepMap ?_ (fun _ => ⟨rfl, rfl, rfl⟩)
    | with_reducible apply Follows.sweepMap
    | with_reducible refine Follows.ite (fun _ => ?_) (fun _ => ?_)
    | (intro _; simp only [updFirst_length, updAll_length, updAt_length, List.length_map, List.length_replicate, List.length_range, and_self])
    | with_reducible exact ⟨rfl, rfl, rfl⟩
    | with_reducible exact ⟨rfl, rfl⟩
    | with_reducible rfl
    | with_reducible exact Nat.le_refl _
    | intro _

theorem Follows.beginSweep {b0 : State} {s : State} (hb0 : Follows b0 s) : Follows b0 (State.beginSweep s) := by
  unfold State.beginSweep
  try dsimp only
  repeat' first
    | with_reducible assumption
    | with_reducible apply Follows.queueMap
    | with_reducible apply Follows.startLists
    | with_reducible apply Follows.loadBanks
    | with_reducible apply Follows.restEngines
    | with_reducible refine Follows.clkMap ?_ (fun _ => Nat.le_refl _)
    | with_reducible apply Follows.clkMap
    | with_reducible refine Follows.sweepMap ?_ (fun _ => ⟨rfl, rfl, rfl⟩)
    | with_reducible apply Follows.sweepMap
    | with_reducible refine Follows.hostMap ?_ (fun _ => ⟨rfl, rfl⟩)
    | with_reducible apply Follows.hostMap
    | with_reducible apply Follows.each
    | with_reducible refine Follows.ite (fun _ => ?_) (fun _ => ?_)
    | (intro _; simp only [updFirst_length, updAll_length, updAt_length, List.length_map, List.length_replicate, List.length_range, and_self])
    | with_reducible exact ⟨rfl, rfl, rfl⟩
    | with_reducible exact ⟨rfl, rfl⟩
    | with_reducible rfl
    | with_reducible exact Nat.le_refl _
    | intro _

theorem Follows.windowEnds {b0 : State} {s : State} (hb0 : Follows b0 s) : Follows b0 (State.windowEnds s) := by
  unfold State.windowEnds
  try dsimp only
  repeat' first
    | with_reducible assumption
    | with_reducible apply Follows.admission
    | with_reducible apply Follows.advance
    | with_reducible apply Follows.planLate
    | with_reducible apply Follows.raise
    | with_reducible apply Follows.openBackground
    | with_reducible apply Follows.beginSweep
    | with_reducible refine Follows.clkMap ?_ (fun _ => Nat.le_refl _)
    | with_reducible apply Follows.clkMap
    | with_reducible apply Follows.each
    | with_reducible refine Follows.ite (fun _ => ?_) (fun _ => ?_)
    | (intro _; simp only [updFirst_length, updAll_length, updAt_length, List.length_map, List.length_replicate, List.length_range, and_self])
    | with_reducible exact ⟨rfl, rfl, rfl⟩
    | with_reducible exact ⟨rfl, rfl⟩
    | with_reducible rfl
    | with_reducible exact Nat.le_refl _
    | intro _
    | split

end Sys2Proof.Machine
end

