-- ==== Sys2Proof/Laws/FollowsIntake.lean ====
section
/-!
SUPPORT. The operations of Machine/Intake.lean keep what `Follows` says.
-/
namespace Sys2Proof.Machine

theorem Follows.step13 {b0 : State} {s : State} {c : Cmd} (hb0 : Follows b0 s) : Follows b0 (State.step13 s c) := by
  unfold State.step13
  try dsimp only
  repeat' first
    | with_reducible assumption
    | with_reducible apply Follows.cmdMap
    | with_reducible apply Follows.refuse
    | with_reducible apply Follows.ev
    | with_reducible apply Follows.bump
    | with_reducible refine Follows.ite (fun _ => ?_) (fun _ => ?_)
    | intro _
    | split

theorem Follows.step12 {b0 : State} {s : State} {c : Cmd} (hb0 : Follows b0 s) : Follows b0 (State.step12 s c) := by
  unfold State.step12
  try dsimp only
  repeat' first
    | with_reducible assumption
    | with_reducible apply Follows.step13
    | with_reducible apply Follows.refuse
    | with_reducible refine Follows.ite (fun _ => ?_) (fun _ => ?_)
    | split

theorem Follows.crcFailed {b0 : State} {s : State} (hb0 : Follows b0 s) : Follows b0 (State.crcFailed s) := by
  unfold State.crcFailed
  try dsimp only
  repeat' first
    | with_reducible assumption
    | with_reducible apply Follows.ev
    | with_reducible apply Follows.inc
    | with_reducible refine Follows.ite (fun _ => ?_) (fun _ => ?_)

theorem Follows.reserveRoom {b0 : State} {s : State} {c : Cmd} (hb0 : Follows b0 s) : Follows b0 (State.reserveRoom s c) := by
  unfold State.reserveRoom
  try dsimp only
  repeat' first
    | with_reducible assumption
    | with_reducible apply Follows.refuse
    | with_reducible apply Follows.intakeWait
    | with_reducible apply Follows.cmdMap
    | with_reducible apply Follows.readHost
    | with_reducible apply Follows.when
    | with_reducible refine Follows.ite (fun _ => ?_) (fun _ => ?_)
    | intro _
    | split

theorem Follows.bufferLost {b0 : State} {s : State} {c : Cmd} (hb0 : Follows b0 s) : Follows b0 (State.bufferLost s c) := by
  unfold State.bufferLost
  try dsimp only
  repeat' first
    | with_reducible assumption
    | with_reducible apply Follows.logError
    | with_reducible refine Follows.ite (fun _ => ?_) (fun _ => ?_)

theorem Follows.startReads {b0 : State} {s : State} {c : Cmd} (hb0 : Follows b0 s) : Follows b0 (State.startReads s c) := by
  unfold State.startReads
  try dsimp only
  repeat' first
    | with_reducible assumption
    | with_reducible apply Follows.step12
    | with_reducible apply Follows.cmdMap
    | with_reducible apply Follows.reserveRoom
    | with_reducible refine Follows.ite (fun _ => ?_) (fun _ => ?_)
    | intro _
    | split

theorem Follows.retryRooms {b0 : State} {s : State} (hb0 : Follows b0 s) : Follows b0 (State.retryRooms s) := by
  unfold State.retryRooms
  try dsimp only
  repeat' first
    | with_reducible assumption
    | with_reducible apply Follows.reserveRoom
    | with_reducible apply Follows.countIntake
    | with_reducible apply Follows.each
    | with_reducible refine Follows.ite (fun _ => ?_) (fun _ => ?_)
    | intro _
    | split

theorem Follows.step9 {b0 : State} {s : State} {c : Cmd} (hb0 : Follows b0 s) : Follows b0 (State.step9 s c) := by
  unfold State.step9
  try dsimp only
  repeat' first
    | with_reducible assumption
    | with_reducible apply Follows.refuse
    | with_reducible apply Follows.cmdMap
    | with_reducible apply Follows.startReads
    | with_reducible refine Follows.ite (fun _ => ?_) (fun _ => ?_)
    | intro _
    | split

theorem Follows.step7 {b0 : State} {s : State} {c : Cmd} (hb0 : Follows b0 s) : Follows b0 (State.step7 s c) := by
  unfold State.step7
  try dsimp only
  repeat' first
    | with_reducible assumption
    | with_reducible apply Follows.refuse
    | with_reducible apply Follows.step9
    | with_reducible refine Follows.ite (fun _ => ?_) (fun _ => ?_)
    | split

theorem Follows.step6 {b0 : State} {s : State} {c : Cmd} (hb0 : Follows b0 s) : Follows b0 (State.step6 s c) := by
  unfold State.step6
  try dsimp only
  repeat' first
    | with_reducible assumption
    | with_reducible apply Follows.step7
    | with_reducible apply Follows.refuse
    | with_reducible apply Follows.cmdMap
    | with_reducible apply Follows.finishDuplicate
    | with_reducible apply Follows.ev
    | with_reducible refine Follows.hostMap ?_ (fun _ => ⟨rfl, rfl⟩)
    | with_reducible apply Follows.hostMap
    | with_reducible refine Follows.ite (fun _ => ?_) (fun _ => ?_)
    | (intro _; simp only [updFirst_length, updAll_length, updAt_length, List.length_map, List.length_replicate, List.length_range, and_self])
    | with_reducible exact ⟨rfl, rfl, rfl⟩
    | with_reducible exact ⟨rfl, rfl⟩
    | with_reducible rfl
    | with_reducible exact Nat.le_refl _
    | intro _
    | split

theorem Follows.intake {b0 : State} {s : State} {c : Cmd} {p : Bytes} (hb0 : Follows b0 s) : Follows b0 (State.intake s c p) := by
  unfold State.intake
  try dsimp only
  repeat' first
    | with_reducible assumption
    | with_reducible apply Follows.addCmd
    | with_reducible apply Follows.refuse
    | with_reducible apply Follows.crcFailed
    | with_reducible apply Follows.step6
    | with_reducible apply Follows.step7
    | with_reducible apply Follows.wr
    | with_reducible refine Follows.clkMap ?_ (fun _ => Nat.le_refl _)
    | with_reducible apply Follows.clkMap
    | with_reducible apply Follows.when
    | with_reducible refine Follows.ite (fun _ => ?_) (fun _ => ?_)
    | (intro _; simp only [updFirst_length, updAll_length, updAt_length, List.length_map, List.length_replicate, List.length_range, and_self])
    | with_reducible exact ⟨rfl, rfl, rfl⟩
    | with_reducible exact ⟨rfl, rfl⟩
    | with_reducible rfl
    | with_reducible exact Nat.le_refl _
    | intro _
    | split

theorem Follows.packetRead {b0 t0 : State} {s : State} {fn : Nat} {q : Nat} {ok : Bool} {p : Bytes} {t : Nat} (e : State.packetRead s fn q ok p t = some t0) (hb0 : Follows b0 s) : Follows b0 t0 := by
  unfold State.packetRead at e
  try dsimp only at e
  repeat' split at e
  all_goals first | rw [← Option.some.inj e] | cases e
  all_goals repeat' first
    | with_reducible assumption
    | with_reducible apply Follows.advance
    | with_reducible apply Follows.retryRooms
    | with_reducible apply Follows.packetError
    | with_reducible apply Follows.consumeFlits
    | with_reducible apply Follows.intake
    | with_reducible refine Follows.ite (fun _ => ?_) (fun _ => ?_)
    | with_reducible refine Follows.ofFst ?_ (by with_reducible assumption)
    | intro _
    | split

theorem Follows.operandRead {b0 t0 : State} {s : State} {cid : Nat} {ok : Bool} {operands table : Bytes} {t : Nat}
    (e : State.operandRead s cid ok operands table t = some t0) (hb0 : Follows b0 s) : Follows b0 t0 := by
  have hr : Follows b0 (s.advance t).retryRooms := Follows.retryRooms (Follows.advance hb0)
  unfold State.operandRead at e
  dsimp only at e
  split at e
  · rw [← Option.some.inj e]; exact hr
  · repeat' (refine ifSome e ?_ ?_ <;> clear e <;> intro e)
    all_goals first
      | rw [← Option.some.inj e]
      | cases e
    all_goals repeat' first
      | with_reducible exact hr
      | with_reducible apply Follows.refuse
      | with_reducible apply Follows.bufferLost
      | with_reducible apply Follows.crcFailed
      | with_reducible apply Follows.step12
      | with_reducible apply Follows.spend
      | with_reducible apply Follows.cmdMap

theorem Follows.row {b0 : State} {s : State} {cid : Nat} {op : Nat} {f : State → Cmd → State} (hb0 : Follows b0 s) (hf_f : ∀ t x, Follows b0 t → Follows b0 (f t x)) : Follows b0 (State.row s cid op f) := by
  unfold State.row
  try dsimp only
  repeat' first
    | with_reducible assumption
    | apply hf_f
    | with_reducible apply Follows.step7
    | with_reducible refine Follows.ite (fun _ => ?_) (fun _ => ?_)
    | intro _
    | split

theorem Follows.checkRemote {b0 : State} {s : State} {op : Nat} (hb0 : Follows b0 s) : Follows b0 (State.checkRemote s op) := by
  unfold State.checkRemote
  try dsimp only
  repeat' first
    | with_reducible assumption
    | with_reducible apply Follows.refuse
    | with_reducible apply Follows.cmdMap
    | with_reducible refine Follows.ite (fun _ => ?_) (fun _ => ?_)
    | intro _
    | split

end Sys2Proof.Machine
end

