-- ==== Sys2Proof/Laws/FollowsCommands.lean ====
section
/-!
SUPPORT. The operations of Machine/Commands.lean keep what `Follows` says.
-/
namespace Sys2Proof.Machine

theorem Follows.replyOk {b0 : State} {s : State} {c : Cmd} {off : Nat} {bytes : Bytes} (hb0 : Follows b0 s) : Follows b0 (State.replyOk s c off bytes) := by
  unfold State.replyOk
  try dsimp only
  repeat' first
    | with_reducible assumption
    | with_reducible apply Follows.reply
    | with_reducible apply Follows.completeOk
    | with_reducible refine Follows.ite (fun _ => ?_) (fun _ => ?_)

theorem Follows.identify {b0 : State} {s : State} {c : Cmd} (hb0 : Follows b0 s) : Follows b0 (State.identify s c) := by
  unfold State.identify
  try dsimp only
  repeat' first
    | with_reducible assumption
    | with_reducible apply Follows.replyOk
    | with_reducible refine Follows.ite (fun _ => ?_) (fun _ => ?_)

theorem Follows.readList {b0 : State} {fn : Nat} (l : List Nat) {s : State} (hb0 : Follows b0 s) : Follows b0 (s.readList fn l).1 := by
  induction l generalizing s with
  | nil => exact hb0
  | cons o l ih => exact ih (Follows.bar0Read hb0)

theorem Follows.configRead {b0 : State} {s : State} {c : Cmd} (hb0 : Follows b0 s) : Follows b0 (State.configRead s c) := by
  unfold State.configRead
  exact Follows.replyOk (Follows.readList _ hb0)

theorem Follows.maskedWrite {b0 : State} {s : State} {fn : Nat} {e : Nat × Nat × Nat} (hb0 : Follows b0 s) : Follows b0 (State.maskedWrite s fn e) := by
  unfold State.maskedWrite
  try dsimp only
  repeat' first
    | with_reducible assumption
    | with_reducible apply Follows.bar0Write
    | with_reducible refine Follows.ite (fun _ => ?_) (fun _ => ?_)

theorem Follows.configWrite {b0 : State} {s : State} {c : Cmd} (hb0 : Follows b0 s) : Follows b0 (State.configWrite s c) := by
  unfold State.configWrite
  try dsimp only
  repeat' first
    | with_reducible assumption
    | with_reducible apply Follows.maskedWrite
    | with_reducible apply Follows.completeOk
    | with_reducible apply Follows.each
    | with_reducible refine Follows.ite (fun _ => ?_) (fun _ => ?_)
    | intro _

theorem Follows.telemetryRead {b0 : State} {s : State} {c : Cmd} (hb0 : Follows b0 s) : Follows b0 (State.telemetryRead s c) := by
  unfold State.telemetryRead
  try dsimp only
  repeat' first
    | with_reducible assumption
    | with_reducible apply Follows.replyOk
    | with_reducible refine Follows.ite (fun _ => ?_) (fun _ => ?_)
    | split

theorem Follows.claim {b0 : State} {s : State} {c : Cmd} (hb0 : Follows b0 s) : Follows b0 (State.claim s c) := by
  unfold State.claim
  try dsimp only
  repeat' first
    | with_reducible assumption
    | with_reducible apply Follows.cmdMap
    | with_reducible apply Follows.refuse
    | with_reducible apply Follows.completeOk
    | with_reducible apply Follows.wr
    | with_reducible refine Follows.hostMap ?_ (fun _ => ⟨rfl, rfl⟩)
    | with_reducible apply Follows.hostMap
    | with_reducible refine Follows.ite (fun _ => ?_) (fun _ => ?_)
    | (intro _; simp only [updFirst_length, updAll_length, updAt_length, List.length_map, List.length_replicate, List.length_range, and_self])
    | with_reducible exact ⟨rfl, rfl, rfl⟩
    | with_reducible exact ⟨rfl, rfl⟩
    | with_reducible rfl
    | with_reducible exact Nat.le_refl _
    | intro _
    | split

theorem Follows.release {b0 : State} {s : State} {c : Cmd} (hb0 : Follows b0 s) : Follows b0 (State.release s c) := by
  unfold State.release
  try dsimp only
  repeat' first
    | with_reducible assumption
    | with_reducible apply Follows.endOwnership
    | with_reducible apply Follows.completeOk
    | with_reducible apply Follows.when
    | with_reducible refine Follows.ite (fun _ => ?_) (fun _ => ?_)
    | intro _

theorem Follows.handover {b0 : State} {s : State} {c : Cmd} (hb0 : Follows b0 s) : Follows b0 (State.handover s c) := by
  unfold State.handover
  try dsimp only
  repeat' first
    | with_reducible assumption
    | with_reducible apply Follows.endOwnership
    | with_reducible apply Follows.completeOk
    | with_reducible refine Follows.hostMap ?_ (fun _ => ⟨rfl, rfl⟩)
    | with_reducible apply Follows.hostMap
    | with_reducible apply Follows.when
    | with_reducible refine Follows.ite (fun _ => ?_) (fun _ => ?_)
    | (intro _; simp only [updFirst_length, updAll_length, updAt_length, List.length_map, List.length_replicate, List.length_range, and_self])
    | with_reducible exact ⟨rfl, rfl, rfl⟩
    | with_reducible exact ⟨rfl, rfl⟩
    | with_reducible rfl
    | with_reducible exact Nat.le_refl _
    | intro _

theorem Follows.search {b0 : State} {s : State} {c : Cmd} (hb0 : Follows b0 s) : Follows b0 (State.search s c) := by
  unfold State.search
  try dsimp only
  repeat' first
    | with_reducible assumption
    | with_reducible apply Follows.cmdMap
    | with_reducible apply Follows.fanOut
    | with_reducible apply Follows.ev
    | with_reducible apply Follows.bump
    | with_reducible apply Follows.when
    | with_reducible refine Follows.ite (fun _ => ?_) (fun _ => ?_)
    | intro _
    | split

theorem Follows.settle {b0 : State} {s : State} {c : Cmd} (hb0 : Follows b0 s) : Follows b0 (State.settle s c) := by
  unfold State.settle
  try dsimp only
  repeat' first
    | with_reducible assumption
    | with_reducible apply Follows.weaveSettle
    | with_reducible apply Follows.settleBegin
    | with_reducible refine Follows.ite (fun _ => ?_) (fun _ => ?_)
    | split

theorem Follows.shelfCreate {b0 : State} {s : State} {c : Cmd} (hb0 : Follows b0 s) : Follows b0 (State.shelfCreate s c) := by
  unfold State.shelfCreate
  try dsimp only
  repeat' first
    | with_reducible assumption
    | with_reducible apply Follows.refuse
    | with_reducible refine Follows.makeShelf (by with_reducible assumption) ?_
    | with_reducible apply Follows.cmdMap
    | with_reducible apply Follows.spread
    | with_reducible apply Follows.completeOk
    | with_reducible refine Follows.ite (fun _ => ?_) (fun _ => ?_)
    | intro _
    | split

theorem Follows.shelfDrop {b0 : State} {s : State} {c : Cmd} (hb0 : Follows b0 s) : Follows b0 (State.shelfDrop s c) := by
  unfold State.shelfDrop
  try dsimp only
  repeat' first
    | with_reducible assumption
    | with_reducible apply Follows.dropShelf
    | with_reducible apply Follows.notice
    | with_reducible apply Follows.cmdMap
    | with_reducible apply Follows.spread
    | with_reducible apply Follows.completeOk
    | with_reducible apply Follows.each
    | with_reducible refine Follows.ite (fun _ => ?_) (fun _ => ?_)
    | intro _
    | split

theorem Follows.shelfGrant {b0 : State} {s : State} {c : Cmd} (hb0 : Follows b0 s) : Follows b0 (State.shelfGrant s c) := by
  unfold State.shelfGrant
  try dsimp only
  repeat' first
    | with_reducible assumption
    | with_reducible apply Follows.grantShelf
    | with_reducible apply Follows.notice
    | with_reducible apply Follows.completeOk
    | with_reducible apply Follows.when
    | with_reducible refine Follows.ite (fun _ => ?_) (fun _ => ?_)
    | intro _

theorem Follows.measureConfig {b0 : State} {s : State} {c : Cmd} (hb0 : Follows b0 s) : Follows b0 (State.measureConfig s c) := by
  unfold State.measureConfig
  try dsimp only
  repeat' first
    | with_reducible assumption
    | with_reducible apply Follows.cmdMap
    | with_reducible refine Follows.weaveMap ?_ (fun _ => rfl)
    | with_reducible apply Follows.weaveMap
    | with_reducible apply Follows.when
    | with_reducible refine Follows.ite (fun _ => ?_) (fun _ => ?_)
    | (intro _; simp only [updFirst_length, updAll_length, updAt_length, List.length_map, List.length_replicate, List.length_range, and_self])
    | with_reducible exact ⟨rfl, rfl, rfl⟩
    | with_reducible exact ⟨rfl, rfl⟩
    | with_reducible rfl
    | with_reducible exact Nat.le_refl _
    | intro _

theorem Follows.fwAsk {b0 : State} {s : State} {c : Cmd} (hb0 : Follows b0 s) : Follows b0 (State.fwAsk s c) := by
  unfold State.fwAsk
  try dsimp only
  repeat' first
    | with_reducible assumption
    | with_reducible apply Follows.replyOk
    | with_reducible refine Follows.ite (fun _ => ?_) (fun _ => ?_)

theorem Follows.flushPosted {b0 : State} {s : State} {fn : Nat} {q : Nat} (hb0 : Follows b0 s) : Follows b0 (State.flushPosted s fn q) := by
  unfold State.flushPosted
  try dsimp only
  repeat' first
    | with_reducible assumption
    | with_reducible apply Follows.unreserve
    | with_reducible apply Follows.sbqMap
    | with_reducible apply Follows.wrw
    | with_reducible apply Follows.ev
    | with_reducible apply Follows.inc
    | with_reducible apply Follows.when
    | with_reducible refine Follows.ite (fun _ => ?_) (fun _ => ?_)
    | intro _
    | split

theorem Follows.abortRound {b0 : State} {s : State} {cid : Nat} (hb0 : Follows b0 s) : Follows b0 (State.abortRound s cid) := by
  unfold State.abortRound
  try dsimp only
  repeat' first
    | with_reducible assumption
    | with_reducible apply Follows.prepare
    | with_reducible apply Follows.decideTent
    | with_reducible apply Follows.sendCommit
    | with_reducible apply Follows.endOp
    | with_reducible apply Follows.when
    | with_reducible apply Follows.each
    | with_reducible refine Follows.ite (fun _ => ?_) (fun _ => ?_)
    | intro _

theorem Follows.flushOne {b0 : State} {s : State} {c : Cmd} (hb0 : Follows b0 s) : Follows b0 (State.flushOne s c) := by
  unfold State.flushOne
  try dsimp only
  repeat' first
    | with_reducible assumption
    | with_reducible apply Follows.refuse
    | with_reducible apply Follows.abortRound
    | with_reducible apply Follows.withdraw
    | with_reducible refine Follows.weaveMap ?_ (fun _ => rfl)
    | with_reducible apply Follows.weaveMap
    | with_reducible refine Follows.ite (fun _ => ?_) (fun _ => ?_)
    | (intro _; simp only [updFirst_length, updAll_length, updAt_length, List.length_map, List.length_replicate, List.length_range, and_self])
    | with_reducible exact ⟨rfl, rfl, rfl⟩
    | with_reducible exact ⟨rfl, rfl⟩
    | with_reducible rfl
    | with_reducible exact Nat.le_refl _
    | intro _
    | split

theorem Follows.flushQueue {b0 : State} {s : State} {c : Cmd} (hb0 : Follows b0 s) : Follows b0 (State.flushQueue s c) := by
  unfold State.flushQueue
  try dsimp only
  repeat' first
    | with_reducible assumption
    | with_reducible apply Follows.flushPosted
    | with_reducible apply Follows.flushOne
    | with_reducible apply Follows.completeOk
    | with_reducible apply Follows.when
    | with_reducible apply Follows.each
    | with_reducible refine Follows.ite (fun _ => ?_) (fun _ => ?_)
    | intro _
    | split

theorem Follows.mapBit {b0 : State} {s : State} {kind : Nat} {i : Nat} {out : Bool} (hb0 : Follows b0 s) : Follows b0 (State.mapBit s kind i out) := by
  unfold State.mapBit
  try dsimp only
  repeat' first
    | with_reducible assumption
    | with_reducible apply Follows.writeSwpMapout
    | with_reducible apply Follows.writeGdmMapout
    | with_reducible apply Follows.wr
    | with_reducible refine Follows.ite (fun _ => ?_) (fun _ => ?_)
    | intro _
    | split

theorem Follows.mapUnit {b0 : State} {s : State} {c : Cmd} {out : Bool} (hb0 : Follows b0 s) : Follows b0 (State.mapUnit s c out) := by
  unfold State.mapUnit
  try dsimp only
  repeat' first
    | with_reducible assumption
    | with_reducible apply Follows.refuse
    | with_reducible apply Follows.channelMap
    | with_reducible apply Follows.mapBit
    | with_reducible apply Follows.cmdMap
    | with_reducible refine Follows.memMap ?_ (fun _ => rfl)
    | with_reducible apply Follows.memMap
    | with_reducible apply Follows.when
    | with_reducible refine Follows.ite (fun _ => ?_) (fun _ => ?_)
    | (intro _; simp only [updFirst_length, updAll_length, updAt_length, List.length_map, List.length_replicate, List.length_range, and_self])
    | with_reducible exact ⟨rfl, rfl, rfl⟩
    | with_reducible exact ⟨rfl, rfl⟩
    | with_reducible rfl
    | with_reducible exact Nat.le_refl _
    | intro _
    | split

end Sys2Proof.Machine
end

