-- ==== Sys2Proof/Laws/FollowsSteps.lean ====
section
/-!
SUPPORT. The operations of Machine/Steps.lean keep what `Follows` says.
-/
namespace Sys2Proof.Machine

theorem Follows.barWrite {b0 : State} {s : State} {fn : Nat} {t : Nat} {f : State → State} (hb0 : Follows b0 s) (hf_f : ∀ t, Follows b0 t → Follows b0 (f t)) : Follows b0 (State.barWrite s fn t f) := by
  unfold State.barWrite
  try dsimp only
  repeat' first
    | with_reducible assumption
    | apply hf_f
    | with_reducible apply Follows.advance
    | with_reducible apply Follows.restWake
    | with_reducible refine Follows.ite (fun _ => ?_) (fun _ => ?_)
    | split

theorem Follows.ringWrite {b0 : State} {s : State} {fn : Nat} {f : State → State} (hb0 : Follows b0 s) (hf_f : ∀ t, Follows b0 t → Follows b0 (f t)) : Follows b0 (State.ringWrite s fn f) := by
  unfold State.ringWrite
  try dsimp only
  repeat' first
    | with_reducible assumption
    | apply hf_f
    | with_reducible apply Follows.restWake
    | with_reducible refine Follows.ite (fun _ => ?_) (fun _ => ?_)
    | split

theorem Follows.unmaskWrite {b0 : State} {s : State} {fn : Nat} {vector : Option Nat} (hb0 : Follows b0 s) : Follows b0 (State.unmaskWrite s fn vector) := by
  unfold State.unmaskWrite
  try dsimp only
  repeat' first
    | with_reducible assumption
    | with_reducible apply Follows.restWake
    | with_reducible apply Follows.msixUnmask
    | with_reducible apply Follows.when
    | with_reducible refine Follows.ite (fun _ => ?_) (fun _ => ?_)
    | split

theorem Follows.fetchPacket {b0 : State} {s : State} {fn : Nat} {q : Nat} {len : Nat} {t : Nat} (hb0 : Follows b0 s) : Follows b0 (State.fetchPacket s fn q len t) := by
  unfold State.fetchPacket
  try dsimp only
  repeat' first
    | with_reducible assumption
    | with_reducible apply Follows.advance
    | with_reducible apply Follows.retryRooms
    | with_reducible apply Follows.packetFetch
    | with_reducible refine Follows.ite (fun _ => ?_) (fun _ => ?_)
    | intro _
    | split

theorem Follows.dataArrive {b0 t0 : State} {s : State} {cid : Nat} {ok : Bool} {data : Bytes} {t : Nat} (e : State.dataArrive s cid ok data t = some t0) (hb0 : Follows b0 s) : Follows b0 t0 := by
  unfold State.dataArrive at e
  try dsimp only at e
  repeat' split at e
  all_goals first | rw [← Option.some.inj e] | cases e
  all_goals repeat' first
    | with_reducible assumption
    | with_reducible apply Follows.advance
    | with_reducible apply Follows.bufferLost
    | with_reducible apply Follows.dataComplete
    | with_reducible apply Follows.weavePrepares
    | with_reducible apply Follows.when
    | with_reducible refine Follows.ite (fun _ => ?_) (fun _ => ?_)
    | intro _
    | split

theorem Follows.ownershipDue {b0 : State} {s : State} {t : Nat} {f : State → Nat → State} (hb0 : Follows b0 s) (hf_f : ∀ t x, Follows b0 t → Follows b0 (f t x)) : Follows b0 (State.ownershipDue s t f) := by
  unfold State.ownershipDue
  try dsimp only
  repeat' first
    | with_reducible assumption
    | apply hf_f
    | with_reducible apply Follows.advance
    | with_reducible refine Follows.ite (fun _ => ?_) (fun _ => ?_)
    | split

theorem Follows.adminRow {b0 : State} {s : State} {cid : Nat} {sub : Nat} {f : State → Cmd → State} (hb0 : Follows b0 s) (hf_f : ∀ t x, Follows b0 t → Follows b0 (f t x)) : Follows b0 (State.adminRow s cid sub f) := by
  unfold State.adminRow
  try dsimp only
  repeat' first
    | with_reducible assumption
    | apply hf_f
    | with_reducible apply Follows.row
    | with_reducible refine Follows.ite (fun _ => ?_) (fun _ => ?_)
    | intro _
    | split

theorem Follows.runDescriptor {b0 : State} {s : State} {header : Bytes} {body : List DWord} {gather : List DWord} (hb0 : Follows b0 s) : Follows b0 (State.runDescriptor s header body gather) := by
  unfold State.runDescriptor
  try dsimp only
  repeat' first
    | with_reducible assumption
    | with_reducible apply Follows.streamStart
    | with_reducible apply Follows.weaveRun
    | with_reducible apply Follows.pwrMap
    | with_reducible apply Follows.when
    | with_reducible refine Follows.ite (fun _ => ?_) (fun _ => ?_)
    | intro _
    | split

theorem Follows.slabEnd {b0 : State} {s : State} {op : SlabOp} {slot : Nat} {t : Nat} (hb0 : Follows b0 s) : Follows b0 (State.slabEnd s op slot t) := by
  unfold State.slabEnd
  try dsimp only
  repeat' first
    | with_reducible assumption
    | with_reducible apply Follows.advance
    | with_reducible apply Follows.slabCommit
    | with_reducible apply Follows.retryCommits
    | with_reducible apply Follows.weaveLanded
    | with_reducible apply Follows.weavePrepares
    | with_reducible refine Follows.ite (fun _ => ?_) (fun _ => ?_)
    | split

theorem Follows.granuleReturn {b0 : State} {s : State} {system : Bool} {rid : Nat} {crc : Nat} {ecc : Nat} {t : Nat} (hb0 : Follows b0 s) : Follows b0 (State.granuleReturn s system rid crc ecc t) := by
  unfold State.granuleReturn
  try dsimp only
  repeat' first
    | with_reducible assumption
    | with_reducible apply Follows.systemReturn
    | with_reducible apply Follows.readReturn
    | with_reducible apply Follows.retryCommits
    | with_reducible apply Follows.weavePrepares
    | with_reducible apply Follows.weaveRun
    | with_reducible refine Follows.ite (fun _ => ?_) (fun _ => ?_)
    | split

theorem Follows.trainingEnd {b0 : State} {s : State} {i : Nat} {r : Trained} {t : Nat} (hb0 : Follows b0 s) : Follows b0 (State.trainingEnd s i r t) := by
  unfold State.trainingEnd
  try dsimp only
  repeat' first
    | with_reducible assumption
    | with_reducible apply Follows.strandTrained
    | with_reducible apply Follows.resend
    | with_reducible apply Follows.askRejoin
    | with_reducible apply Follows.when
    | with_reducible refine Follows.ite (fun _ => ?_) (fun _ => ?_)
    | intro _

theorem Follows.restMsg {b0 : State} {s : State} {i : Nat} (hb0 : Follows b0 s) : Follows b0 (State.restMsg s i) := by
  unfold State.restMsg
  try dsimp only
  repeat' first
    | with_reducible assumption
    | with_reducible apply Follows.withMsgIf
    | with_reducible apply Follows.onRest
    | with_reducible refine Follows.ite (fun _ => ?_) (fun _ => ?_)

theorem Follows.pinWrite {b0 : State} {s : State} {src : PinSrc} {fn : Nat} {f : State → State} (hb0 : Follows b0 s) (hf_f : ∀ t, Follows b0 t → Follows b0 (f t)) : Follows b0 (State.pinWrite s src fn f) := by
  unfold State.pinWrite
  try dsimp only
  repeat' first
    | with_reducible assumption
    | apply hf_f
    | with_reducible apply Follows.restWake
    | with_reducible apply Follows.nonOwner
    | with_reducible refine Follows.ite (fun _ => ?_) (fun _ => ?_)
    | intro _
    | split

theorem Follows.pinSamples {b0 : State} {s : State} {mask : Nat} {levels : Nat} {n : Nat} (hb0 : Follows b0 s) : Follows b0 (State.pinSamples s mask levels n) := by
  unfold State.pinSamples
  try dsimp only
  repeat' first
    | with_reducible assumption
    | with_reducible apply Follows.pmRun
    | with_reducible apply Follows.restWake
    | with_reducible apply Follows.when
    | with_reducible refine Follows.ite (fun _ => ?_) (fun _ => ?_)
    | with_reducible refine Follows.ofFst ?_ (by with_reducible assumption)
    | split

theorem Follows.xipWrite {b0 : State} {s : State} (hb0 : Follows b0 s) : Follows b0 (State.xipWrite s) := by
  unfold State.xipWrite
  try dsimp only
  repeat' first
    | with_reducible assumption
    | with_reducible apply Follows.ev
    | with_reducible apply Follows.emit
    | with_reducible refine Follows.ite (fun _ => ?_) (fun _ => ?_)
    | split

theorem Follows.unknownCommand {b0 t0 : State} {s : State} {code : Nat} {body : Bytes} {crc : Byte} {t : Nat} (e : State.unknownCommand s code body crc t = some t0) (hb0 : Follows b0 s) : Follows b0 t0 := by
  unfold State.unknownCommand at e
  try dsimp only at e
  repeat' split at e
  all_goals first | rw [← Option.some.inj e] | cases e
  all_goals repeat' first
    | with_reducible assumption
    | with_reducible apply Follows.spsFrame
    | with_reducible refine Follows.ite (fun _ => ?_) (fun _ => ?_)
    | split

end Sys2Proof.Machine
end

