-- ==== Sys2Proof/Tests/Slice0.lean ====
section
/-!
SUPPORT. The tests: ill-formed commands, worked examples of the spec, and for each obligation the states and operands that meet its hypotheses.
-/
namespace Sys2Proof.Tests
open Sys2Proof Sys2Proof.Machine Sys2Proof.Claims

/-! ## Ill-formed commands are refused -/

theorem test_wf_header : (Instr.streamStart [] [] []).wf = false := by decide
theorem test_wf_packet : (Instr.packetReadComplete 0 0 true (zeros 63) 0).wf = false ∧ (Instr.packetReadComplete 0 0 false (zeros 64) 0).wf = false := by decide
theorem test_wf_operands : (Instr.operandReadComplete 1 false [0] [] 0).wf = false := by decide
theorem test_wf_data : (Instr.insertDataComplete 1 false [0] 0).wf = false := by decide
theorem test_wf_retrain : (Instr.linkRetrain 0 3 4 true).wf = false ∧ (Instr.linkRetrain 0 16 7 true).wf = false := by decide
theorem test_wf_sample : (Instr.gaugeSample 0 0 false 0 0 0 0 0 0 0 0 [] 0).wf = false := by decide
theorem test_wf_code : (Instr.spsUnknownCommand 0x20 [] 0 0).wf = false ∧ (Instr.spsUnknownCommand 0x04 [] 0 0).wf = true := by decide

/-! ## The check states -/

/-- A chip that plays in its first measure. -/
def playing : State := { State.reset with
  clk := { clockReset with ready := true, started := true, predicted := 10000000 }
  pwr := { powerReset with aux := true, auxMv := 3300, mgc := true, mode := .playing, coreOn := true, switchOn := true, pwrEn := true, busMv := 54000 } }

/-- Function 0 enabled, bus mastering on. -/
def fn0 : Fn := ⟨0, true, true, false, true, false, [], [], [], controlReset, false⟩

/-- The playing chip with its first port up and function 0 enabled. -/
def hosted : State := { playing with
  host := { hostReset with fns := (List.range 65).map (fun i => if i = 0 then fn0 else fnNil i), ports := [⟨false, true, 16, 6, true, false⟩, portReset] } }

/-- That chip owned by function 0. -/
def owned : State := (hosted.wr ownStateState 0 1).wr ownStateOwner 0 0

/-- A command of function 0 that has passed intake. -/
def cmdOf (op : Nat) (param : Bytes) : Cmd := { innerCmd 1 op 0x500 0 0 param with cls := 1 }

/-- The hosted chip with one command. -/
def withCmd (s : State) (c : Cmd) : State := { s with host := { s.host with cmds := [c], nextCid := 2 } }

/-- A shelf of 64-bit codes of function 0. -/
def shelf : Shelf := { shelfOfParam 0x500 0 (zeros 64) with gen := 1, sweepWidth := 2, capacity := 1, slabs := [] }

/-- A chip with that shelf. -/
def withShelf (s : State) (h : Shelf) : State := { s with store := { s.store with shelves := [h] } }

/-- A chip whose power differs. -/
def powered (f : Power → Power) : State := { playing with pwr := f playing.pwr }

/-- A chip whose clock differs. -/
def clocked (s : State) (f : Clock → Clock) : State := { s with clk := f s.clk }

/-! ## Witnesses: the block, the pins, the module -/

theorem witness_steps : State.reset.sound = true ∧ (∃ t, step { State.reset with pending := [.eject] } = .next t) :=
  ⟨by decide, _, rfl⟩

theorem witness_absent : State.reset.cmd? 1 = none ∧ (∀ m ∈ (State.reset.strand 3).inbox, msgType m ≠ 1) := by decide

theorem witness_pins : mayPins playing .mgc 0 = true ∧ mayPins playing .conductors 0 = true ∧ mayPins owned .host 0 = true ∧
    playing.sound = true ∧ playing.pwr.pins.lockSeq.length = 3 ∧ playing.rd gpioLockedPins < 2 ^ 24 ∧
    playing.pwr.pins.lockSeq[lockPlace .mgc]? = some (0, 0) := by decide

theorem witness_patterns : playing.pwr.aux = true ∧ playing.rd gpioPmCtrlEn 1 = 0 ∧
    (playing.wr gpioPmCtrlEn 2 1).rd gpioPmCtrlEn 2 ≠ 0 ∧ (playing.wr gpioPmCtrlEn 2 1).rd gpioPmCtrlMode 2 = 0 := by decide

set_option maxRecDepth 20000 in
theorem witness_tray : (playing.advance 0).pwr.aux = true ∧ (playing.advance 0).pwr.mgc = true ∧
    (field ([1, 0, 0, 0, 0] : Bytes) 0 1 = 1 ∧ field ([1, 0, 0, 0, 0] : Bytes) 1 4 + 256 ≤ 2 ^ 24) ∧ (0 : Byte) ≠ spsCrc 0x01 [] ∧
    (Instr.spsUnknownCommand 0x04 [] 0 0).wf = true := by decide

/-- A firmware session on bank B with room for chunks. -/
def inSession : State := powered (fun p => { p with session := some ⟨2, 1024, [(0, [1])], [0], 0, 0⟩ })

set_option maxRecDepth 20000 in
theorem witness_sessions : (spsTaken playing 0).pwr.session = none ∧ (spsTaken playing 0).pwr.fwWrite = none ∧
    field ([64, 0, 0, 0] : Bytes) 0 4 = 64 ∧
    (∃ x, (spsTaken inSession 0).pwr.session = some x ∧ x.buffered.length < 2 ∧ field (0 :: 1 :: zeros 258) 0 4 % 256 = 0 ∧
      field (0 :: 1 :: zeros 258) 0 4 + 256 ≤ x.length ∧ x.written.all (fun c => c.1 != field (0 :: 1 :: zeros 258) 0 4) = true) :=
  ⟨by decide, by decide, by decide, ⟨2, 1024, [(0, [1])], [0], 0, 0⟩, by decide⟩

theorem witness_rearm :
    (let u := spsTaken (clocked (powered (fun p => { p with efuse := ⟨true, false, [0]⟩ })) (fun k => { k with now := 10 ^ 12 })) 0
     u.pwr.efuse.tripped = true ∧ u.pwr.efuse.locked = false ∧ (∀ a ∈ u.pwr.efuse.trips, a + ns 1000000000 ≤ u.clk.now)) ∧
    (let u := spsTaken (powered (fun p => { p with efuse := ⟨true, true, []⟩ })) 0
     u.pwr.efuse.tripped = true ∧ u.pwr.efuse.locked = true) := by decide

/-- That session with its chunk being programmed. -/
def programming : State := { inSession with pwr := { inSession.pwr with spm := { inSession.pwr.spm with op := some ⟨false, bankBase 2, 256, false, 0⟩ } } }

theorem witness_chunk : (∃ x o, programming.pwr.session = some x ∧ programming.pwr.spm.op = some o ∧ x.buffered = [0] ∧ o.erase = false ∧
      o.suspended = false ∧ o.addr = bankBase x.bank + 0 ∧ x.written.find? (fun c => c.1 == 0) = some (0, [1])) ∧
    ¬ ((0 : Nat) + ns 600000000000 ≤ programming.clk.now) ∧ ([] : Bytes).length < 4 + field [] 1 2 :=
  ⟨⟨⟨2, 1024, [(0, [1])], [0], 0, 0⟩, ⟨false, bankBase 2, 256, false, 0⟩, by decide⟩, by decide, by decide⟩

/-- Flash states: an operation elsewhere, a suspended one, and the write enable latch set. -/
def flashing (f : Spm → Spm) : State := powered (fun p => { p with spm := f p.spm, boot := { p.boot with coldOk := true } })

theorem witness_flash : playing.pwr.mgc = true ∧ 0 ∉ (flashing id).pwr.spm.lines ∧ (flashing id).pwr.spm.op = none ∧
    0 ∈ (flashing (fun m => { m with lines := [0] })).pwr.spm.lines ∧
    (flashing (fun m => { m with op := some ⟨true, 0, 65536, false, 0⟩ })).onBusyBlock 0 = true ∧
    (flashing (fun m => { m with op := some ⟨true, 0x2000000, 65536, false, 0⟩ })).onBusyBlock 0 = false ∧
    (clocked (flashing (fun m => { m with op := some ⟨true, 0x2000000, 65536, true, 1⟩ })) (fun k => { k with now := ns 2000 })).pwr.spm.lastRead + ns 2000 ≤
      (clocked (flashing (fun m => { m with op := some ⟨true, 0x2000000, 65536, true, 1⟩ })) (fun k => { k with now := ns 2000 })).clk.now ∧
    (flashing (fun m => { m with wel := true })).pwr.spm.wel = true ∧ 0x02000000 ≤ (0x02000000#32).toNat ∧ playing.pwr.spm.wel = false := by decide

/-- A mailbox request of an opcode and a length. -/
def asked (s : State) (op len : Nat) : State := ((s.wr cndH2dCtrlGo 0 1).wr cndH2dCtrlOpcode 0 op).wr cndH2dCtrlLen 0 len

theorem witness_mailbox : playing.live = true ∧ (asked playing 1 0).mailboxHas 1 = true ∧ (asked playing 2 0).mailboxHas 2 = true ∧
    (asked playing 3 3).mailboxHas 3 = true ∧ (asked playing 3 3).rd errStatusFatal = 0 ∧
    (let s := (asked (clocked playing (fun k => { k with bgOpen := true })) 3 3).wr cndH2dDataWord 1 5
     s.mailboxHas 3 = true ∧ s.rd cndH2dCtrlLen = 3 ∧ s.rd cndH2dDataWord 0 ≤ 2 ∧ 0 < s.rd cndH2dDataWord 1 ∧ s.rd cndH2dDataWord 1 ≤ 1000000 ∧
       s.pwr.mode = .playing ∧ s.clk.bgOpen = true ∧ s.rd cndH2dDataWord 0 = 0 ∧
       (5#32).toNat + (0#32).toNat + (0#32).toNat + (0#32).toNat = s.rd cndH2dDataWord 1 ∧ s.rd cndH2dDataWord 2 % 2 = 0) ∧
    (powered (fun p => { p with mbox := some ⟨1, 0, [7]⟩ })).pwr.mbox = some ⟨1, 0, [7]⟩ := by decide

theorem witness_tap : (powered (fun p => { p with jtag := { p.jtag with trst := false } })).pwr.jtag.trst = false ∧
    playing.pwr.jtag.trst = true := by decide

/-! ## Witnesses: power and resets -/

theorem witness_power_loss : coreWorks (playing.advance 0) ∧ (playing.advance 0).pwr.switchOn = true ∧ (playing.advance 0).pwr.efuse.tripped = false ∧
    playing.sound = true ∧ coreWorks playing ∧ playing.pwr.coreOn = true ∧ (State.reset.advance 0).pwr.switchOn = false ∧
    State.reset.pwr.coreOn = false := by decide

/-- A chip that is off, with every condition for closing the switch met. -/
def closable (f : Power → Power) : State := powered (fun p => f { p with mode := .off, coreOn := false, switchOn := false })

theorem witness_power_back : playing.pwr.ejectOpen = false ∧ playing.pwr.aux = true ∧ mayClose (closable id).pwr ∧
    mayClose { (closable (fun p => { p with ejectOpen := true })).pwr with ejectOpen := false } ∧ mayClose ((closable id).advance 0).pwr ∧
    (State.reset.advance 0).pwr.pwrEn = false ∧
    (let u := (closable (fun p => { p with pwrEn := false, session := some ⟨2, 64, [], [], 0, 0⟩ })).advance 0
     u.pwr.pwrEn = false ∧ u.pwr.fwWait = [] ∧ mayClose { u.pwr with pwrEn := true, waitPwrEn := false, session := none }) ∧
    (let u := (clocked (closable (fun p => { p with mode := .fermata, busGoodFrom := some 0 })) (fun k => { k with now := ns 10000000 })).advance 0
     mayClose { u.pwr with mode := .off } ∧ u.pwr.mode = .fermata ∧ u.pwr.busGoodFrom = some 0 ∧ 0 + ns 10000000 ≤ u.clk.now ∧
       u.pwr.mrstInFermata = false) ∧
    ((closable (fun p => { p with mode := .fermata, busGoodFrom := some 0 })).advance 0).clk.now < 0 + ns 10000000 := by decide

theorem witness_aux : playing.sound = true ∧ (playing.advance 0).pwr.aux = true ∧ (State.reset.advance 0).pwr.aux = false ∧
    (let u := (closable (fun p => { p with mode := .fermata, record := some ⟨1, 0, 0, 0, 0, 0, 0, [], 0, 0⟩ })).advance 0
     u.pwr.mode = .fermata ∧ u.pwr.record = some ⟨1, 0, 0, 0, 0, 0, 0, [], 0, 0⟩) ∧
    (playing.advance 0).pwr.gauge.bleeding = false ∧
    ((powered (fun p => { p with gauge := ⟨48000, 0, true, false, false, false⟩ })).advance 0).pwr.gauge.bleeding = true := by decide

/-- A start of a kind under way. -/
def starting (k : StartKind) (due : Option StartKind) : State := powered (fun p => { p with mode := .starting, kind := k, startDue := due })

theorem witness_starts : (playing.advance 0).pwr.startDue = none ∧ ((starting .mrst (some .mrst)).advance 0).pwr.startDue = some .mrst ∧
    ((starting .porAux (some .porAux)).advance 0).pwr.startDue = some .porAux ∧
    ((starting .porAux none).advance 0).pwr.mode = .starting ∧ ((starting .porAux none).advance 0).pwr.startDue = none ∧
    ((starting .porAux none).advance 0).pwr.kind = .porAux ∧ ((starting .porCore none).advance 0).pwr.kind = .porCore ∧
    ((starting .mrst none).advance 0).pwr.kind = .mrst ∧ ((starting .fermata none).advance 0).pwr.kind = .fermata ∧
    (starting .fermata none).sound = true ∧ playing.pwr.boot.coldOk = false ∧ playing.pwr.boot.coldBad = false ∧
    (powered (fun p => { p with boot := { p.boot with coldBad := true } })).pwr.boot.coldBad = true := by decide

/-- A fatal error at instant 0, with a delay of 1 ms set. -/
def fatalChip : State := (playing.wr errStatusFatal 0 1).wr errCtrlMrstDelay 0 1

theorem witness_resets : coreWorks (playing.advance 0) ∧ (playing.advance 0).store.shelves.all (fun h => !h.dropping) = true ∧
    (fatalChip.advance 0).rd errStatusFatal = 1 ∧ (fatalChip.advance 0).rd errCtrlMrstDelay ≠ 0 ∧
    (fatalChip.advance 0).clk.now < (fatalChip.advance 0).pwr.fatalAt + ns (1000000 * (fatalChip.advance 0).rd errCtrlMrstDelay) ∧
    (let u := (clocked fatalChip (fun k => { k with now := ns 1000000 })).advance 0
     u.pwr.fatalAt + ns (1000000 * u.rd errCtrlMrstDelay) ≤ u.clk.now) ∧ fatalChip.sound = true ∧
    (playing.advance 0).rd errStatusFatal ≠ 1 ∧ ((powered (fun p => { p with mode := .warm })).advance 0).pwr.mode = .warm ∧
    ((powered (fun p => { p with mode := .rest })).advance 0).pwr.mode = .rest ∧ (playing.advance 0).pwr.mode ≠ .rest ∧
    ((powered (fun p => { p with mode := .waking })).advance 0).pwr.mode = .waking ∧
    (playing.wr wvStrandState 63 4).rd wvStrandState 63 = 4 := by decide

theorem witness_fatal : playing.answers = true ∧ playing.rd errStatusFatal = 0 ∧ playing.live = true ∧ fatalChip.live = false ∧
    fatalChip.answers = true ∧ fatalChip.rd errStatusFatal = 1 ∧ State.reset.answers = false ∧ (playing.advance 0).pwr.aux = true := by decide

theorem witness_gauges : (playing.advance 0).pwr.mgc = true ∧ (State.reset.advance 0).pwr.aux = false ∧
    ((powered (fun p => { p with gauge := ⟨48000, 0, false, true, false, false⟩ })).advance 0).pwr.gauge.bled = true ∧
    (playing.advance 0).pwr.gauge.bled = false ∧ playing.pwr.mode = .playing ∧ playing.live = true ∧
    (let s := powered (fun p => { p with trimFrom := 2 ^ 32 - 1024 })
     1024 ≤ (s.measure + 2 ^ 32 - s.pwr.trimFrom) % 2 ^ 32) ∧
    (playing.measure + 2 ^ 32 - playing.pwr.trimFrom) % 2 ^ 32 < 1024 := by decide

/-! ## Witnesses: the host link -/

theorem witness_register_writes : owned.sound = true ∧ owned.hostAccess 0 = true ∧ owned.owner? = some 0 ∧ hosted.owner? ≠ some 0 ∧
    hosted.hostAccess 0 = true ∧ assigned 0x2000 = true ∧ assigned 0x3FFFFC = false ∧
    (let off := 0x200C
     assigned off = true ∧ 0x2000 ≤ off ∧ (off < 0x5800 ∨ 0x5880 ≤ off) ∧ (off < 0x32000 ∨ 0x34000 ≤ off) ∧ off ∉ specialWords ∧
       (∀ p ∈ fieldsAt off, p.1.win = false) ∧ ((fieldsAt off).map (fun p => p.1.lo)).Nodup ∧ fieldsAt off ≠ []) := by decide

theorem witness_narrow : hosted.hostAccess 0 = true ∧ (5 : Nat) ≠ 0 ∧ hosted.owner? ≠ some 0 ∧ owned.pwr.mode = .playing ∧
    owned.rd errStatusFatal ≠ 1 ∧ State.reset.hostAccess 0 = false ∧
    (let off := measPeriodTicks.off
     off % 4 = 0 ∧ off ≠ 0x8034 ∧ off ≠ 0x8038 ∧ off ≠ 0x32014 ∧ (off < 0x8300 ∨ 0x8508 ≤ off)) := by decide

/-- Both queues 0 of function 0 on, bound to each other, with 64 flits and 16 records. -/
def queued : State :=
  ((((hosted.wrw hstSbqCtrlEnable 0 0 1).wrw hstSbqCtrlSizeLog2 0 0 6).wrw hstCpqCtrlEnable 0 0 1).wrw hstCpqCtrlSizeLog2 0 0 4).wrw hstSbqStatusIdle 0 0 0

theorem witness_queues : hosted.sound = true ∧ hosted.rdw hstCpqCtrlEnable 0 0 = 0 ∧ hosted.rdw hstSbqCtrlEnable 0 0 = 0 ∧
    queued.rdw hstCpqCtrlEnable 0 0 = 1 ∧ (∃ i < 8, queued.rdw hstSbqCtrlEnable 0 i = 1 ∧ queued.rdw hstSbqCtrlCpq 0 i = 0) ∧
    (let s := hosted.wrw hstCpqCtrlEnable 0 0 1
     s.rdw hstCpqCtrlEnable 0 0 = 1 ∧ ∀ i < 8, s.rdw hstSbqCtrlEnable 0 i = 1 → s.rdw hstSbqCtrlCpq 0 i ≠ 0) ∧
    queued.sound = true ∧ queued.hostAccess 0 = true := by decide

theorem witness_doorbells : let u := (queued.advance 0).restWake
    u.rdw hstSbqCtrlEnable 0 0 = 1 ∧ (5#32).toNat < 2 ^ u.rdw hstSbqCtrlSizeLog2 0 0 ∧
    (u.sbq 0 0).posted - (u.sbq 0 0).fetched + ((5#32).toNat + 64 - (u.sbq 0 0).tail) % 64 < 64 ∧
    u.rdw hstCpqCtrlEnable 0 0 = 1 ∧ ((0#32).toNat + 16 - (u.cpq 0 0).head) % 16 ≤ (u.cpq 0 0).written ∧ 65536 ≤ (65536#32).toNat := by decide

/-- One flit posted, and no record written or reserved. -/
def posted : State := { queued with host := { queued.host with sbqs := [⟨0, 0, 1, 1, 0, [(1, 0)], [], false⟩], cpqs := [⟨0, 0, 0, 0, 0, 0, 0, none⟩] } }

theorem witness_fetch : posted.sound = true ∧ posted.isHead = false ∧ posted.weave.promo = none ∧
    (let u := (posted.advance 0).retryRooms
     u.live = true ∧ 0 ≤ u.clk.now ∧ u.mem.relaying = false ∧ u.rdw hstSbqCtrlEnable 0 0 ≠ 0 ∧ u.rdw hstSbqStatusError 0 0 ≠ 1 ∧
       (u.fn 0).canPost = true ∧ (u.sbq 0 0).fetched + 0 + flitsOf 32 ≤ (u.sbq 0 0).posted ∧
       (∃ b ∈ (u.sbq 0 0).bells, 0 + flitsOf 32 ≤ b.1 ∧ b.2 ≤ u.clk.now) ∧ u.rdw hstCpqCtrlEnable 0 0 ≠ 0 ∧
       (u.cpq 0 0).written + (u.cpq 0 0).reserved + 2 ≤ 2 ^ u.rdw hstCpqCtrlSizeLog2 0 0 ∧ u.intakeUsed + 64 ≤ 67108864 ∧
       u.tagsUsed 0 + ((u.fn 0).reads 0 64).length ≤ u.tagSpace 0 ∧
       (∀ c ∈ u.host.cmds, c.origin = 0 → c.seat = 0 → c.queue = 0 → c.waitsRoom = false)) ∧
    (let s := { posted with host := { posted.host with cpqs := [⟨0, 0, 0, 8, 7, 0, 0, none⟩] } }
     let u := (s.advance 0).retryRooms
     2 ^ u.rdw hstCpqCtrlSizeLog2 0 0 < (u.cpq 0 0).written + (u.cpq 0 0).reserved + 2) := by decide


/-- A PING packet of function 0, 64 bytes with its padding, and the same packet with its CRC. -/
def pingRaw (crc : Nat) : Bytes :=
  [3, 1, 1, 8] ++ leBytes 2 0 ++ leBytes 2 7 ++ leBytes 4 1 ++ leBytes 4 32 ++ zeros 12 ++ leBytes 4 crc ++ zeros 32
def pingBytes : Bytes := pingRaw (packetCrc ((pingRaw 0).take 32))

/-- That packet being read. -/
def reading : State := { posted with host := { posted.host with sbqs := [⟨0, 0, 1, 1, 0, [(1, 0)], [1], false⟩] } }

/-- An FW_STAGE command whose operands, one byte, are being read. -/
def staging : Cmd := { cmdOf 0x40 (zeros 8 ++ leBytes 4 1 ++ leBytes 4 (crc32c [5]) ++ zeros 8) with stage := .operands, opRoom := 64 }

set_option maxRecDepth 20000 in
theorem witness_packets : reading.sound = true ∧
    (let u := (reading.advance 0).retryRooms
     (reading.sbq 0 0).reading = [1] ∧ u.live = true ∧ pingBytes.length = 64 * 1 ∧ flitsOf (headerOf pingBytes).length = 1 ∧
       u.cmd? u.host.nextCid = none ∧ u.owner? ≠ some 0 ∧ (headerOf pingBytes).length = 32 ∧
       packetCrc (pingBytes.take 32) = (headerOf pingBytes).crc ∧ (headerOf pingBytes).version = 3 ∧ (headerOf pingBytes).seat = 0 ∧
       (headerOf pingBytes).opcode = 0x01 ∧ (headerOf pingBytes).cls ≤ 4 ∧ (headerOf pingBytes).flags % 8 = 0 ∧
       (headerOf pingBytes).flags < 16 ∧ (headerOf pingBytes).reserved = 0 ∧ (headerOf pingBytes).shelf = 0 ∧
       (headerOf pingBytes).deadline = 0 ∧ (zeros 63).length ≠ 64 * 1 ∧
       packetCrc ((pingRaw 5).take (headerOf (pingRaw 5)).length) ≠ (headerOf (pingRaw 5)).crc ∧ flitsOf (headerOf (pingRaw 5)).length = 1) ∧
    (let u := ((withCmd hosted staging).advance 0).retryRooms
     u.live = true ∧ u.cmd? 1 = some staging ∧ staging.stage = .operands ∧ staging.opRoom ≠ 0 ∧ staging.opcode ≠ 0x48 ∧ staging.origin = 0 ∧
       staging.quiet = false ∧ ([5] : Bytes).length = (u.reads12 staging).1.2 ∧ ([] : Bytes).length = (u.reads12 staging).2.2 ∧
       staging.crcs12 = (some (crc32c [5]), none) ∧ u.valuesOk { staging with operands := [5] } = true ∧ u.tableSlot = some 0 ∧
       ([] : Bytes).length ≠ (u.reads12 staging).1.2) := by decide

/-- A shelf of two BF16 elements in direct form, and a search of it whose query, an infinity, is being read. -/
def valued : Shelf := { shelf with sweepKind := 3, dim := 2, elemFormat := 2 }
def asksInf : Cmd := { cmdOf 0x10 (zeros 4 ++ [4] ++ zeros 19 ++ leBytes 8 64 ++ leBytes 4 4 ++ leBytes 4 (crc32c [0x80, 0x7F, 0, 0]) ++ zeros 96)
  with stage := .operands, opRoom := 64 }

set_option maxRecDepth 20000 in
theorem witness_values : let u := ((withShelf (withCmd hosted asksInf) valued).advance 0).retryRooms
    let ops : Bytes := [0x80, 0x7F, 0, 0]
    u.live = true ∧ u.cmd? 1 = some asksInf ∧ ops.length = (u.reads12 asksInf).1.2 ∧ ([] : Bytes).length = (u.reads12 asksInf).2.2 ∧
      (u.reads12 asksInf).2.2 = 0 ∧ asksInf.crcs12.1 = some (crc32c ops) ∧ u.valuesOk { asksInf with operands := ops } = false := by decide +kernel

/-- The hosted chip with MSI-X on, and function 0's vectors as given. -/
def interrupting (masked pba : List Nat) : State :=
  { hosted with host := { hosted.host with fns := (List.range 65).map (fun i => if i = 0 then ⟨0, true, true, false, true, false, masked, pba, [], controlReset, false⟩ else fnNil i) } }

theorem witness_interrupts : (interrupting [3] [3]).hostAccess 0 = true ∧ (interrupting [3] [3]).pwr.mode = .playing ∧
    ((interrupting [3] [3]).fn 0).msixEnable = true ∧ ((interrupting [3] [3]).fn 0).fmask = false ∧ ((interrupting [3] [3]).fn 0).bme = true ∧
    ((interrupting [3] [3]).fn 0).pba = [3] ∧ ((interrupting [3] [3]).fn 0).masked = [3] ∧
    (let s := (interrupting [] []).wrw hstCpqCoalTime 0 0 10
     let u := { s with host := { s.host with cpqs := [⟨0, 0, 0, 1, 0, 1, 0, none⟩] } }.advance (ns 1000)
     u.rdw hstCpqCoalTime 0 0 ≠ 0 ∧ 0 < (u.cpq 0 0).pend ∧ (u.cpq 0 0).oldest + ns (100 * u.rdw hstCpqCoalTime 0 0) ≤ u.clk.now ∧
       (u.fn 0).msixEnable = true ∧ (u.fn 0).fmask = false ∧ (u.fn 0).masked = [] ∧ (u.fn 0).canPost = true) ∧
    (let y : Cpq := ⟨0, 0, 0, 1, 0, 1, 0, none⟩
     let s := { interrupting [] [] with host := { (interrupting [] []).host with cpqs := [y] } }
     let u := s.advance s.reserveEnd
     s.live = true ∧ s.clk.started = true ∧ s.clk.bgOpen = false ∧ y.fn = 0 ∧ 0 < y.pend ∧ u.host.cpqs = [y] ∧ (u.fn 0).msixEnable = true ∧
       (u.fn 0).fmask = false ∧ (u.fn 0).masked = [] ∧ (u.fn 0).canPost = true ∧ u.clk.bgOpen = false) := by decide

theorem witness_functions : hosted.sound = true ∧ hosted.answers = true ∧ hosted.linkRuns = true ∧ (∃ f ∈ hosted.host.fns, f.seat = 0) ∧ (hosted.fn 0).bme = true ∧
    (hosted.fn 0).enabled = true ∧ (∃ p, hosted.host.ports[hosted.portOf 0]? = some p ∧ p.up = true) ∧
    (∃ p, hosted.host.ports[0]? = some p ∧ p.perst = false) ∧ playing.sound = true ∧ playing.answers = true ∧
    playing.host.ports[0]? = some portReset ∧ portReset.perst = true :=
  ⟨by decide, by decide, by decide, by decide, by decide, by decide, ⟨⟨false, true, 16, 6, true, false⟩, by decide⟩, ⟨⟨false, true, 16, 6, true, false⟩, by decide⟩, by decide⟩

theorem witness_link_resets : hosted.sound = true ∧ hosted.answers = true ∧ 5 ∉ hosted.pfs ∧ 0 ∈ hosted.pfs ∧
    (hosted.wr hstPortModeSplit 0 1).sound = true ∧ (hosted.wr hstPortModeSplit 0 1).rd hstPortModeSplit = 1 ∧
    hosted.rd hstPortModeSplit = 0 ∧ hosted.pwr.mode = .playing ∧ hosted.rd errStatusFatal = 0 := by decide

/-- Request 1, in its place of a reorder queue or not, and returned or not. -/
def reqOf (far : Bool) (client : Client) (arr : Option Nat) (returned : Bool) : Req :=
  ⟨1, 1, 0, false, far, [client], false, arr, 0, 0, 0, returned, false⟩

/-- A request in flight. -/
def asking (far : Bool) (client : Client) (returned : Bool) : State :=
  { playing with rr := { playing.rr with reqs := [reqOf far client none returned], nextRid := 2 } }

theorem witness_far_slab : ((asking true (.slab 0) false).advance 0).rr.reqs.find? (fun r => r.rid == 1 && r.far && !r.returned) =
    some (reqOf true (.slab 0) none false) ∧ (reqOf true (.slab 0) none false).clients.head? = some (.slab 0) := by decide

theorem witness_far : (asking true (.record 1 0) false).sound = true ∧
    (let u := (asking true (.record 1 0) false).advance (ns 1000000)
     u.rr.reqs.find? (fun r => r.rid == 1 && r.far && !r.returned) = some (reqOf true (.record 1 0) none false) ∧
       u.inForce voiFarLatNs < (u.clk.now - 0) / 768) ∧ (∀ k, Client.record 1 0 ≠ .slab k) ∧
    (playing.advance 0).rr.reqs.find? (fun r => r.rid == 1 && r.far && !r.returned) = none := by
  refine ⟨by decide, by decide, by simp, by decide⟩

/-! ## Witnesses: the command protocol -/

/-- A staged row. -/
def stagedRow : StgEnt :=
  { handle := 1, shelf := 0, id := 5, kill := false, superseded := false, tombWritten := false, settle := false, units := 1, commitMeasure := 0,
    endMeasure := none, order := 0, attr := 0, slab := 0, row := 0, sqNorm := 0, sweep := zeros 8, vec := [], cid := 0, rowGen := 0 }

/-- The owned chip with the shelf of 64 rows, a staged row and one command. -/
def shelved (c : Cmd) : State :=
  let s := withShelf (withCmd owned c) shelf
  { s with store := { s.store with staging := [stagedRow], nextHandle := 2 } }

theorem witness_ping : (withCmd hosted (cmdOf 0x01 [])).sound = true ∧ hostReady (withCmd hosted (cmdOf 0x01 [])) 1 0x01 (cmdOf 0x01 []) ∧
    (withCmd hosted (cmdOf 0x01 [])).host.window.all (fun e => e.cid != 1) = true ∧ ((withCmd hosted (cmdOf 0x01 [])).fn 0).canPost = true ∧
    (withCmd hosted (cmdOf 0x01 [])).rdw hstCpqCtrlIntEn 0 0 = 0 ∧ (withCmd playing (cmdOf 0x01 [])).sound = true ∧
    hostReady (withCmd playing (cmdOf 0x01 [])) 1 0x01 (cmdOf 0x01 []) ∧ ((withCmd playing (cmdOf 0x01 [])).fn 0).canPost = false := by decide

theorem witness_queries : (∀ op ∈ [0x02, 0x30, 0x48, 0x41], hostReady (withCmd hosted (cmdOf op (zeros 32))) 1 op (cmdOf op (zeros 32)) ∧
      ((withCmd hosted (cmdOf op (zeros 32))).fn 0).canPost = true) ∧
    (let c := cmdOf 0x58 (7#8 :: zeros 31)
     let s := withCmd hosted c
     hostReady s 1 0x58 c ∧ field c.param 0 1 = 7 ∧ 16 * s.weave.map.length ≤ bufLen c.param 8 ∧
       bufLen c.param 8 < 16 * { s.weave with map := [⟨1, 0, 0xFFFF, 0, 0, 0⟩] }.map.length) := by decide

theorem witness_ownership :
    (let c := cmdOf 0x04 (zeros 16)
     (withCmd hosted c).sound = true ∧ hostReady (withCmd hosted c) 1 0x04 c ∧ (withCmd hosted c).inWeave = false ∧
       (withCmd hosted c).rd ownStateState = 0 ∧ (withCmd hosted c).claimOk 0 = true ∧
       (withCmd hosted { c with seat := 3 }).claimOk 3 = false ∧ hostReady (withCmd hosted { c with seat := 3 }) 1 0x04 { c with seat := 3 } ∧
       (let s := ((withCmd hosted c).wr ownStateState 0 2).wr ownStateSuccessor 0 9
        s.sound = true ∧ hostReady s 1 0x04 c ∧ s.rd ownStateState = 2 ∧ s.rd ownStateSuccessor ≠ c.seat) ∧
       (let s := ((withCmd hosted c).wr ownStateState 0 1).wr ownStateOwner 0 9
        s.sound = true ∧ hostReady s 1 0x04 c ∧ s.rd ownStateState = 1 ∧ s.rd ownStateOwner ≠ c.seat) ∧
       (withCmd owned c).owner? = some c.seat ∧ hostReady (withCmd owned c) 1 0x04 c) ∧
    (∀ op ∈ [0x05, 0x06], (withCmd owned (cmdOf op (zeros 8))).sound = true ∧ hostReady (withCmd owned (cmdOf op (zeros 8))) 1 op (cmdOf op (zeros 8)) ∧
      (withCmd owned (cmdOf op (zeros 8))).owner? = some 0 ∧ (withCmd owned (cmdOf op (zeros 8))).inWeave = false) := by decide

theorem witness_leases : owned.sound = true ∧ owned.live = true ∧ owned.clk.started = true ∧ owned.clk.predicted ≤ 10000000 + ns 2000 ∧
    (let u := owned.advance 10000000
     u.rd ownStateState = 1 ∧ u.rd ownLeaseLeftMeasures = 0) ∧
    (let s := (hosted.wr ownStateState 0 2).wr ownStateSuccessor 0 9
     let s := { s with host := { s.host with offerAt := 2 ^ 32 - 20 } }
     let u := s.advance 10000000
     u.rd ownStateState = 2 ∧ 17 ≤ (s.nextNumber + 2 ^ 32 - u.host.offerAt) % 2 ^ 32 ∧ (∀ x ∈ u.host.claims, x.seat ≠ u.rd ownStateSuccessor) ∧
       s.sound = true) ∧
    (hosted.advance 10000000).rd ownStateState ≠ 1 ∧ (hosted.advance 10000000).rd ownStateState ≠ 2 ∧ 0 + ns 2000 < playing.clk.predicted := by decide

theorem witness_searches : (∀ op ∈ [0x10, 0x11, 0x18], let c := cmdOf op (zeros 64)
      (shelved c).sound = true ∧ hostReady (shelved c) 1 op c ∧ (shelved c).isHead = false ∧ (shelved c).shelfOf? c.shelf = some shelf ∧ shelf.gen ≠ 0 ∧
        (shelved c).clk.lastDb ≤ c.queuedAt) ∧
    (let c := { cmdOf 0x10 (zeros 64) with queuedAt := 5, fetchedAt := ns 12000 + 7 }
     let s := clocked (shelved c) (fun k => { k with lastDb := 6, now := ns 12000 + 7 })
     s.sound = true ∧ hostReady s 1 0x10 c ∧ c.queuedAt < s.clk.lastDb ∧ s.clk.lastDb + ns 12000 < c.fetchedAt) ∧
    (let c := cmdOf 0x12 (leBytes 6 5 ++ zeros 26)
     let s := shelved c
     hostReady s 1 0x12 c ∧ s.wshelf? c.shelf = none ∧ s.shelfOf? c.shelf = some shelf ∧ shelf.lost = false ∧ s.rd gdmStatusBelowMin ≠ 1 ∧
       s.pointOpen = true ∧ s.stagedId? 0 (field c.param 0 6) = some stagedRow ∧ (s.fn c.seat).canPost = true ∧
       { s with mem := { s.mem with pointUsed := 1000000000 } }.pointOpen = false ∧ (withCmd hosted c).shelfOf? c.shelf = none) := by decide

theorem witness_later_searches : (let c := { cmdOf 0x10 (zeros 64) with queuedAt := 7 }
     let s := clocked (shelved c) (fun k => { k with lastDb := 6, now := ns 12000 + 7 })
     s.clk.lastDb ≤ c.queuedAt ∧ s.clk.prevDb ≤ c.queuedAt ∧ hostReady s 1 0x10 c ∧ c.deferOk = false) ∧
    (let c := cmdOf 0x12 (leBytes 6 9 ++ zeros 26)
     let s := (shelved c).wr gdmActiveChannels 0 0xFFFFFF
     s.stagedId? 0 (field c.param 0 6) = none ∧ s.probe shelf.handle (field c.param 0 6) ≠ [] ∧ s.pointOpen = true ∧ hostReady s 1 0x12 c) := by decide

/-- A batch of one record of identifier 9, for the shelf of 64-bit codes. -/
def oneRecord : Bytes := leBytes 8 9 ++ zeros (shelf.dataRec - 8)

/-- A mutation of one record: its data's length and CRC, and no notice. -/
def mutating (op crc : Nat) (stage : Stage) : Cmd :=
  { cmdOf op (leBytes 4 1 ++ leBytes 4 crc ++ leBytes 8 (if op = 0x21 then 9 else 0x1000) ++ leBytes 4 shelf.dataRec ++ zeros 12) with stage := stage }

set_option maxRecDepth 20000 in
theorem witness_mutations :
    (∀ op ∈ [0x20, 0x22], let c := mutating op 0 .ready
      (shelved c).sound = true ∧ (shelved c).isHead = false ∧ (shelved c).live = true ∧ (shelved c).cmd? 1 = some c ∧ c.origin = 0 ∧ c.quiet = false ∧
        (shelved c).mutationShelf c = .ok shelf ∧ (shelved c).neverFits ((shelved c).needs c) = false ∧
        (withCmd owned c).mutationShelf c = .error stNoShelf) ∧
    (let c := mutating 0x21 0 .ready
     let s := shelved c
     s.mutationShelf c = .ok shelf ∧ s.neverFits (s.needs c) = false ∧ s.roomFor 0 (s.needs c).2 = true ∧ s.waitOrder = [] ∧
       (s.cmdMap 1 (fun x => { x with reserved := s.needs c, stage := .waitGrant })).otherwiseFree c = true ∧
       (c.records shelf).any (fun r => s.heldBySlab shelf.index r.id) = false ∧ s.overCapacity shelf (c.records shelf) = false) ∧
    (let c := mutating 0x22 0 .waitGrant
     let s := shelved c
     s.servable false false s.waitOrder = some c ∧ c.opcode ≠ 0x21 ∧ c.noticeAddr = 0 ∧ (s.fn c.seat).canPost = true ∧
       s.mutationShelf c = .ok shelf) := by decide

/-- A mutation whose data is being read. -/
def granting (op : Nat) : Cmd := mutating op (crc32c oneRecord) .granted

set_option maxRecDepth 20000 in
theorem witness_data : (let s := shelved (granting 0x22)
     let u := s.advance 0
     let rs := (List.range (granting 0x22).batch).map (fun i => (⟨(dataRec shelf oneRecord i).id, some (dataRec shelf oneRecord i)⟩ : Rec))
     u.live = true ∧ u.cmd? 1 = some (granting 0x22) ∧ isMutation 0x22 = true ∧ oneRecord.length = (granting 0x22).dataLen ∧
       crc32c oneRecord = (granting 0x22).dataCrc ∧ u.mutationShelf (granting 0x22) = .ok shelf ∧ u.isHead = false ∧
       recordStatus shelf ((List.range 1).map (dataRec shelf oneRecord)) = stOk ∧ (granting 0x22).batch = 1 ∧
       rs.any (fun r => u.heldBySlab shelf.index r.id) = false ∧ u.overCapacity shelf rs = false ∧ ([] : Bytes).length ≠ (granting 0x22).dataLen ∧
       crc32c oneRecord ≠ (mutating 0x22 1 .granted).dataCrc) ∧
    (let data : Bytes := leBytes 8 5 ++ zeros (shelf.dataRec - 8)
     let c := mutating 0x20 (crc32c data) .granted
     let u := (shelved c).advance 0
     let rs := (List.range c.batch).map (fun i => (⟨(dataRec shelf data i).id, some (dataRec shelf data i)⟩ : Rec))
     data.length = c.dataLen ∧ crc32c data = c.dataCrc ∧ u.mutationShelf c = .ok shelf ∧
       recordStatus shelf ((List.range c.batch).map (dataRec shelf data)) = stOk ∧ rs.any (fun r => u.heldBySlab shelf.index r.id) = false ∧
       u.presentId? shelf.index rs = some 5) ∧
    (let u := (shelved (granting 0x20)).advance 0
     let rs := (List.range (granting 0x20).batch).map (fun i => (⟨(dataRec shelf oneRecord i).id, some (dataRec shelf oneRecord i)⟩ : Rec))
     rs.all (fun r => !u.present shelf.index r.id) = true ∧ u.overCapacity shelf rs = false ∧ u.cmd? 1 = some (granting 0x20)) := by decide

theorem witness_staging_wait :
    (let c := { mutating 0x22 0 .waitGrant with intakeAt := 2 ^ 32 - 1000000 }
     let s := { shelved c with store := { (shelved c).store with staging := [{ stagedRow with units := 1572864 }] } }
     s.mutationShelf c = .ok shelf ∧ c.waiting = true ∧ c.reserved = (0, 0) ∧ s.otherwiseFree c = true ∧
       s.servable false false (s.waitOrder.takeWhile (fun d => d.cid != 1) ++ [c]) = none ∧
       s.inForce stgCtrlWaitMeasures ≤ (s.measure + 2 ^ 32 - c.intakeAt) % 2 ^ 32 ∧
       (s.measure + 2 ^ 32 - 0) % 2 ^ 32 < s.inForce stgCtrlWaitMeasures) := by decide

set_option maxRecDepth 20000 in
theorem witness_shelves : let c := cmdOf 0x28 (zeros 48 ++ leBytes 4 1 ++ zeros 12)
    hostReady (withCmd owned c) 1 0x28 c ∧ (withCmd owned c).inWeave = false ∧ (withCmd owned c).shelfOf? c.shelf = none ∧
      (withCmd owned c).wshelf? c.shelf = none ∧ (shelved c).shelfOf? c.shelf = some shelf ∧
      (withCmd owned c).placeShelf (shelfOfParam c.shelf c.seat c.param) = none ∧
      ((withCmd (owned.wr gdmActiveChannels 0 0xFFFFFF) c).placeShelf (shelfOfParam c.shelf c.seat c.param)).isSome = true ∧
      hostReady (withCmd (owned.wr gdmActiveChannels 0 0xFFFFFF) c) 1 0x28 c := by decide

theorem witness_shelf_commands : (∀ op ∈ [0x29, 0x2A, 0x23], hostReady (shelved (cmdOf op (zeros 8))) 1 op (cmdOf op (zeros 8)) ∧
      field (cmdOf op (zeros 8)).param 0 1 ≠ 1 ∧ (shelved (cmdOf op (zeros 8))).store.staging.any (fun e => e.shelf == shelf.index && e.unsettled) = true) ∧
    (let c := cmdOf 0x23 (1#8 :: zeros 7)
     (shelved c).store.staging.any StgEnt.unsettled = true ∧ field c.param 0 1 = 1 ∧ (shelved c).shelfOf? c.shelf = some shelf ∧
       (withShelf (withCmd owned c) shelf).store.staging.all (fun e => !e.unsettled) = true ∧ hostReady (shelved c) 1 0x23 c) := by decide

theorem witness_settings :
    (let c := cmdOf 0x31 (leBytes 8 1 ++ leBytes 4 0x41000 ++ zeros 12)
     hostReady (withCmd owned c) 1 0x31 c ∧ (writeEntries c.param).filter (fun e => e.1 == 0x41000) = [(0x41000, 0, 0)]) ∧
    (∀ e ∈ writeEntries (leBytes 8 1 ++ leBytes 4 0x41010 ++ zeros 12), e.1 ≠ 0x41000) ∧
    (let c := cmdOf 0x38 (zeros 32)
     hostReady (withCmd owned c) 1 0x38 c ∧ (withCmd owned c).isHead = false) ∧
    (let c := cmdOf 0x40 (zeros 32)
     hostReady (withCmd owned c) 1 0x40 c ∧ (withCmd owned c).pwr.session = none ∧ (withCmd owned c).pwr.fwWrite = none ∧
       hostReady (withCmd inSession c) 1 0x40 c ∧ (withCmd inSession c).pwr.session.isSome = true) ∧
    hostReady (withCmd owned (cmdOf 0x31 (zeros 24))) 1 0x31 (cmdOf 0x31 (zeros 24)) := by decide

theorem witness_flush : (let c := cmdOf 0x50 [0, 0]
     hostReady (withCmd owned c) 1 0x50 c ∧ field c.param 1 1 = 0) ∧
    (let c := cmdOf 0x50 [0, 1]
     hostReady (withCmd owned c) 1 0x50 c ∧ field c.param 1 1 = 1) ∧
    (let c := cmdOf 0x50 [0, 2]
     let x := { mutating 0x22 0 .waitGrant with cid := 2 }
     let s := { withCmd owned c with host := { owned.host with cmds := [c, x], nextCid := 3 } }
     hostReady s 1 0x50 c ∧ field c.param 1 1 = 2 ∧
       s.host.cmds.filter (fun x => x.seat == c.seat && x.queue == field c.param 0 1 && x.origin == 0 && x.flushable) = [x]) := by decide

theorem witness_stage_verify :
    (let c := { cmdOf 0x40 (zeros 32) with operands := [1], stage := .timed }
     let s := { owned with host := { owned.host with cmds := [c], nextCid := 2 }, pwr := { owned.pwr with fwWrite := some ⟨1, 2, 2⟩, bankB := ⟨false, [], []⟩ } }
     let u := s.advance 0
     s.live = true ∧ u.cmd? 1 = some c ∧ u.pwr.fwWrite = some ⟨1, 2, 2⟩ ∧ u.pwr.fwWait = [] ∧ stageOp c.operands.length 2 = none ∧
       u.pwr.spm.op = none ∧ u.imageOk (u.bankBytes 2 0 c.operands.length) = false ∧ (stageOp c.operands.length 0).isSome = true) := by decide

theorem witness_units : (let c := cmdOf 0x60 [2, 0, 3, 0]
     (withCmd owned c).sound = true ∧ hostReady (withCmd owned c) 1 0x60 c ∧ field c.param 2 2 = 3 ∧ field c.param 0 1 = 2) ∧
    (withCmd owned (cmdOf 0x60 [0, 0, 3, 0])).rd swpMapoutLoEngines < 2 ^ 32 ∧
    (let c := cmdOf 0x61 [1, 0, 3, 0]
     let s := withCmd owned c
     let s := { s with mem := { s.mem with channels := s.mem.channels.map (fun x => { x with faulted := true }) } }
     s.sound = true ∧ hostReady s 1 0x61 c ∧ field c.param 0 1 = 1 ∧ (s.channel 3).faulted = true) ∧
    (∀ op ∈ [0x60, 0x61], ∀ kind ∈ [0, 2], let c := cmdOf op [kind, 0, 35, 0]
     hostReady (withCmd owned c) 1 op c ∧ field c.param 0 1 = kind.toNat ∧ field c.param 2 2 = 35 ∧ (withCmd owned c).rd swpMapoutHiEngines < 2 ^ 32) ∧
    (∀ op ∈ [0x60, 0x61], let c := cmdOf op [1, 0, 3, 0]
     let s := withCmd owned c
     let s := { s with mem := { s.mem with channels := s.mem.channels.map (fun x => { x with trained := true }) } }
     s.sound = true ∧ hostReady s 1 op c ∧ s.rd gdmMapoutChannels < 2 ^ 24 ∧ (s.channel 3).faulted = false ∧
       12 ≤ (s.wanted (s.rd gdmMapoutChannels ||| 2 ^ 3)).length) := by decide

/-- A head rim with the chip 7 below it on strand 5, whose serial number is given, and a map of its own. -/
def heading (serial : Nat) (map : List MapEnt) (c : Cmd) : State :=
  let s := (((withCmd owned c).wr wvSelfRole 0 1).wr wvStrandState 5 2).wr wvDeputyAddr 0 7
  { s with weave := { s.weave with map := map, strands := updAt 5 (fun x => { x with peerSerial := serial, peerStrand := 6 }) s.weave.strands } }

/-- An ADMIN command with its operands. -/
def adminOf (code : Nat) (rest ops : Bytes) : Cmd := { cmdOf 0x58 (leBytes 4 code ++ rest) with operands := ops }

/-- The serial number of another chip. -/
def otherSerial : Nat := if Config.serial.toNat = 5 then 6 else 5

theorem otherSerial_ne : Config.serial.toNat ≠ otherSerial := by unfold otherSerial; split <;> omega

theorem otherSerial_lt : otherSerial < 256 := by unfold otherSerial; split <;> omega

theorem leNat_leBytes (n v : Nat) : leNat (leBytes n v) = v % 256 ^ n := by
  induction n generalizing v with
  | zero => simp [leBytes, leNat, Nat.mod_one]
  | succ n ih => simp [leBytes, leNat, ih, Nat.pow_succ, Nat.mul_comm (256 ^ n), Nat.mod_mul]

/-- The map of one chip, as the operands of FORM give it. -/
def oneMap : Bytes := leBytes 8 Config.serial.toNat ++ [0, 0, 0xFF, 0xFF, 0, 0xFF, 1, 0]

theorem witness_form : (let c := adminOf 1 (zeros 28) oneMap
      hostReady (withCmd hosted c) 1 0x58 c ∧ field c.param 0 1 = 1 ∧ (withCmd hosted c).store.shelves = [] ∧ (withCmd hosted c).weave.shelves = [] ∧
        c.operands.length % 16 = 0 ∧ (∀ k < c.operands.length / 16, field c.operands (16 * k + 15) 1 = 0)) ∧
    (withCmd hosted (adminOf 1 (zeros 28) oneMap)).mapBad (mapOf oneMap) = false ∧
    (withCmd hosted (adminOf 1 (zeros 28) [])).mapBad (mapOf []) = true := by
  have h : mapOf oneMap = [⟨Config.serial.toNat, 0, 0xFFFF, 0, 0xFF, 1⟩] := by
    have e : field (slice oneMap 0 16) 0 8 = Config.serial.toNat % 256 ^ 8 := leNat_leBytes 8 _
    have f : Config.serial.toNat < 256 ^ 8 := Config.serial.isLt
    show [mapEntOf (slice oneMap 0 16)] = _
    simp only [mapEntOf, e, Nat.mod_eq_of_lt f]
    rfl
  refine ⟨⟨⟨rfl, rfl, rfl, rfl, rfl, rfl, rfl⟩, rfl, rfl, rfl, rfl, by decide⟩, ?_, by decide⟩
  rw [h]
  simp [State.mapBad, hopsIn, hasDup]
  decide

/-- The entry ADMIT adds. -/
def newEntry : Bytes := leBytes 8 otherSerial ++ [7, 0, 0, 0, 6, 0xFF, 2, 0]

theorem twoMap_ok (s : State) {n : Nat} (i : Nat) (h : Config.serial.toNat ≠ n) (up : s.strandUp i = true) (a : (s.strand i).peerSerial = n)
    (b : (s.strand i).peerStrand = 6) (lt : i < 64) :
    s.mapBad [⟨Config.serial.toNat, 0, 0xFFFF, 0, 0xFF, 1⟩, ⟨n, 7, 0, 6, 0xFF, 2⟩] = false := by
  have p : Nat.testBit 1 1 = false := by decide
  have q : Nat.testBit 2 1 = true := by decide
  simp [State.mapBad, hopsIn, hasDup, h, List.filter_cons, p, q]
  exact ⟨i, lt, ⟨up, a⟩, b⟩

theorem witness_admit : let c := adminOf 2 (zeros 4 ++ newEntry) []
    let root : MapEnt := ⟨Config.serial.toNat, 0, 0xFFFF, 0, 0xFF, 1⟩
    let s := heading otherSerial [root] c
    field c.param 0 1 = 2 ∧ field c.param 23 1 = 0 ∧ s.isHead = true ∧ s.mapBad (s.mapNext ++ [mapEntOf (slice c.param 8 16)]) = false := by
  have e : field (slice (adminOf 2 (zeros 4 ++ newEntry) []).param 8 16) 0 8 = otherSerial % 256 ^ 8 := leNat_leBytes 8 _
  have g : mapEntOf (slice (adminOf 2 (zeros 4 ++ newEntry) []).param 8 16) = ⟨otherSerial, 7, 0, 6, 0xFF, 2⟩ := by
    simp only [mapEntOf, e, Nat.mod_eq_of_lt (Nat.lt_trans otherSerial_lt (by decide : 256 < 256 ^ 8))]
    rfl
  refine ⟨rfl, rfl, rfl, ?_⟩
  rw [g]
  exact twoMap_ok _ 5 otherSerial_ne rfl rfl rfl (by decide)

theorem witness_admin :
    (∀ code ∈ [3, 4, 5, 6], let c := { adminOf code (leBytes 28 7) [] with shelf := 0x500 }
     let s := heading 5 [⟨1, 0, 0xFFFF, 0, 0xFF, 1⟩, ⟨5, 7, 0, 6, 0xFF, 2⟩] c
     hostReady s 1 0x58 c ∧ field c.param 0 1 = code ∧ field c.param 4 2 = 7 ∧ s.isHead = true ∧ 7 ≠ s.self ∧
       s.mapNext.any (fun m => m.addr == 7) = true ∧ (s.mapEnt? 7).isSome = true ∧ s.deputyOk = true ∧ s.rd wvDeputyAddr = 7 ∧
       s.wshelf? c.shelf = none ∧
       (let x : WShelf := ⟨shelf, [0, 7], [], 1, false⟩
        { s with weave := { s.weave with shelves := [x] } }.wshelf? c.shelf = some x ∧ x.holders.contains 7 = true) ∧
       hostReady (withCmd hosted c) 1 0x58 c ∧ (withCmd hosted c).isHead = false) := by decide

/-! ## Witnesses: the pass -/

/-- The hosted chip on an external edge source, at a number of missed edges. -/
def edges (missed : Nat) : State :=
  let s := playing.wr measCtrlSource 0 1
  { s with latched := regSet measCtrlSource 0 0 1 s.latched, clk := { s.clk with missed := missed } }

/-- That chip with the source lost, its edges counted. -/
def lostSource : State := clocked (edges 0) (fun k => { k with holdover := true, lastDb := 10 ^ 8, predicted := 10 ^ 9, edgeNow := true, good := 3 })

theorem witness_downbeats : playing.ticking = true ∧ playing.inWeave = false ∧ playing.source ≠ 1 ∧ playing.clk.holdover = false ∧
    playing.clk.sourceGone = false ∧ (edges 0).ticking = true ∧ (edges 0).inWeave = false ∧ (edges 0).source = 1 ∧ (edges 0).inputOn 0 0 = true ∧
    false = (edges 0).edgeFalls ∧ true ≠ (edges 0).edgeFalls ∧ (edges 0).clk.started = true ∧
    (edges 0).clk.predicted ≤ 10000000 + ns 2000 ∧ 10000000 ≤ (edges 0).clk.predicted + ns 2000 ∧ 0 + ns 2000 < (edges 0).clk.predicted ∧
    (edges 0).clk.predicted + ns 2000 < 20000000 ∧ (edges 0).inForce measCtrlSource = 1 ∧
    (edges 0).clk.missed + 1 < 8 ∧ 8 ≤ (edges 7).clk.missed + 1 ∧ lostSource.clk.started = true ∧ lostSource.clk.holdover = true ∧
    lostSource.clk.good < 16 ∧ lostSource.clk.edgeNext = false ∧ nearInstant (10 ^ 9) lostSource.clk.lastDb = false ∧
    nearInstant (10 ^ 9) lostSource.clk.predicted = true ∧ lostSource.source = 1 ∧ lostSource.ticking = true := by decide

theorem witness_beat : playing.sound = true := by decide

/-- A chip whose sweep state differs, in a phase. -/
def swept (c : Cmd) (ph : Phase) (f : Sweep → Sweep) : State :=
  let s := clocked (shelved c) (fun k => { k with phase := ph })
  { s with sweep := f s.sweep }

/-- A search of the first measure, and the chip in its admission window, its engines and channels active. -/
def waiting : Cmd := { cmdOf 0x10 ([1] ++ zeros 1 ++ leBytes 2 1 ++ zeros 60) with stage := .candidate }
def admitting : State :=
  let s := clocked (shelved waiting) (fun k => { k with phase := .admission, now := ns 12000, predicted := ns 1000000 })
  (((s.wr swpActiveLoEngines 0 0xFFFFFFFF).wr gdmActiveChannels 0 0xFFFFFF)).clkMap (fun k => { k with kappa := 256 })

theorem witness_admission : (let s := clocked playing (fun k => { k with phase := .admission })
     s.live = true ∧ s.clk.phase = .admission ∧ s.clk.planFrozen = false ∧ s.inWeave = false ∧ s.isHead = false ∧ s.clk.lastDb + ns 12000 ≤ ns 12000 ∧
       ns 12000 ≤ s.windowEnd ∧ s.host.cmds = [] ∧ s.sweep.plan.ids = []) ∧
    (let s := clocked playing (fun k => { k with phase := .admission, planFrozen := true })
     s.sweep.plan.ids = [] ∧ (∀ f ∈ s.host.fns, s.rdw hstFctrlBeatInt f.seat 0 = 0) ∧ s.clk.bgOpen = false ∧ s.live = true ∧
       ({ s with sweep := { s.sweep with plan := ⟨[1], [], 0, 0, 0, 0, 0⟩ } } : State).sweep.plan.ids ≠ []) := by decide

theorem witness_admitted : let u := admitting.advance (ns 12000)
    admitting.sound = true ∧ admitting.live = true ∧ admitting.clk.phase = .admission ∧ u.unheld = [] ∧ u.candidates = [waiting] ∧
      u.cmd? 1 = some waiting ∧ u.shelfOf? waiting.shelf = some shelf ∧ shelf.dropping = false ∧ waiting.deadline = 0 ∧ shelf.lost = false ∧
      u.rd gdmStatusBelowMin ≠ 1 ∧ u.noAdmission = false ∧ (u.fitting [waiting]).isSome = true ∧ u.overQuota [] waiting.seat = false := by decide +kernel

/-- A search, and a tile of staged rows of its shelf. -/
def seeking : Cmd := { cmdOf 0x10 (zeros 64) with stage := .admitted }
def stagedTile : Tile := ⟨1, 0, 0, 0, true, 0, [1], 1, true, 0, [], none, 0, 3, none, false⟩
def theCopy : Copy := ⟨0, 0, [(0, [0])]⟩

/-- The header of a list descriptor of shelf 0 for a queue, and a figure of one granule. -/
def listHeader (queue words : Nat) : Bytes := [1, BitVec.ofNat 8 queue] ++ zeros 18 ++ leBytes 2 words ++ zeros 10
def oneGranule : List DWord := [0x1000000000000000, 0x2000000000000000, 0x3000000000000000, 0]

/-- A plan of one copy, and the tile in queue 3. -/
def dealing : State :=
  let s := swept seeking .sweep (fun w => { w with plan := ⟨[1], [theCopy], 0, 0, 0, 0, 100⟩, scanDone := true, nextTid := 2 })
  s.sweepMap (fun w => { w with queues := updAt 3 (fun q => { q with todo := [stagedTile] }) w.queues })

theorem witness_streams : let s := swept seeking .sweep id
    s.sound = true ∧ s.clk.phase = .sweep ∧ s.shelfAt? (field (listHeader 3 0) 4 2 % 4096) = some shelf ∧ field (listHeader 3 0) 0 1 = 1 ∧
      figParse [] (field (listHeader 3 0) 20 2) = none ∧ field (listHeader 3 0) 1 1 < 16 ∧ field (listHeader 16 0) 1 1 = 16 ∧
      (figParse oneGranule (field (listHeader 3 0) 20 2)).any (fun f => (figGranules f []).all (shelf.inAreas s.spillBase)) = true ∧
      dealing.holders 0 0 = [0] ∧ (dealing.engine 0).inErst = false ∧ field (0#8 :: (listHeader 3 0).drop 1) 0 1 ≠ 1 ∧
      (s.queue 18).todo = [] ∧
      ((s.sweepMap (fun w => { w with queues := updAt 18 (fun q => { q with todo := [stagedTile] }) w.queues })).queue 18).todo ≠ [] := by decide

set_option maxRecDepth 20000 in
theorem witness_stream_chain : let s := withShelf (swept seeking .sweep id) valued
    s.shelfAt? 0 = some valued ∧ (figParse oneGranule 0).any (fun f => (figGranules f []).all (valued.inAreas s.spillBase) &&
      decide (((figGranules f []).map Int.toNat).headD 0 = 0)) = true ∧ valued.positionAt ((0 * 256 - valued.deepBase) % max valued.recSize 1) = some 0 := by decide

theorem witness_dealing : let s := dealing.wr swpActiveLoEngines 0 1
    s.sound = true ∧ s.clk.phase = .sweep ∧ (s.queue 3).todo = [stagedTile] ∧ s.sweep.plan.copies[0]? = some theCopy ∧ s.sweep.stopped = false ∧
      s.mayDeal shelf stagedTile 0 = true ∧ tileTeam stagedTile theCopy ≠ [] ∧ s.sweep.scanDone = true ∧ (s.queue 3).bad = false ∧
      (∀ p ∈ tileTeam stagedTile theCopy, (s.engine p.1).freeSlot.isSome = true ∧ s.engines.contains p.1 = true ∧ (s.engine p.1).thermal = false ∧
        (s.engine p.1).inErst = false) ∧
      s.shelfAt? stagedTile.shelf = some shelf ∧ stagedTile.staged = true ∧ stagedTile.proj = 0 := by decide

/-- An engine that holds the tile, or computes it. -/
def engaged (computing : Option Nat) (groups : List Nat) : State :=
  swept seeking .sweep (fun w => { w with nextTid := 2, engines := updAt 0 (fun e => { e with slots := [stagedTile], computing := computing, groups := groups, tacet := false }) w.engines })

/-- A run of the search. -/
def theRun : Run :=
  { cid := 1, shelf := 0, kind := 0, col := 0, gen := 1, rows := 1, compared := 0, cands := [], handed := 0, passed := 0, reranked := 0, keysLeft := [], keysWait := []
    final := [], cutTime := false, degraded := false, finished := false, posted := false, lanes := [], ones := [], inputs := 0, voided := false
    absent := false, tiles := [], energy := 0 }

theorem witness_engines : (engaged none []).sound = true ∧ (engaged none []).clk.phase = .sweep ∧ ((engaged none []).engine 0).computing = none ∧
    ((engaged none []).engine 0).slots.find? (fun y => y.slot == 0) = some stagedTile ∧ (engaged none []).shelfAt? 0 = some shelf ∧
    stagedTile.waiting = [] ∧ (engaged none []).bankReady 0 = true ∧ ((engaged (some 1) [0]).engine 0).computing = some 1 ∧
    ((engaged (some 1) [0]).engine 0).slots.find? (fun y => y.tid == 1) = some stagedTile ∧ (engaged (some 1) [0]).sound = true ∧
    (engaged (some 1) [0]).chainOf stagedTile = [] ∧
    ((engaged (some 1) [0]).engine 0).groups.length ≤ 1 ∧ 2 ≤ ((engaged (some 1) [0, 1]).engine 0).groups.length := by decide

/-- A projection's chain of engines 0 and 1, both of which compute their slices of a tile; engine 1 may hold the sums of engine 0. -/
def chainTile (pos : Nat) : Tile := { stagedTile with proj := 1, pos := pos, copy := some 0 }
def chained (recv : Option (Nat × Nat)) : State :=
  swept seeking .sweep (fun w => { w with
    plan := ⟨[1], [⟨0, 1, [(0, [0]), (1, [0])]⟩], 0, 0, 0, 0, 100⟩, nextTid := 2
    engines := updAt 1 (fun e => { e with slots := [chainTile 1], computing := some 1, groups := [0], recv := recv })
      (updAt 0 (fun e => { e with slots := [chainTile 0], computing := some 1, groups := [0] }) w.engines) })

theorem witness_chain : (chained none).sound = true ∧ (chained none).chainOf (chainTile 0) = [0, 1] ∧ ((chained none).engine 0).computing = some (chainTile 0).tid ∧
    ((chained none).engine 0).slots.find? (fun y => y.tid == 1) = some (chainTile 0) ∧ (chainTile 0).pos = 0 ∧ ((chained none).engine 1).recv = none ∧
    (let s := chained (some ((chainTile 1).key, 1))
     s.chainOf (chainTile 1) ≠ [] ∧ (s.engine 1).recv = some ((chainTile 1).key, 1) ∧ (s.chainOf (chainTile 1))[(chainTile 1).pos + 1]? = none ∧
       (s.engine 1).slots.find? (fun y => y.tid == 1) = some (chainTile 1)) := by decide

theorem witness_drains : let p : ClEnt := ⟨⟨3, 0, 0⟩, ⟨true, 1, 0⟩, true, 5⟩
    ∀ kind ∈ [0, 4], let r := { theRun with kind := kind, lanes := [laneNil] }
      let s := swept seeking .sweep (fun w => { w with runs := [r], clusters := updAt 2 (fun c => { c with queue := [⟨1, 0, p⟩] }) w.clusters })
      s.sound = true ∧ (s.sweep.clusters.getD 2 clusterNil).queue = [⟨1, 0, p⟩] ∧ s.cmd? 1 = some seeking ∧ s.run? 1 = some r ∧
        s.shelfAt? r.shelf = some shelf := by decide

theorem witness_protection : playing.sound = true ∧ playing.inWeave = false ∧ playing.answers = true ∧ playing.live = true ∧ playing.clk.phase ≠ .sweep ∧
    (let s := swept seeking .sweep id
     s.sound = true ∧ s.inWeave = false ∧ s.clk.phase = .sweep ∧ s.sweep.codaDone = false ∧ s.sweepDrained = true) ∧
    (let s := swept seeking .sweep (fun w => { w with work := [stagedTile], nextTid := 2 })
     s.sound = true ∧ s.inWeave = false ∧ s.clk.phase = .sweep ∧ s.sweep.codaDone = false ∧ s.sweepDrained = false ∧ s.sweep.work ≠ []) := by decide

theorem witness_pass_end : (let s := swept seeking .sweep id
     let u := s.advance 0
     s.sound = true ∧ u.clk.phase = .sweep ∧ u.sweepDrained = true ∧ u.sweep.codaDone = false) ∧
    (let s := swept seeking .sweep (fun w => { w with plan := ⟨[1], [], 0, 0, 0, 0, 0⟩, runs := [theRun] })
     let u := s.advance 0
     u.clk.phase = .sweep ∧ u.sweepDrained = true ∧ u.sweep.codaDone = false ∧ u.items = [u.item seeking shelf] ∧ (u.item seeking shelf).search = true ∧
       u.run? 1 = some theRun) ∧
    (let s := swept seeking .sweep (fun w => { w with codaDone := true })
     let u := s.advance 0
     s.sound = true ∧ u.inWeave = false ∧ u.clk.phase = .sweep ∧ u.sweep.codaDone = true ∧
       u.rr.reqs.all (fun r => decide (19 < r.sq) || r.returned) = true) ∧
    (∀ ph ∈ [Phase.rerank, .sweep, .tail], let s := swept seeking ph id
     s.sound = true ∧ s.live = true ∧ s.clk.started = true ∧ s.clk.phase = ph) := by decide

/-- A voice of a search, in a state. -/
def voiceOf (ctx cid : Nat) (state : VState) : Voice :=
  { ctx := ctx, cid := cid, state := state, section_ := 1, seat := 0, tag := 0, shelf := 0, candBase := 0, cands := [], passed := 0, querySlot := 0, k := 1
    options := 0, outstanding := 0, acc := accNil, nextCand := 0, nextGranule := 0, readySince := 0, readyAt := 0, plan := [], keysIssued := 0
    issued := 0, consumed := 0, landed := [], gather := [] }

/-- Two voices, one running on unit 0 and one ready. -/
def voicing : State :=
  let s := clocked (swept seeking .rerank id) (fun k => { k with now := 10 ^ 7 })
  { s with rr := { s.rr with
      voices := [voiceOf 0 1 .running, voiceOf 1 2 .ready], units := updAt 0 (fun (u : RUnit) => { u with voice := some 1 }) s.rr.units } }

/-- A slab of one filled row. -/
def oneSlab : Slab := ⟨0, 1, 1, 1, 1, [⟨5, true, false, 0, 0, 1, zeros 32, []⟩]⟩

/-- That chip with a returned read of voice 2, which has one candidate and one fetch planned. -/
def landing (client : Client) (lost : Bool) (st : VState) : State :=
  let y : Cand := ⟨⟨false, 0, 0⟩, ⟨3, 0, 0⟩, false, false, false, false, 0, 0, 0⟩
  let s := withShelf voicing { shelf with slabs := [oneSlab] }
  { s with
    host := { s.host with cmds := [seeking, { seeking with cid := 2 }] }
    sweep := { s.sweep with runs := [{ theRun with cid := 2, cands := [⟨⟨3, 0, 0⟩, ⟨false, 0, 0⟩, false, 0⟩], keysLeft := [0], keysWait := [] }] }
    rr := { s.rr with
      voices := [voiceOf 0 1 .running, { voiceOf 1 2 st with cands := [y], plan := [.record 0 0 0], outstanding := 1 }]
      reqs := [{ reqOf false client (some 0) true with sq := 24, lost := lost }] } }

theorem witness_voices : (playing.advance 0).rr.reqs.find? (fun r => r.rid == 1 && r.returned) = none ∧
    (∀ c ∈ [Client.record 2 0, .spill 2 0, .key 2 0, .codaKey 2 0], ∀ lost ∈ [false, true], ∀ st ∈ [VState.ready, .stopped, .done],
      let u := (landing c lost st).advance 0
      u.rr.reqs.find? (fun r => r.rid == 1 && r.returned) = some { reqOf false c (some 0) true with sq := 24, lost := lost } ∧
        (u.voice? 2).any (fun v => v.state == st && v.plan[0]? == some (.record 0 0 0) && v.cands.length == 1) = true) := by decide

theorem witness_keys : let u := (landing (.key 2 0) false .keying).advance 0
    u.cmd? 2 = some { seeking with cid := 2 } ∧ (u.run? 2).any (fun r => r.cands.length == 1 && r.shelf == 0) = true ∧
      u.shelfAt? 0 = some { shelf with slabs := [oneSlab] } ∧ (({ shelf with slabs := [oneSlab] } : Shelf).row? 0 0).isSome = true := by decide

theorem witness_slice : let u := voicing.advance 0
    let v' : Voice := { (voiceOf 0 1 .running).readyFrom u.clk.now with acc := accNil }
    u.rr.units[0]? = some ⟨some 1, 0, 0, accNil⟩ ∧ u.voice? 1 = some (voiceOf 0 1 .running) ∧
      (u.pickVoice (u.readyVoices ++ [v'])).any (fun p => p.1.cid == 2) = true ∧ 4096 * 640 ≤ u.clk.now - 0 := by decide

/-! ## Witnesses: memory and the store -/

/-- A state whose graphics channels differ. -/
def channelled (s : State) (f : Channel → Channel) : State :=
  { s with mem := { s.mem with channels := s.mem.channels.map (fun c => f { c with trained := true, postponed := List.replicate 16 0 }) } }

/-- The background window is open. -/
def opened (s : State) : State := clocked s (fun k => { k with phase := .tail, bgOpen := true })

/-- A read in flight of a client, in its place of the reorder queue. -/
def read1 (client : Client) : State :=
  { asking false client false with rr := { playing.rr with reqs := [reqOf false client (some 0) false], nextRid := 2, nextArr := 1 } }

theorem witness_granules : (∀ c ∈ [Client.record 1 0, .tile 1 0, .slab 0], let u := (read1 c).advance 0
      (read1 c).sound = true ∧ u.rr.reqs.filter (fun r => r.rid == 1) = [reqOf false c (some 0) false] ∧ u.channelOf 0 < 24 ∧
        (let v := State.fillQueue (u.channelOf 0) 32 u
         v.rr.reqs.find? (fun r => r.rid == 1) = some (reqOf false c (some 0) false) ∧ (v.channel (u.channelOf 0)).faulted = false ∧
           v.mayIssue (u.channelOf 0) (reqOf false c (some 0) false) = true ∧ (v.channel (u.channelOf 0)).bad.contains 0 = false)) ∧
    (reqOf false (.record 1 0) (some 0) false).clients.all Client.lands = true ∧
    ((playing.advance 0).rr.reqs.find? (fun r => r.rid == 1 && !r.returned && !r.far && !r.write)) = none ∧
    ((playing.advance 0).channel (systemCopies (playing.advance 0).active 1).1.1).faulted = false := by decide

/-- Two reads of one granule, of which the first must issue first. -/
theorem witness_granule_order : let s := read1 (.record 1 0)
    let r : Req := { reqOf false (.record 1 1) (some 1) false with rid := 2 }
    let u := { s with rr := { s.rr with reqs := s.rr.reqs ++ [r], nextRid := 3, nextArr := 2 } }.advance 0
    u.rr.reqs.filter (fun r => r.rid == 2) = [r] ∧ (State.fillQueue (u.channelOf 0) 32 u).mayIssue (u.channelOf 0) r = false := by decide

/-- A slab operation that awaits a read of its own. -/
theorem witness_granule_slab : let s := read1 (.slab 0)
    let u := { s with store := { s.store with journal := [⟨0, 1, .trim, 0, 0, 0, 1, 0, 0, 0, 1, 1, 2, 0, [1], 1, 0, []⟩] } }.advance 0
    ((State.fillQueue (u.channelOf 0) 32 u).journal? 0).isSome = true := by decide

set_option maxRecDepth 20000 in
theorem witness_refresh : (let s := channelled (asking false (.record 1 0) false) id
     s.sound = true ∧ (s.channel (s.channelOf 0)).trained = true ∧ (s.channel (s.channelOf 0)).faulted = false ∧
       (s.channel (s.channelOf 0)).postponed.length = 16 ∧
       (∃ b < 16, s.rr.reqs.any (fun r => !r.returned && !r.far && !r.staging && s.channelOf r.granule == s.channelOf 0 &&
          (granuleSlot (hashGranule s.active r.granule).2).1 == b) = true ∧ (s.channel (s.channelOf 0)).postponed.getD b 0 < 8)) ∧
    (let s := channelled playing (fun c => { c with postponed := List.replicate 16 8 })
     (s.channel 3).postponed.getD 2 0 = 8 ∧ s.sound = true) ∧
    (let s := opened (channelled (playing.wr gdmActiveChannels 0 0xFFFFFF) id)
     let u := s.advance 0
     s.sound = true ∧ u.clk.bgOpen = true ∧ u.active.contains 3 = true ∧ (u.channel 3).faulted = false ∧ (u.channel 3).scrubbed + 1 < scrubTotal ∧
       u.retrainDue 3 = false ∧ u.inStep 3 = false ∧ u.groupFree 3 = true ∧
       hashedPerChannel ≤ hashedPerChannel ∧ u.slabOf (swizzle (0 * u.active.length + u.active.idxOf 3)) = none ∧
       (u.channel 3).bad.contains (swizzle (0 * u.active.length + u.active.idxOf 3)) = false) ∧
    (let s := opened (channelled playing (fun c => { c with step := 3 }))
     let u := s.advance 0
     s.sound = true ∧ (u.channel 3).trained = true ∧ u.retrainDue 3 = true ∧ (u.channel 3).stepFails = 0 ∧ (u.channel 3).step < 4 ∧
       u.reorder 3 = [] ∧ u.groupFree 3 = true ∧ u.clk.now + ns 8000 ≤ u.clk.predicted) ∧
    (let u := (opened (channelled playing (fun c => { c with stepEnd := 10 ^ 12 }))).advance 0
     u.inStep 3 = true ∧ u.groupFree 3 = false) ∧
    (let u := (opened (channelled playing (fun c => { c with stepFails := 1, failAt := 7 }))).advance 0
     (u.channel 3).stepFails = 1 ∧ (u.channel 3).failAt ≠ u.measure) ∧ (playing.advance 0).clk.bgOpen = false := by decide

theorem witness_channels : (let s := channelled (playing.wr gdmCtrlAutoMapout 0 1) id
     s.sound = true ∧ s.live = true ∧ (s.channel 3).trained = true ∧ (s.channel 3).faulted = false ∧ s.rd gdmCtrlAutoMapout = 1 ∧
       12 ≤ (s.wanted (s.rd gdmMapoutChannels ||| 2 ^ 3)).length) ∧
    ((channelled playing (fun c => { c with faulted := true })).channel 3).faulted = true ∧
    (let s := { playing with mem := { playing.mem with relaying := true } }
     s.sound = true ∧ (s.advance 0).mem.relaying = true) ∧ (playing.advance 0).mem.relaying = false ∧
    (playing.advance 0).mem.pends.find? (fun p => p.kind == 3 && p.index == 3) = none ∧
    (let c := { cmdOf 0x61 [1, 0, 3, 0] with stage := .timed }
     let s := (withCmd owned c).wr gdmStatusBelowMin 0 1
     let s := { s with mem := { s.mem with pends := [⟨1, 3, 3⟩] } }
     let u := s.advance 0
     s.sound = true ∧ u.mem.pends.find? (fun p => p.kind == 3 && p.index == 3) = some ⟨1, 3, 3⟩ ∧ u.rd gdmStatusBelowMin = 1 ∧ u.cmd? 1 = some c ∧
       c.origin = 0) := by decide

/-- A slab operation on that slab that waits for a number of reads. -/
def operation (op : SlabOp) (reads : Nat) : Journal := ⟨0, 1, op, 0, 0, 0, 1, 0, 0, 0, 1, 1, 2, 0, [1], reads, 0, []⟩

/-- The chip with that slab and that operation in journal slot 0. -/
def slabbed (op : SlabOp) (reads : Nat) : State :=
  let s := shelved seeking
  { s with store := { s.store with shelves := [{ shelf with slabs := [oneSlab] }], journal := [operation op reads] } }

theorem witness_slab_ops : ∀ op ∈ [SlabOp.place, .mark, .move, .trim], let u := (opened (slabbed op 0)).advance 0
    (opened (slabbed op 0)).live = true ∧ u.clk.bgOpen = true ∧ ((slabbed op 0).advance 0).clk.bgOpen = false ∧
      u.journal? 0 = some (operation op 0) ∧ u.shelfAt? 0 = some { shelf with slabs := [oneSlab] } ∧
      (opWrites { shelf with slabs := [oneSlab] } (operation op 0)).any (fun g => (u.channel (u.channelOf g)).faulted) = false ∧
      ({ shelf with slabs := [oneSlab] } : Shelf).slabs[0]? = some oneSlab ∧
      ({ shelf with slabs := [oneSlab] } : Shelf).slabs.getLast? = some oneSlab ∧ oneSlab.fill ≤ (operation op 0).rows ∧
      ({ operation op 0 with rows := 0 }).rows < oneSlab.fill ∧ (operation op 0).target ≤ [oneSlab].length ∧
      ((slabbed op 1).advance 0).journal? 0 = some (operation op 1) ∧ (operation op 1).reads ≠ 0 := by decide

theorem witness_slab_start : let s := opened (shelved seeking)
    let u := s.advance 0
    s.live = true ∧ u.clk.bgOpen = true ∧ u.freeJournal = some 0 ∧ (∀ x ∈ u.store.shelves, u.farHeld x = false) ∧
      (u.slabCandidates.find? (fun j => u.readable j && u.opFits (u.journalTime j))).any (fun j => (u.shelfAt? j.shelf).isSome) = true ∧
      (playing.advance 0).clk.bgOpen = false := by decide +kernel

theorem witness_settled : (let c := { mutating 0x22 0 .settling with waits := [] }
     let u := (shelved c).advance 0
     (shelved c).live = true ∧ u.cmd? 1 = some c ∧ c.stage = .settling ∧ c.origin = 0) ∧
    (let c := { mutating 0x22 0 .settling with waits := [1] }
     let u := (shelved c).advance 0
     (shelved c).live = true ∧ u.cmd? 1 = some c ∧ c.waits ≠ []) := by decide

/-! ## Witnesses: the weave -/

/-- The hosted chip in a weave: a member (role 2) or the head rim (role 1), with strand 5 up as given. -/
def woven (role : Nat) (f : Strand → Strand) : State :=
  let s := (((hosted.wr wvSelfRole 0 role).wr wvStrandState 5 2).wr wvParentStrand 0 5).wr wvSelfAddr 0 (if role = 1 then 0 else 3)
  { s with weave := { s.weave with strands := updAt 5 f s.weave.strands } }

theorem witness_strands : State.reset.answers = false ∧ playing.answers = true ∧ playing.sound = true ∧
    playing.rd wvStrandState 5 ≠ 1 ∧ (playing.wr wvStrandState 5 1).rd wvStrandState 5 = 1 ∧ (playing.wr wvStrandState 5 1).sound = true ∧
    ((playing.wr wvStrandState 5 1).advance 0).rd wvStrandState 5 = (playing.wr wvStrandState 5 1).rd wvStrandState 5 ∧
    (woven 2 (fun x => { x with lanes := [0, 1, 2, 3] })).sound = true ∧
    (let u := (woven 2 (fun x => { x with lanes := [0, 1, 2, 3] })).advance 0
     u.strandUp 5 = true ∧ (u.strand 5).lanes.contains 2 = true ∧ (u.strand 5).lanes.contains 4 = false ∧ u.rd wvStrandUse 5 = 0 ∧
       (u.strand 5).sendq = [] ∧ u.clk.now < (u.strand 5).lastData + ns 1000) ∧
    (let u := (woven 2 id).advance (ns 1000)
     (u.strand 5).lastData + ns 1000 ≤ u.clk.now) := by decide

/-- A DATA_BLOCK of 30 zero bytes with its CRC, and the same with one bit wrong. -/
def goodBlock : BitVec 256 := BitVec.ofNat 256 (10821 * 2 ^ 240)

theorem witness_blocks : correct goodBlock.toNat = some (0, false) ∧ correct (goodBlock + 1).toNat = some (0, true) := by decide +kernel

theorem witness_link : (woven 2 id).sound = true ∧ ((woven 2 id).advance 0).strandUp 5 = true ∧ (playing.advance 0).strandUp 5 = false ∧
    (((woven 2 id).advance 0).strand 5).nakked = false ∧ (0#16).toNat = (((woven 2 id).advance 0).strand 5).rxSeq ∧
    (((woven 2 id).advance 0).strand 5).unacked < 63 ∧ (1#16).toNat ≠ (((woven 2 id).advance 0).strand 5).rxSeq ∧
    (((woven 2 (fun x => { x with nakked := true })).advance 0).strand 5).nakked = true ∧
    ((woven 2 id).strand 5).replay.any (fun b => b.seq == 0) = false ∧
    ((woven 2 (fun x => { x with replay := [⟨0, 1, []⟩] })).strand 5).replay.any (fun b => b.seq == 0) = true ∧
    ((woven 2 id).strand 5).owed.all (fun n => n == 0) = true ∧
    ((woven 2 (fun x => { x with owed := [0, 1, 0, 0] })).strand 5).owed.all (fun n => n == 0) = false ∧
    0 < (((woven 2 (fun x => { x with unacked := 1 })).advance 0).strand 5).unacked ∧
    (((woven 2 (fun x => { x with unacked := 1 })).advance 0).strand 5).firstUnacked + ns 200 ≤ ((woven 2 id).advance (ns 200)).clk.now ∧
    ((woven 2 id).advance 0).clk.now < (((woven 2 id).advance 0).strand 5).firstUnacked + ns 200 := by decide

/-- A message of a type from the chip 7, with its operation and its body. -/
def message (type op : Nat) (body : Bytes) : Bytes := leBytes 2 type ++ leBytes 2 0 ++ leBytes 2 7 ++ zeros 2 ++ leBytes 8 op ++ body

/-- A chip of a role that has got a message on strand 5. -/
def told (role type op : Nat) (body : Bytes) (f : Weave → Weave) : State :=
  let s := woven role (fun x => { x with inbox := [message type op body] })
  { s with weave := f s.weave }

theorem witness_beacons : (let s := woven 1 (fun x => { x with peerSerial := 9, peerStrand := 6 })
     let s := { s with weave := { s.weave with map := [⟨1, 0, 0xFFFF, 0, 0xFF, 1⟩, ⟨9, 7, 0, 6, 0xFF, 0⟩] } }
     let u := s.advance (s.clk.predicted - ns 2000)
     s.sound = true ∧ s.live = true ∧ s.isHead = true ∧ u.genRecords = [] ∧ u.weave.settings = [] ∧ (u.childrenOf u.self).filterMap u.strandTo = [5] ∧
       u.strandUp 5 = true) ∧
    (let s := woven 2 id
     s.live = true ∧ s.inWeave = true ∧ s.isHead = false ∧ 5 = s.uplink ∧ s.strandUp 5 = true) ∧ playing.isHead = false ∧ playing.inWeave = false ∧
    gotMsg (told 2 0x01 0 (zeros 24) id) 5 0x01 (message 0x01 0 (zeros 24)) ∧ (told 2 0x01 0 (zeros 24) id).sound = true ∧
    gotMsg (told 2 0x02 0 (zeros 24) id) 5 0x02 (message 0x02 0 (zeros 24)) ∧
    msgDst (message 0x02 0 (zeros 24)) ≠ (told 2 0x02 0 (zeros 24) id).self ∧
    (let s := told 1 0x20 0 (zeros 64) (fun w => { w with members := [⟨7, false, none, none⟩] })
     gotMsg s 5 0x20 (message 0x20 0 (zeros 64)) ∧ s.weave.members.find? (fun x => x.addr == msgSrc (message 0x20 0 (zeros 64))) = some ⟨7, false, none, none⟩) := by
  decide

/-- The generations of its shelves reach a member that has rejoined; it holds generation 1. -/
theorem witness_generations : ∀ g ∈ [1, 2], let b : Bytes := zeros 4 ++ leBytes 4 0x500 ++ leBytes 6 g
    let m := updAt 2 (fun _ => 3#8) (message 0x02 0 b)
    let s := woven 2 (fun x => { x with inbox := [m] })
    let w : WShelf := ⟨shelf, [3], [], 1, false⟩
    let s := { s with weave := { s.weave with shelves := [w] } }
    gotMsg s 5 0x02 m ∧ msgDst m = s.self ∧ s.wshelf? 0x500 = some w ∧ w.template.handle = 0x500 ∧ (msgBody m).length = 14 ∧
      field (msgBody m) 4 4 = 0x500 ∧ field (msgBody m) 8 6 = g ∧ w.gen = 1 := by decide

/-- A member's record, an operation of the head rim, a search forwarded and its merge. -/
def wopOf (kind : WKind) : WOp := ⟨9, kind, 1, 0x500, [7], [], 0, [], []⟩
def fanOf : Fan := ⟨9, 1, [7], false, [3, 0x10] ++ zeros 14 ++ leBytes 4 0x500 ++ zeros 12, [], []⟩
def mergeOf : Merge := ⟨9, 1, [], [7], [], false, [], 0, none, 0, [], false, none, [], [], false, false⟩

theorem witness_members :
    (let s := woven 2 id
     let s := { s with weave := { s.weave with map := [⟨1, 0, 0xFFFF, 0, 0xFF, 1⟩, ⟨9, 7, 3, 6, 0xFF, 0⟩], members := [⟨7, false, some (2 ^ 32 - 1000000), none⟩] } }
     s.sound = true ∧ s.live = true ∧ s.isHead = false ∧ s.weave.members.find? (fun x => x.addr == 7) = some ⟨7, false, some (2 ^ 32 - 1000000), none⟩ ∧
       (s.childrenOf s.self).contains 7 = true ∧ s.strandTo 7 = none ∧ s.rd wvCtrlRejoin ≤ (s.measure + 2 ^ 32 - (2 ^ 32 - 1000000)) % 2 ^ 32 ∧
       (s.measure + 2 ^ 32 - 0) % 2 ^ 32 < s.rd wvCtrlRejoin) ∧
    (let s := told 2 0x03 0 (zeros 8) id
     gotMsg s 5 0x03 (message 0x03 0 (zeros 8)) ∧ s.sound = true ∧ s.isHead = false ∧ s.self ≠ s.rd wvDeputyAddr ∧
       (s.wr wvDeputyAddr 0 3).self = (s.wr wvDeputyAddr 0 3).rd wvDeputyAddr ∧ field (msgBody (message 0x03 0 (zeros 8))) 6 2 = s.rd wvEpochValue) ∧
    (∀ t ∈ [0x04, 0x05, 0x06], gotMsg (told 2 t 0 (zeros 8) (fun w => { w with members := [⟨0, true, none, none⟩] })) 5 t (message t 0 (zeros 8)) ∧
       (told 2 t 0 (zeros 8) (fun w => { w with members := [⟨0, true, none, none⟩] })).sound = true) ∧ playing.answers = true ∧
    (∀ code ∈ [1, 2, 3, 6, 8], let m := message 0x1C 4 (leBytes 4 code)
     gotMsg (told 2 0x1C 4 (leBytes 4 code) id) 5 0x1C m ∧ (told 2 0x1C 4 (leBytes 4 code) id).inWeave = true ∧ field (msgBody m) 0 1 = code ∧
       (told 2 0x1C 4 (leBytes 4 code) id).answered? (msgOp m) (msgType m) = none ∧
       (told 2 0x1C 4 (leBytes 4 code) (fun w => { w with applied := [(4, 0x1C, [1])] })).answered? (msgOp m) (msgType m) = some [1]) ∧
    (let s := told 1 0x1D 9 (zeros 4) (fun w => { w with ops := [wopOf .admin] })
     gotMsg s 5 0x1D (message 0x1D 9 (zeros 4)) ∧ s.sound = true ∧ s.isHead = true ∧ s.wop? (msgOp (message 0x1D 9 (zeros 4))) = some (wopOf .admin) ∧
       (told 1 0x1D 9 (zeros 4) id).wop? 9 = none) := by decide

/-- A head rim loses a child, and a member is told that it is the deputy to be promoted. -/
theorem witness_head_loses :
    (let s := woven 1 id
     let s := { s with weave := { s.weave with map := [⟨1, 0, 0xFFFF, 0, 0xFF, 1⟩, ⟨9, 7, 0, 6, 0xFF, 0⟩], members := [⟨7, false, some (2 ^ 32 - 1000000), none⟩] } }
     s.sound = true ∧ s.live = true ∧ s.isHead = true ∧ (s.childrenOf s.self).contains 7 = true ∧ s.strandTo 7 = none ∧
       s.rd wvCtrlRejoin ≤ (s.measure + 2 ^ 32 - (2 ^ 32 - 1000000)) % 2 ^ 32) ∧
    (let b : Bytes := [6, 0, 0, 0, 3, 0]
     let s := told 2 0x1C 4 b id
     gotMsg s 5 0x1C (message 0x1C 4 b) ∧ s.inWeave = true ∧ s.isHead = false ∧ field (msgBody (message 0x1C 4 b)) 4 2 = s.self ∧
       s.answered? 4 0x1C = none) := by decide

theorem witness_forwarding : (let s := told 2 0x10 9 (zeros 64) id
     gotMsg s 5 0x10 (message 0x10 9 (zeros 64)) ∧ s.sound = true ∧
       (takenMsg s 5 0x10).intakeUsed + field (zeros 64) 8 4 + field (zeros 64) 12 4 ≤ 67108864) ∧
    (let b : Bytes := zeros 11 ++ [0xFF#8] ++ zeros 8
     gotMsg (told 2 0x10 9 b id) 5 0x10 (message 0x10 9 b) ∧ 67108864 < (takenMsg (told 2 0x10 9 b id) 5 0x10).intakeUsed + field b 8 4 + field b 12 4) ∧
    (let s := told 1 0x11 9 (zeros 8) (fun w => { w with fans := [fanOf] })
     let s := { s with host := { s.host with cmds := [{ cmdOf 0x10 (zeros 64) with stage := .remote }], nextCid := 2 } }
     gotMsg s 5 0x11 (message 0x11 9 (zeros 8)) ∧ s.sound = true ∧ s.fan? 9 = some fanOf ∧ fanOf.waiting = [msgSrc (message 0x11 9 (zeros 8))] ∧
       field (msgBody (message 0x11 9 (zeros 8))) 0 1 = 0 ∧ s.cmd? fanOf.cid = some { cmdOf 0x10 (zeros 64) with stage := .remote }) ∧
    (let s := clocked (told 2 0x12 0 (zeros 8) id) (fun k => { k with phase := .admission })
     gotMsg s 5 0x12 (message 0x12 0 (zeros 8)) ∧ s.sound = true ∧ field (msgBody (message 0x12 0 (zeros 8))) 0 4 = s.measure ∧ s.clk.planFrozen = false ∧
       s.clk.phase = .admission ∧ planRefs (msgBody (message 0x12 0 (zeros 8))) = []) ∧
    (∃ b : Bytes, planRefs b = [9] ∧ field b 0 4 = playing.measure) := by
  refine ⟨by decide, by decide, by decide, by decide, ⟨zeros 4 ++ leBytes 2 1 ++ zeros 2 ++ leBytes 8 9, by decide⟩⟩

/-- A member that has got a message of a search it merges. -/
def merging (type : Nat) (key : Option (WVal × Nat)) : State :=
  told 2 type 9 (zeros 64) (fun w => { w with merges := [{ mergeOf with key := key }], fans := [fanOf], shelves := [⟨shelf, [0, 7], [], 1, false⟩] })

theorem witness_merges : (∀ t ∈ [0x21, 0x22, 0x23, 0x24, 0x25, 0x26], gotMsg (merging t none) 5 t (message t 9 (zeros 64)) ∧
      (merging t none).sound = true ∧ (merging t none).merge? 9 = some mergeOf ∧ mergeOf.sentVals = false ∧
      (merging t none).mergeShelf mergeOf = some shelf ∧ (merging t none).isHead = false) ∧ mergeOf.key = none ∧
    (merging 0x24 (some (⟨0, 0, 0⟩, 5))).merge? 9 = some { mergeOf with key := some (⟨0, 0, 0⟩, 5) } ∧
    (let u := (merging 0x21 none).advance 0
     u.live = true ∧ u.inWeave = true ∧ u.clk.now + ns (400 * u.rd wvSelfDepth) < u.fgEnd + ns 23600) ∧
    (let u := (merging 0x21 none).advance (10 ^ 12)
     u.live = true ∧ u.inWeave = true ∧ u.fgEnd + ns 23600 ≤ u.clk.now + ns (400 * u.rd wvSelfDepth) ∧ u.weave.merges.filter u.kidsLate ≠ []) := by decide

/-- The parts of a PREPARE or a COMMIT, and a REMOTE packet with its CRC. -/
def prepareBody : Bytes := leBytes 4 0x500 ++ leBytes 2 0x21 ++ leBytes 2 1 ++ leBytes 8 5
def remoteRaw (crc : Nat) : Bytes := [3, 0x30, 1, 8] ++ zeros 8 ++ leBytes 4 56 ++ zeros 12 ++ leBytes 4 crc ++ zeros 24
def remoteBody : Bytes := leBytes 4 56 ++ remoteRaw (packetCrc (remoteRaw 0))
def weaveShelf : WShelf := ⟨shelf, [3], [], 1, false⟩

theorem witness_prepare : (let s := told 2 0x13 9 prepareBody (fun w => { w with shelves := [weaveShelf] })
     gotMsg s 5 0x13 (message 0x13 9 prepareBody) ∧ s.sound = true ∧ s.answered? 9 0x13 = none ∧ s.wshelf? (field prepareBody 0 4) = some weaveShelf ∧
       s.weave.rebuilds = [] ∧ (told 2 0x13 9 prepareBody id).wshelf? (field prepareBody 0 4) = none ∧
       (told 2 0x13 9 prepareBody (fun w => { w with applied := [(9, 0x13, [0])] })).answered? 9 0x13 = some [0]) ∧
    (let s := told 1 0x14 9 (zeros 4) (fun w => { w with ops := [wopOf .prepare] })
     gotMsg s 5 0x14 (message 0x14 9 (zeros 4)) ∧ s.wop? 9 = some (wopOf .prepare) ∧ (wopOf .prepare).waiting.contains (msgSrc (message 0x14 9 (zeros 4))) = true ∧
       (told 1 0x14 9 (zeros 4) id).wop? 9 = none ∧ s.sound = true) ∧
    (let s := told 2 0x15 9 (zeros 8) id
     gotMsg s 5 0x15 (message 0x15 9 (zeros 8)) ∧ s.answered? 9 0x15 = none ∧ field (zeros 8) 0 1 = 0 ∧
       (told 2 0x15 9 (zeros 8) (fun w => { w with applied := [(9, 0x15, [0])] })).answered? 9 0x15 = some [0] ∧ msgType (message 0x15 9 (zeros 8)) = 0x15) ∧
    (let s := told 1 0x16 9 (zeros 8) (fun w => { w with ops := [wopOf .commit] })
     gotMsg s 5 0x16 (message 0x16 9 (zeros 8)) ∧ s.wop? 9 = some (wopOf .commit) ∧ (wopOf .commit).waiting.filter (fun a => a != msgSrc (message 0x16 9 (zeros 8))) = [] ∧
       ({ wopOf .commit with waiting := [7, 8] }).waiting.filter (fun a => a != msgSrc (message 0x16 9 (zeros 8))) ≠ [] ∧
       (wopOf .prepare).kind ≠ .commit) ∧
    (let s := told 1 0x17 9 (zeros 8) (fun w => { w with settles := [⟨9, 0x500, 0, [7]⟩] })
     gotMsg s 5 0x17 (message 0x17 9 (zeros 8)) ∧ s.sound = true ∧ s.weave.settles.find? (fun x => x.op == 9) = some ⟨9, 0x500, 0, [7]⟩) := by decide

set_option maxRecDepth 20000 in
/-- A COMMIT whose batch a slab operation holds, or does not hold. -/
theorem witness_commit : ∀ held ∈ [false, true], let b : Bytes := [1, 0, 0, 0, 4, 0, 0, 0]
     let z : Tent := ⟨9, 0x500, 0x21, [leBytes 8 5], (0, 1), none⟩
     let s := withShelf (told 2 0x15 9 b (fun w => { w with tents := [z], shelves := [weaveShelf] })) shelf
     let s := { s with store := { s.store with
       staging := [stagedRow], journal := if held then [⟨0, 1, .place, 0, 0, 0, 1, 0, 0, 0, 1, 1, 2, 0, [1], 0, 0, []⟩] else [] } }
     gotMsg s 5 0x15 (message 0x15 9 b) ∧ field b 0 1 = 1 ∧ s.weave.tents.find? (fun x => x.op == 9) = some z ∧ s.tentHeld z = held := by decide +kernel

set_option maxRecDepth 20000 in
theorem witness_remote : (let s := told 2 0x18 9 (leBytes 4 0x500 ++ zeros 12) id
     gotMsg s 5 0x18 (message 0x18 9 (leBytes 4 0x500 ++ zeros 12)) ∧ s.sound = true ∧ s.cmd? s.host.nextCid = none) ∧
    (let c := cmdOf 0x12 (zeros 32)
     let s := told 1 0x19 9 (5#8 :: zeros 39) (fun w => { w with ops := [wopOf .point], shelves := [weaveShelf] })
     let s := withCmd s c
     gotMsg s 5 0x19 (message 0x19 9 (5#8 :: zeros 39)) ∧ s.sound = true ∧ s.wop? 9 = some (wopOf .point) ∧ s.cmd? (wopOf .point).cid = some c ∧
       s.wshelf? (wopOf .point).handle = some weaveShelf ∧ (5#8 :: zeros 39).all (fun y => y == 0) = false ∧ (zeros 40).all (fun y => y == 0) = true) ∧
    (let s := told 2 0x1A 9 remoteBody id
     let p := slice remoteBody 4 (field remoteBody 0 4)
     gotMsg s 5 0x1A (message 0x1A 9 remoteBody) ∧ s.sound = true ∧ s.cmd? s.host.nextCid = none ∧ s.answered? 9 0x1A = none ∧
       s.host.cmds.any (fun c => c.origin == 2 && c.ref == 9) = false ∧ (headerOf p).crc = packetCrc p ∧ remoteOp (headerOf p).opcode = true ∧
       paramLen (headerOf p).opcode (p.drop 32) (s.shelfOf? (headerOf p).shelf) = some (p.drop 32).length) ∧
    (let c := cmdOf 0x58 (5#8 :: zeros 63)
     let s := withCmd (told 1 0x1B 9 (zeros 8) (fun w => { w with ops := [wopOf .remote] })) c
     gotMsg s 5 0x1B (message 0x1B 9 (zeros 8)) ∧ s.sound = true ∧ s.wop? 9 = some (wopOf .remote) ∧ s.cmd? (wopOf .remote).cid = some c ∧
       c.opcode = 0x58 ∧ c.origin = 0) := by decide

/-- A row of a rebuild, and its end. -/
def rowBody : Bytes := leBytes 4 0x500 ++ leBytes 2 0 ++ leBytes 2 1 ++ leBytes 8 5 ++ zeros 56

set_option maxRecDepth 20000 in
theorem witness_rebuild : (let s := told 2 0x30 9 rowBody id
     gotMsg s 5 0x30 (message 0x30 9 rowBody) ∧ s.sound = true ∧ s.wshelf? (field rowBody 0 4) = none) ∧
    (let s := withShelf (told 2 0x30 9 rowBody (fun w => { w with shelves := [weaveShelf] })) { shelf with capacity := 1 }
     gotMsg s 5 0x30 (message 0x30 9 rowBody) ∧ s.sound = true ∧ s.wshelf? (field rowBody 0 4) = some weaveShelf ∧ field rowBody 6 2 = 1 ∧
       weaveShelf.subFor s.self (rebuildRow weaveShelf.template (slice rowBody 8 (32 + weaveShelf.template.w))).id = some 0 ∧
       s.subShelf? 0x500 0 = some shelf ∧ s.shelfAt? 0 = some shelf ∧ shelf.fullPlace ≠ 2 ∧
       ({ shelf with fullPlace := 2 } : Shelf).fullPlace = 2 ∧ (s.fn shelf.ownerSeat).canPost = true) ∧
    (let s := told 2 0x31 9 (zeros 8) (fun w => { w with rebuilds := [⟨9, 0x500, [0], false, []⟩] })
     gotMsg s 5 0x31 (message 0x31 9 (zeros 8)) ∧ s.weave.rebuilds.find? (fun r => r.op == 9) = some ⟨9, 0x500, [0], false, []⟩ ∧
       [0].filter (fun k => k != field (zeros 8) 4 2) = [] ∧ [0, 1].filter (fun k => k != field (zeros 8) 4 2) ≠ [] ∧
       (told 2 0x31 9 (zeros 8) id).weave.rebuilds.find? (fun r => r.op == 9) = none) := by decide

/-! ## Worked examples of the spec -/

/-- R720: the CRC-8 of the nine ASCII bytes 123456789; chapter 16, the request CRC of a re-arm. -/
theorem test_crc8 : crc8 [0x31, 0x32, 0x33, 0x34, 0x35, 0x36, 0x37, 0x38, 0x39] = 0xF4 ∧ spsCrc 0x10 [] = 0xA2 := by decide +kernel

/-- Chapter 13, one address before and after a map-out. -/
theorem test_swizzle : swizzle 305397760 = 305397762 ∧ hashGranule (List.range 24) 305397760 = (18, 12724906) ∧
    hashGranule ((List.range 24).filter (fun h => h != 5)) 305397760 = (14, 13278163) := by decide

/-- Chapter 13, the hashed reserve with 24, 23 and 12 channels, and the space for shelves. -/
theorem test_reserve : hashedReserve 24 = 3200 * 2 ^ 20 ∧ hashedReserve 23 = 3216 * 2 ^ 20 ∧ hashedReserve 12 = 3392 * 2 ^ 20 ∧
    shelfSpace 24 = 136 * 2 ^ 30 ∧ shelfSpace 12 = 6625 * 2 ^ 30 / 100 := by decide

/-- Chapter 03, one BF16 block: the integers and scale of a row and of a query. -/
theorem test_bf16 : pathImage 2 4 [0x40, 0x40, 0x00, 0xBF, 0x40, 0x3C, 0x48, 0x43] = some [⟨-7, [384, -64, 2, 25600]⟩] ∧
    pathImage 2 4 [0x80, 0x3F, 0x00, 0x40, 0x80, 0xC0, 0x80, 0x3E] = some [⟨-12, [4096, 8192, -16384, 1024]⟩] := by decide +kernel

/-- Chapter 03, the same row's norm, 40,009.25, and chapter 05, the grid that rounds: β of 2^40 and of 2, and the grid's exponent. -/
theorem test_norm : normMag 2 4 [0x40, 0x40, 0x00, 0xBF, 0x40, 0x3C, 0x48, 0x43] = 0x471C4940 ∧ betaNorm 0x40000000 = 1 ∧
    betaNorm 0x53800000 = 21 ∧ gridExp 1 1 21 = -10 := by decide +kernel

/-- Chapter 07, a fused cut: 0.75 with boost index 3 becomes 1.75, and 0.8125 with index 0 becomes 1.625. -/
theorem test_fused : let step : Bytes := [1, 2, 8, 0, 4, 0, 0, 0, 0x00, 0x00, 0x00, 0x40]
    let tensor : Bytes := zeros 12 ++ [0x00, 0x00, 0x00, 0x3E]
    (fusedValue step tensor 0x300 ⟨3, -2⟩).canon = ⟨7, -2⟩ ∧ (fusedValue step tensor 0 ⟨13, -4⟩).canon = ⟨13, -3⟩ := by decide +kernel

end Sys2Proof.Tests
end

section
/-!
LAWS. The host's accesses to BAR0: which write or read an access is, what a written word reads back, and what the reads of meters return.
-/
namespace Sys2Proof.Machine

/-! ## Waking from Rest touches the power state only -/

@[simp] theorem State.restWake_regs (s : State) : s.restWake.regs = s.regs := by
  unfold State.restWake; split <;> rfl

@[simp] theorem State.restWake_host (s : State) : s.restWake.host = s.host := by
  unfold State.restWake; split <;> rfl

@[simp] theorem State.restWake_out (s : State) : s.restWake.out = s.out := by
  unfold State.restWake; split <;> rfl

@[simp] theorem State.restWake_rd (s : State) (f : Fld) (i : Nat) : s.restWake.rd f i = s.rd f i :=
  State.rd_of_regs _ _ f i s.restWake_regs

@[simp] theorem State.restWake_fn (s : State) (seat : Nat) : s.restWake.fn seat = s.fn seat := by
  simp [State.fn]

/-- The owner is read from the registers. -/
theorem State.owner?_of_regs (s t : State) (h : t.regs = s.regs) : t.owner? = s.owner? := by
  simp [State.owner?, State.rd_of_regs s t _ _ h]

@[simp] theorem State.restWake_owner? (s : State) : s.restWake.owner? = s.owner? :=
  State.owner?_of_regs _ _ s.restWake_regs

theorem State.restWake_sorted (s : State) (h : s.sound = true) : regSorted s.restWake.regs = true := by
  obtain ⟨⟨hregs, -⟩, -⟩ := (State.sound_iff s).1 h
  rwa [State.restWake_regs]

theorem State.restWake_of_not_rest (s : State) (h : s.pwr.mode ≠ .rest) : s.restWake = s := if_neg h

/-! ## Which access of a function reaches what -/

theorem State.registerWrite_of_access {s : State} {fn : Nat} (off v : Nat) (h : s.hostAccess fn = true) :
    s.registerWrite fn off v = s.restWake.bar0Write fn off v := if_pos h

theorem State.registerWrite_of_noAccess {s : State} {fn : Nat} (off v : Nat) (h : s.hostAccess fn = false) :
    s.registerWrite fn off v = s := if_neg (by simp [h])

theorem State.writeWords_cons (s : State) (fn : Nat) {off : Nat} (v : Word) (more : List Word) (h : off < 2 ^ 24) :
    s.writeWords fn off (v :: more) = (s.registerWrite fn off v.toNat).writeWords fn (off + 4) more := by
  rw [State.writeWords, if_neg (Nat.not_le.2 h)]

theorem State.writeWords_of_noAccess {s : State} {fn : Nat} (off : Nat) (l : List Word) (h : s.hostAccess fn = false) :
    s.writeWords fn off l = s := by
  induction l generalizing off with
  | nil => rfl
  | cons v more ih =>
    rw [State.writeWords, State.registerWrite_of_noAccess _ _ h]
    split
    · rfl
    · exact ih _

theorem State.bar0Write_of_unassigned (s : State) (fn v : Nat) {off : Nat} (h : assigned off = false) : s.bar0Write fn off v = s := by
  simp [State.bar0Write, h]

theorem State.bar0Write_outside (s : State) (fn v : Nat) {off : Nat} (ha : assigned off = true) (ho : off < 0x1000 ∨ 0x2000 ≤ off) :
    s.bar0Write fn off v = if s.owner? = some fn then s.ownerWrite off v else s.nonOwner fn := by
  have hwin : ¬(0x1000 ≤ off ∧ off < 0x2000) := by omega
  simp [State.bar0Write, ha, hwin, ite_not]

/-- The owner's write of a word that no rule singles out is the plain write of its fields. -/
theorem State.ownerWrite_plain (s : State) (v : Nat) {off : Nat} (hcap : off < 0x5800 ∨ 0x5880 ≤ off) (hpin : off < 0x32000 ∨ 0x34000 ≤ off)
    (hsp : off ∉ Claims.specialWords) : s.ownerWrite off v = s.writeWord 0 off v := by
  have hpin' : ¬(0x32000 ≤ off ∧ off < 0x34000) := by omega
  have hcap' : ¬(0x5800 ≤ off ∧ off < 0x5880) := by omega
  simp only [Claims.specialWords, List.mem_cons, List.not_mem_nil, or_false, not_or] at hsp
  simp [State.ownerWrite, hpin', hcap', hsp]

/-! ## The fields of a written word -/

theorem Fld.off_of_indexAt {f : Fld} {off i : Nat} (h : f.indexAt off = some i) : f.off + f.stride * i = off := by
  unfold Fld.indexAt at h
  split at h
  · cases h
  next hlow =>
    split at h
    next hstride =>
      split at h
      next hoff => rw [hstride, Nat.zero_mul, hoff, Nat.add_zero]
      · cases h
    next hstride =>
      split at h
      next hin =>
        obtain ⟨hmod, -⟩ := hin
        cases h
        have := Nat.mul_div_cancel' (Nat.dvd_of_mod_eq_zero hmod)
        omega
      · cases h

/-- Outside the function windows, a field's key is its bit address in BAR0. -/
theorem regKey_of_mem_fieldsAt {off : Nat} {p : Fld × Nat} (h : p ∈ fieldsAt off) (hw : p.1.win = false) :
    regKey p.1 0 p.2 = off * 32 + p.1.lo := by
  obtain ⟨f, -, hf⟩ := List.mem_filterMap.1 h
  obtain ⟨i, hi, rfl⟩ := Option.map_eq_some_iff.1 hf
  have hoff := Fld.off_of_indexAt hi
  simp_all [regKey]

/-- The window a field is written in: the seat's, for a field of the function windows. -/
def Fld.windowOf (f : Fld) (seat : Nat) : Nat := if f.win then seat else 0

theorem regSet_mod (f : Fld) (seat i v : Nat) (r : List (Nat × Nat)) : regSet f seat i (v % 2 ^ f.width) r = regSet f seat i v r := by
  simp [regSet]

theorem State.writeField_readOnly (s : State) (seat v : Nat) (p : Fld × Nat) (h : p.1.acc = .ro ∨ p.1.acc = .wo) : s.writeField seat v p = s := by
  rcases h with h | h <;> simp [State.writeField, h]

/-- A field that can be written is set to what its access code makes of the written value (R30). -/
theorem State.writeField_writable (s : State) (seat v : Nat) (p : Fld × Nat) (h : ¬(p.1.acc = .ro ∨ p.1.acc = .wo)) :
    s.writeField seat v p = s.wrw p.1 (p.1.windowOf seat) p.2
      (Claims.written p.1 (s.rdw p.1 (p.1.windowOf seat) p.2) (v / 2 ^ p.1.lo % 2 ^ p.1.width)) := by
  cases ha : p.1.acc <;>
    simp_all [State.writeField, Claims.written, State.wrw, State.rdw, Fld.windowOf, regSet_mod]

theorem State.writeField_sorted (s : State) (seat v : Nat) (p : Fld × Nat) (h : regSorted s.regs = true) :
    regSorted (s.writeField seat v p).regs = true := by
  by_cases ha : p.1.acc = .ro ∨ p.1.acc = .wo
  · rwa [State.writeField_readOnly _ _ _ _ ha]
  · rw [State.writeField_writable _ _ _ _ ha]
    exact regSorted_regSet _ _ _ _ _ h

/-- A field of another bit address is kept. -/
theorem State.rd_writeField_other (s : State) (seat v : Nat) (p : Fld × Nat) (g : Fld) (j : Nat)
    (hk : regKey g 0 j ≠ regKey p.1 (p.1.windowOf seat) p.2) : (s.writeField seat v p).rd g j = s.rd g j := by
  by_cases ha : p.1.acc = .ro ∨ p.1.acc = .wo
  · rw [State.writeField_readOnly _ _ _ _ ha]
  · rw [State.writeField_writable _ _ _ _ ha]
    exact State.rdw_wrw_other s _ _ _ _ _ _ _ hk

theorem written_readOnly (f : Fld) (old x : Nat) (h : f.acc = .ro ∨ f.acc = .wo) : Claims.written f old x = old := by
  rcases h with h | h <;> simp [Claims.written, h]

theorem written_lt (f : Fld) (old x : Nat) (h : ¬(f.acc = .ro ∨ f.acc = .wo)) : Claims.written f old x < 2 ^ f.width := by
  have hpos : 0 < 2 ^ f.width := Nat.two_pow_pos _
  cases ha : f.acc <;> simp_all [Claims.written, Nat.mod_lt]

/-- A written field outside the function windows reads back what its access code says (R30). -/
theorem State.rd_writeField_same (s : State) (seat v : Nat) (p : Fld × Nat) (h : regSorted s.regs = true) (hw : p.1.win = false) :
    (s.writeField seat v p).rd p.1 p.2 = Claims.written p.1 (s.rd p.1 p.2) (v / 2 ^ p.1.lo % 2 ^ p.1.width) := by
  by_cases ha : p.1.acc = .ro ∨ p.1.acc = .wo
  · rw [State.writeField_readOnly _ _ _ _ ha, written_readOnly _ _ _ ha]
  · have hwin : p.1.windowOf seat = 0 := by simp [Fld.windowOf, hw]
    rw [State.writeField_writable _ _ _ _ ha, hwin]
    exact (State.rdw_wrw_same s _ _ _ _ h).trans (Nat.mod_eq_of_lt (written_lt _ _ _ ha))

/-! ## The fields of a written word together -/

/-- Writing a list of fields keeps every field that lies at none of their bit addresses. -/
theorem State.rd_writeFields_other (s : State) (seat v : Nat) (l : List (Fld × Nat)) (g : Fld) (j : Nat)
    (hk : ∀ p ∈ l, regKey g 0 j ≠ regKey p.1 (p.1.windowOf seat) p.2) :
    (l.foldl (fun s p => s.writeField seat v p) s).rd g j = s.rd g j := by
  induction l generalizing s with
  | nil => rfl
  | cons p l ih =>
    obtain ⟨hp, hl⟩ := List.forall_mem_cons.1 hk
    rw [List.foldl_cons, ih _ hl, State.rd_writeField_other _ _ _ _ _ _ hp]

/-- Writing a list of fields at distinct bit addresses gives each what its access code says. -/
theorem State.rd_writeFields_mem (s : State) (seat v : Nat) (l : List (Fld × Nat)) (h : regSorted s.regs = true)
    (hw : ∀ p ∈ l, p.1.win = false) (hk : l.Pairwise (fun p q => regKey p.1 0 p.2 ≠ regKey q.1 0 q.2)) :
    ∀ p ∈ l, (l.foldl (fun s p => s.writeField seat v p) s).rd p.1 p.2 =
      Claims.written p.1 (s.rd p.1 p.2) (v / 2 ^ p.1.lo % 2 ^ p.1.width) := by
  have hwin : ∀ p ∈ l, p.1.windowOf seat = 0 := fun p hp => by simp [Fld.windowOf, hw p hp]
  induction l generalizing s with
  | nil => simp
  | cons q l ih =>
    obtain ⟨hq, hl⟩ := List.pairwise_cons.1 hk
    obtain ⟨hwq, hwl⟩ := List.forall_mem_cons.1 hw
    obtain ⟨hzq, hzl⟩ := List.forall_mem_cons.1 hwin
    intro p hp
    rw [List.foldl_cons]
    rcases List.mem_cons.1 hp with rfl | hp
    · rw [State.rd_writeFields_other _ _ _ _ _ _ (fun r hr => by rw [hzl r hr]; exact hq r hr)]
      exact State.rd_writeField_same s seat v p h hwq
    · rw [ih _ (State.writeField_sorted s seat v q h) hwl hl hzl p hp,
        State.rd_writeField_other _ _ _ _ _ _ (by rw [hzq]; exact (hq p hp).symm)]

/-- A written register word outside the function windows reads back, field by field, what the access codes say (R30). -/
theorem State.rd_writeWord (s : State) (seat off v : Nat) (h : regSorted s.regs = true) (hw : ∀ p ∈ fieldsAt off, p.1.win = false)
    (hlo : ((fieldsAt off).map (fun p => p.1.lo)).Nodup) :
    ∀ p ∈ fieldsAt off, (s.writeWord seat off v).rd p.1 p.2 = Claims.written p.1 (s.rd p.1 p.2) (v / 2 ^ p.1.lo % 2 ^ p.1.width) := by
  refine State.rd_writeFields_mem s seat v _ h hw ((List.pairwise_map.1 hlo).imp_of_mem ?_)
  intro p q hp hq hne
  rw [regKey_of_mem_fieldsAt hp (hw p hp), regKey_of_mem_fieldsAt hq (hw q hq)]
  omega

/-! ## Single words -/

theorem fieldsAt_beatInt : fieldsAt 0x1200 = [(hstFctrlBeatInt, 0)] := by decide

theorem fieldsAt_measPeriod : fieldsAt 0x2004 = [(measPeriodTicks, 0)] := by decide

theorem fieldsAt_measNumber : fieldsAt 0x2014 = [(measNumberValue, 0)] := by decide

theorem fieldsAt_measEvent : fieldsAt 0x201C = [(measEventEarlyEdge, 0), (measEventMissedEdge, 0), (measEventSourceLost, 0),
    (measEventOverrun, 0), (measEventFetchLate, 0), (measEventBadConfig, 0)] := by decide

/-- A register word that is one plainly written field. -/
theorem State.writeWord_single (s : State) (seat v : Nat) {off i : Nat} {f : Fld} (hf : fieldsAt off = [(f, i)]) (ha : f.acc = .rw ∨ f.acc = .rwo)
    (hlo : f.lo = 0) : s.writeWord seat off v = s.wrw f (f.windowOf seat) i (v % 2 ^ f.width) := by
  rw [State.writeWord, hf, List.foldl_cons, List.foldl_nil, State.writeField_writable _ _ _ _ (by rcases ha with ha | ha <;> simp [ha])]
  rcases ha with ha | ha <;> simp [Claims.written, ha, hlo]

/-- A 1 written to an event bit clears it, and a 0 keeps it (R30). -/
theorem written_eventBit (f : Fld) (old : Nat) (v : Word) (ha : f.acc = .w1c) (hw : f.width = 1) :
    Claims.written f old (v.toNat / 2 ^ f.lo % 2 ^ f.width) = if v.getLsbD f.lo then 0 else old % 2 := by
  have hbit : v.toNat / 2 ^ f.lo % 2 = (v.getLsbD f.lo).toNat := by
    rw [BitVec.getLsbD, Nat.testBit_eq_decide_div_mod_eq]
    rcases Nat.mod_two_eq_zero_or_one (v.toNat / 2 ^ f.lo) with h | h <;> simp [h]
  cases hv : v.getLsbD f.lo <;> simp [Claims.written, ha, hw, hbit, hv, Nat.and_one_is_mod]

/-- MEAS_PERIOD is written when its ticks lie in their range, and refused with an event otherwise (R40). -/
theorem State.ownerWrite_measPeriod (s : State) (v : Nat) : s.ownerWrite 0x2004 v =
    if 64000000 ≤ v % 2 ^ 31 ∧ v % 2 ^ 31 ≤ 1280000000 then s.wr measPeriodTicks 0 (v % 2 ^ 31) else s.ev measEventBadConfig := by
  have hword : s.writeWord 0 0x2004 v = s.wr measPeriodTicks 0 (v % 2 ^ 31) :=
    State.writeWord_single s 0 v fieldsAt_measPeriod (.inr rfl) rfl
  calc s.ownerWrite 0x2004 v
      = s.ranged (within 64000000 (bitsOf v 0 31) 1280000000) measEventBadConfig 0 0x2004 v := rfl
    _ = _ := by simp [State.ranged, within, bitsOf, hword]

theorem State.writeWord_measNumber (s : State) (seat v : Nat) : s.writeWord seat 0x2014 v = s := by
  rw [State.writeWord, fieldsAt_measNumber, List.foldl_cons, List.foldl_nil]
  exact State.writeField_readOnly _ _ _ _ (.inl rfl)

/-- Each 1 written to MEAS_EVENT clears its event bit, and each 0 keeps it (R30). -/
theorem State.rd_writeWord_measEvent (s : State) (seat : Nat) (v : Word) (h : regSorted s.regs = true) :
    ∀ p ∈ fieldsAt 0x201C, (s.writeWord seat 0x201C v.toNat).rd p.1 p.2 = if v.getLsbD p.1.lo then 0 else s.rd p.1 p.2 % 2 := by
  have hfields : ∀ p ∈ fieldsAt 0x201C, p.1.win = false ∧ p.1.acc = .w1c ∧ p.1.width = 1 := by rw [fieldsAt_measEvent]; decide
  have hlo : ((fieldsAt 0x201C).map (fun p => p.1.lo)).Nodup := by rw [fieldsAt_measEvent]; decide
  intro p hp
  obtain ⟨-, hacc, hwidth⟩ := hfields p hp
  rw [State.rd_writeWord s seat _ _ h (fun q hq => (hfields q hq).1) hlo p hp, written_eventBit _ _ _ hacc hwidth]

/-! ## The host's commands -/

/-- REGISTER_WRITE writes its words one after another, upwards from the first (R27). -/
theorem exec_registerWrite (fn : Seat) (word : BitVec 22) (v : Word) (more : List Word) (s : State) :
    exec (.registerWrite fn word ⟨v, more⟩) s = .next (s.writeWords fn.val (4 * word.toNat) (v :: more)) := rfl

theorem exec_registerWrite_word (fn : Seat) (word : BitVec 22) (v : Word) (s : State) :
    exec (.registerWrite fn word ⟨v, []⟩) s = .next (s.registerWrite fn.val (4 * word.toNat) v.toNat) := by
  rw [exec_registerWrite, State.writeWords_cons _ _ _ _ (by omega), State.writeWords]

theorem exec_registerWrite_cons (fn : Seat) {word : BitVec 22} (v next : Word) (more : List Word) (s : State) (h : word.toNat + 1 < 2 ^ 22) :
    exec (.registerWrite fn word ⟨v, next :: more⟩) s =
      exec (.registerWrite fn (word + 1) ⟨next, more⟩) (s.registerWrite fn.val (4 * word.toNat) v.toNat) := by
  have hnext : 4 * (word + 1).toNat = 4 * word.toNat + 4 := by bv_omega
  rw [exec_registerWrite, exec_registerWrite, State.writeWords_cons _ _ _ _ (by omega), hnext]

theorem exec_warmReset (fn : Seat) (v : Word) (s : State) : exec (.warmReset fn v) s = .next (s.registerWrite fn.val 0x41000 v.toNat) := rfl

theorem exec_malformedAccess (fn : Seat) (s : State) : exec (.malformedAccess fn) s = .next (s.malformed fn.val) := rfl

theorem exec_meterRead_bar0 (fn : Seat) (off : BitVec 24) (bytes : Nat) (s : State) :
    exec (.meterRead fn (.bar0 off bytes)) s = .next (s.readBar0 fn.val off.toNat bytes) := rfl

theorem exec_meterRead_config (fn : Seat) (c : ConfigField) (s : State) :
    exec (.meterRead fn (.config c)) s =
      .next (s.when (s.answers && (s.fn fn.val).enabled) (fun s => s.emit (.configReturn fn.val c (s.configField fn.val c)))) := rfl

/-- A function that reaches the chip is enabled, and the core answers. -/
theorem State.hostAccess_iff (s : State) (fn : Nat) :
    s.hostAccess fn = true ↔ (s.answers = true ∧ (s.fn fn).enabled = true) ∧ (s.fn fn).d3hot = false := by
  simp [State.hostAccess]

/-! ## Reads of BAR0 -/

/-- A word of BAR0 read into a whole word of the access (R27). -/
theorem State.readPart_word (s : State) (fn : Nat) {off bytes word : Nat} (hlo : off ≤ 4 * word) (hhi : 4 * word + 4 ≤ off + bytes) :
    s.readPart fn off bytes word =
      (s.bar0Read fn (4 * word)).1.emit (.readReturn fn (4 * word) ((s.bar0Read fn (4 * word)).2 % 2 ^ 32)) := by
  simp [State.readPart, Nat.max_eq_right hlo, Nat.min_eq_right hhi]

/-- An aligned read of whole words reads them in ascending order, after a chip in Rest has been woken (R27, R764). -/
theorem State.readBar0_words {s : State} {fn : Nat} (word n : Nat) (h : s.hostAccess fn = true) :
    s.readBar0 fn (4 * word) (4 * n) = s.restWake.each (List.range n) (fun s i => s.readPart fn (4 * word) (4 * n) (word + i)) := by
  have hfirst : 4 * word / 4 = word := by omega
  have hcount : (4 * word + 4 * n + 3) / 4 - word = n := by omega
  rw [State.readBar0, if_pos h, hfirst, hcount]

theorem State.readBar0_noAccess {s : State} {fn : Nat} (off bytes : Nat) (h : s.hostAccess fn = false) : s.readBar0 fn off bytes = s :=
  if_neg (by simp [h])

/-- A word that is neither of a meter nor of the pins' input is read without effect, and an unassigned one reads 0 (R30, R368). -/
theorem State.bar0Read_plain (s : State) (fn : Nat) {off : Nat} (hlo : off ≠ 0x8034) (hhi : off ≠ 0x8038) (hin : off ≠ 0x32014)
    (hmeter : off < 0x8300 ∨ 0x8508 ≤ off) : s.bar0Read fn off = (s, if assigned off = true then s.wordOf s.regs fn off else 0) := by
  have hmeter' : ¬(0x8300 ≤ off ∧ off < 0x8508) := by omega
  cases ha : assigned off <;> simp [State.bar0Read, hmeter', hlo, hhi, hin, ha]

/-! ## Reads of meters (R500, R536) -/

theorem State.bar0Read_meterLow (s : State) (fn : Nat) {k : Nat} (h : k < 65) : s.bar0Read fn (0x8300 + 8 * k) = s.meterRead fn k false := by
  have hin : 0x8300 ≤ 0x8300 + 8 * k ∧ 0x8300 + 8 * k < 0x8508 := by omega
  have hk : (0x8300 + 8 * k - 0x8300) / 8 = k := by omega
  have hhigh : ((0x8300 + 8 * k) % 8 == 4) = false := by simp
  rw [State.bar0Read, if_pos hin, hk, hhigh]

theorem State.bar0Read_meterHigh (s : State) (fn : Nat) {k : Nat} (h : k < 65) :
    s.bar0Read fn (0x8300 + 8 * k + 4) = s.meterRead fn k true := by
  have hin : 0x8300 ≤ 0x8300 + 8 * k + 4 ∧ 0x8300 + 8 * k + 4 < 0x8508 := by omega
  have hk : (0x8300 + 8 * k + 4 - 0x8300) / 8 = k := by omega
  have hhigh : ((0x8300 + 8 * k + 4) % 8 == 4) = true := by rw [beq_iff_eq]; omega
  rw [State.bar0Read, if_pos hin, hk, hhigh]

theorem State.mayMeter_iff (s : State) (fn k : Nat) : s.mayMeter fn k = true ↔ k = fn ∨ s.owner? = some fn := by
  rw [State.mayMeter, Bool.or_eq_true, beq_iff_eq, beq_iff_eq, eq_comm (a := fn) (b := k)]

theorem State.meterRead_refused {s : State} {fn k : Nat} (high : Bool) (hk : k < 65) (h : s.mayMeter fn k = false) :
    s.meterRead fn k high = (s, 0) := by
  simp [State.meterRead, h, Nat.ne_of_lt hk]

/-- The low word, with the high word latched for the function. -/
theorem State.meterRead_low {s : State} {fn k : Nat} (hk : k < 65) (h : s.mayMeter fn k = true) :
    s.meterRead fn k false = (s.latchMeter fn k (s.rd ownMeterHiNj k), s.rd ownMeterLoNj k) := by
  simp [State.meterRead, h, Nat.ne_of_lt hk]

/-- A meter's high word where one is latched for the function: that word, and the latch is used up. -/
theorem State.meterRead_high {s : State} {fn k hi : Nat} (hk : k < 65) (h : s.mayMeter fn k = true)
    (hl : (s.fn fn).meterLatch.find? (fun p => p.1 == k) = some (k, hi)) :
    s.meterRead fn k true = (s.fnMap fn (fun f => { f with meterLatch := f.meterLatch.filter (fun q => q.1 != k) }), hi) := by
  simp [State.meterRead, h, Nat.ne_of_lt hk, hl]

theorem find?_updFirst {α : Type} (p : α → Bool) (f : α → α) (l : List α) (h : ∀ x, p x = true → p (f x) = true) :
    (updFirst p f l).find? p = (l.find? p).map f := by
  induction l with
  | nil => rfl
  | cons x l ih => by_cases hx : p x = true <;> simp [updFirst, hx, h, ih]

/-- A change of an enabled function is what is read back of it. -/
theorem State.fn_fnMap_same (s : State) (seat : Nat) (f : Fn → Fn) (hf : ∀ x, (f x).seat = x.seat) (h : (s.fn seat).enabled = true) :
    (s.fnMap seat f).fn seat = f (s.fn seat) := by
  have hfind : (s.fnMap seat f).fn seat = ((s.host.fns.find? (fun x => x.seat == seat)).map f).getD (fnNil seat) := by
    rw [← find?_updFirst _ _ _ (fun x hx => by rwa [hf])]; rfl
  cases hx : s.host.fns.find? (fun x => x.seat == seat) with
  | none => simp [State.fn, hx, fnNil] at h
  | some x => rw [hfind, State.fn, hx]; rfl

@[simp] theorem State.fnMap_regs (s : State) (seat : Nat) (f : Fn → Fn) : (s.fnMap seat f).regs = s.regs := rfl
@[simp] theorem State.fnMap_out (s : State) (seat : Nat) (f : Fn → Fn) : (s.fnMap seat f).out = s.out := rfl

/-- The high word latched for an enabled function is the one its next read finds. -/
theorem State.find?_latchMeter (s : State) (fn k hi : Nat) (h : (s.fn fn).enabled = true) :
    ((s.latchMeter fn k hi).fn fn).meterLatch.find? (fun p => p.1 == k) = some (k, hi) := by
  have hfn := State.fn_fnMap_same s fn (fun f => { f with meterLatch := (k, hi) :: f.meterLatch.filter (fun p => p.1 != k) }) (fun _ => rfl) h
  simp [State.latchMeter, hfn]

/-- A read of a meter's two words: the low one, then the high one in the state the first leaves (R27, R536). -/
theorem State.readBar0_meter {s t u : State} {fn k lo hi : Nat} (hk : k < 65) (h : s.hostAccess fn = true)
    (hlow : s.restWake.meterRead fn k false = (t, lo))
    (hhigh : (t.emit (.readReturn fn (0x8300 + 8 * k) (lo % 2 ^ 32))).meterRead fn k true = (u, hi)) :
    s.readBar0 fn (0x8300 + 8 * k) 8 = u.emit (.readReturn fn (0x8300 + 8 * k + 4) (hi % 2 ^ 32)) := by
  have hw0 : 0x8300 + 8 * k = 4 * (0x20C0 + 2 * k) := by omega
  have hw1 : 0x8300 + 8 * k + 4 = 4 * (0x20C0 + 2 * k + 1) := by omega
  have hlow' : s.restWake.bar0Read fn (4 * (0x20C0 + 2 * k)) = (t, lo) := by rw [← hw0, State.bar0Read_meterLow _ _ hk, hlow]
  have hhigh' : (t.emit (.readReturn fn (4 * (0x20C0 + 2 * k)) (lo % 2 ^ 32))).bar0Read fn (4 * (0x20C0 + 2 * k + 1)) = (u, hi) := by
    rw [← hw0, ← hw1, State.bar0Read_meterHigh _ _ hk, hhigh]
  rw [hw1, hw0, State.readBar0_words _ 2 h]
  have hrange : List.range 2 = [0, 1] := rfl
  rw [hrange, State.each_cons, State.each_cons, State.each_nil, Nat.add_zero,
    State.readPart_word s.restWake _ (by omega) (by omega), hlow', State.readPart_word _ _ (by omega) (by omega), hhigh']

theorem exec_meterRead_meter (fn : Seat) (k : Fin 66) (s : State) (hk : k.val < 65) :
    exec (.meterRead fn (.meter k)) s = .next (s.readBar0 fn.val (0x8300 + 8 * k.val) 8) := by
  have hoff : (BitVec.ofNat 24 (0x8300 + 8 * k.val)).toNat = 0x8300 + 8 * k.val := by
    rw [BitVec.toNat_ofNat]; omega
  rw [HostRead.meter, if_neg (by omega), exec_meterRead_bar0, hoff]

/-! ## The key of the reset register (R777) -/

theorem State.ownerWrite_rstCtrl (s : State) (v : Nat) : s.ownerWrite 0x41000 v = s.rstCtrl v := rfl

theorem State.rstCtrl_other (s : State) {v : Nat} (h : v ≠ 0xA55A) : s.rstCtrl v = s := if_neg h

/-- A warm reset of a chip that plays, with no fatal error standing, is under way at once (R777; log entry 27). -/
theorem State.warmReset_playing (s : State) (link : Bool) (hmode : s.pwr.mode = .playing) (hfatal : s.rd errStatusFatal ≠ 1) :
    (s.warmReset link).pwr.mode = .warm := by
  simp [State.warmReset, hmode, hfatal]

end Sys2Proof.Machine
end

section
/-!
PROOFS. The statements on register writes, on reads and the reset key, and on the machine after reset.
-/
namespace Sys2Proof.Claims
open Sys2Proof Sys2Proof.Machine

section
variable {fn : Seat} {s : State} (v : Word) {word : BitVec 22} {off : Nat} (hoff : 4 * word.toNat = off) (hacc : s.hostAccess fn.val = true)
include hoff hacc

/-- A write that reaches the chip is a BAR0 write to the chip awake (R764). -/
theorem answers_registerWrite {t : State} (ht : s.restWake.bar0Write fn.val off v.toNat = t) : Answers (.registerWrite fn word ⟨v, []⟩) s t := by
  rw [Answers, exec_registerWrite_word, hoff, State.registerWrite_of_access _ _ hacc, ht]

theorem answers_nonOwnerWrite (hother : s.owner? ≠ some fn.val) (ha : assigned off = true) (hwin : off < 0x1000 ∨ 0x2000 ≤ off) :
    Answers (.registerWrite fn word ⟨v, []⟩) s (s.restWake.nonOwner fn.val) := by
  refine answers_registerWrite v hoff hacc ?_
  rw [State.bar0Write_outside _ _ _ ha hwin, if_neg (by simpa using hother)]

theorem answers_ownerWrite (howner : s.owner? = some fn.val) (ha : assigned off = true) (hwin : off < 0x1000 ∨ 0x2000 ≤ off) :
    Answers (.registerWrite fn word ⟨v, []⟩) s (s.restWake.ownerWrite off v.toNat) := by
  refine answers_registerWrite v hoff hacc ?_
  rw [State.bar0Write_outside _ _ _ ha hwin, if_pos (by simpa using howner)]

/-- The owner's write of a word outside the function windows that no rule singles out (R30). -/
theorem answers_ownerWrite_plain (howner : s.owner? = some fn.val) (ha : assigned off = true) (hwin : off < 0x1000 ∨ 0x2000 ≤ off)
    (hcap : off < 0x5800 ∨ 0x5880 ≤ off) (hpin : off < 0x32000 ∨ 0x34000 ≤ off) (hsp : off ∉ specialWords) :
    Answers (.registerWrite fn word ⟨v, []⟩) s (s.restWake.writeWord 0 off v.toNat) := by
  rw [← State.ownerWrite_plain _ _ hcap hpin hsp]
  exact answers_ownerWrite v hoff hacc howner ha hwin

end

/-- The owner's writes of MEAS_PERIOD (R40), of the read-only MEAS_NUMBER, and of MEAS_EVENT (R30). -/
theorem ownerWrites_measureWords {fn : Seat} {s : State} (v : Word) (hs : s.sound = true) (hacc : s.hostAccess fn.val = true)
    (howner : s.owner? = some fn.val) :
    Answers (.registerWrite fn 0x801 ⟨v, []⟩) s
      (if 64000000 ≤ v.toNat % 2 ^ 31 ∧ v.toNat % 2 ^ 31 ≤ 1280000000 then s.restWake.wr measPeriodTicks 0 (v.toNat % 2 ^ 31)
        else s.restWake.ev measEventBadConfig) ∧
    Answers (.registerWrite fn 0x805 ⟨v, []⟩) s s.restWake ∧
    ∃ t, Answers (.registerWrite fn 0x807 ⟨v, []⟩) s t ∧
      ∀ p ∈ fieldsAt 0x201C, t.rd p.1 p.2 = if v.getLsbD p.1.lo then 0 else s.rd p.1 p.2 % 2 := by
  refine ⟨?_, ?_, _, answers_ownerWrite_plain v (off := 0x201C) rfl hacc howner (by decide) (by decide) (by decide) (by decide) (by decide), ?_⟩
  · rw [← State.ownerWrite_measPeriod]
    exact answers_ownerWrite v rfl hacc howner (by decide) (by decide)
  · have hplain := answers_ownerWrite_plain v (word := 0x805) (off := 0x2014) rfl hacc howner (by decide) (by decide) (by decide) (by decide) (by decide)
    rwa [State.writeWord_measNumber] at hplain
  · intro p hp
    rw [State.rd_writeWord_measEvent _ _ _ (s.restWake_sorted hs) p hp, State.restWake_rd]

/-- Settles O22: each kind of word by the lemma on its writes, and a wide write by one step of the recursion over its words. -/
theorem registerWritesByAccessCode : Obligations.RegisterWritesByAccessCode := by
  intro fn v s hs hacc u
  refine ⟨fun word ha hwin hother => answers_nonOwnerWrite v rfl hacc hother ha hwin,
    fun word ha => answers_registerWrite v rfl hacc (State.bar0Write_of_unassigned _ _ _ ha),
    answers_registerWrite v rfl hacc (State.writeWord_single _ _ _ fieldsAt_beatInt (.inl rfl) rfl),
    ?_, ?_, ?_⟩
  · intro howner
    obtain ⟨hperiod, hnumber, t, ht, hevent⟩ := ownerWrites_measureWords v hs hacc howner
    refine ⟨hperiod, hnumber, t, ht, fun p hp => ?_⟩
    have hbits : ∀ q ∈ [(measEventEarlyEdge, 0), (measEventMissedEdge, 1), (measEventSourceLost, 2), (measEventOverrun, 3),
        (measEventFetchLate, 4), (measEventBadConfig, 5)], (q.1, 0) ∈ fieldsAt 0x201C ∧ q.1.lo = q.2 := by
      rw [fieldsAt_measEvent]; decide
    obtain ⟨hfield, hbit⟩ := hbits p hp
    rw [← hbit, hevent _ hfield]
  · intro howner word off ha hwin hcap hpin hsp
    refine ⟨answers_ownerWrite_plain v rfl hacc howner ha hwin hcap hpin hsp, fun hw hlo p hp => ?_⟩
    rw [State.rd_writeWord u 0 off v.toNat (s.restWake_sorted hs) hw hlo p hp, State.restWake_rd]
  · intro word next more hlt
    obtain ⟨b, hb⟩ : ∃ b, Answers (.registerWrite fn (word + 1) ⟨next, more⟩) (s.registerWrite fn.val (4 * word.toNat) v.toNat) b := ⟨_, rfl⟩
    exact ⟨_, b, exec_registerWrite_word fn word v s, hb, (exec_registerWrite_cons fn v next more s hlt).trans hb⟩

/-- A meter read by a function that is neither the seat nor the owner returns 0 for both words (R500). -/
theorem answers_meterRead_refused {fn : Seat} {s : State} {k : Fin 66} (hacc : s.hostAccess fn.val = true) (hk : k.val < 65) (hne : k.val ≠ fn.val)
    (howner : s.owner? ≠ some fn.val) :
    Answers (.meterRead fn (.meter k)) s ((s.restWake.emit (.readReturn fn.val (0x8300 + 8 * k.val) 0)).emit
      (.readReturn fn.val (0x8300 + 8 * k.val + 4) 0)) := by
  have hmay : s.restWake.mayMeter fn.val k.val = false := by
    rw [← Bool.not_eq_true, State.mayMeter_iff, State.restWake_owner?]; tauto
  have hread := State.readBar0_meter hk hacc (State.meterRead_refused false hk hmay) (State.meterRead_refused true hk hmay)
  exact (exec_meterRead_meter fn k s hk).trans (congrArg _ hread)

/-- A meter read by its seat or by the owner returns the low word and the high word latched with it (R536). -/
theorem answers_meterRead_allowed {fn : Seat} {s : State} {k : Fin 66} (hacc : s.hostAccess fn.val = true) (hk : k.val < 65)
    (hown : k.val = fn.val ∨ s.owner? = some fn.val) :
    ∃ t, Answers (.meterRead fn (.meter k)) s t ∧ t.regs = s.regs ∧
      t.out = s.out ++ [.readReturn fn.val (0x8300 + 8 * k.val) (s.rd ownMeterLoNj k.val % 2 ^ 32),
        .readReturn fn.val (0x8300 + 8 * k.val + 4) (s.rd ownMeterHiNj k.val % 2 ^ 32)] := by
  have henabled : (s.restWake.fn fn.val).enabled = true := by
    obtain ⟨⟨-, hen⟩, -⟩ := (State.hostAccess_iff s fn.val).1 hacc
    rwa [State.restWake_fn]
  have hmay : s.restWake.mayMeter fn.val k.val = true := by rwa [State.mayMeter_iff, State.restWake_owner?]
  have hread := State.readBar0_meter hk hacc (State.meterRead_low hk hmay)
    (State.meterRead_high hk hmay (State.find?_latchMeter _ _ _ _ henabled))
  exact ⟨_, (exec_meterRead_meter fn k s hk).trans (congrArg _ hread), by simp [State.latchMeter], by simp [State.latchMeter]⟩

/-- A 32-bit read of a word that is neither of a meter nor of the pins' input (R30, R368). -/
theorem answers_meterRead_word {fn : Seat} {s : State} {off : BitVec 24} (hacc : s.hostAccess fn.val = true) (halign : off.toNat % 4 = 0)
    (hlo : off.toNat ≠ 0x8034) (hhi : off.toNat ≠ 0x8038) (hin : off.toNat ≠ 0x32014) (hmeter : off.toNat < 0x8300 ∨ 0x8508 ≤ off.toNat) :
    Answers (.meterRead fn (.bar0 off 4)) s (s.restWake.emit (.readReturn fn.val off.toNat
      (if assigned off.toNat = true then s.restWake.wordOf s.regs fn.val off.toNat % 2 ^ 32 else 0))) := by
  have hword : 4 * (off.toNat / 4) = off.toNat := by omega
  have hread := State.readBar0_words (off.toNat / 4) 1 hacc
  simp only [List.range_one, State.each_cons, State.each_nil, Nat.add_zero, Nat.mul_one] at hread
  rw [State.readPart_word _ _ (Nat.le_refl _) (Nat.le_refl _), hword, State.bar0Read_plain _ _ hlo hhi hin hmeter] at hread
  rw [Answers, exec_meterRead_bar0, hread, State.restWake_regs]
  split <;> rfl

/-- A write of RST_CTRL by the owner (R777). -/
theorem answers_warmReset {fn : Seat} {s : State} (v : Word) (hacc : s.hostAccess fn.val = true) (howner : s.owner? = some fn.val) :
    Answers (.warmReset fn v) s (s.restWake.rstCtrl v.toNat) := by
  rw [Answers, exec_warmReset, State.registerWrite_of_access _ _ hacc, State.bar0Write_outside _ _ _ (by decide) (by decide),
    if_pos (by simpa using howner), State.ownerWrite_rstCtrl]

/-- Settles O23: each access by the lemma on it, and every access of a function that does not reach the chip by its guard. -/
theorem narrowWritesMetersAndResetKey : Obligations.NarrowWritesMetersAndResetKey := by
  intro fn s
  refine ⟨fun hacc => ⟨?_, fun k hk hne howner => answers_meterRead_refused hacc hk hne howner,
    fun k hk hown => answers_meterRead_allowed hacc hk hown,
    fun off halign hlo hhi hin hmeter => answers_meterRead_word hacc halign hlo hhi hin hmeter, ?_, ?_⟩, ?_⟩
  · rw [Answers, exec_malformedAccess, State.malformed, if_pos hacc]
  · intro c
    obtain ⟨hreach, -⟩ := (State.hostAccess_iff s fn.val).1 hacc
    rw [Answers, exec_meterRead_config, Bool.and_eq_true_iff.2 hreach, State.when_true]
  · intro howner
    refine ⟨fun v hv => ?_, fun hmode hfatal => ⟨_, answers_warmReset _ hacc howner, ?_⟩⟩
    · have hkey : v.toNat ≠ 0xA55A := fun h => hv (BitVec.eq_of_toNat_eq h)
      exact (answers_warmReset v hacc howner).trans (congrArg _ (State.rstCtrl_other _ hkey))
    · rw [State.restWake_of_not_rest s (by simp [hmode])]
      exact State.warmReset_playing s false hmode hfatal
  · intro hno word v more off bytes
    refine ⟨?_, ?_, ?_, ?_⟩
    · rw [Answers, exec_registerWrite, State.writeWords_of_noAccess _ _ hno]
    · rw [Answers, exec_malformedAccess, State.malformed, if_neg (by simp [hno])]
    · rw [Answers, exec_meterRead_bar0, State.readBar0_noAccess _ _ hno]
    · rw [Answers, exec_warmReset, State.registerWrite_of_noAccess _ _ hno]

/-! ## The machine after reset -/

theorem reset_rd (f : Fld) (i : Nat) : State.reset.rd f i = resetOf f i := rfl

/-- No access reaches a chip whose core does not answer. -/
theorem hostAccess_of_not_answers {s : State} (fn : Nat) (h : s.answers = false) : s.hostAccess fn = false := by
  simp [State.hostAccess, h]

/-- Settles O2: the reset state is a constant, so each part is read off it; the register file is empty, so every field reads its reset value. -/
theorem resetState : Obligations.ResetState := by
  have hdark : State.reset.answers = false := by decide
  exact ⟨⟨rfl, rfl, rfl, by decide, rfl, rfl, rfl, rfl, reset_rd, fun fn => hostAccess_of_not_answers fn hdark, by decide⟩, by decide⟩

end Sys2Proof.Claims
end

section
/-!
LAWS. How a measure begins (R38 to R44): which state each source of the downbeat, each edge and the flywheel lead to.
-/
namespace Sys2Proof.Machine

/-! ## The internal timebase -/

theorem State.nextNumber_eq (s : State) : s.nextNumber = (s.measure + 1) % 2 ^ 32 := rfl

theorem Clock.offEdges_of_lost {k : Clock} (h : k.holdover = true ∨ k.sourceGone = true) (hg : k.good < 16) : k.offEdges = true := by
  simp [Clock.offEdges, hg, h]

theorem Clock.offEdges_of_kept {k : Clock} (hh : k.holdover = false) (hs : k.sourceGone = false) : k.offEdges = false := by
  simp [Clock.offEdges, hh, hs]

/-- Outside a weave the timebase starts a measure unless the edges of the pin do (R38, R44). -/
theorem State.downbeat_eq_internalDownbeat {s : State} (ht : s.ticking = true) (hw : s.inWeave = false)
    (h : s.source ≠ 1 ∨ s.clk.started = true ∧ s.clk.offEdges = true) : s.downbeat = s.internalDownbeat s.nextNumber := by
  have hown : (s.source != 1 || s.clk.started && s.clk.offEdges) = true := by simpa using h
  simp [State.downbeat, ht, hw, hown]

theorem State.internalDownbeat_of_kept {s : State} (n : Nat) (hh : s.clk.holdover = false) (hs : s.clk.sourceGone = false) :
    s.internalDownbeat n = (s.clkMap (fun k => { k with locked := false })).startMeasure s.clk.predicted n := by
  simp [State.internalDownbeat, hh, hs]

theorem State.internalDownbeat_of_lost {s : State} (n : Nat) (h : s.clk.holdover = true ∨ s.clk.sourceGone = true) :
    s.internalDownbeat n = (s.countEdges.clkMap (fun k => { k with locked := false })).startMeasure s.clk.predicted n := by
  have hlost : (s.clk.holdover || s.clk.sourceGone) = true := by simpa using h
  simp [State.internalDownbeat, hlost]

/-! ## Edges of the pin -/

/-- An edge of the other kind than the one selected is none (R38). -/
theorem State.downbeatEdge_other {s : State} {falling : Bool} (t : Nat) (h : falling ≠ s.edgeFalls) : s.downbeatEdge falling t = s := by
  simp [State.downbeatEdge, h]

theorem State.downbeatEdge_selected {s : State} (t : Nat) (ht : s.ticking = true) (hsrc : s.source = 1) (hpin : s.inputOn 0 0 = true) :
    s.downbeatEdge s.edgeFalls t = s.externalEdge t s.nextNumber := by
  simp [State.downbeatEdge, ht, hsrc, hpin]

theorem State.externalEdge_first {s : State} (t n : Nat) (h : s.clk.started = false) : s.externalEdge t n = s.acceptEdge t n := by
  simp [State.externalEdge, h]

section
variable {s : State} {t : Nat} (n : Nat) (hst : s.clk.started = true)
include hst

theorem State.externalEdge_off (ho : s.clk.offEdges = true) : s.externalEdge t n = s.holdoverEdge t := by
  simp [State.externalEdge, hst, ho]

theorem State.externalEdge_early (ho : s.clk.offEdges = false) (h : t + ns 2000 < s.clk.predicted) :
    s.externalEdge t n = s.ev measEventEarlyEdge := by
  simp [State.externalEdge, hst, ho, h]

theorem State.externalEdge_late (ho : s.clk.offEdges = false) (h : s.clk.predicted + ns 2000 < t) : s.externalEdge t n = s := by
  have hearly : ¬(t + ns 2000 < s.clk.predicted) := by omega
  simp [State.externalEdge, hst, ho, hearly, Nat.not_le.2 h]

theorem State.externalEdge_near (hh : s.clk.holdover = false) (hs : s.clk.sourceGone = false) (hlo : s.clk.predicted ≤ t + ns 2000)
    (hhi : t ≤ s.clk.predicted + ns 2000) : s.externalEdge t n = s.acceptEdge t n := by
  simp [State.externalEdge, hst, Clock.offEdges_of_kept hh hs, Nat.not_lt.2 hlo, hhi, hh, hs]

end

/-- An edge near the downbeat predicted of a lost source counts towards its return (R44). -/
theorem State.holdoverEdge_next {s : State} {t : Nat} (hlast : nearInstant t s.clk.lastDb = false) (hnext : nearInstant t s.clk.predicted = true)
    (hnew : s.clk.edgeNext = false) :
    s.holdoverEdge t = s.clkMap (fun k => { k with good := if k.edgeNow then k.good + 1 else 1, edgeNext := true }) := by
  simp [State.holdoverEdge, hlast, hnext, hnew]

/-! ## The flywheel -/

@[simp] theorem State.measure_ev_missedEdge (s : State) : (s.ev measEventMissedEdge).measure = s.measure :=
  State.rd_wr_other s _ _ _ _ _ (by decide)

@[simp] theorem State.measure_ev_sourceLost (s : State) : (s.ev measEventSourceLost).measure = s.measure :=
  State.rd_wr_other s _ _ _ _ _ (by decide)

@[simp] theorem State.inForce_ev (s : State) (g f : Fld) (i j : Nat) : (s.ev g i).inForce f j = s.inForce f j := rfl

theorem State.source_of_started {s : State} (h : s.clk.started = true) : s.source = s.inForce measCtrlSource := if_pos h

section
variable {s : State} (ht : s.ticking = true) (hst : s.clk.started = true) (hh : s.clk.holdover = false) (hs : s.clk.sourceGone = false)
  (hsrc : s.inForce measCtrlSource = 1)
include ht hst hh hs hsrc

/-- A missed edge that is not the eighth in a row (R43). -/
theorem State.flywheel_missed (hm : s.clk.missed + 1 < 8) :
    s.flywheel = ((s.ev measEventMissedEdge).clkMap (fun k => { k with locked := false, missed := k.missed + 1 })).startMeasure
      (s.clk.predicted + ns 2000) s.nextNumber := by
  have hsource : s.source = 1 := (State.source_of_started hst).trans hsrc
  have hnext : (s.ev measEventMissedEdge).nextNumber = s.nextNumber := congrArg (measureAdd · 1) (State.measure_ev_missedEdge s)
  rw [← hnext]
  simp [State.flywheel, State.awaitsEdges, Clock.offEdges, ht, hst, hh, hs, hsrc, hsource, Nat.not_le.2 hm]
  rfl

/-- The eighth missed edge in a row loses the source; the next downbeat is predicted from the last accepted phase (R44). -/
theorem State.flywheel_lost (hm : 8 ≤ s.clk.missed + 1) :
    s.flywheel = ((((s.ev measEventMissedEdge).ev measEventSourceLost).clkMap (fun k =>
      { k with
        holdover := s.inForce measCtrlHoldoverEn == 1, sourceGone := !(s.inForce measCtrlHoldoverEn == 1), good := 0, edgeNow := true
        edgeNext := false, locked := false, missed := k.missed + 1 })).startMeasure (s.clk.predicted + ns 2000) s.nextNumber).clkMap
      (fun k => { k with predicted := k.predicted - ns (2000 * (s.clk.missed + 1)) }) := by
  have hsource : s.source = 1 := (State.source_of_started hst).trans hsrc
  have hnext : ((s.ev measEventMissedEdge).ev measEventSourceLost).nextNumber = s.nextNumber :=
    congrArg (measureAdd · 1) ((State.measure_ev_sourceLost _).trans (State.measure_ev_missedEdge s))
  rw [← hnext]
  simp [State.flywheel, State.awaitsEdges, Clock.offEdges, ht, hst, hh, hs, hsrc, hsource, hm]
  rfl

end

/-! ## The commands -/

theorem exec_downbeat (s : State) : exec .downbeat s = .next s.downbeat := rfl

theorem exec_downbeatEdge (e : DownbeatIn) (s : State) : exec (.downbeatEdge e) s = .next (s.downbeatEdge e.falling e.instant) := rfl

theorem exec_flywheelDownbeat (s : State) : exec .flywheelDownbeat s = .next s.flywheel := rfl

end Sys2Proof.Machine
end

section
/-!
PROOFS. The ways a measure begins, and the edges that begin none.
-/
namespace Sys2Proof.Claims
open Sys2Proof Sys2Proof.Machine

/-- The selected edge, by whether the source is lost and by where the edge lies about the prediction (R41, R42, R44). -/
theorem answers_selectedEdge {s : State} (t : Nat) (ht : s.ticking = true) (hsrc : s.source = 1) (hpin : s.inputOn 0 0 = true) :
    Answers (.downbeatEdge ⟨s.edgeFalls, t⟩) s (s.externalEdge t s.nextNumber) := by
  rw [Answers, exec_downbeatEdge, State.downbeatEdge_selected t ht hsrc hpin]

/-- Settles O41: each source by the lemma on the branch it takes. -/
theorem downbeatSources : Obligations.DownbeatSources := by
  intro s ht hw n
  refine ⟨fun hsrc hh hs => ?_, fun hst hlost hgood => ?_, fun falling t hsrc hpin => ⟨fun hother => ?_, ?_⟩,
    fun hst hh hs hsrc => ⟨fun hm => ?_, fun hm => ?_⟩⟩
  · rw [Answers, exec_downbeat, State.downbeat_eq_internalDownbeat ht hw (.inl hsrc), State.internalDownbeat_of_kept _ hh hs, State.nextNumber_eq]
  · rw [Answers, exec_downbeat, State.downbeat_eq_internalDownbeat ht hw (.inr ⟨hst, Clock.offEdges_of_lost hlost hgood⟩),
      State.internalDownbeat_of_lost _ hlost, State.nextNumber_eq]
  · rw [Answers, exec_downbeatEdge, State.downbeatEdge_other t hother]
  · rintro rfl
    have hedge := answers_selectedEdge t ht hsrc hpin
    refine ⟨?_, fun hst hh hs => ⟨fun hearly => ?_, fun hlate => ?_⟩, fun hst hlost hgood hnew hlast hnext => ?_⟩
    · rintro (hst | ⟨hh, hs, hlo, hhi⟩)
      · rwa [State.externalEdge_first t _ hst] at hedge
      · cases hst : s.clk.started
        · rwa [State.externalEdge_first t _ hst] at hedge
        · rwa [State.externalEdge_near _ hst hh hs hlo hhi] at hedge
    · rwa [State.externalEdge_early _ hst (Clock.offEdges_of_kept hh hs) hearly] at hedge
    · rwa [State.externalEdge_late _ hst (Clock.offEdges_of_kept hh hs) hlate] at hedge
    · rwa [State.externalEdge_off _ hst (Clock.offEdges_of_lost hlost hgood), State.holdoverEdge_next hlast hnext hnew] at hedge
  · rw [Answers, exec_flywheelDownbeat, State.flywheel_missed ht hst hh hs hsrc hm, State.nextNumber_eq]
  · rw [Answers, exec_flywheelDownbeat, State.flywheel_lost ht hst hh hs hsrc hm, State.nextNumber_eq]

end Sys2Proof.Claims
end

section
/-!
LAWS. What a command, a run or a voice reads as after it was changed, and what such a change leaves as it was.
-/
namespace Sys2Proof.Machine

/-! ## Lists -/

theorem getElem?_updAt_same {α : Type} (i : Nat) (f : α → α) (l : List α) : (updAt i f l)[i]? = l[i]?.map f := by
  induction l generalizing i with
  | nil => cases i <;> rfl
  | cons x l ih =>
    cases i with
    | zero => rfl
    | succ i => simpa [updAt] using ih i

/-! ## Looking up what was changed -/

theorem State.cmd?_cid {s : State} {cid : Nat} {c : Cmd} (h : s.cmd? cid = some c) : c.cid = cid := by
  simpa using List.find?_some h

theorem State.cmd?_cmdMap (s : State) (cid : Nat) {f : Cmd → Cmd} (hf : ∀ x, (f x).cid = x.cid) :
    (s.cmdMap cid f).cmd? cid = (s.cmd? cid).map f :=
  find?_updFirst _ _ _ (fun x hx => by simpa [hf] using hx)

theorem State.run?_runMap (s : State) (cid : Nat) {f : Run → Run} (hf : ∀ x, (f x).cid = x.cid) :
    (s.runMap cid f).run? cid = (s.run? cid).map f :=
  find?_updFirst _ _ _ (fun x hx => by simpa [hf] using hx)

theorem State.voice?_voiceMap (s : State) (cid : Nat) {f : Voice → Voice} (hf : ∀ x, (f x).cid = x.cid) :
    (s.voiceMap cid f).voice? cid = (s.voice? cid).map f :=
  find?_updFirst _ _ _ (fun x hx => by simpa [hf] using hx)

/-! ## What a change of a voice, a run or the requests leaves as it was -/

@[simp] theorem State.voiceMap_regs (s : State) (cid : Nat) (f : Voice → Voice) : (s.voiceMap cid f).regs = s.regs := rfl
@[simp] theorem State.voiceMap_out (s : State) (cid : Nat) (f : Voice → Voice) : (s.voiceMap cid f).out = s.out := rfl
@[simp] theorem State.voiceMap_cmd? (s : State) (cid k : Nat) (f : Voice → Voice) : (s.voiceMap cid f).cmd? k = s.cmd? k := rfl
@[simp] theorem State.voiceMap_run? (s : State) (cid k : Nat) (f : Voice → Voice) : (s.voiceMap cid f).run? k = s.run? k := rfl
@[simp] theorem State.voiceMap_shelfAt? (s : State) (cid k : Nat) (f : Voice → Voice) : (s.voiceMap cid f).shelfAt? k = s.shelfAt? k := rfl

@[simp] theorem State.runMap_regs (s : State) (cid : Nat) (f : Run → Run) : (s.runMap cid f).regs = s.regs := rfl
@[simp] theorem State.runMap_out (s : State) (cid : Nat) (f : Run → Run) : (s.runMap cid f).out = s.out := rfl
@[simp] theorem State.runMap_voice? (s : State) (cid k : Nat) (f : Run → Run) : (s.runMap cid f).voice? k = s.voice? k := rfl

@[simp] theorem State.dropReq_regs (s : State) (rid : Nat) : (s.dropReq rid).regs = s.regs := rfl
@[simp] theorem State.dropReq_out (s : State) (rid : Nat) : (s.dropReq rid).out = s.out := rfl
@[simp] theorem State.dropReq_cmd? (s : State) (rid k : Nat) : (s.dropReq rid).cmd? k = s.cmd? k := rfl
@[simp] theorem State.dropReq_run? (s : State) (rid k : Nat) : (s.dropReq rid).run? k = s.run? k := rfl
@[simp] theorem State.dropReq_voice? (s : State) (rid k : Nat) : (s.dropReq rid).voice? k = s.voice? k := rfl
@[simp] theorem State.dropReq_shelfAt? (s : State) (rid k : Nat) : (s.dropReq rid).shelfAt? k = s.shelfAt? k := rfl

@[simp] theorem State.ev_run? (s : State) (g : Fld) (i k : Nat) : (s.ev g i).run? k = s.run? k := rfl
@[simp] theorem State.ev_voice? (s : State) (g : Fld) (i k : Nat) : (s.ev g i).voice? k = s.voice? k := rfl

end Sys2Proof.Machine
end

section
/-!
LAWS. A granule that lands (R263, R271, R278, R300), and a slice that runs out (R268).
-/
namespace Sys2Proof.Machine

/-! ## Records and spill words of a voice -/

/-- The landing slot of fetch `i` of a voice fills, unless the fetch is consumed already. -/
def Voice.land (i : Nat) (v : Voice) : Voice := if i < v.consumed then v else { v with landed := v.landed ++ [i] }

/-- A fetch of a voice is no longer in flight. -/
def Voice.back (v : Voice) : Voice := { v with outstanding := v.outstanding - 1 }

@[simp] theorem Voice.land_cid (i : Nat) (v : Voice) : (v.land i).cid = v.cid := by unfold Voice.land; split <;> rfl
@[simp] theorem Voice.land_outstanding (i : Nat) (v : Voice) : (v.land i).outstanding = v.outstanding := by unfold Voice.land; split <;> rfl
@[simp] theorem Voice.land_cands (i : Nat) (v : Voice) : (v.land i).cands = v.cands := by unfold Voice.land; split <;> rfl

theorem Voice.land_landed (i : Nat) (v : Voice) : (v.land i).landed = if i < v.consumed then v.landed else v.landed ++ [i] := by
  unfold Voice.land; split <;> rfl

section
variable {s : State} {cid i : Nat} {v : Voice} (far : Bool) (hv : s.voice? cid = some v)
include hv

/-- What a voice that has ended had in flight is dropped (R279). -/
theorem State.landFor_ended {cl : Client} (lost : Bool) (hcl : cl = .record cid i ∨ cl = .spill cid i) (hend : v.state = .stopped ∨ v.state = .done) :
    s.landFor far lost cl = s.voiceMap cid Voice.back := by
  rcases hcl with rfl | rfl <;> rcases hend with hend | hend <;> simp [State.landFor, hv, hend] <;> rfl

variable (hs : v.state ≠ .stopped) (hd : v.state ≠ .done)
include hs hd

theorem State.landFor_fetch {cl : Client} (hcl : cl = .record cid i ∨ cl = .spill cid i) :
    s.landFor far false cl = ((s.voiceMap cid Voice.back).voiceMap cid (Voice.land i)).makeReady cid := by
  rcases hcl with rfl | rfl <;> simp [State.landFor, hv, hs, hd] <;> rfl

/-- A lost record granule loses its candidate (R278). -/
theorem State.landFor_lostRecord {f : Fetch} (hf : v.plan[i]? = some f) :
    s.landFor far true (.record cid i) =
      ((((s.voiceMap cid Voice.back).ev (if far then voiEventFarError else voiEventDeepError)).loseCand cid f.cand).voiceMap cid
        (Voice.land i)).makeReady cid := by
  simp [State.landFor, hv, hs, hd, State.voice?_voiceMap, hf]
  rfl

end

/-- A candidate that is lost. -/
def Voice.lose (i : Nat) (v : Voice) : Voice := { v with cands := updAt i (fun c => { c with lost := true }) v.cands }

theorem State.voice?_loseCand (s : State) (cid i : Nat) : (s.loseCand cid i).voice? cid = (s.voice? cid).map (Voice.lose i) :=
  State.voice?_voiceMap s cid (f := Voice.lose i) (fun _ => rfl)

theorem State.run?_loseCand (s : State) (cid i : Nat) : (s.loseCand cid i).run? cid = (s.run? cid).map (fun r => { r with degraded := true }) :=
  State.run?_runMap (s.voiceMap cid (Voice.lose i)) cid (f := fun r => { r with degraded := true }) (fun _ => rfl)

@[simp] theorem State.loseCand_regs (s : State) (cid i : Nat) : (s.loseCand cid i).regs = s.regs := rfl
@[simp] theorem State.loseCand_out (s : State) (cid i : Nat) : (s.loseCand cid i).out = s.out := rfl

/-! ## Keys -/

/-- The key of a placed row gives candidate `i` of a voice its id, its norm, its attr word and its filter decision (R263). -/
def Voice.takeKey (c : Cmd) (i : Nat) (row : Row) (v : Voice) : Voice :=
  { v with
    passed := if filterPass c.filter row.attr then v.passed + 1 else v.passed
    cands := updAt i (fun y => { y with
      keyed := true, filteredOut := !filterPass c.filter row.attr, id := row.id, attr := row.attr, sqNorm := row.sqNorm }) v.cands }

theorem State.keyCand_placed {s : State} {h : Shelf} {c : Cmd} {i : Nat} {v : Voice} {y : Cand} {row : Row} (hv : s.voice? c.cid = some v)
    (hy : v.cands[i]? = some y) (hst : y.at_.staged = false) (hrow : h.row? y.at_.slab y.at_.row = some row) :
    s.keyCand h c i = (s.voiceMap c.cid (Voice.takeKey c i row)).runMap c.cid
      (fun r => if filterPass c.filter row.attr then { r with passed := r.passed + 1 } else { r with reranked := r.reranked + 1 }) := by
  simp [State.keyCand, hv, hy, hst, hrow]
  rfl

/-- A key that has landed goes to its candidate, and the voice goes on (R263, R265). -/
theorem State.landFor_key {s : State} {cid i : Nat} {v : Voice} {c : Cmd} {x : Run} {h : Shelf} (far : Bool) (hv : s.voice? cid = some v)
    (hs : v.state ≠ .stopped) (hd : v.state ≠ .done) (hc : s.cmd? cid = some c) (hx : s.run? cid = some x) (hh : s.shelfAt? x.shelf = some h) :
    s.landFor far false (.key cid i) = (((s.voiceMap cid Voice.back).keyCand h c i).issueAll cid).planRecords h cid := by
  simp [State.landFor, hv, hs, hd, hc, hx, hh]
  rfl

/-- What the key of a placed row makes of the run of a search without a voice (R300). -/
def Run.keyTaken (h : Shelf) (c : Cmd) (i : Nat) (y : ClEnt) (row : Row) (x : Run) : Run :=
  let r := { x with keysLeft := x.keysLeft.filter (fun j => j != i), reranked := x.reranked + 1 }
  if filterPass c.filter row.attr then
    { r with
      passed := r.passed + 1
      final := finInsert h c.k (finalOf h c (normMag h.elemFormat h.dim (c.queryVec h)) row.attr row.id y.score) r.final }
  else r

theorem Run.keyTaken_eq (h : Shelf) (c : Cmd) (i : Nat) (y : ClEnt) (row : Row) (x : Run) :
    x.keyTaken h c i y row =
      let pass := filterPass c.filter row.attr
      { x with
        keysLeft := x.keysLeft.filter (fun j => j != i), reranked := x.reranked + 1, passed := if pass then x.passed + 1 else x.passed
        final := if pass then finInsert h c.k (finalOf h c (normMag h.elemFormat h.dim (c.queryVec h)) row.attr row.id y.score) x.final
          else x.final } := by
  by_cases hp : filterPass c.filter row.attr = true <;> simp [Run.keyTaken, hp]

/-- The key reader goes on, and a run whose last key is in is complete (R300). -/
def State.keyDone (s : State) (cid : Nat) : State :=
  match s.run? cid with
  | some r => if r.keysLeft = [] then (s.nextKeys.finishRun cid).endRerank else s.nextKeys
  | none => s

theorem State.keyDone_of_run {s : State} {cid : Nat} {r : Run} (h : s.run? cid = some r) :
    s.keyDone cid = if r.keysLeft = [] then (s.nextKeys.finishRun cid).endRerank else s.nextKeys := by
  simp [State.keyDone, h]

section
variable {s : State} {h : Shelf} {c : Cmd} {i : Nat} {x : Run} {y : ClEnt} {row : Row} (hx : s.run? c.cid = some x)
include hx

theorem State.run?_keyTaken : (s.runMap c.cid (Run.keyTaken h c i y row)).run? c.cid = some (x.keyTaken h c i y row) := by
  have hcid : ∀ r : Run, (r.keyTaken h c i y row).cid = r.cid := fun r => by rw [Run.keyTaken_eq]
  rw [State.run?_runMap s c.cid hcid, hx]; rfl

theorem State.codaKey_placed (hy : x.cands[i]? = some y) (hst : y.at_.staged = false) (hrow : h.row? y.at_.slab y.at_.row = some row) :
    s.codaKey h c i false = (s.runMap c.cid (Run.keyTaken h c i y row)).keyDone c.cid := by
  simp [State.codaKey, hx, hy, hst, hrow]
  rfl

end

theorem State.landFor_codaKey {s : State} {cid i : Nat} {c : Cmd} {x : Run} {h : Shelf} (far lost : Bool) (hc : s.cmd? cid = some c)
    (hx : s.run? cid = some x) (hh : s.shelfAt? x.shelf = some h) : s.landFor far lost (.codaKey cid i) = s.codaKey h c i lost := by
  simp [State.landFor, hc, hx, hh]

/-! ## A slice that has run out -/

theorem State.sliceExpire_switch {s : State} {u t : Nat} {x : RUnit} {v w : Voice} {cur : List Int} (hx : (s.advance t).rr.units[u]? = some x)
    (hcid : x.voice = some v.cid) (hv : (s.advance t).voice? v.cid = some v)
    (hw : (s.advance t).pickVoice ((s.advance t).readyVoices ++ [{ v.readyFrom (s.advance t).clk.now with acc := x.acc }]) = some (w, cur))
    (hne : w.cid ≠ v.cid) (hrun : 4096 * 640 ≤ (s.advance t).clk.now - x.since) :
    s.sliceExpire u t = (((s.advance t).voiceMap v.cid (fun _ => { v.readyFrom (s.advance t).clk.now with acc := x.acc })).unitMap u
      (fun y => { y with voice := none })).switchIn u (s.advance t).clk.now := by
  simp [State.sliceExpire, hx, hcid, hv, hw, hne, hrun]

/-! ## The commands -/

theorem State.granuleLand_none {s : State} {rid t : Nat}
    (h : (s.advance t).rr.reqs.find? (fun r => r.rid == rid && r.returned) = none) : s.granuleLand rid t = s.advance t := by
  simp [State.granuleLand, h]

theorem exec_granuleLand (rid t : Nat) (s : State) : exec (.granuleLand rid t) s = .next (s.granuleLand rid t).weaveRun := rfl

theorem exec_voiceSliceExpire (unit : Fin 16) (t : Nat) (s : State) :
    exec (.voiceSliceExpire unit t) s = .next (s.sliceExpire unit.val t).weaveRun := rfl

theorem exec_telemetrySample (t : Nat) (s : State) : exec (.telemetrySample t) s = .next (s.advance t) := rfl

end Sys2Proof.Machine
end

section
/-!
PROOFS. Granules land at their voices, and a slice that has run out gives its unit to another voice.
-/
namespace Sys2Proof.Claims
open Sys2Proof Sys2Proof.Machine

section
variable {s : State} {rid t : Nat} {r : Req} (hr : (s.advance t).rr.reqs.find? (fun r => r.rid == rid && r.returned) = some r)
include hr

/-- A granule read for one client lands for it, and the re-rank goes on (R271, R272). -/
theorem answers_granuleLand {cl : Client} {w : State} (hcl : r.clients = [cl])
    (hw : ((s.advance t).dropReq rid).landFor r.far r.lost cl = w) :
    Answers (.granuleLand rid t) s (afterLanding (s.advance t).tight w).weaveRun := by
  have hland : s.granuleLand rid t = afterLanding (s.advance t).tight w := by
    simp [State.granuleLand, hr, hcl, hw]
    rfl
  rw [Answers, exec_granuleLand, hland]

variable {cid i : Nat} {v : Voice} (hv : (s.advance t).voice? cid = some v)
include hv

/-- A record or spill granule takes its landing slot (R271). -/
theorem answers_granuleLand_fetch (hcl : r.clients = [.record cid i] ∨ r.clients = [.spill cid i]) (hs : v.state ≠ .stopped) (hd : v.state ≠ .done)
    (hl : r.lost = false) :
    ∃ (w : State) (v' : Voice), w.voice? cid = some v' ∧ v'.landed = (if i < v.consumed then v.landed else v.landed ++ [i]) ∧
      v'.outstanding = v.outstanding - 1 ∧ w.regs = (s.advance t).regs ∧ w.out = (s.advance t).out ∧
      Answers (.granuleLand rid t) s (afterLanding (s.advance t).tight (w.makeReady cid)).weaveRun := by
  obtain ⟨cl, hcl, hkind⟩ : ∃ cl, r.clients = [cl] ∧ (cl = .record cid i ∨ cl = .spill cid i) := by
    rcases hcl with h | h
    · exact ⟨_, h, .inl rfl⟩
    · exact ⟨_, h, .inr rfl⟩
  refine ⟨(((s.advance t).dropReq rid).voiceMap cid Voice.back).voiceMap cid (Voice.land i), v.back.land i, ?_, v.back.land_landed i, by simp [Voice.back],
    rfl, rfl, answers_granuleLand hr hcl ?_⟩
  · rw [State.voice?_voiceMap _ _ (Voice.land_cid i), State.voice?_voiceMap _ _ (f := Voice.back) (fun _ => rfl), State.dropReq_voice?, hv]; rfl
  · rw [hl]; exact State.landFor_fetch _ (by simpa using hv) hs hd hkind

/-- A lost record granule loses its candidate and degrades the search (R278). -/
theorem answers_granuleLand_lost {f : Fetch} (hcl : r.clients = [.record cid i]) (hs : v.state ≠ .stopped) (hd : v.state ≠ .done) (hl : r.lost = true)
    (hf : v.plan[i]? = some f) :
    ∃ (w : State) (v' : Voice), w.voice? cid = some v' ∧ v'.cands = updAt f.cand (fun c => { c with lost := true }) v.cands ∧
      w.out = (s.advance t).out ∧ (s.sound = true → w.rd (if r.far then voiEventFarError else voiEventDeepError) = 1) ∧
      (∀ x, (s.advance t).run? cid = some x → w.run? cid = some { x with degraded := true }) ∧
      Answers (.granuleLand rid t) s (afterLanding (s.advance t).tight (w.makeReady cid)).weaveRun := by
  have hback : (((s.advance t).dropReq rid).voiceMap cid Voice.back).voice? cid = some v.back := by
    rw [State.voice?_voiceMap _ _ (f := Voice.back) (fun _ => rfl), State.dropReq_voice?, hv]; rfl
  refine ⟨((((s.advance t).dropReq rid).voiceMap cid Voice.back).ev (if r.far then voiEventFarError else voiEventDeepError)).loseCand cid f.cand
    |>.voiceMap cid (Voice.land i), (v.back.lose f.cand).land i, ?_, by simp [Voice.lose, Voice.back], rfl, fun hsound => ?_, fun x hx => ?_,
    answers_granuleLand hr hcl ?_⟩
  · rw [State.voice?_voiceMap _ _ (Voice.land_cid i), State.voice?_loseCand, State.ev_voice?, hback]; rfl
  · have hsorted : regSorted (s.advance t).regs = true := ((State.sound_iff _).1 ((Follows.refl s).advance.sound hsound)).1.1
    have hset : ∀ e : Fld, (((s.advance t).dropReq rid).voiceMap cid Voice.back |>.ev e).rd e = 1 % 2 ^ e.width :=
      fun e => State.rd_wr_same _ e 0 1 hsorted
    refine (hset _).trans ?_
    cases r.far <;> rfl
  · rw [State.voiceMap_run?, State.run?_loseCand, State.ev_run?, State.voiceMap_run?, State.dropReq_run?, hx]; rfl
  · rw [hl]; exact State.landFor_lostRecord _ (by simpa using hv) hs hd hf

/-- The key of a placed row goes to its candidate (R263). -/
theorem answers_granuleLand_key {c : Cmd} {x : Run} {h : Shelf} {y : Cand} {row : Row} (hcl : r.clients = [.key cid i]) (hs : v.state ≠ .stopped)
    (hd : v.state ≠ .done) (hl : r.lost = false) (hc : (s.advance t).cmd? cid = some c) (hx : (s.advance t).run? cid = some x)
    (hh : (s.advance t).shelfAt? x.shelf = some h) (hy : v.cands[i]? = some y) (hst : y.at_.staged = false)
    (hrow : h.row? y.at_.slab y.at_.row = some row) :
    ∃ (w : State) (v' : Voice), w.voice? cid = some v' ∧ v'.outstanding = v.outstanding - 1 ∧ w.regs = (s.advance t).regs ∧
      w.out = (s.advance t).out ∧
      v'.cands[i]? = some { y with
        keyed := true, filteredOut := !filterPass c.filter row.attr, id := row.id, attr := row.attr, sqNorm := row.sqNorm } ∧
      Answers (.granuleLand rid t) s (afterLanding (s.advance t).tight ((w.issueAll cid).planRecords h cid)).weaveRun := by
  obtain rfl := State.cmd?_cid hc
  have hback : (((s.advance t).dropReq rid).voiceMap c.cid Voice.back).voice? c.cid = some v.back := by
    rw [State.voice?_voiceMap _ _ (f := Voice.back) (fun _ => rfl), State.dropReq_voice?, hv]; rfl
  refine ⟨(((s.advance t).dropReq rid).voiceMap c.cid Voice.back).keyCand h c i, v.back.takeKey c i row, ?_, rfl, ?_, ?_, ?_,
    answers_granuleLand hr hcl ?_⟩
  · rw [State.keyCand_placed hback hy hst hrow, State.runMap_voice?, State.voice?_voiceMap _ _ (f := Voice.takeKey c i row) (fun _ => rfl), hback]; rfl
  · rw [State.keyCand_placed hback hy hst hrow]; rfl
  · rw [State.keyCand_placed hback hy hst hrow]; rfl
  · have htaken : (v.back.takeKey c i row).cands[i]? = _ := getElem?_updAt_same i _ v.cands
    rw [htaken, hy]; rfl
  · rw [hl]; exact State.landFor_key _ (by simpa using hv) hs hd (by simpa using hc) (by simpa using hx) (by simpa using hh)

end

/-- Settles O48: each client of a granule by the lemma on its landing, the slice and the sample by their own. -/
theorem voicesTakeTurns : Obligations.VoicesTakeTurns := by
  intro s
  refine ⟨fun rid t hnone => ?_, fun rid t cid i r v hr hv => ⟨answers_granuleLand_fetch hr hv, fun f hcl hs hd hl hf => ?_, fun hcl hend => ?_,
      fun c x h y row hcl hs hd hl hc hx hh hy hst hrow => answers_granuleLand_key hr hv hcl hs hd hl hc hx hh hy hst hrow⟩,
    fun rid t cid i r c x h y row hr hcl hl hc hx hh hy hst hrow => ?_, fun unit t x v w cur hx hcid hv hw hne hrun => ?_, fun t => exec_telemetrySample t s⟩
  · rw [Answers, exec_granuleLand, State.granuleLand_none hnone]
  · exact answers_granuleLand_lost hr hv hcl hs hd hl hf
  · rcases hcl with hcl | hcl
    · exact answers_granuleLand hr hcl (State.landFor_ended _ (by simpa using hv) _ (.inl rfl) hend)
    · exact answers_granuleLand hr hcl (State.landFor_ended _ (by simpa using hv) _ (.inr rfl) hend)
  · obtain rfl := State.cmd?_cid hc
    refine ⟨((s.advance t).dropReq rid).runMap c.cid (Run.keyTaken h c i y row), rfl, rfl, ?_, ?_⟩
    · rw [State.run?_keyTaken (by simpa using hx), Run.keyTaken_eq]
    · refine answers_granuleLand hr hcl ?_
      rw [State.landFor_codaKey _ _ (by simpa using hc) (by simpa using hx) (by simpa using hh), hl,
        State.codaKey_placed (by simpa using hx) hy hst hrow, State.keyDone_of_run (State.run?_keyTaken (by simpa using hx)), Run.keyTaken_eq]
  · rw [Answers, exec_voiceSliceExpire, State.sliceExpire_switch hx hcid hv hw hne hrun]

end Sys2Proof.Claims
end

section
/-!
LAWS. When a search may run (R71, R73), and how a point read is served (R472, R473).
-/
namespace Sys2Proof.Machine

/-! ## A command's own row -/

/-- A command that intake has passed and that is in order runs (R402, R412). -/
theorem State.row_of_ready {s : State} {cid op : Nat} {c : Cmd} (f : State → Cmd → State) (hl : s.live = true) (hc : s.cmd? cid = some c)
    (ho : c.opcode = op) (hs : c.stage = .ready) (hin : s.inOrder c = true) : s.row cid op f = f s c := by
  simp [State.row, hc, hl, ho, hs, hin]

@[simp] theorem State.cmdMap_regs (s : State) (cid : Nat) (f : Cmd → Cmd) : (s.cmdMap cid f).regs = s.regs := rfl
@[simp] theorem State.cmdMap_out (s : State) (cid : Nat) (f : Cmd → Cmd) : (s.cmdMap cid f).out = s.out := rfl
@[simp] theorem State.cmdMap_store (s : State) (cid : Nat) (f : Cmd → Cmd) : (s.cmdMap cid f).store = s.store := rfl
@[simp] theorem State.cmdMap_sweep (s : State) (cid : Nat) (f : Cmd → Cmd) : (s.cmdMap cid f).sweep = s.sweep := rfl
@[simp] theorem State.cmdMap_mem (s : State) (cid : Nat) (f : Cmd → Cmd) : (s.cmdMap cid f).mem = s.mem := rfl

/-! ## Searches and STATS -/

/-- A command that may be admitted from measure `f` to measure `l`. -/
def Cmd.candidate (f l : Nat) (c : Cmd) : Cmd := { c with first := f, last := l, stage := .candidate }

/-- A fetch that missed its limit counted (R71). -/
def State.noteLate (s : State) (late : Bool) : State := s.when late (fun s => (s.ev measEventFetchLate).bump telFetchLateCount)

@[simp] theorem State.noteLate_host (s : State) (late : Bool) : (s.noteLate late).host = s.host := by cases late <;> rfl
@[simp] theorem State.noteLate_out (s : State) (late : Bool) : (s.noteLate late).out = s.out := by cases late <;> rfl
@[simp] theorem State.noteLate_store (s : State) (late : Bool) : (s.noteLate late).store = s.store := by cases late <;> rfl
@[simp] theorem State.noteLate_sweep (s : State) (late : Bool) : (s.noteLate late).sweep = s.sweep := by cases late <;> rfl
@[simp] theorem State.noteLate_latched (s : State) (late : Bool) : (s.noteLate late).latched = s.latched := by cases late <;> rfl

theorem State.noteLate_cmd? (s : State) (late : Bool) (cid : Nat) : (s.noteLate late).cmd? cid = s.cmd? cid := by simp [State.cmd?]

theorem State.noteLate_isHead (s : State) (late : Bool) : (s.noteLate late).isHead = s.isHead := by
  cases late
  · rfl
  · have hrole : ((s.ev measEventFetchLate).bump telFetchLateCount).rd wvSelfRole = s.rd wvSelfRole :=
      State.rd_wr_other s measEventFetchLate wvSelfRole 0 0 1 (by decide)
    exact congrArg (· == 1) hrole

theorem State.lastMeasure_of_latched (s t : State) (c : Cmd) (f : Nat) (h : t.latched = s.latched) : t.lastMeasure c f = s.lastMeasure c f := by
  simp [State.lastMeasure, State.inForce, h]

/-- Off the head rim a search only becomes a candidate (R71, R73, R620). -/
theorem State.search_of_not_head {s : State} (c : Cmd) (h : s.isHead = false) :
    s.search c = (s.noteLate (s.firstMeasure c).2).cmdMap c.cid (Cmd.candidate (s.firstMeasure c).1 (s.lastMeasure c (s.firstMeasure c).1)) := by
  have hhead : ∀ f, ((s.noteLate (s.firstMeasure c).2).cmdMap c.cid f).isHead = false := fun f => (State.noteLate_isHead s _).trans h
  rw [← State.lastMeasure_of_latched s (s.noteLate (s.firstMeasure c).2) c _ (s.noteLate_latched _)]
  exact if_neg (by simp only [not_and_or]; exact .inl (by rw [Bool.not_eq_true]; exact hhead _))

/-- A command that cannot be deferred may run in one measure only (R73). -/
theorem State.lastMeasure_of_not_defer (s : State) {c : Cmd} (f : Nat) (h : c.deferOk = false) : s.lastMeasure c f = f := by
  simp [State.lastMeasure, h]

/-- The first measure of a command on a shelf that has a generation (R71). -/
theorem State.firstMeasure_fst {s : State} {c : Cmd} (h : ∀ h, s.shelfOf? c.shelf = some h → h.gen ≠ 0) :
    (s.firstMeasure c).1 = if c.queuedAt < s.clk.lastDb ∧ c.fetchedAt ≤ s.clk.lastDb + ns 12000 ∧ s.clk.planFrozen = false ∧ s.clk.phase = .admission
      then s.measure else measureAdd s.measure 1 := by
  cases hs : s.shelfOf? c.shelf with
  | none => simp [State.firstMeasure, hs, and_assoc]
  | some x => simp [State.firstMeasure, hs, h x hs, and_assoc]

/-- A command queued in this measure, or in the last one and since, has not missed the fetch limit of either (log entry 18). -/
theorem State.firstMeasure_snd_of_new {s : State} {c : Cmd} (h1 : s.clk.lastDb ≤ c.queuedAt) (h2 : s.clk.prevDb ≤ c.queuedAt) :
    (s.firstMeasure c).2 = false := by
  simp [State.firstMeasure, Nat.not_lt.2 h1, Nat.not_lt.2 h2]

theorem State.firstMeasure_snd_of_late {s : State} {c : Cmd} (h1 : c.queuedAt < s.clk.lastDb) (h2 : s.clk.lastDb + ns 12000 < c.fetchedAt) :
    (s.firstMeasure c).2 = true := by
  simp [State.firstMeasure, h1, Nat.not_le.2 h2]

/-! ## Granule reads -/

/-- What a granule read that is issued leaves as it was: the state without the requests, the reorder queues and the counts of the measure. -/
def State.besideReads (s : State) : State :=
  { s with tally := [], rr := { s.rr with reqs := [], nextRid := 0, nextArr := 0 }, mem := { s.mem with channels := [] } }

@[simp] theorem State.besideReads_bump (s : State) (f : Fld) (i n : Nat) : (s.bump f i n).besideReads = s.besideReads := rfl
@[simp] theorem State.besideReads_reqMap (s : State) (rid : Nat) (f : Req → Req) : (s.reqMap rid f).besideReads = s.besideReads := rfl
@[simp] theorem State.besideReads_channelMap (s : State) (h : Nat) (f : Channel → Channel) : (s.channelMap h f).besideReads = s.besideReads := rfl

@[simp] theorem State.besideReads_grantOne (s : State) (h : Nat) : (s.grantOne h).besideReads = s.besideReads := by
  unfold State.grantOne
  split
  · rfl
  · dsimp only
    split <;> rfl

@[simp] theorem State.besideReads_fillQueue (h k : Nat) (s : State) : (State.fillQueue h k s).besideReads = s.besideReads := by
  induction k generalizing s with
  | zero => rfl
  | succ k ih =>
    unfold State.fillQueue
    split
    · rfl
    · split
      · rfl
      · rw [ih, State.besideReads_grantOne]

@[simp] theorem State.besideReads_issue (s : State) (sq granule : Nat) (staging far : Bool) (c : Client) :
    (s.issue sq granule staging far c).besideReads = s.besideReads := by
  unfold State.issue
  split
  · rfl
  · cases staging
    · cases far
      · exact State.besideReads_fillQueue _ _ _
      · rfl
    · rfl

@[simp] theorem State.issue_out (s : State) (sq g : Nat) (st far : Bool) (c : Client) : (s.issue sq g st far c).out = s.out :=
  (congrArg (fun t : State => t.out) (s.besideReads_issue sq g st far c) :)
@[simp] theorem State.issue_store (s : State) (sq g : Nat) (st far : Bool) (c : Client) : (s.issue sq g st far c).store = s.store :=
  (congrArg (fun t : State => t.store) (s.besideReads_issue sq g st far c) :)
@[simp] theorem State.issue_cmd? (s : State) (sq g k : Nat) (st far : Bool) (c : Client) : (s.issue sq g st far c).cmd? k = s.cmd? k :=
  (congrArg (fun t : State => t.cmd? k) (s.besideReads_issue sq g st far c) :)
@[simp] theorem State.issue_pointUsed (s : State) (sq g : Nat) (st far : Bool) (c : Client) :
    (s.issue sq g st far c).mem.pointUsed = s.mem.pointUsed :=
  (congrArg (fun t : State => t.mem.pointUsed) (s.besideReads_issue sq g st far c) :)

/-! ## Point reads -/

section
variable (s : State) (cid : Nat) (p : Nat × Nat)

@[simp] theorem State.issuePoint_out : (s.issuePoint cid p).out = s.out := by simp [State.issuePoint, State.spend]
@[simp] theorem State.issuePoint_store : (s.issuePoint cid p).store = s.store := by simp [State.issuePoint, State.spend]
@[simp] theorem State.issuePoint_pointUsed : (s.issuePoint cid p).mem.pointUsed = s.mem.pointUsed + 1 := by simp [State.issuePoint, State.spend]

theorem State.cmd?_spend (n : Nat) : (s.spend cid n).cmd? cid = (s.cmd? cid).map (fun c => { c with spent := c.spent + n }) :=
  State.cmd?_cmdMap s cid (f := fun c => { c with spent := c.spent + n }) (fun _ => rfl)

theorem State.issuePoint_cmd? {c : Cmd} (h : s.cmd? cid = some c) : ∃ n, (s.issuePoint cid p).cmd? cid = some { c with spent := n } := by
  have hissue : ((s.issue 27 p.1 false false (.point cid p.2)).memMap (fun m => { m with pointUsed := m.pointUsed + 1 })).cmd? cid = some c :=
    (State.issue_cmd? s 27 p.1 cid false false _).trans h
  exact ⟨_, by rw [State.issuePoint, State.cmd?_spend, hissue]; rfl⟩

end

/-- The reads of a point read issued: they count against the budget, and the command has caused them (R472). -/
theorem State.issuePoints (cid : Nat) (l : List (Nat × Nat)) (s : State) {c : Cmd} (h : s.cmd? cid = some c) :
    let t := s.each l (fun s p => s.issuePoint cid p)
    t.out = s.out ∧ t.store = s.store ∧ t.mem.pointUsed = s.mem.pointUsed + l.length ∧ ∃ n, t.cmd? cid = some { c with spent := n } := by
  induction l generalizing s c with
  | nil => exact ⟨rfl, rfl, rfl, c.spent, h⟩
  | cons p l ih =>
    obtain ⟨n, hn⟩ := State.issuePoint_cmd? s cid p h
    obtain ⟨hout, hstore, hused, hcmd⟩ := ih (s.issuePoint cid p) hn
    refine ⟨hout.trans (by simp), hstore.trans (by simp), hused.trans ?_, hcmd⟩
    simp only [State.issuePoint_pointUsed, List.length_cons]
    omega

theorem State.cmd?_holdPoint (s : State) (c : Cmd) (h : Shelf) :
    (s.holdPoint c h).cmd? c.cid = (s.cmd? c.cid).map (fun x => { x with stage := .held, target := h.index }) :=
  State.cmd?_cmdMap s c.cid (f := fun x => { x with stage := .held, target := h.index }) (fun _ => rfl)

section
variable {s : State} {c : Cmd} {h : Shelf} (hl : h.lost = false) (hm : s.rd gdmStatusBelowMin ≠ 1)
include hl hm

/-- Outside its slot a point read waits (R97). -/
theorem State.pointServe_closed (ho : s.pointOpen = false) : s.pointServe c h = s.holdPoint c h := by
  simp [State.pointServe, hl, hm, ho]

/-- A staged vector is read from staging at once (R472). -/
theorem State.pointServe_staged {e : StgEnt} (ho : s.pointOpen = true) (he : s.stagedId? h.index (field c.param 0 6) = some e) :
    s.pointServe c h = (s.bump stgPtHitsCount).pointDone c (pointReply (field c.param 0 6) 1 1 e.attr e.sqNorm 0
      (pointParts h (field c.param 6 1) e.sweep e.vec)) stOk 1 := by
  simp [State.pointServe, hl, hm, ho, he]

end

/-- The granules of a placed row that a point read asks for (R424, R472). -/
def Shelf.pointGranules (h : Shelf) (want : Nat) (e : DirEnt) : List Nat :=
  h.keyGranule e.slab e.row :: (if want.testBit 0 then h.rowGranules e.slab e.row else []) ++
    (if want.testBit 1 then h.recGranules e.slab e.row else [])

/-- The reads a point read issues: the buckets it probes, and the granules of the row it finds. -/
def State.pointReads (s : State) (c : Cmd) (h : Shelf) : List Nat :=
  (s.probe h.handle (field c.param 0 6)).map s.dirGranule ++
    ((s.placedId? h.index (field c.param 0 6)).map (h.pointGranules (field c.param 6 1))).getD []

/-- The reply a point read takes from the directory (R424). -/
def State.pointAnswer (s : State) (c : Cmd) (h : Shelf) : Bytes :=
  (((s.placedId? h.index (field c.param 0 6)).bind (fun e => h.row? e.slab e.row)).map (fun r =>
    pointReply (field c.param 0 6) 1 0 r.attr r.sqNorm r.rowGen (pointParts h (field c.param 6 1) r.sweep r.record))).getD
    (pointReply (field c.param 0 6) 0 0 0 0 0 [])

/-- A vector that is not staged is read through the directory (R472). -/
theorem State.pointServe_directory {s : State} {c : Cmd} {h : Shelf} (hl : h.lost = false) (hm : s.rd gdmStatusBelowMin ≠ 1)
    (ho : s.pointOpen = true) (hn : s.stagedId? h.index (field c.param 0 6) = none) (hp : s.probe h.handle (field c.param 0 6) ≠ []) :
    s.pointServe c h = (s.cmdMap c.cid (fun x => { x with
        stage := .granted, first := (s.pointReads c h).length, last := 0, operands := s.pointAnswer c h })).each
      ((s.pointReads c h).zip (List.range (s.pointReads c h).length)) (fun s p => s.issuePoint c.cid p) := by
  cases hit : s.placedId? h.index (field c.param 0 6) with
  | none => simp [State.pointServe, State.pointReads, State.pointAnswer, hl, hm, ho, hn, hp, hit]
  | some e =>
    cases hrow : h.row? e.slab e.row <;>
      simp [State.pointServe, State.pointReads, State.pointAnswer, Shelf.pointGranules, hl, hm, ho, hn, hp, hit, hrow]

/-- A reply of a command of this chip's host is posted under its seat's identity (R414). -/
theorem State.reply_of_canPost {s : State} {c : Cmd} (addr : Nat) (bytes : Bytes) (ho : c.origin = 0) (hq : c.quiet = false)
    (hp : (s.fn c.seat).canPost = true) :
    s.reply c addr bytes =
      (s.emit (.hostWrite c.seat addr bytes false)).spend c.cid (bytes.length * s.coeff .hostByte (s.linkSpeed c.seat)) := by
  simp [State.reply, State.post, ho, hq, hp]
  rfl

theorem State.pointRead_of_shelf {s : State} {c : Cmd} {h : Shelf} (hw : s.wshelf? c.shelf = none) (hs : s.shelfOf? c.shelf = some h) :
    s.pointRead c = s.pointServe c h := by
  simp [State.pointRead, hw, hs]

theorem State.pointRead_of_none {s : State} {c : Cmd} (hw : s.wshelf? c.shelf = none) (hs : s.shelfOf? c.shelf = none) :
    s.pointRead c = s.refuse c stNoShelf := by
  simp [State.pointRead, hw, hs]

theorem State.pointReads_length (s : State) (c : Cmd) (h : Shelf) : (s.pointReads c h).length =
    (s.probe h.handle (field c.param 0 6)).length + (((s.placedId? h.index (field c.param 0 6)).map (fun e =>
      1 + (if (field c.param 6 1).testBit 0 then (h.rowGranules e.slab e.row).length else 0) +
        (if (field c.param 6 1).testBit 1 then (h.recGranules e.slab e.row).length else 0))).getD 0) := by
  cases hit : s.placedId? h.index (field c.param 0 6) with
  | none => simp [State.pointReads, hit]
  | some e => simp [State.pointReads, hit, Shelf.pointGranules, apply_ite List.length]; omega

/-! ## The commands -/

theorem exec_search (cid : Nat) (s : State) : exec (.search cid) s = .next (s.row cid 0x10 State.search) := rfl

theorem exec_searchFused (cid : Nat) (s : State) : exec (.searchFused cid) s = .next (s.row cid 0x11 State.search) := rfl

theorem exec_stats (cid : Nat) (s : State) : exec (.stats cid) s = .next (s.row cid 0x18 State.search) := rfl

theorem exec_getById (cid : Nat) (s : State) : exec (.getById cid) s = .next (s.row cid 0x12 State.pointRead) := rfl

end Sys2Proof.Machine
end

section
/-!
PROOFS. When a search or STATS may run, and what GET_BY_ID answers.
-/
namespace Sys2Proof.Claims
open Sys2Proof Sys2Proof.Machine

section
variable {cid op : Nat} {c : Cmd} {s : State} (hready : hostReady s cid op c)
include hready

/-- A command that is ready runs its own row. -/
theorem row_of_hostReady (f : State → Cmd → State) : s.row cid op f = f s c := by
  obtain ⟨hlive, hc, hop, hstage, -, -, horder⟩ := hready
  exact State.row_of_ready f hlive hc hop hstage horder

theorem answers_search {i : Instr} (hi : i = .search cid ∧ op = 0x10 ∨ i = .searchFused cid ∧ op = 0x11 ∨ i = .stats cid ∧ op = 0x18) :
    Answers i s (s.search c) := by
  rcases hi with ⟨rfl, rfl⟩ | ⟨rfl, rfl⟩ | ⟨rfl, rfl⟩
  · rw [Answers, exec_search, row_of_hostReady hready]
  · rw [Answers, exec_searchFused, row_of_hostReady hready]
  · rw [Answers, exec_stats, row_of_hostReady hready]

/-- A search becomes a candidate of the first measure it may run in, and nothing is sent (R71, R73). -/
theorem answers_search_candidate (hsound : s.sound = true) (hhead : s.isHead = false) (hgen : ∀ h, s.shelfOf? c.shelf = some h → h.gen ≠ 0)
    {i : Instr} (hi : i = .search cid ∧ op = 0x10 ∨ i = .searchFused cid ∧ op = 0x11 ∨ i = .stats cid ∧ op = 0x18) :
    ∃ v c', Answers i s v ∧ v.cmd? cid = some c' ∧ c'.stage = .candidate ∧
      c'.first = (if c.queuedAt < s.clk.lastDb ∧ c.fetchedAt ≤ s.clk.lastDb + ns 12000 ∧ s.clk.planFrozen = false ∧ s.clk.phase = .admission
        then s.measure else measureAdd s.measure 1) ∧
      c' = { c with first := c'.first, last := c'.last, stage := .candidate } ∧ (c.deferOk = false → c'.last = c'.first) ∧
      v.out = s.out ∧ v.store = s.store ∧ v.sweep = s.sweep ∧
      (s.clk.lastDb ≤ c.queuedAt → s.clk.prevDb ≤ c.queuedAt → v.regs = s.regs) ∧
      (c.queuedAt < s.clk.lastDb → s.clk.lastDb + ns 12000 < c.fetchedAt → v.rd measEventFetchLate = 1) := by
  have hanswers := answers_search hready hi
  obtain ⟨-, hc, -⟩ := hready
  obtain rfl := State.cmd?_cid hc
  obtain ⟨⟨hsorted, -⟩, -⟩ := (State.sound_iff s).1 hsound
  rw [State.search_of_not_head c hhead] at hanswers
  refine ⟨_, c.candidate (s.firstMeasure c).1 (s.lastMeasure c (s.firstMeasure c).1), hanswers, ?_, rfl, State.firstMeasure_fst hgen, rfl,
    State.lastMeasure_of_not_defer s _, by simp, by simp, by simp, fun h1 h2 => ?_, fun h1 h2 => ?_⟩
  · rw [State.cmd?_cmdMap _ _ (f := Cmd.candidate _ _) (fun _ => rfl), State.noteLate_cmd?, hc]; rfl
  · rw [State.firstMeasure_snd_of_new h1 h2]; rfl
  · rw [State.firstMeasure_snd_of_late h1 h2]
    exact State.rd_wr_same s measEventFetchLate 0 1 hsorted

end

section
variable {cid : Nat} {c : Cmd} {s : State} (hready : hostReady s cid 0x12 c) (hw : s.wshelf? c.shelf = none)
include hready hw

theorem answers_getById_noShelf (hs : s.shelfOf? c.shelf = none) : Answers (.getById cid) s (s.refuse c stNoShelf) := by
  rw [Answers, exec_getById, row_of_hostReady hready, State.pointRead_of_none hw hs]

variable {h : Shelf} (hs : s.shelfOf? c.shelf = some h) (hl : h.lost = false) (hm : s.rd gdmStatusBelowMin ≠ 1)
include hs

theorem answers_getById : Answers (.getById cid) s (s.pointServe c h) := by
  rw [Answers, exec_getById, row_of_hostReady hready, State.pointRead_of_shelf hw hs]

include hl hm

/-- Outside its slot a point read waits (R97). -/
theorem answers_getById_closed (ho : s.pointOpen = false) :
    ∃ v, Answers (.getById cid) s v ∧ v.cmd? cid = some { c with stage := .held, target := h.index } ∧ v.out = s.out ∧ v.regs = s.regs := by
  have hanswers := answers_getById hready hw hs
  obtain ⟨-, hc, -⟩ := hready
  obtain rfl := State.cmd?_cid hc
  rw [State.pointServe_closed hl hm ho] at hanswers
  exact ⟨_, hanswers, by rw [State.cmd?_holdPoint, hc]; rfl, rfl, rfl⟩

/-- A vector that is not staged is looked up through the directory (R472). -/
theorem answers_getById_directory (ho : s.pointOpen = true) (hn : s.stagedId? h.index (field c.param 0 6) = none)
    (hp : s.probe h.handle (field c.param 0 6) ≠ []) :
    ∃ v c', Answers (.getById cid) s v ∧ v.cmd? cid = some c' ∧ c'.stage = .granted ∧ c'.last = 0 ∧ c'.first = (s.pointReads c h).length ∧
      v.mem.pointUsed = s.mem.pointUsed + c'.first ∧ c'.operands = s.pointAnswer c h ∧ v.out = s.out ∧ v.store = s.store := by
  have hanswers := answers_getById hready hw hs
  obtain ⟨-, hc, -⟩ := hready
  obtain rfl := State.cmd?_cid hc
  rw [State.pointServe_directory hl hm ho hn hp] at hanswers
  have hgranted := State.cmd?_cmdMap s c.cid
    (f := fun x => { x with stage := .granted, first := (s.pointReads c h).length, last := 0, operands := s.pointAnswer c h }) (fun _ => rfl)
  rw [hc] at hgranted
  obtain ⟨hout, hstore, hused, n, hcmd⟩ := State.issuePoints c.cid ((s.pointReads c h).zip (List.range (s.pointReads c h).length)) _ hgranted
  exact ⟨_, _, hanswers, hcmd, rfl, rfl, rfl, hused.trans (by simp), rfl, hout, hstore⟩

/-- A staged vector is read from staging (R472). -/
theorem answers_getById_staged {e : StgEnt} (ho : s.pointOpen = true) (he : s.stagedId? h.index (field c.param 0 6) = some e)
    (hpost : (s.fn c.seat).canPost = true) :
    ∃ w : State, Answers (.getById cid) s (w.complete c stOk s.measure (bufAddr c.param 8) 1 true) ∧
      w.out = s.out ++ [.hostWrite c.seat (bufAddr c.param 8) (pointReply (field c.param 0 6) 1 1 e.attr e.sqNorm 0
        (pointParts h (field c.param 6 1) e.sweep e.vec)) false] ∧ w.store = s.store ∧ w.regs = s.regs := by
  have hanswers := answers_getById hready hw hs
  obtain ⟨-, -, -, -, horigin, hquiet, -⟩ := hready
  rw [State.pointServe_staged hl hm ho he, State.pointDone, State.reply_of_canPost (s := s.bump stgPtHitsCount) _ _ horigin hquiet hpost] at hanswers
  exact ⟨_, hanswers, rfl, rfl, rfl⟩

end

/-- Settles O35: a search by the state it becomes a candidate in, a point read by the branch of its service. -/
theorem searchesAndPointReads : Obligations.SearchesAndPointReads := by
  intro cid op c s hsound hready
  refine ⟨fun hhead hgen i hi => answers_search_candidate hready hsound hhead hgen hi, ?_⟩
  rintro rfl hw
  refine ⟨answers_getById_noShelf hready hw, fun h hs hl hm => ⟨answers_getById_closed hready hw hs hl hm, fun ho hn hp => ?_,
    fun e ho he hpost => answers_getById_staged hready hw hs hl hm ho he hpost⟩⟩
  obtain ⟨v, c', hv, hcmd, hstage, hlast, hfirst, hused, hoperands, hout, hstore⟩ := answers_getById_directory hready hw hs hl hm ho hn hp
  exact ⟨v, c', hv, hcmd, hstage, hlast, hfirst.trans (State.pointReads_length s c h), hused, hoperands, hout, hstore⟩

end Sys2Proof.Claims
end

section
/-!
LAWS. What postings, completions, messages and error reports leave as it was: the settings in force, the clock, the sweep, the re-rank, the
store and graphics memory.
-/
namespace Sys2Proof.Machine

/-- What a posting, a completion or an error report leaves as it was: the state without its registers and counts, the host side, the weave, the
power state, what was sent and the count of free values. -/
def State.besidePosts (s : State) : State :=
  { s with regs := [], tally := [], host := hostReset, weave := weaveReset, pwr := powerReset, out := [], free := 0 }

/-! ## Branches and folds -/

theorem State.when_keeps {α : Type} {π : State → α} (s : State) (b : Bool) {f : State → State} (h : ∀ t, π (f t) = π t) :
    π (s.when b f) = π s := by
  cases b
  · rfl
  · exact h s

theorem State.foldl_keeps {α β : Type} {π : State → α} (l : List β) (s : State) {f : State → β → State} (h : ∀ t x, π (f t x) = π t) :
    π (l.foldl f s) = π s := by
  induction l generalizing s with
  | nil => rfl
  | cons x l ih => exact (ih _).trans (h s x)

theorem State.each_keeps {α β : Type} {π : State → α} (l : List β) (s : State) {f : State → β → State} (h : ∀ t x, π (f t x) = π t) :
    π (s.each l f) = π s := State.foldl_keeps l s h

@[simp] theorem State.besidePosts_when (s : State) (b : Bool) (f : State → State) :
    (s.when b f).besidePosts = if b then (f s).besidePosts else s.besidePosts := by cases b <;> rfl

@[simp] theorem State.besidePosts_ite (p : Prop) [Decidable p] (s t : State) :
    (if p then s else t).besidePosts = if p then s.besidePosts else t.besidePosts := apply_ite _ p s t

/-! ## The plainest updates -/

@[simp] theorem State.besidePosts_wr (s : State) (f : Fld) (i v : Nat) : (s.wr f i v).besidePosts = s.besidePosts := rfl
@[simp] theorem State.besidePosts_wrw (s : State) (f : Fld) (seat i v : Nat) : (s.wrw f seat i v).besidePosts = s.besidePosts := rfl
@[simp] theorem State.besidePosts_ev (s : State) (f : Fld) (i : Nat) : (s.ev f i).besidePosts = s.besidePosts := rfl
@[simp] theorem State.besidePosts_inc (s : State) (f : Fld) (i n : Nat) : (s.inc f i n).besidePosts = s.besidePosts := rfl
@[simp] theorem State.besidePosts_incw (s : State) (f : Fld) (seat n : Nat) : (s.incw f seat n).besidePosts = s.besidePosts := rfl
@[simp] theorem State.besidePosts_bump (s : State) (f : Fld) (i n : Nat) : (s.bump f i n).besidePosts = s.besidePosts := rfl
@[simp] theorem State.besidePosts_bumpSet (s : State) (f : Fld) (i v : Nat) : (s.bumpSet f i v).besidePosts = s.besidePosts := rfl
@[simp] theorem State.besidePosts_hostMap (s : State) (f : HostSt → HostSt) : (s.hostMap f).besidePosts = s.besidePosts := rfl
@[simp] theorem State.besidePosts_weaveMap (s : State) (f : Weave → Weave) : (s.weaveMap f).besidePosts = s.besidePosts := rfl
@[simp] theorem State.besidePosts_pwrMap (s : State) (f : Power → Power) : (s.pwrMap f).besidePosts = s.besidePosts := rfl
@[simp] theorem State.besidePosts_emit (s : State) (o : Out) : (s.emit o).besidePosts = s.besidePosts := rfl
@[simp] theorem State.besidePosts_tickFree (s : State) : s.tickFree.besidePosts = s.besidePosts := rfl
@[simp] theorem State.besidePosts_tickFrees (s : State) (n : Nat) : (s.tickFrees n).besidePosts = s.besidePosts := rfl

/-! ## Postings and interrupts -/

@[simp] theorem State.besidePosts_fnMap (s : State) (seat : Nat) (f : Fn → Fn) : (s.fnMap seat f).besidePosts = s.besidePosts := rfl
@[simp] theorem State.besidePosts_cpqMap (s : State) (fn q : Nat) (f : Cpq → Cpq) : (s.cpqMap fn q f).besidePosts = s.besidePosts := rfl
@[simp] theorem State.besidePosts_cmdMap (s : State) (cid : Nat) (f : Cmd → Cmd) : (s.cmdMap cid f).besidePosts = s.besidePosts := rfl
@[simp] theorem State.besidePosts_spend (s : State) (cid n : Nat) : (s.spend cid n).besidePosts = s.besidePosts := rfl
@[simp] theorem State.besidePosts_charge (s : State) (seat nj : Nat) : (s.charge seat nj).besidePosts = s.besidePosts := rfl
@[simp] theorem State.besidePosts_closeWindow (s : State) (c : Cmd) (st m l n : Nat) (p : Bool) :
    (s.closeWindow c st m l n p).besidePosts = s.besidePosts := rfl
@[simp] theorem State.besidePosts_dropCmd (s : State) (c : Cmd) : (s.dropCmd c).besidePosts = s.besidePosts := rfl
@[simp] theorem State.besidePosts_countStatus (s : State) (seat st : Nat) : (s.countStatus seat st).besidePosts = s.besidePosts := rfl
@[simp] theorem State.besidePosts_settleCpqIdle (s : State) (fn q : Nat) : (s.settleCpqIdle fn q).besidePosts = s.besidePosts := rfl

@[simp] theorem State.besidePosts_raise (s : State) (seat v : Nat) : (s.raise seat v).besidePosts = s.besidePosts := by
  simp [State.raise]

@[simp] theorem State.besidePosts_fevent (s : State) (f : Fld) (seat : Nat) : (s.fevent f seat).besidePosts = s.besidePosts := by
  simp [State.fevent]

@[simp] theorem State.besidePosts_post (s : State) (seat addr : Nat) (b : Bytes) (r : Bool) : (s.post seat addr b r).besidePosts = s.besidePosts := by
  simp [State.post]

@[simp] theorem State.besidePosts_sendPending (s : State) (fn q : Nat) : (s.sendPending fn q).besidePosts = s.besidePosts := by
  simp [State.sendPending]

@[simp] theorem State.besidePosts_reply (s : State) (c : Cmd) (addr : Nat) (b : Bytes) : (s.reply c addr b).besidePosts = s.besidePosts := by
  simp [State.reply]

@[simp] theorem State.besidePosts_writeCompletion (s : State) (c : Cmd) (st orig tag m l n r : Nat) :
    (s.writeCompletion c st orig tag m l n r).besidePosts = s.besidePosts := by
  simp [State.writeCompletion]

/-! ## Messages of the weave -/

@[simp] theorem State.besidePosts_strandMap (s : State) (i : Nat) (f : Strand → Strand) : (s.strandMap i f).besidePosts = s.besidePosts := rfl
@[simp] theorem State.besidePosts_emitBlock (s : State) (i : Nat) (c : Bool) (d : Nat) : (s.emitBlock i c d).besidePosts = s.besidePosts := rfl

@[simp] theorem State.besidePosts_pumpOne (s : State) (i : Nat) : (s.pumpOne i).besidePosts = s.besidePosts := by
  simp only [State.pumpOne]
  split
  · split <;> rfl
  · rfl

@[simp] theorem State.besidePosts_pump (s : State) (i : Nat) : (s.pump i).besidePosts = s.besidePosts :=
  State.foldl_keeps _ s (fun t _ => t.besidePosts_pumpOne i)

@[simp] theorem State.besidePosts_queueMsg (s : State) (i : Nat) (m : Bytes) : (s.queueMsg i m).besidePosts = s.besidePosts := by
  simp [State.queueMsg]

@[simp] theorem State.besidePosts_routeIn (s : State) (map : List MapEnt) (self : Nat) (up : Option Nat) (m : Bytes) :
    (s.routeIn map self up m).besidePosts = s.besidePosts := by
  simp only [State.routeIn]
  split
  · refine State.each_keeps _ s (fun t c => ?_)
    split <;> simp
  · split <;> split <;> simp

@[simp] theorem State.besidePosts_send (s : State) (t dst op : Nat) (b : Bytes) : (s.send t dst op b).besidePosts = s.besidePosts := by
  simp [State.send, State.route]

/-! ## Completions -/

@[simp] theorem State.besidePosts_finishHost (s : State) (c : Cmd) (st m l n : Nat) (e : Bool) :
    (s.finishHost c st m l n e).besidePosts = s.besidePosts := by
  simp [State.finishHost]

@[simp] theorem State.besidePosts_finish (s : State) (c : Cmd) (st m l n : Nat) (e : Bool) : (s.finish c st m l n e).besidePosts = s.besidePosts := by
  unfold State.finish
  split <;> simp

@[simp] theorem State.besidePosts_finishDuplicate (s : State) (c : Cmd) (e : WinEnt) : (s.finishDuplicate c e).besidePosts = s.besidePosts := by
  simp [State.finishDuplicate]

@[simp] theorem State.besidePosts_wakeDuplicates (s : State) (c : Cmd) : (s.wakeDuplicates c).besidePosts = s.besidePosts := by
  simp only [State.wakeDuplicates]
  split
  · rfl
  · split
    · rfl
    · split
      · rfl
      · exact State.each_keeps _ s (fun t d => t.besidePosts_finishDuplicate d _)

@[simp] theorem State.besidePosts_complete (s : State) (c : Cmd) (st m l n : Nat) (e : Bool) :
    (s.complete c st m l n e).besidePosts = s.besidePosts := by
  simp [State.complete]

@[simp] theorem State.besidePosts_refuse (s : State) (c : Cmd) (st : Nat) : (s.refuse c st).besidePosts = s.besidePosts := by
  simp [State.refuse]

/-! ## Error reports -/

@[simp] theorem State.besidePosts_alertOn (s : State) : s.alertOn.besidePosts = s.besidePosts := by
  simp [State.alertOn]

@[simp] theorem State.besidePosts_logFlash (s : State) (r : Bytes) : (s.logFlash r).besidePosts = s.besidePosts := rfl

@[simp] theorem State.besidePosts_signalError (s : State) : s.signalError.besidePosts = s.besidePosts :=
  State.each_keeps _ s (fun t seat => t.besidePosts_raise seat 8)

@[simp] theorem State.besidePosts_internalError (s : State) : s.internalError.besidePosts = s.besidePosts :=
  State.each_keeps _ s (fun t seat => t.besidePosts_fnMap seat _)

@[simp] theorem State.besidePosts_logError (s : State) (cls kind unit code detail : Nat) :
    (s.logError cls kind unit code detail).besidePosts = s.besidePosts := by
  unfold State.logError
  extract_lets +lift reported record kept counted coded
  have hreported : reported.besidePosts = s.besidePosts := rfl
  have hcoded : coded.besidePosts = s.besidePosts := rfl
  rw [State.besidePosts_ite, State.besidePosts_when, State.besidePosts_logFlash, State.besidePosts_signalError, State.besidePosts_inc,
    hreported, hcoded, ite_self, ite_self]

@[simp] theorem State.besidePosts_fatal (s : State) (cause unit : Nat) : (s.fatal cause unit).besidePosts = s.besidePosts := by
  simp [State.fatal]

@[simp] theorem State.besidePosts_fwFault (s : State) (kind unit code detail : Nat) : (s.fwFault kind unit code detail).besidePosts = s.besidePosts := by
  simp [State.fwFault]

end Sys2Proof.Machine
end

section
/-!
LAWS. The end of a pass: what results and point reads leave as they were, coda finish (R294), the barrier (R354) and the foreground end (R82).
-/
namespace Sys2Proof.Machine

/-! ## The clock, the sweep and the voices beside postings and reads -/

/-- The clock, the sweep and the voices. -/
def State.pass (s : State) : Clock × Sweep × List Voice := (s.clk, s.sweep, s.rr.voices)

theorem State.pass_of_besidePosts {s t : State} (h : t.besidePosts = s.besidePosts) : t.pass = s.pass := (congrArg State.pass h :)

theorem State.pass_of_besideReads {s t : State} (h : t.besideReads = s.besideReads) : t.pass = s.pass := (congrArg State.pass h :)

/-! ## Point reads and the background window -/

theorem State.pass_pointDone (s : State) (c : Cmd) (b : Bytes) (st n : Nat) : (s.pointDone c b st n).pass = s.pass :=
  State.pass_of_besidePosts (by simp [State.pointDone])

theorem State.pass_issuePoint (s : State) (cid : Nat) (p : Nat × Nat) : (s.issuePoint cid p).pass = s.pass :=
  (State.pass_of_besideReads (s.besideReads_issue 27 p.1 false false (.point cid p.2)) :)

theorem State.pass_pointServe (s : State) (c : Cmd) (h : Shelf) : (s.pointServe c h).pass = s.pass := by
  simp only [State.pointServe]
  split
  · exact s.pass_pointDone _ _ _ _
  split
  · exact State.pass_of_besidePosts (s.besidePosts_refuse c _)
  split
  · rfl
  split
  · exact (State.pass_pointDone _ _ _ _ _).trans rfl
  refine (apply_ite State.pass _ _ _).trans ?_
  rw [State.pass_pointDone, State.each_keeps (π := State.pass) _ _ (fun t p => t.pass_issuePoint c.cid p)]
  exact ite_self _

theorem State.pass_servePoints (s : State) : s.servePoints.pass = s.pass := by
  refine State.each_keeps _ s (fun t c => ?_)
  split
  · exact t.pass_pointServe _ _
  · exact State.pass_of_besidePosts (t.besidePosts_refuse c _)

theorem State.pass_releaseDropped (s : State) : s.releaseDropped.pass = s.pass := by
  simp only [State.releaseDropped]
  split <;> rfl

/-- The background window opens, and the pass is as it was (R55). -/
theorem State.pass_openBackground (s : State) : s.openBackground.pass = ({ s.clk with bgOpen := true }, s.sweep, s.rr.voices) := by
  unfold State.openBackground
  split
  next hopen => rw [← hopen]; rfl
  next => exact (State.pass_servePoints _).trans (State.pass_releaseDropped _)

/-! ## Results -/

/-- The parts of the pass that a result leaves as they were: the instant and the phase, the sweep without its runs, and the voices. -/
def State.outline (s : State) : Nat × Phase × Bool × Sweep × List Voice :=
  (s.clk.now, s.clk.phase, s.clk.bgOpen, { s.sweep with runs := [] }, s.rr.voices)

theorem State.outline_of_pass {s t : State} (h : t.pass = s.pass) : t.outline = s.outline :=
  (congrArg (fun p : Clock × Sweep × List Voice => (p.1.now, p.1.phase, p.1.bgOpen, ({ p.2.1 with runs := [] } : Sweep), p.2.2)) h :)

theorem State.outline_of_besidePosts {s t : State} (h : t.besidePosts = s.besidePosts) : t.outline = s.outline :=
  State.outline_of_pass (State.pass_of_besidePosts h)

@[simp] theorem State.outline_when (s : State) (b : Bool) (f : State → State) :
    (s.when b f).outline = if b then (f s).outline else s.outline := by cases b <;> rfl

@[simp] theorem State.outline_bump (s : State) (f : Fld) (i n : Nat) : (s.bump f i n).outline = s.outline := State.outline_of_besidePosts rfl
@[simp] theorem State.outline_bumpSet (s : State) (f : Fld) (i v : Nat) : (s.bumpSet f i v).outline = s.outline := State.outline_of_besidePosts rfl
@[simp] theorem State.outline_spend (s : State) (cid n : Nat) : (s.spend cid n).outline = s.outline := State.outline_of_besidePosts rfl
@[simp] theorem State.outline_runMap (s : State) (cid : Nat) (f : Run → Run) : (s.runMap cid f).outline = s.outline := rfl
@[simp] theorem State.outline_markOverrun (s : State) (r : Run) : (s.markOverrun r).outline = s.outline := rfl

@[simp] theorem State.outline_post (s : State) (seat addr : Nat) (b : Bytes) (r : Bool) : (s.post seat addr b r).outline = s.outline :=
  State.outline_of_besidePosts (s.besidePosts_post seat addr b r)

@[simp] theorem State.outline_complete (s : State) (c : Cmd) (st m l n : Nat) (e : Bool) : (s.complete c st m l n e).outline = s.outline :=
  State.outline_of_besidePosts (s.besidePosts_complete c st m l n e)

/-- A result that is posted frees its voice and leaves the rest of the pass as it was (R285, R318). -/
theorem State.postResult_cases (s : State) (cid : Nat) :
    s.postResult cid = s ∨ ∃ t : State, s.postResult cid = t.freeVoice cid ∧ t.outline = s.outline := by
  unfold State.postResult
  split
  · split
    · exact .inl rfl
    · split
      · exact .inl rfl
      · exact .inr ⟨_, rfl, by simp⟩
  · exact .inl rfl

/-- The pass is over: no tile or pair is left, every engine rests and every voice has ended (R82). -/
def State.passOver (s : State) : Prop :=
  s.sweep.work = [] ∧ (∀ x ∈ s.rr.voices, x.state = .done ∨ x.state = .stopped) ∧ (∀ x ∈ s.sweep.engines, x.slots = [] ∧ x.tacet = true) ∧
    (∀ x ∈ s.sweep.clusters, x.lists = [] ∧ x.queue = []) ∧ (∀ q ∈ s.sweep.queues, q.todo = [])

theorem State.passOver_of_outline {s t : State} (h : t.outline = s.outline) (hs : s.passOver) : t.passOver := by
  have hwork : t.sweep.work = s.sweep.work := (congrArg (fun o => o.2.2.2.1.work) h :)
  have hvoices : t.rr.voices = s.rr.voices := (congrArg (fun o => o.2.2.2.2) h :)
  have hengines : t.sweep.engines = s.sweep.engines := (congrArg (fun o => o.2.2.2.1.engines) h :)
  have hclusters : t.sweep.clusters = s.sweep.clusters := (congrArg (fun o => o.2.2.2.1.clusters) h :)
  have hqueues : t.sweep.queues = s.sweep.queues := (congrArg (fun o => o.2.2.2.1.queues) h :)
  rwa [State.passOver, hwork, hvoices, hengines, hclusters, hqueues]

theorem State.passOver_freeVoice {s : State} (cid : Nat) (h : s.passOver) : (s.freeVoice cid).passOver := by
  obtain ⟨hwork, hvoices, hrest⟩ := h
  exact ⟨hwork, fun x hx => hvoices x (List.mem_of_mem_filter hx), hrest⟩

theorem State.passOver_postResult {s : State} (cid : Nat) (h : s.passOver) : (s.postResult cid).passOver := by
  obtain heq | ⟨t, heq, ht⟩ := s.postResult_cases cid <;> rw [heq]
  · exact h
  · exact State.passOver_freeVoice cid (State.passOver_of_outline ht h)

theorem State.passOver_finishRun {s : State} (cid : Nat) (h : s.passOver) : (s.finishRun cid).passOver := by
  simp only [State.finishRun]
  split
  · split
    · exact State.passOver_postResult cid h
    · exact h
  · exact h

/-- The phase of a state does not bear on whether the pass is over, nor does the background window. -/
theorem State.passOver_endPass {s : State} (h : s.passOver) : (s.openBackground.clkMap (fun k => { k with phase := .tail })).passOver := by
  have hsweep : s.openBackground.sweep = s.sweep := (congrArg (fun o => o.2.1) s.pass_openBackground :)
  have hvoices : s.openBackground.rr.voices = s.rr.voices := (congrArg (fun o => o.2.2) s.pass_openBackground :)
  rwa [State.passOver, State.clkMap_sweep, State.clkMap_rr, hsweep, hvoices]

theorem State.openBackground_now (s : State) : s.openBackground.clk.now = s.clk.now :=
  (congrArg (fun o => o.1.now) s.pass_openBackground :)

theorem State.openBackground_bgOpen (s : State) : s.openBackground.clk.bgOpen = true :=
  (congrArg (fun o => o.1.bgOpen) s.pass_openBackground :)

/-! ## The tail -/

theorem State.clkMap_tail_bgOpen (s : State) : (s.clkMap (fun k => { k with phase := .tail })).clk.bgOpen = s.clk.bgOpen := rfl

theorem State.clkMap_tail_now (s : State) : (s.clkMap (fun k => { k with phase := .tail })).clk.now = s.clk.now := rfl

theorem State.clkMap_tail_phase (s : State) : (s.clkMap (fun k => { k with phase := .tail })).clk.phase = .tail := rfl

/-! ## The foreground end -/

/-- Time passes at least to the instant named. -/
theorem State.le_advance_now (s : State) (t : Nat) : t ≤ (s.advance t).clk.now := by
  unfold State.advance
  split
  · assumption
  · exact Nat.le_max_right _ _

/-- Every voice that has not ended stops, and what it holds is dropped (R279). -/
def State.stopVoices (s : State) : State :=
  (s.when (s.rr.voices.any (fun v => v.state != .done && v.state != .stopped)) (fun s =>
    (s.ev voiEventStopped).bumpSet voiLastRerankNs 0 ((s.clk.now - s.clk.sweepEnd) / 768))).rrMap (fun r => { r with
      voices := updAll (fun v => v.state != .done) (fun v => { v with state := .stopped, landed := [], gather := [], acc := accNil }) r.voices
      units := r.units.map (fun u => { u with voice := none, acc := accNil }), queries := [] })

/-- What is left of the sweep is dropped: the runs of re-issued tiles are degraded, and every engine is Tacet (R57, R82, R88). -/
def State.clearSweep (s : State) : State :=
  (s.loseTiles (((s.sweep.work ++ s.sweep.queues.flatMap (fun q => q.todo)) ++ s.reissuedHeld).filter (fun t => t.reissue))).sweepMap (fun w => { w with
    work := [], clusters := w.clusters.map (fun _ => clusterNil), queues := w.queues.map (fun q => { q with todo := [] })
    engines := w.engines.map (fun e => { e with slots := [], computing := none, groups := [], tacet := true }) })

/-- The runs that were not finished end, cut for lack of time (R82). -/
def State.cutRuns (s : State) (cut : List Run) : State :=
  (s.each cut (fun s r => (s.runMap r.cid (fun r => { r with cutTime := true })).finishRun r.cid)).when (!cut.isEmpty) (fun s =>
    s.bumpSet measLastUsedNs 0 ((s.clk.now - s.windowEnd) / 768))

theorem State.foregroundEnd_of_pass {s : State} (h : s.clk.phase = .sweep ∨ s.clk.phase = .rerank) :
    let u := s.advance s.fgEnd
    s.foregroundEnd = ((u.stopVoices.clearSweep.cutRuns (u.sweep.runs.filter (fun r => !r.finished))).openBackground).clkMap
      (fun k => { k with phase := .tail }) := by
  have hphase : ¬(s.clk.phase = .idle ∨ s.clk.phase = .tail) := by rcases h with h | h <;> simp [h]
  simp only [State.foregroundEnd, if_neg hphase, State.stopVoices, State.clearSweep, State.cutRuns]

theorem State.loseTiles_rr (s : State) (ts : List Tile) : (s.loseTiles ts).rr = s.rr :=
  State.each_keeps (π := fun t : State => t.rr) _ s (fun _ _ => rfl)

theorem State.loseTiles_clk (s : State) (ts : List Tile) : (s.loseTiles ts).clk = s.clk :=
  State.each_keeps (π := fun t : State => t.clk) _ s (fun _ _ => rfl)

theorem State.stopVoices_ended (s : State) : ∀ x ∈ s.stopVoices.rr.voices, x.state = .done ∨ x.state = .stopped := by
  intro x hx
  obtain ⟨v, -, rfl⟩ := List.mem_map.1 hx
  by_cases hv : v.state = .done <;> simp [hv]

theorem State.clearSweep_passOver {s : State} (h : ∀ x ∈ s.rr.voices, x.state = .done ∨ x.state = .stopped) : s.clearSweep.passOver := by
  refine ⟨rfl, ?_, ?_, ?_, ?_⟩
  · rwa [State.clearSweep, State.sweepMap_rr, State.loseTiles_rr]
  · intro x hx
    obtain ⟨e, -, rfl⟩ := List.mem_map.1 hx
    exact ⟨rfl, rfl⟩
  · intro x hx
    obtain ⟨k, -, rfl⟩ := List.mem_map.1 hx
    exact ⟨rfl, rfl⟩
  · intro x hx
    obtain ⟨q, -, rfl⟩ := List.mem_map.1 hx
    rfl

theorem State.cutRuns_passOver {s : State} (cut : List Run) (h : s.passOver) : (s.cutRuns cut).passOver := by
  have heach : (s.each cut (fun s r => (s.runMap r.cid (fun r => { r with cutTime := true })).finishRun r.cid)).passOver := by
    induction cut generalizing s with
    | nil => exact h
    | cons r cut ih =>
      rw [State.each_cons]
      exact ih (State.passOver_finishRun _ (State.passOver_of_outline (State.outline_runMap _ _ _) h))
  exact State.passOver_of_outline (by simp [State.cutRuns]) heach

theorem State.postResult_now (s : State) (cid : Nat) : (s.postResult cid).clk.now = s.clk.now := by
  obtain heq | ⟨t, heq, ht⟩ := s.postResult_cases cid <;> rw [heq]
  exact (congrArg (fun o => o.1) ht :)

theorem State.finishRun_now (s : State) (cid : Nat) : (s.finishRun cid).clk.now = s.clk.now := by
  simp only [State.finishRun]
  split
  · split
    · exact State.postResult_now _ cid
    · rfl
  · rfl

theorem State.cutRuns_now (s : State) (cut : List Run) : (s.cutRuns cut).clk.now = s.clk.now := by
  rw [State.cutRuns, State.when_keeps (π := fun t : State => t.clk.now)]
  · exact State.each_keeps (π := fun t : State => t.clk.now) _ s (fun t r => State.finishRun_now _ r.cid)
  · intro t; exact congrArg Clock.now (t.bumpSet_clk measLastUsedNs 0 _)

theorem State.stopVoices_now (s : State) : s.stopVoices.clk.now = s.clk.now := by
  rw [State.stopVoices, State.rrMap_clk, State.when_keeps (π := fun t : State => t.clk.now)]
  intro t; exact congrArg Clock.now ((t.ev voiEventStopped).bumpSet_clk voiLastRerankNs 0 _)

theorem State.clearSweep_now (s : State) : s.clearSweep.clk.now = s.clk.now := by
  rw [State.clearSweep, State.sweepMap_clk, State.loseTiles_clk]

/-- After the foreground end of a pass the measure is in its tail, and the pass is over (R82). -/
theorem State.foregroundEnd_ends {s : State} (h : s.clk.phase = .sweep ∨ s.clk.phase = .rerank) :
    s.foregroundEnd.clk.phase = .tail ∧ s.foregroundEnd.clk.bgOpen = true ∧ s.fgEnd ≤ s.foregroundEnd.clk.now ∧ s.foregroundEnd.passOver := by
  have hnow : s.fgEnd ≤ (s.advance s.fgEnd).clk.now := s.le_advance_now _
  rw [State.foregroundEnd_of_pass h]
  refine ⟨State.clkMap_tail_phase _, ?_, ?_, State.passOver_endPass (State.cutRuns_passOver _ (State.clearSweep_passOver (State.stopVoices_ended _)))⟩
  · rw [State.clkMap_tail_bgOpen, State.openBackground_bgOpen]
  · rwa [State.clkMap_tail_now, State.openBackground_now, State.cutRuns_now, State.clearSweep_now, State.stopVoices_now]

/-! ## Coda finish -/

/-- The state without what coda finish changes: the runs, the counts and the events. -/
def State.besideRuns (s : State) : State :=
  { s with regs := [], tally := [], free := 0, sweep := { s.sweep with runs := [], codaDone := false } }

@[simp] theorem State.besideRuns_bump (s : State) (f : Fld) (i n : Nat) : (s.bump f i n).besideRuns = s.besideRuns := rfl
@[simp] theorem State.besideRuns_ev (s : State) (f : Fld) (i : Nat) : (s.ev f i).besideRuns = s.besideRuns := rfl
@[simp] theorem State.besideRuns_runMap (s : State) (cid : Nat) (f : Run → Run) : (s.runMap cid f).besideRuns = s.besideRuns := rfl
@[simp] theorem State.besideRuns_when (s : State) (b : Bool) (f : State → State) :
    (s.when b f).besideRuns = if b then (f s).besideRuns else s.besideRuns := by cases b <;> rfl

/-- A run handed its candidate set: the rows kept, the key reads, the ties dropped by a cut, and whether a tie's key could not be read (R294). -/
def Run.withCands (cs : List ClEnt × Nat × Nat × Bool) (r : Run) : Run :=
  { r with
    cands := cs.1, handed := cs.1.length, compared := r.compared - cs.2.2.1
    cutTime := r.cutTime || decide (0 < cs.2.2.1), degraded := r.degraded || cs.2.2.2 }

/-- The key reads of the ties counted, and their cut noted (R296, R823). -/
def State.noteTies (s : State) (cs : List ClEnt × Nat × Nat × Bool) : State :=
  ((s.bump codaTieReadsCount 0 cs.2.1).bump strmGranulesCount 19 cs.2.1).when (decide (0 < cs.2.2.1)) (fun s => s.ev codaEventBandCut)

/-- Coda finish of one command: the candidate set of a search, or the reduction of a STATS (R294, R295, R312). -/
def State.finishItem (s : State) (i : Item) : State :=
  if i.search then (s.noteTies (s.candidateSet i.shelf i.cmd)).runMap i.cmd.cid (Run.withCands (s.candidateSet i.shelf i.cmd))
  else s.reduceStats i.shelf i.cmd

/-- The sweep's codas are done: every command of the pass has its candidates or its reduction. -/
def State.codasDone (s : State) : State :=
  ((s.each s.items State.finishItem).measured codaFinishNs).sweepMap (fun w => { w with codaDone := true })

theorem State.codaFinish_drained {s : State} (hp : s.clk.phase = .sweep) (hd : s.sweepDrained = true) (hc : s.sweep.codaDone = false) :
    s.codaFinish = (s.codasDone.items.filter (fun i => !i.search)).foldl (fun s i => s.finishRun i.cmd.cid) s.codasDone := by
  simp [State.codaFinish, hp, hd, hc]
  rfl

theorem State.besideRuns_reduceStats (s : State) (h : Shelf) (c : Cmd) : (s.reduceStats h c).besideRuns = s.besideRuns := by
  unfold State.reduceStats
  split <;> rfl

theorem State.besideRuns_finishItem (s : State) (i : Item) : (s.finishItem i).besideRuns = s.besideRuns := by
  unfold State.finishItem
  split
  · simp [State.noteTies]
  · exact s.besideRuns_reduceStats _ _

theorem State.besideRuns_codasDone (s : State) : s.codasDone.besideRuns = s.besideRuns :=
  (State.each_keeps (π := State.besideRuns) _ s State.besideRuns_finishItem :)

/-! ## The items of the pass -/

theorem find?_map_updFirst {α β : Type} (p q : α → Bool) (f : α → α) (g : α → β) (l : List α) (hq : ∀ x, q (f x) = q x) (hg : ∀ x, g (f x) = g x) :
    ((updFirst p f l).find? q).map g = (l.find? q).map g := by
  induction l with
  | nil => rfl
  | cons x l ih =>
    by_cases hp : p x = true <;> by_cases hx : q x = true <;> simp [updFirst, hp, hx, hq, hg, ih]

/-- A change of a run that keeps its command and its shelf keeps every command's shelf. -/
theorem State.run?_shelf_runMap (s : State) (cid k : Nat) {f : Run → Run} (hc : ∀ r, (f r).cid = r.cid) (hs : ∀ r, (f r).shelf = r.shelf) :
    ((s.runMap cid f).run? k).map (fun r => r.shelf) = (s.run? k).map (fun r => r.shelf) :=
  find?_map_updFirst _ _ f _ s.sweep.runs (fun r => by rw [hc]) hs

/-- The items of a pass are read from its plan, its commands, the shelves of its runs, and the store. -/
theorem State.items_eq_of {s t : State} (h : t.besideRuns = s.besideRuns)
    (hr : ∀ k, (t.run? k).map (fun r => r.shelf) = (s.run? k).map (fun r => r.shelf)) : t.items = s.items := by
  have hplan : t.sweep.plan = s.sweep.plan := (congrArg (fun x : State => x.sweep.plan) h :)
  have hhost : t.host = s.host := (congrArg State.host h :)
  have hstore : t.store = s.store := (congrArg State.store h :)
  have hitem : ∀ (u : State) (k : Nat) (c : Cmd), (u.run? k).bind (fun r => (u.shelfAt? r.shelf).map (fun x => u.item c x)) =
      ((u.run? k).map (fun r => r.shelf)).bind (fun i => (u.shelfAt? i).map (fun x => u.item c x)) :=
    fun u k c => by rw [Option.bind_map]; rfl
  simp only [State.items, hitem, hr, hplan]
  simp only [State.cmd?, State.shelfAt?, State.item, State.stagedBytes, hhost, hstore]

/-- The one search of a pass gets its candidates (R294). -/
theorem State.codasDone_search {s : State} {i : Item} {r : Run} (hi : s.items = [i]) (hs : i.search = true) (hr : s.run? i.cmd.cid = some r) :
    s.codasDone.run? i.cmd.cid = some (r.withCands (s.candidateSet i.shelf i.cmd)) ∧ s.codasDone.items = s.items := by
  have hruns : ∀ k, s.codasDone.run? k = ((s.noteTies (s.candidateSet i.shelf i.cmd)).runMap i.cmd.cid
      (Run.withCands (s.candidateSet i.shelf i.cmd))).run? k := by
    intro k
    simp only [State.codasDone, hi, State.each_cons, State.each_nil, State.finishItem, hs, if_true]
    rfl
  have hnote : ∀ k, (s.noteTies (s.candidateSet i.shelf i.cmd)).run? k = s.run? k := fun k => by
    simp [State.noteTies, State.when]; split <;> rfl
  refine ⟨?_, State.items_eq_of s.besideRuns_codasDone (fun k => ?_)⟩
  · rw [hruns, State.run?_runMap _ _ (f := Run.withCands _) (fun _ => rfl), hnote, hr]; rfl
  · rw [hruns, State.run?_shelf_runMap _ _ _ (f := Run.withCands _) (fun _ => rfl) (fun _ => rfl), hnote]

/-! ## The barrier -/

/-- The searches handed their candidates at the barrier: those that have not ended (R262). -/
def State.handedOver (s : State) : List Item :=
  s.items.filter (fun i => i.search && !((s.run? i.cmd.cid).map (fun r => r.finished)).getD true)

/-- The re-rank begins: its units stand idle, and its voices and candidates are counted (R354, R823). -/
def State.beginRerank (s : State) : State :=
  let t := ((s.clkMap (fun k => { k with phase := .rerank, sweepEnd := k.now })).measured strmBarrierNs).rrMap (fun r =>
    { r with units := List.replicate 16 ⟨none, s.clk.now, s.clk.now, accNil⟩ })
  (t.bumpSet voiLastVoicesCount 0 (s.handedOver.filter Item.voiced).length).bumpSet voiLastCandsCount 0
    (sumN (s.handedOver.map (fun i => (((s.run? i.cmd.cid).map (fun r => r.cands)).getD []).length)))

theorem State.barrier_quiesced {s : State} (hp : s.clk.phase = .sweep) (hc : s.sweep.codaDone = true)
    (hq : s.rr.reqs.all (fun r => decide (19 < r.sq) || r.returned) = true) :
    s.barrier = (s.handedOver.foldl (fun s i => s.handOver i (((s.run? i.cmd.cid).map (fun r => r.cands)).getD [])) s.beginRerank).endRerank := by
  have hnone : s.rr.reqs.any (fun r => decide (r.sq ≤ 19) && !r.returned) = false := by
    refine List.any_eq_false.2 (fun r hr => ?_)
    have hr := List.all_eq_true.1 hq r hr
    simp only [Bool.or_eq_true, decide_eq_true_eq] at hr
    rcases hr with hr | hr <;> simp [hr]
  have hgo : ¬(s.clk.phase ≠ .sweep ∨ !s.sweep.codaDone ∨ s.rr.reqs.any (fun r => decide (r.sq ≤ 19) && !r.returned)) := by
    simp only [hp, hc, hnone]; decide
  rw [State.barrier, if_neg hgo]
  rfl

/-! ## The commands -/

theorem exec_codaFinish (t : Nat) (s : State) : exec (.codaFinish t) s = .next (s.advance t).codaFinish.weaveRun := rfl

theorem exec_barrier (t : Nat) (s : State) : exec (.barrier t) s = .next (s.advance t).weaveBarrier := rfl

theorem exec_foregroundEnd (s : State) :
    exec .foregroundEnd s = .next (s.when (s.live && s.clk.started) (fun s => s.foregroundEnd.weaveRun.feed)) := rfl

/-- With no pass the foreground end only opens the background window (R55). -/
theorem State.foregroundEnd_of_none {s : State} (h : s.clk.phase = .idle ∨ s.clk.phase = .tail) :
    s.foregroundEnd = (s.advance s.fgEnd).openBackground := if_pos h

/-- Outside a weave the barrier waits for no keys (R354, R632). -/
theorem State.weaveBarrier_of_standalone {s : State} (h : s.inWeave = false) : s.weaveBarrier = s.barrier := by
  simp [State.weaveBarrier, h]

end Sys2Proof.Machine
end

section
/-!
PROOFS. Coda finish with its candidate sets, the barrier with its hand-over, and the foreground end.
-/
namespace Sys2Proof.Claims
open Sys2Proof Sys2Proof.Machine

section
variable {s : State} {t : Nat} (hp : (s.advance t).clk.phase = .sweep) (hd : (s.advance t).sweepDrained = true)
  (hc : (s.advance t).sweep.codaDone = false)
include hp hd hc

theorem answers_codaFinish : Answers (.codaFinish t) s
    (((s.advance t).codasDone.items.filter (fun i => !i.search)).foldl (fun s i => s.finishRun i.cmd.cid) (s.advance t).codasDone).weaveRun := by
  rw [Answers, exec_codaFinish, State.codaFinish_drained hp hd hc]

/-- A pass of one search ends with its candidate set (R294). -/
theorem answers_codaFinish_search {i : Item} {r : Run} (hi : (s.advance t).items = [i]) (hs : i.search = true)
    (hr : (s.advance t).run? i.cmd.cid = some r) :
    Answers (.codaFinish t) s (s.advance t).codasDone.weaveRun ∧
      (s.advance t).codasDone.run? i.cmd.cid = some (r.withCands ((s.advance t).candidateSet i.shelf i.cmd)) := by
  obtain ⟨hrun, hitems⟩ := State.codasDone_search hi hs hr
  have hanswers := answers_codaFinish hp hd hc
  have hnone : (s.advance t).codasDone.items.filter (fun i => !i.search) = [] := by rw [hitems, hi]; simp [hs]
  rw [hnone, List.foldl_nil] at hanswers
  exact ⟨hanswers, hrun⟩

end

/-- The foreground end of a chip that plays (R53). -/
theorem answers_foregroundEnd {s : State} (hl : s.live = true) (hst : s.clk.started = true) :
    Answers .foregroundEnd s s.foregroundEnd.weaveRun.feed := by
  rw [Answers, exec_foregroundEnd, hl, hst]; rfl

/-- Settles O47: coda finish, the barrier and the foreground end, each by the lemma on the state it leaves. -/
theorem passEndsInOrder : Obligations.PassEndsInOrder := by
  intro s _
  refine ⟨fun t hp hd hc => ⟨?_, fun i r hi hs hr => ?_⟩, fun t hw hp hc hq => ?_, fun hl hst => ⟨fun hp => ?_, fun hp => ?_⟩⟩
  · have hbeside := (s.advance t).besideRuns_codasDone
    exact ⟨(s.advance t).codasDone, rfl, (congrArg State.clk hbeside :), (congrArg State.out hbeside :), (congrArg State.host hbeside :),
      (congrArg State.store hbeside :), answers_codaFinish hp hd hc⟩
  · obtain ⟨hanswers, hrun⟩ := answers_codaFinish_search hp hd hc hi hs hr
    exact ⟨(s.advance t).codasDone, hanswers, rfl, (congrArg State.out (s.advance t).besideRuns_codasDone :), hrun⟩
  · refine ⟨(s.advance t).beginRerank, rfl, rfl, rfl, rfl, rfl, rfl, rfl, ?_⟩
    rw [Answers, exec_barrier, State.weaveBarrier_of_standalone hw, State.barrier_quiesced hp hc hq]
    rfl
  · obtain ⟨hphase, hopen, hnow, hwork, hvoices, hengines, hclusters, hqueues⟩ := State.foregroundEnd_ends hp
    exact ⟨s.foregroundEnd, answers_foregroundEnd hl hst, hphase, hopen, hnow, hwork, hvoices, hengines, hclusters, hqueues⟩
  · have hanswers := answers_foregroundEnd hl hst
    rwa [State.foregroundEnd_of_none hp] at hanswers

end Sys2Proof.Claims
end

section
/-!
LAWS. The registers below the error block: interrupts and error reports leave them, and the commands in hand, as they were (R839 to R842).
-/
namespace Sys2Proof.Machine

theorem regFind_regSet_other (f : Fld) (seat i v k : Nat) (r : List (Nat × Nat)) (h : k ≠ regKey f seat i) :
    regFind k (regSet f seat i v r) = regFind k r := by
  unfold regSet
  split
  · exact regFind_regErase_other _ _ _ h
  · exact regFind_regInsert_other _ _ _ _ h

/-- The commands in hand, and the registers at bit addresses below the error block's (BAR0 offset 0x80000). -/
def State.belowErrors (s : State) : List Cmd × (Fin (2 ^ 24) → Option Nat) := (s.host.cmds, fun k => regFind k s.regs)

theorem State.rd_of_belowErrors {s t : State} (h : t.belowErrors = s.belowErrors) (f : Fld) (i : Nat) (hk : regKey f 0 i < 2 ^ 24) :
    t.rd f i = s.rd f i := by
  have hfind : regFind (regKey f 0 i) t.regs = regFind (regKey f 0 i) s.regs := congrFun (congrArg Prod.snd h) ⟨_, hk⟩
  rw [State.rd, State.rd, regGet, regGet, hfind]

theorem State.cmds_of_belowErrors {s t : State} (h : t.belowErrors = s.belowErrors) : t.host.cmds = s.host.cmds := congrArg Prod.fst h

@[simp] theorem State.belowErrors_ite (p : Prop) [Decidable p] (s t : State) :
    (if p then s else t).belowErrors = if p then s.belowErrors else t.belowErrors := apply_ite _ p s t

@[simp] theorem State.belowErrors_when (s : State) (b : Bool) (f : State → State) :
    (s.when b f).belowErrors = if b then (f s).belowErrors else s.belowErrors := by cases b <;> rfl

/-- A field whose bit address lies in the error block or in a function window. -/
theorem State.belowErrors_wrw_of_le (s : State) (f : Fld) (seat i v : Nat) (h : 2 ^ 24 ≤ regKey f seat i) :
    (s.wrw f seat i v).belowErrors = s.belowErrors :=
  Prod.ext rfl (funext fun k => regFind_regSet_other f seat i v k s.regs (Nat.ne_of_lt (Nat.lt_of_lt_of_le k.isLt h)))

theorem State.belowErrors_wrw (s : State) (f : Fld) (seat i v : Nat) (h : f.win = true) : (s.wrw f seat i v).belowErrors = s.belowErrors := by
  refine s.belowErrors_wrw_of_le f seat i v ?_
  simp only [regKey, h, if_true]
  omega

theorem State.belowErrors_wr (s : State) (f : Fld) (i v : Nat) (h : 0x80000 ≤ f.off) : (s.wr f i v).belowErrors = s.belowErrors := by
  refine s.belowErrors_wrw_of_le f 0 i v ?_
  simp only [regKey]
  omega

@[simp] theorem State.belowErrors_emit (s : State) (o : Out) : (s.emit o).belowErrors = s.belowErrors := rfl
@[simp] theorem State.belowErrors_fnMap (s : State) (seat : Nat) (f : Fn → Fn) : (s.fnMap seat f).belowErrors = s.belowErrors := rfl
@[simp] theorem State.belowErrors_pwrMap (s : State) (f : Power → Power) : (s.pwrMap f).belowErrors = s.belowErrors := rfl
@[simp] theorem State.belowErrors_logFlash (s : State) (r : Bytes) : (s.logFlash r).belowErrors = s.belowErrors := rfl

@[simp] theorem State.belowErrors_raise (s : State) (seat v : Nat) : (s.raise seat v).belowErrors = s.belowErrors := by
  simp [State.raise, State.incw, State.belowErrors_wrw _ hstFeventPostDropped _ _ _ rfl, State.belowErrors_wrw _ hstPostDroppedCount _ _ _ rfl]

@[simp] theorem State.belowErrors_signalError (s : State) : s.signalError.belowErrors = s.belowErrors :=
  State.each_keeps _ s (fun t seat => t.belowErrors_raise seat 8)

@[simp] theorem State.belowErrors_internalError (s : State) : s.internalError.belowErrors = s.belowErrors :=
  State.each_keeps _ s (fun t seat => t.belowErrors_fnMap seat _)

@[simp] theorem State.belowErrors_alertOn (s : State) : s.alertOn.belowErrors = s.belowErrors := by
  simp [State.alertOn]

/-- The event bit of an error class lies in the error block (R840). -/
theorem State.belowErrors_evClass (s : State) (cls : Nat) :
    (s.ev (match cls with | 2 => errEventContained | 3 => errEventUnit | 4 => errEventFirmware | _ => errEventFatal)).belowErrors = s.belowErrors := by
  refine s.belowErrors_wr _ 0 1 ?_
  split <;> decide

@[simp] theorem State.belowErrors_logError (s : State) (cls kind unit code detail : Nat) :
    (s.logError cls kind unit code detail).belowErrors = s.belowErrors := by
  have hdropped : ∀ t : State, (t.inc errLogDroppedCount).belowErrors = t.belowErrors := fun t => t.belowErrors_wr _ _ _ (by decide)
  have hhead : ∀ t : State, (t.inc errLogHeadCount).belowErrors = t.belowErrors := fun t => t.belowErrors_wr _ _ _ (by decide)
  have hcodes : ∀ (t : State) (i v : Nat), (t.wr errCodesBits i v).belowErrors = t.belowErrors := fun t i v => t.belowErrors_wr _ _ _ (by decide)
  unfold State.logError
  extract_lets +lift reported record kept counted coded
  have hreported : reported.belowErrors = s.belowErrors := s.belowErrors_evClass cls
  have hcoded : coded.belowErrors = s.belowErrors := (hcodes _ _ _).trans ((hhead kept).trans hreported)
  rw [State.belowErrors_ite, State.belowErrors_when, State.belowErrors_logFlash, State.belowErrors_signalError, hdropped, hreported, hcoded,
    ite_self, ite_self]

@[simp] theorem State.belowErrors_fatal (s : State) (cause unit : Nat) : (s.fatal cause unit).belowErrors = s.belowErrors := by
  simp [State.fatal, State.belowErrors_wr _ errStatusCause _ _ (by decide), State.belowErrors_wr _ errStatusFatal _ _ (by decide)]

/-- A firmware fault sets its event bit, and changes no other register below the error block (R838). -/
theorem State.belowErrors_fwFault (s : State) (kind unit code detail : Nat) :
    (s.fwFault kind unit code detail).belowErrors = (s.ev cndEventFwFault).belowErrors := by
  simp [State.fwFault]

end Sys2Proof.Machine
end

section
/-!
LAWS. The freeze of the plan (R60, R71, R76 to R79): what a pass begins with, and what readying it leaves as it was.
-/
namespace Sys2Proof.Machine

/-! ## Outside the re-rank time alone passes -/

/-- While no units work, only the clock moves. -/
theorem State.advance_of_not_rerank {s : State} (h : s.clk.phase ≠ .rerank) (t : Nat) :
    s.advance t = s.clkMap (fun k => { k with now := max k.now t }) := by
  by_cases hle : t ≤ s.clk.now
  · simp [State.advance, State.clkMap, hle]
  · rw [State.advance, if_neg hle, if_neg h]

/-- While no units work, passing time leaves the registers, the sweep, the store, the commands and what was sent as they were. -/
theorem State.advance_keeps {s : State} (h : s.clk.phase ≠ .rerank) (t : Nat) :
    (s.advance t).regs = s.regs ∧ (s.advance t).sweep = s.sweep ∧ (s.advance t).store = s.store ∧ (s.advance t).host = s.host ∧
      (s.advance t).out = s.out ∧ (s.advance t).clk.planFrozen = s.clk.planFrozen := by
  rw [State.advance_of_not_rerank h]
  exact ⟨rfl, rfl, rfl, rfl, rfl, rfl⟩

theorem State.advance_inWeave {s : State} (h : s.clk.phase ≠ .rerank) (t : Nat) : (s.advance t).inWeave = s.inWeave := by
  rw [State.advance_of_not_rerank h]
  rfl

/-! ## What a frozen plan shows and readies -/

/-- What readying the engines and the query store for a pass leaves as it was. -/
def State.besideReady (s : State) : State :=
  { s with tally := [], sweep := { s.sweep with engines := [] }, rr := { s.rr with queries := [] } }

theorem State.besideReady_loadQueries (s : State) : s.loadQueries.besideReady = s.besideReady := by
  refine State.each_keeps (π := State.besideReady) _ s (fun t i => ?_)
  simp only [State.besideReady, State.rrMap]
  split <;> rfl

theorem State.besideReady_wakeEngines (s : State) : s.wakeEngines.besideReady = s.besideReady := rfl

theorem State.besideReady_bumpSet (s : State) (f : Fld) (i v : Nat) : (s.bumpSet f i v).besideReady = s.besideReady := rfl

theorem State.besideReady_planShown (s : State) (p : Plan) : (s.planShown p).besideReady = s.besideReady := by
  rw [State.planShown, State.besideReady_loadQueries, State.besideReady_wakeEngines, State.besideReady_bumpSet, State.besideReady_bumpSet]

/-! ## The freeze -/

/-- The plan is frozen, and at a head rim sent to the members (R79, R623). -/
def State.planSent (s : State) (cs : List Cmd) : State :=
  (s.clkMap (fun k => { k with planFrozen := true })).when (s.clkMap (fun k => { k with planFrozen := true })).isHead (fun s => s.sendPlans cs)

theorem State.planSent_frozen (s : State) (cs : List Cmd) : (s.planSent cs).clk.planFrozen = true := by
  refine State.when_keeps (π := fun t : State => t.clk.planFrozen) _ _ (fun t => ?_)
  exact State.each_keeps (π := fun t : State => t.clk.planFrozen) _ t
    (fun u m => (congrArg (fun x : State => x.clk.planFrozen) (u.besidePosts_send 0x12 m.addr 0 _) :))

theorem State.planSent_of_not_head {s : State} (h : s.isHead = false) (cs : List Cmd) :
    s.planSent cs = s.clkMap (fun k => { k with planFrozen := true }) := by
  have hhead : (s.clkMap (fun k => { k with planFrozen := true })).isHead = false := h
  rw [State.planSent, hhead, State.when_false]

/-- The commands of a pass are admitted and counted (R60, R823). -/
def State.admitted (s : State) (cs : List Cmd) : State :=
  ((s.each cs (fun s c => s.cmdMap c.cid (fun x => { x with stage := .admitted }))).bump telAdmittedCount 0 cs.length).addMeter
    telAdmittedTotalLoCount telAdmittedTotalHiCount 0 cs.length

/-- The admitted commands have their runs, or at a head rim their parts, and their plan (R60). -/
def State.passBegun (s : State) (cs : List Cmd) (p : Plan) : State :=
  if s.isHead then s.beginParts (cs.map (fun c => c.ref)) p
  else s.sweepMap (fun w => { w with runs := w.runs ++ s.newRuns cs, plan := p })

theorem State.freezePlan_nil (s : State) : s.freezePlan [] = s.planSent [] := rfl

theorem State.freezePlan_unfit {s : State} {cs : List Cmd} (h : (s.planSent cs).fitting cs = none) : s.freezePlan cs = s.planSent cs := by
  cases cs with
  | nil => rfl
  | cons c cs =>
    unfold State.planSent at h
    simp only [State.freezePlan, State.planSent, h]

theorem State.freezePlan_fit {s : State} {c : Cmd} {cs : List Cmd} {p : Plan} (h : (s.planSent (c :: cs)).fitting (c :: cs) = some p) :
    s.freezePlan (c :: cs) = (((s.planSent (c :: cs)).admitted (c :: cs)).passBegun (c :: cs) p).planShown p := by
  unfold State.planSent at h
  simp only [State.freezePlan, State.planSent, h, State.admitted, State.passBegun]
  rfl

theorem State.admitted_clk (s : State) (cs : List Cmd) : (s.admitted cs).clk = s.clk :=
  State.each_keeps (π := fun t : State => t.clk) cs s (fun _ _ => rfl)

theorem State.admitted_sweep (s : State) (cs : List Cmd) : (s.admitted cs).sweep = s.sweep :=
  State.each_keeps (π := fun t : State => t.sweep) cs s (fun _ _ => rfl)

theorem State.admitted_store (s : State) (cs : List Cmd) : (s.admitted cs).store = s.store :=
  State.each_keeps (π := fun t : State => t.store) cs s (fun _ _ => rfl)

theorem State.admitted_out (s : State) (cs : List Cmd) : (s.admitted cs).out = s.out :=
  State.each_keeps (π := fun t : State => t.out) cs s (fun _ _ => rfl)

theorem State.passBegun_frozen {s : State} (cs : List Cmd) (p : Plan) (h : s.clk.planFrozen = true) : (s.passBegun cs p).clk.planFrozen = true := by
  unfold State.passBegun
  split
  · rfl
  · exact h

/-- Whatever the candidates, the plan is frozen (R79). -/
theorem State.freezePlan_frozen (s : State) (cs : List Cmd) : (s.freezePlan cs).clk.planFrozen = true := by
  cases cs with
  | nil => exact s.planSent_frozen []
  | cons c cs =>
    cases hfit : (s.planSent (c :: cs)).fitting (c :: cs) with
    | none => rw [State.freezePlan_unfit hfit]; exact s.planSent_frozen _
    | some p =>
      have hbegun : (((s.planSent (c :: cs)).admitted (c :: cs)).passBegun (c :: cs) p).clk.planFrozen = true := by
        refine State.passBegun_frozen _ _ ?_
        rw [State.admitted_clk]
        exact s.planSent_frozen _
      rw [State.freezePlan_fit hfit]
      exact (congrArg (fun x : State => x.clk.planFrozen) (State.besideReady_planShown _ p) :).trans hbegun

theorem State.admission_frozen (s : State) : s.admission.clk.planFrozen = true := State.freezePlan_frozen _ _

/-! ## No candidate -/

theorem State.candidates_of_no_cmds {s : State} (h : s.host.cmds = []) : s.candidates = [] := by
  simp [State.candidates, h, State.sectionOrder, wrrOrder, sortBy]

theorem State.unheld_of_no_cmds {s : State} (h : s.host.cmds = []) : s.unheld = [] := by
  simp [State.unheld, h]

/-- With no candidate the plan is frozen empty (R79). -/
theorem State.admission_of_no_cmds {s : State} (h : s.host.cmds = []) (hhead : s.isHead = false) :
    s.admission = s.clkMap (fun k => { k with planFrozen := true }) := by
  rw [← State.planSent_of_not_head hhead []]
  simp [State.admission, State.candidates_of_no_cmds h, State.unheld_of_no_cmds h, State.freezePlan_nil]

/-! ## A single candidate that fits -/

/-- A candidate that nothing stands against is admitted (R74, R77, R505). -/
theorem State.consider_fits {s : State} {c : Cmd} {h : Shelf} {p : Plan} (hshelf : s.shelfOf? c.shelf = some h) (hdrop : h.dropping = false)
    (hdeadline : c.deadline = 0) (hlost : h.lost = false) (hmin : s.rd gdmStatusBelowMin ≠ 1) (hno : s.noAdmission = false)
    (hfit : s.fitting [c] = some p) (hquota : s.overQuota [] c.seat = false) : State.consider (s, []) c = (s, [c]) := by
  simp [State.consider, hshelf, hdrop, hdeadline, hlost, hmin, hno, hfit, hquota]

theorem State.admission_of_single {s : State} {c : Cmd} (hun : s.unheld = []) (hcand : s.candidates = [c])
    (hfits : State.consider (s, []) c = (s, [c])) : s.admission = s.freezePlan [c] := by
  simp [State.admission, hun, hcand, hfits]

/-- The registers of the weave role and of the measure number are not counts of admission. -/
theorem State.rd_addMeter_admitted (s : State) (n : Nat) {g : Fld} (hlo : regKey g 0 0 ≠ regKey telAdmittedTotalLoCount 0 0)
    (hhi : regKey g 0 0 ≠ regKey telAdmittedTotalHiCount 0 0) :
    (s.addMeter telAdmittedTotalLoCount telAdmittedTotalHiCount 0 n).rd g = s.rd g := by
  rw [State.addMeter, State.rd_wr_other _ _ _ _ _ _ hhi, State.rd_wr_other _ _ _ _ _ _ hlo]

theorem State.admitted_rd (s : State) (cs : List Cmd) {g : Fld} (hlo : regKey g 0 0 ≠ regKey telAdmittedTotalLoCount 0 0)
    (hhi : regKey g 0 0 ≠ regKey telAdmittedTotalHiCount 0 0) : (s.admitted cs).rd g = s.rd g := by
  rw [State.admitted, State.rd_addMeter_admitted _ _ hlo hhi]
  exact State.each_keeps (π := fun t : State => t.rd g) cs s (fun _ _ => rfl)

theorem State.admitted_measure (s : State) (cs : List Cmd) : (s.admitted cs).measure = s.measure :=
  s.admitted_rd cs (by decide) (by decide)

theorem State.admitted_isHead (s : State) (cs : List Cmd) : (s.admitted cs).isHead = s.isHead := by
  rw [State.isHead, State.isHead, s.admitted_rd cs (by decide) (by decide)]

theorem State.newRun_congr {s t : State} (hs : t.store = s.store) (hm : t.measure = s.measure) (c : Cmd) (h : Shelf) (n : Nat) :
    t.newRun c h n = s.newRun c h n := by
  have hrows : t.viewRows h t.measure = s.viewRows h s.measure := by
    rw [hm]
    simp only [State.viewRows, State.placedView, State.stagedView, State.killedAt, hs]
  rw [State.newRun, State.newRun, hrows]

theorem State.newRuns_single {s : State} {c : Cmd} {h : Shelf} (hshelf : s.shelfOf? c.shelf = some h) : s.newRuns [c] = [s.newRun c h 0] := by
  simp [State.newRuns, hshelf]

/-- A pass of one command outside a weave begins with the command's run and the plan (R60). -/
theorem State.passBegun_single {s : State} {c : Cmd} {h : Shelf} (p : Plan) (hhead : s.isHead = false) (hshelf : s.shelfOf? c.shelf = some h) :
    (s.admitted [c]).passBegun [c] p = (s.admitted [c]).sweepMap (fun w => { w with runs := w.runs ++ [s.newRun c h 0], plan := p }) := by
  have hrole : (s.admitted [c]).isHead = false := by rw [State.admitted_isHead, hhead]
  have hruns : (s.admitted [c]).newRuns [c] = [s.newRun c h 0] := by
    rw [State.newRuns_single (h := h) (by rw [State.shelfOf?, State.admitted_store]; exact hshelf),
      State.newRun_congr (s.admitted_store [c]) (s.admitted_measure [c])]
  rw [State.passBegun, hrole, hruns]
  rfl

theorem State.admitted_cmd?_single {s : State} {c : Cmd} (hcmd : s.cmd? c.cid = some c) :
    (s.admitted [c]).cmd? c.cid = some { c with stage := .admitted } := by
  have hmap : (s.admitted [c]).cmd? c.cid = (s.cmdMap c.cid (fun x => { x with stage := .admitted })).cmd? c.cid := rfl
  rw [hmap, State.cmd?_cmdMap _ _ (f := fun x => { x with stage := .admitted }) (fun _ => rfl), hcmd]
  rfl

/-- A pass of one command: the command is admitted with its run, and its plan is frozen (R60). -/
theorem State.freezePlan_single {s : State} {c : Cmd} {h : Shelf} {p : Plan} (hhead : s.isHead = false) (hcmd : s.cmd? c.cid = some c)
    (hshelf : s.shelfOf? c.shelf = some h) (hfit : s.fitting [c] = some p) :
    (s.freezePlan [c]).cmd? c.cid = some { c with stage := .admitted } ∧ (s.freezePlan [c]).sweep.plan = p ∧
      (s.freezePlan [c]).sweep.runs = s.sweep.runs ++ [s.newRun c h 0] ∧ (s.freezePlan [c]).out = s.out ∧ (s.freezePlan [c]).store = s.store := by
  have hsent := State.planSent_of_not_head hhead [c]
  have hfrozen : (s.planSent [c]).fitting [c] = some p := by rw [hsent, ← hfit]; rfl
  have hrun : (s.planSent [c]).newRun c h 0 = s.newRun c h 0 := State.newRun_congr (by rw [hsent]; rfl) (by rw [hsent]; rfl) c h 0
  have hbegun := State.passBegun_single (s := s.planSent [c]) (c := c) p (by rw [hsent]; exact hhead) (by rw [hsent]; exact hshelf)
  have hready := State.besideReady_planShown (((s.planSent [c]).admitted [c]).passBegun [c] p) p
  rw [← State.freezePlan_fit hfrozen, hbegun, hrun] at hready
  refine ⟨?_, (congrArg (fun x : State => x.sweep.plan) hready :), ?_, ?_, ?_⟩
  · exact (congrArg (fun x : State => x.cmd? c.cid) hready :).trans (State.admitted_cmd?_single (by rw [hsent]; exact hcmd))
  · have hruns : (s.freezePlan [c]).sweep.runs = ((s.planSent [c]).admitted [c]).sweep.runs ++ [s.newRun c h 0] :=
      (congrArg (fun x : State => x.sweep.runs) hready :)
    rw [hruns, State.admitted_sweep, hsent]
    rfl
  · have hout : (s.freezePlan [c]).out = ((s.planSent [c]).admitted [c]).out := (congrArg State.out hready :)
    rw [hout, State.admitted_out, hsent]
    rfl
  · have hstore : (s.freezePlan [c]).store = ((s.planSent [c]).admitted [c]).store := (congrArg State.store hready :)
    rw [hstore, State.admitted_store, hsent]
    rfl

/-! ## The command -/

theorem State.planFreeze_eq_admission {s : State} {t : Nat} (hl : s.live = true) (hp : s.clk.phase = .admission) (hf : s.clk.planFrozen = false)
    (hw : s.inWeave = false) (hlo : s.clk.lastDb + ns 12000 ≤ t) (hhi : t ≤ s.windowEnd) : s.planFreeze t = (s.advance t).admission := by
  simp [State.planFreeze, State.plansItself, hl, hp, hf, hw, Nat.not_lt.2 hlo, Nat.not_lt.2 hhi]

theorem State.isHead_of_standalone {s : State} (h : s.inWeave = false) : s.isHead = false := by
  simp_all [State.isHead, State.inWeave]

theorem exec_planFreeze (t : Nat) (s : State) : exec (.planFreeze t) s = .next (s.planFreeze t) := rfl

end Sys2Proof.Machine
end

section
/-!
LAWS. The end of the admission window (R52, R55, R795): the late plan, the interrupts of the beat, and what begins then.
-/
namespace Sys2Proof.Machine

/-! ## The steps of the window's end -/

/-- A plan not frozen by the window's end is replaced by an empty one where this chip plans for itself (R795, R623). -/
def State.frozenAtEnd (s : State) : State :=
  if s.clk.planFrozen then s else if s.plansItself then s.planLate else s.clkMap (fun k => { k with planFrozen := true })

/-- Vector 9 of every enabled function that asks for it (R389). -/
def State.beatInts (s : State) : State :=
  s.each (s.host.fns.filter (fun f => f.enabled && s.rdw hstFctrlBeatInt f.seat 0 == 1)) (fun s f => s.raise f.seat 9)

/-- What begins once the admission window has ended: the sweep of the plan, or with an empty plan the background window. -/
def State.beginPlan (s : State) : State :=
  if s.sweep.plan.ids = [] then s.openBackground.clkMap (fun k => { k with phase := .tail }) else s.beginSweep

theorem State.windowEnds_eq {s : State} (hl : s.live = true) (hp : s.clk.phase = .admission) :
    s.windowEnds = (s.advance s.windowEnd).frozenAtEnd.beatInts.beginPlan := by
  have hgo : (!s.live || s.clk.phase != .admission) = false := by simp [hl, hp]
  rw [State.windowEnds, hgo, if_neg Bool.false_ne_true]
  generalize s.advance s.windowEnd = u
  rfl

theorem State.beginPlan_of_empty {s : State} (h : s.sweep.plan.ids = []) :
    s.beginPlan = s.openBackground.clkMap (fun k => { k with phase := .tail }) := if_pos h

theorem State.beginPlan_of_plan {s : State} (h : s.sweep.plan.ids ≠ []) : s.beginPlan = s.beginSweep := if_neg h

/-! ## The interrupts of the beat -/

theorem State.besidePosts_beatInts (s : State) : s.beatInts.besidePosts = s.besidePosts :=
  State.each_keeps _ s (fun t f => t.besidePosts_raise f.seat 9)

theorem State.belowErrors_beatInts (s : State) : s.beatInts.belowErrors = s.belowErrors :=
  State.each_keeps _ s (fun t f => t.belowErrors_raise f.seat 9)

theorem State.sweep_of_besidePosts {s t : State} (h : t.besidePosts = s.besidePosts) : t.sweep = s.sweep := (congrArg State.sweep h :)

theorem State.clk_of_besidePosts {s t : State} (h : t.besidePosts = s.besidePosts) : t.clk = s.clk := (congrArg State.clk h :)

theorem State.store_of_besidePosts {s t : State} (h : t.besidePosts = s.besidePosts) : t.store = s.store := (congrArg State.store h :)

theorem State.beatInts_of_none {s : State} (h : ∀ f ∈ s.host.fns, s.rdw hstFctrlBeatInt f.seat 0 = 0) : s.beatInts = s := by
  have hnone : s.host.fns.filter (fun f => f.enabled && s.rdw hstFctrlBeatInt f.seat 0 == 1) = [] :=
    List.filter_eq_nil_iff.2 (fun f hf => by simp [h f hf])
  rw [State.beatInts, hnone, State.each_nil]

/-! ## The background window -/

theorem State.releaseDropped_keeps (s : State) :
    s.releaseDropped.out = s.out ∧ s.releaseDropped.host = s.host ∧ s.releaseDropped.regs = s.regs := by
  simp only [State.releaseDropped]
  split
  · exact ⟨rfl, rfl, rfl⟩
  · exact ⟨rfl, rfl, rfl⟩

theorem State.servePoints_of_none {s : State} (h : ∀ c ∈ s.host.cmds, c.stage = .held → c.opcode ≠ 0x12) : s.servePoints = s := by
  have hnone : s.host.cmds.filter (fun c => c.stage == .held && c.opcode == 0x12) = [] :=
    List.filter_eq_nil_iff.2 (fun c hc => by simpa using h c hc)
  rw [State.servePoints, hnone, State.each_nil]

/-- With no point read held back the background window opens silently (R55, R97). -/
theorem State.openBackground_of_none {s : State} (h : ∀ c ∈ s.host.cmds, c.stage = .held → c.opcode ≠ 0x12) :
    s.openBackground.out = s.out ∧ s.openBackground.regs = s.regs := by
  obtain ⟨hout, hhost, hregs⟩ := ((s.clkMap (fun k => { k with bgOpen := true })).freeSuperseded).releaseDropped_keeps
  unfold State.openBackground
  split
  · exact ⟨rfl, rfl⟩
  · rw [State.servePoints_of_none (by rw [hhost]; exact h), hout, hregs]
    exact ⟨rfl, rfl⟩

theorem State.openBackground_planFrozen (s : State) : s.openBackground.clk.planFrozen = s.clk.planFrozen :=
  (congrArg (fun o => o.1.planFrozen) s.pass_openBackground :)

theorem State.clkMap_tail_planFrozen (s : State) : (s.clkMap (fun k => { k with phase := .tail })).clk.planFrozen = s.clk.planFrozen := rfl

theorem State.clkMap_tail_rd (s : State) (f : Fld) : (s.clkMap (fun k => { k with phase := .tail })).rd f = s.rd f := rfl

/-- An empty plan leaves the measure in its tail with the background window open (R55). -/
theorem State.beginPlan_tail {s : State} (h : s.sweep.plan.ids = []) :
    s.beginPlan.clk.phase = .tail ∧ s.beginPlan.clk.bgOpen = true ∧ s.beginPlan.clk.now = s.clk.now ∧
      s.beginPlan.clk.planFrozen = s.clk.planFrozen := by
  rw [State.beginPlan_of_empty h]
  exact ⟨State.clkMap_tail_phase _, by rw [State.clkMap_tail_bgOpen, State.openBackground_bgOpen],
    by rw [State.clkMap_tail_now, State.openBackground_now], by rw [State.clkMap_tail_planFrozen, State.openBackground_planFrozen]⟩

/-- With no point read held back an empty plan ends the window silently (R55, R97). -/
theorem State.beginPlan_silent {s : State} (h : s.sweep.plan.ids = []) (hheld : ∀ c ∈ s.host.cmds, c.stage = .held → c.opcode ≠ 0x12) :
    s.beginPlan.out = s.out ∧ ∀ f, s.beginPlan.rd f = s.rd f := by
  obtain ⟨hout, hregs⟩ := State.openBackground_of_none hheld
  rw [State.beginPlan_of_empty h]
  exact ⟨by rw [State.clkMap_out, hout], fun f => by rw [State.clkMap_tail_rd, State.rd, hregs, State.rd]⟩

/-! ## The sweep begins -/

/-- The parts of the state that the start of the sweep leaves as they were: the instant, the plan and the store. -/
def State.planned (s : State) : Nat × Plan × Store := (s.clk.now, s.sweep.plan, s.store)

theorem State.planned_queueMap (s : State) (q : Nat) (f : TileQ → TileQ) : (s.queueMap q f).planned = s.planned := rfl

theorem State.planned_loadGroup (s : State) (c : Copy) (e pos g : Nat) : (s.loadGroup c e pos g).planned = s.planned := by
  unfold State.loadGroup
  split <;> rfl

theorem State.planned_loadBanks (s : State) : s.loadBanks.planned = s.planned :=
  State.each_keeps _ s (fun t c => State.each_keeps _ t (fun t p => State.each_keeps _ t (fun t g => t.planned_loadGroup c p.1.1 p.2 g)))

/-- The tiles of a shelf of the pass join the work and the staged tiles' queue (R200, R344). -/
def State.makeTiles (its : List Item) (s : State) (h : Shelf) : State :=
  let ts := s.shelfTiles (itemsOf its h) h s.sweep.nextTid
  let s := s.sweepMap (fun w => { w with work := w.work ++ ts.1, nextTid := w.nextTid + ts.1.length + ts.2.length })
  s.queueMap 18 (fun q => { q with todo := q.todo ++ ts.2 })

theorem State.planned_makeTiles (its : List Item) (s : State) (h : Shelf) : (s.makeTiles its h).planned = s.planned := rfl

/-- The tiles of every shelf of the pass stand in their queues, and SQ18's last descriptor is marked (R200, R344). -/
def State.tilesMade (s : State) : State :=
  (s.each (itemShelves (s.items.filter (fun i => i.search || i.project)))
    (State.makeTiles (s.items.filter (fun i => i.search || i.project)))).queueMap 18 (fun q => TileQ.marked { q with last := true })

theorem State.planned_tilesMade (s : State) : s.tilesMade.planned = s.planned := by
  rw [State.tilesMade, State.planned_queueMap]
  exact State.each_keeps _ s (State.planned_makeTiles _)

/-- The banks are loaded, idle engines rest, and the storage of the operands is free (R344, R405). -/
def State.sweepReady (s : State) : State :=
  s.startLists.loadBanks.restEngines.hostMap (fun h => { h with cmds := updAll (fun c => c.stage == .admitted) (fun c => { c with opRoom := 0 }) h.cmds })

theorem State.planned_sweepReady (s : State) : s.sweepReady.planned = s.planned := (s.startLists.planned_loadBanks :)

theorem State.planned_clkMap_sweep (s : State) : (s.clkMap (fun k => { k with phase := .sweep })).planned = s.planned := rfl

theorem State.clkMap_sweep_phase (s : State) : (s.clkMap (fun k => { k with phase := .sweep })).clk.phase = .sweep := rfl

theorem State.beginSweep_eq (s : State) : s.beginSweep = s.tilesMade.sweepReady.clkMap (fun k => { k with phase := .sweep }) := rfl

theorem State.beginSweep_planned (s : State) : s.beginSweep.planned = s.planned := by
  rw [State.beginSweep_eq, State.planned_clkMap_sweep, State.planned_sweepReady, State.planned_tilesMade]

/-- A plan starts the sweep, at the same instant and with the plan and the store as they were (R795). -/
theorem State.beginPlan_sweep {s : State} (h : s.sweep.plan.ids ≠ []) :
    s.beginPlan.clk.phase = .sweep ∧ s.beginPlan.clk.now = s.clk.now ∧ s.beginPlan.sweep.plan = s.sweep.plan ∧ s.beginPlan.store = s.store := by
  have hplanned : s.beginPlan.planned = s.planned := by rw [State.beginPlan_of_plan h, State.beginSweep_planned]
  simp only [State.planned, Prod.mk.injEq] at hplanned
  refine ⟨?_, hplanned⟩
  rw [State.beginPlan_of_plan h, State.beginSweep_eq, State.clkMap_sweep_phase]

/-! ## A late plan -/

/-- A plan not frozen in time sets plan_late, counts, and is a firmware fault (R795). -/
def State.lateReported (s : State) : State := ((s.ev cndEventPlanLate).inc cndPlanLateCount).fwFault 9 1 49 0

theorem State.lateReported_belowErrors (s : State) :
    s.lateReported.belowErrors = (((s.ev cndEventPlanLate).inc cndPlanLateCount).ev cndEventFwFault).belowErrors :=
  State.belowErrors_fwFault _ _ _ _ _

theorem State.rd_lateReported_event {s : State} (h : regSorted s.regs = true) : s.lateReported.rd cndEventPlanLate = 1 := by
  rw [State.rd_of_belowErrors s.lateReported_belowErrors _ _ (by decide), State.ev, State.rd_wr_other _ _ _ _ _ _ (by decide), State.inc,
    State.rd_wr_other _ _ _ _ _ _ (by decide), State.ev, State.rd_wr_same _ _ _ _ h]
  rfl

theorem State.rd_lateReported_count {s : State} (h : regSorted s.regs = true) :
    s.lateReported.rd cndPlanLateCount = min (s.rd cndPlanLateCount + 1) (2 ^ cndPlanLateCount.width - 1) := by
  have hsorted : regSorted (s.ev cndEventPlanLate).regs = true := regSorted_regSet cndEventPlanLate 0 0 1 s.regs h
  have hother : (s.ev cndEventPlanLate).rd cndPlanLateCount = s.rd cndPlanLateCount := State.rd_wr_other _ _ _ _ _ _ (by decide)
  have hsaturates : min (s.rd cndPlanLateCount + 1) (2 ^ cndPlanLateCount.width - 1) < 2 ^ cndPlanLateCount.width :=
    Nat.lt_of_le_of_lt (Nat.min_le_right _ _) (by decide)
  rw [State.rd_of_belowErrors s.lateReported_belowErrors _ _ (by decide), State.ev, State.rd_wr_other _ _ _ _ _ _ (by decide), State.inc,
    State.rd_wr_same _ _ _ _ hsorted, hother, Nat.mod_eq_of_lt hsaturates]

theorem State.lateReported_cmds (s : State) : s.lateReported.host.cmds = s.host.cmds :=
  (State.cmds_of_belowErrors s.lateReported_belowErrors).trans rfl

theorem State.besidePosts_lateReported (s : State) : s.lateReported.besidePosts = s.besidePosts := by
  rw [State.lateReported, State.besidePosts_fwFault, State.besidePosts_inc, State.besidePosts_ev]

/-- With no command in hand a late plan is reported, and an empty one frozen (R795). -/
theorem State.planLate_of_no_cmds {s : State} (h : s.host.cmds = []) : s.planLate = s.lateReported.clkMap (fun k => { k with planFrozen := true }) := by
  have hcmds : s.lateReported.host.cmds = [] := s.lateReported_cmds.trans h
  have hnone : s.lateReported.candidates ++ s.lateReported.unheld = [] := by
    rw [State.candidates_of_no_cmds hcmds, State.unheld_of_no_cmds hcmds, List.nil_append]
  have hlate : s.planLate = (s.lateReported.each (s.lateReported.candidates ++ s.lateReported.unheld) State.notFitting).clkMap
      (fun k => { k with planFrozen := true }) := rfl
  rw [hlate, hnone, State.each_nil]

/-! ## The plan at the window's end -/

theorem State.frozenAtEnd_of_frozen {s : State} (h : s.clk.planFrozen = true) : s.frozenAtEnd = s := if_pos h

theorem State.frozenAtEnd_of_late {s : State} (hf : s.clk.planFrozen = false) (hw : s.inWeave = false) (hc : s.host.cmds = []) :
    s.frozenAtEnd = s.lateReported.clkMap (fun k => { k with planFrozen := true }) := by
  have hself : s.plansItself = true := by rw [State.plansItself, hw]; rfl
  rw [State.frozenAtEnd, hf, hself, State.planLate_of_no_cmds hc]
  rfl

theorem State.clkMap_frozen_planFrozen (s : State) : (s.clkMap (fun k => { k with planFrozen := true })).clk.planFrozen = true := rfl

theorem State.clkMap_frozen_belowErrors (s : State) : (s.clkMap (fun k => { k with planFrozen := true })).belowErrors = s.belowErrors := rfl

/-- At the window's end a late plan is frozen empty and reported (R795). -/
theorem State.beatInts_of_late {s : State} (hf : s.clk.planFrozen = false) (hw : s.inWeave = false) (hc : s.host.cmds = []) :
    s.frozenAtEnd.beatInts.clk.planFrozen = true ∧ s.frozenAtEnd.beatInts.sweep = s.sweep ∧
      s.frozenAtEnd.beatInts.belowErrors = s.lateReported.belowErrors := by
  rw [State.frozenAtEnd_of_late hf hw hc, State.clk_of_besidePosts (State.besidePosts_beatInts _),
    State.sweep_of_besidePosts (State.besidePosts_beatInts _), State.belowErrors_beatInts, State.clkMap_sweep]
  exact ⟨State.clkMap_frozen_planFrozen _, State.sweep_of_besidePosts s.besidePosts_lateReported, State.clkMap_frozen_belowErrors _⟩

/-! ## The command -/

theorem exec_admissionWindowEnd (s : State) : exec .admissionWindowEnd s = .next s.windowEnds.weaveRun := rfl

end Sys2Proof.Machine
end

section
/-!
PROOFS. The admission window: the freeze of the plan, and what the window's end begins.
-/
namespace Sys2Proof.Claims
open Sys2Proof Sys2Proof.Machine

/-! ## The freeze -/

section
variable {s : State} (hl : s.live = true) (hp : s.clk.phase = .admission)
include hl hp

theorem answers_planFreeze {t : Nat} (hf : s.clk.planFrozen = false) (hw : s.inWeave = false) (hlo : s.clk.lastDb + ns 12000 ≤ t)
    (hhi : t ≤ s.windowEnd) : Answers (.planFreeze t) s (s.advance t).admission := by
  rw [Answers, exec_planFreeze, State.planFreeze_eq_admission hl hp hf hw hlo hhi]

/-! ## The window's end -/

/-- The window's end begins what the plan holds, once time has passed and the plan is frozen. -/
theorem answers_admissionWindowEnd : Answers .admissionWindowEnd s (s.advance s.windowEnd).frozenAtEnd.beatInts.beginPlan.weaveRun := by
  rw [Answers, exec_admissionWindowEnd, State.windowEnds_eq hl hp]

theorem answers_admissionWindowEnd_frozen (hf : s.clk.planFrozen = true) :
    Answers .admissionWindowEnd s (s.advance s.windowEnd).beatInts.beginPlan.weaveRun := by
  have hanswers := answers_admissionWindowEnd hl hp
  obtain ⟨-, -, -, -, -, hfrozen⟩ := State.advance_keeps (s := s) (by rw [hp]; decide) s.windowEnd
  rwa [State.frozenAtEnd_of_frozen (hfrozen.trans hf)] at hanswers

/-- A frozen empty plan opens the background window (R55). -/
theorem answers_admissionWindowEnd_empty (hf : s.clk.planFrozen = true) (he : s.sweep.plan.ids = []) :
    ∃ w : State, Answers .admissionWindowEnd s w.weaveRun ∧ w.clk.phase = .tail ∧ w.clk.bgOpen = true ∧ s.windowEnd ≤ w.clk.now ∧
      ((∀ f ∈ s.host.fns, s.rdw hstFctrlBeatInt f.seat 0 = 0) → (∀ c ∈ s.host.cmds, c.stage = .held → c.opcode ≠ 0x12) → w.out = s.out) := by
  obtain ⟨hregs, hsweep, -, hhost, hout, -⟩ := State.advance_keeps (s := s) (by rw [hp]; decide) s.windowEnd
  have hclosed := State.besidePosts_beatInts (s.advance s.windowEnd)
  have hempty : (s.advance s.windowEnd).beatInts.sweep.plan.ids = [] := by rw [State.sweep_of_besidePosts hclosed, hsweep, he]
  obtain ⟨hphase, hopen, hnow, -⟩ := State.beginPlan_tail hempty
  refine ⟨_, answers_admissionWindowEnd_frozen hl hp hf, hphase, hopen, ?_, fun hbeat hheld => ?_⟩
  · rw [hnow, State.clk_of_besidePosts hclosed]
    exact s.le_advance_now _
  · have hquiet : (s.advance s.windowEnd).beatInts = s.advance s.windowEnd :=
      State.beatInts_of_none (by rw [hhost]; intro f hf; rw [State.rdw, hregs]; exact hbeat f hf)
    rw [hquiet] at hempty ⊢
    exact (State.beginPlan_silent hempty (by rw [hhost]; exact hheld)).1.trans hout

/-- A frozen plan starts the sweep (R795). -/
theorem answers_admissionWindowEnd_plan (hf : s.clk.planFrozen = true) (he : s.sweep.plan.ids ≠ []) :
    ∃ w : State, Answers .admissionWindowEnd s w.weaveRun ∧ w.clk.phase = .sweep ∧ s.windowEnd ≤ w.clk.now ∧ w.sweep.plan = s.sweep.plan ∧
      w.store = s.store := by
  obtain ⟨-, hsweep, hstore, -, -, -⟩ := State.advance_keeps (s := s) (by rw [hp]; decide) s.windowEnd
  have hclosed := State.besidePosts_beatInts (s.advance s.windowEnd)
  have hplan : (s.advance s.windowEnd).beatInts.sweep = s.sweep := by rw [State.sweep_of_besidePosts hclosed, hsweep]
  obtain ⟨hphase, hnow, hkept, hstored⟩ := State.beginPlan_sweep (s := (s.advance s.windowEnd).beatInts) (by rwa [hplan])
  refine ⟨_, answers_admissionWindowEnd_frozen hl hp hf, hphase, ?_, by rw [hkept, hplan], by rw [hstored, State.store_of_besidePosts hclosed, hstore]⟩
  rw [hnow, State.clk_of_besidePosts hclosed]
  exact s.le_advance_now _

/-- With no plan frozen in time plan_late is set and counted (R795). -/
theorem answers_admissionWindowEnd_late (hsorted : regSorted s.regs = true) (hf : s.clk.planFrozen = false) (hw : s.inWeave = false)
    (hc : s.host.cmds = []) (he : s.sweep.plan.ids = []) :
    ∃ w : State, Answers .admissionWindowEnd s w.weaveRun ∧ w.clk.planFrozen = true ∧ w.clk.phase = .tail ∧ w.rd cndEventPlanLate = 1 ∧
      w.rd cndPlanLateCount = min (s.rd cndPlanLateCount + 1) (2 ^ cndPlanLateCount.width - 1) := by
  obtain ⟨hregs, hsweep, -, hhost, -, hfrozen⟩ := State.advance_keeps (s := s) (by rw [hp]; decide) s.windowEnd
  have hcmds : (s.advance s.windowEnd).host.cmds = [] := by rw [hhost, hc]
  have hweave : (s.advance s.windowEnd).inWeave = false := by rw [State.advance_inWeave (by rw [hp]; decide), hw]
  obtain ⟨hplanned, hkept, hbelow⟩ := State.beatInts_of_late (hfrozen.trans hf) hweave hcmds
  have hempty : (s.advance s.windowEnd).frozenAtEnd.beatInts.sweep.plan.ids = [] := by rw [hkept, hsweep, he]
  have hnone : (s.advance s.windowEnd).frozenAtEnd.beatInts.host.cmds = [] := by
    rw [State.cmds_of_belowErrors hbelow, State.lateReported_cmds, hcmds]
  obtain ⟨hphase, -, -, hstill⟩ := State.beginPlan_tail hempty
  obtain ⟨-, hread⟩ := State.beginPlan_silent hempty (by rw [hnone]; intro c h; cases h)
  refine ⟨_, answers_admissionWindowEnd hl hp, hstill.trans hplanned, hphase, ?_, ?_⟩
  · rw [hread, State.rd_of_belowErrors hbelow _ _ (by decide), State.rd_lateReported_event (by rwa [hregs])]
  · rw [hread, State.rd_of_belowErrors hbelow _ _ (by decide), State.rd_lateReported_count (by rwa [hregs]), State.rd, hregs, State.rd]

end

/-- Settles O43: the freeze by what the admission of no candidate and of one leaves, the window's end by the plan it finds. -/
theorem admissionWindow : Obligations.AdmissionWindow := by
  intro s hsound hl hp
  have hsorted : regSorted s.regs = true := by simp_all [State.sound, State.canon]
  refine ⟨fun t hf hw hlo hhi => ⟨answers_planFreeze hl hp hf hw hlo hhi, State.admission_frozen _, ?_, fun hc => ?_, ?_⟩,
    answers_admissionWindowEnd_empty hl hp, answers_admissionWindowEnd_plan hl hp, answers_admissionWindowEnd_late hl hp hsorted⟩
  · exact Nat.le_trans (s.le_advance_now t) (Follows.refl (s.advance t)).admission.now
  · obtain ⟨-, -, -, hhost, -, -⟩ := State.advance_keeps (s := s) (by rw [hp]; decide) t
    have hweave : (s.advance t).inWeave = false := by rw [State.advance_inWeave (by rw [hp]; decide), hw]
    rw [State.admission_of_no_cmds (by rw [hhost, hc]) (State.isHead_of_standalone hweave)]
    exact ⟨rfl, rfl⟩
  · intro c h p hun hcand hcmd hshelf hdrop hdeadline hlost hmin hno hfit hquota
    have hweave : (s.advance t).inWeave = false := by rw [State.advance_inWeave (by rw [hp]; decide), hw]
    have hadmission := State.admission_of_single hun hcand (State.consider_fits hshelf hdrop hdeadline hlost hmin hno hfit hquota)
    obtain ⟨hadmitted, hplan, hruns, hout, hstore⟩ := State.freezePlan_single (State.isHead_of_standalone hweave) hcmd hshelf hfit
    rw [← hadmission] at hadmitted hplan hruns hout hstore
    exact ⟨_, answers_planFreeze hl hp hf hw hlo hhi, hadmitted, hplan, hruns, State.admission_frozen _, hout, hstore⟩

end Sys2Proof.Claims
end

section
/-!
LAWS. A command completed (R429 to R434): it is off the list of commands in hand, and the chip's role in the weave is as it was.
-/
namespace Sys2Proof.Machine

/-! ## Postings: the commands and the registers below the error block -/

@[simp] theorem State.belowErrors_cpqMap (s : State) (fn q : Nat) (f : Cpq → Cpq) : (s.cpqMap fn q f).belowErrors = s.belowErrors := rfl

@[simp] theorem State.belowErrors_settleCpqIdle (s : State) (fn q : Nat) : (s.settleCpqIdle fn q).belowErrors = s.belowErrors :=
  s.belowErrors_wrw hstCpqStatusIdle fn q _ rfl

@[simp] theorem State.belowErrors_fevent (s : State) {f : Fld} (seat : Nat) (h : f.win = true) : (s.fevent f seat).belowErrors = s.belowErrors := by
  simp [State.fevent, State.belowErrors_wrw _ f _ _ _ h]

@[simp] theorem State.belowErrors_notice (s : State) (seat bit : Nat) : (s.notice seat bit).belowErrors = s.belowErrors := by
  simp [State.notice, State.belowErrors_wrw _ hstOwnNoticeBits _ _ _ rfl]

@[simp] theorem State.belowErrors_post (s : State) (seat addr : Nat) (b : Bytes) (r : Bool) : (s.post seat addr b r).belowErrors = s.belowErrors := by
  simp [State.post, State.incw, State.belowErrors_wrw _ hstPostDroppedCount _ _ _ rfl, State.belowErrors_fevent _ (f := hstFeventPostDropped) _ rfl]

@[simp] theorem State.belowErrors_sendPending (s : State) (fn q : Nat) : (s.sendPending fn q).belowErrors = s.belowErrors := by
  simp [State.sendPending]

/-- A completion record leaves the commands and the chip's own registers as they were (R375). -/
@[simp] theorem State.belowErrors_writeCompletion (s : State) (c : Cmd) (st orig tag m l n r : Nat) :
    (s.writeCompletion c st orig tag m l n r).belowErrors = s.belowErrors := by
  simp [State.writeCompletion, State.belowErrors_wrw _ hstCpqStatusTail _ _ _ rfl, State.belowErrors_wrw _ hstCpqStatusPhase _ _ _ rfl]

@[simp] theorem State.belowErrors_countStatus (s : State) (seat st : Nat) : (s.countStatus seat st).belowErrors = s.belowErrors := rfl

/-! ## The role in the weave -/

theorem State.isHead_of_regs {s t : State} (h : t.regs = s.regs) : t.isHead = s.isHead := by
  rw [State.isHead, State.isHead, State.rd_of_regs s t _ _ h]

theorem State.isHead_of_belowErrors {s t : State} (h : t.belowErrors = s.belowErrors) : t.isHead = s.isHead := by
  rw [State.isHead, State.isHead, State.rd_of_belowErrors h _ _ (by decide)]

theorem State.isHead_wr (s : State) {f : Fld} {i : Nat} (v : Nat) (h : regKey wvSelfRole 0 0 ≠ regKey f 0 i) : (s.wr f i v).isHead = s.isHead := by
  rw [State.isHead, State.isHead, State.rd_wr_other s f wvSelfRole i 0 v h]

@[simp] theorem State.isHead_ite (p : Prop) [Decidable p] (s t : State) : (if p then s else t).isHead = if p then s.isHead else t.isHead :=
  apply_ite _ p s t

@[simp] theorem State.isHead_when (s : State) (b : Bool) (f : State → State) : (s.when b f).isHead = if b then (f s).isHead else s.isHead := by
  cases b <;> rfl

@[simp] theorem State.isHead_hostMap (s : State) (f : HostSt → HostSt) : (s.hostMap f).isHead = s.isHead := rfl
@[simp] theorem State.isHead_weaveMap (s : State) (f : Weave → Weave) : (s.weaveMap f).isHead = s.isHead := rfl

@[simp] theorem State.isHead_cpqMap (s : State) (fn q : Nat) (f : Cpq → Cpq) : (s.cpqMap fn q f).isHead = s.isHead := rfl
@[simp] theorem State.isHead_charge (s : State) (seat nj : Nat) : (s.charge seat nj).isHead = s.isHead := rfl
@[simp] theorem State.isHead_countStatus (s : State) (seat st : Nat) : (s.countStatus seat st).isHead = s.isHead := rfl
@[simp] theorem State.isHead_closeWindow (s : State) (c : Cmd) (st m l n : Nat) (p : Bool) : (s.closeWindow c st m l n p).isHead = s.isHead := rfl

@[simp] theorem State.isHead_writeCompletion (s : State) (c : Cmd) (st orig tag m l n r : Nat) :
    (s.writeCompletion c st orig tag m l n r).isHead = s.isHead :=
  State.isHead_of_belowErrors (s.belowErrors_writeCompletion c st orig tag m l n r)

@[simp] theorem State.isHead_notice (s : State) (seat bit : Nat) : (s.notice seat bit).isHead = s.isHead :=
  State.isHead_of_belowErrors (s.belowErrors_notice seat bit)

@[simp] theorem State.isHead_dropCmd (s : State) (c : Cmd) : (s.dropCmd c).isHead = s.isHead :=
  State.isHead_of_belowErrors (State.belowErrors_wrw _ hstSbqStatusIdle _ _ _ rfl) |>.trans (s.isHead_hostMap _)

theorem State.pumpOne_regs (s : State) (i : Nat) : (s.pumpOne i).regs = s.regs := by
  simp only [State.pumpOne]
  split
  · split <;> rfl
  · rfl

@[simp] theorem State.queueMsg_regs (s : State) (i : Nat) (m : Bytes) : (s.queueMsg i m).regs = s.regs :=
  State.foldl_keeps (π := State.regs) _ _ (fun t _ => t.pumpOne_regs i)

theorem State.routeIn_regs (s : State) (map : List MapEnt) (self : Nat) (up : Option Nat) (m : Bytes) : (s.routeIn map self up m).regs = s.regs := by
  simp only [State.routeIn]
  split
  · refine State.each_keeps (π := State.regs) _ s (fun t c => ?_)
    split <;> simp
  · split <;> split <;> simp

/-- A message sent leaves the role as it was. -/
@[simp] theorem State.isHead_send (s : State) (t dst op : Nat) (b : Bytes) : (s.send t dst op b).isHead = s.isHead :=
  State.isHead_of_regs (s.routeIn_regs _ _ _ _)

@[simp] theorem State.isHead_finishHost (s : State) (c : Cmd) (st m l n : Nat) (e : Bool) : (s.finishHost c st m l n e).isHead = s.isHead := by
  simp [State.finishHost]

@[simp] theorem State.isHead_finish (s : State) (c : Cmd) (st m l n : Nat) (e : Bool) : (s.finish c st m l n e).isHead = s.isHead := by
  unfold State.finish
  split <;> simp

@[simp] theorem State.isHead_finishDuplicate (s : State) (c : Cmd) (e : WinEnt) : (s.finishDuplicate c e).isHead = s.isHead := by
  have hcounted : (s.inc zcpDuplicatesCount).isHead = s.isHead := s.isHead_wr _ (by decide)
  simp [State.finishDuplicate, hcounted]

@[simp] theorem State.isHead_wakeDuplicates (s : State) (c : Cmd) : (s.wakeDuplicates c).isHead = s.isHead := by
  simp only [State.wakeDuplicates]
  split
  · rfl
  split
  · rfl
  split
  · rfl
  · exact State.each_keeps (π := State.isHead) _ s (fun t d => t.isHead_finishDuplicate d _)

/-- A command completed leaves the role as it was. -/
@[simp] theorem State.isHead_complete (s : State) (c : Cmd) (st m l n : Nat) (e : Bool) : (s.complete c st m l n e).isHead = s.isHead := by
  simp [State.complete]

@[simp] theorem State.isHead_refuse (s : State) (c : Cmd) (st : Nat) : (s.refuse c st).isHead = s.isHead := by simp [State.refuse]

/-! ## A completed command is in hand no more -/

/-- The numbers of the commands in hand. -/
def State.cids (s : State) : List Nat := s.host.cmds.map (fun c => c.cid)

theorem State.cmd?_eq_none_iff (s : State) (cid : Nat) : s.cmd? cid = none ↔ cid ∉ s.cids := by
  simp [State.cmd?, State.cids]

theorem State.cids_of_belowErrors {s t : State} (h : t.belowErrors = s.belowErrors) : t.cids = s.cids := by
  rw [State.cids, State.cids, State.cmds_of_belowErrors h]

theorem State.cids_cmdMap (s : State) (cid : Nat) {f : Cmd → Cmd} (hf : ∀ x, (f x).cid = x.cid) : (s.cmdMap cid f).cids = s.cids := by
  simp only [State.cids, State.cmdMap, State.hostMap_host]
  induction s.host.cmds with
  | nil => rfl
  | cons x l ih => unfold updFirst; split <;> simp [hf, ih]

theorem State.cids_dropCmd (s : State) (c : Cmd) : (s.dropCmd c).cids = s.cids.filter (fun k => k != c.cid) := by
  simp [State.cids, State.dropCmd, State.settleSbqIdle, List.filter_map, Function.comp_def]

theorem State.not_mem_cids_finish (s : State) (c : Cmd) (st m l n : Nat) (e : Bool) : c.cid ∉ (s.finish c st m l n e).cids := by
  have hdropped : ∀ t : State, c.cid ∉ (t.dropCmd c).cids := fun t => by simp [State.cids_dropCmd]
  unfold State.finish
  split <;> exact hdropped _

theorem State.cids_finishDuplicate (s : State) (d : Cmd) (e : WinEnt) : (s.finishDuplicate d e).cids = s.cids.filter (fun k => k != d.cid) := by
  rw [State.finishDuplicate, State.cids_dropCmd, apply_ite State.cids, State.cids_of_belowErrors (State.belowErrors_countStatus _ _ _),
    State.cids_of_belowErrors (State.belowErrors_writeCompletion ..), State.cids_of_belowErrors (State.belowErrors_cpqMap ..), ite_self]
  rfl

/-- The resends that waited on a command add no command. -/
theorem State.not_mem_cids_wakeDuplicates {s : State} {k : Nat} (c : Cmd) (h : k ∉ s.cids) : k ∉ (s.wakeDuplicates c).cids := by
  simp only [State.wakeDuplicates]
  split
  · exact h
  split
  · exact h
  split
  · rw [State.cids_cmdMap]
    · exact h
    · exact fun _ => rfl
  · refine List.foldlRecOn (motive := fun t : State => k ∉ t.cids) _ _ h (fun t ht d _ => ?_)
    rw [State.cids_finishDuplicate]
    exact fun hmem => ht (List.mem_filter.1 hmem).1

theorem State.complete_cmd? (s : State) (c : Cmd) (st m l n : Nat) (e : Bool) : (s.complete c st m l n e).cmd? c.cid = none :=
  (State.cmd?_eq_none_iff _ _).2 (State.not_mem_cids_wakeDuplicates c (s.not_mem_cids_finish c st m l n e))

/-! ## The end of a settle wait -/

/-- A command none of whose entries is awaited completes (R476). -/
theorem State.settledCompletion_of_reached {s : State} {c : Cmd} {cid : Nat} (hc : s.cmd? cid = some c) (hstage : c.stage = .settling)
    (hw : c.waits = []) : s.settledCompletion cid = s.complete c stOk (if isMutation c.opcode then c.target else s.measure) 0 0 true := by
  simp [State.settledCompletion, hc, hstage, hw]

theorem State.settledCompletion_of_waiting {s : State} {c : Cmd} {cid : Nat} (hc : s.cmd? cid = some c) (hw : c.waits ≠ []) :
    s.settledCompletion cid = s := by
  simp [State.settledCompletion, hc, hw]

theorem exec_settledCompletion (cid t : Nat) (s : State) :
    exec (.settledCompletion cid t) s = .next (s.when s.live (fun s => (s.advance t).settledCompletion cid)) := rfl

end Sys2Proof.Machine
end

section
/-!
PROOFS. A command that waits for its entries completes once they have reached the store.
-/
namespace Sys2Proof.Claims
open Sys2Proof Sys2Proof.Machine

/-- Settles O59: the two branches of the settle wait, and a completed command is in hand no more. -/
theorem settledCommandsComplete : Obligations.SettledCommandsComplete := by
  intro cid t c s hl u hc hstage
  have hanswers : Answers (.settledCompletion cid t) s (u.settledCompletion cid) := by
    rw [Answers, exec_settledCompletion, hl, State.when_true]
  obtain rfl := State.cmd?_cid hc
  refine ⟨fun hw => ?_, fun hw => ?_⟩
  · exact ⟨hanswers.trans (congrArg _ (State.settledCompletion_of_reached hc hstage hw)), fun _ => u.complete_cmd? c _ _ _ _ _⟩
  · exact hanswers.trans (congrArg _ (State.settledCompletion_of_waiting hc hw))

end Sys2Proof.Claims
end

section
/-!
LAWS. The shelves after SHELF_CREATE, SHELF_DROP and SHELF_GRANT (R107, R147, R509), and the entries SETTLE waits for (R477).
-/
namespace Sys2Proof.Machine

/-! ## Lists changed where a condition holds -/

theorem forall_mem_updAll {α : Type} {P : α → Prop} {p : α → Bool} {f : α → α} {l : List α} (hf : ∀ x ∈ l, p x = true → P (f x))
    (hn : ∀ x ∈ l, p x = false → P x) : ∀ x ∈ updAll p f l, P x := by
  intro x hx
  obtain ⟨y, hy, rfl⟩ := List.mem_map.1 hx
  cases hp : p y with
  | true => simpa [hp] using hf y hy hp
  | false => simpa [hp] using hn y hy hp

theorem mem_updAll_of_not {α : Type} {p : α → Bool} {f : α → α} {l : List α} {x : α} (hx : x ∈ l) (hp : p x = false) : x ∈ updAll p f l :=
  List.mem_map.2 ⟨x, hx, by simp [hp]⟩

/-! ## SHELF_CREATE -/

/-- A shelf with its local index and the bases of its arrays. -/
def Shelf.laidAt (i sweep key deep : Nat) (h : Shelf) : Shelf := { h with index := i, sweepBase := sweep, keyBase := key, deepBase := deep }

/-- A shelf added to the store, and the directory over its buckets too. -/
def State.addShelf (s : State) (h : Shelf) : State := (s.storeMap (fun t => { t with shelves := t.shelves ++ [h] })).rehashDir

theorem State.addShelf_shelves (s : State) (h : Shelf) : (s.addShelf h).store.shelves = s.store.shelves ++ [h] := rfl
theorem State.addShelf_regs (s : State) (h : Shelf) : (s.addShelf h).regs = s.regs := rfl
theorem State.addShelf_host (s : State) (h : Shelf) : (s.addShelf h).host = s.host := rfl

theorem shelfOfParam_sub (handle seat : Nat) (p : Bytes) : (shelfOfParam handle seat p).sub = 0 := rfl

theorem State.freeIndex_free {s : State} {i : Nat} (h : s.freeIndex = some i) : ∀ x ∈ s.store.shelves, x.index ≠ i := by
  simpa [State.freeIndex] using List.find?_some h

/-- A shelf with arrays is added under an index of its own, its arrays at bases found for them (R104, R107). -/
theorem State.placeShelf_adds {s w : State} {h : Shelf} (hsub : h.sub ≠ 9) (hp : s.placeShelf h = some w) :
    ∃ i a b d, s.freeIndex = some i ∧ w = s.addShelf (h.laidAt i a b d) := by
  simp only [State.placeShelf, hsub, if_false, Option.bind_eq_some_iff] at hp
  obtain ⟨i, hfree, hfits⟩ := hp
  split at hfits
  · cases hfits
  · obtain ⟨l, -, rfl⟩ := Option.map_eq_some_iff.1 hfits
    exact ⟨i, _, _, _, hfree, rfl⟩

section
variable {s : State} {c : Cmd}

theorem State.shelfCreate_of_used {h : Shelf} (hs : s.shelfOf? c.shelf = some h) : s.shelfCreate c = s.refuse c stBadParam := by
  simp [State.shelfCreate, hs]

variable (hs : s.shelfOf? c.shelf = none) (hwave : s.wshelf? c.shelf = none) (hw : s.inWeave = false)
include hs hwave hw

theorem State.shelfCreate_of_full (hp : s.placeShelf (shelfOfParam c.shelf c.seat c.param) = none) : s.shelfCreate c = s.refuse c stStoreFull := by
  simp [State.shelfCreate, hs, hwave, State.makeShelf, hw, hp]

theorem State.shelfCreate_of_placed {w : State} (hp : s.placeShelf (shelfOfParam c.shelf c.seat c.param) = some w) :
    s.shelfCreate c = w.completeOk c 0 0 := by
  obtain ⟨i, a, b, d, -, rfl⟩ := State.placeShelf_adds (by rw [shelfOfParam_sub]; decide) hp
  have hhead := (State.isHead_of_regs (s.addShelf_regs ((shelfOfParam c.shelf c.seat c.param).laidAt i a b d))).trans (State.isHead_of_standalone hw)
  simp [State.shelfCreate, hs, hwave, State.makeShelf, hw, hp, hhead]

end

/-! ## SHELF_DROP -/

/-- Every shelf of a handle is dropping. -/
def State.dropping (s : State) (handle : Nat) : Prop := ∀ h ∈ s.store.shelves, h.handle = handle → h.dropping = true

theorem State.dropping_of_store {s t : State} {k : Nat} (h : t.store = s.store) (hs : s.dropping k) : t.dropping k := by
  rwa [State.dropping, h]

/-- The dropping flag set on a shelf, here and in the weave (R147). -/
def State.dropMarked (s : State) (handle : Nat) : State :=
  let s := (s.endLost handle).storeMap (fun t => { t with
    shelves := updAll (fun h => h.handle == handle) (fun h => { h with dropping := true, dropAt := s.measure }) t.shelves })
  s.wshelfMap handle (fun w => { w with template := { w.template with dropping := true, dropAt := s.measure } })

/-- The mutations that wait for a grant or for room on a shelf ended with NO_SHELF (R147). -/
def State.refuseWaiting (s : State) (handle : Nat) : State :=
  s.each (s.host.cmds.filter (fun c => c.waiting && c.shelf == handle)) (fun s c => s.refuse c stNoShelf)

theorem State.dropShelf_eq (s : State) (k : Nat) : s.dropShelf k =
    (((s.dropMarked k).endSettles k).refuseWaiting k).when (((s.dropMarked k).endSettles k).refuseWaiting k).clk.bgOpen State.releaseDropped := rfl

theorem State.dropMarked_dropping (s : State) (k : Nat) : (s.dropMarked k).dropping k :=
  forall_mem_updAll (fun _ _ _ _ => rfl) (fun h _ hk hhandle => by simp [hhandle] at hk)

theorem State.endSettles_store (s : State) (k : Nat) : (s.endSettles k).store = s.store :=
  State.each_keeps (π := State.store) _ s (fun t c => State.store_of_besidePosts (t.besidePosts_complete c _ _ _ _ _))

theorem State.refuseWaiting_store (s : State) (k : Nat) : (s.refuseWaiting k).store = s.store :=
  State.each_keeps (π := State.store) _ s (fun t c => State.store_of_besidePosts (t.besidePosts_refuse c _))

theorem State.releaseDropped_dropping {s : State} {k : Nat} (h : s.dropping k) : s.releaseDropped.dropping k := by
  simp only [State.releaseDropped]
  split
  · exact h
  · exact forall_mem_updAll (fun x hx _ => h x hx) (fun x hx _ => h x hx)

/-- A dropped shelf is dropping (R147). -/
theorem State.dropShelf_dropping (s : State) (k : Nat) : (s.dropShelf k).dropping k := by
  have hended : (((s.dropMarked k).endSettles k).refuseWaiting k).dropping k :=
    State.dropping_of_store ((State.refuseWaiting_store _ k).trans (State.endSettles_store _ k)) (s.dropMarked_dropping k)
  rw [State.dropShelf_eq]
  cases (((s.dropMarked k).endSettles k).refuseWaiting k).clk.bgOpen with
  | true => exact State.releaseDropped_dropping hended
  | false => exact hended

theorem State.notice_store (s : State) (seat bit : Nat) : (s.notice seat bit).store = s.store :=
  State.store_of_besidePosts (by simp [State.notice])

/-- The marks of lost shelves lie at the low ends of their registers, the role does not (R572). -/
theorem State.endLost_isHead (s : State) (k : Nat) : (s.endLost k).isHead = s.isHead := by
  refine State.each_keeps (π := State.isHead) _ s (fun t h => t.isHead_wr _ ?_)
  simp only [regKey, wvSelfRole, gdmLostShelves]
  omega

theorem State.endSettles_isHead (s : State) (k : Nat) : (s.endSettles k).isHead = s.isHead :=
  State.each_keeps (π := State.isHead) _ s (fun t c => t.isHead_complete c _ _ _ _ _)

theorem State.refuseWaiting_isHead (s : State) (k : Nat) : (s.refuseWaiting k).isHead = s.isHead :=
  State.each_keeps (π := State.isHead) _ s (fun t c => t.isHead_refuse c _)

theorem State.dropShelf_isHead (s : State) (k : Nat) : (s.dropShelf k).isHead = s.isHead := by
  have hmarked : (s.dropMarked k).isHead = s.isHead := s.endLost_isHead k
  rw [State.dropShelf_eq, State.when_keeps _ _ (fun t => State.isHead_of_regs t.releaseDropped_keeps.2.2), State.refuseWaiting_isHead,
    State.endSettles_isHead, hmarked]

/-- A shelf dropped, and the seats that lose a right with it told (R147, R532). -/
def State.dropTold (s : State) (c : Cmd) : State :=
  (s.dropShelf c.shelf).each (((s.shelfOf? c.shelf).map s.rightHolders).getD []) (fun s t => s.notice t 5)

theorem State.dropTold_dropping (s : State) (c : Cmd) : (s.dropTold c).dropping c.shelf :=
  State.dropping_of_store (State.each_keeps (π := State.store) _ _ (fun t seat => t.notice_store seat 5)) (s.dropShelf_dropping c.shelf)

theorem State.dropTold_isHead (s : State) (c : Cmd) : (s.dropTold c).isHead = s.isHead :=
  (State.each_keeps (π := State.isHead) _ _ (fun t seat => t.isHead_notice seat 5)).trans (s.dropShelf_isHead c.shelf)

theorem State.shelfDrop_of_not_head {s : State} (c : Cmd) (h : s.isHead = false) : s.shelfDrop c = (s.dropTold c).completeOk c 0 0 := by
  have hhead : (s.dropTold c).isHead = false := (s.dropTold_isHead c).trans h
  exact if_neg (fun hc => Bool.false_ne_true (hhead.symm.trans hc.1))

/-! ## SHELF_GRANT -/

/-- A seat put into a set, or taken out of it. -/
def setSeat (seat : Nat) (on : Bool) (l : List Nat) : List Nat :=
  let r := l.filter (fun x => x != seat); if on then r ++ [seat] else r

theorem contains_setSeat (seat : Nat) (on : Bool) (l : List Nat) : (setSeat seat on l).contains seat = on := by
  cases on <;> simp [setSeat]

/-- The rights of a seat on a shelf set (R509). -/
def Shelf.grant (seat rights : Nat) (h : Shelf) : Shelf :=
  { h with searchers := setSeat seat (rights.testBit 0) h.searchers, readers := setSeat seat (rights.testBit 1) h.readers }

theorem State.grantShelf_shelves (s : State) (k seat rights : Nat) :
    (s.grantShelf k seat rights).store.shelves = updAll (fun h => h.handle == k) (Shelf.grant seat rights) s.store.shelves := rfl

theorem State.grantShelf_staging (s : State) (k seat rights : Nat) : (s.grantShelf k seat rights).store.staging = s.store.staging := rfl

/-- SHELF_GRANT completes over the rights it set, its seat told where they changed (R509, R532). -/
theorem State.shelfGrant_completes (s : State) (c : Cmd) :
    ∃ w : State, s.shelfGrant c = w.completeOk c 0 0 ∧ w.store = (s.grantShelf c.shelf (field c.param 0 2) (field c.param 2 1)).store :=
  ⟨_, rfl, State.when_keeps (π := State.store) _ _ (fun t => t.notice_store _ 5)⟩

/-! ## SETTLE -/

/-- An entry lies in the scope of a SETTLE (R477). -/
def State.inScope (s : State) (c : Cmd) (e : StgEnt) : Bool :=
  field c.param 0 1 == 1 || ((s.shelfOf? c.shelf).any (fun h => e.shelf == h.index))

/-- The handles of the entries a SETTLE waits for. -/
def State.scopeHandles (s : State) (c : Cmd) : List Nat := (s.store.staging.filter (fun e => s.inScope c e && e.unsettled)).map (fun e => e.handle)

/-- A SETTLE that waits for entries, which are flagged. -/
def State.awaitEntries (s : State) (c : Cmd) (hs : List Nat) : State :=
  (s.flagSettle hs).cmdMap c.cid (fun x => { x with stage := .settling, waits := hs })

theorem State.settle_of_not_head {s : State} (c : Cmd) (h : s.isHead = false) : s.settle c = s.settleBegin c := by simp [State.settle, h]

/-- On no lost shelf a SETTLE completes, or waits for the entries of its scope (R477). -/
theorem State.settleBegin_eq {s : State} {c : Cmd} (hl : ∀ h, s.shelfOf? c.shelf = some h → h.lost = false) :
    s.settleBegin c = if s.scopeHandles c = [] then s.completeOk c 0 0 else s.awaitEntries c (s.scopeHandles c) := by
  unfold State.settleBegin State.scopeHandles State.inScope State.awaitEntries
  cases hs : s.shelfOf? c.shelf with
  | none => simp
  | some h => simp [hl h hs]

theorem State.scopeHandles_all {s : State} {c : Cmd} (h : field c.param 0 1 = 1) :
    s.scopeHandles c = (s.store.staging.filter StgEnt.unsettled).map (fun e => e.handle) := by
  simp [State.scopeHandles, State.inScope, h]

theorem State.scopeHandles_shelf {s : State} {c : Cmd} {h : Shelf} (hn : field c.param 0 1 ≠ 1) (hs : s.shelfOf? c.shelf = some h) :
    s.scopeHandles c = (s.store.staging.filter (fun e => e.shelf == h.index && e.unsettled)).map (fun e => e.handle) := by
  simp [State.scopeHandles, State.inScope, beq_eq_false_iff_ne.2 hn, hs]

theorem State.scopeHandles_of_settled {s : State} (c : Cmd) (h : s.store.staging.all (fun e => !e.unsettled) = true) : s.scopeHandles c = [] := by
  simp_all [State.scopeHandles]

theorem State.awaitEntries_cmd? {s : State} {c : Cmd} (hs : List Nat) (hc : s.cmd? c.cid = some c) :
    (s.awaitEntries c hs).cmd? c.cid = some { c with stage := .settling, waits := hs } := by
  have hfound : (s.flagSettle hs).cmd? c.cid = some c := hc
  rw [State.awaitEntries, State.cmd?_cmdMap _ _ (f := fun x => { x with stage := .settling, waits := hs }) (fun _ => rfl), hfound]
  rfl

/-- Every entry a SETTLE of the whole store waits for is flagged. -/
theorem State.awaitEntries_flags (s : State) (c : Cmd) :
    ∀ e ∈ (s.awaitEntries c ((s.store.staging.filter StgEnt.unsettled).map (fun e => e.handle))).store.staging, e.unsettled = true → e.settle = true :=
  forall_mem_updAll (fun _ _ _ _ => rfl) (fun e he hnot hu => by
    have hwaited : e.handle ∈ (s.store.staging.filter StgEnt.unsettled).map (fun e => e.handle) :=
      List.mem_map_of_mem (List.mem_filter.2 ⟨he, hu⟩)
    rw [List.contains_iff_mem.2 hwaited] at hnot
    cases hnot)

/-! ## The commands -/

theorem exec_shelfCreate (cid : Nat) (s : State) : exec (.shelfCreate cid) s = .next (s.row cid 0x28 State.shelfCreate) := rfl

theorem exec_shelfDrop (cid : Nat) (s : State) : exec (.shelfDrop cid) s = .next (s.row cid 0x29 State.shelfDrop) := rfl

theorem exec_shelfGrant (cid : Nat) (s : State) : exec (.shelfGrant cid) s = .next (s.row cid 0x2A State.shelfGrant) := rfl

theorem exec_settle (cid : Nat) (s : State) : exec (.settle cid) s = .next (s.row cid 0x23 State.settle) := rfl

end Sys2Proof.Machine
end

section
/-!
PROOFS. SHELF_CREATE, SHELF_DROP, SHELF_GRANT and SETTLE on a chip outside a weave.
-/
namespace Sys2Proof.Claims
open Sys2Proof Sys2Proof.Machine

section
variable {cid : Nat} {c : Cmd} {s : State}

/-! ## SHELF_CREATE -/

section
variable (hready : hostReady s cid 0x28 c)
include hready

theorem answers_shelfCreate : Answers (.shelfCreate cid) s (s.shelfCreate c) := by
  rw [Answers, exec_shelfCreate, row_of_hostReady hready]

/-- A new shelf is empty, under an index of its own, and open to its creator alone (R107). -/
theorem answers_shelfCreate_placed (hw : s.inWeave = false) (hs : s.shelfOf? c.shelf = none) (hwave : s.wshelf? c.shelf = none) {w : State}
    (hp : s.placeShelf (shelfOfParam c.shelf c.seat c.param) = some w) :
    Answers (.shelfCreate cid) s (w.completeOk c 0 0) ∧
      ∃ h, w.store.shelves = s.store.shelves ++ [h] ∧ h.handle = c.shelf ∧ h.ownerSeat = c.seat ∧ h.searchers = [c.seat] ∧
        h.readers = [c.seat] ∧ h.slabs = [] ∧ h.capacity = field c.param 48 4 ∧ h.dropping = false ∧
        (∀ x ∈ s.store.shelves, x.index ≠ h.index) ∧ w.regs = s.regs ∧ w.host = s.host := by
  have hcreate := answers_shelfCreate hready
  rw [State.shelfCreate_of_placed hs hwave hw hp] at hcreate
  obtain ⟨i, a, b, d, hfree, rfl⟩ := State.placeShelf_adds (by rw [shelfOfParam_sub]; decide) hp
  exact ⟨hcreate, _, s.addShelf_shelves _, rfl, rfl, rfl, rfl, rfl, rfl, rfl, State.freeIndex_free hfree, s.addShelf_regs _, s.addShelf_host _⟩

end

/-! ## SHELF_DROP and SHELF_GRANT -/

theorem answers_shelfDrop (hready : hostReady s cid 0x29 c) (hw : s.inWeave = false) :
    ∃ w : State, Answers (.shelfDrop cid) s (w.completeOk c 0 0) ∧ (∀ h ∈ w.store.shelves, h.handle = c.shelf → h.dropping = true) :=
  ⟨s.dropTold c, by rw [Answers, exec_shelfDrop, row_of_hostReady hready, State.shelfDrop_of_not_head c (State.isHead_of_standalone hw)],
    s.dropTold_dropping c⟩

/-- The rights of the named seat on the named shelf are those given, every other shelf and the staged entries are as they were (R509). -/
theorem answers_shelfGrant (hready : hostReady s cid 0x2A c) : ∃ w : State, Answers (.shelfGrant cid) s (w.completeOk c 0 0) ∧
    (∀ h ∈ w.store.shelves, h.handle = c.shelf → h.searchers.contains (field c.param 0 2) = (field c.param 2 1).testBit 0 ∧
      h.readers.contains (field c.param 0 2) = (field c.param 2 1).testBit 1) ∧
    (∀ h ∈ s.store.shelves, h.handle ≠ c.shelf → h ∈ w.store.shelves) ∧ w.store.staging = s.store.staging := by
  obtain ⟨w, hgrant, hstore⟩ := s.shelfGrant_completes c
  refine ⟨w, by rw [Answers, exec_shelfGrant, row_of_hostReady hready, hgrant], ?_, fun h hmem hne => ?_, ?_⟩
  · rw [hstore, State.grantShelf_shelves]
    exact forall_mem_updAll (fun h _ _ _ => ⟨contains_setSeat _ _ _, contains_setSeat _ _ _⟩) (fun h _ hk hhandle => by simp [hhandle] at hk)
  · rw [hstore, State.grantShelf_shelves]
    exact mem_updAll_of_not hmem (beq_eq_false_iff_ne.2 hne)
  · rw [hstore, State.grantShelf_staging]

/-! ## SETTLE -/

section
variable (hready : hostReady s cid 0x23 c) (hw : s.inWeave = false) (hl : ∀ h, s.shelfOf? c.shelf = some h → h.lost = false)
include hready hw hl

theorem answers_settle :
    Answers (.settle cid) s (if s.scopeHandles c = [] then s.completeOk c 0 0 else s.awaitEntries c (s.scopeHandles c)) := by
  rw [Answers, exec_settle, row_of_hostReady hready, State.settle_of_not_head c (State.isHead_of_standalone hw), State.settleBegin_eq hl]

theorem answers_settle_at_once (hall : s.store.staging.all (fun e => !e.unsettled) = true) : Answers (.settle cid) s (s.completeOk c 0 0) := by
  simpa [State.scopeHandles_of_settled c hall] using answers_settle hready hw hl

/-- A SETTLE waits for the unsettled entries of its scope, where it has some (R477). -/
theorem answers_settle_waits {p : StgEnt → Bool} (hp : s.scopeHandles c = (s.store.staging.filter p).map (fun e => e.handle))
    (hany : s.store.staging.any p = true) :
    let hs := (s.store.staging.filter p).map (fun e => e.handle)
    Answers (.settle cid) s (s.awaitEntries c hs) ∧ (s.awaitEntries c hs).cmd? cid = some { c with stage := .settling, waits := hs } := by
  have hsome : (s.store.staging.filter p).map (fun e => e.handle) ≠ [] := by simpa using hany
  have hanswers := answers_settle hready hw hl
  rw [hp, if_neg hsome] at hanswers
  obtain ⟨-, hc, -⟩ := hready
  obtain rfl := State.cmd?_cid hc
  exact ⟨hanswers, State.awaitEntries_cmd? _ hc⟩

end

end

/-- Settles O37: each command by the lemmas on the shelves it leaves, and SETTLE by the entries of its scope. -/
theorem shelvesAndSettles : Obligations.ShelvesAndSettles := by
  intro cid op c s hready hw
  refine ⟨?_, ?_, ?_, ?_, ?_⟩
  · rintro rfl
    have hcreate := answers_shelfCreate hready
    refine ⟨fun h hs => ?_, fun hs hwave => ⟨fun hp => ?_, fun w hp => answers_shelfCreate_placed hready hw hs hwave hp⟩⟩
    · exact hcreate.trans (congrArg _ (State.shelfCreate_of_used hs))
    · exact hcreate.trans (congrArg _ (State.shelfCreate_of_full hs hwave hw hp))
  · rintro rfl
    exact answers_shelfDrop hready hw
  · rintro rfl
    exact answers_shelfGrant hready
  · rintro h rfl hs hlost hone hany
    have hl : ∀ x, s.shelfOf? c.shelf = some x → x.lost = false := fun x hx => by rwa [Option.some.inj (hx.symm.trans hs)]
    obtain ⟨hanswers, hcmd⟩ := answers_settle_waits hready hw hl (State.scopeHandles_shelf hone hs) hany
    exact ⟨_, _, hanswers, hcmd, rfl, rfl, rfl, rfl⟩
  · rintro rfl hl
    refine ⟨answers_settle_at_once hready hw hl, fun hone hany => ?_⟩
    obtain ⟨hanswers, hcmd⟩ := answers_settle_waits hready hw hl (State.scopeHandles_all hone) hany
    exact ⟨_, _, hanswers, hcmd, rfl, rfl, s.awaitEntries_flags c, rfl, rfl⟩

end Sys2Proof.Claims
end

section
/-!
PROOFS. Every command keeps the registers in canonical form and the chip whole: each arm of the command table by the law of its operation.
-/
namespace Sys2Proof.Machine

/-- What every outcome that answers a state keeps of the state `b`. -/
def Keeps (b : State) (o : StepOut) : Prop := ∀ t, o = .next t → Follows b t

theorem Keeps.next {b t : State} (h : Follows b t) : Keeps b (.next t) := by
  rintro _ ⟨⟩
  exact h

/-- An event that is none of the hardware's answers no state. -/
theorem Keeps.given {b : State} {o : Option State} (h : ∀ t, o = some t → Follows b t) : Keeps b (given o) := by
  cases o with
  | none => rintro _ ⟨⟩
  | some t => exact .next (h t rfl)

/-- Every command keeps what `Follows` says, whatever its operands and its state. -/
theorem exec_keeps (i : Instr) {b s : State} (h : Follows b s) : Keeps b (exec i s) :=
  match i with
  | .registerWrite .. => .next (.writeWords _ h)
  | .malformedAccess .. => .next (.malformed h)
  | .meterRead .. => .next (.hostRead h)
  | .downbeat => .next (.downbeat h)
  | .downbeatEdge .. => .next (.downbeatEdge h)
  | .flywheelDownbeat => .next (.flywheel h)
  | .planFreeze .. => .next (.planFreeze h)
  | .admissionWindowEnd => .next (.weaveRun (.windowEnds h))
  | .streamStart .. => .next (.runDescriptor h)
  | .stagingScanEnd => .next (.stagingScanEnd h)
  | .tileDeal .. => .next (.tileDeal h)
  | .tileStart .. => .next (.tileStart h)
  | .outputTileDrain .. => .next (.outputTileDrain h)
  | .drainPair .. => .next (.drainPair h)
  | .engineFault .. => .next (.weaveRun (.engineFault h))
  | .rerankProtectionPoint => .next (.weaveProtect (.protectionPoint (.advance h)))
  | .codaFinish .. => .next (.weaveRun (.codaFinish (.advance h)))
  | .barrier .. => .next (.weaveBarrier (.advance h))
  | .granuleLand .. => .next (.weaveRun (.granuleLand h))
  | .voiceSliceExpire .. => .next (.weaveRun (.sliceExpire h))
  | .foregroundEnd => .next (.when h fun _ h => .feed (.weaveRun (.foregroundEnd h)))
  | .postingReserveEnd => .next (.when h fun _ h => .feed (.reserveEndAct h))
  | .coalTimer .. => .next (.when h fun _ h => .coalTimer h)
  | .slabOpStart .. => .next (.when h fun _ h => .slabOpStart (.advance h))
  | .place .. | .mark .. | .move .. | .trim .. => .next (.slabEnd h)
  | .settledCompletion .. => .next (.when h fun _ h => .settledCompletion (.advance h))
  | .gddrReadReturn .. => .next (.granuleReturn h)
  | .perBankRefresh .. => .next (.perBankRefresh h)
  | .allBankRefresh .. => .next (.allBankRefresh h)
  | .scrub .. => .next (.scrub h)
  | .retrainStep .. => .next (.retrainStep h)
  | .channelFault .. => .next (.deviceSilent h)
  | .relayEnd .. => .next (.relayEnd (.advance h))
  | .sqTailDoorbell .. => .next (.barWrite h fun _ h => .tailBell h)
  | .cqHeadDoorbell .. => .next (.barWrite h fun _ h => .headBell h)
  | .packetFetch .. => .next (.fetchPacket h)
  | .packetReadComplete .. => .given fun _ e => .packetRead e h
  | .operandReadComplete .. => .given fun _ e => .operandRead e h
  | .sbqEnable .. => .next (.ringWrite h fun _ h => .sbqEnable h)
  | .sbqDelete .. => .next (.ringWrite h fun _ h => .sbqDelete h)
  | .cpqEnable .. => .next (.ringWrite h fun _ h => .cpqEnable h)
  | .cpqDelete .. => .next (.ringWrite h fun _ h => .cpqDelete h)
  | .msixUnmask .. => .next (.unmaskWrite h)
  | .flr .. => .next (.when h fun _ h => .flr h)
  | .vfEnableClear .. => .next (.when h fun _ h => .vfClear h)
  | .hotReset .. | .dlDown .. => .next (.hotReset h)
  | .perstAssert .. => .next (.perstLow h)
  | .busMasterDisable .. => .next (.bmeClear h)
  | .busMasterEnable .. => .next (.when h fun _ h => .bmeSet h)
  | .d3hotEntry .. => .next (.d3hot h)
  | .linkRetrain .. => .next (.when h fun _ h => .linkRetrain h)
  | .farReadComplete .. => .next (.weavePrepares (.retryCommits (.farReturn h)))
  | .ping .. => .next (.row h fun _ _ h => .completeOk h)
  | .identify .. => .next (.row h fun _ _ h => .identify h)
  | .claim .. => .next (.row h fun _ _ h => .claim h)
  | .release .. => .next (.row h fun _ _ h => .release h)
  | .handover .. => .next (.row h fun _ _ h => .handover h)
  | .search .. | .searchFused .. => .next (.row h fun _ _ h => .search h)
  | .getById .. => .next (.row h fun _ _ h => .pointRead h)
  | .stats .. => .next (.row h fun _ _ h => .search h)
  | .insert .. => .next (.row h fun _ _ h => .insertBegin h)
  | .delete .. => .next (.row h fun _ _ h => .weavePrepares (.deleteBegin h))
  | .upsert .. => .next (.row h fun _ _ h => .insertBegin h)
  | .settle .. => .next (.row h fun _ _ h => .settle h)
  | .shelfCreate .. => .next (.row h fun _ _ h => .shelfCreate h)
  | .shelfDrop .. => .next (.row h fun _ _ h => .shelfDrop h)
  | .shelfGrant .. => .next (.row h fun _ _ h => .shelfGrant h)
  | .configRead .. => .next (.row h fun _ _ h => .configRead h)
  | .configWrite .. => .next (.row h fun _ _ h => .configWrite h)
  | .measureConfig .. => .next (.row h fun _ _ h => .measureConfig h)
  | .fwStage .. => .next (.row h fun _ _ h => .fwStage h)
  | .fwStageVerify .. => .next (.when h fun _ h => .stageVerify (.advance h))
  | .fwQuery .. => .next (.row h fun _ _ h => .fwAsk h)
  | .telemetryRead .. => .next (.row h fun _ _ h => .telemetryRead h)
  | .flushQueue .. => .next (.row h fun _ _ h => .flushQueue h)
  | .weaveAdminForm .. => .next (.adminRow h fun _ _ h => .weaveForm h)
  | .weaveAdminAdmit .. => .next (.adminRow h fun _ _ h => .weaveAdmit h)
  | .weaveAdminExclude .. => .next (.adminRow h fun _ _ h => .weaveExclude h)
  | .weaveAdminRebuild .. => .next (.adminRow h fun _ _ h => .weaveRebuild h)
  | .weaveAdminRemote .. => .next (.adminRow h fun _ _ h => .weaveRemote h)
  | .weaveAdminPromote .. => .next (.adminRow h fun _ _ h => .weavePromote h)
  | .weaveAdminStatus .. => .next (.adminRow h fun _ _ h => .weaveStatus h)
  | .mapOut .. | .mapIn .. => .next (.row h fun _ _ h => .mapUnit h)
  | .transferGrant => .next (.when h fun _ h => .weavePrepares (.transferGrant h))
  | .insertDataComplete .. => .given fun _ e => .dataArrive e h
  | .stagingWaitExpire .. => .next (.when h fun _ h => .stagingExpire h)
  | .leaseExpiry .. => .next (.ownershipDue h fun _ _ h => .expireLease h)
  | .offerLapse .. => .next (.ownershipDue h fun _ _ h => .lapseOffer h)
  | .erst .. => .next (.when h fun _ h => .weaveRun (.erstEngine h))
  | .strst .. => .next (.strst h)
  | .warmReset .. => .next (.registerWrite h)
  | .wrstReady .. => .next (.wrstReady h)
  | .strandTrained .. => .next (.trainingEnd h)
  | .laneLockLoss .. => .next (.lockLoss (.advance h))
  | .dataBlock .. => .next (.dataBlock h)
  | .ack .. => .next (.when h fun _ h => .ackBlock h)
  | .nak .. => .next (.nakBlock h)
  | .replay .. => .next (.when h fun _ h => .replayBlock h)
  | .credit .. => .next (.when h fun _ h => .creditBlock h)
  | .beaconSend => .next (.beaconSend h)
  | .beacon .. => .next (.onBeacon h)
  | .settings .. => .next (.withMsg h fun _ _ h => .onSettings h)
  | .generations .. => .next (.withMsg h fun _ _ h => .onGenerations h)
  | .lossReport .. => .next (.withMsg h fun _ _ h => .onLoss h)
  | .adopt .. => .next (.withMsg h fun _ _ h => .onAdopt h)
  | .rejoin .. => .next (.withMsg h fun _ _ h => .onRejoin h)
  | .rest .. => .next (.restMsg h)
  | .forward .. => .next (.withMsg h fun _ _ h => .onForward h)
  | .forwardAck .. => .next (.withMsg h fun _ _ h => .onForwardAck h)
  | .plan .. => .next (.withMsg h fun _ _ h => .onPlan h)
  | .prepare .. => .next (.withMsg h fun _ _ h => .onPrepare h)
  | .prepareReply .. => .next (.withMsg h fun _ _ h => .onPrepareReply h)
  | .commit .. => .next (.withMsg h fun _ _ h => .onCommit h)
  | .applied .. => .next (.withMsg h fun _ _ h => .onApplied h)
  | .settled .. => .next (.withMsg h fun _ _ h => .onSettled h)
  | .pointRead .. => .next (.withMsg h fun _ _ h => .onPointRead h)
  | .pointReply .. => .next (.withMsg h fun _ _ h => .onPointReply h)
  | .remote .. => .next (.withMsg h fun _ _ h => .checkRemote (.onRemote h))
  | .remoteReply .. => .next (.withMsg h fun _ _ h => .onRemoteReply h)
  | .admin .. => .next (.withMsg h fun _ _ h => .onAdmin h)
  | .adminAck .. => .next (.withMsg h fun _ _ h => .onAdminAck h)
  | .capacityReportSend => .next (.capacitySend h)
  | .capacity .. => .next (.withMsg h fun _ _ h => .onCapacity h)
  | .valueList .. => .next (.withMsg h fun _ _ h => .onValues h)
  | .tieRequest .. => .next (.withMsg h fun _ _ h => .onTieRequest h)
  | .tieList .. => .next (.withMsg h fun _ _ h => .onTieList h)
  | .key .. => .next (.withMsg h fun _ _ h => .onKey h)
  | .finalList .. => .next (.withMsg h fun _ _ h => .onFinal h)
  | .statsPartial .. => .next (.withMsg h fun _ _ h => .onStats h)
  | .rebuildData .. => .next (.withMsg h fun _ _ h => .onRebuildData h)
  | .rebuildEnd .. => .next (.withMsg h fun _ _ h => .onRebuildEnd h)
  | .plaitWaitExpire .. => .next (.plaitExpire h)
  | .memberLost .. => .next (.memberLost h)
  | .strandTacet .. => .next (.strandTacet h)
  | .restWake .. => .next (.restWake (.advance h))
  | .restExitReady .. => .next (.restReady h)
  | .thermalGate .. => .next (.thermalGate h)
  | .thermalTrip .. => .next (.thermalTrip h)
  | .auxPowerGood .. => .next (.auxStart (.advance h))
  | .bleedEnd .. => .next (.bleedEnd h)
  | .coreStart .. => .next (.coreStart h)
  | .coreReady .. => .next (.coreReady h)
  | .coldDataCheck => .next (.coldCheck h)
  | .mrst .. => .next (.mrst (.advance h))
  | .aonPllUnlock .. => .next (.aonPllUnlock (.advance h))
  | .corePllUnlock .. => .next (.corePllUnlock h)
  | .watchdog .. => .next (.watchdog h)
  | .sramDoubleBit .. => .next (.weaveRun (.sramDoubleBit h))
  | .fatalMrstTimer .. => .next (.fatalTimer h)
  | .trimUpdate .. => .next (.trimUpdate h)
  | .gaugeSample .. => .next (.gaugeSample h)
  | .efuseTrip .. => .next (.efuseTrip h)
  | .busUndervoltage .. => .next (.busLow h)
  | .converterFault .. => .next (.converterFault h)
  | .pwrEnLow .. => .next (.pwrEnLow h)
  | .pwrEnHigh .. => .next (.pwrEnHigh h)
  | .fermataExit .. => .next (.fermataExit h)
  | .auxDip .. => .next (.auxDip h)
  | .eject => .next (.eject h)
  | .tcIdent .. | .tcStatus .. | .tcTelem .. | .tcEfuseRearm .. | .tcFwOpen .. | .tcFwWrite .. | .tcFwClose .. | .tcFwRead .. | .tcLogRead ..
    | .tcFaultRead .. => .next (.spsFrame h)
  | .fwChunkProgrammed .. => .next (.chunkDone h)
  | .tcFwSessionTimeout .. => .next (.sessionTimeout h)
  | .spsTransferCut .. => .next (.spsCut h)
  | .xipRead .. => .next (.xipRead h)
  | .xipWrite .. => .next (.xipWrite h)
  | .xipResume .. => .next (.xipResume h)
  | .flashOpDone .. => .next (.flashDone h)
  | .spmCommandTransfer .. => .next (.spmTransfer h)
  | .gpioSet .. => .next (.pinWrite h fun _ h => .gpioSetBits h)
  | .gpioClr .. => .next (.pinWrite h fun _ h => .gpioClrBits h)
  | .gpioTog .. => .next (.pinWrite h fun _ h => .gpioTogBits h)
  | .gpioLock .. => .next (.pinWrite h fun _ h => .gpioLock h)
  | .patternMatch .. => .next (.pinSamples h)
  | .echo => .next (.mailboxEcho h)
  | .coreState => .next (.mailboxCores h)
  | .litmus .. => .given fun _ e => .mailboxLitmus e h
  | .mailboxReply => .next (.mailboxReply h)
  | .auxPowerLoss .. => .next (.auxLoss (.advance h))
  | .trayBusReturn .. => .next (.busReturn h)
  | .ejectClose => .next (.ejectClose h)
  | .d3hotExit .. => .next (.d3hot h)
  | .perstDeassert .. => .next (.perstHigh h)
  | .datapathParityError => .next (.parityError h)
  | .ackTimer .. => .next (.ackTimer h)
  | .creditReturnTimer .. => .next (.creditTimer h)
  | .telemetrySample .. => .next (.advance h)
  | .channelTrainingEnd .. => .next (.channelTrained (.advance h))
  | .tapTckEdge .. => .next (.tapEdge h)
  | .trstAssert .. => .next (.trst h)
  | .spsUnknownCommand .. => .given fun _ e => .unknownCommand e h

/-- With no command waiting the block idles (log entry 3). -/
theorem step_of_idle {s : State} (h : s.pending = []) : step s = .next s := by rw [step, h]

/-- A step executes its front command with the rest of the queue (log entry 3). -/
theorem step_of_front {s : State} {c : Instr} {rest : List Instr} (h : s.pending = c :: rest) : step s = exec c { s with pending := rest } := by
  rw [step, h]

end Sys2Proof.Machine
end

section
/-!
PROOFS. The invariant of every step.
-/
namespace Sys2Proof.Claims
open Sys2Proof Sys2Proof.Machine

/-- Settles O3: the queue is no part of the invariant, in the canonical form of log entry 10, and every command keeps it. -/
theorem stepsKeepSound : Obligations.StepsKeepSound := by
  intro s s' hsound hstep
  cases hqueue : s.pending with
  | nil => exact (Keeps.next (.refl s) s' ((step_of_idle hqueue).symm.trans hstep)).sound hsound
  | cons c rest => exact (exec_keeps c (.refl _) s' ((step_of_front hqueue).symm.trans hstep)).sound hsound

end Sys2Proof.Claims
end

section
/-!
LAWS. MAP_OUT and MAP_IN (R214, R569, R600): the bit they write, what it reads back, and the command that waits for its downbeat.
-/
namespace Sys2Proof.Machine

/-! ## A unit's bit -/

/-- A map-out word with the bit of a unit set or cleared. -/
def putBit (out : Bool) (v j : Nat) : Nat := if out then v ||| 2 ^ j else v &&& (2 ^ 64 - 1 - 2 ^ j)

theorem putBit_out (v j : Nat) : putBit true v j = v ||| 2 ^ j := rfl

theorem putBit_out_lt {v j w : Nat} (hv : v < 2 ^ w) (hj : j < w) : v ||| 2 ^ j < 2 ^ w :=
  Nat.or_lt_two_pow hv (Nat.pow_lt_pow_right (by decide) hj)

/-- A map-in clears the unit's bit, and sets none. -/
theorem testBit_putBit_in (v k : Nat) {j : Nat} (hj : j < 64) :
    (putBit false v j).testBit k = (v.testBit k && (decide (k < 64) && !decide (j = k))) := by
  have hlt : 2 ^ j < 2 ^ 64 := Nat.pow_lt_pow_right (by decide) hj
  rw [putBit, if_neg Bool.false_ne_true, Nat.testBit_and, show 2 ^ 64 - 1 - 2 ^ j = 2 ^ 64 - (2 ^ j + 1) by omega,
    Nat.testBit_two_pow_sub_succ hlt, Nat.testBit_two_pow]

/-- The map-out field a unit's bit stands in: engines, channels or strands. -/
def mapField (kind i : Nat) : Fld :=
  match kind with
  | 0 => if i < 32 then swpMapoutLoEngines else swpMapoutHiEngines
  | 1 => gdmMapoutChannels
  | _ => if i < 32 then wvMapoutLoStrands else wvMapoutHiStrands

/-- Its place in that field. -/
def mapPlace (kind i : Nat) : Nat := if kind = 1 ∨ i < 32 then i else i - 32

theorem mapPlace_low {kind i : Nat} (h : i < 32) : mapPlace kind i = i := if_pos (.inr h)

theorem mapPlace_high {kind i : Nat} (hk : kind ≠ 1) (h : 32 ≤ i) : mapPlace kind i = i - 32 := if_neg (by omega)

/-- The map-out word asked for. -/
def State.mapAsked (s : State) (kind i : Nat) (out : Bool) : Nat := putBit out (s.rd (mapField kind i)) (mapPlace kind i)

/-! ## The bit written -/

/-- What a map-out bit leaves as it is. -/
def State.besideMaps (s : State) : HostSt × List Pend × Store × List Out := (s.host, s.mem.pends, s.store, s.out)

@[simp] theorem State.besideMaps_wr (s : State) (f : Fld) (i v : Nat) : (s.wr f i v).besideMaps = s.besideMaps := rfl

theorem State.besideMaps_clearMapped (s : State) (es : List Nat) : (s.clearMapped es).besideMaps = s.besideMaps := by
  unfold State.clearMapped
  rfl

/-- Clearing the fault records of engines leaves the map-outs as they are (R848). -/
theorem State.rd_clearMapped (s : State) (es : List Nat) (f : Fld) (hlo : regKey f 0 0 ≠ regKey errEngineMappedLoEngines 0 0)
    (hhi : regKey f 0 0 ≠ regKey errEngineMappedHiEngines 0 0) : (s.clearMapped es).rd f = s.rd f := by
  unfold State.clearMapped
  dsimp only
  rw [State.rd_of_regs _ _ f 0 (State.pwrMap_regs _ _), State.rd_wr_other _ _ _ _ _ _ hhi, State.rd_wr_other _ _ _ _ _ _ hlo]

theorem State.rd_writeSwpMapout {s : State} (high : Bool) (v : Nat) (h : regSorted s.regs = true) :
    let f := if high then swpMapoutHiEngines else swpMapoutLoEngines
    (s.writeSwpMapout high v).rd f = v % 2 ^ f.width := by
  unfold State.writeSwpMapout
  dsimp only
  rw [State.rd_clearMapped _ _ _ (by cases high <;> decide) (by cases high <;> decide), State.rd_wr_same _ _ _ _ h]

theorem State.besideMaps_writeSwpMapout (s : State) (high : Bool) (v : Nat) : (s.writeSwpMapout high v).besideMaps = s.besideMaps := by
  unfold State.writeSwpMapout
  rw [State.besideMaps_clearMapped, State.besideMaps_wr]

/-- A write of GDM_MAPOUT that takes no channel out, or leaves twelve, is taken (R570). -/
def State.takesGdmMapout (s : State) (v : Nat) : Prop :=
  (∀ k < 24, v.testBit k = true → (s.rd gdmMapoutChannels).testBit k = true) ∨ v < 2 ^ 24 ∧ 12 ≤ (s.wanted v).length

theorem State.rd_writeGdmMapout {s : State} {v : Nat} (h : regSorted s.regs = true) (htaken : s.takesGdmMapout v) :
    (s.writeGdmMapout v).rd gdmMapoutChannels = v % 2 ^ 24 := by
  unfold State.writeGdmMapout
  rw [if_neg, State.rd_wr_same _ _ _ _ h]
  · exact Nat.mod_mod _ _
  · rintro ⟨hadds, hfew⟩
    rcases htaken with hnone | ⟨hlt, hmany⟩
    · obtain ⟨k, hk, hbits⟩ := List.any_eq_true.1 hadds
      have hk := List.mem_range.1 hk
      rw [Nat.testBit_mod_two_pow, Bool.and_eq_true, Bool.and_eq_true, Bool.not_eq_true'] at hbits
      obtain ⟨⟨-, hset⟩, hclear⟩ := hbits
      exact Bool.false_ne_true (hclear.symm.trans (hnone k hk hset))
    · rw [Nat.mod_eq_of_lt hlt] at hfew
      omega

theorem State.besideMaps_writeGdmMapout (s : State) (v : Nat) : (s.writeGdmMapout v).besideMaps = s.besideMaps := by
  unfold State.writeGdmMapout
  dsimp only
  split
  · exact s.besideMaps_wr gdmEventBadConfig 0 1
  · exact State.besideMaps_wr ..

/-- A unit's bit, written, reads as asked for; of a channel where the write is taken. -/
theorem State.rd_mapBit {s : State} {kind i : Nat} {out : Bool} (h : regSorted s.regs = true)
    (htaken : kind = 1 → s.takesGdmMapout (s.mapAsked kind i out)) :
    (s.mapBit kind i out).rd (mapField kind i) = s.mapAsked kind i out % 2 ^ (mapField kind i).width := by
  match kind with
  | 0 =>
    by_cases hi : i < 32 <;>
      simpa [State.mapBit, State.mapAsked, mapField, mapPlace, putBit, hi] using State.rd_writeSwpMapout (!decide (i < 32)) _ h
  | 1 => exact State.rd_writeGdmMapout h (htaken rfl)
  | n + 2 =>
    by_cases hi : i < 32 <;>
      simpa [State.mapBit, State.mapAsked, mapField, mapPlace, putBit, hi] using State.rd_wr_same s _ 0 _ h

theorem State.besideMaps_mapBit (s : State) (kind i : Nat) (out : Bool) : (s.mapBit kind i out).besideMaps = s.besideMaps := by
  match kind with
  | 0 => by_cases hi : i < 32 <;> simp [State.mapBit, hi, State.besideMaps_writeSwpMapout]
  | 1 => exact State.besideMaps_writeGdmMapout ..
  | n + 2 => by_cases hi : i < 32 <;> simp [State.mapBit, hi]

/-! ## The request -/

/-- A channel asked for below the minimum trains again (R849). -/
def State.retrainAsked (s : State) (i : Nat) : State := s.channelMap i (fun x => { x with trained := false, faulted := false })

/-- The command waits for the downbeat that applies what it asked for. -/
def State.awaitDownbeat (s : State) (c : Cmd) (kind i : Nat) : State :=
  (s.cmdMap c.cid (fun x => { x with stage := .timed, target := 0 })).memMap (fun m => { m with pends := m.pends ++ [⟨c.cid, kind, i⟩] })

/-- A channel mapped in trains first where fewer than the minimum are left and it is mapped out (R849). -/
def State.trainsFirst (s : State) (i : Nat) : Bool := s.rd gdmStatusBelowMin == 1 && (s.rd gdmMapoutChannels).testBit i

theorem State.mapUnit_out (s : State) (c : Cmd) :
    s.mapUnit c true = (s.mapBit (field c.param 0 1) (field c.param 2 2) true).awaitDownbeat c (field c.param 0 1) (field c.param 2 2) := by
  simp [State.mapUnit, State.when, State.awaitDownbeat]

theorem State.mapUnit_in_other (s : State) {c : Cmd} (hk : field c.param 0 1 ≠ 1) :
    s.mapUnit c false = (s.mapBit (field c.param 0 1) (field c.param 2 2) false).awaitDownbeat c (field c.param 0 1) (field c.param 2 2) := by
  simp [State.mapUnit, State.when, State.awaitDownbeat, hk]

theorem State.mapUnit_in_channel (s : State) {c : Cmd} (hk : field c.param 0 1 = 1) :
    s.mapUnit c false = if (s.channel (field c.param 2 2)).faulted = true ∧ s.trainsFirst (field c.param 2 2) = false then s.refuse c stHwFault
      else ((s.when (s.trainsFirst (field c.param 2 2)) (fun s => s.retrainAsked (field c.param 2 2))).mapBit 1 (field c.param 2 2) false).awaitDownbeat
        c 3 (field c.param 2 2) := by
  simp [State.mapUnit, State.awaitDownbeat, State.trainsFirst, State.retrainAsked, hk, imp_iff_not_or]

/-- What the command that waits leaves beside the map-outs, and the request it leaves for the downbeat. -/
structure MapRequested (s : State) (c : Cmd) (kind i : Nat) (v : State) : Prop where
  cmd : v.cmd? c.cid = some { c with stage := .timed, target := 0 }
  pends : v.mem.pends = s.mem.pends ++ [⟨c.cid, kind, i⟩]
  store : v.store = s.store
  out : v.out = s.out

theorem State.mapBit_requested {s u : State} {c : Cmd} (kind pend i : Nat) (out : Bool) (hc : s.cmd? c.cid = some c)
    (hu : u.besideMaps = s.besideMaps) : MapRequested s c pend i ((u.mapBit kind i out).awaitDownbeat c pend i) := by
  obtain ⟨hhost, hpends, hstore, hout⟩ : _ ∧ _ ∧ _ ∧ _ := by
    simpa only [State.besideMaps, Prod.mk.injEq] using (u.besideMaps_mapBit kind i out).trans hu
  refine ⟨?_, congrArg (· ++ _) hpends, hstore, hout⟩
  have hcmd : (u.mapBit kind i out).cmd? c.cid = some c := by rwa [State.cmd?, hhost]
  exact (State.cmd?_cmdMap _ c.cid (f := fun x => { x with stage := .timed, target := 0 }) (fun _ => rfl)).trans (congrArg _ hcmd)

/-! ## The commands -/

theorem exec_mapOut (cid : Nat) (s : State) : exec (.mapOut cid) s = .next (s.row cid 0x60 (fun s c => s.mapUnit c true)) := rfl

theorem exec_mapIn (cid : Nat) (s : State) : exec (.mapIn cid) s = .next (s.row cid 0x61 (fun s c => s.mapUnit c false)) := rfl

end Sys2Proof.Machine
end

section
/-!
PROOFS. MAP_OUT and MAP_IN of engines, channels and strands.
-/
namespace Sys2Proof.Claims
open Sys2Proof Sys2Proof.Machine

section
variable {cid op kind i j : Nat} {c : Cmd} {s : State} {f : Fld}

/-- MAP_OUT of a unit sets its bit, where a channel's write is taken, and waits (R214, R569, R600). -/
theorem answers_mapOut (hsorted : regSorted s.regs = true) (hready : hostReady s cid op c) (hi : field c.param 2 2 = i) (hop : op = 0x60)
    (hk : field c.param 0 1 = kind) (hf : mapField kind i = f) (hj : mapPlace kind i = j)
    (htaken : kind = 1 → s.takesGdmMapout (s.mapAsked kind i true)) :
    ∃ v, Answers (.mapOut cid) s v ∧ v.rd f = (s.rd f ||| 2 ^ j) % 2 ^ f.width ∧ MapRequested s c kind i v := by
  subst hop hk hi hf hj
  refine ⟨(s.mapBit _ _ true).awaitDownbeat c _ _, by rw [Answers, exec_mapOut, row_of_hostReady hready, State.mapUnit_out],
    State.rd_mapBit hsorted htaken, ?_⟩
  obtain ⟨-, hc, -⟩ := hready
  obtain rfl := State.cmd?_cid hc
  exact State.mapBit_requested _ _ _ _ hc rfl

/-- A bit written by MAP_IN reads 0. -/
theorem testBit_mapBit_in (hsorted : regSorted s.regs = true) (hlt : mapPlace kind i < 64)
    (htaken : kind = 1 → s.takesGdmMapout (s.mapAsked kind i false)) :
    ((s.mapBit kind i false).rd (mapField kind i)).testBit (mapPlace kind i) = false := by
  rw [State.rd_mapBit hsorted htaken, State.mapAsked, Nat.testBit_mod_two_pow, testBit_putBit_in _ _ hlt]
  simp

/-- MAP_IN of an engine or a strand clears its bit and waits. -/
theorem answers_mapIn_other (hsorted : regSorted s.regs = true) (hready : hostReady s cid op c) (hi : field c.param 2 2 = i) (hop : op = 0x61)
    (hk : field c.param 0 1 = kind) (hf : mapField kind i = f) (hj : mapPlace kind i = j) (hne : kind ≠ 1) (hlt : j < 64) :
    ∃ v, Answers (.mapIn cid) s v ∧ (v.rd f).testBit j = false ∧ MapRequested s c kind i v := by
  subst hop hk hi hf hj
  refine ⟨(s.mapBit _ _ false).awaitDownbeat c _ _, by rw [Answers, exec_mapIn, row_of_hostReady hready, State.mapUnit_in_other _ hne],
    testBit_mapBit_in hsorted hlt (fun h => absurd h hne), ?_⟩
  obtain ⟨-, hc, -⟩ := hready
  obtain rfl := State.cmd?_cid hc
  exact State.mapBit_requested _ _ _ _ hc rfl

/-- MAP_IN of a channel that has faulted and may not train ends with HW_FAULT (R569, R849). -/
theorem answers_mapIn_faulted (hready : hostReady s cid 0x61 c) (hk : field c.param 0 1 = 1) (hi : field c.param 2 2 = i)
    (hf : (s.channel i).faulted = true) (htrain : s.trainsFirst i = false) : Answers (.mapIn cid) s (s.refuse c stHwFault) := by
  subst hi
  rw [Answers, exec_mapIn, row_of_hostReady hready, State.mapUnit_in_channel _ hk, if_pos ⟨hf, htrain⟩]

/-- MAP_IN of a channel that works, or that may train, clears its bit and waits. -/
theorem answers_mapIn_channel (hsorted : regSorted s.regs = true) (hready : hostReady s cid 0x61 c) (hk : field c.param 0 1 = 1)
    (hi : field c.param 2 2 = i) (hlt : i < 24) (hmay : (s.channel i).faulted = false ∨ s.trainsFirst i = true) :
    ∃ v, Answers (.mapIn cid) s v ∧ (v.rd gdmMapoutChannels).testBit i = false ∧ MapRequested s c 3 i v := by
  subst hi
  let u := s.when (s.trainsFirst (field c.param 2 2)) (fun s => s.retrainAsked (field c.param 2 2))
  have hregs : u.regs = s.regs := State.when_keeps s _ (fun _ => rfl)
  have hno : ¬((s.channel (field c.param 2 2)).faulted = true ∧ s.trainsFirst (field c.param 2 2) = false) := by
    rcases hmay with h | h <;> simp [h]
  refine ⟨_, by rw [Answers, exec_mapIn, row_of_hostReady hready, State.mapUnit_in_channel _ hk, if_neg hno], ?_, ?_⟩
  · refine testBit_mapBit_in (s := u) (kind := 1) (by rwa [hregs]) (Nat.lt_trans hlt (by decide)) (fun _ => .inl fun k _ hset => ?_)
    exact (Bool.and_eq_true_iff.1 ((testBit_putBit_in _ _ (Nat.lt_trans hlt (by decide))).symm.trans hset)).1
  · obtain ⟨-, hc, -⟩ := hready
    obtain rfl := State.cmd?_cid hc
    exact State.mapBit_requested _ _ _ _ hc (State.when_keeps s _ (fun _ => rfl))

end

/-- Settles O39: each unit by the lemmas on MAP_OUT and MAP_IN, its bit in the low or the high map-out word by its number. -/
theorem unitsAreMapped : Obligations.UnitsAreMapped := by
  intro cid op i c s hsound hready hi
  obtain ⟨⟨hsorted, -⟩, -⟩ := (State.sound_iff s).1 hsound
  have ⟨_, hcmd, _⟩ := hready
  obtain rfl := State.cmd?_cid hcmd
  have hout {kind j f} := answers_mapOut (kind := kind) (j := j) (f := f) hsorted hready hi
  have hin {kind j f} := answers_mapIn_other (kind := kind) (j := j) (f := f) hsorted hready hi
  have hstrand : 2 = 1 → s.takesGdmMapout (s.mapAsked 2 i true) := fun h => absurd h (by decide)
  have hengine : 0 = 1 → s.takesGdmMapout (s.mapAsked 0 i true) := fun h => absurd h (by decide)
  refine ⟨fun hop hk hlo => ?_, fun hop hk hlo hw => ?_, fun hop hk hlo => ?_, fun hop hk hf hno => ?_, fun hge hlt => ⟨fun hop hk => ?_,
    fun hop hk hw => ?_, fun hop hk => ?_, fun hop hk => ?_⟩, fun hop hk hlo => ?_, fun hk hlt => ⟨fun hop hw hmin => ?_, fun hop hmay => ?_⟩⟩
  · obtain ⟨v, hv, hrd, hreq⟩ := hout hop hk (if_pos hlo) (mapPlace_low hlo) hstrand
    exact ⟨v, hv, hrd, hreq.cmd, hreq.pends, hreq.store, hreq.out⟩
  · obtain ⟨v, hv, hrd, hreq⟩ := hout hop hk (if_pos hlo) (mapPlace_low hlo) hengine
    exact ⟨v, hv, hrd.trans (Nat.mod_eq_of_lt (putBit_out_lt hw hlo)), hreq.cmd, hreq.pends⟩
  · obtain ⟨v, hv, hrd, hreq⟩ := hin hop hk (if_pos hlo) (mapPlace_low hlo) (by decide) (by omega)
    exact ⟨v, hv, hrd, hreq.cmd, hreq.pends, hreq.store⟩
  · subst hop
    exact answers_mapIn_faulted hready hk hi hf (by rcases hno with h | h <;> simp [State.trainsFirst, h])
  · obtain ⟨v, hv, hrd, hreq⟩ := hout hop hk (if_neg (by omega)) (mapPlace_high (by decide) hge) hstrand
    exact ⟨v, hv, hrd, hreq.pends⟩
  · obtain ⟨v, hv, hrd, hreq⟩ := hout hop hk (if_neg (by omega)) (mapPlace_high (by decide) hge) hengine
    exact ⟨v, hv, hrd.trans (Nat.mod_eq_of_lt (putBit_out_lt hw (show i - 32 < 32 by omega))), hreq.pends⟩
  · obtain ⟨v, hv, hrd, hreq⟩ := hin hop hk (if_neg (by omega)) (mapPlace_high (by decide) hge) (by decide) (by omega)
    exact ⟨v, hv, hrd, hreq.pends⟩
  · obtain ⟨v, hv, hrd, hreq⟩ := hin hop hk (if_neg (by omega)) (mapPlace_high (by decide) hge) (by decide) (by omega)
    exact ⟨v, hv, hrd, hreq.pends⟩
  · obtain ⟨v, hv, hrd, hreq⟩ := hin hop hk (if_pos hlo) (mapPlace_low hlo) (by decide) (by omega)
    exact ⟨v, hv, hrd, hreq.pends⟩
  · have hasked : s.rd gdmMapoutChannels ||| 2 ^ i < 2 ^ 24 := putBit_out_lt hw hlt
    obtain ⟨v, hv, hrd, hreq⟩ := hout hop hk rfl (mapPlace_low (by omega)) (fun _ => .inr ⟨hasked, hmin⟩)
    exact ⟨v, hv, hrd.trans (Nat.mod_eq_of_lt hasked), hreq.cmd, hreq.pends, hreq.store, hreq.out⟩
  · subst hop
    obtain ⟨v, hv, hrd, hreq⟩ := answers_mapIn_channel hsorted hready hk hi hlt (hmay.imp_right fun h => by simp [State.trainsFirst, h])
    exact ⟨v, hv, hrd, hreq.cmd, hreq.pends⟩

end Sys2Proof.Claims
end

section
/-!
LAWS. The engines at work (R202 to R209, R236): what a change of one engine leaves of each, and what starting, filling, draining and handing on
a tile leave as they were.
-/
namespace Sys2Proof.Machine

/-! ## Engines -/

theorem getElem?_updAt_other {α : Type} {i j : Nat} (f : α → α) (l : List α) (h : j ≠ i) : (updAt i f l)[j]? = l[j]? := by
  induction l generalizing i j with
  | nil => cases i <;> rfl
  | cons x l ih =>
    cases i with
    | zero => cases j with
      | zero => exact absurd rfl h
      | succ j => rfl
    | succ i => cases j with
      | zero => rfl
      | succ j => simpa [updAt] using ih (fun hij => h (congrArg _ hij))

/-- Elements outside `q` are as they were after a change of those in it that leaves them in it. -/
theorem filter_updAll_not {α : Type} {p q : α → Bool} {f : α → α} (hpq : ∀ x, q x = !p x) (hf : ∀ x, p (f x) = p x) (l : List α) :
    (updAll p f l).filter q = l.filter q := by
  induction l with
  | nil => rfl
  | cons x l ih =>
    cases hx : p x <;> simp_all [updAll]

/-- An element of a list of which another, or itself, was changed. -/
theorem getD_updAt_keeps {α β : Type} {π : α → β} (i j : Nat) {f : α → α} (l : List α) (d : α) (h : ∀ x, π (f x) = π x) :
    π ((updAt i f l).getD j d) = π (l.getD j d) := by
  rw [List.getD_eq_getElem?_getD, List.getD_eq_getElem?_getD]
  by_cases hij : j = i
  · subst hij
    rw [getElem?_updAt_same]
    cases l[j]? with
    | none => rfl
    | some x => exact h x
  · rw [getElem?_updAt_other f l hij]

theorem getD_updAt_same {α : Type} {i : Nat} (f : α → α) {l : List α} (d : α) (h : i < l.length) :
    (updAt i f l).getD i d = f (l.getD i d) := by
  rw [List.getD_eq_getElem?_getD, List.getD_eq_getElem?_getD, getElem?_updAt_same, List.getElem?_eq_getElem h]
  rfl

theorem State.engine_engineMap_same {s : State} {e : Nat} (f : Engine → Engine) (h : e < s.sweep.engines.length) :
    (s.engineMap e f).engine e = f (s.engine e) := getD_updAt_same f _ h

theorem State.engine_engineMap_keeps {α : Type} {π : Engine → α} (s : State) (e n : Nat) {f : Engine → Engine} (h : ∀ x, π (f x) = π x) :
    π ((s.engineMap e f).engine n) = π (s.engine n) := getD_updAt_keeps e n _ _ h

/-- A sound chip keeps its 64 engines (R186). -/
theorem Follows.engines_length {b s : State} (h : Follows b s) (hb : b.sound = true) : s.sweep.engines.length = 64 := by
  obtain ⟨-, hlen, -⟩ := (State.sound_iff s).1 (h.sound hb)
  exact hlen

/-- Going to or leaving Tacet changes nothing else of an engine (R57). -/
theorem State.engine_restEngines_keeps {α : Type} {π : Engine → α} {s : State} {n : Nat} (hlen : s.sweep.engines.length = 64) (hn : n < 64)
    (h : ∀ x b, π { x with tacet := b } = π x) : π (s.restEngines.engine n) = π (s.engine n) := by
  have hsome : s.sweep.engines[n]? = some s.sweep.engines[n] := List.getElem?_eq_getElem (by omega)
  have hzip : (s.sweep.engines.zip (List.range 64))[n]? = some (s.sweep.engines[n], n) :=
    List.getElem?_zip_eq_some.2 ⟨hsome, List.getElem?_range hn⟩
  simp only [State.engine, State.restEngines, State.sweepMap, List.getD_eq_getElem?_getD, List.getElem?_map, hsome, hzip, Option.map_some,
    Option.getD_some]
  exact h _ _

/-- Words written into the accumulator memory one after another change nothing else of the engine. -/
theorem Engine.setWords_keeps {α β : Type} {π : Engine → α} (hπ : ∀ x a w, π (Engine.setWord x a w) = π x) (l : List β) (a : β → Nat)
    (w : Engine → β → DWord) (x : Engine) : π (l.foldl (fun x p => x.setWord (a p) (w x p)) x) = π x := by
  induction l generalizing x with
  | nil => rfl
  | cons p l ih => exact (ih _).trans (hπ x _ _)

/-! ## Filling and draining -/

/-- Filling an output tile writes words of the accumulator memory of its engine, and counts (R203). -/
theorem State.fillTile_keeps {α : Type} {π : State → α} (s : State) (e : Nat) (h : Shelf) (t : Tile) (g : Nat)
    (hset : ∀ (u : State) a (w : Engine → DWord), π (u.engineMap e (fun y => y.setWord a (w y))) = π u)
    (htally : ∀ (u : State) f i n, π (u.bump f i n) = π u) : π (s.fillTile e h t g) = π s := by
  unfold State.fillTile
  dsimp only
  split
  · rfl
  · exact (htally _ _ _ _).trans (State.each_keeps _ s (fun u _ => hset u _ _))

/-- The norm column writes words of the accumulator memory of its engine (R191). -/
theorem State.fillNorms_keeps {α : Type} {π : State → α} (s : State) (e : Nat) (h : Shelf) (t : Tile)
    (hset : ∀ (u : State) a (w : Engine → DWord), π (u.engineMap e (fun y => y.setWord a (w y))) = π u) : π (s.fillNorms e h t) = π s := by
  unfold State.fillNorms
  split
  · rfl
  · refine State.each_keeps _ s (fun u r => ?_)
    split
    · rfl
    · exact hset u _ _

/-- The registers, what was sent and the store. -/
def State.beyondSweep (s : State) : List (Nat × Nat) × List Out × Store := (s.regs, s.out, s.store)

theorem State.beyondSweep_eq_iff {s v : State} : v.beyondSweep = s.beyondSweep ↔ v.regs = s.regs ∧ v.out = s.out ∧ v.store = s.store := by
  simp [State.beyondSweep]

theorem State.sent_eq_iff {s v : State} : v.beyondSweep.2 = s.beyondSweep.2 ↔ v.out = s.out ∧ v.store = s.store := by
  simp [State.beyondSweep]

theorem State.beyondSweep_fillTile (s : State) (e : Nat) (h : Shelf) (t : Tile) (g : Nat) : (s.fillTile e h t g).beyondSweep = s.beyondSweep :=
  s.fillTile_keeps e h t g (fun _ _ _ => rfl) (fun _ _ _ _ => rfl)

theorem State.beyondSweep_fillNorms (s : State) (e : Nat) (h : Shelf) (t : Tile) : (s.fillNorms e h t).beyondSweep = s.beyondSweep :=
  s.fillNorms_keeps e h t (fun _ _ _ => rfl)

/-- What an engine holds: the tile it computes with the groups still to drain, and its slots. -/
def Engine.tiles (x : Engine) : Option Nat × List Nat × List Tile := (x.computing, x.groups, x.slots)

theorem Engine.tiles_eq_iff {x : Engine} {c : Option Nat} {g : List Nat} {l : List Tile} :
    x.tiles = (c, g, l) ↔ x.computing = c ∧ x.groups = g ∧ x.slots = l := by simp [Engine.tiles]

theorem State.tiles_fillTile (s : State) (e n : Nat) (h : Shelf) (t : Tile) (g : Nat) :
    ((s.fillTile e h t g).engine n).tiles = (s.engine n).tiles :=
  s.fillTile_keeps (π := fun u => (u.engine n).tiles) e h t g (fun u _ _ => u.engine_engineMap_keeps e n (fun _ => rfl)) (fun _ _ _ _ => rfl)

theorem State.tiles_fillNorms (s : State) (e n : Nat) (h : Shelf) (t : Tile) : ((s.fillNorms e h t).engine n).tiles = (s.engine n).tiles :=
  s.fillNorms_keeps (π := fun u => (u.engine n).tiles) e h t (fun u _ _ => u.engine_engineMap_keeps e n (fun _ => rfl))

/-- Draining goes to the coda and the runs; the engines are as they were (R204). -/
theorem State.drainGroup_keeps {α : Type} {π : State → α} (s : State) (e : Nat) (h : Shelf) (t : Tile) (g : Nat)
    (hcoda : ∀ (u : State) c f, π (u.clusterMap c f) = π u) (hruns : ∀ (u : State) p f, π (u.runsMap p f) = π u) :
    π (s.drainGroup e h t g) = π s := by
  unfold State.drainGroup
  dsimp only
  split
  · rfl
  · exact (hruns _ _ _).trans (hcoda _ _ _)

theorem State.engine_drainGroup (s : State) (e n : Nat) (h : Shelf) (t : Tile) (g : Nat) : (s.drainGroup e h t g).engine n = s.engine n :=
  s.drainGroup_keeps (π := fun u => u.engine n) e h t g (fun _ _ _ => rfl) (fun _ _ _ => rfl)

theorem State.beyondSweep_drainGroup (s : State) (e : Nat) (h : Shelf) (t : Tile) (g : Nat) : (s.drainGroup e h t g).beyondSweep = s.beyondSweep :=
  s.drainGroup_keeps e h t g (fun _ _ _ => rfl) (fun _ _ _ => rfl)

/-! ## A tile begun -/

/-- The groups a dealt tile runs. -/
def Tile.runGroups (t : Tile) : List Nat := match t.only with | some p => p.2 | none => []

/-- An engine computes a tile for its groups (R202). -/
def State.beginTile (s : State) (e : Nat) (t : Tile) : State :=
  s.engineMap e (fun y => { y with computing := some t.tid, groups := t.runGroups, sel := if s.chainOf t = [] then y.sel else 0 })

theorem State.tileStart_of_ready {s : State} {e slot : Nat} {t : Tile} {h : Shelf} (hfree : (s.engine e).computing = none)
    (ht : (s.engine e).slots.find? (fun y => y.slot == slot) = some t) (hs : s.shelfAt? t.shelf = some h) (hw : t.waiting = [])
    (hb : s.bankReady e = true) (hp : s.clk.phase = .sweep) :
    s.tileStart e slot = ((s.beginTile e t).fillNorms e h t).fillTile e h t (t.runGroups.headD 0) := by
  simp only [State.tileStart, hfree, ht, hs, hw, hb, hp, and_self, if_true]
  rfl

/-! ## A tile done -/

/-- An engine that holds a tile no longer. -/
def Engine.free (tid : Nat) (x : Engine) : Engine := { x with computing := none, groups := [], slots := x.slots.filter (fun y => y.tid != tid) }

/-- A tile done frees its engine, and may end a re-issue, before engines without tiles go to Tacet. -/
theorem State.tileDone_rests (s : State) (e : Nat) (t : Tile) :
    ∃ u : State, s.tileDone e t = u.restEngines ∧ u.sweep = (s.engineMap e (Engine.free t.tid)).sweep ∧ u.beyondSweep.2 = s.beyondSweep.2 :=
  ⟨_, rfl, State.when_keeps (π := State.sweep) _ _ (fun _ => rfl), State.when_keeps (π := fun u => u.beyondSweep.2) _ _ (fun _ => rfl)⟩

theorem State.engine_tileDone_keeps {α : Type} {π : Engine → α} {s : State} {e n : Nat} {t : Tile}
    (hlen : s.sweep.engines.length = 64) (hn : n < 64) (h : ∀ x b, π { x with tacet := b } = π x) :
    π ((s.tileDone e t).engine n) = π ((s.engineMap e (Engine.free t.tid)).engine n) := by
  obtain ⟨u, hdone, hsweep, -⟩ := s.tileDone_rests e t
  have hu : u.sweep.engines.length = 64 := by
    rw [hsweep]
    exact (updAt_length _ _ _).trans hlen
  rw [hdone, State.engine_restEngines_keeps hu hn h, State.engine, hsweep]
  rfl

theorem State.tiles_tileDone {s : State} {e : Nat} {t : Tile} (hlen : s.sweep.engines.length = 64) (he : e < 64) :
    ((s.tileDone e t).engine e).tiles = (none, [], (s.engine e).slots.filter (fun y => y.tid != t.tid)) := by
  rw [State.engine_tileDone_keeps (π := Engine.tiles) hlen he (fun _ _ => rfl), State.engine_engineMap_same _ (by omega)]
  rfl

theorem State.sent_tileDone (s : State) (e : Nat) (t : Tile) : (s.tileDone e t).beyondSweep.2 = s.beyondSweep.2 := by
  obtain ⟨u, hdone, -, hsent⟩ := s.tileDone_rests e t
  rw [hdone]
  exact hsent

/-! ## A full output tile drains in pass mode -/

/-- An engine whose output tile has drained goes to its next group, and to the other output tile (R203). -/
def Engine.nextGroup (x : Engine) : Engine := { x with groups := x.groups.drop 1, sel := 1 - x.sel }

/-- The full output tile of an engine has drained (R204). -/
def State.drained (s : State) (e : Nat) (h : Shelf) (t : Tile) : State :=
  ((s.drainGroup e h t ((s.engine e).groups.headD 0)).bump swpBusyCc e (h.tileSteps t)).engineMap e Engine.nextGroup

theorem State.beyondSweep_drained (s : State) (e : Nat) (h : Shelf) (t : Tile) : (s.drained e h t).beyondSweep = s.beyondSweep :=
  s.beyondSweep_drainGroup e h t _

theorem State.engine_drained {s : State} {e : Nat} (h : Shelf) (t : Tile) (hs : s.sound = true) (he : e < 64) :
    (s.drained e h t).engine e = (s.engine e).nextGroup := by
  have hlen := ((Follows.refl s).drainGroup (e := e) (h := h) (t := t) (g := (s.engine e).groups.headD 0)).bump swpBusyCc e (h.tileSteps t)
    |>.engines_length hs
  rw [State.drained, State.engine_engineMap_same _ (he.trans_eq hlen.symm)]
  exact congrArg _ (s.engine_drainGroup e e h t _)

theorem State.drained_length {s : State} (e : Nat) (h : Shelf) (t : Tile) (hs : s.sound = true) : (s.drained e h t).sweep.engines.length = 64 :=
  (Follows.engineMap (Follows.bump _ _ _ (Follows.drainGroup (.refl s)))).engines_length hs

section
variable {s : State} {e : Nat} {t : Tile} {h : Shelf} (hc : (s.engine e).computing = some t.tid)
  (ht : (s.engine e).slots.find? (fun y => y.tid == t.tid) = some t) (hh : s.shelfAt? t.shelf = some h)
include hc ht hh

theorem State.outputTileDrain_last (hchain : s.chainOf t = []) (hg : (s.engine e).groups.drop 1 = []) :
    s.outputTileDrain e = (s.drained e h t).tileDone e t := by
  simp only [State.outputTileDrain, hc, Option.bind_some, ht, hh, hchain, hg]
  rfl

theorem State.outputTileDrain_next {g : Nat} {gs : List Nat} (hchain : s.chainOf t = []) (hg : (s.engine e).groups.drop 1 = g :: gs) :
    s.outputTileDrain e = (s.drained e h t).fillTile e h t g := by
  simp only [State.outputTileDrain, hc, Option.bind_some, ht, hh, hchain, hg]
  rfl

theorem State.outputTileDrain_chain (hchain : s.chainOf t ≠ []) : s.outputTileDrain e = s.chainDrain e h t (s.chainOf t) := by
  simp only [State.outputTileDrain, hc, Option.bind_some, ht, hh]
  exact if_pos hchain

end

/-! ## A full output tile in a chain -/

/-- The rows whose sums the position before has handed on (R236). -/
def State.handedRows (s : State) (e : Nat) (t : Tile) : Option Nat :=
  match (s.engine e).recv with | some p => if p.1 = t.key then some p.2 else none | none => none

/-- A chain position has the sums of the one before it combined into its own (R236). -/
def State.combined (s : State) (e : Nat) (h : Shelf) (t : Tile) : State :=
  (s.bump swpBusyCc e (h.tileSteps t)).when (t.pos != 0) (fun u => u.chainCombine e t ((s.handedRows e t).getD 0))

/-- The tile of a chain position with the rows its sums stand for. -/
def State.combinedTile (s : State) (e : Nat) (h : Shelf) (t : Tile) : Tile :=
  (((s.combined e h t).engine e).slots.find? (fun y => y.tid == t.tid)).getD t

/-- The sums of a chain position go to the next one, and those of the last one to the coda (R209). -/
def State.handedOn (s : State) (e : Nat) (h : Shelf) (t : Tile) (next : Option Nat) : State :=
  match next with
  | some n => (s.combined e h t).chainPass e n (s.combinedTile e h t)
  | none => (s.combined e h t).drainGroup e h (s.combinedTile e h t) 0

/-- A position has the sums of the one before it, or is the first, and the next one's receive tile is free. -/
def State.mayHandOn (s : State) (e : Nat) (t : Tile) (next : Option Nat) : Prop :=
  (t.pos = 0 ∨ ∃ mask, (s.engine e).recv = some (t.key, mask)) ∧ ∀ n, next = some n → (s.engine n).recv = none

theorem State.chainDrain_of_may {s : State} {e : Nat} (h : Shelf) {t : Tile} {chain : List Nat} (hmay : s.mayHandOn e t chain[t.pos + 1]?) :
    s.chainDrain e h t chain = (s.handedOn e h t chain[t.pos + 1]?).tileDone e (s.combinedTile e h t) := by
  obtain ⟨hsums, hfree⟩ := hmay
  have hhas : (t.pos != 0 && s.handedRows e t == none) = false := by
    rcases hsums with h0 | ⟨mask, hrecv⟩
    · simp [h0]
    · simp [State.handedRows, hrecv]
  have hopen : (match chain[t.pos + 1]? with | some n => (s.engine n).recv.isSome | none => false) = false := by
    split
    · rw [hfree _ ‹_›]
      rfl
    · rfl
  exact if_neg (Bool.eq_false_iff.1 (Bool.or_eq_false_iff.2 ⟨hhas, hopen⟩))

theorem State.combinedTile_tid (s : State) (e : Nat) (h : Shelf) (t : Tile) : (s.combinedTile e h t).tid = t.tid := by
  unfold State.combinedTile
  cases hfind : ((s.combined e h t).engine e).slots.find? (fun y => y.tid == t.tid) with
  | none => rfl
  | some y => exact eq_of_beq (List.find?_some hfind :)

/-- The tiles an engine holds beside one. -/
def Engine.others (tid : Nat) (x : Engine) : List Tile := x.slots.filter (fun y => y.tid != tid)

/-- Combining narrows the rows of its own tile alone (R236). -/
theorem State.others_chainCombine (s : State) (e n : Nat) (t : Tile) (mask : Nat) :
    ((s.chainCombine e t mask).engine n).others t.tid = (s.engine n).others t.tid := by
  refine s.engine_engineMap_keeps e n (fun x => (Engine.setWords_keeps (π := Engine.others t.tid) (fun _ _ _ => rfl) _ _ _ _).trans ?_)
  exact filter_updAll_not (p := fun y : Tile => y.tid == t.tid) (f := fun y => { y with live := y.live &&& mask })
    (fun _ => rfl) (fun _ => rfl) x.slots

theorem State.others_combined (s : State) (e n : Nat) (h : Shelf) (t : Tile) :
    ((s.combined e h t).engine n).others t.tid = (s.engine n).others t.tid :=
  State.when_keeps (π := fun u => (u.engine n).others t.tid) _ _ (fun u => u.others_chainCombine e n t _)

theorem State.others_handedOn (s : State) (e n : Nat) (h : Shelf) (t : Tile) (next : Option Nat) :
    ((s.handedOn e h t next).engine n).others t.tid = (s.engine n).others t.tid := by
  refine Eq.trans ?_ (s.others_combined e n h t)
  cases next with
  | none => rw [State.handedOn, State.engine_drainGroup]
  | some m => exact State.engine_engineMap_keeps _ m n (fun x => Engine.setWords_keeps (π := Engine.others t.tid) (fun _ _ _ => rfl) _ _ _ _)

theorem State.beyondSweep_handedOn (s : State) (e : Nat) (h : Shelf) (t : Tile) (next : Option Nat) :
    (s.handedOn e h t next).beyondSweep = s.beyondSweep := by
  have hcombined : (s.combined e h t).beyondSweep = s.beyondSweep := State.when_keeps _ _ (fun _ => rfl)
  cases next with
  | none => exact (State.beyondSweep_drainGroup _ _ _ _ _).trans hcombined
  | some m => exact hcombined

theorem State.handedOn_length {s : State} (e : Nat) (h : Shelf) (t : Tile) (next : Option Nat) (hs : s.sound = true) :
    (s.handedOn e h t next).sweep.engines.length = 64 := by
  have hcombined : Follows s (s.combined e h t) := .when (.bump _ _ _ (.refl s)) fun _ h => .chainCombine h
  cases next with
  | none => exact hcombined.drainGroup.engines_length hs
  | some m => exact hcombined.chainPass.engines_length hs

/-- The next position's receive tile holds the sums handed on (R209). -/
theorem State.handedOn_recv {s : State} (e : Nat) (h : Shelf) (t : Tile) {n : Nat} (hs : s.sound = true) (hn : n < 64) :
    ((s.handedOn e h t (some n)).engine n).recv.isSome = true := by
  have hcombined : Follows s (s.combined e h t) := .when (.bump _ _ _ (.refl s)) fun _ h => .chainCombine h
  have hlen := hcombined.engines_length hs
  rw [State.handedOn, State.chainPass, State.engine_engineMap_same _ (by omega)]
  exact congrArg Option.isSome (Engine.setWords_keeps (π := Engine.recv) (fun _ _ _ => rfl) _ _ _ _)

/-! ## A pair taken by the coda -/

/-- A cluster coda. -/
def State.cluster (s : State) (c : Nat) : Cluster := s.sweep.clusters.getD c clusterNil

/-- The oldest pair of a cluster coda taken off its queue. -/
def State.pairTaken (s : State) (c : Nat) (rest : List Drained) : State := s.clusterMap c (fun k => { k with queue := rest })

/-- The lists of a cluster coda with an entry taken into its search's (R291). -/
def Cluster.takeEntry (o : Order) (n : Nat) (p : Drained) (k : Cluster) : List ClList :=
  ClList.take o n ((k.list? p.cid).getD ⟨p.cid, [], [], none⟩) p.ent :: k.lists.filter (fun y => y.cid != p.cid)

/-- A pair's value added to the reduction lane of its column (R309). -/
def Run.addPair (p : Drained) (r : Run) : Run := { r with lanes := updAt p.col (fun l => laneAdd l p.ent.score.dy) r.lanes }

/-- The entry of a pair in the list of its search, its boundary in the cut registers (R205, R291). -/
def State.entryTaken (s : State) (c : Nat) (rest : List Drained) (o : Order) (n : Nat) (p : Drained) : State :=
  ((s.pairTaken c rest).clusterMap c (fun k => { k with lists := k.takeEntry o n p })).writeCuts c p.cid

/-- The peaks of a cluster coda's lists and bands, counted. -/
def State.peaksCounted (s : State) (c : Nat) : State :=
  let bands := sumN ((s.cluster c).lists.map (fun l => l.band.length))
  let all := bands + sumN ((s.cluster c).lists.map (fun l => l.better.length))
  let s := s.bumpSet codaListPeakEntries c (max (s.tallied codaListPeakEntries c) all)
  s.bumpSet codaBandPeakEntries c (max (s.tallied codaBandPeakEntries c) bands)

theorem State.writeCuts_keeps {α : Type} {π : Cluster → α} (s : State) (c cid : Nat) (h : ∀ x l, π { x with cuts := l } = π x) :
    π ((s.writeCuts c cid).cluster c) = π (s.cluster c) := by
  unfold State.writeCuts
  split
  · rfl
  · exact getD_updAt_keeps c c _ _ (fun x => h x _)

section
variable {s : State} {c : Nat} {p : Drained} {rest : List Drained} {cm : Cmd} {r : Run} {h : Shelf} (hq : (s.cluster c).queue = p :: rest)
  (hc : (s.pairTaken c rest).cmd? p.cid = some cm) (hr : (s.pairTaken c rest).run? p.cid = some r)
  (hh : (s.pairTaken c rest).shelfAt? r.shelf = some h)
include hq hc hr hh

theorem State.drainPair_lane (hk : r.kind ≠ 0) : s.drainPair c = (s.pairTaken c rest).runMap p.cid (Run.addPair p) := by
  unfold State.cluster at hq
  unfold State.pairTaken at hc hr hh ⊢
  simp only [State.drainPair, hq, hc, hr, Option.bind_some, hh]
  exact if_pos hk

theorem State.drainPair_list (hk : r.kind = 0) : s.drainPair c =
    let u := s.entryTaken c rest h.sweepOrder cm.cand p
    (u.peaksCounted c).when (decide (57344 ≤ sumN ((u.cluster c).lists.map (fun l => l.band.length)))) (fun w => w.resolveLargest c) := by
  unfold State.cluster at hq
  unfold State.pairTaken at hc hr hh
  simp only [State.drainPair, hq, hc, hr, Option.bind_some, hh]
  exact if_neg (not_not.2 hk)

end

/-- The coda whose list took an entry has one pair less to take, and the entry in its lists. -/
theorem State.cluster_entryTaken {s : State} {c : Nat} (rest : List Drained) (o : Order) (n : Nat) (p : Drained)
    (hlen : c < s.sweep.clusters.length) :
    ((s.entryTaken c rest o n p).cluster c).queue = rest ∧ ((s.entryTaken c rest o n p).cluster c).lists = (s.cluster c).takeEntry o n p := by
  have htaken : (s.pairTaken c rest).cluster c = { s.cluster c with queue := rest } := getD_updAt_same _ _ hlen
  have hlisted : ((s.pairTaken c rest).clusterMap c (fun k => { k with lists := k.takeEntry o n p })).cluster c =
      { (s.pairTaken c rest).cluster c with lists := ((s.pairTaken c rest).cluster c).takeEntry o n p } :=
    getD_updAt_same _ _ (hlen.trans_eq (updAt_length _ _ _).symm)
  constructor
  · rw [State.entryTaken, State.writeCuts_keeps (π := Cluster.queue) _ _ _ (fun _ _ => rfl), hlisted, htaken]
  · rw [State.entryTaken, State.writeCuts_keeps (π := Cluster.lists) _ _ _ (fun _ _ => rfl), hlisted, htaken]
    rfl

theorem State.regs_entryTaken (s : State) (c : Nat) (rest : List Drained) (o : Order) (n : Nat) (p : Drained) :
    (s.entryTaken c rest o n p).regs = s.regs := by
  unfold State.entryTaken State.writeCuts
  split <;> rfl

/-! ## The commands -/

theorem exec_tileStart (e : Fin 64) (slot : Fin 2) (s : State) : exec (.tileStart e slot) s = .next (s.tileStart e.val slot.val) := rfl

theorem exec_outputTileDrain (e : Fin 64) (s : State) : exec (.outputTileDrain e) s = .next (s.outputTileDrain e.val) := rfl

theorem exec_drainPair (c : Fin 8) (s : State) : exec (.drainPair c) s = .next (s.drainPair c.val) := rfl

end Sys2Proof.Machine
end

section
/-!
PROOFS. TILE_START, OUTPUT_TILE_DRAIN and DRAIN_PAIR.
-/
namespace Sys2Proof.Claims
open Sys2Proof Sys2Proof.Machine

section
variable {s : State} (hsound : s.sound = true)
include hsound

section
variable {e : Fin 64} {x : Tile} {h : Shelf}

/-- A tile that is whole starts, and nothing but its engine and its sums changes (R202, R346). -/
theorem answers_tileStart {slot : Fin 2} (hp : s.clk.phase = .sweep) (hfree : (s.engine e.val).computing = none)
    (ht : (s.engine e.val).slots.find? (fun y => y.slot == slot.val) = some x) (hs : s.shelfAt? x.shelf = some h) (hw : x.waiting = [])
    (hb : s.bankReady e.val = true) :
    ∃ v : State, Answers (.tileStart e slot) s v ∧ (v.engine e.val).tiles = (some x.tid, x.runGroups, (s.engine e.val).slots) ∧
      v.beyondSweep = s.beyondSweep := by
  refine ⟨_, by rw [Answers, exec_tileStart, State.tileStart_of_ready hfree ht hs hw hb hp], ?_, ?_⟩
  · rw [State.tiles_fillTile, State.tiles_fillNorms, State.beginTile,
      State.engine_engineMap_same _ (e.isLt.trans_eq ((Follows.refl s).engines_length hsound).symm)]
    rfl
  · rw [State.beyondSweep_fillTile, State.beyondSweep_fillNorms]
    rfl

section
variable (hc : (s.engine e.val).computing = some x.tid) (ht : (s.engine e.val).slots.find? (fun y => y.tid == x.tid) = some x)
  (hs : s.shelfAt? x.shelf = some h)
include hc ht hs

/-- The drain of the last group of a tile frees its slot (R202). -/
theorem answers_outputTileDrain_last (hchain : s.chainOf x = []) (hg : (s.engine e.val).groups.drop 1 = []) :
    ∃ v : State, Answers (.outputTileDrain e) s v ∧
      (v.engine e.val).tiles = (none, [], (s.engine e.val).slots.filter (fun y => y.tid != x.tid)) ∧ v.beyondSweep.2 = s.beyondSweep.2 := by
  refine ⟨_, by rw [Answers, exec_outputTileDrain, State.outputTileDrain_last hc ht hs hchain hg], ?_, ?_⟩
  · rw [State.tiles_tileDone (State.drained_length _ _ _ hsound) e.isLt, State.engine_drained _ _ hsound e.isLt]
    rfl
  · rw [State.sent_tileDone, State.beyondSweep_drained]

/-- The drain of another group moves on to the next (R203). -/
theorem answers_outputTileDrain_next {g : Nat} {gs : List Nat} (hchain : s.chainOf x = []) (hg : (s.engine e.val).groups.drop 1 = g :: gs) :
    ∃ v : State, Answers (.outputTileDrain e) s v ∧
      (v.engine e.val).tiles = (some x.tid, (s.engine e.val).groups.drop 1, (s.engine e.val).slots) ∧ v.beyondSweep.2 = s.beyondSweep.2 := by
  refine ⟨_, by rw [Answers, exec_outputTileDrain, State.outputTileDrain_next hc ht hs hchain hg], ?_, ?_⟩
  · rw [State.tiles_fillTile, State.engine_drained _ _ hsound e.isLt, ← hc]
    rfl
  · rw [State.beyondSweep_fillTile, State.beyondSweep_drained]

/-- A chain position that may hand on is done with its tile, and the next one has its sums (R209, R236). -/
theorem answers_outputTileDrain_chain (hchain : s.chainOf x ≠ []) (hmay : s.mayHandOn e.val x (s.chainOf x)[x.pos + 1]?) :
    ∃ v : State, Answers (.outputTileDrain e) s v ∧
      (v.engine e.val).tiles = (none, [], (s.engine e.val).slots.filter (fun y => y.tid != x.tid)) ∧
      (∀ n < 64, (s.chainOf x)[x.pos + 1]? = some n → (v.engine n).recv.isSome = true) ∧ v.beyondSweep.2 = s.beyondSweep.2 := by
  have hlen := State.handedOn_length e.val h x (s.chainOf x)[x.pos + 1]? hsound
  refine ⟨_, by rw [Answers, exec_outputTileDrain, State.outputTileDrain_chain hc ht hs hchain, State.chainDrain_of_may h hmay],
    ?_, fun n hn hnext => ?_, ?_⟩
  · rw [State.tiles_tileDone hlen e.isLt, State.combinedTile_tid]
    exact congrArg (fun l => (none, [], l)) (s.others_handedOn e.val e.val h x _)
  · rw [State.engine_tileDone_keeps (π := Engine.recv) hlen hn (fun _ _ => rfl),
      State.engine_engineMap_keeps (π := Engine.recv) _ _ _ (f := Engine.free _) (fun _ => rfl), hnext]
    exact State.handedOn_recv e.val h x hsound hn
  · rw [State.sent_tileDone, State.beyondSweep_handedOn]

end
end

section
variable {c : Fin 8} {p : Drained} {rest : List Drained} {cm : Cmd} {r : Run} {h : Shelf} (hq : (s.cluster c.val).queue = p :: rest)
  (hc : s.cmd? p.cid = some cm) (hr : s.run? p.cid = some r) (hh : s.shelfAt? r.shelf = some h)
include hq hc hr hh

/-- A search's pair enters its list, and a band store that is full resolves its largest band (R291, R292). -/
theorem answers_drainPair_list (hk : r.kind = 0) :
    let lists := (s.cluster c.val).takeEntry h.sweepOrder cm.cand p
    ∃ w : State, (w.cluster c.val).queue = rest ∧ (w.cluster c.val).lists = lists ∧ w.regs = s.regs ∧
      Answers (.drainPair c) s (if 57344 ≤ sumN (lists.map (fun l => l.band.length)) then w.resolveLargest c.val else w) := by
  obtain ⟨-, -, hclusters, -⟩ := (State.sound_iff s).1 hsound
  obtain ⟨hqueue, hlists⟩ := State.cluster_entryTaken rest h.sweepOrder cm.cand p (c.isLt.trans_eq hclusters.symm)
  refine ⟨(s.entryTaken c.val rest h.sweepOrder cm.cand p).peaksCounted c.val, hqueue, hlists, s.regs_entryTaken _ _ _ _ _, ?_⟩
  rw [Answers, exec_drainPair, State.drainPair_list hq hc hr hh hk]
  simp [State.when, hlists]

/-- A pair of STATS or a projection enters the lane of its column (R309). -/
theorem answers_drainPair_lane (hk : r.kind ≠ 0) :
    ∃ v : State, Answers (.drainPair c) s v ∧ (v.cluster c.val).queue = rest ∧
      v.run? p.cid = some { r with lanes := updAt p.col (fun l => laneAdd l p.ent.score.dy) r.lanes } ∧ v.regs = s.regs := by
  obtain ⟨-, -, hclusters, -⟩ := (State.sound_iff s).1 hsound
  refine ⟨(s.pairTaken c.val rest).runMap p.cid (Run.addPair p),
    by rw [Answers, exec_drainPair, State.drainPair_lane hq hc hr hh hk], ?_, ?_, rfl⟩
  · exact congrArg Cluster.queue (getD_updAt_same _ _ (c.isLt.trans_eq hclusters.symm))
  · exact (State.run?_runMap _ _ (f := Run.addPair p) (fun _ => rfl)).trans (congrArg (Option.map (Run.addPair p)) hr)

end
end

/-- Settles O45: a tile's start, the drains of its groups in pass and in chain mode, and the pair the coda takes, each by its own lemma. -/
theorem enginesComputeTiles : Obligations.EnginesComputeTiles := by
  intro s hsound
  refine ⟨fun e slot x h hp hfree ht hs hw hb => ?_, fun e x h hc ht hs => ⟨fun hchain => ?_, fun hchain hsums hnext => ?_⟩,
    fun c p rest cm r h => fun hq hc hr hh => ⟨fun hk => ?_, fun hk => ?_⟩⟩
  · obtain ⟨v, hv, htiles, hkept⟩ := answers_tileStart hsound hp hfree ht hs hw hb
    obtain ⟨hcomputing, hgroups, hslots⟩ := Engine.tiles_eq_iff.1 htiles
    obtain ⟨hregs, hout, -⟩ := State.beyondSweep_eq_iff.1 hkept
    exact ⟨v, hv, hcomputing, hgroups, hslots, hregs, hout⟩
  · cases hg : (s.engine e.val).groups.drop 1 with
    | nil =>
      have hfew : (s.engine e.val).groups.length ≤ 1 := List.drop_eq_nil_iff.1 hg
      obtain ⟨v, hv, htiles, hkept⟩ := answers_outputTileDrain_last hsound hc ht hs hchain hg
      obtain ⟨hcomputing, -, hslots⟩ := Engine.tiles_eq_iff.1 htiles
      obtain ⟨hout, hstore⟩ := State.sent_eq_iff.1 hkept
      exact ⟨v, hv, hout, hstore, fun _ => ⟨hcomputing, hslots⟩, fun hmany => absurd hfew (Nat.not_le.2 hmany)⟩
    | cons g gs =>
      have hmany : ¬(s.engine e.val).groups.length ≤ 1 := fun hfew => List.cons_ne_nil g gs (hg.symm.trans (List.drop_eq_nil_iff.2 hfew))
      obtain ⟨v, hv, htiles, hkept⟩ := answers_outputTileDrain_next hsound hc ht hs hchain hg
      obtain ⟨hcomputing, hgroups, -⟩ := Engine.tiles_eq_iff.1 htiles
      obtain ⟨hout, hstore⟩ := State.sent_eq_iff.1 hkept
      exact ⟨v, hv, hout, hstore, fun hfew => absurd hfew hmany, fun _ => ⟨hcomputing, hgroups.trans hg⟩⟩
  · obtain ⟨v, hv, htiles, hrecv, hkept⟩ := answers_outputTileDrain_chain hsound hc ht hs hchain ⟨hsums, hnext⟩
    obtain ⟨hcomputing, -, hslots⟩ := Engine.tiles_eq_iff.1 htiles
    obtain ⟨hout, hstore⟩ := State.sent_eq_iff.1 hkept
    exact ⟨v, hv, hcomputing, hslots, hrecv, hout, hstore⟩
  · exact answers_drainPair_list hsound hq hc hr hh hk
  · exact answers_drainPair_lane hsound hq hc hr hh hk

end Sys2Proof.Claims
end

section
/-!
LAWS. An engine's reset and its fault (R88, R216, R217), and the protection point (R81, R83): what the groups that move to other engines leave as
it was, and the registers these events write.
-/
namespace Sys2Proof.Machine

/-! ## Takers -/

/-- No engine takes its own groups over (R217). -/
theorem State.taker_ne (s : State) (e : Nat) (c : Copy) (units : Nat) (code : Bool) (before : List Moved) :
    s.taker e c units code before ≠ some e := by
  intro h
  have htaken := List.find?_some h
  simp at htaken

theorem State.dest_ne_of_mem_moves (s : State) (e : Nat) : ∀ m ∈ s.moves e, m.dest ≠ some e := by
  refine List.foldlRecOn (motive := fun ms : List Moved => ∀ m ∈ ms, m.dest ≠ some e) _ _
    (fun _ hm => absurd hm List.not_mem_nil) (fun ms hms p _ => ?_)
  split
  · exact hms
  · intro m hm
    rcases List.mem_append.1 hm with hm | hm
    · exact hms m hm
    · obtain rfl := List.mem_singleton.1 hm
      exact s.taker_ne e _ _ _ _

/-! ## Groups moved to their takers -/

/-- The storage of engine `e` cleared (R216), κ 1.0 again (R783). -/
def State.engineErased (s : State) (e : Nat) : State :=
  (s.engineMap e (fun y => { engineReset with thermal := y.thermal, inErst := true })).clkMap (fun k => { k with kappa := 256 })

/-- The registers of engine `e` at reset. -/
def State.engineRegsReset (s : State) (e : Nat) : State :=
  ((s.wr swpBusyCc e 0).wr swpTilesCount e 0).each (List.range 8) (fun s i => s.wr swpStallCauseCc (8 * e + i) 0)

/-- The counts of engine `e` begin anew. -/
def State.engineCountsReset (s : State) (e : Nat) : State :=
  ((s.bumpSet swpBusyCc e 0).bumpSet swpTilesCount e 0).each (List.range 8) (fun s i => s.bumpSet swpStallCauseCc (8 * e + i) 0)

/-- Engine `e` and what the chip holds for it cleared, its table-cache references too (R216, R351). -/
def State.engineCleared (s : State) (e : Nat) : State :=
  (((s.engineErased e).engineRegsReset e).engineCountsReset e).sweepMap
    (fun w => { w with tfill := w.tfill.map (fun f => { f with refs := f.refs.filter (fun r => r != e) }) })

/-- The queries of a group that found no room are degraded (R217). -/
def State.degradeMoved (old : List Copy) (s : State) (m : Moved) : State :=
  match m.dest, old[m.copy]? with
  | none, some c => s.runsMap (fun r => if c.proj ≠ 0 then r.cid == c.proj else r.inGroup c.shelf m.group) (fun r => { r with degraded := true })
  | _, _ => s

/-- The groups of engine `e` at their takers, and the tiles `held` of it re-issued (R217). -/
def State.groupsMoved (s : State) (e : Nat) (held : List Tile) (ms : List Moved) : State :=
  let old := s.sweep.plan.copies
  let s := s.sweepMap (fun w => { w with plan := { w.plan with copies := moveCopies e ms w.plan.copies } })
  let s := s.when (s.clk.phase == .sweep) (fun s => s.each ms State.loadMoved)
  let s := s.each ms (State.degradeMoved old)
  let s := s.when (ms.any (fun m => m.dest == none)) (fun s => s.ev swpEventReissueShort)
  let back := reissueTiles held ms s.sweep.nextTid
  s.sweepMap (fun w => { w with
    nextTid := w.nextTid + back.length, reissued := w.reissued || !back.isEmpty
    queues := ((List.range 32).zip w.queues).map (fun q => { q.2 with todo := back.filter (fun t => t.queue == q.1) ++ q.2.todo }) })

/-- An engine's reset either only clears it, or moves its groups too, which the host is told of. -/
theorem State.erstEngine_cases (s : State) (e : Nat) :
    s.erstEngine e = s.engineCleared e ∨
    ∃ held, s.erstEngine e = (((s.engineCleared e).ev swpEventEngineFault).groupsMoved e held ((s.engineCleared e).moves e)).restEngines := by
  by_cases h : (s.engineCleared e).clk.phase ≠ .sweep ∧ (s.engineCleared e).clk.phase ≠ .admission ∨ (s.engineCleared e).moves e = []
  · exact .inl (if_pos h)
  · exact .inr ⟨_, if_neg h⟩

section
variable {α : Type} {π : State → α} {e : Nat}
  (hother : ∀ (u : State) (f : Sweep → Sweep), (∀ w, (f w).engines = w.engines) → π (u.sweepMap f) = π u)
  (hissue : ∀ (u : State) (sq granule : Nat) (c : Client), π (u.issue sq granule false false c) = π u)
include hother hissue

theorem State.issueFill_keeps (s : State) (k : Nat) : π (s.issueFill k) = π s := by
  unfold State.issueFill
  split
  · rfl
  · exact (State.each_keeps _ _ (fun u g => hissue u _ g _)).trans (hother s _ (fun _ => rfl))

variable (hengine : ∀ (u : State) (x : Nat) (f : Engine → Engine), x ≠ e → π (u.engineMap x f) = π u)
include hengine

/-- Tables taken from the table cache change the taker, the fills and the reads under way (R351). -/
theorem State.takeTables_keeps (s : State) (shelf g : Nat) {x : Nat} (hx : x ≠ e) : π (s.takeTables shelf g x) = π s := by
  unfold State.takeTables
  split
  · rfl
  · refine (State.each_keeps _ _ (fun u k => State.issueFill_keeps hother hissue u k)).trans ?_
    refine (hother _ _ ?_).trans (hengine s x _ hx)
    exact fun _ => rfl

/-- A group loaded at its taker changes no other engine. -/
theorem State.loadMoved_keeps (s : State) {m : Moved} (hm : m.dest ≠ some e) : π (s.loadMoved m) = π s := by
  unfold State.loadMoved
  split
  case h_2 => rfl
  case h_1 x c hx _ =>
    have hne : x ≠ e := fun h => hm (hx.trans (congrArg some h))
    have hloaded : ∀ pos, π (s.loadGroup c x pos m.group) = π s := fun pos => by
      unfold State.loadGroup
      split
      · rfl
      · exact hengine s x _ hne
    have hcuts : ∀ (u : State) i, π (u.writeCuts (x / 8) i) = π u := fun u i => by
      unfold State.writeCuts
      split
      · rfl
      · exact hother u _ (fun _ => rfl)
    exact (State.when_keeps _ _ (fun u => State.takeTables_keeps hother hissue hengine u _ _ hne)).trans
      ((State.each_keeps _ _ hcuts).trans ((hengine _ x _ hne).trans (hloaded _)))

/-- Groups moved off engine `e` leave it as it is. -/
theorem State.groupsMoved_keeps (hev : ∀ u : State, π (u.ev swpEventReissueShort) = π u) (s : State) (held : List Tile) {ms : List Moved}
    (hms : ∀ m ∈ ms, m.dest ≠ some e) : π (s.groupsMoved e held ms) = π s := by
  have hloaded : ∀ u : State, π (u.each ms State.loadMoved) = π u := fun u =>
    List.foldlRecOn (motive := fun v => π v = π u) ms _ rfl
      (fun v hv m hm => (State.loadMoved_keeps hother hissue hengine v (hms m hm)).trans hv)
  have hdegraded : ∀ (old : List Copy) (u : State), π (u.each ms (State.degradeMoved old)) = π u := fun old u =>
    State.each_keeps _ u (fun v m => by
      unfold State.degradeMoved
      split
      · exact hother v _ (fun _ => rfl)
      · rfl)
  unfold State.groupsMoved
  refine (hother _ _ ?_).trans ((State.when_keeps _ _ hev).trans ((hdegraded _ _).trans ((State.when_keeps _ _ hloaded).trans (hother s _ ?_))))
  · exact fun _ => rfl
  · exact fun _ => rfl

end

/-! ## The reset of an engine -/

/-- What was sent, the host side, the store and the clock. -/
def State.aside (s : State) : List Out × HostSt × Store × Clock := (s.out, s.host, s.store, s.clk)

theorem State.aside_eq_iff {v : State} {o : List Out} {h : HostSt} {t : Store} {k : Clock} :
    v.aside = (o, h, t, k) ↔ v.out = o ∧ v.host = h ∧ v.store = t ∧ v.clk = k := by simp [State.aside]

theorem State.aside_issue (s : State) (sq granule : Nat) (c : Client) : (s.issue sq granule false false c).aside = s.aside :=
  (congrArg State.aside (s.besideReads_issue sq granule false false c) :)

theorem State.rd_issue (s : State) (sq granule : Nat) (c : Client) (g : Fld) (j : Nat) :
    (s.issue sq granule false false c).rd g j = s.rd g j :=
  (congrArg (fun u : State => u.rd g j) (s.besideReads_issue sq granule false false c) :)

theorem State.engine_issue (s : State) (sq granule : Nat) (c : Client) (n : Nat) : (s.issue sq granule false false c).engine n = s.engine n :=
  (congrArg (fun u : State => u.engine n) (s.besideReads_issue sq granule false false c) :)

theorem State.engine_sweepMap {s : State} {f : Sweep → Sweep} (h : ∀ w, (f w).engines = w.engines) (n : Nat) :
    (s.sweepMap f).engine n = s.engine n :=
  congrArg (fun l : List Engine => l.getD n { engineReset with tacet := true }) (h s.sweep)

theorem State.engine_engineMap_other (s : State) {x n : Nat} (f : Engine → Engine) (h : x ≠ n) : (s.engineMap x f).engine n = s.engine n := by
  unfold State.engine
  rw [List.getD_eq_getElem?_getD, List.getD_eq_getElem?_getD]
  exact congrArg (fun o : Option Engine => o.getD _) (getElem?_updAt_other f _ (Ne.symm h))

section
variable {α : Type} {π : State → α} {e : Nat}

/-- Beside the storage and the registers, clearing an engine changes its counts and the references of fills. -/
theorem State.engineCleared_keeps (hother : ∀ (u : State) (f : Sweep → Sweep), (∀ w, (f w).engines = w.engines) → π (u.sweepMap f) = π u)
    (hcount : ∀ (u : State) f i v, π (u.bumpSet f i v) = π u) (hstall : ∀ (u : State) i, π (u.wr swpStallCauseCc (8 * e + i) 0) = π u)
    (s : State) : π (s.engineCleared e) = π (((s.engineErased e).wr swpBusyCc e 0).wr swpTilesCount e 0) := by
  have hcounts : ∀ u : State, π (u.engineCountsReset e) = π u := fun u =>
    (State.each_keeps _ _ (fun v _ => hcount v _ _ _)).trans ((hcount _ _ _ _).trans (hcount u _ _ _))
  refine (hother _ _ ?_).trans ((hcounts _).trans (State.each_keeps _ _ (fun v i => hstall v i)))
  exact fun _ => rfl

/-- Beside what the clearing changes, an engine's reset changes the takers, the sweep, the reads under way, and two events. -/
theorem State.erstEngine_keeps (hother : ∀ (u : State) (f : Sweep → Sweep), (∀ w, (f w).engines = w.engines) → π (u.sweepMap f) = π u)
    (hissue : ∀ (u : State) (sq granule : Nat) (c : Client), π (u.issue sq granule false false c) = π u)
    (hengine : ∀ (u : State) (x : Nat) (f : Engine → Engine), x ≠ e → π (u.engineMap x f) = π u)
    (hfault : ∀ u : State, π (u.ev swpEventEngineFault) = π u) (hshort : ∀ u : State, π (u.ev swpEventReissueShort) = π u) (s : State)
    (hrest : ∀ u : State, u.sweep.engines.length = s.sweep.engines.length → π u.restEngines = π u) :
    π (s.erstEngine e) = π (s.engineCleared e) := by
  rcases s.erstEngine_cases e with h | ⟨held, h⟩
  · rw [h]
  · have hdest := (s.engineCleared e).dest_ne_of_mem_moves e
    have hmoved : (((s.engineCleared e).ev swpEventEngineFault).groupsMoved e held ((s.engineCleared e).moves e)).sweep.engines.length =
        (s.engineCleared e).sweep.engines.length :=
      State.groupsMoved_keeps (π := fun u => u.sweep.engines.length) (fun u _ h => congrArg List.length (h u.sweep))
        (fun u sq g c => (congrArg (fun u : State => u.sweep.engines.length) (u.besideReads_issue sq g false false c) :))
        (fun _ _ _ _ => updAt_length _ _ _) (fun _ => rfl) _ held hdest
    have hcleared : (s.engineCleared e).sweep.engines.length = s.sweep.engines.length :=
      (State.engineCleared_keeps (π := fun u => u.sweep.engines.length) (fun u _ h => congrArg List.length (h u.sweep))
        (fun _ _ _ _ => rfl) (fun _ _ => rfl) s).trans (updAt_length _ _ _)
    rw [h, hrest _ (hmoved.trans hcleared), State.groupsMoved_keeps hother hissue hengine hshort _ held hdest, hfault]

end

/-- What a reset leaves an engine. -/
def Engine.erased (x : Engine) : Prop :=
  x.slots = [] ∧ x.computing = none ∧ x.bank = [] ∧ x.acc = [] ∧ x.inErst = true

theorem State.engine_engineCleared {s : State} (hs : s.sound = true) (e : Fin 64) :
    (s.engineCleared e.val).engine e.val = { engineReset with thermal := (s.engine e.val).thermal, inErst := true } :=
  (State.engineCleared_keeps (π := fun u => u.engine e.val) (fun _ _ h => State.engine_sweepMap h _) (fun _ _ _ _ => rfl) (fun _ _ => rfl)
    s).trans (State.engine_engineMap_same _ (e.isLt.trans_eq ((Follows.refl s).engines_length hs).symm))

theorem State.erased_erstEngine {s : State} (hs : s.sound = true) (e : Fin 64) : ((s.erstEngine e.val).engine e.val).erased := by
  have hlen := (Follows.refl s).engines_length hs
  have hkept : ((s.erstEngine e.val).engine e.val).erased = ((s.engineCleared e.val).engine e.val).erased :=
    State.erstEngine_keeps (π := fun u => (u.engine e.val).erased) (fun _ _ h => congrArg Engine.erased (State.engine_sweepMap h _))
      (fun u sq g c => congrArg Engine.erased (u.engine_issue sq g c _))
      (fun u _ _ h => congrArg Engine.erased (u.engine_engineMap_other _ h)) (fun _ => rfl) (fun _ => rfl) s
      (fun u hu => State.engine_restEngines_keeps (π := Engine.erased) (hu.trans hlen) e.isLt (fun _ _ => rfl))
  rw [hkept, State.engine_engineCleared hs]
  exact ⟨rfl, rfl, rfl, rfl, rfl⟩

/-- An engine's reset sends nothing and leaves the host side and the store; of the clock it sets κ to 1.0 (R783). -/
theorem State.aside_erstEngine (s : State) (e : Nat) : (s.erstEngine e).aside = (s.out, s.host, s.store, { s.clk with kappa := 256 }) :=
  (State.erstEngine_keeps (π := State.aside) (fun _ _ _ => rfl) State.aside_issue (fun _ _ _ _ => rfl) (fun _ => rfl) (fun _ => rfl) s
    (fun _ _ => rfl)).trans (State.engineCleared_keeps (π := State.aside) (fun _ _ _ => rfl) (fun _ _ _ _ => rfl) (fun _ _ => rfl) s)

/-! ## The registers an engine's reset writes -/

theorem State.rd_engineCleared (s : State) (e : Nat) {g : Fld} {j : Nat} (hstall : ∀ i, regKey g 0 j ≠ regKey swpStallCauseCc 0 (8 * e + i)) :
    (s.engineCleared e).rd g j = ((s.wr swpBusyCc e 0).wr swpTilesCount e 0).rd g j :=
  State.engineCleared_keeps (π := fun u => u.rd g j) (fun _ _ _ => rfl) (fun _ _ _ _ => rfl)
    (fun u i => u.rd_wr_other _ _ _ _ _ (hstall i)) s

theorem State.rd_erstEngine (s : State) (e : Nat) {g : Fld} {j : Nat} (hfault : regKey g 0 j ≠ regKey swpEventEngineFault 0 0)
    (hshort : regKey g 0 j ≠ regKey swpEventReissueShort 0 0) : (s.erstEngine e).rd g j = (s.engineCleared e).rd g j :=
  State.erstEngine_keeps (π := fun u => u.rd g j) (fun _ _ _ => rfl) (fun u sq c d => u.rd_issue sq c d g j) (fun _ _ _ _ => rfl)
    (fun u => u.rd_wr_other _ _ _ _ _ hfault) (fun u => u.rd_wr_other _ _ _ _ _ hshort) s (fun _ _ => rfl)

theorem regKey_swpBusyCc (i : Nat) : regKey swpBusyCc 0 i = (0x3200 + 4 * i) * 32 := by simp [regKey, swpBusyCc]
theorem regKey_swpTilesCount (i : Nat) : regKey swpTilesCount 0 i = (0x3300 + 4 * i) * 32 := by simp [regKey, swpTilesCount]
theorem regKey_swpStallCauseCc (i : Nat) : regKey swpStallCauseCc 0 i = (0x5000 + 4 * i) * 32 := by simp [regKey, swpStallCauseCc]
theorem regKey_swpEventEngineFault : regKey swpEventEngineFault 0 0 = 0x3018 * 32 := rfl
theorem regKey_swpEventReissueShort : regKey swpEventReissueShort 0 0 = 0x3018 * 32 + 2 := rfl

/-- The registers of a sound state are in their canonical form. -/
theorem State.regs_sorted {s : State} (h : s.sound = true) : regSorted s.regs = true := ((State.sound_iff s).1 h).1.1

theorem State.rd_erstEngine_busy {s : State} (hs : s.sound = true) (e : Fin 64) : (s.erstEngine e.val).rd swpBusyCc e.val = 0 := by
  rw [State.rd_erstEngine, State.rd_engineCleared, State.rd_wr_other, State.rd_wr_same _ _ _ _ (State.regs_sorted hs)]
  · rfl
  · rw [regKey_swpBusyCc, regKey_swpTilesCount]
    omega
  · intro i
    rw [regKey_swpBusyCc, regKey_swpStallCauseCc]
    omega
  · rw [regKey_swpBusyCc, regKey_swpEventEngineFault]
    omega
  · rw [regKey_swpBusyCc, regKey_swpEventReissueShort]
    omega

theorem State.rd_erstEngine_tiles {s : State} (hs : s.sound = true) (e : Fin 64) : (s.erstEngine e.val).rd swpTilesCount e.val = 0 := by
  have hsorted := State.regs_sorted (((Follows.refl s).wr swpBusyCc e.val 0).sound hs)
  rw [State.rd_erstEngine, State.rd_engineCleared, State.rd_wr_same _ _ _ _ hsorted]
  · rfl
  · intro i
    rw [regKey_swpTilesCount, regKey_swpStallCauseCc]
    omega
  · rw [regKey_swpTilesCount, regKey_swpEventEngineFault]
    omega
  · rw [regKey_swpTilesCount, regKey_swpEventReissueShort]
    omega

/-- A register outside the word arrays is as it was when an engine is cleared. -/
theorem State.rd_engineCleared_kept (s : State) (e : Fin 64) {g : Fld} {j : Nat}
    (h : regKey g 0 j < 0x3200 * 32 ∨ regKey g 0 j % 32 ≠ 0) : (s.engineCleared e.val).rd g j = s.rd g j := by
  rw [State.rd_engineCleared, State.rd_wr_other, State.rd_wr_other]
  · rw [regKey_swpBusyCc]
    omega
  · rw [regKey_swpTilesCount]
    omega
  · intro i
    rw [regKey_swpStallCauseCc]
    omega

/-- An engine's reset leaves the role in the weave. -/
theorem State.inWeave_erstEngine (s : State) (e : Fin 64) : (s.erstEngine e.val).inWeave = s.inWeave := by
  rw [State.inWeave, State.inWeave, State.rd_erstEngine _ _ (by decide) (by decide), State.rd_engineCleared_kept _ _ (.inr (by decide))]

theorem State.restEngines_clk (s : State) : s.restEngines.clk = s.clk := rfl

theorem State.restEngines_regs (s : State) : s.restEngines.regs = s.regs := rfl

theorem State.sound_engineCleared {s : State} (hs : s.sound = true) (e : Nat) : (s.engineCleared e).sound = true := by
  have herased : Follows s (s.engineErased e) := (Follows.refl s).engineMap.clkMap (fun _ => Nat.le_refl _)
  have hregs : Follows s ((s.engineErased e).engineRegsReset e) := ((herased.wr _ _ _).wr _ _ _).each (fun _ _ h => h.wr _ _ _)
  have hcounts : Follows s (((s.engineErased e).engineRegsReset e).engineCountsReset e) :=
    ((hregs.bumpSet _ _ _).bumpSet _ _ _).each (fun _ _ h => h.bumpSet _ _ _)
  exact (hcounts.sweepMap (fun _ => ⟨rfl, rfl, rfl⟩)).sound hs

/-- The event of an engine's fault stands through its reset. -/
theorem State.rd_erstEngine_fault {s : State} (hs : s.sound = true) (e : Fin 64) (h : s.rd swpEventEngineFault = 1) :
    (s.erstEngine e.val).rd swpEventEngineFault = 1 := by
  rcases s.erstEngine_cases e.val with herst | ⟨held, herst⟩
  · rw [herst, State.rd_engineCleared_kept _ _ (.inl (by decide)), h]
  · have hkept : ∀ u : State, (u.ev swpEventReissueShort).rd swpEventEngineFault = u.rd swpEventEngineFault :=
      fun u => u.rd_wr_other _ _ _ _ _ (by decide)
    have hmoved := State.groupsMoved_keeps (π := fun u => u.rd swpEventEngineFault) (fun _ _ _ => rfl)
      (fun u sq g c => u.rd_issue sq g c swpEventEngineFault 0) (fun _ _ _ _ => rfl) hkept ((s.engineCleared e.val).ev swpEventEngineFault) held
      ((s.engineCleared e.val).dest_ne_of_mem_moves e.val)
    rw [herst, State.rd_of_regs _ _ _ _ (State.restEngines_regs _), hmoved, State.ev,
      State.rd_wr_same _ _ _ _ (State.regs_sorted (State.sound_engineCleared hs e.val))]
    rfl

/-! ## The fault of an engine -/

theorem State.besidePosts_engineFaulted (s : State) (e : Nat) : (s.engineFaulted e).besidePosts = s.besidePosts := by
  unfold State.engineFaulted
  dsimp only
  split
  · split <;> simp
  · simp

theorem State.rd_engineFaulted (s : State) (e : Nat) : (s.engineFaulted e).rd swpEventEngineFault = s.rd swpEventEngineFault := by
  unfold State.engineFaulted
  dsimp only
  split
  · rw [State.rd_of_belowErrors (State.belowErrors_logError ..) _ _ (by decide)]
    split
    all_goals
      rw [State.rd_of_belowErrors (State.belowErrors_wr _ _ _ _ (by decide)) _ _ (by decide), State.rd_wr_other _ _ _ _ _ _ (by decide),
        State.rd_of_belowErrors (State.belowErrors_alertOn _) _ _ (by decide)]
      rfl
  · rw [State.rd_of_belowErrors (State.belowErrors_alertOn _) _ _ (by decide)]
    rfl

/-- An engine's fault reported and counted (R88, R634), before its reset. -/
def State.engineReported (s : State) (e cause : Nat) : State :=
  ((s.logError 3 1 e (if cause = 0 then 17 else 16) cause).ev swpEventEngineFault).engineFaulted e

theorem State.engineFault_of_live {s : State} (h : s.live = true) (e cause : Nat) :
    s.engineFault e cause = (s.engineReported e cause).erstEngine e := by
  rw [State.engineFault, if_neg (by simp [h])]
  rfl

theorem State.sound_engineReported {s : State} (hs : s.sound = true) (e cause : Nat) : (s.engineReported e cause).sound = true :=
  (Follows.refl s).logError.ev swpEventEngineFault 0 |>.engineFaulted.sound hs

theorem State.store_engineReported (s : State) (e cause : Nat) : (s.engineReported e cause).store = s.store :=
  State.store_of_besidePosts (by rw [State.engineReported, State.besidePosts_engineFaulted, State.besidePosts_ev, State.besidePosts_logError])

theorem State.rd_engineReported {s : State} (hs : s.sound = true) (e cause : Nat) : (s.engineReported e cause).rd swpEventEngineFault = 1 := by
  have hsorted := State.regs_sorted (((Follows.refl s).logError (cls := 3) (kind := 1) (unit := e)
    (code := if cause = 0 then 17 else 16) (detail := cause)).sound hs)
  rw [State.engineReported, State.rd_engineFaulted, State.ev, State.rd_wr_same _ _ _ _ hsorted]
  rfl

/-! ## The protection point -/

/-- The tiles not dealt or still in a tile queue. -/
def State.tilesLeft (s : State) : List Tile := s.sweep.work ++ s.sweep.queues.flatMap (fun q => q.todo)

/-- A sweep that has stopped: nothing is left to deal, and every tile queue is at its end (R81, R342). -/
def Sweep.stop (w : Sweep) : Sweep :=
  { w with stopped := true, bandCut := true, work := [], queues := w.queues.map (fun q => { q with todo := [], endMark := true }) }

/-- The protection point of a sweep that is not drained, before engines without tiles go to Tacet. -/
def State.stopSweep (s : State) : State :=
  let u := ((s.loseTiles s.tilesLeft).loseTiles s.reissuedHeld).sweepMap Sweep.stop
  (u.when ((s.tilesLeft ++ s.reissuedHeld).any (fun t => t.reissue)) (fun u => u.ev swpEventReissueShort)).when (!s.tilesLeft.isEmpty)
    (fun u => u.ev strmEventStopPoint)

section
variable {s : State} (hp : s.clk.phase = .sweep) (hc : s.sweep.codaDone = false)
include hp hc

theorem State.protectionPoint_of_drained (hd : s.sweepDrained = true) :
    s.protectionPoint = s.sweepMap (fun w => { w with bandCut := true }) := by
  simp [State.protectionPoint, hp, hc, hd]

theorem State.protectionPoint_of_undrained (hd : s.sweepDrained = false) : s.protectionPoint = s.stopSweep.restEngines := by
  unfold State.protectionPoint
  rw [if_neg (by simp [hp, hc]), if_neg (by simp [hd])]
  rfl

end

theorem State.advance_phase {s : State} (h : s.clk.phase ≠ .rerank) (t : Nat) : (s.advance t).clk.phase = s.clk.phase := by
  rw [State.advance_of_not_rerank h]
  rfl

theorem State.sweepDrained_of_sweep {s u : State} (h : u.sweep = s.sweep) : u.sweepDrained = s.sweepDrained := by
  rw [State.sweepDrained, State.sweepDrained, h]

theorem State.codaDone_of_sweep {s u : State} (h : u.sweep = s.sweep) : u.sweep.codaDone = s.sweep.codaDone := by rw [h]

theorem State.inWeave_sweepMap (s : State) (f : Sweep → Sweep) : (s.sweepMap f).inWeave = s.inWeave := rfl

theorem State.inWeave_restEngines (s : State) : s.restEngines.inWeave = s.inWeave := rfl

theorem State.stopSweep_sweep (s : State) : ∃ w : Sweep, s.stopSweep.sweep = w.stop := by
  refine ⟨((s.loseTiles s.tilesLeft).loseTiles s.reissuedHeld).sweep, ?_⟩
  unfold State.stopSweep
  refine (State.when_keeps (π := State.sweep) _ _ ?_).trans ((State.when_keeps (π := State.sweep) _ _ ?_).trans rfl)
  · exact fun _ => rfl
  · exact fun _ => rfl

theorem State.stopSweep_stopped (s : State) :
    s.stopSweep.restEngines.sweep.stopped = true ∧ s.stopSweep.restEngines.sweep.work = [] ∧
      ∀ q ∈ s.stopSweep.restEngines.sweep.queues, q.todo = [] ∧ q.endMark = true := by
  obtain ⟨w, h⟩ := s.stopSweep_sweep
  refine ⟨congrArg Sweep.stopped h, congrArg Sweep.work h, fun q hq => ?_⟩
  have hend : q ∈ w.stop.queues := congrArg Sweep.queues h ▸ hq
  obtain ⟨y, -, rfl⟩ := List.mem_map.1 hend
  exact ⟨rfl, rfl⟩

/-- Beside the sweep and two events, the protection point changes nothing. -/
theorem State.stopSweep_keeps {α : Type} {π : State → α} (hsweep : ∀ (u : State) f, π (u.sweepMap f) = π u)
    (hshort : ∀ u : State, π (u.ev swpEventReissueShort) = π u) (hstop : ∀ u : State, π (u.ev strmEventStopPoint) = π u) (s : State) :
    π s.stopSweep = π s := by
  have hlost : ∀ (u : State) ts, π (u.loseTiles ts) = π u := fun u ts => State.each_keeps _ u (fun v _ => hsweep v _)
  exact (State.when_keeps _ _ hstop).trans ((State.when_keeps _ _ hshort).trans ((hsweep _ _).trans ((hlost _ _).trans (hlost s _))))

theorem State.stopSweep_clk (s : State) : s.stopSweep.clk = s.clk :=
  State.stopSweep_keeps (π := State.clk) (fun _ _ => rfl) (fun _ => rfl) (fun _ => rfl) s

theorem State.stopSweep_inWeave (s : State) : s.stopSweep.inWeave = s.inWeave :=
  congrArg (fun n => n != 0) (State.stopSweep_keeps (π := fun u => u.rd wvSelfRole) (fun _ _ => rfl)
    (fun u => u.rd_wr_other _ _ _ _ _ (by decide)) (fun u => u.rd_wr_other _ _ _ _ _ (by decide)) s)

/-- Tiles left at the protection point are told to the host (R81). -/
theorem State.rd_stopSweep {s : State} (hs : s.sound = true) (hleft : s.tilesLeft ≠ []) : s.stopSweep.rd strmEventStopPoint = 1 := by
  have hlost : Follows s (((s.loseTiles s.tilesLeft).loseTiles s.reissuedHeld).sweepMap Sweep.stop) :=
    (Follows.refl s).loseTiles.loseTiles.sweepMap (fun _ => ⟨rfl, rfl, List.length_map _⟩)
  have htold : (!s.tilesLeft.isEmpty) = true := by simpa using hleft
  rw [State.stopSweep, htold, State.when_true, State.ev,
    State.rd_wr_same _ _ _ _ (State.regs_sorted ((hlost.when (fun _ h => h.ev _ _)).sound hs))]
  rfl

/-! ## The commands -/

theorem State.weaveRun_of_alone {s : State} (h : s.inWeave = false) : s.weaveRun = s := by simp [State.weaveRun, h]

theorem State.weaveProtect_of_alone {s : State} (h : s.inWeave = false) : s.weaveProtect = s := by simp [State.weaveProtect, h]

theorem exec_erst (e : Fin 64) (s : State) : exec (.erst e) s = .next (s.when s.answers (fun s => (s.erstEngine e.val).weaveRun)) := rfl

theorem exec_engineFault (e : Fin 64) (cause : Fin 5) (s : State) :
    exec (.engineFault e cause) s = .next (s.engineFault e.val cause.val).weaveRun := rfl

theorem exec_rerankProtectionPoint (s : State) :
    exec .rerankProtectionPoint s = .next (s.advance s.protectAt).protectionPoint.weaveProtect := rfl

end Sys2Proof.Machine
end

section
/-!
PROOFS. ERST, ENGINE_FAULT and RERANK_PROTECTION_POINT.
-/
namespace Sys2Proof.Claims
open Sys2Proof Sys2Proof.Machine

theorem answers_erst {s : State} (hweave : s.inWeave = false) (e : Fin 64) (h : s.answers = true) :
    Answers (.erst e) s (s.erstEngine e.val) := by
  rw [Answers, exec_erst, h, State.when_true, State.weaveRun_of_alone ((s.inWeave_erstEngine e).trans hweave)]

theorem answers_engineFault {s : State} (e : Fin 64) (cause : Fin 5) (h : s.live = true) :
    Answers (.engineFault e cause) s ((s.engineReported e.val cause.val).erstEngine e.val).weaveRun := by
  rw [Answers, exec_engineFault, State.engineFault_of_live h]

section
variable {s : State} (hweave : s.inWeave = false) (hp : s.clk.phase = .sweep) (hc : s.sweep.codaDone = false)
include hweave hp hc

/-- A drained sweep goes on to its coda with open bands cut. -/
theorem answers_rerankProtectionPoint_drained (hd : s.sweepDrained = true) :
    Answers .rerankProtectionPoint s ((s.advance s.protectAt).sweepMap (fun w => { w with bandCut := true })) := by
  have hne : s.clk.phase ≠ .rerank := by simp [hp]
  obtain ⟨-, hsweep, -⟩ := State.advance_keeps hne s.protectAt
  rw [Answers, exec_rerankProtectionPoint, State.protectionPoint_of_drained ((State.advance_phase hne _).trans hp)
    ((State.codaDone_of_sweep hsweep).trans hc) ((State.sweepDrained_of_sweep hsweep).trans hd), State.weaveProtect_of_alone]
  rw [State.inWeave_sweepMap, State.advance_inWeave hne, hweave]

/-- An undrained sweep stops. -/
theorem answers_rerankProtectionPoint_undrained (hd : s.sweepDrained = false) :
    Answers .rerankProtectionPoint s (s.advance s.protectAt).stopSweep.restEngines := by
  have hne : s.clk.phase ≠ .rerank := by simp [hp]
  obtain ⟨-, hsweep, -⟩ := State.advance_keeps hne s.protectAt
  rw [Answers, exec_rerankProtectionPoint, State.protectionPoint_of_undrained ((State.advance_phase hne _).trans hp)
    ((State.codaDone_of_sweep hsweep).trans hc) ((State.sweepDrained_of_sweep hsweep).trans hd), State.weaveProtect_of_alone]
  rw [State.inWeave_restEngines, State.stopSweep_inWeave, State.advance_inWeave hne, hweave]

end

/-- Settles O46: the reset empties its engine whatever its groups do, the fault is a report and a reset, and the protection point stops or cuts. -/
theorem engineResetsAndProtection : Obligations.EngineResetsAndProtection := by
  intro s hsound hweave
  refine ⟨fun e h => ?_, fun e cause h => ?_, fun hp hc => ⟨fun hd => ?_, fun hd => ?_⟩⟩
  · obtain ⟨hslots, hcomputing, hbank, hacc, hreset⟩ := State.erased_erstEngine hsound e
    obtain ⟨hout, hhost, hstore, hclk⟩ := State.aside_eq_iff.1 (s.aside_erstEngine e.val)
    exact ⟨_, answers_erst hweave e h, hslots, hcomputing, hbank, hacc, hreset, State.rd_erstEngine_busy hsound e,
      State.rd_erstEngine_tiles hsound e, congrArg Clock.kappa hclk, hout, hhost, hstore⟩
  · have hreported := State.sound_engineReported hsound e.val cause.val
    obtain ⟨hslots, hcomputing, -, -, hreset⟩ := State.erased_erstEngine hreported e
    obtain ⟨-, -, hstore, hclk⟩ := State.aside_eq_iff.1 ((s.engineReported e.val cause.val).aside_erstEngine e.val)
    exact ⟨_, answers_engineFault e cause h, hslots, hcomputing, hreset,
      State.rd_erstEngine_fault hreported e (State.rd_engineReported hsound e.val cause.val), congrArg Clock.kappa hclk,
      hstore.trans (s.store_engineReported e.val cause.val)⟩
  · exact answers_rerankProtectionPoint_drained hweave hp hc hd
  · obtain ⟨-, hsweep, -⟩ := State.advance_keeps (s := s) (by simp [hp]) s.protectAt
    obtain ⟨hstopped, hwork, hqueues⟩ := (s.advance s.protectAt).stopSweep_stopped
    refine ⟨_, answers_rerankProtectionPoint_undrained hweave hp hc hd, hstopped, hwork, hqueues, ?_, fun hleft => ?_⟩
    · rw [State.restEngines_clk, State.stopSweep_clk]
      exact s.le_advance_now _
    · rw [State.rd_of_regs _ _ _ _ (State.restEngines_regs _)]
      refine State.rd_stopSweep ((Follows.refl s).advance.sound hsound) (fun hnone => hleft ?_)
      obtain ⟨hnil, -⟩ := List.append_eq_nil_iff.1 hnone
      rw [← hsweep, hnil]

end Sys2Proof.Claims
end

section
/-!
LAWS. A far read that returns or fails (R274, R276, R278): the latency and the error it notes, and what noting them leaves as it was.
-/
namespace Sys2Proof.Machine

/-! ## The latency of a far read -/

/-- Noting a latency sets a count and at most the event bit (R276). -/
theorem State.farTook_keeps {α : Type} {π : State → α} (hcount : ∀ (t : State) f i v, π (t.bumpSet f i v) = π t)
    (hevent : ∀ (t : State) f i, π (t.ev f i) = π t) (s : State) (r : Req) : π (s.farTook r) = π s :=
  (State.when_keeps _ _ (fun t => hevent t voiEventFarSlow 0)).trans (hcount s voiFarLatMaxNs 0 _)

theorem State.aside_farTook (s : State) (r : Req) : (s.farTook r).aside = s.aside :=
  State.farTook_keeps (fun _ _ _ _ => rfl) (fun _ _ _ => rfl) s r

theorem State.besidePosts_farTook (s : State) (r : Req) : (s.farTook r).besidePosts = s.besidePosts :=
  State.farTook_keeps State.besidePosts_bumpSet State.besidePosts_ev s r

/-- A far read that took longer than VOI_FAR_LAT sets far_slow (R276). -/
theorem State.rd_farTook_farSlow {s : State} (hs : s.sound = true) {r : Req} (h : ns (s.inForce voiFarLatNs) < s.clk.now - r.issued) :
    (s.farTook r).rd voiEventFarSlow = 1 := by
  have hslow : s.farTook r = (s.bumpSet voiFarLatMaxNs 0 (max (s.tallied voiFarLatMaxNs) ((s.clk.now - r.issued) / 768))).ev voiEventFarSlow :=
    if_pos (decide_eq_true h)
  rw [hslow]
  exact State.rd_wr_same _ voiEventFarSlow 0 1 (State.regs_sorted (s := s) hs)

/-! ## The error of a far read that failed -/

/-- A contained error is reported in the registers and the error log alone: only class unit and above signals it (R841). -/
theorem State.aside_logError_contained (s : State) (kind unit code detail : Nat) : (s.logError 2 kind unit code detail).aside = s.aside := by
  unfold State.logError
  extract_lets +lift
  rw [apply_ite State.aside]
  exact ite_self _

/-- The state in which the return of a far read is noted: its latency, and an error where it failed (R276, R278). -/
def State.farNoted (s : State) (r : Req) (ok : Bool) : State :=
  (s.farTook r).when (!ok) (fun s =>
    s.logError 2 8 (s.portOf (r.clients.head?.elim 0 s.farSeat)) 32 (((r.clients.head?).map s.candId).getD 0))

theorem State.aside_farNoted (s : State) (r : Req) (ok : Bool) : (s.farNoted r ok).aside = s.aside :=
  (State.when_keeps _ _ (fun t => t.aside_logError_contained 8 _ 32 _)).trans (s.aside_farTook r)

theorem State.rr_farNoted (s : State) (r : Req) (ok : Bool) : (s.farNoted r ok).rr = s.rr :=
  have hposts : (s.farNoted r ok).besidePosts = s.besidePosts :=
    (State.when_keeps _ _ (fun t => t.besidePosts_logError 2 8 _ 32 _)).trans (s.besidePosts_farTook r)
  (congrArg State.rr hposts :)

/-- The error leaves far_slow as the latency set it: the bit lies below the error block. -/
theorem State.rd_farNoted_farSlow {s : State} (hs : s.sound = true) {r : Req} (ok : Bool)
    (h : ns (s.inForce voiFarLatNs) < s.clk.now - r.issued) : (s.farNoted r ok).rd voiEventFarSlow = 1 := by
  have hbelow : (s.farNoted r ok).belowErrors = (s.farTook r).belowErrors :=
    State.when_keeps _ _ (fun t => t.belowErrors_logError 2 8 _ 32 _)
  rw [State.rd_of_belowErrors hbelow _ _ (by decide), State.rd_farTook_farSlow hs h]

/-! ## The return -/

/-- A far read whose return is noted stays in hand with its outcome (R278). -/
def Rerank.farBack (rid : Nat) (ok : Bool) (x : Rerank) : Rerank :=
  { x with reqs := updFirst (fun y => y.rid == rid) (fun y => { y with returned := true, lost := !ok }) x.reqs }

/-- A far read that is in hand no more. -/
def Rerank.farGone (rid : Nat) (x : Rerank) : Rerank := { x with reqs := x.reqs.filter (fun y => y.rid != rid) }

section
variable {s : State} {rid t : Nat}

/-- A far read that is not in flight has no return; only time passes (log entry 5). -/
theorem State.farReturn_unknown (ok : Bool)
    (h : (s.advance t).rr.reqs.find? (fun r => r.rid == rid && r.far && !r.returned) = none) : s.farReturn rid ok t = s.advance t := by
  simp only [State.farReturn, h]

variable {r : Req} (hr : (s.advance t).rr.reqs.find? (fun r => r.rid == rid && r.far && !r.returned) = some r)
include hr

/-- The read of a voice stays in hand with its outcome until it lands (R278). -/
theorem State.farReturn_landing (ok : Bool) (hc : ∀ k, r.clients.head? ≠ some (.slab k)) :
    s.farReturn rid ok t = ((s.advance t).farNoted r ok).rrMap (Rerank.farBack rid ok) := by
  simp only [State.farReturn, hr]
  rfl

/-- The read of a slab operation is gone, and the operation goes on or is rolled back (R887). -/
theorem State.farReturn_slab (ok : Bool) {k : Nat} (hc : r.clients.head? = some (.slab k)) :
    let w := ((s.advance t).farNoted r ok).rrMap (Rerank.farGone rid)
    s.farReturn rid ok t = if ok then w.slabRead k else w.slabRollback k 0 := by
  simp only [State.farReturn, State.farNoted, hr, hc]
  rfl

end

/-! ## The commands -/

theorem exec_farReadComplete (rid : Nat) (ok : Bool) (t : Nat) (s : State) :
    exec (.farReadComplete rid ok t) s = .next (s.farReturn rid ok t).retryCommits.weavePrepares := rfl

theorem exec_busMasterDisable (fn : Seat) (s : State) : exec (.busMasterDisable fn) s = .next (s.bmeClear fn.val) := rfl

end Sys2Proof.Machine
end

section
/-!
PROOFS. FAR_READ_COMPLETE, and BUS_MASTER_DISABLE while a far read is overdue.
-/
namespace Sys2Proof.Claims
open Sys2Proof Sys2Proof.Machine

/-- Settles O31: by the client of the read; what noting the return leaves as it was is the same for a voice and for a slab operation. -/
theorem farReadsReturn : Obligations.FarReadsReturn := by
  intro rid ok t s u
  refine ⟨fun r hr hc => ?_, fun r k hr hc => ?_, fun hnone => ?_⟩
  · obtain ⟨hout, hhost, hstore, -⟩ := State.aside_eq_iff.1 (u.aside_farNoted r ok)
    refine ⟨(u.farNoted r ok).rrMap (Rerank.farBack rid ok), ?_, ?_, hhost, hstore, hout, fun hs hslow => ?_⟩
    · rw [Answers, exec_farReadComplete, State.farReturn_landing hr ok hc]
    · rw [← u.rr_farNoted r ok]; rfl
    · exact State.rd_farNoted_farSlow ((Follows.refl s).advance.sound hs) ok hslow
  · obtain ⟨hout, hhost, hstore, -⟩ := State.aside_eq_iff.1 (u.aside_farNoted r ok)
    refine ⟨(u.farNoted r ok).rrMap (Rerank.farGone rid), ?_, hhost, hstore, hout, ?_⟩
    · rw [← u.rr_farNoted r ok]; rfl
    · rw [Answers, exec_farReadComplete, State.farReturn_slab hr ok hc]
  · rw [Answers, exec_farReadComplete, State.farReturn_unknown ok hnone]

/-- A far-store shelf of function 0. -/
def farShelf : Shelf := { shelfOfParam 0x500 0 (zeros 64) with gen := 1, sweepWidth := 2, fullPlace := 2, farBase := 256, capacity := 1 }

/-- A playing chip that re-ranks a search of that shelf, with bus mastering on for function 0: a far read of the search has been in flight for 5 µs,
where VOI_FAR_LAT allows 2 µs. -/
def farOverdue : State := { State.reset with
  clk := { clockReset with ready := true, started := true, phase := .rerank, predicted := ns 13000, now := ns 5000 }
  pwr := { powerReset with aux := true, mgc := true, mode := .playing, coreOn := true, switchOn := true }
  host := { hostReset with fns := { fnNil 0 with enabled := true, bme := true } :: hostReset.fns.tail }
  store := { storeReset with shelves := [farShelf] }
  sweep := { sweepReset with runs := [State.reset.newRun (innerCmd 1 0x10 0x500 0 0 []) farShelf 0] }
  rr := { State.reset.rr with
    reqs := [{ rid := 1, sq := 24, granule := 0, staging := false, far := true, clients := [.record 1 0], write := false, arr := none, passed := 0
               issued := 0, retries := 0, returned := false, lost := false }], nextRid := 2 } }

theorem farOverdue_masters : farOverdue.sound = true ∧ (∃ f ∈ farOverdue.host.fns, f.seat = 0) ∧ (farOverdue.fn 0).bme = true := by decide

/-- The far read that fails with bus mastering has taken longer than VOI_FAR_LAT, so the device sets far_slow (R276, R287). -/
theorem farOverdue_bmeClear_farSlow : farOverdue.rd voiEventFarSlow = 0 ∧ (farOverdue.bmeClear 0).rd voiEventFarSlow = 1 := by decide

/-- Refutes O29: its first clause has the registers as they were when bus mastering goes off, but a far read that then fails (R287) has its
latency taken, and one above VOI_FAR_LAT sets VOI_EVENT.far_slow (R276). -/
theorem not_functionAndPortStates : ¬ Obligations.FunctionAndPortStates := by
  intro h
  obtain ⟨hsound, hfn, hbme⟩ := farOverdue_masters
  obtain ⟨hbefore, hafter⟩ := farOverdue_bmeClear_farSlow
  obtain ⟨hfns, -⟩ := h farOverdue hsound
  obtain ⟨hdisable, -⟩ := hfns 0 hfn
  obtain ⟨v, hv, -, hregs, -⟩ := hdisable hbme
  have hclear : farOverdue.bmeClear 0 = v := Host.Outcome.next.inj ((exec_busMasterDisable 0 farOverdue).symm.trans hv)
  have hkept : v.rd voiEventFarSlow = farOverdue.rd voiEventFarSlow := State.rd_of_regs _ _ _ _ hregs
  rw [← hclear, hbefore, hafter] at hkept
  exact absurd hkept (by decide)

end Sys2Proof.Claims
end

section
/-!
LAWS. The stream queues (R321, R335, R338, R348): what a descriptor does by its kind and its queue, the fill of a table set, and the deal of
a tile.
-/
namespace Sys2Proof.Machine

/-! ## Queues -/

theorem State.queue_queueMap_same {s : State} {q : Nat} (f : TileQ → TileQ) (h : q < s.sweep.queues.length) :
    (s.queueMap q f).queue q = f (s.queue q) := getD_updAt_same f _ h

/-- Tiles moved to a queue stand behind those it has, in their order (R326, R327). -/
theorem State.todo_queueTiles {s : State} {q : Nat} (dflags : Nat) (ts : List Tile) (h : q < s.sweep.queues.length) :
    ((s.queueTiles q dflags ts).queue q).todo = (s.queue q).todo ++ ts.map (fun t => { t with queue := q, masked := dflags.testBit 1 }) :=
  congrArg TileQ.todo (State.queue_queueMap_same
    (s := s.sweepMap (fun w => { w with work := w.work.filter (fun t => !(ts.any (fun m => m.tid == t.tid))) })) _ h)

/-! ## Descriptors -/

/-- The entries of a gather list, granule offsets of 40 bits (R333). -/
def gatherOffsets (gather : List DWord) : List Int := gather.map (fun w => signed 40 (w.toNat % 2 ^ 40))

/-- The figure of a descriptor, if it is without an error (R335). -/
def State.goodFigure (s : State) (h : Shelf) (hdr : Bytes) (body gather : List DWord) : Option Figure :=
  (figParse body (field hdr 20 2)).filter (fun f => (figGranules f (gatherOffsets gather)).all (h.inAreas s.spillBase))

/-- The granules a figure reads, in order (R332). -/
def Figure.granules (f : Figure) (gather : List DWord) : List Nat := (figGranules f (gatherOffsets gather)).map Int.toNat

/-- The chain position whose slices a figure reads from its first granule on. -/
def Shelf.figPosition (h : Shelf) (gs : List Nat) : Option Nat := h.positionAt ((gs.headD 0 * 256 - h.deepBase) % max h.recSize 1)

/-- The group of a shelf that its next table figure fills (R348). -/
def State.nextFill (s : State) (shelf : Nat) : Nat := (s.sweep.tfill.filter (fun f => f.shelf == shelf && !f.reread)).length

/-- The runs whose data a figure carries: the projections of its shelf on a tile queue, the searches of the next group on another (R335). -/
def State.carries (s : State) (q shelf : Nat) (r : Run) : Bool :=
  if q < 16 then r.shelf == shelf && r.kind == 4 else r.inGroup shelf (s.nextFill shelf)

/-- The slices at a chain position of the first projection of a shelf that has any there. -/
def State.slicesAt (s : State) (shelf j : Nat) : List Tile :=
  let owner := ((s.sweep.work.find? (fun t => t.shelf == shelf && t.proj != 0 && t.pos == j)).map (fun t => t.proj)).getD 0
  s.sweep.work.filter (fun t => t.shelf == shelf && t.proj != 0 && t.proj == owner && t.pos == j)

/-- The tiles a block list names (R327). -/
def State.blockTiles (s : State) (shelf : Nat) (body : List DWord) : List Tile :=
  ((blockEntries body).filterMap (fun b => s.sweep.work.find? (fun t => t.isBlock shelf b))).eraseDups

/-- A queue that a figure with an error has stopped (R335). -/
def State.figureRefused (s : State) (q : Nat) : State :=
  (s.ev strmEventBadFigure).queueMap q (fun t => { t with bad := true, todo := [] })

section
variable {s : State} {hdr : Bytes} {body : List DWord} {gather : List DWord} {q shelf : Nat} {h : Shelf} (hq : field hdr 1 1 = q)
  (hshelf : field hdr 4 2 % 4096 = shelf) (hh : s.shelfAt? shelf = some h) (hp : s.clk.phase = .sweep)
include hq hshelf hh hp

theorem State.streamStart_badFigure (hk : field hdr 0 1 = 1) (hf : s.goodFigure h hdr body gather = none) :
    s.streamStart hdr body gather = ((s.figureRefused q).failRuns (s.carries q shelf)).fwFault 6 q 48 q := by
  subst hq hshelf
  simp only [State.goodFigure, gatherOffsets, State.spillBase] at hf
  simp only [State.streamStart, hh, hp, hk, hf, ne_eq, not_true, if_false, if_true]
  rfl

theorem State.streamStart_tableFigure {f : Figure} (hk : field hdr 0 1 = 1) (hf : s.goodFigure h hdr body gather = some f) (hlo : 16 ≤ q)
    (hhi : q ≤ 17) : s.streamStart hdr body gather = s.startFill h q (f.granules gather) := by
  subst hq hshelf
  simp only [State.goodFigure, gatherOffsets, State.spillBase] at hf
  simp only [State.streamStart, hh, hp, hk, hf, hlo, hhi, ne_eq, not_true, if_false, if_true, and_self]
  rfl

theorem State.streamStart_tileFigure {f : Figure} {j : Nat} (hk : field hdr 0 1 = 1) (hf : s.goodFigure h hdr body gather = some f) (hlt : q < 16)
    (hj : h.figPosition (f.granules gather) = some j) : s.streamStart hdr body gather = s.queueTiles q (field hdr 2 1) (s.slicesAt shelf j) := by
  subst hq hshelf
  simp only [State.goodFigure, gatherOffsets, State.spillBase] at hf
  simp only [Shelf.figPosition, Figure.granules, gatherOffsets] at hj
  have htable : ¬(16 ≤ field hdr 1 1 ∧ field hdr 1 1 ≤ 17) := by omega
  simp only [State.streamStart, hh, hp, hk, hf, htable, hlt, hj, ne_eq, not_true, if_false, if_true]
  rfl

theorem State.streamStart_blockList (hk : field hdr 0 1 ≠ 1) (hlt : q < 16) :
    s.streamStart hdr body gather = s.queueTiles q (field hdr 2 1) (s.blockTiles shelf body) := by
  subst hq hshelf
  simp only [State.streamStart, hh, hp, hk, hlt, ne_eq, not_true, if_false, if_true]
  rfl

end

/-- A descriptor starts beside its trace (R829). -/
theorem State.runDescriptor_traced (s : State) (hdr : Bytes) (body gather : List DWord) :
    ∃ p : Power → Power, s.runDescriptor hdr body gather = ((s.pwrMap p).streamStart hdr body gather).weaveRun := by
  unfold State.runDescriptor State.when
  dsimp only
  split
  · exact ⟨_, rfl⟩
  · exact ⟨id, rfl⟩

theorem State.queue_figureRefused {s : State} {q : Nat} (h : q < s.sweep.queues.length) :
    (s.figureRefused q).queue q = { s.queue q with bad := true, todo := [] } :=
  State.queue_queueMap_same (s := s.ev strmEventBadFigure) _ h

theorem State.rd_figureRefused {s : State} (q : Nat) (h : regSorted s.regs = true) : (s.figureRefused q).rd strmEventBadFigure = 1 :=
  s.rd_wr_same strmEventBadFigure 0 1 h

/-! ## The fill of a table set -/

theorem State.beyondSweep_issue (s : State) (sq granule : Nat) (c : Client) : (s.issue sq granule false false c).beyondSweep = s.beyondSweep :=
  (congrArg State.beyondSweep (s.besideReads_issue sq granule false false c) :)

theorem State.sweep_issue (s : State) (sq granule : Nat) (c : Client) : (s.issue sq granule false false c).sweep = s.sweep :=
  (congrArg State.sweep (s.besideReads_issue sq granule false false c) :)

/-- Issuing counts the lines of fills; there are as many fills as before (R349). -/
theorem State.fills_issueFills (s : State) : s.issueFills.sweep.tfill.length = s.sweep.tfill.length := by
  refine State.each_keeps (π := fun u => u.sweep.tfill.length) _ s (fun u k => ?_)
  unfold State.issueFill
  split
  · rfl
  · exact (State.each_keeps (π := fun u => u.sweep.tfill.length) _ _ (fun v g => by rw [State.sweep_issue])).trans (updAt_length _ _ _)

theorem State.issueFills_keeps {α : Type} {π : State → α}
    (hother : ∀ (u : State) (f : Sweep → Sweep), (∀ w, (f w).engines = w.engines) → π (u.sweepMap f) = π u)
    (hissue : ∀ (u : State) (sq granule : Nat) (c : Client), π (u.issue sq granule false false c) = π u) (s : State) :
    π s.issueFills = π s := State.each_keeps _ s (State.issueFill_keeps hother hissue)

/-- An engine of a list whose engines are all changed has what the change gives it. -/
theorem State.engine_each_engineMap {α : Type} {π : Engine → α} {v : α} {f : Engine → Engine} (hf : ∀ x, π (f x) = v) {n : Nat} (l : List Nat)
    (s : State) (hn : n < s.sweep.engines.length) (h : n ∈ l ∨ π (s.engine n) = v) :
    π ((s.each l (fun u e => u.engineMap e f)).engine n) = v := by
  induction l generalizing s with
  | nil => exact h.resolve_left List.not_mem_nil
  | cons e l ih =>
    refine ih (s.engineMap e f) (hn.trans_eq (updAt_length _ _ _).symm) ?_
    by_cases he : e = n
    · subst he
      exact .inr ((congrArg π (State.engine_engineMap_same f hn)).trans (hf _))
    · rw [State.engine_engineMap_other _ _ he]
      exact h.imp_left (fun hmem => (List.mem_cons.1 hmem).resolve_left (Ne.symm he))

/-- The engines that a fill of a group's tables serves: those that hold the group and are not in reset. -/
def State.fillRefs (s : State) (shelf g : Nat) : List Nat := (s.holders shelf g).filter (fun e => !(s.engine e).inErst)

/-- The engines that a fill serves hold an empty table set of `need` lines. -/
def State.tablesAwaited (s : State) (shelf g need : Nat) : State :=
  s.each (s.fillRefs shelf g) (fun u e => u.engineMap e (fun x => { x with tset := some ⟨shelf, g, 0, need, []⟩ }))

/-- A fill enters the list of fills. -/
def State.fillAdded (s : State) (f : TFill) : State := s.sweepMap (fun w => { w with tfill := w.tfill ++ [f] })

theorem State.startFill_eq (s : State) (h : Shelf) (q : Nat) (gs : List Nat) :
    let g := s.nextFill h.index
    s.startFill h q gs = ((s.tablesAwaited h.index g gs.length).fillAdded ⟨h.index, g, q, gs, 0, 0, s.fillRefs h.index g, false⟩).issueFills := rfl

theorem State.fills_tablesAwaited (s : State) (shelf g need : Nat) : (s.tablesAwaited shelf g need).sweep.tfill = s.sweep.tfill :=
  State.each_keeps (π := fun u => u.sweep.tfill) _ s (fun _ _ => rfl)

theorem State.fills_startFill (s : State) (h : Shelf) (q : Nat) (gs : List Nat) :
    (s.startFill h q gs).sweep.tfill.length = s.sweep.tfill.length + 1 := by
  rw [State.startFill_eq, State.fills_issueFills, ← s.fills_tablesAwaited h.index (s.nextFill h.index) gs.length]
  exact List.length_append

/-- An engine that holds the group and is not in reset waits for its tables (R348). -/
theorem State.tset_tablesAwaited {s : State} {shelf g e : Nat} (need : Nat) (hmem : e ∈ s.holders shelf g) (hreset : (s.engine e).inErst = false)
    (he : e < s.sweep.engines.length) : ((s.tablesAwaited shelf g need).engine e).tset = some ⟨shelf, g, 0, need, []⟩ := by
  have hserved : e ∈ s.fillRefs shelf g := List.mem_filter.2 ⟨hmem, congrArg Bool.not hreset⟩
  refine State.engine_each_engineMap (π := Engine.tset) ?_ _ s he (.inl hserved)
  exact fun _ => rfl

theorem State.tset_startFill {s : State} {h : Shelf} {e : Nat} (q : Nat) (gs : List Nat) (hmem : e ∈ s.holders h.index (s.nextFill h.index))
    (hreset : (s.engine e).inErst = false) (he : e < s.sweep.engines.length) :
    ((s.startFill h q gs).engine e).tset = some ⟨h.index, s.nextFill h.index, 0, gs.length, []⟩ := by
  have hissued := State.issueFills_keeps (π := fun u => u.engine e) (fun _ _ hf => State.engine_sweepMap hf e)
    (fun u _ _ _ => u.engine_issue _ _ _ e)
  rw [State.startFill_eq, hissued]
  exact State.tset_tablesAwaited gs.length hmem hreset he

theorem State.beyondSweep_startFill (s : State) (h : Shelf) (q : Nat) (gs : List Nat) : (s.startFill h q gs).beyondSweep = s.beyondSweep := by
  rw [State.startFill_eq, State.issueFills_keeps (fun _ _ _ => rfl) State.beyondSweep_issue]
  exact State.each_keeps (π := State.beyondSweep) _ s (fun _ _ => rfl)

/-! ## The deal of a tile -/

/-- A tile as a queue deals it: its live mask formed, and all its granules to come (R338, R339). -/
def State.dealtTile (s : State) (h : Shelf) (t : Tile) (copy : Nat) : Tile :=
  { t with live := s.liveMask t, copy := some copy, waiting := List.range (h.tileGranules t).length }

/-- A slice of the section of tile `t` goes to the copy that `t` was dealt to. -/
def Tile.follow (t : Tile) (copy : Nat) (x : Tile) : Tile :=
  if x.proj = t.proj ∧ x.slab = t.slab ∧ x.staged = t.staged ∧ x.shelf = t.shelf then { x with copy := some copy } else x

/-- The other slices of a chain tile bound to its copy. -/
def State.slicesBound (s : State) (t : Tile) (copy : Nat) : State :=
  s.sweepMap (fun w => { w with work := w.work.map (t.follow copy), queues := w.queues.map (fun x => { x with todo := x.todo.map (t.follow copy) }) })

/-- The tile dealt is off its queue, and its other slices are bound. -/
def State.tileOff (s : State) (q : Nat) (t : Tile) (copy : Nat) (rest : List Tile) : State :=
  (s.queueMap q (fun x => TileQ.marked { x with todo := rest })).when (t.proj != 0) (fun u => u.slicesBound t copy)

/-- Every engine of a team takes a tile. -/
def State.teamTakes (s : State) (h : Shelf) (t : Tile) (team : List (Nat × List Nat)) : State :=
  s.each team (fun u p => u.engineMap p.1 (Engine.takeTile h t p))

/-- The granules of a tile are read once for all its engines (R338). -/
def State.tileRead (s : State) (h : Shelf) (t : Tile) (q : Nat) : State :=
  s.each ((h.tileGranules t).zip (List.range (h.tileGranules t).length)) (fun u g => u.issue q g.1 false false (.tile t.tid g.2))

/-- Tile `t` dealt by queue `q`, before engines without tiles go to Tacet. -/
def State.tileDealt (s : State) (h : Shelf) (t : Tile) (q copy : Nat) (team : List (Nat × List Nat)) (rest : List Tile) : State :=
  ((s.tileOff q t copy rest).teamTakes h (s.dealtTile h t copy) team).tileRead h t q

/-- An engine can take a tile (R202, R338). -/
def State.hasRoom (s : State) (e : Nat) : Prop :=
  (s.engine e).freeSlot.isSome = true ∧ s.engines.contains e = true ∧ (s.engine e).thermal = false ∧ (s.engine e).inErst = false

theorem State.tileDeal_of_room {s : State} {q copy : Nat} {c : Copy} {t : Tile} {rest : List Tile} {h : Shelf} (hp : s.clk.phase = .sweep)
    (ht : (s.queue q).todo = t :: rest) (hc : s.sweep.plan.copies[copy]? = some c) (hh : s.shelfAt? t.shelf = some h)
    (hgo : s.sweep.stopped = false) (hmay : s.mayDeal h t copy = true) (hteam : tileTeam t c ≠ [])
    (hscan : s.sweep.scanDone = true ∨ t.staged = true) (hgood : (s.queue q).bad = false) (hroom : ∀ p ∈ tileTeam t c, s.hasRoom p.1) :
    s.tileDeal q copy = (s.tileDealt h t q copy (tileTeam t c) rest).restEngines := by
  have hall : (tileTeam t c).all (fun p => (s.engine p.1).freeSlot.isSome && s.engines.contains p.1 && !(s.engine p.1).thermal &&
      !(s.engine p.1).inErst) = true := by
    refine List.all_eq_true.2 (fun p hpt => ?_)
    obtain ⟨hslot, hactive, hcool, hreset⟩ := hroom p hpt
    rw [hslot, hactive, hcool, hreset]
    rfl
  simp only [State.tileDeal, ht, hc, hh]
  exact if_pos ⟨hp, by simp [hgo], hmay, hteam, hscan, by simp [hgood], hall⟩

/-- What the changes of a deal keep one by one, the deal keeps. -/
theorem State.tileDealt_keeps {α : Type} {π : State → α} (hqueue : ∀ (u : State) q f, π (u.queueMap q f) = π u)
    (hslices : ∀ (u : State) t copy, π (u.slicesBound t copy) = π u) (hengine : ∀ (u : State) e f, π (u.engineMap e f) = π u)
    (hissue : ∀ (u : State) (sq granule : Nat) (c : Client), π (u.issue sq granule false false c) = π u) (s : State) (h : Shelf) (t : Tile)
    (q copy : Nat) (team : List (Nat × List Nat)) (rest : List Tile) : π (s.tileDealt h t q copy team rest) = π s :=
  (State.each_keeps _ _ (fun u _ => hissue u _ _ _)).trans ((State.each_keeps _ _ (fun u _ => hengine u _ _)).trans
    ((State.when_keeps _ _ (fun u => hslices u t copy)).trans (hqueue s _ _)))

section
variable (s : State) (h : Shelf) (t : Tile) (q copy : Nat) (team : List (Nat × List Nat)) (rest : List Tile)

theorem State.sweep_tileRead : (s.tileRead h t q).sweep = s.sweep := State.each_keeps (π := State.sweep) _ s (fun u _ => u.sweep_issue _ _ _)

theorem State.engines_teamTakes :
    (s.teamTakes h t team).sweep.engines = team.foldl (fun l p => updAt p.1 (Engine.takeTile h t p) l) s.sweep.engines :=
  (List.foldl_hom (fun u : State => u.sweep.engines) (fun _ _ => rfl)).symm

theorem State.engines_tileOff : (s.tileOff q t copy rest).sweep.engines = s.sweep.engines :=
  State.when_keeps (π := fun u => u.sweep.engines) _ _ (fun _ => rfl)

theorem State.rr_teamTakes : (s.teamTakes h t team).rr = s.rr := State.each_keeps (π := State.rr) _ s (fun _ _ => rfl)

theorem State.rr_tileOff : (s.tileOff q t copy rest).rr = s.rr := State.when_keeps (π := State.rr) _ _ (fun _ => rfl)

theorem State.engines_tileDealt :
    (s.tileDealt h t q copy team rest).sweep.engines = (s.teamTakes h (s.dealtTile h t copy) team).sweep.engines := by
  rw [State.tileDealt, State.sweep_tileRead, State.engines_teamTakes, State.engines_teamTakes, State.engines_tileOff]

theorem State.plan_tileDealt : (s.tileDealt h t q copy team rest).sweep.plan = s.sweep.plan :=
  State.tileDealt_keeps (π := fun u => u.sweep.plan) (fun _ _ _ => rfl) (fun _ _ _ => rfl) (fun _ _ _ => rfl)
    (fun u _ _ _ => congrArg Sweep.plan (u.sweep_issue _ _ _)) s h t q copy team rest

theorem State.beyondSweep_tileDealt : (s.tileDealt h t q copy team rest).beyondSweep = s.beyondSweep :=
  State.tileDealt_keeps (fun _ _ _ => rfl) (fun _ _ _ => rfl) (fun _ _ _ => rfl) State.beyondSweep_issue s h t q copy team rest

end

/-- A tile that is no chain slice leaves the rest of its queue as it was (R338). -/
theorem State.todo_tileDealt {s : State} {q : Nat} (h : Shelf) {t : Tile} (copy : Nat) (team : List (Nat × List Nat)) (rest : List Tile)
    (hq : q < s.sweep.queues.length) (hproj : t.proj = 0) : ((s.tileDealt h t q copy team rest).queue q).todo = rest := by
  have hoff : s.tileOff q t copy rest = s.queueMap q (fun x => TileQ.marked { x with todo := rest }) := by simp [State.tileOff, State.when, hproj]
  have htaken : ∀ u : State, ((u.teamTakes h (s.dealtTile h t copy) team).sweep.queues) = u.sweep.queues := fun u =>
    State.each_keeps (π := fun u => u.sweep.queues) _ u (fun _ _ => rfl)
  rw [State.queue, State.tileDealt, State.sweep_tileRead, htaken, hoff]
  exact congrArg TileQ.todo (State.queue_queueMap_same _ hq)

/-- A staged tile reads no granules of graphics memory (R345). -/
theorem State.tileRead_staged (s : State) (h : Shelf) {t : Tile} (q : Nat) (hstaged : t.staged = true) : s.tileRead h t q = s := by
  have hnone : h.tileGranules t = [] := if_pos hstaged
  rw [State.tileRead, hnone]
  rfl

theorem State.rr_tileDealt_staged (s : State) (h : Shelf) {t : Tile} (q copy : Nat) (team : List (Nat × List Nat)) (rest : List Tile)
    (hstaged : t.staged = true) : (s.tileDealt h t q copy team rest).rr = s.rr := by
  rw [State.tileDealt, State.tileRead_staged _ _ _ hstaged, State.rr_teamTakes, State.rr_tileOff]

/-! ## The commands -/

theorem State.stagingScanEnd_of_dealt {s : State} (hp : s.clk.phase = .sweep) (h : (s.queue 18).todo = []) :
    s.stagingScanEnd = s.sweepMap (fun w => { w with scanDone := true }) := if_pos ⟨hp, h⟩

theorem State.stagingScanEnd_of_left {s : State} (h : (s.queue 18).todo ≠ []) : s.stagingScanEnd = s := if_neg (fun hdone => h hdone.2)

theorem exec_streamStart (hdr : Bytes) (body gather : List DWord) (s : State) :
    exec (.streamStart hdr body gather) s = .next (s.runDescriptor hdr body gather) := rfl

theorem exec_stagingScanEnd (s : State) : exec .stagingScanEnd s = .next s.stagingScanEnd := rfl

theorem exec_tileDeal (q : Fin 32) (copy : Nat) (s : State) : exec (.tileDeal q copy) s = .next (s.tileDeal q.val copy) := rfl

end Sys2Proof.Machine
end

section
/-!
PROOFS. STREAM_START, STAGING_SCAN_END and TILE_DEAL.
-/
namespace Sys2Proof.Claims
open Sys2Proof Sys2Proof.Machine

/-- A descriptor that hands tiles to a tile queue takes them from the pass's work (R326). -/
theorem answers_streamStart_queueTiles {s : State} (hsound : s.sound = true) {hdr : Bytes} {body gather : List DWord} {q : Nat}
    {ts : List Tile} (hlt : q < 16)
    (hstart : ∀ p : Power → Power, (s.pwrMap p).streamStart hdr body gather = (s.pwrMap p).queueTiles q (field hdr 2 1) ts) :
    ∃ w : State, Answers (.streamStart hdr body gather) s w.weaveRun ∧
      (w.queue q).todo = (s.queue q).todo ++ ts.map (fun t => { t with queue := q, masked := (field hdr 2 1).testBit 1 }) ∧
      w.sweep.work = s.sweep.work.filter (fun t => !(ts.any (fun m => m.tid == t.tid))) ∧ w.regs = s.regs := by
  obtain ⟨p, htraced⟩ := s.runDescriptor_traced hdr body gather
  obtain ⟨-, -, -, hqueues, -⟩ := (State.sound_iff s).1 hsound
  refine ⟨(s.pwrMap p).queueTiles q (field hdr 2 1) ts, by rw [Answers, exec_streamStart, htraced, hstart], ?_, rfl, rfl⟩
  exact State.todo_queueTiles (s := s.pwrMap p) _ _ (by rw [State.pwrMap_sweep]; omega)

section
variable {s : State} (hsound : s.sound = true) (hp : s.clk.phase = .sweep)
include hsound hp

section
variable {hdr : Bytes} {body gather : List DWord} {q shelf : Nat} {h : Shelf} (hq : field hdr 1 1 = q) (hshelf : field hdr 4 2 % 4096 = shelf)
  (hh : s.shelfAt? shelf = some h)
include hq hshelf hh

/-- A figure with an error stops its queue, fails what it carries and is a firmware fault (R335). -/
theorem answers_streamStart_badFigure (hk : field hdr 0 1 = 1) (hf : s.goodFigure h hdr body gather = none) (hlt : q < 32) :
    ∃ w : State, w.rd strmEventBadFigure = 1 ∧ (w.queue q).bad = true ∧ (w.queue q).todo = [] ∧
      Answers (.streamStart hdr body gather) s (((w.failRuns (s.carries q shelf)).fwFault 6 q 48 q).weaveRun) := by
  obtain ⟨p, htraced⟩ := s.runDescriptor_traced hdr body gather
  obtain ⟨-, -, -, hqueues, -⟩ := (State.sound_iff s).1 hsound
  have hrefused := State.queue_figureRefused (s := s.pwrMap p) (hlt.trans_eq hqueues.symm)
  refine ⟨(s.pwrMap p).figureRefused q, State.rd_figureRefused q (State.regs_sorted hsound), congrArg TileQ.bad hrefused,
    congrArg TileQ.todo hrefused, ?_⟩
  rw [Answers, exec_streamStart, htraced, State.streamStart_badFigure (s := s.pwrMap p) hq hshelf hh hp hk hf]
  rfl

/-- A good figure on a table queue begins a fill of the next group's tables (R348). -/
theorem answers_streamStart_tableFigure {f : Figure} (hk : field hdr 0 1 = 1) (hf : s.goodFigure h hdr body gather = some f) (hlo : 16 ≤ q)
    (hhi : q ≤ 17) :
    ∃ w : State, Answers (.streamStart hdr body gather) s w.weaveRun ∧ w.sweep.tfill.length = s.sweep.tfill.length + 1 ∧
      (∀ e ∈ s.holders h.index (s.nextFill h.index), e < 64 → (s.engine e).inErst = false →
        (w.engine e).tset = some ⟨h.index, s.nextFill h.index, 0, (f.granules gather).length, []⟩) ∧
      w.beyondSweep = s.beyondSweep := by
  obtain ⟨p, htraced⟩ := s.runDescriptor_traced hdr body gather
  obtain ⟨-, hengines, -⟩ := (State.sound_iff s).1 hsound
  refine ⟨(s.pwrMap p).startFill h q (f.granules gather), ?_, State.fills_startFill _ _ _ _, fun e he hlt hreset => ?_,
    State.beyondSweep_startFill _ _ _ _⟩
  · rw [Answers, exec_streamStart, htraced, State.streamStart_tableFigure (s := s.pwrMap p) hq hshelf hh hp hk hf hlo hhi]
  · exact State.tset_startFill (s := s.pwrMap p) _ _ he hreset (hlt.trans_eq hengines.symm)

end

/-- A queue deals its first tile to a copy whose team has room (R195, R338). -/
theorem answers_tileDeal {q : Fin 32} {copy : Nat} {c : Copy} {t : Tile} {rest : List Tile} {h : Shelf}
    (ht : (s.queue q.val).todo = t :: rest) (hc : s.sweep.plan.copies[copy]? = some c) (hh : s.shelfAt? t.shelf = some h)
    (hgo : s.sweep.stopped = false) (hmay : s.mayDeal h t copy = true) (hteam : tileTeam t c ≠ [])
    (hscan : s.sweep.scanDone = true ∨ t.staged = true) (hgood : (s.queue q.val).bad = false) (hroom : ∀ p ∈ tileTeam t c, s.hasRoom p.1) :
    ∃ w : State, Answers (.tileDeal q copy) s w.restEngines ∧ (t.proj = 0 → (w.queue q.val).todo = rest) ∧
      w.sweep.engines = (s.teamTakes h (s.dealtTile h t copy) (tileTeam t c)).sweep.engines ∧ w.sweep.plan = s.sweep.plan ∧
      (t.staged = true → w.rr = s.rr) ∧ w.beyondSweep = s.beyondSweep := by
  obtain ⟨-, -, -, hqueues, -⟩ := (State.sound_iff s).1 hsound
  refine ⟨s.tileDealt h t q.val copy (tileTeam t c) rest, ?_, State.todo_tileDealt _ _ _ _ (q.isLt.trans_eq hqueues.symm),
    State.engines_tileDealt .., State.plan_tileDealt .., fun hstaged => s.rr_tileDealt_staged h q.val copy _ rest hstaged,
    State.beyondSweep_tileDealt ..⟩
  rw [Answers, exec_tileDeal, State.tileDeal_of_room hp ht hc hh hgo hmay hteam hscan hgood hroom]

end

/-- Settles O44: a descriptor by its kind and its queue, the scan's end by what is left to deal, and the deal, each by its own lemma. -/
theorem streamsDealTiles : Obligations.StreamsDealTiles := by
  intro s hsound hp
  refine ⟨fun hdr body gather h => ?_, fun hdealt => ?_, fun hleft => ?_, fun q copy c x rest h => ?_⟩
  · intro q shelf gl good hh
    refine ⟨fun hk hf hlt => answers_streamStart_badFigure hsound hp rfl rfl hh hk hf hlt, fun f j hk hf hlt hj => ?_,
      fun f hk hf hlo hhi => ?_, fun hk hlt => ?_⟩
    · exact answers_streamStart_queueTiles hsound hlt
        (fun p => State.streamStart_tileFigure (s := s.pwrMap p) rfl rfl hh hp hk hf hlt hj)
    · obtain ⟨w, hw, hfills, htset, hkept⟩ := answers_streamStart_tableFigure hsound hp rfl rfl hh hk hf hlo hhi
      exact ⟨w, hw, hfills, htset, State.beyondSweep_eq_iff.1 hkept⟩
    · exact answers_streamStart_queueTiles hsound hlt
        (fun p => State.streamStart_blockList (s := s.pwrMap p) rfl rfl hh hp hk hlt)
  · rw [Answers, exec_stagingScanEnd, State.stagingScanEnd_of_dealt hp hdealt]
  · rw [Answers, exec_stagingScanEnd, State.stagingScanEnd_of_left hleft]
  · intro ht hc hh hgo hmay hteam hscan hgood hroom
    obtain ⟨w, hw, htodo, hengines, hplan, hrr, hkept⟩ := answers_tileDeal hsound hp ht hc hh hgo hmay hteam hscan hgood hroom
    exact ⟨w, hw, htodo, hengines, hplan, hrr, State.beyondSweep_eq_iff.1 hkept⟩

end Sys2Proof.Claims
end

section
/-!
LAWS. The function windows and the rings (R368, R375, R382): fields of a window that no index brings together, queues that read as they were
changed last, and function events.
-/
namespace Sys2Proof.Machine

/-! ## Fields of a function window -/

/-- Two fields that no index brings together: a ring has a block of 32 bytes, and they take different bits of a block. -/
abbrev Fld.Apart (f g : Fld) : Prop :=
  f.stride % 32 = 0 ∧ g.stride % 32 = 0 ∧ (32 * f.off + f.lo) % 1024 ≠ (32 * g.off + g.lo) % 1024

theorem regKey_mod_block (f : Fld) (seat i : Nat) (h : f.stride % 32 = 0) : regKey f seat i % 1024 = (32 * f.off + f.lo) % 1024 := by
  obtain ⟨k, hk⟩ := Nat.dvd_of_mod_eq_zero h
  have hindex : f.stride * i = 32 * (k * i) := by rw [hk, Nat.mul_assoc]
  rw [regKey, hindex]
  split <;> omega

theorem regKey_ne_of_apart {f g : Fld} (h : f.Apart g) (seat i seat' j : Nat) : regKey g seat' j ≠ regKey f seat i := by
  obtain ⟨hf, hg, hne⟩ := h
  intro heq
  rw [← regKey_mod_block f seat i hf, ← regKey_mod_block g seat' j hg, heq] at hne
  exact hne rfl

theorem State.rdw_wrw_apart (s : State) {f g : Fld} (seat i v seat' j : Nat) (h : f.Apart g) :
    (s.wrw f seat i v).rdw g seat' j = s.rdw g seat' j :=
  State.rdw_wrw_other s f g seat i seat' j v (regKey_ne_of_apart h seat i seat' j)

theorem State.rdw_of_regs {s t : State} (h : t.regs = s.regs) (f : Fld) (seat i : Nat) : t.rdw f seat i = s.rdw f seat i := by
  rw [State.rdw, State.rdw, h]

theorem State.sorted_wrw {s : State} (h : regSorted s.regs = true) (f : Fld) (seat i v : Nat) : regSorted (s.wrw f seat i v).regs = true :=
  regSorted_regSet f seat i v s.regs h

@[simp] theorem State.rdw_cpqMap (s : State) (fn q : Nat) (f : Cpq → Cpq) (g : Fld) (seat i : Nat) :
    (s.cpqMap fn q f).rdw g seat i = s.rdw g seat i := rfl
@[simp] theorem State.rdw_sbqMap (s : State) (fn q : Nat) (f : Sbq → Sbq) (g : Fld) (seat i : Nat) :
    (s.sbqMap fn q f).rdw g seat i = s.rdw g seat i := rfl
@[simp] theorem State.restWake_rdw (s : State) (f : Fld) (seat i : Nat) : s.restWake.rdw f seat i = s.rdw f seat i :=
  State.rdw_of_regs s.restWake_regs f seat i

/-! ## Queues -/

theorem State.cpq_key (s : State) (fn q : Nat) : (s.cpq fn q).fn = fn ∧ (s.cpq fn q).q = q := by
  unfold State.cpq
  cases h : s.host.cpqs.find? (fun c => c.fn == fn && c.q == q) with
  | none => exact ⟨rfl, rfl⟩
  | some c => simpa using List.find?_some h

theorem State.sbq_key (s : State) (fn q : Nat) : (s.sbq fn q).fn = fn ∧ (s.sbq fn q).q = q := by
  unfold State.sbq
  cases h : s.host.sbqs.find? (fun c => c.fn == fn && c.q == q) with
  | none => exact ⟨rfl, rfl⟩
  | some c => simpa using List.find?_some h

/-- A completion queue reads as it was changed last. -/
theorem State.cpq_cpqMap (s : State) (fn q : Nat) {f : Cpq → Cpq} (hfn : (f (s.cpq fn q)).fn = fn) (hq : (f (s.cpq fn q)).q = q) :
    (s.cpqMap fn q f).cpq fn q = f (s.cpq fn q) := by
  have hfound : (f (s.cpq fn q) :: s.host.cpqs.filter (fun c => !(c.fn == fn && c.q == q))).find? (fun c => c.fn == fn && c.q == q) =
      some (f (s.cpq fn q)) := List.find?_cons_of_pos (by simp [hfn, hq])
  exact congrArg (Option.getD · _) hfound

/-- A submission queue reads as it was changed last. -/
theorem State.sbq_sbqMap (s : State) (fn q : Nat) {f : Sbq → Sbq} (hfn : (f (s.sbq fn q)).fn = fn) (hq : (f (s.sbq fn q)).q = q) :
    (s.sbqMap fn q f).sbq fn q = f (s.sbq fn q) := by
  have hfound : (f (s.sbq fn q) :: s.host.sbqs.filter (fun c => !(c.fn == fn && c.q == q))).find? (fun c => c.fn == fn && c.q == q) =
      some (f (s.sbq fn q)) := List.find?_cons_of_pos (by simp [hfn, hq])
  exact congrArg (Option.getD · _) hfound

/-! ## Interrupts and function events -/

/-- The queues and the commands of the host. -/
def State.queues (s : State) : List Sbq × List Cpq × List Cmd := (s.host.sbqs, s.host.cpqs, s.host.cmds)

@[simp] theorem State.queues_wrw (s : State) (f : Fld) (seat i v : Nat) : (s.wrw f seat i v).queues = s.queues := rfl

/-- A vector raised leaves every field but those of a dropped posting as it was (R391, R394). -/
theorem State.rdw_raise (s : State) (seat vector : Nat) {g : Fld} (j i : Nat) (hcount : hstPostDroppedCount.Apart g)
    (hevent : hstFeventPostDropped.Apart g) : (s.raise seat vector).rdw g j i = s.rdw g j i := by
  simp only [State.raise]
  split
  · rfl
  split
  · rfl
  split
  · rfl
  · rw [State.rdw_wrw_apart _ _ _ _ _ _ hevent, State.incw, State.rdw_wrw_apart _ _ _ _ _ _ hcount]

@[simp] theorem State.queues_raise (s : State) (seat vector : Nat) : (s.raise seat vector).queues = s.queues := by
  simp only [State.raise]
  split
  · rfl
  split
  · rfl
  split <;> rfl

@[simp] theorem State.queues_fevent (s : State) (f : Fld) (seat : Nat) : (s.fevent f seat).queues = s.queues := by
  unfold State.fevent
  split
  · rfl
  · exact State.queues_raise _ _ _

/-- A function event leaves the other fields of the windows as they were, but for those of a dropped posting. -/
theorem State.rdw_fevent_apart (s : State) {f g : Fld} (seat j i : Nat) (h : f.Apart g) (hcount : hstPostDroppedCount.Apart g)
    (hevent : hstFeventPostDropped.Apart g) : (s.fevent f seat).rdw g j i = s.rdw g j i := by
  unfold State.fevent
  split
  · rfl
  · rw [State.rdw_raise _ _ _ _ _ hcount hevent, State.rdw_wrw_apart _ _ _ _ _ _ h]

/-- A function event's bit reads 1 (R389). -/
theorem State.rdw_fevent_same {s : State} (hs : regSorted s.regs = true) {f : Fld} (seat : Nat) (hw : f.width = 1)
    (hcount : hstPostDroppedCount.Apart f) (hevent : hstFeventPostDropped.Apart f) : (s.fevent f seat).rdw f seat 0 = 1 := by
  unfold State.fevent
  split
  · assumption
  · rw [State.rdw_raise _ _ _ _ _ hcount hevent, State.rdw_wrw_same _ _ _ _ _ hs, hw]
    rfl

theorem State.rdw_settleCpqIdle (s : State) (fn q : Nat) {g : Fld} (j i : Nat) (h : hstCpqStatusIdle.Apart g) :
    (s.settleCpqIdle fn q).rdw g j i = s.rdw g j i := State.rdw_wrw_apart _ _ _ _ _ _ h

theorem State.rdw_settleSbqIdle (s : State) (fn q : Nat) {g : Fld} (j i : Nat) (h : hstSbqStatusIdle.Apart g) :
    (s.settleSbqIdle fn q).rdw g j i = s.rdw g j i := State.rdw_wrw_apart _ _ _ _ _ _ h

/-! ## Enabling a queue (R377) -/

/-- The vector and the interrupt bit of a completion queue's control word written. -/
def State.cpqControl (s : State) (fn q vector intEn : Nat) : State := (s.wrw hstCpqCtrlVector fn q vector).wrw hstCpqCtrlIntEn fn q intEn

/-- The size and the binding of a submission queue's control word written. -/
def State.sbqControl (s : State) (fn q size cpq : Nat) : State := (s.wrw hstSbqCtrlSizeLog2 fn q size).wrw hstSbqCtrlCpq fn q cpq

/-- A completion queue begun: empty, with its tail at 0 and its phase 1. -/
def State.cpqStarted (s : State) (fn q : Nat) : State :=
  let u := s.cpqMap fn q (fun x => ⟨fn, q, 0, 0, x.reserved, 0, 0, none⟩)
  (((u.wrw hstCpqStatusTail fn q 0).wrw hstCpqStatusPhase fn q 1).wrw hstCpqCtrlEnable fn q 1).settleCpqIdle fn q

/-- A submission queue begun: empty, with its fetch pointer at 0 and its error cleared. -/
def State.sbqStarted (s : State) (fn q : Nat) : State :=
  let u := s.sbqMap fn q (fun _ => ⟨fn, q, 0, 0, 0, [], [], false⟩)
  (((u.wrw hstSbqStatusFetch fn q 0).wrw hstSbqStatusError fn q 0).wrw hstSbqCtrlEnable fn q 1).wrw hstSbqStatusIdle fn q 0

/-- What an enable of a completion queue that is off does, by its size. -/
theorem State.cpqEnable_of_off {s : State} {fn q : Nat} (size vector intEn : Nat) (hoff : s.rdw hstCpqCtrlEnable fn q = 0) :
    s.cpqEnable fn q size vector intEn =
      let u := (s.cpqControl fn q vector intEn).wrw hstCpqCtrlSizeLog2 fn q size
      if size < 4 ∨ 16 < size then u.badQueue fn else u.cpqStarted fn q := by
  have hstill : (s.cpqControl fn q vector intEn).rdw hstCpqCtrlEnable fn q = 0 := by
    simp (disch := decide) only [State.cpqControl, State.rdw_wrw_apart, hoff]
  exact if_neg (fun h => absurd (hstill.symm.trans h) (by decide))

/-- What an enable of a submission queue that is off does, by its size and its completion queue. -/
theorem State.sbqEnable_of_off {s : State} {fn q : Nat} (size cpq : Nat) (hoff : s.rdw hstSbqCtrlEnable fn q = 0) :
    s.sbqEnable fn q size cpq =
      let u := s.sbqControl fn q size cpq
      if size < 6 ∨ 16 < size ∨ s.rdw hstCpqCtrlEnable fn cpq = 0 then u.badQueue fn else u.sbqStarted fn q := by
  have hbound : (s.sbqControl fn q size cpq).rdw hstCpqCtrlEnable fn cpq = s.rdw hstCpqCtrlEnable fn cpq := by
    simp (disch := decide) only [State.sbqControl, State.rdw_wrw_apart]
  rw [← hbound]
  exact if_neg (by rw [hoff]; decide)

@[simp] theorem State.cpqStarted_out (s : State) (fn q : Nat) : (s.cpqStarted fn q).out = s.out := rfl
@[simp] theorem State.sbqStarted_out (s : State) (fn q : Nat) : (s.sbqStarted fn q).out = s.out := rfl
@[simp] theorem State.cpqControl_out (s : State) (fn q vector intEn : Nat) : (s.cpqControl fn q vector intEn).out = s.out := rfl
@[simp] theorem State.cpqControl_host (s : State) (fn q vector intEn : Nat) : (s.cpqControl fn q vector intEn).host = s.host := rfl
@[simp] theorem State.sbqControl_out (s : State) (fn q size cpq : Nat) : (s.sbqControl fn q size cpq).out = s.out := rfl

section
variable {s : State} (hs : regSorted s.regs = true) (fn q : Nat)
include hs

/-- A completion queue begun is on, with its tail at 0 and its phase 1, and nothing written to it. -/
theorem State.cpqStarted_on : let t := s.cpqStarted fn q
    t.rdw hstCpqCtrlEnable fn q = 1 ∧ t.rdw hstCpqStatusTail fn q = 0 ∧ t.rdw hstCpqStatusPhase fn q = 1 ∧ (t.cpq fn q).written = 0 ∧
      (t.cpq fn q).reserved = (s.cpq fn q).reserved := by
  have hqueue : (s.cpqStarted fn q).cpq fn q = ⟨fn, q, 0, 0, (s.cpq fn q).reserved, 0, 0, none⟩ :=
    State.cpq_cpqMap s fn q (f := fun x => ⟨fn, q, 0, 0, x.reserved, 0, 0, none⟩) rfl rfl
  have htail := State.sorted_wrw hs hstCpqStatusTail fn q 0
  refine ⟨?_, ?_, ?_, by rw [hqueue], by rw [hqueue]⟩ <;> simp (disch := decide) only [State.cpqStarted, State.rdw_settleCpqIdle, State.rdw_wrw_apart]
  · exact State.rdw_wrw_same _ hstCpqCtrlEnable fn q 1 (State.sorted_wrw htail _ _ _ _)
  · exact State.rdw_wrw_same _ hstCpqStatusTail fn q 0 hs
  · exact State.rdw_wrw_same _ hstCpqStatusPhase fn q 1 htail

/-- A submission queue begun is on and empty. -/
theorem State.sbqStarted_on : let t := s.sbqStarted fn q
    t.rdw hstSbqCtrlEnable fn q = 1 ∧ t.rdw hstSbqStatusFetch fn q = 0 ∧ t.rdw hstSbqStatusError fn q = 0 ∧ t.rdw hstSbqStatusIdle fn q = 0 ∧
      (t.sbq fn q).posted = 0 ∧ (t.sbq fn q).fetched = 0 := by
  have hqueue : (s.sbqStarted fn q).sbq fn q = ⟨fn, q, 0, 0, 0, [], [], false⟩ :=
    State.sbq_sbqMap s fn q (f := fun _ => ⟨fn, q, 0, 0, 0, [], [], false⟩) rfl rfl
  have hfetch := State.sorted_wrw hs hstSbqStatusFetch fn q 0
  have herror := State.sorted_wrw hfetch hstSbqStatusError fn q 0
  refine ⟨?_, ?_, ?_, ?_, by rw [hqueue], by rw [hqueue]⟩ <;> simp (disch := decide) only [State.sbqStarted, State.rdw_wrw_apart]
  · exact State.rdw_wrw_same _ hstSbqCtrlEnable fn q 1 herror
  · exact State.rdw_wrw_same _ hstSbqStatusFetch fn q 0 hs
  · exact State.rdw_wrw_same _ hstSbqStatusError fn q 0 hfetch
  · exact State.rdw_wrw_same _ hstSbqStatusIdle fn q 0 (State.sorted_wrw herror _ _ _ _)

theorem State.sorted_cpqControl (vector intEn : Nat) : regSorted (s.cpqControl fn q vector intEn).regs = true :=
  State.sorted_wrw (State.sorted_wrw hs _ _ _ _) _ _ _ _

theorem State.rdw_badQueue_event : (s.badQueue fn).rdw hstFeventBadQueue fn 0 = 1 :=
  State.rdw_fevent_same hs fn rfl (by decide) (by decide)

end

theorem State.rdw_badQueue (s : State) (fn : Nat) {g : Fld} (j i : Nat) (h : hstFeventBadQueue.Apart g) (hcount : hstPostDroppedCount.Apart g)
    (hevent : hstFeventPostDropped.Apart g) : (s.badQueue fn).rdw g j i = s.rdw g j i := s.rdw_fevent_apart fn j i h hcount hevent

/-! ## Disabling a queue (R378, R379) -/

/-- A submission queue stopped keeps no packet that is posted or being read (R378). -/
def Sbq.stopped (x : Sbq) : Sbq := { x with reading := [], bells := [], posted := x.fetched, partly := false }

/-- A submission queue stopped: its reservations given back, and no packet left in it. -/
def State.sbqStopped (s : State) (fn q : Nat) : State := (s.unreserve fn q (s.sbq fn q).reading.length).sbqMap fn q Sbq.stopped

theorem State.sbq_sbqStopped (s : State) (fn q : Nat) : (s.sbqStopped fn q).sbq fn q = (s.sbq fn q).stopped :=
  State.sbq_sbqMap _ fn q (State.sbq_key s fn q).1 (State.sbq_key s fn q).2

theorem State.sbqDelete_eq (s : State) (fn q size cpq : Nat) : s.sbqDelete fn q size cpq =
    (((s.sbqStopped fn q).wrw hstSbqCtrlEnable fn q 0).when ((s.sbqStopped fn q).rdw hstSbqCtrlEnable fn q == 0)
      (fun t => t.sbqControl fn q size cpq)).settleSbqIdle fn q := rfl

@[simp] theorem State.settleSbqIdle_host (s : State) (fn q : Nat) : (s.settleSbqIdle fn q).host = s.host := rfl
@[simp] theorem State.settleCpqIdle_host (s : State) (fn q : Nat) : (s.settleCpqIdle fn q).host = s.host := rfl

/-- Beyond stopping the queue, a disable writes its registers alone (R378). -/
theorem State.host_sbqDelete (s : State) (fn q size cpq : Nat) : (s.sbqDelete fn q size cpq).host = (s.sbqStopped fn q).host := by
  rw [State.sbqDelete_eq, State.settleSbqIdle_host,
    State.when_keeps (π := State.host) (f := fun t => t.sbqControl fn q size cpq) _ _ (fun _ => rfl), State.wrw_host]

theorem State.cmds_sbqDelete (s : State) (fn q size cpq : Nat) : (s.sbqDelete fn q size cpq).host.cmds = s.host.cmds :=
  (congrArg HostSt.cmds (s.host_sbqDelete fn q size cpq)).trans rfl

theorem State.sbq_sbqDelete (s : State) (fn q size cpq : Nat) : (s.sbqDelete fn q size cpq).sbq fn q = (s.sbq fn q).stopped := by
  rw [← s.sbq_sbqStopped, State.sbq, State.sbq, State.host_sbqDelete]

/-- A submission queue goes off at once (R378). -/
theorem State.rdw_sbqDelete {s : State} (hs : regSorted s.regs = true) (fn q size cpq : Nat) :
    (s.sbqDelete fn q size cpq).rdw hstSbqCtrlEnable fn q = 0 := by
  have hcontrol : ∀ t : State, (t.sbqControl fn q size cpq).rdw hstSbqCtrlEnable fn q = t.rdw hstSbqCtrlEnable fn q := fun t => by
    simp (disch := decide) only [State.sbqControl, State.rdw_wrw_apart]
  rw [State.sbqDelete_eq, State.rdw_settleSbqIdle _ _ _ _ _ (by decide),
    State.when_keeps (π := fun t : State => t.rdw hstSbqCtrlEnable fn q) _ _ hcontrol]
  exact State.rdw_wrw_same _ hstSbqCtrlEnable fn q 0 (State.sorted_wrw hs hstCpqStatusIdle _ _ _)

/-- A completion queue that is on stays on while an enabled submission queue is bound to it, and else goes off (R379). -/
theorem State.cpqDelete_of_on {s : State} {fn q : Nat} (size vector intEn : Nat) (hon : s.rdw hstCpqCtrlEnable fn q = 1) (hq : q < 8) :
    s.cpqDelete fn q size vector intEn =
      if (List.range 8).any (fun i => s.rdw hstSbqCtrlEnable fn i == 1 && s.rdw hstSbqCtrlCpq fn i == q) then
        (s.cpqControl fn q vector intEn).badQueue fn
      else ((s.cpqControl fn q vector intEn).wrw hstCpqCtrlEnable fn q 0).settleCpqIdle fn q := by
  have hstill : (s.cpqControl fn q vector intEn).rdw hstCpqCtrlEnable fn q = 1 := by
    simp (disch := decide) only [State.cpqControl, State.rdw_wrw_apart, hon]
  have henable : ∀ i, (s.cpqControl fn q vector intEn).rdw hstSbqCtrlEnable fn i = s.rdw hstSbqCtrlEnable fn i := fun i => by
    simp (disch := decide) only [State.cpqControl, State.rdw_wrw_apart]
  have hbound : ∀ i < 8, (s.cpqControl fn q vector intEn).rdw hstSbqCtrlCpq fn i = s.rdw hstSbqCtrlCpq fn i := fun i hi => by
    have hring : regKey hstSbqCtrlCpq fn i ≠ regKey hstCpqCtrlVector fn q := by
      simp only [regKey, hstSbqCtrlCpq, hstCpqCtrlVector]
      omega
    rw [State.cpqControl, State.rdw_wrw_apart _ _ _ _ _ _ (by decide), State.rdw_wrw_other _ _ _ _ _ _ _ _ hring]
  have hany : (List.range 8).any (fun i => (s.cpqControl fn q vector intEn).rdw hstSbqCtrlEnable fn i == 1 &&
      (s.cpqControl fn q vector intEn).rdw hstSbqCtrlCpq fn i == q) =
      (List.range 8).any (fun i => s.rdw hstSbqCtrlEnable fn i == 1 && s.rdw hstSbqCtrlCpq fn i == q) := by
    rw [Bool.eq_iff_iff, List.any_eq_true, List.any_eq_true]
    exact exists_congr (fun i => and_congr_right (fun hi => by rw [henable, hbound i (List.mem_range.1 hi)]))
  rw [← hany]
  exact if_neg (fun h => absurd (hstill.symm.trans h) (by decide))

/-- A completion queue is idle when it is off and no record of it is reserved (R379). -/
theorem State.idle_settleCpqIdle {s : State} (hs : regSorted s.regs = true) (fn q : Nat) :
    (s.settleCpqIdle fn q).rdw hstCpqStatusIdle fn q = 1 ↔ s.rdw hstCpqCtrlEnable fn q = 0 ∧ (s.cpq fn q).reserved = 0 := by
  rw [State.settleCpqIdle, State.rdw_wrw_same _ _ _ _ _ hs]
  split
  · simp_all [hstCpqStatusIdle]
  · simp_all [hstCpqStatusIdle]

/-- A completion queue that goes off is idle when no record of it is reserved (R379). -/
theorem State.cpqOff {s : State} (hs : regSorted s.regs = true) (fn q : Nat) :
    let t := (s.wrw hstCpqCtrlEnable fn q 0).settleCpqIdle fn q
    t.rdw hstCpqCtrlEnable fn q = 0 ∧ (t.rdw hstCpqStatusIdle fn q = 1 ↔ (s.cpq fn q).reserved = 0) := by
  have hoff : (s.wrw hstCpqCtrlEnable fn q 0).rdw hstCpqCtrlEnable fn q = 0 := State.rdw_wrw_same s hstCpqCtrlEnable fn q 0 hs
  have hqueue : (s.wrw hstCpqCtrlEnable fn q 0).cpq fn q = s.cpq fn q := rfl
  refine ⟨(State.rdw_settleCpqIdle _ _ _ _ _ (by decide)).trans hoff, ?_⟩
  rw [State.idle_settleCpqIdle (State.sorted_wrw hs _ _ _ _), hoff, hqueue]
  exact and_iff_right rfl

/-! ## The commands -/

/-- A ring's control word written by a function that reaches the chip: the chip awake takes it (R764). -/
theorem State.ringWrite_of_access {s : State} {fn : Nat} (f : State → State) (h : s.hostAccess fn = true) : s.ringWrite fn f = f s.restWake :=
  if_pos h

theorem State.cpq_restWake (s : State) (fn q : Nat) : s.restWake.cpq fn q = s.cpq fn q := by rw [State.cpq, State.cpq, s.restWake_host]

theorem State.sbq_restWake (s : State) (fn q : Nat) : s.restWake.sbq fn q = s.sbq fn q := by rw [State.sbq, State.sbq, s.restWake_host]

theorem exec_cpqEnable (fn : Seat) (q : Fin 8) (size : BitVec 5) (vector : Fin 16) (intEn : Bool) (s : State) :
    exec (.cpqEnable fn q size vector intEn) s =
      .next (s.ringWrite fn.val (fun s => s.cpqEnable fn.val q.val size.toNat vector.val (bit intEn))) := rfl

theorem exec_sbqEnable (fn : Seat) (q j : Fin 8) (size : BitVec 5) (s : State) :
    exec (.sbqEnable fn q size j) s = .next (s.ringWrite fn.val (fun s => s.sbqEnable fn.val q.val size.toNat j.val)) := rfl

theorem exec_sbqDelete (fn : Seat) (q j : Fin 8) (size : BitVec 5) (s : State) :
    exec (.sbqDelete fn q size j) s = .next (s.ringWrite fn.val (fun s => s.sbqDelete fn.val q.val size.toNat j.val)) := rfl

theorem exec_cpqDelete (fn : Seat) (q : Fin 8) (size : BitVec 5) (vector : Fin 16) (intEn : Bool) (s : State) :
    exec (.cpqDelete fn q size vector intEn) s =
      .next (s.ringWrite fn.val (fun s => s.cpqDelete fn.val q.val size.toNat vector.val (bit intEn))) := rfl

end Sys2Proof.Machine
end

section
/-!
PROOFS. The queues of a function go on and off (R377 to R379).
-/
namespace Sys2Proof.Claims
open Sys2Proof Sys2Proof.Machine

section
variable {fn : Seat} {q : Fin 8} {s : State} (hsound : s.sound = true) (hacc : s.hostAccess fn.val = true)
include hacc

/-- A write of a ring's control word is the ring's change in the chip awake. -/
theorem answers_cpqEnable (size : BitVec 5) (vector : Fin 16) (intEn : Bool) :
    Answers (.cpqEnable fn q size vector intEn) s (s.restWake.cpqEnable fn.val q.val size.toNat vector.val (bit intEn)) := by
  rw [Answers, exec_cpqEnable, State.ringWrite_of_access _ hacc]

theorem answers_sbqEnable (size : BitVec 5) (j : Fin 8) :
    Answers (.sbqEnable fn q size j) s (s.restWake.sbqEnable fn.val q.val size.toNat j.val) := by
  rw [Answers, exec_sbqEnable, State.ringWrite_of_access _ hacc]

theorem answers_sbqDelete (size : BitVec 5) (j : Fin 8) :
    Answers (.sbqDelete fn q size j) s (s.restWake.sbqDelete fn.val q.val size.toNat j.val) := by
  rw [Answers, exec_sbqDelete, State.ringWrite_of_access _ hacc]

theorem answers_cpqDelete (size : BitVec 5) (vector : Fin 16) (intEn : Bool) :
    Answers (.cpqDelete fn q size vector intEn) s (s.restWake.cpqDelete fn.val q.val size.toNat vector.val (bit intEn)) := by
  rw [Answers, exec_cpqDelete, State.ringWrite_of_access _ hacc]

include hsound

/-- A completion queue that is off comes on, if its size is in its range (R377). -/
theorem answers_cpqEnable_on {size : BitVec 5} (vector : Fin 16) (intEn : Bool) (hoff : s.rdw hstCpqCtrlEnable fn.val q.val = 0)
    (hsize : 4 ≤ size.toNat ∧ size.toNat ≤ 16) :
    ∃ t, Answers (.cpqEnable fn q size vector intEn) s t ∧ t.rdw hstCpqCtrlEnable fn.val q.val = 1 ∧
      t.rdw hstCpqCtrlSizeLog2 fn.val q.val = size.toNat ∧ t.rdw hstCpqCtrlVector fn.val q.val = vector.val ∧
      t.rdw hstCpqStatusTail fn.val q.val = 0 ∧ t.rdw hstCpqStatusPhase fn.val q.val = 1 ∧
      (t.cpq fn.val q.val).written = 0 ∧ (t.cpq fn.val q.val).reserved = (s.cpq fn.val q.val).reserved ∧ t.out = s.out := by
  have hin : ¬(size.toNat < 4 ∨ 16 < size.toNat) := by omega
  have hregs := s.restWake_sorted hsound
  have hcontrol := State.sorted_cpqControl hregs fn.val q.val vector.val (bit intEn)
  obtain ⟨hon, htail, hphase, hwritten, hreserved⟩ :=
    State.cpqStarted_on (State.sorted_wrw hcontrol hstCpqCtrlSizeLog2 fn.val q.val size.toNat) fn.val q.val
  have hanswers := answers_cpqEnable (q := q) hacc size vector intEn
  rw [State.cpqEnable_of_off _ _ _ ((s.restWake_rdw _ _ _).trans hoff), if_neg hin] at hanswers
  refine ⟨_, hanswers, hon, ?_, ?_, htail, hphase, hwritten, ?_, ?_⟩
  · simp (disch := decide) only [State.cpqStarted, State.rdw_settleCpqIdle, State.rdw_wrw_apart, State.rdw_cpqMap]
    exact (State.rdw_wrw_same _ hstCpqCtrlSizeLog2 _ _ _ hcontrol).trans (Nat.mod_eq_of_lt size.isLt)
  · simp (disch := decide) only [State.cpqStarted, State.rdw_settleCpqIdle, State.rdw_wrw_apart, State.rdw_cpqMap, State.cpqControl]
    exact (State.rdw_wrw_same _ hstCpqCtrlVector _ _ _ hregs).trans (Nat.mod_eq_of_lt vector.isLt)
  · rw [hreserved, ← s.cpq_restWake, State.cpq, State.cpq, State.wrw_host, State.cpqControl_host]
  · rw [State.cpqStarted_out, State.wrw_out, State.cpqControl_out, State.restWake_out]

/-- With a size out of its range it stays off, and bad_queue is set (R377). -/
theorem answers_cpqEnable_refused {size : BitVec 5} (vector : Fin 16) (intEn : Bool) (hoff : s.rdw hstCpqCtrlEnable fn.val q.val = 0)
    (hsize : ¬(4 ≤ size.toNat ∧ size.toNat ≤ 16)) :
    ∃ t, Answers (.cpqEnable fn q size vector intEn) s t ∧ t.rdw hstCpqCtrlEnable fn.val q.val = 0 ∧ t.rdw hstFeventBadQueue fn.val 0 = 1 := by
  have hout : size.toNat < 4 ∨ 16 < size.toNat := by omega
  have hcontrol := State.sorted_cpqControl (s.restWake_sorted hsound) fn.val q.val vector.val (bit intEn)
  have hanswers := answers_cpqEnable (q := q) hacc size vector intEn
  rw [State.cpqEnable_of_off _ _ _ ((s.restWake_rdw _ _ _).trans hoff), if_pos hout] at hanswers
  refine ⟨_, hanswers, ?_, State.rdw_badQueue_event (State.sorted_wrw hcontrol _ _ _ _) _⟩
  simp (disch := decide) only [State.rdw_badQueue, State.rdw_wrw_apart, State.cpqControl, State.restWake_rdw, hoff]

/-- A submission queue that is off comes on empty, if its size is in its range and its completion queue is on (R377). -/
theorem answers_sbqEnable_on {size : BitVec 5} {j : Fin 8} (hoff : s.rdw hstSbqCtrlEnable fn.val q.val = 0)
    (hsize : 6 ≤ size.toNat ∧ size.toNat ≤ 16 ∧ s.rdw hstCpqCtrlEnable fn.val j.val ≠ 0) :
    ∃ t, Answers (.sbqEnable fn q size j) s t ∧ t.rdw hstSbqCtrlEnable fn.val q.val = 1 ∧
      t.rdw hstSbqCtrlSizeLog2 fn.val q.val = size.toNat ∧ t.rdw hstSbqCtrlCpq fn.val q.val = j.val ∧
      t.rdw hstSbqStatusFetch fn.val q.val = 0 ∧ t.rdw hstSbqStatusError fn.val q.val = 0 ∧
      t.rdw hstSbqStatusIdle fn.val q.val = 0 ∧ (t.sbq fn.val q.val).posted = 0 ∧ (t.sbq fn.val q.val).fetched = 0 ∧ t.out = s.out := by
  obtain ⟨hlo, hhi, hbound⟩ := hsize
  have hin : ¬(size.toNat < 6 ∨ 16 < size.toNat ∨ s.restWake.rdw hstCpqCtrlEnable fn.val j.val = 0) := by
    rw [State.restWake_rdw]; omega
  have hregs := s.restWake_sorted hsound
  have hsized := State.sorted_wrw hregs hstSbqCtrlSizeLog2 fn.val q.val size.toNat
  obtain ⟨hon, hfetch, herror, hidle, hposted, hfetched⟩ :=
    State.sbqStarted_on (State.sorted_wrw hsized hstSbqCtrlCpq fn.val q.val j.val) fn.val q.val
  have hanswers := answers_sbqEnable (q := q) hacc size j
  rw [State.sbqEnable_of_off _ _ ((s.restWake_rdw _ _ _).trans hoff), if_neg hin] at hanswers
  refine ⟨_, hanswers, hon, ?_, ?_, hfetch, herror, hidle, hposted, hfetched, ?_⟩
  · simp (disch := decide) only [State.sbqStarted, State.rdw_wrw_apart, State.rdw_sbqMap, State.sbqControl]
    exact (State.rdw_wrw_same _ hstSbqCtrlSizeLog2 _ _ _ hregs).trans (Nat.mod_eq_of_lt size.isLt)
  · simp (disch := decide) only [State.sbqStarted, State.rdw_wrw_apart, State.rdw_sbqMap, State.sbqControl]
    exact (State.rdw_wrw_same _ hstSbqCtrlCpq _ _ _ hsized).trans (Nat.mod_eq_of_lt j.isLt)
  · rw [State.sbqStarted_out, State.sbqControl_out, State.restWake_out]

/-- Otherwise it stays off, and bad_queue is set (R377). -/
theorem answers_sbqEnable_refused {size : BitVec 5} {j : Fin 8} (hoff : s.rdw hstSbqCtrlEnable fn.val q.val = 0)
    (hsize : ¬(6 ≤ size.toNat ∧ size.toNat ≤ 16 ∧ s.rdw hstCpqCtrlEnable fn.val j.val ≠ 0)) :
    ∃ t, Answers (.sbqEnable fn q size j) s t ∧ t.rdw hstSbqCtrlEnable fn.val q.val = 0 ∧ t.rdw hstFeventBadQueue fn.val 0 = 1 := by
  have hout : size.toNat < 6 ∨ 16 < size.toNat ∨ s.restWake.rdw hstCpqCtrlEnable fn.val j.val = 0 := by
    rw [State.restWake_rdw]; omega
  have hsized := State.sorted_wrw (s.restWake_sorted hsound) hstSbqCtrlSizeLog2 fn.val q.val size.toNat
  have hanswers := answers_sbqEnable (q := q) hacc size j
  rw [State.sbqEnable_of_off _ _ ((s.restWake_rdw _ _ _).trans hoff), if_pos hout] at hanswers
  refine ⟨_, hanswers, ?_, State.rdw_badQueue_event (State.sorted_wrw hsized _ _ _ _) _⟩
  simp (disch := decide) only [State.rdw_badQueue, State.rdw_wrw_apart, State.sbqControl, State.restWake_rdw, hoff]

/-- A submission queue goes off at once, and its packets with it; the commands fetched from it stay (R378). -/
theorem answers_sbqDelete_off (size : BitVec 5) (j : Fin 8) :
    ∃ t, Answers (.sbqDelete fn q size j) s t ∧ t.rdw hstSbqCtrlEnable fn.val q.val = 0 ∧ (t.sbq fn.val q.val).reading = [] ∧
      (t.sbq fn.val q.val).posted = (s.sbq fn.val q.val).fetched ∧ (t.sbq fn.val q.val).bells = [] ∧ t.host.cmds = s.host.cmds := by
  have hqueue := s.restWake.sbq_sbqDelete fn.val q.val size.toNat j.val
  rw [State.sbq_restWake] at hqueue
  refine ⟨_, answers_sbqDelete hacc size j, State.rdw_sbqDelete (s.restWake_sorted hsound) .., ?_, ?_, ?_, ?_⟩
  · rw [hqueue]; rfl
  · rw [hqueue]; rfl
  · rw [hqueue]; rfl
  · rw [State.cmds_sbqDelete, State.restWake_host]

variable (hon : s.rdw hstCpqCtrlEnable fn.val q.val = 1) (size : BitVec 5) (vector : Fin 16) (intEn : Bool)
include hon

/-- A completion queue that an enabled submission queue is bound to stays on, and bad_queue is set (R379). -/
theorem answers_cpqDelete_bound (hbound : ∃ i < 8, s.rdw hstSbqCtrlEnable fn.val i = 1 ∧ s.rdw hstSbqCtrlCpq fn.val i = q.val) :
    ∃ t, Answers (.cpqDelete fn q size vector intEn) s t ∧ t.rdw hstCpqCtrlEnable fn.val q.val = 1 ∧ t.rdw hstFeventBadQueue fn.val 0 = 1 := by
  have hany : (List.range 8).any (fun i => s.restWake.rdw hstSbqCtrlEnable fn.val i == 1 && s.restWake.rdw hstSbqCtrlCpq fn.val i == q.val) = true := by
    simpa using hbound
  have hanswers := answers_cpqDelete (q := q) hacc size vector intEn
  rw [State.cpqDelete_of_on _ _ _ ((s.restWake_rdw _ _ _).trans hon) q.isLt, if_pos hany] at hanswers
  refine ⟨_, hanswers, ?_, State.rdw_badQueue_event (State.sorted_cpqControl (s.restWake_sorted hsound) _ _ _ _) _⟩
  simp (disch := decide) only [State.rdw_badQueue, State.rdw_wrw_apart, State.cpqControl, State.restWake_rdw, hon]

/-- Any other goes off, and is idle when no record of it is reserved (R379). -/
theorem answers_cpqDelete_free (hfree : ∀ i < 8, s.rdw hstSbqCtrlEnable fn.val i = 1 → s.rdw hstSbqCtrlCpq fn.val i ≠ q.val) :
    ∃ t, Answers (.cpqDelete fn q size vector intEn) s t ∧ t.rdw hstCpqCtrlEnable fn.val q.val = 0 ∧
      (t.rdw hstCpqStatusIdle fn.val q.val = 1 ↔ (s.cpq fn.val q.val).reserved = 0) := by
  have hnone : ¬(List.range 8).any (fun i => s.restWake.rdw hstSbqCtrlEnable fn.val i == 1 && s.restWake.rdw hstSbqCtrlCpq fn.val i == q.val) = true := by
    simpa using hfree
  have hanswers := answers_cpqDelete (q := q) hacc size vector intEn
  rw [State.cpqDelete_of_on _ _ _ ((s.restWake_rdw _ _ _).trans hon) q.isLt, if_neg hnone] at hanswers
  obtain ⟨hoff, hidle⟩ := State.cpqOff (State.sorted_cpqControl (s.restWake_sorted hsound) fn.val q.val vector.val (bit intEn)) fn.val q.val
  refine ⟨_, hanswers, hoff, hidle.trans ?_⟩
  rw [← s.cpq_restWake, State.cpq, State.cpq, State.cpqControl_host]

end

/-- Settles O24: each enable by what it asks for, and each disable by what is bound to the queue. -/
theorem queuesGoOnAndOff : Obligations.QueuesGoOnAndOff := by
  refine ⟨fun fn q j size vector intEn s hs hacc => ⟨fun hoff => ?_, fun hoff => ?_⟩,
    fun fn q j size vector intEn s hs hacc => ⟨?_, fun hon => ⟨?_, ?_⟩⟩⟩
  · split
    · exact answers_cpqEnable_on hs hacc vector intEn hoff ‹_›
    · exact answers_cpqEnable_refused hs hacc vector intEn hoff ‹_›
  · split
    · exact answers_sbqEnable_on hs hacc hoff ‹_›
    · exact answers_sbqEnable_refused hs hacc hoff ‹_›
  · exact answers_sbqDelete_off hs hacc size j
  · exact answers_cpqDelete_bound hs hacc hon size vector intEn
  · exact answers_cpqDelete_free hs hacc hon size vector intEn

end Sys2Proof.Claims
end

section
/-!
LAWS. The completion record of a host's command (R375, R386, R394, R430): what is written where it may be posted, and what is left where it may not.
-/
namespace Sys2Proof.Machine

/-! ## A posting that is dropped (R394) -/

/-- Nothing is sent under the identity of a function that may not post. -/
theorem State.out_raise_dropped {s : State} {seat : Nat} (vector : Nat) (h : (s.fn seat).canPost = false) : (s.raise seat vector).out = s.out := by
  simp only [State.raise, h]
  split
  · rfl
  split <;> rfl

theorem State.out_fevent_dropped {s : State} {seat : Nat} (f : Fld) (h : (s.fn seat).canPost = false) : (s.fevent f seat).out = s.out := by
  unfold State.fevent
  split
  · rfl
  · exact State.out_raise_dropped (s := s.wrw f seat 0 1) 8 h

theorem State.post_dropped {s : State} {seat : Nat} (addr : Nat) (bytes : Bytes) (h : (s.fn seat).canPost = false) :
    s.post seat addr bytes = (s.incw hstPostDroppedCount seat).fevent hstFeventPostDropped seat := by simp [State.post, h]

theorem State.post_sent {s : State} {seat : Nat} (addr : Nat) (bytes : Bytes) (h : (s.fn seat).canPost = true) :
    s.post seat addr bytes = s.emit (.hostWrite seat addr bytes false) := by simp [State.post, h]

/-- A dropped posting sets post_dropped, which raising a vector leaves set. -/
theorem State.rdw_fevent_postDropped {s : State} (hs : regSorted s.regs = true) (seat : Nat) :
    (s.fevent hstFeventPostDropped seat).rdw hstFeventPostDropped seat 0 = 1 := by
  have hset : ∀ t : State, regSorted t.regs = true → (t.wrw hstFeventPostDropped seat 0 1).rdw hstFeventPostDropped seat 0 = 1 :=
    fun t ht => State.rdw_wrw_same t hstFeventPostDropped seat 0 1 ht
  unfold State.fevent
  split
  · assumption
  · simp only [State.raise]
    split
    · exact hset s hs
    split
    · exact hset s hs
    split
    · exact hset s hs
    · exact hset _ (State.sorted_wrw (State.sorted_wrw hs _ _ _ _) _ _ _ _)

/-! ## The record (R386, R430) -/

/-- The completion record of a command, at the tail of its ring. -/
def State.completionOut (s : State) (c : Cmd) (status orig tag measure location count receipt : Nat) : Out :=
  .hostWrite c.seat (s.rdw hstCpqBaseLoAddr c.seat c.cpq + 2 ^ 32 * s.rdw hstCpqBaseHiAddr c.seat c.cpq + 32 * s.rdw hstCpqStatusTail c.seat c.cpq)
    (completionBytes status orig (s.rdw hstCpqStatusPhase c.seat c.cpq) c.queue tag (s.rdw hstSbqStatusFetch c.seat c.queue) c.seq measure
      location count (if c.flags.testBit 3 then 0 else receipt) (c.flags.testBit 3)) false

/-- The tail of a completion ring moved on by a record; the phase turns where the ring wraps (R375). -/
def State.tailMoved (s : State) (fn q : Nat) : State :=
  let tail := s.rdw hstCpqStatusTail fn q
  let wrap := 2 ^ s.rdw hstCpqCtrlSizeLog2 fn q ≤ tail + 1
  (s.wrw hstCpqStatusTail fn q (if wrap then 0 else tail + 1)).when (decide wrap)
    (fun t => t.wrw hstCpqStatusPhase fn q (1 - s.rdw hstCpqStatusPhase fn q))

theorem State.rdw_tailMoved (s : State) (fn q : Nat) {g : Fld} (j i : Nat) (htail : hstCpqStatusTail.Apart g) (hphase : hstCpqStatusPhase.Apart g) :
    (s.tailMoved fn q).rdw g j i = s.rdw g j i := by
  rw [State.tailMoved, State.when_keeps (π := fun t : State => t.rdw g j i) _ _ (fun t => t.rdw_wrw_apart _ _ _ _ _ hphase)]
  exact s.rdw_wrw_apart _ _ _ _ _ htail

/-- A record written: a reservation used, and one record more for the host to return. -/
def State.recordWritten (s : State) (fn q : Nat) : State :=
  s.cpqMap fn q (fun x => { x with reserved := x.reserved - 1, written := x.written + 1 })

/-- With the ring's interrupt off, a record that may be posted is sent and moves the tail on, and nothing more (R386). -/
theorem State.writeCompletion_posted {s : State} {c : Cmd} (status orig tag measure location count receipt : Nat)
    (hpost : (s.fn c.seat).canPost = true) (hint : s.rdw hstCpqCtrlIntEn c.seat c.cpq = 0) :
    s.writeCompletion c status orig tag measure location count receipt =
      (((s.emit (s.completionOut c status orig tag measure location count receipt)).tailMoved c.seat c.cpq).recordWritten c.seat c.cpq).settleCpqIdle
        c.seat c.cpq := by
  have hoff : (((s.emit (s.completionOut c status orig tag measure location count receipt)).tailMoved c.seat c.cpq).recordWritten c.seat
      c.cpq).rdw hstCpqCtrlIntEn c.seat c.cpq = 0 := (State.rdw_tailMoved _ _ _ _ _ (by decide) (by decide)).trans hint
  simp only [State.writeCompletion, hpost, Bool.not_true, Bool.false_eq_true, if_false, State.post_sent _ _ hpost]
  refine congrArg (fun t : State => t.settleCpqIdle c.seat c.cpq) ?_
  refine (congrArg (fun n : Nat => State.when _ (n == 1) _) hoff).trans ?_
  rfl

/-- A record that may not be posted is counted and gives its reservation back; its place stays the next one (R394). -/
theorem State.writeCompletion_dropped {s : State} {c : Cmd} (status orig tag measure location count receipt : Nat)
    (hpost : (s.fn c.seat).canPost = false) :
    s.writeCompletion c status orig tag measure location count receipt =
      (((s.incw hstPostDroppedCount c.seat).fevent hstFeventPostDropped c.seat).cpqMap c.seat c.cpq
        (fun x => { x with reserved := x.reserved - 1 })).settleCpqIdle c.seat c.cpq := by
  simp only [State.writeCompletion, hpost, Bool.not_false, if_true, State.post_dropped _ _ hpost]

/-! ## The replay window beside a record -/

@[simp] theorem State.window_when (s : State) (b : Bool) (f : State → State) :
    (s.when b f).host.window = if b then (f s).host.window else s.host.window := by cases b <;> rfl

@[simp] theorem State.window_ite (p : Prop) [Decidable p] (s t : State) :
    (if p then s else t).host.window = if p then s.host.window else t.host.window := apply_ite (fun t : State => t.host.window) p s t

@[simp] theorem State.window_raise (s : State) (seat vector : Nat) : (s.raise seat vector).host.window = s.host.window := by
  simp only [State.raise]
  split
  · rfl
  split
  · rfl
  split <;> rfl

@[simp] theorem State.window_fevent (s : State) (f : Fld) (seat : Nat) : (s.fevent f seat).host.window = s.host.window := by
  unfold State.fevent
  split
  · rfl
  · exact State.window_raise _ _ _

@[simp] theorem State.window_post (s : State) (seat addr : Nat) (b : Bytes) (r : Bool) : (s.post seat addr b r).host.window = s.host.window := by
  unfold State.post
  split
  · rfl
  · exact State.window_fevent _ _ _

@[simp] theorem State.window_cpqMap (s : State) (fn q : Nat) (f : Cpq → Cpq) : (s.cpqMap fn q f).host.window = s.host.window := rfl

@[simp] theorem State.window_sendPending (s : State) (fn q : Nat) : (s.sendPending fn q).host.window = s.host.window := by
  unfold State.sendPending
  split
  · rfl
  · exact State.window_raise _ _ _

theorem State.window_writeCompletion (s : State) (c : Cmd) (st orig tag m l n r : Nat) :
    (s.writeCompletion c st orig tag m l n r).host.window = s.host.window := by
  simp [State.writeCompletion]

/-! ## A command of the host that the replay window does not track -/

/-- The energy that a completion of a host's command charges (R432 to R434). -/
def State.chargeOf (s : State) (c : Cmd) : Nat := s.estimate (s.spentBy c (if (s.fn c.seat).canPost then 32 else 0)) + s.plaited c.cid

/-- The energy is charged to the seat, and the command's record written. -/
def State.recorded (s : State) (c : Cmd) : State :=
  (s.charge c.seat (s.chargeOf c)).writeCompletion c stOk 0 c.tag s.measure 0 0 (min (s.chargeOf c) 0xFFFFFFFF)

/-- Resends wait for tracked commands alone. -/
theorem State.wakeDuplicates_of_unlisted {s : State} {c : Cmd} (h : s.host.window.all (fun e => e.cid != c.cid) = true) : s.wakeDuplicates c = s := by
  have hnone : s.host.window.find? (fun e => e.cid == c.cid) = none := by simpa using h
  rw [State.wakeDuplicates, hnone]

/-- An untracked command of the host that completes with OK is recorded, counted and gone. -/
theorem State.completeOk_untracked {s : State} {c : Cmd} (horigin : c.origin = 0) (hquiet : c.quiet = false) (hop : tracked c.opcode = false)
    (hwindow : s.host.window.all (fun e => e.cid != c.cid) = true) :
    s.completeOk c 0 0 = ((s.recorded c).countStatus c.seat stOk).dropCmd c := by
  have hfinish : s.finish c stOk s.measure 0 0 true = ((s.recorded c).countStatus c.seat stOk).dropCmd c := by
    simp [State.finish, State.finishHost, horigin, hquiet, hop, State.recorded, State.chargeOf]
  have hkept : (((s.recorded c).countStatus c.seat stOk).dropCmd c).host.window = s.host.window :=
    (State.window_writeCompletion _ _ _ _ _ _ _ _ _ : (s.recorded c).host.window = _)
  rw [State.completeOk, State.complete, hfinish, State.wakeDuplicates_of_unlisted (by rwa [hkept])]

/-- A field of the rings' blocks beside the commands: taking a command off the list settles its submission queue's idle bit alone. -/
theorem State.rdw_dropCmd (s : State) (c : Cmd) (seat status : Nat) {g : Fld} (j i : Nat) (h : hstSbqStatusIdle.Apart g) :
    ((s.countStatus seat status).dropCmd c).rdw g j i = s.rdw g j i := State.rdw_settleSbqIdle _ _ _ j i h

theorem State.out_dropCmd (s : State) (c : Cmd) (seat status : Nat) : ((s.countStatus seat status).dropCmd c).out = s.out := rfl

/-- The chip beside its host side, its registers and its power state. -/
def State.core (s : State) : Store × Mem × Weave × Sweep × Rerank × Clock := (s.store, s.mem, s.weave, s.sweep, s.rr, s.clk)

theorem State.core_dropCmd (s : State) (c : Cmd) (seat status : Nat) : ((s.countStatus seat status).dropCmd c).core = s.core := rfl

theorem State.core_eq_iff {s t : State} :
    t.core = s.core ↔ t.store = s.store ∧ t.mem = s.mem ∧ t.weave = s.weave ∧ t.sweep = s.sweep ∧ t.rr = s.rr ∧ t.clk = s.clk := by
  simp [State.core]

@[simp] theorem State.rdw_charge (s : State) (seat nj : Nat) (g : Fld) (j i : Nat) : (s.charge seat nj).rdw g j i = s.rdw g j i := rfl
@[simp] theorem State.rdw_recordWritten (s : State) (fn q : Nat) (g : Fld) (j i : Nat) : (s.recordWritten fn q).rdw g j i = s.rdw g j i := rfl

@[simp] theorem State.tailMoved_out (s : State) (fn q : Nat) : (s.tailMoved fn q).out = s.out :=
  State.when_keeps (π := State.out) _ _ (fun _ => rfl)

@[simp] theorem State.core_tailMoved (s : State) (fn q : Nat) : (s.tailMoved fn q).core = s.core :=
  State.when_keeps (π := State.core) _ _ (fun _ => rfl)

section
variable {s : State} (hs : regSorted s.regs = true)
include hs

/-- The tail after a record: the next slot, or slot 0 where the ring wraps. -/
theorem State.rdw_tailMoved_tail (fn q : Nat) : (s.tailMoved fn q).rdw hstCpqStatusTail fn q =
    (if 2 ^ s.rdw hstCpqCtrlSizeLog2 fn q ≤ s.rdw hstCpqStatusTail fn q + 1 then 0 else s.rdw hstCpqStatusTail fn q + 1) %
      2 ^ hstCpqStatusTail.width := by
  rw [State.tailMoved, State.when_keeps (π := fun t : State => t.rdw hstCpqStatusTail fn q) _ _ (fun t => t.rdw_wrw_apart _ _ _ _ _ (by decide))]
  exact State.rdw_wrw_same s hstCpqStatusTail fn q _ hs

/-- The phase after a record: it turns where the ring wraps. -/
theorem State.rdw_tailMoved_phase (fn q : Nat) : (s.tailMoved fn q).rdw hstCpqStatusPhase fn q =
    if 2 ^ s.rdw hstCpqCtrlSizeLog2 fn q ≤ s.rdw hstCpqStatusTail fn q + 1 then (1 - s.rdw hstCpqStatusPhase fn q) % 2
    else s.rdw hstCpqStatusPhase fn q := by
  simp only [State.tailMoved, State.when, decide_eq_true_eq]
  split
  · exact State.rdw_wrw_same _ hstCpqStatusPhase fn q _ (State.sorted_wrw hs _ _ _ _)
  · exact State.rdw_wrw_apart _ _ _ _ _ _ (by decide)

/-- A record that may be posted is sent from the ring's tail, and only the ring moves on (R386). -/
theorem State.recorded_posted {c : Cmd} (hpost : (s.fn c.seat).canPost = true) (hint : s.rdw hstCpqCtrlIntEn c.seat c.cpq = 0) :
    (s.recorded c).out = s.out ++ [s.completionOut c stOk 0 c.tag s.measure 0 0 (min (s.chargeOf c) 0xFFFFFFFF)] ∧
      (s.recorded c).rdw hstCpqStatusTail c.seat c.cpq =
        (if 2 ^ s.rdw hstCpqCtrlSizeLog2 c.seat c.cpq ≤ s.rdw hstCpqStatusTail c.seat c.cpq + 1 then 0
          else s.rdw hstCpqStatusTail c.seat c.cpq + 1) % 2 ^ hstCpqStatusTail.width ∧
      (s.recorded c).rdw hstCpqStatusPhase c.seat c.cpq =
        (if 2 ^ s.rdw hstCpqCtrlSizeLog2 c.seat c.cpq ≤ s.rdw hstCpqStatusTail c.seat c.cpq + 1 then
          (1 - s.rdw hstCpqStatusPhase c.seat c.cpq) % 2 else s.rdw hstCpqStatusPhase c.seat c.cpq) ∧
      (s.recorded c).core = s.core := by
  have hrecord := State.writeCompletion_posted (s := s.charge c.seat (s.chargeOf c)) stOk 0 c.tag s.measure 0 0 (min (s.chargeOf c) 0xFFFFFFFF) hpost hint
  have hsent : ∀ o : Out, regSorted ((s.charge c.seat (s.chargeOf c)).emit o).regs = true := fun _ => hs
  rw [State.recorded, hrecord]
  refine ⟨State.tailMoved_out _ _ _, ?_, ?_, State.core_tailMoved _ _ _⟩
  · rw [State.rdw_settleCpqIdle _ _ _ _ _ (by decide), State.rdw_recordWritten, State.rdw_tailMoved_tail (hsent _)]
    rfl
  · rw [State.rdw_settleCpqIdle _ _ _ _ _ (by decide), State.rdw_recordWritten, State.rdw_tailMoved_phase (hsent _)]
    rfl

/-- A record that may not be posted leaves the ring's tail and sets post_dropped (R394). -/
theorem State.recorded_dropped {c : Cmd} (hpost : (s.fn c.seat).canPost = false) :
    (s.recorded c).out = s.out ∧ (s.recorded c).rdw hstCpqStatusTail c.seat c.cpq = s.rdw hstCpqStatusTail c.seat c.cpq ∧
      (s.recorded c).rdw hstFeventPostDropped c.seat 0 = 1 := by
  have hrecord := State.writeCompletion_dropped (s := s.charge c.seat (s.chargeOf c)) stOk 0 c.tag s.measure 0 0 (min (s.chargeOf c) 0xFFFFFFFF) hpost
  have hcounted : regSorted ((s.charge c.seat (s.chargeOf c)).incw hstPostDroppedCount c.seat).regs = true := State.sorted_wrw hs _ _ _ _
  rw [State.recorded, hrecord]
  refine ⟨?_, ?_, ?_⟩
  · exact State.out_fevent_dropped (s := (s.charge c.seat (s.chargeOf c)).incw hstPostDroppedCount c.seat) hstFeventPostDropped hpost
  · rw [State.rdw_settleCpqIdle _ _ _ _ _ (by decide), State.rdw_cpqMap, State.rdw_fevent_apart _ _ _ _ (by decide) (by decide) (by decide),
      State.incw, State.rdw_wrw_apart _ _ _ _ _ _ (by decide), State.rdw_charge]
  · rw [State.rdw_settleCpqIdle _ _ _ _ _ (by decide), State.rdw_cpqMap]
    exact State.rdw_fevent_postDropped hcounted c.seat

end

theorem exec_ping (cid : Nat) (s : State) : exec (.ping cid) s = .next (s.row cid 0x01 (fun s c => s.completeOk c 0 0)) := rfl

end Sys2Proof.Machine
end

section
/-!
PROOFS. A PING's completion (R386, R413, R430).
-/
namespace Sys2Proof.Claims
open Sys2Proof Sys2Proof.Machine

/-- A PING in hand is recorded, counted and gone: it is no tracked command, and it changes no state but that of its completion (R413). -/
theorem answers_ping {s : State} {cid : Nat} {c : Cmd} (h : hostReady s cid 0x01 c)
    (hwindow : s.host.window.all (fun e => e.cid != cid) = true) :
    Answers (.ping cid) s (((s.recorded c).countStatus c.seat stOk).dropCmd c) ∧ (((s.recorded c).countStatus c.seat stOk).dropCmd c).cmd? cid = none := by
  obtain ⟨hlive, hcmd, hop, hstage, horigin, hquiet, horder⟩ := h
  obtain rfl := State.cmd?_cid hcmd
  have hdone := State.completeOk_untracked horigin hquiet (by rw [hop]; decide) hwindow
  refine ⟨?_, ?_⟩
  · rw [Answers, exec_ping, State.row_of_ready _ hlive hcmd hop hstage horder, hdone]
  · rw [← hdone]
    exact s.complete_cmd? c stOk s.measure 0 0 true

/-- Settles O32: by whether the function may post; the record, the tail and the phase are those of the ring's next slot. -/
theorem pingWritesItsRecord : Obligations.PingWritesItsRecord := by
  intro cid c s hsound hready hwindow tail phase size base
  have hregs := State.regs_sorted hsound
  obtain ⟨hanswers, hgone⟩ := answers_ping hready hwindow
  obtain ⟨-, hcmd, -⟩ := hready
  obtain rfl := State.cmd?_cid hcmd
  refine ⟨fun hpost hint => ?_, fun hpost => ?_⟩
  · obtain ⟨hout, htail, hphase, hcore⟩ := State.recorded_posted hregs hpost hint
    refine ⟨_, hanswers, ?_, ?_, ?_, hgone, State.core_eq_iff.1 ((State.core_dropCmd _ _ _ _).trans hcore)⟩
    · rw [State.chargeOf, hpost] at hout
      exact (State.out_dropCmd _ _ _ _).trans hout
    · exact (State.rdw_dropCmd _ _ _ _ _ _ (by decide)).trans htail
    · exact (State.rdw_dropCmd _ _ _ _ _ _ (by decide)).trans hphase
  · obtain ⟨hout, htail, hdropped⟩ := State.recorded_dropped hregs hpost
    refine ⟨_, hanswers, (State.out_dropCmd _ _ _ _).trans hout, ?_, ?_, hgone, ?_⟩
    · exact (State.rdw_dropCmd _ _ _ _ _ _ (by decide)).trans htail
    · exact (State.rdw_dropCmd _ _ _ _ _ _ (by decide)).trans hdropped
    · exact (State.store_of_besidePosts (State.besidePosts_writeCompletion (s.charge c.seat (s.chargeOf c)) _ _ _ _ _ _ _ _) : (s.recorded c).store = s.store)

end Sys2Proof.Claims
end

section
/-!
LAWS. What a packet read and an operand read bring (R395, R405 to R408): the flits consumed, intake of a PING, and the parts of a command that arrive
at step 12.
-/
namespace Sys2Proof.Machine

/-! ## Step 13 -/

/-- A command that intake has passed (R406 step 13). -/
def Cmd.readied (now : Nat) (slot : Option Nat) (operands : Bytes) (c : Cmd) : Cmd :=
  { c with stage := .ready, fetchedAt := now, tableSlot := slot, operands := operands }

/-- A command with its operands in hand (R408). -/
def Cmd.loaded (operands : Bytes) (c : Cmd) : Cmd := { c with operands := operands }

theorem State.step13_plain {s : State} {c : Cmd} (h : (s.reads12 c).2.2 = 0) :
    s.step13 c = s.cmdMap c.cid (Cmd.readied s.clk.now none (s.groupTaken c)) := if_pos h

/-- A product-code search takes a table slot (R408). -/
theorem State.step13_slot {s : State} {c : Cmd} {i : Nat} (h : (s.reads12 c).2.2 ≠ 0) (hslot : s.tableSlot = some i) :
    s.step13 c = s.cmdMap c.cid (Cmd.readied s.clk.now (some i) (s.groupTaken c)) := by
  simp only [State.step13, if_neg h, hslot]
  rfl

theorem State.cmd?_readied {s : State} {cid : Nat} {c : Cmd} (h : s.cmd? cid = some c) (now : Nat) (slot : Option Nat) (operands : Bytes) :
    (s.cmdMap cid (Cmd.readied now slot operands)).cmd? cid = some (c.readied now slot operands) := by
  rw [State.cmd?_cmdMap _ _ (fun _ => by rfl), h]
  rfl

theorem State.groupTaken_other (s : State) {c : Cmd} (h : c.opcode ≠ 0x48) : s.groupTaken c = c.operands := by
  simp [State.groupTaken, h]

theorem State.sbqs_cmdMap (s : State) (cid : Nat) (f : Cmd → Cmd) : (s.cmdMap cid f).host.sbqs = s.host.sbqs := rfl

/-! ## Intake of a PING (R406, R413) -/

section
variable {c : Cmd} (hop : c.opcode = 0x01) (s : State)
include hop

theorem State.reads12_ping : s.reads12 c = ((0, 0), (0, 0)) := by
  simp [State.reads12, hop]

theorem State.valuesOk_ping : s.valuesOk c = true := by
  unfold State.valuesOk
  split
  · rfl
  · simp [hop, isSearch]

/-- A PING has an empty parameter block, and no other check of step 11 (R413). -/
theorem State.step11_ping (hparam : c.param = []) : s.step11 c = stOk := by
  simp [State.step11, paramLen, hop, hparam]

/-- From step 7 on nothing holds a PING back. -/
theorem State.step7_ping (hparam : c.param = []) :
    s.step7 c = (s.cmdMap c.cid (Cmd.loaded c.operands)).cmdMap c.cid (Cmd.readied s.clk.now none c.operands) := by
  have h11 := State.step11_ping hop s hparam
  have hreads : ∀ t : State, t.startReads c = t.cmdMap c.cid (Cmd.readied t.clk.now none c.operands) := fun t => by
    have hnone : (t.reads12 c).2.2 = 0 := by rw [State.reads12_ping hop]
    have hall : (t.reads12 c).1.2 + (t.reads12 c).2.2 = 0 := by simp only [State.reads12_ping hop]
    rw [State.startReads, if_pos hall, State.step12, if_pos (State.valuesOk_ping hop t), State.step13_plain hnone,
      t.groupTaken_other (by rw [hop]; decide)]
  have h9 : s.step9 c = (s.cmdMap c.cid (Cmd.loaded c.operands)).startReads c := by
    have hnamed : (namesShelf c.opcode c.param && c.opcode != 0x28) = false := by simp [hop, namesShelf]
    have hpass : isPass c.opcode = false := by rw [hop]; decide
    simp only [State.step9, hnamed, h11, hpass, Bool.false_and, Bool.false_eq_true, if_false, ne_eq, not_true, false_and]
    rfl
  rw [State.step7, if_neg, if_neg, h9, hreads]
  · rfl
  · simp [hop, isPass, isMutation]
  · simp [hop, ownerOnly, headOnly]

end

/-- A fetched command in hand, before its checks (R406). -/
def State.takenIn (s : State) (c : Cmd) : State := (s.addCmd c).clkMap (fun k => { k with fetched := true })

/-- The owner's lease renewed by a command of the owner (R522). -/
def State.leased (s : State) (c : Cmd) : State :=
  s.when (s.owner? == some c.seat) (fun s => s.wr ownLeaseLeftMeasures 0 (s.rd ownLeaseLength))

theorem State.leased_host (s : State) (c : Cmd) : (s.leased c).host = s.host := State.when_keeps (π := State.host) _ _ (fun _ => rfl)
theorem State.leased_out (s : State) (c : Cmd) : (s.leased c).out = s.out := State.when_keeps (π := State.out) _ _ (fun _ => rfl)
theorem State.leased_clk (s : State) (c : Cmd) : (s.leased c).clk = s.clk := State.when_keeps (π := State.clk) _ _ (fun _ => rfl)

/-- A packet whose CRC is wrong is counted and refused (R406). -/
theorem State.intake_badCrc (s : State) (c : Cmd) {p : Bytes} (hlo : 32 ≤ (headerOf p).length) (hhi : (headerOf p).length ≤ 4096)
    (hcrc : packetCrc (p.take (headerOf p).length) ≠ (headerOf p).crc) : s.intake c p = (s.takenIn c).crcFailed.refuse c stCrc := by
  have hlen : ¬((headerOf p).length < 32 ∨ 4096 < (headerOf p).length) := by omega
  rw [State.intake, if_neg hlen, if_pos hcrc]
  rfl

/-- The header of a good PING of a seat (R400, R403, R413). -/
structure Header.IsPing (h : Header) (seat : Nat) : Prop where
  length : h.length = 32
  version : h.version = 3
  seat : h.seat = seat
  opcode : h.opcode = 0x01
  cls : h.cls ≤ 4
  flagsLow : h.flags % 8 = 0
  flags : h.flags < 16
  reserved : h.reserved = 0
  shelf : h.shelf = 0
  deadline : h.deadline = 0

/-- A good PING of its own seat comes to step 7 of intake (R406). -/
theorem State.intake_ping (s : State) {c : Cmd} {p : Bytes} (hop : c.opcode = 0x01) (hping : (headerOf p).IsPing c.seat)
    (hcrc : packetCrc (p.take 32) = (headerOf p).crc) : s.intake c p = ((s.takenIn c).leased c).step7 c := by
  obtain ⟨hlen, hversion, hseat, hcode, hcls, hlow, hflags, hres, hshelf, hdead⟩ := hping
  have hbits : ∀ i < 3, (headerOf p).flags.testBit i = false := fun i hi => by
    have hcut := Nat.testBit_mod_two_pow (headerOf p).flags 3 i
    rw [hlow] at hcut
    simpa [hi] using hcut.symm
  have hheader : headerOk (headerOf p) c.param = true := by
    simp [headerOk, flagsOk, hcode, hcls, hflags, hres, hshelf, hdead, hbits, knownOp]
  have hin : ¬((headerOf p).length < 32 ∨ 4096 < (headerOf p).length) := by omega
  have htracked : tracked c.opcode = false := by rw [hop]; decide
  have hgood : ¬packetCrc (p.take (headerOf p).length) ≠ (headerOf p).crc := by rw [hlen]; exact not_not.2 hcrc
  rw [State.intake, if_neg hin, if_neg hgood, if_neg (not_not.2 hversion), if_neg (not_not.2 hseat), hheader, htracked]
  rfl

/-- A PING in hand after intake: nothing but its lease and itself has changed. -/
theorem State.intake_ping_ready (s : State) {c : Cmd} (hop : c.opcode = 0x01) (hparam : c.param = []) (hnew : s.cmd? c.cid = none) :
    let v := ((s.takenIn c).leased c).step7 c
    v.cmd? c.cid = some (c.readied s.clk.now none c.operands) ∧ v.out = s.out ∧ v.host.sbqs = s.host.sbqs := by
  have hfound : ((s.takenIn c).leased c).cmd? c.cid = some c := by
    have happ : (s.host.cmds ++ [c]).find? (fun x => x.cid == c.cid) = some c := by
      have hnone : s.host.cmds.find? (fun x => x.cid == c.cid) = none := hnew
      rw [List.find?_append, hnone]
      simp
    rw [State.cmd?, State.leased_host]
    exact happ
  rw [State.step7_ping hop _ hparam]
  refine ⟨?_, ?_, ?_⟩
  · rw [State.cmd?_cmdMap _ _ (fun _ => by rfl), State.cmd?_cmdMap _ _ (fun _ => by rfl), hfound, State.leased_clk]
    rfl
  · rw [State.cmdMap_out, State.cmdMap_out, State.leased_out]
    rfl
  · rw [State.sbqs_cmdMap, State.sbqs_cmdMap, State.leased_host]
    rfl


/-! ## The packet read (R395, R406) -/

/-- The state and the instant at which what arrives at `t` is taken: waiting commands tried again first (R405; log entry 45). -/
abbrev State.taking (s : State) (t : Nat) : State := (s.advance t).retryRooms

theorem State.sound_taking {s : State} (hs : s.sound = true) (t : Nat) : (s.taking t).sound = true :=
  (Follows.refl s).advance.retryRooms.sound hs

section
variable {s : State} {fn q n t : Nat} {rest : List Nat} (hread : (s.sbq fn q).reading = n :: rest) (hl : (s.taking t).live = true)
include hread hl

theorem State.packetRead_failed (p : Bytes) : s.packetRead fn q false p t = some ((s.taking t).packetError fn q) := by
  simp [State.packetRead, hread, hl]

theorem State.packetRead_illFormed {p : Bytes} (h : p.length ≠ 64 * n ∨ flitsOf (headerOf p).length ≠ n) : s.packetRead fn q true p t = none := by
  have hbad : p.length ≠ 64 * n ∨ flitsOf (field p 12 4) ≠ n := h
  simp only [State.packetRead, hread, hl, Bool.not_true, Bool.false_eq_true, if_false, if_pos hbad]

/-- A packet of the flits that were read is consumed and goes through intake (R406). -/
theorem State.packetRead_taken {p : Bytes} (hlen : p.length = 64 * n) (hflits : flitsOf (headerOf p).length = n) :
    let w := (s.taking t).consumeFlits fn q n
    s.packetRead fn q true p t = some (w.1.intake (w.1.packetCmd fn q w.2 p) p) := by
  have hgood : ¬(p.length ≠ 64 * n ∨ flitsOf (field p 12 4) ≠ n) := by
    rw [not_or, not_not, not_not]; exact ⟨hlen, hflits⟩
  simp only [State.packetRead, hread, hl, Bool.not_true, Bool.false_eq_true, if_false, if_neg hgood]

end

/-- A submission queue whose oldest packet of `n` flits has been consumed (R406). -/
def Sbq.consumed (n : Nat) (x : Sbq) : Sbq :=
  { x with fetched := x.fetched + n, reading := x.reading.drop 1, bells := x.bells.filter (fun b => decide (x.fetched + n < b.1)) }

theorem State.sbq_consumeFlits (s : State) (fn q n : Nat) : (s.consumeFlits fn q n).1.sbq fn q = (s.sbq fn q).consumed n :=
  have hkey := s.sbq_key fn q
  s.sbq_sbqMap fn q (f := fun x => { x with
    fetched := (s.sbq fn q).fetched + n, reading := x.reading.drop 1
    bells := x.bells.filter (fun b => decide ((s.sbq fn q).fetched + n < b.1)) }) hkey.1 hkey.2

theorem State.cmds_consumeFlits (s : State) (fn q n : Nat) : (s.consumeFlits fn q n).1.host.cmds = s.host.cmds := rfl
theorem State.nextCid_consumeFlits (s : State) (fn q n : Nat) : (s.consumeFlits fn q n).1.host.nextCid = s.host.nextCid := rfl

theorem State.sorted_consumeFlits {s : State} (h : regSorted s.regs = true) (fn q n : Nat) : regSorted (s.consumeFlits fn q n).1.regs = true :=
  State.sorted_wrw h _ _ _ _

/-- A CRC failure sets its event bit (R406). -/
theorem State.rd_crcFailed {s : State} (h : regSorted s.regs = true) : s.crcFailed.rd zcpEventCrc = 1 := by
  rw [State.crcFailed, State.inc, State.rd_wr_other _ _ _ _ _ _ (by decide)]
  exact State.rd_wr_same s zcpEventCrc 0 1 h

/-! ## A packet read that fails (R395) -/

/-- A contained error is reported outside the function windows (R839, R840). -/
theorem State.rdw_logError_contained (s : State) (kind unit detail : Nat) {code : Nat} (hcode : code < 512) {g : Fld} (hg : g.win = true) (j i : Nat) :
    (s.logError 2 kind unit code detail).rdw g j i = s.rdw g j i := by
  have hchip : ∀ (t : State) (f : Fld) (k v : Nat), f.win = false → f.off + f.stride * k < 2 ^ 24 → f.lo < 32 →
      (t.wr f k v).rdw g j i = t.rdw g j i := by
    intro t f k v hf hoff hlo
    refine State.rdw_wrw_other t f g 0 k j i v ?_
    rw [regKey, regKey, if_pos hg, if_neg (by simp [hf])]
    omega
  unfold State.logError
  extract_lets +lift reported record kept counted coded
  have hreported : reported.rdw g j i = s.rdw g j i := hchip s errEventContained 0 1 rfl (by decide) (by decide)
  have hcounted : counted.rdw g j i = s.rdw g j i := (hchip kept errLogHeadCount 0 _ rfl (by decide) (by decide)).trans hreported
  have hcoded : coded.rdw g j i = s.rdw g j i := by
    refine (hchip counted errCodesBits (code / 32) _ rfl ?_ (by decide)).trans hcounted
    simp only [errCodesBits]
    omega
  split
  · exact (hchip reported errLogDroppedCount 0 _ rfl (by decide) (by decide)).trans hreported
  · exact hcoded

theorem State.host_logError_contained (s : State) (kind unit code detail : Nat) : (s.logError 2 kind unit code detail).host = s.host :=
  (State.aside_eq_iff.1 (s.aside_logError_contained kind unit code detail)).2.1

/-- A submission queue none of whose packets is being read. -/
def Sbq.unread (x : Sbq) : Sbq := { x with reading := [] }

/-- What stops a queue at a failed packet read (R395). -/
def State.sbqFailed (s : State) (fn q : Nat) : State :=
  ((((s.unreserve fn q (s.sbq fn q).reading.length).sbqMap fn q Sbq.unread).wrw hstSbqStatusError fn q 1).fevent hstFeventFetchError fn)

theorem State.packetError_eq (s : State) (fn q : Nat) :
    s.packetError fn q = (s.sbqFailed fn q).logError 2 8 ((s.sbqFailed fn q).portOf fn) 33 (fn + 65536 * q) := rfl

theorem State.host_packetError (s : State) (fn q : Nat) : (s.packetError fn q).host = (s.sbqFailed fn q).host := by
  rw [State.packetError_eq, State.host_logError_contained]

theorem State.queues_sbqFailed (s : State) (fn q : Nat) :
    (s.sbqFailed fn q).queues = ((s.unreserve fn q (s.sbq fn q).reading.length).sbqMap fn q Sbq.unread).queues := by
  rw [State.sbqFailed, State.queues_fevent, State.queues_wrw]

/-- A failed packet read stops its queue: nothing is being read for it any more, its error is set and fetch_error with it (R395). -/
theorem State.packetError_stops {s : State} (hs : regSorted s.regs = true) (fn q : Nat) :
    ((s.packetError fn q).sbq fn q).reading = [] ∧ (s.packetError fn q).rdw hstSbqStatusError fn q = 1 ∧
      (s.packetError fn q).rdw hstFeventFetchError fn 0 = 1 ∧ (s.packetError fn q).host.cmds = s.host.cmds := by
  have hqueue : (s.sbqFailed fn q).sbq fn q = (s.sbq fn q).unread := by
    have hlist : (s.sbqFailed fn q).host.sbqs = _ := congrArg Prod.fst (s.queues_sbqFailed fn q)
    rw [State.sbq, hlist]
    exact State.sbq_sbqMap _ fn q (State.sbq_key s fn q).1 (State.sbq_key s fn q).2
  have hcmds : (s.sbqFailed fn q).host.cmds = s.host.cmds := congrArg (fun p => p.2.2) (s.queues_sbqFailed fn q)
  have hfreed : regSorted ((s.unreserve fn q (s.sbq fn q).reading.length).sbqMap fn q Sbq.unread).regs = true := State.sorted_wrw hs _ _ _ _
  refine ⟨?_, ?_, ?_, ?_⟩
  · rw [State.sbq, State.host_packetError, ← State.sbq, hqueue]
    rfl
  · rw [State.packetError_eq, State.rdw_logError_contained _ _ _ _ (by decide) rfl, State.sbqFailed,
      State.rdw_fevent_apart _ _ _ _ (by decide) (by decide) (by decide)]
    exact State.rdw_wrw_same _ hstSbqStatusError fn q 1 hfreed
  · rw [State.packetError_eq, State.rdw_logError_contained _ _ _ _ (by decide) rfl]
    exact State.rdw_fevent_same (State.sorted_wrw hfreed _ _ _ _) fn rfl (by decide) (by decide)
  · rw [State.host_packetError, hcmds]

/-! ## The operand read (R394, R405, R408) -/

/-- A CRC that a part of a command must have and has not (R402). -/
def crcBad (want : Option Nat) (b : Bytes) (n : Nat) : Bool :=
  match want with
  | some w => n != 0 && crc32c b != w
  | none => false

theorem crcBad_of_right {want : Option Nat} {b : Bytes} {n : Nat} (h : n = 0 ∨ ∀ x, want = some x → crc32c b = x) : crcBad want b n = false := by
  cases want with
  | none => rfl
  | some w =>
    rcases h with rfl | h
    · rfl
    · simp [crcBad, h w rfl]

/-- A command with its operands and its table in hand. -/
def Cmd.supplied (operands table : Bytes) (c : Cmd) : Cmd := { c with operands := operands, table := table }

/-- The operands and the table of a command put in its place on the list, and what reading them cost it (R432). -/
def State.supplied (s : State) (cid : Nat) (operands table : Bytes) (read : Nat) : State :=
  (s.cmdMap cid (Cmd.supplied operands table)).spend cid read

section
variable {s : State} {cid t : Nat} {c : Cmd} (hl : (s.taking t).live = true) (hcmd : (s.taking t).cmd? cid = some c)
  (hstage : c.stage = .operands) (hroom : c.opRoom ≠ 0)
include hl hcmd hstage hroom

theorem State.operandRead_failed (ops table : Bytes) :
    s.operandRead cid false ops table t = some (((s.taking t).bufferLost c).refuse c stNoAccess) := by
  simp [State.operandRead, hcmd, hstage, hroom, hl]

theorem State.operandRead_illFormed {ops table : Bytes}
    (h : ops.length ≠ ((s.taking t).reads12 c).1.2 ∨ table.length ≠ ((s.taking t).reads12 c).2.2) : s.operandRead cid true ops table t = none := by
  simp only [State.operandRead, hcmd, hstage, hroom, hl, Bool.not_true, Bool.false_eq_true, ne_eq, not_true, or_self, if_false]
  exact if_pos h

/-- Parts of the lengths that were asked for, each with its CRC right, come to step 12 (R408). -/
theorem State.operandRead_supplied {ops table : Bytes} (hops : ops.length = ((s.taking t).reads12 c).1.2)
    (htable : table.length = ((s.taking t).reads12 c).2.2)
    (hcrc : ((s.taking t).reads12 c).1.2 = 0 ∨ ∀ x, c.crcs12.1 = some x → crc32c ops = x)
    (hcrc' : ((s.taking t).reads12 c).2.2 = 0 ∨ ∀ x, c.crcs12.2 = some x → crc32c table = x) :
    ∃ read, s.operandRead cid true ops table t =
      some (((s.taking t).supplied cid (if ((s.taking t).reads12 c).1.2 = 0 then c.operands else ops) table read).step12
        (c.supplied (if ((s.taking t).reads12 c).1.2 = 0 then c.operands else ops) table)) := by
  have hlen : ¬(ops.length ≠ ((s.taking t).reads12 c).1.2 ∨ table.length ≠ ((s.taking t).reads12 c).2.2) := by
    rw [not_or, not_not, not_not]; exact ⟨hops, htable⟩
  have hgood : ¬(crcBad c.crcs12.1 ops ((s.taking t).reads12 c).1.2 || crcBad c.crcs12.2 table ((s.taking t).reads12 c).2.2) = true := by
    rw [crcBad_of_right hcrc, crcBad_of_right hcrc']; decide
  simp only [State.operandRead, hcmd, hstage, hroom, hl, Bool.not_true, Bool.false_eq_true, ne_eq, not_true, or_self, if_false]
  exact ⟨_, (if_neg hlen).trans (if_neg hgood)⟩

end

theorem filterMap_updFirst {α β : Type} {p : α → Bool} {f : α → α} {g : α → Option β} (h : ∀ x, g (f x) = g x) (l : List α) :
    (updFirst p f l).filterMap g = l.filterMap g := by
  induction l with
  | nil => rfl
  | cons x l ih =>
    unfold updFirst
    split
    · rw [List.filterMap_cons, List.filterMap_cons, h]
    · rw [List.filterMap_cons, List.filterMap_cons, ih]

theorem State.tableSlot_cmdMap (s : State) (cid : Nat) {f : Cmd → Cmd} (hf : ∀ x, (f x).tableSlot = x.tableSlot) :
    (s.cmdMap cid f).tableSlot = s.tableSlot := by
  have hused : (s.cmdMap cid f).host.cmds.filterMap (fun c => c.tableSlot) = s.host.cmds.filterMap (fun c => c.tableSlot) :=
    filterMap_updFirst hf _
  rw [State.tableSlot, State.tableSlot, hused]

/-- What a command that is supplied with its parts leaves as it was. -/
theorem State.supplied_keeps (s : State) (cid : Nat) (ops table : Bytes) (read : Nat) :
    (s.supplied cid ops table read).regs = s.regs ∧ (s.supplied cid ops table read).store = s.store ∧
      (s.supplied cid ops table read).out = s.out ∧ (s.supplied cid ops table read).tableSlot = s.tableSlot := by
  refine ⟨rfl, rfl, rfl, ?_⟩
  rw [State.supplied, State.spend, State.tableSlot_cmdMap _ _ (fun _ => by rfl), State.tableSlot_cmdMap _ _ (fun _ => by rfl)]

theorem State.cmd?_supplied {s : State} {cid : Nat} {c : Cmd} (h : s.cmd? cid = some c) (ops table : Bytes) (read : Nat) :
    (s.supplied cid ops table read).cmd? cid = some { c.supplied ops table with spent := c.spent + read } := by
  rw [State.supplied, State.spend, State.cmd?_cmdMap _ _ (fun _ => by rfl), State.cmd?_cmdMap _ _ (fun _ => by rfl), h]
  rfl

theorem State.valuesOk_supplied (s : State) (cid : Nat) (ops table : Bytes) (read : Nat) (c : Cmd) :
    (s.supplied cid ops table read).valuesOk c = s.valuesOk c := rfl

theorem State.reads12_supplied (s : State) (cid : Nat) (ops table ops' table' : Bytes) (read : Nat) (c : Cmd) :
    (s.supplied cid ops table read).reads12 (c.supplied ops' table') = s.reads12 c := rfl

/-- Step 13 of a command in hand: it is ready, with a table slot where it has a table (R408). -/
theorem State.step13_ready {s : State} {c : Cmd} (hop : c.opcode ≠ 0x48) (hslot : (s.reads12 c).2.2 = 0 ∨ s.tableSlot.isSome = true) :
    s.step13 c = s.cmdMap c.cid (Cmd.readied s.clk.now (if (s.reads12 c).2.2 = 0 then none else s.tableSlot) c.operands) := by
  by_cases h : (s.reads12 c).2.2 = 0
  · rw [State.step13_plain h, if_pos h, s.groupTaken_other hop]
  · obtain ⟨i, hi⟩ := Option.isSome_iff_exists.1 (hslot.resolve_left h)
    rw [State.step13_slot h hi, if_neg h, hi, s.groupTaken_other hop]

/-! ## The commands -/

theorem exec_packetReadComplete (fn : Seat) (q : Fin 8) (ok : Bool) (p : Bytes) (t : Nat) (s : State) :
    exec (.packetReadComplete fn q ok p t) s = given (s.packetRead fn.val q.val ok p t) := rfl

theorem exec_operandReadComplete (cid : Nat) (ok : Bool) (ops table : Bytes) (t : Nat) (s : State) :
    exec (.operandReadComplete cid ok ops table t) s = given (s.operandRead cid ok ops table t) := rfl

end Sys2Proof.Machine
end

section
/-!
PROOFS. PACKET_READ_COMPLETE and OPERAND_READ_COMPLETE (R395, R406, R408).
-/
namespace Sys2Proof.Claims
open Sys2Proof Sys2Proof.Machine

section
variable {fn : Seat} {q : Fin 8} {s : State} {t n : Nat} {rest : List Nat}
  (hread : (s.sbq fn.val q.val).reading = n :: rest) (hl : (s.taking t).live = true)
include hread hl

theorem answers_packetRead_failed (hs : s.sound = true) :
    ∃ v, Answers (.packetReadComplete fn q false [] t) s v ∧ (v.sbq fn.val q.val).reading = [] ∧
      v.rdw hstSbqStatusError fn.val q.val = 1 ∧ v.rdw hstFeventFetchError fn.val 0 = 1 ∧ v.host.cmds = (s.taking t).host.cmds := by
  refine ⟨(s.taking t).packetError fn.val q.val, ?_, State.packetError_stops (State.regs_sorted (State.sound_taking hs t)) fn.val q.val⟩
  rw [Answers, exec_packetReadComplete, State.packetRead_failed hread hl]
  rfl

theorem exec_packetRead_illFormed {p : Bytes} (h : p.length ≠ 64 * n ∨ flitsOf (headerOf p).length ≠ n) :
    exec (.packetReadComplete fn q true p t) s = .fault .illFormed := by
  rw [exec_packetReadComplete, State.packetRead_illFormed hread hl h]
  rfl

variable {p : Bytes} (hlen : p.length = 64 * n) (hflits : flitsOf (headerOf p).length = n)
include hlen hflits

theorem answers_packetRead_taken {w : State × Nat} (hw : (s.taking t).consumeFlits fn.val q.val n = w) :
    Answers (.packetReadComplete fn q true p t) s (w.1.intake (w.1.packetCmd fn.val q.val w.2 p) p) := by
  rw [Answers, exec_packetReadComplete, State.packetRead_taken hread hl hlen hflits, hw]
  rfl

/-- A good PING passes intake (R406, R413). -/
theorem answers_packetRead_ping (hnew : (s.taking t).cmd? (s.taking t).host.nextCid = none)
    (hcrc : packetCrc (p.take 32) = (headerOf p).crc) (hping : (headerOf p).IsPing fn.val) :
    ∃ v c, Answers (.packetReadComplete fn q true p t) s v ∧ v.cmd? (s.taking t).host.nextCid = some c ∧ c.stage = .ready ∧ c.opcode = 0x01 ∧
      c.seat = fn.val ∧ c.queue = q.val ∧ c.tag = (headerOf p).tag ∧ c.seq = (headerOf p).seq ∧ v.out = (s.taking t).out ∧
      (v.sbq fn.val q.val).fetched = ((s.taking t).sbq fn.val q.val).fetched + n := by
  generalize hw : (s.taking t).consumeFlits fn.val q.val n = w
  have hanswers := answers_packetRead_taken hread hl hlen hflits hw
  have hout : w.1.out = (s.taking t).out := by rw [← hw]; rfl
  have hcmds : w.1.host.cmds = (s.taking t).host.cmds := by rw [← hw]; rfl
  have hcid : w.1.host.nextCid = (s.taking t).host.nextCid := by rw [← hw]; rfl
  have hqueue : w.1.sbq fn.val q.val = ((s.taking t).sbq fn.val q.val).consumed n := by rw [← hw, State.sbq_consumeFlits]
  have hparam : (w.1.packetCmd fn.val q.val w.2 p).param = [] := by
    refine List.drop_eq_nil_of_le ?_
    rw [hping.length, List.length_take]
    exact Nat.min_le_left _ _
  have hfresh : w.1.cmd? (w.1.packetCmd fn.val q.val w.2 p).cid = none := by
    rw [State.cmd?, hcmds, ← hnew, ← hcid]
    rfl
  obtain ⟨hcmd, hsent, hlist⟩ := State.intake_ping_ready w.1 (c := w.1.packetCmd fn.val q.val w.2 p) hping.opcode hparam hfresh
  rw [State.intake_ping w.1 (c := w.1.packetCmd fn.val q.val w.2 p) hping.opcode hping hcrc] at hanswers
  have hnumber : (w.1.packetCmd fn.val q.val w.2 p).cid = (s.taking t).host.nextCid := hcid
  rw [hnumber] at hcmd
  refine ⟨_, _, hanswers, hcmd, rfl, hping.opcode, rfl, rfl, rfl, rfl, hsent.trans hout, ?_⟩
  rw [State.sbq, hlist, ← State.sbq, hqueue]
  rfl

end

section
variable {s : State} {cid t : Nat} {c : Cmd} (hl : (s.taking t).live = true) (hcmd : (s.taking t).cmd? cid = some c)
  (hstage : c.stage = .operands) (hroom : c.opRoom ≠ 0)
include hl hcmd hstage hroom

/-- A failed operand read ends its command (R394). -/
theorem answers_operandRead_failed : ∃ v, Answers (.operandReadComplete cid false [] [] t) s v ∧ v.cmd? cid = none := by
  obtain rfl := State.cmd?_cid hcmd
  refine ⟨_, ?_, ((s.taking t).bufferLost c).complete_cmd? c stNoAccess ((s.taking t).bufferLost c).measure 0 0 false⟩
  rw [Answers, exec_operandReadComplete, State.operandRead_failed hl hcmd hstage hroom]
  rfl

theorem exec_operandRead_illFormed {ops table : Bytes}
    (h : ops.length ≠ ((s.taking t).reads12 c).1.2 ∨ table.length ≠ ((s.taking t).reads12 c).2.2) :
    exec (.operandReadComplete cid true ops table t) s = .fault .illFormed := by
  rw [exec_operandReadComplete, State.operandRead_illFormed hl hcmd hstage hroom h]
  rfl

variable {ops table : Bytes} (hops : ops.length = ((s.taking t).reads12 c).1.2) (htable : table.length = ((s.taking t).reads12 c).2.2)
  (hcrc : ((s.taking t).reads12 c).1.2 = 0 ∨ ∀ x, c.crcs12.1 = some x → crc32c ops = x)
  (hcrc' : ((s.taking t).reads12 c).2.2 = 0 ∨ ∀ x, c.crcs12.2 = some x → crc32c table = x)
include hops htable hcrc hcrc'

/-- Good parts come to step 12 (R408). -/
theorem answers_operandRead_step12 :
    let given := if ((s.taking t).reads12 c).1.2 = 0 then c.operands else ops
    ∃ read, Answers (.operandReadComplete cid true ops table t) s
      (((s.taking t).supplied cid given table read).step12 (c.supplied given table)) := by
  obtain ⟨read, hread⟩ := State.operandRead_supplied hl hcmd hstage hroom hops htable hcrc hcrc'
  refine ⟨read, ?_⟩
  rw [Answers, exec_operandReadComplete, hread]
  rfl

/-- Values that are not accepted end the command with BAD_FORMAT (R172, R407). -/
theorem answers_operandRead_badValues
    (hvalues : (s.taking t).valuesOk (c.supplied (if ((s.taking t).reads12 c).1.2 = 0 then c.operands else ops) table) = false) :
    ∃ w : State, Answers (.operandReadComplete cid true ops table t) s
        (w.refuse (c.supplied (if ((s.taking t).reads12 c).1.2 = 0 then c.operands else ops) table) stBadFormat) ∧
      w.regs = (s.taking t).regs ∧ w.store = (s.taking t).store := by
  obtain ⟨read, hread⟩ := answers_operandRead_step12 hl hcmd hstage hroom hops htable hcrc hcrc'
  obtain ⟨hregs, hstore, -⟩ := (s.taking t).supplied_keeps cid (if ((s.taking t).reads12 c).1.2 = 0 then c.operands else ops) table read
  rw [State.step12, State.valuesOk_supplied, hvalues, if_neg Bool.false_ne_true] at hread
  exact ⟨_, hread, hregs, hstore⟩

/-- Accepted values let the command pass intake, with a table slot where it has a table (R408, R409). -/
theorem answers_operandRead_ready (hop : c.opcode ≠ 0x48)
    (hvalues : (s.taking t).valuesOk (c.supplied (if ((s.taking t).reads12 c).1.2 = 0 then c.operands else ops) table) = true)
    (hslot : ((s.taking t).reads12 c).2.2 = 0 ∨ (s.taking t).tableSlot.isSome = true) :
    ∃ v c', Answers (.operandReadComplete cid true ops table t) s v ∧ v.cmd? cid = some c' ∧ c'.stage = .ready ∧
      c'.operands = (if ((s.taking t).reads12 c).1.2 = 0 then c.operands else ops) ∧ c'.table = table ∧
      c'.tableSlot = (if ((s.taking t).reads12 c).2.2 = 0 then none else (s.taking t).tableSlot) ∧ v.out = (s.taking t).out ∧
      v.regs = (s.taking t).regs := by
  obtain ⟨read, hread⟩ := answers_operandRead_step12 hl hcmd hstage hroom hops htable hcrc hcrc'
  generalize hgiven : (if ((s.taking t).reads12 c).1.2 = 0 then c.operands else ops) = given at hread hvalues ⊢
  obtain ⟨hregs, -, hout, hslots⟩ := (s.taking t).supplied_keeps cid given table read
  have hcid : (c.supplied given table).cid = cid := (State.cmd?_cid hcmd :)
  have hready := State.step13_ready (s := (s.taking t).supplied cid given table read) (c := c.supplied given table) hop
    (by rwa [State.reads12_supplied, hslots])
  rw [State.step12, State.valuesOk_supplied, hvalues, if_pos rfl, hready, State.reads12_supplied, hslots, hcid] at hread
  exact ⟨_, _, hread, State.cmd?_readied (State.cmd?_supplied hcmd given table read) _ _ _, rfl, rfl, rfl, rfl, hout, hregs⟩

end

/-- Settles O27: a packet read by its outcome and its bytes, and an operand read by its outcome, its bytes and the values they carry. -/
theorem packetsAndOperandsArrive : Obligations.PacketsAndOperandsArrive := by
  refine ⟨?_, ?_⟩
  · intro fn q p t n rest s hs u h hread hl
    refine ⟨answers_packetRead_failed hread hl hs, exec_packetRead_illFormed hread hl, fun hlen hflits => ⟨?_, ?_⟩⟩
    · have hregs := State.sorted_consumeFlits (State.regs_sorted (State.sound_taking hs t)) fn.val q.val n
      refine ⟨_, _, answers_packetRead_taken hread hl hlen hflits rfl, State.cmds_consumeFlits _ _ _ _, State.nextCid_consumeFlits _ _ _ _, ?_,
        fun hlo hhi hbad => ⟨_, State.intake_badCrc _ _ hlo hhi hbad, State.rd_crcFailed hregs⟩⟩
      rw [State.sbq_consumeFlits]
      rfl
    · intro hnew _ hbytes hcrc hversion hseat hcode hcls hlow hflags hres hshelf hdead
      exact answers_packetRead_ping hread hl hlen hflits hnew hcrc ⟨hbytes, hversion, hseat, hcode, hcls, hlow, hflags, hres, hshelf, hdead⟩
  · intro cid c ops table t s u r got hl hcmd hstage hroom _ _ hop
    refine ⟨answers_operandRead_failed hl hcmd hstage hroom, exec_operandRead_illFormed hl hcmd hstage hroom,
      fun hops htable hcrc hcrc' => ⟨fun hvalues => ?_, fun hvalues hslot => ?_⟩⟩
    · exact answers_operandRead_badValues hl hcmd hstage hroom hops htable hcrc hcrc' hvalues
    · exact answers_operandRead_ready hl hcmd hstage hroom hops htable hcrc hcrc' hop hvalues hslot

end Sys2Proof.Claims
end

section
/-!
LAWS. The fetch of a packet (R371, R372, R376, R405): what holds it back, the wait for a completion record, and the reads it is issued in.
-/
namespace Sys2Proof.Machine

/-- No time passes to an instant that has been reached. -/
theorem State.advance_of_le {s : State} {t : Nat} (h : t ≤ s.clk.now) : s.advance t = s := if_pos h

/-! ## Reads of host memory -/

theorem State.each_emit {α : Type} (s : State) (l : List α) (f : α → Out) : s.each l (fun s x => s.emit (f x)) = { s with out := s.out ++ l.map f } := by
  induction l generalizing s with
  | nil => simp
  | cons x l ih => rw [State.each_cons, ih]; simp [State.emit]

/-- The requests of a read, as they are sent (R360, R364). -/
def Fn.readOuts (f : Fn) (seat addr len : Nat) : List Out := (f.reads addr len).map (fun p => .hostRead seat p.1 p.2)

/-- A read of host memory sends its requests and changes nothing else. -/
theorem State.readHost_eq (s : State) (seat addr len : Nat) :
    s.readHost seat addr len = { s with out := s.out ++ (s.fn seat).readOuts seat addr len } := s.each_emit _ _

/-! ## What holds a fetch back -/

/-- The next packet of a queue, of `n` flits, is posted, and nothing but completion records, intake storage and tags holds its fetch back (R372). -/
structure State.Fetchable (s : State) (fn q n : Nat) : Prop where
  live : s.live = true
  laid : s.mem.relaying = false
  on : s.rdw hstSbqCtrlEnable fn q ≠ 0
  noError : s.rdw hstSbqStatusError fn q ≠ 1
  canPost : (s.fn fn).canPost = true
  posted : (s.sbq fn q).fetched + sumN (s.sbq fn q).reading + n ≤ (s.sbq fn q).posted
  reached : ∃ b ∈ (s.sbq fn q).bells, (s.sbq fn q).fetched + sumN (s.sbq fn q).reading + n ≤ b.1 ∧ b.2 ≤ s.clk.now
  ringOn : s.rdw hstCpqCtrlEnable fn (s.rdw hstSbqCtrlCpq fn q) ≠ 0
  inTurn : ∀ c ∈ s.host.cmds, c.origin = 0 → c.seat = fn → c.queue = q → c.waitsRoom = false

/-- A fetch that waits for a completion record (R376). -/
def State.cpqWaiting (s : State) (fn q : Nat) : State :=
  (s.fevent hstFeventCpqWait fn).cpqMap fn q (fun y => { y with waitFrom := some (y.waitFrom.getD s.clk.now) })

/-- The waits that a fetch ends, for a completion record and for intake storage, counted (R376, R405). -/
def State.waitsEnded (s : State) (fn cq : Nat) : State :=
  let waited := match (s.cpq fn cq).waitFrom with | some w => (s.clk.now - w) / 768 | none => 0
  (s.when (decide (0 < waited)) (fun s => s.bumpw hstCpqWaitNsNs fn waited)).countIntake false

theorem State.cpq_sbqMap (s : State) (fn q : Nat) (f : Sbq → Sbq) (fn' q' : Nat) : (s.sbqMap fn q f).cpq fn' q' = s.cpq fn' q' := rfl

/-- A completion record reserved for a packet of `n` flits, and the packet noted as being read (R372). -/
def State.fetchReserved (s : State) (fn q cq n : Nat) : State :=
  ((s.waitsEnded fn cq).cpqMap fn cq (fun y => { y with reserved := y.reserved + 1, waitFrom := none })).sbqMap fn q
    (fun x => { x with reading := x.reading ++ [n], partly := false })

/-- The reads of a packet of `n` flits from flit `first` of a ring: those past the ring's end come from its base (R371). -/
def State.ringRead (s : State) (fn base ring first n : Nat) : State :=
  (s.readHost fn (base + 64 * first) (64 * min n (ring - first))).readHost fn base (64 * (n - min n (ring - first)))

/-- Where a submission queue's ring starts in host memory. -/
def State.sbqBase (s : State) (fn q : Nat) : Nat := s.rdw hstSbqBaseLoAddr fn q + 2 ^ 32 * s.rdw hstSbqBaseHiAddr fn q

/-- The flit of the ring that the next packet starts at: past the packets that are being read. -/
def State.sbqNext (s : State) (fn q : Nat) : Nat :=
  (s.rdw hstSbqStatusFetch fn q + sumN (s.sbq fn q).reading) % 2 ^ s.rdw hstSbqCtrlSizeLog2 fn q

/-- The part of the state that the reads of a packet rest on: the registers, what was sent, the functions and the queues. -/
def State.hostRings (s : State) : List (Nat × Nat) × List Out × List Fn × List Sbq × List Cpq := (s.regs, s.out, s.host.fns, s.host.sbqs, s.host.cpqs)

theorem State.hostRings_waitsEnded (s : State) (fn cq : Nat) : (s.waitsEnded fn cq).hostRings = s.hostRings := by
  have hcount (t : State) : (t.countIntake false).hostRings = t.hostRings := by
    unfold State.countIntake
    cases t.host.intakeFrom <;> rfl
  exact (hcount _).trans (State.when_keeps (π := State.hostRings) _ _ (fun _ => rfl))

section
variable (s : State) (fn q cq n : Nat)

theorem State.regs_fetchReserved : (s.fetchReserved fn q cq n).regs = s.regs := congrArg (·.1) (s.hostRings_waitsEnded fn cq)
theorem State.out_fetchReserved : (s.fetchReserved fn q cq n).out = s.out := congrArg (·.2.1) (s.hostRings_waitsEnded fn cq)
theorem State.fns_fetchReserved : (s.fetchReserved fn q cq n).host.fns = s.host.fns := congrArg (·.2.2.1) (s.hostRings_waitsEnded fn cq)
theorem State.sbqs_waitsEnded : (s.waitsEnded fn cq).host.sbqs = s.host.sbqs := congrArg (·.2.2.2.1) (s.hostRings_waitsEnded fn cq)
theorem State.cpqs_waitsEnded : (s.waitsEnded fn cq).host.cpqs = s.host.cpqs := congrArg (·.2.2.2.2) (s.hostRings_waitsEnded fn cq)

theorem State.sbq_fetchReserved : (s.fetchReserved fn q cq n).sbq fn q =
    { s.sbq fn q with reading := (s.sbq fn q).reading ++ [n], partly := false } := by
  have hsbq : ((s.waitsEnded fn cq).cpqMap fn cq (fun y => { y with reserved := y.reserved + 1, waitFrom := none })).sbq fn q = s.sbq fn q := by
    rw [State.sbq, State.sbq, ← s.sbqs_waitsEnded fn cq]
    rfl
  obtain ⟨hfn, hq⟩ := s.sbq_key fn q
  rw [State.fetchReserved, State.sbq_sbqMap _ _ _ (by rw [hsbq]; exact hfn) (by rw [hsbq]; exact hq), hsbq]

theorem State.cpq_fetchReserved : (s.fetchReserved fn q cq n).cpq fn cq =
    { s.cpq fn cq with reserved := (s.cpq fn cq).reserved + 1, waitFrom := none } := by
  have hcpq : (s.waitsEnded fn cq).cpq fn cq = s.cpq fn cq := by rw [State.cpq, State.cpq, s.cpqs_waitsEnded fn cq]
  obtain ⟨hfn, hq⟩ := s.cpq_key fn cq
  rw [State.fetchReserved, State.cpq_sbqMap, State.cpq_cpqMap _ _ _ (by rw [hcpq]; exact hfn) (by rw [hcpq]; exact hq), hcpq]

end

section
variable {s : State} {fn q len t : Nat} (ht : t ≤ s.clk.now) (h : s.Fetchable fn q (flitsOf len))
include ht h

/-- What a fetch that nothing else holds back does: it waits for a completion record, for intake storage or for tags, or it is issued. -/
theorem State.packetFetch_eq (cq : Nat) (hcq : s.rdw hstSbqCtrlCpq fn q = cq) : s.packetFetch fn q len t =
    if 2 ^ s.rdw hstCpqCtrlSizeLog2 fn cq < (s.cpq fn cq).written + (s.cpq fn cq).reserved + 2 then s.cpqWaiting fn cq
    else if 67108864 < s.intakeUsed + 64 * flitsOf len then s.intakeWait
    else if s.tagSpace fn < s.tagsUsed fn + ((s.fn fn).reads 0 (64 * flitsOf len)).length then s
    else (s.fetchReserved fn q cq (flitsOf len)).ringRead fn (s.sbqBase fn q) (2 ^ s.rdw hstSbqCtrlSizeLog2 fn q) (s.sbqNext fn q) (flitsOf len) := by
  subst hcq
  obtain ⟨hlive, hlaid, hon, herror, hpost, hposted, ⟨b, hb, hcovers, hseen⟩, hring, hturn⟩ := h
  unfold State.packetFetch
  rw [State.advance_of_le ht]
  extract_lets u x n busy cq y size short stuck reached waited counted reserved base ring taken first before
  have hheld : (!s.live || s.mem.relaying || s.rdw hstSbqCtrlEnable fn q == 0 || s.rdw hstSbqStatusError fn q == 1 || !(s.fn fn).canPost) = false := by
    simp [hlive, hlaid, hon, herror, hpost]
  have hcompletes : u.rdw hstCpqCtrlEnable fn cq ≠ 0 := hring
  have hposted : x.fetched + busy + n ≤ x.posted := hposted
  have hshort : short = false := by simp [short, hposted]
  have hreached : reached = true := by simpa [reached, x, busy, n] using ⟨b.1, b.2, hb, hcovers, hseen⟩
  have hstuck : stuck = false := by simpa [stuck] using hturn
  have hready : (decide (x.posted < x.fetched + busy + n) || !reached || stuck || u.rdw hstCpqCtrlEnable fn cq == 0) = false := by
    simp [hposted, hreached, hstuck, hcompletes]
  rw [if_neg (ne_true_of_eq_false hheld), if_neg (ne_true_of_eq_false hshort), if_neg (ne_true_of_eq_false hready)]
  have hregs : reserved.regs = s.regs := s.regs_fetchReserved fn q cq n
  have hbase : base = s.sbqBase fn q := congrArg₂ (· + 2 ^ 32 * ·) (State.rdw_of_regs hregs _ _ _) (State.rdw_of_regs hregs _ _ _)
  have hsize : ring = 2 ^ s.rdw hstSbqCtrlSizeLog2 fn q := congrArg (2 ^ ·) (State.rdw_of_regs hregs _ _ _)
  have hfirst : first = s.sbqNext fn q :=
    congrArg₂ (fun fetch ring => (fetch + busy) % ring) (State.rdw_of_regs (s := s) (s.regs_fetchReserved fn q cq n) _ _ _) hsize
  have hread : (taken.readHost fn (base + 64 * first) (64 * before)).readHost fn base (64 * (n - before)) =
      (s.fetchReserved fn q cq n).ringRead fn (s.sbqBase fn q) (2 ^ s.rdw hstSbqCtrlSizeLog2 fn q) (s.sbqNext fn q) n := by
    rw [← hbase, ← hsize, ← hfirst]
    rfl
  rw [hread]
  rfl

theorem State.packetFetch_waits {cq : Nat} (hcq : s.rdw hstSbqCtrlCpq fn q = cq)
    (hfull : 2 ^ s.rdw hstCpqCtrlSizeLog2 fn cq < (s.cpq fn cq).written + (s.cpq fn cq).reserved + 2) :
    s.packetFetch fn q len t = s.cpqWaiting fn cq := by rw [State.packetFetch_eq ht h cq hcq, if_pos hfull]

theorem State.packetFetch_issues {cq : Nat} (hcq : s.rdw hstSbqCtrlCpq fn q = cq)
    (hroom : (s.cpq fn cq).written + (s.cpq fn cq).reserved + 2 ≤ 2 ^ s.rdw hstCpqCtrlSizeLog2 fn cq)
    (hstore : s.intakeUsed + 64 * flitsOf len ≤ 67108864)
    (htags : s.tagsUsed fn + ((s.fn fn).reads 0 (64 * flitsOf len)).length ≤ s.tagSpace fn) :
    s.packetFetch fn q len t =
      (s.fetchReserved fn q cq (flitsOf len)).ringRead fn (s.sbqBase fn q) (2 ^ s.rdw hstSbqCtrlSizeLog2 fn q) (s.sbqNext fn q) (flitsOf len) := by
  rw [State.packetFetch_eq ht h cq hcq, if_neg (Nat.not_lt.mpr hroom), if_neg (Nat.not_lt.mpr hstore), if_neg (Nat.not_lt.mpr htags)]

end

/-- The reads of a packet are sent, and nothing else changes. -/
theorem State.ringRead_eq (s : State) (fn base ring first n : Nat) : s.ringRead fn base ring first n =
    { s with out := s.out ++ ((s.fn fn).readOuts fn (base + 64 * first) (64 * min n (ring - first)) ++
      (s.fn fn).readOuts fn base (64 * (n - min n (ring - first)))) } := by
  rw [State.ringRead, State.readHost_eq, State.readHost_eq, ← List.append_assoc]
  rfl

section
variable (s : State) (fn base ring first n : Nat)

theorem State.regs_ringRead : (s.ringRead fn base ring first n).regs = s.regs := by rw [State.ringRead_eq]
theorem State.sbq_ringRead (fn' q : Nat) : (s.ringRead fn base ring first n).sbq fn' q = s.sbq fn' q := by rw [State.ringRead_eq]; rfl
theorem State.cpq_ringRead (fn' q : Nat) : (s.ringRead fn base ring first n).cpq fn' q = s.cpq fn' q := by rw [State.ringRead_eq]; rfl
theorem State.out_ringRead : (s.ringRead fn base ring first n).out =
    s.out ++ ((s.fn fn).readOuts fn (base + 64 * first) (64 * min n (ring - first)) ++ (s.fn fn).readOuts fn base (64 * (n - min n (ring - first)))) := by
  rw [State.ringRead_eq]

end

theorem State.cpqWaiting_event {s : State} (hs : regSorted s.regs = true) (fn cq : Nat) : (s.cpqWaiting fn cq).rdw hstFeventCpqWait fn 0 = 1 :=
  State.rdw_fevent_same hs fn rfl (by decide) (by decide)

theorem State.cpqWaiting_sbqs (s : State) (fn cq : Nat) : (s.cpqWaiting fn cq).host.sbqs = s.host.sbqs :=
  congrArg Prod.fst (s.queues_fevent hstFeventCpqWait fn)

/-- A rim that is no head, or that took over from none, fetches at once (R644). -/
theorem State.fetchPacket_eq {s : State} (h : s.isHead = false ∨ s.weave.promo = none) (fn q len t : Nat) :
    s.fetchPacket fn q len t = (s.taking t).packetFetch fn q len t := by
  have hearly : (s.isHead && (match s.weave.promo with
      | some p => !p.planned && decide ((s.measure + 2 ^ 32 - p.lossMeasure) % 2 ^ 32 < 3)
      | none => false)) = false := by
    rcases h with h | h <;> simp [h]
  exact if_neg (ne_true_of_eq_false hearly)

theorem exec_packetFetch (fn : Seat) (q : Fin 8) (len t : Nat) (s : State) :
    exec (.packetFetch fn q len t) s = .next (s.fetchPacket fn.val q.val len t) := rfl

end Sys2Proof.Machine
end

section
/-!
PROOFS. The fetch of a packet, with and without a free completion record (O26).
-/
namespace Sys2Proof.Claims
open Sys2Proof Sys2Proof.Machine

section
variable {fn : Seat} {q : Fin 8} {len t : Nat} {s : State} (hs : s.sound = true) (hhead : s.isHead = false ∨ s.weave.promo = none)
  (ht : t ≤ (s.taking t).clk.now) (hfetch : (s.taking t).Fetchable fn.val q.val (flitsOf len))
  {cq : Nat} (hcq : (s.taking t).rdw hstSbqCtrlCpq fn.val q.val = cq)
include hhead ht hfetch hcq

include hs in
theorem answers_packetFetch_waits
    (hfull : 2 ^ (s.taking t).rdw hstCpqCtrlSizeLog2 fn.val cq < ((s.taking t).cpq fn.val cq).written + ((s.taking t).cpq fn.val cq).reserved + 2) :
    ∃ v, Answers (.packetFetch fn q len t) s v ∧ v.rdw hstFeventCpqWait fn.val 0 = 1 ∧ v.host.sbqs = (s.taking t).host.sbqs := by
  refine ⟨_, ?_, State.cpqWaiting_event (State.regs_sorted (State.sound_taking hs t)) _ cq, State.cpqWaiting_sbqs _ _ cq⟩
  rw [Answers, exec_packetFetch, State.fetchPacket_eq hhead, State.packetFetch_waits ht hfetch hcq hfull]

theorem answers_packetFetch_issues
    (hroom : ((s.taking t).cpq fn.val cq).written + ((s.taking t).cpq fn.val cq).reserved + 2 ≤ 2 ^ (s.taking t).rdw hstCpqCtrlSizeLog2 fn.val cq)
    (hstore : (s.taking t).intakeUsed + 64 * flitsOf len ≤ 67108864)
    (htags : (s.taking t).tagsUsed fn.val + (((s.taking t).fn fn.val).reads 0 (64 * flitsOf len)).length ≤ (s.taking t).tagSpace fn.val) :
    Answers (.packetFetch fn q len t) s (((s.taking t).fetchReserved fn.val q.val cq (flitsOf len)).ringRead fn.val ((s.taking t).sbqBase fn.val q.val)
      (2 ^ (s.taking t).rdw hstSbqCtrlSizeLog2 fn.val q.val) ((s.taking t).sbqNext fn.val q.val) (flitsOf len)) := by
  rw [Answers, exec_packetFetch, State.fetchPacket_eq hhead, State.packetFetch_issues ht hfetch hcq hroom hstore htags]

end

/-- Settles O26: with the queue's packet ready, what the fetch finds is its completion queue full, or room for the packet. -/
theorem packetFetchReservesAndReads : Obligations.PacketFetchReservesAndReads := by
  intro fn q len t s hs hhead u x n busy cq y hlive ht hlaid hon herror hpost hposted hreached hring hturn
  have hfetch : u.Fetchable fn.val q.val n := ⟨hlive, hlaid, hon, herror, hpost, hposted, hreached, hring, hturn⟩
  refine ⟨fun hfull => answers_packetFetch_waits hs hhead ht hfetch rfl hfull, fun hroom hstore htags => ?_⟩
  intro base ring first
  refine ⟨_, answers_packetFetch_issues hhead ht hfetch rfl hroom hstore htags, ?_, ?_, ?_, ?_, ?_⟩
  · rw [State.sbq_ringRead, State.sbq_fetchReserved]
  · rw [State.sbq_ringRead, State.sbq_fetchReserved]
  · rw [State.cpq_ringRead, State.cpq_fetchReserved]
  · exact (State.regs_ringRead _ _ _ _ _ _).trans (u.regs_fetchReserved fn.val q.val cq n)
  · have hfn : (u.fetchReserved fn.val q.val cq n).fn fn.val = u.fn fn.val := by rw [State.fn, State.fn, u.fns_fetchReserved]
    rw [List.map_append, State.out_ringRead, u.out_fetchReserved, hfn]
    rfl

end Sys2Proof.Claims
end

section
/-!
LAWS. What the work of a pass leaves of the host link: the mode of its ports, and which functions are enabled.
-/
namespace Sys2Proof.Machine

/-- The mode of the ports, and the seats of the functions with whether each is enabled. -/
def State.link (s : State) : Nat × List (Nat × Bool) := (s.rd hstPortModeSplit, s.host.fns.map (fun f => (f.seat, f.enabled)))

theorem State.link_of_parts {s t : State} (hregs : t.regs = s.regs) (hfns : t.host.fns = s.host.fns) : t.link = s.link := by
  rw [State.link, State.link, State.rd_of_regs s t _ _ hregs, hfns]

theorem State.split_of_link {s t : State} (h : t.link = s.link) : t.rd hstPortModeSplit = s.rd hstPortModeSplit := congrArg Prod.fst h

theorem State.enabled_of_link {s t : State} (h : t.link = s.link) (fn : Nat) : (t.fn fn).enabled = (s.fn fn).enabled := by
  have hfind (u : State) : (u.fn fn).enabled = (((u.link.2.find? (fun p => p.1 == fn)).map Prod.snd).getD false) := by
    rw [State.fn, State.link, List.find?_map]
    cases hf : u.host.fns.find? (fun f => f.seat == fn) <;> simp [hf, fnNil]
  rw [hfind, hfind, h]

/-! ## Registers, branches and the parts of the state -/

theorem State.link_wrw (s : State) {f : Fld} (seat i v : Nat) (h : f.win = true ∨ 4 < f.off) : (s.wrw f seat i v).link = s.link := by
  have hkey : regKey hstPortModeSplit 0 0 ≠ regKey f seat i := by
    have hport : regKey hstPortModeSplit 0 0 = 128 := rfl
    rw [hport, regKey]
    rcases h with h | h
    · rw [if_pos h]
      omega
    · split <;> omega
  exact congrArg (·, s.host.fns.map (fun f => (f.seat, f.enabled))) (State.rdw_wrw_other s f hstPortModeSplit seat i 0 0 v hkey)

theorem State.link_wr (s : State) {f : Fld} (i v : Nat) (h : 4 < f.off) : (s.wr f i v).link = s.link := s.link_wrw 0 i v (.inr h)
theorem State.link_ev (s : State) {f : Fld} (i : Nat) (h : 4 < f.off) : (s.ev f i).link = s.link := s.link_wr i 1 h
theorem State.link_inc (s : State) {f : Fld} (i n : Nat) (h : 4 < f.off) : (s.inc f i n).link = s.link := s.link_wr i _ h
theorem State.link_incw (s : State) {f : Fld} (seat n : Nat) (h : f.win = true) : (s.incw f seat n).link = s.link := s.link_wrw seat 0 _ (.inl h)

theorem State.link_fnMap (s : State) (seat : Nat) {f : Fn → Fn} (h : ∀ x, x.seat = seat → ((f x).seat, (f x).enabled) = (x.seat, x.enabled)) :
    (s.fnMap seat f).link = s.link := by
  have hmap (l : List Fn) : (updFirst (fun x => x.seat == seat) f l).map (fun f => (f.seat, f.enabled)) = l.map (fun f => (f.seat, f.enabled)) := by
    induction l with
    | nil => rfl
    | cons x l ih =>
      unfold updFirst
      split
      case isTrue hx => rw [List.map_cons, h x (beq_iff_eq.mp hx), List.map_cons]
      case isFalse => rw [List.map_cons, ih, List.map_cons]
  exact congrArg (s.rd hstPortModeSplit, ·) (hmap s.host.fns)

@[simp] theorem State.link_when (s : State) (b : Bool) (f : State → State) : (s.when b f).link = if b then (f s).link else s.link := by
  cases b <;> rfl
@[simp] theorem State.link_ite (p : Prop) [Decidable p] (s t : State) : (if p then s else t).link = if p then s.link else t.link := apply_ite _ p s t

@[simp] theorem State.link_bump (s : State) (f : Fld) (i n : Nat) : (s.bump f i n).link = s.link := rfl
@[simp] theorem State.link_bumpSet (s : State) (f : Fld) (i v : Nat) : (s.bumpSet f i v).link = s.link := rfl
@[simp] theorem State.link_clkMap (s : State) (f : Clock → Clock) : (s.clkMap f).link = s.link := rfl
@[simp] theorem State.link_sweepMap (s : State) (f : Sweep → Sweep) : (s.sweepMap f).link = s.link := rfl
@[simp] theorem State.link_rrMap (s : State) (f : Rerank → Rerank) : (s.rrMap f).link = s.link := rfl
@[simp] theorem State.link_storeMap (s : State) (f : Store → Store) : (s.storeMap f).link = s.link := rfl
@[simp] theorem State.link_memMap (s : State) (f : Mem → Mem) : (s.memMap f).link = s.link := rfl
@[simp] theorem State.link_weaveMap (s : State) (f : Weave → Weave) : (s.weaveMap f).link = s.link := rfl
@[simp] theorem State.link_emit (s : State) (o : Out) : (s.emit o).link = s.link := rfl
@[simp] theorem State.link_cmdMap (s : State) (cid : Nat) (f : Cmd → Cmd) : (s.cmdMap cid f).link = s.link := rfl
@[simp] theorem State.link_cpqMap (s : State) (fn q : Nat) (f : Cpq → Cpq) : (s.cpqMap fn q f).link = s.link := rfl
@[simp] theorem State.link_charge (s : State) (seat nj : Nat) : (s.charge seat nj).link = s.link := rfl
@[simp] theorem State.link_spend (s : State) (cid n : Nat) : (s.spend cid n).link = s.link := rfl
@[simp] theorem State.link_closeWindow (s : State) (c : Cmd) (st m l n : Nat) (p : Bool) : (s.closeWindow c st m l n p).link = s.link := rfl
@[simp] theorem State.link_countStatus (s : State) (seat st : Nat) : (s.countStatus seat st).link = s.link := rfl
@[simp] theorem State.link_settleCpqIdle (s : State) (fn q : Nat) : (s.settleCpqIdle fn q).link = s.link := s.link_wrw _ _ _ (.inl rfl)
@[simp] theorem State.link_settleSbqIdle (s : State) (fn q : Nat) : (s.settleSbqIdle fn q).link = s.link := s.link_wrw _ _ _ (.inl rfl)
@[simp] theorem State.link_dropCmd (s : State) (c : Cmd) : (s.dropCmd c).link = s.link := State.link_settleSbqIdle _ _ _

/-! ## Messages and completions -/

@[simp] theorem State.link_raise (s : State) (seat v : Nat) : (s.raise seat v).link = s.link := by
  simp only [State.raise]
  split
  · rfl
  split
  · exact s.link_fnMap seat (fun _ _ => rfl)
  split
  · rfl
  · rw [State.link_wrw _ _ _ _ (.inl rfl), State.link_incw _ _ _ rfl]

theorem State.link_fevent (s : State) {f : Fld} (seat : Nat) (h : f.win = true) : (s.fevent f seat).link = s.link := by
  simp [State.fevent, State.link_wrw _ _ _ _ (.inl h)]

@[simp] theorem State.link_notice (s : State) (seat bit : Nat) : (s.notice seat bit).link = s.link := by
  simp (disch := decide) [State.notice, State.link_wrw]

@[simp] theorem State.link_post (s : State) (seat addr : Nat) (b : Bytes) (r : Bool) : (s.post seat addr b r).link = s.link := by
  simp (disch := decide) [State.post, State.link_fevent, State.link_incw]

@[simp] theorem State.link_sendPending (s : State) (fn q : Nat) : (s.sendPending fn q).link = s.link := by simp [State.sendPending]

@[simp] theorem State.link_writeCompletion (s : State) (c : Cmd) (st orig tag m l n r : Nat) :
    (s.writeCompletion c st orig tag m l n r).link = s.link := by
  simp (disch := decide) [State.writeCompletion, State.link_wrw]

theorem State.link_pumpOne (s : State) (i : Nat) : (s.pumpOne i).link = s.link := by
  simp only [State.pumpOne]
  split
  · split <;> rfl
  · rfl

@[simp] theorem State.link_queueMsg (s : State) (i : Nat) (m : Bytes) : (s.queueMsg i m).link = s.link :=
  State.foldl_keeps (π := State.link) _ _ (fun t _ => t.link_pumpOne i)

@[simp] theorem State.link_send (s : State) (t dst op : Nat) (b : Bytes) : (s.send t dst op b).link = s.link := by
  rw [State.send, State.route]
  simp only [State.routeIn]
  split
  · refine State.each_keeps (π := State.link) _ s (fun t c => ?_)
    split <;> simp
  · split <;> split <;> simp

@[simp] theorem State.link_finishHost (s : State) (c : Cmd) (st m l n : Nat) (e : Bool) : (s.finishHost c st m l n e).link = s.link := by
  have hwindow (t : State) (f : List WinEnt → List WinEnt) : (t.hostMap (fun h => { h with window := f h.window })).link = t.link := rfl
  simp [State.finishHost, hwindow]

@[simp] theorem State.link_finish (s : State) (c : Cmd) (st m l n : Nat) (e : Bool) : (s.finish c st m l n e).link = s.link := by
  unfold State.finish
  split <;> simp

@[simp] theorem State.link_finishDuplicate (s : State) (c : Cmd) (e : WinEnt) : (s.finishDuplicate c e).link = s.link := by
  simp (disch := decide) [State.finishDuplicate, State.link_inc]

@[simp] theorem State.link_wakeDuplicates (s : State) (c : Cmd) : (s.wakeDuplicates c).link = s.link := by
  simp only [State.wakeDuplicates]
  split
  · rfl
  split
  · rfl
  split
  · rfl
  · exact State.each_keeps (π := State.link) _ s (fun t d => t.link_finishDuplicate d _)

@[simp] theorem State.link_complete (s : State) (c : Cmd) (st m l n : Nat) (e : Bool) : (s.complete c st m l n e).link = s.link := by
  simp [State.complete]

@[simp] theorem State.link_refuse (s : State) (c : Cmd) (st : Nat) : (s.refuse c st).link = s.link := by simp [State.refuse]

/-! ## Reads, point reads and the background window -/

@[simp] theorem State.link_readHost (s : State) (seat addr len : Nat) : (s.readHost seat addr len).link = s.link := by
  rw [State.readHost_eq]
  rfl

@[simp] theorem State.link_issue (s : State) (sq granule : Nat) (staging far : Bool) (c : Client) : (s.issue sq granule staging far c).link = s.link :=
  (congrArg State.link (s.besideReads_issue sq granule staging far c) :)

theorem State.link_fillQueue (s : State) (h k : Nat) : (State.fillQueue h k s).link = s.link :=
  (congrArg State.link (State.besideReads_fillQueue h k s) :)

@[simp] theorem State.link_issueWrite (s : State) (sq granule : Nat) (c : Client) : (s.issueWrite sq granule c).link = s.link := by
  have hwrite (h : Nat) (t : State) : (t.writeOut h).link = t.link := by
    unfold State.writeOut
    split
    · rfl
    · exact State.link_fillQueue _ h 32
  exact (State.each_keeps (π := State.link) _ _ (fun t _ => hwrite _ t)).trans (State.link_fillQueue _ _ 32)

@[simp] theorem State.link_reply (s : State) (c : Cmd) (addr : Nat) (b : Bytes) : (s.reply c addr b).link = s.link := by simp [State.reply]

@[simp] theorem State.link_pointDone (s : State) (c : Cmd) (b : Bytes) (st found : Nat) : (s.pointDone c b st found).link = s.link := by
  simp [State.pointDone]

@[simp] theorem State.link_issuePoint (s : State) (cid : Nat) (p : Nat × Nat) : (s.issuePoint cid p).link = s.link := by simp [State.issuePoint]

@[simp] theorem State.link_pointServe (s : State) (c : Cmd) (h : Shelf) : (s.pointServe c h).link = s.link := by
  have hissue (t : State) (l : List (Nat × Nat)) : (t.each l (fun s p => s.issuePoint c.cid p)).link = t.link :=
    State.each_keeps (π := State.link) l t (fun t p => t.link_issuePoint c.cid p)
  simp only [State.pointServe]
  repeat' split
  all_goals simp [hissue, State.holdPoint]

theorem State.link_servePoints (s : State) : s.servePoints.link = s.link := by
  refine State.each_keeps (π := State.link) _ s (fun t c => ?_)
  split <;> simp

@[simp] theorem State.link_freeSuperseded (s : State) : s.freeSuperseded.link = s.link := rfl

theorem State.link_releaseDropped (s : State) : s.releaseDropped.link = s.link := by
  simp only [State.releaseDropped]
  split <;> rfl

@[simp] theorem State.link_openBackground (s : State) : s.openBackground.link = s.link := by
  unfold State.openBackground
  split
  · rfl
  · rw [State.link_servePoints, State.link_releaseDropped]
    simp

@[simp] theorem State.link_endRerank (s : State) : s.endRerank.link = s.link := by
  unfold State.endRerank
  split
  · rw [State.link_clkMap, State.link_openBackground, State.link_bumpSet]
  · rfl

/-! ## Results and voices -/

@[simp] theorem State.link_runMap (s : State) (cid : Nat) (f : Run → Run) : (s.runMap cid f).link = s.link := rfl
@[simp] theorem State.link_voiceMap (s : State) (cid : Nat) (f : Voice → Voice) : (s.voiceMap cid f).link = s.link := rfl
@[simp] theorem State.link_unitMap (s : State) (u : Nat) (f : RUnit → RUnit) : (s.unitMap u f).link = s.link := rfl
@[simp] theorem State.link_freeVoice (s : State) (cid : Nat) : (s.freeVoice cid).link = s.link := rfl
@[simp] theorem State.link_dropQuery (s : State) (cid : Nat) : (s.dropQuery cid).link = s.link := rfl
@[simp] theorem State.link_loseCand (s : State) (cid i : Nat) : (s.loseCand cid i).link = s.link := rfl
@[simp] theorem State.link_restore (s : State) (u : Nat) (h : Shelf) (v : Voice) (i seg : Nat) (x : Cand) : (s.restore u h v i seg x).link = s.link := rfl
@[simp] theorem State.link_sendCand (s : State) (h : Shelf) (c : Cmd) (i : Nat) (x : Cand) (nq : Nat) (g v : Int) :
    (s.sendCand h c i x nq g v).link = s.link := rfl
@[simp] theorem State.link_switchOut (s : State) (u cid : Nat) : (s.switchOut u cid).link = s.link := rfl

@[simp] theorem State.link_postResult (s : State) (cid : Nat) : (s.postResult cid).link = s.link := by
  unfold State.postResult
  split
  · split
    · rfl
    split
    · rfl
    · simp (disch := decide) [State.markOverrun, State.link_ev]
  · rfl

@[simp] theorem State.link_finishRun (s : State) (cid : Nat) : (s.finishRun cid).link = s.link := by
  simp only [State.finishRun]
  split <;> simp

@[simp] theorem State.link_issueRecord (s : State) (h : Shelf) (c : Cand) (g : Nat) (cl : Client) : (s.issueRecord h c g cl).link = s.link := by
  simp [State.issueRecord, State.issueFarLost]

@[simp] theorem State.link_issueOne (s : State) (cid : Nat) : (s.issueOne cid).link = s.link := by
  simp only [State.issueOne]
  split
  · split
    · rfl
    split
    · split <;> simp
    · split
      · rfl
      · split
        · simp
        · split <;> simp
  · rfl

@[simp] theorem State.link_issueAll (s : State) (cid : Nat) : (s.issueAll cid).link = s.link :=
  State.foldl_keeps (π := State.link) _ s (fun t _ => t.link_issueOne cid)

@[simp] theorem State.link_issueEvery (s : State) : s.issueEvery.link = s.link :=
  State.each_keeps (π := State.link) _ s (fun t cid => t.link_issueAll cid)

@[simp] theorem State.link_makeReady (s : State) (cid : Nat) : (s.makeReady cid).link = s.link := by
  unfold State.makeReady
  split <;> simp

@[simp] theorem State.link_voiceDone (s : State) (cid : Nat) : (s.voiceDone cid).link = s.link := by
  unfold State.voiceDone
  split <;> simp

@[simp] theorem State.link_keyCand (s : State) (h : Shelf) (c : Cmd) (i : Nat) : (s.keyCand h c i).link = s.link := by
  simp only [State.keyCand]
  repeat' split
  all_goals simp

@[simp] theorem State.link_planRecords (s : State) (h : Shelf) (cid : Nat) : (s.planRecords h cid).link = s.link := by
  unfold State.planRecords
  split <;> simp

/-! ## The re-rank units -/

@[simp] theorem State.link_spillFlush (s : State) (cid seg : Nat) : (s.spillFlush cid seg).link = s.link := by
  simp only [State.spillFlush]
  split
  · rfl
  · split <;> simp

@[simp] theorem State.link_spillPut (s : State) (cid seg j word : Nat) : (s.spillPut cid seg j word).link = s.link := by
  unfold State.spillPut
  split <;> simp

@[simp] theorem State.link_accumulate (s : State) (u : Nat) (h : Shelf) (c : Cmd) (i seg gr : Nat) (x : Cand) :
    (s.accumulate u h c i seg gr x).link = s.link := by
  simp [State.accumulate]

@[simp] theorem State.link_consume (s : State) (u cid : Nat) : (s.consume u cid).link = s.link := by
  simp only [State.consume]
  split
  · split
    · rfl
    · simp only [State.link_when, State.link_spillFlush, ite_self]
      split
      · rfl
      · split
        · rfl
        · split <;> simp
  · rfl

@[simp] theorem State.link_switchIn (s : State) (u at_ : Nat) : (s.switchIn u at_).link = s.link := by
  unfold State.switchIn
  split <;> rfl

@[simp] theorem State.link_unitAct (s : State) (u : Nat) : (s.unitAct u).link = s.link := by
  simp only [State.unitAct]
  split
  · split <;> simp
  · split <;> simp

@[simp] theorem State.link_unitsRun (s : State) (k t : Nat) : (State.unitsRun k t s).link = s.link := by
  induction k generalizing s with
  | zero => rfl
  | succ k ih =>
    unfold State.unitsRun
    split
    · rfl
    · split
      · rfl
      · rw [ih, State.link_unitAct, State.link_clkMap]

/-- Time that passes leaves the port mode and the enabled functions. -/
@[simp] theorem State.link_advance (s : State) (t : Nat) : (s.advance t).link = s.link := by simp [State.advance]

theorem State.enabled_advance (s : State) (t fn : Nat) : ((s.advance t).fn fn).enabled = (s.fn fn).enabled := State.enabled_of_link (s.link_advance t) fn

end Sys2Proof.Machine
end

section
/-!
LAWS. Doorbells (R380, R382, R383): one that is taken, and one that is discarded.
-/
namespace Sys2Proof.Machine

/-- The flits a tail doorbell posts, and the records a head doorbell frees (R380). -/
def State.tailStep (s : State) (fn q v : Nat) : Nat :=
  (v + 2 ^ s.rdw hstSbqCtrlSizeLog2 fn q - (s.sbq fn q).tail) % 2 ^ s.rdw hstSbqCtrlSizeLog2 fn q
def State.headStep (s : State) (fn q v : Nat) : Nat :=
  (v + 2 ^ s.rdw hstCpqCtrlSizeLog2 fn q - (s.cpq fn q).head) % 2 ^ s.rdw hstCpqCtrlSizeLog2 fn q

/-- A tail doorbell that is taken: the flits before the new tail are posted at the instant the doorbell reaches the admission queue (R383). -/
def State.tailRung (s : State) (fn q v : Nat) : State :=
  s.sbqMap fn q (fun x => { x with
    tail := v, posted := x.posted + s.tailStep fn q v, bells := x.bells ++ [(x.posted + s.tailStep fn q v, s.clk.now + ns (s.bellNs fn))] })

/-- A head doorbell that is taken: the records before the new head are the device's again. -/
def State.headRung (s : State) (fn q v : Nat) : State :=
  s.cpqMap fn q (fun y => { y with head := v, written := y.written - s.headStep fn q v })

theorem State.sbq_tailRung (s : State) (fn q v : Nat) : (s.tailRung fn q v).sbq fn q = { s.sbq fn q with
    tail := v, posted := (s.sbq fn q).posted + s.tailStep fn q v
    bells := (s.sbq fn q).bells ++ [((s.sbq fn q).posted + s.tailStep fn q v, s.clk.now + ns (s.bellNs fn))] } :=
  s.sbq_sbqMap fn q (s.sbq_key fn q).1 (s.sbq_key fn q).2

theorem State.cpq_headRung (s : State) (fn q v : Nat) : (s.headRung fn q v).cpq fn q =
    { s.cpq fn q with head := v, written := (s.cpq fn q).written - s.headStep fn q v } :=
  s.cpq_cpqMap fn q (s.cpq_key fn q).1 (s.cpq_key fn q).2

/-- What a tail doorbell is discarded for (R382). -/
abbrev State.TailBad (s : State) (fn q : Nat) (wide : Bool) (v : Nat) : Prop :=
  wide = false ∨ 65536 ≤ v ∨ s.rdw hstSbqCtrlEnable fn q = 0 ∨ 2 ^ s.rdw hstSbqCtrlSizeLog2 fn q ≤ v ∨
    2 ^ s.rdw hstSbqCtrlSizeLog2 fn q ≤ (s.sbq fn q).posted - (s.sbq fn q).fetched + s.tailStep fn q v

/-- What a head doorbell is discarded for (R382). -/
abbrev State.HeadBad (s : State) (fn q : Nat) (wide : Bool) (v : Nat) : Prop :=
  wide = false ∨ 65536 ≤ v ∨ s.rdw hstCpqCtrlEnable fn q = 0 ∨ 2 ^ s.rdw hstCpqCtrlSizeLog2 fn q ≤ v ∨
    (s.cpq fn q).written < s.headStep fn q v

section
variable {s : State} {fn q t : Nat} (ht : t ≤ s.clk.now) (hen : (s.fn fn).enabled = true) {wide : Bool} {v : Nat}
include ht hen

theorem State.tailBell_eq : s.tailBell fn q wide v t =
    if s.TailBad fn q wide v then s.badDoorbell fn else if s.tailStep fn q v = 0 then s else s.tailRung fn q v := by
  have hring (n : Nat) : 2 ^ s.rdw hstSbqCtrlSizeLog2 fn q - 1 < n ↔ 2 ^ s.rdw hstSbqCtrlSizeLog2 fn q ≤ n := by
    have hpos : 0 < 2 ^ s.rdw hstSbqCtrlSizeLog2 fn q := Nat.two_pow_pos _
    omega
  have hbad : (!wide || decide (65536 ≤ v) || s.rdw hstSbqCtrlEnable fn q == 0 || decide (2 ^ s.rdw hstSbqCtrlSizeLog2 fn q ≤ v) ||
      decide (2 ^ s.rdw hstSbqCtrlSizeLog2 fn q - 1 < (s.sbq fn q).posted - (s.sbq fn q).fetched + s.tailStep fn q v)) = true ↔
      s.TailBad fn q wide v := by
    simp only [Bool.or_eq_true, Bool.not_eq_true', beq_iff_eq, decide_eq_true_eq, State.TailBad, hring, or_assoc]
  unfold State.tailBell
  rw [State.advance_of_le ht]
  have hthere : (!(s.fn fn).enabled) = false := by rw [hen]; rfl
  refine (if_neg (ne_true_of_eq_false hthere)).trans ?_
  exact if_congr hbad rfl rfl

theorem State.headBell_eq : s.headBell fn q wide v t = if s.HeadBad fn q wide v then s.badDoorbell fn else s.headRung fn q v := by
  have hbad : (!wide || decide (65536 ≤ v) || s.rdw hstCpqCtrlEnable fn q == 0 || decide (2 ^ s.rdw hstCpqCtrlSizeLog2 fn q ≤ v) ||
      decide ((s.cpq fn q).written < s.headStep fn q v)) = true ↔ s.HeadBad fn q wide v := by
    simp only [Bool.or_eq_true, Bool.not_eq_true', beq_iff_eq, decide_eq_true_eq, State.HeadBad, or_assoc]
  unfold State.headBell
  rw [State.advance_of_le ht]
  have hthere : (!(s.fn fn).enabled) = false := by rw [hen]; rfl
  exact (if_neg (ne_true_of_eq_false hthere)).trans (if_congr hbad rfl rfl)

end

/-- A discarded doorbell is counted and sets its event; the queues stay as they were (R382). -/
theorem State.queues_badDoorbell (s : State) (fn : Nat) : (s.badDoorbell fn).queues = s.queues := by
  rw [State.badDoorbell, State.queues_fevent, State.incw, State.queues_wrw]

theorem State.badDoorbell_event {s : State} (hs : regSorted s.regs = true) (fn : Nat) : (s.badDoorbell fn).rdw hstFeventBadDoorbell fn 0 = 1 :=
  State.rdw_fevent_same (State.sorted_wrw hs _ _ _ _) fn rfl (by decide) (by decide)

theorem State.badDoorbell_count {s : State} (hs : regSorted s.regs = true) (fn : Nat) :
    (s.badDoorbell fn).rdw hstBadDoorbellCount fn 0 = min (s.rdw hstBadDoorbellCount fn 0 + 1) (2 ^ 32 - 1) := by
  rw [State.badDoorbell, State.rdw_fevent_apart _ _ _ _ (by decide) (by decide) (by decide), State.incw, State.rdw_wrw_same _ _ _ _ _ hs]
  exact Nat.mod_eq_of_lt (Nat.lt_of_le_of_lt (Nat.min_le_right _ _) (by decide))

@[simp] theorem State.restWake_clk (s : State) : s.restWake.clk = s.clk := by
  unfold State.restWake
  split <;> rfl

theorem State.barWrite_of_access {s : State} {fn : Nat} (t : Nat) (f : State → State) (h : s.hostAccess fn = true) :
    s.barWrite fn t f = f (s.advance t).restWake := if_pos h

theorem exec_sqTailDoorbell (fn : Seat) (q : Fin 8) (wide : Bool) (v : Word) (t : Nat) (s : State) :
    exec (.sqTailDoorbell fn q wide v t) s = .next (s.barWrite fn.val t (fun s => s.tailBell fn.val q.val wide v.toNat t)) := rfl
theorem exec_cqHeadDoorbell (fn : Seat) (q : Fin 8) (wide : Bool) (v : Word) (t : Nat) (s : State) :
    exec (.cqHeadDoorbell fn q wide v t) s = .next (s.barWrite fn.val t (fun s => s.headBell fn.val q.val wide v.toNat t)) := rfl

end Sys2Proof.Machine
end

section
/-!
PROOFS. Doorbells are checked (O25).
-/
namespace Sys2Proof.Claims
open Sys2Proof Sys2Proof.Machine

section
variable {fn : Seat} (q : Fin 8) (wide : Bool) (v : Word) (t : Nat) {s : State} (h : s.hostAccess fn.val = true)
include h

/-- The state in which a doorbell is taken: the instant has come, and the function is enabled. -/
theorem rings : t ≤ (s.advance t).restWake.clk.now ∧ ((s.advance t).restWake.fn fn.val).enabled = true := by
  obtain ⟨⟨_, hen⟩, _⟩ := (s.hostAccess_iff fn.val).mp h
  rw [State.restWake_clk, State.restWake_fn, State.enabled_advance]
  exact ⟨s.le_advance_now t, hen⟩

theorem answers_sqTailDoorbell_taken (hgood : ¬(s.advance t).restWake.TailBad fn.val q.val wide v.toNat)
    (hnew : (s.advance t).restWake.tailStep fn.val q.val v.toNat ≠ 0) :
    Answers (.sqTailDoorbell fn q wide v t) s ((s.advance t).restWake.tailRung fn.val q.val v.toNat) := by
  obtain ⟨ht, hen⟩ := rings t h
  rw [Answers, exec_sqTailDoorbell, State.barWrite_of_access t _ h, State.tailBell_eq ht hen, if_neg hgood, if_neg hnew]

theorem answers_sqTailDoorbell_discarded (hbad : (s.advance t).restWake.TailBad fn.val q.val wide v.toNat) :
    Answers (.sqTailDoorbell fn q wide v t) s ((s.advance t).restWake.badDoorbell fn.val) := by
  obtain ⟨ht, hen⟩ := rings t h
  rw [Answers, exec_sqTailDoorbell, State.barWrite_of_access t _ h, State.tailBell_eq ht hen, if_pos hbad]

theorem answers_cqHeadDoorbell_taken (hgood : ¬(s.advance t).restWake.HeadBad fn.val q.val wide v.toNat) :
    Answers (.cqHeadDoorbell fn q wide v t) s ((s.advance t).restWake.headRung fn.val q.val v.toNat) := by
  obtain ⟨ht, hen⟩ := rings t h
  rw [Answers, exec_cqHeadDoorbell, State.barWrite_of_access t _ h, State.headBell_eq ht hen, if_neg hgood]

theorem answers_cqHeadDoorbell_discarded (hbad : (s.advance t).restWake.HeadBad fn.val q.val wide v.toNat) :
    Answers (.cqHeadDoorbell fn q wide v t) s ((s.advance t).restWake.badDoorbell fn.val) := by
  obtain ⟨ht, hen⟩ := rings t h
  rw [Answers, exec_cqHeadDoorbell, State.barWrite_of_access t _ h, State.headBell_eq ht hen, if_pos hbad]

end

/-- Settles O25: at the instant of the doorbell, it is either taken or discarded. -/
theorem doorbellsAreChecked : Obligations.DoorbellsAreChecked := by
  intro fn q wide v t s hs haccess u size x adv csize y freed
  have hsorted : regSorted u.regs = true := State.restWake_sorted _ ((Follows.refl s).advance.sound hs)
  refine ⟨fun hwide hon hword hindex hroom hnew => ?_, fun hwide hon hword hindex hroom => ?_, fun hbad => ?_, fun hbad => ?_⟩
  · have hgood : ¬u.TailBad fn.val q.val wide v.toNat := by
      rintro (hbad | hbad | hbad | hbad | hbad)
      · simp [hwide] at hbad
      · exact absurd hword (Nat.not_lt.mpr hbad)
      · omega
      · exact absurd hindex (Nat.not_lt.mpr hbad)
      · exact absurd hroom (Nat.not_lt.mpr hbad)
    refine ⟨_, answers_sqTailDoorbell_taken q wide v t haccess hgood hnew, rfl, rfl, ?_⟩
    rw [State.sbq_tailRung]
    exact ⟨rfl, rfl, rfl⟩
  · have hgood : ¬u.HeadBad fn.val q.val wide v.toNat := by
      rintro (hbad | hbad | hbad | hbad | hbad)
      · simp [hwide] at hbad
      · exact absurd hword (Nat.not_lt.mpr hbad)
      · omega
      · exact absurd hindex (Nat.not_lt.mpr hbad)
      · exact absurd hroom (Nat.not_le.mpr hbad)
    refine ⟨_, answers_cqHeadDoorbell_taken q wide v t haccess hgood, rfl, rfl, ?_⟩
    rw [State.cpq_headRung]
    exact ⟨rfl, rfl⟩
  · exact ⟨_, answers_sqTailDoorbell_discarded q wide v t haccess hbad, congrArg Prod.fst (u.queues_badDoorbell fn.val),
      u.badDoorbell_event hsorted fn.val, u.badDoorbell_count hsorted fn.val⟩
  · exact ⟨_, answers_cqHeadDoorbell_discarded q wide v t haccess hbad, congrArg (·.2.1) (u.queues_badDoorbell fn.val),
      u.badDoorbell_event hsorted fn.val⟩

end Sys2Proof.Claims
end

section
/-!
LAWS. The reset of a seat (R393, R783): what it leaves of the port mode and the enabled functions, and what it clears.
-/
namespace Sys2Proof.Machine

/-! ## What a seat's reset leaves of the host link -/

theorem State.link_hostMap (s : State) {f : HostSt → HostSt} (h : (f s.host).fns = s.host.fns) : (s.hostMap f).link = s.link :=
  State.link_of_parts rfl h

@[simp] theorem State.link_endOwnership (s : State) (offer : Option Nat) (tell : Bool) : (s.endOwnership offer tell).link = s.link := by
  have hnotice (t : State) : t.noticeChanged.link = t.link := State.each_keeps (π := State.link) _ t (fun u f => u.link_notice f.seat 0)
  simp only [State.endOwnership]
  split <;> split <;> simp (disch := decide) [hnotice, State.link_wr]

@[simp] theorem State.link_slabRollback (s : State) (slot granule : Nat) : (s.slabRollback slot granule).link = s.link := by
  have hset (t : State) (shelf slab code : Nat) : (t.setWriter shelf slab code).link = t.link := rfl
  have hshelf (t : State) (i : Nat) (f : Shelf → Shelf) : (t.shelfMap i f).link = t.link := rfl
  simp only [State.slabRollback]
  split
  · rfl
  · simp (disch := decide) [State.link_ev, hshelf, State.undoSlab, hset, State.closeJournal]

@[simp] theorem State.link_nextKeys (s : State) : s.nextKeys.link = s.link := by
  have hissue (t : State) (h : Shelf) (cid : Nat) : (t.issueKey h cid).link = t.link := by
    simp only [State.issueKey]
    repeat' split
    all_goals simp
  refine State.each_keeps (π := State.link) _ s (fun t r => ?_)
  split
  · exact State.each_keeps (π := State.link) _ t (fun u _ => hissue u _ _)
  · rfl

@[simp] theorem State.link_codaKey (s : State) (h : Shelf) (c : Cmd) (i : Nat) (lost : Bool) : (s.codaKey h c i lost).link = s.link := by
  simp only [State.codaKey]
  split
  · rfl
  · split
    · split <;> simp
    · rfl

@[simp] theorem State.link_landFor (s : State) (far lost : Bool) (cl : Client) : (s.landFor far lost cl).link = s.link := by
  cases cl with
  | key cid i =>
    simp only [State.landFor]
    repeat' split
    all_goals simp (disch := decide) [State.link_ev]
  | codaKey cid i =>
    simp only [State.landFor]
    split <;> simp
  | record cid i | spill cid i =>
    simp only [State.landFor, State.when]
    repeat' split
    all_goals simp (disch := decide) [State.link_ev]
  | _ => rfl

@[simp] theorem State.link_discardFar (s : State) (seat : Nat) : (s.discardFar seat).link = s.link := by
  have htook (t : State) (r : Req) : (t.farTook r).link = t.link := by simp (disch := decide) [State.farTook, State.link_ev]
  have hdrop (t : State) (rid : Nat) : (t.dropReq rid).link = t.link := rfl
  refine State.each_keeps (π := State.link) _ s (fun t r => ?_)
  refine (State.each_keeps (π := State.link) _ _ (fun u c => ?_)).trans ((hdrop _ _).trans (htook t r))
  split <;> simp

@[simp] theorem State.link_freeSearch (s : State) (c : Cmd) : (s.freeSearch c).link = s.link := by
  simp only [State.freeSearch]
  split <;> simp

@[simp] theorem State.link_withdraw (s : State) (c : Cmd) (st : Nat) : (s.withdraw c st).link = s.link := by
  simp (disch := decide) [State.withdraw, State.noticeWord, State.link_inc, State.link_ev]

/-- An entry of the register list that a filter lets through is found in what is left, and one that it drops is not. -/
theorem regFind_filter_kept {p : Nat × Nat → Bool} {k : Nat} (h : ∀ v, p (k, v) = true) (r : List (Nat × Nat)) :
    regFind k (r.filter p) = regFind k r := by
  induction r with
  | nil => rfl
  | cons e r ih =>
    obtain ⟨k', v⟩ := e
    by_cases hk : k = k'
    · subst hk
      rw [List.filter_cons_of_pos (h v), regFind, regFind, if_pos rfl, if_pos rfl]
    · cases hp : p (k', v) with
      | true => rw [List.filter_cons_of_pos hp, regFind, regFind, if_neg hk, if_neg hk, ih]
      | false => rw [List.filter_cons_of_neg (ne_true_of_eq_false hp), ih, regFind, if_neg hk]

theorem regFind_filter_dropped {p : Nat × Nat → Bool} {k : Nat} (h : ∀ v, p (k, v) = false) (r : List (Nat × Nat)) :
    regFind k (r.filter p) = none := by
  induction r with
  | nil => rfl
  | cons e r ih =>
    obtain ⟨k', v⟩ := e
    cases hp : p (k', v) with
    | true =>
      have hk : k ≠ k' := fun hk => absurd hp (by rw [← hk, h]; decide)
      rw [List.filter_cons_of_pos hp, regFind, if_neg hk, ih]
    | false => rw [List.filter_cons_of_neg (ne_true_of_eq_false hp), ih]

theorem State.link_clearWindow (s : State) (seat : Nat) : (s.clearWindow seat).link = s.link := by
  have hport : regFind (regKey hstPortModeSplit 0 0) (s.clearWindow seat).regs = regFind (regKey hstPortModeSplit 0 0) s.regs := by
    refine regFind_filter_kept (fun v => decide_eq_true (.inl ?_)) s.regs
    rw [show regKey hstPortModeSplit 0 0 = 128 from rfl]
    omega
  rw [State.link, State.link, State.rd, State.rd, regGet, regGet, hport]
  rfl

/-- A cleared window reads as at reset (R393). -/
theorem State.rdw_clearWindow (s : State) (seat : Nat) {f : Fld} (i : Nat) (hwin : f.win = true) (hlo : f.lo < 32)
    (hoff : f.off + f.stride * i < 2 ^ 24) : (s.clearWindow seat).rdw f seat i = resetOf f i := by
  have hgone : regFind (regKey f seat i) (s.clearWindow seat).regs = none := by
    refine regFind_filter_dropped (fun v => decide_eq_false ?_) s.regs
    rw [regKey, if_pos hwin]
    omega
  rw [State.rdw, regGet, hgone]
  rfl

/-- The last part of a seat's reset: κ at 1.0, the window and the function at reset (R393, R783). -/
def State.seatCleared (s : State) (seat : Nat) : State :=
  ((s.endRerank.clkMap (fun k => { k with kappa := 256 })).clearWindow seat).fnMap seat
    (fun f => { fnNil seat with enabled := f.enabled, internalError := f.internalError })

/-- A seat's reset ends with its window, its function and κ at reset, whatever it had to discard before. -/
theorem State.srst_cleared (s : State) (seat : Nat) : ∃ w : State, s.srst seat = w.seatCleared seat := ⟨_, rfl⟩

/-- The reset of a seat leaves the port mode and the enabled functions. -/
@[simp] theorem State.link_srst (s : State) (seat : Nat) : (s.srst seat).link = s.link := by
  have hcleared (t : State) : (t.seatCleared seat).link = t.link := by
    have hfn (u : State) : (u.fnMap seat (fun f => { fnNil seat with enabled := f.enabled, internalError := f.internalError })).link = u.link :=
      u.link_fnMap seat (fun x hx => by rw [hx]; rfl)
    rw [State.seatCleared, hfn, State.link_clearWindow, State.link_clkMap, State.link_endRerank]
  unfold State.srst
  extract_lets vacated own quieted stopped freed mine flushed emptied ended
  calc (ended.clearWindow seat |>.fnMap seat (fun f => { fnNil seat with enabled := f.enabled, internalError := f.internalError })).link
    _ = emptied.link := hcleared emptied
    _ = flushed.link := State.link_hostMap _ rfl
    _ = freed.link := by
      refine State.each_keeps (π := State.link) _ _ (fun t c => ?_)
      split
      · exact t.link_withdraw c _
      · split <;> simp
    _ = stopped.link := State.each_keeps (π := State.link) _ _ (fun t c => t.link_freeSearch c)
    _ = quieted.link := State.link_discardFar _ _
    _ = vacated.link := State.link_hostMap _ rfl
    _ = s.link := by simp [vacated]

/-! ## Functions of a port -/

theorem find?_updFirst_other {α : Type} {p q : α → Bool} {f : α → α} (h : ∀ x, p x = true → q x = false ∧ q (f x) = false) (l : List α) :
    (updFirst p f l).find? q = l.find? q := by
  induction l with
  | nil => rfl
  | cons x l ih =>
    unfold updFirst
    split
    case isTrue hx =>
      obtain ⟨hq, hqf⟩ := h x hx
      rw [List.find?_cons_of_neg (ne_true_of_eq_false hqf), List.find?_cons_of_neg (ne_true_of_eq_false hq)]
    case isFalse => rw [List.find?_cons, List.find?_cons, ih]

/-- A function changed reads as changed where it is listed, and as absent where it is not. -/
theorem State.fn_fnMap (s : State) (seat : Nat) {f : Fn → Fn} (hf : ∀ x, x.seat = seat → (f x).seat = seat) :
    (s.fnMap seat f).fn seat = ((s.host.fns.find? (fun x => x.seat == seat)).map f).getD (fnNil seat) :=
  congrArg (Option.getD · _) (find?_updFirst _ f s.host.fns (fun x hx => beq_iff_eq.mpr (hf x (beq_iff_eq.mp hx))))

/-- The function of a seat that was reset: bus mastering off, in D0, MSI-X off (R393). -/
theorem State.fn_seatCleared (s : State) (seat : Nat) : let f := (s.seatCleared seat).fn seat
    f.bme = false ∧ f.d3hot = false ∧ f.msixEnable = false := by
  rw [State.seatCleared, State.fn_fnMap _ seat (fun _ _ => rfl)]
  generalize List.find? _ _ = listed
  cases listed <;> exact ⟨rfl, rfl, rfl⟩

/-- A function that is there no more. -/
def State.disable (s : State) (seat : Nat) : State := s.fnMap seat (fun f => { f with enabled := false })

theorem State.enabled_disable (s : State) (seat k : Nat) (h : k = seat ∨ (s.fn k).enabled = false) : ((s.disable seat).fn k).enabled = false := by
  by_cases hk : k = seat
  · subst hk
    have hread := s.fn_fnMap k (f := fun f => { f with enabled := false }) (fun _ hx => hx)
    rw [State.disable, hread]
    cases s.host.fns.find? (fun x => x.seat == k) <;> rfl
  · have hother : (s.disable seat).fn k = s.fn k := by
      refine congrArg (Option.getD · _) (find?_updFirst_other (fun x hx => ?_) s.host.fns)
      have hne : (x.seat == k) = false := beq_eq_false_iff_ne.mpr (fun hx' => hk (hx'.symm.trans (beq_iff_eq.mp hx)))
      exact ⟨hne, hne⟩
    rw [hother]
    exact h.resolve_left hk

theorem State.enabled_each_disable (l : List Nat) (s : State) (k : Nat) (h : k ∈ l ∨ (s.fn k).enabled = false) :
    ((s.each l State.disable).fn k).enabled = false := by
  induction l generalizing s with
  | nil => exact h.resolve_left List.not_mem_nil
  | cons seat l ih =>
    rw [State.each_cons]
    rcases h with h | h
    · rcases List.mem_cons.mp h with h | h
      · exact ih _ (.inr (s.enabled_disable seat k (.inl h)))
      · exact ih _ (.inl h)
    · exact ih _ (.inr (s.enabled_disable seat k (.inr h)))

/-! ## Ports -/

theorem State.port_of_sound {s : State} (h : s.sound = true) (port : Fin 2) : ∃ p, s.host.ports[port.val]? = some p := by
  obtain ⟨_, _, _, _, _, _, _, _, hports⟩ := s.sound_iff.mp h
  exact ⟨_, List.getElem?_eq_getElem (by rw [hports]; exact port.isLt)⟩

theorem getElem?_updAt_some {α : Type} {i : Nat} {f : α → α} {l : List α} {x : α} (h : (updAt i f l)[i]? = some x) :
    ∃ y, l[i]? = some y ∧ f y = x := by
  rw [getElem?_updAt_same] at h
  exact Option.map_eq_some_iff.mp h

theorem State.vfSeats_of_link {s t : State} (h : t.link = s.link) (port : Nat) : t.vfSeats port = s.vfSeats port := by
  rw [State.vfSeats, State.vfSeats, State.split_of_link h]

/-- VF Enable cleared (R392): the seats of the port are reset, and their functions are there no more. -/
theorem State.vfClear_eq (s : State) (port : Nat) : s.vfClear port =
    ((s.each (s.vfSeats port) State.srst).each (s.vfSeats port) State.disable).hostMap
      (fun h => { h with ports := updAt port (fun p => { p with vfEnable := false }) h.ports }) := by
  have hlink : (s.each (s.vfSeats port) State.srst).link = s.link := State.each_keeps (π := State.link) _ s (fun t seat => t.link_srst seat)
  rw [State.vfClear, State.vfSeats_of_link hlink]
  rfl

theorem State.port_portDown {s : State} {port : Nat} {p : Port} (h : (s.portDown port).host.ports[port]? = some p) : p.up = false ∧ p.vfEnable = false := by
  obtain ⟨q, -, rfl⟩ := getElem?_updAt_some h
  exact ⟨rfl, rfl⟩

theorem State.hotReset_split {s : State} (h : s.rd hstPortModeSplit = 1) (port : Nat) :
    s.hotReset port = (s.each (pfSeat port :: s.vfSeats port) State.srst).portDown port := if_pos h

theorem State.hotReset_whole {s : State} (h : s.rd hstPortModeSplit = 0) : s.hotReset 0 = (s.portDown 0).warmReset true := by
  rw [State.hotReset, if_neg (by omega), if_pos rfl]

/-- A port that goes down changes neither the power state nor a register. -/
theorem State.portDown_power (s : State) (port : Nat) : ((s.portDown port).pwr, (s.portDown port).regs) = (s.pwr, s.regs) :=
  State.each_keeps (π := fun t => (t.pwr, t.regs)) _ s (fun _ _ => rfl)

/-- A warm reset that comes through the host link notes that it did (R777). -/
theorem State.warmReset_link {s : State} (link : Bool) (hmode : s.pwr.mode = .playing) (hfatal : s.rd errStatusFatal ≠ 1) :
    (s.warmReset link).pwr.linkReset = link := by simp [State.warmReset, hmode, hfatal]

/-- In x16 mode a hot reset is a warm reset (R392). -/
theorem State.hotReset_warm {s : State} (hwhole : s.rd hstPortModeSplit = 0) (hmode : s.pwr.mode = .playing) (hfatal : s.rd errStatusFatal = 0) :
    (s.hotReset 0).pwr.mode = .warm ∧ (s.hotReset 0).pwr.linkReset = true := by
  have hpower := s.portDown_power 0
  have hmode' : (s.portDown 0).pwr.mode = .playing := (congrArg (fun p => p.1.mode) hpower).trans hmode
  have hfatal' : (s.portDown 0).rd errStatusFatal ≠ 1 := by
    rw [State.rd_of_regs s _ _ _ (congrArg Prod.snd hpower), hfatal]
    decide
  rw [State.hotReset_whole hwhole]
  exact ⟨State.warmReset_playing _ true hmode' hfatal', State.warmReset_link true hmode' hfatal'⟩

theorem exec_flr (fn : Seat) (s : State) : exec (.flr fn) s = .next (s.when s.answers (fun s => s.flr fn.val)) := rfl
theorem exec_vfEnableClear (port : Fin 2) (s : State) : exec (.vfEnableClear port) s = .next (s.when s.answers (fun s => s.vfClear port.val)) := rfl
theorem exec_hotReset (port : Fin 2) (s : State) : exec (.hotReset port) s = .next (s.hotReset port.val) := rfl
theorem exec_dlDown (port : Fin 2) (s : State) : exec (.dlDown port) s = .next (s.hotReset port.val) := rfl
theorem exec_perstAssert (port : Fin 2) (s : State) : exec (.perstAssert port) s = .next (s.perstLow port.val) := rfl

end Sys2Proof.Machine
end

section
/-!
PROOFS. The resets that come through the host link (O30).
-/
namespace Sys2Proof.Claims
open Sys2Proof Sys2Proof.Machine

/-- The reset of a virtual function. -/
theorem answers_flr_virtual {s : State} (hanswers : s.answers = true) {fn : Seat} (hvf : fn.val ∉ s.pfs) : Answers (.flr fn) s (s.srst fn.val) := by
  have hpf : ¬s.pfs.contains fn.val = true := by simpa using hvf
  rw [Answers, exec_flr, State.when, if_pos hanswers, State.flr, if_neg hpf]

/-- The reset of a physical function. -/
theorem answers_flr_physical {s : State} (hanswers : s.answers = true) {fn : Seat} (hpf : fn.val ∈ s.pfs) :
    Answers (.flr fn) s (s.each (fn.val :: s.vfSeats (s.portOf fn.val)) State.srst) := by
  have hpf : s.pfs.contains fn.val = true := by simpa using hpf
  rw [Answers, exec_flr, State.when, if_pos hanswers, State.flr, if_pos hpf]

theorem answers_vfEnableClear {s : State} (hanswers : s.answers = true) (port : Fin 2) : Answers (.vfEnableClear port) s (s.vfClear port.val) := by
  rw [Answers, exec_vfEnableClear, State.when, if_pos hanswers]

/-- What a seat's reset leaves of its window, its function and κ. -/
theorem srst_resets (s : State) (fn : Seat) :
    (∀ q < 8, (s.srst fn.val).rdw hstSbqCtrlEnable fn.val q = 0 ∧ (s.srst fn.val).rdw hstCpqCtrlEnable fn.val q = 0) ∧
    ((s.srst fn.val).fn fn.val).bme = false ∧ ((s.srst fn.val).fn fn.val).d3hot = false ∧ ((s.srst fn.val).fn fn.val).msixEnable = false ∧
    (s.srst fn.val).clk.kappa = 256 := by
  obtain ⟨w, hw⟩ := s.srst_cleared fn.val
  obtain ⟨hbme, hd3hot, hmsix⟩ := w.fn_seatCleared fn.val
  rw [hw]
  have hqueue {f : Fld} (hwin : f.win = true) (hlo : f.lo < 32) (hoff : f.off < 2 ^ 16) (hstride : f.stride ≤ 2 ^ 16) {q : Nat} (hq : q < 8) :
      (w.seatCleared fn.val).rdw f fn.val q = resetOf f q := by
    refine State.rdw_clearWindow _ fn.val q hwin hlo ?_
    nlinarith
  exact ⟨fun q hq => ⟨hqueue rfl (by decide) (by decide) (by decide) hq, hqueue rfl (by decide) (by decide) (by decide) hq⟩, hbme, hd3hot, hmsix, rfl⟩

/-- VF Enable cleared: the port says so, and no function of its virtual seats is enabled. -/
theorem vfClear_clears {s : State} (hs : s.sound = true) (port : Fin 2) :
    (∃ p, (s.vfClear port.val).host.ports[port.val]? = some p ∧ p.vfEnable = false) ∧
    ∀ k ∈ s.vfSeats port.val, ((s.vfClear port.val).fn k).enabled = false := by
  obtain ⟨p, hp⟩ := State.port_of_sound ((Follows.refl s).vfClear.sound hs) port
  refine ⟨⟨p, hp, ?_⟩, fun k hk => ?_⟩
  · rw [State.vfClear_eq] at hp
    obtain ⟨q, -, rfl⟩ := getElem?_updAt_some hp
    rfl
  · rw [State.vfClear_eq]
    exact State.enabled_each_disable _ _ k (.inl hk)

/-- In x8x8 mode a hot reset takes the port down. -/
theorem hotReset_takesDown {s : State} (hs : s.sound = true) (hsplit : s.rd hstPortModeSplit = 1) (port : Fin 2) :
    ∃ p, (s.hotReset port.val).host.ports[port.val]? = some p ∧ p.up = false ∧ p.vfEnable = false := by
  obtain ⟨p, hp⟩ := State.port_of_sound ((Follows.refl s).hotReset.sound hs) port
  refine ⟨p, hp, ?_⟩
  rw [State.hotReset_split hsplit] at hp
  exact State.port_portDown hp

/-- Settles O30: a seat's reset ends with its window, function and κ at reset; in x16 mode a reset of the port is a warm reset, in x8x8 mode the
port goes down. -/
theorem hostLinkResets : Obligations.HostLinkResets := by
  intro s hs
  refine ⟨fun fn hanswers hvf => ⟨_, answers_flr_virtual hanswers hvf, srst_resets s fn⟩, fun fn hanswers hpf => answers_flr_physical hanswers hpf,
    fun port hanswers => ?_, fun port hsplit => ?_, fun hwhole hmode hfatal => ?_⟩
  · obtain ⟨hport, hgone⟩ := vfClear_clears hs port
    exact ⟨_, answers_vfEnableClear hanswers port, hport, hgone, congrArg State.host (s.vfClear_eq port.val)⟩
  · obtain ⟨p, hp, hup, hvf⟩ := hotReset_takesDown hs hsplit port
    have hperst : (s.perstLow port.val).host.ports[port.val]? = some { p with perst := true } :=
      (getElem?_updAt_same _ _ _).trans (congrArg (Option.map _) hp)
    exact ⟨⟨_, p, exec_hotReset port s, hp, hup, hvf⟩, ⟨_, p, exec_dlDown port s, hp, hup, hvf⟩,
      ⟨_, _, exec_perstAssert port s, hperst, hup, rfl⟩⟩
  · obtain ⟨hwarm, hlink⟩ := State.hotReset_warm hwhole hmode hfatal
    obtain ⟨p, hp⟩ := State.port_of_sound ((Follows.refl s).hotReset (port := 0).sound hs) 0
    have hperst : (s.perstLow 0).host.ports[0]? = some { p with perst := true } := (getElem?_updAt_same _ _ _).trans (congrArg (Option.map _) hp)
    exact ⟨⟨_, exec_hotReset 0 s, hwarm, hlink⟩, ⟨_, exec_dlDown 0 s, hwarm, hlink⟩, ⟨_, _, exec_perstAssert 0 s, hwarm, hperst, rfl⟩⟩

end Sys2Proof.Claims
end

section
/-!
LAWS. The records of the queries (R414, R426, R427, R650, R699, R827): the bytes they are made of, what a list of register reads leaves as it was,
and the posting of a record before its completion.
-/
namespace Sys2Proof.Machine

/-! ## Bytes -/

@[simp] theorem length_leBytes (n v : Nat) : (leBytes n v).length = n := by
  induction n generalizing v with
  | zero => rfl
  | succ n ih => simp [leBytes, ih]

@[simp] theorem length_zeros (n : Nat) : (zeros n).length = n := List.length_replicate

theorem length_padTo {n : Nat} {b : Bytes} (h : b.length ≤ n) : (padTo n b).length = n := by
  simp [padTo, Nat.add_sub_cancel' h]

/-- A field past the bytes that stand before it. -/
theorem field_append {a : Bytes} {off : Nat} (b : Bytes) (n : Nat) (h : a.length = off) : field (a ++ b) off n = field b 0 n := by
  simp [field, ← h]

/-- A value's bytes read as its low bytes (R20). -/
theorem field_leBytes (n v : Nat) (b : Bytes) : field (leBytes n v ++ b) 0 n = v % 256 ^ n := by
  induction n generalizing v with
  | zero => simp [field, leNat, Nat.mod_one]
  | succ n ih =>
    have hrest : leNat (leBytes n (v / 256)) = v / 256 % 256 ^ n := by simpa [field] using ih (v / 256)
    simp [field, leBytes, leNat, hrest, Nat.pow_succ, Nat.mul_comm (256 ^ n), Nat.mod_mul]

theorem leNat_lt (b : Bytes) : leNat b < 256 ^ b.length := by
  induction b with
  | nil => simp [leNat]
  | cons x b ih =>
    have hx := x.isLt
    simp only [leNat, List.length_cons, Nat.pow_succ]
    omega

theorem field_lt (b : Bytes) (off n : Nat) : field b off n < 256 ^ n :=
  (leNat_lt _).trans_le (Nat.pow_le_pow_right (by decide) (by simp))

/-- Block `i` of a string of blocks of one length. -/
theorem slice_flatten {n i : Nat} {l : List Bytes} {b : Bytes} (hl : ∀ x ∈ l, x.length = n) (hi : l[i]? = some b) (k : Nat) (hk : k ≤ n) :
    slice l.flatten (n * i) k = b.take k := by
  induction l generalizing i with
  | nil => cases hi
  | cons x l ih =>
    obtain ⟨hx, hl⟩ := List.forall_mem_cons.1 hl
    cases i with
    | zero =>
      obtain rfl := Option.some.inj hi
      simp [slice, List.take_append_of_le_length (hk.trans_eq hx.symm)]
    | succ i =>
      have hnext : slice (x ++ l.flatten) (n * (i + 1)) k = slice l.flatten (n * i) k := by
        rw [slice, Nat.mul_succ, Nat.add_comm, ← List.drop_drop, ← hx, List.drop_left, slice]
      exact hnext.trans (ih hl hi)

theorem length_flatten_of_length {n : Nat} {l : List Bytes} (hl : ∀ x ∈ l, x.length = n) : l.flatten.length = n * l.length := by
  rw [List.length_flatten, List.map_eq_replicate_iff.2 hl, List.sum_replicate, smul_eq_mul, Nat.mul_comm]

/-! ## A list of registers read (R427, R500) -/

/-- What was sent, the store, and whether a function may post: what a function's register reads leave as it was. -/
def State.readFrame (s : State) (fn : Nat) : List Out × Store × Bool := (s.out, s.store, (s.fn fn).canPost)

theorem State.canPost_fnMap (s : State) (fn : Nat) {f : Fn → Fn} (hseat : ∀ x, (f x).seat = x.seat) (hpost : ∀ x, (f x).canPost = x.canPost) :
    ((s.fnMap fn f).fn fn).canPost = (s.fn fn).canPost := by
  have hfind : (s.fnMap fn f).host.fns.find? (fun x => x.seat == fn) = (s.host.fns.find? (fun x => x.seat == fn)).map f :=
    find?_updFirst _ _ _ (fun x hx => by rwa [hseat])
  rw [State.fn, State.fn, hfind]
  cases s.host.fns.find? (fun x => x.seat == fn) with
  | none => rfl
  | some x => exact hpost x

/-- A meter read changes the words latched for its function alone (R536). -/
theorem State.readFrame_meterRead (s : State) (fn k : Nat) (high : Bool) : (s.meterRead fn k high).1.readFrame fn = s.readFrame fn := by
  have hlatch (f : Fn → List (Nat × Nat)) : (s.fnMap fn (fun x => { x with meterLatch := f x })).readFrame fn = s.readFrame fn :=
    congrArg (fun b => (s.out, s.store, b)) (s.canPost_fnMap fn (fun _ => rfl) (fun _ => rfl))
  simp only [State.meterRead]
  split
  · rfl
  split
  · split
    · exact hlatch _
    · rfl
  · exact hlatch _

theorem State.readFrame_bar0Read (s : State) (fn off : Nat) : (s.bar0Read fn off).1.readFrame fn = s.readFrame fn := by
  unfold State.bar0Read
  split
  · exact s.readFrame_meterRead fn _ _
  split
  · exact s.readFrame_meterRead fn _ _
  split
  · exact s.readFrame_meterRead fn _ _
  split
  · rfl
  · dsimp only
    split <;> rfl

theorem State.readFrame_readList (s : State) (fn : Nat) (l : List Nat) : (s.readList fn l).1.readFrame fn = s.readFrame fn := by
  induction l generalizing s with
  | nil => rfl
  | cons off l ih => exact (ih _).trans (s.readFrame_bar0Read fn off)

theorem State.length_readList (s : State) (fn : Nat) (l : List Nat) : (s.readList fn l).2.length = 4 * l.length := by
  induction l generalizing s with
  | nil => rfl
  | cons off l ih => simp [State.readList, ih, Nat.mul_succ, Nat.add_comm]

/-! ## A record posted (R414) -/

/-- A record is posted to the buffer its command names, and then the command completes. -/
theorem State.replyOk_posts {s : State} {c : Cmd} (off : Nat) (bytes : Bytes) (horigin : c.origin = 0) (hquiet : c.quiet = false)
    (hpost : (s.fn c.seat).canPost = true) :
    ∃ w : State, s.replyOk c off bytes = w.completeOk c (bufAddr c.param off) 1 ∧
      w.out = s.out ++ [.hostWrite c.seat (bufAddr c.param off) bytes false] ∧ w.regs = s.regs ∧ w.store = s.store ∧ w.host.cpqs = s.host.cpqs :=
  ⟨_, congrArg (fun t : State => t.completeOk c (bufAddr c.param off) 1) (State.reply_of_canPost _ _ horigin hquiet hpost), rfl, rfl, rfl, rfl⟩

theorem State.completeOk_cmd? (s : State) (c : Cmd) (location count : Nat) : (s.completeOk c location count).cmd? c.cid = none :=
  s.complete_cmd? c stOk s.measure location count true

/-! ## The records -/

/-- IDENTIFY's record begins with the member of the family, 64, and names the seat that asked (R426; log entry 32). -/
theorem State.identity_fields (s : State) (seat : Nat) :
    (s.identity seat).length = 128 ∧ field (s.identity seat) 0 1 = 64 ∧ field (s.identity seat) 4 2 = seat % 65536 := by
  refine ⟨length_padTo (by simp), ?_, ?_⟩
  · simp only [State.identity, padTo, List.append_assoc]
    exact field_leBytes 1 64 _
  · have hhead : (leBytes 1 64 ++ (leBytes 1 Config.stepping.toNat ++ (leBytes 1 3 ++ leBytes 1 (s.ownerCode seat)))).length = 4 := by simp
    have hseat := fun rest => (field_append (leBytes 2 seat ++ rest) 2 hhead).trans (field_leBytes 2 seat rest)
    simp only [List.append_assoc] at hseat
    simp only [State.identity, padTo, List.append_assoc]
    exact hseat _

/-- FW_QUERY's record names the state of the staged image in its second byte (R699). -/
theorem State.fwQuery_fields (s : State) : s.fwQuery.length = 64 ∧ field s.fwQuery 1 1 = s.pwr.boot.staged % 256 := by
  refine ⟨length_padTo (by simp), ?_⟩
  simp only [State.fwQuery, padTo, List.append_assoc]
  exact (field_append _ 1 (length_leBytes 1 _)).trans (field_leBytes 1 _ _)

/-- The values of a counter group: those intake took from the snapshot, or those read live (R828). -/
def State.groupBytes (s : State) (c : Cmd) : Bytes :=
  if field c.param 0 2 < 0x000B then c.operands.drop 4 else (s.groupValues c.seat (field c.param 0 2)).flatMap (leBytes 8)

/-- The measure of a counter group's values: that of the snapshot, or none (R828). -/
def Cmd.groupMeasure (c : Cmd) : Bytes := if field c.param 0 2 < 0x000B then c.operands.take 4 else zeros 4

/-- The record of a counter group, with its header (R827). -/
def State.groupRecord (s : State) (c : Cmd) : Bytes :=
  leBytes 2 (field c.param 0 2) ++ leBytes 2 ((s.groupBytes c).length / 8) ++ c.groupMeasure ++ leBytes 4 s.measure ++ zeros 20 ++ s.groupBytes c

theorem State.telemetryRead_eq (s : State) (c : Cmd) : s.telemetryRead c = s.replyOk c 8 (s.groupRecord c) := rfl

theorem State.groupRecord_group (s : State) (c : Cmd) : field (s.groupRecord c) 0 2 = field c.param 0 2 := by
  simp only [State.groupRecord, List.append_assoc]
  exact (field_leBytes 2 _ _).trans (Nat.mod_eq_of_lt (field_lt _ _ _))

/-- The bytes of a group of the snapshot stand after the header; a command without them has no values (R828). -/
theorem State.groupRecord_snapshot (s : State) {c : Cmd} (h : field c.param 0 2 < 0x0B) : (s.groupRecord c).drop 32 = c.operands.drop 4 := by
  have hvalues : s.groupBytes c = c.operands.drop 4 := if_pos h
  have hmeasure : c.groupMeasure = c.operands.take 4 := if_pos h
  by_cases hlen : 4 ≤ c.operands.length
  · rw [← hvalues]
    exact List.drop_left' (by simp [hmeasure, hlen])
  · have hnone : c.operands.drop 4 = [] := List.drop_eq_nil_of_le (by omega)
    rw [hnone]
    refine List.drop_eq_nil_of_le ?_
    simp only [State.groupRecord, hvalues, hmeasure, hnone, List.length_append, length_leBytes, length_zeros, List.length_take, List.length_nil]
    omega

theorem State.groupRecord_live (s : State) {c : Cmd} (h : 0x0B ≤ field c.param 0 2) :
    (s.groupRecord c).length = 32 + 8 * (s.groupValues c.seat (field c.param 0 2)).length := by
  have hvalues : s.groupBytes c = (s.groupValues c.seat (field c.param 0 2)).flatMap (leBytes 8) := if_neg (Nat.not_lt.2 h)
  have hmeasure : c.groupMeasure = zeros 4 := if_neg (Nat.not_lt.2 h)
  simp [State.groupRecord, hvalues, hmeasure]
  omega

/-- The weave map's entries with each member's state, a byte the spec leaves open (R650; log entry 37). -/
def State.mapEntries (s : State) : List Bytes :=
  (s.weave.map.zip (List.range s.weave.map.length)).map (fun p => (mapEntBytes p.1).take 15 ++ [Config.freeByte (s.free + p.2)])

theorem length_mapEntBytes (e : MapEnt) : (mapEntBytes e).length = 16 := by simp [mapEntBytes]

theorem State.mapEntries_length (s : State) : ∀ b ∈ s.mapEntries, b.length = 16 := by
  intro b hb
  obtain ⟨p, -, rfl⟩ := List.mem_map.1 hb
  simp [length_mapEntBytes]

theorem State.length_mapRecord (s : State) : s.mapEntries.flatten.length = 16 * s.weave.map.length := by
  rw [length_flatten_of_length s.mapEntries_length]
  simp [State.mapEntries]

/-- Each entry of the map stands at its place, but for its last byte. -/
theorem State.slice_mapRecord (s : State) {i : Nat} {m : MapEnt} (h : s.weave.map[i]? = some m) :
    slice s.mapEntries.flatten (16 * i) 15 = (mapEntBytes m).take 15 := by
  have hentry : s.mapEntries[i]? = some ((mapEntBytes m).take 15 ++ [Config.freeByte (s.free + i)]) := by
    obtain ⟨hi, rfl⟩ := List.getElem?_eq_some_iff.1 h
    simp [State.mapEntries, hi]
  rw [slice_flatten s.mapEntries_length hentry 15 (by decide)]
  exact List.take_left' (by simp [length_mapEntBytes])

theorem State.weaveStatus_eq (s : State) (c : Cmd) :
    s.weaveStatus c = if bufLen c.param 8 < s.mapEntries.flatten.length then s.refuse c stBadParam
      else (s.tickFrees s.weave.map.length).replyOk c 8 s.mapEntries.flatten := rfl

/-! ## The commands -/

theorem exec_identify (cid : Nat) (s : State) : exec (.identify cid) s = .next (s.row cid 0x02 State.identify) := rfl

theorem exec_configRead (cid : Nat) (s : State) : exec (.configRead cid) s = .next (s.row cid 0x30 State.configRead) := rfl

theorem exec_telemetryRead (cid : Nat) (s : State) : exec (.telemetryRead cid) s = .next (s.row cid 0x48 State.telemetryRead) := rfl

theorem exec_fwQuery (cid : Nat) (s : State) : exec (.fwQuery cid) s = .next (s.row cid 0x41 State.fwAsk) := rfl

theorem exec_weaveAdminStatus (cid : Nat) (s : State) : exec (.weaveAdminStatus cid) s = .next (s.adminRow cid 7 State.weaveStatus) := rfl

end Sys2Proof.Machine
end

section
/-!
PROOFS. IDENTIFY, CONFIG_READ, TELEMETRY_READ, FW_QUERY and STATUS (O33).
-/
namespace Sys2Proof.Claims
open Sys2Proof Sys2Proof.Machine

section
variable {cid op : Nat} {c : Cmd} {s : State} (hready : hostReady s cid op c) (hpost : (s.fn c.seat).canPost = true)
include hready

/-- A command that answers with a record posts it to its buffer and completes, and is in hand no more (R414). -/
theorem answers_replyOk {i : Instr} (off : Nat) (bytes : Bytes) {t : State} (ht : (t.fn c.seat).canPost = true)
    (hi : Answers i s (t.replyOk c off bytes)) :
    ∃ w : State, Answers i s (w.completeOk c (bufAddr c.param off) 1) ∧
      w.out = t.out ++ [.hostWrite c.seat (bufAddr c.param off) bytes false] ∧ w.regs = t.regs ∧ w.store = t.store ∧ w.host.cpqs = t.host.cpqs ∧
      (w.completeOk c (bufAddr c.param off) 1).cmd? cid = none := by
  obtain ⟨-, hc, -, -, horigin, hquiet, -⟩ := hready
  obtain rfl := State.cmd?_cid hc
  obtain ⟨w, hw, hout, hregs, hstore, hcpqs⟩ := State.replyOk_posts off bytes horigin hquiet ht
  exact ⟨w, hi.trans (congrArg _ hw), hout, hregs, hstore, hcpqs, w.completeOk_cmd? c _ _⟩

theorem answers_weaveStatus (hop : op = 0x58) (hsub : field c.param 0 1 = 7) : Answers (.weaveAdminStatus cid) s (s.weaveStatus c) := by
  subst hop
  rw [Answers, exec_weaveAdminStatus, State.adminRow, row_of_hostReady hready, if_pos hsub]

include hpost

/-- The words of a CONFIG_READ are read in entry order, then written (R427). -/
theorem answers_configRead (hop : op = 0x30) : ∃ (w : State) (bytes : Bytes), Answers (.configRead cid) s (w.completeOk c (bufAddr c.param 8) 1) ∧
    w.out = s.out ++ [.hostWrite c.seat (bufAddr c.param 8) bytes false] ∧ bytes = (s.readList c.seat (readOffsets c.param)).2 ∧
    bytes.length = 4 * (readOffsets c.param).length ∧ w.store = s.store ∧ (w.completeOk c (bufAddr c.param 8) 1).cmd? cid = none := by
  subst hop
  have hframe := s.readFrame_readList c.seat (readOffsets c.param)
  simp only [State.readFrame, Prod.mk.injEq] at hframe
  obtain ⟨hout, hstore, hcan⟩ := hframe
  have hrow : Answers (.configRead cid) s ((s.readList c.seat (readOffsets c.param)).1.replyOk c 8 (s.readList c.seat (readOffsets c.param)).2) := by
    rw [Answers, exec_configRead, row_of_hostReady hready]
    rfl
  obtain ⟨w, hw, hsent, -, hkept, -, hgone⟩ := answers_replyOk hready _ _ (hcan.trans hpost) hrow
  exact ⟨w, _, hw, by rw [hsent, hout], rfl, s.length_readList _ _, hkept.trans hstore, hgone⟩

/-- A map that fits its buffer is written (R650). -/
theorem answers_weaveStatus_fits (hop : op = 0x58) (hsub : field c.param 0 1 = 7) (hfits : 16 * s.weave.map.length ≤ bufLen c.param 8) :
    ∃ (w : State) (bytes : Bytes), Answers (.weaveAdminStatus cid) s (w.completeOk c (bufAddr c.param 8) 1) ∧
      w.out = s.out ++ [.hostWrite c.seat (bufAddr c.param 8) bytes false] ∧ bytes.length = 16 * s.weave.map.length ∧
      (∀ i m, s.weave.map[i]? = some m → slice bytes (16 * i) 15 = (mapEntBytes m).take 15) ∧ w.regs = s.regs := by
  have hanswers := answers_weaveStatus hready hop hsub
  rw [State.weaveStatus_eq, if_neg (by rw [State.length_mapRecord]; omega)] at hanswers
  obtain ⟨w, hw, hsent, hregs, -⟩ := answers_replyOk hready _ _ (t := s.tickFrees s.weave.map.length) hpost hanswers
  exact ⟨w, _, hw, hsent, s.length_mapRecord, fun i m hm => s.slice_mapRecord hm, hregs⟩

end

/-- Settles O33: each command posts its record and completes by one lemma; the records by their bytes. -/
theorem queriesAnswerWithARecord : Obligations.QueriesAnswerWithARecord := by
  intro cid op c s hready hpost
  refine ⟨?_, answers_configRead hready hpost, ?_, ?_, fun hop hsub => ⟨fun hshort => ?_, answers_weaveStatus_fits hready hpost hop hsub⟩⟩
  · rintro rfl
    obtain ⟨hlen, hsize, hseat⟩ := s.identity_fields c.seat
    have hrow : Answers (.identify cid) s (s.replyOk c 0 (s.identity c.seat)) := by rw [Answers, exec_identify, row_of_hostReady hready]; rfl
    obtain ⟨w, hw, hout, hregs, hstore, hcpqs, hgone⟩ := answers_replyOk hready _ _ hpost hrow
    exact ⟨w, hw, hout, hregs, hstore, hcpqs, hlen, hsize, hseat, hgone⟩
  · rintro rfl
    have hrow : Answers (.telemetryRead cid) s (s.replyOk c 8 (s.groupRecord c)) := by
      rw [Answers, exec_telemetryRead, row_of_hostReady hready, State.telemetryRead_eq]
    obtain ⟨w, hw, hout, hregs, -, -, hgone⟩ := answers_replyOk hready _ _ hpost hrow
    exact ⟨w, _, hw, hout, hregs, s.groupRecord_group c, s.groupRecord_snapshot, s.groupRecord_live, hgone⟩
  · rintro rfl
    obtain ⟨hlen, hstaged⟩ := s.fwQuery_fields
    have hrow : Answers (.fwQuery cid) s (s.replyOk c 0 s.fwQuery) := by rw [Answers, exec_fwQuery, row_of_hostReady hready]; rfl
    obtain ⟨w, hw, hout, hregs, -, -, hgone⟩ := answers_replyOk hready _ _ hpost hrow
    exact ⟨w, hw, hout, hregs, hlen, hstaged, hgone⟩
  · have hanswers := answers_weaveStatus hready hop hsub
    rwa [State.weaveStatus_eq, if_pos (by rwa [State.length_mapRecord])] at hanswers

end Sys2Proof.Claims
end

section
/-!
LAWS. Mutations (R434 to R438, R462 to R468): the wait for a grant, the grant, the data that arrives, the commit of a batch, and the wait that runs
out.
-/
namespace Sys2Proof.Machine

/-! ## The wait for a grant (R462, R463) -/

theorem State.inOrder_of_unordered {c : Cmd} (s : State) (h : ordered c.opcode = false) : s.inOrder c = true := by simp [State.inOrder, h]

/-- A command changed to another of its number is found in its place. -/
theorem State.cmd?_cmdMap_of {s : State} {cid : Nat} {c : Cmd} {f : Cmd → Cmd} (h : s.cmd? cid = some c) (hf : ∀ x, (f x).cid = x.cid) :
    (s.cmdMap cid f).cmd? cid = some (f c) := by rw [State.cmd?_cmdMap s cid hf, h]; rfl

/-- A mutation that waits for its grant. -/
def Cmd.waitingGrant (c : Cmd) : Cmd := { c with stage := .waitGrant }

section
variable {s : State} {c : Cmd}

theorem State.insertBegin_error {st : Nat} (h : s.mutationShelf c = .error st) : s.insertBegin c = s.refuse c st := by
  simp [State.insertBegin, h]

variable {h : Shelf} (hshelf : s.mutationShelf c = .ok h)
include hshelf

theorem State.insertBegin_full (hfull : s.neverFits (s.needs c) = true) : s.insertBegin c = s.stagingFull c := by
  simp [State.insertBegin, hshelf, hfull]

theorem State.insertBegin_waits (hfits : s.neverFits (s.needs c) = false) : s.insertBegin c = s.cmdMap c.cid Cmd.waitingGrant := by
  simp only [State.insertBegin, hshelf, hfits]
  rfl

end

/-! ## The commit of a batch (R465 to R468) -/

/-- Whether a batch may commit rests on the store alone. -/
theorem State.commit_checks_of_store {s t : State} (h : t.store = s.store) (x : Shelf) (rs : List Rec) :
    rs.any (fun r => t.heldBySlab x.index r.id) = rs.any (fun r => s.heldBySlab x.index r.id) ∧ t.overCapacity x rs = s.overCapacity x rs ∧
      t.presentId? x.index rs = s.presentId? x.index rs := by
  obtain ⟨⟩ := s
  obtain ⟨⟩ := t
  cases h
  exact ⟨rfl, rfl, rfl⟩

section
variable {s t : State} {c : Cmd} {h : Shelf} {rs : List Rec} (hstore : t.store = s.store) (hhead : t.isHead = false)
  (hheld : rs.any (fun r => s.heldBySlab h.index r.id) = false)
include hstore hhead hheld

/-- A batch that nothing stops commits. -/
theorem State.tryCommit_commits (hnew : c.opcode = 0x20 → s.presentId? h.index rs = none) (hcap : s.overCapacity h rs = false) :
    t.tryCommit c h rs = (t.commitRecs h.index c.cid t.measure c.settleFlag rs).committed c := by
  obtain ⟨hheld', hcap', hnew'⟩ := State.commit_checks_of_store hstore h rs
  have hstop : (if c.opcode = 0x20 then t.presentId? h.index rs else none) = none := by
    split
    · exact hnew'.trans (hnew ‹_›)
    · rfl
  simp [State.tryCommit, hhead, hheld'.trans hheld, hstop, hcap'.trans hcap]

/-- An INSERT of an id that is present is refused, and shows the id (R466). -/
theorem State.tryCommit_present {id : Nat} (hop : c.opcode = 0x20) (hid : s.presentId? h.index rs = some id) :
    t.tryCommit c h rs = (t.showPresent id).refuse c stBadParam := by
  obtain ⟨hheld', -, hid'⟩ := State.commit_checks_of_store hstore h rs
  simp [State.tryCommit, hhead, hheld'.trans hheld, hop, hid'.trans hid]

end

theorem State.presentId?_eq_none {s : State} {shelf : Nat} {rs : List Rec} (h : rs.all (fun r => !s.present shelf r.id) = true) :
    s.presentId? shelf rs = none := by
  simpa [State.presentId?] using h

/-- A DELETE with its kill room reserved (R462). -/
def State.killReserved (s : State) (c : Cmd) : State := s.cmdMap c.cid (fun x => { x with reserved := s.needs c, stage := .waitGrant })

/-- A DELETE with room that stands behind no other mutation commits at once (R462, R463). -/
theorem State.deleteBegin_commits {s : State} {c : Cmd} {h : Shelf} (hhead : s.isHead = false) (hop : c.opcode = 0x21)
    (hshelf : s.mutationShelf c = .ok h) (hfits : s.neverFits (s.needs c) = false) (hroom : s.roomFor 0 (s.needs c).2 = true)
    (horder : s.waitOrder = []) (hfree : (s.killReserved c).otherwiseFree c = true)
    (hheld : (c.records h).any (fun r => s.heldBySlab h.index r.id) = false) (hcap : s.overCapacity h (c.records h) = false) :
    s.deleteBegin c = ((s.killReserved c).commitRecs h.index c.cid s.measure c.settleFlag (c.records h)).committed { c with reserved := s.needs c } := by
  have hbegin : s.deleteBegin c = (s.killReserved c).tryCommit { c with reserved := s.needs c } h (c.records h) := by
    simp only [State.deleteBegin, hshelf, hfits, hroom, horder, List.any_nil, Bool.not_false, Bool.and_self, Bool.false_eq_true, if_true, if_false]
    exact if_pos hfree
  have hdelete : c.opcode = 0x20 → s.presentId? h.index (c.records h) = none := fun hinsert => absurd (hop.symm.trans hinsert) (by decide)
  exact hbegin.trans (State.tryCommit_commits (s := s) (t := s.killReserved c) rfl hhead hheld hdelete hcap)

/-! ## The grant (R434 to R436) -/

theorem State.transferGrant_idle {s : State} (h : s.waitOrder = []) : s.transferGrant = s := by simp [State.transferGrant, h, State.servable]

/-- A section served changes the credits of the grant point alone (R441). -/
theorem State.serveSection_eq (s : State) (cls : Nat) : ∃ cur, s.serveSection cls = s.hostMap (fun x => { x with grantCur := cur }) := by
  unfold State.serveSection
  split
  · exact ⟨s.host.grantCur, rfl⟩
  · exact ⟨_, rfl⟩

theorem State.transferGrant_grants {s : State} {c : Cmd} {h : Shelf} (hserve : s.servable false false s.waitOrder = some c)
    (hop : c.opcode ≠ 0x21) (hshelf : s.mutationShelf c = .ok h) :
    ∃ cur, s.transferGrant = (s.hostMap (fun x => { x with grantCur := cur })).grant c := by
  obtain ⟨cur, hcur⟩ := s.serveSection_eq c.cls
  have hkept : (s.hostMap (fun x => { x with grantCur := cur })).mutationShelf c = .ok h := hshelf
  exact ⟨cur, by simp only [State.transferGrant, hserve, hcur, hkept, if_neg hop]⟩

/-- The notice word of a mutation, as it is sent, where the mutation names an address for it (R435). -/
def State.noticeOuts (s : State) (c : Cmd) (state : Nat) : List Out :=
  if c.noticeAddr = 0 then []
  else [.hostWrite c.seat c.noticeAddr (leBytes 2 c.tag ++ leBytes 1 state ++ zeros 1 ++ leBytes 4 c.seq ++ leBytes 4 s.measure ++ zeros 4) false]

/-- A notice word is sent, and nothing else changes. -/
theorem State.noticeWord_eq {s : State} {c : Cmd} (state : Nat) (hop : c.opcode ≠ 0x21) (hquiet : c.quiet = false)
    (hpost : (s.fn c.seat).canPost = true) : s.noticeWord c state = { s with out := s.out ++ s.noticeOuts c state } := by
  by_cases haddr : c.noticeAddr = 0
  · simp [State.noticeWord, State.noticeOuts, haddr]
  · simp [State.noticeWord, State.noticeOuts, haddr, hop, hquiet, State.post_sent _ _ hpost, State.emit]

/-- A mutation with its room reserved and its grant given. -/
def Cmd.granted (units : Nat × Nat) (c : Cmd) : Cmd := { c with reserved := units, stage := .granted }

/-- A grant given to a command: it counts against the limits of its seat and the chip (R434). -/
def State.granted (s : State) (c : Cmd) : State :=
  (s.cmdMap c.cid (Cmd.granted (s.needs c))).hostMap (fun x => { x with grants := x.grants ++ [(c.cid, c.seat)] })

/-- A grant reserves the room, writes notice state 1 and issues the data read (R434 to R436). -/
theorem State.grant_eq {s : State} {c : Cmd} (hop : c.opcode ≠ 0x21) (hquiet : c.quiet = false) (hpost : (s.fn c.seat).canPost = true) :
    s.grant c = { s.granted c with
      out := s.out ++ s.noticeOuts c 1 ++ (s.fn c.seat).readOuts c.seat c.dataAddr c.dataLen } := by
  have hnotice := State.noticeWord_eq (s := s.granted c) (c := { c with reserved := s.needs c }) 1 hop hquiet hpost
  have hbegin : s.grant c = if (((s.granted c).noticeWord { c with reserved := s.needs c } 1).fn c.seat).canPost
      then ((s.granted c).noticeWord { c with reserved := s.needs c } 1).readHost c.seat c.dataAddr c.dataLen
      else ((s.granted c).noticeWord { c with reserved := s.needs c } 1).refuse { c with reserved := s.needs c } stNoAccess := rfl
  rw [hnotice] at hbegin
  exact (hbegin.trans (if_pos hpost)).trans (State.readHost_eq _ _ _ _)

/-! ## The data of a granted batch (R437, R438) -/

/-- The records of a batch's data (R420). -/
def Cmd.dataRecs (c : Cmd) (h : Shelf) (data : Bytes) : List Rec :=
  (List.range c.batch).map (fun i => ⟨(dataRec h data i).id, some (dataRec h data i)⟩)

/-- The data of a batch held, and its bytes charged to the mutation (R432). -/
def State.dataHeld (s : State) (c : Cmd) (data : Bytes) : State :=
  (s.cmdMap c.cid (Cmd.loaded data)).spend c.cid (data.length * s.coeff .hostByte (s.linkSpeed c.seat))

section
variable {s : State} {c : Cmd} {data : Bytes}

theorem State.dataComplete_failed : s.dataComplete c false data = s.refuse c stNoAccess := by simp [State.dataComplete]

theorem State.dataComplete_badCrc (h : crc32c data ≠ c.dataCrc) :
    s.dataComplete c true data = ((s.ev zcpEventCrc).inc zcpCrcErrorsCount).refuse c stCrc := by
  simp [State.dataComplete, h]

/-- Data that passes its checks goes on to the commit. -/
theorem State.dataComplete_checked {h : Shelf} (hcrc : crc32c data = c.dataCrc) (hshelf : s.mutationShelf c = .ok h)
    (hrecs : recordStatus h ((List.range c.batch).map (dataRec h data)) = stOk) :
    s.dataComplete c true data = (s.dataHeld c data).tryCommit (c.loaded data) h (c.dataRecs h data) := by
  have hbatch : ((List.range c.batch).map (dataRec h data)).map (fun r => (⟨r.id, some r⟩ : Rec)) = c.dataRecs h data := by
    simp [Cmd.dataRecs, Function.comp_def]
  rw [← hbatch]
  simp only [State.dataComplete, hcrc, hshelf, Bool.not_true, Bool.false_eq_true, ne_eq, not_true, if_false]
  exact if_neg (not_not.2 hrecs)

end

section
variable {s : State} {cid t : Nat} {c : Cmd} (hl : (s.advance t).live = true) (hc : (s.advance t).cmd? cid = some c)
  (hop : isMutation c.opcode = true) (hstage : c.stage = .granted)
include hl hc hop hstage

/-- Data of another length than was read is no event of the hardware (log entry 6). -/
theorem State.dataArrive_illFormed {data : Bytes} (h : data.length ≠ c.dataLen) : s.dataArrive cid true data t = none := by
  simp [State.dataArrive, hl, hc, hop, hstage, h]

theorem State.dataArrive_whole {data : Bytes} (h : data.length = c.dataLen) :
    s.dataArrive cid true data t = some ((s.advance t).dataComplete c true data).weavePrepares := by
  simp [State.dataArrive, hl, hc, hop, hstage, h]

theorem State.dataArrive_failed (data : Bytes) :
    s.dataArrive cid false data t = some (((s.advance t).bufferLost c).refuse c stNoAccess).weavePrepares := by
  simp [State.dataArrive, hl, hc, hop, hstage, State.dataComplete_failed]

end

theorem State.bufferLost_store (s : State) (c : Cmd) : (s.bufferLost c).store = s.store :=
  State.store_of_besidePosts (s.besidePosts_logError _ _ _ _ _)

/-- A wrong CRC sets its event and is counted (R437). -/
theorem State.crcCounted_reads {s : State} (hs : regSorted s.regs = true) :
    ((s.ev zcpEventCrc).inc zcpCrcErrorsCount).rd zcpEventCrc = 1 ∧
      ((s.ev zcpEventCrc).inc zcpCrcErrorsCount).rd zcpCrcErrorsCount = min (s.rd zcpCrcErrorsCount + 1) (2 ^ zcpCrcErrorsCount.width - 1) := by
  have hset : (s.ev zcpEventCrc).rd zcpEventCrc = 1 := State.rd_wr_same s zcpEventCrc 0 1 hs
  have hcount : (s.ev zcpEventCrc).rd zcpCrcErrorsCount = s.rd zcpCrcErrorsCount := State.rd_wr_other s _ _ _ _ _ (by decide)
  have hsorted : regSorted (s.ev zcpEventCrc).regs = true := State.sorted_wrw hs zcpEventCrc 0 0 1
  refine ⟨(State.rd_wr_other _ _ _ _ _ _ (by decide)).trans hset, ?_⟩
  have hbound : min ((s.ev zcpEventCrc).rd zcpCrcErrorsCount + 1) (2 ^ zcpCrcErrorsCount.width - 1) < 2 ^ zcpCrcErrorsCount.width :=
    (Nat.min_le_right _ _).trans_lt (Nat.sub_lt (Nat.two_pow_pos _) Nat.one_pos)
  rw [← hcount, ← Nat.mod_eq_of_lt hbound]
  exact State.rd_wr_same _ zcpCrcErrorsCount 0 _ hsorted

/-! ## The wait for room that runs out (R463) -/

/-- A mutation that lacks room alone waits until its measures have run out. -/
theorem State.stagingExpire_eq {s : State} {cid : Nat} {c : Cmd} {h : Shelf} (hc : s.cmd? cid = some c) (hshelf : s.mutationShelf c = .ok h)
    (hwait : c.waiting = true) (hnone : c.reserved = (0, 0)) (hfree : s.otherwiseFree c = true)
    (hroom : s.servable false false (s.waitOrder.takeWhile (fun d => d.cid != cid) ++ [c]) = none) :
    s.stagingExpire cid = if s.inForce stgCtrlWaitMeasures ≤ (s.measure + 2 ^ 32 - c.intakeAt) % 2 ^ 32 then s.stagingFull c else s := by
  simp only [State.stagingExpire, hc, hshelf, hwait, hnone, hfree, hroom, beq_self_eq_true, Bool.and_self, Bool.true_and, Bool.not_false,
    Bool.and_true, decide_eq_true_eq]

/-! ## The commands -/

theorem exec_insert (cid : Nat) (s : State) : exec (.insert cid) s = .next (s.row cid 0x20 State.insertBegin) := rfl

theorem exec_upsert (cid : Nat) (s : State) : exec (.upsert cid) s = .next (s.row cid 0x22 State.insertBegin) := rfl

theorem exec_delete (cid : Nat) (s : State) : exec (.delete cid) s = .next (s.row cid 0x21 (fun s c => (s.deleteBegin c).weavePrepares)) := rfl

theorem exec_transferGrant (s : State) : exec .transferGrant s = .next (s.when s.live (fun s => s.transferGrant.weavePrepares)) := rfl

theorem exec_insertDataComplete (cid : Nat) (ok : Bool) (data : Bytes) (t : Nat) (s : State) :
    exec (.insertDataComplete cid ok data t) s = given (s.dataArrive cid ok data t) := rfl

theorem exec_stagingWaitExpire (cid : Nat) (s : State) :
    exec (.stagingWaitExpire cid) s = .next (s.when s.live (fun s => s.stagingExpire cid)) := rfl

end Sys2Proof.Machine
end

section
/-!
PROOFS. Mutations on a chip that is no head rim: intake, the grant, the data, the commit and the wait that runs out (O36).
-/
namespace Sys2Proof.Claims
open Sys2Proof Sys2Proof.Machine

section
variable {cid : Nat} {c : Cmd} {s : State}

/-- A mutation that staging has no room for is refused, with its event, over the store as it was (R463). -/
theorem stagingFull_refuses (hs : s.sound = true) (c : Cmd) :
    ∃ w : State, s.stagingFull c = w.refuse c stStagingFull ∧ w.rd stgEventStagingFull = 1 ∧ w.store = s.store :=
  ⟨s.ev stgEventStagingFull, rfl, State.rd_wr_same s stgEventStagingFull 0 1 (State.regs_sorted hs), rfl⟩

/-- A mutation that staging can hold waits for its grant (R434, R463). -/
theorem insertBegin_waits (hc : s.cmd? cid = some c) {h : Shelf} (hshelf : s.mutationShelf c = .ok h) (hfits : s.neverFits (s.needs c) = false) :
    (s.insertBegin c).cmd? cid = some { c with stage := .waitGrant } ∧ (s.insertBegin c).store = s.store ∧
      (s.insertBegin c).regs = s.regs ∧ (s.insertBegin c).out = s.out := by
  obtain rfl := State.cmd?_cid hc
  rw [State.insertBegin_waits hshelf hfits]
  exact ⟨State.cmd?_cmdMap_of hc (fun _ => rfl), rfl, rfl, rfl⟩

section
variable (hl : s.live = true) (hc : s.cmd? cid = some c)
include hl

theorem answers_transferGrant : Answers .transferGrant s s.transferGrant.weavePrepares := by
  rw [Answers, exec_transferGrant, hl, State.when_true]

theorem answers_stagingWaitExpire : Answers (.stagingWaitExpire cid) s (s.stagingExpire cid) := by
  rw [Answers, exec_stagingWaitExpire, hl, State.when_true]

include hc

/-- INSERT and UPSERT run their row once intake has passed them. -/
theorem answers_insert {i : Instr} (hi : i = .insert cid ∧ c.opcode = 0x20 ∨ i = .upsert cid ∧ c.opcode = 0x22) (hstage : c.stage = .ready) :
    Answers i s (s.insertBegin c) := by
  have hin : s.inOrder c = true := s.inOrder_of_unordered (by rcases hi with ⟨-, h⟩ | ⟨-, h⟩ <;> rw [h] <;> rfl)
  rcases hi with ⟨rfl, hop⟩ | ⟨rfl, hop⟩
  · rw [Answers, exec_insert, State.row_of_ready _ hl hc hop hstage hin]
  · rw [Answers, exec_upsert, State.row_of_ready _ hl hc hop hstage hin]

theorem answers_delete (hop : c.opcode = 0x21) (hstage : c.stage = .ready) : Answers (.delete cid) s (s.deleteBegin c).weavePrepares := by
  rw [Answers, exec_delete, State.row_of_ready _ hl hc hop hstage (s.inOrder_of_unordered (by rw [hop]; rfl))]

/-- A grant writes the notice word and reads the data (R434 to R436; log entries 34 and 51). -/
theorem answers_transferGrant_grants {h : Shelf} (hserve : s.servable false false s.waitOrder = some c) (hop : c.opcode ≠ 0x21)
    (hshelf : s.mutationShelf c = .ok h) (hquiet : c.quiet = false) (hpost : (s.fn c.seat).canPost = true) :
    ∃ w : State, Answers .transferGrant s w.weavePrepares ∧ w.host.grants = s.host.grants ++ [(cid, c.seat)] ∧
      w.cmd? cid = some { c with reserved := s.needs c, stage := .granted } ∧
      w.out = s.out ++ s.noticeOuts c 1 ++ (s.fn c.seat).readOuts c.seat c.dataAddr c.dataLen ∧ w.store = s.store ∧ w.regs = s.regs := by
  have hanswers := answers_transferGrant hl
  obtain rfl := State.cmd?_cid hc
  obtain ⟨cur, hgrant⟩ := State.transferGrant_grants hserve hop hshelf
  rw [hgrant, State.grant_eq (s := s.hostMap (fun x => { x with grantCur := cur })) hop hquiet hpost] at hanswers
  exact ⟨_, hanswers, rfl, State.cmd?_cmdMap_of (s := s) (f := Cmd.granted (s.needs c)) hc (fun _ => rfl), rfl, rfl, rfl⟩

end

section
variable {t : Nat} (hl : (s.advance t).live = true) (hc : (s.advance t).cmd? cid = some c) (hop : isMutation c.opcode = true)
  (hstage : c.stage = .granted)
include hl hc hop hstage

theorem exec_insertDataComplete_illFormed {data : Bytes} (h : data.length ≠ c.dataLen) :
    exec (.insertDataComplete cid true data t) s = .fault .illFormed := by
  rw [exec_insertDataComplete, State.dataArrive_illFormed hl hc hop hstage h]
  rfl

theorem answers_insertDataComplete {data : Bytes} (h : data.length = c.dataLen) :
    Answers (.insertDataComplete cid true data t) s ((s.advance t).dataComplete c true data).weavePrepares := by
  rw [Answers, exec_insertDataComplete, State.dataArrive_whole hl hc hop hstage h]
  rfl

theorem answers_insertDataComplete_failed :
    Answers (.insertDataComplete cid false [] t) s (((s.advance t).bufferLost c).refuse c stNoAccess).weavePrepares := by
  rw [Answers, exec_insertDataComplete, State.dataArrive_failed hl hc hop hstage]
  rfl

/-- Data whose CRC is wrong is counted and refused (R437). -/
theorem answers_insertDataComplete_badCrc (hs : s.sound = true) {data : Bytes} (hlen : data.length = c.dataLen) (hcrc : crc32c data ≠ c.dataCrc) :
    ∃ w : State, Answers (.insertDataComplete cid true data t) s (w.refuse c stCrc).weavePrepares ∧ w.rd zcpEventCrc = 1 ∧
      w.rd zcpCrcErrorsCount = min ((s.advance t).rd zcpCrcErrorsCount + 1) (2 ^ zcpCrcErrorsCount.width - 1) ∧ w.store = (s.advance t).store := by
  have hanswers := answers_insertDataComplete hl hc hop hstage hlen
  rw [State.dataComplete_badCrc hcrc] at hanswers
  obtain ⟨hevent, hcount⟩ := State.crcCounted_reads (State.regs_sorted ((Follows.refl s).advance (t := t).sound hs))
  exact ⟨_, hanswers, hevent, hcount, rfl⟩

section
variable {h : Shelf} {data : Bytes} (hlen : data.length = c.dataLen) (hcrc : crc32c data = c.dataCrc)
  (hshelf : (s.advance t).mutationShelf c = .ok h) (hhead : (s.advance t).isHead = false)
  (hrecs : recordStatus h ((List.range c.batch).map (dataRec h data)) = stOk)
  (hheld : (c.dataRecs h data).any (fun r => (s.advance t).heldBySlab h.index r.id) = false)
include hlen hcrc hshelf hhead hrecs hheld

/-- Good data commits where no slab operation holds it back, the shelf has room, and an INSERT brings new ids alone (R465 to R467). -/
theorem answers_insertDataComplete_commits (hnew : c.opcode = 0x20 → (s.advance t).presentId? h.index (c.dataRecs h data) = none)
    (hcap : (s.advance t).overCapacity h (c.dataRecs h data) = false) :
    Answers (.insertDataComplete cid true data t) s
      ((((s.advance t).dataHeld c data).commitRecs h.index c.cid (s.advance t).measure c.settleFlag (c.dataRecs h data)).committed
        (c.loaded data)).weavePrepares := by
  have hanswers := answers_insertDataComplete hl hc hop hstage hlen
  have hcommit := State.tryCommit_commits (t := (s.advance t).dataHeld c data) (c := c.loaded data) rfl hhead hheld hnew hcap
  rwa [State.dataComplete_checked hcrc hshelf hrecs, hcommit] at hanswers

/-- Good data of an INSERT whose id is present is refused (R466). -/
theorem answers_insertDataComplete_present {id : Nat} (hinsert : c.opcode = 0x20)
    (hid : (s.advance t).presentId? h.index (c.dataRecs h data) = some id) :
    Answers (.insertDataComplete cid true data t) s
      ((((s.advance t).dataHeld c data).showPresent id).refuse (c.loaded data) stBadParam).weavePrepares := by
  have hanswers := answers_insertDataComplete hl hc hop hstage hlen
  have hrefuse := State.tryCommit_present (t := (s.advance t).dataHeld c data) (c := c.loaded data) rfl hhead hheld hinsert hid
  rwa [State.dataComplete_checked hcrc hshelf hrecs, hrefuse] at hanswers

end

end

end

/-- Settles O36: each clause by the branch of its command, intake, grant, data and expiry in turn. -/
theorem mutationsAreGrantedAndCommit : Obligations.MutationsAreGrantedAndCommit := by
  intro cid c s hsound hhead hlive hc horigin hquiet
  obtain rfl := State.cmd?_cid hc
  refine ⟨fun i hi hstage => ?_, fun h hop hstage hshelf hfits hroom horder hfree hheld hcap => ?_, fun horder => ?_,
    fun h hserve hop hshelf hpost => ?_, ?_, fun h hshelf hwait hnone hfree hroom => ?_⟩
  · have hanswers := answers_insert hlive hc hi hstage
    refine ⟨fun st hst => ?_, fun h hshelf => ⟨fun hfull => ?_, fun hfits => ⟨_, hanswers, insertBegin_waits hc hshelf hfits⟩⟩⟩
    · rwa [State.insertBegin_error hst] at hanswers
    · obtain ⟨w, hw, hevent, hstore⟩ := stagingFull_refuses hsound c
      rw [State.insertBegin_full hshelf hfull, hw] at hanswers
      exact ⟨w, hanswers, hevent, hstore⟩
  · have hanswers := answers_delete hlive hc hop hstage
    rw [State.deleteBegin_commits hhead hop hshelf hfits hroom horder hfree hheld hcap] at hanswers
    exact ⟨_, hanswers, rfl⟩
  · have hanswers := answers_transferGrant hlive
    rwa [State.transferGrant_idle horder] at hanswers
  · exact answers_transferGrant_grants hlive hc hserve hop hshelf hquiet hpost
  · intro t data u hl hfound hop hstage
    refine ⟨exec_insertDataComplete_illFormed hl hfound hop hstage, answers_insertDataComplete_badCrc hl hfound hop hstage hsound,
      ⟨_, answers_insertDataComplete_failed hl hfound hop hstage, u.bufferLost_store c⟩, fun h hlen hcrc hshelf _ huhead hrecs hheld => ?_⟩
    refine ⟨fun hnew hcap => ⟨_, answers_insertDataComplete_commits hl hfound hop hstage hlen hcrc hshelf huhead hrecs hheld
      (fun hinsert => State.presentId?_eq_none (hnew hinsert)) hcap, rfl⟩, fun id hinsert hid =>
      answers_insertDataComplete_present hl hfound hop hstage hlen hcrc hshelf huhead hrecs hheld hinsert hid⟩
  · have hanswers := answers_stagingWaitExpire (cid := c.cid) hlive
    rw [State.stagingExpire_eq hc hshelf hwait hnone hfree hroom] at hanswers
    refine ⟨fun hearly => ?_, fun hlate => ?_⟩
    · rwa [if_neg (Nat.not_le.2 hearly)] at hanswers
    · obtain ⟨w, hw, hevent, -⟩ := stagingFull_refuses hsound c
      rw [if_pos hlate, hw] at hanswers
      exact ⟨w, hanswers, hevent, w.complete_cmd? c _ _ _ _ _⟩

end Sys2Proof.Claims
end

section
/-!
LAWS. What the commit of a slab operation leaves in its shelf, in staging and in the journal (R139, R479, R480, R490), and what the start of one
leaves in the journal (R482, R489).
-/
namespace Sys2Proof.Machine

/-! ## The shelf of an index -/

theorem State.shelfAt?_index {s : State} {i : Nat} {h : Shelf} (hs : s.shelfAt? i = some h) : h.index = i := by
  simpa using List.find?_some hs

theorem State.shelfAt?_of_store {s t : State} (h : t.store = s.store) (i : Nat) : t.shelfAt? i = s.shelfAt? i := by
  rw [State.shelfAt?, State.shelfAt?, h]

theorem State.shelfAt?_shelfMap (s : State) (i : Nat) {f : Shelf → Shelf} (hf : ∀ x, (f x).index = x.index) :
    (s.shelfMap i f).shelfAt? i = (s.shelfAt? i).map f :=
  find?_updFirst _ _ _ (fun x hx => by simpa [hf] using hx)

theorem State.shelfAt?_slabMap (s : State) (i slab : Nat) (f : Slab → Slab) :
    (s.slabMap i slab f).shelfAt? i = (s.shelfAt? i).map (fun x => { x with slabs := updAt slab f x.slabs }) :=
  s.shelfAt?_shelfMap i (fun _ => rfl)

theorem State.post_store (s : State) (seat addr : Nat) (b : Bytes) : (s.post seat addr b).store = s.store :=
  State.store_of_besidePosts (s.besidePosts_post seat addr b false)

theorem State.writeFar_store (s : State) (h : Shelf) (slab first : Nat) (rows : List Row) : (s.writeFar h slab first rows).store = s.store := by
  unfold State.writeFar
  split
  case isTrue => exact State.each_keeps _ s (fun t p => t.post_store _ _ _)
  case isFalse => rfl

/-! ## PLACE -/

/-- The slab a place fills, after its commit. -/
def Slab.grown (gen fill : Nat) (rows : List Row) (b : Slab) : Slab := Slab.stamp gen { b with fill := fill, rows := b.rows ++ rows }

/-- A shelf whose slab `target` is changed, or begun where the shelf has none of that number. -/
def Shelf.growAt (target : Nat) (grow : Slab → Slab) (x : Shelf) : Shelf :=
  if target < x.slabs.length then { x with slabs := updAt target grow x.slabs }
  else { x with slabs := x.slabs ++ [grow ⟨0, 0, 0, 0, 0, []⟩], opening := none }

theorem Shelf.growAt_index (target : Nat) (grow : Slab → Slab) (x : Shelf) : (x.growAt target grow).index = x.index := by
  unfold Shelf.growAt
  split <;> rfl

theorem Shelf.growAt_length (target : Nat) (grow : Slab → Slab) (x : Shelf) :
    (x.growAt target grow).slabs.length = if target < x.slabs.length then x.slabs.length else x.slabs.length + 1 := by
  unfold Shelf.growAt
  split <;> simp

/-- The target is one of the shelf's slabs, or the one it begins. -/
theorem Shelf.growAt_target {target : Nat} (grow : Slab → Slab) {x : Shelf} (h : target ≤ x.slabs.length) :
    ∃ b, (x.growAt target grow).slabs[target]? = some (grow b) := by
  unfold Shelf.growAt
  split
  case isTrue hlt => exact ⟨x.slabs[target], by rw [getElem?_updAt_same, List.getElem?_eq_getElem hlt, Option.map_some]⟩
  case isFalse hge =>
    obtain rfl : target = x.slabs.length := by omega
    exact ⟨_, List.getElem?_concat_length⟩

/-- The rows a place commits. -/
def State.placedRows (s : State) (h : Shelf) (j : Journal) : List Row := (j.entries.filterMap s.entry?).map (rowOf h)

theorem State.shelfAt?_commitPlace (s : State) (h : Shelf) (j : Journal) :
    (s.commitPlace h j).shelfAt? h.index =
      (s.shelfAt? h.index).map (Shelf.growAt j.target (Slab.grown h.gen (j.firstRow + j.rows) (s.placedRows h j))) := by
  let grown := s.shelfMap h.index (Shelf.growAt j.target (Slab.grown h.gen (j.firstRow + j.rows) (s.placedRows h j)))
  calc (s.commitPlace h j).shelfAt? h.index
      = (grown.writeFar h j.target j.firstRow (s.placedRows h j)).shelfAt? h.index :=
        State.each_keeps (π := fun t => t.shelfAt? h.index) _ _ (fun _ _ => rfl)
    _ = grown.shelfAt? h.index := State.shelfAt?_of_store (State.writeFar_store ..) _
    _ = _ := s.shelfAt?_shelfMap _ (Shelf.growAt_index _ _)

/-- A place frees its entries (R480). -/
theorem State.commitPlace_staging (s : State) (h : Shelf) (j : Journal) {e : StgEnt} (he : e ∈ (s.commitPlace h j).store.staging) :
    e.handle ∉ j.entries := by
  have hkept := (List.mem_filter.mp he).2
  simpa using hkept

/-! ## MARK -/

/-- The target slab of a mark, after its commit. -/
def Slab.marked (gen : Nat) (rows : List Nat) (b : Slab) : Slab := Slab.stamp gen { b with tomb := setTomb b.tomb rows }

/-- The rows whose tombstone bits a mark sets. -/
def State.markedRows (s : State) (j : Journal) : List Nat := (j.entries.filterMap s.entry?).map (fun e => e.row)

theorem State.shelfAt?_commitMark (s : State) (h : Shelf) (j : Journal) :
    (s.commitMark h j).shelfAt? h.index = (s.shelfAt? h.index).map
      (fun x => { x with slabs := updAt j.target (Slab.marked h.gen (s.markedRows j)) x.slabs }) := by
  let marked := s.slabMap h.index j.target (Slab.marked h.gen (s.markedRows j))
  calc (s.commitMark h j).shelfAt? h.index
      = marked.shelfAt? h.index := State.each_keeps (π := fun t => t.shelfAt? h.index) _ _ (fun _ _ => rfl)
    _ = _ := s.shelfAt?_slabMap _ _ _

/-! ## MOVE and TRIM: the rows in use in each slab of a shelf -/

/-- The filled rows of each slab of a shelf. -/
def Shelf.fills (h : Shelf) : List Nat := h.slabs.map (fun b => b.fill)

theorem Shelf.fills_length (h : Shelf) : h.fills.length = h.slabs.length := List.length_map _

theorem Shelf.fills_getLast? (h : Shelf) : h.fills.getLast? = h.slabs.getLast?.map (fun b => b.fill) := List.getLast?_map

/-- The filled rows of each slab of the shelf of an index. -/
def State.fillsAt (s : State) (i : Nat) : Option (List Nat) := (s.shelfAt? i).map Shelf.fills

/-- The last `n` rows taken off the last slab, and the slab where it empties. -/
def dropFills (n : Nat) (l : List Nat) : List Nat :=
  match l.getLast? with
  | none => l
  | some f => if f - n = 0 then l.dropLast else updAt (l.length - 1) (fun _ => f - n) l

theorem dropFills_empties {n f : Nat} {l : List Nat} (hlast : l.getLast? = some f) (h : f ≤ n) : (dropFills n l).length + 1 = l.length := by
  have hne : l ≠ [] := by rintro rfl; cases hlast
  have hpos := List.length_pos_of_ne_nil hne
  simp only [dropFills, hlast, if_pos (Nat.sub_eq_zero_of_le h), List.length_dropLast]
  omega

theorem dropFills_shortens {n f : Nat} {l : List Nat} (hlast : l.getLast? = some f) (h : n < f) :
    (dropFills n l).length = l.length ∧ (dropFills n l).getLast? = some (f - n) := by
  simp only [dropFills, hlast, if_neg (Nat.sub_ne_zero_of_lt h), updAt_length, List.getLast?_eq_getElem?, getElem?_updAt_same, true_and]
  rw [← List.getLast?_eq_getElem?, hlast, Option.map_some]

theorem map_updAt {α β : Type} {g : α → β} {f : α → α} {f' : β → β} (h : ∀ x, g (f x) = f' (g x)) (i : Nat) (l : List α) :
    (updAt i f l).map g = updAt i f' (l.map g) := by
  induction l generalizing i with
  | nil => simp [updAt]
  | cons x l ih => cases i <;> simp [updAt, h, ih]

theorem updAt_id {α : Type} (i : Nat) (l : List α) : updAt i id l = l := by
  induction l generalizing i with
  | nil => simp [updAt]
  | cons x l ih => cases i <;> simp [updAt, ih]

theorem Shelf.dropRows_index (h : Shelf) (n : Nat) : (h.dropRows n).index = h.index := by
  unfold Shelf.dropRows
  split
  · rfl
  · dsimp only
    split <;> rfl

theorem Shelf.fills_dropRows (h : Shelf) (n : Nat) : (h.dropRows n).fills = dropFills n h.fills := by
  unfold Shelf.dropRows dropFills Shelf.fills
  rw [List.getLast?_map]
  cases hlast : h.slabs.getLast? with
  | none => rfl
  | some b =>
    dsimp only [Option.map_some]
    split
    case isTrue => exact List.map_dropLast
    case isFalse =>
      rw [List.length_map]
      exact map_updAt (by intro _; rfl) _ _

theorem State.fillsAt_post (s : State) (seat addr : Nat) (b : Bytes) (i : Nat) : (s.post seat addr b).fillsAt i = s.fillsAt i :=
  congrArg (Option.map _) (State.shelfAt?_of_store (s.post_store seat addr b) i)

/-- A change of a slab's header or rows keeps the fills of its shelf. -/
theorem State.fillsAt_slabMap (s : State) (i slab : Nat) {f : Slab → Slab} (hf : ∀ b, (f b).fill = b.fill) :
    (s.slabMap i slab f).fillsAt i = s.fillsAt i := by
  have hfills (x : Shelf) : Shelf.fills { x with slabs := updAt slab f x.slabs } = x.fills :=
    (map_updAt (f' := id) hf _ _).trans (updAt_id _ _)
  rw [State.fillsAt, State.shelfAt?_slabMap, Option.map_map]
  exact congrArg (Option.map · (s.shelfAt? i)) (funext hfills)

theorem State.fillsAt_freeKills (s : State) (i slab : Nat) (rows : List Nat) : (s.freeKills i slab rows).fillsAt i = s.fillsAt i := by
  rw [State.fillsAt, State.freeKills, State.shelfAt?_shelfMap _ _ (by intro _; rfl), Option.map_map]
  rfl

theorem State.fillsAt_dropRows (s : State) (i n : Nat) :
    (s.shelfMap i (fun x => x.dropRows n)).fillsAt i = (s.fillsAt i).map (dropFills n) := by
  rw [State.fillsAt, s.shelfAt?_shelfMap i (fun x => x.dropRows_index n), State.fillsAt, Option.map_map, Option.map_map]
  exact congrArg (Option.map · (s.shelfAt? i)) (funext (fun x => x.fills_dropRows n))

theorem State.fillsAt_commitTrim (s : State) (h : Shelf) (j : Journal) :
    (s.commitTrim h j).fillsAt h.index = (s.fillsAt h.index).map (dropFills j.rows) :=
  (State.fillsAt_freeKills ..).trans (s.fillsAt_dropRows _ _)

/-- A row moved: it stands in its hole, in the host's memory too for a far shelf, and its directory entry names the new position (R488). -/
def State.rowMoved (h : Shelf) (j : Journal) (s : State) (p : (Nat × Row) × Nat) : State :=
  let r := { p.1.2 with moved := true }
  let s := s.slabMap h.index j.target (fun b => { b with rows := updAt p.1.1 (fun _ => r) b.rows })
  let s := s.when (h.fullPlace == 2) (fun s => s.post h.ownerSeat (h.farAddr j.target p.1.1) r.record)
  s.dirAt h.index j.source (j.sourceRow + p.2) (fun e => { e with slab := j.target, row := p.1.1 })

theorem State.fillsAt_rowMoved (h : Shelf) (j : Journal) (s : State) (p : (Nat × Row) × Nat) :
    (State.rowMoved h j s p).fillsAt h.index = s.fillsAt h.index :=
  (State.when_keeps (π := fun t => t.fillsAt h.index) _ _
    (fun t => t.fillsAt_post _ _ _ _)).trans (s.fillsAt_slabMap _ _ (fun _ => rfl))

/-- The rows of a move in their holes, whose tombstone bits are clear, and its target's header written. -/
def State.rowsMoved (s : State) (h : Shelf) (j : Journal) : State :=
  let moved := (j.holes.zip (((h.slab j.source).rows.drop j.sourceRow).take j.rows)).zip (List.range j.rows)
  let s := (s.each moved (State.rowMoved h j)).slabMap h.index j.target (fun b => { b with tomb := clearTomb b.tomb j.holes })
  s.when (j.target != j.source) (fun s => s.slabMap h.index j.target (Slab.stamp h.gen))

theorem State.commitMove_eq (s : State) (h : Shelf) (j : Journal) :
    s.commitMove h j =
      (((s.rowsMoved h j).shelfMap h.index (fun x => x.dropRows j.rows)).freeKills h.index j.target j.holes).bump stgMovedRows 0 j.rows := rfl

theorem State.fillsAt_rowsMoved (s : State) (h : Shelf) (j : Journal) : (s.rowsMoved h j).fillsAt h.index = s.fillsAt h.index := by
  unfold State.rowsMoved
  rw [State.when_keeps (π := fun t => t.fillsAt h.index) _ _ (fun t => t.fillsAt_slabMap _ _ (by intro _; rfl)),
    State.fillsAt_slabMap _ _ _ (by intro _; rfl)]
  exact State.each_keeps (π := fun t => t.fillsAt h.index) _ s (State.fillsAt_rowMoved h j)

theorem State.fillsAt_commitMove (s : State) (h : Shelf) (j : Journal) :
    (s.commitMove h j).fillsAt h.index = (s.fillsAt h.index).map (dropFills j.rows) := by
  rw [State.commitMove_eq, ← s.fillsAt_rowsMoved h j]
  exact (State.fillsAt_freeKills ..).trans (State.fillsAt_dropRows ..)

/-! ## The commit -/

/-- The commit of an operation of each kind. -/
def State.commitOp (s : State) (op : SlabOp) (h : Shelf) (j : Journal) : State :=
  match op with
  | .place => s.commitPlace h j
  | .mark => s.commitMark h j
  | .move => s.commitMove h j
  | .trim => s.commitTrim h j

section
variable {s : State} {op : SlabOp} {slot : Nat} {j : Journal} {h : Shelf} (hj : s.journal? slot = some j) (hh : s.shelfAt? j.shelf = some h)
include hj hh

theorem State.slabCommit_waits (hwait : j.reads ≠ 0 ∨ j.op ≠ op) : s.slabCommit op slot = s := by
  simp only [State.slabCommit, hj, hh]
  exact if_pos (hwait.symm.imp_right .inl)

theorem State.slabCommit_commits (hop : j.op = op) (hreads : j.reads = 0)
    (hwork : (opWrites h j).any (fun g => (s.channel (s.channelOf g)).faulted) = false) :
    s.slabCommit op slot = ((s.commitOp op h j).closeJournal slot).heal h.index (opHeals h j) := by
  simp only [State.slabCommit, hj, hh]
  rw [if_neg (by simp [hop, hreads, hwork])]
  cases op <;> rfl

end

theorem State.closeJournal_store (s : State) (k : Nat) :
    (s.closeJournal k).store = { s.store with journal := s.store.journal.filter (fun j => j.slot != k) } := by
  simp only [State.closeJournal]
  split <;> rfl

/-- The slot of a committed operation is free (R489). -/
theorem State.journal?_closed (s : State) (k i : Nat) (gs : List Nat) : ((s.closeJournal k).heal i gs).journal? k = none := by
  have hjournal : ((s.closeJournal k).heal i gs).store.journal = s.store.journal.filter (fun j => j.slot != k) :=
    congrArg Store.journal (s.closeJournal_store k)
  rw [State.journal?, hjournal]
  simp

theorem State.staging_closed (s : State) (k i : Nat) (gs : List Nat) : ((s.closeJournal k).heal i gs).store.staging = s.store.staging :=
  (congrArg Store.staging (s.closeJournal_store k) :)

/-- Freeing the slot and writing the granules leaves the slabs as the commit made them. -/
theorem State.shelfAt?_closed {s : State} {i : Nat} {x : Shelf} (k : Nat) (gs : List Nat) (hx : s.shelfAt? i = some x) :
    ∃ h', ((s.closeJournal k).heal i gs).shelfAt? i = some h' ∧ h'.slabs = x.slabs := by
  have hclosed : (s.closeJournal k).shelfAt? i = some x := by rw [State.shelfAt?, s.closeJournal_store]; exact hx
  refine ⟨{ x with held := x.held.filter (fun g => !gs.contains g) }, ?_, rfl⟩
  rw [State.heal, State.shelfAt?_shelfMap _ _ (by intro _; rfl)]
  exact congrArg (Option.map _) hclosed

/-! ## The start -/

/-- An operation that starts is the last of the journal, in the lowest free slot and at this instant (R482, R489). -/
theorem State.slabOpStart_journal {s : State} {k : Nat} {j : Journal} {h : Shelf} (hopen : s.clk.bgOpen = true) (hk : s.freeJournal = some k)
    (hfar : ∀ x ∈ s.store.shelves, s.farHeld x = false)
    (hj : s.slabCandidates.find? (fun j => s.readable j && s.opFits (s.journalTime j)) = some j) (hh : s.shelfAt? j.shelf = some h) :
    ∃ n, s.slabOpStart.store.journal = s.store.journal ++ [{ j with slot := k, startAt := s.clk.now, reads := n }] := by
  have hnone : s.store.shelves.any (fun h => s.farHeld h && s.store.staging.any (fun e => e.shelf == h.index && s.placeable e)) = false :=
    List.any_eq_false.2 (fun x hx => by simp [hfar x hx])
  simp only [State.slabOpStart, hopen, hnone, State.when_false, hk, hj, hh, Bool.not_true, Bool.false_eq_true, if_false]
  refine ⟨(opReads h j).length + if j.op = .move ∧ h.fullPlace = 2 then j.rows else 0, ?_⟩
  have hissue (t : State) (j : Journal) (g : Nat) (far : Bool) : (t.issueSlab j g far).store = t.store := t.issue_store ..
  rw [State.each_keeps (π := fun t => t.store.journal) _ _ (fun t i => by rw [State.readHost_eq]; exact congrArg Store.journal (hissue t _ _ _)),
    State.each_keeps (π := fun t => t.store.journal) _ _ (fun t g => congrArg Store.journal (hissue t _ g _))]
  exact State.when_keeps (π := fun t => t.store.journal) _ _ (by intro _; rfl)

theorem State.slabOpStart_closed {s : State} (h : s.clk.bgOpen = false) : s.slabOpStart = s := if_pos (by simp [h])

/-! ## The commands -/

theorem State.slabEnd_closed {s : State} {op : SlabOp} {slot t : Nat} (hl : s.live = true) (h : (s.advance t).clk.bgOpen = false) :
    s.slabEnd op slot t = s.advance t := by
  simp [State.slabEnd, hl, h]

theorem State.slabEnd_open {s : State} {op : SlabOp} {slot t : Nat} (hl : s.live = true) (h : (s.advance t).clk.bgOpen = true) :
    s.slabEnd op slot t = ((s.advance t).slabCommit op slot).retryCommits.weaveLanded.weavePrepares := by
  simp [State.slabEnd, hl, h]

theorem exec_slabOpStart (t : Nat) (s : State) : exec (.slabOpStart t) s = .next (s.when s.live (fun s => (s.advance t).slabOpStart)) := rfl

/-- Each slab operation's command is the commit of an operation of its kind. -/
theorem exec_slabEnd {op : SlabOp} {i : Instr} {slot : Fin 16} {t : Nat}
    (hi : i = .place slot t ∧ op = .place ∨ i = .mark slot t ∧ op = .mark ∨ i = .move slot t ∧ op = .move ∨
      i = .trim slot t ∧ op = .trim)
    (s : State) : exec i s = .next (s.slabEnd op slot.val t) := by
  obtain ⟨rfl, rfl⟩ | ⟨rfl, rfl⟩ | ⟨rfl, rfl⟩ | ⟨rfl, rfl⟩ := hi <;> rfl

end Sys2Proof.Machine
end

section
/-!
PROOFS. Slab operations that commit and that start, in the background window (O58).
-/
namespace Sys2Proof.Claims
open Sys2Proof Sys2Proof.Machine

section
variable {s : State} {j : Journal} {h : Shelf} (hh : s.shelfAt? h.index = some h)
include hh

/-- A place fills the rows of its slab, which the shelf has or begins (R480, R485). -/
theorem commitPlace_fills : ∃ x, (s.commitOp .place h j).shelfAt? h.index = some x ∧
    x.slabs.length = (if j.target < h.slabs.length then h.slabs.length else h.slabs.length + 1) ∧
    (j.target ≤ h.slabs.length → ∃ b, x.slabs[j.target]? = some b ∧ b.fill = j.firstRow + j.rows ∧ b.gen = h.gen ∧ b.writer = 0) := by
  refine ⟨_, (s.shelfAt?_commitPlace h j).trans (congrArg (Option.map _) hh), Shelf.growAt_length .., fun htarget => ?_⟩
  obtain ⟨b, hb⟩ := Shelf.growAt_target (Slab.grown h.gen (j.firstRow + j.rows) (s.placedRows h j)) htarget
  exact ⟨Slab.grown h.gen (j.firstRow + j.rows) (s.placedRows h j) b, hb, rfl, rfl, rfl⟩

/-- A mark sets the tombstone bits of its rows and keeps the rows (R139). -/
theorem commitMark_sets : ∃ x, (s.commitOp .mark h j).shelfAt? h.index = some x ∧ ∀ b, h.slabs[j.target]? = some b →
    ∃ b', x.slabs[j.target]? = some b' ∧ b'.rows = b.rows ∧
      b'.tomb = setTomb b.tomb ((j.entries.filterMap s.entry?).map (fun e => e.row)) ∧ b'.gen = h.gen ∧ b'.writer = 0 := by
  refine ⟨_, (s.shelfAt?_commitMark h j).trans (congrArg (Option.map _) hh), fun b hb =>
    ⟨Slab.marked h.gen (s.markedRows j) b, ?_, rfl, rfl, rfl, rfl⟩⟩
  rw [getElem?_updAt_same, hb, Option.map_some]

/-- A move and a trim take their rows off the end of the shelf (R487, R488). -/
theorem commitEnd_drops {op : SlabOp} (hop : op = .move ∨ op = .trim) : ∃ x, (s.commitOp op h j).shelfAt? h.index = some x ∧
    ∀ b, h.slabs.getLast? = some b → (b.fill ≤ j.rows → x.slabs.length + 1 = h.slabs.length) ∧
      (j.rows < b.fill → x.slabs.length = h.slabs.length ∧ x.slabs.getLast?.map (fun b => b.fill) = some (b.fill - j.rows)) := by
  have hfills : (s.commitOp op h j).fillsAt h.index = some (dropFills j.rows h.fills) := by
    have hbefore : s.fillsAt h.index = some h.fills := congrArg (Option.map _) hh
    obtain rfl | rfl := hop
    · exact (s.fillsAt_commitMove h j).trans (congrArg (Option.map _) hbefore)
    · exact (s.fillsAt_commitTrim h j).trans (congrArg (Option.map _) hbefore)
  obtain ⟨x, hx, hxfills⟩ := Option.map_eq_some_iff.1 hfills
  refine ⟨x, hx, fun b hb => ?_⟩
  have hlast : h.fills.getLast? = some b.fill := h.fills_getLast?.trans (congrArg (Option.map _) hb)
  rw [← x.fills_length, ← h.fills_length, ← x.fills_getLast?, hxfills]
  exact ⟨dropFills_empties hlast, dropFills_shortens hlast⟩

end

/-- Settles O58: outside the window a command only lets time pass; in it, the commit of each kind of operation by what it leaves in its shelf. -/
theorem slabOperationsCommit : Obligations.SlabOperationsCommit := by
  intro slot t s hl u
  have hstart : Answers (.slabOpStart t) s u.slabOpStart := by rw [Answers, exec_slabOpStart, hl, State.when_true]
  refine ⟨fun op i hi => ⟨fun hclosed => ?_, fun j h hopen hj hh => ?_⟩, fun hclosed => ?_, fun k j h hopen hk hfar hj hh => ?_⟩
  · rw [Answers, exec_slabEnd hi, State.slabEnd_closed hl hclosed]
  · have hend : Answers i s (u.slabCommit op slot.val).retryCommits.weaveLanded.weavePrepares := by
      rw [Answers, exec_slabEnd hi, State.slabEnd_open hl hopen]
    refine ⟨fun hwait => ?_, fun hop hreads hwork => ?_⟩
    · rwa [State.slabCommit_waits hj hh hwait] at hend
    · rw [State.slabCommit_commits hj hh hop hreads hwork] at hend
      have hshelf : u.shelfAt? h.index = some h := by rwa [State.shelfAt?_index hh]
      have hends := commitEnd_drops (op := op) (j := j) hshelf
      cases op with
      | place =>
        obtain ⟨x, hx, hlength, hfilled⟩ := commitPlace_fills (j := j) hshelf
        obtain ⟨h', hh', hslabs⟩ := State.shelfAt?_closed slot.val (opHeals h j) hx
        refine ⟨_, h', hend, State.journal?_closed .., hh', fun _ => ⟨fun e he => ?_, hslabs ▸ hlength, hslabs ▸ hfilled⟩, nofun, nofun⟩
        rw [State.staging_closed] at he
        exact u.commitPlace_staging h j he
      | mark =>
        obtain ⟨x, hx, hset⟩ := commitMark_sets (j := j) hshelf
        obtain ⟨h', hh', hslabs⟩ := State.shelfAt?_closed slot.val (opHeals h j) hx
        exact ⟨_, h', hend, State.journal?_closed .., hh', nofun, fun b _ => hslabs ▸ hset b, nofun⟩
      | move | trim =>
        obtain ⟨x, hx, hdropped⟩ := hends (by simp)
        obtain ⟨h', hh', hslabs⟩ := State.shelfAt?_closed slot.val (opHeals h j) hx
        exact ⟨_, h', hend, State.journal?_closed .., hh', nofun, nofun, fun b _ => hslabs ▸ hdropped b⟩
  · rwa [State.slabOpStart_closed hclosed] at hstart
  · obtain ⟨n, hjournal⟩ := State.slabOpStart_journal hopen hk hfar hj hh
    exact ⟨_, _, hstart, hjournal, rfl, rfl, rfl, rfl⟩

end Sys2Proof.Claims
end

section
/-!
LAWS. Ownership (R515, R516, R522, R525 to R527): who owns the chip, what CLAIM, RELEASE and HANDOVER do, and what the end of an ownership leaves.
-/
namespace Sys2Proof.Machine

/-! ## The owner -/

theorem State.owner?_eq_some_iff (s : State) (seat : Nat) : s.owner? = some seat ↔ s.rd ownStateState = 1 ∧ s.rd ownStateOwner = seat := by
  simp [State.owner?]

theorem State.owner?_of_not_owned {s : State} (h : s.rd ownStateState ≠ 1) : s.owner? = none := if_neg h

theorem State.sorted_wr {s : State} (h : regSorted s.regs = true) (f : Fld) (i v : Nat) : regSorted (s.wr f i v).regs = true :=
  State.sorted_wrw h f 0 i v

/-! ## CLAIM (R515) -/

/-- A claim held for the election of the next downbeat. -/
def State.claimHeld (s : State) (c : Cmd) : State :=
  (s.cmdMap c.cid (fun x => { x with stage := .held })).hostMap (fun h => { h with
    claims := h.claims ++ [⟨c.cid, c.seat, field c.param 8 1, field c.param 0 8⟩] })

/-- The lease of the owner reads its full length again (R522). -/
theorem State.rd_leased {s : State} {c : Cmd} (hregs : regSorted s.regs = true) (howner : s.owner? = some c.seat) :
    (s.leased c).rd ownLeaseLeftMeasures = s.rd ownLeaseLength % 2 ^ ownLeaseLeftMeasures.width := by
  rw [State.leased, howner, beq_self_eq_true, State.when_true, State.rd_wr_same _ _ _ _ hregs]

theorem State.leased_owner? (s : State) (c : Cmd) : (s.leased c).owner? = s.owner? :=
  State.when_keeps (π := State.owner?) _ _ (fun t => by simp (disch := decide) [State.owner?, State.rd_wr_other])

section
variable {s : State} (hw : s.inWeave = false) (c : Cmd)
include hw

theorem State.claim_free (h : s.rd ownStateState = 0) : s.claim c = if s.claimOk c.seat then s.claimHeld c else s.refuse c stNotOwner := by
  simp only [State.claim, hw, h, Bool.false_and, Bool.false_eq_true, if_false]
  rfl

theorem State.claim_offered (h : s.rd ownStateState = 2) :
    s.claim c = if s.rd ownStateSuccessor = c.seat then s.claimHeld c else s.refuse c stNotOwner := by
  simp only [State.claim, hw, h, Bool.false_and, Bool.false_eq_true, if_false]
  rfl

theorem State.claim_owned (h : s.rd ownStateState = 1) :
    s.claim c = if s.owner? = some c.seat then (s.leased c).completeOk c 0 0 else s.refuse c stNotOwner := by
  simp only [State.claim, hw, h, Bool.false_and, Bool.false_eq_true, if_false]
  split
  next howner => rw [State.leased, howner, beq_self_eq_true, State.when_true]
  next => rfl

end

/-! ## The end of an ownership (R516) -/

/-- The ownership registers when an ownership or an offer has ended, before the notices. -/
def State.vacated (s : State) (offer : Option Nat) : State :=
  let s := ((s.wr ownStateState 0 (if offer.isSome then 2 else 0)).wr ownStateSuccessor 0 (offer.getD 0)).wr ownLeaseLeftMeasures 0 0
  s.wr ownLastChangeMeasure 0 s.measure

/-- Beside its registers, the end of an ownership only gives notices (R532). -/
theorem State.endOwnership_keeps {α : Type} {π : State → α} (h : ∀ t seat bit, π (State.notice t seat bit) = π t) (s : State) (offer : Option Nat)
    (tell : Bool) : π (s.endOwnership offer tell) = π (s.vacated offer) := by
  have hchanged (t : State) : π t.noticeChanged = π t := State.each_keeps _ t (fun u f => h u f.seat 0)
  simp only [State.endOwnership]
  split <;> split <;> simp only [h, hchanged] <;> rfl

theorem State.endOwnership_store (s : State) (offer : Option Nat) (tell : Bool) : (s.endOwnership offer tell).store = s.store :=
  State.endOwnership_keeps (π := State.store) (fun t seat bit => t.notice_store seat bit) s offer tell

theorem State.rd_endOwnership (s : State) (offer : Option Nat) (tell : Bool) (f : Fld) (h : regKey f 0 0 < 2 ^ 24) :
    (s.endOwnership offer tell).rd f = (s.vacated offer).rd f :=
  State.rd_of_belowErrors (State.endOwnership_keeps (fun t seat bit => t.belowErrors_notice seat bit) s offer tell) f 0 h

section
variable {s : State} (hs : s.sound = true) (offer : Option Nat) (tell : Bool)
include hs

theorem State.sound_endOwnership : (s.endOwnership offer tell).sound = true := (Follows.refl s).endOwnership.sound hs

/-- The registers an ended ownership leaves: the state, the successor, and a lease of 0. -/
theorem State.endOwnership_reads : (s.endOwnership offer tell).rd ownStateState = (if offer.isSome then 2 else 0) ∧
    (s.endOwnership offer tell).rd ownStateSuccessor = offer.getD 0 % 2 ^ ownStateSuccessor.width ∧
    (s.endOwnership offer tell).rd ownLeaseLeftMeasures = 0 := by
  have hregs := State.regs_sorted hs
  have hstate := State.sorted_wr hregs ownStateState 0 (if offer.isSome then 2 else 0)
  have hsuccessor := State.sorted_wr hstate ownStateSuccessor 0 (offer.getD 0)
  refine ⟨?_, ?_, ?_⟩
  · rw [State.rd_endOwnership _ _ _ _ (by decide), State.vacated, State.rd_wr_other _ _ _ _ _ _ (by decide),
      State.rd_wr_other _ _ _ _ _ _ (by decide), State.rd_wr_other _ _ _ _ _ _ (by decide), State.rd_wr_same _ _ _ _ hregs]
    cases offer <;> rfl
  · rw [State.rd_endOwnership _ _ _ _ (by decide), State.vacated, State.rd_wr_other _ _ _ _ _ _ (by decide),
      State.rd_wr_other _ _ _ _ _ _ (by decide), State.rd_wr_same _ _ _ _ hstate]
  · rw [State.rd_endOwnership _ _ _ _ (by decide), State.vacated, State.rd_wr_other _ _ _ _ _ _ (by decide),
      State.rd_wr_same _ _ _ _ hsuccessor, Nat.zero_mod]

theorem State.endOwnership_owner? : (s.endOwnership offer tell).owner? = none :=
  State.owner?_of_not_owned (by rw [(State.endOwnership_reads hs offer tell).1]; cases offer <;> simp)

end

/-! ## RELEASE and HANDOVER (R525 to R527) -/

/-- The owner's offer of the chip to a seat, dated by the measure in which it was made. -/
def State.offered (s : State) (successor : Nat) : State :=
  (s.endOwnership (some successor) true).hostMap (fun h => { h with offerAt := s.measure })

section
variable {s : State} {c : Cmd} (howner : s.owner? = some c.seat)
include howner

theorem State.release_of_owner : s.release c = (s.endOwnership none true).completeOk c 0 0 := by
  rw [State.release, howner, beq_self_eq_true, State.when_true]

theorem State.handover_of_owner : s.handover c = (s.offered (field c.param 0 2)).completeOk c 0 0 := by
  rw [State.handover, howner, beq_self_eq_true, State.when_true]
  rfl

end

/-! ## The end of a lease or of an offer at a downbeat (R522, R527) -/

/-- An ownership or an offer ended at the downbeat that starts measure `n`, with its event. -/
def State.endedAt (s : State) (n : Nat) (tell : Bool) (event : Fld) : State :=
  ((s.endOwnership none tell).wr ownLastChangeMeasure 0 n).ev event

theorem State.endedAt_store (s : State) (n : Nat) (tell : Bool) (event : Fld) : (s.endedAt n tell event).store = s.store :=
  s.endOwnership_store none tell

section
variable {s : State} (hs : s.sound = true) (n : Nat) (tell : Bool) {event : Fld}
include hs

theorem State.rd_endedAt_event : (s.endedAt n tell event).rd event = 1 % 2 ^ event.width :=
  State.rd_wr_same _ _ _ _ (State.sorted_wr (State.regs_sorted (State.sound_endOwnership hs none tell)) _ _ _)

theorem State.rd_endedAt_lastChange (h : regKey ownLastChangeMeasure 0 0 ≠ regKey event 0 0) :
    (s.endedAt n tell event).rd ownLastChangeMeasure = n % 2 ^ 32 :=
  (State.rd_wr_other _ _ _ _ _ _ h).trans (State.rd_wr_same _ _ _ _ (State.regs_sorted (State.sound_endOwnership hs none tell)))

/-- Neither an owner nor a successor is left. -/
theorem State.endedAt_vacant (hstate : regKey ownStateState 0 0 ≠ regKey event 0 0) (hsuccessor : regKey ownStateSuccessor 0 0 ≠ regKey event 0 0) :
    (s.endedAt n tell event).rd ownStateState = 0 ∧ (s.endedAt n tell event).rd ownStateSuccessor = 0 := by
  obtain ⟨hvacant, hnone, -⟩ := State.endOwnership_reads hs none tell
  refine ⟨?_, ?_⟩
  · rw [State.endedAt, State.ev, State.rd_wr_other _ _ _ _ _ _ hstate, State.rd_wr_other _ _ _ _ _ _ (by decide), hvacant]
    rfl
  · rw [State.endedAt, State.ev, State.rd_wr_other _ _ _ _ _ _ hsuccessor, State.rd_wr_other _ _ _ _ _ _ (by decide), hnone]
    rfl

end

theorem State.expireLease_due {s : State} (n : Nat) (hstate : s.rd ownStateState = 1) (hlease : s.rd ownLeaseLeftMeasures = 0) :
    s.expireLease n = s.endedAt n true ownEventLeaseExpired := if_pos ⟨hstate, hlease⟩

theorem State.expireLease_not_due {s : State} (n : Nat) (h : s.rd ownStateState ≠ 1 ∨ s.rd ownLeaseLeftMeasures ≠ 0) : s.expireLease n = s :=
  if_neg (by tauto)

theorem State.lapseOffer_due {s : State} {n : Nat} (hstate : s.rd ownStateState = 2) (hage : 17 ≤ (n + 2 ^ 32 - s.host.offerAt) % 2 ^ 32)
    (hclaims : ∀ x ∈ s.host.claims, x.seat ≠ s.rd ownStateSuccessor) : s.lapseOffer n = s.endedAt n false ownEventOfferLapsed :=
  if_pos ⟨hstate, hage, by simpa using hclaims⟩

theorem State.lapseOffer_not_due {s : State} {n : Nat} (h : s.rd ownStateState ≠ 2 ∨ (n + 2 ^ 32 - s.host.offerAt) % 2 ^ 32 < 17) :
    s.lapseOffer n = s :=
  if_neg (fun ⟨hstate, hage, _⟩ => h.elim (· hstate) (Nat.not_lt.2 hage))

theorem State.ownershipDue_of_due {s : State} {t : Nat} (f : State → Nat → State) (hl : s.live = true) (hstarted : s.clk.started = true)
    (ht : s.clk.predicted ≤ t + ns 2000) : s.ownershipDue t f = f (s.advance t) s.nextNumber :=
  if_pos (by simp [hl, hstarted, ht])

theorem State.ownershipDue_of_not_due {s : State} {t : Nat} (f : State → Nat → State)
    (h : s.live = false ∨ s.clk.started = false ∨ t + ns 2000 < s.clk.predicted) : s.ownershipDue t f = s := by
  obtain h | h | h := h
  · simp [State.ownershipDue, h]
  · simp [State.ownershipDue, h]
  · simp [State.ownershipDue, Nat.not_le.2 h]

/-! ## The commands -/

theorem exec_claim (cid : Nat) (s : State) : exec (.claim cid) s = .next (s.row cid 0x04 State.claim) := rfl

theorem exec_release (cid : Nat) (s : State) : exec (.release cid) s = .next (s.row cid 0x05 State.release) := rfl

theorem exec_handover (cid : Nat) (s : State) : exec (.handover cid) s = .next (s.row cid 0x06 State.handover) := rfl

theorem exec_leaseExpiry (t : Nat) (s : State) : exec (.leaseExpiry t) s = .next (s.ownershipDue t State.expireLease) := rfl

theorem exec_offerLapse (t : Nat) (s : State) : exec (.offerLapse t) s = .next (s.ownershipDue t State.lapseOffer) := rfl

end Sys2Proof.Machine
end

section
/-!
PROOFS. CLAIM, RELEASE and HANDOVER, and the end of a lease and of an offer (O34).
-/
namespace Sys2Proof.Claims
open Sys2Proof Sys2Proof.Machine

section
variable {cid op : Nat} {c : Cmd} {s : State} (hready : hostReady s cid op c)
include hready

theorem answers_claim (hop : op = 0x04) : Answers (.claim cid) s (s.claim c) := by
  subst hop
  rw [Answers, exec_claim, row_of_hostReady hready]

theorem answers_release (hop : op = 0x05) (howner : s.owner? = some c.seat) :
    Answers (.release cid) s ((s.endOwnership none true).completeOk c 0 0) := by
  subst hop
  rw [Answers, exec_release, row_of_hostReady hready, State.release_of_owner howner]

theorem answers_handover (hop : op = 0x06) (howner : s.owner? = some c.seat) :
    Answers (.handover cid) s ((s.offered (field c.param 0 2)).completeOk c 0 0) := by
  subst hop
  rw [Answers, exec_handover, row_of_hostReady hready, State.handover_of_owner howner]

end

section
variable {t : Nat} {s : State} (hl : s.live = true) (hstarted : s.clk.started = true) (ht : s.clk.predicted ≤ t + ns 2000)
include hl hstarted ht

theorem answers_leaseExpiry : Answers (.leaseExpiry t) s ((s.advance t).expireLease s.nextNumber) := by
  rw [Answers, exec_leaseExpiry, State.ownershipDue_of_due _ hl hstarted ht]

theorem answers_offerLapse : Answers (.offerLapse t) s ((s.advance t).lapseOffer s.nextNumber) := by
  rw [Answers, exec_offerLapse, State.ownershipDue_of_due _ hl hstarted ht]

end

/-- Settles O34: the commands by the state of the ownership they find, the downbeat by what is due at it; both ends by the registers that the end
of an ownership leaves, whatever notices it gives. -/
theorem ownershipComesAndGoes : Obligations.OwnershipComesAndGoes := by
  refine ⟨fun cid op c s hs hready hw => ⟨fun hop => ?_, fun hop howner => ?_, fun hop howner => ?_⟩, fun t s hs => ?_⟩
  · have hclaim := answers_claim hready hop
    obtain ⟨-, hc, -⟩ := hready
    obtain rfl := State.cmd?_cid hc
    refine ⟨fun hfree hmask => ⟨s.claimHeld c, ?_, rfl, State.cmd?_cmdMap_of hc (fun _ => rfl), rfl, rfl, rfl⟩, fun hfree hmask => ?_,
      fun hoffered hother => ?_, fun howned hother => ?_, fun howner => ⟨s.leased c, ?_, State.rd_leased (State.regs_sorted hs) howner, ?_, ?_⟩⟩
    · rwa [State.claim_free hw c hfree, if_pos hmask] at hclaim
    · rwa [State.claim_free hw c hfree, hmask] at hclaim
    · rwa [State.claim_offered hw c hoffered, if_neg hother] at hclaim
    · rwa [State.claim_owned hw c howned, if_neg (fun h => hother ((s.owner?_eq_some_iff _).1 h).2)] at hclaim
    · rwa [State.claim_owned hw c ((s.owner?_eq_some_iff _).1 howner).1, if_pos howner] at hclaim
    · exact (s.leased_owner? c).trans howner
    · exact s.leased_out c
  · have hanswers := answers_release hready hop howner
    obtain ⟨-, hc, -⟩ := hready
    obtain rfl := State.cmd?_cid hc
    obtain ⟨hstate, -, hlease⟩ := State.endOwnership_reads hs none true
    exact ⟨_, hanswers, State.endOwnership_owner? hs none true, hstate, hlease, s.endOwnership_store none true, State.completeOk_cmd? _ c 0 0⟩
  · obtain ⟨hstate, hsuccessor, -⟩ := State.endOwnership_reads hs (some (field c.param 0 2)) true
    exact ⟨_, answers_handover hready hop howner, State.endOwnership_owner? hs _ true, hstate, hsuccessor, rfl, s.endOwnership_store _ true⟩
  · intro u
    refine ⟨fun hnot => ⟨congrArg _ (State.ownershipDue_of_not_due _ hnot), congrArg _ (State.ownershipDue_of_not_due _ hnot)⟩,
      fun hl hstarted ht => ?_⟩
    have hu : u.sound = true := (Follows.refl s).advance.sound hs
    have hexpiry := answers_leaseExpiry hl hstarted ht
    have hlapse := answers_offerLapse hl hstarted ht
    refine ⟨fun howned hrun => ?_, fun hnot => ?_, fun hoffered hage hclaims => ?_, fun hnot => ?_⟩
    · rw [State.expireLease_due _ howned hrun] at hexpiry
      obtain ⟨hvacant, -⟩ := State.endedAt_vacant hu s.nextNumber true (event := ownEventLeaseExpired) (by decide) (by decide)
      exact ⟨_, hexpiry, State.owner?_of_not_owned (by rw [hvacant]; decide), hvacant, State.rd_endedAt_event hu _ _,
        State.rd_endedAt_lastChange hu _ _ (by decide), u.endedAt_store _ _ _⟩
    · rwa [State.expireLease_not_due _ hnot] at hexpiry
    · rw [State.lapseOffer_due hoffered hage hclaims] at hlapse
      obtain ⟨hvacant, hnone⟩ := State.endedAt_vacant hu s.nextNumber false (event := ownEventOfferLapsed) (by decide) (by decide)
      exact ⟨_, hlapse, hvacant, State.rd_endedAt_event hu _ _, hnone, u.endedAt_store _ _ _⟩
    · rwa [State.lapseOffer_not_due hnot] at hlapse

end Sys2Proof.Claims
end

section
/-!
LAWS. Graphics memory beside its reorder queues: the registers of its block and what its channels keep, through reads, postings, completions and the
delivery of granules.
-/
namespace Sys2Proof.Machine

/-! ## Channels and the registers of graphics memory -/

/-- A channel without what its reorder queue makes of it: whose turn it is, and its check bursts (R323, R550). -/
def Channel.besideQueue (c : Channel) : Channel := { c with turn := 0, burst := none, bursts := 0 }

/-- The registers of the graphics memory block (BAR0 offsets 0x10000 to 0x11FFF), and the channels beside their reorder queues. -/
def State.graphics (s : State) : (Fin (2 ^ 18) → Option Nat) × List Channel :=
  (fun k => regFind (2 ^ 21 + k) s.regs, s.mem.channels.map Channel.besideQueue)

theorem State.rd_of_graphics {s t : State} (h : t.graphics = s.graphics) (f : Fld) (i : Nat) (hlo : 2 ^ 21 ≤ regKey f 0 i)
    (hhi : regKey f 0 i < 2 ^ 21 + 2 ^ 18) : t.rd f i = s.rd f i := by
  have hfind := congrFun (congrArg Prod.fst h) ⟨regKey f 0 i - 2 ^ 21, by omega⟩
  simp only [State.graphics, Nat.add_sub_cancel' hlo] at hfind
  rw [State.rd, State.rd, regGet, regGet, hfind]

theorem State.channel_of_graphics {s t : State} (h : t.graphics = s.graphics) (n : Nat) :
    (t.channel n).besideQueue = (s.channel n).besideQueue := by
  have hlist (u : State) : (u.channel n).besideQueue = u.graphics.2.getD n channelNil.besideQueue := (List.getD_map _ _ _).symm
  rw [hlist, hlist, h]

theorem State.graphics_of_parts {s t : State} (hregs : t.regs = s.regs) (hmem : t.mem = s.mem) : t.graphics = s.graphics := by
  rw [State.graphics, State.graphics, hregs, hmem]

/-- What leaves the commands, the registers below the error block and everything beside postings leaves graphics memory. -/
theorem State.graphics_of_posts {s t : State} (hregs : t.belowErrors = s.belowErrors) (hposts : t.besidePosts = s.besidePosts) :
    t.graphics = s.graphics := by
  have hmem : t.mem = s.mem := (congrArg State.mem hposts :)
  have hfind (k : Fin (2 ^ 18)) : regFind (2 ^ 21 + k) t.regs = regFind (2 ^ 21 + k) s.regs :=
    congrFun (congrArg Prod.snd hregs) ⟨2 ^ 21 + k, by omega⟩
  rw [State.graphics, State.graphics, hmem, funext hfind]

theorem State.graphics_wrw (s : State) {f : Fld} {seat i : Nat} (v : Nat) (h : regKey f seat i < 2 ^ 21 ∨ 2 ^ 21 + 2 ^ 18 ≤ regKey f seat i) :
    (s.wrw f seat i v).graphics = s.graphics :=
  Prod.ext (funext fun k => regFind_regSet_other f seat i v _ s.regs (by omega)) rfl

theorem State.graphics_ev (s : State) {f : Fld} {i : Nat} (h : regKey f 0 i < 2 ^ 21 ∨ 2 ^ 21 + 2 ^ 18 ≤ regKey f 0 i) :
    (s.ev f i).graphics = s.graphics := s.graphics_wrw 1 h

theorem State.graphics_inc (s : State) {f : Fld} {i : Nat} (n : Nat) (h : regKey f 0 i < 2 ^ 21 ∨ 2 ^ 21 + 2 ^ 18 ≤ regKey f 0 i) :
    (s.inc f i n).graphics = s.graphics := s.graphics_wrw _ h

theorem State.graphics_channelMap (s : State) (h : Nat) {f : Channel → Channel} (hf : ∀ c, (f c).besideQueue = c.besideQueue) :
    (s.channelMap h f).graphics = s.graphics :=
  Prod.ext rfl ((map_updAt (f' := id) hf h s.mem.channels).trans (updAt_id _ _))

@[simp] theorem State.graphics_when (s : State) (b : Bool) (f : State → State) :
    (s.when b f).graphics = if b then (f s).graphics else s.graphics := by
  cases b <;> rfl

@[simp] theorem State.graphics_ite (p : Prop) [Decidable p] (s t : State) : (if p then s else t).graphics = if p then s.graphics else t.graphics :=
  apply_ite _ p s t

@[simp] theorem State.graphics_bump (s : State) (f : Fld) (i n : Nat) : (s.bump f i n).graphics = s.graphics := rfl
@[simp] theorem State.graphics_sweepMap (s : State) (f : Sweep → Sweep) : (s.sweepMap f).graphics = s.graphics := rfl
@[simp] theorem State.graphics_rrMap (s : State) (f : Rerank → Rerank) : (s.rrMap f).graphics = s.graphics := rfl
@[simp] theorem State.graphics_storeMap (s : State) (f : Store → Store) : (s.storeMap f).graphics = s.graphics := rfl
@[simp] theorem State.graphics_hostMap (s : State) (f : HostSt → HostSt) : (s.hostMap f).graphics = s.graphics := rfl
@[simp] theorem State.graphics_weaveMap (s : State) (f : Weave → Weave) : (s.weaveMap f).graphics = s.graphics := rfl

/-! ## Postings and completions -/

@[simp] theorem State.graphics_cmdMap (s : State) (cid : Nat) (f : Cmd → Cmd) : (s.cmdMap cid f).graphics = s.graphics := rfl
@[simp] theorem State.graphics_cpqMap (s : State) (fn q : Nat) (f : Cpq → Cpq) : (s.cpqMap fn q f).graphics = s.graphics := rfl
@[simp] theorem State.graphics_charge (s : State) (seat nj : Nat) : (s.charge seat nj).graphics = s.graphics := rfl
@[simp] theorem State.graphics_spend (s : State) (cid n : Nat) : (s.spend cid n).graphics = s.graphics := rfl
@[simp] theorem State.graphics_closeWindow (s : State) (c : Cmd) (st m l n : Nat) (p : Bool) :
    (s.closeWindow c st m l n p).graphics = s.graphics := rfl
@[simp] theorem State.graphics_countStatus (s : State) (seat st : Nat) : (s.countStatus seat st).graphics = s.graphics := rfl

@[simp] theorem State.graphics_dropCmd (s : State) (c : Cmd) : (s.dropCmd c).graphics = s.graphics :=
  State.graphics_wrw _ _ (by simp only [regKey, hstSbqStatusIdle, if_true]; omega)

@[simp] theorem State.graphics_post (s : State) (seat addr : Nat) (b : Bytes) (r : Bool) : (s.post seat addr b r).graphics = s.graphics :=
  State.graphics_of_posts (s.belowErrors_post seat addr b r) (s.besidePosts_post seat addr b r)

@[simp] theorem State.graphics_writeCompletion (s : State) (c : Cmd) (st orig tag m l n r : Nat) :
    (s.writeCompletion c st orig tag m l n r).graphics = s.graphics :=
  State.graphics_of_posts (s.belowErrors_writeCompletion c st orig tag m l n r) (s.besidePosts_writeCompletion c st orig tag m l n r)

@[simp] theorem State.graphics_logError (s : State) (cls kind unit code detail : Nat) :
    (s.logError cls kind unit code detail).graphics = s.graphics :=
  State.graphics_of_posts (s.belowErrors_logError cls kind unit code detail) (s.besidePosts_logError cls kind unit code detail)

@[simp] theorem State.graphics_send (s : State) (t dst op : Nat) (b : Bytes) : (s.send t dst op b).graphics = s.graphics :=
  State.graphics_of_parts (s.routeIn_regs _ _ _ _) (congrArg State.mem (s.besidePosts_send t dst op b) :)

@[simp] theorem State.graphics_reply (s : State) (c : Cmd) (addr : Nat) (b : Bytes) : (s.reply c addr b).graphics = s.graphics := by
  simp [State.reply]

@[simp] theorem State.graphics_finishHost (s : State) (c : Cmd) (st m l n : Nat) (e : Bool) : (s.finishHost c st m l n e).graphics = s.graphics := by
  simp [State.finishHost]

@[simp] theorem State.graphics_finish (s : State) (c : Cmd) (st m l n : Nat) (e : Bool) : (s.finish c st m l n e).graphics = s.graphics := by
  unfold State.finish
  split <;> simp

@[simp] theorem State.graphics_finishDuplicate (s : State) (c : Cmd) (e : WinEnt) : (s.finishDuplicate c e).graphics = s.graphics := by
  have hcounted : (s.inc zcpDuplicatesCount).graphics = s.graphics := s.graphics_inc 1 (.inl (by decide))
  simp [State.finishDuplicate, hcounted]

@[simp] theorem State.graphics_wakeDuplicates (s : State) (c : Cmd) : (s.wakeDuplicates c).graphics = s.graphics := by
  simp only [State.wakeDuplicates]
  split
  · rfl
  split
  · rfl
  split
  · rfl
  · exact State.each_keeps (π := State.graphics) _ s (fun t d => t.graphics_finishDuplicate d _)

@[simp] theorem State.graphics_complete (s : State) (c : Cmd) (st m l n : Nat) (e : Bool) : (s.complete c st m l n e).graphics = s.graphics := by
  simp [State.complete]

/-! ## Reads and writes of granules -/

@[simp] theorem State.graphics_reqMap (s : State) (rid : Nat) (f : Req → Req) : (s.reqMap rid f).graphics = s.graphics := rfl
@[simp] theorem State.graphics_dropReq (s : State) (rid : Nat) : (s.dropReq rid).graphics = s.graphics := rfl

@[simp] theorem State.graphics_grantOne (s : State) (h : Nat) : (s.grantOne h).graphics = s.graphics := by
  unfold State.grantOne
  split
  · rfl
  · dsimp only
    split
    · rfl
    · exact State.graphics_channelMap _ h (by intro _; rfl)

@[simp] theorem State.graphics_fillQueue (h k : Nat) (s : State) : (State.fillQueue h k s).graphics = s.graphics := by
  induction k generalizing s with
  | zero => rfl
  | succ k ih =>
    unfold State.fillQueue
    split
    · rfl
    split
    · rfl
    · rw [ih, State.graphics_grantOne]

@[simp] theorem State.graphics_issueEntry (s : State) (h : Nat) (r : Req) : (s.issueEntry h r).graphics = s.graphics :=
  State.graphics_channelMap _ h (by intro _; rfl)

theorem State.graphics_writeOut (s : State) (h : Nat) : (s.writeOut h).graphics = s.graphics := by
  unfold State.writeOut
  split <;> simp

@[simp] theorem State.graphics_writesOut (s : State) (h : Nat) : (s.writesOut h).graphics = s.graphics :=
  State.each_keeps (π := State.graphics) _ s (fun t _ => t.graphics_writeOut h)

@[simp] theorem State.graphics_writeBack (s : State) (h g : Nat) : (s.writeBack h g).graphics = s.graphics := by
  simp [State.writeBack]

@[simp] theorem State.graphics_readIssued (s : State) (r : Req) : (s.readIssued r).graphics = s.graphics := by
  simp [State.readIssued]

@[simp] theorem State.graphics_issue (s : State) (sq granule : Nat) (staging far : Bool) (c : Client) :
    (s.issue sq granule staging far c).graphics = s.graphics := by
  unfold State.issue
  split
  · rfl
  · cases staging <;> simp

/-- A write that leaves its queue changes no more than a read that is issued. -/
@[simp] theorem State.besideReads_writesOut (s : State) (h : Nat) : (s.writesOut h).besideReads = s.besideReads := by
  refine State.each_keeps (π := State.besideReads) _ s (fun t _ => ?_)
  unfold State.writeOut
  split
  · rfl
  · exact (State.besideReads_fillQueue h 32 _).trans rfl

theorem State.besideReads_writeBack (s : State) (h g : Nat) : (s.writeBack h g).besideReads = s.besideReads :=
  (State.besideReads_writesOut _ h).trans rfl

theorem State.besideReads_readIssued (s : State) (r : Req) : (s.readIssued r).besideReads = s.besideReads :=
  (State.besideReads_writesOut _ _).trans ((State.besideReads_fillQueue _ 32 _).trans rfl)

theorem State.store_of_besideReads {s t : State} (h : t.besideReads = s.besideReads) : t.store = s.store := (congrArg State.store h :)
theorem State.host_of_besideReads {s t : State} (h : t.besideReads = s.besideReads) : t.host = s.host := (congrArg State.host h :)
theorem State.out_of_besideReads {s t : State} (h : t.besideReads = s.besideReads) : t.out = s.out := (congrArg State.out h :)

/-! ## Granules given to their clients -/

theorem State.graphics_tileGranule (s : State) (g tid i : Nat) (lost : Bool) : (s.tileGranule g tid i lost).graphics = s.graphics := by
  have hlost (t : State) : (t.ev strmEventGranuleLost).graphics = t.graphics := t.graphics_ev (.inl (by decide))
  unfold State.tileGranule
  split <;> simp [State.runsMap, hlost]

theorem State.graphics_tableLanded (s : State) (k : Nat) : (s.tableLanded k).graphics = s.graphics := by
  have hfill (t : State) (k : Nat) : (t.issueFill k).graphics = t.graphics := by
    unfold State.issueFill
    split
    · rfl
    · exact State.each_keeps (π := State.graphics) _ _ (fun t g => t.graphics_issue _ g _ _ _)
  unfold State.tableLanded
  split
  · rfl
  · refine (State.each_keeps (π := State.graphics) _ _ hfill).trans ?_
    exact State.each_keeps (π := State.graphics) _ _ (by intro _ _; rfl)

theorem State.graphics_tableGranule (s : State) (g k : Nat) (lost : Bool) : (s.tableGranule g k lost).graphics = s.graphics := by
  simp only [State.tableGranule, State.graphics_ite, State.graphics_tableLanded]
  split
  · rfl
  split <;> simp [State.runMap, State.graphics_tableLanded]

theorem State.graphics_pointPart (s : State) (cid : Nat) (lost : Bool) : (s.pointPart cid lost).graphics = s.graphics := by
  unfold State.pointPart
  split
  · rfl
  · simp [State.pointDone]

/-- An operation that is undone leaves graphics memory as it was (R491). -/
theorem State.graphics_undoSlab (s : State) (j : Journal) : (s.undoSlab j).graphics = s.graphics := by
  have hwriter (t : State) (shelf slab : Nat) : (t.setWriter shelf slab 0).graphics = t.graphics := rfl
  have hclosed (t : State) (k : Nat) : (t.closeJournal k).graphics = t.graphics := by
    simp [State.closeJournal]
  simp [State.undoSlab, hwriter, hclosed]

theorem State.graphics_slabRollback (s : State) (slot granule : Nat) : (s.slabRollback slot granule).graphics = s.graphics := by
  unfold State.slabRollback
  split
  · rfl
  · exact (State.graphics_ev _ (.inl (by decide))).trans (s.graphics_undoSlab _)

/-- A granule given to a client, lost or not, leaves graphics memory as it was. -/
theorem State.graphics_giveClient (s : State) (h g : Nat) (lost : Bool) (cl : Client) : (s.giveClient h g lost cl).graphics = s.graphics := by
  cases cl with
  | slab k =>
    cases lost
    · rfl
    · exact (State.graphics_slabRollback _ k g).trans (s.graphics_logError _ _ _ _ _)
  | tile tid i => simp [State.giveClient, State.graphics_tileGranule]
  | table k => simp [State.giveClient, State.graphics_tableGranule]
  | point cid part => simp [State.giveClient, State.graphics_pointPart]
  | key | record | spill | spillOut | codaKey | slabOut | scrub => simp [State.giveClient]

end Sys2Proof.Machine
end

section
/-!
LAWS. A channel's fault (R563), and a granule read checked (R558 to R562): what each note changes.
-/
namespace Sys2Proof.Machine

/-! ## One channel -/

theorem State.channel_channelMap_same {s : State} (hs : s.sound = true) {h : Nat} (hh : h < 24) (f : Channel → Channel) :
    (s.channelMap h f).channel h = f (s.channel h) := by
  obtain ⟨-, -, -, -, -, hlen, -⟩ := (State.sound_iff s).1 hs
  exact getD_updAt_same f _ (hh.trans_eq hlen.symm)

theorem State.faulted_of_graphics {s t : State} (h : t.graphics = s.graphics) (n : Nat) : (t.channel n).faulted = (s.channel n).faulted :=
  (congrArg Channel.faulted (State.channel_of_graphics h n) :)

theorem State.rr_of_besidePosts {s t : State} (h : t.besidePosts = s.besidePosts) : t.rr = s.rr := (congrArg State.rr h :)

/-! ## The fault of a channel -/

/-- A channel that accepts no request from now on, and the event (R563). -/
def State.faultNoted (s : State) (h : Nat) : State :=
  ((s.loseRows h).channelMap h (fun c => { c with faulted := true })).ev gdmEventFault

/-- The channel's bit of GDM_MAPOUT set, with the alert (R563, R685). -/
def State.mappedOut (s : State) (h : Nat) : State := (s.wr gdmMapoutChannels 0 (s.rd gdmMapoutChannels ||| 2 ^ h)).alertOn

theorem State.channelFault_of_working {s : State} {h : Nat} (code detail : Nat) (hw : (s.channel h).faulted = false) :
    ∃ b, s.channelFault h code detail = ((s.faultNoted h).when b (fun s => s.mappedOut h)).logError 3 2 h code detail := by
  refine ⟨(s.faultNoted h).rd gdmCtrlAutoMapout == 1 &&
    decide (12 ≤ ((s.faultNoted h).wanted ((s.faultNoted h).rd gdmMapoutChannels ||| 2 ^ h)).length), ?_⟩
  rw [State.channelFault, if_neg (by simp [hw])]
  rfl

/-- A fault changes the runs, its channel, two registers of graphics memory, and what an error report changes. -/
theorem State.channelFault_keeps {α : Type} {π : State → α} {h : Nat} (hruns : ∀ (t : State) f, π (t.sweepMap f) = π t)
    (hchannel : ∀ t : State, π (t.channelMap h (fun c => { c with faulted := true })) = π t)
    (hevent : ∀ t : State, π (t.ev gdmEventFault) = π t)
    (hmapout : ∀ (t : State) v, π (t.wr gdmMapoutChannels 0 v) = π t) (halert : ∀ t : State, π t.alertOn = π t)
    (hlog : ∀ (t : State) code detail, π (t.logError 3 2 h code detail) = π t) (s : State) (code detail : Nat) :
    π (s.channelFault h code detail) = π s := by
  by_cases hw : (s.channel h).faulted = true
  case pos => rw [State.channelFault, if_pos hw]
  case neg =>
    obtain ⟨b, hb⟩ := State.channelFault_of_working code detail (Bool.eq_false_iff.2 hw)
    have hmapped : ∀ t : State, π (t.mappedOut h) = π t := fun t => (halert _).trans (hmapout t _)
    rw [hb, hlog, State.when_keeps (π := π) _ b hmapped, State.faultNoted, hevent, hchannel]
    unfold State.loseRows State.runsMap
    exact hruns s _

theorem State.channelFault_store (s : State) (h code detail : Nat) : (s.channelFault h code detail).store = s.store :=
  State.channelFault_keeps (π := State.store) (fun _ _ => rfl) (fun _ => rfl) (fun _ => rfl) (fun _ _ => rfl)
    (fun t => State.store_of_besidePosts t.besidePosts_alertOn) (fun t _ _ => State.store_of_besidePosts (t.besidePosts_logError _ _ _ _ _))
    s code detail

theorem State.channelFault_rr (s : State) (h code detail : Nat) : (s.channelFault h code detail).rr = s.rr :=
  State.channelFault_keeps (π := State.rr) (fun _ _ => rfl) (fun _ => rfl) (fun _ => rfl) (fun _ _ => rfl)
    (fun t => State.rr_of_besidePosts t.besidePosts_alertOn) (fun t c d => State.rr_of_besidePosts (t.besidePosts_logError 3 2 h c d)) s code detail

theorem State.rd_channelFault_ue (s : State) (h code detail : Nat) : (s.channelFault h code detail).rd gdmEventUe = s.rd gdmEventUe :=
  State.channelFault_keeps (π := fun t => t.rd gdmEventUe) (fun _ _ => rfl) (fun _ => rfl) (fun t => t.rd_wr_other _ _ _ _ _ (by decide))
    (fun t _ => t.rd_wr_other _ _ _ _ _ (by decide)) (fun t => State.rd_of_belowErrors t.belowErrors_alertOn _ _ (by decide))
    (fun t _ _ => State.rd_of_graphics (t.graphics_logError _ _ _ _ _) _ _ (by decide) (by decide)) s code detail

section
variable {s : State} (hs : s.sound = true) {h : Nat} (code detail : Nat) (hw : (s.channel h).faulted = false)
include hs hw

/-- The channel has faulted (R563). -/
theorem State.channel_channelFault (hh : h < 24) : ((s.channelFault h code detail).channel h).faulted = true := by
  obtain ⟨b, hb⟩ := State.channelFault_of_working code detail hw
  have hnoted : ((s.faultNoted h).channel h).faulted = true :=
    congrArg Channel.faulted (State.channel_channelMap_same ((Follows.refl s).loseRows.sound hs) hh _)
  have hmapped : ∀ t : State, ((t.mappedOut h).channel h).faulted = (t.channel h).faulted := fun t =>
    (congrArg (fun u : State => (u.channel h).faulted) (State.besidePosts_alertOn _) :)
  rw [hb, State.faulted_of_graphics (State.graphics_logError _ _ _ _ _ _),
    State.when_keeps (π := fun t => (t.channel h).faulted) _ b hmapped, hnoted]

/-- The event of the fault is set. -/
theorem State.rd_channelFault_event : (s.channelFault h code detail).rd gdmEventFault = 1 := by
  obtain ⟨b, hb⟩ := State.channelFault_of_working code detail hw
  have hnoted : (s.faultNoted h).rd gdmEventFault = 1 :=
    State.rd_wr_same _ _ _ _ (State.regs_sorted (((Follows.refl s).loseRows.channelMap).sound hs))
  have hmapped : ∀ t : State, (t.mappedOut h).rd gdmEventFault = t.rd gdmEventFault := fun t =>
    (State.rd_of_belowErrors (State.belowErrors_alertOn _) _ _ (by decide)).trans (t.rd_wr_other _ _ _ _ _ (by decide))
  rw [hb, State.rd_of_graphics (State.graphics_logError _ _ _ _ _ _) _ _ (by decide) (by decide),
    State.when_keeps (π := fun t => t.rd gdmEventFault) _ b hmapped, hnoted]

end

/-! ## A good read -/

theorem regKey_gdmCeCount (h : Nat) : regKey gdmCeCount 0 h = 0x10104 * 32 + 512 * h := by simp [regKey, gdmCeCount]; omega
theorem regKey_gdmCrcRetryCount (h : Nat) : regKey gdmCrcRetryCount 0 h = 0x1010C * 32 + 512 * h := by simp [regKey, gdmCrcRetryCount]; omega

/-- A read that is not lost: its repetitions and its corrected error counted (R558, R559). -/
def State.goodRead (s : State) (h crc ecc : Nat) : State :=
  (s.crcRetry h (min crc 3)).when (ecc == 1) (fun s => (s.inc gdmCeCount h).ev gdmEventCe)

theorem Follows.goodRead {b s : State} {h crc ecc : Nat} (hb : Follows b s) : Follows b (s.goodRead h crc ecc) :=
  hb.crcRetry.when (fun _ ht => (ht.inc _ _ _).ev _ _)

theorem State.checkGranule_good {s : State} {h g crc ecc : Nat} {system : Bool} (hw : (s.channel h).faulted = false) (hcrc : crc < 4)
    (hecc : ecc ≤ 1) (hbad : system = true ∨ (s.channel h).bad.contains g = false) :
    s.checkGranule h g crc ecc system = (s.goodRead h crc ecc, false) := by
  have hkept : ((s.crcRetry h (min crc 3)).channel h).bad = (s.channel h).bad :=
    State.when_keeps (π := fun t => (t.channel h).bad) s _ (fun _ => rfl)
  have hgood : ¬(ecc = 2 ∨ (!system && ((s.crcRetry h (min crc 3)).channel h).bad.contains g) = true) := by
    rw [hkept]
    rintro (htwo | hread)
    · omega
    · rcases hbad with hsystem | hclean
      · simp [hsystem] at hread
      · rw [hclean, Bool.and_false] at hread
        cases hread
  simp only [State.checkGranule, hw, Bool.false_eq_true, if_false, if_neg (Nat.not_le.2 hcrc), if_neg hgood]
  rfl

/-- A good read changes registers only. -/
theorem State.goodRead_eq (s : State) (h crc ecc : Nat) : ∃ r, s.goodRead h crc ecc = { s with regs := r } := by
  have hretry : ∀ n, ∃ r, s.crcRetry h n = { s with regs := r } := fun n => by
    unfold State.crcRetry
    cases decide (0 < n)
    · exact ⟨s.regs, rfl⟩
    · exact ⟨_, rfl⟩
  obtain ⟨r, hr⟩ := hretry (min crc 3)
  rw [State.goodRead, hr]
  cases ecc == 1
  · exact ⟨r, rfl⟩
  · exact ⟨_, rfl⟩

/-- A good read writes the counts of its channel and two events only. -/
theorem State.rd_goodRead_other (s : State) (h crc ecc : Nat) {f : Fld} {i : Nat} (hlo : regKey f 0 i < 0x10018 * 32) :
    (s.goodRead h crc ecc).rd f i = s.rd f i := by
  have hretry : (s.crcRetry h (min crc 3)).rd f i = s.rd f i := State.when_keeps (π := fun t => t.rd f i) s _ (fun t => by
    rw [State.ev, State.rd_wr_other _ _ _ _ _ _ (by simp only [regKey, gdmEventCrcRetry] at *; omega), State.inc,
      State.rd_wr_other _ _ _ _ _ _ (by rw [regKey_gdmCrcRetryCount]; omega)])
  refine (State.when_keeps (π := fun t => t.rd f i) _ _ (fun t => ?_)).trans hretry
  rw [State.ev, State.rd_wr_other _ _ _ _ _ _ (by simp only [regKey, gdmEventCe] at *; omega), State.inc,
    State.rd_wr_other _ _ _ _ _ _ (by rw [regKey_gdmCeCount]; omega)]

section
variable {s : State} (hs : s.sound = true) (h crc : Nat)
include hs

/-- A corrected error sets its event (R559). -/
theorem State.rd_goodRead_event : (s.goodRead h crc 1).rd gdmEventCe = 1 :=
  State.rd_wr_same _ gdmEventCe 0 1 (State.regs_sorted (((Follows.refl s).crcRetry.inc gdmCeCount h 1).sound hs))

/-- A corrected error is counted (R559); the count stops at its largest value (R823). -/
theorem State.rd_goodRead_count : (s.goodRead h crc 1).rd gdmCeCount h = min (s.rd gdmCeCount h + 1) (2 ^ 32 - 1) := by
  have hretry : (s.crcRetry h (min crc 3)).rd gdmCeCount h = s.rd gdmCeCount h :=
    State.when_keeps (π := fun t => t.rd gdmCeCount h) s _ (fun t => by
      rw [State.ev, State.rd_wr_other _ _ _ _ _ _ (by rw [regKey_gdmCeCount]; simp only [regKey, gdmEventCrcRetry]; omega), State.inc,
        State.rd_wr_other _ _ _ _ _ _ (by rw [regKey_gdmCeCount, regKey_gdmCrcRetryCount]; omega)])
  have hcounted : s.goodRead h crc 1 = ((s.crcRetry h (min crc 3)).inc gdmCeCount h).ev gdmEventCe := rfl
  rw [hcounted, State.ev, State.rd_wr_other _ _ _ _ _ _ (by rw [regKey_gdmCeCount]; simp only [regKey, gdmEventCe]; omega), State.inc,
    State.rd_wr_same _ _ _ _ (State.regs_sorted ((Follows.refl s).crcRetry.sound hs)), hretry]
  exact Nat.mod_eq_of_lt (by simp only [gdmCeCount]; omega)

end

/-! ## A read that is lost -/

theorem State.crcRetry_besidePosts (s : State) (h n : Nat) : (s.crcRetry h n).besidePosts = s.besidePosts :=
  State.when_keeps (π := State.besidePosts) s _ (fun _ => rfl)

theorem State.crcRetry_channel (s : State) (h n k : Nat) : (s.crcRetry h n).channel k = s.channel k :=
  (congrArg (fun t : State => t.channel k) (s.crcRetry_besidePosts h n) :)

/-- A transfer that failed every repetition faults its channel (R558, R562). -/
theorem State.checkGranule_failed {s : State} {h g ecc : Nat} {system : Bool} (hw : (s.channel h).faulted = false) :
    s.checkGranule h g 4 ecc system = ((s.crcRetry h 3).channelFault h 8 g, true) := by
  simp [State.checkGranule, hw]

theorem State.checkGranule_uncorrectable {s : State} {h g crc : Nat} {system : Bool} (hw : (s.channel h).faulted = false) (hcrc : crc < 4) :
    s.checkGranule h g crc 2 system = ((s.crcRetry h (min crc 3)).uncorrectable h g system, true) := by
  simp [State.checkGranule, hw, Nat.not_le.2 hcrc]

/-- An uncorrectable granule sets its event (R560). -/
theorem State.rd_uncorrectable_event {s : State} (hs : s.sound = true) (h g : Nat) (system : Bool) :
    (s.uncorrectable h g system).rd gdmEventUe = 1 := by
  have hnoted : ((s.inc gdmUeCount h).ev gdmEventUe).rd gdmEventUe = 1 :=
    State.rd_wr_same _ gdmEventUe 0 1 (State.regs_sorted (((Follows.refl s).inc gdmUeCount h 1).sound hs))
  refine (State.when_keeps (π := fun t => t.rd gdmEventUe) _ _ (fun t => t.rd_channelFault_ue h 9 g)).trans (Eq.trans ?_ hnoted)
  exact (State.rd_wr_other _ gdmUeLastHiSystem _ _ _ _ (by decide)).trans ((State.rd_wr_other _ gdmUeLastHiChannel _ _ _ _ (by decide)).trans
    (State.rd_wr_other _ gdmUeLastLoGranule _ _ _ _ (by decide)))

theorem State.uncorrectable_store (s : State) (h g : Nat) (system : Bool) : (s.uncorrectable h g system).store = s.store :=
  (State.when_keeps (π := State.store) _ _ (fun t => t.channelFault_store h 9 g)).trans rfl

end Sys2Proof.Machine
end

section
/-!
LAWS. A read in its channel's reorder queue (R550, R551): the request itself through the grants, the entries that pass it and the writes that leave,
and what its return makes of it and of its clients (R558 to R560, R563, R887).
-/
namespace Sys2Proof.Machine

/-! ## Requests beside their places in the queues -/

/-- A request without its place in its reorder queue. -/
def Req.core (r : Req) : Req := { r with arr := none, passed := 0 }

/-- The requests, without their places. -/
def State.cores (s : State) : List Req := s.rr.reqs.map Req.core

/-- The requests of a number, without their places. -/
def State.reqsOf (s : State) (rid : Nat) : List Req := s.cores.filter (fun r => r.rid == rid)

theorem map_updFirst_keeps {α β : Type} {g : α → β} (p : α → Bool) {f : α → α} (h : ∀ x, g (f x) = g x) (l : List α) :
    (updFirst p f l).map g = l.map g := by
  induction l with
  | nil => rfl
  | cons x l ih => unfold updFirst; split <;> simp [h, ih]

/-- A change of the first element that satisfies `p`, seen through `g`. -/
theorem map_updFirst {α β : Type} {g : α → β} {p : α → Bool} {q : β → Bool} {f : α → α} {f' : β → β} (hp : ∀ x, q (g x) = p x)
    (hf : ∀ x, g (f x) = f' (g x)) (l : List α) : (updFirst p f l).map g = updFirst q f' (l.map g) := by
  induction l with
  | nil => rfl
  | cons x l ih => simp only [updFirst, List.map_cons, hp]; split <;> simp [hf, ih]

theorem map_updAll_keeps {α β : Type} {g : α → β} (p : α → Bool) {f : α → α} (h : ∀ x, g (f x) = g x) (l : List α) :
    (updAll p f l).map g = l.map g := by
  rw [updAll, List.map_map]
  exact List.map_congr_left (fun x _ => by simp only [Function.comp_apply]; split <;> simp [h])

/-- The one element that satisfies `p`, changed. -/
theorem filter_updFirst_one {α : Type} {p : α → Bool} {f : α → α} {l : List α} {x : α} (hp : ∀ x, p x = true → p (f x) = true)
    (h : l.filter p = [x]) : (updFirst p f l).filter p = [f x] := by
  induction l with
  | nil => cases h
  | cons y l ih =>
    by_cases hy : p y = true
    · rw [List.filter_cons_of_pos hy] at h
      obtain ⟨rfl, hnil⟩ := List.cons.inj h
      rw [updFirst, if_pos hy, List.filter_cons_of_pos (hp y hy), hnil]
    · rw [List.filter_cons_of_neg hy] at h
      rw [updFirst, if_neg hy, List.filter_cons_of_neg hy, ih h]

theorem State.reqsOf_eq (s : State) (rid : Nat) : s.reqsOf rid = (s.rr.reqs.filter (fun r => r.rid == rid)).map Req.core := by
  rw [State.reqsOf, State.cores, List.filter_map]
  rfl

theorem State.reqsOf_of_rr {s t : State} (h : t.rr = s.rr) (rid : Nat) : t.reqsOf rid = s.reqsOf rid := by
  rw [State.reqsOf_eq, State.reqsOf_eq, h]

theorem State.find?_of_reqsOf {s : State} {rid : Nat} {c : Req} (h : s.reqsOf rid = [c]) :
    ∃ y, s.rr.reqs.find? (fun r => r.rid == rid) = some y ∧ y.core = c := by
  rw [State.reqsOf_eq, List.map_eq_singleton_iff] at h
  obtain ⟨y, hy, hcore⟩ := h
  exact ⟨y, by rw [← List.head?_filter, hy]; rfl, hcore⟩

/-! ## Grants, issues and writes -/

theorem State.cores_grantOne (s : State) (h : Nat) : (s.grantOne h).cores = s.cores := by
  unfold State.grantOne
  split
  · rfl
  · dsimp only
    split
    · rfl
    · exact map_updFirst_keeps _ (by intro _; rfl) _

theorem State.cores_fillQueue (h k : Nat) (s : State) : (State.fillQueue h k s).cores = s.cores := by
  induction k generalizing s with
  | zero => rfl
  | succ k ih =>
    unfold State.fillQueue
    split
    · rfl
    split
    · rfl
    · rw [ih, State.cores_grantOne]

theorem State.cores_issueEntry (s : State) (h : Nat) (r : Req) : (s.issueEntry h r).cores = s.cores := map_updAll_keeps _ (by intro _; rfl) _

/-- A request changed in what is not its place. -/
theorem State.reqsOf_reqMap {s : State} {rid : Nat} {c : Req} {f : Req → Req}
    (hcore : ∀ x, (f x).core = f x.core) (hrid : ∀ x, (f x).rid = x.rid)
    (h : s.reqsOf rid = [c]) : (s.reqMap rid f).reqsOf rid = [f c] := by
  have hreqs : (s.reqMap rid f).cores = updFirst (fun x => x.rid == rid) f s.cores := map_updFirst (by intro _; rfl) hcore s.rr.reqs
  rw [State.reqsOf, hreqs]
  exact filter_updFirst_one (fun x hx => by rwa [hrid]) h

theorem State.reqsOf_dropReq_other (s : State) {rid k : Nat} (hne : k ≠ rid) : (s.dropReq k).reqsOf rid = s.reqsOf rid := by
  rw [State.reqsOf_eq, State.reqsOf_eq, State.dropReq, State.rrMap_rr, List.filter_filter]
  exact congrArg (List.map Req.core) (List.filter_congr (fun x _ => by
    by_cases hx : x.rid = rid
    · simp [hx, Ne.symm hne]
    · simp [hx]))

theorem State.find?_dropReq (s : State) (rid : Nat) : (s.dropReq rid).rr.reqs.find? (fun y => y.rid == rid) = none := by
  simp [State.dropReq]

/-- The writes that leave a reorder queue leave a read as it is. -/
theorem State.reqsOf_writesOut {s : State} {rid : Nat} {c : Req} (h : Nat) (hc : s.reqsOf rid = [c]) (hread : c.write = false) :
    (s.writesOut h).reqsOf rid = [c] := by
  refine List.foldlRecOn (motive := fun t : State => t.reqsOf rid = [c]) _ _ hc (fun t ht _ _ => ?_)
  unfold State.writeOut
  split
  · exact ht
  case h_2 r hr =>
    have hmem : r ∈ t.rr.reqs := (List.mem_filter.1 (List.mem_of_find?_eq_some hr)).1
    have hwrite : r.write = true := by
      have hfound := List.find?_some hr
      simp only [Bool.and_eq_true] at hfound
      exact hfound.1
    have hne : r.rid ≠ rid := by
      rintro rfl
      have hlisted : r.core ∈ t.reqsOf r.rid := List.mem_filter.2 ⟨List.mem_map_of_mem hmem, beq_self_eq_true _⟩
      rw [ht, List.mem_singleton] at hlisted
      rw [← hlisted] at hread
      exact absurd (hwrite.symm.trans hread) (by decide)
    rw [State.reqsOf, State.cores_fillQueue]
    refine (State.reqsOf_dropReq_other _ hne).trans ?_
    rw [State.reqsOf, State.cores_issueEntry]
    exact ht

/-- A read that has issued has returned (R550). -/
theorem State.reqsOf_readIssued {s : State} {r c : Req} (hc : s.reqsOf r.rid = [c]) (hread : c.write = false) :
    (s.readIssued r).reqsOf r.rid = [{ c with returned := true }] := by
  refine State.reqsOf_writesOut _ ?_ hread
  rw [State.reqsOf, State.cores_fillQueue]
  refine State.reqsOf_reqMap (by intro _; rfl) (by intro _; rfl) ?_
  rw [State.reqsOf, State.cores_issueEntry]
  exact hc

/-! ## The return -/

/-- A read out of its queue: it waits for its landing where a client of it lands, else it is gone (R263, R340). -/
def State.readTaken (s : State) (r : Req) (lost : Bool) (n : Nat) : State :=
  if r.clients.any Client.lands then (s.readIssued r).reqMap r.rid (fun y => { y with lost := lost, retries := n })
  else (s.readIssued r).dropReq r.rid

/-- A read of channel `h` checked, out of its queue, and given to its clients. -/
def State.readGiven (s : State) (h : Nat) (r : Req) (crc ecc : Nat) : State :=
  let res := s.checkGranule h r.granule crc ecc false
  (res.1.readTaken r res.2 (min crc 3)).each r.clients (fun s c => s.giveClient h r.granule res.2 c)

theorem State.readGiven_of_check {s x : State} {h : Nat} {r : Req} {crc ecc : Nat} {lost : Bool}
    (hcheck : s.checkGranule h r.granule crc ecc false = (x, lost)) :
    s.readGiven h r crc ecc = (x.readTaken r lost (min crc 3)).each r.clients (fun s c => s.giveClient h r.granule lost c) := by
  rw [State.readGiven, hcheck]

theorem Follows.readTaken {b s : State} {r : Req} {lost : Bool} {n : Nat} (hb : Follows b s) : Follows b (s.readTaken r lost n) :=
  Follows.ite (fun _ => hb.readIssued.reqMap) (fun _ => hb.readIssued.dropReq)

theorem State.besideReads_dropReq (s : State) (rid : Nat) : (s.dropReq rid).besideReads = s.besideReads := rfl

theorem State.besideReads_readTaken (s : State) (r : Req) (lost : Bool) (n : Nat) : (s.readTaken r lost n).besideReads = s.besideReads := by
  unfold State.readTaken
  split
  · exact (State.besideReads_reqMap _ _ _).trans (s.besideReads_readIssued r)
  · exact (State.besideReads_dropReq _ _).trans (s.besideReads_readIssued r)

theorem State.graphics_readTaken (s : State) (r : Req) (lost : Bool) (n : Nat) : (s.readTaken r lost n).graphics = s.graphics := by
  simp [State.readTaken]

theorem State.graphics_readGiven (s : State) (h : Nat) (r : Req) (crc ecc : Nat) :
    (s.readGiven h r crc ecc).graphics = (s.checkGranule h r.granule crc ecc false).1.graphics :=
  (State.each_keeps (π := State.graphics) _ _ (fun t c => t.graphics_giveClient _ _ _ c)).trans (State.graphics_readTaken _ _ _ _)

section
variable {s u v : State} {rid t h : Nat} {r r' : Req} (hu : u = s.advance t)

include hu in
/-- A read that nothing asked for has no return (log entry 5). -/
theorem State.readReturn_unknown (crc ecc : Nat) (hnone : u.rr.reqs.find? (fun r => r.rid == rid && !r.returned && !r.far && !r.write) = none) :
    s.readReturn rid crc ecc t = u := by
  simp only [State.readReturn, ← hu, hnone]

variable (hone : u.rr.reqs.filter (fun r => r.rid == rid) = [r]) (hv : v = State.fillQueue h 32 u)
  (hr' : v.rr.reqs.find? (fun r => r.rid == rid) = some r')

include hone hv hr' in
/-- The grants before a return change the request in its place only. -/
theorem State.core_granted : v.reqsOf rid = [r.core] ∧ r'.core = r.core := by
  have hcore : v.reqsOf rid = [r.core] := by
    have hkept : v.reqsOf rid = u.reqsOf rid := congrArg _ (hv ▸ State.cores_fillQueue h 32 u)
    rw [hkept, State.reqsOf_eq, hone]
    rfl
  obtain ⟨y, hy, hyr⟩ := State.find?_of_reqsOf hcore
  exact ⟨hcore, Option.some.inj (hr'.symm.trans hy) ▸ hyr⟩

variable (hback : r.returned = false) (hfar : r.far = false) (hread : r.write = false) (hh : h = u.channelOf r.granule)
  (hw : (v.channel h).faulted = false)
include hu hone hv hr' hback hfar hread hh hw

theorem State.readReturn_known (crc ecc : Nat) :
    s.readReturn rid crc ecc t = if r'.arr.isNone || !v.mayIssue h r' then v else v.readGiven h r' crc ecc := by
  have hfound : u.rr.reqs.find? (fun r => r.rid == rid && !r.returned && !r.far && !r.write) = some r := by
    have hsplit : u.rr.reqs.find? (fun r => r.rid == rid && !r.returned && !r.far && !r.write) =
        (u.rr.reqs.filter (fun r => r.rid == rid)).find? (fun r => !r.returned && !r.far && !r.write) := by
      rw [List.find?_filter]
      exact congrArg (List.find? · u.rr.reqs) (funext fun x => Bool.eq_iff_iff.2 (by simp [and_assoc]))
    rw [hsplit, hone]
    simp [hback, hfar, hread]
  have hrid : r'.rid = rid := by simpa using List.find?_some hr'
  simp only [State.readReturn, ← hu, hfound, ← hh, ← hv, hr', hw, Bool.not_false, Bool.true_and]
  split
  · rfl
  · rw [← hrid]
    rfl

/-- An entry that may not issue yet has no return (R551). -/
theorem State.readReturn_waits (crc ecc : Nat) (hwait : r'.arr = none ∨ v.mayIssue h r' = false) : s.readReturn rid crc ecc t = v := by
  rw [State.readReturn_known hu hone hv hr' hback hfar hread hh hw]
  exact if_pos (by rcases hwait with hwait | hwait <;> simp [hwait])

/-- An entry that may issue is checked and given to its clients. -/
theorem State.readReturn_issues (crc ecc : Nat) (hqueued : r'.arr.isSome = true) (hissue : v.mayIssue h r' = true) :
    s.readReturn rid crc ecc t = v.readGiven h r' crc ecc := by
  rw [State.readReturn_known hu hone hv hr' hback hfar hread hh hw]
  exact if_neg (by simp [hissue, Option.isSome_iff_ne_none.1 hqueued])

end

/-! ## What each kind of client makes of a granule -/

theorem State.giveClient_tile (s : State) (h g tid i : Nat) : s.giveClient h g false (.tile tid i) = s.tileGranule g tid i false := rfl

theorem State.giveClient_slab (s : State) (h g k : Nat) : s.giveClient h g false (.slab k) = s.slabRead k := rfl

theorem State.giveClient_slab_lost (s : State) (h g k : Nat) :
    s.giveClient h g true (.slab k) = (s.logError 2 2 h 2 0).slabRollback k g := rfl

theorem State.giveClient_lands (s : State) (h g : Nat) (lost : Bool) {c : Client} (hc : c.lands = true) :
    s.giveClient h g lost c = s.when lost (fun s => s.logError 2 2 h 2 (s.candId c)) := by
  cases c with
  | key | record | spill | codaKey => rfl
  | tile | table | spillOut | point | slab | slabOut | scrub => cases hc

/-- Clients that wait for a landing are given a good granule when it lands. -/
theorem State.each_lands_good (s : State) (h g : Nat) {l : List Client} (hl : l.all Client.lands = true) :
    s.each l (fun s c => s.giveClient h g false c) = s :=
  List.foldlRecOn (motive := fun t => t = s) l _ rfl (fun t ht c hc => by
    rw [State.giveClient_lands t h g false (List.all_eq_true.1 hl c hc), ht, State.when_false])

/-- The loss of a granule is only reported for clients that wait for a landing (R560). -/
theorem State.each_lands_rr (s : State) (h g : Nat) (lost : Bool) {l : List Client} (hl : l.all Client.lands = true) :
    (s.each l (fun s c => s.giveClient h g lost c)).rr = s.rr :=
  List.foldlRecOn (motive := fun t : State => t.rr = s.rr) l _ rfl (fun t ht c hc => by
    have hlog : (t.when lost (fun s => s.logError 2 2 h 2 (s.candId c))).besidePosts = t.besidePosts :=
      State.when_keeps (π := State.besidePosts) t lost (fun t => t.besidePosts_logError _ _ _ _ _)
    rw [State.giveClient_lands t h g lost (List.all_eq_true.1 hl c hc), State.rr_of_besidePosts hlog, ht])

theorem any_lands_of_all {l : List Client} (hl : l.all Client.lands = true) (hne : l ≠ []) : l.any Client.lands = true := by
  cases l with
  | nil => exact absurd rfl hne
  | cons c l => simp_all

/-- A read that waits for its landing has returned, with its outcome and its repetitions. -/
theorem State.reqsOf_readTaken {s : State} {r c : Req} (lost : Bool) (n : Nat) (hland : r.clients.any Client.lands = true)
    (hc : s.reqsOf r.rid = [c]) (hread : c.write = false) :
    (s.readTaken r lost n).reqsOf r.rid = [{ c with returned := true, lost := lost, retries := n }] := by
  rw [State.readTaken, if_pos hland]
  exact State.reqsOf_reqMap (by intro _; rfl) (by intro _; rfl) (State.reqsOf_readIssued hc hread)

/-- The request found after a return that waits for its landing. -/
theorem State.returned_of_reqsOf {s : State} {rid n : Nat} {lost : Bool} {c : Req}
    (h : s.reqsOf rid = [{ c with returned := true, lost := lost, retries := n }]) :
    ∃ y, s.rr.reqs.find? (fun y => y.rid == rid) = some y ∧ y.returned = true ∧ y.lost = lost ∧ y.retries = n := by
  obtain ⟨y, hy, hcore⟩ := State.find?_of_reqsOf h
  exact ⟨y, hy, congrArg Req.returned hcore, congrArg Req.lost hcore, congrArg Req.retries hcore⟩

/-! ## Tiles -/

/-- A granule of a tile that has come is awaited by no engine (R338). -/
theorem State.tileGranule_waiting (s : State) (g tid i : Nat) :
    ∀ e ∈ (s.tileGranule g tid i false).sweep.engines, ∀ x ∈ e.slots, x.tid = tid → i ∉ x.waiting := by
  unfold State.tileGranule
  split
  case h_1 hnone =>
    intro e he x hx htid
    have hother := List.find?_eq_none.1 hnone x (List.mem_flatMap.2 ⟨e, he, hx⟩)
    exact absurd (beq_iff_eq.2 htid) hother
  case h_2 =>
    intro e he x hx htid
    obtain ⟨e₀, -, rfl⟩ := List.mem_map.1 he
    obtain ⟨y, -, rfl⟩ := List.mem_map.1 hx
    by_cases hy : (y.tid == tid) = true
    · rw [if_pos hy]
      exact fun hmem => absurd (List.mem_filter.1 hmem).2 (by simp)
    · rw [if_neg hy] at htid
      exact absurd (beq_iff_eq.2 htid) hy

theorem State.tileGranule_rr (s : State) (g tid i : Nat) : (s.tileGranule g tid i false).rr = s.rr := by
  unfold State.tileGranule
  split <;> rfl

/-! ## Slab operations -/

theorem State.journal?_of_store {s t : State} (h : t.store = s.store) (k : Nat) : t.journal? k = s.journal? k := by
  rw [State.journal?, State.journal?, h]

theorem State.journal?_slot {s : State} {k : Nat} {j : Journal} (h : s.journal? k = some j) : j.slot = k := by
  simpa using List.find?_some h

/-- The operation awaits one read fewer. -/
theorem State.journal?_slabRead {s : State} {k : Nat} {j : Journal} (h : s.journal? k = some j) :
    (s.slabRead k).journal? k = some { j with reads := j.reads - 1 } :=
  (find?_updFirst _ (fun (j : Journal) => { j with reads := j.reads - 1 }) _ (by intro _ hx; exact hx)).trans (congrArg (Option.map _) h)

section
variable {s : State} (hs : s.sound = true) {k : Nat} (g : Nat) {j : Journal} (hj : s.journal? k = some j)
include hj

/-- An operation that must read an uncorrectable granule is undone, and its slot is free (R887). -/
theorem State.journal?_slabRollback : (s.slabRollback k g).journal? k = none := by
  have hmarked (u : State) (i : Nat) (f : Shelf → Shelf) : ((u.shelfMap i f).ev stgEventOpLost).journal? k = u.journal? k := rfl
  have hclosed (u : State) : (u.closeJournal k).journal? k = none := u.journal?_closed k 0 []
  simp only [State.slabRollback, hj]
  rw [hmarked, State.undoSlab, State.journal?_slot hj]
  exact hclosed _

include hs in
theorem State.rd_slabRollback_event : (s.slabRollback k g).rd stgEventOpLost = 1 := by
  simp only [State.slabRollback, hj]
  exact State.rd_wr_same _ _ _ _ (State.regs_sorted ((Follows.refl s).undoSlab.shelfMap.sound hs))

end

/-! ## The outcomes of a read that issued -/

section
variable {v : State} {h rid : Nat} {r : Req}

/-- What a read out of its queue leaves of the store, the host side and what was sent. -/
theorem State.readTaken_keeps (s : State) (r : Req) (lost : Bool) (n : Nat) :
    (s.readTaken r lost n).store = s.store ∧ (s.readTaken r lost n).host = s.host ∧ (s.readTaken r lost n).out = s.out :=
  have hreads := s.besideReads_readTaken r lost n
  ⟨State.store_of_besideReads hreads, State.host_of_besideReads hreads, State.out_of_besideReads hreads⟩

variable (hw : (v.channel h).faulted = false)
include hw

section
variable {crc ecc : Nat} (hcrc : crc < 4) (hecc : ecc ≤ 1) (hclean : (v.channel h).bad.contains r.granule = false)
include hcrc hecc hclean

theorem State.readGiven_good : v.readGiven h r crc ecc =
    ((v.goodRead h crc ecc).readTaken r false crc).each r.clients (fun s c => s.giveClient h r.granule false c) := by
  rw [State.readGiven_of_check (State.checkGranule_good hw hcrc hecc (.inr hclean)), Nat.min_eq_left (Nat.le_of_lt_succ hcrc)]

/-- A corrected granule is counted (R559). -/
theorem State.readGiven_corrected (hs : v.sound = true) (hh : h < 24) (hone : ecc = 1) :
    (v.readGiven h r crc ecc).rd gdmCeCount h = min (v.rd gdmCeCount h + 1) (2 ^ 32 - 1) ∧ (v.readGiven h r crc ecc).rd gdmEventCe = 1 := by
  have hgraphics := v.graphics_readGiven h r crc ecc
  rw [State.checkGranule_good hw hcrc hecc (.inr hclean), hone] at hgraphics
  rw [hone, State.rd_of_graphics hgraphics _ _ (by rw [regKey_gdmCeCount]; omega) (by rw [regKey_gdmCeCount]; omega),
    State.rd_of_graphics hgraphics _ _ (by decide) (by decide)]
  exact ⟨State.rd_goodRead_count hs h crc, State.rd_goodRead_event hs h crc⟩

/-- A good granule of the re-rank is noted with its repetitions (R263, R558). -/
theorem State.readGiven_landing {c : Req} (hall : r.clients.all Client.lands = true) (hne : r.clients ≠ []) (hc : v.reqsOf r.rid = [c])
    (hread : c.write = false) :
    (v.readGiven h r crc ecc).store = v.store ∧ (v.readGiven h r crc ecc).host = v.host ∧ (v.readGiven h r crc ecc).out = v.out ∧
      (v.readGiven h r crc ecc).reqsOf r.rid = [{ c with returned := true, lost := false, retries := crc }] := by
  obtain ⟨regs, hregs⟩ := v.goodRead_eq h crc ecc
  obtain ⟨hstore, hhost, hout⟩ := (v.goodRead h crc ecc).readTaken_keeps r false crc
  have hkept : (v.goodRead h crc ecc).reqsOf r.rid = [c] := by rw [hregs]; exact hc
  rw [State.readGiven_good hw hcrc hecc hclean, State.each_lands_good _ _ _ hall, hstore, hhost, hout, hregs]
  exact ⟨rfl, rfl, rfl, hregs ▸ State.reqsOf_readTaken false crc (any_lands_of_all hall hne) hkept hread⟩

/-- A good granule of a tile is no longer awaited (R338). -/
theorem State.readGiven_tile {tid i : Nat} (hclients : r.clients = [.tile tid i]) :
    (v.readGiven h r crc ecc).rr.reqs.find? (fun y => y.rid == r.rid) = none ∧
      ∀ e ∈ (v.readGiven h r crc ecc).sweep.engines, ∀ x ∈ e.slots, x.tid = tid → i ∉ x.waiting := by
  have hgiven : v.readGiven h r crc ecc = (((v.goodRead h crc ecc).readIssued r).dropReq r.rid).tileGranule r.granule tid i false := by
    rw [State.readGiven_good hw hcrc hecc hclean, State.readTaken, hclients, if_neg (by simp [Client.lands]), State.each_cons, State.each_nil,
      State.giveClient_tile]
  rw [hgiven]
  exact ⟨by rw [State.tileGranule_rr, State.find?_dropReq], State.tileGranule_waiting _ _ _ _⟩

/-- A good granule of a slab operation is one it awaits no more (R482). -/
theorem State.readGiven_slab {k : Nat} {j : Journal} (hclients : r.clients = [.slab k]) (hj : v.journal? k = some j) :
    (v.readGiven h r crc ecc).journal? k = some { j with reads := j.reads - 1 } := by
  obtain ⟨regs, hregs⟩ := v.goodRead_eq h crc ecc
  obtain ⟨hstore, -, -⟩ := (v.goodRead h crc ecc).readTaken_keeps r false crc
  rw [State.readGiven_good hw hcrc hecc hclean, hclients, State.each_cons, State.each_nil, State.giveClient_slab]
  refine State.journal?_slabRead ((State.journal?_of_store hstore k).trans ?_)
  rw [hregs]
  exact hj

end

section
variable (hs : v.sound = true) {ecc : Nat}

section
include hs

/-- A transfer that failed every repetition faults the channel (R562, R563). -/
theorem State.readGiven_failed (hh : h < 24) :
    ((v.readGiven h r 4 ecc).channel h).faulted = true ∧ (v.readGiven h r 4 ecc).rd gdmEventFault = 1 := by
  have hgraphics := v.graphics_readGiven h r 4 ecc
  have hsound := (Follows.refl v).crcRetry (h := h) (n := 3) |>.sound hs
  have hworks : ((v.crcRetry h 3).channel h).faulted = false := by rwa [State.crcRetry_channel]
  rw [State.checkGranule_failed hw] at hgraphics
  rw [State.faulted_of_graphics hgraphics, State.rd_of_graphics hgraphics _ _ (by decide) (by decide)]
  exact ⟨State.channel_channelFault hsound _ _ hworks hh, State.rd_channelFault_event hsound _ _ hworks⟩

end

/-- A read that failed every repetition is lost to the re-rank (R560). -/
theorem State.readGiven_failed_landing {c : Req} (hall : r.clients.all Client.lands = true) (hne : r.clients ≠ []) (hc : v.reqsOf r.rid = [c])
    (hread : c.write = false) : (v.readGiven h r 4 ecc).reqsOf r.rid = [{ c with returned := true, lost := true, retries := 3 }] := by
  have hkept : ((v.crcRetry h 3).channelFault h 8 r.granule).reqsOf r.rid = [c] :=
    (State.reqsOf_of_rr ((State.channelFault_rr _ _ _ _).trans (State.rr_of_besidePosts (v.crcRetry_besidePosts h 3))) _).trans hc
  rw [State.readGiven_of_check (State.checkGranule_failed hw), Nat.min_eq_right (by decide : 3 ≤ 4)]
  rw [State.reqsOf_of_rr (State.each_lands_rr _ _ _ _ hall)]
  exact State.reqsOf_readTaken true 3 (any_lands_of_all hall hne) hkept hread

include hs in
/-- An uncorrectable granule undoes the slab operation that reads it (R887). -/
theorem State.readGiven_uncorrectable {crc k : Nat} {j : Journal} (hcrc : crc < 4) (hclients : r.clients = [.slab k]) (hj : v.journal? k = some j) :
    (v.readGiven h r crc 2).journal? k = none ∧ (v.readGiven h r crc 2).rd gdmEventUe = 1 ∧ (v.readGiven h r crc 2).rd stgEventOpLost = 1 := by
  have hgraphics := v.graphics_readGiven h r crc 2
  have hretry := (Follows.refl v).crcRetry (h := h) (n := min crc 3)
  let checked := (v.crcRetry h (min crc 3)).uncorrectable h r.granule false
  let logged := (checked.readTaken r true (min crc 3)).logError 2 2 h 2 0
  have hsound : logged.sound = true := (hretry.uncorrectable.readTaken.logError).sound hs
  have hgiven : v.readGiven h r crc 2 = logged.slabRollback k r.granule := by
    rw [State.readGiven_of_check (State.checkGranule_uncorrectable hw hcrc), hclients, State.each_cons, State.each_nil, State.giveClient_slab_lost]
  have hopen : logged.journal? k = some j := by
    obtain ⟨hstore, -, -⟩ := checked.readTaken_keeps r true (min crc 3)
    refine (State.journal?_of_store ?_ k).trans hj
    exact (State.store_of_besidePosts (State.besidePosts_logError _ _ _ _ _ _)).trans (hstore.trans
      ((State.uncorrectable_store _ _ _ _).trans (State.store_of_besidePosts (v.crcRetry_besidePosts _ _))))
  rw [State.checkGranule_uncorrectable hw hcrc] at hgraphics
  refine ⟨?_, ?_, ?_⟩
  · rw [hgiven]
    exact State.journal?_slabRollback _ hopen
  · rw [State.rd_of_graphics hgraphics _ _ (by decide) (by decide)]
    exact State.rd_uncorrectable_event (hretry.sound hs) _ _ _
  · rw [hgiven]
    exact State.rd_slabRollback_event hsound _ hopen

end

end

/-! ## The system area -/

section
variable {s u : State} {j t : Nat} (hu : u = s.advance t) (hw : (u.channel (systemCopies u.active j).1.1).faulted = false)
include hu hw

theorem State.systemReturn_good : s.systemReturn j 0 0 t = u := by
  simp only [State.systemReturn, ← hu]
  rw [State.checkGranule_good hw (by decide) (by decide) (.inl rfl)]
  rfl

/-- An uncorrectable granule of the system area is reported (R560); the store is as it was. -/
theorem State.systemReturn_uncorrectable (hs : s.sound = true) :
    (s.systemReturn j 0 2 t).rd gdmEventUe = 1 ∧ (s.systemReturn j 0 2 t).store = u.store := by
  have hsound : u.sound = true := hu ▸ (Follows.refl s).advance.sound hs
  simp only [State.systemReturn, ← hu]
  rw [State.checkGranule_uncorrectable hw (by decide), State.when_true, State.rd_of_graphics (State.graphics_logError _ _ _ _ _ _) _ _ (by decide)
    (by decide), State.store_of_besidePosts (State.besidePosts_logError _ _ _ _ _ _), State.uncorrectable_store]
  exact ⟨State.rd_uncorrectable_event hsound _ _ _, rfl⟩

end

/-! ## The command -/

theorem exec_gddrReadReturn (rid : Nat) (crc : Fin 5) (ecc : Fin 3) (t : Nat) (s : State) :
    exec (.gddrReadReturn false rid crc ecc t) s = .next (s.readReturn rid crc.val ecc.val t).retryCommits.weavePrepares.weaveRun := rfl

theorem exec_gddrReadReturn_system (j : Nat) (crc : Fin 5) (ecc : Fin 3) (t : Nat) (s : State) :
    exec (.gddrReadReturn true j crc ecc t) s = .next (s.systemReturn j crc.val ecc.val t) := rfl

end Sys2Proof.Machine
end

section
/-!
PROOFS. GDDR_READ_RETURN: of a read that waits, that is good, that failed, and that nothing asked for, and of the system area.
-/
namespace Sys2Proof.Claims
open Sys2Proof Sys2Proof.Machine

theorem answers_gddrReadReturn {s w : State} {rid t : Nat} {crc : Fin 5} {ecc : Fin 3} (h : s.readReturn rid crc.val ecc.val t = w) :
    Answers (.gddrReadReturn false rid crc ecc t) s w.retryCommits.weavePrepares.weaveRun := by
  rw [Answers, exec_gddrReadReturn, h]

section
variable {v : State} {h rid : Nat} {r r' : Req} (hs : v.sound = true) (hh : h < 24) (hw : (v.channel h).faulted = false)
  (hreqs : v.reqsOf rid = [r.core]) (hrid : r'.rid = rid) (hread : r.write = false)
include hs hh hw hreqs hrid hread

/-- What a good read makes of its counts and of each kind of client (R559). -/
theorem readGiven_good_outcome {crc ecc : Nat} (hcore : r'.core = r.core) (hcrc : crc < 4)
    (hecc : ecc ≤ 1) (hclean : (v.channel h).bad.contains r.granule = false) :
    let w := v.readGiven h r' crc ecc
    (ecc = 1 → w.rd gdmCeCount h = min (v.rd gdmCeCount h + 1) (2 ^ 32 - 1) ∧ w.rd gdmEventCe = 1) ∧
    (r'.clients.all Client.lands = true → r'.clients ≠ [] → w.store = v.store ∧ w.host = v.host ∧ w.out = v.out ∧
      ∃ y, w.rr.reqs.find? (fun y => y.rid == rid) = some y ∧ y.returned = true ∧ y.lost = false ∧ y.retries = crc) ∧
    (∀ tid i, r'.clients = [.tile tid i] → w.rr.reqs.find? (fun y => y.rid == rid) = none ∧
      ∀ e ∈ w.sweep.engines, ∀ x ∈ e.slots, x.tid = tid → i ∉ x.waiting) ∧
    (∀ k j, r'.clients = [.slab k] → v.journal? k = some j → w.journal? k = some { j with reads := j.reads - 1 }) := by
  have hgranule : r'.granule = r.granule := (congrArg Req.granule hcore :)
  rw [← hgranule] at hclean
  subst hrid
  refine ⟨State.readGiven_corrected hw hcrc hecc hclean hs hh, fun hall hne => ?_, fun tid i => State.readGiven_tile hw hcrc hecc hclean,
    fun k j => State.readGiven_slab hw hcrc hecc hclean⟩
  obtain ⟨hstore, hhost, hout, hback⟩ := State.readGiven_landing hw hcrc hecc hclean hall hne hreqs hread
  exact ⟨hstore, hhost, hout, State.returned_of_reqsOf hback⟩

/-- What a transfer that failed makes of its channel, and of a read of the re-rank (R562, R563). -/
theorem readGiven_failed_outcome {crc ecc : Nat} (hcrc : crc = 4) :
    let w := v.readGiven h r' crc ecc
    (w.channel h).faulted = true ∧ w.rd gdmEventFault = 1 ∧
      (r'.clients.all Client.lands = true → r'.clients ≠ [] →
        ∃ y, w.rr.reqs.find? (fun y => y.rid == rid) = some y ∧ y.returned = true ∧ y.lost = true ∧ y.retries = 3) := by
  subst hcrc hrid
  obtain ⟨hfault, hevent⟩ := State.readGiven_failed (r := r') (ecc := ecc) hw hs hh
  exact ⟨hfault, hevent, fun hall hne => State.returned_of_reqsOf (State.readGiven_failed_landing hw hall hne hreqs hread)⟩

end

/-- Settles O55: a return is that of a read that waits, of one that issues, with its three outcomes, or of none. -/
theorem granuleReadsAreChecked : Obligations.GranuleReadsAreChecked := by
  intro rid t s hs u
  refine ⟨?_, fun ecc crc hnone => ?_, fun hw => ⟨?_, ?_⟩⟩
  · intro r r' crc ecc hone hback hfar hread h v hh hr' hw
    have hsound : v.sound = true := (Follows.refl s).advance.fillQueue.sound hs
    have hrid : r'.rid = rid := by simpa using List.find?_some hr'
    obtain ⟨hreqs, hcore⟩ := State.core_granted hone rfl hr'
    refine ⟨fun hwait => answers_gddrReadReturn (State.readReturn_waits rfl hone rfl hr' hback hfar hread rfl hw _ _ hwait),
      fun hqueued hissue => ?_⟩
    have hanswers : Answers (.gddrReadReturn false rid crc ecc t) s (v.readGiven h r' crc.val ecc.val).retryCommits.weavePrepares.weaveRun :=
      answers_gddrReadReturn (State.readReturn_issues rfl hone rfl hr' hback hfar hread rfl hw _ _ hqueued hissue)
    refine ⟨fun hcrc hecc hclean => ⟨_, hanswers, readGiven_good_outcome hsound hh hw hreqs hrid hread hcore hcrc hecc hclean⟩,
      fun hcrc => ⟨_, hanswers, readGiven_failed_outcome hsound hh hw hreqs hrid hread hcrc⟩,
      fun k j hcrc hecc hclients hj => ⟨_, hanswers, ?_⟩⟩
    rw [hecc]
    exact State.readGiven_uncorrectable hw hsound hcrc hclients hj
  · exact answers_gddrReadReturn (State.readReturn_unknown rfl _ _ hnone)
  · exact (exec_gddrReadReturn_system rid 0 0 t s).trans (congrArg _ (State.systemReturn_good rfl hw))
  · exact ⟨_, exec_gddrReadReturn_system rid 0 2 t s, State.systemReturn_uncorrectable rfl hw hs⟩

end Sys2Proof.Claims
end

section
/-!
LAWS. Refresh, scrub and retraining (R561, R564 to R568): when each does nothing, and the state each leaves where it runs.
-/
namespace Sys2Proof.Machine

/-! ## Refresh -/

theorem State.perBankRefresh_issued (s : State) (h bank : Nat) : s.perBankRefresh h bank false = s := rfl

/-- A bank whose refresh has been postponed eight times is refreshed (R564). -/
theorem State.perBankRefresh_full {s : State} {h bank : Nat} (hfull : (s.channel h).postponed.getD bank 0 = 8) :
    s.perBankRefresh h bank true = s := by
  simp only [State.perBankRefresh, hfull]
  exact if_neg (by simp)

/-- The bank of channel `h` has queued requests. -/
def State.bankBusy (s : State) (h bank : Nat) : Bool :=
  s.rr.reqs.any (fun r => !r.returned && !r.far && !r.staging && s.channelOf r.granule == h &&
    (granuleSlot (hashGranule s.active r.granule).2).1 == bank)

/-- The refresh of a busy bank is postponed once more (R564). -/
theorem State.perBankRefresh_postponed {s : State} {h bank : Nat} (hbusy : s.bankBusy h bank = true)
    (hcount : (s.channel h).postponed.getD bank 0 < 8) (htrained : (s.channel h).trained = true) (hw : (s.channel h).faulted = false) :
    s.perBankRefresh h bank true = s.channelMap h (fun c =>
      { c with postponed := updAt bank (fun n => n + 1) (if c.postponed = [] then List.replicate 16 0 else c.postponed) }) :=
  if_pos (by rw [State.bankBusy] at hbusy; rw [htrained, hw, decide_eq_true hcount, hbusy]; rfl)

theorem State.allBankRefresh_open {s : State} {t : Nat} (h : Nat) (hopen : (s.advance t).clk.bgOpen = true) :
    s.allBankRefresh h t = (s.advance t).channelMap h (fun c => { c with postponed := [] }) := if_pos hopen

theorem State.allBankRefresh_closed {s : State} {t : Nat} (h : Nat) (hclosed : (s.advance t).clk.bgOpen = false) :
    s.allBankRefresh h t = s.advance t := if_neg (by simp [hclosed])

/-! ## Scrub -/

/-- The device granule that local granule `l` of channel `h` holds (R547). -/
def State.scrubAt (s : State) (h l : Nat) : Nat := swizzle (l * s.active.length + s.active.idxOf h)

/-- A slab operation owns the granule, so that scrub leaves it out (R561). -/
def State.scrubOwned (s : State) (h l : Nat) : Bool :=
  match s.slabOf (s.scrubAt h l) with | some p => !decide (hashedPerChannel ≤ l) && s.owned p.1 p.2 | none => false

/-- The granule checked: in the system area, that of which it is a copy (R545). -/
def State.scrubGranule (s : State) (h l : Nat) : Nat :=
  if decide (hashedPerChannel ≤ l) then systemGranule s.active.length (s.active.idxOf h) l else s.scrubAt h l

/-- A round whose channels are all done begins again (R561). -/
def State.nextRound (s : State) : State :=
  s.when (s.active.all (fun k => decide (scrubTotal ≤ (s.channel k).scrubbed))) (fun s =>
    s.memMap (fun m => { m with scrubStart := s.clk.now, channels := m.channels.map (fun c => { c with scrubbed := 0 }) }))

/-- A granule counted for its round, after it was written back where `back`. -/
def State.scrubCounted (s : State) (h g : Nat) (back : Bool) : State :=
  ((s.when back (fun s => s.writeBack h g)).channelMap h (fun c => { c with scrubbed := c.scrubbed + 1 })).scrubLate

theorem State.scrub_eq (s : State) (h l crc ecc t : Nat) :
    let u := s.advance t
    let res := u.checkGranule h (u.scrubGranule h l) crc ecc (decide (hashedPerChannel ≤ l))
    s.scrub h l crc ecc t =
      if !u.clk.bgOpen || !u.active.contains h || (u.channel h).faulted || u.inStep h || u.scrubOwned h l then u
      else (res.1.scrubCounted h (u.scrubAt h l)
        (!res.2 && ecc == 1 && !decide (hashedPerChannel ≤ l) && u.inStoreArea (u.scrubAt h l))).nextRound :=
  rfl

/-- Scrub reads nothing outside the background window and nothing of a channel in a retraining step (R561, R567). -/
theorem State.scrub_held {s : State} {t : Nat} (h l crc ecc : Nat) (hheld : (s.advance t).clk.bgOpen = false ∨ (s.advance t).inStep h = true) :
    s.scrub h l crc ecc t = s.advance t := by
  rw [State.scrub_eq]
  exact if_pos (by rcases hheld with hheld | hheld <;> simp [hheld])

/-- A granule scrubbed that reads well; `back` where it is written back (R561). -/
def State.scrubRead (s : State) (h crc ecc g : Nat) (back : Bool) : State :=
  (s.goodRead h crc ecc).scrubCounted h g back

section
variable (s : State) (h crc ecc g : Nat) (back : Bool)

/-- A granule scrubbed counts for its round; beside that, requests, reorder queues and registers change. -/
theorem State.scrubRead_keeps {α : Type} {π : State → α} (hregs : ∀ (t : State) r, π { t with regs := r } = π t)
    (hback : ∀ t : State, π (t.writeBack h g) = π t)
    (hcount : ∀ t : State, π (t.channelMap h (fun c => { c with scrubbed := c.scrubbed + 1 })) = π t) :
    π (s.scrubRead h crc ecc g back) = π s := by
  obtain ⟨r, hr⟩ := s.goodRead_eq h crc ecc
  have hlate : ∀ t : State, π t.scrubLate = π t := fun t => State.when_keeps (π := π) t _ (fun t => hregs t _)
  rw [State.scrubRead, State.scrubCounted, hlate, hcount, State.when_keeps (π := π) _ back hback, hr, hregs]

theorem State.scrubRead_store : (s.scrubRead h crc ecc g back).store = s.store :=
  State.scrubRead_keeps (π := State.store) s h crc ecc g back (fun _ _ => rfl) (fun t => State.store_of_besideReads (t.besideReads_writeBack h g))
    (fun _ => rfl)

theorem State.scrubRead_out : (s.scrubRead h crc ecc g back).out = s.out :=
  State.scrubRead_keeps (π := State.out) s h crc ecc g back (fun _ _ => rfl) (fun t => State.out_of_besideReads (t.besideReads_writeBack h g))
    (fun _ => rfl)

/-- Beside the round's event, the registers are those of the read. -/
theorem State.rd_scrubRead {f : Fld} {i : Nat} (hlo : 2 ^ 21 ≤ regKey f 0 i) (hhi : regKey f 0 i < 2 ^ 21 + 2 ^ 18)
    (hother : regKey f 0 i ≠ regKey gdmEventScrubBehind 0 0) : (s.scrubRead h crc ecc g back).rd f i = (s.goodRead h crc ecc).rd f i := by
  have hlate : ∀ t : State, t.scrubLate.rd f i = t.rd f i := fun t =>
    State.when_keeps (π := fun t => t.rd f i) t _ (fun t => t.rd_wr_other _ _ _ _ _ hother)
  have hback : ((s.goodRead h crc ecc).when back (fun s => s.writeBack h g)).graphics = (s.goodRead h crc ecc).graphics :=
    State.when_keeps (π := State.graphics) _ back (fun t => t.graphics_writeBack h g)
  exact (hlate _).trans (State.rd_of_graphics hback f i hlo hhi)

theorem State.scrubRead_active : (s.scrubRead h crc ecc g back).active = s.active := by
  rw [State.active, s.rd_scrubRead h crc ecc g back (by decide) (by decide) (by decide), s.rd_goodRead_other h crc ecc (by decide), State.active]

variable {s h}

theorem State.channel_scrubRead (hs : s.sound = true) (hh : h < 24) :
    ((s.scrubRead h crc ecc g back).channel h).scrubbed = (s.channel h).scrubbed + 1 := by
  obtain ⟨r, hr⟩ := s.goodRead_eq h crc ecc
  have hlate : ∀ t : State, (t.scrubLate.channel h).scrubbed = (t.channel h).scrubbed := fun t =>
    State.when_keeps (π := fun t => (t.channel h).scrubbed) t _ (fun _ => rfl)
  have hback : (((s.goodRead h crc ecc).when back (fun s => s.writeBack h g)).channel h).scrubbed = (s.channel h).scrubbed := by
    refine (congrArg Channel.scrubbed (State.channel_of_graphics (s := s.goodRead h crc ecc) ?_ h) :).trans ?_
    · exact State.when_keeps (π := State.graphics) _ back (fun t => t.graphics_writeBack h g)
    · exact hr ▸ rfl
  have hsound := ((Follows.refl s).goodRead (h := h) (crc := crc) (ecc := ecc)).when (c := back) (fun _ ht => ht.writeBack (h := h) (g := g))
    |>.sound hs
  rw [State.scrubRead, State.scrubCounted, hlate, State.channel_channelMap_same hsound hh, hback]

end

section
variable {s u : State} (hs : s.sound = true) {h l crc ecc t : Nat} (hu : u = s.advance t) (hh : h < 24)
include hs hu hh

/-- Scrub reads one granule that no slab operation owns, in a round that it does not end (R561). -/
theorem State.scrub_reads
    (hfree : hashedPerChannel ≤ l ∨ u.slabOf (u.scrubAt h l) = none ∧ (u.channel h).bad.contains (u.scrubAt h l) = false)
    (hcrc : crc < 4) (hecc : ecc ≤ 1) (hopen : u.clk.bgOpen = true) (hactive : u.active.contains h = true)
    (hw : (u.channel h).faulted = false) (hstep : u.inStep h = false) (hround : (u.channel h).scrubbed + 1 < scrubTotal) :
    ∃ g back, s.scrub h l crc ecc t = u.scrubRead h crc ecc g back := by
  have hsound : u.sound = true := hu ▸ (Follows.refl s).advance.sound hs
  have hunheld : u.scrubOwned h l = false := by
    unfold State.scrubOwned
    rcases hfree with hsystem | ⟨hnone, -⟩
    · split <;> simp [hsystem]
    · rw [hnone]
  have hgood : u.checkGranule h (u.scrubGranule h l) crc ecc (decide (hashedPerChannel ≤ l)) = (u.goodRead h crc ecc, false) := by
    refine State.checkGranule_good hw hcrc hecc ?_
    by_cases hsystem : hashedPerChannel ≤ l
    · exact .inl (decide_eq_true hsystem)
    · rw [State.scrubGranule, if_neg (by simpa using hsystem)]
      exact .inr (hfree.resolve_left hsystem).2
  have hunended (g : Nat) (back : Bool) : (u.scrubRead h crc ecc g back).nextRound = u.scrubRead h crc ecc g back := by
    refine if_neg (fun hall => ?_)
    rw [State.scrubRead_active, List.all_eq_true] at hall
    have hdone := hall h (by simpa using hactive)
    rw [State.channel_scrubRead _ _ _ _ hsound hh, decide_eq_true_iff] at hdone
    omega
  refine ⟨u.scrubAt h l, ecc == 1 && !decide (hashedPerChannel ≤ l) && u.inStoreArea (u.scrubAt h l), ?_⟩
  rw [State.scrub_eq, ← hu, hunheld, hopen, hactive, hw, hstep, if_neg (by decide), hgood]
  exact hunended _ _

end

/-! ## Retraining -/

/-- A retraining step waits outside the window, while its clock group runs another, and where none is due (R567). -/
theorem State.retrainStep_held {s : State} {t : Nat} (h : Nat) (ok : Bool)
    (hheld : (s.advance t).clk.bgOpen = false ∨ (s.advance t).groupFree h = false ∨ (s.advance t).retrainDue h = false) :
    s.retrainStep h ok t = s.advance t := by
  unfold State.retrainStep
  exact if_pos (by rcases hheld with hheld | hheld | hheld <;> simp [hheld])

theorem retrainNs_le (k : Nat) : retrainNs k ≤ 6000 := by
  unfold retrainNs
  match k - 1 with
  | 0 | 1 | 2 | 3 => decide
  | n + 4 => exact Nat.le_refl 6000

/-- A step of channel `h`'s retraining may run now: it is due, the window is long enough for every step, and nothing else runs (R567, R568). -/
def State.stepReady (s : State) (h : Nat) : Prop :=
  s.groupFree h = true ∧ s.clk.bgOpen = true ∧ (s.channel h).trained = true ∧ (s.channel h).faulted = false ∧ s.reorder h = [] ∧
    s.retrainDue h = true ∧ ((s.channel h).stepFails = 0 ∨ (s.channel h).failAt ≠ s.measure) ∧ s.clk.now + ns 8000 ≤ s.clk.predicted

/-- The channel while its next step runs until `ends`. -/
def Channel.inStepUntil (ends : Nat) (c : Channel) : Channel := { c with stepEnd := ends }

/-- The instant at which step `k` ends, if it begins now. -/
def State.stepEnds (s : State) (k : Nat) : Nat := s.clk.now + (Config.measured s.free).toNat % (ns (retrainNs k) + 1)

theorem State.stepEnds_bounds (s : State) (k : Nat) : s.clk.now ≤ s.stepEnds k ∧ s.stepEnds k ≤ s.clk.now + ns (retrainNs k) :=
  ⟨Nat.le_add_right _ _, Nat.add_le_add_left (Nat.le_of_lt_succ (Nat.mod_lt _ (Nat.succ_pos _))) _⟩

section
variable {s u : State} {h t : Nat} (hu : u = s.advance t) (hready : u.stepReady h)
include hu hready

/-- A step that may run does, and ends well, fails, or fails again (R568). -/
theorem State.retrainStep_runs (ok : Bool) :
    s.retrainStep h ok t =
      if ok then (u.beginStep h ((u.channel h).step + 1)).channelMap h (fun c =>
        if (u.channel h).step + 1 = 4 then { c with step := 0, stepFails := 0, retrainAt := u.clk.now, retrainTemp := c.temp }
        else { c with step := (u.channel h).step + 1, stepFails := 0 })
      else if (u.channel h).stepFails = 0 then
        (u.beginStep h ((u.channel h).step + 1)).channelMap h (fun c => { c with stepFails := 1, failAt := u.measure })
      else (u.beginStep h ((u.channel h).step + 1)).channelFault h 10 ((u.channel h).step + 1) := by
  obtain ⟨hgroup, hopen, htrained, hw, hempty, hdue, hfails, hfits⟩ := hready
  have hlong : ¬(u.clk.predicted < u.clk.now + ns (retrainNs ((u.channel h).step + 1) + 2000)) := by
    have hmost := retrainNs_le ((u.channel h).step + 1)
    unfold ns at *
    omega
  have hagain : (decide (0 < (u.channel h).stepFails) && (u.channel h).failAt == u.measure) = false := by
    rcases hfails with hfails | hfails <;> simp [hfails]
  simp only [State.retrainStep, ← hu]
  rw [if_neg (by simp [hgroup, hopen, htrained, hw, hempty, hdue, hagain, hlong])]
  rfl

end

section
variable {s : State} (hs : s.sound = true) {h : Nat} (hh : h < 24)
include hs hh

theorem State.channel_beginStep (k : Nat) : (s.beginStep h k).channel h = (s.channel h).inStepUntil (s.stepEnds k) :=
  State.channel_channelMap_same hs hh (Channel.inStepUntil (s.stepEnds k))

theorem State.channel_beginStep_map (k : Nat) (f : Channel → Channel) :
    ((s.beginStep h k).channelMap h f).channel h = f ((s.channel h).inStepUntil (s.stepEnds k)) := by
  rw [State.channel_channelMap_same ((Follows.refl s).beginStep.sound hs) hh, State.channel_beginStep hs hh]

end

/-! ## The commands -/

theorem exec_perBankRefresh (ch : Fin 24) (bank : Fin 16) (postpone : Bool) (s : State) :
    exec (.perBankRefresh ch bank postpone) s = .next (s.perBankRefresh ch.val bank.val postpone) := rfl

theorem exec_allBankRefresh (ch : Fin 24) (t : Nat) (s : State) : exec (.allBankRefresh ch t) s = .next (s.allBankRefresh ch.val t) := rfl

theorem exec_scrub (ch : Fin 24) (g : Nat) (crc : Fin 5) (ecc : Fin 3) (t : Nat) (s : State) :
    exec (.scrub ch g crc ecc t) s = .next (s.scrub ch.val g crc.val ecc.val t) := rfl

theorem exec_retrainStep (ch : Fin 24) (ok : Bool) (t : Nat) (s : State) : exec (.retrainStep ch ok t) s = .next (s.retrainStep ch.val ok t) := rfl

end Sys2Proof.Machine
end

section
/-!
PROOFS. PER_BANK_REFRESH, ALL_BANK_REFRESH, SCRUB and RETRAIN_STEP.
-/
namespace Sys2Proof.Claims
open Sys2Proof Sys2Proof.Machine

/-- A refresh postponed is counted for its bank. -/
theorem answers_postponed {s : State} (hs : s.sound = true) {ch : Fin 24} {bank : Fin 16} (hbusy : s.bankBusy ch.val bank.val = true)
    (htrained : (s.channel ch.val).trained = true) (hw : (s.channel ch.val).faulted = false) (hlen : (s.channel ch.val).postponed.length = 16)
    (hcount : (s.channel ch.val).postponed.getD bank.val 0 < 8) :
    ∃ v, Answers (.perBankRefresh ch bank true) s v ∧
      (v.channel ch.val).postponed.getD bank.val 0 = (s.channel ch.val).postponed.getD bank.val 0 + 1 ∧ v.regs = s.regs := by
  have hlisted : (s.channel ch.val).postponed ≠ [] := fun hnil => by simp [hnil] at hlen
  refine ⟨_, (exec_perBankRefresh ch bank true s).trans (congrArg _ (State.perBankRefresh_postponed hbusy hcount htrained hw)), ?_, rfl⟩
  rw [State.channel_channelMap_same hs ch.isLt, if_neg hlisted]
  exact getD_updAt_same _ _ (bank.isLt.trans_eq hlen.symm)

section
variable {s u : State} {ch : Fin 24} {t : Nat} (hs : s.sound = true) (hu : u = s.advance t)
include hs hu

/-- A granule scrubbed counts for its round, and a corrected error sets its event (R561). -/
theorem answers_scrubbed {g : Nat} {crc : Fin 5} {ecc : Fin 3}
    (hfree : hashedPerChannel ≤ g ∨ u.slabOf (u.scrubAt ch.val g) = none ∧ (u.channel ch.val).bad.contains (u.scrubAt ch.val g) = false)
    (hcrc : crc.val < 4) (hecc : ecc.val ≤ 1) (hopen : u.clk.bgOpen = true) (hactive : u.active.contains ch.val = true)
    (hw : (u.channel ch.val).faulted = false) (hstep : u.inStep ch.val = false) (hround : (u.channel ch.val).scrubbed + 1 < scrubTotal) :
    ∃ v, Answers (.scrub ch g crc ecc t) s v ∧ (v.channel ch.val).scrubbed = (u.channel ch.val).scrubbed + 1 ∧ v.store = u.store ∧
      v.out = u.out ∧ (ecc.val = 1 → v.rd gdmEventCe = 1) := by
  have hsound : u.sound = true := hu ▸ (Follows.refl s).advance.sound hs
  obtain ⟨a, back, hread⟩ := State.scrub_reads hs hu ch.isLt hfree hcrc hecc hopen hactive hw hstep hround
  refine ⟨_, (exec_scrub ch g crc ecc t s).trans (congrArg _ hread), State.channel_scrubRead _ _ _ _ hsound ch.isLt,
    State.scrubRead_store .., State.scrubRead_out .., fun hone => ?_⟩
  rw [State.rd_scrubRead _ _ _ _ _ _ (by decide) (by decide) (by decide), hone]
  exact State.rd_goodRead_event hsound _ _

variable (hready : u.stepReady ch.val)
include hready

/-- A step that succeeds ends within its worst case, and the fourth ends the retraining (R567). -/
theorem answers_stepped :
    ∃ v, Answers (.retrainStep ch true t) s v ∧ u.clk.now ≤ (v.channel ch.val).stepEnd ∧
      (v.channel ch.val).stepEnd ≤ u.clk.now + ns (retrainNs ((u.channel ch.val).step + 1)) ∧
      (v.channel ch.val).step = (if (u.channel ch.val).step = 3 then 0 else (u.channel ch.val).step + 1) ∧
      ((u.channel ch.val).step = 3 → (v.channel ch.val).retrainAt = u.clk.now ∧ (v.channel ch.val).retrainTemp = (u.channel ch.val).temp) ∧
      v.regs = u.regs := by
  have hsound : u.sound = true := hu ▸ (Follows.refl s).advance.sound hs
  obtain ⟨hlo, hhi⟩ := u.stepEnds_bounds ((u.channel ch.val).step + 1)
  refine ⟨_, (exec_retrainStep ch true t s).trans (congrArg _ (State.retrainStep_runs hu hready true)), ?_⟩
  rw [if_pos rfl, State.channel_beginStep_map hsound ch.isLt]
  by_cases hlast : (u.channel ch.val).step = 3
  · rw [if_pos (by rw [hlast]), if_pos hlast]
    exact ⟨hlo, hhi, rfl, fun _ => ⟨rfl, rfl⟩, rfl⟩
  · rw [if_neg (by omega), if_neg hlast]
    exact ⟨hlo, hhi, rfl, fun h => absurd h hlast, rfl⟩

/-- The first failure is kept for the next window (R568). -/
theorem answers_stepFailed (hfirst : (u.channel ch.val).stepFails = 0) :
    ∃ v, Answers (.retrainStep ch false t) s v ∧ (v.channel ch.val).stepFails = 1 ∧ (v.channel ch.val).step = (u.channel ch.val).step ∧
      (v.channel ch.val).faulted = false := by
  have hsound : u.sound = true := hu ▸ (Follows.refl s).advance.sound hs
  obtain ⟨-, -, -, hw, -⟩ := id hready
  refine ⟨_, (exec_retrainStep ch false t s).trans (congrArg _ (State.retrainStep_runs hu hready false)), ?_⟩
  rw [if_neg Bool.false_ne_true, if_pos hfirst, State.channel_beginStep_map hsound ch.isLt]
  exact ⟨rfl, rfl, hw⟩

/-- The second failure faults the channel (R568). -/
theorem answers_stepFailedAgain (hsecond : (u.channel ch.val).stepFails = 1) :
    ∃ v, Answers (.retrainStep ch false t) s v ∧ (v.channel ch.val).faulted = true ∧ v.rd gdmEventFault = 1 := by
  have hsound : u.sound = true := hu ▸ (Follows.refl s).advance.sound hs
  have hbegun := (Follows.refl u).beginStep (h := ch.val) (k := (u.channel ch.val).step + 1) |>.sound hsound
  obtain ⟨-, -, -, hw, -⟩ := id hready
  have hworks : ((u.beginStep ch.val ((u.channel ch.val).step + 1)).channel ch.val).faulted = false := by
    rw [State.channel_beginStep hsound ch.isLt]
    exact hw
  refine ⟨_, (exec_retrainStep ch false t s).trans (congrArg _ (State.retrainStep_runs hu hready false)), ?_⟩
  rw [if_neg Bool.false_ne_true, if_neg (by rw [hsecond]; decide)]
  exact ⟨State.channel_channelFault hbegun _ _ hworks ch.isLt, State.rd_channelFault_event hbegun _ _ hworks⟩

end

/-- Settles O56: each clause names whether its command is held back or runs, and reads the channel in the state it leaves. -/
theorem refreshScrubAndRetrain : Obligations.RefreshScrubAndRetrain := by
  intro ch t s hs u c
  have hretrain (ok : Bool) (hheld : u.clk.bgOpen = false ∨ u.groupFree ch.val = false ∨ u.retrainDue ch.val = false) :
      Answers (.retrainStep ch ok t) s u := (exec_retrainStep ch ok t s).trans (congrArg _ (State.retrainStep_held _ _ hheld))
  have hscrub (g : Nat) (crc : Fin 5) (ecc : Fin 3) (hheld : u.clk.bgOpen = false ∨ u.inStep ch.val = true) :
      Answers (.scrub ch g crc ecc t) s u := (exec_scrub ch g crc ecc t s).trans (congrArg _ (State.scrub_held _ _ _ _ hheld))
  refine ⟨fun bank => (exec_perBankRefresh ch bank false s).trans (congrArg _ (s.perBankRefresh_issued ch.val bank.val)),
    fun bank htrained hw hlen => ⟨fun hfull => ?_, fun hbusy hcount => ?_⟩, fun hopen => ?_, fun hclosed => ?_, ?_,
    fun hgroup ok => hretrain ok (.inr (.inl hgroup)), fun hgroup hopen htrained hw hempty hsecond hother hdue _ hfits => ?_,
    fun hgroup hopen htrained hw hempty hdue hfirst _ hfits => ?_, fun _ _ hnone ok => hretrain ok (.inr (.inr hnone))⟩
  · exact (exec_perBankRefresh ch bank true s).trans (congrArg _ (State.perBankRefresh_full hfull))
  · exact answers_postponed hs hbusy htrained hw hlen hcount
  · refine ⟨_, (exec_allBankRefresh ch t s).trans (congrArg _ (State.allBankRefresh_open ch.val hopen)), ?_, rfl⟩
    rw [State.channel_channelMap_same ((Follows.refl s).advance.sound hs) ch.isLt]
  · exact ⟨(exec_allBankRefresh ch t s).trans (congrArg _ (State.allBankRefresh_closed ch.val hclosed)),
      fun g crc ecc => hscrub g crc ecc (.inl hclosed), fun ok => hretrain ok (.inl hclosed)⟩
  · intro g crc ecc x hfree hcrc hecc hopen hactive hw
    exact ⟨fun hstep => hscrub g crc ecc (.inr hstep),
      fun hstep hround => answers_scrubbed hs rfl hfree hcrc hecc hopen hactive hw hstep hround⟩
  · exact answers_stepFailedAgain hs rfl ⟨hgroup, hopen, htrained, hw, hempty, hdue, .inr hother, hfits⟩ hsecond
  · have hready : u.stepReady ch.val := ⟨hgroup, hopen, htrained, hw, hempty, hdue, .inl hfirst, hfits⟩
    exact ⟨answers_stepped hs rfl hready, answers_stepFailed hs rfl hready hfirst⟩

end Sys2Proof.Claims
end

section
/-!
PROOFS. RELAY_END where function 0 masks its interrupts: the layout record is an error of class unit (R573, R840), whose vector 8 becomes pending in
the masked function (R391, R841), so the host side is not as it was.
-/
namespace Sys2Proof.Claims
open Sys2Proof Sys2Proof.Machine

/-- A chip in a re-lay that no command waits for; function 0 is enabled and masks its MSI-X vectors. -/
def maskedRelay : State :=
  (State.reset.memMap (fun m => { m with relaying := true })).fnMap 0 (fun f => { f with enabled := true, msixEnable := true, fmask := true })

/-- Where no command waits for a re-lay, completing those that do leaves the host side as it was (R574). -/
theorem finishPends_host {s : State} (h : s.mem.pends = []) : s.finishPends.host = s.host := by
  simp [State.finishPends, h]

/-- Refutes O57: in the end of a re-lay, reporting the layout makes vector 8 pending in the masked function 0, so no state with the host side as it
was leads to the answer. -/
theorem not_channelFaultsAndLayouts : ¬ Obligations.ChannelFaultsAndLayouts := by
  intro h
  obtain ⟨-, hrelay, -⟩ := h 0 maskedRelay (by decide)
  obtain ⟨w, hanswers, -, hpends, hhost, -⟩ := (hrelay 0).2 (by decide)
  have hend : (maskedRelay.advance 0).relayEnd = w.finishPends := Host.Outcome.next.inj hanswers
  have hkept : (maskedRelay.advance 0).relayEnd.host = (maskedRelay.advance 0).host :=
    (congrArg State.host hend).trans ((finishPends_host (hpends.trans rfl)).trans hhost)
  have hpending : ((maskedRelay.advance 0).relayEnd.fn 0).pba = [8] := by decide
  have hnone : ((maskedRelay.advance 0).fn 0).pba = [] := by decide
  rw [State.fn, hkept] at hpending
  exact absurd (hpending.symm.trans hnone) (by decide)

end Sys2Proof.Claims
end

section
/-!
PROOFS. What every step does and does not do: the front of the queue, what is sent, time, and commands and messages that are not there.
-/
namespace Sys2Proof.Claims
open Sys2Proof Sys2Proof.Machine

/-- Settles O1: by the cases of the step. -/
theorem stepRunsFront : Obligations.StepRunsFront := fun _ _ _ => ⟨step_of_front rfl, step_of_idle rfl⟩

/-- Settles O4: an idle block keeps everything, and every command follows on the state without it. -/
theorem stepsGoForward : Obligations.StepsGoForward := by
  intro s s' hstep
  cases hqueue : s.pending with
  | nil =>
    have h := Keeps.next (.refl s) s' ((step_of_idle hqueue).symm.trans hstep)
    exact ⟨h.pending.trans hqueue, h.out, h.now, h.free⟩
  | cons c rest =>
    have h := exec_keeps c (.refl _) s' ((step_of_front hqueue).symm.trans hstep)
    exact ⟨h.pending, h.out, h.now, h.free⟩

/-- A command that is not in hand runs no row of its own. -/
theorem row_of_absent {s : State} {cid : Nat} (op : Nat) (f : State → Cmd → State) (h : s.cmd? cid = none) : s.row cid op f = s := by
  simp [State.row, h]

/-- A type of message that is not in a strand's inbox is not taken from it. -/
theorem withMsgIf_of_absent {s : State} {i t : Nat} (may : Bool) (f : State → Bytes → State)
    (h : ∀ m ∈ (s.strand i).inbox, msgType m ≠ t) : s.withMsgIf may i t f = s := by
  have hnone : (s.strand i).inbox.find? (fun m => msgType m == t) = none := by simpa [List.find?_eq_none] using h
  rw [State.withMsgIf, hnone]

/-- Settles O6: a command's row, and the arrival of a message, by the lemma on what is absent. -/
theorem absentCommandsDoNothing : Obligations.AbsentCommandsDoNothing := by
  intro s
  refine ⟨fun cid hnone => ?_, fun k => ?_⟩
  · have row {i : Instr} {op : Nat} {f : State → Cmd → State} (hi : exec i s = .next (s.row cid op f)) : Answers i s s :=
      hi.trans (congrArg _ (row_of_absent op f hnone))
    have hexpire : Answers (.stagingWaitExpire cid) s s := by
      rw [Answers, exec_stagingWaitExpire]
      cases s.live <;> simp [State.stagingExpire, hnone]
    simp only [List.forall_mem_cons]
    exact ⟨row rfl, row rfl, row rfl, row rfl, row rfl, row rfl, row rfl, row rfl, row rfl, row rfl, row rfl, row rfl, row rfl, row rfl, row rfl,
      row rfl, row rfl, row rfl, row rfl, row rfl, row rfl, row rfl, row rfl, row rfl, row rfl, row rfl, row rfl, row rfl, row rfl, row rfl, row rfl,
      row rfl, hexpire, fun _ h => absurd h List.not_mem_nil⟩
  · have msg {i : Instr} {t : Nat} {may : Bool} {f : State → Bytes → State} (hi : exec i s = .next (s.withMsgIf may k.val t f)) :
        (∀ m ∈ (s.strand k.val).inbox, msgType m ≠ t) → Answers i s s := fun h => hi.trans (congrArg _ (withMsgIf_of_absent may f h))
    simp only [List.forall_mem_cons]
    exact ⟨msg rfl, msg rfl, msg rfl, msg rfl, msg rfl, msg rfl, msg rfl, msg rfl, msg rfl, msg rfl, msg rfl, msg rfl, msg rfl, msg rfl, msg rfl, msg rfl,
      msg rfl, msg rfl, msg rfl, msg rfl, msg rfl, msg rfl, msg rfl, msg rfl, msg rfl, msg rfl, msg rfl, msg rfl, msg rfl,
      fun _ h => absurd h List.not_mem_nil⟩

end Sys2Proof.Claims
end

section
/-!
LAWS. Writes of the pin registers (R729, R743) and the samples the pattern-match units take (R736 to R738).
-/
namespace Sys2Proof.Claims
open Sys2Proof Sys2Proof.Machine

/-! ## Who writes -/

theorem exec_gpioSet (src : PinSrc) (fn : Seat) (bits : BitVec 24) (s : State) :
    exec (.gpioSet src fn bits) s = .next (s.pinWrite src fn.val (fun s => s.gpioSetBits bits.toNat)) := rfl

theorem exec_gpioClr (src : PinSrc) (fn : Seat) (bits : BitVec 24) (s : State) :
    exec (.gpioClr src fn bits) s = .next (s.pinWrite src fn.val (fun s => s.gpioClrBits bits.toNat)) := rfl

theorem exec_gpioTog (src : PinSrc) (fn : Seat) (bits : BitVec 24) (s : State) :
    exec (.gpioTog src fn bits) s = .next (s.pinWrite src fn.val (fun s => s.gpioTogBits bits.toNat)) := rfl

theorem exec_gpioLock (src : PinSrc) (fn : Seat) (v : Word) (s : State) :
    exec (.gpioLock src fn v) s = .next (s.pinWrite src fn.val (fun s => s.gpioLock src v.toNat)) := rfl

/-- A source that may write the pins does, after a chip in Rest has been woken by the host (R764). -/
theorem pinWrite_of_mayPins {s : State} {src : PinSrc} {fn : Nat} (f : State → State) (h : mayPins s src fn = true) :
    s.pinWrite src fn f = f (pinsAwake s src) := by
  cases src with
  | mgc => exact if_pos h
  | conductors => exact if_pos h
  | host =>
    obtain ⟨hacc, howner⟩ : s.hostAccess fn = true ∧ s.owner? = some fn := by simpa [mayPins] using h
    simp [State.pinWrite, pinsAwake, hacc, howner]

@[simp] theorem pinsAwake_regs (s : State) (src : PinSrc) : (pinsAwake s src).regs = s.regs := by
  cases src <;> simp [pinsAwake]

@[simp] theorem pinsAwake_rd (s : State) (src : PinSrc) (f : Fld) (i : Nat) : (pinsAwake s src).rd f i = s.rd f i :=
  State.rd_of_regs _ _ f i (pinsAwake_regs s src)

/-! ## The lock sequence (R743) -/

theorem lockWord_key (key : BitVec 8) (mask : BitVec 24) : (lockWord key mask).toNat / 2 ^ 24 % 256 = key.toNat := by
  have hk := key.isLt
  have hm := mask.isLt
  rw [lockWord, BitVec.toNat_append, ← Nat.shiftLeft_add_eq_or_of_lt hm, Nat.shiftLeft_eq]
  omega

theorem lockWord_mask (key : BitVec 8) (mask : BitVec 24) : (lockWord key mask).toNat % 2 ^ 24 = mask.toNat := by
  have hm := mask.isLt
  rw [lockWord, BitVec.toNat_append, ← Nat.shiftLeft_add_eq_or_of_lt hm, Nat.shiftLeft_eq]
  omega

/-- The sequence of a source set. -/
def putLock (s : State) (src : PinSrc) (x : Nat × Nat) : State :=
  s.pinMap (fun p => { p with lockSeq := updAt (lockPlace src) (fun _ => x) p.lockSeq })

/-- The sequence of a source. -/
def lockOf (s : State) (src : PinSrc) : Nat × Nat := s.pwr.pins.lockSeq.getD (lockPlace src) (0, 0)

/-- What a write of GPIO_LOCK does, by the place of its source in the sequence, the key and the mask. -/
theorem gpioLock_eq (s : State) (src : PinSrc) (v : Nat) : s.gpioLock src v =
    if (lockOf s src).1 = 1 ∧ v / 2 ^ 24 % 256 = 0xB3 ∧ v % 2 ^ 24 = (lockOf s src).2 then putLock s src (2, v % 2 ^ 24)
    else if (lockOf s src).1 = 2 ∧ v / 2 ^ 24 % 256 = 0x4C ∧ v % 2 ^ 24 = (lockOf s src).2 then
      (putLock s src (0, 0)).wr gpioLockedPins 0 (s.lockedPins ||| v % 2 ^ 24)
    else if v / 2 ^ 24 % 256 = 0x4C then putLock s src (1, v % 2 ^ 24)
    else putLock s src (0, 0) := by cases src <;> rfl

@[simp] theorem putLock_regs (s : State) (src : PinSrc) (x : Nat × Nat) : (putLock s src x).regs = s.regs := rfl

@[simp] theorem putLock_lockedPins (s : State) (src : PinSrc) (x : Nat × Nat) : (putLock s src x).lockedPins = s.lockedPins := rfl

theorem putLock_lockSeq (s : State) (src : PinSrc) (x : Nat × Nat) :
    (putLock s src x).pwr.pins.lockSeq = updAt (lockPlace src) (fun _ => x) s.pwr.pins.lockSeq := rfl

theorem lockPlace_lt (src : PinSrc) : lockPlace src < 3 := by cases src <;> decide

/-- The sequences of the three sources are there. -/
theorem putLock_place {s : State} (src : PinSrc) (x : Nat × Nat) (h : s.pwr.pins.lockSeq.length = 3) :
    (putLock s src x).pwr.pins.lockSeq[lockPlace src]? = some x := by
  have := lockPlace_lt src
  rw [putLock_lockSeq, getElem?_updAt_same, List.getElem?_eq_getElem (by omega), Option.map_some]

theorem lockOf_of_place {s : State} {src : PinSrc} {x : Nat × Nat} (h : s.pwr.pins.lockSeq[lockPlace src]? = some x) : lockOf s src = x := by
  simp [lockOf, List.getD, h]

/-- What a write of GPIO_LOCK by a source leaves to the next one: the sequences of the other sources, and who may write. -/
theorem gpioLock_frame (s : State) (src : PinSrc) (v : Nat) :
    (s.gpioLock src v).pwr.pins.lockSeq.length = s.pwr.pins.lockSeq.length ∧
      ∀ j, j ≠ lockPlace src → (s.gpioLock src v).pwr.pins.lockSeq[j]? = s.pwr.pins.lockSeq[j]? := by
  have hput (x : Nat × Nat) : (putLock s src x).pwr.pins.lockSeq.length = s.pwr.pins.lockSeq.length ∧
      ∀ j, j ≠ lockPlace src → (putLock s src x).pwr.pins.lockSeq[j]? = s.pwr.pins.lockSeq[j]? := by
    rw [putLock_lockSeq]
    exact ⟨updAt_length .., fun j hj => getElem?_updAt_other _ _ hj⟩
  rw [gpioLock_eq]
  split
  · exact hput _
  split
  · exact hput _
  split
  · exact hput _
  · exact hput _

/-- A source that has written may write again (R743). -/
theorem mayPins_gpioLock {s : State} {src : PinSrc} {fn : Nat} (v : Nat) (h : mayPins s src fn = true) :
    mayPins ((pinsAwake s src).gpioLock src v) src fn = true := by
  have hkeep (u : State) (x : Nat × Nat) : mayPins (putLock u src x) src fn = mayPins u src fn := by cases src <;> rfl
  have hlocked (u : State) (n : Nat) : mayPins (u.wr gpioLockedPins 0 n) src fn = mayPins u src fn := by
    have hrd (f : Fld) (hf : regKey f 0 0 ≠ regKey gpioLockedPins 0 0) : (u.wr gpioLockedPins 0 n).rd f = u.rd f :=
      State.rd_wr_other _ _ _ _ _ _ hf
    cases src with
    | mgc => rfl
    | conductors => simp only [mayPins, State.live, State.wr_pwr, hrd errStatusFatal (by decide)]
    | host =>
      have howner : (u.wr gpioLockedPins 0 n).owner? = u.owner? := by
        simp only [State.owner?, hrd ownStateState (by decide), hrd ownStateOwner (by decide)]
      simp only [mayPins, howner]
      rfl
  have hawake : mayPins (pinsAwake s src) src fn = true := by
    cases src with
    | mgc => exact h
    | conductors => exact h
    | host =>
      simp only [mayPins, pinsAwake, Bool.and_eq_true, State.hostAccess_iff, State.restWake_fn, State.restWake_owner?] at h ⊢
      refine ⟨⟨⟨?_, h.1.1.2⟩, h.1.2⟩, h.2⟩
      have hans := h.1.1.1
      unfold State.restWake
      split
      · next hrest => simp_all [State.answers]
      · exact hans
  rw [gpioLock_eq]
  split
  · rwa [hkeep]
  split
  · rwa [hlocked, hkeep]
  split <;> rwa [hkeep]

end Sys2Proof.Claims
end

section
/-!
PROOFS. GPIO_SET, GPIO_CLR, GPIO_TOG and the lock sequence.
-/
namespace Sys2Proof.Claims
open Sys2Proof Sys2Proof.Machine

/-- Settles O7: each register's write of GPIO_OUT, bit by bit. -/
theorem pinOutputWrites : Obligations.PinOutputWrites := by
  intro src fn bits s hmay
  have hbits := bits.isLt
  refine ⟨⟨s.rd gpioOutValue ||| bits.toNat, ?_, fun p _ => ?_⟩, ⟨s.rd gpioOutValue &&& (16777215 - bits.toNat % 16777216), ?_, fun p hp => ?_⟩,
    ⟨s.rd gpioOutValue ^^^ bits.toNat, ?_, fun p _ => ?_⟩⟩
  · rw [Answers, exec_gpioSet, pinWrite_of_mayPins _ hmay, State.gpioSetBits, pinsAwake_rd]
    rfl
  · rw [Nat.testBit_or, BitVec.testBit_toNat]
  · rw [Answers, exec_gpioClr, pinWrite_of_mayPins _ hmay, State.gpioClrBits, pinsAwake_rd]
    rfl
  · rw [Nat.mod_eq_of_lt hbits, show 16777215 - bits.toNat = 2 ^ 24 - (bits.toNat + 1) by omega, Nat.testBit_and,
      Nat.testBit_two_pow_sub_succ hbits, BitVec.testBit_toNat]
    simp [hp]
  · rw [Answers, exec_gpioTog, pinWrite_of_mayPins _ hmay, State.gpioTogBits, pinsAwake_rd]
    rfl
  · rw [Nat.testBit_xor, BitVec.testBit_toNat]

section
variable {src : PinSrc} {fn : Seat} {s : State} (hmay : mayPins s src fn.val = true)
include hmay

theorem answers_gpioLock (w : Word) : Answers (.gpioLock src fn w) s ((pinsAwake s src).gpioLock src w.toNat) := by
  rw [Answers, exec_gpioLock, pinWrite_of_mayPins _ hmay]

end

@[simp] theorem pinsAwake_lockSeq (s : State) (src : PinSrc) : (pinsAwake s src).pwr.pins.lockSeq = s.pwr.pins.lockSeq := by
  cases src <;> simp only [pinsAwake]
  unfold State.restWake
  split <;> rfl

@[simp] theorem pinsAwake_lockedPins (s : State) (src : PinSrc) : (pinsAwake s src).lockedPins = s.lockedPins := pinsAwake_rd ..

@[simp] theorem lockOf_pinsAwake (s : State) (src : PinSrc) : lockOf (pinsAwake s src) src = lockOf s src := by simp [lockOf]

/-- A key that is none of the two, or a mask that is not the sequence's, ends the sequence (R743). -/
theorem gpioLock_broken {s : State} {src : PinSrc} {key : BitVec 8} {mask : BitVec 24} (hkey : key ≠ 0x4C)
    (h : key ≠ 0xB3 ∨ mask.toNat ≠ (lockOf s src).2) : s.gpioLock src (lockWord key mask).toNat = putLock s src (0, 0) := by
  have h4C : key.toNat ≠ 0x4C := fun he => hkey (BitVec.eq_of_toNat_eq he)
  have hB3 : ¬ (key.toNat = 0xB3 ∧ mask.toNat = (lockOf s src).2) := fun ⟨he, hm⟩ =>
    h.elim (fun hk => hk (BitVec.eq_of_toNat_eq he)) (fun hk => hk hm)
  rw [gpioLock_eq, lockWord_key, lockWord_mask, if_neg (fun hx => hB3 hx.2), if_neg (fun hx => h4C hx.2.1), if_neg h4C]

/-- The first key starts a sequence, where it does not complete one (R743). -/
theorem gpioLock_first {s : State} {src : PinSrc} {mask : BitVec 24} (h : (lockOf s src).1 ≠ 2 ∨ mask.toNat ≠ (lockOf s src).2) :
    s.gpioLock src (lockWord 0x4C mask).toNat = putLock s src (1, mask.toNat) := by
  rw [gpioLock_eq, lockWord_key, lockWord_mask, if_neg (fun hx => absurd hx.2.1 (by decide)),
    if_neg (fun hx => h.elim (fun hk => hk hx.1) (fun hk => hk hx.2.2))]
  exact if_pos rfl

/-- The second key after the first, with one mask (R743). -/
theorem gpioLock_second {s : State} {src : PinSrc} {mask : BitVec 24} (h : lockOf s src = (1, mask.toNat)) :
    s.gpioLock src (lockWord 0xB3 mask).toNat = putLock s src (2, mask.toNat) := by
  rw [gpioLock_eq, lockWord_key, lockWord_mask, h]
  exact if_pos ⟨rfl, rfl, rfl⟩

/-- The third key after the second, with one mask, locks the pins of the mask (R743). -/
theorem gpioLock_third {s : State} {src : PinSrc} {mask : BitVec 24} (h : lockOf s src = (2, mask.toNat)) :
    s.gpioLock src (lockWord 0x4C mask).toNat = (putLock s src (0, 0)).wr gpioLockedPins 0 (s.lockedPins ||| mask.toNat) := by
  rw [gpioLock_eq, lockWord_key, lockWord_mask, h, if_neg (fun hx => absurd hx.2.1 (by decide : (0x4C#8).toNat ≠ 0xB3))]
  exact if_pos ⟨rfl, rfl, rfl⟩

/-- The pins of a mask, locked: what was locked before, and them. -/
theorem lockedPins_wr {s : State} {src : PinSrc} {mask : BitVec 24} {n : Nat} (hs : regSorted s.regs = true) (hn : n < 2 ^ 24) :
    ((putLock s src (0, 0)).wr gpioLockedPins 0 (n ||| mask.toNat)).lockedPins = n ||| mask.toNat := by
  rw [State.lockedPins, State.rd_wr_same (putLock s src (0, 0)) _ _ _ hs]
  exact Nat.mod_eq_of_lt (Nat.or_lt_two_pow hn mask.isLt)

/-- The three writes of one mask lock its pins: also where the first of them is the third of an earlier sequence (R743). -/
theorem lockSequence_locks {s : State} {src : PinSrc} {mask : BitVec 24} (hsorted : regSorted s.regs = true) (hlen : s.pwr.pins.lockSeq.length = 3)
    (hlt : s.lockedPins < 2 ^ 24) :
    ((pinsAwake (((pinsAwake ((pinsAwake s src).gpioLock src (lockWord 0x4C mask).toNat) src).gpioLock src (lockWord 0xB3 mask).toNat)) src).gpioLock src
      (lockWord 0x4C mask).toNat).lockedPins = s.lockedPins ||| mask.toNat := by
  have hafter (u : State) (x : Nat × Nat) (hl : u.pwr.pins.lockSeq.length = 3) : lockOf (putLock u src x) src = x :=
    lockOf_of_place (putLock_place src x hl)
  by_cases hdone : lockOf (pinsAwake s src) src = (2, mask.toNat)
  · set a := (putLock (pinsAwake s src) src (0, 0)).wr gpioLockedPins 0 ((pinsAwake s src).lockedPins ||| mask.toNat) with ha
    have hseq : lockOf (pinsAwake a src) src = (0, 0) := by
      rw [lockOf_pinsAwake]
      exact hafter _ _ (by simpa using hlen)
    have hlocked : a.lockedPins = s.lockedPins ||| mask.toNat := by
      rw [ha, pinsAwake_lockedPins]
      exact lockedPins_wr (by simpa using hsorted) hlt
    have hsecond : (pinsAwake a src).gpioLock src (lockWord 0xB3 mask).toNat = putLock (pinsAwake a src) src (0, 0) := by
      rw [gpioLock_eq, lockWord_key, lockWord_mask, hseq]
      rfl
    rw [gpioLock_third hdone, hsecond, gpioLock_first, putLock_lockedPins, pinsAwake_lockedPins, putLock_lockedPins, pinsAwake_lockedPins, hlocked]
    rw [lockOf_pinsAwake, hafter _ _ (by simpa [ha, putLock_lockSeq] using hlen)]
    exact .inl (by decide)
  · have hfirst : (lockOf (pinsAwake s src) src).1 ≠ 2 ∨ mask.toNat ≠ (lockOf (pinsAwake s src) src).2 := by
      by_contra hno
      push Not at hno
      exact hdone (Prod.ext hno.1 hno.2.symm)
    rw [gpioLock_first hfirst, gpioLock_second, gpioLock_third, pinsAwake_lockedPins, putLock_lockedPins, pinsAwake_lockedPins, putLock_lockedPins,
      pinsAwake_lockedPins, lockedPins_wr (by simpa using hsorted) hlt]
    · rw [lockOf_pinsAwake, hafter _ _ (by simpa [putLock_lockSeq] using hlen)]
    · rw [lockOf_pinsAwake, hafter _ _ (by simpa using hlen)]

/-- Settles O8: the three writes by the lemma on the sequence, each other write by the step it makes in it. -/
theorem pinLockSequence : Obligations.PinLockSequence := by
  intro src fn mask s hsound hlen hlt hmay
  obtain ⟨⟨hsorted, -⟩, -⟩ := (State.sound_iff s).1 hsound
  have hwrite (w : Word) {t : State} (ht : (pinsAwake s src).gpioLock src w.toNat = t) : Answers (.gpioLock src fn w) s t := ht ▸ answers_gpioLock hmay w
  have hplace (x : Nat × Nat) : (putLock (pinsAwake s src) src x).pwr.pins.lockSeq[lockPlace src]? = some x :=
    putLock_place src x (by simpa using hlen)
  refine ⟨⟨_, _, _, answers_gpioLock hmay _, answers_gpioLock (mayPins_gpioLock _ hmay) _,
      answers_gpioLock (mayPins_gpioLock _ (mayPins_gpioLock _ hmay)) _, lockSequence_locks hsorted hlen hlt⟩,
    fun key h4C hB3 => ⟨_, hwrite _ (gpioLock_broken h4C (.inl hB3)), by simp, hplace _⟩, fun n m hseq => ⟨fun key h4C hm => ?_, fun hother => ?_⟩,
    fun w => ⟨_, answers_gpioLock hmay w, fun j hj => ?_⟩⟩
  · have hmask : mask.toNat ≠ (lockOf (pinsAwake s src) src).2 := by rwa [lockOf_pinsAwake, lockOf_of_place hseq]
    exact ⟨_, hwrite _ (gpioLock_broken h4C (.inr hmask)), by simp, hplace _⟩
  · refine ⟨_, hwrite _ (gpioLock_first ?_), by simp, hplace _⟩
    rwa [lockOf_pinsAwake, lockOf_of_place hseq]
  · rw [(gpioLock_frame _ src w.toNat).2 j hj, pinsAwake_lockSeq]

end Sys2Proof.Claims
end

section
/-!
PROOFS. The samples of the pins and the pattern-match units (R736 to R738).
-/
namespace Sys2Proof.Claims
open Sys2Proof Sys2Proof.Machine

/-! ## One unit takes one sample -/

/-- One unit's part of a sample: the state after it, and the mask of the units that have matched. -/
def pmUnit (lv : Nat) (x : State × Nat) (m : Nat) : State × Nat :=
  ((x.1.pmSample m lv).1, if (x.1.pmSample m lv).2 then x.2 ||| 2 ^ m else x.2)

/-- One sample, given to every unit. -/
def pmTake (x : State × Nat) : State × Nat := (List.range 4).foldl (pmUnit x.1.gpioIn) (x.1.tickFrees 64, x.2)

theorem pmRun_eq (s : State) (mask level n : Nat) :
    s.pmRun mask level n = (List.range (min n 17)).foldl (fun x _ => pmTake x) (s.pinMap (fun p => { p with extMask := mask, extLevel := level }), 0) := rfl

/-- The status bits: which units have matched. -/
abbrev pmBit (s : State) (m : Nat) : Bool := (s.rd gpioPmStatusMatch).testBit m

/-- What samples leave as it was: the board's levels, the store, what was sent, the units' settings, the bits that are set, and those of units that
are off. -/
structure Sampled (s t : State) : Prop where
  sorted : regSorted t.regs = true
  mask : t.pwr.pins.extMask = s.pwr.pins.extMask
  level : t.pwr.pins.extLevel = s.pwr.pins.extLevel
  store : t.store = s.store
  out : t.out = s.out
  fields : ∀ (f : Fld) (i : Nat), regKey f 0 i ≠ regKey gpioPmStatusMatch 0 0 → t.rd f i = s.rd f i
  kept : ∀ m < 4, pmBit s m = true → pmBit t m = true
  off : ∀ m < 4, s.rd gpioPmCtrlEn m = 0 → pmBit t m = pmBit s m

theorem Sampled.refl {s : State} (h : regSorted s.regs = true) : Sampled s s :=
  ⟨h, rfl, rfl, rfl, rfl, fun _ _ _ => rfl, fun _ _ => id, fun _ _ _ => rfl⟩

/-- No field of a unit's settings lies where the status bits do. -/
theorem pmCtrl_key {f : Fld} (hf : f.stride = 16 ∧ 0x32100 ≤ f.off ∧ f.win = false ∧ f.lo < 32) (i : Nat) :
    regKey f 0 i ≠ regKey gpioPmStatusMatch 0 0 := by
  obtain ⟨hstride, hoff, hwin, hlo⟩ := hf
  simp only [regKey, hstride, hwin, gpioPmStatusMatch]
  simp
  omega

theorem Sampled.en {s t : State} (h : Sampled s t) (m : Nat) : t.rd gpioPmCtrlEn m = s.rd gpioPmCtrlEn m := h.fields _ _ (pmCtrl_key (by decide) m)

theorem Sampled.mode {s t : State} (h : Sampled s t) (m : Nat) : t.rd gpioPmCtrlMode m = s.rd gpioPmCtrlMode m :=
  h.fields _ _ (pmCtrl_key (by decide) m)

theorem Sampled.filter {s t : State} (h : Sampled s t) (m : Nat) : t.rd gpioPmCtrlFilter m = s.rd gpioPmCtrlFilter m :=
  h.fields _ _ (pmCtrl_key (by decide) m)

theorem Sampled.raw {s t : State} (h : Sampled s t) (m lv : Nat) : t.pmRaw m lv = s.pmRaw m lv := by
  have hpin (i : Nat) : t.pmPin m i = s.pmPin m i := by
    rw [State.pmPin, State.pmPin, h.fields gpioPmSelLoPins m (pmCtrl_key (by decide) m), h.fields gpioPmSelHiPins m (pmCtrl_key (by decide) m)]
  simp only [State.pmRaw, hpin, h.fields gpioPmCtrlMask m (pmCtrl_key (by decide) m), h.fields gpioPmCtrlValue m (pmCtrl_key (by decide) m)]

/-- A unit that is off takes no sample. -/
theorem pmSample_off {s : State} {m : Nat} (lv : Nat) (h : s.rd gpioPmCtrlEn m = 0) : s.pmSample m lv = (s, false) := by
  simp [State.pmSample, h]

/-- The pins with a unit's filter set. -/
def Pins.filtered (m : Nat) (x : Pmu) (p : Pins) : Pins := { p with pmus := updAt m (fun _ => x) p.pmus }

/-- A unit that is on goes on in its filter, and sets its bit where it hits. -/
theorem pmSample_on {s : State} {m : Nat} (lv : Nat) (h : s.rd gpioPmCtrlEn m ≠ 0) :
    ∃ (x : Pmu) (hit : Bool), (s.rd gpioPmCtrlMode m = 0 → s.rd gpioPmCtrlFilter m = 0 → hit = s.pmRaw m lv) ∧
      s.pmSample m lv = (if hit then (s.pinMap (Pins.filtered m x)).wr gpioPmStatusMatch 0 (s.rd gpioPmStatusMatch ||| 2 ^ m)
        else s.pinMap (Pins.filtered m x), hit) := by
  simp only [State.pmSample, if_neg h]
  refine ⟨_, _, fun hmode hfilter => ?_, rfl⟩
  simp only [hmode, hfilter, if_true]
  cases hraw : s.pmRaw m lv <;> cases hmatch : (s.pwr.pins.pmus.getD m ⟨false, 0, false⟩).matching <;> simp

/-- A status bit after a unit's sample: its own bit is set where it hits, the others stand. -/
theorem pmBit_hit {s : State} {m j : Nat} (f : Pins → Pins) (hs : regSorted s.regs = true) (hj : j < 4) :
    pmBit ((s.pinMap f).wr gpioPmStatusMatch 0 (s.rd gpioPmStatusMatch ||| 2 ^ m)) j = (pmBit s j || decide (m = j)) := by
  rw [pmBit, State.rd_wr_same (s.pinMap f) _ _ _ hs, show gpioPmStatusMatch.width = 4 from rfl, Nat.testBit_mod_two_pow, Nat.testBit_or, Nat.testBit_two_pow]
  simp [hj]

/-- A unit's sample leaves the rest as it was. -/
theorem Sampled.sample {s t : State} (h : Sampled s t) (m lv : Nat) : Sampled s (t.pmSample m lv).1 := by
  by_cases hen : t.rd gpioPmCtrlEn m = 0
  · rwa [pmSample_off lv hen]
  · obtain ⟨f, hit, -, hsample⟩ := pmSample_on lv hen
    rw [hsample]
    cases hit with
    | false => exact ⟨h.sorted, h.mask, h.level, h.store, h.out, h.fields, h.kept, h.off⟩
    | true =>
      refine ⟨regSorted_regSet _ _ _ _ _ h.sorted, h.mask, h.level, h.store, h.out,
        fun g i hg => (State.rd_wr_other (t.pinMap (Pins.filtered m f)) _ _ _ _ _ hg).trans (h.fields g i hg), fun j hj hset => ?_, fun j hj hoff => ?_⟩
      · rw [if_pos rfl, pmBit_hit _ h.sorted hj, h.kept j hj hset, Bool.true_or]
      · have hne : m ≠ j := fun he => hen (by rw [h.en, he, hoff])
        rw [if_pos rfl, pmBit_hit _ h.sorted hj, h.off j hj hoff, decide_eq_false hne, Bool.or_false]

theorem Sampled.tickFrees {s t : State} (h : Sampled s t) (n : Nat) : Sampled s (t.tickFrees n) :=
  ⟨h.sorted, h.mask, h.level, h.store, h.out, h.fields, h.kept, h.off⟩

theorem Sampled.units {s : State} (lv : Nat) (l : List Nat) {x : State × Nat} (h : Sampled s x.1) : Sampled s (l.foldl (pmUnit lv) x).1 := by
  induction l generalizing x with
  | nil => exact h
  | cons m l ih => exact ih (h.sample m lv)

theorem Sampled.taken {s : State} {x : State × Nat} (h : Sampled s x.1) : Sampled s (pmTake x).1 :=
  Sampled.units (x := (x.1.tickFrees 64, x.2)) _ _ (h.tickFrees 64)

theorem Sampled.takes {s : State} (l : List Nat) {x : State × Nat} (h : Sampled s x.1) : Sampled s (l.foldl (fun x _ => pmTake x) x).1 := by
  induction l generalizing x with
  | nil => exact h
  | cons _ l ih =>
    rw [List.foldl_cons]
    exact ih h.taken

theorem Sampled.when_restWake {s t : State} (h : Sampled s t) (b : Bool) : Sampled s (t.when b State.restWake) := by
  cases b with
  | false => exact h
  | true =>
    rw [State.when_true]
    unfold State.restWake
    split
    · exact ⟨h.sorted, h.mask, h.level, h.store, h.out, h.fields, h.kept, h.off⟩
    · exact h

/-! ## A unit in level mode with filter 0 -/

/-- Over the units of one sample, the bit of a unit in level mode with filter 0 is set exactly where the unit matches, and no other unit sets it. -/
theorem pmBit_units {s : State} {m lv : Nat} (hm : m < 4) (hen : s.rd gpioPmCtrlEn m ≠ 0) (hmode : s.rd gpioPmCtrlMode m = 0)
    (hfilter : s.rd gpioPmCtrlFilter m = 0) (l : List Nat) {x : State × Nat} (h : Sampled s x.1) :
    pmBit (l.foldl (pmUnit lv) x).1 m = (pmBit x.1 m || (decide (m ∈ l) && s.pmRaw m lv)) := by
  induction l generalizing x with
  | nil => simp
  | cons a l ih =>
    have hone : pmBit (x.1.pmSample a lv).1 m = (pmBit x.1 m || (decide (a = m) && s.pmRaw m lv)) := by
      by_cases hon : x.1.rd gpioPmCtrlEn a = 0
      · have hne : a ≠ m := fun he => hen (by rw [← he, ← h.en, hon])
        simp [pmSample_off lv hon, hne]
      · obtain ⟨f, hit, hhit, hsample⟩ := pmSample_on lv hon
        rw [hsample]
        by_cases he : a = m
        · subst he
          rw [h.mode, h.filter, h.raw] at hhit
          rw [← hhit hmode hfilter, decide_eq_true rfl, Bool.true_and]
          cases hit with
          | false => rw [Bool.or_false]; rfl
          | true => rw [if_pos rfl, pmBit_hit _ h.sorted hm, decide_eq_true rfl]
        · rw [decide_eq_false he, Bool.false_and, Bool.or_false]
          cases hit with
          | false => rfl
          | true => rw [if_pos rfl, pmBit_hit _ h.sorted hm, decide_eq_false he, Bool.or_false]
    rw [List.foldl_cons, ih (h.sample a lv), show (pmUnit lv x a).1 = (x.1.pmSample a lv).1 from rfl, hone]
    by_cases he : a = m
    · simp [he]
      cases s.pmRaw m lv <;> simp
    · simp [he, Ne.symm he]

/-- The bit of such a unit after one sample. -/
theorem pmBit_pmTake {s : State} {m : Nat} (hm : m < 4) (hen : s.rd gpioPmCtrlEn m ≠ 0) (hmode : s.rd gpioPmCtrlMode m = 0)
    (hfilter : s.rd gpioPmCtrlFilter m = 0) {x : State × Nat} (h : Sampled s x.1) :
    pmBit (pmTake x).1 m = (pmBit x.1 m || s.pmRaw m x.1.gpioIn) := by
  rw [pmTake, pmBit_units hm hen hmode hfilter _ (h.tickFrees 64), decide_eq_true (List.mem_range.2 hm), Bool.true_and]
  rfl

theorem pmBit_when_restWake (s : State) (b : Bool) (m : Nat) : pmBit (s.when b State.restWake) m = pmBit s m := by
  cases b <;> simp [pmBit]

/-! ## The statement -/

theorem exec_patternMatch (mask levels : BitVec 24) (samples : Nat) (s : State) :
    exec (.patternMatch mask levels samples) s = .next (s.pinSamples mask.toNat levels.toNat samples) := rfl

/-- The board's levels are the first thing samples change. -/
theorem answers_patternMatch {s : State} (mask levels : BitVec 24) (samples : Nat) (haux : s.pwr.aux = true) :
    ∃ b : Bool, Answers (.patternMatch mask levels samples) s ((s.pmRun mask.toNat levels.toNat samples).1.when b State.restWake) := by
  refine ⟨(s.pmRun mask.toNat levels.toNat samples).2 &&& (s.pmRun mask.toNat levels.toNat samples).1.rd pwrRestCtrlWakePm != 0, ?_⟩
  rw [Answers, exec_patternMatch, State.pinSamples, haux]
  rfl

/-- Settles O9: over any number of samples by what one leaves as it was, on one sample by the units in turn. -/
theorem patternSampleSetsStatus : Obligations.PatternSampleSetsStatus := by
  intro mask levels s hsound haux
  obtain ⟨⟨hsorted, -⟩, -⟩ := (State.sound_iff s).1 hsound
  set u := s.pinMap (fun p => { p with extMask := mask.toNat, extLevel := levels.toNat }) with hu
  have hstart : Sampled u u := .refl hsorted
  refine ⟨fun samples => ?_, ?_⟩
  · obtain ⟨b, hb⟩ := answers_patternMatch mask levels samples haux
    have h : Sampled u ((s.pmRun mask.toNat levels.toNat samples).1.when b State.restWake) := by
      rw [pmRun_eq]
      exact (Sampled.takes _ hstart).when_restWake b
    exact ⟨_, hb, h.mask, h.level, h.store, h.out, fun m hm => ⟨h.kept m hm, h.off m hm⟩⟩
  · obtain ⟨b, hb⟩ := answers_patternMatch mask levels 1 haux
    refine ⟨_, hb, ?_⟩
    intro m hm lv hen hmode hfilter
    have hone : s.pmRun mask.toNat levels.toNat 1 = pmTake (u, 0) := by
      rw [pmRun_eq, show List.range (min 1 17) = [0] from rfl, List.foldl_cons, List.foldl_nil]
    rw [hone]
    exact (pmBit_when_restWake _ b m).trans (pmBit_pmTake (s := u) (x := (u, 0)) hm hen hmode hfilter hstart)

end Sys2Proof.Claims
end

section
/-!
PROOFS. The test access port (R871 to R873).
-/
namespace Sys2Proof.Claims
open Sys2Proof Sys2Proof.Machine

theorem exec_tapTckEdge (rising tms tdi : Bool) (s : State) : exec (.tapTckEdge rising tms tdi) s = .next (s.tapEdge rising tms tdi) := rfl

theorem exec_trstAssert (low : Bool) (s : State) : exec (.trstAssert low) s = .next (s.trst low) := rfl

/-- What a rising edge captures or shifts, before the port moves. -/
def tapMoved (s : State) (tdi : Bool) : State :=
  match s.pwr.jtag.state with
  | .capDr => (s.jtagMap (fun j => { j with drShift := s.tapCapture j.ir })).tickFrees bsrCells
  | .shDr => s.jtagMap (fun j => { j with drShift := shiftIn tdi j.drShift })
  | .capIr => s.jtagMap (fun j => { j with irShift := 1 })
  | .shIr => s.jtagMap (fun j => { j with irShift := j.irShift / 2 + (if tdi then 128 else 0) })
  | _ => s

/-- A rising edge captures or shifts, then moves the port; Test-Logic-Reset selects IDCODE (R871). -/
theorem tapEdge_rising {s : State} (tms tdi : Bool) (h : s.pwr.jtag.trst = false) : s.tapEdge true tms tdi =
    (tapMoved s tdi).jtagMap (fun j =>
      { j with state := s.pwr.jtag.state.next tms, ir := if s.pwr.jtag.state.next tms = .reset then 0xFE else j.ir }) := by
  have hmove : s.tapEdge true tms tdi = if s.pwr.jtag.state.next tms = .reset then (tapMoved s tdi).tapReset
      else (tapMoved s tdi).jtagMap (fun j => { j with state := s.pwr.jtag.state.next tms }) := by
    simp only [State.tapEdge, h, tapMoved]
    rfl
  rw [hmove]
  split
  · next hreset => simp only [hreset]; rfl
  · rfl

theorem tapMoved_frame (s : State) (tdi : Bool) : (tapMoved s tdi).regs = s.regs ∧ (tapMoved s tdi).out = s.out ∧
    (tapMoved s tdi).pwr.jtag.bsr = s.pwr.jtag.bsr ∧ (tapMoved s tdi).pwr.jtag.trst = s.pwr.jtag.trst := by
  unfold tapMoved
  split <;> exact ⟨rfl, rfl, rfl, rfl⟩

/-- Five rising edges with TMS 1 reach Test-Logic-Reset from every state of the diagram. -/
theorem tap_fiveOnes (x : Tap) : ((((x.next true).next true).next true).next true).next true = .reset := by cases x <;> rfl

section
variable {s : State} (h : s.pwr.jtag.trst = false)
include h

theorem tapEdge_state (tms tdi : Bool) : (s.tapEdge true tms tdi).pwr.jtag.state = s.pwr.jtag.state.next tms := by rw [tapEdge_rising tms tdi h]; rfl

theorem tapEdge_frame (tms tdi : Bool) : (s.tapEdge true tms tdi).regs = s.regs ∧ (s.tapEdge true tms tdi).out = s.out ∧
    (s.tapEdge true tms tdi).pwr.jtag.bsr = s.pwr.jtag.bsr ∧ (s.tapEdge true tms tdi).pwr.jtag.trst = false := by
  obtain ⟨hregs, hout, hbsr, htrst⟩ := tapMoved_frame s tdi
  rw [tapEdge_rising tms tdi h]
  exact ⟨hregs, hout, hbsr, htrst.trans h⟩

/-- The states a rising edge of TMS 1 leaves, and what it leaves alone. -/
theorem tapEdge_ir (tms tdi : Bool) (hreset : s.pwr.jtag.state.next tms = .reset) : (s.tapEdge true tms tdi).pwr.jtag.ir = 0xFE := by
  rw [tapEdge_rising tms tdi h]
  exact if_pos hreset

theorem answers_fiveOnes (tdi : Bool) : ∃ a b c d e, Answers (.tapTckEdge true true tdi) s a ∧ Answers (.tapTckEdge true true tdi) a b ∧
    Answers (.tapTckEdge true true tdi) b c ∧ Answers (.tapTckEdge true true tdi) c d ∧ Answers (.tapTckEdge true true tdi) d e ∧
    e.pwr.jtag.state = .reset ∧ e.pwr.jtag.ir = 0xFE ∧ e.out = s.out ∧ e.regs = s.regs := by
  obtain ⟨ra, oa, -, ha⟩ := tapEdge_frame h true tdi
  obtain ⟨rb, ob, -, hb⟩ := tapEdge_frame ha true tdi
  obtain ⟨rc, oc, -, hc⟩ := tapEdge_frame hb true tdi
  obtain ⟨rd, od, -, hd⟩ := tapEdge_frame hc true tdi
  obtain ⟨re, oe, -, -⟩ := tapEdge_frame hd true tdi
  have hlast := tap_fiveOnes s.pwr.jtag.state
  rw [← tapEdge_state h true tdi, ← tapEdge_state ha true tdi, ← tapEdge_state hb true tdi, ← tapEdge_state hc true tdi] at hlast
  exact ⟨_, _, _, _, _, exec_tapTckEdge .., exec_tapTckEdge .., exec_tapTckEdge .., exec_tapTckEdge ..,
    exec_tapTckEdge .., (tapEdge_state hd true tdi).trans hlast, tapEdge_ir hd true tdi hlast,
    oe.trans (od.trans (oc.trans (ob.trans oa))), re.trans (rd.trans (rc.trans (rb.trans ra)))⟩

/-- What the registers of the port hold after a rising edge, by the state it was in (R871). -/
theorem tapEdge_captures (tms tdi : Bool) :
    (s.pwr.jtag.state = .capIr → (s.tapEdge true tms tdi).pwr.jtag.irShift = 1) ∧
    (s.pwr.jtag.state = .shIr → (s.tapEdge true tms tdi).pwr.jtag.irShift = s.pwr.jtag.irShift / 2 + (if tdi then 128 else 0)) ∧
    (s.pwr.jtag.state = .shDr → (s.tapEdge true tms tdi).pwr.jtag.drShift = s.pwr.jtag.drShift.drop 1 ++ [tdi]) ∧
    (s.pwr.jtag.state = .capDr → (s.tapEdge true tms tdi).pwr.jtag.drShift = s.tapCapture s.pwr.jtag.ir) := by
  rw [tapEdge_rising tms tdi h]
  refine ⟨fun hst => ?_, fun hst => ?_, fun hst => ?_, fun hst => ?_⟩
  all_goals
    simp only [tapMoved, hst]
    rfl

/-- What a falling edge drives and updates, by the state of the port (R871). -/
theorem tapEdge_falling (tms tdi : Bool) : ∃ v, Answers (.tapTckEdge false tms tdi) s v ∧ v.pwr.jtag.state = s.pwr.jtag.state ∧
    v.regs = s.regs ∧ v.pwr.jtag.ir = (if s.pwr.jtag.state = .upIr then s.pwr.jtag.irShift else s.pwr.jtag.ir) ∧
    v.pwr.jtag.bsr = (if s.pwr.jtag.state = .upDr ∧ (s.pwr.jtag.ir = 0 ∨ s.pwr.jtag.ir = 1) then s.pwr.jtag.drShift else s.pwr.jtag.bsr) ∧
    v.out = s.out ++ (if s.pwr.jtag.state = .shDr then [.tdo (s.pwr.jtag.drShift.headD false)]
      else if s.pwr.jtag.state = .shIr then [.tdo (s.pwr.jtag.irShift.testBit 0)] else []) := by
  refine ⟨_, exec_tapTckEdge false tms tdi s, ?_⟩
  simp only [State.tapEdge, h]
  have hreg : tapReg s.pwr.jtag.ir = .boundary ↔ s.pwr.jtag.ir = 0 ∨ s.pwr.jtag.ir = 1 := by
    unfold tapReg
    split
    · simp [*]
    · split <;> simp [*]
  cases hst : s.pwr.jtag.state
  case upDr =>
    by_cases hb : s.pwr.jtag.ir = 0 ∨ s.pwr.jtag.ir = 1
    · simp [hreg, hb, State.jtagMap, hst]
    · simp [hreg, hb, hst]
  all_goals simp [State.jtagMap, State.emit, hst]

end

/-- Settles O14: TRST_N first, then each edge by the lemma on it. -/
theorem testAccessPortResets : Obligations.TestAccessPortResets := by
  intro s
  refine ⟨fun rising tms tdi h => ?_, fun tdi h => answers_fiveOnes h tdi, fun tms tdi h => ?_, fun tms tdi h => tapEdge_falling h tms tdi, ?_, ?_⟩
  · rw [Answers, exec_tapTckEdge, State.tapEdge, if_pos h]
    rfl
  · obtain ⟨hregs, hout, hbsr, -⟩ := tapEdge_frame h tms tdi
    obtain ⟨hcapIr, hshIr, hshDr, hcapDr⟩ := tapEdge_captures h tms tdi
    refine ⟨_, exec_tapTckEdge true tms tdi s, tapEdge_state h tms tdi, hregs, hout, hbsr, hcapIr, hshIr, hshDr, fun hst hir => ?_,
      fun hst hid h0 h1 => ?_⟩
    · rw [hcapDr hst, State.tapCapture, hir]
      rfl
    · have hreg : tapReg s.pwr.jtag.ir = .bypass := by simp [tapReg, hid, h0, h1]
      rw [hcapDr hst, State.tapCapture, hreg]
  · exact ⟨_, exec_trstAssert true s, rfl, rfl, rfl⟩
  · exact ⟨_, exec_trstAssert false s, rfl, rfl⟩

end Sys2Proof.Claims
end

section
/-!
PROOFS. The host mailbox: ECHO, CORE_STATE, LITMUS and the reply (R813, R814).
-/
namespace Sys2Proof.Claims
open Sys2Proof Sys2Proof.Machine

theorem exec_echo (s : State) : exec .echo s = .next s.mailboxEcho := rfl

theorem exec_coreState (s : State) : exec .coreState s = .next s.mailboxCores := rfl

theorem exec_litmus (a b c d : Word) (s : State) :
    exec (.litmus a b c d) s = given (s.mailboxLitmus [a.toNat, b.toNat, c.toNat, d.toNat]) := rfl

theorem exec_mailboxReply (s : State) : exec .mailboxReply s = .next s.mailboxReply := rfl

/-! ## LITMUS -/

/-- The counts R812 allows, by the test: those of IRIW in two words, those of the others in four. -/
theorem litmusOk_iff {test n : Nat} (fence : Nat) (a b c d : Nat) (h : test ≤ 2) :
    litmusOk test n (fence.testBit 0) [a, b, c, d] = true ↔
      (if test = 2 then a + b else a + b + c + d) = n ∧ (fence % 2 = 0 ∨ (if test = 1 then c else a) = 0) := by
  have hfence : (fence.testBit 0 = false) ↔ fence % 2 = 0 := by
    rw [Nat.testBit_zero, decide_eq_false_iff_not]; omega
  rw [← hfence]
  generalize fence.testBit 0 = b
  match test, h with
  | 0, _ => cases b <;> simp [litmusOk, sumN]
  | 1, _ => cases b <;> simp [litmusOk, sumN]
  | 2, _ => cases b <;> simp [litmusOk]

section
variable {s : State} (hreq : s.mailboxHas 3 = true) (hfatal : s.rd errStatusFatal = 0)
include hreq hfatal

theorem mailboxLitmus_bad (w : List Nat)
    (h : s.rd cndH2dCtrlLen ≠ 3 ∨ 2 < s.rd cndH2dDataWord 0 ∨ s.rd cndH2dDataWord 1 = 0 ∨ 1000000 < s.rd cndH2dDataWord 1) :
    s.mailboxLitmus w = some (s.mailboxReady 2 []) := by
  simp [State.mailboxLitmus, hreq, hfatal, h]

/-- A LITMUS request whose parameters fit: refused outside Playing, held until a background window opens, and run in it (R814). -/
theorem mailboxLitmus_good (w : List Nat) (hlen : s.rd cndH2dCtrlLen = 3) (htest : s.rd cndH2dDataWord 0 ≤ 2) (hpos : 0 < s.rd cndH2dDataWord 1)
    (hmost : s.rd cndH2dDataWord 1 ≤ 1000000) :
    s.mailboxLitmus w = if s.pwr.mode ≠ .playing then some (s.mailboxReady 3 []) else if !s.clk.bgOpen then some s
      else if litmusOk (s.rd cndH2dDataWord 0) (s.rd cndH2dDataWord 1) ((s.rd cndH2dDataWord 2).testBit 0) w then some (s.mailboxReady 0 w) else none := by
  have hfit : ¬ (s.rd cndH2dCtrlLen ≠ 3 ∨ 2 < s.rd cndH2dDataWord 0 ∨ s.rd cndH2dDataWord 1 = 0 ∨ 1000000 < s.rd cndH2dDataWord 1) := by omega
  simp only [State.mailboxLitmus, hreq, hfatal, if_neg hfit]
  rfl

end

/-! ## The reply -/

@[simp] theorem rd_pwrMap (s : State) (g : Power → Power) (f : Fld) (i : Nat) : (s.pwrMap g).rd f i = s.rd f i := rfl

/-- A list of words written to the reply's data registers, from register `k` on, is read back from them, and nothing else changes (R813). -/
theorem rd_replyWords (ws : List Nat) (hw : ∀ w ∈ ws, w < 2 ^ 32) (k : Nat) {s : State} (hs : regSorted s.regs = true) :
    let v := s.each (ws.zip (List.range' k ws.length)) (fun s p => s.wr cndD2hDataWord p.2 p.1)
    regSorted v.regs = true ∧ (∀ i w, ws[i]? = some w → v.rd cndD2hDataWord (k + i) = w) ∧
      ∀ (f : Fld) (i : Nat), (∀ j, k ≤ j → j < k + ws.length → regKey f 0 i ≠ regKey cndD2hDataWord 0 j) → v.rd f i = s.rd f i := by
  induction ws generalizing k s with
  | nil => exact ⟨hs, fun i w h => by simp at h, fun _ _ _ => rfl⟩
  | cons x ws ih =>
    obtain ⟨hsorted, hread, hother⟩ := ih (fun w h => hw w (List.mem_cons_of_mem _ h)) (k + 1) (s := s.wr cndD2hDataWord k x)
      (regSorted_regSet _ _ _ _ _ hs)
    refine ⟨hsorted, fun i w h => ?_, fun f i hf => ?_⟩
    · cases i with
      | zero =>
        obtain rfl : x = w := by simpa using h
        refine (hother cndD2hDataWord k fun j hj _ he => ?_).trans ((State.rd_wr_same _ _ _ _ hs).trans (Nat.mod_eq_of_lt (hw x List.mem_cons_self)))
        simp [regKey, cndD2hDataWord] at he
        omega
      | succ i =>
        rw [show k + (i + 1) = k + 1 + i by omega]
        exact hread i w (by simpa using h)
    · exact (hother f i fun j hj hlt => hf j (by omega) (by rw [List.length_cons]; omega)).trans
        (State.rd_wr_other _ _ _ _ _ _ (hf k (Nat.le_refl k) (by simp)))

/-- The reply: its words, then its control word with done, then go cleared (R813). -/
theorem mailboxReply_eq {s : State} {r : MboxReply} (h : s.pwr.mbox = some r) : s.mailboxReply =
    (((((((s.each (r.words.zip (List.range' 0 r.words.length)) (fun s p => s.wr cndD2hDataWord p.2 p.1)).wr cndD2hCtrlStatus 0 r.status).wr
      cndD2hCtrlSeq 0 r.seq).wr cndD2hCtrlLen 0 r.words.length).wr cndD2hCtrlDone 0 1).wr cndH2dCtrlGo 0 0).pwrMap (fun p => { p with mbox := none })) := by
  simp only [State.mailboxReply, h, Option.isNone_some, Bool.and_false, Bool.false_and, State.when_false, List.range_eq_range']

/-- The reply reads back as it was made, with done set and go clear (R813). -/
theorem mailboxReply_reads {s : State} {r : MboxReply} (hs : regSorted s.regs = true) (h : s.pwr.mbox = some r) (hlen : r.words.length ≤ 8)
    (hwords : ∀ w ∈ r.words, w < 2 ^ 32) (hseq : r.seq < 256) (hstatus : r.status < 256) :
    s.mailboxReply.pwr.mbox = none ∧ s.mailboxReply.rd cndD2hCtrlDone = 1 ∧ s.mailboxReply.rd cndD2hCtrlSeq = r.seq ∧
      s.mailboxReply.rd cndD2hCtrlStatus = r.status ∧ s.mailboxReply.rd cndD2hCtrlLen = r.words.length ∧ s.mailboxReply.rd cndH2dCtrlGo = 0 ∧
      ∀ i w, r.words[i]? = some w → s.mailboxReply.rd cndD2hDataWord i = w := by
  obtain ⟨hsorted, hread, -⟩ := rd_replyWords r.words hwords 0 hs
  set u := s.each (r.words.zip (List.range' 0 r.words.length)) (fun s p => s.wr cndD2hDataWord p.2 p.1) with hu
  have hstatusRegs := State.sorted_wr hsorted cndD2hCtrlStatus 0 r.status
  have hseqRegs := State.sorted_wr hstatusRegs cndD2hCtrlSeq 0 r.seq
  have hlenRegs := State.sorted_wr hseqRegs cndD2hCtrlLen 0 r.words.length
  have hdoneRegs := State.sorted_wr hlenRegs cndD2hCtrlDone 0 1
  rw [mailboxReply_eq h, ← hu]
  refine ⟨rfl, ?_, ?_, ?_, ?_, ?_, fun i w hi => ?_⟩
  · simp (disch := decide) only [rd_pwrMap, State.rd_wr_other]
    exact State.rd_wr_same _ _ _ _ hlenRegs
  · simp (disch := decide) only [rd_pwrMap, State.rd_wr_other]
    exact (State.rd_wr_same _ _ _ _ hstatusRegs).trans (Nat.mod_eq_of_lt hseq)
  · simp (disch := decide) only [rd_pwrMap, State.rd_wr_other]
    exact (State.rd_wr_same _ _ _ _ hsorted).trans (Nat.mod_eq_of_lt hstatus)
  · simp (disch := decide) only [rd_pwrMap, State.rd_wr_other]
    exact (State.rd_wr_same _ _ _ _ hseqRegs).trans (Nat.mod_eq_of_lt (show r.words.length < 2 ^ 4 by omega))
  · rw [rd_pwrMap, State.rd_wr_same _ _ _ _ hdoneRegs]
    rfl
  · have hi8 : i < 8 := Nat.lt_of_lt_of_le (List.getElem?_eq_some_iff.1 hi).1 hlen
    have hdata {f : Fld} (hf : f.stride = 0 ∧ f.win = false ∧ (f.off = 0x50160 ∨ f.off = 0x50120) ∧ f.lo < 32) (t : State) (v : Nat) :
        (t.wr f 0 v).rd cndD2hDataWord i = t.rd cndD2hDataWord i := by
      obtain ⟨hstride, hwin, hoff, hlo⟩ := hf
      refine State.rd_wr_other _ _ _ _ _ _ fun he => ?_
      simp only [regKey, hstride, hwin, cndD2hDataWord] at he
      simp at he
      omega
    simp (disch := decide) only [rd_pwrMap, hdata]
    rw [← Nat.zero_add i]
    exact hread i w hi

/-- Settles O13: each request by the branch of its opcode, the reply by what it reads back. -/
theorem mailboxRequestsAndReplies : Obligations.MailboxRequestsAndReplies := by
  intro s
  refine ⟨fun hlive hreq => ?_, fun hlive hreq => ?_, fun a b c d hreq hfatal => ⟨fun hbad => ?_, fun hlen htest hpos hmost => ?_⟩, fun r hsound hr hlen hwords hseq hstatus => ?_⟩
  · rw [Answers, exec_echo, State.mailboxEcho, hlive, hreq]
    rfl
  · rw [Answers, exec_coreState, State.mailboxCores, hlive, hreq]
    rfl
  · rw [Answers, exec_litmus, mailboxLitmus_bad hreq hfatal _ hbad, given]
  · have hrun := mailboxLitmus_good hreq hfatal [a.toNat, b.toNat, c.toNat, d.toNat] hlen htest hpos hmost
    refine ⟨fun hmode => ?_, fun hmode hopen => ?_, fun hmode hopen => ⟨fun hall hfence => ?_, fun hno => ?_⟩⟩
    · rw [Answers, exec_litmus, hrun, if_pos hmode, given]
    · simp [Answers, exec_litmus, hrun, hmode, hopen, given]
    · have hok := (litmusOk_iff (n := s.rd cndH2dDataWord 1) (s.rd cndH2dDataWord 2) a.toNat b.toNat c.toNat d.toNat htest).2 ⟨hall, hfence⟩
      simp only [Answers, exec_litmus, hrun, hmode, hopen, if_pos hok]
      rfl
    · have hok : ¬ litmusOk (s.rd cndH2dDataWord 0) (s.rd cndH2dDataWord 1) ((s.rd cndH2dDataWord 2).testBit 0)
          [a.toNat, b.toNat, c.toNat, d.toNat] = true := by
        rw [litmusOk_iff _ _ _ _ _ htest]
        rintro ⟨hall, hfence⟩
        rcases hno with hne | ⟨hodd, hne⟩
        · exact hne hall
        · exact hfence.elim (by omega) hne
      simp only [exec_litmus, hrun, hmode, hopen, if_neg hok]
      rfl
  · obtain ⟨⟨hsorted, -⟩, -⟩ := (State.sound_iff s).1 hsound
    exact ⟨_, exec_mailboxReply s, mailboxReply_reads hsorted hr hlen hwords hseq hstatus⟩

end Sys2Proof.Claims
end

section
/-!
PROOFS. Every measure begins with a pulse of BEAT_OUT (R747).
-/
namespace Sys2Proof.Claims
open Sys2Proof Sys2Proof.Machine

/-- The state in which a measure's number is set and its pulse is sent: the measure before it is closed and put away. -/
def beatSent (s : State) (at_ n : Nat) : State := ((((s.closeMeasure at_).lateFar).clearPass).wr measNumberValue 0 n).emit .beat

/-- Time has reached the downbeat once the measure before it is closed. -/
theorem le_closeMeasure_now (s : State) (at_ : Nat) : at_ ≤ (s.closeMeasure at_).clk.now := by
  unfold State.closeMeasure
  dsimp only
  generalize (State.when _ _ State.reserveEndAct) = u
  have hadvanced := Follows.refl (u.advance at_)
  have hslabs := Follows.when (c := (u.advance at_).store.journal != []) hadvanced fun _ h => Follows.weaveLanded (.retryCommits (.endSlabOps h))
  refine Nat.le_trans (u.le_advance_now at_) (Follows.now ?_)
  exact .clkMap (.dropCounts (.when (.showCounts (.measurePass (.countWaits hslabs))) fun _ h => .showCounts h)) fun _ => Nat.le_refl _

/-- Everything that a downbeat does after its pulse takes back nothing that was sent, and turns no time back. -/
theorem startMeasure_follows_beatSent (s : State) (at_ n : Nat) : Follows (beatSent s at_ n) (s.startMeasure at_ n) := by
  unfold State.startMeasure
  refine .ite (fun _ => .restStep (.wr _ _ _ (.takeSnapshot ?_))) (fun _ => .restStep (.weavePrepares (.weaveDecide (.wr _ _ _ (.takeSnapshot
    (.engineStep (.scrubLate (.strandMaps (.memoryStep (.storeStep (.ownershipStep (.when (.weaveDownbeat ?_) fun _ h => .firstStep h))))))))))))
  all_goals
    have hclock {c : Bool} {f g : Clock → Clock} {p : Power → Power} (hf : ∀ k, k.now ≤ (f k).now) (hg : ∀ k, k.now ≤ (g k).now) :
        Follows (beatSent s at_ n) ((((((beatSent s at_ n).runMeters.latchSettings n).clkMap f).clkMap g).when c State.sourceLeft).pwrMap p) :=
      .pwrMap (.when (.clkMap (.clkMap (.latchSettings (.runMeters (.refl _))) hf) hg) fun _ h => .sourceLeft h)
    refine .each ?_ fun _ _ h => .wr _ _ _ h
    beta_reduce
    split
    · exact .wr _ _ _ (hclock (fun _ => Nat.le_refl _) fun _ => Nat.le_refl _)
    · exact hclock (fun _ => Nat.le_refl _) fun _ => Nat.le_refl _

/-- Settles O42: the pulse is sent when the measure before is closed, at or after its instant, and what follows keeps both. -/
theorem measuresBeginWithABeat : Obligations.MeasuresBeginWithABeat := by
  intro s at_ n
  have hbeat := startMeasure_follows_beatSent s at_ n
  have hclosed : Follows (s.closeMeasure at_) (beatSent s at_ n) := .emit _ (.wr _ _ _ (.clearPass (.lateFar (.refl _))))
  have hall : Follows s (s.startMeasure at_ n) := .startMeasure (.refl s)
  refine ⟨?_, Nat.le_trans (le_closeMeasure_now s at_) (Nat.le_trans hclosed.now hbeat.now), hall.pending, hall.sound⟩
  obtain ⟨before, hbefore⟩ : s.out <+: ((((s.closeMeasure at_).lateFar).clearPass).wr measNumberValue 0 n).out :=
    (Follows.wr _ _ _ (.clearPass (.lateFar (.closeMeasure (.refl s))))).out
  obtain ⟨after, hafter⟩ := hbeat.out
  exact ⟨before, after, by rw [← hafter, beatSent, State.emit_out, ← hbefore]⟩

end Sys2Proof.Claims
end

section
/-!
LAWS. What error reports and the events of the power state leave as they were (R685, R688, R839 to R842).
-/
namespace Sys2Proof.Machine

/-! ## The power state beside its logs -/

/-- The power state without the error log, the count of this measure's errors and the event log. -/
def Power.besideLogs (p : Power) : Power := { p with errLog := [], errThis := 0, evLog := [] }

@[simp] theorem State.raise_pwr (s : State) (seat v : Nat) : (s.raise seat v).pwr = s.pwr := by
  unfold State.raise
  dsimp only
  split
  · rfl
  split
  · rfl
  split <;> rfl

@[simp] theorem State.signalError_pwr (s : State) : s.signalError.pwr = s.pwr := State.each_keeps _ s fun t _ => t.raise_pwr _ _

theorem State.besideLogs_logFlash (s : State) (r : Bytes) : (s.logFlash r).pwr.besideLogs = s.pwr.besideLogs := rfl

/-- The event bit of an error's class (R840). -/
def errEventOf (cls : Nat) : Fld := match cls with | 2 => errEventContained | 3 => errEventUnit | 4 => errEventFirmware | _ => errEventFatal

/-- The power state with a record noted in the error log (R839). -/
def Power.noted (r : Bytes) (cls : Nat) (p : Power) : Power :=
  { p with errLog := (r :: p.errLog).take 128, errThis := if cls = 2 then p.errThis + 1 else p.errThis }

/-- An error of class unit or above: its event bit, its record, its code bit, its signals and its place in the event log (R839 to R841). -/
theorem State.logError_reports {s : State} {cls : Nat} (kind unit code detail : Nat) (h : 3 ≤ cls) : ∃ (p : Power → Power) (v : Nat) (r : Bytes),
    (∀ q, (p q).besideLogs = q.besideLogs) ∧ s.logError cls kind unit code detail =
      ((((s.ev (errEventOf cls)).pwrMap p).inc errLogHeadCount).wr errCodesBits (code / 32) v).signalError.logFlash r := by
  have hcls : ¬ cls = 2 := by omega
  unfold State.logError
  dsimp only
  rw [if_neg (fun hc => hcls hc.1), decide_eq_true h, State.when_true]
  exact ⟨Power.noted _ cls, _, _, fun _ => rfl, rfl⟩

theorem State.besideLogs_logError {s : State} {cls : Nat} (kind unit code detail : Nat) (h : 3 ≤ cls) :
    (s.logError cls kind unit code detail).pwr.besideLogs = s.pwr.besideLogs := by
  obtain ⟨p, v, r, hp, heq⟩ := s.logError_reports kind unit code detail h
  rw [heq, State.besideLogs_logFlash, State.signalError_pwr]
  exact hp s.pwr

/-! ## The registers an error report writes -/

/-- Signals write function windows only. -/
theorem State.rd_raise (s : State) (seat v : Nat) {f : Fld} {i : Nat} (h : regKey f 0 i < 2 ^ 29) : (s.raise seat v).rd f i = s.rd f i := by
  have hwin {g : Fld} (hg : g.win = true) (t : State) (k n j : Nat) : (t.wrw g k j n).rd f i = t.rd f i := by
    refine regGet_regSet_other g f k j 0 i n t.regs fun he => ?_
    rw [he, regKey, hg] at h
    simp only [if_true] at h
    omega
  unfold State.raise
  dsimp only
  split
  · rfl
  split
  · rfl
  split
  · rfl
  · exact (hwin rfl _ _ _ _).trans (hwin rfl _ _ _ _)

theorem State.rd_signalError (s : State) {f : Fld} {i : Nat} (h : regKey f 0 i < 2 ^ 29) : s.signalError.rd f i = s.rd f i :=
  State.each_keeps (π := fun t => t.rd f i) _ s fun t seat => t.rd_raise seat 8 h

theorem State.rd_logFlash (s : State) (r : Bytes) (f : Fld) (i : Nat) : (s.logFlash r).rd f i = s.rd f i := rfl

theorem State.rd_inc_other (s : State) {f g : Fld} {i j : Nat} (n : Nat) (h : regKey g 0 j ≠ regKey f 0 i) : (s.inc f i n).rd g j = s.rd g j :=
  State.rd_wr_other _ _ _ _ _ _ h

theorem State.rd_ev_other (s : State) {f g : Fld} {i j : Nat} (h : regKey g 0 j ≠ regKey f 0 i) : (s.ev f i).rd g j = s.rd g j :=
  State.rd_wr_other _ _ _ _ _ _ h

/-- A field that an error report of class unit or above does not write: it lies below the error block's events, or between the counts of the log and
the code bits. -/
abbrev BesideReports (f : Fld) (i : Nat) : Prop :=
  regKey f 0 i < 0x80008 * 32 ∨ 0x80010 * 32 ≤ regKey f 0 i ∧ regKey f 0 i < 0x80100 * 32

theorem errCodesBits_key (i : Nat) : regKey errCodesBits 0 i = (0x80100 + 4 * i) * 32 := by simp [regKey, errCodesBits]

theorem errEventOf_key (cls : Nat) : 0x80008 * 32 ≤ regKey (errEventOf cls) 0 0 ∧ regKey (errEventOf cls) 0 0 < 0x8000C * 32 := by
  unfold errEventOf
  split <;> decide

theorem State.rd_logError {s : State} {cls : Nat} (kind unit code detail : Nat) (h : 3 ≤ cls) {f : Fld} {i : Nat} (hf : BesideReports f i) :
    (s.logError cls kind unit code detail).rd f i = s.rd f i := by
  obtain ⟨p, v, r, -, heq⟩ := s.logError_reports kind unit code detail h
  have hevent := errEventOf_key cls
  have hcodes := errCodesBits_key (code / 32)
  have hhead : regKey errLogHeadCount 0 0 = 0x8000C * 32 := rfl
  rw [heq, State.rd_logFlash, State.rd_signalError _ (by omega), State.rd_wr_other _ _ _ _ _ _ (by omega), State.rd_inc_other _ _ (by omega),
    Claims.rd_pwrMap, State.rd_ev_other _ (by omega)]

/-- The event bit of the class is set (R840). -/
theorem State.rd_logError_event {s : State} {cls : Nat} (kind unit code detail : Nat) (h : 3 ≤ cls) (hs : regSorted s.regs = true) :
    (s.logError cls kind unit code detail).rd (errEventOf cls) = 1 := by
  obtain ⟨p, v, r, -, heq⟩ := s.logError_reports kind unit code detail h
  have hevent := errEventOf_key cls
  have hcodes := errCodesBits_key (code / 32)
  have hhead : regKey errLogHeadCount 0 0 = 0x8000C * 32 := rfl
  rw [heq, State.rd_logFlash, State.rd_signalError _ (by omega), State.rd_wr_other _ _ _ _ _ _ (by omega), State.rd_inc_other _ _ (by omega),
    Claims.rd_pwrMap, State.ev, State.rd_wr_same _ _ _ _ hs]
  unfold errEventOf
  split <;> rfl

@[simp] theorem State.logError_store (s : State) (cls kind unit code detail : Nat) : (s.logError cls kind unit code detail).store = s.store :=
  State.store_of_besidePosts (s.besidePosts_logError cls kind unit code detail)

/-! ## ALERT_N and the events of the power state (R685, R688) -/

@[simp] theorem State.alertOn_regs (s : State) : s.alertOn.regs = s.regs := by
  unfold State.alertOn
  split <;> rfl

@[simp] theorem State.rd_alertOn (s : State) (f : Fld) (i : Nat) : s.alertOn.rd f i = s.rd f i := State.rd_of_regs _ _ _ _ s.alertOn_regs

@[simp] theorem State.alertOn_alert (s : State) : s.alertOn.pwr.alert = true := by
  unfold State.alertOn
  split
  · assumption
  · rfl

@[simp] theorem State.alertOn_store (s : State) : s.alertOn.store = s.store := State.store_of_besidePosts s.besidePosts_alertOn

/-- The power state without ALERT_N, the tray's copy of its events and the logs. -/
def Power.besideReports (p : Power) : Power := { p.besideLogs with alert := false, trayEvents := 0 }

theorem State.besideReports_alertOn (s : State) : s.alertOn.pwr.besideReports = s.pwr.besideReports := by
  unfold State.alertOn
  split <;> rfl

theorem State.besideReports_logError {s : State} {cls : Nat} (kind unit code detail : Nat) (h : 3 ≤ cls) :
    (s.logError cls kind unit code detail).pwr.besideReports = s.pwr.besideReports :=
  congrArg (fun p : Power => { p with alert := false, trayEvents := 0 }) (State.besideLogs_logError kind unit code detail h)

theorem State.besideReports_powerEvent (s : State) (f : Fld) : (s.powerEvent f).pwr.besideReports = s.pwr.besideReports := by
  unfold State.powerEvent
  exact State.when_keeps (π := fun t => t.pwr.besideReports) _ _ fun t => t.besideReports_alertOn

theorem State.powerEvent_regs (s : State) (f : Fld) : (s.powerEvent f).regs = (s.ev f).regs := by
  unfold State.powerEvent
  exact State.when_keeps (π := fun t => t.regs) _ _ fun t => t.alertOn_regs

theorem State.rd_powerEvent_same {s : State} {f : Fld} (hw : f.width = 1) (hs : regSorted s.regs = true) : (s.powerEvent f).rd f = 1 := by
  rw [State.rd_of_regs _ _ _ _ (s.powerEvent_regs f), State.ev, State.rd_wr_same _ _ _ _ hs, hw]
  rfl

theorem State.rd_powerEvent_other {s : State} {f g : Fld} {j : Nat} (h : regKey g 0 j ≠ regKey f 0 0) : (s.powerEvent f).rd g j = s.rd g j :=
  (State.rd_of_regs _ _ _ _ (s.powerEvent_regs f)).trans (State.rd_wr_other _ _ _ _ _ _ h)

@[simp] theorem State.powerEvent_store (s : State) (f : Fld) : (s.powerEvent f).store = s.store := by
  unfold State.powerEvent
  exact State.when_keeps (π := fun t => t.store) _ _ fun t => t.alertOn_store

end Sys2Proof.Machine
end

section
/-!
LAWS. What a loss of main power leaves (R671 to R674), whatever declared it.
-/
namespace Sys2Proof.Machine

@[simp] theorem Power.besideReports_mode (p : Power) : p.besideReports.mode = p.mode := rfl

@[simp] theorem Power.besideReports_gauge (p : Power) : p.besideReports.gauge = p.gauge := rfl

@[simp] theorem Power.besideReports_efuse (p : Power) : p.besideReports.efuse = p.efuse := rfl

end Sys2Proof.Machine

namespace Sys2Proof.Claims
open Sys2Proof Sys2Proof.Machine

/-- The entry into Fermata keeps the store, with staging out of SRAM (R672, R673). -/
theorem powerLost_fermataEnter (s : State) (cause : Nat) (image : Bool) : powerLost (s.fermataEnter cause image) true :=
  ⟨rfl, rfl, rfl, rfl, rfl, rfl, rfl, rfl, fun h => absurd h (by decide)⟩

/-- A refused entry loses the store (R674). -/
theorem powerLost_fermataRefuse (s : State) : powerLost s.fermataRefuse false := ⟨rfl, rfl, rfl, rfl, rfl, rfl, rfl, rfl, fun _ => rfl⟩

/-- A core that works loses its power with the store kept where the entry is planned or the gauge is armed (R671 to R674). -/
theorem powerLost_powerFail {s : State} (cause : Nat) (planned : Bool) (h : coreWorks s) :
    powerLost (s.powerFail cause planned) (planned || s.pwr.gauge.armed) := by
  have hworks : s.powerFail cause planned = if (planned || s.pwr.gauge.armed) = true then s.fermataEnter cause s.canImage else s.fermataRefuse := by
    unfold State.powerFail
    rcases h with h | h | h <;> rw [h]
  rw [hworks]
  cases planned || s.pwr.gauge.armed with
  | false => exact powerLost_fermataRefuse s
  | true => exact powerLost_fermataEnter s cause s.canImage

/-- `powerLost` speaks of nothing that an added wait for PWR_EN changes. -/
theorem powerLost_waitPwrEn {s : State} {kept : Bool} (h : powerLost s kept) : powerLost (s.pwrMap (fun p => { p with waitPwrEn := true })) kept := h

theorem alert_logError {s : State} {cls : Nat} (kind unit code detail : Nat) (h : 3 ≤ cls) :
    (s.logError cls kind unit code detail).pwr.alert = s.pwr.alert :=
  (congrArg Power.alert (State.besideLogs_logError kind unit code detail h) :)

/-! ## The trip of the e-fuse (R661, R663, R664) -/

/-- The limits of the e-fuse are passed for their times. -/
def efuseTrips (ma mv durNs : Nat) : Prop := 9000 < ma ∨ (5400 < ma ∧ 10000000 < durNs) ∨ (60000 < mv ∧ 1000 < durNs)

/-- The e-fuse after a trip: the third within 600 s of the first locks it. -/
def tripped (s : State) : Efuse :=
  ⟨true, s.pwr.efuse.locked || (match s.pwr.efuse.trips with | _ :: first :: _ => decide (s.clk.now ≤ first + ns 600000000000) | _ => false),
    s.clk.now :: s.pwr.efuse.trips.take 1⟩

/-- A trip as it is counted and reported, before main power is lost. -/
def efuseReported (s : State) (ma mv : Nat) : State :=
  let u := s.pwrMap (fun p => { p with efuse := tripped s, faultTrips := p.faultTrips + 1, inputMa := ma, busMv := mv })
  let v := (((u.inc pwrEfuseTrips).wr pwrEfuseLocked 0 (if (tripped s).locked then 1 else 0)).powerEvent pwrEventEfuseTrip).alertOn
  v.logError 3 10 0 59 (v.rd pwrEfuseTrips)

theorem efuseTrip_trips {s : State} {ma mv durNs t : Nat} (h : efuseTrips ma mv durNs) (hon : (s.advance t).pwr.switchOn = true)
    (hfresh : (s.advance t).pwr.efuse.tripped = false) :
    s.efuseTrip ma mv durNs t = (efuseReported (s.advance t) ma mv).powerFail 2 false := by
  unfold State.efuseTrip
  have hno : ¬ (¬ (9000 < ma ∨ (5400 < ma ∧ 10000000 < durNs) ∨ (60000 < mv ∧ 1000 < durNs)) ∨ (!(s.advance t).pwr.switchOn) = true ∨
      (s.advance t).pwr.efuse.tripped = true) := by
    rintro (hn | hoff | hold)
    · exact hn h
    · simp [hon] at hoff
    · simp [hfresh] at hold
  dsimp only
  rw [if_neg hno]
  rfl

theorem efuseTrip_idle {s : State} {ma mv durNs t : Nat} (h : ¬ efuseTrips ma mv durNs ∨ (s.advance t).pwr.switchOn = false) :
    s.efuseTrip ma mv durNs t = s.advance t := by
  unfold State.efuseTrip
  refine if_pos ?_
  rcases h with h | h
  · exact .inl h
  · exact .inr (.inl (by simp [h]))

section
variable {s : State} (ma mv : Nat)

theorem efuseReported_besideReports : (efuseReported s ma mv).pwr.besideReports =
    { s.pwr.besideReports with efuse := tripped s, faultTrips := s.pwr.faultTrips + 1, inputMa := ma, busMv := mv } := by
  unfold efuseReported
  dsimp only
  rw [State.besideReports_logError _ _ _ _ (by decide), State.besideReports_alertOn, State.besideReports_powerEvent]
  rfl

theorem efuseReported_mode : (efuseReported s ma mv).pwr.mode = s.pwr.mode := by
  rw [← Power.besideReports_mode, efuseReported_besideReports]
  rfl

theorem efuseReported_gauge : (efuseReported s ma mv).pwr.gauge = s.pwr.gauge := by
  rw [← Power.besideReports_gauge, efuseReported_besideReports]
  rfl

theorem efuseReported_efuse : (efuseReported s ma mv).pwr.efuse = tripped s := by
  rw [← Power.besideReports_efuse, efuseReported_besideReports]

theorem efuseReported_alert : (efuseReported s ma mv).pwr.alert = true := by
  unfold efuseReported
  dsimp only
  rw [alert_logError _ _ _ _ (by decide), State.alertOn_alert]

theorem efuseReported_store : (efuseReported s ma mv).store = s.store := by
  unfold efuseReported
  dsimp only
  rw [State.logError_store, State.alertOn_store, State.powerEvent_store]
  rfl

theorem rd_efuseReported (hs : regSorted s.regs = true) :
    (efuseReported s ma mv).rd pwrEventEfuseTrip = 1 ∧ (efuseReported s ma mv).rd pwrEfuseTrips = min (s.rd pwrEfuseTrips + 1) 65535 := by
  unfold efuseReported
  dsimp only
  rw [State.rd_logError _ _ _ _ (by decide) (by decide), State.rd_logError _ _ _ _ (by decide) (by decide), State.rd_alertOn, State.rd_alertOn]
  refine ⟨State.rd_powerEvent_same rfl (State.sorted_wr (State.sorted_wr (s := s.pwrMap _) hs _ _ _) _ _ _), ?_⟩
  rw [State.rd_powerEvent_other (by decide), State.rd_wr_other _ _ _ _ _ _ (by decide), State.inc, State.rd_wr_same (s.pwrMap _) _ _ _ hs]
  exact Nat.mod_eq_of_lt (Nat.lt_of_le_of_lt (Nat.min_le_right _ _) (by decide))

end

end Sys2Proof.Claims
end

section
/-!
PROOFS. The ways main power is lost, and what is kept in Fermata (R661, R671 to R674, R772).
-/
namespace Sys2Proof.Claims
open Sys2Proof Sys2Proof.Machine

theorem exec_pwrEnLow (t : Nat) (s : State) : exec (.pwrEnLow t) s = .next (s.pwrEnLow t) := rfl

theorem exec_converterFault (t : Nat) (s : State) : exec (.converterFault t) s = .next (s.converterFault t) := rfl

theorem exec_busUndervoltage (mv durNs t : Nat) (s : State) : exec (.busUndervoltage mv durNs t) s = .next (s.busLow mv durNs t) := rfl

theorem exec_efuseTrip (ma mv durNs t : Nat) (s : State) : exec (.efuseTrip ma mv durNs t) s = .next (s.efuseTrip ma mv durNs t) := rfl

theorem exec_thermalTrip (tj : Nat) (s : State) : exec (.thermalTrip tj) s = .next (s.thermalTrip tj) := rfl

/-- PWR_EN low is the planned entry (R673). -/
theorem answers_pwrEnLow {s : State} {t : Nat} (h : coreWorks (s.advance t)) :
    ∃ v, Answers (.pwrEnLow t) s v ∧ powerLost v true ∧ v.pending = s.pending :=
  ⟨_, exec_pwrEnLow t s, powerLost_powerFail (s := (s.advance t).pwrMap fun p => { p with pwrEn := false }) 4 true h, (exec_keeps _ (.refl s) _ (exec_pwrEnLow t s)).pending⟩

section
variable {s : State} {t : Nat} (hworks : coreWorks (s.advance t)) (hon : (s.advance t).pwr.switchOn = true)
include hworks hon

theorem answers_converterFault : ∃ v, Answers (.converterFault t) s v ∧ powerLost v (s.advance t).pwr.gauge.armed := by
  refine ⟨_, exec_converterFault t s, ?_⟩
  rw [State.converterFault, if_pos hon]
  exact powerLost_powerFail 3 false hworks

/-- A bus below 46.0 V for 2 µs (R671). -/
theorem answers_busUndervoltage {mv durNs : Nat} (hmv : mv < 46000) (hdur : 2000 ≤ durNs) :
    ∃ v, Answers (.busUndervoltage mv durNs t) s v ∧ powerLost v (s.advance t).pwr.gauge.armed := by
  refine ⟨_, exec_busUndervoltage mv durNs t s, ?_⟩
  have hlow : ¬ (46000 ≤ mv ∨ durNs < 2000) := by omega
  rw [State.busLow, if_neg hlow]
  dsimp only
  rw [State.pwrMap_pwr, if_pos hon]
  exact powerLost_powerFail (s := (s.advance t).pwrMap fun p => { p with busMv := mv, busGoodFrom := none }) 1 false hworks

theorem answers_efuseTrip {ma mv durNs : Nat} (hsound : s.sound = true) (hfresh : (s.advance t).pwr.efuse.tripped = false)
    (htrips : efuseTrips ma mv durNs) : ∃ w : State, Answers (.efuseTrip ma mv durNs t) s (w.powerFail 2 false) ∧
      powerLost (w.powerFail 2 false) (s.advance t).pwr.gauge.armed ∧ w.pwr.efuse.tripped = true ∧ w.rd pwrEventEfuseTrip = 1 ∧
      w.rd pwrEfuseTrips = min ((s.advance t).rd pwrEfuseTrips + 1) 65535 ∧ w.pwr.alert = true ∧ w.store = (s.advance t).store := by
  obtain ⟨hevent, hcount⟩ := rd_efuseReported (s := s.advance t) ma mv (State.regs_sorted ((Follows.refl s).advance.sound hsound))
  have hlost := powerLost_powerFail (s := efuseReported (s.advance t) ma mv) 2 false (by rwa [coreWorks, efuseReported_mode])
  rw [Bool.false_or, efuseReported_gauge] at hlost
  exact ⟨_, (exec_efuseTrip ma mv durNs t s).trans (congrArg _ (efuseTrip_trips htrips hon hfresh)), hlost,
    by rw [efuseReported_efuse]; rfl, hevent, hcount, efuseReported_alert ma mv, efuseReported_store ma mv⟩

end

/-- A junction at 115 °C is the planned entry, after which PWR_EN must go low and high again (R772). -/
theorem answers_thermalTrip {s : State} {tj : Nat} (hworks : coreWorks s) (hon : s.pwr.coreOn = true) (htj : 1150 ≤ tj) :
    ∃ v, Answers (.thermalTrip tj) s v ∧ powerLost v true ∧ v.pwr.waitPwrEn = true := by
  refine ⟨_, exec_thermalTrip tj s, ?_⟩
  have hhot : ¬ (tj < 1150 ∨ (!(s.pwrMap fun p => { p with tj := tj }).pwr.coreOn) = true) := by
    rintro (h | h)
    · omega
    · simp [hon] at h
  rw [State.thermalTrip, if_neg hhot]
  refine ⟨powerLost_waitPwrEn (powerLost_powerFail 6 true ?_), rfl⟩
  rw [coreWorks, ← Power.besideReports_mode, State.besideReports_logError _ _ _ _ (by decide), State.besideReports_powerEvent]
  exact hworks

theorem answers_thermalTrip_cool {s : State} {tj : Nat} (h : tj < 1150 ∨ s.pwr.coreOn = false) :
    Answers (.thermalTrip tj) s (s.pwrMap (fun p => { p with tj := tj })) := by
  rw [Answers, exec_thermalTrip, State.thermalTrip, if_pos (h.imp_right fun hoff => by simp [hoff])]

/-- Settles O15: each way by what its powerFail leaves, and each dip or surge below its limits by the branch that takes no power. -/
theorem powerLossEntersFermata : Obligations.PowerLossEntersFermata := by
  intro s t
  dsimp only
  refine ⟨fun hworks => ⟨answers_pwrEnLow hworks, fun hon => ⟨answers_converterFault hworks hon, fun mv durNs => answers_busUndervoltage hworks hon,
      fun ma mv durNs hsound hfresh htrips => answers_efuseTrip hworks hon hsound hfresh htrips⟩⟩,
    fun hoff => ⟨?_, fun ma mv durNs => (exec_efuseTrip ma mv durNs t s).trans (congrArg _ (efuseTrip_idle (.inr hoff)))⟩, fun mv durNs h => ?_,
    fun ma mv durNs hma hmv => (exec_efuseTrip ma mv durNs t s).trans (congrArg _ (efuseTrip_idle (.inl ?_))),
    fun hworks hon tj => answers_thermalTrip hworks hon, fun tj => answers_thermalTrip_cool⟩
  · rw [Answers, exec_converterFault, State.converterFault, hoff]
    rfl
  · rw [Answers, exec_busUndervoltage, State.busLow, if_pos h]
  · unfold efuseTrips
    omega

end Sys2Proof.Claims
end

section
/-!
PROOFS. What closes the hot-swap switch, and the exit from Fermata (R657, R677, R682, R683).
-/
namespace Sys2Proof.Machine

@[simp] theorem Power.besideReports_ejectOpen (p : Power) : p.besideReports.ejectOpen = p.ejectOpen := rfl

end Sys2Proof.Machine

namespace Sys2Proof.Claims
open Sys2Proof Sys2Proof.Machine

theorem exec_eject (s : State) : exec .eject s = .next s.eject := rfl

theorem exec_ejectClose (s : State) : exec .ejectClose s = .next s.ejectClose := rfl

theorem exec_trayBusReturn (mv t : Nat) (s : State) : exec (.trayBusReturn mv t) s = .next (s.busReturn mv t) := rfl

theorem exec_pwrEnHigh (mv t : Nat) (s : State) : exec (.pwrEnHigh mv t) s = .next (s.pwrEnHigh mv t) := rfl

theorem exec_fermataExit (t : Nat) (s : State) : exec (.fermataExit t) s = .next (s.fermataExit t) := rfl

/-- The module bus is in the range of a start (R657). -/
abbrev startRange (mv : Nat) : Prop := 45000 ≤ mv ∧ mv ≤ 60000

/-- The hot-swap switch closed, with the start that a bus in range makes due (R657, R682). -/
def closed (p : Power) : Power :=
  { p with switchOn := true, pwrGood := decide (startRange p.busMv), startDue := if startRange p.busMv then some p.kind else none }

theorem tryClose_of_mayClose {s : State} (h : mayClose s.pwr) : s.tryClose = s.pwrMap closed := by
  obtain ⟨hen, haux, hmgc, htripped, hlocked, hsession, heject, hwait, hmode, hdue⟩ := h
  unfold State.tryClose
  dsimp only
  rw [if_neg (by simp [hen, haux, hmgc, htripped, hlocked, hsession, heject, hwait, hmode])]
  have hclosed (due : Option StartKind) (h : due = if startRange s.pwr.busMv then some s.pwr.kind else none) :
      s.pwrMap (fun p => { p with switchOn := true, pwrGood := decide (startRange s.pwr.busMv), startDue := due }) = s.pwrMap closed := by
    rw [h]
    rfl
  by_cases hr : startRange s.pwr.busMv
  · rw [if_pos ⟨decide_eq_true hr, hdue⟩]
    exact hclosed _ (if_pos hr).symm
  · rw [if_neg fun hc => hr (of_decide_eq_true hc.1)]
    exact hclosed s.pwr.startDue (hdue.trans (if_neg hr).symm)

theorem tryClose_disabled {s : State} (h : s.pwr.pwrEn = false) : s.tryClose = s := by
  unfold State.tryClose
  exact if_pos (by simp [h])

theorem stageNext_idle {s : State} (h : s.pwr.fwWait = []) : s.stageNext = s := by
  unfold State.stageNext
  rw [h]

theorem answers_eject_open {s : State} (h : s.pwr.ejectOpen = true) : Answers .eject s s := by
  have hsame : ({ s.pwr with ejectOpen := true } : Power) = s.pwr := by rw [← h]
  rw [Answers, exec_eject, State.eject, if_pos (.inl h), State.pwrMap, hsame]

/-- The lever opened on a module with auxiliary power is an event (R683). -/
theorem answers_eject {s : State} (hsound : s.sound = true) (h : s.pwr.ejectOpen = false) (haux : s.pwr.aux = true) :
    ∃ v, Answers .eject s v ∧ v.pwr.ejectOpen = true ∧ v.rd pwrEventEject = 1 ∧ v.store = s.store ∧ v.pwr.mode = s.pwr.mode := by
  refine ⟨_, exec_eject s, ?_⟩
  rw [State.eject, if_neg (by simp [h, haux])]
  refine ⟨?_, State.rd_powerEvent_same (s := s.pwrMap _) rfl (State.regs_sorted hsound), State.powerEvent_store _ _, ?_⟩
  · rw [← Power.besideReports_ejectOpen, State.besideReports_powerEvent]
    rfl
  · rw [← Power.besideReports_mode, State.besideReports_powerEvent]
    rfl

theorem answers_ejectClose {s : State} (h : mayClose { s.pwr with ejectOpen := false }) :
    Answers .ejectClose s (s.pwrMap fun p => closed { p with ejectOpen := false }) := by
  rw [Answers, exec_ejectClose, State.ejectClose, tryClose_of_mayClose h]
  rfl

theorem busReturn_of_mayClose {s : State} {mv t : Nat} (h : mayClose (s.advance t).pwr) :
    s.busReturn mv t = ((s.advance t).busNow mv).pwrMap closed := tryClose_of_mayClose (s := (s.advance t).busNow mv) h

theorem busReturn_disabled {s : State} {mv t : Nat} (h : (s.advance t).pwr.pwrEn = false) : s.busReturn mv t = (s.advance t).busNow mv :=
  tryClose_disabled (s := (s.advance t).busNow mv) h

/-- PWR_EN high ends an open session and closes the switch (R682, R695). -/
theorem pwrEnHigh_of_mayClose {s : State} {mv t : Nat} (hlow : (s.advance t).pwr.pwrEn = false) (hidle : (s.advance t).pwr.fwWait = [])
    (h : mayClose { (s.advance t).pwr with pwrEn := true, waitPwrEn := false, session := none }) :
    s.pwrEnHigh mv t = (((s.advance t).busNow mv).pwrMap fun p => { p with pwrEn := true, waitPwrEn := false, session := none }).pwrMap closed := by
  unfold State.pwrEnHigh
  dsimp only
  rw [if_neg (by simp [State.busNow, hlow]), stageNext_idle (by exact hidle)]
  exact tryClose_of_mayClose (s := ((s.advance t).busNow mv).pwrMap _) h

/-- The chip after the exit from Fermata has begun (R677). -/
def exiting (p : Power) : Power := { p with switchOn := true, pwrGood := true, mode := .starting, kind := .fermata, startDue := some .fermata }

section
variable {s : State} {t from_ : Nat} (hgood : (s.advance t).pwr.busGoodFrom = some from_)
include hgood

theorem fermataExit_early (h : (s.advance t).clk.now < from_ + ns 10000000) : s.fermataExit t = s.advance t := by
  unfold State.fermataExit
  dsimp only
  rw [hgood]
  exact if_pos (.inr (.inr (.inl (by simp [h]))))

theorem fermataExit_begins (h : mayClose { (s.advance t).pwr with mode := .off }) (hmode : (s.advance t).pwr.mode = .fermata)
    (hsteady : from_ + ns 10000000 ≤ (s.advance t).clk.now) (hmrst : (s.advance t).pwr.mrstInFermata = false) :
    s.fermataExit t = (s.advance t).pwrMap exiting := by
  obtain ⟨hen, haux, hmgc, htripped, hlocked, hsession, heject, hwait, -, hdue⟩ := h
  dsimp only at hen haux hmgc htripped hlocked hsession heject hwait hdue
  unfold State.fermataExit
  dsimp only
  rw [hgood, if_neg (by simp [hen, haux, hmgc, htripped, hlocked, hsession, heject, hwait, hmode, hdue, hsteady]), State.pwrMap_pwr, hmrst, State.when_false]
  rfl

end

/-- Settles O16: every way to close the switch ends in `closed`, and the exit begins once the bus has been good for 10 ms. -/
theorem powerComesBack : Obligations.PowerComesBack := by
  intro s
  refine ⟨answers_eject_open, answers_eject, fun h => ⟨_, answers_ejectClose h, rfl, rfl, rfl, rfl, rfl⟩, fun t mv => ?_⟩
  dsimp only
  refine ⟨fun h => ⟨_, (exec_trayBusReturn mv t s).trans (congrArg _ (busReturn_of_mayClose h)), rfl, rfl, rfl, rfl⟩,
    fun h => ⟨_, (exec_trayBusReturn mv t s).trans (congrArg _ (busReturn_disabled h)), rfl, rfl⟩,
    fun hlow hidle h => ⟨_, (exec_pwrEnHigh mv t s).trans (congrArg _ (pwrEnHigh_of_mayClose hlow hidle h)), rfl, rfl, rfl, rfl⟩,
    fun h hmode from_ hgood => ⟨fun hearly => (exec_fermataExit t s).trans (congrArg _ (fermataExit_early hgood hearly)), fun hsteady hmrst => ?_⟩⟩
  exact ⟨_, (exec_fermataExit t s).trans (congrArg _ (fermataExit_begins hgood h hmode hsteady hmrst)), rfl, rfl, rfl, rfl, rfl⟩

end Sys2Proof.Claims
end

section
/-!
LAWS. The start of the always-on domain (R786) and the fault of the gauge (R668).
-/
namespace Sys2Proof.Machine

/-- The serial port master set up for service, and the flash in octal mode (R786). -/
def State.flashServed (s : State) : State :=
  let dummy := (Config.measured s.free).toNat
  let s := (((((s.wr spmClkDiv 0 1).wr spmXipCfgCmd 0 0xEE11).wr spmXipCfgLanes 0 63).wr spmXipCfgDdr 0 7).wr spmXipCfgDuplex 0 0)
  let s := ((s.wr spmXipCfgDummy 0 dummy).wr spmXipCfgDqs 0 (dummy / 32)).tickFree
  s.spmMap (fun m => { m with octal := true })

/-- The MGC runs from the bank that boots, the active one first (R698, R786). -/
def State.mgcStarted (s : State) : State :=
  if s.bankBoots s.pwr.boot.active then s.pwrMap (fun p => { p with mgc := true })
  else if s.bankBoots s.inactive then s.fallBack.pwrMap (fun p => { p with mgc := true }) else s

/-- The bleed at the start: a bank below 36 V needs none (R666). -/
def bleedStarted (g : Gauge) : Gauge := if g.bankMv < 36000 then { g with bled := true, qUc := 0 } else { g with bleeding := true }

theorem bleedStarted_fresh (mv : Nat) : (bleedStarted ⟨mv, 0, false, false, false, false⟩).bleeding = decide (36000 ≤ mv) ∧
    (bleedStarted ⟨mv, 0, false, false, false, false⟩).bled = decide (mv < 36000) := by
  unfold bleedStarted
  by_cases h : mv < 36000
  · simp only [h, if_true, decide_true, decide_eq_false (by omega : ¬ 36000 ≤ mv), and_self]
  · simp only [h, if_false, decide_false, decide_eq_true (by omega : 36000 ≤ mv), and_self]

/-- The auxiliary supply is good again after its loss. -/
def State.auxBack (s : State) (auxMv : Nat) : State := s.auxLoss.pwrMap (fun p => { p with aux := true, auxMv := auxMv })

theorem State.auxStart_stages (s : State) (mv : Nat) : s.auxStart mv = (s.auxBack mv).pinsReset.flashServed.mgcStarted.gaugeMap bleedStarted := rfl

theorem State.mgcStarted_pwrMap (s : State) : ∃ (mgc : Bool) (boot : Boot) (evLog : List Bytes) (free : Nat),
    s.mgcStarted = { s.pwrMap (fun p => { p with mgc := mgc, boot := boot, evLog := evLog }) with free := free } := by
  unfold State.mgcStarted
  split
  · exact ⟨true, s.pwr.boot, s.pwr.evLog, s.free, rfl⟩
  split
  · exact ⟨true, s.fallBack.pwr.boot, s.fallBack.pwr.evLog, s.fallBack.free, rfl⟩
  · exact ⟨s.pwr.mgc, s.pwr.boot, s.pwr.evLog, s.free, rfl⟩

theorem State.rd_pinsReset_locked {s : State} (h : regSorted s.regs = true) : s.pinsReset.rd gpioLockedPins = 0xFFFF := by
  unfold State.pinsReset
  dsimp only
  refine (State.rd_wr_same _ _ _ _ ?_).trans rfl
  exact regSorted_filter _ _ h

theorem State.rd_flashServed_locked (s : State) : s.flashServed.rd gpioLockedPins = s.rd gpioLockedPins := by
  have hrest (u : State) (v w : Nat) : (((u.wr spmXipCfgDummy 0 v).wr spmXipCfgDqs 0 w).tickFree.spmMap fun m => { m with octal := true }).rd
      gpioLockedPins = u.rd gpioLockedPins := by
    refine Eq.trans (b := ((u.wr spmXipCfgDummy 0 v).wr spmXipCfgDqs 0 w).rd gpioLockedPins) rfl ?_
    simp (disch := decide) only [State.rd_wr_other]
  unfold State.flashServed
  dsimp only
  rw [hrest]
  simp (disch := decide) only [State.rd_wr_other]

/-- A good start of the auxiliary supply (R786), with the pins locked and the bank's bleed begun. -/
theorem State.auxStart_starts {s : State} (hs : s.sound = true) (mv : Nat) :
    (s.auxStart mv).pwr.aux = true ∧ (s.auxStart mv).pwr.auxMv = mv ∧ (s.auxStart mv).pwr.mode = .off ∧ (s.auxStart mv).pwr.coreOn = false ∧
      (s.auxStart mv).store = storeReset ∧ (s.auxStart mv).rd gpioLockedPins = 0xFFFF ∧
      (s.auxStart mv).pwr.gauge = bleedStarted ⟨s.pwr.gauge.bankMv, 0, false, false, false, false⟩ ∧ (s.auxStart mv).pwr.spm.octal = true := by
  have hsorted : regSorted (s.auxBack mv).regs = true := State.regs_sorted ((Follows.refl s).auxLoss.sound hs)
  have hlocked := (State.rd_flashServed_locked (s.auxBack mv).pinsReset).trans (State.rd_pinsReset_locked hsorted)
  obtain ⟨mgc, boot, evLog, free, heq⟩ := (s.auxBack mv).pinsReset.flashServed.mgcStarted_pwrMap
  rw [State.auxStart_stages, heq]
  refine ⟨rfl, rfl, rfl, rfl, rfl, ?_, rfl, rfl⟩
  rw [State.rd_of_regs (s.auxBack mv).pinsReset.flashServed, hlocked]
  rfl

theorem State.powerEvent_gauge (s : State) (f : Fld) : (s.powerEvent f).pwr.gauge = s.pwr.gauge := by
  rw [← Power.besideReports_gauge, State.besideReports_powerEvent, Power.besideReports_gauge]

theorem State.gaugeFault_gauge (s : State) : s.gaugeFault.pwr.gauge = { s.pwr.gauge with fault := true } := by
  unfold State.gaugeFault
  split
  case isTrue h => rw [← h]
  case isFalse =>
    dsimp only
    rw [← Power.besideReports_gauge, State.besideReports_logError _ _ _ _ (by decide), State.besideReports_alertOn, Power.besideReports_gauge]
    exact State.powerEvent_gauge (s.gaugeMap _) _

/-- The retention lost (R675): the store is gone, and a record that stands says so. -/
theorem State.retentionLost_loses (s : State) : s.retentionLost.pwr.mode = .off ∧ s.retentionLost.pwr.retained = false ∧
    s.retentionLost.store = storeReset ∧ s.retentionLost.pwr.kind = .porCore ∧
    ∀ r, s.pwr.record = some r → ∃ r', s.retentionLost.pwr.record = some r' ∧ r'.outcome = 2 := by
  have hrecord : s.retentionLost.pwr.record = s.pwr.record.map fun r => { r with outcome := 2, holdMs := (s.clk.now - r.entered) / 768000000 } := by
    unfold State.retentionLost
    dsimp only
    split <;> rfl
  refine ⟨?_, ?_, rfl, ?_, fun r hr => ⟨_, hrecord.trans (congrArg _ hr), rfl⟩⟩ <;>
  · unfold State.retentionLost
    dsimp only
    split <;> rfl

end Sys2Proof.Machine
end

section
/-!
PROOFS. The start, the dip and the loss of the auxiliary supply (R666, R675, R758, R786, R788).
-/
namespace Sys2Proof.Claims
open Sys2Proof Sys2Proof.Machine

theorem exec_auxPowerGood (mv t : Nat) (s : State) : exec (.auxPowerGood mv t) s = .next ((s.advance t).auxStart mv) := rfl

theorem exec_aonPllUnlock (t : Nat) (s : State) : exec (.aonPllUnlock t) s = .next (s.advance t).aonPllUnlock := rfl

theorem exec_auxPowerLoss (t : Nat) (s : State) : exec (.auxPowerLoss t) s = .next (s.advance t).auxLoss := rfl

theorem exec_auxDip (mv durNs t : Nat) (s : State) : exec (.auxDip mv durNs t) s = .next (s.auxDip mv durNs t) := rfl

theorem exec_bleedEnd (mv t : Nat) (s : State) : exec (.bleedEnd mv t) s = .next (s.bleedEnd mv t) := rfl

section
variable {s : State} {t : Nat}

theorem auxDip_fermata {mv durNs : Nat} (hmv : mv < 3000) (hdur : 10000 ≤ durNs) (h : (s.advance t).pwr.mode = .fermata) :
    s.auxDip mv durNs t = ((s.advance t).pwrMap fun p => { p with auxMv := mv }).retentionLost := by
  unfold State.auxDip
  exact if_pos ⟨hmv, hdur, .inl h⟩

theorem auxDip_short {mv durNs : Nat} (h : 3000 ≤ mv ∨ durNs < 10000) : s.auxDip mv durNs t = (s.advance t).pwrMap fun p => { p with auxMv := mv } := by
  unfold State.auxDip
  exact if_neg (by omega)

theorem bleedEnd_idle {mv : Nat} (h : (s.advance t).pwr.gauge.bleeding = false) : s.bleedEnd mv t = s.advance t := by
  unfold State.bleedEnd
  exact if_pos (by rw [h]; rfl)

/-- The bleed ended (R666), the gauge at fault where the bank still stands at 36 V or more (R668). -/
theorem bleedEnd_gauge {mv : Nat} (h : (s.advance t).pwr.gauge.bleeding = true) : (s.bleedEnd mv t).pwr.gauge =
    { bankMv := mv, qUc := 0, bleeding := false, bled := true, fault := (s.advance t).pwr.gauge.fault || decide (36000 ≤ mv),
      armed := (s.advance t).pwr.gauge.armed } := by
  unfold State.bleedEnd
  dsimp only
  rw [if_neg (by simp [h])]
  by_cases hlow : mv < 36000
  · rw [decide_eq_true hlow, decide_eq_false (by omega : ¬ 36000 ≤ mv), Bool.or_false]
    rfl
  · rw [decide_eq_false hlow, decide_eq_true (by omega : 36000 ≤ mv), Bool.or_true, Bool.not_false, State.when_true, State.gaugeFault_gauge]
    rfl

end

/-- Settles O17: the start by its stages, the dip by what the loss of retention leaves, the bleed by the gauge it leaves. -/
theorem auxiliarySupply : Obligations.AuxiliarySupply := by
  intro s t hsound
  have husound : (s.advance t).sound = true := (Follows.refl s).advance.sound hsound
  dsimp only
  refine ⟨fun mv => ?_, fun haux => ?_, ⟨_, exec_auxPowerLoss t s, rfl, rfl, rfl, rfl, rfl, rfl, rfl, rfl⟩,
    fun mv durNs => ⟨fun hmv hdur hmode => ?_, fun h => (exec_auxDip mv durNs t s).trans (congrArg _ (auxDip_short h))⟩,
    fun mv => ⟨fun h => (exec_bleedEnd mv t s).trans (congrArg _ (bleedEnd_idle h)), fun h => ⟨_, exec_bleedEnd mv t s, ?_⟩⟩⟩
  · obtain ⟨haux, hmv, hmode, hcore, hstore, hlocked, hgauge, hoctal⟩ := State.auxStart_starts husound mv
    refine ⟨_, exec_auxPowerGood mv t s, haux, hmv, hmode, hcore, hstore, hlocked, ?_, ?_, hoctal⟩ <;> rw [hgauge]
    · exact (bleedStarted_fresh _).1
    · exact (bleedStarted_fresh _).2
  · rw [Answers, exec_aonPllUnlock, State.aonPllUnlock, if_neg (by simp [haux])]
  · exact ⟨_, (exec_auxDip mv durNs t s).trans (congrArg _ (auxDip_fermata hmv hdur hmode)), ((s.advance t).pwrMap _).retentionLost_loses⟩
  · rw [bleedEnd_gauge h]
    exact ⟨rfl, rfl, rfl, rfl, rfl⟩

end Sys2Proof.Claims
end

section
/-!
LAWS. What a fatal error takes and leaves (R842).
-/
namespace Sys2Proof.Machine

theorem State.internalError_regs (s : State) : s.internalError.regs = s.regs := State.each_keeps _ s fun _ _ => rfl

/-- The status and the cause of a fatal error, before it is reported. -/
def State.fatalSet (s : State) (cause : Nat) : State := (s.wr errStatusFatal 0 1).wr errStatusCause 0 cause

/-- The kind of unit of a fatal error: a watchdog names its conductor (R839). -/
def fatalKind (cause : Nat) : Nat := if cause = 2 then 9 else 0

/-- A fatal error recorded. -/
def State.fatalKept (s : State) (cause : Nat) : State := s.pwrMap (fun p => { p with faultCauses := p.faultCauses ++ [cause], fatalAt := s.clk.now })

section
variable {s : State} {cause unit : Nat} (h : s.rd errStatusFatal = 0)
include h

theorem State.fatal_first : s.fatal cause unit =
    (((s.fatalSet cause).logError 5 (fatalKind cause) unit (63 + cause) 0).fatalKept cause).internalError.alertOn.emit .uncorrectable := by
  unfold State.fatal
  rw [if_neg (by rw [h]; decide)]
  rfl

theorem State.rd_fatal (f : Fld) (i : Nat) :
    (s.fatal cause unit).rd f i = ((s.fatalSet cause).logError 5 (fatalKind cause) unit (63 + cause) 0).rd f i := by
  rw [State.fatal_first h, State.rd_of_regs _ _ _ _ (State.emit_regs _ _), State.rd_alertOn, State.rd_of_regs _ _ _ _ (State.internalError_regs _),
    State.fatalKept, Claims.rd_pwrMap]

/-- A register beside the status and the reports keeps its value. -/
theorem State.rd_fatal_kept {f : Fld} {i : Nat} (hf : BesideReports f i) (hfatal : regKey f 0 i ≠ regKey errStatusFatal 0 0)
    (hcause : regKey f 0 i ≠ regKey errStatusCause 0 0) : (s.fatal cause unit).rd f i = s.rd f i := by
  rw [State.rd_fatal h, State.rd_logError _ _ _ _ (by decide) hf, State.fatalSet, State.rd_wr_other _ _ _ _ _ _ hcause,
    State.rd_wr_other _ _ _ _ _ _ hfatal]

/-- A first fatal error: the status, the cause and the event are set, ALERT_N is low, and nothing is live. -/
theorem State.isFatal_fatal (hs : regSorted s.regs = true) (hc : cause < 256) : Claims.isFatal (s.fatal cause unit) cause := by
  have hset : regSorted (s.fatalSet cause).regs = true := State.sorted_wr (State.sorted_wr hs _ _ _) _ _ _
  have hfatal : (s.fatal cause unit).rd errStatusFatal = 1 := by
    rw [State.rd_fatal h, State.rd_logError _ _ _ _ (by decide) (by decide), State.fatalSet, State.rd_wr_other _ _ _ _ _ _ (by decide),
      State.rd_wr_same _ _ _ _ hs]
    rfl
  refine ⟨hfatal, ?_, ?_, ?_, ?_⟩
  · rw [State.rd_fatal h, State.rd_logError _ _ _ _ (by decide) (by decide), State.fatalSet, State.rd_wr_same _ _ _ _ (State.sorted_wr hs _ _ _)]
    exact Nat.mod_eq_of_lt hc
  · rw [State.live, hfatal, Bool.and_eq_false_iff]
    exact .inr rfl
  · rw [State.fatal_first h, State.emit_pwr, State.alertOn_alert]
  · rw [State.rd_fatal h]
    exact State.rd_logError_event (cls := 5) _ _ _ _ (by decide) hset

end

theorem State.fatal_store (s : State) (cause unit : Nat) : (s.fatal cause unit).store = s.store := State.store_of_besidePosts (s.besidePosts_fatal _ _)

theorem State.rd_fatal_of_live {s : State} (h : s.live = true) : s.rd errStatusFatal = 0 := by
  rw [State.live, Bool.and_eq_true, beq_iff_eq, beq_iff_eq] at h
  exact h.2

theorem State.live_inc {s : State} {f : Fld} {i n : Nat} (h : regKey errStatusFatal 0 0 ≠ regKey f 0 i) : (s.inc f i n).live = s.live := by
  rw [State.live, State.live, State.rd_inc_other _ n h]
  rfl

end Sys2Proof.Machine
end

section
/-!
PROOFS. Errors of the chip that are fatal, and those that are contained (R756, R796, R837, R838, R842).
-/
namespace Sys2Proof.Claims
open Sys2Proof Sys2Proof.Machine

theorem exec_corePllUnlock (pll : Fin 16) (s : State) : exec (.corePllUnlock pll) s = .next (s.corePllUnlock pll.val) := rfl

theorem exec_datapathParityError (s : State) : exec .datapathParityError s = .next s.parityError := rfl

theorem exec_watchdog (i : Fin 4) (s : State) : exec (.watchdog i) s = .next (s.watchdog i.val) := rfl

theorem exec_sramDoubleBit (p : Sram) (s : State) : exec (.sramDoubleBit p) s = .next (s.sramDoubleBit p).weaveRun := rfl

theorem sramDoubleBit_dead {s : State} (h : s.live = false) (p : Sram) : s.sramDoubleBit p = s := by
  rw [State.sramDoubleBit, h]
  rfl

/-- A counted double-bit error contained by the memory it hit (R837). -/
def sramContained (u : State) : Sram → State
  | .engine e storage => u.engineFault e.val (storage.val + 1)
  | .tableCache => u.bump strmTcacheRereadCount
  | .candidate cid i => u.candsLost cid (some i)
  | .queryStore cid => u.candsLost cid none
  | .voice cid => u.voiceLost cid
  | .coda cid => u.codaLost cid
  | .intake cid => u.intakeLost cid
  | .control => u.fatal 3 0

theorem answers_sramDoubleBit {s w : State} {p : Sram} (h : s.sramDoubleBit p = w) : Answers (.sramDoubleBit p) s w.weaveRun := by
  rw [Answers, exec_sramDoubleBit, h]

section
variable {s : State} (hsound : s.sound = true)

section
include hsound

theorem answers_corePllUnlock (pll : Fin 16) (ha : s.answers = true) (h : s.rd errStatusFatal = 0) :
    ∃ v, Answers (.corePllUnlock pll) s v ∧ isFatal v 1 ∧ v.rd clkEventUnlock = 1 ∧ v.store = s.store := by
  have hsorted := State.sorted_wr (State.regs_sorted hsound) clkEventUnlock 0 1
  have hclear : ((s.ev clkEventUnlock).pwrMap fun p => { p with pllLost := p.pllLost ||| 2 ^ pll.val }).rd errStatusFatal = 0 := by
    rw [rd_pwrMap, State.rd_ev_other _ (by decide), h]
  refine ⟨_, exec_corePllUnlock pll s, ?_⟩
  rw [State.corePllUnlock, if_pos ha]
  refine ⟨State.isFatal_fatal hclear hsorted (by decide), ?_, State.fatal_store _ _ _⟩
  rw [State.rd_fatal_kept hclear (by decide) (by decide) (by decide), rd_pwrMap, State.ev, State.rd_wr_same _ _ _ _ (State.regs_sorted hsound)]
  rfl

theorem answers_datapathParityError (ha : s.answers = true) (h : s.rd errStatusFatal = 0) :
    ∃ v, Answers .datapathParityError s v ∧ isFatal v 5 ∧ v.store = s.store := by
  refine ⟨_, exec_datapathParityError s, ?_⟩
  rw [State.parityError, if_pos ha]
  exact ⟨State.isFatal_fatal h (State.regs_sorted hsound) (by decide), State.fatal_store _ _ _⟩

end

/-- A second fatal error changes nothing (R842). -/
theorem answers_datapathParityError_second (ha : s.answers = true) (h : s.rd errStatusFatal = 1) : Answers .datapathParityError s s := by
  rw [Answers, exec_datapathParityError, State.parityError, if_pos ha, State.fatal, if_pos h]

section
variable (hlive : s.live = true)
include hlive

theorem sramDoubleBit_live (p : Sram) : s.sramDoubleBit p = sramContained (s.inc errSramUeCount) p := by
  rw [State.sramDoubleBit, hlive]
  cases p <;> rfl

include hsound

/-- A conductor that misses its heartbeats (R796). -/
theorem answers_watchdog (i : Fin 4) :
    ∃ v, Answers (.watchdog i) s v ∧ isFatal v 2 ∧ v.rd cndEventWatchdog = 1 ∧ v.rd cndStateState i.val = 2 := by
  have hsorted := State.regs_sorted hsound
  have hkey : regKey cndStateState 0 i.val = (0x50000 + 4 * i.val) * 32 := by simp [regKey, cndStateState]
  have hstatus : regKey errStatusFatal 0 0 = 0x80004 * 32 := rfl
  have hcause : regKey errStatusCause 0 0 = 0x80004 * 32 + 8 := rfl
  have hwatchdog : regKey cndEventWatchdog 0 0 = 0x50020 * 32 + 1 := rfl
  have hclear : ((s.ev cndEventWatchdog).wr cndStateState i.val 2).rd errStatusFatal = 0 := by
    rw [State.rd_wr_other _ _ _ _ _ _ (by omega), State.rd_ev_other _ (by omega), State.rd_fatal_of_live hlive]
  refine ⟨_, exec_watchdog i s, ?_⟩
  rw [State.watchdog, if_pos hlive]
  refine ⟨State.isFatal_fatal hclear (State.sorted_wr (State.sorted_wr hsorted _ _ _) _ _ _) (by decide), ?_, ?_⟩
  · rw [State.rd_fatal_kept hclear (by decide) (by decide) (by decide), State.rd_wr_other _ _ _ _ _ _ (by omega), State.ev,
      State.rd_wr_same _ _ _ _ hsorted]
    rfl
  · rw [State.rd_fatal_kept hclear (.inl (by omega)) (by omega) (by omega), State.rd_wr_same (s.ev _) _ _ _ (State.sorted_wr hsorted _ _ _)]
    rfl

theorem answers_sramDoubleBit_control : ∃ w : State, Answers (.sramDoubleBit .control) s w.weaveRun ∧ isFatal w 3 ∧
    w.rd errSramUeCount = min (s.rd errSramUeCount + 1) (2 ^ 32 - 1) := by
  have hclear : (s.inc errSramUeCount).rd errStatusFatal = 0 := (State.rd_inc_other s 1 (by decide)).trans (State.rd_fatal_of_live hlive)
  refine ⟨(s.inc errSramUeCount).fatal 3 0, answers_sramDoubleBit (sramDoubleBit_live hlive .control),
    State.isFatal_fatal hclear (State.sorted_wr (State.regs_sorted hsound) _ _ _) (by decide), ?_⟩
  rw [State.rd_fatal_kept hclear (by decide) (by decide) (by decide), State.inc, State.rd_wr_same _ _ _ _ (State.regs_sorted hsound)]
  exact Nat.mod_eq_of_lt (Nat.lt_of_le_of_lt (Nat.min_le_right _ _) (by decide))

/-- A double-bit error in an engine's storage is an engine fault (R837). -/
theorem answers_sramDoubleBit_engine (e : Fin 64) (k : Fin 4) : ∃ w : State, Answers (.sramDoubleBit (.engine e k)) s w.weaveRun ∧
    w = (s.inc errSramUeCount).engineFault e.val (k.val + 1) ∧ (w.engine e.val).slots = [] ∧ (w.engine e.val).inErst = true ∧
      w.rd swpEventEngineFault = 1 := by
  have hcounted : (s.inc errSramUeCount).sound = true := ((Follows.refl s).wr errSramUeCount 0 _).sound hsound
  have hreported := State.sound_engineReported hcounted e.val (k.val + 1)
  obtain ⟨hslots, -, -, -, hreset⟩ := State.erased_erstEngine hreported e
  refine ⟨(s.inc errSramUeCount).engineFault e.val (k.val + 1), answers_sramDoubleBit (sramDoubleBit_live hlive (.engine e k)), rfl, ?_⟩
  rw [State.engineFault_of_live ((State.live_inc (by decide)).trans hlive)]
  exact ⟨hslots, hreset, State.rd_erstEngine_fault hreported e (State.rd_engineReported hcounted e.val _)⟩

end
end

/-- Settles O20: the fatal ones by what `fatal` sets, the contained ones by the memory they name. -/
theorem fatalErrorsStopTheChip : Obligations.FatalErrorsStopTheChip := by
  intro s hsound
  refine ⟨fun ha h => ⟨fun pll => answers_corePllUnlock hsound pll ha h, answers_datapathParityError hsound ha h⟩,
    fun hlive => ⟨answers_watchdog hsound hlive, answers_sramDoubleBit_control hsound hlive, ?_, ?_, answers_sramDoubleBit_engine hsound hlive⟩,
    fun hdead => ⟨fun i => ?_, fun p => ?_⟩, answers_datapathParityError_second, fun hoff => ⟨?_, fun pll => ?_⟩, fun t haux => ?_⟩
  · refine ⟨_, answers_sramDoubleBit (sramDoubleBit_live hlive .tableCache), rfl, ?_⟩
    exact (State.rd_inc_other s 1 (by decide)).trans (State.rd_fatal_of_live hlive)
  · have hby {p : Sram} := answers_sramDoubleBit (sramDoubleBit_live hlive p)
    exact ⟨fun cid i => hby, fun cid => ⟨hby, hby, hby, hby⟩⟩
  · rw [Answers, exec_watchdog, State.watchdog, hdead]
    rfl
  · rw [Answers, exec_sramDoubleBit, sramDoubleBit_dead hdead]
  · rw [Answers, exec_datapathParityError, State.parityError, hoff]
    rfl
  · rw [Answers, exec_corePllUnlock, State.corePllUnlock, hoff]
    rfl
  · obtain ⟨-, -, hmode, -, hstore, -⟩ := State.auxStart_starts ((Follows.refl s).advance (t := t) |>.sound hsound) (s.advance t).pwr.auxMv
    refine ⟨_, ?_, exec_auxPowerGood _ t s, hmode, hstore⟩
    rw [Answers, exec_aonPllUnlock, State.aonPllUnlock, if_pos haux]

end Sys2Proof.Claims
end

section
/-!
LAWS. The gauge: its sample, its faults and its arming (R667 to R669).
-/
namespace Sys2Proof.Machine

/-- The power state beside the gauge, its fault count, ALERT_N and the logs. -/
def Power.besideGauge (p : Power) : Power :=
  { p with gauge := ⟨0, 0, false, false, false, false⟩, faultGauge := 0, alert := false, trayEvents := 0, errLog := [], errThis := 0, evLog := [] }

theorem Power.besideGauge_besideReports (p : Power) : p.besideReports.besideGauge = p.besideGauge := rfl

theorem Power.besideGauge_inputMa (p : Power) : p.besideGauge.inputMa = p.inputMa := rfl

theorem Power.besideGauge_inputMw (p : Power) : p.besideGauge.inputMw = p.inputMw := rfl

theorem Power.besideGauge_tj (p : Power) : p.besideGauge.tj = p.tj := rfl

theorem Power.besideGauge_samples (p : Power) : p.besideGauge.samples = p.samples := rfl

theorem State.besideGauge_of_besideReports {s t : State} (h : t.pwr.besideReports = s.pwr.besideReports) :
    t.pwr.besideGauge = s.pwr.besideGauge := by
  rw [← Power.besideGauge_besideReports, h, Power.besideGauge_besideReports]

theorem State.besideGauge_gaugeFault (s : State) : s.gaugeFault.pwr.besideGauge = s.pwr.besideGauge := by
  unfold State.gaugeFault
  split
  case isTrue => rfl
  case isFalse =>
    refine (State.besideGauge_of_besideReports ((State.besideReports_logError _ _ _ _ (by decide)).trans (State.besideReports_alertOn _))).trans ?_
    have hevent := State.besideGauge_of_besideReports ((s.gaugeMap fun g => { g with fault := true }).besideReports_powerEvent pwrEventGaugeFault)
    exact Eq.trans rfl (hevent.trans rfl)

theorem State.besidePosts_powerEvent (s : State) (f : Fld) : (s.powerEvent f).besidePosts = s.besidePosts := by
  unfold State.powerEvent
  exact State.when_keeps (π := State.besidePosts) _ _ fun t => t.besidePosts_alertOn

/-- A power state with its last ten samples (R700). -/
def Power.tookSample (l : List Nat) (p : Power) : Power := { p with samples := (l :: p.samples).take 10 }

theorem Power.besideGauge_tookSample (l : List Nat) (p : Power) : (p.tookSample l).besideGauge = p.besideGauge.tookSample l := rfl

theorem State.rearm_gauge (s : State) :
    s.rearm.pwr.gauge = { s.pwr.gauge with armed := decide (s.rd pwrQuiesceBudgetMj ≤ s.pwr.gauge.reading) } := by
  have hevent := State.when_keeps (π := fun t => t.pwr.gauge) s (s.pwr.gauge.armed && !decide (s.rd pwrQuiesceBudgetMj ≤ s.pwr.gauge.reading))
    fun t => t.powerEvent_gauge pwrEventUnarmed
  unfold State.rearm
  dsimp only [State.gaugeMap, State.pwrMap_pwr]
  rw [hevent]

theorem State.besideGauge_rearm (s : State) : s.rearm.pwr.besideGauge = s.pwr.besideGauge := by
  unfold State.rearm
  exact State.when_keeps (π := fun t => t.pwr.besideGauge) _ _ fun t => State.besideGauge_of_besideReports (t.besideReports_powerEvent _)

theorem State.rd_rearm_budget (s : State) : s.rearm.rd pwrQuiesceBudgetMj = s.rd pwrQuiesceBudgetMj := by
  unfold State.rearm
  dsimp only [State.gaugeMap]
  rw [Claims.rd_pwrMap]
  exact State.when_keeps (π := fun t => t.rd pwrQuiesceBudgetMj) _ _ fun t => State.rd_powerEvent_other (by decide)

/-- Arming after a re-evaluation (R669). -/
theorem State.rearm_armed (s : State) : s.rearm.pwr.gauge.armed = decide (s.rearm.rd pwrQuiesceBudgetMj ≤ s.rearm.pwr.gauge.reading) := by
  rw [State.rd_rearm_budget, State.rearm_gauge]
  rfl

/-- The gauge with a new voltage reading and the charge counted above Vmin (R667). -/
def gaugeCounted (bankMv : Nat) (dq : Int) (g : Gauge) : Gauge := { g with
  bankMv := bankMv, qUc := if g.bled && (decide (36000 ≤ bankMv) || decide (0 < g.qUc)) then ((g.qUc : Int) + dq).toNat else g.qUc }

/-- The voltage and the charge readings differ by more than 15 % of the larger (R668). -/
abbrev readingsApart (g : Gauge) : Prop :=
  15 * max (gaugeEv g.bankMv) (gaugeEq g.qUc) < 100 * (max (gaugeEv g.bankMv) (gaugeEq g.qUc) - min (gaugeEv g.bankMv) (gaugeEq g.qUc))

/-- A sample finds the gauge at fault (R668). -/
def gaugeFaulty (g : Gauge) (overflow : Bool) : Bool := g.bled && (decide (readingsApart g) || decide (60000 < g.bankMv) || overflow)

/-- What the MGC measured, kept (R700), with the new readings of the gauge. -/
def State.gaugeRead (s : State) (bankMv : Nat) (dq : Int) (busMv inputMa inputMw dMj auxMv tj memC inletC : Nat) (temps : List Nat) : State :=
  let s := (s.busNow busMv).pwrMap (fun p => { p with
    inputMa := inputMa, inputMw := inputMw, energyMj := (p.energyMj + dMj) % 2 ^ 64, auxMv := auxMv, tj := tj, memC := memC, inletC := inletC })
  let s := s.memMap (fun m => { m with channels := (m.channels.zip (List.range 24)).map (fun p => { p.1 with temp := temps.getD p.2 p.1.temp }) })
  s.gaugeMap (gaugeCounted bankMv dq)

theorem gaugeRead_reads (s : State) (bankMv : Nat) (dq : Int) (busMv inputMa inputMw dMj auxMv tj memC inletC : Nat) (temps : List Nat) :
    let u := s.gaugeRead bankMv dq busMv inputMa inputMw dMj auxMv tj memC inletC temps
    u.pwr.inputMa = inputMa ∧ u.pwr.inputMw = inputMw ∧ u.pwr.tj = tj ∧ u.pwr.samples = s.pwr.samples ∧
      u.pwr.gauge = gaugeCounted bankMv dq s.pwr.gauge := ⟨rfl, rfl, rfl, rfl, rfl⟩

/-- A reading checked: a fault is reported, the sample kept, and arming re-evaluated (R668, R669). -/
def State.gaugeChecked (s : State) (overflow : Bool) (sample : Nat → List Nat) : State :=
  let w := s.when (gaugeFaulty s.pwr.gauge overflow) State.gaugeFault
  (w.pwrMap (Power.tookSample (sample s.pwr.gauge.reading))).rearm

section
variable (s : State) (overflow : Bool) (sample : Nat → List Nat)

theorem State.gaugeChecked_gauge : (s.gaugeChecked overflow sample).pwr.gauge = { s.pwr.gauge with
    fault := s.pwr.gauge.fault || gaugeFaulty s.pwr.gauge overflow, armed := (s.gaugeChecked overflow sample).pwr.gauge.armed } := by
  unfold State.gaugeChecked
  dsimp only
  rw [State.rearm_gauge, State.pwrMap_pwr, Power.tookSample]
  cases hf : gaugeFaulty s.pwr.gauge overflow
  · rw [State.when_false, Bool.or_false]
  · rw [State.when_true, State.gaugeFault_gauge, Bool.or_true]

theorem State.gaugeChecked_armed : (s.gaugeChecked overflow sample).pwr.gauge.armed =
    decide ((s.gaugeChecked overflow sample).rd pwrQuiesceBudgetMj ≤ (s.gaugeChecked overflow sample).pwr.gauge.reading) := by
  unfold State.gaugeChecked
  exact State.rearm_armed _

theorem State.besideGauge_gaugeChecked :
    (s.gaugeChecked overflow sample).pwr.besideGauge = s.pwr.besideGauge.tookSample (sample s.pwr.gauge.reading) := by
  unfold State.gaugeChecked
  dsimp only
  rw [State.besideGauge_rearm, State.pwrMap_pwr, Power.besideGauge_tookSample,
    State.when_keeps (π := fun t => t.pwr.besideGauge) _ _ State.besideGauge_gaugeFault]

end

end Sys2Proof.Machine
end

section
/-!
PROOFS. The gauges, the thermal limit of 105 °C and the trim factor (R667 to R669, R771, R832).
-/
namespace Sys2Proof.Claims
open Sys2Proof Sys2Proof.Machine

theorem exec_gaugeSample (bankMv : Nat) (dq : Int) (overflow : Bool) (busMv inputMa inputMw dMj auxMv tj memC inletC : Nat) (temps : List Nat) (t : Nat)
    (s : State) : exec (.gaugeSample bankMv dq overflow busMv inputMa inputMw dMj auxMv tj memC inletC temps t) s =
      .next (s.gaugeSample bankMv dq overflow busMv inputMa inputMw dMj auxMv tj memC inletC temps t) := rfl

theorem exec_thermalGate (tj : Nat) (s : State) : exec (.thermalGate tj) s = .next (s.thermalGate tj) := rfl

theorem exec_trimUpdate (measured estimated : Nat) (s : State) : exec (.trimUpdate measured estimated) s = .next (s.trimUpdate measured estimated) := rfl

section
variable {s : State} {bankMv busMv inputMa inputMw dMj auxMv tj memC inletC t : Nat} {dq : Int} {overflow : Bool} {temps : List Nat}

theorem gaugeSample_off (h : (s.advance t).pwr.aux = false ∨ (s.advance t).pwr.mgc = false) :
    s.gaugeSample bankMv dq overflow busMv inputMa inputMw dMj auxMv tj memC inletC temps t = s.advance t := by
  unfold State.gaugeSample
  exact if_pos (by simpa using h)

theorem gaugeSample_on (haux : (s.advance t).pwr.aux = true) (hmgc : (s.advance t).pwr.mgc = true) :
    s.gaugeSample bankMv dq overflow busMv inputMa inputMw dMj auxMv tj memC inletC temps t =
      ((s.advance t).gaugeRead bankMv dq busMv inputMa inputMw dMj auxMv tj memC inletC temps).gaugeChecked overflow
        (fun g => [busMv, inputMa, inputMw, bankMv, g, tj, memC, inletC, auxMv]) := by
  unfold State.gaugeSample
  dsimp only
  rw [if_neg (by simp [haux, hmgc])]
  rfl

/-- The reading and its fault (R668): a bank above 60 V, an overflow, or readings too far apart. -/
theorem answers_gaugeSample (haux : (s.advance t).pwr.aux = true) (hmgc : (s.advance t).pwr.mgc = true) :
    ∃ v, Answers (.gaugeSample bankMv dq overflow busMv inputMa inputMw dMj auxMv tj memC inletC temps t) s v ∧
      v.pwr.inputMa = inputMa ∧ v.pwr.inputMw = inputMw ∧ v.pwr.tj = tj ∧ v.pwr.gauge.bankMv = bankMv ∧
      (∃ g, v.pwr.samples = ([busMv, inputMa, inputMw, bankMv, g, tj, memC, inletC, auxMv] :: (s.advance t).pwr.samples).take 10) ∧
      v.pwr.gauge.armed = decide (v.rd pwrQuiesceBudgetMj ≤ v.pwr.gauge.reading) ∧
      ((s.advance t).pwr.gauge.bled = true → 60000 < bankMv ∨ overflow = true ∨
        15 * max (gaugeEv bankMv) (gaugeEq v.pwr.gauge.qUc) <
          100 * (max (gaugeEv bankMv) (gaugeEq v.pwr.gauge.qUc) - min (gaugeEv bankMv) (gaugeEq v.pwr.gauge.qUc)) → v.pwr.gauge.fault = true) ∧
      ((s.advance t).pwr.gauge.bled = false → v.pwr.gauge.fault = (s.advance t).pwr.gauge.fault) := by
  have hread := gaugeRead_reads (s.advance t) bankMv dq busMv inputMa inputMw dMj auxMv tj memC inletC temps
  have hexec := exec_gaugeSample bankMv dq overflow busMv inputMa inputMw dMj auxMv tj memC inletC temps t s
  rw [gaugeSample_on haux hmgc] at hexec
  generalize (s.advance t).gaugeRead bankMv dq busMv inputMa inputMw dMj auxMv tj memC inletC temps = u at hread hexec
  obtain ⟨hma, hmw, htj, hsamples, hcounted⟩ := hread
  have hbeside := State.besideGauge_gaugeChecked u overflow (fun g => [busMv, inputMa, inputMw, bankMv, g, tj, memC, inletC, auxMv])
  have hgauge := State.gaugeChecked_gauge u overflow (fun g => [busMv, inputMa, inputMw, bankMv, g, tj, memC, inletC, auxMv])
  refine ⟨_, hexec, ?_, ?_, ?_, ?_, ⟨u.pwr.gauge.reading, ?_⟩, State.gaugeChecked_armed _ _ _, ?_, ?_⟩
  · rw [← Power.besideGauge_inputMa, hbeside, Power.tookSample]
    dsimp only
    rw [Power.besideGauge_inputMa, hma]
  · rw [← Power.besideGauge_inputMw, hbeside, Power.tookSample]
    dsimp only
    rw [Power.besideGauge_inputMw, hmw]
  · rw [← Power.besideGauge_tj, hbeside, Power.tookSample]
    dsimp only
    rw [Power.besideGauge_tj, htj]
  · rw [hgauge, hcounted]
    rfl
  · rw [← Power.besideGauge_samples, hbeside, Power.tookSample, Power.besideGauge_samples, hsamples]
  all_goals rw [hgauge, hcounted]
  · intro hbled h
    have hfaulty : gaugeFaulty (gaugeCounted bankMv dq (s.advance t).pwr.gauge) overflow = true := by
      rw [gaugeFaulty, Bool.and_eq_true, Bool.or_eq_true, Bool.or_eq_true, decide_eq_true_eq, decide_eq_true_eq, or_assoc]
      exact ⟨hbled, by tauto⟩
    exact Bool.or_eq_true_iff.2 (.inr hfaulty)
  · intro hbled
    have hsound : gaugeFaulty (gaugeCounted bankMv dq (s.advance t).pwr.gauge) overflow = false := Bool.and_eq_false_iff.2 (.inl hbled)
    dsimp only
    rw [hsound, Bool.or_false]
    rfl

end

/-! ## The thermal limit (R771) -/

/-- The upper half of every cluster of eight engines kept out of the work. -/
def upperGated (es : List Engine) : List Engine := (es.zip (List.range 64)).map (fun p => if 4 ≤ p.2 % 8 then { p.1 with thermal := true } else p.1)

theorem upperGated_thermal {es : List Engine} {d : Engine} (hlen : es.length = 64) {e : Nat} (he : e < 64) :
    ((upperGated es).getD e d).thermal = if 4 ≤ e % 8 then true else (es.getD e d).thermal := by
  have hes : e < es.length := by omega
  have hup : (upperGated es)[e]? = some (if 4 ≤ e % 8 then { es[e] with thermal := true } else es[e]) := by
    rw [upperGated, List.getElem?_map, List.getElem?_eq_getElem (by simp [hlen, he]), List.getElem_zip, List.getElem_range, Option.map_some]
  rw [List.getD_eq_getElem?_getD, hup, List.getD_eq_getElem?_getD, List.getElem?_eq_getElem hes, Option.getD_some, Option.getD_some]
  split <;> rfl

/-- The chip as it is gated, before it is reported. -/
def gated (s : State) (tj : Nat) : State :=
  ((s.pwrMap (fun p => { p with tj := tj })).sweepMap (fun w => { w with engines := upperGated s.sweep.engines })).pwrMap
    (fun p => { p with gatedNow := true })

section
variable {s : State} {tj : Nat}

theorem thermalGate_cool (h : tj < 1050 ∨ s.pwr.mode ≠ .playing) : s.thermalGate tj = s.pwrMap (fun p => { p with tj := tj }) := if_pos h

theorem thermalGate_hot (htj : 1050 ≤ tj) (hmode : s.pwr.mode = .playing) :
    s.thermalGate tj = ((gated s tj).powerEvent pwrEventThermal).logError 3 0 0 56 tj :=
  if_neg (by rintro (h | h); exacts [by omega, h hmode])

theorem answers_thermalGate (hsound : s.sound = true) (htj : 1050 ≤ tj) (hmode : s.pwr.mode = .playing) :
    ∃ v, Answers (.thermalGate tj) s v ∧ v.rd pwrEventThermal = 1 ∧
      (∀ e < 64, (v.engine e).thermal = if 4 ≤ e % 8 then true else (s.engine e).thermal) ∧ v.store = s.store := by
  have hkept : (((gated s tj).powerEvent pwrEventThermal).logError 3 0 0 56 tj).besidePosts = (gated s tj).besidePosts := by
    rw [State.besidePosts_logError, State.besidePosts_powerEvent]
  refine ⟨_, (exec_thermalGate tj s).trans (congrArg _ (thermalGate_hot htj hmode)), ?_, fun e he => ?_, (State.store_of_besidePosts hkept).trans rfl⟩
  · rw [State.rd_logError _ _ _ _ (by decide) (by decide)]
    exact State.rd_powerEvent_same rfl (show regSorted s.regs = true from State.regs_sorted hsound)
  · rw [State.engine, State.sweep_of_besidePosts hkept]
    exact upperGated_thermal ((Follows.refl s).engines_length hsound) he

end

/-! ## The trim factor (R832) -/

/-- The trim measured, to the nearest 1/4,096. -/
def trimMeasured (s : State) (measured estimated : Nat) : Nat := (2 * s.rd telEnergyTrimFactor * measured + estimated) / (2 * estimated)

section
variable {s : State} {measured estimated : Nat}

theorem trimUpdate_early (h : s.live = false ∨ estimated = 0 ∨ (s.measure + 2 ^ 32 - s.pwr.trimFrom) % 2 ^ 32 < 1024) :
    s.trimUpdate measured estimated = s := by
  unfold State.trimUpdate
  refine if_pos ?_
  rw [Bool.or_eq_true, Bool.or_eq_true, Bool.not_eq_true', beq_iff_eq, decide_eq_true_eq, or_assoc]
  exact h

/-- The report of a trim outside its limits. -/
def trimReported (s : State) (new : Nat) : State := s.when (new != max 3687 (min 4505 new)) (fun s => s.ev telEventTrimLimit)

theorem trimReported_measure (s : State) (new : Nat) : (trimReported s new).measure = s.measure :=
  State.when_keeps (π := State.measure) _ _ fun _ => State.rd_ev_other _ (by decide)

theorem trimReported_inside {s : State} {new : Nat} (hlow : 3687 ≤ new) (hhigh : new ≤ 4505) : trimReported s new = s := by
  have heq : max 3687 (min 4505 new) = new := by omega
  rw [trimReported, heq, bne_self_eq_false, State.when_false]

theorem rd_trimReported_outside {s : State} {new : Nat} (hsound : s.sound = true) (h : new < 3687 ∨ 4505 < new) :
    (trimReported s new).rd telEventTrimLimit = 1 := by
  have hne : (new != max 3687 (min 4505 new)) = true := bne_iff_ne.2 (by omega)
  rw [trimReported, hne, State.when_true, State.ev, State.rd_wr_same _ _ _ _ (State.regs_sorted hsound)]
  rfl

theorem trimUpdate_due (hlive : s.live = true) (hestimated : estimated ≠ 0) (hdue : 1024 ≤ (s.measure + 2 ^ 32 - s.pwr.trimFrom) % 2 ^ 32) :
    s.trimUpdate measured estimated = (trimReported s (trimMeasured s measured estimated)).pwrMap (fun p => { p with
      tauNext := some (max 3687 (min 4505 (trimMeasured s measured estimated)))
      trimFrom := (trimReported s (trimMeasured s measured estimated)).measure }) := by
  unfold State.trimUpdate
  rw [if_neg ?_]
  · rfl
  · rw [Bool.or_eq_true, Bool.or_eq_true, Bool.not_eq_true', beq_iff_eq, decide_eq_true_eq, hlive]
    rintro ((h | h) | h)
    exacts [Bool.noConfusion h, hestimated h, absurd h (Nat.not_lt.2 hdue)]

theorem answers_trimUpdate (hsound : s.sound = true) (hlive : s.live = true) (hestimated : estimated ≠ 0)
    (hdue : 1024 ≤ (s.measure + 2 ^ 32 - s.pwr.trimFrom) % 2 ^ 32) : ∃ v, Answers (.trimUpdate measured estimated) s v ∧
      v.pwr.tauNext = some (max 3687 (min 4505 (trimMeasured s measured estimated))) ∧ v.pwr.trimFrom = s.measure ∧
      (trimMeasured s measured estimated < 3687 ∨ 4505 < trimMeasured s measured estimated → v.rd telEventTrimLimit = 1) ∧
      (3687 ≤ trimMeasured s measured estimated → trimMeasured s measured estimated ≤ 4505 → v.regs = s.regs) := by
  refine ⟨_, (exec_trimUpdate _ _ s).trans (congrArg _ (trimUpdate_due hlive hestimated hdue)), rfl, trimReported_measure s _, fun h => ?_,
    fun hlow hhigh => ?_⟩
  · rw [rd_pwrMap, rd_trimReported_outside hsound h]
  · rw [State.pwrMap_regs, trimReported_inside hlow hhigh]

end

/-- Settles O21: the sample by the reading it keeps and the check that follows, the thermal gate by the engines it marks, the trim by its limits. -/
theorem gaugesThermalAndTrim : Obligations.GaugesThermalAndTrim := by
  intro s hsound
  refine ⟨fun bankMv busMv inputMa inputMw dMj auxMv tj memC inletC t dq overflow temps => ⟨fun h => ?_, fun haux hmgc => ?_⟩,
    fun tj => ⟨fun h => ?_, fun htj hmode => answers_thermalGate hsound htj hmode⟩,
    fun measured estimated => ⟨fun h => ?_, fun hlive hestimated hdue => ?_⟩⟩
  · exact (exec_gaugeSample ..).trans (congrArg _ (gaugeSample_off h))
  · exact answers_gaugeSample haux hmgc
  · exact (exec_thermalGate tj s).trans (congrArg _ (thermalGate_cool h))
  · exact (exec_trimUpdate _ _ s).trans (congrArg _ (trimUpdate_early h))
  · exact answers_trimUpdate hsound hlive hestimated hdue

end Sys2Proof.Claims
end

section
/-!
LAWS. What resets and starts keep of the clock and the power state, and the cause they write (R764, R765, R775, R778, R842).
-/
namespace Sys2Proof.Machine

/-! ## MRST -/

theorem State.releaseDropped_none {s : State} (h : s.store.shelves.all (fun h => !h.dropping) = true) : s.releaseDropped = s := by
  have hgone : s.store.shelves.filter (fun h => h.dropping && !h.released) = [] := by
    refine List.filter_eq_nil_iff.2 fun x hx => ?_
    have hkept := List.all_eq_true.1 h x hx
    rw [Bool.not_eq_true'] at hkept
    simp [hkept]
  unfold State.releaseDropped
  rw [hgone]
  rfl

theorem State.endDrops_shelves {s : State} (h : s.store.shelves.all (fun h => !h.dropping) = true) : s.endDrops.store.shelves = s.store.shelves := by
  unfold State.endDrops
  rw [State.releaseDropped_none h]
  exact List.filter_eq_self.2 (List.all_eq_true.1 h)

theorem State.endDrops_regs (s : State) : s.endDrops.regs = s.regs := by
  unfold State.endDrops State.releaseDropped
  dsimp only
  split <;> rfl

/-- The core under an MRST (R775), before a fatal status is restored. -/
def State.mrstCleared (s : State) : State :=
  ((((s.endDrops.selfRefresh true).clearRegs (fun f => f.keepM)).dropWork false).weaveAfter false).loseStaging.pinsReset

/-- The core under an MRST, a fatal status restored (R775). -/
def State.mrstKept (s : State) : State := s.mrstCleared.when (s.rd errStatusFatal == 1) (fun s => s.wr errStatusFatal 0 1)

theorem State.mrst_of_works {s : State} (haux : s.pwr.aux = true) (h : Claims.coreWorks s) : s.mrst =
    s.mrstKept.pwrMap
      (fun p => { p with mode := .starting, kind := .mrst, startDue := some .mrst, linkReset := false }) := by
  unfold State.mrst
  rw [haux]
  rcases h with h | h | h <;> rw [h] <;> rfl

theorem fieldOf_errStatusFatal : fieldOf (regKey errStatusFatal 0 0) = some errStatusFatal := by decide

theorem State.mrstCleared_regs (s : State) : ∃ l, s.mrstCleared.regs = regSet gpioLockedPins 0 0 0xFFFF l ∧ regFind (regKey errStatusFatal 0 0) l = none ∧
    (regSorted s.regs = true → regSorted l = true) := by
  refine ⟨(keepRegs (fun f => f.keepM) s.endDrops.regs).filter (fun e => !(decide (0x32000 * 32 ≤ e.1) && decide (e.1 < 0x34000 * 32))), rfl, ?_, fun hs => ?_⟩
  · rw [regFind_filter_kept (fun _ => rfl), keepRegs, regFind_filter_dropped]
    intro v
    dsimp only
    rw [fieldOf_errStatusFatal]
    rfl
  · rw [State.endDrops_regs]
    exact regSorted_filter _ _ (regSorted_filter _ _ hs)

theorem State.rd_mrstCleared_locked {s : State} (hs : regSorted s.regs = true) : s.mrstCleared.rd gpioLockedPins = 0xFFFF := by
  obtain ⟨l, hregs, -, hsorted⟩ := s.mrstCleared_regs
  rw [State.rd, hregs, regGet_regSet_same _ _ _ _ _ (hsorted hs)]
  rfl

/-- An MRST clears the fatal status (R775). -/
theorem State.rd_mrstCleared_fatal (s : State) : s.mrstCleared.rd errStatusFatal = 0 := by
  obtain ⟨l, hregs, hnone, -⟩ := s.mrstCleared_regs
  rw [State.rd, hregs, regGet_regSet_other _ _ _ _ _ _ _ _ (by decide), regGet, hnone]
  rfl

theorem State.sorted_mrstCleared {s : State} (hs : regSorted s.regs = true) : regSorted s.mrstCleared.regs = true := by
  obtain ⟨l, hregs, -, hsorted⟩ := s.mrstCleared_regs
  rw [hregs]
  exact regSorted_regSet _ _ _ _ _ (hsorted hs)

theorem State.mrstCleared_shelves (s : State) : s.mrstCleared.store.shelves = s.endDrops.store.shelves := rfl

theorem State.mrstKept_keeps {α : Type} {π : State → α} (h : ∀ t : State, π (t.wr errStatusFatal 0 1) = π t) (s : State) :
    π s.mrstKept = π s.mrstCleared := State.when_keeps _ _ h

theorem State.rd_mrstKept_fatal {s : State} (hs : regSorted s.regs = true) :
    (s.rd errStatusFatal = 1 → s.mrstKept.rd errStatusFatal = 1) ∧ (s.rd errStatusFatal = 0 → s.mrstKept.rd errStatusFatal = 0) := by
  refine ⟨fun h => ?_, fun h => ?_⟩
  · rw [State.mrstKept, h, beq_self_eq_true, State.when_true, State.rd_wr_same _ _ _ _ (State.sorted_mrstCleared hs)]
    rfl
  · rw [State.mrstKept, h]
    exact s.rd_mrstCleared_fatal

/-! ## The end of a warm reset (R778) -/

/-- The clock, the start and the origin of a reset. -/
def State.startTimes (s : State) : Nat × Nat × Bool := (s.clk.now, s.pwr.startAt, s.pwr.linkReset)

theorem State.startTimes_trainMemory (s : State) (trained : Nat) (retained : Bool) : (s.trainMemory trained retained).startTimes = s.startTimes := by
  unfold State.trainMemory
  dsimp only
  split <;> rfl

theorem State.startTimes_closeJournal (s : State) (k : Nat) : (s.closeJournal k).startTimes = s.startTimes := by
  unfold State.closeJournal
  dsimp only
  split <;> rfl

theorem State.startTimes_undoSlab (s : State) (j : Journal) : (s.undoSlab j).startTimes = s.startTimes := by
  unfold State.undoSlab
  dsimp only
  rw [State.startTimes_closeJournal]
  exact State.when_keeps (π := State.startTimes) (s.setWriter j.shelf j.target 0) _ fun _ => rfl

theorem State.startTimes_recover (s : State) : s.recover.startTimes = s.startTimes := by
  unfold State.recover
  split
  · rfl
  · exact State.each_keeps (π := State.startTimes) _ s fun t j => t.startTimes_undoSlab j

/-- A core start that has trained the memory and rebuilt the kill entries (R496, R776). -/
def State.warmTrained (s : State) (trained : Nat) : State :=
  (((if s.rd gdmCtrlRate = s.rd gdmStatusRateNow then s.selfRefresh false else s.trainMemory trained true).reloadBank).recover).rebuildKills

theorem State.startTimes_warmTrained (s : State) (trained : Nat) : (s.warmTrained trained).startTimes = s.startTimes := by
  have htrained (b : Prop) [Decidable b] : (if b then s.selfRefresh false else s.trainMemory trained true).startTimes = s.startTimes := by
    split
    · rfl
    · exact s.startTimes_trainMemory _ _
  exact (State.startTimes_recover _).trans (htrained _)

theorem State.sound_warmTrained {s : State} (hs : s.sound = true) (trained : Nat) : (s.warmTrained trained).sound = true := by
  unfold State.warmTrained
  refine Follows.sound (b := s) ?_ hs
  split
  · exact (Follows.refl s).selfRefresh.reloadBank.recover.rebuildKills
  · exact (Follows.refl s).trainMemory.reloadBank.recover.rebuildKills

/-- The cause registers cleared. -/
def State.causeCleared (s : State) : State :=
  s.each [rstCausePorAux, rstCausePorCore, rstCauseMrst, rstCauseWrstCmd, rstCauseWrstLink, rstCauseFermata, rstCauseRetained] (fun s f => s.wr f 0 0)

section
variable {s : State} (hs : s.sound = true) (retained : Bool)
include hs

theorem State.sorted_causeCleared : regSorted s.causeCleared.regs = true :=
  State.regs_sorted (((Follows.refl s).each fun _ _ h => h.wr _ _ _).sound hs)

theorem State.rd_causeCleared : s.causeCleared.rd rstCauseWrstCmd = 0 ∧ s.causeCleared.rd rstCauseWrstLink = 0 := by
  have hsorted {u : State} (h : Follows s u) : regSorted u.regs = true := State.regs_sorted (h.sound hs)
  have hthree := (((Follows.refl s).wr rstCausePorAux 0 0).wr rstCausePorCore 0 0).wr rstCauseMrst 0 0
  unfold State.causeCleared
  simp (disch := decide) only [State.each, List.foldl_cons, List.foldl_nil, State.rd_wr_other]
  rw [State.rd_wr_same _ _ _ _ (hsorted hthree), State.rd_wr_same _ _ _ _ (hsorted (hthree.wr _ _ _))]
  exact ⟨rfl, rfl⟩

/-- The cause of a reset and how long it took, written at its end. -/
theorem State.rd_writeCause (link : Bool) :
    let c := s.writeCause (if link then rstCauseWrstLink else rstCauseWrstCmd) true
    c.rd rstCauseWrstLink = (if link then 1 else 0) ∧ c.rd rstCauseWrstCmd = (if link then 0 else 1) ∧ c.rd rstCauseRetained = 1 ∧
      c.rd rstReadyUs = min 65535 ((s.clk.now - s.pwr.startAt) / 768000) := by
  have hstages (f : Fld) : s.writeCause f true = ((s.causeCleared.wr f 0 1).wr rstCauseRetained 0 1).wr rstReadyUs 0
      (min 65535 ((s.clk.now - s.pwr.startAt) / 768000)) := rfl
  have hcleared := State.sorted_causeCleared hs
  have hset (f : Fld) : regSorted ((s.causeCleared.wr f 0 1).wr rstCauseRetained 0 1).regs = true :=
    State.sorted_wr (State.sorted_wr hcleared _ _ _) _ _ _
  obtain ⟨hcmd, hlink⟩ := State.rd_causeCleared hs
  have hready : min 65535 ((s.clk.now - s.pwr.startAt) / 768000) % 2 ^ rstReadyUs.width = min 65535 ((s.clk.now - s.pwr.startAt) / 768000) :=
    Nat.mod_eq_of_lt (Nat.lt_of_le_of_lt (Nat.min_le_left _ _) (by decide))
  dsimp only
  rw [hstages]
  refine ⟨?_, ?_, ?_, ?_⟩
  · cases link <;> simp (disch := decide) only [State.rd_wr_other, if_true, if_false, Bool.false_eq_true]
    · exact hlink
    · rw [State.rd_wr_same _ _ _ _ hcleared]
      rfl
  · cases link <;> simp (disch := decide) only [State.rd_wr_other, if_true, if_false, Bool.false_eq_true]
    · rw [State.rd_wr_same _ _ _ _ hcleared]
      rfl
    · exact hcmd
  · rw [State.rd_wr_other _ _ _ _ _ _ (by decide), State.rd_wr_same _ _ _ _ (State.sorted_wr hcleared _ _ _)]
    rfl
  · rw [State.rd_wr_same _ _ _ _ (hset _), hready]

end

theorem State.noticeChanged_pwr (s : State) : s.noticeChanged.pwr = s.pwr := by
  refine State.each_keeps (π := State.pwr) _ s fun t f => ?_
  unfold State.notice
  dsimp only
  split
  · rfl
  · exact State.raise_pwr _ _ _

theorem State.becomeReady_mode (s : State) : s.becomeReady.pwr.mode = .playing := by
  unfold State.becomeReady
  dsimp only
  rw [State.noticeChanged_pwr]
  rfl

/-! ## The exit from Rest (R765) -/

/-- A strand at rest is active again. -/
def State.strandWoken (s : State) (i : Nat) : State := if s.rd wvStrandState i = 4 then s.wr wvStrandState i 2 else s

theorem State.strandWoken_keeps {α : Type} {π : State → α} (h : ∀ (t : State) i, π (t.wr wvStrandState i 2) = π t) (s : State) (i : Nat) :
    π (s.strandWoken i) = π s := by
  unfold State.strandWoken
  split
  · exact h s i
  · rfl

theorem wvStrandState_key (i : Nat) : regKey wvStrandState 0 i = (0x20100 + 32 * i) * 32 := by simp [regKey, wvStrandState]

theorem State.sorted_strandWoken {s : State} (hs : regSorted s.regs = true) (i : Nat) : regSorted (s.strandWoken i).regs = true := by
  unfold State.strandWoken
  split
  · exact State.sorted_wr hs _ _ _
  · exact hs

theorem State.rd_strandWoken_other (s : State) {i j : Nat} (h : j ≠ i) : (s.strandWoken i).rd wvStrandState j = s.rd wvStrandState j := by
  unfold State.strandWoken
  split
  · exact State.rd_wr_other _ _ _ _ _ _ (by rw [wvStrandState_key, wvStrandState_key]; omega)
  · rfl

theorem State.rd_strandWoken {s : State} (hs : regSorted s.regs = true) {i : Nat} (h : s.rd wvStrandState i = 4) :
    (s.strandWoken i).rd wvStrandState i = 2 := by
  rw [State.strandWoken, if_pos h, State.rd_wr_same _ _ _ _ hs]
  rfl

/-- Once awake, a strand stays so. -/
theorem State.rd_strandWoken_two {s : State} {i : Nat} (j : Nat) (h : s.rd wvStrandState j = 2) :
    (s.strandWoken i).rd wvStrandState j = 2 := by
  by_cases hij : j = i
  · subst hij
    rw [State.strandWoken, if_neg (by rw [h]; decide), h]
  · rw [State.rd_strandWoken_other s hij, h]

theorem State.rd_strandsWoken {j : Nat} : ∀ (l : List Nat) {s : State}, regSorted s.regs = true →
    (s.rd wvStrandState j = 2 → (s.each l State.strandWoken).rd wvStrandState j = 2) ∧
      (j ∈ l → s.rd wvStrandState j = 4 → (s.each l State.strandWoken).rd wvStrandState j = 2)
  | [], _, _ => ⟨id, fun h => nomatch h⟩
  | i :: l, s, hs => by
    obtain ⟨hkept, hwoken⟩ := State.rd_strandsWoken l (j := j) (State.sorted_strandWoken hs i)
    refine ⟨fun h => hkept (State.rd_strandWoken_two j h), fun hj h => ?_⟩
    by_cases hij : j = i
    · exact hkept (hij ▸ State.rd_strandWoken hs (hij ▸ h))
    · exact hwoken ((List.mem_cons.1 hj).resolve_left hij) ((State.rd_strandWoken_other s hij).trans h)

end Sys2Proof.Machine
end

section
/-!
PROOFS. MRST, the end of a warm reset, the delayed MRST after a fatal error, and the exit from Rest (R764, R765, R775, R778, R842).
-/
namespace Sys2Proof.Claims
open Sys2Proof Sys2Proof.Machine

theorem exec_mrst (t : Nat) (s : State) : exec (.mrst t) s = .next (s.advance t).mrst := rfl

theorem exec_fatalMrstTimer (t : Nat) (s : State) : exec (.fatalMrstTimer t) s = .next (s.fatalTimer t) := rfl

theorem exec_wrstReady (trained : BitVec 24) (t : Nat) (s : State) : exec (.wrstReady trained t) s = .next (s.wrstReady trained.toNat t) := rfl

theorem exec_restWake (t : Nat) (s : State) : exec (.restWake t) s = .next (s.advance t).restWake := rfl

theorem exec_restExitReady (failed : BitVec 24) (t : Nat) (s : State) : exec (.restExitReady failed t) s = .next (s.restReady failed.toNat t) := rfl

section
variable {s : State} {t : Nat}

theorem answers_mrst_off (h : (s.advance t).pwr.aux = false) : Answers (.mrst t) s (s.advance t) := by
  rw [Answers, exec_mrst, State.mrst, h]
  rfl

theorem answers_mrst (hsound : s.sound = true) (haux : (s.advance t).pwr.aux = true) (h : coreWorks (s.advance t)) :
    ∃ v, Answers (.mrst t) s v ∧ v.pwr.mode = .starting ∧ v.pwr.kind = .mrst ∧ v.pwr.startDue = some .mrst ∧ v.store.staging = [] ∧
      ((s.advance t).store.shelves.all (fun h => !h.dropping) = true → v.store.shelves = (s.advance t).store.shelves) ∧ v.host.cmds = [] ∧
      v.rd gpioLockedPins = 0xFFFF ∧ ((s.advance t).rd errStatusFatal = 1 → v.rd errStatusFatal = 1) ∧
      ((s.advance t).rd errStatusFatal = 0 → v.rd errStatusFatal = 0) := by
  have hsorted := State.regs_sorted ((Follows.refl s).advance (t := t) |>.sound hsound)
  obtain ⟨hfatal, hclear⟩ := State.rd_mrstKept_fatal hsorted
  have hstore := (s.advance t).mrstKept_keeps (π := State.store) fun _ => rfl
  refine ⟨_, (exec_mrst t s).trans (congrArg _ (State.mrst_of_works haux h)), rfl, rfl, rfl, ?_, fun hnone => ?_, ?_, ?_, fun h => ?_, fun h => ?_⟩
  · exact (congrArg Store.staging hstore :)
  · exact (congrArg Store.shelves hstore :).trans ((State.mrstCleared_shelves _).trans (State.endDrops_shelves hnone))
  · exact (congrArg HostSt.cmds ((s.advance t).mrstKept_keeps (π := State.host) fun _ => rfl) :)
  · rw [rd_pwrMap, State.mrstKept_keeps (π := fun u => u.rd gpioLockedPins) fun u => u.rd_wr_other _ _ _ _ _ (by decide)]
    exact State.rd_mrstCleared_locked hsorted
  · rw [rd_pwrMap, hfatal h]
  · rw [rd_pwrMap, hclear h]

/-- The delayed MRST (R842). -/
theorem fatalTimer_due (hfatal : (s.advance t).rd errStatusFatal = 1) (hdelay : (s.advance t).rd errCtrlMrstDelay ≠ 0)
    (hdue : (s.advance t).pwr.fatalAt + ns (1000000 * (s.advance t).rd errCtrlMrstDelay) ≤ (s.advance t).clk.now) :
    s.fatalTimer t = (s.advance t).mrst := if_pos ⟨hfatal, hdelay, hdue⟩

theorem fatalTimer_waits (h : ¬ ((s.advance t).rd errStatusFatal = 1 ∧ (s.advance t).rd errCtrlMrstDelay ≠ 0 ∧
    (s.advance t).pwr.fatalAt + ns (1000000 * (s.advance t).rd errCtrlMrstDelay) ≤ (s.advance t).clk.now)) :
    s.fatalTimer t = s.advance t := if_neg h

theorem wrstReady_warm (h : (s.advance t).pwr.mode = .warm) (trained : Nat) : s.wrstReady trained t =
    (((s.advance t).warmTrained trained).writeCause
      (if ((s.advance t).warmTrained trained).pwr.linkReset then rstCauseWrstLink else rstCauseWrstCmd) true).becomeReady :=
  if_neg (not_not_intro h)

theorem answers_wrstReady (hsound : s.sound = true) (h : (s.advance t).pwr.mode = .warm) (trained : BitVec 24) :
    ∃ w : State, Answers (.wrstReady trained t) s w.becomeReady ∧ w.becomeReady.pwr.mode = .playing ∧
      w.rd rstCauseWrstLink = (if (s.advance t).pwr.linkReset then 1 else 0) ∧ w.rd rstCauseWrstCmd = (if (s.advance t).pwr.linkReset then 0 else 1) ∧
      w.rd rstCauseRetained = 1 ∧ w.rd rstReadyUs = min 65535 (((s.advance t).clk.now - (s.advance t).pwr.startAt) / 768000) := by
  have hcause := State.rd_writeCause (State.sound_warmTrained ((Follows.refl s).advance (t := t) |>.sound hsound) trained.toNat)
    ((s.advance t).warmTrained trained.toNat).pwr.linkReset
  have htimes := (s.advance t).startTimes_warmTrained trained.toNat
  obtain ⟨hnow, hrest⟩ := Prod.mk.inj htimes
  obtain ⟨hstart, hlink⟩ := Prod.mk.inj hrest
  refine ⟨_, (exec_wrstReady trained t s).trans (congrArg _ (wrstReady_warm h trained.toNat)), State.becomeReady_mode _, ?_⟩
  rw [← hnow, ← hstart, ← hlink]
  exact hcause

theorem answers_restWake (h : (s.advance t).pwr.mode = .rest) :
    Answers (.restWake t) s ((s.advance t).pwrMap (fun p => { p with mode := .waking, wakeAt := (s.advance t).clk.now })) := by
  rw [Answers, exec_restWake, State.restWake, if_pos h]

/-- Graphics memory out of self-refresh, to be retrained from now on (R577). -/
def memoryWoken (s : State) : State :=
  let s := s.selfRefresh false
  s.memMap (fun m => { m with channels := m.channels.map (fun c => { c with retrainAt := s.clk.now, retrainTemp := c.temp, step := 0 }) })

/-- The strands active again (R760). -/
def strandsWoken (s : State) : State := s.each (List.range 64) (fun s i => if s.rd wvStrandState i = 4 then s.wr wvStrandState i 2 else s)

/-- The chip out of Rest (R765). -/
def restEnded (s : State) : State :=
  let s := (s.wakePins.pwrMap (fun p => { p with mode := .playing })).clkMap (fun k => { k with ready := true, kappa := 256 })
  s.wr pwrRestLastUs 0 (min 65535 ((s.clk.now - s.pwr.wakeAt) / 768000))

/-- The chip out of Rest, before the channels that failed their alignment are faulted (R765). -/
def restLeft (s : State) : State := restEnded (strandsWoken (memoryWoken s))

theorem restReady_waking (h : (s.advance t).pwr.mode = .waking) (failed : Nat) : s.restReady failed t =
    (restLeft (s.advance t)).each (setBits 24 failed) (fun s h => if s.active.contains h then s.channelFault h 10 4 else s) := by
  unfold State.restReady
  dsimp only
  rw [if_neg (not_not_intro h), restLeft, restEnded, strandsWoken, memoryWoken]

end

theorem strandsWoken_eq (s : State) : strandsWoken s = s.each (List.range 64) State.strandWoken := rfl

theorem strandsWoken_keeps {α : Type} {π : State → α} (h : ∀ (t : State) i, π (t.wr wvStrandState i 2) = π t) (s : State) :
    π (strandsWoken s) = π s := State.each_keeps (π := π) _ s fun t i => State.strandWoken_keeps h t i

theorem sorted_strandsWoken {s : State} (hs : regSorted s.regs = true) : regSorted (strandsWoken s).regs = true := by
  rw [strandsWoken_eq]
  generalize List.range 64 = l
  induction l generalizing s with
  | nil => exact hs
  | cons i l ih => exact ih (State.sorted_strandWoken hs i)

theorem rd_strandsWoken {s : State} (hs : regSorted s.regs = true) {i : Nat} (hi : i < 64) (h : s.rd wvStrandState i = 4) :
    (strandsWoken s).rd wvStrandState i = 2 := (State.rd_strandsWoken _ hs).2 (List.mem_range.2 hi) h

section
variable {s : State} (hs : regSorted s.regs = true)

theorem restEnded_mode (s : State) : (restEnded s).pwr.mode = .playing := rfl

theorem restEnded_ready (s : State) : (restEnded s).clk.ready = true := rfl

theorem restEnded_store (s : State) : (restEnded s).store = s.store := rfl

theorem restEnded_mem (s : State) : (restEnded s).mem = s.mem := rfl

theorem rd_restEnded_strand (i : Nat) : (restEnded s).rd wvStrandState i = s.rd wvStrandState i := by
  have hlast : regKey pwrRestLastUs 0 0 = 0x40010 * 32 := rfl
  refine (State.rd_wr_other _ _ _ _ _ _ ?_).trans rfl
  rw [wvStrandState_key, hlast]
  omega

include hs in
theorem rd_restEnded_last : (restEnded s).rd pwrRestLastUs = min 65535 ((s.clk.now - s.pwr.wakeAt) / 768000) := by
  refine (State.rd_wr_same _ _ _ _ hs).trans (Nat.mod_eq_of_lt ?_)
  exact Nat.lt_of_le_of_lt (Nat.min_le_left _ _) (by decide)

end

theorem restLeft_leaves {s : State} (hsound : s.sound = true) : (restLeft s).pwr.mode = .playing ∧ (restLeft s).clk.ready = true ∧
    (restLeft s).rd pwrRestLastUs = min 65535 ((s.clk.now - s.pwr.wakeAt) / 768000) ∧ (restLeft s).store = s.store ∧
    ((restLeft s).mem.channels.all (fun c => !c.selfRefresh)) = true ∧ ∀ i < 64, s.rd wvStrandState i = 4 → (restLeft s).rd wvStrandState i = 2 := by
  have hsorted : regSorted (memoryWoken s).regs = true := (State.regs_sorted hsound :)
  have hclk := strandsWoken_keeps (π := State.clk) (fun _ _ => rfl) (memoryWoken s)
  have hpwr := strandsWoken_keeps (π := State.pwr) (fun _ _ => rfl) (memoryWoken s)
  have hmem := strandsWoken_keeps (π := State.mem) (fun _ _ => rfl) (memoryWoken s)
  have hstore := strandsWoken_keeps (π := State.store) (fun _ _ => rfl) (memoryWoken s)
  refine ⟨restEnded_mode _, restEnded_ready _, ?_, (restEnded_store _).trans hstore, ?_, fun i hi h => ?_⟩
  · rw [restLeft, rd_restEnded_last (sorted_strandsWoken hsorted), hclk, hpwr]
    rfl
  · rw [restLeft, restEnded_mem, hmem, List.all_eq_true]
    intro c hc
    obtain ⟨d, hd, rfl⟩ := List.mem_map.1 hc
    obtain ⟨e, -, rfl⟩ := List.mem_map.1 hd
    rfl
  · rw [restLeft, rd_restEnded_strand, rd_strandsWoken hsorted hi h]

/-- Settles O19: each reset by what it discards and writes, the exits from Rest by the strands and channels they wake. -/
theorem resetsAndRest : Obligations.ResetsAndRest := by
  intro s t hsound
  dsimp only
  refine ⟨answers_mrst_off, answers_mrst hsound, fun hfatal hdelay => ⟨fun hdue => ?_, fun hearly => ?_⟩, fun h => ?_,
    fun trained => ⟨fun h => ?_, fun h => answers_wrstReady hsound h trained⟩, fun h => ?_, answers_restWake,
    fun failed => ⟨fun h => ?_, fun h => ?_⟩⟩
  · exact (exec_fatalMrstTimer t s).trans (congrArg _ (fatalTimer_due hfatal hdelay hdue))
  · exact (exec_fatalMrstTimer t s).trans (congrArg _ (fatalTimer_waits fun ⟨_, _, hdue⟩ => by omega))
  · exact (exec_fatalMrstTimer t s).trans (congrArg _ (fatalTimer_waits fun ⟨hfatal, hdelay, _⟩ => h.elim (absurd hfatal) hdelay))
  · exact (exec_wrstReady trained t s).trans (congrArg _ (if_pos h))
  · rw [Answers, exec_restWake, State.restWake, if_neg h]
  · exact (exec_restExitReady failed t s).trans (congrArg _ (if_pos h))
  · obtain ⟨hmode, hready, hlast, hstore, hawake, hstrands⟩ := restLeft_leaves (s := s.advance t) ((Follows.refl s).advance.sound hsound)
    refine ⟨_, hmode, hready, hlast, hstore, hawake, hstrands, ?_, ?_⟩
    · exact (exec_restExitReady 0#24 t s).trans (congrArg _ (restReady_waking h _))
    · exact (exec_restExitReady failed t s).trans (congrArg _ (restReady_waking h _))

end Sys2Proof.Claims
end

section
/-!
LAWS. A tray transfer: its request checked, applied and answered (R719 to R722).
-/
namespace Sys2Proof.Claims
open Sys2Proof Sys2Proof.Machine

/-- The length of a request is known exactly for the codes of R687. -/
theorem tcLength_isSome (code : Nat) : (tcLength code).isSome = [0x01, 0x02, 0x03, 0x10, 0x20, 0x21, 0x22, 0x23, 0x30, 0x31].contains code := by
  unfold tcLength
  split <;> simp_all

section
variable {s v : State} {t code result : Nat} {body reply : Bytes}

/-- A transfer that reaches the powered MGC ends with what its request gives. -/
theorem spsFrame_on {crc : Byte} (haux : (s.advance t).pwr.aux = true) (h : (s.advance t).tcRequest code body crc = (v, result, reply)) :
    s.spsFrame code body crc t = spsSent s t v result reply := by
  unfold State.spsFrame
  dsimp only
  rw [if_neg (by simp [haux]), h]
  dsimp only [State.spsCount]
  rfl

/-! ## Requests that are not applied (R722) -/

theorem tcRequest_badCrc {crc : Byte} (h : crc ≠ spsCrc code body) : s.tcRequest code body crc = (s, 5, []) := if_pos (Ne.symm h)

theorem crcRight (code : Nat) (body : Bytes) : ¬ crc8 (leBytes 1 code ++ leBytes 2 body.length ++ body) ≠ spsCrc code body := not_not_intro rfl

theorem tcRequest_unlisted (h : tcLength code = none) : s.tcRequest code body (spsCrc code body) = (s, 3, []) := by
  unfold State.tcRequest
  rw [if_neg (crcRight code body), h]
  rfl

theorem tcRequest_badLength {n : Nat} (hcode : tcLength code = some n) (h : body.length ≠ n) :
    s.tcRequest code body (spsCrc code body) = (s, 4, []) := by
  unfold State.tcRequest
  rw [if_neg (crcRight code body), hcode]
  exact if_pos h

/-! ## Requests that are applied -/

theorem tcRequest_applied {n : Nat} (hcode : tcLength code = some n) (h : body.length = n) :
    (s.advance t).tcRequest code body (spsCrc code body) = (spsTaken s t).tcApply code body := by
  unfold State.tcRequest
  rw [if_neg (crcRight code body), hcode]
  exact if_neg (not_not_intro h)

/-- A request applied and answered. -/
theorem spsFrame_applied {n : Nat} (haux : (s.advance t).pwr.aux = true) (hcode : tcLength code = some n) (hlen : body.length = n)
    (h : (spsTaken s t).tcApply code body = (v, result, reply)) : s.spsFrame code body (spsCrc code body) t = spsSent s t v result reply :=
  spsFrame_on haux ((tcRequest_applied hcode hlen).trans h)

/-- While the MGC runs every code is applied (R786). -/
theorem tcApply_mgc (hmgc : s.pwr.mgc = true) : s.tcApply 0x01 body = s.tcIdent ∧ s.tcApply 0x02 body = s.tcStatus ∧ s.tcApply 0x03 body = s.tcTelem ∧
    s.tcApply 0x10 body = s.tcRearm ∧ s.tcApply 0x20 body = s.tcOpen body ∧ s.tcApply 0x21 body = s.tcWrite body ∧
    s.tcApply 0x22 body = s.tcClose body ∧ s.tcApply 0x23 body = s.tcRead body ∧ s.tcApply 0x30 body = s.tcLog body ∧
    s.tcApply 0x31 body = s.tcFault := by
  unfold State.tcApply
  rw [hmgc]
  exact ⟨rfl, rfl, rfl, rfl, rfl, rfl, rfl, rfl, rfl, rfl⟩

end

/-! ## What the questions answer (R687, R700) -/

theorem field_padTo_append {n v : Nat} {a b : Bytes} (h : a.length = 8) : field (padTo n (a ++ leBytes 4 v ++ b)) 8 4 = v % 2 ^ 32 := by
  rw [padTo, List.append_assoc, List.append_assoc, field_append _ _ h, field_leBytes]
  norm_num

theorem take_padTo_append {n v : Nat} {b : Bytes} : (padTo n (leBytes 8 v ++ b)).take 8 = leBytes 8 v := by
  rw [padTo, List.append_assoc, List.take_left' (length_leBytes 8 v)]

theorem tcIdent_replies (s : State) : ∃ reply, s.tcIdent = (s, 0, reply) ∧ reply.length = 64 ∧ reply.take 8 = leBytes 8 Config.serial.toNat := by
  refine ⟨_, rfl, length_padTo (by simp), ?_⟩
  simp only [List.append_assoc]
  exact take_padTo_append

theorem tcStatus_replies (s : State) : ∃ reply v, s.tcStatus = (v, 0, reply) ∧ reply.length = 32 ∧ v.pwr.trayEvents = 0 ∧ v.pwr.alert = false ∧
    v.regs = s.regs ∧ field reply 8 4 = s.pwr.trayEvents % 2 ^ 32 := by
  refine ⟨_, _, rfl, length_padTo (by simp), ?_, ?_, ?_, field_padTo_append (by simp)⟩
  all_goals split <;> rfl

theorem tcTelem_replies (s : State) : ∃ reply, s.tcTelem = (s, 0, reply) ∧ reply.length = 64 := ⟨_, rfl, length_padTo (by simp)⟩

theorem tcFault_replies (s : State) : ∃ reply v, s.tcFault = (v, 0, reply) ∧ reply.length = 256 ∧ v.regs = s.regs ∧ v.pwr = s.pwr :=
  ⟨_, _, rfl, by simp [State.freeBytes], rfl, rfl⟩

/-- A read of a bank in the flash (R687), refused while a session is open. -/
theorem tcRead_inside {s : State} {body : Bytes} (hbank : field body 0 1 = 1 ∨ field body 0 1 = 2) (hin : field body 1 4 + 256 ≤ 2 ^ 24) :
    s.tcRead body = if s.pwr.session.isSome then (s, 1, []) else (s, 0, s.bankBytes (field body 0 1) (field body 1 4) 256) := by
  unfold State.tcRead
  dsimp only
  by_cases h : s.pwr.session.isSome = true
  · rw [if_pos (.inl h), if_pos h]
    rfl
  · rw [if_neg (by rintro (hs | hb | hr); exacts [h hs, by omega, by omega]), if_neg h]

end Sys2Proof.Claims
end

section
/-!
PROOFS. The tray's questions, and the transfers that are not applied (R685, R687, R688, R700, R722).
-/
namespace Sys2Proof.Claims
open Sys2Proof Sys2Proof.Machine

section
variable (body : Bytes) (crc : Byte) (t : Nat) (s : State)

theorem exec_tcIdent : exec (.tcIdent body crc t) s = .next (s.spsFrame 0x01 body crc t) := rfl

theorem exec_tcStatus : exec (.tcStatus body crc t) s = .next (s.spsFrame 0x02 body crc t) := rfl

theorem exec_tcTelem : exec (.tcTelem body crc t) s = .next (s.spsFrame 0x03 body crc t) := rfl

theorem exec_tcEfuseRearm : exec (.tcEfuseRearm body crc t) s = .next (s.spsFrame 0x10 body crc t) := rfl

theorem exec_tcFwOpen : exec (.tcFwOpen body crc t) s = .next (s.spsFrame 0x20 body crc t) := rfl

theorem exec_tcFwWrite : exec (.tcFwWrite body crc t) s = .next (s.spsFrame 0x21 body crc t) := rfl

theorem exec_tcFwClose : exec (.tcFwClose body crc t) s = .next (s.spsFrame 0x22 body crc t) := rfl

theorem exec_tcFwRead : exec (.tcFwRead body crc t) s = .next (s.spsFrame 0x23 body crc t) := rfl

theorem exec_tcLogRead : exec (.tcLogRead body crc t) s = .next (s.spsFrame 0x30 body crc t) := rfl

theorem exec_tcFaultRead : exec (.tcFaultRead body crc t) s = .next (s.spsFrame 0x31 body crc t) := rfl

theorem exec_spsUnknownCommand (code : Byte) : exec (.spsUnknownCommand code body crc t) s = given (s.unknownCommand code.toNat body crc t) := rfl

end

section
variable {s : State} {t : Nat} (haux : (s.advance t).pwr.aux = true)
include haux

theorem answers_tcRead (hmgc : (spsTaken s t).pwr.mgc = true) {body : Bytes} (hlen : body.length = 5)
    (hbank : field body 0 1 = 1 ∨ field body 0 1 = 2) (hin : field body 1 4 + 256 ≤ 2 ^ 24) :
    Answers (.tcFwRead body (spsCrc 0x23 body) t) s (if (spsTaken s t).pwr.session.isSome then spsSent s t (spsTaken s t) 1 []
      else spsSent s t (spsTaken s t) 0 ((spsTaken s t).bankBytes (field body 0 1) (field body 1 4) 256)) := by
  obtain ⟨-, -, -, -, -, -, -, hread, -⟩ := tcApply_mgc (body := body) hmgc
  rw [tcRead_inside hbank hin] at hread
  rw [Answers, exec_tcFwRead]
  split <;> rename_i hsession
  · rw [if_pos hsession] at hread
    rw [spsFrame_applied haux rfl hlen hread]
  · rw [if_neg hsession] at hread
    rw [spsFrame_applied haux rfl hlen hread]

theorem answers_tcLog (hmgc : (spsTaken s t).pwr.mgc = true) {body : Bytes} (hlen : body.length = 2) {v : State} {result : Nat} {reply : Bytes}
    (h : (spsTaken s t).tcLog body = (v, result, reply)) : Answers (.tcLogRead body (spsCrc 0x30 body) t) s (spsSent s t v result reply) := by
  obtain ⟨-, -, -, -, -, -, -, -, hlog, -⟩ := tcApply_mgc (body := body) hmgc
  rw [Answers, exec_tcLogRead, spsFrame_applied haux rfl hlen (hlog.trans h)]

theorem answers_spsUnknown {code : Byte} {body : Bytes} {crc : Byte} (h : (Instr.spsUnknownCommand code body crc t).wf = true) :
    Answers (.spsUnknownCommand code body crc t) s
      (if crc = spsCrc code.toNat body then spsSent s t (s.advance t) 3 [] else spsSent s t (s.advance t) 5 []) := by
  have hunlisted : (tcLength code.toNat).isSome = false := (tcLength_isSome _).trans (by simpa only [Instr.wf, Bool.not_eq_true'] using h)
  have hnone : tcLength code.toNat = none := by simpa using hunlisted
  have hgiven : exec (.spsUnknownCommand code body crc t) s = .next (s.spsFrame code.toNat body crc t) := by
    rw [exec_spsUnknownCommand, State.unknownCommand, hunlisted]
    rfl
  rw [Answers, hgiven]
  by_cases hcrc : crc = spsCrc code.toNat body
  · rw [if_pos hcrc, hcrc, spsFrame_on haux (tcRequest_unlisted hnone)]
  · rw [if_neg hcrc, spsFrame_on haux (tcRequest_badCrc hcrc)]

end

theorem exec_spsUnknown_listed {s : State} {t : Nat} {code : Byte} {body : Bytes} {crc : Byte}
    (h : (Instr.spsUnknownCommand code body crc t).wf = false) : exec (.spsUnknownCommand code body crc t) s = .fault .illFormed := by
  have hlisted : (tcLength code.toNat).isSome = true := (tcLength_isSome _).trans (by simpa only [Instr.wf, Bool.not_eq_false'] using h)
  rw [exec_spsUnknownCommand, State.unknownCommand, hlisted]
  rfl

/-- Settles O10: each question by the reply its request gives, each refusal by the check it fails. -/
theorem trayRequests : Obligations.TrayRequests := by
  refine ⟨fun s t haux hmgc => ?_, fun s t body crc haux => ⟨fun h => ?_, fun h hbody => ?_, fun h hlen => ?_, fun code h => answers_spsUnknown haux h,
    fun code h => exec_spsUnknown_listed h⟩⟩
  · have hrun : (spsTaken s t).pwr.mgc = true := hmgc
    obtain ⟨hident, hstatus, htelem, -, -, -, -, -, -, hfault⟩ := tcApply_mgc (body := []) hrun
    dsimp only
    refine ⟨?_, ?_, ?_, fun body => answers_tcRead haux hrun, fun body hlen => ?_, ?_⟩
    · obtain ⟨reply, hreply, hlen, hserial⟩ := tcIdent_replies (spsTaken s t)
      exact ⟨reply, (exec_tcIdent ..).trans (congrArg _ (spsFrame_applied haux rfl rfl (hident.trans hreply))), hlen, hserial⟩
    · obtain ⟨reply, v, hreply, hlen, hevents, halert, hregs, hfield⟩ := tcStatus_replies (spsTaken s t)
      exact ⟨reply, v, (exec_tcStatus ..).trans (congrArg _ (spsFrame_applied haux rfl rfl (hstatus.trans hreply))), hlen, hevents, halert, hregs, hfield⟩
    · obtain ⟨reply, hreply, hlen⟩ := tcTelem_replies (spsTaken s t)
      exact ⟨reply, (exec_tcTelem ..).trans (congrArg _ (spsFrame_applied haux rfl rfl (htelem.trans hreply))), hlen⟩
    · cases h : (spsTaken s t).pwr.evLog[field body 0 2]? with
      | some r => exact answers_tcLog haux hrun hlen (by rw [State.tcLog, h])
      | none => exact answers_tcLog haux hrun hlen (by rw [State.tcLog, h]; rfl)
    · obtain ⟨reply, v, hreply, hlen, hregs, hpwr⟩ := tcFault_replies (spsTaken s t)
      exact ⟨reply, v, (exec_tcFaultRead ..).trans (congrArg _ (spsFrame_applied haux rfl rfl (hfault.trans hreply))), hlen, hregs, hpwr⟩
  · exact (exec_tcIdent ..).trans (congrArg _ (spsFrame_on haux (tcRequest_badCrc h)))
  · exact (exec_tcIdent ..).trans (congrArg _ (spsFrame_on haux (h ▸ tcRequest_badLength rfl (by simpa using hbody))))
  · exact (exec_tcFwWrite ..).trans (congrArg _ (spsFrame_on haux (h ▸ tcRequest_badLength rfl hlen)))

end Sys2Proof.Claims
end

section
/-!
LAWS. The flash and its staging: what the next operation, the end of one and the end of a session change (R692, R695, R711 to R715, R725).
-/
namespace Sys2Proof.Machine

theorem State.inc_regs_congr {s t : State} (h : t.regs = s.regs) (f : Fld) (i n : Nat) : (t.inc f i n).regs = (s.inc f i n).regs := by
  rw [State.inc, State.inc, State.wr, State.wr, State.rd_of_regs _ _ _ _ h]
  dsimp only
  rw [h]

/-! ## The next operation -/

/-- The next flash operation touches the serial port master and the staging in progress, which stays while its command is there. -/
theorem State.nextFlash_starts (s : State) : ∃ (m : Spm) (fw : Option FwWrite), s.nextFlash = s.pwrMap (fun p => { p with spm := m, fwWrite := fw }) ∧
    ∀ w c, s.pwr.fwWrite = some w → s.cmd? w.cid = some c → fw = some w := by
  unfold State.nextFlash
  split
  · exact ⟨s.pwr.spm, s.pwr.fwWrite, rfl, fun w c hw _ => hw⟩
  split
  next w x hw =>
    split
    next hnone => exact ⟨s.pwr.spm, none, rfl, fun w' c hw' hc => by rw [hw] at hw'; cases hw'; rw [hnone] at hc; cases hc⟩
    next c hc =>
      split
      · exact ⟨_, s.pwr.fwWrite, rfl, fun w c hw _ => hw⟩
      · exact ⟨_, s.pwr.fwWrite, rfl, fun w c hw _ => hw⟩
      · exact ⟨s.pwr.spm, s.pwr.fwWrite, rfl, fun w c hw _ => hw⟩
  next x hw hx =>
    split
    · exact ⟨_, s.pwr.fwWrite, rfl, fun w c hw _ => hw⟩
    split
    · exact ⟨_, s.pwr.fwWrite, rfl, fun w c hw _ => hw⟩
    · exact ⟨s.pwr.spm, s.pwr.fwWrite, rfl, fun w c hw _ => hw⟩
  · exact ⟨s.pwr.spm, s.pwr.fwWrite, rfl, fun w c hw _ => hw⟩

/-- With no staging the next operation is none. -/
theorem State.nextFlash_idle {s : State} (hw : s.pwr.fwWrite = none) (hx : s.pwr.session = none) : s.nextFlash = s := by
  unfold State.nextFlash
  rw [hw, hx]
  split <;> rfl

theorem State.nextFlash_session (s : State) : s.nextFlash.pwr.session = s.pwr.session := by
  obtain ⟨m, fw, h, -⟩ := s.nextFlash_starts
  rw [h]
  rfl

theorem State.nextFlash_boot (s : State) : s.nextFlash.pwr.boot = s.pwr.boot := by
  obtain ⟨m, fw, h, -⟩ := s.nextFlash_starts
  rw [h]
  rfl

theorem State.nextFlash_bank (s : State) (k : Nat) : s.nextFlash.bank k = s.bank k := by
  obtain ⟨m, fw, h, -⟩ := s.nextFlash_starts
  rw [h]
  rfl

/-! ## Areas of the flash -/

theorem State.bank_session (s : State) (x : Option Session) (k : Nat) : (s.pwrMap (fun p => { p with session := x })).bank k = s.bank k := rfl

theorem State.bank_fwWrite (s : State) (w : Option FwWrite) (k : Nat) : (s.pwrMap (fun p => { p with fwWrite := w })).bank k = s.bank k := rfl

theorem State.bank_bankMap (s : State) (k : Nat) (f : Area → Area) : (s.bankMap k f).bank k = f (s.bank k) := by
  unfold State.bankMap State.bank
  by_cases h : k = 1
  · simp only [h, if_true, State.pwrMap_pwr]
  · simp only [h, if_false, State.pwrMap_pwr]

theorem State.bankMap_keeps {α : Type} {π : State → α} (ha : ∀ (s : State) a, π (s.pwrMap (fun p => { p with bankA := a })) = π s)
    (hb : ∀ (s : State) a, π (s.pwrMap (fun p => { p with bankB := a })) = π s) (s : State) (k : Nat) (f : Area → Area) : π (s.bankMap k f) = π s := by
  by_cases h : k = 1
  · exact Eq.trans (by rw [State.bankMap]; simp only [h, if_true]; rfl) (ha s (f s.pwr.bankA))
  · exact Eq.trans (by rw [State.bankMap]; simp only [h, if_false]; rfl) (hb s (f s.pwr.bankB))

section
variable {k off : Nat} (hk : k = 1 ∨ k = 2) (hoff : off < 2 ^ 24) (s : State)
include hk hoff

/-- A program in a bank (R689). -/
theorem State.programAt_bank (b : Bytes) : s.programAt (bankBase k + off) b = s.bankMap k (fun a => a.program off b) := by
  rcases hk with rfl | rfl
  · have haddr : bankBase 1 + off = off := Nat.zero_add off
    rw [State.programAt, haddr, if_pos (by omega)]
  · have haddr : bankBase 2 + off = 0x01000000 + off := rfl
    rw [State.programAt, haddr, if_neg (by omega), if_pos (by omega), Nat.add_sub_cancel_left]

/-- An erase in a bank (R689). -/
theorem State.eraseAt_bank (len : Nat) : s.eraseAt (bankBase k + off) len = s.bankMap k (fun a => a.wipe off len) := by
  rcases hk with rfl | rfl
  · have haddr : bankBase 1 + off = off := Nat.zero_add off
    rw [State.eraseAt, haddr, if_pos (by omega)]
  · have haddr : bankBase 2 + off = 0x01000000 + off := rfl
    rw [State.eraseAt, haddr, if_neg (by omega), if_pos (by omega), Nat.add_sub_cancel_left]

end

/-! ## The end of an operation -/

/-- The power state beside the serial port master. -/
def Power.besideSpm (p : Power) : Power := { p with spm := ⟨[], none, [], 0, false, false⟩ }

theorem State.fetchLine_besideSpm (s : State) (line : Nat) : (s.fetchLine line).pwr.besideSpm = s.pwr.besideSpm := rfl

theorem State.fetchLine_op (s : State) (line : Nat) : (s.fetchLine line).pwr.spm.op = s.pwr.spm.op := rfl

theorem State.fetchLine_host (s : State) (line : Nat) : (s.fetchLine line).host = s.host := rfl

/-- Serving the reads that waited touches line buffer, counts and what is sent. -/
theorem State.releaseXip_keeps {α : Type} {π : State → α} (hfetch : ∀ (s : State) l, π (s.fetchLine l) = π s)
    (hemit : ∀ (s : State) o, π (s.emit o) = π s) (hqueue : ∀ (s : State) (q : List Nat → List Nat), π (s.spmMap (fun m => { m with queue := q m.queue })) = π s) (s : State) :
    π s.releaseXip = π s := by
  unfold State.releaseXip
  refine (State.each_keeps (π := π) _ _ fun t l => ?_).trans (hqueue s _)
  split
  · exact hemit t _
  · exact hfetch t l

/-- An operation carried out: its addresses wiped, or its page programmed. -/
def State.flashWritten (s : State) (o : FlashOp) (page : Bytes) : State :=
  if o.erase then s.eraseAt o.addr o.len else s.when (!page.isEmpty) (fun s => s.programAt o.addr page)

theorem State.endFlash_eq (s : State) (o : FlashOp) (page : Bytes) :
    s.endFlash o page = ((s.flashWritten o page).spmMap (fun m => { m with op := none })).releaseXip := rfl

theorem State.endFlash_besideSpm (s : State) (o : FlashOp) (page : Bytes) :
    (s.endFlash o page).pwr.besideSpm = (s.flashWritten o page).pwr.besideSpm := by
  rw [State.endFlash_eq]
  exact State.releaseXip_keeps (π := fun t => t.pwr.besideSpm) State.fetchLine_besideSpm (fun _ _ => rfl) (fun _ _ => rfl) _

theorem State.endFlash_op (s : State) (o : FlashOp) (page : Bytes) : (s.endFlash o page).pwr.spm.op = none := by
  rw [State.endFlash_eq]
  exact State.releaseXip_keeps (π := fun t => t.pwr.spm.op) State.fetchLine_op (fun _ _ => rfl) (fun _ _ => rfl) _

theorem State.bank_of_besideSpm {s t : State} (h : t.pwr.besideSpm = s.pwr.besideSpm) (k : Nat) : t.bank k = s.bank k := by
  have ha : t.pwr.bankA = s.pwr.bankA := (congrArg Power.bankA h :)
  have hb : t.pwr.bankB = s.pwr.bankB := (congrArg Power.bankB h :)
  rw [State.bank, State.bank, ha, hb]

theorem State.session_of_besideSpm {s t : State} (h : t.pwr.besideSpm = s.pwr.besideSpm) : t.pwr.session = s.pwr.session := (congrArg Power.session h :)

theorem State.fwWrite_of_besideSpm {s t : State} (h : t.pwr.besideSpm = s.pwr.besideSpm) : t.pwr.fwWrite = s.pwr.fwWrite := (congrArg Power.fwWrite h :)

section
variable {s : State} {o : FlashOp} {k off : Nat} (hk : k = 1 ∨ k = 2) (hoff : off < 2 ^ 24) (haddr : o.addr = bankBase k + off)
include hk hoff haddr

/-- A page of a bank programmed. -/
theorem State.endFlash_program {page : Bytes} (herase : o.erase = false) (hpage : page ≠ []) :
    (s.endFlash o page).bank k = (s.bank k).program off page := by
  have hsome : (!page.isEmpty) = true := by simpa using hpage
  rw [State.bank_of_besideSpm (s.endFlash_besideSpm o page), State.flashWritten, herase, if_neg Bool.false_ne_true, hsome, State.when_true, haddr,
    State.programAt_bank hk hoff, State.bank_bankMap]

/-- Sectors of a bank erased. -/
theorem State.endFlash_erase (page : Bytes) (herase : o.erase = true) : (s.endFlash o page).bank k = (s.bank k).wipe off o.len := by
  rw [State.bank_of_besideSpm (s.endFlash_besideSpm o page), State.flashWritten, herase, if_pos rfl, haddr, State.eraseAt_bank hk hoff,
    State.bank_bankMap]

end

/-! ## The end of a session (R695) -/

theorem State.stageWrite_session (s : State) (c : Cmd) : (s.stageWrite c).pwr.session = s.pwr.session := by
  unfold State.stageWrite
  dsimp only
  rw [State.nextFlash_session]
  rfl

theorem State.stageNext_session (s : State) : s.stageNext.pwr.session = s.pwr.session := by
  unfold State.stageNext
  split
  next cid rest =>
    split
    · rfl
    · dsimp only
      split
      · rw [State.stageWrite_session]
        rfl
      · rfl
  · rfl

/-- The power state beside the hot-swap switch. -/
theorem State.tryClose_switches (s : State) : ∃ (on good : Bool) (due : Option StartKind),
    s.tryClose = s.pwrMap (fun p => { p with switchOn := on, pwrGood := good, startDue := due }) := by
  unfold State.tryClose
  dsimp only
  split
  · exact ⟨s.pwr.switchOn, s.pwr.pwrGood, s.pwr.startDue, rfl⟩
  split
  · exact ⟨true, _, some s.pwr.kind, rfl⟩
  · exact ⟨true, _, s.pwr.startDue, rfl⟩

theorem State.tryClose_session (s : State) : s.tryClose.pwr.session = s.pwr.session := by
  obtain ⟨on, good, due, h⟩ := s.tryClose_switches
  rw [h]
  rfl

theorem State.tryClose_boot (s : State) : s.tryClose.pwr.boot = s.pwr.boot := by
  obtain ⟨on, good, due, h⟩ := s.tryClose_switches
  rw [h]
  rfl

theorem State.tryClose_efuse (s : State) : s.tryClose.pwr.efuse = s.pwr.efuse := by
  obtain ⟨on, good, due, h⟩ := s.tryClose_switches
  rw [h]
  rfl

/-- A session that ends is gone. -/
theorem State.endSession_session (s : State) : s.endSession.pwr.session = none := by
  unfold State.endSession
  dsimp only
  rw [State.tryClose_session, State.stageNext_session]
  rfl

/-- With no staging that waits, its end leaves the boot record. -/
theorem State.endSession_boot {s : State} (h : s.pwr.fwWait = []) : s.endSession.pwr.boot = s.pwr.boot := by
  unfold State.endSession
  dsimp only
  rw [State.tryClose_boot, Claims.stageNext_idle (by exact h)]
  rfl

end Sys2Proof.Machine
end

section
/-!
PROOFS. The tray's firmware session and its end, chunks, cut transfers and the re-arm of the e-fuse (R664, R695, R724 to R726).
-/
namespace Sys2Proof.Claims
open Sys2Proof Sys2Proof.Machine

theorem exec_spsTransferCut (bytes : Bytes) (t : Nat) (s : State) : exec (.spsTransferCut bytes t) s = .next (s.spsCut bytes t) := rfl

theorem exec_tcFwSessionTimeout (t : Nat) (s : State) : exec (.tcFwSessionTimeout t) s = .next (s.sessionTimeout t) := rfl

theorem exec_fwChunkProgrammed (t : Nat) (s : State) : exec (.fwChunkProgrammed t) s = .next (s.chunkDone t) := rfl

/-! ## The requests of a session -/

section
variable {s : State} {body : Bytes}

/-- A session opened on the inactive bank (R693, R695). -/
theorem tcOpen_opens (hsession : s.pwr.session = none) (hwrite : s.pwr.fwWrite = none) (hmin : 64 ≤ field body 0 4) (hmax : field body 0 4 ≤ 2 ^ 24) :
    ∃ v, s.tcOpen body = (v, 0, []) ∧ v.pwr.session = some ⟨s.inactive, field body 0 4, [], [], 0, s.clk.now⟩ ∧ v.pwr.boot.staged = 0 := by
  refine ⟨_, if_neg ?_, State.nextFlash_session _, congrArg Boot.staged (State.nextFlash_boot _)⟩
  rintro (h | h | h | h)
  · simp [hsession] at h
  · simp [hwrite] at h
  · omega
  · omega

/-- A chunk not taken before is buffered (R725, R726). -/
theorem tcWrite_takes {x : Session} (hsession : s.pwr.session = some x) (hroom : x.buffered.length < 2) (hpage : field body 0 4 % 256 = 0)
    (hin : field body 0 4 + 256 ≤ x.length) (hnew : x.written.all (fun c => c.1 != field body 0 4) = true) :
    ∃ v, s.tcWrite body = (v, 0, []) ∧ v.pwr.session =
      some { x with written := x.written ++ [(field body 0 4, body.drop 4)], buffered := x.buffered ++ [field body 0 4] } := by
  have hfind : x.written.find? (fun c => c.1 == field body 0 4) = none := by
    refine List.find?_eq_none.2 fun c hc => ?_
    have hother := List.all_eq_true.1 hnew c hc
    simpa using hother
  refine ⟨(s.pwrMap (fun p => { p with session := some { x with
    written := x.written ++ [(field body 0 4, body.drop 4)], buffered := x.buffered ++ [field body 0 4] } })).nextFlash, ?_, State.nextFlash_session _⟩
  unfold State.tcWrite
  rw [hsession]
  dsimp only
  rw [if_neg (by omega), if_neg (by omega), hfind]

/-- The code TC_FW_CLOSE answers: the image valid, its CRC not that given, or the image not one (R692). -/
def closeCode (ok crcOk : Bool) : Byte := if ok then 0 else if crcOk then 2 else 1

theorem closeCode_cases (ok crcOk : Bool) : (closeCode ok crcOk = 0 ∨ closeCode ok crcOk = 1 ∨ closeCode ok crcOk = 2) ∧
    (if ok then (1 : Nat) else 2) = (if closeCode ok crcOk = 0 then 1 else 2) := by
  cases ok <;> cases crcOk <;> decide

/-- The image of a session programmed whole, its chunks last. -/
def imageWritten (s : State) (x : Session) : State :=
  (s.bankMap x.bank (fun a => a.wipe (65536 * x.erased) (65536 * (cdiv x.length 65536 - x.erased)))).each x.buffered (fun s off =>
    s.bankMap x.bank (fun a => a.program off (((x.written.find? (fun c => c.1 == off)).map (fun c => c.2)).getD [])))

theorem imageWritten_fwWait (s : State) (x : Session) : (imageWritten s x).pwr.fwWait = s.pwr.fwWait := by
  have hbank (t : State) (f : Area → Area) : (t.bankMap x.bank f).pwr.fwWait = t.pwr.fwWait :=
    State.bankMap_keeps (π := fun t => t.pwr.fwWait) (fun _ _ => rfl) (fun _ _ => rfl) t _ f
  exact (State.each_keeps (π := fun t => t.pwr.fwWait) _ _ fun t off => hbank t _).trans (hbank s _)

theorem tcClose_closes {x : Session} (hsession : s.pwr.session = some x) (hroom : x.buffered.length < 2) : ∃ (u : State) (ok crcOk : Bool),
    s.tcClose body = (u.endSession, 0, [closeCode ok crcOk]) ∧ u.pwr.fwWait = s.pwr.fwWait ∧
      u.pwr.boot.staged = if ok then 1 else 2 := by
  let crcOk := crc32c ((imageWritten s x).bankBytes x.bank 0 x.length) == field body 0 4
  let ok := crcOk && (imageWritten s x).imageOk ((imageWritten s x).bankBytes x.bank 0 x.length)
  refine ⟨(imageWritten s x).bootMap (fun b => { b with staged := if ok then 1 else 2, empty := !ok, stagedMeasure := 0 }), ok, crcOk, ?_,
    imageWritten_fwWait s x, rfl⟩
  unfold State.tcClose
  rw [hsession]
  dsimp only
  rw [if_neg (by omega)]
  rfl

theorem tcRearm_rearms (htripped : s.pwr.efuse.tripped = true) (hlocked : s.pwr.efuse.locked = false)
    (hpast : ∀ a ∈ s.pwr.efuse.trips, a + ns 1000000000 ≤ s.clk.now) : ∃ v, s.tcRearm = (v, 0, []) ∧ v.pwr.efuse.tripped = false := by
  refine ⟨(s.pwrMap (fun p => { p with efuse := { p.efuse with tripped := false } })).tryClose, ?_, congrArg Efuse.tripped (State.tryClose_efuse _)⟩
  unfold State.tcRearm
  dsimp only
  rw [htripped, hlocked]
  cases h : s.pwr.efuse.trips with
  | nil => rfl
  | cons a l =>
    have ha : ¬ s.clk.now < a + ns 1000000000 := Nat.not_lt.2 (hpast a (h ▸ List.mem_cons_self))
    exact (if_neg (by decide)).trans (if_neg (by simpa using ha))

theorem tcRearm_locked (htripped : s.pwr.efuse.tripped = true) (hlocked : s.pwr.efuse.locked = true) : s.tcRearm = (s, 1, []) := by
  unfold State.tcRearm
  dsimp only
  rw [htripped, hlocked]
  rfl

end

/-! ## Transfers cut short, and the end of a session (R695, R724) -/

section
variable {s : State} {t : Nat}

theorem spsCut_early {bytes : Bytes} (haux : (s.advance t).pwr.aux = true) (h : bytes.length < 4 + field bytes 1 2) :
    s.spsCut bytes t = ((s.advance t).inc spsCutCount).pwrMap (fun p => { p with spsLast := true }) := by
  unfold State.spsCut
  dsimp only
  rw [if_neg (by simp [haux]), if_neg (by simpa using h)]

theorem spsCut_whole {bytes reply : Bytes} {v : State} (haux : (s.advance t).pwr.aux = true) (hwhole : 4 + field bytes 1 2 ≤ bytes.length)
    (h : (s.advance t).tcRequest (field bytes 0 1) (slice bytes 3 (field bytes 1 2)) (bytes.getD (3 + field bytes 1 2) 0) = (v, 0, reply)) :
    s.spsCut bytes t = (v.inc spsCutCount).pwrMap (fun p => { p with spsLast := true }) := by
  unfold State.spsCut
  dsimp only
  rw [if_neg (by simp [haux]), if_pos (decide_eq_true hwhole), h]
  rfl

theorem tcApply_status (u : State) : u.tcApply 0x02 [] = u.tcStatus := if_neg (by simp)

/-- A TC_STATUS cut after its CRC byte is applied (R724). -/
theorem spsCut_status (haux : (s.advance t).pwr.aux = true) : ∃ v : State,
    s.spsCut [0x02, 0, 0, spsCrc 0x02 []] t = (v.inc spsCutCount).pwrMap (fun p => { p with spsLast := true }) ∧ v.pwr.trayEvents = 0 ∧
      v.pwr.alert = false ∧ v.regs = (s.advance t).regs := by
  obtain ⟨reply, v, hreply, -, hevents, halert, hregs, -⟩ := tcStatus_replies (spsTaken s t)
  have hrequest : (s.advance t).tcRequest 0x02 [] (spsCrc 0x02 []) = (v, 0, reply) :=
    (tcRequest_applied rfl rfl).trans ((tcApply_status _).trans hreply)
  have hcut (crc : Byte) : field [0x02, 0, 0, crc] 0 1 = 0x02 ∧ field [0x02, 0, 0, crc] 1 2 = 0 := ⟨rfl, rfl⟩
  obtain ⟨hcode, hnone⟩ := hcut (spsCrc 0x02 [])
  refine ⟨v, spsCut_whole (reply := reply) haux (hnone ▸ Nat.le_refl 4) ?_, hevents, halert, hregs⟩
  rw [hcode, hnone]
  exact hrequest

theorem sessionTimeout_ends {x : Session} (hsession : (s.advance t).pwr.session = some x) : s.sessionTimeout t =
    if x.lastAt + ns 600000000000 ≤ (s.advance t).clk.now then (s.advance t).endSession else s.advance t := by
  unfold State.sessionTimeout
  dsimp only
  rw [hsession]

/-- The program of the oldest buffered chunk ends (R725). -/
theorem chunkDone_programs {x : Session} {o : FlashOp} {off : Nat} {rest : List Nat} {chunk : Bytes} (hsession : (s.advance t).pwr.session = some x)
    (hop : (s.advance t).pwr.spm.op = some o) (hbuffered : x.buffered = off :: rest) (herase : o.erase = false) (hrun : o.suspended = false)
    (haddr : o.addr = bankBase x.bank + off) (hfind : x.written.find? (fun c => c.1 == off) = some (off, chunk)) :
    s.chunkDone t = (((s.advance t).endFlash o chunk).pwrMap (fun p => { p with session := some { x with buffered := rest } })).nextFlash := by
  unfold State.chunkDone
  dsimp only
  rw [hop, hsession]
  dsimp only
  rw [hbuffered]
  dsimp only
  rw [if_neg (by simp [herase, hrun, haddr]), hfind]
  rfl

end

/-- Settles O11: each request by what it leaves of the session, the flash and the e-fuse, and the end of a chunk by the page it programs. -/
theorem traySessions : Obligations.TraySessions := by
  refine ⟨fun s t haux hmgc => ?_, fun s t => ?_⟩
  · have hrun : (spsTaken s t).pwr.mgc = true := hmgc
    dsimp only
    refine ⟨fun body hlen hsession hwrite hmin hmax => ?_, fun body x hlen hsession hroom hpage hin hnew => ?_, fun body x hlen hsession hroom => ?_,
      fun htripped hlocked hpast => ?_, fun htripped hlocked => ?_⟩
    · obtain ⟨-, -, -, -, hopen, -⟩ := tcApply_mgc (body := body) hrun
      obtain ⟨v, hv, hnew, hstaged⟩ := tcOpen_opens hsession hwrite hmin hmax
      exact ⟨v, _, (exec_tcFwOpen ..).trans (congrArg _ (spsFrame_applied haux rfl hlen (hopen.trans hv))), hnew, rfl, rfl, rfl, rfl, hstaged⟩
    · obtain ⟨-, -, -, -, -, hwrite, -⟩ := tcApply_mgc (body := body) hrun
      obtain ⟨v, hv, hnext⟩ := tcWrite_takes hsession hroom hpage hin hnew
      exact ⟨v, _, (exec_tcFwWrite ..).trans (congrArg _ (spsFrame_applied haux rfl hlen (hwrite.trans hv))), hnext, rfl, rfl⟩
    · obtain ⟨-, -, -, -, -, -, hclose, -⟩ := tcApply_mgc (body := body) hrun
      obtain ⟨v, ok, crcOk, hv, hwait, hstaged⟩ := tcClose_closes (body := body) hsession hroom
      obtain ⟨hcode, hvalid⟩ := closeCode_cases ok crcOk
      refine ⟨_, _, (exec_tcFwClose ..).trans (congrArg _ (spsFrame_applied haux rfl hlen (hclose.trans hv))), State.endSession_session _, hcode,
        fun hnone => ?_⟩
      rw [State.endSession_boot (hwait.trans hnone), hstaged, hvalid]
    · obtain ⟨-, -, -, hrearm, -⟩ := tcApply_mgc (body := []) hrun
      obtain ⟨v, hv, hclosed⟩ := tcRearm_rearms htripped hlocked hpast
      exact ⟨v, (exec_tcEfuseRearm ..).trans (congrArg _ (spsFrame_applied haux rfl rfl (hrearm.trans hv))), hclosed⟩
    · obtain ⟨-, -, -, hrearm, -⟩ := tcApply_mgc (body := []) hrun
      exact (exec_tcEfuseRearm ..).trans (congrArg _ (spsFrame_applied haux rfl rfl (hrearm.trans (tcRearm_locked htripped hlocked))))
  · dsimp only
    refine ⟨fun bytes haux h => (exec_spsTransferCut ..).trans (congrArg _ (spsCut_early haux h)), fun haux => ?_, fun x hsession => ?_,
      fun x o off rest chunk hsession hop hbuffered herase hrun haddr hbank hoff hfind hchunk => ?_⟩
    · obtain ⟨v, hv, hevents, halert, hregs⟩ := spsCut_status haux
      refine ⟨_, (exec_spsTransferCut ..).trans (congrArg _ hv), hevents, halert, rfl, State.inc_regs_congr hregs _ _ _⟩
    · have hends := sessionTimeout_ends hsession
      split
      case isTrue h =>
        rw [if_pos h] at hends
        exact ⟨_, (exec_tcFwSessionTimeout t s).trans (congrArg _ hends), State.endSession_session _, State.endSession_boot⟩
      case isFalse h =>
        rw [if_neg h] at hends
        exact (exec_tcFwSessionTimeout t s).trans (congrArg _ hends)
    · refine ⟨_, _, (exec_fwChunkProgrammed t s).trans (congrArg _ (chunkDone_programs hsession hop hbuffered herase hrun haddr hfind)),
        State.nextFlash_session _, rfl, rfl, ?_⟩
      rw [State.nextFlash_bank, State.bank_session, State.endFlash_program hbank hoff haddr herase hchunk]
      rfl

end Sys2Proof.Claims
end

section
/-!
PROOFS. Reads of the execute-in-place window, and the flash operations behind it (R708, R709, R711, R712, R714, R715, R800).
-/
namespace Sys2Proof.Claims
open Sys2Proof Sys2Proof.Machine

theorem exec_xipRead (addr : Word) (waitNs t : Nat) (s : State) : exec (.xipRead addr waitNs t) s = .next (s.xipRead addr.toNat waitNs t) := rfl

theorem exec_xipWrite (addr : Word) (s : State) : exec (.xipWrite addr) s = .next s.xipWrite := rfl

theorem exec_xipResume (t : Nat) (s : State) : exec (.xipResume t) s = .next (s.xipResume t) := rfl

theorem exec_flashOpDone (t : Nat) (s : State) : exec (.flashOpDone t) s = .next (s.flashDone t) := rfl

theorem exec_spmCommandTransfer (c : SpmCmd) (addr : Word) (data : Bytes) (t : Nat) (s : State) :
    exec (.spmCommandTransfer c addr data t) s = .next (s.spmTransfer c addr.toNat data t) := rfl

/-! ## The window -/

/-- A read of a line, once the MGC runs and the cold data allows it (R711 to R715). -/
def lineRead (u : State) (line waitNs : Nat) : State :=
  if u.pwr.spm.lines.contains line then u.emit (.xip (u.flashBytes line 64) false)
  else if u.onBusyBlock line then (u.inc spmXipHeldCount).spmMap (fun m => { m with queue := m.queue ++ [line] })
  else
    let s := match u.pwr.spm.op with
      | some o =>
        if o.suspended then u
        else
          let n := o.suspends + 1
          let s := (u.inc spmSuspendsCount).spmMap (fun m => { m with op := some { o with suspended := true, suspends := n } })
          s.when (n == 64) (fun s => s.ev spmEventStarved)
      | none => u
    (s.peak spmXipWaitMaxNs 0 waitNs).fetchLine line

section
variable {s : State} {addr waitNs t : Nat} (hmgc : (s.advance t).pwr.mgc = true)
include hmgc

theorem xipRead_bad (hcold : (s.advance t).inCold (addr / 64 * 64) = true) (hbad : (s.advance t).pwr.boot.coldBad = true) :
    s.xipRead addr waitNs t = (s.advance t).emit (.xip [] true) := by
  unfold State.xipRead
  dsimp only
  rw [if_neg (by simp [hmgc]), if_pos (by simp [hcold, hbad])]

theorem xipRead_unchecked (hcold : (s.advance t).inCold (addr / 64 * 64) = true) (hbad : (s.advance t).pwr.boot.coldBad = false)
    (hok : (s.advance t).pwr.boot.coldOk = false) :
    s.xipRead addr waitNs t = (s.advance t).spmMap (fun m => { m with queue := m.queue ++ [addr / 64 * 64] }) := by
  unfold State.xipRead
  dsimp only
  rw [if_neg (by simp [hmgc]), if_neg (by simp [hbad]), if_pos (by simp [hcold, hok])]

theorem xipRead_line (h : (s.advance t).inCold (addr / 64 * 64) = false ∨ (s.advance t).pwr.boot.coldBad = false ∧ (s.advance t).pwr.boot.coldOk = true) :
    s.xipRead addr waitNs t = lineRead (s.advance t) (addr / 64 * 64) waitNs := by
  unfold State.xipRead
  dsimp only
  rw [if_neg (by simp [hmgc])]
  rcases h with h | ⟨hbad, hok⟩
  · rw [if_neg (by simp [h]), if_neg (by simp [h])]
    rfl
  · rw [if_neg (by simp [hbad]), if_neg (by simp [hok])]
    rfl

end

section
variable {u : State} {line waitNs : Nat}

theorem lineRead_buffered (h : line ∈ u.pwr.spm.lines) : lineRead u line waitNs = u.emit (.xip (u.flashBytes line 64) false) :=
  if_pos (List.contains_iff_mem.2 h)

variable (h : line ∉ u.pwr.spm.lines)
include h

theorem lineRead_busy (hbusy : u.onBusyBlock line = true) :
    lineRead u line waitNs = (u.inc spmXipHeldCount).spmMap (fun m => { m with queue := m.queue ++ [line] }) := by
  rw [lineRead, if_neg (by simpa using h), if_pos hbusy]

theorem lineRead_idle (hop : u.pwr.spm.op = none) : lineRead u line waitNs = (u.peak spmXipWaitMaxNs 0 waitNs).fetchLine line := by
  have hfree : u.onBusyBlock line = false := by rw [State.onBusyBlock, hop]
  rw [lineRead, if_neg (by simpa using h), if_neg (by simp [hfree]), hop]

/-- An operation suspended once for a read elsewhere (R714). -/
def opSuspended (u : State) (o : FlashOp) : State :=
  if o.suspended then u
  else ((u.inc spmSuspendsCount).spmMap (fun m => { m with op := some { o with suspended := true, suspends := o.suspends + 1 } })).when
    (o.suspends + 1 == 64) (fun s => s.ev spmEventStarved)

theorem lineRead_suspends {o : FlashOp} (hfree : u.onBusyBlock line = false) (hop : u.pwr.spm.op = some o) :
    lineRead u line waitNs = ((opSuspended u o).peak spmXipWaitMaxNs 0 waitNs).fetchLine line := by
  rw [lineRead, if_neg (by simpa using h), if_neg (by simp [hfree]), hop]
  rfl

end

theorem fetchLine_reads (s : State) (line : Nat) : (s.fetchLine line).out = s.out ++ [.xip (s.flashBytes line 64) false] ∧
    (s.fetchLine line).pwr.spm.lines.head? = some line ∧ (s.fetchLine line).pwr.spm.lines.length ≤ 16 :=
  ⟨rfl, rfl, List.length_take_le _ _⟩

theorem opSuspended_keeps {α : Type} {π : State → α} (hwr : ∀ (t : State) f i v, π (t.wr f i v) = π t)
    (hop : ∀ (t : State) o, π (t.spmMap (fun m => { m with op := o })) = π t) (u : State) (o : FlashOp) : π (opSuspended u o) = π u := by
  unfold opSuspended
  split
  · rfl
  · exact (State.when_keeps (π := π) _ _ fun t => hwr t _ _ _).trans ((hop _ _).trans (hwr _ _ _ _))

theorem opSuspended_op {u : State} {o : FlashOp} (hop : u.pwr.spm.op = some o) : ∃ o', (opSuspended u o).pwr.spm.op = some o' ∧ o'.suspended = true ∧
    o'.suspends = if o.suspended then o.suspends else o.suspends + 1 := by
  unfold opSuspended
  cases hs : o.suspended with
  | true => exact ⟨o, hop, hs, rfl⟩
  | false =>
    refine ⟨{ o with suspended := true, suspends := o.suspends + 1 }, ?_, rfl, rfl⟩
    rw [if_neg Bool.false_ne_true, State.when_keeps (π := fun t => t.pwr.spm.op) (f := fun s => s.ev spmEventStarved) _ _ fun _ => rfl]
    rfl

theorem answers_xipRead_idle {s : State} {addr : Word} {waitNs t : Nat}
    (h : s.xipRead addr.toNat waitNs t = lineRead (s.advance t) (addr.toNat / 64 * 64) waitNs)
    (hmiss : addr.toNat / 64 * 64 ∉ (s.advance t).pwr.spm.lines) (hop : (s.advance t).pwr.spm.op = none) :
    ∃ v, Answers (.xipRead addr waitNs t) s v ∧ v.out = (s.advance t).out ++ [.xip ((s.advance t).flashBytes (addr.toNat / 64 * 64) 64) false] ∧
      v.pwr.spm.lines.head? = some (addr.toNat / 64 * 64) ∧ v.pwr.spm.lines.length ≤ 16 ∧ v.pwr.spm.op = none := by
  obtain ⟨hout, hhead, hlen⟩ := fetchLine_reads ((s.advance t).peak spmXipWaitMaxNs 0 waitNs) (addr.toNat / 64 * 64)
  exact ⟨_, (exec_xipRead ..).trans (congrArg _ (h.trans (lineRead_idle hmiss hop))), hout, hhead, hlen, hop⟩

theorem answers_xipRead_suspends {s : State} {addr : Word} {waitNs t : Nat} {o : FlashOp}
    (h : s.xipRead addr.toNat waitNs t = lineRead (s.advance t) (addr.toNat / 64 * 64) waitNs)
    (hmiss : addr.toNat / 64 * 64 ∉ (s.advance t).pwr.spm.lines) (hfree : (s.advance t).onBusyBlock (addr.toNat / 64 * 64) = false)
    (hop : (s.advance t).pwr.spm.op = some o) :
    ∃ v o', Answers (.xipRead addr waitNs t) s v ∧ v.out = (s.advance t).out ++ [.xip ((s.advance t).flashBytes (addr.toNat / 64 * 64) 64) false] ∧
      v.pwr.spm.op = some o' ∧ o'.suspended = true ∧ o'.suspends = if o.suspended then o.suspends else o.suspends + 1 := by
  obtain ⟨hout, -⟩ := fetchLine_reads ((opSuspended (s.advance t) o).peak spmXipWaitMaxNs 0 waitNs) (addr.toNat / 64 * 64)
  obtain ⟨o', hop', hsuspended, hcount⟩ := opSuspended_op hop
  have hkept := opSuspended_keeps (π := fun u => (u.out, u.flashBytes (addr.toNat / 64 * 64) 64)) (fun _ _ _ _ => rfl) (fun _ _ => rfl) (s.advance t) o
  obtain ⟨hsent, hbytes⟩ := Prod.mk.inj hkept
  refine ⟨_, o', (exec_xipRead ..).trans (congrArg _ (h.trans (lineRead_suspends hmiss hfree hop))), hout.trans ?_, hop', hsuspended, hcount⟩
  rw [← hsent, ← hbytes]
  rfl

/-! ## The flash behind the window -/

section
variable {s : State} {t : Nat} {o : FlashOp} (hop : (s.advance t).pwr.spm.op = some o)
include hop

theorem xipResume_due (hsuspended : o.suspended = true) (hdue : (s.advance t).pwr.spm.lastRead + ns 2000 ≤ (s.advance t).clk.now) :
    s.xipResume t = (s.advance t).spmMap (fun m => { m with op := some { o with suspended := false } }) := by
  unfold State.xipResume
  dsimp only
  rw [hop]
  exact if_pos ⟨hsuspended, hdue⟩

theorem flashDone_suspended (hsuspended : o.suspended = true) : s.flashDone t = s.advance t := by
  unfold State.flashDone
  dsimp only
  rw [hop]
  exact if_pos hsuspended

section
variable (hrun : o.suspended = false)
include hrun

theorem flashDone_unstaged (hwrite : (s.advance t).pwr.fwWrite = none) (hsession : (s.advance t).pwr.session = none) :
    s.flashDone t = ((s.advance t).endFlash o []).nextFlash := by
  unfold State.flashDone
  dsimp only
  rw [hop]
  dsimp only
  rw [if_neg (by simp [hrun]), hwrite, hsession]

theorem flashDone_staging {w : FwWrite} (hwrite : (s.advance t).pwr.fwWrite = some w)
    (hin : bankBase w.bank ≤ o.addr ∧ o.addr < bankBase w.bank + 16777216) : s.flashDone t =
      (((s.advance t).endFlash o ((s.advance t).stagePage w o.addr)).pwrMap (fun p => { p with fwWrite := some { w with done := w.done + 1 } })).nextFlash := by
  unfold State.flashDone
  dsimp only
  rw [hop]
  dsimp only
  rw [if_neg (by simp [hrun]), hwrite]
  exact if_pos hin

theorem flashDone_chunk {x : Session} (hwrite : (s.advance t).pwr.fwWrite = none) (hsession : (s.advance t).pwr.session = some x)
    (hin : bankBase x.bank ≤ o.addr ∧ o.addr < bankBase x.bank + 16777216) (herase : o.erase = false) : s.flashDone t = s.advance t := by
  unfold State.flashDone
  dsimp only
  rw [hop]
  dsimp only
  rw [if_neg (by simp [hrun]), hwrite, hsession]
  exact if_pos (by simp [herase, hin])

theorem flashDone_erase {x : Session} (hwrite : (s.advance t).pwr.fwWrite = none) (hsession : (s.advance t).pwr.session = some x)
    (herase : o.erase = true) : s.flashDone t =
      (((s.advance t).endFlash o []).pwrMap (fun p => { p with session := some { x with erased := x.erased + 1 } })).nextFlash := by
  unfold State.flashDone
  dsimp only
  rw [hop]
  dsimp only
  rw [if_neg (by simp [hrun]), hwrite, hsession]
  dsimp only
  rw [if_neg (by simp [herase]), if_pos herase]

end
end

theorem inBank {k off addr : Nat} (h : addr = bankBase k + off) (hoff : off < 2 ^ 24) : bankBase k ≤ addr ∧ addr < bankBase k + 16777216 := by omega

theorem flashWritten_keeps {α : Type} {π : State → α} (ha : ∀ (s : State) a, π (s.pwrMap (fun p => { p with bankA := a })) = π s)
    (hb : ∀ (s : State) a, π (s.pwrMap (fun p => { p with bankB := a })) = π s)
    (hrest : ∀ (s : State) a, π (s.pwrMap (fun p => { p with rest := a })) = π s) (s : State) (o : FlashOp) (page : Bytes) :
    π (s.flashWritten o page) = π s := by
  have herase : π (s.eraseAt o.addr o.len) = π s := by
    unfold State.eraseAt
    split
    · exact State.bankMap_keeps ha hb _ _ _
    split
    · exact State.bankMap_keeps ha hb _ _ _
    · exact hrest s _
  have hprogram (t : State) : π (t.programAt o.addr page) = π t := by
    unfold State.programAt
    split
    · exact State.bankMap_keeps ha hb _ _ _
    split
    · exact State.bankMap_keeps ha hb _ _ _
    · exact hrest t _
  unfold State.flashWritten
  split
  · exact herase
  · exact State.when_keeps (π := π) s _ hprogram

theorem endFlash_host (s : State) (o : FlashOp) (page : Bytes) : (s.endFlash o page).host = s.host := by
  rw [State.endFlash_eq]
  exact (State.releaseXip_keeps (π := State.host) State.fetchLine_host (fun _ _ => rfl) (fun _ _ => rfl) _).trans
    (flashWritten_keeps (π := State.host) (fun _ _ => rfl) (fun _ _ => rfl) (fun _ _ => rfl) s o page)

theorem endFlash_session (s : State) (o : FlashOp) (page : Bytes) : (s.endFlash o page).pwr.session = s.pwr.session :=
  (State.session_of_besideSpm (s.endFlash_besideSpm o page)).trans
    (flashWritten_keeps (π := fun t => t.pwr.session) (fun _ _ => rfl) (fun _ _ => rfl) (fun _ _ => rfl) s o page)

theorem endFlash_fwWrite (s : State) (o : FlashOp) (page : Bytes) : (s.endFlash o page).pwr.fwWrite = s.pwr.fwWrite :=
  (State.fwWrite_of_besideSpm (s.endFlash_besideSpm o page)).trans
    (flashWritten_keeps (π := fun t => t.pwr.fwWrite) (fun _ _ => rfl) (fun _ _ => rfl) (fun _ _ => rfl) s o page)

/-- The areas of the flash (R689). -/
def flashAreas (s : State) : Area × Area × Area := (s.pwr.rest, s.pwr.bankA, s.pwr.bankB)

theorem endFlash_areas (s : State) (o : FlashOp) (page : Bytes) : flashAreas (s.endFlash o page) = flashAreas (s.flashWritten o page) := by
  have h := s.endFlash_besideSpm o page
  exact Prod.ext (congrArg Power.rest h :) (Prod.ext (congrArg Power.bankA h :) (congrArg Power.bankB h :))

/-- An operation outside any staging ends (R714). -/
theorem answers_flashOpDone_unstaged {s : State} {t : Nat} {o : FlashOp} (hop : (s.advance t).pwr.spm.op = some o) (hrun : o.suspended = false)
    (hwrite : (s.advance t).pwr.fwWrite = none) (hsession : (s.advance t).pwr.session = none) :
    ∃ v, Answers (.flashOpDone t) s v ∧ v.pwr.spm.op = none ∧
      (o.erase = false → v.pwr.rest = (s.advance t).pwr.rest ∧ v.pwr.bankA = (s.advance t).pwr.bankA ∧ v.pwr.bankB = (s.advance t).pwr.bankB) ∧
      (o.erase = true → 0x02000000 ≤ o.addr → v.pwr.rest = (s.advance t).pwr.rest.wipe (o.addr - 0x02000000) o.len ∧
        v.pwr.bankA = (s.advance t).pwr.bankA ∧ v.pwr.bankB = (s.advance t).pwr.bankB) := by
  have hidle := State.nextFlash_idle ((endFlash_fwWrite (s.advance t) o []).trans hwrite) ((endFlash_session (s.advance t) o []).trans hsession)
  have hareas := endFlash_areas (s.advance t) o []
  refine ⟨_, (exec_flashOpDone t s).trans (congrArg _ ((flashDone_unstaged hop hrun hwrite hsession).trans hidle)), State.endFlash_op _ _ _,
    fun herase => ?_, fun herase haddr => ?_⟩
  · rw [State.flashWritten, herase] at hareas
    obtain ⟨hrest, hbanks⟩ := Prod.mk.inj hareas
    obtain ⟨ha, hb⟩ := Prod.mk.inj hbanks
    exact ⟨hrest, ha, hb⟩
  · rw [State.flashWritten, herase, if_pos rfl, State.eraseAt, if_neg (by omega), if_neg (by omega)] at hareas
    obtain ⟨hrest, hbanks⟩ := Prod.mk.inj hareas
    obtain ⟨ha, hb⟩ := Prod.mk.inj hbanks
    exact ⟨hrest, ha, hb⟩

/-- The bank a staging writes, after one of its operations (R692). -/
theorem endFlash_staged {s : State} {o : FlashOp} {k off : Nat} (hk : k = 1 ∨ k = 2) (hoff : off < 2 ^ 24) (haddr : o.addr = bankBase k + off)
    (page : Bytes) : (s.endFlash o page).bank k =
      if o.erase then (s.bank k).wipe off o.len else if page = [] then s.bank k else (s.bank k).program off page := by
  cases herase : o.erase with
  | true => rw [if_pos rfl, State.endFlash_erase hk hoff haddr page herase]
  | false =>
    rw [if_neg Bool.false_ne_true]
    by_cases hpage : page = []
    · rw [if_pos hpage, State.bank_of_besideSpm (s.endFlash_besideSpm o page), State.flashWritten, herase, hpage]
      rfl
    · rw [if_neg hpage, State.endFlash_program hk hoff haddr herase hpage]

/-- An operation of an FW_STAGE ends, and the next begins (R692). -/
theorem answers_flashOpDone_staging {s : State} {t : Nat} {o : FlashOp} {w : FwWrite} {c : Cmd} {off : Nat}
    (hop : (s.advance t).pwr.spm.op = some o) (hrun : o.suspended = false) (hwrite : (s.advance t).pwr.fwWrite = some w)
    (hbank : w.bank = 1 ∨ w.bank = 2) (hcmd : (s.advance t).cmd? w.cid = some c) (haddr : o.addr = bankBase w.bank + off) (hoff : off < 2 ^ 24) :
    ∃ v, Answers (.flashOpDone t) s v ∧ v.pwr.fwWrite = some { w with done := w.done + 1 } ∧
      (v.bank w.bank = if o.erase then ((s.advance t).bank w.bank).wipe off o.len
        else if (c.operands.drop off).take 256 = [] then (s.advance t).bank w.bank
        else ((s.advance t).bank w.bank).program off ((c.operands.drop off).take 256)) := by
  have hpage : (s.advance t).stagePage w o.addr = (c.operands.drop off).take 256 := by
    rw [State.stagePage, hcmd]
    dsimp only
    rw [haddr, Nat.add_sub_cancel_left]
  have hcmd' : (((s.advance t).endFlash o ((c.operands.drop off).take 256)).pwrMap
      (fun p => { p with fwWrite := some { w with done := w.done + 1 } })).cmd? w.cid = some c := by
    refine Eq.trans ?_ hcmd
    rw [State.cmd?, State.cmd?, State.pwrMap_host, endFlash_host]
  have hdone := flashDone_staging hop hrun hwrite (inBank haddr hoff)
  rw [hpage] at hdone
  refine ⟨_, (exec_flashOpDone t s).trans (congrArg _ hdone), ?_, ?_⟩
  · obtain ⟨m, fw, hnext, hkept⟩ := State.nextFlash_starts (((s.advance t).endFlash o ((c.operands.drop off).take 256)).pwrMap
      (fun p => { p with fwWrite := some { w with done := w.done + 1 } }))
    rw [hnext]
    exact hkept _ c rfl hcmd'
  · rw [State.nextFlash_bank, State.bank_fwWrite, endFlash_staged hbank hoff haddr]

theorem answers_flashOpDone_erase {s : State} {t : Nat} {o : FlashOp} {x : Session} {off : Nat} (hop : (s.advance t).pwr.spm.op = some o)
    (hrun : o.suspended = false) (hwrite : (s.advance t).pwr.fwWrite = none) (hsession : (s.advance t).pwr.session = some x)
    (hbank : x.bank = 1 ∨ x.bank = 2) (haddr : o.addr = bankBase x.bank + off) (hoff : off < 2 ^ 24) (herase : o.erase = true) :
    ∃ v, Answers (.flashOpDone t) s v ∧ v.pwr.session = some { x with erased := x.erased + 1 } ∧
      v.bank x.bank = ((s.advance t).bank x.bank).wipe off o.len := by
  refine ⟨_, (exec_flashOpDone t s).trans (congrArg _ (flashDone_erase hop hrun hwrite hsession herase)), State.nextFlash_session _, ?_⟩
  rw [State.nextFlash_bank, State.bank_session, State.endFlash_erase hbank hoff haddr [] herase]

/-! ## Command transfers (R708, R709, R713) -/

section
variable {s : State} {t : Nat} {addr : Word} {data : Bytes} (haux : (s.advance t).pwr.aux = true)
include haux

/-- What a command transfer does once the always-on domain runs. -/
theorem answers_spmTransfer : (∀ c, c = SpmCmd.readSfdp ∨ c = .readId ∨ c = .readStatus ∨ c = .read → Answers (.spmCommandTransfer c addr data t) s (s.advance t)) ∧
    Answers (.spmCommandTransfer .writeEnable addr data t) s ((s.advance t).spmMap (fun m => { m with wel := true })) ∧
    Answers (.spmCommandTransfer .suspend addr data t) s
      ((s.advance t).spmMap (fun m => { m with op := m.op.map (fun o => { o with suspended := true }) })) ∧
    Answers (.spmCommandTransfer .resume addr data t) s
      ((s.advance t).spmMap (fun m => { m with op := m.op.map (fun o => { o with suspended := false }) })) ∧
    Answers (.spmCommandTransfer .reset addr data t) s ((s.advance t).spmMap (fun m => { m with wel := false, octal := false, op := none })) ∧
    Answers (.spmCommandTransfer .octalEntry addr data t) s ((s.advance t).spmMap (fun m => { m with octal := true })) := by
  have hon : ¬ (!(s.advance t).pwr.aux) = true := by simp [haux]
  refine ⟨fun c hc => ?_, ?_, ?_, ?_, ?_, ?_⟩
  · rcases hc with rfl | rfl | rfl | rfl <;> rw [Answers, exec_spmCommandTransfer, State.spmTransfer, if_neg hon]
  all_goals rw [Answers, exec_spmCommandTransfer, State.spmTransfer, if_neg hon]

/-- Programs and erases outside the banks, with the latch set and the flash free (R689, R708). -/
theorem answers_spmTransfer_writes (hwel : (s.advance t).pwr.spm.wel = true) (hop : (s.advance t).pwr.spm.op = none) (haddr : 0x02000000 ≤ addr.toNat) :
    (∃ v, Answers (.spmCommandTransfer .pageProgram addr data t) s v ∧ v.pwr.spm.lines = [] ∧ v.pwr.spm.wel = false ∧
      v.pwr.spm.op = some ⟨false, addr.toNat, 256, false, 0⟩ ∧
      v.pwr.rest = (s.advance t).pwr.rest.program (addr.toNat / 256 * 256 - 0x02000000) (data.take 256)) ∧
    (∃ v, Answers (.spmCommandTransfer .erase4k addr data t) s v ∧ v.pwr.spm.lines = [] ∧ v.pwr.spm.wel = false ∧
      v.pwr.spm.op = some ⟨true, addr.toNat / 4096 * 4096, 4096, false, 0⟩ ∧ v.pwr.rest = (s.advance t).pwr.rest) ∧
    (∃ v, Answers (.spmCommandTransfer .erase64k addr data t) s v ∧ v.pwr.spm.lines = [] ∧ v.pwr.spm.wel = false ∧
      v.pwr.spm.op = some ⟨true, addr.toNat / 65536 * 65536, 65536, false, 0⟩ ∧ v.pwr.rest = (s.advance t).pwr.rest) := by
  have hon : ¬ (!(s.advance t).pwr.aux) = true := by simp [haux]
  have hmay : ((s.advance t).pwr.spm.wel && (s.advance t).pwr.spm.op.isNone && decide (0x02000000 ≤ addr.toNat)) = true := by simp [hwel, hop, haddr]
  refine ⟨⟨_, exec_spmCommandTransfer .., ?_⟩, ⟨_, exec_spmCommandTransfer .., ?_⟩, ⟨_, exec_spmCommandTransfer .., ?_⟩⟩
  all_goals
    rw [State.spmTransfer, if_neg hon, if_pos hmay]
  · rw [State.programAt, if_neg (by omega), if_neg (by omega)]
    exact ⟨rfl, rfl, rfl, rfl⟩
  · exact ⟨rfl, rfl, rfl, rfl⟩
  · exact ⟨rfl, rfl, rfl, rfl⟩

/-- A program or an erase that may not be. -/
theorem answers_spmTransfer_refused (h : (s.advance t).pwr.spm.wel = false ∨ (s.advance t).pwr.spm.op ≠ none ∨ addr.toNat < 0x02000000) :
    Answers (.spmCommandTransfer .pageProgram addr data t) s (s.advance t) ∧ Answers (.spmCommandTransfer .erase4k addr data t) s (s.advance t) ∧
      Answers (.spmCommandTransfer .erase64k addr data t) s (s.advance t) := by
  have hon : ¬ (!(s.advance t).pwr.aux) = true := by simp [haux]
  have hnot : ¬ ((s.advance t).pwr.spm.wel && (s.advance t).pwr.spm.op.isNone && decide (0x02000000 ≤ addr.toNat)) = true := by
    rw [Bool.and_eq_true, Bool.and_eq_true, decide_eq_true_eq]
    rintro ⟨⟨hwel, hop⟩, haddr⟩
    rcases h with h | h | h
    · exact Bool.false_ne_true (h.symm.trans hwel)
    · exact h (Option.isNone_iff_eq_none.1 hop)
    · omega
  refine ⟨?_, ?_, ?_⟩
  all_goals
    rw [Answers, exec_spmCommandTransfer, State.spmTransfer, if_neg hon, if_neg hnot]

end

/-- Settles O12: the window by the state of the line and of its block, each operation by the staging it belongs to, the transfers by their command. -/
theorem flashWindowAndOperations : Obligations.FlashWindowAndOperations := by
  refine ⟨fun s addr waitNs t => ?_, fun s t => ?_⟩
  · dsimp only
    intro hmgc
    refine ⟨fun hcold hbad => ?_, fun hcold hbad hok => ?_, fun h => ?_, fun hmgc => ?_⟩
    · exact (exec_xipRead ..).trans (congrArg _ (xipRead_bad hmgc hcold hbad))
    · exact (exec_xipRead ..).trans (congrArg _ (xipRead_unchecked hmgc hcold hbad hok))
    · have hline := xipRead_line (waitNs := waitNs) hmgc h
      exact ⟨fun hin => (exec_xipRead ..).trans (congrArg _ (hline.trans (lineRead_buffered hin))),
        fun hmiss hbusy => (exec_xipRead ..).trans (congrArg _ (hline.trans (lineRead_busy hmiss hbusy))),
        fun hmiss hop => answers_xipRead_idle hline hmiss hop, fun o hmiss hfree hop => answers_xipRead_suspends hline hmiss hfree hop⟩
    · rw [Answers, exec_xipWrite, State.xipWrite, if_pos hmgc]
  · dsimp only
    refine ⟨fun o hop hsuspended hdue => (exec_xipResume t s).trans (congrArg _ (xipResume_due hop hsuspended hdue)), fun hop => ?_,
      fun o hop => ⟨fun hsuspended => (exec_flashOpDone t s).trans (congrArg _ (flashDone_suspended hop hsuspended)),
        fun hrun hwrite hsession => answers_flashOpDone_unstaged hop hrun hwrite hsession,
        fun w c off hrun hwrite hbank hcmd haddr hoff => answers_flashOpDone_staging hop hrun hwrite hbank hcmd haddr hoff,
        fun x off hrun hwrite hsession hbank haddr hoff => ⟨fun herase => ?_,
          fun herase => answers_flashOpDone_erase hop hrun hwrite hsession hbank haddr hoff herase⟩⟩,
      fun addr data haux => ?_⟩
    · rw [Answers, exec_flashOpDone, State.flashDone, hop]
    · exact (exec_flashOpDone t s).trans (congrArg _ (flashDone_chunk hop hrun hwrite hsession (inBank haddr hoff) herase))
    · obtain ⟨hreads, hlatch, hsuspend, hresume, hreset, hoctal⟩ := answers_spmTransfer (addr := addr) (data := data) haux
      exact ⟨hreads, hlatch, fun hwel hop haddr => answers_spmTransfer_writes haux hwel hop haddr, fun h => answers_spmTransfer_refused haux h, hsuspend,
        hresume, hreset, hoctal⟩

end Sys2Proof.Claims
end

section
/-!
LAWS. Strands: what a change of one strand leaves of the others, and what a block sent on the line changes.
-/
namespace Sys2Proof.Machine

/-! ## Changes of a strand -/

theorem State.strands_sound {s : State} (h : s.sound = true) : s.weave.strands.length = 64 := by
  obtain ⟨-, -, -, -, -, -, hstrands, -⟩ := (State.sound_iff s).1 h
  exact hstrands

theorem State.strand_strandMap_same {s : State} {i : Nat} (f : Strand → Strand) (h : i < s.weave.strands.length) :
    (s.strandMap i f).strand i = f (s.strand i) := getD_updAt_same f strandNil h

theorem State.strand_strandMap_other (s : State) {i j : Nat} (f : Strand → Strand) (h : j ≠ i) : (s.strandMap i f).strand j = s.strand j := by
  unfold State.strand
  rw [List.getD_eq_getElem?_getD, List.getD_eq_getElem?_getD]
  exact congrArg (fun x => x.getD strandNil) (getElem?_updAt_other f s.weave.strands h)

theorem State.strand_of_weave {s t : State} (i : Nat) (h : t.weave = s.weave) : t.strand i = s.strand i := by
  unfold State.strand; rw [h]

/-! ## Registers of the strands -/

theorem State.rd_inc_same {s : State} (h : regSorted s.regs = true) (f : Fld) (i n : Nat) :
    (s.inc f i n).rd f i = min (s.rd f i + n) (2 ^ f.width - 1) := by
  rw [State.inc, State.rd_wr_same _ _ _ _ h]
  have hpos := Nat.two_pow_pos f.width
  exact Nat.mod_eq_of_lt (by omega)

/-! ## Blocks sent -/

@[simp] theorem State.regs_emitBlock (s : State) (i : Nat) (control : Bool) (d : Nat) : (s.emitBlock i control d).regs = s.regs := rfl

theorem State.out_emitBlock (s : State) (i : Nat) (control : Bool) (d : Nat) : ∃ b, (s.emitBlock i control d).out = s.out ++ [.block i b] :=
  ⟨_, rfl⟩

theorem State.strand_emitBlock_strandMap {s : State} {i : Nat} (control : Bool) (d : Nat) (f : Strand → Strand) (h : i < s.weave.strands.length) :
    ((s.emitBlock i control d).strandMap i f).strand i = f (s.strand i) := State.strand_strandMap_same f h

theorem State.sendCtl_up {s : State} {i : Nat} (c : Ctl) (h : s.strandUp i = true) : s.sendCtl i c = s.emitBlock i true (ctlBits c) := if_pos h

/-- Blocks sent one after another add as many entries to the output and change neither registers nor strands. -/
theorem State.emitBlocks_sent (i : Nat) (l : List DataBlock) (s : State) : let v := s.each l (fun s b => s.emitBlock i false (leNat b.data))
    v.regs = s.regs ∧ v.weave = s.weave ∧ v.out.length = s.out.length + l.length := by
  induction l generalizing s with
  | nil => exact ⟨rfl, rfl, rfl⟩
  | cons b l ih =>
    obtain ⟨hregs, hweave, hout⟩ := ih (s.emitBlock i false (leNat b.data))
    refine ⟨hregs, hweave, Eq.trans hout ?_⟩
    obtain ⟨x, hx⟩ := s.out_emitBlock i false (leNat b.data)
    rw [hx, List.length_append, List.length_cons, List.length_cons, List.length_nil]
    omega

end Sys2Proof.Machine
end

section
/-!
PROOFS. The reliable link (O50): data blocks, ACK, NAK, REPLAY, credits and the two timers.
-/
namespace Sys2Proof.Machine

theorem exec_dataBlock (i : Fin 64) (seq : BitVec 16) (vc : Fin 4) (payload : BitVec 256) (t : Nat) (s : State) :
    exec (.dataBlock i seq vc payload t) s = .next (s.dataBlock i.val seq.toNat vc.val payload.toNat t) := rfl
theorem exec_ack (i : Fin 64) (seq : BitVec 16) (s : State) :
    exec (.ack i seq) s = .next (s.when (s.strandUp i.val) (fun s => s.ackBlock i.val seq.toNat)) := rfl
theorem exec_nak (i : Fin 64) (seq : BitVec 16) (s : State) : exec (.nak i seq) s = .next (s.nakBlock i.val seq.toNat) := rfl
theorem exec_replay (i : Fin 64) (seq : BitVec 16) (s : State) :
    exec (.replay i seq) s = .next (s.when (s.strandUp i.val) (fun s => s.replayBlock i.val seq.toNat)) := rfl
theorem exec_credit (i : Fin 64) (a b c d : Byte) (s : State) :
    exec (.credit i a b c d) s =
      .next (s.when (s.strandUp i.val) (fun s => s.creditBlock i.val [a.toNat, b.toNat, c.toNat, d.toNat])) := rfl
theorem exec_creditReturnTimer (i : Fin 64) (s : State) : exec (.creditReturnTimer i) s = .next (s.creditTimer i.val) := rfl
theorem exec_ackTimer (i : Fin 64) (t : Nat) (s : State) : exec (.ackTimer i t) s = .next (s.ackTimer i.val t) := rfl

/-! ## Data blocks (R588, R596, R597) -/

/-- A strand after a block in order: counted for its ACK and its credit. -/
def Strand.taking (now vc : Nat) (x : Strand) : Strand :=
  { x with
    rxSeq := (x.rxSeq + 1) % 65536, unacked := x.unacked + 1, firstUnacked := if x.unacked = 0 then now else x.firstUnacked
    owed := updAt vc (· + 1) x.owed }

/-- The state in which a block that is taken is put to its message. -/
def State.blockTaken (u : State) (i vc : Nat) (fixed : Bool) : State :=
  let v := u.when fixed (fun s => s.inc wvCeCount i)
  v.strandMap i (Strand.taking v.clk.now vc)

theorem State.weave_counted (u : State) (i : Nat) (fixed : Bool) : (u.when fixed (fun s => s.inc wvCeCount i)).weave = u.weave := by
  cases fixed <;> rfl

theorem State.out_counted (u : State) (i : Nat) (fixed : Bool) : (u.when fixed (fun s => s.inc wvCeCount i)).out = u.out := by
  cases fixed <;> rfl

theorem State.strand_blockTaken {u : State} {i : Nat} (vc : Nat) (fixed : Bool) (h : i < u.weave.strands.length) :
    (u.blockTaken i vc fixed).strand i = Strand.taking (u.when fixed (fun s => s.inc wvCeCount i)).clk.now vc (u.strand i) := by
  have hweave := u.weave_counted i fixed
  unfold State.blockTaken
  dsimp only
  rw [State.strand_strandMap_same _ (by rw [hweave]; exact h), State.strand_of_weave i hweave]

theorem State.dataBlock_taken {s : State} {i seq payload t d : Nat} {fixed : Bool} (vc : Nat) (hi : i < (s.advance t).weave.strands.length)
    (hup : (s.advance t).strandUp i = true) (hcorrect : correct payload = some (d, fixed)) (hnak : ((s.advance t).strand i).nakked = false)
    (hseq : seq = ((s.advance t).strand i).rxSeq) (hroom : ((s.advance t).strand i).unacked < 63) :
    s.dataBlock i seq vc payload t = ((s.advance t).blockTaken i vc fixed).assemble i vc (leBytes 30 d) := by
  have hstrand := State.strand_of_weave i ((s.advance t).weave_counted i fixed)
  have htaken := State.strand_blockTaken vc fixed hi
  have hfew : ¬ 64 ≤ (((s.advance t).blockTaken i vc fixed).strand i).unacked := by
    rw [htaken]
    exact Nat.not_le_of_lt (Nat.succ_lt_succ hroom)
  unfold State.dataBlock
  dsimp only
  rw [hup, hcorrect]
  dsimp only
  rw [hstrand, hnak, if_neg (by decide), if_neg (by decide), if_neg (not_not.mpr hseq)]
  change ((((s.advance t).blockTaken i vc fixed)).when (decide (64 ≤ (((s.advance t).blockTaken i vc fixed).strand i).unacked))
    (fun s => s.sendAck i)).assemble i vc (leBytes 30 d) = _
  rw [decide_eq_false hfew]
  rfl

theorem State.dataBlock_refused {s : State} {i seq vc payload t : Nat} (hup : (s.advance t).strandUp i = true)
    (hnak : ((s.advance t).strand i).nakked = false)
    (hbad : correct payload = none ∨ (∃ d, correct payload = some (d, false)) ∧ seq ≠ ((s.advance t).strand i).rxSeq) :
    s.dataBlock i seq vc payload t = (s.advance t).rejectBlock i := by
  unfold State.dataBlock
  dsimp only
  rw [hup, if_neg (by decide)]
  obtain hnone | ⟨⟨d, hsome⟩, hseq⟩ := hbad
  · rw [hnone]
  · rw [hsome]
    change (if ((s.advance t).strand i).nakked = true then s.advance t
      else if seq ≠ ((s.advance t).strand i).rxSeq then (s.advance t).rejectBlock i else _) = _
    rw [hnak, if_neg (by decide), if_pos hseq]

theorem State.dataBlock_discarded {s : State} {i seq vc payload t d : Nat} (hup : (s.advance t).strandUp i = true)
    (hnak : ((s.advance t).strand i).nakked = true) (hcorrect : correct payload = some (d, false)) :
    s.dataBlock i seq vc payload t = s.advance t := by
  unfold State.dataBlock
  dsimp only
  rw [hup, if_neg (by decide), hcorrect]
  exact if_pos hnak

theorem State.dataBlock_down {s : State} {i seq vc payload t : Nat} (hdown : (s.advance t).strandUp i = false) :
    s.dataBlock i seq vc payload t = s.advance t := by
  unfold State.dataBlock
  dsimp only
  rw [hdown]
  rfl

theorem State.rejectBlock_first {u : State} {i : Nat} (hup : u.strandUp i = true) (hnak : (u.strand i).nakked = false) :
    u.rejectBlock i = (u.emitBlock i true (ctlBits (.nak (u.strand i).rxSeq))).strandMap i (fun x => { x with nakked := true }) := by
  rw [State.rejectBlock, hnak, State.sendCtl_up _ hup]
  rfl

/-! ## ACK, NAK, REPLAY and credits (R596, R597) -/

theorem State.ackBlock_kept {s : State} {i seq : Nat} (h : (s.strand i).replay.any (fun b => b.seq == seq) = false) : s.ackBlock i seq = s := by
  rw [State.ackBlock, h]
  rfl

theorem dropWhile_eq_nil_iff_any {α : Type} (p : α → Bool) (l : List α) : l.dropWhile (fun b => !p b) = [] ↔ l.any p = false := by
  simp [List.dropWhile_eq_nil_iff]

theorem State.nakBlock_absent {s : State} {i seq : Nat} (h : (s.strand i).replay.any (fun b => b.seq == seq) = false) : s.nakBlock i seq = s := by
  have hnil : (s.strand i).replay.dropWhile (fun b => b.seq != seq) = [] := (dropWhile_eq_nil_iff_any _ _).mpr h
  rw [State.nakBlock, if_pos (.inr hnil)]

theorem State.strandUp_replayCounted (s : State) (i : Nat) : (s.inc wvReplayCount i).strandUp i = s.strandUp i := by
  unfold State.strandUp
  rw [State.rd_inc_other _ _ (regKey_ne_of_apart (by decide) _ _ _ _)]

theorem State.nakBlock_again {s : State} {i seq : Nat} (hup : s.strandUp i = true)
    (h : (s.strand i).replay.any (fun b => b.seq == seq) = true) :
    s.nakBlock i seq = ((s.inc wvReplayCount i).emitBlock i true (ctlBits (.replay seq))).each
      ((s.strand i).replay.dropWhile (fun b => b.seq != seq)) (fun s b => s.emitBlock i false (leNat b.data)) := by
  have hcons : (s.strand i).replay.dropWhile (fun b => b.seq != seq) ≠ [] := fun hnil =>
    Bool.noConfusion (((dropWhile_eq_nil_iff_any _ _).mp hnil).symm.trans h)
  rw [State.nakBlock, if_neg (by simp [hup, hcons]), State.sendCtl_up _ (by rw [State.strandUp_replayCounted, hup])]

theorem Strand.nakked_replay (x : Strand) (seq : Nat) :
    (if x.nakked ∧ seq = x.rxSeq then { x with nakked := false } else x).nakked = (x.nakked && seq != x.rxSeq) := by
  split
  next h => simp [h.2]
  next h =>
    by_cases hn : x.nakked = true
    · have hs : seq ≠ x.rxSeq := fun hs => h ⟨hn, hs⟩
      simp [hn, hs]
    · simp [hn]

/-- A strand with credits returned, each to the most its channel holds. -/
def Strand.credited (c : List Nat) (x : Strand) : Strand :=
  { x with credits := (List.range 4).map (fun v => min ([16, 128, 256, 128].getD v 0) (x.credits.getD v 0 + c.getD v 0)) }

theorem State.creditTimer_none {s : State} {i : Nat} (h : (s.strand i).owed.all (fun n => n == 0) = true) : s.creditTimer i = s := by
  unfold State.creditTimer
  rw [h, Bool.or_true, if_pos rfl]

/-- The control block that returns the credits a strand owes. -/
def Strand.creditCtl (x : Strand) : Ctl :=
  .credit (min 255 (x.owed.getD 0 0)) (min 255 (x.owed.getD 1 0)) (min 255 (x.owed.getD 2 0)) (min 255 (x.owed.getD 3 0))

theorem State.creditTimer_due {s : State} {i : Nat} (hup : s.strandUp i = true) (h : (s.strand i).owed.all (fun n => n == 0) = false) :
    s.creditTimer i = (s.emitBlock i true (ctlBits (s.strand i).creditCtl)).strandMap i
      (fun x => { x with owed := x.owed.map (fun n => n - min 255 n) }) := by
  unfold State.creditTimer
  dsimp only
  rw [h, hup, if_neg (by decide), State.sendCtl_up _ hup]
  rfl

theorem State.ackTimer_due {s : State} {i t : Nat} (hup : (s.advance t).strandUp i = true) (hsome : 0 < ((s.advance t).strand i).unacked)
    (hdue : ((s.advance t).strand i).firstUnacked + ns 200 ≤ (s.advance t).clk.now) :
    s.ackTimer i t = ((s.advance t).emitBlock i true (ctlBits (.ack (((s.advance t).strand i).rxSeq + 65535)))).strandMap i
      (fun x => { x with unacked := 0 }) := by
  unfold State.ackTimer
  dsimp only
  rw [if_pos ⟨hup, hsome, hdue⟩, State.sendAck, State.sendCtl_up _ hup]

theorem State.ackTimer_early {s : State} {i t : Nat} (hearly : (s.advance t).clk.now < ((s.advance t).strand i).firstUnacked + ns 200) :
    s.ackTimer i t = s.advance t := by
  unfold State.ackTimer
  dsimp only
  rw [if_neg fun h => Nat.not_le_of_lt hearly h.2.2]

end Sys2Proof.Machine
end

section
namespace Sys2Proof.Claims
open Sys2Proof Sys2Proof.Machine

/-- Settles O50: one clause for each block and timer of the link; what is sent is one control block and, after a NAK, the rest of the replay
buffer. -/
theorem linkIsReliable : Obligations.LinkIsReliable := by
  unfold Obligations.LinkIsReliable
  intro i seq t s hsound
  dsimp only
  have hadv : (s.advance t).sound = true := (Follows.refl s).advance.sound hsound
  have hi : i.val < s.weave.strands.length := by rw [State.strands_sound hsound]; exact i.isLt
  have hiu : i.val < (s.advance t).weave.strands.length := by rw [State.strands_sound hadv]; exact i.isLt
  have hregs := State.regs_sorted hadv
  refine ⟨fun vc payload => ⟨fun hdown => ?_, fun d fixed hup hcorrect hnak hseq hroom => ?_, fun hup hnak hbad => ?_,
    fun hup hnak ⟨d, hcorrect⟩ => ?_⟩, fun hup => ⟨fun habsent => ⟨?_, ?_⟩, fun hheld => ⟨?_, ?_⟩, ?_, fun a b c d => ?_, fun hnone => ?_,
    fun hdue => ?_⟩, fun hup hsome => ⟨fun hdue => ?_, fun hearly => ?_⟩⟩
  · rw [Answers, exec_dataBlock, State.dataBlock_down hdown]
  · have hstrand := State.strand_blockTaken vc.val fixed hiu
    refine ⟨(s.advance t).blockTaken i.val vc.val fixed, ?_, ?_, ?_, ?_, ?_, ?_, ?_⟩
    · rw [Answers, exec_dataBlock, State.dataBlock_taken vc.val hiu hup hcorrect hnak hseq hroom]
    · rw [hstrand]; rfl
    · rw [hstrand]; rfl
    · rw [hstrand]; rfl
    · exact State.out_counted _ _ fixed
    · intro hfixed; subst hfixed; rfl
    · intro hfixed; subst hfixed
      exact State.rd_inc_same hregs _ _ _
  · obtain ⟨b, hb⟩ := (s.advance t).out_emitBlock i.val true (ctlBits (.nak ((s.advance t).strand i.val).rxSeq))
    refine ⟨(((s.advance t).emitBlock i.val true (ctlBits (.nak ((s.advance t).strand i.val).rxSeq))).strandMap i.val
      (fun x => { x with nakked := true })), b, ?_, ?_, ?_, ?_, hb, rfl⟩
    · rw [Answers, exec_dataBlock, State.dataBlock_refused hup hnak hbad, State.rejectBlock_first hup hnak]
    all_goals rw [State.strand_emitBlock_strandMap _ _ _ hiu]
  · rw [Answers, exec_dataBlock, State.dataBlock_discarded hup hnak hcorrect]
  · rw [Answers, exec_ack, hup, State.when_true, State.ackBlock_kept habsent]
  · rw [Answers, exec_nak, State.nakBlock_absent habsent]
  · refine ⟨s.strandMap i.val (fun x => { x with replay := (x.replay.dropWhile (fun b => b.seq != seq.toNat)).drop 1 }), ?_, ?_, rfl, rfl⟩
    · rw [Answers, exec_ack, hup, State.when_true, State.ackBlock, if_pos hheld]
    · rw [State.strand_strandMap_same _ hi]
  · obtain ⟨b, hb⟩ := (s.inc wvReplayCount i.val).out_emitBlock i.val true (ctlBits (.replay seq.toNat))
    obtain ⟨hr, hw, ho⟩ := State.emitBlocks_sent i.val ((s.strand i.val).replay.dropWhile (fun b => b.seq != seq.toNat))
      ((s.inc wvReplayCount i.val).emitBlock i.val true (ctlBits (.replay seq.toNat)))
    refine ⟨_, (exec_nak i seq s).trans (congrArg _ (State.nakBlock_again hup hheld)), ?_, ?_, congrArg Weave.strands hw⟩
    · rw [State.rd_of_regs _ _ _ _ hr]
      exact State.rd_inc_same (State.regs_sorted hsound) _ _ _
    · rw [ho, hb, List.length_append]
      rfl
  · refine ⟨s.replayBlock i.val seq.toNat, ?_, rfl, rfl, ?_⟩
    · rw [Answers, exec_replay, hup, State.when_true]
    · rw [State.replayBlock, State.strand_strandMap_same _ hi, Strand.nakked_replay]
  · refine ⟨s.strandMap i.val (Strand.credited [a.toNat, b.toNat, c.toNat, d.toNat]), ?_, rfl, rfl, ?_⟩
    · rw [Answers, exec_credit, hup, State.when_true]
      rfl
    · rw [State.strand_strandMap_same _ hi]
      rfl
  · rw [Answers, exec_creditReturnTimer, State.creditTimer_none hnone]
  · obtain ⟨b, hb⟩ := s.out_emitBlock i.val true (ctlBits (s.strand i.val).creditCtl)
    refine ⟨_, b, (exec_creditReturnTimer i s).trans (congrArg _ (State.creditTimer_due hup hdue)), hb, ?_⟩
    rw [State.strand_emitBlock_strandMap _ _ _ hi]
  · obtain ⟨b, hb⟩ := (s.advance t).out_emitBlock i.val true (ctlBits (.ack (((s.advance t).strand i.val).rxSeq + 65535)))
    refine ⟨_, b, (exec_ackTimer i t s).trans (congrArg _ (State.ackTimer_due hup hsome hdue)), ?_, hb⟩
    rw [State.strand_emitBlock_strandMap _ _ _ hiu]
  · rw [Answers, exec_ackTimer, State.ackTimer_early hearly]

end Sys2Proof.Claims
end

section
/-!
PROOFS. Strands (O49): STRST, the end of a training, the loss of a lane's lock, and Tacet.
-/
namespace Sys2Proof.Machine

theorem exec_strst (i : Fin 64) (s : State) : exec (.strst i) s = .next (s.strst i.val) := rfl
theorem exec_strandTrained (i : Fin 64) (lanes : BitVec 5) (failed : Fin 8) (version : BitVec 8) (serial : DWord) (peer : Fin 64) (addr : BitVec 12)
    (stamps : List (Nat × Nat)) (slips t : Nat) (s : State) : exec (.strandTrained i lanes failed version serial peer addr stamps slips t) s =
      .next (s.trainingEnd i.val ⟨lanes.toNat, failed.val, version.toNat, serial.toNat, peer.val, addr.toNat, stampDelay stamps, slips⟩ t) := rfl
theorem exec_laneLockLoss (i : Fin 64) (lane : Fin 5) (t : Nat) (s : State) :
    exec (.laneLockLoss i lane t) s = .next ((s.advance t).lockLoss i.val lane.val) := rfl
theorem exec_strandTacet (i : Fin 64) (t : Nat) (s : State) : exec (.strandTacet i t) s = .next (s.strandTacet i.val t) := rfl

/-! ## Error reports and the strands -/

theorem State.raise_weave (s : State) (seat v : Nat) : (s.raise seat v).weave = s.weave := by
  unfold State.raise
  dsimp only
  split
  · rfl
  split
  · rfl
  split <;> rfl

theorem State.signalError_weave (s : State) : s.signalError.weave = s.weave := State.each_keeps (π := State.weave) _ s fun t _ => t.raise_weave _ _

theorem State.logFlash_weave (s : State) (r : Bytes) : (s.logFlash r).weave = s.weave := rfl

theorem State.logError_weave (s : State) {cls : Nat} (kind unit code detail : Nat) (h : 3 ≤ cls) :
    (s.logError cls kind unit code detail).weave = s.weave := by
  obtain ⟨p, v, r, -, heq⟩ := s.logError_reports kind unit code detail h
  rw [heq, State.logFlash_weave, State.signalError_weave, State.wr_weave, State.inc_weave, State.pwrMap_weave, State.ev_weave]

/-! ## Training begins -/

/-- A strand is mapped out (R600). -/
def State.strandOut (s : State) (i : Nat) : Bool :=
  if i < 32 then (s.rd wvMapoutLoStrands).testBit i else (s.rd wvMapoutHiStrands).testBit (i - 32)

/-- The registers of a strand at reset (R599), its state aside. -/
def State.strandCleared (s : State) (i : Nat) : State :=
  let s := (((s.wr wvStrandSpareUsed i 0).wr wvStrandFailedLane i 7).wr wvDelayPs i 0).wr wvStrandUse i 0
  (((s.wr wvStrandPeer i 0xFFF).wr wvCeCount i 0).wr wvReplayCount i 0).wr wvAlignSlipCount i 0

/-- A strand's buffers discarded, and κ restarted (R69, R599). -/
def State.strandEmptied (s : State) (i : Nat) : State := (s.clkMap (fun k => { k with kappa := 256 })).strandMap i (fun _ => strandNil)

theorem State.startTraining_eq (s : State) (i : Nat) : s.startTraining i =
    ((s.strandEmptied i).strandCleared i).wr wvStrandState i (if s.strandOut i then 3 else 1) := rfl

theorem State.sorted_strandCleared {s : State} (hs : regSorted s.regs = true) (i : Nat) : regSorted (s.strandCleared i).regs = true := by
  unfold State.strandCleared
  iterate 8 apply State.sorted_wr
  exact hs

/-- Two fields of a strand's row at different places of its 32 bytes are different registers. -/
theorem State.rd_wr_apart (s : State) {f g : Fld} (i j v : Nat) (h : f.Apart g) : (s.wr f i v).rd g j = s.rd g j :=
  State.rd_wr_other _ _ _ _ _ _ (regKey_ne_of_apart h 0 i 0 j)

theorem State.strandCleared_peer {s : State} (hs : regSorted s.regs = true) (i : Nat) : (s.strandCleared i).rd wvStrandPeer i = 0xFFF := by
  unfold State.strandCleared
  dsimp only
  iterate 3 rw [State.rd_wr_apart _ _ _ _ (by decide)]
  rw [State.rd_wr_same]
  · rfl
  · iterate 4 apply State.sorted_wr
    exact hs

theorem State.strandCleared_use {s : State} (hs : regSorted s.regs = true) (i : Nat) : (s.strandCleared i).rd wvStrandUse i = 0 := by
  unfold State.strandCleared
  dsimp only
  iterate 4 rw [State.rd_wr_apart _ _ _ _ (by decide)]
  rw [State.rd_wr_same]
  · rfl
  · iterate 3 apply State.sorted_wr
    exact hs

theorem State.strand_startTraining_same {s : State} {i : Nat} (h : i < s.weave.strands.length) : (s.startTraining i).strand i = strandNil :=
  State.strand_strandMap_same (s := s.clkMap (fun k => { k with kappa := 256 })) _ h

theorem State.strand_startTraining_other (s : State) {i j : Nat} (h : j ≠ i) : (s.startTraining i).strand j = s.strand j :=
  State.strand_strandMap_other (s.clkMap (fun k => { k with kappa := 256 })) _ h

section
variable {s : State} (hs : regSorted s.regs = true)
include hs

theorem State.startTraining_peer (i : Nat) : (s.startTraining i).rd wvStrandPeer i = 0xFFF := by
  rw [State.startTraining_eq, State.rd_wr_apart _ _ _ _ (by decide), State.strandCleared_peer (s := s.strandEmptied i) hs]

theorem State.startTraining_use (i : Nat) : (s.startTraining i).rd wvStrandUse i = 0 := by
  rw [State.startTraining_eq, State.rd_wr_apart _ _ _ _ (by decide), State.strandCleared_use (s := s.strandEmptied i) hs]

theorem State.startTraining_state (i : Nat) : (s.startTraining i).rd wvStrandState i = if s.strandOut i then 3 else 1 := by
  rw [State.startTraining_eq, State.rd_wr_same _ _ _ _ (State.sorted_strandCleared (s := s.strandEmptied i) hs i)]
  split <;> rfl

end

/-! ## Training ends -/

/-- What every training that ends notes: its alignment slips and its failed lane. -/
def State.trainNoted (u : State) (i : Nat) (r : Trained) : State :=
  (u.inc wvAlignSlipCount i r.slips).wr wvStrandFailedLane i (((List.range 5).find? (fun l => !r.lanes.testBit l)).getD 7)

/-- The strand left down by a training that failed, before the failure is logged. -/
def State.trainDown (u : State) (i : Nat) (r : Trained) : State := ((u.trainNoted i r).wr wvStrandState i 0).ev wvEventTrainFail

/-- The registers of a strand that came up, before its peer is labelled. -/
def State.trainRegs (u : State) (i : Nat) (r : Trained) : State :=
  ((((u.trainNoted i r).wr wvStrandState i 2).wr wvDelayPs i r.delay).wr wvStrandPeer i r.addr).wr wvStrandSpareUsed i
    (if ((setBits 5 r.lanes).take 4).contains 4 then 1 else 0)

/-- The strand a training left up. -/
def Trained.strandOf (r : Trained) (now : Nat) (x : Strand) : Strand :=
  { x with lanes := (setBits 5 r.lanes).take 4, peerSerial := r.serial, peerStrand := r.strand, lastData := now }

/-- The state of a chip whose strand came up. -/
def State.trainUp (u : State) (i : Nat) (r : Trained) : State :=
  ((u.trainRegs i r).strandMap i (r.strandOf (u.trainRegs i r).clk.now)).labelStrand i

theorem State.strandTrained_idle {s : State} {i t : Nat} (r : Trained) (h : (s.advance t).rd wvStrandState i ≠ 1) :
    s.strandTrained i r t = s.advance t := by
  unfold State.strandTrained
  dsimp only
  rw [if_pos h]

theorem State.strandTrained_up {s : State} {i t : Nat} {r : Trained} (h : (s.advance t).rd wvStrandState i = 1) (hstep : r.step = 0) :
    s.strandTrained i r t = (s.advance t).trainUp i r := by
  unfold State.strandTrained
  dsimp only
  rw [if_neg (not_not.mpr h), if_neg (not_not.mpr hstep)]
  rfl

theorem State.strandTrained_foreign {s : State} {i t : Nat} {r : Trained} (h : (s.advance t).rd wvStrandState i = 1) (hstep : r.step = 5)
    (hver : r.version ≠ 3) : s.strandTrained i r t =
      ((((s.advance t).trainDown i r).ev wvEventForeign).logError 3 3 i 26 r.version).logError 3 3 i 24 r.step := by
  unfold State.strandTrained
  dsimp only
  rw [if_neg (not_not.mpr h), if_pos (by rw [hstep]; decide), if_pos ⟨hstep, hver⟩]
  rfl

theorem State.strandTrained_down {s : State} {i t : Nat} {r : Trained} (h : (s.advance t).rd wvStrandState i = 1) (hstep : r.step ≠ 0)
    (hown : ¬ (r.step = 5 ∧ r.version ≠ 3)) : s.strandTrained i r t = ((s.advance t).trainDown i r).logError 3 3 i 24 r.step := by
  unfold State.strandTrained
  dsimp only
  rw [if_neg (not_not.mpr h), if_pos hstep, if_neg hown]
  rfl

theorem Trained.step_eq_zero {r : Trained} (hfailed : r.failed = 0) (hlanes : 4 ≤ popcount 5 r.lanes) (hversion : r.version = 3) : r.step = 0 := by
  have hmany : ¬ popcount 5 r.lanes < 4 := by omega
  simp [Trained.step, hfailed, hversion, hmany]

theorem Trained.step_ne_zero {r : Trained} (h : r.failed ≠ 0 ∨ popcount 5 r.lanes < 4 ∨ r.version ≠ 3) : r.step ≠ 0 := by
  unfold Trained.step
  split
  · decide
  split
  · decide
  split
  · assumption
  split
  · decide
  · next hlanes hfailed hversion => exact absurd h (by tauto)

theorem Trained.step_foreign {r : Trained} (hfailed : r.failed = 0 ∨ r.failed = 5) (hlanes : 4 ≤ popcount 5 r.lanes) (hversion : r.version ≠ 3) :
    r.step = 5 := by
  have hmany : ¬ popcount 5 r.lanes < 4 := by omega
  obtain hf | hf := hfailed <;> simp [Trained.step, hf, hversion, hmany]

/-! ### A training that failed -/

section
variable {u : State} {i : Nat} (hs : regSorted u.regs = true) (hi : i < 64) (r : Trained)

include hs in
theorem State.sorted_trainNoted : regSorted (u.trainNoted i r).regs = true := State.sorted_wr (State.sorted_wr hs _ _ _) _ _ _

include hs in
theorem State.sorted_trainDown : regSorted (u.trainDown i r).regs = true :=
  State.sorted_wr (State.sorted_wr (State.sorted_trainNoted hs r) _ _ _) _ _ _

theorem wvEvent_key_lt (hi : i < 64) : regKey wvEventTrainFail 0 0 < regKey wvStrandState 0 i ∧ regKey wvEventForeign 0 0 < regKey wvStrandState 0 i ∧
    regKey wvStrandState 0 i < 0x80008 * 32 := by
  have hfail : regKey wvEventTrainFail 0 0 = 0x20024 * 32 := rfl
  have hforeign : regKey wvEventForeign 0 0 = 0x20024 * 32 + 1 := rfl
  rw [wvStrandState_key, hfail, hforeign]
  omega

include hs hi in
theorem State.rd_trainDown_state : (u.trainDown i r).rd wvStrandState i = 0 := by
  have hkeys := wvEvent_key_lt hi
  rw [State.trainDown, State.rd_ev_other _ (by omega), State.rd_wr_same _ _ _ _ (State.sorted_trainNoted hs r)]
  rfl

include hs in
theorem State.rd_trainDown_fail : (u.trainDown i r).rd wvEventTrainFail = 1 :=
  State.rd_wr_same _ _ _ _ (State.sorted_wr (State.sorted_trainNoted hs r) _ _ _)

@[simp] theorem State.labelStrand_weave (s : State) (i : Nat) : (s.labelStrand i).weave = s.weave := rfl

theorem State.trainDown_weave (u : State) (i : Nat) (r : Trained) : (u.trainDown i r).weave = u.weave := by
  simp only [State.trainDown, State.trainNoted, State.ev_weave, State.wr_weave, State.inc_weave]

include hs hi in
/-- A training that failed leaves its strand down, says so in the events, and changes no strand's buffers. -/
theorem State.strandTrained_failed {s : State} {t : Nat} (hu : s.advance t = u) (h : u.rd wvStrandState i = 1) (hstep : r.step ≠ 0) :
    (s.strandTrained i r t).rd wvStrandState i = 0 ∧ (s.strandTrained i r t).rd wvEventTrainFail = 1 ∧
      (r.step = 5 → r.version ≠ 3 → (s.strandTrained i r t).rd wvEventForeign = 1) ∧ (s.strandTrained i r t).weave = u.weave := by
  have hkeys := wvEvent_key_lt hi
  have hfail : regKey wvEventTrainFail 0 0 = 0x20024 * 32 := rfl
  have hforeign : regKey wvEventForeign 0 0 = 0x20024 * 32 + 1 := rfl
  have hstate : BesideReports wvStrandState i := .inl hkeys.2.2
  have hevent : BesideReports wvEventTrainFail 0 := .inl (by omega)
  have hevent' : BesideReports wvEventForeign 0 := .inl (by omega)
  have hdown := State.rd_trainDown_state hs hi r
  have hset := State.rd_trainDown_fail (i := i) hs r
  by_cases hown : r.step = 5 ∧ r.version ≠ 3
  · rw [State.strandTrained_foreign (hu ▸ h) hown.1 hown.2, hu]
    refine ⟨?_, ?_, fun _ _ => ?_, ?_⟩
    · rw [State.rd_logError _ _ _ _ (by decide) hstate, State.rd_logError _ _ _ _ (by decide) hstate, State.rd_ev_other _ (by omega), hdown]
    · rw [State.rd_logError _ _ _ _ (by decide) hevent, State.rd_logError _ _ _ _ (by decide) hevent, State.rd_ev_other _ (by omega), hset]
    · rw [State.rd_logError _ _ _ _ (by decide) hevent', State.rd_logError _ _ _ _ (by decide) hevent']
      exact State.rd_wr_same _ _ _ _ (State.sorted_trainDown hs r)
    · rw [State.logError_weave _ _ _ _ _ (by decide), State.logError_weave _ _ _ _ _ (by decide), State.ev_weave, State.trainDown_weave]
  · rw [State.strandTrained_down (hu ▸ h) hstep hown, hu]
    refine ⟨?_, ?_, fun hfive hver => absurd ⟨hfive, hver⟩ hown, ?_⟩
    · rw [State.rd_logError _ _ _ _ (by decide) hstate, hdown]
    · rw [State.rd_logError _ _ _ _ (by decide) hevent, hset]
    · rw [State.logError_weave _ _ _ _ _ (by decide), State.trainDown_weave]

/-! ### A training that ended well -/

theorem State.trainRegs_weave (u : State) (i : Nat) (r : Trained) : (u.trainRegs i r).weave = u.weave := by
  simp only [State.trainRegs, State.trainNoted, State.wr_weave, State.inc_weave]

theorem State.rd_labelStrand (s : State) {f : Fld} (i j : Nat) (hpeer : wvStrandPeer.Apart f) (huse : wvStrandUse.Apart f) :
    (s.labelStrand i).rd f j = s.rd f j := by
  unfold State.labelStrand
  dsimp only
  rw [State.rd_wr_apart _ _ _ _ huse, State.rd_wr_apart _ _ _ _ hpeer]

theorem State.rd_trainUp {f : Fld} (hpeer : wvStrandPeer.Apart f) (huse : wvStrandUse.Apart f) :
    (u.trainUp i r).rd f i = (u.trainRegs i r).rd f i := by
  rw [State.trainUp, State.rd_labelStrand _ _ _ hpeer huse]
  rfl

include hs in
theorem State.rd_trainUp_state : (u.trainUp i r).rd wvStrandState i = 2 := by
  rw [State.rd_trainUp r (by decide) (by decide), State.trainRegs]
  iterate 3 rw [State.rd_wr_apart _ _ _ _ (by decide)]
  rw [State.rd_wr_same _ _ _ _ (State.sorted_trainNoted hs r)]
  rfl

include hs in
theorem State.rd_trainUp_delay (hdelay : r.delay < 65536) : (u.trainUp i r).rd wvDelayPs i = r.delay := by
  rw [State.rd_trainUp r (by decide) (by decide), State.trainRegs]
  iterate 2 rw [State.rd_wr_apart _ _ _ _ (by decide)]
  rw [State.rd_wr_same _ _ _ _ (State.sorted_wr (State.sorted_trainNoted hs r) _ _ _)]
  exact Nat.mod_eq_of_lt hdelay

theorem State.strand_trainUp (hlen : i < u.weave.strands.length) :
    (u.trainUp i r).strand i = r.strandOf (u.trainRegs i r).clk.now (u.strand i) := by
  have hweave := u.trainRegs_weave i r
  rw [State.trainUp, State.strand_of_weave _ (State.labelStrand_weave _ _), State.strand_strandMap_same _ (by rw [hweave]; exact hlen),
    State.strand_of_weave i hweave]

end

/-! ### What follows a training -/

theorem State.trainingEnd_eq (s : State) (i : Nat) (r : Trained) (t : Nat) : let n := s.strandTrained i r t
    s.trainingEnd i r t = (n.when (!s.strandUp i && n.strandUp i && n.rd wvStrandUse i == 2) (fun n => n.resend (n.rd wvStrandPeer i))).when
      (n.inWeave && !n.isHead && i == n.uplink && !s.strandUp i && n.strandUp i) State.askRejoin := rfl

theorem State.trainingEnd_quiet {s : State} {i t : Nat} {r : Trained} (h : s.strandUp i = true ∨ (s.strandTrained i r t).strandUp i = false) :
    s.trainingEnd i r t = s.strandTrained i r t := by
  have hresend : (!s.strandUp i && (s.strandTrained i r t).strandUp i && (s.strandTrained i r t).rd wvStrandUse i == 2) = false := by
    obtain hs | hn := h <;> simp [*]
  have hrejoin : ((s.strandTrained i r t).inWeave && !(s.strandTrained i r t).isHead && i == (s.strandTrained i r t).uplink && !s.strandUp i &&
      (s.strandTrained i r t).strandUp i) = false := by
    obtain hs | hn := h <;> simp [*]
  rw [State.trainingEnd_eq, hresend, hrejoin]
  rfl

theorem State.when_eq_ite (s : State) {b : Bool} {p : Prop} [Decidable p] (f : State → State) (h : b = true ↔ p) :
    s.when b f = if p then f s else s := by
  unfold State.when
  exact if_congr h rfl rfl

theorem State.trainingEnd_up {s w : State} {i t : Nat} {r : Trained} (hw : s.strandTrained i r t = w) (hup : w.strandUp i = true) :
    let v := if s.strandUp i = false ∧ w.rd wvStrandUse i = 2 then w.resend (w.rd wvStrandPeer i) else w
    s.trainingEnd i r t = if w.inWeave = true ∧ w.isHead = false ∧ i = w.uplink ∧ s.strandUp i = false then v.askRejoin else v := by
  rw [State.trainingEnd_eq, hw,
    State.when_eq_ite _ _ (p := w.inWeave = true ∧ w.isHead = false ∧ i = w.uplink ∧ s.strandUp i = false) (by simp [hup, and_assoc]),
    State.when_eq_ite _ _ (p := s.strandUp i = false ∧ w.rd wvStrandUse i = 2) (by simp [hup])]

/-! ## Lane lock and Tacet (R595, R760) -/

theorem State.lockLoss_retrains {u : State} {i lane : Nat} (hup : u.strandUp i = true) (hlane : (u.strand i).lanes.contains lane = true) :
    u.lockLoss i lane = (u.logError 3 3 i 25 lane).startTraining i := by
  rw [State.lockLoss, hup, hlane, Bool.true_or, if_pos (by decide)]

theorem State.lockLoss_spare {u : State} {i lane : Nat} (hlane : (u.strand i).lanes.contains lane = false) : u.lockLoss i lane = u := by
  rw [State.lockLoss, hlane, Bool.and_false, if_neg (by decide)]

theorem State.strandTacet_due {s : State} {i t : Nat} (hup : (s.advance t).strandUp i = true) (huse : (s.advance t).rd wvStrandUse i = 0)
    (hempty : ((s.advance t).strand i).sendq = []) (hdue : ((s.advance t).strand i).lastData + ns 1000 ≤ (s.advance t).clk.now) :
    s.strandTacet i t = (s.advance t).strandMap i (fun x => { x with tacet := true }) := by
  unfold State.strandTacet
  dsimp only
  rw [if_pos ⟨hup, .inl huse, hempty, hdue⟩]

theorem State.strandTacet_early {s : State} {i t : Nat} (hearly : (s.advance t).clk.now < ((s.advance t).strand i).lastData + ns 1000) :
    s.strandTacet i t = s.advance t := by
  unfold State.strandTacet
  dsimp only
  rw [if_neg fun h => Nat.not_le_of_lt hearly h.2.2.2]

end Sys2Proof.Machine
end

section
namespace Sys2Proof.Claims
open Sys2Proof Sys2Proof.Machine

/-- Settles O49: a strand's training begins from empty buffers and ends in one of three ways; the loss of a lane's lock begins it again. -/
theorem strandsTrain : Obligations.StrandsTrain := by
  unfold Obligations.StrandsTrain
  intro i t s hsound
  have hadv : (s.advance t).sound = true := (Follows.refl s).advance.sound hsound
  have hregs := State.regs_sorted hsound
  have hregsu := State.regs_sorted hadv
  have hi : i.val < s.weave.strands.length := by rw [State.strands_sound hsound]; exact i.isLt
  have hiu : i.val < (s.advance t).weave.strands.length := by rw [State.strands_sound hadv]; exact i.isLt
  refine ⟨fun hanswers => ?_, fun hanswers => ?_, fun hsame lanes failed version serial peer addr stamps slips => ?_, fun lane => ⟨fun hup hlane => ?_,
    fun hlane => ?_⟩, fun hup huse hempty => ⟨fun hdue => ?_, fun hearly => ?_⟩⟩
  · rw [Answers, exec_strst, State.strst, hanswers, if_neg (by decide)]
  · refine ⟨s.startTraining i.val, ?_, State.strand_startTraining_same hi, State.startTraining_peer hregs _, State.startTraining_use hregs _,
      fun j hj => State.strand_startTraining_other _ hj, rfl, rfl, rfl, ?_⟩
    · rw [Answers, exec_strst, State.strst, hanswers, if_pos rfl]
    · rw [State.startTraining_state hregs]
      rfl
  · generalize hr : (⟨lanes.toNat, failed.val, version.toNat, serial.toNat, peer.val, addr.toNat, stampDelay stamps, slips⟩ : Trained) = r
    have hexec : exec (.strandTrained i lanes failed version serial peer addr stamps slips t) s = .next (s.trainingEnd i.val r t) := by
      rw [exec_strandTrained, hr]
    have hversion : r.version = 3 ↔ version = 3#8 := by
      rw [← hr]
      exact ⟨fun h => BitVec.eq_of_toNat_eq h, fun h => congrArg BitVec.toNat h⟩
    have hfield : r.lanes = lanes.toNat ∧ r.failed = failed.val ∧ r.delay = stampDelay stamps ∧ r.serial = serial.toNat ∧ r.strand = peer.val := by
      rw [← hr]; exact ⟨rfl, rfl, rfl, rfl, rfl⟩
    obtain ⟨hlanes, hfailed, hdelay, hserial, hpeer⟩ := hfield
    refine ⟨fun hidle => ?_, fun htrains hbad => ?_, fun htrains hgood hmany hproto => ?_⟩
    · have htrained := State.strandTrained_idle r (hsame.trans_ne hidle)
      rw [Answers, hexec, State.trainingEnd_quiet, htrained]
      rw [htrained, State.strandUp, State.strandUp, hsame]
      exact (Bool.eq_false_or_eq_true _).symm.elim .inr .inl
    · have hstep : r.step ≠ 0 := Trained.step_ne_zero (by rw [hfailed, hlanes, Ne, Ne, hversion]; exact hbad)
      obtain ⟨hstate, hevent, hforeign, hweave⟩ := State.strandTrained_failed hregsu i.isLt r rfl (hsame.trans htrains) hstep
      refine ⟨s.strandTrained i.val r t, ?_, hstate, hevent, fun hstep' hmany hver => ?_, congrArg Weave.strands hweave⟩
      · rw [Answers, hexec, State.trainingEnd_quiet (.inr (by rw [State.strandUp, hstate]; rfl))]
      · have hver' : r.version ≠ 3 := fun h => hver (hversion.mp h)
        exact hforeign (Trained.step_foreign (hfailed ▸ hstep') (hlanes ▸ hmany) hver') hver'
    · have hstep : r.step = 0 := Trained.step_eq_zero (hfailed.trans hgood) (hlanes ▸ hmany) (hversion.mpr hproto)
      have htrained := State.strandTrained_up (hsame.trans htrains) hstep
      have hstate : ((s.advance t).trainUp i.val r).rd wvStrandState i.val = 2 := State.rd_trainUp_state hregsu r
      have hstrand := State.strand_trainUp r hiu
      refine ⟨(s.advance t).trainUp i.val r, ?_, hstate, fun hsmall => ?_, ?_, ?_, ?_⟩
      · rw [Answers, hexec, State.trainingEnd_up htrained (by rw [State.strandUp, hstate]; rfl)]
      · rw [State.rd_trainUp_delay hregsu r (hdelay ▸ hsmall), hdelay]
      · rw [hstrand, ← hlanes]; rfl
      · rw [hstrand, ← hserial]; rfl
      · rw [hstrand, ← hpeer]; rfl
  · have hweave := (s.advance t).logError_weave (cls := 3) 3 i.val 25 lane.val (by decide)
    refine ⟨(s.advance t).logError 3 3 i.val 25 lane.val, ?_, State.rd_logError_event _ _ _ _ (by decide) hregsu, hweave, ?_⟩
    · rw [Answers, exec_laneLockLoss, State.lockLoss_retrains hup hlane]
    · rw [State.strand_startTraining_same (by rw [hweave]; exact hiu)]
  · rw [Answers, exec_laneLockLoss, State.lockLoss_spare hlane]
  · rw [Answers, exec_strandTacet, State.strandTacet_due hup huse hempty hdue]
  · rw [Answers, exec_strandTacet, State.strandTacet_early hearly]

end Sys2Proof.Claims
end

section
/-!
LAWS. Messages of the weave: what a message sent leaves unchanged, and the message a command takes from its strand.
-/
namespace Sys2Proof.Machine

/-! ## The chip beside its lines -/

/-- The weave beside the buffers of its strands. -/
def Weave.besideLines (w : Weave) : Weave := { w with strands := [] }

/-- The chip beside what it puts on its lines: the strands' buffers, the output, and the free values a block takes. -/
def State.besideLines (s : State) : State := { s with out := [], free := 0, weave := s.weave.besideLines }

@[simp] theorem State.besideLines_sendCtl (s : State) (i : Nat) (c : Ctl) : (s.sendCtl i c).besideLines = s.besideLines := by
  unfold State.sendCtl
  split <;> rfl

@[simp] theorem State.besideLines_pumpOne (s : State) (i : Nat) : (s.pumpOne i).besideLines = s.besideLines := by
  unfold State.pumpOne
  dsimp only
  split
  · split <;> rfl
  · rfl

@[simp] theorem State.besideLines_pump (s : State) (i : Nat) : (s.pump i).besideLines = s.besideLines :=
  State.foldl_keeps (π := State.besideLines) _ s fun t _ => t.besideLines_pumpOne i

@[simp] theorem State.besideLines_queueMsg (s : State) (i : Nat) (m : Bytes) : (s.queueMsg i m).besideLines = s.besideLines :=
  State.besideLines_pump _ i

@[simp] theorem State.besideLines_routeIn (s : State) (map : List MapEnt) (self : Nat) (up : Option Nat) (m : Bytes) :
    (s.routeIn map self up m).besideLines = s.besideLines := by
  unfold State.routeIn
  dsimp only
  split
  · refine State.each_keeps (π := State.besideLines) _ s fun t c => ?_
    split
    · exact t.besideLines_queueMsg _ m
    · rfl
  split
  · split
    · exact s.besideLines_queueMsg _ m
    · rfl
  split
  · exact s.besideLines_queueMsg _ m
  · rfl

@[simp] theorem State.besideLines_send (s : State) (t dst op : Nat) (body : Bytes) : (s.send t dst op body).besideLines = s.besideLines :=
  s.besideLines_routeIn _ _ _ _

section
variable {s t : State} (h : t.besideLines = s.besideLines)
include h

theorem State.regs_of_besideLines : t.regs = s.regs := (congrArg State.regs h :)
theorem State.store_of_besideLines : t.store = s.store := (congrArg State.store h :)
theorem State.weave_of_besideLines : t.weave.besideLines = s.weave.besideLines := (congrArg State.weave h :)

/-- What is read of the weave beside its strands. -/
theorem State.weaveField_of_besideLines {α : Type} {π : Weave → α} (hπ : ∀ w, π w.besideLines = π w) : π t.weave = π s.weave := by
  rw [← hπ t.weave, State.weave_of_besideLines h, hπ]

end

@[simp] theorem State.store_send (s : State) (t dst op : Nat) (body : Bytes) : (s.send t dst op body).store = s.store :=
  State.store_of_besideLines (s.besideLines_send t dst op body)

end Sys2Proof.Machine
end

section
namespace Sys2Proof.Claims
open Sys2Proof Sys2Proof.Machine

/-! ## The message a command takes -/

/-- A message that has arrived is taken from its strand and acted on. -/
theorem withMsg_of_got {s : State} {i t : Nat} {m : Bytes} (h : gotMsg s i t m) (f : State → Bytes → State) :
    s.withMsg i t f = f (takenMsg s i t) m := by
  obtain ⟨hlive, hfind⟩ := h
  rw [State.withMsg, State.withMsgIf, hfind, hlive]
  rfl

@[simp] theorem takenMsg_store (s : State) (i t : Nat) : (takenMsg s i t).store = s.store := rfl
@[simp] theorem takenMsg_wop? (s : State) (i t op : Nat) : (takenMsg s i t).wop? op = s.wop? op := rfl

/-- The type of a message that has arrived is the type asked for. -/
theorem msgType_of_got {s : State} {i t : Nat} {m : Bytes} (h : gotMsg s i t m) : msgType m = t := by
  have hpred := List.find?_some h.2
  simpa using hpred

end Sys2Proof.Claims
end

section
/-!
PROOFS. Beacons and reports (O51): BEACON, SETTINGS, GENERATIONS and CAPACITY.
-/
namespace Sys2Proof.Machine

theorem exec_beaconSend (s : State) : exec .beaconSend s = .next s.beaconSend := rfl
theorem exec_beacon (i : Fin 64) (measure : Word) (lead : BitVec 16) (period : BitVec 31) (set : Bool) (records epoch : BitVec 16) (t : Nat) (s : State) :
    exec (.beacon i measure lead period set records epoch t) s =
      .next (s.onBeacon i.val measure.toNat lead.toNat period.toNat set records.toNat epoch.toNat t) := rfl
theorem exec_settings (i : Fin 64) (s : State) : exec (.settings i) s = .next (s.withMsg i.val 0x01 State.onSettings) := rfl
theorem exec_generations (i : Fin 64) (s : State) : exec (.generations i) s = .next (s.withMsg i.val 0x02 State.onGenerations) := rfl
theorem exec_capacityReportSend (s : State) : exec .capacityReportSend s = .next s.capacitySend := rfl
theorem exec_capacity (i : Fin 64) (s : State) : exec (.capacity i) s = .next (s.withMsg i.val 0x20 State.onCapacity) := rfl

/-! ## BEACON (R610) -/

/-- The BEACON a head rim sends on each downlink. -/
def State.beaconCtl (u : State) : Ctl :=
  .beacon (measureAdd u.measure 1) 2000 (u.inForce measPeriodTicks) (u.weave.settings.filter (fun p => !later (measureAdd u.measure 1) p.1) != [])
    u.genRecords.length (u.rd wvEpochValue)

/-- What a head rim sends ahead of its downbeat: the BEACON on each downlink, the settings, and the generations of the downbeat. -/
def State.beaconSent (u : State) : State :=
  let s := u.each ((u.childrenOf u.self).filterMap u.strandTo) (fun s i => s.sendCtl i u.beaconCtl)
  let s := s.each (u.weave.settings.filter (fun p => !later (measureAdd u.measure 1) p.1)) (fun s p => s.send 0x01 0xFFF 0 (leBytes 4 p.1 ++ p.2))
  s.when (u.genRecords != []) (fun s => s.send 0x02 0xFFF 0
    (leBytes 4 (measureAdd u.measure 1) ++ (u.genRecords.map (fun r => leBytes 4 r.1 ++ leBytes 6 r.2)).flatten))

theorem State.beaconSend_idle {s : State} (h : s.live = false ∨ s.isHead = false) : s.beaconSend = s := by
  rw [State.beaconSend, if_pos]
  obtain h | h := h <;> simp [h]

theorem State.beaconSend_head {s : State} (hlive : s.live = true) (hhead : s.isHead = true) : let u := s.advance (s.clk.predicted - ns 2000)
    s.beaconSend = u.beaconSent.weaveMap (fun w => { w with gens := w.gens ++ u.genRecords.map (fun r => (measureAdd u.measure 1, r.1, r.2)) }) := by
  rw [State.beaconSend, if_neg (by simp [hlive, hhead])]
  rfl

theorem State.besideLines_beaconSent (u : State) : u.beaconSent.besideLines = u.besideLines := by
  unfold State.beaconSent
  dsimp only
  rw [State.when_keeps (π := State.besideLines) _ _ fun t => t.besideLines_send _ _ _ _,
    State.each_keeps (π := State.besideLines) _ _ fun t p => t.besideLines_send _ _ _ _,
    State.each_keeps (π := State.besideLines) _ _ fun t k => t.besideLines_sendCtl _ _]

theorem State.beaconSent_one {u : State} {k : Nat} (hrecs : u.genRecords = []) (hset : u.weave.settings = [])
    (hkids : (u.childrenOf u.self).filterMap u.strandTo = [k]) : u.beaconSent = u.sendCtl k u.beaconCtl := by
  unfold State.beaconSent
  rw [hkids, hset, hrecs]
  rfl

theorem State.onBeacon_other {s : State} {i : Nat} (measure lead period : Nat) (set : Bool) (records epoch t : Nat)
    (h : s.live = false ∨ s.inWeave = false ∨ s.isHead = true ∨ i ≠ s.uplink ∨ s.strandUp i = false) :
    s.onBeacon i measure lead period set records epoch t = s := by
  rw [State.onBeacon, if_pos]
  obtain h | h | h | h | h := h <;> simp [h]

/-- A rim's measure as a BEACON sets it: the downbeat it names, by the instant the block left the parent, and the epoch. -/
def State.beaconTaken (u : State) (i measure lead epoch : Nat) : State :=
  (u.weaveMap (fun w => { w with beacon := some (u.clk.now - u.rd wvDelayPs i * 768 / 1000 + ns lead, measure) })).wr wvEpochValue 0 epoch

/-- A BEACON passed on to a rim's own children. -/
def State.beaconPassed (u : State) (c : Ctl) : State := u.each ((u.childrenOf u.self).filterMap u.strandTo) (fun s k => s.sendCtl k c)

theorem State.besideLines_beaconPassed (u : State) (c : Ctl) : (u.beaconPassed c).besideLines = u.besideLines :=
  State.each_keeps (π := State.besideLines) _ u fun t k => t.besideLines_sendCtl k c

theorem State.onBeacon_uplink {s : State} {i : Nat} (measure lead period : Nat) (set : Bool) (records epoch t : Nat)
    (hlive : s.live = true) (hweave : s.inWeave = true) (hhead : s.isHead = false) (hi : i = s.uplink) (hup : s.strandUp i = true) :
    s.onBeacon i measure lead period set records epoch t =
      ((s.advance t).beaconTaken i measure lead epoch).beaconPassed (.beacon measure (lead - 36) period set records epoch) := by
  rw [State.onBeacon, if_neg]
  · rfl
  · rw [hlive, hweave, hhead, hup, hi, bne_self_eq_false]
    decide

/-! ## GENERATIONS (R614, R642) -/

/-- The records of a GENERATIONS message: a handle and a generation each. -/
def genRecs (b : Bytes) : List (Nat × Nat) :=
  ((List.range ((b.length - 4) / 10)).map (fun i => (field b (4 + 10 * i) 4, field b (8 + 10 * i) 6))).filter (fun r => r.1 != 0)

theorem genRecs_one {b : Bytes} (hlen : b.length = 14) (hhandle : field b 4 4 ≠ 0) : genRecs b = [(field b 4 4, field b 8 6)] := by
  have hrange : List.range ((b.length - 4) / 10) = [0] := by rw [hlen]; rfl
  rw [genRecs, hrange]
  simp [hhandle]

/-- A sub-shelf whose rows a change of generation has made void. -/
def Shelf.voided (h : Shelf) : Shelf := { h with slabs := [], opening := none, lost := true, counted := 0, held := [] }

/-- The local shelves of a handle. -/
def State.shelvesOf (s : State) (handle : Nat) : List Nat := (s.store.shelves.filter (fun h => h.handle == handle)).map (fun h => h.index)

/-- The sub-shelves of a handle wiped. -/
def State.rowsVoided (s : State) (handle : Nat) : State :=
  (s.wipe (s.shelvesOf handle)).storeMap (fun t => { t with
    shelves := updAll (fun h => (s.shelvesOf handle).contains h.index) Shelf.voided t.shelves })

/-- The sub-shelves of a handle wiped and out of service. -/
def State.genVoided (s : State) (handle : Nat) : State := (s.rowsVoided handle).outHolder (s.rowsVoided handle).self

/-- One record told to a member that has rejoined. -/
def State.genTold (s : State) (n : Nat) (r : Nat × Nat) : State :=
  match s.wshelf? r.1 with
  | none => s
  | some w => if w.gen = r.2 then s
      else (s.genVoided r.1).wshelfMap r.1 (fun w => { w with gen := r.2, template := w.template.setGen n r.2 })

theorem State.onGenerations_self {s : State} {m : Bytes} (h : msgDst m = s.self) :
    s.onGenerations m = s.each (genRecs (msgBody m)) (fun s r => s.genTold (field (msgBody m) 0 4) r) := by
  unfold State.onGenerations
  dsimp only
  rw [if_pos h]
  rfl

theorem State.onGenerations_other {s : State} {m : Bytes} (h : msgDst m ≠ s.self) : s.onGenerations m =
    s.weaveMap (fun w => { w with gens := w.gens ++ (genRecs (msgBody m)).map (fun r => (field (msgBody m) 0 4, r.1, r.2)) }) := by
  unfold State.onGenerations
  dsimp only
  rw [if_neg h]
  rfl

theorem State.genTold_same {s : State} {w : WShelf} {n : Nat} {r : Nat × Nat} (hw : s.wshelf? r.1 = some w) (hgen : w.gen = r.2) :
    s.genTold n r = s := by
  rw [State.genTold, hw]
  exact if_pos hgen

theorem State.genTold_changed {s : State} {w : WShelf} {n : Nat} {r : Nat × Nat} (hw : s.wshelf? r.1 = some w) (hgen : w.gen ≠ r.2) :
    s.genTold n r = (s.genVoided r.1).wshelfMap r.1 (fun w => { w with gen := r.2, template := w.template.setGen n r.2 }) := by
  rw [State.genTold, hw]
  exact if_neg hgen

/-! ### What a wipe leaves -/

/-- The local shelves by handle and number, and the weave. -/
def State.shelfNames (s : State) : List (Nat × Nat) × Weave := (s.store.shelves.map (fun h => (h.handle, h.index)), s.weave)

theorem State.shelfNames_shelfMap (s : State) (i : Nat) {f : Shelf → Shelf} (h : ∀ x, (f x).handle = x.handle ∧ (f x).index = x.index) :
    (s.shelfMap i f).shelfNames = s.shelfNames :=
  congrArg (fun l => (l, s.weave)) (map_updFirst_keeps _ (fun x => by rw [(h x).1, (h x).2]) _)

theorem State.shelfNames_setWriter (s : State) (shelf slab code : Nat) : (s.setWriter shelf slab code).shelfNames = s.shelfNames :=
  s.shelfNames_shelfMap shelf fun x => by split <;> exact ⟨rfl, rfl⟩

theorem State.shelfNames_closeJournal (s : State) (k : Nat) : (s.closeJournal k).shelfNames = s.shelfNames := by
  unfold State.closeJournal
  dsimp only
  split <;> rfl

theorem State.shelfNames_undoSlab (s : State) (j : Journal) : (s.undoSlab j).shelfNames = s.shelfNames := by
  unfold State.undoSlab
  dsimp only
  rw [State.shelfNames_closeJournal, State.when_keeps (π := State.shelfNames) _ _ fun t => t.shelfNames_setWriter _ _ _, State.shelfNames_setWriter]

theorem State.shelfNames_wipe (s : State) (gone : List Nat) : (s.wipe gone).shelfNames = s.shelfNames :=
  State.each_keeps (π := State.shelfNames) _ s fun t j => t.shelfNames_undoSlab j

theorem State.mem_wipe {s : State} {gone : List Nat} {h : Shelf} (hm : h ∈ (s.wipe gone).store.shelves) :
    ∃ x ∈ s.store.shelves, x.handle = h.handle ∧ x.index = h.index := by
  have hnames : (s.wipe gone).store.shelves.map (fun h => (h.handle, h.index)) = s.store.shelves.map (fun h => (h.handle, h.index)) :=
    congrArg Prod.fst (s.shelfNames_wipe gone)
  have hmem := List.mem_map_of_mem (f := fun h : Shelf => (h.handle, h.index)) hm
  rw [hnames] at hmem
  obtain ⟨x, hx, heq⟩ := List.mem_map.mp hmem
  exact ⟨x, hx, congrArg Prod.fst heq, congrArg Prod.snd heq⟩

theorem State.genVoided_store (s : State) (handle : Nat) : (s.genVoided handle).store.shelves =
    updAll (fun h => (s.shelvesOf handle).contains h.index) Shelf.voided (s.wipe (s.shelvesOf handle)).store.shelves := rfl

/-- Every sub-shelf of the handle is void. -/
theorem State.genVoided_void (s : State) (handle : Nat) :
    ∀ h ∈ (s.genVoided handle).store.shelves, h.handle = handle → h.lost = true ∧ h.slabs = [] := by
  rw [State.genVoided_store]
  refine forall_mem_updAll (fun _ _ _ _ => ⟨rfl, rfl⟩) fun h hm hout hhandle => ?_
  obtain ⟨x, hx, hxh, hxi⟩ := State.mem_wipe hm
  have hlisted : h.index ∈ s.shelvesOf handle := List.mem_map.mpr ⟨x, List.mem_filter.mpr ⟨hx, by simp [hxh, hhandle]⟩, hxi⟩
  simp [hlisted] at hout

theorem WShelf.without_named (a : Nat) (w : WShelf) : (w.without a).template = w.template ∧ (w.without a).gen = w.gen := by
  unfold WShelf.without
  split <;> exact ⟨rfl, rfl⟩

theorem State.outHolder_wshelf? (s : State) (a handle : Nat) : (s.outHolder a).wshelf? handle = (s.wshelf? handle).map (WShelf.without a) := by
  have hsame : (fun w : WShelf => w.template.handle == handle) ∘ WShelf.without a = fun w => w.template.handle == handle := by
    funext w
    rw [Function.comp_apply, (WShelf.without_named a w).1]
  exact (List.find?_map ..).trans (by rw [hsame]; rfl)

theorem State.rowsVoided_weave (s : State) (handle : Nat) : (s.rowsVoided handle).weave = s.weave :=
  congrArg Prod.snd (s.shelfNames_wipe (s.shelvesOf handle))

theorem State.genVoided_wshelf? (s : State) (handle : Nat) : (s.genVoided handle).wshelf? handle =
    (s.wshelf? handle).map (WShelf.without (s.rowsVoided handle).self) := by
  rw [State.genVoided, State.outHolder_wshelf?, State.wshelf?, State.rowsVoided_weave]
  rfl

theorem Shelf.setGen_handle (n g : Nat) (h : Shelf) : (h.setGen n g).handle = h.handle := by
  unfold Shelf.setGen
  split <;> rfl

theorem State.wshelf?_wshelfMap {s : State} {handle : Nat} {f : WShelf → WShelf} (hf : ∀ w, (f w).template.handle = w.template.handle) :
    (s.wshelfMap handle f).wshelf? handle = (s.wshelf? handle).map f :=
  find?_updFirst _ _ _ fun w hw => by rw [hf w]; exact hw

/-- A record of another generation gives the shelf that generation, and voids what this chip holds of it. -/
theorem State.genTold_voids {s : State} {w : WShelf} {n : Nat} {r : Nat × Nat} (hw : s.wshelf? r.1 = some w) (hgen : w.gen ≠ r.2) :
    (∃ w', (s.genTold n r).wshelf? r.1 = some w' ∧ w'.gen = r.2) ∧
      ∀ h ∈ (s.genTold n r).store.shelves, h.handle = r.1 → h.lost = true ∧ h.slabs = [] := by
  rw [State.genTold_changed hw hgen]
  refine ⟨?_, s.genVoided_void r.1⟩
  refine ⟨_, (State.wshelf?_wshelfMap (fun _ => Shelf.setGen_handle _ _ _)).trans (by rw [State.genVoided_wshelf?, hw]; rfl), rfl⟩

/-! ## CAPACITY (R621) -/

/-- A member that has reported its capacity. -/
def Member.reporting (k : Capacity) (x : Member) : Member := { x with cap := some k }

theorem State.capacitySend_member {s : State} (hlive : s.live = true) (hweave : s.inWeave = true) (hhead : s.isHead = false) :
    let u := s.advance (s.clk.predicted - ns 20000)
    s.capacitySend = u.send 0x20 u.headAddr 0 u.capacityBody := by
  rw [State.capacitySend, if_pos (by simp [hlive, hweave, hhead])]

theorem State.capacitySend_idle {s : State} (h : s.live = false ∨ s.inWeave = false ∨ s.isHead = true) : s.capacitySend = s := by
  rw [State.capacitySend, if_neg]
  obtain h | h | h := h <;> simp [h]

end Sys2Proof.Machine
end

section
namespace Sys2Proof.Claims
open Sys2Proof Sys2Proof.Machine

/-- Settles O51: what a head rim sends ahead of its downbeat, and what a rim and a member take from the messages that come with it. -/
theorem beaconsAndReports : Obligations.BeaconsAndReports := by
  unfold Obligations.BeaconsAndReports
  intro i m s hsound
  refine ⟨fun hidle => ?_, fun hlive hhead => ⟨?_, fun k hrecs hset hkids hup => ?_⟩,
    fun measure lead period set records epoch t => ⟨fun hother => ?_, fun hlive hweave hhead hi hup => ?_⟩, fun hgot => ?_, fun hgot hdst => ?_,
    fun hgot hdst w g hw hhandle hlen hrec hgen => ⟨fun hsame => ?_, fun hchanged => ?_⟩, fun hlive hweave hhead => ⟨?_, State.store_send _ _ _ _ _⟩,
    fun hidle => ?_, fun hgot => ?_⟩
  · rw [Answers, exec_beaconSend, State.beaconSend_idle hidle]
  · have hexec := (exec_beaconSend s).trans (congrArg _ (State.beaconSend_head hlive hhead))
    generalize s.advance (s.clk.predicted - ns 2000) = u at *
    have hlines := u.besideLines_beaconSent
    exact ⟨_, hexec, (State.weaveMap_store _ _).trans (State.store_of_besideLines hlines),
      congrArg (· ++ _) (State.weaveField_of_besideLines (π := Weave.gens) hlines fun _ => rfl)⟩
  · have hexec := (exec_beaconSend s).trans (congrArg _ (State.beaconSend_head hlive hhead))
    generalize s.advance (s.clk.predicted - ns 2000) = u at *
    rw [State.beaconSent_one hrecs hset hkids, State.sendCtl_up _ hup] at hexec
    obtain ⟨b, hb⟩ := u.out_emitBlock k true (ctlBits u.beaconCtl)
    refine ⟨_, b, hexec, ?_, ?_⟩
    · rw [State.weaveMap_out, hb]
    · rw [State.weaveMap_regs, State.regs_emitBlock]
  · rw [Answers, exec_beacon, State.onBeacon_other _ _ _ _ _ _ _ hother]
  · have hlines := State.besideLines_beaconPassed ((s.advance t).beaconTaken i.val measure.toNat lead.toNat epoch.toNat)
      (.beacon measure.toNat (lead.toNat - 36) period.toNat set records.toNat epoch.toNat)
    refine ⟨_, (exec_beacon i measure lead period set records epoch t s).trans
      (congrArg _ (State.onBeacon_uplink _ _ _ _ _ _ _ hlive hweave hhead hi hup)), ?_,
      (State.store_of_besideLines hlines).trans (State.wr_store _ _ _ _), State.weaveField_of_besideLines (π := Weave.beacon) hlines fun _ => rfl⟩
    rw [State.rd_of_regs _ _ _ _ (State.regs_of_besideLines hlines)]
    have hregs := State.regs_sorted ((Follows.refl s).advance (t := t) |>.sound hsound)
    exact (State.rd_wr_same _ _ _ _ hregs).trans (Nat.mod_eq_of_lt epoch.isLt)
  · refine ⟨(takenMsg s i.val 0x01).onSettings m, ?_, rfl, rfl, rfl, rfl⟩
    rw [Answers, exec_settings, withMsg_of_got hgot]
  · refine ⟨_, (exec_generations i s).trans (congrArg _ ((withMsg_of_got hgot _).trans (State.onGenerations_other hdst))), rfl, rfl, rfl⟩
  · rw [Answers, exec_generations, withMsg_of_got hgot, State.onGenerations_self (by exact hdst), genRecs_one hlen (hrec ▸ hhandle)]
    exact congrArg _ (State.genTold_same (s := takenMsg s i.val 0x02) (by rw [hrec]; exact hw) (hsame.trans hgen.symm))
  · have hw' : (takenMsg s i.val 0x02).wshelf? (field (msgBody m) 4 4) = some w := by rw [hrec]; exact hw
    obtain ⟨⟨w', hfind, hgen'⟩, hvoid⟩ := State.genTold_voids (n := field (msgBody m) 0 4) (r := (field (msgBody m) 4 4, field (msgBody m) 8 6))
      hw' (by rw [hgen]; exact hchanged)
    refine ⟨(takenMsg s i.val 0x02).genTold (field (msgBody m) 0 4) (field (msgBody m) 4 4, field (msgBody m) 8 6), w', ?_, ?_, hgen'.trans hgen, ?_⟩
    · rw [Answers, exec_generations, withMsg_of_got hgot, State.onGenerations_self (by exact hdst), genRecs_one hlen (hrec ▸ hhandle)]
      rfl
    · rw [← hrec]; exact hfind
    · rw [← hrec]; exact hvoid
  · rw [Answers, exec_capacityReportSend, State.capacitySend_member hlive hweave hhead]
  · rw [Answers, exec_capacityReportSend, State.capacitySend_idle hidle]
  · refine ⟨(takenMsg s i.val 0x20).onCapacity m, ?_, rfl, rfl, fun x hx => ?_⟩
    · rw [Answers, exec_capacity, withMsg_of_got hgot]
    · exact (find?_updFirst (fun x => x.addr == msgSrc m) (Member.reporting (capOf (msgBody m))) s.weave.members fun _ h => h).trans (congrArg _ hx)

end Sys2Proof.Claims
end

section
/-!
PROOFS. Members come and go (O52): loss, the deputy's reports, adoption, rejoining, Rest, and ADMIN with its answers.
-/
namespace Sys2Proof.Machine

theorem exec_memberLost (a : BitVec 12) (s : State) : exec (.memberLost a) s = .next (s.memberLost a.toNat) := rfl
theorem exec_lossReport (i : Fin 64) (s : State) : exec (.lossReport i) s = .next (s.withMsg i.val 0x03 State.onLoss) := rfl
theorem exec_adopt (i : Fin 64) (s : State) : exec (.adopt i) s = .next (s.withMsg i.val 0x04 (fun s m => s.onAdopt i.val m)) := rfl
theorem exec_rejoin (i : Fin 64) (s : State) : exec (.rejoin i) s = .next (s.withMsg i.val 0x05 (fun s m => s.onRejoin i.val m)) := rfl
theorem exec_rest (i : Fin 64) (s : State) : exec (.rest i) s = .next (s.withMsgIf s.answers i.val 0x06 State.onRest) := rfl
theorem exec_admin (i : Fin 64) (s : State) : exec (.admin i) s = .next (s.withMsg i.val 0x1C State.onAdmin) := rfl
theorem exec_adminAck (i : Fin 64) (s : State) : exec (.adminAck i) s = .next (s.withMsg i.val 0x1D State.onAdminAck) := rfl

/-! ## Loss (R641) -/

/-- A member and what lies below it. -/
def State.branchOf (s : State) (a : Nat) : List Nat := a :: (s.below a).filter (fun x => x != a)

theorem State.branchOf_mem {s : State} {a x : Nat} (h : x = a ∨ x ∈ s.below a) : (s.branchOf a).contains x = true := by
  rw [State.branchOf, List.contains_iff_mem, List.mem_cons, List.mem_filter]
  by_cases hx : x = a
  · exact .inl hx
  · exact .inr ⟨h.resolve_left hx, by simp [hx]⟩

/-- A member that is lost. -/
def Member.gone (x : Member) : Member := { x with lost := true }

/-- The loss of a branch noted and logged. -/
def State.branchLost (s : State) (a : Nat) : State :=
  (s.weaveMap (fun w => { w with members := updAll (fun m => (s.branchOf a).contains m.addr) Member.gone w.members })).logError 3 3
    (((List.range 64).find? (fun i => s.rd wvStrandPeer i == a)).getD 0) 27 a

theorem State.memberLost_early {s : State} {a n : Nat} {mb : Member} (hfind : s.weave.members.find? (fun x => x.addr == a) = some mb)
    (hdown : mb.downFrom = some n) (hearly : (s.measure + 2 ^ 32 - n) % 2 ^ 32 < s.rd wvCtrlRejoin) : s.memberLost a = s := by
  rw [State.memberLost, hfind]
  dsimp only
  rw [hdown, if_pos]
  dsimp only
  rw [decide_eq_false (Nat.not_le_of_lt hearly)]
  simp

theorem State.memberLost_due {s : State} {a n : Nat} {mb : Member} (hlive : s.live = true)
    (hfind : s.weave.members.find? (fun x => x.addr == a) = some mb) (hchild : (s.childrenOf s.self).contains a = true) (hlost : mb.lost = false)
    (hdown : mb.downFrom = some n) (hgone : s.strandTo a = none) (hdue : s.rd wvCtrlRejoin ≤ (s.measure + 2 ^ 32 - n) % 2 ^ 32) :
    s.memberLost a = if (s.branchLost a).isHead then
        (((((s.branchLost a).ev wvEventMemberLost).forget (s.branchOf a)).forgetFans (s.branchOf a)).weavePrepares).adminDone
      else s.branchLost a := by
  rw [State.memberLost, hfind]
  dsimp only
  rw [hdown, if_neg]
  · rfl
  · dsimp only
    rw [hlive, hchild, hlost, hgone, decide_eq_true hdue]
    decide

theorem wvSelfRole_apart : BesideReports wvSelfRole 0 := .inl (by decide)

theorem State.rd_branchLost (s : State) (a : Nat) {f : Fld} {i : Nat} (h : BesideReports f i) : (s.branchLost a).rd f i = s.rd f i :=
  State.rd_logError (s := s.weaveMap _) _ _ _ _ (by decide) h

theorem State.branchLost_isHead (s : State) (a : Nat) : (s.branchLost a).isHead = s.isHead := by
  rw [State.isHead, State.isHead, State.rd_branchLost s a wvSelfRole_apart]

theorem State.branchLost_event {s : State} (hs : regSorted s.regs = true) (a : Nat) : (s.branchLost a).rd errEventUnit = 1 :=
  State.rd_logError_event (s := s.weaveMap _) (cls := 3) _ _ _ _ (by decide) hs

theorem State.sorted_branchLost {s : State} (hs : s.sound = true) (a : Nat) : regSorted (s.branchLost a).regs = true := by
  unfold State.branchLost
  have hnoted := (Follows.refl s).weaveMap (f := fun w => { w with members := updAll (fun m => (s.branchOf a).contains m.addr) Member.gone w.members })
    fun _ => rfl
  exact State.regs_sorted (hnoted.logError.sound hs)

theorem State.branchLost_store (s : State) (a : Nat) : (s.branchLost a).store = s.store := State.logError_store (s.weaveMap _) _ _ _ _ _

theorem State.branchLost_members (s : State) (a : Nat) :
    (s.branchLost a).weave.members = updAll (fun m => (s.branchOf a).contains m.addr) Member.gone s.weave.members :=
  congrArg Weave.members (State.logError_weave (s.weaveMap _) _ _ _ _ (by decide))

theorem State.branchLost_lost (s : State) (a : Nat) : ∀ x ∈ (s.branchLost a).weave.members, x.addr = a ∨ x.addr ∈ s.below a → x.lost = true := by
  rw [State.branchLost_members]
  exact forall_mem_updAll (fun _ _ _ _ => rfl) fun x _ hout hx => Bool.noConfusion (hout.symm.trans (State.branchOf_mem hx))

/-! ## Reports of loss and adoption (R643) -/

theorem State.onLoss_kept {s : State} {m : Bytes} (h : s.self ≠ s.rd wvDeputyAddr ∨ field (msgBody m) 6 2 ≠ s.rd wvEpochValue) : s.onLoss m = s := by
  unfold State.onLoss
  dsimp only
  rw [if_pos (h.elim .inl fun h => .inr (.inl h))]

theorem State.onLoss_reported {s : State} {m : Bytes} (hhead : s.isHead = false) (hself : s.self = s.rd wvDeputyAddr)
    (hepoch : field (msgBody m) 6 2 = s.rd wvEpochValue) :
    s.onLoss m = (s.weaveMap (fun w => { w with reports := (w.reports ++ [field (msgBody m) 4 2]).eraseDups })).tryPromote := by
  unfold State.onLoss
  dsimp only
  rw [if_neg (by simp [hhead, hself, hepoch])]

/-- The weave with a map put in force, and the copies of the members it leaves out taken out of service. -/
def State.mapPut (s : State) (map : List MapEnt) : State :=
  let s := s.each (s.weave.map.filter (fun m => !(map.any (fun x => x.serial == m.serial)))) (fun s m => s.outHolder m.addr)
  s.weaveMap (fun w => { w with
    map := map, nextMap := none
    members := map.map (fun e => (s.weave.members.find? (fun x => x.addr == e.addr)).getD ⟨e.addr, false, none, none⟩) })

/-- Beside the registers and the end of an ownership, a map that takes effect is put in force and nothing more. -/
theorem State.takeMap_keeps {α : Type} {π : State → α} (hwr : ∀ t f i v, π (State.wr t f i v) = π t) (hown : ∀ t, π (State.endOwnership t none true) = π t)
    (s : State) (map : List MapEnt) : π (s.takeMap map) = π (s.mapPut map) := by
  unfold State.takeMap
  dsimp only
  split
  · rw [hwr, hwr, hwr, hwr, hwr]
    rfl
  · have hlabel (t : State) (i : Nat) : π (t.labelStrand i) = π t := (hwr _ _ _ _).trans (hwr _ _ _ _)
    rw [State.each_keeps (π := π) _ _ fun t i => hlabel t i, State.when_keeps (π := π) _ _ fun t =>
      (State.when_keeps (π := π) _ _ fun t => hown t).trans (hwr _ _ _ _), hwr, hwr, hwr, hwr, hwr, hwr, hwr]
    rfl

theorem State.notice_weave (s : State) (seat bit : Nat) : (s.notice seat bit).weave = s.weave := by
  unfold State.notice
  dsimp only
  split
  · rfl
  · exact State.raise_weave _ _ _

theorem State.endOwnership_weave (s : State) (offer : Option Nat) (tell : Bool) : (s.endOwnership offer tell).weave = s.weave :=
  State.endOwnership_keeps (π := State.weave) (fun t seat bit => t.notice_weave seat bit) s offer tell

theorem State.takeMap_weave (s : State) (map : List MapEnt) : (s.takeMap map).weave = (s.mapPut map).weave :=
  State.takeMap_keeps (π := State.weave) (fun _ _ _ _ => rfl) (fun t => t.endOwnership_weave _ _) s map

theorem State.takeMap_store (s : State) (map : List MapEnt) : (s.takeMap map).store = s.store :=
  (State.takeMap_keeps (π := State.store) (fun _ _ _ _ => rfl) (fun t => t.endOwnership_store _ _) s map).trans
    (State.each_keeps (π := State.store) _ s fun _ _ => rfl)

/-- The map of a member that a new head rim has adopted over strand `i`. -/
def State.adoptedMap (s : State) (i new : Nat) : List MapEnt :=
  (promotedMap s.weave.map s.headAddr new ((s.weave.promo.map (fun p => p.planned)).getD false)).map
    (fun e => if e.addr = s.self then { e with up := i } else e)

theorem State.onAdopt_eq (s : State) (i : Nat) (m : Bytes) : s.onAdopt i m =
    ((s.takeMap (s.adoptedMap i (field (msgBody m) 0 2))).wr wvEpochValue 0 (field (msgBody m) 2 2)).weaveMap
      (fun w => { w with missed := false, promo := none }) := rfl

/-! ## Rejoining and Rest (R642, R652) -/

/-- A member that is back. -/
def Member.back (x : Member) : Member := { x with lost := false, downFrom := none }

/-- A rejoin is a change of the weave, then the generations told. -/
theorem State.onRejoin_sent (s : State) (i : Nat) (m : Bytes) : ∃ (w : State) (b : Bytes),
    s.onRejoin i m = w.send 0x02 (field (msgBody m) 0 2) 0 b ∧ w.regs = s.regs ∧ w.store = s.store ∧
      w.weave.members = updFirst (fun x => x.addr == field (msgBody m) 0 2) Member.back s.weave.members := by
  refine ⟨_, _, rfl, ?_, ?_, ?_⟩
  · exact State.each_keeps (π := State.regs) _ _ fun _ _ => rfl
  · exact State.each_keeps (π := State.store) _ _ fun _ _ => rfl
  · exact State.each_keeps (π := fun t => t.weave.members) _ _ fun _ _ => rfl

theorem State.restWake_weave (s : State) : s.restWake.weave = s.weave := by
  unfold State.restWake
  split <;> rfl

theorem State.restWake_mode (s : State) : s.restWake.pwr.mode = if s.pwr.mode = .rest then .waking else s.pwr.mode := by
  unfold State.restWake
  split <;> rfl

/-- The Rest request of the head rim kept. -/
def State.restAsked (s : State) (b : Bytes) : State := s.weaveMap (fun w => { w with restAt := some (field b 0 1, field b 4 4) })

theorem State.onRest_eq (s : State) (m : Bytes) : s.onRest m =
    if field (msgBody m) 0 1 = 2 then (s.restAsked (msgBody m)).restWake else s.restAsked (msgBody m) := rfl

theorem State.onRest_reads (s : State) (m : Bytes) : (s.onRest m).weave.restAt = some (field (msgBody m) 0 1, field (msgBody m) 4 4) ∧
    (s.onRest m).regs = s.regs ∧
    (s.onRest m).pwr.mode = if field (msgBody m) 0 1 = 2 ∧ s.pwr.mode = .rest then .waking else s.pwr.mode := by
  rw [State.onRest_eq]
  by_cases hwake : field (msgBody m) 0 1 = 2
  · rw [if_pos hwake]
    refine ⟨congrArg Weave.restAt (State.restWake_weave _), State.restWake_regs _, ?_⟩
    rw [State.restWake_mode]
    exact if_congr (by simp [hwake, State.restAsked]) rfl rfl
  · rw [if_neg hwake, if_neg fun h => hwake h.1]
    exact ⟨rfl, rfl, rfl⟩

/-! ## Operation messages answered (R639) -/

theorem State.once_answered {s : State} {m b : Bytes} {reply : Nat} {f : State → State} (h : s.answered? (msgOp m) (msgType m) = some b) :
    s.once m reply f = s.send reply s.headAddr (msgOp m) b := by
  rw [State.once, h]

theorem State.once_fresh {s : State} {m : Bytes} {reply : Nat} {f : State → State} (h : s.answered? (msgOp m) (msgType m) = none) :
    s.once m reply f = f s := by
  rw [State.once, h]

/-- An answer recorded. -/
def State.answerNoted (s : State) (op t : Nat) (body : Bytes) : State :=
  s.weaveMap (fun w => { w with applied := ((op, t, body) :: w.applied).take 65536 })

theorem State.besideLines_answer (s : State) (op t reply : Nat) (body : Bytes) :
    (s.answer op t reply body).besideLines = (s.answerNoted op t body).besideLines := State.besideLines_send _ _ _ _ _

theorem State.store_answer (s : State) (op t reply : Nat) (body : Bytes) : (s.answer op t reply body).store = s.store :=
  State.store_send _ _ _ _ _

/-- What is read of the weave beside its strands and its record of answers. -/
theorem State.weaveField_answer (s : State) (op t reply : Nat) (body : Bytes) {α : Type} {π : Weave → α} (hlines : ∀ w, π w.besideLines = π w)
    (happlied : ∀ w : Weave, π { w with applied := ((op, t, body) :: w.applied).take 65536 } = π w) :
    π (s.answer op t reply body).weave = π s.weave :=
  (State.weaveField_of_besideLines (s.besideLines_answer op t reply body) hlines).trans (happlied s.weave)

theorem State.ackAdmin_member {s : State} (h : s.inWeave = true) (m body : Bytes) : s.ackAdmin m body = s.answer (msgOp m) 0x1C 0x1D body :=
  if_pos h

/-! ## ADMIN (R650) -/

/-- The map an ADMIN brings. -/
def adminMap (b : Bytes) : List MapEnt := (mapOf (b.drop 4)).filter (fun e => e.serial != 0)

theorem State.onAdmin_again {s : State} {m b : Bytes} (hweave : s.inWeave = true) (h : s.answered? (msgOp m) (msgType m) = some b) :
    s.onAdmin m = s.send 0x1D s.headAddr (msgOp m) b := by
  unfold State.onAdmin
  dsimp only
  rw [if_neg (by simp [hweave]), State.once_answered h]

section
variable {s : State} {m : Bytes} (hweave : s.inWeave = true) (hfresh : s.answered? (msgOp m) (msgType m) = none)
include hweave hfresh

theorem State.onAdmin_map (h : field (msgBody m) 0 1 = 1 ∨ field (msgBody m) 0 1 = 2) :
    s.onAdmin m = (s.weaveMap (fun w => { w with nextMap := some (adminMap (msgBody m)) })).ackAdmin m (leBytes 1 0) := by
  unfold State.onAdmin
  dsimp only
  rw [if_neg (by simp [hweave]), State.once_fresh hfresh]
  obtain h | h := h <;> rw [h] <;> rfl

theorem State.onAdmin_exclude (h : field (msgBody m) 0 1 = 3) : s.onAdmin m = (s.ackAdmin m (leBytes 1 0)).weaveMap (fun w =>
    { w with nextMap := some ((s.ackAdmin m (leBytes 1 0)).mapNext.filter (fun e => e.addr != field (msgBody m) 4 2)) }) := by
  unfold State.onAdmin
  dsimp only
  rw [if_neg (by simp [hweave]), State.once_fresh hfresh, h]
  rfl

theorem State.onAdmin_promote (h : field (msgBody m) 0 1 = 6) (hself : field (msgBody m) 4 2 = s.self) (hhead : s.isHead = false) :
    s.onAdmin m = (s.ackAdmin m (leBytes 1 0)).weaveMap (fun w =>
      { w with promo := some ⟨s.measure, s.headAddr, true⟩ }) := by
  unfold State.onAdmin
  dsimp only
  rw [if_neg (by simp [hweave]), State.once_fresh hfresh, h]
  exact if_pos ⟨hself, by rw [hhead]; rfl⟩

theorem State.onAdmin_unknown (h : 7 < field (msgBody m) 0 1) : s.onAdmin m = s.ackAdmin m (leBytes 1 stBadParam) := by
  unfold State.onAdmin
  dsimp only
  obtain ⟨k, hk⟩ : ∃ k, field (msgBody m) 0 1 = k + 8 := ⟨field (msgBody m) 0 1 - 8, by omega⟩
  rw [if_neg (by simp [hweave]), State.once_fresh hfresh, hk]
  rfl

end

/-- An outstanding operation with a member's answer noted. -/
def WOp.heard (m : Bytes) (o x : WOp) : WOp :=
  { x with waiting := o.waiting.filter (fun a => a != msgSrc m), worst := if o.worst = 0 then field (msgBody m) 0 1 else o.worst }

theorem State.onAdminAck_unknown {s : State} {m : Bytes} (hhead : s.isHead = true) (h : s.wop? (msgOp m) = none) : s.onAdminAck m = s := by
  unfold State.onAdminAck
  dsimp only
  rw [hhead, if_neg (by simp), h]

theorem State.onAdminAck_noted {s : State} {m : Bytes} {o : WOp} (hhead : s.isHead = true) (h : s.wop? (msgOp m) = some o) (hkind : o.kind = .admin) :
    s.onAdminAck m = (s.wopMap o.id (WOp.heard m o)).adminDone := by
  unfold State.onAdminAck
  dsimp only
  rw [hhead, if_neg (by simp), h]
  dsimp only
  rw [hkind]
  rfl

theorem State.wop?_id {s : State} {op : Nat} {o : WOp} (h : s.wop? op = some o) : o.id = op := by
  have hpred := List.find?_some h
  simpa using hpred

theorem State.wop?_wopMap {s : State} {op : Nat} {f : WOp → WOp} (hf : ∀ x, (f x).id = x.id) : (s.wopMap op f).wop? op = (s.wop? op).map f :=
  find?_updFirst _ _ _ fun x hx => by rw [hf x]; exact hx

end Sys2Proof.Machine
end

section
namespace Sys2Proof.Claims
open Sys2Proof Sys2Proof.Machine

/-- Settles O52: each message is taken and changes what it names; the operations that end with it go on from that state. -/
theorem membersComeAndGo : Obligations.MembersComeAndGo := by
  unfold Obligations.MembersComeAndGo
  intro i m s hsound
  have hregs := State.regs_sorted hsound
  refine ⟨fun a mb n hlive hfind hchild hlost hdown hgone => ⟨fun hearly => ?_, fun hdue => ?_⟩, fun hgot hhead => ⟨fun hkept => ?_, fun hself hepoch => ?_⟩,
    fun hgot => ?_, fun hgot => ?_, fun hanswers hfind => ?_, fun hgot hweave => ⟨fun b hans => ?_, fun hfresh => ⟨fun hcode => ?_, fun hcode => ?_,
    fun hcode hself hhead => ?_, fun hcode => ?_⟩⟩, fun hgot hhead => ⟨fun hnone => ?_, fun o ho hkind => ?_⟩⟩
  · rw [Answers, exec_memberLost, State.memberLost_early hfind hdown hearly]
  · have hexec := (exec_memberLost a s).trans (congrArg _ (State.memberLost_due hlive hfind hchild hlost hdown hgone hdue))
    have hlostAll := s.branchLost_lost a.toNat
    have hunit := State.branchLost_event hregs a.toNat
    have hstore := s.branchLost_store a.toNat
    have hsorted := State.sorted_branchLost hsound a.toNat
    rw [State.branchLost_isHead] at hexec
    by_cases hhead : s.isHead = true
    · rw [if_pos hhead] at hexec
      refine ⟨(s.branchLost a.toNat).ev wvEventMemberLost, ?_, ?_, hstore, fun _ => ?_, hlostAll⟩
      · rw [Answers, hexec, if_pos hhead]
        rfl
      · rw [State.rd_ev_other _ (by decide), hunit]
      · exact State.rd_wr_same _ _ _ _ hsorted
    · rw [if_neg hhead] at hexec
      refine ⟨s.branchLost a.toNat, ?_, hunit, hstore, fun h => absurd h hhead, hlostAll⟩
      rw [Answers, hexec, if_neg hhead]
  · rw [Answers, exec_lossReport, withMsg_of_got hgot, State.onLoss_kept (by exact hkept)]
  · refine ⟨(takenMsg s i.val 0x03).weaveMap (fun w => { w with reports := (w.reports ++ [field (msgBody m) 4 2]).eraseDups }), ?_, rfl, rfl⟩
    rw [Answers, exec_lossReport, withMsg_of_got hgot, State.onLoss_reported (s := takenMsg s i.val 0x03) hhead hself hepoch]
  · refine ⟨_, (exec_adopt i s).trans (congrArg _ ((withMsg_of_got hgot _).trans (State.onAdopt_eq _ _ _))), ?_, rfl, rfl, ?_, ?_⟩
    · have htaken : (takenMsg s i.val 0x04).sound = true := (Follows.refl s).strandMap.sound hsound
      have hmap := State.regs_sorted ((Follows.refl _).takeMap (map := (takenMsg s i.val 0x04).adoptedMap i.val (field (msgBody m) 0 2)) |>.sound htaken)
      exact (State.rd_wr_same _ _ _ _ hmap).trans (Nat.mod_eq_of_lt (field_lt _ _ _))
    · exact congrArg Weave.nextMap (State.takeMap_weave _ _)
    · exact State.takeMap_store _ _
  · obtain ⟨w, b, hsent, hr, hst, hmem⟩ := (takenMsg s i.val 0x05).onRejoin_sent i.val m
    refine ⟨w, b, ?_, hr, hst, fun x hx => ?_⟩
    · rw [Answers, exec_rejoin, withMsg_of_got hgot, hsent]
    · rw [hmem]
      exact (find?_updFirst (fun x => x.addr == field (msgBody m) 0 2) Member.back s.weave.members fun _ h => h).trans (congrArg _ hx)
  · obtain ⟨hrest, hr, hmode⟩ := (takenMsg s i.val 0x06).onRest_reads m
    refine ⟨(takenMsg s i.val 0x06).onRest m, ?_, hrest, hr, hmode⟩
    rw [Answers, exec_rest, State.withMsgIf, hfind, hanswers]
    rfl
  · rw [Answers, exec_admin, withMsg_of_got hgot, State.onAdmin_again (s := takenMsg s i.val 0x1C) hweave hans]
  · refine ⟨(takenMsg s i.val 0x1C).weaveMap (fun w => { w with nextMap := some (adminMap (msgBody m)) }), ?_, rfl, rfl⟩
    rw [Answers, exec_admin, withMsg_of_got hgot, State.onAdmin_map (s := takenMsg s i.val 0x1C) hweave hfresh hcode]
  · refine ⟨_, (exec_admin i s).trans (congrArg _ ((withMsg_of_got hgot _).trans (State.onAdmin_exclude (s := takenMsg s i.val 0x1C) hweave hfresh hcode))), ?_, ?_⟩
    · rw [State.weaveMap_weave, State.ackAdmin_member (s := takenMsg s i.val 0x1C) hweave]
      exact congrArg (fun l : List MapEnt => some (l.filter _)) (State.weaveField_answer (takenMsg s i.val 0x1C) _ _ _ _
        (π := fun w => w.nextMap.getD w.map) (fun _ => rfl) fun _ => rfl)
    · rw [State.weaveMap_store, State.ackAdmin_member (s := takenMsg s i.val 0x1C) hweave, State.store_answer, takenMsg_store]
  · refine ⟨_, (exec_admin i s).trans (congrArg _ ((withMsg_of_got hgot _).trans (State.onAdmin_promote (s := takenMsg s i.val 0x1C) hweave hfresh hcode hself hhead))), rfl, ?_⟩
    rw [State.weaveMap_store, State.ackAdmin_member (s := takenMsg s i.val 0x1C) hweave, State.store_answer, takenMsg_store]
  · rw [Answers, exec_admin, withMsg_of_got hgot, State.onAdmin_unknown (s := takenMsg s i.val 0x1C) hweave hfresh hcode]
  · rw [Answers, exec_adminAck, withMsg_of_got hgot, State.onAdminAck_unknown (s := takenMsg s i.val 0x1D) hhead hnone]
  · have hid := State.wop?_id ho
    refine ⟨(takenMsg s i.val 0x1D).wopMap o.id (WOp.heard m o), WOp.heard m o o, ?_, ?_, rfl, rfl, rfl⟩
    · rw [Answers, exec_adminAck, withMsg_of_got hgot, State.onAdminAck_noted (s := takenMsg s i.val 0x1D) hhead (by exact ho) hkind]
    · rw [← hid, State.wop?_wopMap (f := WOp.heard m o) (fun _ => rfl), hid, takenMsg_wop?, ho]
      rfl

end Sys2Proof.Claims
end

section
/-!
PROOFS. Administration of the weave (O40): FORM, ADMIT, EXCLUDE, REBUILD, REMOTE and PROMOTE.
-/
namespace Sys2Proof.Machine

theorem exec_weaveAdminForm (cid : Nat) (s : State) : exec (.weaveAdminForm cid) s = .next (s.adminRow cid 1 State.weaveForm) := rfl
theorem exec_weaveAdminAdmit (cid : Nat) (s : State) : exec (.weaveAdminAdmit cid) s = .next (s.adminRow cid 2 State.weaveAdmit) := rfl
theorem exec_weaveAdminExclude (cid : Nat) (s : State) : exec (.weaveAdminExclude cid) s = .next (s.adminRow cid 3 State.weaveExclude) := rfl
theorem exec_weaveAdminRebuild (cid : Nat) (s : State) : exec (.weaveAdminRebuild cid) s = .next (s.adminRow cid 4 State.weaveRebuild) := rfl
theorem exec_weaveAdminRemote (cid : Nat) (s : State) : exec (.weaveAdminRemote cid) s = .next (s.adminRow cid 5 State.weaveRemote) := rfl
theorem exec_weaveAdminPromote (cid : Nat) (s : State) : exec (.weaveAdminPromote cid) s = .next (s.adminRow cid 6 State.weavePromote) := rfl

/-! ## Outstanding operations -/

/-- The operation id the chip gives out next (R639). -/
def State.nextOp (s : State) : Nat := s.rd wvEpochValue * 2 ^ 48 + s.weave.opCount

/-- An operation put on the list under the next id. -/
def State.opBegun (s : State) (o : WOp) : State :=
  s.weaveMap (fun w => { w with opCount := (w.opCount + 1) % 2 ^ 48, ops := w.ops ++ [{ o with id := s.nextOp }] })

/-- The operation of an administration message that awaits some members. -/
def adminOp (c : Cmd) (kind : WKind) (body : Bytes) (dest waits : List Nat) : WOp :=
  ⟨0, kind, c.cid, c.shelf, waits, dest.map (fun a => (a, body)), 0, [], []⟩

/-- An administration message puts its operation on the list, and beside that only sends. -/
theorem State.besideLines_administer (s : State) (c : Cmd) (kind : WKind) (map : List MapEnt) (body : Bytes) (dest waits : List Nat) :
    (s.administer c kind map body dest waits).besideLines = (s.opBegun (adminOp c kind body dest waits)).besideLines :=
  State.each_keeps (π := State.besideLines) _ _ fun t _ => t.besideLines_routeIn _ _ _ _

section
variable (s : State) (c : Cmd) (kind : WKind) (map : List MapEnt) (body : Bytes) (dest waits : List Nat)

theorem State.administer_nextMap : (s.administer c kind map body dest waits).weave.nextMap = s.weave.nextMap :=
  State.weaveField_of_besideLines (π := Weave.nextMap) (s.besideLines_administer c kind map body dest waits) fun _ => rfl

theorem State.administer_promo : (s.administer c kind map body dest waits).weave.promo = s.weave.promo :=
  State.weaveField_of_besideLines (π := Weave.promo) (s.besideLines_administer c kind map body dest waits) fun _ => rfl

theorem State.mem_administer_ops :
    { adminOp c kind body dest waits with id := s.nextOp } ∈ (s.administer c kind map body dest waits).weave.ops := by
  rw [State.weaveField_of_besideLines (π := Weave.ops) (s.besideLines_administer c kind map body dest waits) fun _ => rfl]
  exact List.mem_append_right _ (List.mem_singleton.mpr rfl)

end

/-! ## The sub-operations (R648, R650, R651) -/

/-- The weave with a map to be taken at the next downbeat. -/
def State.mapAwaited (s : State) (map : List MapEnt) : State := s.weaveMap (fun w => { w with nextMap := some map })

/-- The members of a map beside its root. -/
def mapMembers (map : List MapEnt) : List Nat := (map.filter (fun m => m.parent != 0xFFFF)).map (fun m => m.addr)

theorem State.weaveForm_refused {s : State} {c : Cmd} (h : s.mapBad (mapOf c.operands) = true ∨ s.store.shelves ≠ []) :
    s.weaveForm c = s.refuse c stBadParam := by
  unfold State.weaveForm
  dsimp only
  rw [if_pos]
  obtain h | h := h <;> simp [h]

theorem State.weaveForm_taken {s : State} {c : Cmd} (hmap : s.mapBad (mapOf c.operands) = false) (hstore : s.store.shelves = [])
    (hweave : s.weave.shelves = []) (hlen : c.operands.length % 16 = 0)
    (hzero : ∀ k < c.operands.length / 16, field c.operands (16 * k + 15) 1 = 0) :
    s.weaveForm c = ((s.mapAwaited (mapOf c.operands)).administer c .admin (mapOf c.operands)
      (leBytes 1 1 ++ zeros 3 ++ ((mapOf c.operands).map mapEntBytes).flatten) (mapMembers (mapOf c.operands)) (mapMembers (mapOf c.operands))).adminWait c := by
  have hbytes : (List.range (c.operands.length / 16)).any (fun i => field c.operands (16 * i + 15) 1 != 0) = false := by
    rw [List.any_eq_false]
    intro k hk
    rw [hzero k (List.mem_range.mp hk)]
    decide
  unfold State.weaveForm
  dsimp only
  rw [hbytes, hmap, hstore, hweave, hlen, if_neg (by decide)]
  rfl

theorem State.weaveAdmit_refused {s : State} {c : Cmd} (h : s.isHead = false ∨ s.mapBad (s.mapNext ++ [mapEntOf (slice c.param 8 16)]) = true) :
    s.weaveAdmit c = s.refuse c stBadParam := by
  unfold State.weaveAdmit
  dsimp only
  rw [if_pos]
  obtain h | h := h <;> simp [h]

theorem State.weaveAdmit_taken {s : State} {c : Cmd} {map : List MapEnt} (hm : s.mapNext ++ [mapEntOf (slice c.param 8 16)] = map)
    (hhead : s.isHead = true) (hmap : s.mapBad map = false) (hzero : field c.param 23 1 = 0) :
    s.weaveAdmit c = ((s.mapAwaited map).administer c .admin map (leBytes 1 2 ++ zeros 3 ++ (map.map mapEntBytes).flatten)
      (mapMembers map) (mapMembers map)).adminWait c := by
  unfold State.weaveAdmit
  dsimp only
  rw [hm, hhead, hmap, hzero, if_neg (by decide)]
  rfl

theorem State.weaveExclude_refused {s : State} {c : Cmd} (h : s.isHead = false ∨ field c.param 4 2 = s.self) :
    s.weaveExclude c = s.refuse c stBadParam := by
  unfold State.weaveExclude
  dsimp only
  rw [if_pos]
  obtain h | h := h <;> simp [h]

/-- A member excluded: the operations that waited for it go on without it, and the others are told. -/
def State.excluded (s : State) (c : Cmd) (a : Nat) : State :=
  let v := (s.forget [a]).forgetFans [a]
  v.administer c .admin s.mapNext (leBytes 1 3 ++ zeros 3 ++ leBytes 2 a) (mapMembers s.mapNext)
    ((mapMembers s.mapNext).filter (fun x => x != a && !(v.weave.members.any (fun m => m.addr == x && m.lost))))

theorem State.weaveExclude_taken {s : State} {c : Cmd} (hhead : s.isHead = true) (hself : field c.param 4 2 ≠ s.self)
    (hmem : s.mapNext.any (fun m => m.addr == field c.param 4 2) = true) :
    s.weaveExclude c = ((s.excluded c (field c.param 4 2)).mapAwaited (s.mapNext.filter (fun m => m.addr != field c.param 4 2))).adminWait c := by
  unfold State.weaveExclude
  dsimp only
  rw [hhead, hmem, beq_eq_false_iff_ne.mpr hself, if_neg (by decide)]
  rfl

theorem State.weaveRebuild_unknown {s : State} {c : Cmd} (h : s.wshelf? c.shelf = none) :
    s.weaveRebuild c = s.refuse c (if s.isHead then stNoShelf else stBadParam) := by
  rw [State.weaveRebuild, h]

/-- Every bucket of the target has a copy in service elsewhere, or not. -/
def WShelf.uncopied (w : WShelf) (a : Nat) : Bool :=
  (List.range (1 + w.template.replicas)).any (fun r => ((w.copies (w.residue a r)).filter (fun x => x.1 != a && w.serves x)).isEmpty)

theorem State.weaveRebuild_taken {s : State} {c : Cmd} {w : WShelf} (h : s.wshelf? c.shelf = some w) (hhead : s.isHead = true)
    (hholds : w.holders.contains (field c.param 4 2) = true) : let v := s.outHolder (field c.param 4 2)
    s.weaveRebuild c = (v.administer c .rebuild v.weave.map
      (leBytes 1 4 ++ zeros 3 ++ leBytes 4 c.shelf ++ leBytes 2 (field c.param 4 2) ++ leBytes 1 (if w.uncopied (field c.param 4 2) then 1 else 0))
      v.others [field c.param 4 2]).adminWait c := by
  rw [State.weaveRebuild, h]
  dsimp only
  rw [hhead, hholds, if_neg (by decide)]
  rfl

theorem State.weaveRemote_refused {s : State} {c : Cmd} (h : s.isHead = false ∨ field c.param 4 2 = s.self ∨ s.mapEnt? (field c.param 4 2) = none) :
    s.weaveRemote c = s.refuse c stBadParam := by
  unfold State.weaveRemote
  dsimp only
  rw [if_pos]
  obtain h | h | h := h <;> simp [h]

/-- The body of the REMOTE that carries a packet to a member. -/
def remoteBody (b : Bytes) : Bytes :=
  let n := min b.length (max 32 (field b 12 4))
  leBytes 4 n ++ padTo (roundUp n 16) (b.take n) ++ b.drop n

/-- A command kept until a member answers. -/
def Cmd.kept (c : Cmd) : Cmd := { c with stage := .remote }

/-- A packet's operation put on the list, and its command kept until the member answers. -/
def State.remoteBegun (s : State) (c : Cmd) (a : Nat) : State :=
  (s.opBegun ⟨0, .remote, c.cid, 0, [a], [(a, remoteBody c.operands)], 0, [], []⟩).cmdMap c.cid Cmd.kept

theorem State.weaveRemote_sent {s : State} {c : Cmd} (hhead : s.isHead = true) (hself : field c.param 4 2 ≠ s.self)
    (hmem : (s.mapEnt? (field c.param 4 2)).isSome = true) : s.weaveRemote c =
      (s.remoteBegun c (field c.param 4 2)).send 0x1A (field c.param 4 2) s.nextOp (remoteBody c.operands) := by
  have hsome : (s.mapEnt? (field c.param 4 2)).isNone = false := by rw [Option.isNone_eq_false_iff]; exact hmem
  unfold State.weaveRemote
  dsimp only
  rw [hhead, hsome, beq_eq_false_iff_ne.mpr hself, if_neg (by decide)]
  rfl

theorem State.weavePromote_refused {s : State} {c : Cmd} (h : s.isHead = false ∨ s.deputyOk = false) : s.weavePromote c = s.refuse c stBadParam := by
  unfold State.weavePromote
  dsimp only
  rw [if_pos]
  obtain h | h := h <;> simp [h]

/-- The promotion of the deputy recorded. -/
def State.promoted (s : State) : State := s.weaveMap (fun w => { w with promo := some ⟨s.measure, s.self, true⟩ })

theorem State.weavePromote_taken {s : State} {c : Cmd} (hhead : s.isHead = true) (hok : s.deputyOk = true) (ha : field c.param 4 2 = s.rd wvDeputyAddr) :
    s.weavePromote c = (s.promoted.administer c .admin s.promoted.weave.map
      (leBytes 1 6 ++ zeros 3 ++ leBytes 2 (field c.param 4 2) ++ zeros 2 ++ leBytes 4 s.promoted.measure) s.promoted.others
      [field c.param 4 2]).adminWait c := by
  unfold State.weavePromote
  dsimp only
  rw [hhead, hok, bne_eq_false_iff_eq.mpr ha, if_neg (by decide)]
  rfl

end Sys2Proof.Machine
end

section
namespace Sys2Proof.Claims
open Sys2Proof Sys2Proof.Machine

theorem adminRow_of_hostReady {cid : Nat} {c : Cmd} {s : State} (hready : hostReady s cid 0x58 c) {sub : Nat} (hsub : field c.param 0 1 = sub)
    (f : State → Cmd → State) : s.adminRow cid sub f = f s c := by
  rw [State.adminRow, row_of_hostReady hready, if_pos hsub]

/-- Settles O40: each sub-operation is refused by its rules, or records its map, its operation or its promotion and waits. -/
theorem weaveAdministration : Obligations.WeaveAdministration := by
  unfold Obligations.WeaveAdministration
  intro cid c s hready
  have hcid : c.cid = cid := State.cmd?_cid hready.2.1
  refine ⟨fun hsub => ⟨fun hbad => ?_, fun hmap hstore hweave hlen hzero => ?_⟩, fun hsub => ⟨fun hbad => ?_, fun hhead hmap hzero => ?_⟩,
    fun hsub => ⟨fun hbad => ?_, fun hhead hself hmem => ?_⟩, fun hsub => ⟨fun hnone => ?_, fun x hx hhead hholds => ?_⟩,
    fun hsub => ⟨fun hbad => ?_, fun hhead hself hmem => ?_⟩, fun hsub => ⟨fun hbad => ?_, fun hhead hok ha => ?_⟩⟩
  · rw [Answers, exec_weaveAdminForm, adminRow_of_hostReady hready hsub, State.weaveForm_refused hbad]
  · refine ⟨_, (exec_weaveAdminForm cid s).trans (congrArg _ ((adminRow_of_hostReady hready hsub _).trans
      (State.weaveForm_taken hmap hstore hweave hlen hzero))), State.administer_nextMap .., _, State.mem_administer_ops .., hcid, rfl, rfl⟩
  · rw [Answers, exec_weaveAdminAdmit, adminRow_of_hostReady hready hsub, State.weaveAdmit_refused hbad]
  · refine ⟨_, (exec_weaveAdminAdmit cid s).trans (congrArg _ ((adminRow_of_hostReady hready hsub _).trans
      (State.weaveAdmit_taken rfl hhead hmap hzero))), State.administer_nextMap .., _, State.mem_administer_ops .., hcid, rfl⟩
  · rw [Answers, exec_weaveAdminExclude, adminRow_of_hostReady hready hsub, State.weaveExclude_refused hbad]
  · exact ⟨_, (exec_weaveAdminExclude cid s).trans (congrArg _ ((adminRow_of_hostReady hready hsub _).trans
      (State.weaveExclude_taken hhead hself hmem))), rfl⟩
  · rw [Answers, exec_weaveAdminRebuild, adminRow_of_hostReady hready hsub, State.weaveRebuild_unknown hnone]
  · refine ⟨_, (exec_weaveAdminRebuild cid s).trans (congrArg _ ((adminRow_of_hostReady hready hsub _).trans
      (State.weaveRebuild_taken hx hhead hholds))), _, State.mem_administer_ops .., hcid, rfl, rfl⟩
  · rw [Answers, exec_weaveAdminRemote, adminRow_of_hostReady hready hsub, State.weaveRemote_refused hbad]
  · refine ⟨s.remoteBegun c (field c.param 4 2), s.nextOp, remoteBody c.operands, ?_, ?_, _,
      List.mem_append_right _ (List.mem_singleton.mpr rfl), rfl, hcid, rfl, rfl⟩
    · rw [Answers, exec_weaveAdminRemote, adminRow_of_hostReady hready hsub, State.weaveRemote_sent hhead hself hmem]
    · subst hcid
      exact State.cmd?_cmdMap_of (s := s.opBegun _) (f := Cmd.kept) hready.2.1 fun _ => rfl
  · rw [Answers, exec_weaveAdminPromote, adminRow_of_hostReady hready hsub, State.weavePromote_refused hbad]
  · exact ⟨_, (exec_weaveAdminPromote cid s).trans (congrArg _ ((adminRow_of_hostReady hready hsub _).trans
      (State.weavePromote_taken hhead hok ha))), State.administer_promo ..⟩

end Sys2Proof.Claims
end

section
/-!
PROOFS. Searches across the weave (O53): FORWARD and its answers, PLAN, and the inputs of a merge.
-/
namespace Sys2Proof.Machine

theorem exec_forward (i : Fin 64) (s : State) : exec (.forward i) s = .next (s.withMsg i.val 0x10 State.onForward) := rfl
theorem exec_forwardAck (i : Fin 64) (s : State) : exec (.forwardAck i) s = .next (s.withMsg i.val 0x11 State.onForwardAck) := rfl
theorem exec_plan (i : Fin 64) (s : State) : exec (.plan i) s = .next (s.withMsg i.val 0x12 State.onPlan) := rfl
theorem exec_valueList (i : Fin 64) (s : State) : exec (.valueList i) s = .next (s.withMsg i.val 0x21 State.onValues) := rfl
theorem exec_tieRequest (i : Fin 64) (s : State) : exec (.tieRequest i) s = .next (s.withMsg i.val 0x22 State.onTieRequest) := rfl
theorem exec_tieList (i : Fin 64) (s : State) : exec (.tieList i) s = .next (s.withMsg i.val 0x23 State.onTieList) := rfl
theorem exec_key (i : Fin 64) (s : State) : exec (.key i) s = .next (s.withMsg i.val 0x24 State.onKey) := rfl
theorem exec_finalList (i : Fin 64) (s : State) : exec (.finalList i) s = .next (s.withMsg i.val 0x25 State.onFinal) := rfl
theorem exec_statsPartial (i : Fin 64) (s : State) : exec (.statsPartial i) s = .next (s.withMsg i.val 0x26 State.onStats) := rfl
theorem exec_plaitWaitExpire (t : Nat) (s : State) : exec (.plaitWaitExpire t) s = .next (s.plaitExpire t) := rfl

/-! ## FORWARD and FORWARD_ACK (R620) -/

/-- A search as a FORWARD brings it. -/
def fanOf (m : Bytes) : Fan :=
  let b := msgBody m
  let n1 := field b 8 4
  let n2 := field b 12 4
  ⟨msgOp m, 0, [], false, slice b 20 n1, slice b (20 + roundUp n1 16) n2, slice b (20 + roundUp n1 16 + roundUp n2 16) (field b 16 4)⟩

/-- A forwarded search kept. -/
def State.fanKept (s : State) (m : Bytes) : State :=
  s.weaveMap (fun w => { w with fans := w.fans.filter (fun x => x.ref != msgOp m) ++ [fanOf m] })

theorem State.onForward_kept {s : State} {m : Bytes} (h : s.intakeUsed + field (msgBody m) 8 4 + field (msgBody m) 12 4 ≤ 67108864) :
    s.onForward m = (s.fanKept m).send 0x11 (s.fanKept m).headAddr (msgOp m) (leBytes 1 0) := by
  unfold State.onForward
  dsimp only
  rw [if_pos h, if_pos h]
  rfl

theorem State.onForward_full {s : State} {m : Bytes} (h : 67108864 < s.intakeUsed + field (msgBody m) 8 4 + field (msgBody m) 12 4) :
    s.onForward m = s.send 0x11 s.headAddr (msgOp m) (leBytes 1 1) := by
  unfold State.onForward
  dsimp only
  rw [if_neg (Nat.not_le_of_lt h), if_neg (Nat.not_le_of_lt h)]

theorem State.onForwardAck_unknown {s : State} {m : Bytes} (h : s.fan? (msgOp m) = none) : s.onForwardAck m = s := by
  rw [State.onForwardAck, h]

/-- A forwarded search that awaits no more acknowledgements. -/
def Fan.acked (f : Fan) : Fan := { f with waiting := [], noRoom := f.noRoom || false }

theorem State.onForwardAck_last {s : State} {m : Bytes} {f : Fan} (h : s.fan? (msgOp m) = some f) (hwait : f.waiting = [msgSrc m])
    (hheld : field (msgBody m) 0 1 = 0) :
    s.onForwardAck m = (s.weaveMap (fun w => { w with fans := updFirst (fun x => x.ref == f.ref) Fan.acked w.fans })).fanHeld f := by
  have hleft : [msgSrc m].filter (fun a => a != msgSrc m) = [] := by simp
  rw [State.onForwardAck, h]
  dsimp only
  rw [hheld, hwait, beq_self_eq_true, if_pos rfl, hleft, if_neg (by simp)]
  rfl

/-- The command of a search whose acknowledgements are in: a candidate, no earlier than measure `n`. -/
def Cmd.fanned (n : Nat) (c : Cmd) : Cmd :=
  { c with stage := .candidate, first := if later n c.first then n else c.first, last := if later n c.last then n else c.last }

theorem State.fanHeld_eq (s : State) (f : Fan) : ∃ n, s.fanHeld f = s.cmdMap f.cid (Cmd.fanned n) := ⟨_, rfl⟩

/-! ## PLAN (R623) -/

theorem State.onPlan_late {s : State} {m : Bytes} (h : field (msgBody m) 0 4 ≠ s.measure ∨ s.clk.planFrozen = true ∨ s.clk.phase ≠ .admission) :
    s.onPlan m = s := by
  unfold State.onPlan
  dsimp only
  rw [if_pos h]

/-- A plan message noted. -/
def State.planNoted (s : State) (refs : List Nat) : State := s.weaveMap (fun w => { w with plan := some (s.measure, refs) })

/-- The parts of the searches a plan names. -/
def State.planParts (s : State) (refs : List Nat) : List Item := (refs.filterMap s.fan?).flatMap s.partItems

/-- The plan of the searches a member is told to run. -/
def State.toldPlan (s : State) (refs : List Nat) : Plan :=
  let l := s.planParts refs
  let key := s.tKey ((l.filter Item.search).map (fun i => i.cmd.cand))
  ⟨l.map (fun i => i.cmd.cid), (s.placement l).getD [], sweepCost s.costing l, rerankCost s.costing l + key, s.costing.point, planLoad l,
    loadBound s.costing.engines l⟩

theorem State.onPlan_taken {s : State} {m : Bytes} (hmeasure : field (msgBody m) 0 4 = s.measure) (hfrozen : s.clk.planFrozen = false)
    (hphase : s.clk.phase = .admission) : s.onPlan m =
      ((s.planNoted (planRefs (msgBody m))).beginParts (planRefs (msgBody m)) ((s.planNoted (planRefs (msgBody m))).toldPlan (planRefs (msgBody m)))).planShown
        ((s.planNoted (planRefs (msgBody m))).toldPlan (planRefs (msgBody m))) := by
  unfold State.onPlan
  dsimp only
  rw [if_neg (by simp [hmeasure, hfrozen, hphase])]
  rfl

theorem State.partItems_planNoted (s : State) (refs : List Nat) : (s.planNoted refs).partItems = s.partItems := by
  funext f
  rfl

theorem State.toldPlan_ids (s : State) (refs : List Nat) :
    ((s.planNoted refs).toldPlan refs).ids = ((refs.filterMap s.fan?).flatMap s.partItems).map (fun x => x.cmd.cid) := by
  rw [State.toldPlan, State.planParts, State.partItems_planNoted]
  rfl

/-! ## The inputs of a merge (R630 to R638) -/

theorem State.merge?_mergeMap {s : State} {ref : Nat} {f : Merge → Merge} (hf : ∀ x, (f x).ref = x.ref) :
    (s.mergeMap ref f).merge? ref = (s.merge? ref).map f :=
  find?_updFirst _ _ _ fun x hx => by rw [hf x]; exact hx

theorem State.merge?_ref {s : State} {ref : Nat} {mg : Merge} (h : s.merge? ref = some mg) : mg.ref = ref := by
  have hpred := List.find?_some h
  simpa using hpred

theorem State.ensureMerge_known {s : State} {ref : Nat} {mg : Merge} (h : s.merge? ref = some mg) : s.ensureMerge ref = s := by
  rw [State.ensureMerge, h]
  rfl

/-- A value list as its message brings it. -/
def valuesOf (m : Bytes) : ValIn :=
  let b := msgBody m
  let n := field b 0 2
  ⟨msgSrc m, (List.range n).map (fun j => valOf (slice b (8 + 8 * j) 8) (field b (8 + 8 * n + 4 * j) 4)), field b 4 4⟩

/-- A merge with a value list taken in, unless its values have gone up. -/
def Merge.withValues (m : Bytes) (x : Merge) : Merge :=
  if x.sentVals then x else { x with vals := x.vals.filter (fun y => y.src != msgSrc m) ++ [valuesOf m] }

/-- A merge with the ids of a tie taken in. -/
def Merge.withTies (m : Bytes) (x : Merge) : Merge :=
  { x with ties := x.ties.filter (fun t => t.1 != msgSrc m) ++
      [(msgSrc m, (List.range (field (msgBody m) 0 2)).map (fun j => field (msgBody m) (2 + 6 * j) 6))] }

/-- A merge in its tie round. -/
def Merge.tied (m : Bytes) (own : List (Nat × List Nat)) (x : Merge) : Merge :=
  { x with bstar := some (valOf (slice (msgBody m) 0 8) (field (msgBody m) 12 4)), need := field (msgBody m) 8 2, ties := own }

/-- A merge whose key is fixed. -/
def Merge.keyed (key : WVal × Nat) (x : Merge) : Merge := { x with key := some key, bstar := none }

/-- A merge with a final list taken in. -/
def Merge.withFinal (m : Bytes) (x : Merge) : Merge :=
  { x with fins := x.fins.filter (fun y => y.src != msgSrc m) ++ [finalOf? (msgSrc m) (msgBody m)] }

/-- A merge with a partial of a STATS command taken in. -/
def Merge.withStat (i : StatIn) (x : Merge) : Merge := { x with stats := x.stats.filter (fun y => y.src != i.src) ++ [i] }

theorem Merge.withValues_ref (m : Bytes) (x : Merge) : (x.withValues m).ref = x.ref := by
  unfold Merge.withValues
  split <;> rfl

section
variable {s : State} {m : Bytes} {mg : Merge} (hmg : s.merge? (msgOp m) = some mg)
include hmg

theorem State.onValues_known : s.onValues m = (s.mergeMap (msgOp m) (Merge.withValues m)).weaveRun := by
  unfold State.onValues
  dsimp only
  rw [State.ensureMerge_known hmg]
  rfl

theorem State.onTieRequest_known (h : (s.mergeShelf mg).isSome = true) :
    ∃ own, s.onTieRequest m = (s.mergeMap (msgOp m) (Merge.tied m own)).weaveRun := by
  obtain ⟨x, hx⟩ := Option.isSome_iff_exists.mp h
  unfold State.onTieRequest
  dsimp only
  rw [State.ensureMerge_known hmg, hmg, Option.bind_some, hx]
  exact ⟨_, rfl⟩

theorem State.onKey_again (h : mg.key.isSome = true) : s.onKey m = s := by
  unfold State.onKey
  dsimp only
  rw [hmg, Option.bind_some]
  cases s.mergeShelf mg with
  | none => rfl
  | some x => exact if_pos h

theorem State.onKey_first {h : Shelf} (hkey : mg.key = none) (hshelf : s.mergeShelf mg = some h) :
    s.onKey m = (s.setKey mg h (valOf (slice (msgBody m) 0 8) (field (msgBody m) 16 4), field (msgBody m) 8 6)).weaveRun := by
  unfold State.onKey
  dsimp only
  rw [hmg, Option.bind_some, hshelf]
  dsimp only
  rw [hkey, if_neg (by decide)]

theorem State.onFinal_known : s.onFinal m = (s.mergeMap (msgOp m) (Merge.withFinal m)).weaveRun := by
  unfold State.onFinal
  dsimp only
  rw [State.ensureMerge_known hmg]
  rfl

theorem State.onStats_known (h : (s.mergeShelf mg).isSome = true) :
    ∃ i : StatIn, i.src = msgSrc m ∧ s.onStats m = (s.mergeMap (msgOp m) (Merge.withStat i)).weaveRun := by
  obtain ⟨x, hx⟩ := Option.isSome_iff_exists.mp h
  unfold State.onStats
  dsimp only
  rw [State.ensureMerge_known hmg, hmg, Option.bind_some, hx]
  exact ⟨statOf (s.mergeCmd mg) x.bits (msgSrc m) (msgBody m), rfl, rfl⟩

end

/-- A key applied to the candidates of the runs. -/
theorem State.keepByKey_keeps (s : State) (o : Order) (key : WVal × Nat) (cid : Nat) :
    (s.keepByKey o key cid).weave = s.weave ∧ (s.keepByKey o key cid).regs = s.regs := by
  unfold State.keepByKey
  split <;> exact ⟨rfl, rfl⟩

theorem State.setKey_weave {s : State} (mg : Merge) (h : Shelf) (key : WVal × Nat) (hhead : s.isHead = false) :
    (s.setKey mg h key).weave = (s.mergeMap mg.ref (Merge.keyed key)).weave ∧ (s.setKey mg h key).regs = s.regs := by
  unfold State.setKey
  dsimp only
  rw [hhead]
  exact ⟨State.each_keeps (π := State.weave) _ _ fun t c => (t.keepByKey_keeps _ _ c).1,
    State.each_keeps (π := State.regs) _ _ fun t c => (t.keepByKey_keeps _ _ c).2⟩

/-! ## The end of a rim's wait (R636) -/

/-- A merge that waits for no child that has not answered. -/
def Merge.givenUp (x : Merge) : Merge :=
  { x with cut := true, kids := x.kids.filter (fun k => x.fins.any (fun i => i.src == k) || x.stats.any (fun i => i.src == k)) }

/-- The merges of which some child is late. -/
def State.lateMerges (u : State) : List Merge := u.weave.merges.filter u.kidsLate

/-- The wait for the late children given up. -/
def State.plaitCut (u : State) : State :=
  (u.when (u.lateMerges != []) (fun s => s.ev wvEventBranchMissing)).weaveMap (fun w => { w with
    merges := updAll (fun m => (u.lateMerges.map (fun m => m.ref)).contains m.ref) Merge.givenUp w.merges })

theorem State.plaitExpire_idle {s : State} {t : Nat} (h : (s.advance t).live = false ∨ (s.advance t).inWeave = false ∨
    (s.advance t).clk.now + ns (400 * (s.advance t).rd wvSelfDepth) < (s.advance t).fgEnd + ns 23600) : s.plaitExpire t = s.advance t := by
  unfold State.plaitExpire
  dsimp only
  rw [if_pos]
  obtain h | h | h := h
  · rw [h]; rfl
  · rw [h, Bool.not_false, Bool.or_true, Bool.true_or]
  · rw [decide_eq_true h, Bool.or_true]

theorem State.plaitExpire_due {s : State} {t : Nat} (hlive : (s.advance t).live = true) (hweave : (s.advance t).inWeave = true)
    (hdue : (s.advance t).fgEnd + ns 23600 ≤ (s.advance t).clk.now + ns (400 * (s.advance t).rd wvSelfDepth)) :
    s.plaitExpire t = (s.advance t).plaitCut.weaveRun := by
  unfold State.plaitExpire
  dsimp only
  rw [hlive, hweave, decide_eq_false (Nat.not_lt_of_le hdue), if_neg (by decide)]
  rfl

theorem State.plaitCut_regs {u : State} (h : u.lateMerges = []) : u.plaitCut.regs = u.regs := by
  rw [State.plaitCut, h]
  rfl

theorem State.plaitCut_event {u : State} (hs : regSorted u.regs = true) (h : u.lateMerges ≠ []) : u.plaitCut.rd wvEventBranchMissing = 1 := by
  rw [State.plaitCut, bne_iff_ne.mpr h, State.when_true, State.rd_of_regs _ _ _ _ (State.weaveMap_regs _ _)]
  exact State.rd_wr_same _ _ _ _ hs

theorem State.plaitCut_cut (u : State) : ∀ x ∈ u.plaitCut.weave.merges, x.ref ∈ u.lateMerges.map (fun y => y.ref) → x.cut = true :=
  forall_mem_updAll (fun _ _ _ _ => rfl) fun x _ hout hx => by
    rw [List.contains_iff_mem.mpr hx] at hout
    exact Bool.noConfusion hout

end Sys2Proof.Machine
end

section
namespace Sys2Proof.Claims
open Sys2Proof Sys2Proof.Machine

/-- A merge changed, as the message that changed it leaves it. -/
theorem merge_taken {s : State} {i t : Nat} {m : Bytes} {mg : Merge} (hmg : s.merge? (msgOp m) = some mg) {f : Merge → Merge}
    (hf : ∀ x, (f x).ref = x.ref) : ((takenMsg s i t).mergeMap (msgOp m) f).merge? (msgOp m) = some (f mg) :=
  (State.merge?_mergeMap hf).trans (congrArg _ hmg)

/-- Settles O53: what each message of a search adds to the fan, the plan or the merge it names. -/
theorem searchesCrossTheWeave : Obligations.SearchesCrossTheWeave := by
  unfold Obligations.SearchesCrossTheWeave
  intro i m s hsound
  refine ⟨fun hgot => ⟨fun hroom => ?_, fun hfull => ?_⟩, fun hgot => ⟨fun hnone => ?_, fun f c hf hwait hheld hc => ?_⟩,
    fun hgot => ⟨fun hlate => ?_, fun hmeasure hfrozen hphase => ?_⟩,
    fun mg hmg => ⟨fun hgot hopen => ?_, fun hgot hshelf => ?_, fun hgot => ?_, fun hgot => ⟨fun hkey => ?_, fun h hkey hshelf hhead => ?_⟩,
      fun hgot => ?_, fun hgot hshelf => ?_⟩, fun t => ⟨fun hidle => ?_, fun hlive hweave hdue => ?_⟩⟩
  · refine ⟨(takenMsg s i.val 0x10).fanKept m, fanOf m, ?_, rfl, rfl, rfl, rfl⟩
    rw [Answers, exec_forward, withMsg_of_got hgot, State.onForward_kept hroom]
  · rw [Answers, exec_forward, withMsg_of_got hgot, State.onForward_full hfull]
  · rw [Answers, exec_forwardAck, withMsg_of_got hgot, State.onForwardAck_unknown (s := takenMsg s i.val 0x11) hnone]
  · have hack := State.onForwardAck_last (s := takenMsg s i.val 0x11) hf hwait hheld
    obtain ⟨n, hfan⟩ := State.fanHeld_eq ((takenMsg s i.val 0x11).weaveMap (fun w => { w with
      fans := updFirst (fun x => x.ref == f.ref) Fan.acked w.fans })) f
    refine ⟨_, c.fanned n, (exec_forwardAck i s).trans (congrArg _ ((withMsg_of_got hgot _).trans (hack.trans hfan))), ?_, rfl, rfl, rfl⟩
    exact State.cmd?_cmdMap_of (f := Cmd.fanned n) hc fun _ => rfl
  · rw [Answers, exec_plan, withMsg_of_got hgot, State.onPlan_late (s := takenMsg s i.val 0x12) hlate]
  · refine ⟨(takenMsg s i.val 0x12).planNoted (planRefs (msgBody m)), _, ?_, rfl, rfl, rfl, rfl, State.toldPlan_ids (takenMsg s i.val 0x12) _⟩
    rw [Answers, exec_plan, withMsg_of_got hgot, State.onPlan_taken (s := takenMsg s i.val 0x12) hmeasure hfrozen hphase]
  · refine ⟨(takenMsg s i.val 0x21).mergeMap (msgOp m) (Merge.withValues m), mg.withValues m, ?_, merge_taken hmg (Merge.withValues_ref m), rfl, ?_⟩
    · rw [Answers, exec_valueList, withMsg_of_got hgot, State.onValues_known (s := takenMsg s i.val 0x21) hmg]
    · rw [Merge.withValues, hopen]
      rfl
  · obtain ⟨own, htie⟩ := State.onTieRequest_known (s := takenMsg s i.val 0x22) hmg hshelf
    refine ⟨(takenMsg s i.val 0x22).mergeMap (msgOp m) (Merge.tied m own), mg.tied m own, ?_, merge_taken hmg fun _ => rfl, rfl, rfl, rfl⟩
    rw [Answers, exec_tieRequest, withMsg_of_got hgot, htie]
  · refine ⟨(takenMsg s i.val 0x23).mergeMap (msgOp m) (Merge.withTies m), mg.withTies m, ?_, merge_taken hmg fun _ => rfl, rfl, rfl⟩
    rw [Answers, exec_tieList, withMsg_of_got hgot]
    rfl
  · rw [Answers, exec_key, withMsg_of_got hgot, State.onKey_again (s := takenMsg s i.val 0x24) hmg hkey]
  · obtain ⟨hset, hregs⟩ := State.setKey_weave (s := takenMsg s i.val 0x24) mg h
      (valOf (slice (msgBody m) 0 8) (field (msgBody m) 16 4), field (msgBody m) 8 6) hhead
    refine ⟨_, mg.keyed (valOf (slice (msgBody m) 0 8) (field (msgBody m) 16 4), field (msgBody m) 8 6),
      (exec_key i s).trans (congrArg _ ((withMsg_of_got hgot _).trans (State.onKey_first (s := takenMsg s i.val 0x24) hmg hkey hshelf))), ?_, rfl, hregs⟩
    rw [State.merge?_ref hmg, State.merge?, hset, State.merge?_ref hmg]
    exact merge_taken hmg fun _ => rfl
  · refine ⟨(takenMsg s i.val 0x25).mergeMap (msgOp m) (Merge.withFinal m), mg.withFinal m, ?_, merge_taken hmg fun _ => rfl, rfl, rfl⟩
    rw [Answers, exec_finalList, withMsg_of_got hgot, State.onFinal_known (s := takenMsg s i.val 0x25) hmg]
  · obtain ⟨y, hsrc, hstat⟩ := State.onStats_known (s := takenMsg s i.val 0x26) hmg hshelf
    refine ⟨(takenMsg s i.val 0x26).mergeMap (msgOp m) (Merge.withStat y), mg.withStat y, y, ?_, merge_taken hmg fun _ => rfl, ?_, hsrc, rfl⟩
    · rw [Answers, exec_statsPartial, withMsg_of_got hgot, hstat]
    · rw [← hsrc]
      rfl
  · rw [Answers, exec_plaitWaitExpire, State.plaitExpire_idle hidle]
  · have hregs := State.regs_sorted ((Follows.refl s).advance (t := t) |>.sound hsound)
    refine ⟨(s.advance t).plaitCut, ?_, State.plaitCut_regs, State.plaitCut_event hregs, State.plaitCut_cut _⟩
    rw [Answers, exec_plaitWaitExpire, State.plaitExpire_due hlive hweave hdue]

end Sys2Proof.Claims
end

section
/-!
LAWS. Mutations across the weave: PREPARE and COMMIT at a holder, their answers at the head rim, and the settle waits.
-/
namespace Sys2Proof.Machine

theorem exec_prepare (i : Fin 64) (s : State) : exec (.prepare i) s = .next (s.withMsg i.val 0x13 State.onPrepare) := rfl
theorem exec_prepareReply (i : Fin 64) (s : State) : exec (.prepareReply i) s = .next (s.withMsg i.val 0x14 State.onPrepareReply) := rfl
theorem exec_commit (i : Fin 64) (s : State) : exec (.commit i) s = .next (s.withMsg i.val 0x15 State.onCommit) := rfl
theorem exec_applied (i : Fin 64) (s : State) : exec (.applied i) s = .next (s.withMsg i.val 0x16 State.onApplied) := rfl
theorem exec_settled (i : Fin 64) (s : State) : exec (.settled i) s = .next (s.withMsg i.val 0x17 State.onSettled) := rfl

/-! ## PREPARE (R624) -/

theorem State.onPrepare_again {s : State} {m r : Bytes} (h : s.answered? (msgOp m) (msgType m) = some r) :
    s.onPrepare m = s.send 0x14 s.headAddr (msgOp m) r := State.once_answered h

theorem State.onPrepare_unknown {s : State} {m : Bytes} (hfresh : s.answered? (msgOp m) (msgType m) = none)
    (h : s.wshelf? (field (msgBody m) 0 4) = none) :
    s.onPrepare m = s.answer (msgOp m) 0x13 0x14 (leBytes 1 stNoShelf ++ zeros 1 ++ leBytes 2 0) := by
  unfold State.onPrepare
  rw [State.once_fresh hfresh]
  dsimp only
  rw [h]

/-- The records of a PREPARE for a shelf. -/
def prepareRecords (w : WShelf) (b : Bytes) : List Bytes :=
  let size := if field b 4 1 = 0x21 then 8 else w.template.dataRec
  (List.range (field b 6 2)).map (fun k => slice b (8 + size * k) size)

/-- A batch held as tentative where its check is good. -/
def State.held (s : State) (m : Bytes) (w : WShelf) (st : Nat × Nat) : State :=
  s.when (st.1 == stOk) (fun s => s.hold (msgOp m) (field (msgBody m) 0 4) (field (msgBody m) 4 1) (prepareRecords w (msgBody m))
    (unitsOf w.template (field (msgBody m) 4 1) (prepareRecords w (msgBody m)).length))

/-- The reply to a PREPARE: the status of the check, the record it failed at, and the ids present. -/
def prepareReply (st : Nat × Nat) (present : List Bool) : Bytes := leBytes 1 st.1 ++ zeros 1 ++ leBytes 2 st.2 ++ packBits present

theorem State.onPrepare_checked {s : State} {m : Bytes} {w : WShelf} (hfresh : s.answered? (msgOp m) (msgType m) = none)
    (h : s.wshelf? (field (msgBody m) 0 4) = some w) (hno : s.weave.rebuilds = []) {st : Nat × Nat}
    (hst : s.prepareStatus w (field (msgBody m) 4 1) (prepareRecords w (msgBody m)) true = st) :
    s.onPrepare m = (s.held m w st).answer (msgOp m) 0x13 0x14 (prepareReply st ((s.held m w st).presence w (prepareRecords w (msgBody m)))) := by
  unfold State.onPrepare
  rw [State.once_fresh hfresh]
  dsimp only
  rw [h, hno, ← hst]
  rfl

theorem State.held_keeps (s : State) (m : Bytes) (w : WShelf) (st : Nat × Nat) :
    (s.held m w st).regs = s.regs ∧ (s.held m w st).store = s.store :=
  ⟨State.when_keeps (π := State.regs) _ _ fun _ => rfl, State.when_keeps (π := State.store) _ _ fun _ => rfl⟩

theorem State.held_good {s : State} {m : Bytes} {w : WShelf} {st : Nat × Nat} (h : st.1 = stOk) : ∃ z : Tent,
    (s.held m w st).weave.tents = s.weave.tents ++ [z] ∧ z.op = msgOp m ∧ z.records = prepareRecords w (msgBody m) := by
  rw [State.held, h]
  exact ⟨_, rfl, rfl, rfl⟩

theorem State.held_bad {s : State} {m : Bytes} {w : WShelf} {st : Nat × Nat} (h : st.1 ≠ stOk) : (s.held m w st).weave.tents = s.weave.tents := by
  rw [State.held, beq_eq_false_iff_ne.mpr h]
  rfl

theorem prepareReply_head (st : Nat × Nat) (present : List Bool) : (prepareReply st present).head? = some (BitVec.ofNat 8 st.1) := rfl

/-! ## PREPARE_REPLY (R624) -/

theorem State.onPrepareReply_unknown {s : State} {m : Bytes} (h : s.wop? (msgOp m) = none) : s.onPrepareReply m = s := by
  rw [State.onPrepareReply, h]

/-- A prepare with a holder's check noted. -/
def WOp.checked (m : Bytes) (o : WOp) (here : List (Nat × Nat)) (x : WOp) : WOp :=
  { x with
    waiting := x.waiting.filter (fun a => a != msgSrc m)
    worst := if o.worst = 0 then field (msgBody m) 0 1 else o.worst, present := x.present ++ here }

theorem State.onPrepareReply_noted {s : State} {m : Bytes} {o : WOp} (h : s.wop? (msgOp m) = some o) (hkind : o.kind = .prepare)
    (hwait : o.waiting.contains (msgSrc m) = true) :
    ∃ here, s.onPrepareReply m = (s.wopMap (msgOp m) (WOp.checked m o here)).weaveDecide := by
  rw [State.onPrepareReply, h]
  dsimp only
  rw [if_neg (by simp only [hkind, hwait]; decide), State.wop?_id h]
  exact ⟨_, rfl⟩

/-! ## The decision on a batch (R624, R468) -/

theorem State.decideTent_none {s : State} {op : Nat} (d : Option Nat) (h : s.weave.tents.find? (fun t => t.op == op) = none) :
    s.decideTent op d = s := by
  unfold State.decideTent
  rw [h]

theorem State.decideTent_drop {s : State} {op : Nat} {t : Tent} (h : s.weave.tents.find? (fun t => t.op == op) = some t) :
    s.decideTent op none = s.weaveMap (fun w => { w with tents := w.tents.filter (fun x => x.op != op) }) := by
  unfold State.decideTent
  rw [h]

/-- A batch that is aborted is held no more, and nothing else changes. -/
theorem State.decideTent_abort (s : State) (op : Nat) : (s.decideTent op none).weave.tents = s.weave.tents.filter (fun x => x.op != op) ∧
    (s.decideTent op none).regs = s.regs ∧ (s.decideTent op none).store = s.store := by
  cases h : s.weave.tents.find? (fun t => t.op == op) with
  | some t => rw [State.decideTent_drop h]; exact ⟨rfl, rfl, rfl⟩
  | none =>
    rw [State.decideTent_none _ h]
    refine ⟨(List.filter_eq_self.mpr fun x hx => ?_).symm, rfl, rfl⟩
    have hne := List.find?_eq_none.mp h x hx
    simpa using hne

/-- A batch whose commit waits for a slab operation. -/
def Tent.decidedAt (m : Nat) (x : Tent) : Tent := { x with decided := some m }

theorem State.decideTent_commit {s : State} {op m : Nat} {t : Tent} (h : s.weave.tents.find? (fun t => t.op == op) = some t)
    (hno : s.weave.rebuilds = []) : s.decideTent op (some m) =
      if s.tentHeld t then s.weaveMap (fun w => { w with tents := updFirst (fun x => x.op == op) (Tent.decidedAt m) w.tents }) else s.applyTent t m := by
  unfold State.decideTent
  rw [h]
  dsimp only
  rw [hno]
  rfl

/-! ### A batch made visible -/

/-- The registers and the weave: what the commit of records leaves. -/
def State.regsWeave (s : State) : List (Nat × Nat) × Weave := (s.regs, s.weave)

theorem State.regsWeave_shelfMap (s : State) (i : Nat) (f : Shelf → Shelf) : (s.shelfMap i f).regsWeave = s.regsWeave := rfl
theorem State.regsWeave_putEntry (s : State) (e : StgEnt) : (s.putEntry e).regsWeave = s.regsWeave := rfl
theorem State.regsWeave_freeSuperseded (s : State) : s.freeSuperseded.regsWeave = s.regsWeave := rfl

theorem State.regsWeave_supersede (s : State) (e : StgEnt) (m : Nat) : (s.supersede e m).regsWeave = s.regsWeave := by
  unfold State.supersede
  dsimp only
  rw [State.when_keeps (π := State.regsWeave) _ _ State.regsWeave_freeSuperseded, State.regsWeave_shelfMap]
  rfl

theorem State.regsWeave_commitRec (s : State) (shelf cid m : Nat) (settle : Bool) (r : Rec) :
    (s.commitRec shelf cid m settle r).regsWeave = s.regsWeave := by
  unfold State.commitRec
  split
  · rfl
  dsimp only
  split
  · split
    · rw [State.regsWeave_supersede, State.regsWeave_shelfMap]
    · split
      · rw [State.regsWeave_putEntry, State.regsWeave_shelfMap]
      · rw [State.regsWeave_shelfMap]
  · rw [State.regsWeave_putEntry, State.regsWeave_shelfMap]
    split
    · rw [State.regsWeave_supersede, State.regsWeave_shelfMap]
    · split
      · rw [State.regsWeave_putEntry, State.regsWeave_shelfMap]
      · rw [State.regsWeave_shelfMap]

theorem State.regsWeave_commitRecs (s : State) (shelf cid m : Nat) (settle : Bool) (rs : List Rec) :
    (s.commitRecs shelf cid m settle rs).regsWeave = s.regsWeave :=
  State.each_keeps (π := State.regsWeave) rs s fun t r => t.regsWeave_commitRec shelf cid m settle r

/-- A batch that this chip holds as tentative no more, its commit logged. -/
def State.tentLogged (s : State) (t : Tent) (m : Nat) : State :=
  s.weaveMap (fun w => { w with
    tents := w.tents.filter (fun x => x.op != t.op), commitLog := ((t.op, m, t.handle) :: w.commitLog).take 65536 })

/-- The registers, the tentative batches and the log of commits. -/
def State.commits (s : State) : List (Nat × Nat) × List Tent × List (Nat × Nat × Nat) × List Rebuild :=
  (s.regs, s.weave.tents, s.weave.commitLog, s.weave.rebuilds)

theorem State.commits_of_regsWeave {s t : State} (h : t.regsWeave = s.regsWeave) : t.commits = s.commits := by
  have hregs : t.regs = s.regs := congrArg Prod.fst h
  have hweave : t.weave = s.weave := congrArg Prod.snd h
  unfold State.commits
  rw [hregs, hweave]

theorem State.commits_markCommitted (s : State) (handle m : Nat) : (s.markCommitted handle m).commits = s.commits := rfl

/-- A batch made visible beside the log: its records committed, and its entries noted until they have landed. -/
theorem State.commits_applyTent (s : State) (t : Tent) (m : Nat) : (s.applyTent t m).commits = (s.tentLogged t m).commits := by
  unfold State.applyTent
  dsimp only
  split
  · rfl
  · next w _ =>
    rw [State.commits_markCommitted]
    refine Eq.trans (b := ((s.tentLogged t m).each ((s.tentLogged t m).subsOf w t.records) (fun s r => match s.subShelf? t.handle r with
      | none => s
      | some h => s.commitRecs h.index (2 ^ 64 + t.op) m false ((s.recsFor w r t.records).map (recOf h t.opcode)))).commits) rfl ?_
    refine State.each_keeps (π := State.commits) _ _ fun u r => ?_
    split
    · rfl
    · exact State.commits_of_regsWeave (u.regsWeave_commitRecs _ _ _ _ _)

theorem State.decideTent_regs (s : State) (op : Nat) (d : Option Nat) : (s.decideTent op d).regs = s.regs := by
  unfold State.decideTent
  split
  · rfl
  · rfl
  · split
    · rfl
    split
    · rfl
    · exact congrArg Prod.fst (State.commits_applyTent s _ _)

/-! ## COMMIT, APPLIED and SETTLED (R624, R628, R629) -/

/-- The mirror with the entries a COMMIT brings. -/
def State.mirrorTaken (s : State) (b : Bytes) : State :=
  let ents := (((List.range ((b.length - 8) / 32)).map (fun i => slice b (8 + 32 * i) 32)).filter (fun e => e.any (fun x => x != 0))).map mirrorEnt
  let kept := s.weave.mirror.filter (fun e => !(ents.any (fun x => x.seat == e.seat && x.seq == e.seq)))
  s.weaveMap (fun w => { w with mirror := (ents ++ kept).take 262144 })

theorem State.commits_mirrorTaken (s : State) (b : Bytes) : (s.mirrorTaken b).commits = s.commits := rfl

/-- The decision a COMMIT carries: a commit measure, or none for an abort. -/
def commitOf (b : Bytes) : Option Nat := if field b 0 1 = 1 then some (field b 4 4) else none

/-- A COMMIT done: the batch decided, and the mirror taken. -/
def State.commitDone (s : State) (m : Bytes) : State := (s.decideTent (msgOp m) (commitOf (msgBody m))).mirrorTaken (msgBody m)

theorem State.onCommit_again {s : State} {m r : Bytes} (h : s.answered? (msgOp m) (msgType m) = some r) :
    s.onCommit m = s.send 0x16 s.headAddr (msgOp m) r := State.once_answered h

theorem State.onCommit_fresh {s : State} {m : Bytes} (hfresh : s.answered? (msgOp m) (msgType m) = none) :
    s.onCommit m = ((s.commitDone m).answer (msgOp m) 0x15 0x16 (outcomeBody 0 (field (msgBody m) 4 4))).weaveLanded := State.once_fresh hfresh

theorem State.commitDone_regs (s : State) (m : Bytes) : (s.commitDone m).regs = s.regs := State.decideTent_regs s _ _

theorem State.commitDone_abort {s : State} {m : Bytes} (h : field (msgBody m) 0 1 ≠ 1) :
    (s.commitDone m).weave.tents = s.weave.tents.filter (fun x => x.op != msgOp m) ∧ (s.commitDone m).store = s.store := by
  obtain ⟨htents, -, hstore⟩ := s.decideTent_abort (msgOp m)
  rw [State.commitDone, commitOf, if_neg h]
  exact ⟨htents, hstore⟩

section
variable {s : State} {m : Bytes} {z : Tent} (hcommit : field (msgBody m) 0 1 = 1) (hz : s.weave.tents.find? (fun x => x.op == msgOp m) = some z)
  (hno : s.weave.rebuilds = [])
include hcommit hz hno

theorem State.commitDone_waits (hheld : s.tentHeld z = true) : (s.commitDone m).weave.tents =
      updFirst (fun x => x.op == msgOp m) (Tent.decidedAt (field (msgBody m) 4 4)) s.weave.tents ∧ (s.commitDone m).store = s.store := by
  rw [State.commitDone, commitOf, if_pos hcommit, State.decideTent_commit hz hno, if_pos hheld]
  exact ⟨rfl, rfl⟩

theorem State.commitDone_visible (hheld : s.tentHeld z = false) : (s.commitDone m).weave.tents = s.weave.tents.filter (fun x => x.op != msgOp m) ∧
      (s.commitDone m).weave.commitLog.head? = some (msgOp m, field (msgBody m) 4 4, z.handle) := by
  have hop : z.op = msgOp m := by simpa using List.find?_some hz
  have hcommits : (s.commitDone m).commits = (s.tentLogged z (field (msgBody m) 4 4)).commits := by
    rw [State.commitDone, State.commits_mirrorTaken, commitOf, if_pos hcommit, State.decideTent_commit hz hno, hheld,
      if_neg (by decide), State.commits_applyTent]
  simp only [State.commits, Prod.mk.injEq] at hcommits
  obtain ⟨-, htents, hlog, -⟩ := hcommits
  rw [htents, hlog, ← hop]
  exact ⟨rfl, rfl⟩

end

theorem State.onApplied_kept {s : State} {m : Bytes} (h : s.wop? (msgOp m) = none ∨ ∃ o, s.wop? (msgOp m) = some o ∧ o.kind ≠ .commit) :
    s.onApplied m = s := by
  unfold State.onApplied
  obtain h | ⟨o, ho, hkind⟩ := h
  · rw [h]
  · rw [ho]
    exact if_pos hkind

theorem State.wop?_endOp (s : State) (op : Nat) : (s.endOp op).wop? op = none :=
  List.find?_eq_none.mpr fun x hx => by simpa using (List.mem_filter.mp hx).2

/-- An operation that awaits the members left. -/
def WOp.awaiting (x : WOp) (left : List Nat) : WOp := { x with waiting := left }

theorem State.onApplied_noted {s : State} {m : Bytes} {o : WOp} (ho : s.wop? (msgOp m) = some o) (hkind : o.kind = .commit) :
    (s.onApplied m).wop? (msgOp m) = (if o.waiting.filter (fun a => a != msgSrc m) = [] then none
      else some (o.awaiting (o.waiting.filter (fun a => a != msgSrc m)))) ∧ (s.onApplied m).regs = s.regs := by
  have hid := State.wop?_id ho
  unfold State.onApplied
  rw [ho]
  dsimp only
  rw [if_neg (not_not.mpr hkind), hid]
  split
  · exact ⟨State.wop?_endOp s _, rfl⟩
  · exact ⟨(State.wop?_wopMap (f := fun x => x.awaiting (o.waiting.filter (fun a => a != msgSrc m))) fun _ => rfl).trans (congrArg _ ho), rfl⟩

/-- A settle wait with a holder's report noted. -/
def Settle.heard (src : Nat) (x : Settle) : Settle := { x with left := x.left.filter (fun a => a != src) }

theorem State.onSettled_eq (s : State) (m : Bytes) : s.onSettled m =
    (s.weaveMap (fun w => { w with settles := updFirst (fun x => x.op == msgOp m) (Settle.heard (msgSrc m)) w.settles })).weaveSettles := rfl

end Sys2Proof.Machine
end

section
/-!
LAWS. Point reads and remote commands across the weave: what a member makes of them, and what their answers end.
-/
namespace Sys2Proof.Machine

theorem exec_pointRead (i : Fin 64) (s : State) : exec (.pointRead i) s = .next (s.withMsg i.val 0x18 State.onPointRead) := rfl
theorem exec_pointReply (i : Fin 64) (s : State) : exec (.pointReply i) s = .next (s.withMsg i.val 0x19 State.onPointReply) := rfl
theorem exec_remote (i : Fin 64) (s : State) :
    exec (.remote i) s = .next (s.withMsg i.val 0x1A (fun s m => (s.onRemote m).checkRemote (msgOp m))) := rfl
theorem exec_remoteReply (i : Fin 64) (s : State) : exec (.remoteReply i) s = .next (s.withMsg i.val 0x1B State.onRemoteReply) := rfl

/-! ## Commands a chip makes itself -/

/-- A command put on the list under a number that is free is found there. -/
theorem State.cmd?_addCmd {s : State} {c : Cmd} (h : s.cmd? c.cid = none) : (s.addCmd c).cmd? c.cid = some c := by
  refine (List.find?_append (xs := s.host.cmds)).trans ?_
  rw [State.cmd?] at h
  rw [h, Option.none_or, List.find?_cons_of_pos (p := fun x : Cmd => x.cid == c.cid) (beq_self_eq_true _)]

/-! ## Point reads (R627) -/

/-- The command of a POINT_READ. -/
def State.pointCmd (s : State) (m : Bytes) : Cmd :=
  innerCmd s.host.nextCid 0x12 (field (msgBody m) 0 4) 3 (msgOp m) (slice (msgBody m) 4 7 ++ zeros 17)

theorem State.onPointRead_eq (s : State) (m : Bytes) : s.onPointRead m = (s.addCmd (s.pointCmd m)).pointRead (s.pointCmd m) := rfl

theorem State.onPointReply_unknown {s : State} {m : Bytes} (h : s.wop? (msgOp m) = none) : s.onPointReply m = s := by
  rw [State.onPointReply, h]

section
variable {s : State} {m : Bytes} {o : WOp} {c : Cmd} {x : WShelf} (ho : s.wop? (msgOp m) = some o) (hc : s.cmd? o.cid = some c)
include ho hc

section
variable (hx : s.wshelf? o.handle = some x)
include hx

theorem State.onPointReply_failed (h : (msgBody m).all (fun y => y == 0) = true) : s.onPointReply m = (s.endOp o.id).refuse c stHwFault := by
  have hc' : (s.endOp o.id).cmd? o.cid = some c := hc
  have hx' : (s.endOp o.id).wshelf? o.handle = some x := hx
  unfold State.onPointReply
  rw [ho]
  dsimp only
  rw [hc', hx']
  exact if_pos h

theorem State.onPointReply_relayed (h : (msgBody m).all (fun y => y == 0) = false) :
    ∃ n, s.onPointReply m = (s.endOp o.id).pointDone c ((msgBody m).take n) stOk (field (msgBody m) 6 1) ∧ 32 ≤ n := by
  have hc' : (s.endOp o.id).cmd? o.cid = some c := hc
  have hx' : (s.endOp o.id).wshelf? o.handle = some x := hx
  unfold State.onPointReply
  rw [ho]
  dsimp only
  rw [hc', hx']
  exact ⟨_, if_neg (by rw [h]; decide), Nat.le_add_right 32 _⟩

end

/-! ## Remote commands (R606, R650) -/

/-- The reply of a remote command written to the buffer its own names. -/
def State.remoteRelayed (s : State) (m : Bytes) (c : Cmd) : State :=
  s.reply c (bufAddr c.param 24)
    ((msgBody m).take (min (if field (msgBody m) 16 8 = 0 then 32 else (msgBody m).length) (bufLen c.param 24)))

theorem State.onRemoteReply_relayed (hop : c.opcode = 0x58) :
    s.onRemoteReply m = ((s.endOp o.id).remoteRelayed m c).completeOk c (bufAddr c.param 24) 1 := by
  unfold State.onRemoteReply
  rw [ho]
  dsimp only
  rw [hc]
  exact if_pos hop

end

theorem State.onRemoteReply_unknown {s : State} {m : Bytes} (h : s.wop? (msgOp m) = none) : s.onRemoteReply m = s := by
  rw [State.onRemoteReply, h]

theorem State.fevent_weave (s : State) (f : Fld) (seat : Nat) : (s.fevent f seat).weave = s.weave := by
  unfold State.fevent
  split
  · rfl
  · exact State.raise_weave _ _ _

theorem State.post_weave (s : State) (seat addr : Nat) (b : Bytes) (r : Bool) : (s.post seat addr b r).weave = s.weave := by
  unfold State.post
  split
  · rfl
  · exact State.fevent_weave _ _ _

theorem State.reply_weave (s : State) (c : Cmd) (addr : Nat) (b : Bytes) : (s.reply c addr b).weave = s.weave := by
  unfold State.reply
  split
  · rfl
  split
  · rfl
  · have hspend (t : State) (k n : Nat) : (t.spend k n).weave = t.weave := rfl
    rw [State.when_keeps (π := State.weave) _ _ fun t => hspend t _ _, State.post_weave]

theorem State.remoteRelayed_wop? (s : State) (m : Bytes) (c : Cmd) (op : Nat) : (s.remoteRelayed m c).wop? op = s.wop? op := by
  rw [State.wop?, State.wop?, State.remoteRelayed, State.reply_weave]

/-- The command of a REMOTE: its packet, as it came. -/
def State.remoteCmd (s : State) (m : Bytes) : Cmd :=
  let b := msgBody m
  let p := slice b 4 (field b 0 4)
  let h := headerOf p
  { innerCmd s.host.nextCid h.opcode h.shelf 2 (msgOp m) (p.drop 32) with
    tag := h.tag, seq := h.seq, flags := h.flags, operands := b.drop (4 + roundUp (field b 0 4) 16) }

theorem State.onRemote_again {s : State} {m r : Bytes} (h : s.answered? (msgOp m) (msgType m) = some r) :
    s.onRemote m = s.send 0x1B s.headAddr (msgOp m) r := State.once_answered h

theorem State.onRemote_taken {s : State} {m : Bytes} (hfresh : s.answered? (msgOp m) (msgType m) = none)
    (hnew : s.host.cmds.any (fun c => c.origin == 2 && c.ref == msgOp m) = false) {p : Bytes} (hp : slice (msgBody m) 4 (field (msgBody m) 0 4) = p)
    (hcrc : (headerOf p).crc = packetCrc p) (hop : remoteOp (headerOf p).opcode = true)
    (hlen : paramLen (headerOf p).opcode (p.drop 32) (s.shelfOf? (headerOf p).shelf) = some (p.drop 32).length) :
    s.onRemote m = s.addCmd (s.remoteCmd m) := by
  subst hp
  refine (State.once_fresh hfresh).trans ?_
  rw [hnew, if_neg (by decide)]
  refine (if_neg (not_not.mpr hcrc)).trans ((if_neg (by rw [hop]; decide)).trans ((if_neg (not_not.mpr ?_)).trans rfl))
  exact hlen

end Sys2Proof.Machine
end

section
/-!
PROOFS. Mutations across the weave (O54): the rows and the end of a rebuild, and the messages of mutations, point reads and remote commands.
-/
namespace Sys2Proof.Machine

theorem exec_rebuildData (i : Fin 64) (s : State) : exec (.rebuildData i) s = .next (s.withMsg i.val 0x30 State.onRebuildData) := rfl
theorem exec_rebuildEnd (i : Fin 64) (s : State) : exec (.rebuildEnd i) s = .next (s.withMsg i.val 0x31 State.onRebuildEnd) := rfl

/-! ## A row put at the end of a sub-shelf (R110, R648) -/

/-- A sub-shelf with its rows changed and one more row counted. -/
def Shelf.grown (slabs : List Slab) (x : Shelf) : Shelf := { x with slabs := slabs, counted := x.counted + 1 }

/-- A row noted in the shelf and in the directory. -/
def State.rowNoted (s : State) (h : Shelf) (idx : Nat) (slabs : List Slab) (id slab row : Nat) : State :=
  (s.shelfMap idx (Shelf.grown slabs)).dirAdd h id slab row

theorem State.appendRow_eq {s : State} {idx : Nat} {h : Shelf} (r : Row) (hh : s.shelfAt? idx = some h) :
    ∃ slabs slab row, s.appendRow idx r = (s.rowNoted h idx slabs r.id slab row).writeFar h slab row [r] := by
  unfold State.appendRow
  rw [hh]
  exact ⟨_, _, _, rfl⟩

theorem State.shelfAt?_rowNoted {s : State} {idx : Nat} {h : Shelf} (hh : s.shelfAt? idx = some h) (slabs : List Slab) (id slab row : Nat) :
    (s.rowNoted h idx slabs id slab row).shelfAt? idx = some (h.grown slabs) :=
  (find?_updFirst (fun x : Shelf => x.index == idx) (Shelf.grown slabs) s.store.shelves fun _ hx => hx).trans (congrArg _ hh)

theorem State.writeFar_near (s : State) {h : Shelf} (slab row : Nat) (rs : List Row) (hp : h.fullPlace ≠ 2) : s.writeFar h slab row rs = s := if_neg hp

/-- The place of a row in a far store. -/
def Shelf.farPlace (h : Shelf) (slab row : Nat) : Nat := h.farAddr slab (row + 0)

theorem State.writeFar_one (s : State) {h : Shelf} (slab row : Nat) (r : Row) (hp : h.fullPlace = 2) :
    s.writeFar h slab row [r] = s.post h.ownerSeat (h.farPlace slab row) r.record := if_pos hp

theorem State.out_post_of_canPost {s : State} {seat : Nat} (addr : Nat) (b : Bytes) (h : (s.fn seat).canPost = true) :
    ∃ relaxed, (s.post seat addr b).out = s.out ++ [.hostWrite seat addr b relaxed] := by
  rw [State.post, if_pos h]
  exact ⟨_, rfl⟩

/-- A row appended: counted in its shelf, and written to the host where the shelf's rows are far. -/
theorem State.appendRow_grows {s : State} {idx : Nat} {h : Shelf} (r : Row) (hh : s.shelfAt? idx = some h) :
    (∃ h', (s.appendRow idx r).shelfAt? idx = some h' ∧ h'.counted = h.counted + 1) ∧
      (h.fullPlace ≠ 2 → (s.appendRow idx r).regs = s.regs ∧ (s.appendRow idx r).out = s.out) ∧
      (h.fullPlace = 2 → (s.fn h.ownerSeat).canPost = true →
        ∃ a relaxed, (s.appendRow idx r).out = s.out ++ [.hostWrite h.ownerSeat a r.record relaxed]) := by
  obtain ⟨slabs, slab, row, heq⟩ := s.appendRow_eq r hh
  rw [heq]
  refine ⟨⟨h.grown slabs, ?_, rfl⟩, fun hp => ?_, fun hp hcan => ?_⟩
  · rw [State.shelfAt?, State.writeFar_store]
    exact State.shelfAt?_rowNoted hh slabs r.id slab row
  · rw [State.writeFar_near _ _ _ _ hp]
    exact ⟨rfl, rfl⟩
  · rw [State.writeFar_one _ _ _ _ hp]
    exact ⟨_, State.out_post_of_canPost (s := s.rowNoted h idx slabs r.id slab row) _ _ hcan⟩

/-- Staging, the journal, the commands and the weave: what the rows of a rebuild leave. -/
def State.besideRows (s : State) : List StgEnt × List Journal × List Cmd × Weave := (s.store.staging, s.store.journal, s.host.cmds, s.weave)

theorem State.besideRows_post (s : State) (seat addr : Nat) (b : Bytes) (r : Bool) : (s.post seat addr b r).besideRows = s.besideRows := by
  unfold State.besideRows
  rw [State.store_of_besidePosts (s.besidePosts_post seat addr b r), State.post_weave, State.cmds_of_belowErrors (s.belowErrors_post seat addr b r)]

theorem State.besideRows_appendRow (s : State) (idx : Nat) (r : Row) : (s.appendRow idx r).besideRows = s.besideRows := by
  cases hh : s.shelfAt? idx with
  | none => rw [State.appendRow, hh]
  | some h =>
    obtain ⟨slabs, slab, row, heq⟩ := s.appendRow_eq r hh
    rw [heq, State.writeFar]
    split
    · exact (State.each_keeps (π := State.besideRows) _ _ fun t p => t.besideRows_post _ _ _ _).trans rfl
    · rfl

/-! ## REBUILD_DATA and REBUILD_END (R648, R649) -/

/-- The rows of a REBUILD_DATA for a shelf. -/
def rebuildRows (w : WShelf) (b : Bytes) : List Row :=
  let size := 32 + w.template.w + (if w.template.voiced then vecBytes w.template.elemFormat w.template.dim else 0)
  (List.range (field b 6 2)).map (fun i => rebuildRow w.template (slice b (8 + size * i) size))

/-- A row put on the sub-shelf of this chip that holds its id. -/
def State.rowPlaced (w : WShelf) (s : State) (r : Row) : State :=
  match (w.subFor s.self r.id).bind (fun sub => s.subShelf? w.template.handle sub) with
  | some x => s.appendRow x.index r
  | none => s

theorem State.onRebuildData_unknown {s : State} {m : Bytes} (h : s.wshelf? (field (msgBody m) 0 4) = none) : s.onRebuildData m = s := by
  unfold State.onRebuildData
  dsimp only
  rw [h]

theorem State.onRebuildData_known {s : State} {m : Bytes} {w : WShelf} (h : s.wshelf? (field (msgBody m) 0 4) = some w) :
    s.onRebuildData m = s.each (rebuildRows w (msgBody m)) (State.rowPlaced w) := by
  unfold State.onRebuildData
  dsimp only
  rw [h]
  rfl

theorem State.besideRows_rowPlaced (w : WShelf) (s : State) (r : Row) : (s.rowPlaced w r).besideRows = s.besideRows := by
  unfold State.rowPlaced
  split
  · exact s.besideRows_appendRow _ r
  · rfl

theorem State.besideRows_onRebuildData (s : State) (m : Bytes) : (s.onRebuildData m).besideRows = s.besideRows := by
  cases h : s.wshelf? (field (msgBody m) 0 4) with
  | none => rw [State.onRebuildData_unknown h]
  | some w =>
    rw [State.onRebuildData_known h]
    exact State.each_keeps (π := State.besideRows) _ s fun t r => t.besideRows_rowPlaced w r

theorem rebuildRows_one {w : WShelf} {b : Bytes} (h : field b 6 2 = 1) : rebuildRows w b =
    [rebuildRow w.template (slice b 8 (32 + w.template.w + (if w.template.voiced then vecBytes w.template.elemFormat w.template.dim else 0)))] := by
  rw [rebuildRows, h]
  rfl

theorem State.rowPlaced_at {s : State} {w : WShelf} {r : Row} {sub : Nat} {y : Shelf} (hsub : w.subFor s.self r.id = some sub)
    (hy : s.subShelf? w.template.handle sub = some y) : s.rowPlaced w r = s.appendRow y.index r := by
  rw [State.rowPlaced, hsub, Option.bind_some, hy]

theorem State.onRebuildEnd_unknown {s : State} {m : Bytes} (h : s.weave.rebuilds.find? (fun r => r.op == msgOp m) = none) : s.onRebuildEnd m = s := by
  rw [State.onRebuildEnd, h]

/-- A rebuild that waits for some buckets. -/
def Rebuild.awaiting (r : Rebuild) (left : List Nat) : Rebuild := { r with buckets := left }

/-- A rebuild changed. -/
def State.rebuildLeft (s : State) (r : Rebuild) : State :=
  s.weaveMap (fun w => { w with rebuilds := updFirst (fun x => x.op == r.op) (fun _ => r) w.rebuilds })

section
variable {s : State} {m : Bytes} {r : Rebuild} (h : s.weave.rebuilds.find? (fun r => r.op == msgOp m) = some r) {left : List Nat}
  (hleft : r.buckets.filter (fun k => k != field (msgBody m) 4 2) = left)
include h hleft

theorem State.onRebuildEnd_last (hnil : left = []) : s.onRebuildEnd m = (s.rebuildLeft (r.awaiting left)).endRebuild (r.awaiting left) := by
  subst hleft
  unfold State.onRebuildEnd
  rw [h]
  exact if_pos hnil

theorem State.onRebuildEnd_more (hmore : left ≠ []) : s.onRebuildEnd m = s.rebuildLeft (r.awaiting left) := by
  subst hleft
  unfold State.onRebuildEnd
  rw [h]
  exact if_neg hmore

end

theorem State.rebuildLeft_find {s : State} {op : Nat} {r r' : Rebuild} (h : s.weave.rebuilds.find? (fun r => r.op == op) = some r)
    (hop : r'.op = r.op) : (s.rebuildLeft r').weave.rebuilds.find? (fun r => r.op == op) = some r' := by
  have hid : r.op = op := by simpa using List.find?_some h
  have hmatch : ∀ x : Rebuild, (x.op == r'.op) = true → (r'.op == r'.op) = true := fun _ _ => beq_self_eq_true _
  have hfound := find?_updFirst (fun x : Rebuild => x.op == r'.op) (fun _ => r') s.weave.rebuilds hmatch
  rw [hop, hid] at hfound
  rw [State.rebuildLeft, State.weaveMap_weave, hop, hid]
  exact hfound.trans (congrArg _ h)

end Sys2Proof.Machine
end

section
namespace Sys2Proof.Claims
open Sys2Proof Sys2Proof.Machine

/-- Settles O54: what each message does to the batch, the operation, the command or the rebuild it names. -/
theorem mutationsCrossTheWeave : Obligations.MutationsCrossTheWeave := by
  unfold Obligations.MutationsCrossTheWeave
  intro i m s hsound
  refine ⟨fun hgot => ⟨fun r hans => ?_, fun hfresh hnone => ?_, fun x hfresh hx hno => ?_⟩,
    fun hgot => ⟨fun hnone => ?_, fun o ho hkind hwait => ?_⟩,
    fun hgot => ⟨fun r hans _ => ?_, fun hfresh => ?_⟩,
    fun hgot => ⟨fun hnone => ?_, fun o ho hkind => ?_, fun o ho hkind => ?_⟩,
    fun hgot => ?_, fun hgot hfree => ?_,
    fun hgot => ⟨fun hnone => ?_, fun o c x ho hc hx => ?_⟩,
    fun hgot hfree => ⟨fun r hans _ => ?_, fun hfresh hnew hcrc hop hlen => ?_⟩,
    fun hgot => ⟨fun hnone => ?_, fun o c ho hc hop _ => ?_⟩,
    fun hgot hnone => ?_, fun x y h sub hgot hx hcount => ?_, fun hgot => ?_,
    fun hgot => ⟨fun hnone => ?_, fun r hr => ?_⟩⟩
  · rw [Answers, exec_prepare, withMsg_of_got hgot, State.onPrepare_again (s := takenMsg s i.val 0x13) (by rw [msgType_of_got hgot]; exact hans)]
  · rw [Answers, exec_prepare, withMsg_of_got hgot, State.onPrepare_unknown (s := takenMsg s i.val 0x13)
      (by rw [msgType_of_got hgot]; exact hfresh) hnone]
  · have hprep := State.onPrepare_checked (s := takenMsg s i.val 0x13) (by rw [msgType_of_got hgot]; exact hfresh) hx hno rfl
    generalize hst : (takenMsg s i.val 0x13).prepareStatus x (field (msgBody m) 4 1) (prepareRecords x (msgBody m)) true = st at hprep
    generalize ((takenMsg s i.val 0x13).held m x st).presence x (prepareRecords x (msgBody m)) = present at hprep
    obtain ⟨hregs, hstore⟩ := (takenMsg s i.val 0x13).held_keeps m x st
    refine ⟨(takenMsg s i.val 0x13).held m x st, prepareReply st present, ?_, hregs, hstore, ?_, fun hok => ?_, fun hbad => ?_⟩
    · rw [Answers, exec_prepare, withMsg_of_got hgot, hprep]
    · rw [prepareReply_head, ← hst]
      rfl
    · exact State.held_good (s := takenMsg s i.val 0x13) (hst ▸ hok)
    · exact State.held_bad (s := takenMsg s i.val 0x13) (hst ▸ hbad)
  · rw [Answers, exec_prepareReply, withMsg_of_got hgot, State.onPrepareReply_unknown (s := takenMsg s i.val 0x14) hnone]
  · obtain ⟨here, hnoted⟩ := State.onPrepareReply_noted (s := takenMsg s i.val 0x14) ho hkind hwait
    refine ⟨(takenMsg s i.val 0x14).wopMap (msgOp m) (WOp.checked m o here), o.checked m here o, ?_, ?_, rfl, rfl, rfl⟩
    · rw [Answers, exec_prepareReply, withMsg_of_got hgot, hnoted]
    · exact (State.wop?_wopMap (f := WOp.checked m o here) fun _ => rfl).trans (congrArg _ ho)
  · rw [Answers, exec_commit, withMsg_of_got hgot, State.onCommit_again (s := takenMsg s i.val 0x15) (by rw [msgType_of_got hgot]; exact hans)]
  · refine ⟨(takenMsg s i.val 0x15).commitDone m, ?_, State.commitDone_regs _ m, fun habort => State.commitDone_abort habort,
      fun z hcommit hz hno => ⟨fun hheld => State.commitDone_waits (s := takenMsg s i.val 0x15) hcommit hz hno hheld,
        fun hheld => State.commitDone_visible (s := takenMsg s i.val 0x15) hcommit hz hno hheld⟩⟩
    rw [Answers, exec_commit, withMsg_of_got hgot, State.onCommit_fresh (s := takenMsg s i.val 0x15) (by rw [msgType_of_got hgot]; exact hfresh)]
  · rw [Answers, exec_applied, withMsg_of_got hgot, State.onApplied_kept (s := takenMsg s i.val 0x16) (.inl hnone)]
  · obtain ⟨hop, hregs⟩ := State.onApplied_noted (s := takenMsg s i.val 0x16) ho hkind
    refine ⟨(takenMsg s i.val 0x16).onApplied m, ?_, hop, hregs⟩
    rw [Answers, exec_applied, withMsg_of_got hgot]
  · rw [Answers, exec_applied, withMsg_of_got hgot, State.onApplied_kept (s := takenMsg s i.val 0x16) (.inr ⟨o, ho, hkind⟩)]
  · refine ⟨(takenMsg s i.val 0x17).weaveMap (fun w => { w with
      settles := updFirst (fun x => x.op == msgOp m) (Settle.heard (msgSrc m)) w.settles }), ?_, rfl, rfl, fun x hx => ?_⟩
    · rw [Answers, exec_settled, withMsg_of_got hgot, State.onSettled_eq]
    · exact (find?_updFirst (fun x => x.op == msgOp m) (Settle.heard (msgSrc m)) s.weave.settles fun _ h => h).trans (congrArg _ hx)
  · refine ⟨(takenMsg s i.val 0x18).addCmd ((takenMsg s i.val 0x18).pointCmd m), (takenMsg s i.val 0x18).pointCmd m, ?_,
      State.cmd?_addCmd (s := takenMsg s i.val 0x18) hfree, rfl, rfl, rfl, rfl, rfl⟩
    rw [Answers, exec_pointRead, withMsg_of_got hgot, State.onPointRead_eq]
  · rw [Answers, exec_pointReply, withMsg_of_got hgot, State.onPointReply_unknown (s := takenMsg s i.val 0x19) hnone]
  · refine ⟨(takenMsg s i.val 0x19).endOp o.id, ?_, rfl, fun hzero => ?_, fun hdata => ?_⟩
    · rw [State.wop?_id ho, State.wop?_endOp]
    · rw [Answers, exec_pointReply, withMsg_of_got hgot, State.onPointReply_failed (s := takenMsg s i.val 0x19) ho hc hx hzero]
    · obtain ⟨n, hreply, hn⟩ := State.onPointReply_relayed (s := takenMsg s i.val 0x19) ho hc hx hdata
      exact ⟨n, by rw [Answers, exec_pointReply, withMsg_of_got hgot, hreply], hn⟩
  · rw [Answers, exec_remote, withMsg_of_got hgot, State.onRemote_again (s := takenMsg s i.val 0x1A) (by rw [msgType_of_got hgot]; exact hans)]
  · refine ⟨(takenMsg s i.val 0x1A).addCmd ((takenMsg s i.val 0x1A).remoteCmd m), (takenMsg s i.val 0x1A).remoteCmd m, ?_,
      State.cmd?_addCmd (s := takenMsg s i.val 0x1A) hfree, rfl, rfl, rfl, rfl, rfl, rfl⟩
    rw [Answers, exec_remote, withMsg_of_got hgot, State.onRemote_taken (s := takenMsg s i.val 0x1A) (by rw [msgType_of_got hgot]; exact hfresh)
      hnew rfl hcrc hop hlen]
  · rw [Answers, exec_remoteReply, withMsg_of_got hgot, State.onRemoteReply_unknown (s := takenMsg s i.val 0x1B) hnone]
  · refine ⟨((takenMsg s i.val 0x1B).endOp o.id).remoteRelayed m c, ?_, ?_, State.completeOk_cmd? _ c _ _⟩
    · rw [Answers, exec_remoteReply, withMsg_of_got hgot, State.onRemoteReply_relayed (s := takenMsg s i.val 0x1B) ho hc hop]
    · rw [State.remoteRelayed_wop?, State.wop?_id ho, State.wop?_endOp]
  · rw [Answers, exec_rebuildData, withMsg_of_got hgot, State.onRebuildData_unknown (s := takenMsg s i.val 0x30) hnone]
  · intro size r hsub hy hh
    obtain ⟨⟨h', hfound, hcounted⟩, hnear, hfar⟩ := State.appendRow_grows (s := takenMsg s i.val 0x30) r hh
    refine ⟨(takenMsg s i.val 0x30).appendRow y.index r, h', ?_, hfound, hcounted, hnear, hfar⟩
    rw [Answers, exec_rebuildData, withMsg_of_got hgot, State.onRebuildData_known (s := takenMsg s i.val 0x30) hx, rebuildRows_one hcount]
    exact congrArg _ (State.rowPlaced_at (s := takenMsg s i.val 0x30) hsub hy)
  · have hkept := (takenMsg s i.val 0x30).besideRows_onRebuildData m
    simp only [State.besideRows, Prod.mk.injEq] at hkept
    obtain ⟨hstaging, hjournal, hcmds, hweave⟩ := hkept
    refine ⟨(takenMsg s i.val 0x30).onRebuildData m, ?_, hstaging, hjournal, hcmds, (congrArg Weave.tents hweave :)⟩
    rw [Answers, exec_rebuildData, withMsg_of_got hgot]
  · rw [Answers, exec_rebuildEnd, withMsg_of_got hgot, State.onRebuildEnd_unknown (s := takenMsg s i.val 0x31) hnone]
  · refine ⟨(takenMsg s i.val 0x31).rebuildLeft (r.awaiting (r.buckets.filter (fun k => k != field (msgBody m) 4 2))),
      State.rebuildLeft_find (s := takenMsg s i.val 0x31) hr rfl, rfl, fun hnil => ?_, fun hmore => ?_⟩
    · rw [Answers, exec_rebuildEnd, withMsg_of_got hgot, State.onRebuildEnd_last (s := takenMsg s i.val 0x31) hr rfl hnil]
      rfl
    · rw [Answers, exec_rebuildEnd, withMsg_of_got hgot, State.onRebuildEnd_more (s := takenMsg s i.val 0x31) hr rfl hmore]

end Sys2Proof.Claims
end
